-- ==== Sys2Proof/Word.lean ====
section
/-!
DEFINITION. Plain arithmetic on field values: saturation, wrap, two's complement, byte order.
A register or record field is held as the natural number its bits spell; a register read whole is a `BitVec 64`.
-/

namespace Sys2Proof

/-- A register or a bus word (R10: every register is 64 bits wide). -/
abbrev Word := BitVec 64

/-- One byte. -/
abbrev Byte := BitVec 8

/-- The largest value of `w` bits. -/
def maxOf (w : Nat) : Nat := 2 ^ w - 1

/-- `a + b` in `w` bits, saturating (a counter the spec calls saturating). -/
def satAdd (w a b : Nat) : Nat := min (a + b) (maxOf w)

/-- `a + b` in `w` bits, wrapping. -/
def wrapAdd (w a b : Nat) : Nat := (a + b) % 2 ^ w

/-- `a - b` modulo `2 ^ w`. -/
def wrapSub (w a b : Nat) : Nat := (a + 2 ^ w - b % 2 ^ w) % 2 ^ w

/-- The two's complement reading of `w` bits. -/
def toSigned (w v : Nat) : Int := if v < 2 ^ (w - 1) then (v : Int) else (v : Int) - (2 : Int) ^ w

/-- The `w` bits of the two's complement of `i`. -/
def ofSigned (w : Nat) (i : Int) : Nat := (i % (2 : Int) ^ w).toNat

/-- Bits `lsb` to `lsb + w - 1` of `v`. -/
def bits (v lsb w : Nat) : Nat := v / 2 ^ lsb % 2 ^ w

/-- Bit `k` of `v`. -/
def bitAt (v k : Nat) : Bool := v / 2 ^ k % 2 == 1

/-- `v` with bit `k` set. -/
def setBit (v k : Nat) : Nat := if bitAt v k then v else v + 2 ^ k

/-- `v` with bit `k` cleared. -/
def clearBit (v k : Nat) : Nat := if bitAt v k then v - 2 ^ k else v

/-- `true` as 1. -/
def ofBool (b : Bool) : Nat := if b then 1 else 0

/-- The little-endian value of a list of bytes held as naturals. -/
def leValue : List Nat → Nat
  | [] => 0
  | b :: bs => b % 256 + 256 * leValue bs

/-- The `n` little-endian bytes of `v`. -/
def leBytes : Nat → Nat → List Nat
  | 0, _ => []
  | n + 1, v => v % 256 :: leBytes n (v / 256)

end Sys2Proof
end

