-- ==== Sys2Proof/Syntax.lean ====
section
/-!
DEFINITION. The commands of the block, one constructor per row of the operation table, and the data they carry.
A command brings what the part would observe or be told: a bus access, a received burst, frame, block or message, a measurement, an elapsed time.
The part's own records that commands share with the state (burst contexts, frames, messages) are declared here too.
-/

namespace Sys2Proof

/-! ### Who asks, and which unit -/

/-- Who makes a register access (R61, R62, R342). -/
inductive Requester where
  | host
  /-- An extension task of a die's Tweed core, by its number. -/
  | task (die task : Nat)
  /-- The Tweed firmware of a die. -/
  | tweed (die : Nat)
  | debug
  deriving DecidableEq, Repr

/-- A unit that enable requests switch (R38); `die` is a segment die under R405. Numbers are package-wide: lane 4d + l, die link 8d + j, channel 16,384d + s. -/
inductive UnitId where
  | tree (t : Nat)
  | lane (l : Nat)
  | dieLink (k : Nat)
  | channel (c : Nat)
  | die (d : Nat)
  deriving DecidableEq, Repr

/-- A unit with a pattern generator, checker and injector: a tree (R87), or unit `u` of FAB_PAT_CTRL on a die (R306). -/
inductive PatUnit where
  | tree (t : Nat)
  | fab (die u : Nat)
  deriving DecidableEq, Repr

/-- An instant of network time: seconds and units of 2^-16 ns (R309, R310). -/
structure NetTime where
  sec : Nat := 0
  frac : Nat := 0
  deriving DecidableEq, Repr

/-! ### Maps, bursts and messages of the tree side -/

/-- A burst context (Table 3.6). `checkOk` says whether CHECK matches the bytes. -/
structure BurstCtx where
  start : Nat
  frame : Nat
  grantIndex : Nat
  terminal : Nat
  fec : Bool
  statusReport : Bool
  ploam : Bool
  ranging : Bool
  noLearn : Bool
  allocation : Nat
  rate : Nat
  gain : Nat
  preamble : Nat
  window : Nat
  length : Nat
  initTh : List Nat
  eq : List Nat
  /-- The delimiter of the burst profile that the map names (R98, R103): no byte of Table 3.6, the slice has it with the map's profiles (R95). -/
  delim : Nat := 0
  checkOk : Bool := true
  deriving DecidableEq, Repr

/-- The kinds of PLOAM message that the spec names (R94, R119, R123, R128, R134, R135, R136, R415, R416); `other` is any other type of the recommendation. -/
inductive PloamKind where
  | chiffonParams | chiffonInvite | chiffonHold | terminalIndex | assignOnuId | assignAllocId | rangingTime | deactivate
  /-- The message by which G.9804.2 conveys a pre-assigned delay (R117). -/
  | preAssignedDelay
  | other (type : Nat)
  deriving DecidableEq, Repr

/-- A PLOAM message: kind, addressed ONU-ID and content bytes; `joined`: it goes in the frame of the message before it (R135, R416). -/
structure Ploam where
  kind : PloamKind
  onuId : Nat
  content : List Nat
  joined : Bool := false
  deriving DecidableEq, Repr

/-- The steps that Tweed times to a frame (R132, Table 5.5). -/
inductive RngStep where
  | chiffonParams | chiffonInvite | chiffonHold
  /-- Assign_ONU-ID, with the messages of its frame (R135, R416). -/
  | assignOnuId
  | assignAllocId | rangingTime | rangingGrant | deactivate
  deriving DecidableEq, Repr

/-- What a grant of a map is for (R117, R128, R119, R151). -/
inductive GrantKind where
  | data | quiet | microWindow | ranging
  deriving DecidableEq, Repr

/-- One allocation structure of a map (Table 6.4) with the allocation it serves. -/
structure Grant where
  allocId : Nat := 0
  allocation : Nat := 0
  terminal : Nat := 0
  start : Nat := 0
  units : Nat := 0
  profile : Nat := 0
  dbru : Bool := false
  ploam : Bool := false
  continued : Bool := false
  kind : GrantKind := .data
  deriving DecidableEq, Repr

/-- The map of one set for one frame (R22, R23), with the burst contexts that go with it. -/
structure Map where
  frame : Nat := 0
  grants : List Grant := []
  bursts : List BurstCtx := []
  empty : Bool := false
  /-- The four burst profiles as latched at the build (R95), in the form of Table 4.4. -/
  profiles : List Nat := []
  deriving DecidableEq, Repr

/-- What a search of a micro-window or a directed ranging grant yields (R119, R130): the drift of the best candidate in Twill symbols, with the serial number of
its Serial_Number_ONU message where one decoded with a correct stamp; nothing; or a window that the part left unreceived. -/
inductive RangeResult where
  | found (drift : Int) (serial : Option Nat)
  | nothing
  | lostByPart
  deriving DecidableEq, Repr

/-! ### Frames -/

/-- A header of a header vector (Table 8.3). -/
structure Hdr where
  type : Nat
  offset : Nat
  length : Nat
  deriving DecidableEq, Repr

/-- The stream and sequence of a protection sequence tag (Table 14.8), and the upstream inputs they come from. -/
structure SeqTag where
  stream : Nat
  seq : Nat
  deriving DecidableEq, Repr

/-- A customer frame inside the part, from destination address through FCS: its bytes as far as the part reads them, its length,
and the metadata of Table 8.2 and of the later steps. -/
structure Frame where
  bytes : List Nat := []
  length : Nat := 0
  up : Bool := false
  domain : Nat := 0
  tree : Nat := 0
  set : Nat := 0
  linePort : Nat := 0
  service : Nat := 0
  lane : Nat := 0
  macsec : Bool := false
  terminal : Nat := 0
  malformed : Nat := 0
  /-- Parse profile of its entry (R187), used for its exact key (R194). -/
  profile : Nat := 0
  headers : List Hdr := []
  field : List Nat := []
  tc : Nat := 0
  colour : Nat := 0
  /-- Protection sequence tag: received downstream (R332), to be inserted upstream (R330). -/
  tag : Option SeqTag := none
  /-- A tag failure found after plaintext left: the frame ends with a discard marking (R271). -/
  marked : Bool := false
  /-- The traffic-manager queue, its cells, whether they lie in DRAM, and the enqueue time in ns (R229, R230, R239). -/
  queue : Nat := 0
  cells : Nat := 0
  dram : Bool := false
  enq : Nat := 0
  /-- The domain under which its cells were written (R270), and the cells themselves: index in the die's stack and ciphertext (R269). -/
  cellDomain : Nat := 0
  stored : List (Nat × List Nat) := []
  /-- A cell of it is uncorrectable (1) or in a retired channel (2) (R286, R290). -/
  damage : Nat := 0
  /-- It passed through the Felt hold store. -/
  felt : Bool := false
  /-- A circuit-emulation packet (R180): sent in a cell of the circuit type on a Kolkan lane. -/
  circuit : Bool := false
  deriving DecidableEq, Repr


/-! ### What a fabric lane receives -/

/-- How the tag of a received frame verified (R27, R271): well, badly before any of its plaintext left, or badly after. -/
inductive TagResult where
  | ok | bad | badLate
  deriving DecidableEq, Repr

/-- The SecTAG of a received frame: association number, SCI if it carries one, packet number as recovered, and the tag's verdict. -/
structure SecTag where
  an : Nat
  sci : Option Nat
  pn : Nat
  /-- The SCB and E bits of the TCI (R264). -/
  scb : Bool
  e : Bool
  result : TagResult
  deriving DecidableEq, Repr

/-- A PTP message on a fabric lane that Table 13.7 timestamps: messageType and sequenceId. -/
structure PtpMsg where
  type : Nat
  seqId : Nat
  deriving DecidableEq, Repr

/-! ### What a burst receiver observes -/

/-- One upstream XGEM frame of a burst: Port-ID, Key Index, the verdict on its tag, its LF bit, and its payload once decrypted (R259, R331). -/
structure UpXgem where
  portId : Nat
  keyIndex : Nat
  tag : TagResult
  lf : Bool
  bytes : List Nat
  /-- Bytes that the core has taken from the upstream boundary FIFO since the frame before it; all of them where none is given (R24, R25). -/
  taken : Option Nat := none
  deriving DecidableEq, Repr

/-- What the receiver observes of a granted burst. Samples are codes of the converter, one for each symbol (R81). -/
structure Burst where
  /-- The samples of the last 64 preamble symbols (R81). -/
  pre : List Nat := []
  /-- The samples from the first position that the search examines (R100): the search window's half-width before the due position. -/
  samples : List Nat := []
  /-- Received power over the preamble: v means -v/100 dBm (Table 3.14). -/
  power : Nat := 4095
  /-- Codewords decoded, their bits as sent on a standard set, bits corrected, codewords not correctable (Table 4.18). -/
  codewords : Nat := 0
  codedBits : Nat := 0
  corrected : Nat := 0
  uncorrectable : Nat := 0
  /-- The line bits of the FS burst, corrected and encoded again, as they came scrambled (R124). -/
  line : List Bool := []
  /-- Units of each allocation of the burst and how many of them carried nothing (R149). -/
  idle : List (Nat × Nat × Nat) := []
  /-- The XGEM frames of the burst; the first one behind an uncorrectable codeword (R331). -/
  items : List UpXgem := []
  unsureFrom : Option Nat := none
  /-- PLOAM messages of the burst, and the serial number of a Serial_Number_ONU among them (R119, R130). -/
  ploam : List Ploam := []
  serial : Option Nat := none
  deriving DecidableEq, Repr

/-! ### Kolkan blocks -/

/-- A CAP block (Table 13.3): sender's device and lane, VERSION, PRECODE, TIME_CAPABLE, SEEN, and the initial credits of classes 0 to 7. -/
structure Cap where
  device : Nat
  lane : Nat
  version : Nat
  precode : Bool := false
  timeCapable : Bool := false
  seen : Bool
  credits : List Nat
  deriving DecidableEq, Repr

/-- A block or codeword that comes wrong (R296, R298): a control block, its 128 payload bits and whether the bits of its class can be read; an invalid
header; a codeword with wrong symbols, as the precoded values 0 to 3 of its 2,200 symbols, with whether it begins with a comma and the value
before it. The last two name the classes that had a cell in the codeword. -/
inductive BadBlock where
  | control (payload : Nat) (readable : Bool)
  | header (classes : List Nat)
  | codeword (comma : Bool) (before : Nat) (symbols : List Nat) (classes : List Nat)
  deriving DecidableEq, Repr

/-- A message of a Kolkan OAM cell on its way to the host (R302, R389): the lane, the sender as SRC codes it, and its payload. -/
structure OamMsg where
  lane : Nat
  src : Nat
  bytes : List Nat
  deriving DecidableEq, Repr

/-! ### The stacked DRAM -/

/-- A request of a requester (Table 12.3) to a word of a channel: its place in the channel (Table 12.1), the customer domain it is for, when it came, in ns,
and until when it waits as a throttled activation (R284; 0 while it has not begun to). -/
structure MemReq where
  write : Bool
  bank : Nat
  row : Nat
  cell : Nat
  word : Nat
  requester : Nat
  domain : Nat
  came : Nat
  hold : Nat := 0
  deriving DecidableEq, Repr

/-- What happens at a channel within a refresh interval (R279, R280, R282): a request comes, or a command slot at an instant, in ns. -/
inductive ChanEvent where
  | arrives (r : MemReq)
  | slot (now : Nat)
  deriving DecidableEq, Repr

/-- What a cell belongs to that is lost or damaged (Tables 12.5, 12.7): a forwarding bucket, the frame at a place of a queue or of a port's Felt
FIFO, a circuit's container in a group frame held for alignment, bytes of the trace region at a device-memory offset, or none of these. -/
inductive CellOwner where
  | none
  | bucket (b : Nat)
  | queued (up : Bool) (queue place : Nat)
  | felt (port place : Nat)
  | container (circuit gseq : Nat)
  | trace (offset : Nat)
  deriving DecidableEq, Repr

/-- Training of a channel (R289): it begins; it ends with an eye margin in percent of a unit interval; or no setting passes. -/
inductive Training where
  | begins
  | ends (margin : Nat)
  | fails
  deriving DecidableEq, Repr

/-! ### What a protection pair's messages carry -/

/-- A TERMINAL record (Table 14.5): SET and METHOD as their bits. -/
structure TermRecord where
  tree : Nat
  terminal : Nat
  state : Nat
  set : Bool
  method : Bool
  onuId : Nat
  eqd : Nat
  serial : Nat
  deriving DecidableEq, Repr

/-- A CIRCUIT record (Table 14.6). -/
structure CircRecord where
  circuit : Nat
  seqNext : Nat
  gseq : Nat
  offset : Nat
  seqLast : Nat
  deriving DecidableEq, Repr

/-! ### What a Tweed core's firmware has come to -/

/-- The registers of a Tweed core that entry and exit move (Table 15.5): PC, status word, r1 to r8, and the argument register a0. -/
structure CoreRegs where
  pc : Nat := 0
  status : Nat := 0
  r : List Nat := List.replicate 8 0
  a0 : Nat := 0
  deriving DecidableEq, Repr

/-- Where the firmware's own instructions have brought its core (log entry 27): registers, THRESHOLD and MASK. -/
structure FwState where
  regs : CoreRegs
  threshold : Nat
  mask : Bool
  deriving DecidableEq, Repr

/-! ### Counters and telemetry -/

/-- What a tagged frame's trace record holds beside GAP and SEQ (Table 16.3); `stages` gives the offset of each stage in ns, none where it was not reached. -/
structure TraceRec where
  tIngress : Nat
  up : Bool
  dropped : Bool
  cutThrough : Bool
  felt : Bool
  crossed : Bool
  dropStage : Nat
  domain : Nat
  length : Nat
  tree : Nat
  cls : Nat
  colour : Nat
  linePort : Nat
  lane : Nat
  ingressDie : Nat
  exitDie : Nat
  queue : Nat
  upQueue : Bool
  stages : List (Option Nat)
  deriving DecidableEq, Repr

/-- Whose uncorrectable SRAM word a scrub found (Table 16.7). Trees, queues, slots and the like are numbered within the die. -/
inductive SramOwner where
  | allocation (tree index : Nat)
  | burst (tree set place : Nat)
  | circuit (index : Nat)
  | queue (up : Bool) (index : Nat)
  | node (up : Bool) (index : Nat)
  | cacheWay (bucket : Nat)
  | meter (index : Nat)
  | counter (index : Nat)
  | keySlot (index : Nat)
  | association (index : Nat)
  | learned (tree terminal : Nat)
  | expressCell (up : Bool) (queue place : Nat)
  | tweedSram
  /-- An array that Table 16.7 does not name. -/
  | other
  deriving DecidableEq, Repr

/-- What an MRAM scrub finds (R378): a word that it corrects, or an uncorrectable one in a slot or in a record, by page and place. -/
inductive MramFlaw where
  | corrected
  | slot (k : Nat)
  | record (page place : Nat)
  deriving DecidableEq, Repr

/-! ### The host side -/

/-- A DMA descriptor (Table 17.4) as the host wrote it. -/
structure DmaDesc where
  kind : Nat
  flags : Nat
  arg : Nat
  length : Nat
  hostAddr : Nat
  devAddr : Nat
  deriving DecidableEq, Repr

/-- The descriptor that a failed host memory access ends (R388): one just fetched, or the one at a place among those in flight. -/
inductive DmaFail where
  | fetched (x : DmaDesc)
  | inFlight (place : Nat)
  deriving DecidableEq, Repr

/-- A message for a receive channel (R389): an OMCI message of a terminal, or the oldest OAM cell that waits. -/
inductive RxMessage where
  | omci (tree terminal : Nat) (bytes : List Nat)
  | oam
  deriving DecidableEq, Repr

end Sys2Proof

namespace Sys2Proof.Machine

/-- A forwarding entry (Table 9.1): KEY (bytes 4 to 23) and RESULT (bytes 24 to 47) as little-endian numbers.
`damage` 1: the primary copy fails CHECK or ECC; 2: both copies do (R222). -/
structure FwdEntry where
  type : Nat := 0
  static : Bool := false
  pin : Bool := false
  touched : Bool := false
  age : Nat := 0
  domain : Nat := 0
  key : Nat := 0
  result : Nat := 0
  lastSeq : Nat := 0
  damage : Nat := 0
  deriving DecidableEq, Repr

end Sys2Proof.Machine

namespace Sys2Proof

/-! ### The commands -/

/-- The rows of the operation table, in its order. Trees, lanes (4d + l) and circuits (1,024d + c) are numbered package-wide; a set is 0 for the 50G-class
set and 1 for the XGS-PON set; `tied` says that another command on the same item is in progress, ordered against this one (R26). -/
inductive Instr where
  /-- A write of `size` bytes at a BAR0 offset. `during`: the operation that an earlier write of the same register asked for still runs (log entry 15). -/
  | registerWrite (who : Requester) (off size : Nat) (value : Word) (during : Bool := false)
  /-- An access to BAR0 that reaches no register. -/
  | unmappedAccess (who : Requester) (off size : Nat) (write : Bool)
  /-- A read of BAR0. -/
  | shadowRead (who : Requester) (off size : Nat)
  | timeNowRead (who : Requester) (size : Nat)
  | unitEnableRequest (unit : UnitId) (on : Bool)
  | unitPhaseDone (unit : UnitId)
  /-- Second `sec` begins. -/
  | secondLatch (sec : Nat)
  | tableUpdateApply (die : Nat)
  | orderStall (die : Nat)
  /-- The frame starts at instant `at0`. -/
  | downstreamFrameStart (tree set : Nat) (at0 : NetTime)
  | lateMap (tree set : Nat)
  | ploamRingSample (tree set : Nat)
  /-- `come` is how many bytes of the frame being sent had come into the boundary FIFO when it ran empty. -/
  | dsUnderrun (tree set come : Nat)
  | stageBegin (slot : Nat)
  | stageEnd
  | select (slot : Nat) (trial : Bool)
  | confirm
  | weave
  | weaveDone (die : Nat)
  | treeReweave (tree slot : Nat)
  | reweaveSectionsLoaded
  | reweaveComplete
  | dmkStageData (offset : Nat) (bytes : List Nat)
  | mramRecordCommit (die : Nat)
  | pageReclaim (die : Nat)
  | recordRotation (die : Nat)
  /-- The bits of SEC_LOCK written as 1. -/
  | secLockSet (mask : Nat)
  | dbgNonceRequest
  /-- `own`: what came through the debug port's own register; `elapsed`: ms since WAIT_MS was last set. -/
  | dbgPasswordAttempt (own : Option (List Nat)) (elapsed : Nat)
  | dbgSignedAttempt (own : Option (List Nat)) (elapsed : Nat)
  | dbgSetPassword (own : Option (List Nat))
  | nonceExpiry
  | opticsStart (tree : Nat)
  | opticsLit (tree : Nat)
  | txDarkAtShutdown (tree : Nat)
  | laserPark (tree : Nat)
  | txCalibration (tree set : Nat)
  | laserAgeingCheck (tree set : Nat)
  | txMuteSet (tree : Nat)
  | txMuteClear (tree : Nat)
  | txLol (tree set : Nat)
  | txRelock (tree set : Nat)
  | contextSwap (tree set : Nat)
  | burstReceive (tree set : Nat) (burst : Burst)
  /-- `samples`: the receiver's sample stream over the frame, one for each symbol, as the ranging logic of a Twill set gets it (R124). -/
  | upstreamFrameEnd (tree set : Nat) (samples : List Nat)
  | rxLol (tree set : Nat)
  | rxLolClear (tree set : Nat)
  | rxTermClear (tree terminal : Nat)
  /-- Line bits since the injector's last error, and the place among the line bits of the running frame where this one falls. -/
  | errorInject (unit : PatUnit) (passed place : Nat)
  | oneShotInject (unit : PatUnit) (place : Nat)
  /-- Bits examined, in order, each with whether it agrees with the check pattern; the terminal from whose burst they come, on a tree that carries
  traffic. -/
  | patternCheckerLock (unit : PatUnit) (terminal : Option Nat) (good : List Bool)
  | optTxRefresh (tree set power bias wave temp : Nat)
  | quietWindowOpen (tree set : Nat)
  | quietForce (tree : Nat)
  /-- A serial-number burst: symbols from the window's start to its first preamble symbol, the random delay that its message reports (slots on Twill, the
  recommendation's units on a standard set), and its serial number. -/
  | serialNumberFound (tree set : Nat) (arrival : Int) (delay serial : Nat)
  | rangingGrantResult (tree terminal : Nat)
  | chiffonParams (tree : Nat)
  /-- A code and a lag in half-chips from the start of the upstream frame, as the correlators reach them, and how many of the last frames they sum. -/
  | signatureDetection (tree code : Nat) (lag : Int) (frames : Nat)
  /-- The detection's place and the micro-window's frame. -/
  | chiffonInvite (tree place frame : Nat)
  | microWindowResult (tree place : Nat)
  | admitWaitExpiry (tree terminal : Nat)
  | chiffonHold (tree terminal : Nat)
  | assignOnuId (tree terminal : Nat)
  | assignAllocId (tree allocation : Nat)
  /-- The step, and the terminal it is for: none for Chiffon_Params. -/
  | stepMissed (tree : Nat) (terminal : Option Nat) (step : RngStep)
  | driftCorrection (tree terminal : Nat)
  | terminalLost (tree terminal : Nat)
  | admitTerminal (tree terminal onuId : Nat)
  | deny (tree terminal : Nat)
  | rerange (tree terminal : Nat)
  | deactivate (tree terminal : Nat)
  | free (tree terminal : Nat)
  /-- The time the build takes, and the terminals flagged for an upstream PLOAM message. -/
  | mapBuild (tree set buildNs : Nat) (flagged : List Nat)
  /-- BACKLOG in 1/256 grant unit, and the upstream frame of the report. -/
  | statusReportDecode (tree allocation backlog frame : Nat)
  | contextRingWrite (tree set : Nat)
  | grantAccRead (die target tree index list : Nat)
  | grantAccWrite (die target tree index list : Nat)
  | writeReset (die target tree index : Nat)
  | gateBankSwap (die list : Nat)
  | resvMicroWindow (tree set onuId frameLow : Nat)
  | resvRangingGrant (tree set onuId frameLow units profile : Nat)
  | resvQuietWindow (tree set frameLow : Nat)
  | containerBuild (circuit : Nat)
  | containerMissing (circuit : Nat)
  | cePacketReceive (die : Nat)
  /-- The containers that have come on the circuit's line port in one upstream frame. -/
  | containerReceive (circuit : Nat)
  | groupRelease (die group : Nat)
  | circAccRead (die : Nat) (group : Bool) (index : Nat)
  | circAccWrite (die : Nat) (group : Bool) (index : Nat)
  | circuitEnable (die index : Nat)
  | circuitDisable (die index : Nat)
  | fabricFrameReceive (lane : Nat) (bytes : List Nat) (sec : Option SecTag)
  | frameAdmit (die : Nat)
  | queueRelease (die : Nat) (up : Bool) (port : Nat)
  | fabricFrameTransmit (lane cls : Nat) (ptp : Option PtpMsg)
  | feltRelease (die port : Nat)
  | portHoldCause (die port cause : Nat)
  | portResume (die port : Nat)
  | portAvailable (die port : Nat)
  | tmSampleWindow (die : Nat)
  | tmAccRead (die target index : Nat)
  | tmAccWrite (die target index : Nat)
  | classRuleRead (die : Nat) (ternary : Bool) (index : Nat)
  | ternaryWrite (die index : Nat)
  | exactInsert (die : Nat)
  | exactReplace (die : Nat)
  | exactDelete (die : Nat)
  | meterRead (die meter : Nat)
  | meterWrite (die meter : Nat) (keep : Bool)
  /-- The DMA channel, the request record's address in host memory, and what the record carries. -/
  | tableInsert (chan addr : Nat) (entry : Machine.FwdEntry) (expect : Option Nat) (tied : Bool)
  | tableReplace (chan addr : Nat) (entry : Machine.FwdEntry) (expect : Option Nat) (tied : Bool)
  | tableDelete (chan addr : Nat) (entry : Machine.FwdEntry) (expect : Option Nat) (tied : Bool)
  | tableLock (chan addr bucket : Nat) (second : Option Nat)
  | tableUnlock (chan addr : Nat)
  | writeSlot (chan addr bucket slot : Nat) (entry : Machine.FwdEntry) (expect : Option Nat)
  | ageBucket
  | lockExpiry (chan : Nat)
  /-- By the host through CIPH_KEY_CMD, else by Tweed; a tree key slot or an association. -/
  | keyLoad (host : Bool) (die : Nat) (assoc : Bool) (index : Nat) (wrapped : Bool) (kek : Nat) (tied : Bool)
  | keyErase (host : Bool) (die : Nat) (assoc : Bool) (index : Nat) (tied : Bool)
  | keySwitch (host : Bool) (die localTree linePort : Nat) (tied : Bool)
  | keyRead (host : Bool) (die : Nat) (assoc : Bool) (index : Nat) (tied : Bool)
  | kekLoad (host : Bool) (die kek : Nat)
  | switchCheck
  | keyExpiry (die slot : Nat)
  | starvedResume (tree linePort : Nat)
  | lpBindWrite (tree linePort keyPair : Nat) (encrypt : Bool) (txSc : Nat)
  | msecRead (die : Nat) (assoc : Bool) (index : Nat)
  | msecChannelWrite (die channel : Nat)
  | arm (die association : Nat)
  | refreshInterval (die channel : Nat) (events : List ChanEvent)
  | stackTempCrossing (die channel temp : Nat)
  | stackThermalResponse (die temp : Nat)
  /-- `cool`: seconds below the restart temperature. -/
  | stackRestart (die cool : Nat)
  | rowDisturb (die channel bank row requester domain : Nat)
  | throttleEnd (die requester channel : Nat)
  /-- A device-memory offset, the requester that read it, and what the word belongs to. -/
  | eccCorrect (die offset requester : Nat) (correctable : Bool) (owner : CellOwner)
  /-- The age of the oldest cell's last scrub, in s. -/
  | patrolScrub (die age : Nat)
  | channelRetune (die channel : Nat) (training : Training)
  | channelRetrain (die channel : Nat) (training : Training) (lost : List CellOwner)
  | channelRetire (die channel : Nat) (lost : List CellOwner)
  | memRetrain (die channel : Nat)
  | memRetire (die channel : Nat) (lost : List CellOwner)
  | memRestart (die cool : Nat)
  | laneOn (lane : Nat)
  | laneFail (lane : Nat) (los cdrLock : Bool)
  | commaLock (lane : Nat) (block : List Bool)
  | kolkanCellReceive (lane header : Nat) (payload : List Nat)
  | controlBlockBad (lane : Nat) (block : BadBlock)
  | flow (lane : Nat) (credits : List Nat)
  | abort (lane cls : Nat)
  | creditStall (lane cls : Nat)
  | status (lane : Nat) (pathOk rxOk : Bool)
  | statusTimeout (lane : Nat)
  | statusSend (lane : Nat)
  | cap (lane : Nat) (block : Cap)
  /-- A TIME block that left the partner at `tx` and came at `rx`; the answer leaves `turn` ns later. -/
  | time (lane seq : Nat) (tx rx : NetTime) (srcValid master : Bool) (stratum turn : Nat)
  | timeEcho (lane seq turn : Nat) (rx : NetTime)
  | timeSend (lane : Nat) (tx : NetTime)
  /-- A flit from `die` to `peer` that failed its CRC: replayed well or not, and the flits then in flight. -/
  | flitReplay (die peer : Nat) (ok : Bool) (lost : Nat)
  | dieLinkIdle (die peer : Nat)
  | dieLinkWake (die peer : Nat)
  | blindFallback (die peer : Nat)
  | dieLinkOn (die peer : Nat)
  /-- A measurement of a source as TIME_CTRL codes it, in units of 2^-16 ns. -/
  | timeMeasurement (source : Nat) (offset : Int)
  | sourceLost
  | timeStep (force : Bool)
  | stepApply
  | timeMeasWrite (size : Nat) (value : Word)
  | ppsEdge (time : NetTime)
  | todMessage (bytes : List Nat) (time : NetTime)
  | ppsOut (sec : Nat)
  | fabTsPop (die : Nat)
  | claimLive
  | claimAbsent
  /-- `release`: the frame of the RELEASE under which the part seizes. -/
  | seize (release : Option Nat)
  | settleEnd
  | doubleClaim
  | heartbeatSend (tx : NetTime)
  | heartbeat (seq device : Nat) (active : Bool) (t0 echoSeq turn : Nat) (rx : NetTime)
  | heartbeatFailure
  | pairHello (digest member pairDevice : Nat) (trees : List Nat) (senior : Bool) (device : Nat)
  | pairAccept
  | map (tree set frame : Nat) (grants : List Grant)
  | terminal (records : List TermRecord)
  | circuit (records : List CircRecord)
  /-- A report received, or the part's own millisecond. -/
  | health (received : Option (List Nat))
  | autoDegrade
  | release (frame : Nat)
  | releaseDarken
  | calibrate (tree : Nat)
  | standbyOffsetUpdate (tree : Nat)
  /-- Load in percent, deadline cut-offs missed, periodic items a period late, deferrable items that wait. -/
  | tweedLoadCheck (die load missed late deferrable : Nat)
  | watchdog (die : Nat)
  | taskOverrun (die task : Nat) (fault : Bool)
  | doorbell (die slot : Nat) (release : Bool)
  | mailboxService (die : Nat) (reply : List Nat)
  | version (die : Nat)
  | rotate (die : Nat) (tied : Bool)
  | rotateCancel (die : Nat)
  | extMsg (die : Nat) (reply : List Nat)
  /-- Where the firmware has come to, and the events of cycles 0 to 10, by die and source. -/
  | interruptEntry (die : Nat) (firmware : FwState) (late : List (Nat × Nat))
  | resume (die : Nat) (firmware : FwState) (late : List (Nat × Nat))
  | coreWake (die : Nat) (firmware : FwState)
  | groupFire (die group : Nat)
  | swset (die source : Nat)
  /-- A source, or group g as 4,096 + g, and its new target. -/
  | targetWrite (die source : Nat) (host : Bool) (target vector : Nat)
  | msixDelivery (die : Nat)
  | eoi (die source : Nat)
  | counterFlush (die counter : Nat)
  | perfCntRead (die counter : Nat)
  | readClear (die counter : Nat)
  | clear (die counter : Nat)
  | snapshotArm
  | snapshotCancel
  | snapshotEpoch
  | snapshotDieDone (die copyNs : Nat)
  | traceRecord (die : Nat) (record : TraceRec) (throttled : Nat)
  | bandwidthWindow (die window : Nat)
  | sentinelInterval (die : Nat) (readings : List Nat)
  | telemetryRecord (die : Nat) (power : List Nat) (skipped : Bool)
  /-- An event of source `source` in the controller of `origin`, as a die's log takes it. -/
  | eventLog (die origin source : Nat)
  | sramScrub (die : Nat) (uncorrectable : Option SramOwner)
  | mramScrub (die : Nat) (flaw : MramFlaw)
  | bgLag (die activity lag : Nat)
  | table (chan : Nat) (desc : DmaDesc) (record : List Nat) (tied : Bool)
  | stage (chan : Nat) (desc : DmaDesc) (bytes : List Nat)
  | devRead (chan : Nat) (desc : DmaDesc)
  | omciTx (chan : Nat) (desc : DmaDesc) (bytes : List Nat)
  | rxBuffer (chan : Nat) (desc : DmaDesc)
  | rxMessage (message : RxMessage) (at0 : NetTime)
  | dmaError (chan : Nat) (failed : DmaFail)
  | bar2Read (who : Requester) (off size : Nat)
  | bar2Write (who : Requester) (off : Nat) (bytes : List Nat)
  | coldReset
  /-- CAUSE of PKG_STATUS. -/
  | packageReset (cause : Nat)
  | resetPackage (key : Nat)
  | perst (asserted : Bool)
  | hostInterfaceReset
  /-- Milliseconds taken, and the channels that found no setting. -/
  | startup (ms : Nat) (untrained : List (Nat × Nat))
  /-- Input voltage in mV, current in 0.01 A, power in 0.1 W. -/
  | supplySupervision (vin iin pin : Nat)
  /-- MRAM steps that complete: die and step. -/
  | supplyFault (steps : List (Nat × Nat))
  /-- Tweed's request, if one came. -/
  | governorStep (die : Nat) (request : Option Int)
  | junctionThermal (die : Nat) (readings : List Int) (package : Int) (cool : Nat)
  | diePowerDown (die : Nat) (trip : Bool)
  | dieRestart (die : Nat)
  | muteSuppressionEnd (tree : Nat)
  | flowSend (lane : Nat)
  deriving DecidableEq, Repr

end Sys2Proof
end

