-- ==== Sys2Proof/Decode.lean ====
section
/-!
DEFINITION. The command that a word of the operation table spells. The part takes commands, not encoded instructions: the table gives no row any bits,
so no word spells one.
-/

namespace Sys2Proof

/-- The command that `nbits` bits with value `w` spell by the table's bits: none, since no row of the table has bits. -/
def decodeTableWord (_nbits _w : Nat) : Option Instr := none

end Sys2Proof
end

