-- ==== Sys2Proof/Machine/Crc.lean ====
section
/-!
DEFINITION. The cyclic redundancy codes of the part's own formats.
-/

namespace Sys2Proof.Machine

/-- One bit of a CRC that shifts left: width `w`, polynomial `poly` without its leading term. -/
def crcBit (w poly c : Nat) (b : Bool) : Nat :=
  let c2 := c * 2 % 2 ^ w
  if bitAt c (w - 1) != b then c2 ^^^ poly else c2

/-- The CRC over the `n` low bits of `v`, most significant first. -/
def crcBits (w poly : Nat) : Nat → Nat → Nat → Nat
  | 0, _, c => c
  | n + 1, v, c => crcBits w poly n v (crcBit w poly c (bitAt v n))

/-- CRC-16 of R92: x^16 + x^12 + x^5 + 1, initial value 0xFFFF, over `n` bits of `v`, most significant first. -/
def crc16 (n v : Nat) : Nat := crcBits 16 0x1021 n v 0xFFFF

/-- CRC-8 of R169: x^8 + x^2 + x + 1, initial value 0, over `n` bits of `v`, most significant first. -/
def crc8 (n v : Nat) : Nat := crcBits 8 0x07 n v 0

/-- `k` steps of the reflected CRC-32C register. -/
def crc32cShift : Nat → Nat → Nat
  | 0, c => c
  | k + 1, c => crc32cShift k (if c % 2 = 1 then (c / 2) ^^^ 0x82F63B78 else c / 2)

/-- CRC-32C over bytes: the Castagnoli polynomial, reflected, initial value and final inversion all ones (log entry 8). -/
def crc32c (bytes : List Nat) : Nat :=
  (bytes.foldl (fun c b => crc32cShift 8 (c ^^^ (b % 256))) 0xFFFFFFFF) ^^^ 0xFFFFFFFF

/-- `k` steps of the reflected CRC-32 register of an Ethernet frame check sequence. -/
def fcsShift : Nat → Nat → Nat
  | 0, c => c
  | k + 1, c => fcsShift k (if c % 2 = 1 then (c / 2) ^^^ 0xEDB88320 else c / 2)

/-- An Ethernet frame with its frame check sequence (IEEE 802.3). -/
def withFcs (b : List Nat) : List Nat :=
  b ++ leBytes 4 ((b.foldl (fun c x => fcsShift 8 (c ^^^ (x % 256))) 0xFFFFFFFF) ^^^ 0xFFFFFFFF)

end Sys2Proof.Machine
end

