-- ==== Sys2Proof/Config.lean ====
section
/-!
DEFINITION. What an implementation fixes and what the spec leaves open: constants with no body, so that no proof can see a value.
A free value is applied to a counter that State holds, so that each use may differ.
-/

namespace Sys2Proof.Config

/-- A value the spec leaves open, taken at the `n`-th use of a free value (log entry 3). -/
opaque freeValue : Nat → Nat

/-- The PCI vendor ID (Table 17.1 names its owner, no number; log entry 4). -/
opaque pciVendor : BitVec 16

/-- The silicon stepping (Table 17.9 gives no value; log entry 4). -/
opaque stepping : BitVec 8

/-- SHA-384 over bytes, as FIPS 180-4 defines it; the spec names the standard and does not restate it (R5; log entry 5). -/
opaque sha384 : List Nat → Nat

/-- ECDSA P-384 verification: public key bytes, message hash, signature bytes (R43; log entry 5). -/
opaque ecdsaVerify : List Nat → Nat → List Nat → Bool

/-- ML-DSA-65 verification with the context string of R43: public key bytes, message, signature bytes (log entry 5). -/
opaque mldsaVerify : List Nat → Nat → List Nat → Bool

/-- NIST SP 800-38F key unwrap: key-encryption key and wrapped bytes; none when the integrity check fails (R262; log entry 5). -/
opaque keyUnwrap : Nat → List Nat → Option (List Nat)

/-- AES-256-GCM encryption: key, IV, additional data, plaintext; ciphertext followed by the tag (R255; log entry 5). -/
opaque gcmSeal : Nat → Nat → List Nat → List Nat → List Nat

/-- The 8-byte XGEM header of ITU-T G.9804.2: PLI, Key Index, Port-ID, LF (R255; log entry 5). -/
opaque xgemHeader : Nat → Nat → Nat → Bool → List Nat

/-- The counter mode of the standard sets: key, IV inputs, plaintext (R257; log entry 5). -/
opaque ctrSeal : Nat → Nat → List Nat → List Nat

/-- A frame under MACsec (IEEE 802.1AE): key, salt, SSCI, SCI, association number, packet number, suite (Table 11.6), frame bytes;
the frame with SecTAG, ciphertext and ICV (R266; log entry 5). -/
opaque macsecSeal (key salt ssci sci an pn suite : Nat) : List Nat → List Nat

/-- The SP 800-108 counter KDF over AES-256-CMAC: root and context; the 512-bit XTS key pair (R269; log entry 5). -/
opaque cmacKdf : Nat → Nat → Nat

/-- XTS-AES-256 (IEEE 1619) of one 256-byte data unit: key pair, tweak, plaintext (R269; log entry 5). -/
opaque xtsSeal : Nat → Nat → List Nat → List Nat

/-- The Terarnus factory-key hashes: of the ECDSA key and of the ML-DSA key (R44; log entry 5). -/
opaque factoryEcHash : Nat
/-- The factory hash of the ML-DSA key (R44). -/
opaque factoryPqHash : Nat

/-- The 256-bit nonce made at the `n`-th request (R63: fresh; log entry 3). -/
opaque freshNonce : Nat → BitVec 256

/-- The 128-bit salt made at the `n`-th password change (R64: fresh; log entry 3). -/
opaque freshSalt : Nat → BitVec 128

/-- A 64-bit word of the local SRAM of a Tweed core: load generation, die, byte address.
The firmware section fills it and the spec gives neither its format nor its contents (R340; log entry 6). -/
opaque tweedWord : Nat → Nat → Nat → BitVec 64

/-- The value that the bytes of a section give field `n` of unit `i`, for the sections whose arrangement the spec leaves to
the image compiler: parser graph, traffic-manager shape, fabric lane modes, tree line mode, firmware and quotas (R42; log entry 9). -/
opaque imageField : List Nat → Nat → Nat → Nat

/-- The queues that the bytes of a traffic-manager shape section define in a direction (true upstream), by number (R231; log entry 9). -/
opaque shapeQueues : List Nat → Bool → List Nat

/-- The nodes, ports included, that the bytes of a traffic-manager shape section define in a direction, by number (R231; log entry 9). -/
opaque shapeNodes : List Nat → Bool → List Nat

/-- Cycles per millisecond that an extension task section declares (R343; log entry 9). -/
opaque taskBudget : List Nat → Nat

/-! ### What the standard sets take from their recommendations (R5; log entry 14) -/

/-- GrantSize units of an upstream frame of a 50G-PON set at its highest upstream rate (R145). -/
opaque ponCapacity : Nat

/-- Grant units that guard, preamble and delimiter take before a burst on a standard set: set, GUARD_NS, PRE_UNITS, DELIM (R150). -/
opaque stdOverhead : Nat → Nat → Nat → Nat → Nat

/-- START of a burst context on a standard set, in symbols of the burst's rate: set, RATE code, StartTime (Table 6.8). -/
opaque stdStart : Nat → Nat → Nat → Nat

/-- LENGTH of a burst context on a standard set: set, RATE code, PRE_UNITS, DELIM, units. -/
opaque stdLength : Nat → Nat → Nat → Nat → Nat → Nat

/-- The rate and FEC setting of burst profile `p` of tree `t` on a 50G-PON set: RATE code less one, FEC (Table 6.8). -/
opaque stdProfile : Nat → Nat → Fin 3 × Bool

/-- The 64-bit allocation structure of a standard set: set, Alloc-ID, flags, StartTime, GrantSize, profile (R154). -/
opaque stdStructure : Nat → Nat → Nat → Nat → Nat → Nat → Nat

/-- Units and profile of a directed ranging grant on a standard set (R119). -/
opaque stdRangingGrant : Nat → Nat × Nat

/-- Units of the broadcast serial-number grant of a standard set (R117). -/
opaque stdSerialGrant : Nat → Nat

/-- FEC codewords, and their information bytes, of one downstream PHY frame of G.9804.2 (R90, R91). -/
opaque ponCodewords : Nat
/-- Information bytes of the codewords of one downstream PHY frame of G.9804.2 (R91). -/
opaque ponInfo : Nat

/-- The codewords of the downstream LDPC code of G.9804.2 over information bytes (Table 4.1). -/
opaque ldpcDown : List Nat → List Nat

/-- The 32 parity bytes of RS(248,216) of G.9807.1 over 216 information bytes (Table 4.1). -/
opaque rsParity : List Nat → List Nat

/-- Byte `i` of the sequence by which a set's recommendation scrambles a PHY frame, from its superframe count: code of the line mode, count, i (R93). -/
opaque scrambler : Nat → Nat → Nat → Nat

/-- The 24 bytes of the PSBd of a set's recommendation: code of the line mode, superframe count (R91). -/
opaque psbd : Nat → Nat → List Nat

/-- The header of an FS frame: code of the line mode, allocation structures, PLOAM messages with header, sequence number and integrity check (R94). -/
opaque fsHeader : Nat → List Nat → List Ploam → List Nat

/-- Idle XGEM frames that fill a number of bytes (R25, R91). -/
opaque xgemIdle : Nat → List Nat

/-- The trailer of an FS frame over what stands before it, and its length in bytes (R91). -/
opaque fsTrailer : List Nat → List Nat
/-- Length of the trailer of an FS frame in bytes. -/
opaque fsTrailerBytes : Nat

/-- The bits of the delimiter that a standard burst profile names, as sent: RATE code, DELIM (R103). -/
opaque stdDelimiter : Nat → Nat → List Bool

/-- The last 64 preamble bits of a standard burst: RATE code, DELIM (R81). -/
opaque stdPreamble : Nat → Nat → List Bool

/-- The FS burst header of a standard burst from the bits behind its delimiter: its ONU-ID where its HEC holds (R103). -/
opaque burstHeader : Nat → List Bool → Option Nat

/-- The coarse round-trip delay of a serial-number burst on a standard set in Twill symbols: set, QW_MIN_KM, arrival and random delay in the set's
units (R119). -/
opaque stdCoarse : Nat → Nat → Int → Nat → Nat

/-- The pre-assigned delay as its message carries it: set, EqD_pre in Twill symbols (R117). -/
opaque preAssigned : Nat → Nat → List Nat

/-- A change of delay of so many Twill symbols in a standard set's units (R136). -/
opaque stdDelta : Nat → Int → Int

/-! ### What the receiver and the laser bring (R74, R75, R81, R124) -/

/-- Bit `i` of what a pattern generator starts with: pattern, i (R85; log entry 62). -/
opaque patternSeed : Nat → Nat → Bool

/-- The launch power in 0.01 dBm that the bytes of a tree optics targets section ask of a set (R74; log entry 9). -/
opaque launchTarget : List Nat → Nat → Int

/-- The beginning-of-life bias of the laser of a tree's set in 10 µA, from the factory trims (R75; log entry 61). -/
opaque factoryBias : Nat → Nat → Nat

/-- The gain code that the learned state of a terminal stands for: its received power (R81; log entry 63). -/
opaque learnedGain : Nat → Nat

/-- The avalanche gain at a gain code (R124; log entry 64). -/
opaque avalancheGain : Nat → Nat

/-- The learned dark level of a tree's receiver over an upstream frame (R124; log entry 64). -/
opaque darkLevel : Nat → Nat → Rat

/-- The HEC of an allocation structure over its bits [63:13], as G.9804.2 computes it (Table 6.4). -/
opaque structureHec : Nat → BitVec 13

/-- Bytes of the XGEM frames that carry an SDU: set, encrypted, SDU bytes (R171). -/
opaque xgemBytes : Nat → Bool → Nat → Nat

/-- Flits in which a frame of so many bytes crosses a die link: the spec gives a flit 256 bytes and not how frames lie in flits (R307). FREE VALUE, log entry 70. -/
opaque flitsOf : Nat → Nat

/-- The class of a circuit cell: the spec gives the field and no value for it (log entry 18). -/
opaque circuitClass : Fin 8

/-- The equalisation delay of a standard set in its recommendation's units, from a round-trip delay in Twill symbols (R111, R112). -/
opaque stdEqd : Nat → Nat → Nat

end Sys2Proof.Config
end

