-- ==== Sys2Proof/Machine/Line.lean ====
section
/-!
DEFINITION. The line below the frames (chapters 3 to 5): Gray mapping and precoder (R69, R70), codes and scramblers (R90, R91, R93), preamble and delimiter
levels (R97, R98), test patterns (R85), what a preamble teaches (R81), the delimiter search (R100), and the Gold codes and the correlation of Chiffon
(R121, R125). Plain functions, over bits as they are sent and samples as they come.
-/

namespace Sys2Proof.Machine

/-! ### Bits and symbols -/

/-- The bits of a byte as they are sent, the most significant first. -/
def byteBits (b : Nat) : List Bool := (List.range 8).map fun i => bitAt b (7 - i)

/-- The bits of bytes as they are sent. -/
def bytesBits (b : List Nat) : List Bool := b.flatMap byteBits

/-- The `w` bits of a number, the most significant first. -/
def wordBits (w v : Nat) : List Bool := (List.range w).map fun i => bitAt v (w - 1 - i)

/-- The number that bits spell, the most significant first. -/
def bitsValue (b : List Bool) : Nat := b.foldl (fun v x => 2 * v + ofBool x) 0

/-- The Gray index of a bit pair (Table 3.4). -/
def grayIndex : Bool → Bool → Nat
  | false, false => 0
  | false, true => 1
  | true, true => 2
  | true, false => 3

/-- The bit pair of a Gray index (Table 3.4). -/
def grayPair (g : Nat) : List Bool :=
  match g % 4 with
  | 0 => [false, false]
  | 1 => [false, true]
  | 2 => [true, true]
  | _ => [true, false]

/-- The Gray indices of line bits, pair by pair (R69). -/
def grayIndices : List Bool → List Nat
  | a :: b :: rest => grayIndex a b :: grayIndices rest
  | _ => []

/-- The precoder: p(n) = (g(n) − p(n − 1)) mod 4, from the value before the first symbol (R69, R70). -/
def precode : Nat → List Nat → List Nat
  | _, [] => []
  | prev, g :: rest => (g + 4 - prev % 4) % 4 :: precode ((g + 4 - prev % 4) % 4) rest

/-- A receiver's inverse: g(n) = (p(n) + p(n − 1)) mod 4 (R69). -/
def unprecode : Nat → List Nat → List Nat
  | _, [] => []
  | prev, p :: rest => (p + prev) % 4 :: unprecode p rest

/-- The level of a precoded value (R69). -/
def levelOf (p : Nat) : Int := 2 * (p : Int) - 3

/-- The precoded value whose level is `v` (R96). -/
def symbolOf (v : Int) : Nat := ((v + 3) / 2).toNat

/-- The levels of line bits on a four-level set, the precoder restarted (R69, R70). -/
def fourLevels (b : List Bool) : List Int := (precode 0 (grayIndices b)).map levelOf

/-- The levels of line bits on an NRZ set: the two outer ones. -/
def nrzLevels (b : List Bool) : List Int := b.map fun x => if x then 3 else -3

/-- A symbol moved to a neighbouring level (R88): an outer level inward, a level of an NRZ set to the other, an inner level as `up` says. -/
def neighbour (four up : Bool) (v : Int) : Int :=
  if !four then -v else if v = 3 then 1 else if v = -3 then -1 else if up then v + 2 else v - 2

/-- Element `n` of a list changed; nothing where the list is shorter. -/
def changeAt {α : Type} (f : α → α) : Nat → List α → List α
  | _, [] => []
  | 0, x :: rest => f x :: rest
  | n + 1, x :: rest => x :: changeAt f n rest

/-! ### Sequences -/

/-- The next element of a sequence: the parity of the elements `lags` back, of those so far, newest first. -/
def nextBit (lags : List Nat) (newest : List Bool) : Bool := lags.foldl (fun v l => v != newest.getD (l - 1) false) false

/-- `n` more elements of such a sequence, newest first. -/
def extendSeq (lags : List Nat) : Nat → List Bool → List Bool
  | 0, s => s
  | n + 1, s => extendSeq lags n (nextBit lags s :: s)

/-- The first symbols of delimiter `k` as precoded values (R98). -/
def delimiterSymbols (k : Nat) : List Nat :=
  let seed := [0x5B, 0x3A, 0x67, 0x1C].getD k 0x5B
  let s := (extendSeq [1, 7] 121 (wordBits 7 seed).reverse).reverse
  (List.range 64).map fun i => 2 * ofBool (s.getD (2 * i) false) + ofBool (s.getD (2 * i + 1) false)

/-- The preamble of a Twill burst as precoded values (R97). -/
def preambleSymbols (pre : Nat) : List Nat :=
  ((List.range (pre - 64)).map fun i => if i % 2 = 0 then 3 else 0) ++ (List.range 64).map fun i => [0, 2, 1, 3].getD (i % 4) 0

/-- The lags of a test pattern's generator (Table 3.9): an exponent e of a polynomial of degree n is the lag n − e, as R98 and R121 write theirs. -/
def patternLags : Nat → List Nat
  | 1 => [1, 7]
  | 2 => [1, 11, 12, 13]
  | _ => [3, 31]

/-- A generator or checker of a pattern (R85): its last bits, newest first, the bits since its start, and the precoder's last value. -/
structure PatGen where
  reg : List Bool
  pos : Nat := 0
  prev : Nat := 0
  deriving DecidableEq, Repr

/-- A generator at its start: the registers hold what the part starts them with, which the spec does not state (log entry 62). -/
def patStart (pattern : Nat) : PatGen := { reg := (List.range 31).map fun i => Config.patternSeed pattern i }

/-- `n` bits of a pattern in order, and the generator behind them (Table 3.9); the user pattern repeats from its bit 63 (R85). -/
def patternRun (pattern user : Nat) : Nat → PatGen → List Bool × PatGen
  | 0, g => ([], g)
  | n + 1, g =>
    let b := if pattern = 4 then bitAt user (63 - g.pos % 64) else nextBit (patternLags pattern) g.reg
    let (rest, last) := patternRun pattern user n { g with reg := (b :: g.reg).take 31, pos := g.pos + 1 }
    (b :: rest, last)

/-! ### Codes, scramblers and frames (R90, R91, R93) -/

/-- A list in pieces of `n`. -/
def piecesOf {α : Type} (n : Nat) : Nat → List α → List (List α)
  | 0, _ => []
  | fuel + 1, l => if l.isEmpty then [] else l.take n :: piecesOf n fuel (l.drop n)

/-- The codewords of a downstream frame's information bytes (Table 4.1): RS(248,216) on XGS-PON, else the LDPC code of G.9804.2. `code`: 0 Twill,
1 50G-PON, 2 XGS-PON. -/
def fecDown (code : Nat) (info : List Nat) : List Nat :=
  if code = 2 then (piecesOf 216 (info.length / 216 + 1) info).flatMap fun w => w ++ Config.rsParity w else Config.ldpcDown info

/-- Bytes scrambled with the sequence that a superframe count starts (R93). -/
def scramble (code count : Nat) (b : List Nat) : List Nat := b.mapIdx fun i x => (x % 256) ^^^ (Config.scrambler code count i % 256)

/-- Information bytes of a downstream frame: 627 codewords of XGS-PON hold 216 each, in 155,520 bytes less the 24 of the PSBd; a Twill frame holds those
of two PHY frames of G.9804.2 (R91). -/
def infoBytes (code : Nat) : Nat := if code = 2 then 627 * 216 else if code = 0 then 2 * Config.ponInfo else Config.ponInfo

/-- FEC codewords of a downstream frame (R90, R91). -/
def dsCodewords (code : Nat) : Nat := if code = 2 then 627 else if code = 0 then 2 * Config.ponCodewords else Config.ponCodewords

/-- As many XGEM frames as fit in `n` bytes, in order, and those that wait. -/
def fitFrames : Nat → List (List Nat) → List (List Nat) × List (List Nat)
  | _, [] => ([], [])
  | n, x :: rest => if x.length ≤ n then (x :: (fitFrames (n - x.length) rest).1, (fitFrames (n - x.length) rest).2) else ([], x :: rest)

/-- The superframe count of half B's scrambler: every bit of the PSBd's inverted (R93). -/
def inverted (count : Nat) : Nat := 2 ^ 51 - 1 - count % 2 ^ 51

/-- The FS frame: header, XGEM frames, idle XGEM frames up to the trailer, trailer (R91). -/
def fsFrame (code : Nat) (header : List Nat) (frames : List (List Nat)) : List Nat :=
  let used := header ++ frames.flatten
  let full := used ++ Config.xgemIdle (infoBytes code - Config.fsTrailerBytes - used.length)
  full ++ Config.fsTrailer full

/-- The line bits of a frame: of a Twill frame PSBd, scrambled codewords of half A, the stamp, scrambled codewords of half B (Table 4.2, R93); of a
standard frame PSBd and scrambled codewords (log entry 14). -/
def frameBits (code count : Nat) (fs : List Nat) (stamp : Option Nat) : List Bool :=
  match stamp with
  | some v =>
    bytesBits (Config.psbd code count) ++ bytesBits (scramble code count (fecDown code (fs.take Config.ponInfo)))
      ++ wordBits 192 v ++ bytesBits (scramble code (inverted count) (fecDown code (fs.drop Config.ponInfo)))
  | none => bytesBits (Config.psbd code count) ++ bytesBits (scramble code count (fecDown code fs))

/-- What an injector does to a frame: bits inverted, then symbols moved, each by its place among the line bits (R88). `b` of an entry: MODE 1, and which way
an inner level moves. -/
def injectBits (flips : List (Bool × Bool × Nat)) (b : List Bool) : List Bool :=
  flips.foldl (fun b f => if f.1 then b else changeAt (fun x => !x) f.2.2 b) b

/-- The symbols that MODE 1 moves. -/
def injectLevels (four : Bool) (flips : List (Bool × Bool × Nat)) (l : List Int) : List Int :=
  flips.foldl (fun l f => if f.1 then changeAt (neighbour four f.2.1) (if four then f.2.2 / 2 else f.2.2) l else l) l

/-! ### What a preamble teaches (R81) -/

/-- Samples of one level over the last 64 preamble symbols: their sum and their number. -/
structure LevelSum where
  sum : Nat
  count : Nat
  deriving DecidableEq, Repr

/-- The sum and number of the samples whose symbol has a value. -/
def levelSum (p : Nat) (symbols samples : List Nat) : LevelSum :=
  (symbols.zip samples).foldl (fun a e => if e.1 = p then ⟨a.sum + e.2, a.count + 1⟩ else a) ⟨0, 0⟩

/-- A mean below another one. -/
def LevelSum.below (a b : LevelSum) : Bool := a.sum * b.count < b.sum * a.count

/-- The means of the levels in rising order of level: four, or two of an NRZ burst. -/
def levelSums (four : Bool) (symbols samples : List Nat) : List LevelSum :=
  (if four then [0, 1, 2, 3] else [0, 3]).map fun p => levelSum p symbols samples

/-- A list of means that strictly rises. -/
def rising : List LevelSum → Bool
  | a :: b :: rest => a.below b && rising (b :: rest)
  | _ => true

/-- Half the sum of two means, rounded down. -/
def halfway (a b : LevelSum) : Nat := (a.sum * b.count + b.sum * a.count) / (2 * a.count * b.count)

/-- The means teach thresholds: they rise strictly over a span of at least 256 (R81). -/
def levelsAccepted (ms : List LevelSum) : Bool :=
  let a := ms.headD ⟨0, 0⟩
  let b := ms.getLastD ⟨0, 0⟩
  rising ms && a.count != 0 && b.count != 0 && a.sum * b.count + 256 * a.count * b.count ≤ b.sum * a.count

/-- The thresholds of the means: three, or the middle one of an NRZ burst (R81). -/
def levelThresholds : List LevelSum → List Nat
  | [a, b, c, d] => [halfway a b, halfway b c, halfway c d]
  | [a, d] => [halfway a d]
  | _ => []

/-- RLM × 256 of four means of as many samples each, rounded down, at most 255 (R68, Table 3.18). -/
def levelRlm : List LevelSum → Option Nat
  | [a, b, c, d] => some (min 255 (3 * min (b.sum - a.sum) (min (c.sum - b.sum) (d.sum - c.sum)) * 256 / (d.sum - a.sum)))
  | _ => none

/-- The square of the spacing of the levels, and of the deviation of the samples, to one scale: (s / σ)² is their ratio (R81). -/
def snrParts (samples : List Nat) (ms : List LevelSum) : Nat × Nat :=
  let q := (samples.map fun x => x * x).sum
  match ms with
  | [a, b, c, d] =>
    let v := 16 * q - (a.sum * a.sum + b.sum * b.sum + c.sum * c.sum + d.sum * d.sum)
    ((d.sum - a.sum) ^ 2 * 1024, 2304 * v)
  | [a, d] =>
    let n := a.count * d.count
    (64 * (d.sum * a.count - a.sum * d.count) ^ 2, n * (q * n - a.sum * a.sum * d.count - d.sum * d.sum * a.count))
  | _ => (0, 1)

/-- SNR in steps of 0.25 dB, rounded down, between 0 and 127: the steps k with 10^(k / 40) ≤ (s / σ)² (R81). -/
def levelSnr (samples : List Nat) (ms : List LevelSum) : Nat :=
  let (a, b) := snrParts samples ms
  if b = 0 then 127 else ((List.range 127).filter fun k => 10 ^ (k + 1) * b ^ 40 ≤ a ^ 40).length

/-! ### Decisions and the search (R81, R100) -/

/-- The value that thresholds decide for a sample; one threshold decides between the two outer levels. A sample on a threshold lies below it
(log entry 63). -/
def decideSymbol (th : List Nat) (x : Nat) : Nat :=
  match th with
  | [a] => if a < x then 3 else 0
  | _ => (th.filter fun a => a < x).length

/-- Symbols that differ from a pattern, those that never came among them (R100). -/
def mismatches (pattern got : List Nat) : Nat :=
  (pattern.mapIdx fun i p => if got[i]? = some p then 0 else 1).sum

/-- The mismatches at every position of a window of half-width `w` around the due one, in rising order; `got` begins `w` before it (R100). -/
def windowMismatches (w : Nat) (pattern : List Nat) : Nat → List Nat → List (Int × Nat)
  | 0, _ => []
  | n + 1, got => ((w : Int) - n, mismatches pattern (got.take pattern.length)) :: windowMismatches w pattern n (got.drop 1)

/-- The rest of the search after a first candidate: refinement over 8 positions, equal counts keep the earlier one. -/
def refine (best : Int × Nat) (last : Int) : List (Int × Nat) → Int
  | [] => best.1
  | c :: rest => if last < c.1 then best.1 else refine (if c.2 < best.2 then c else best) last rest

/-- The search of R100 over positions in rising order, within ±w of the due position and with at most `limit` mismatches. -/
def search (w limit : Nat) (cs : List (Int × Nat)) : Option Int :=
  match cs.filter fun c => c.1.natAbs ≤ w && c.2 ≤ limit with
  | [] => none
  | c :: rest => some (refine c (min (c.1 + 8) w) rest)

/-- The best candidate of a window: the fewest mismatches, the earliest of equals (R119; log entry 63). -/
def bestOf (limit : Nat) (cs : List (Int × Nat)) : Option Int :=
  match cs.filter fun c => c.2 ≤ limit with
  | [] => none
  | c :: rest => some (rest.foldl (fun b x => if x.2 < b.2 then x else b) c).1

/-! ### Chiffon (R121, R125) -/

/-- The sequence a of the Gold family: 8,191 chips (R121). -/
def goldA : List Bool := (extendSeq [9, 10, 12, 13] 8178 (List.replicate 13 true)).reverse

/-- The sequence b: a decimated by 3 (R121). -/
def goldB (a : List Bool) : List Bool := (List.range 8191).map fun i => a.getD (3 * i % 8191) false

/-- The chips of code `k` (R121). -/
def goldCode (k : Nat) : List Bool :=
  let a := goldA
  let b := goldB a
  List.zipWith (fun x y => x != y) a (b.drop (512 * k % 8191) ++ b.take (512 * k % 8191))

/-- A half-chip: the sum of the residual over 16 symbols, and how many of them are not excluded (R125). -/
structure HalfChip where
  h : Rat := 0
  v : Nat := 0
  deriving DecidableEq, Repr

/-- The half-chips of a residual, whose excluded samples are none (R124, R125). -/
def halfChips (r : List (Option Rat)) : List HalfChip :=
  (piecesOf 16 (r.length / 16 + 1) r).map fun w => ⟨(w.filterMap id).sum, (w.filterMap id).length⟩

/-- C and N of a code over the half-chips of one frame from a lag on (R125). -/
def correlate (code : List Bool) : List HalfChip → Rat × Nat
  | x :: y :: rest =>
    match code with
    | [] => (0, 0)
    | c :: more =>
      let (sum, n) := correlate more rest
      (sum + (if c then x.h + y.h else -(x.h + y.h)), n + if 0 < x.v && 0 < y.v then 1 else 0)
  | _ => (0, 0)

/-- The largest natural number whose square is at most `n`, bit by bit from `2 ^ k` down. -/
def isqrtFrom (n : Nat) : Nat → Nat → Nat
  | 0, r => if (r + 1) * (r + 1) ≤ n then r + 1 else r
  | k + 1, r => isqrtFrom n k (if (r + 2 ^ (k + 1)) * (r + 2 ^ (k + 1)) ≤ n then r + 2 ^ (k + 1) else r)

/-- The integer square root. -/
def isqrt (n : Nat) : Nat := isqrtFrom n (n.log2 / 2) 0

/-- The square of the statistic, (C / √(2PN))², and 0 where C is not positive or nothing was measured (R125). -/
def statSquare (c : Rat) (p : Rat) (n : Nat) : Rat := if c ≤ 0 || p ≤ 0 || n = 0 then 0 else c * c / (2 * p * n)

/-- A rational square root in steps of 2^−16, rounded down. -/
def rootSteps (x : Rat) : Nat := isqrt (x * 2 ^ 32).floor.toNat

/-- The vertex of the parabola through three values one half-chip apart, from the middle one, in symbols to the nearest (R125). -/
def vertex (a b c : Nat) : Int :=
  let bend : Int := 2 * (2 * (b : Int) - a - c)
  if bend ≤ 0 then 0 else (2 * 16 * ((c : Int) - a) + bend) / (2 * bend)

end Sys2Proof.Machine
end

