-- ==== Sys2Proof/Machine/Kolkan.lean ====
section
/-!
DEFINITION. The line of a Kolkan lane (R295 to R297): blocks, comma and scrambler, the RS(440,416) code over GF(2^10), Gray mapping and precoder, and what
a lane sends.
-/

namespace Sys2Proof.Machine

/-! ### The field and the code (R296) -/

/-- A field element times α, modulo x^10 + x^3 + 1. -/
def gfTwice (a : Nat) : Nat := if a < 512 then 2 * a else (2 * a) ^^^ 0x409

/-- Product of two field elements, over the lower `n` bits of the second. -/
def gfMul (a : Nat) : Nat → Nat → Nat
  | 0, _ => 0
  | n + 1, b => (if b % 2 = 1 then a else 0) ^^^ gfMul (gfTwice a) n (b / 2)

/-- Product of two field elements. -/
def gfTimes (a b : Nat) : Nat := gfMul (a % 1024) 10 b

/-- A power of a field element. -/
def gfPower (a : Nat) : Nat → Nat
  | 0 => 1
  | n + 1 => gfTimes a (gfPower a n)

/-- α to the power `n`; α has order 1,023. -/
def alpha (n : Nat) : Nat := gfPower 2 (n % 1023)

/-- The inverse of a field element other than 0. -/
def gfInverse (a : Nat) : Nat := gfPower a 1022

/-- A polynomial, lowest coefficient first, at a point. -/
def polyAt (p : List Nat) (x : Nat) : Nat := p.foldr (fun c v => c ^^^ gfTimes x v) 0

/-- Sum of two polynomials. -/
def polyAdd : List Nat → List Nat → List Nat
  | [], q => q
  | p, [] => p
  | a :: p, b :: q => (a ^^^ b) :: polyAdd p q

/-- A polynomial times a field element. -/
def polyScale (a : Nat) (p : List Nat) : List Nat := p.map fun c => gfTimes a c

/-- Product of two polynomials. -/
def polyMul : List Nat → List Nat → List Nat
  | [], _ => []
  | a :: p, q => polyAdd (polyScale a q) (0 :: polyMul p q)

/-- The generator, with the roots α^0 to α^23, lowest coefficient first. -/
def rsGenerator : List Nat := (List.range 24).foldl (fun g i => polyMul g [alpha i, 1]) [1]

/-- The 24 parity symbols of a message of 416 symbols, highest first: the remainder of the message times x^24. -/
def rsCheck (msg : List Nat) : List Nat :=
  let g := (rsGenerator.take 24).reverse
  msg.foldl (fun r m =>
    let v := (r.headD 0 ^^^ m) % 1024
    polyAdd (r.drop 1 ++ [0]) (polyScale v g)) (List.replicate 24 0)

/-- The 24 syndromes of a received word, its first symbol of degree 439. -/
def syndromes (w : List Nat) : List Nat := (List.range 24).map fun j => polyAt w.reverse (alpha j)

/-- What the search for an error locator keeps (Berlekamp and Massey): the locator, its length, the one before it, steps since, and its discrepancy. -/
structure Locator where
  now : List Nat := [1]
  length : Nat := 0
  before : List Nat := [1]
  since : Nat := 1
  disc : Nat := 1

/-- One step of the search, at syndrome `n`. -/
def locatorStep (syn : List Nat) (x : Locator) (n : Nat) : Locator :=
  let d := (List.range (x.length + 1)).foldl (fun v i => v ^^^ gfTimes (x.now.getD i 0) (if i ≤ n then syn.getD (n - i) 0 else 0)) 0
  if d = 0 then { x with since := x.since + 1 }
  else
    let moved := List.replicate x.since 0 ++ polyScale (gfTimes d (gfInverse x.disc)) x.before
    let next := polyAdd x.now moved
    if 2 * x.length ≤ n then { now := next, length := n + 1 - x.length, before := x.now, since := 1, disc := d }
    else { x with now := next, since := x.since + 1 }

/-- The error locator of the syndromes. -/
def locatorOf (syn : List Nat) : Locator := (List.range 24).foldl (locatorStep syn) {}

/-- A received word of 440 symbols corrected, with the number of wrong symbols; none where more than 12 are wrong (R296). -/
def rsCorrect (w : List Nat) : Option (Nat × List Nat) :=
  let syn := syndromes w
  if syn.all fun v => v == 0 then some (0, w)
  else
    let x := locatorOf syn
    let places := (List.range 440).filter fun i => polyAt x.now (alpha (1023 - i)) == 0
    let omega := (polyMul syn x.now).take 24
    let odd := x.now.mapIdx fun i c => if i % 2 = 1 then c else 0
    let value := fun i =>
      let inv := alpha (1023 - i)
      gfTimes (gfTimes (alpha i) (polyAt omega inv)) (gfInverse (polyAt (odd.drop 1) inv))
    let fixed := w.mapIdx fun k v => if places.contains (439 - k) then v ^^^ value (439 - k) else v
    if x.length ≤ 12 && places.length == x.length && (syndromes fixed).all fun v => v == 0 then some (x.length, fixed) else none

/-! ### Blocks (R295, R297) -/

/-- The comma block: header 00 and its payload. -/
def commaBlock : List Bool := [false, false] ++ wordBits 128 0xC3A596F00F695A3CE71824DB7E81B42D

/-- Bits in which a received block of 130 bits differs from the comma; at most 4 are taken for one (R297). -/
def isComma (block : List Bool) : Bool :=
  block.length == 130 && ((block.zip commaBlock).filter fun e => e.1 != e.2).length ≤ 4

/-- `n` symbols of 10 bits, the most significant first. -/
def symbolsOf (n : Nat) (b : List Bool) : List Nat := (List.range n).map fun k => bitsValue ((b.drop (10 * k)).take 10)

/-- What the sender of a lane keeps: blocks since the last comma, the scrambler's last 31 bits, newest first, the blocks of the codeword begun, and the
precoder's last value. -/
structure LaneTx where
  pos : Nat := 0
  scr : List Bool := []
  blocks : List (List Bool) := []
  prev : Nat := 0
  deriving DecidableEq, Repr

/-- A block of 130 bits put on the line. The 32nd ends a codeword: message, parity, Gray mapping, precoder, whose state is 0 at the first symbol where the
codeword begins with a comma (R296). Answers the levels of the codeword that ended. -/
def LaneTx.put (x : LaneTx) (b : List Bool) : List (List Int) × LaneTx :=
  let all := x.blocks ++ [b]
  let pos := (x.pos + 1) % 16384
  if all.length < 32 then ([], { x with blocks := all, pos := pos })
  else
    let msg := symbolsOf 416 all.flatten
    let bits := (msg ++ rsCheck msg).flatMap fun v => wordBits 10 v
    let p := precode (if pos = 32 then 0 else x.prev) (grayIndices bits)
    ([p.map levelOf], { x with blocks := [], pos := pos, prev := p.getLastD 0 })

/-- A data or control block scrambled and put on the line, a comma before it where one is due, which resets the scrambler to all ones (R295, R297). -/
def LaneTx.send (x : LaneTx) (control : Bool) (payload : Nat) : List (List Int) × LaneTx :=
  let (a, x) := if x.pos = 0 then ([], { (x.put commaBlock).2 with scr := List.replicate 31 true }) else (([] : List (List Int)), x)
  let run := extendSeq (patternLags 3) 128 x.scr
  let mask := (run.take 128).reverse
  let body := ((wordBits 128 payload).zip mask).map fun e => e.1 != e.2
  let (b, x) := LaneTx.put { x with scr := run.take 31 } ([control, !control] ++ body)
  (a ++ b, x)

/-- A control block of a type with its fields below bit 120, and its CRC-16 (R298). -/
def controlBlock (type body : Nat) : Nat :=
  let v := type * 2 ^ 120 + body
  v + crc16 112 (v / 2 ^ 16)

/-- The payload of an IDLE block (Table 13.3). -/
def idlePayload : Nat := controlBlock 0x1E 0

/-- IDLE blocks to the end of the codeword begun, at most `fuel` of them. -/
def LaneTx.finish : Nat → LaneTx → List (List Int) × LaneTx
  | 0, x => ([], x)
  | fuel + 1, x =>
    if x.blocks.isEmpty then ([], x)
    else
      let (a, y) := x.send true idlePayload
      let (b, z) := y.finish fuel
      (a ++ b, z)

/-- Blocks sent, each with whether it is a control block, and IDLE blocks until their last codeword is full (log entry 69). -/
def LaneTx.run : LaneTx → List (Bool × Nat) → List (List Int) × LaneTx
  | x, [] => x.finish 32
  | x, (c, v) :: rest =>
    let (a, y) := x.send c v
    let (b, z) := y.run rest
    (a ++ b, z)

end Sys2Proof.Machine
end

