-- ==== Sys2Proof/Machine/Memory.lean ====
section
/-!
DEFINITION. Byte memories (device memory of a die, an MRAM slot): lists of (address, byte) cells in one canonical form,
addresses strictly rising and no cell equal to what an unlisted address reads as.
-/

namespace Sys2Proof.Machine

/-- A byte memory. -/
abbrev Memory := List Host.Cell

/-- What an unlisted address reads as: device memory is filled with zero bytes (R288); MRAM likewise (log entry 11). -/
def unlistedByte : Byte := 0

/-- One byte of a memory. -/
def Memory.read : Memory → Nat → Byte
  | [], _ => unlistedByte
  | c :: m, a => if c.1 = a then c.2 else Memory.read m a

/-- One byte written, in canonical form. -/
def Memory.write (a : Nat) (b : Byte) : Memory → Memory
  | [] => if b = unlistedByte then [] else [(a, b)]
  | c :: m =>
    if c.1 < a then c :: Memory.write a b m
    else
      let rest := if c.1 = a then m else c :: m
      if b = unlistedByte then rest else (a, b) :: rest

/-- The cells that a list of bytes makes from an address upward, without those at the unlisted value. -/
def cellsOf : Nat → List Nat → Memory
  | _, [] => []
  | a, b :: bs => if BitVec.ofNat 8 b = unlistedByte then cellsOf (a + 1) bs else (a, BitVec.ofNat 8 b) :: cellsOf (a + 1) bs

/-- Bytes written from an address upward: the cells below, the new ones, and the cells above. -/
def Memory.writeBytes (m : Memory) (a : Nat) (bs : List Nat) : Memory :=
  (m.filter fun c => c.1 < a) ++ cellsOf a bs ++ (m.filter fun c => a + bs.length ≤ c.1)

/-- `n` bytes read from an address upward. -/
def Memory.readBytes (m : Memory) (a n : Nat) : List Nat := (List.range n).map fun k => (m.read (a + k)).toNat

/-- The canonical form: addresses strictly rising above `lo`, and no cell at the unlisted value. -/
def Memory.wfFrom : Option Nat → Memory → Bool
  | _, [] => true
  | lo, c :: m => (match lo with | none => true | some l => l < c.1) && c.2 != unlistedByte && Memory.wfFrom (some c.1) m

/-- The canonical form of a memory. -/
def Memory.wf (m : Memory) : Bool := Memory.wfFrom none m

end Sys2Proof.Machine
end

