-- ==== Sys2Proof/Machine/Table.lean ====
section
/-!
DEFINITION. Sparse tables in one canonical form: keys strictly rising, and no entry equal to what an unlisted key reads as.
The same form holds the register fields, the contexts and the per-unit records, so equal contents are equal data.
-/

namespace Sys2Proof.Machine

/-- A table key: a field or unit number and a unit number. -/
structure Key where
  n : Nat
  i : Nat
  deriving DecidableEq, Repr

/-- Lexicographic order of keys. -/
def Key.lt (a b : Key) : Bool := a.n < b.n || (a.n == b.n && a.i < b.i)

/-- A sparse table. -/
abbrev Tbl (α : Type) := List (Key × α)

/-- The value at a key; an unlisted key reads as `d`. -/
def Tbl.get {α : Type} (t : Tbl α) (k : Key) (d : α) : α :=
  match t with
  | [] => d
  | e :: t => if e.1 = k then e.2 else Tbl.get t k d

/-- The table without the key. -/
def Tbl.erase {α : Type} (t : Tbl α) (k : Key) : Tbl α := t.filter fun e => e.1 ≠ k

/-- Insertion in key order. -/
def Tbl.insert {α : Type} (k : Key) (v : α) : Tbl α → Tbl α
  | [] => [(k, v)]
  | e :: t => if k.lt e.1 then (k, v) :: e :: t else e :: Tbl.insert k v t

/-- The table with `v` at the key, in canonical form: an entry equal to `d` is not listed. -/
def Tbl.set {α : Type} [DecidableEq α] (t : Tbl α) (k : Key) (d v : α) : Tbl α :=
  if v = d then t.erase k else Tbl.insert k v (t.erase k)

/-- Keys strictly rising. -/
def Tbl.sorted {α : Type} : Tbl α → Bool
  | [] => true
  | [_] => true
  | a :: b :: t => a.1.lt b.1 && Tbl.sorted (b :: t)

/-- The canonical form against a default: keys strictly rising, no entry equal to what its key reads as unlisted. -/
def Tbl.wf {α : Type} [DecidableEq α] (d : Key → α) (t : Tbl α) : Bool := t.sorted && t.all fun e => e.2 ≠ d e.1

end Sys2Proof.Machine
end

