-- ==== Sys2Proof/Machine/Regs.lean ====
section
/-!
DEFINITION. The register fields of every block, one definition per field of the spec's field tables, and the context fields of its layout tables.
`base` is the BAR0 address of the register's first copy; a context stands above BAR0.
-/

namespace Sys2Proof.Machine

/-- Register access types (R11, Table 0.4); `mem` marks a field of a context or record, which no bus access reaches directly. -/
inductive Access where
  | rw | ro | wo | w1c | w1s | rwl | rc | mem
  deriving DecidableEq, Repr

/-- One field: the address of its register's first copy, its lowest bit, its width, its access type and its reset value (R11).
`perImage` marks a value that the Damask image sets, or the part's own identity. -/
structure Field where
  base : Nat
  lsb : Nat
  width : Nat
  acc : Access
  reset : Nat
  perImage : Bool := false
  deriving DecidableEq, Repr

/-- The number that keys the field's values in the register table. -/
def Field.num (f : Field) : Nat := f.base * 64 + f.lsb

/-- A register: the address of its first copy, the strides and counts of its indices, and its fields. -/
structure RegDesc where
  base : Nat
  die : Bool
  dims : List (Nat × Nat)
  fields : List Field
  deriving DecidableEq, Repr


/-- [1:0] RO. 0 HJC-7016-M, 1 HJC-7032-M, 2 HJC-7064-M. (17 Table 17.9) -/
def PKG_IDENT.MEMBER : Field := { base := 0x0, lsb := 0, width := 2, acc := .ro, reset := 0, perImage := true }

/-- [5:2] RO. 2, 4 or 8. (17 Table 17.9) -/
def PKG_IDENT.DIE_COUNT : Field := { base := 0x0, lsb := 2, width := 4, acc := .ro, reset := 0, perImage := true }

/-- [15:8] RO. Silicon stepping. (17 Table 17.9) -/
def PKG_IDENT.STEPPING : Field := { base := 0x0, lsb := 8, width := 8, acc := .ro, reset := 0, perImage := true }

/-- [25:16] RO. Device ID from the fabric lane modes section (R293). (17 Table 17.9) -/
def PKG_IDENT.DEVICE_ID : Field := { base := 0x0, lsb := 16, width := 10, acc := .ro, reset := 0, perImage := true }

/-- [47:32] RO. PCI vendor ID. (17 Table 17.9) -/
def PKG_IDENT.VENDOR : Field := { base := 0x0, lsb := 32, width := 16, acc := .ro, reset := 0, perImage := true }

/-- [63:48] RO. Device ID of Table 17.1. (17 Table 17.9) -/
def PKG_IDENT.PCI_DEVICE : Field := { base := 0x0, lsb := 48, width := 16, acc := .ro, reset := 0, perImage := true }

/-- PKG_IDENT (17 Table 17.9). -/
def PKG_IDENT.desc : RegDesc := { base := 0x0, die := false, dims := [], fields := [PKG_IDENT.MEMBER, PKG_IDENT.DIE_COUNT, PKG_IDENT.STEPPING, PKG_IDENT.DEVICE_ID, PKG_IDENT.VENDOR, PKG_IDENT.PCI_DEVICE] }

/-- [63:0] RO.  (17 Registers) -/
def PKG_SERIAL.SERIAL : Field := { base := 0x8, lsb := 0, width := 64, acc := .ro, reset := 0, perImage := true }

/-- PKG_SERIAL (17 Registers). -/
def PKG_SERIAL.desc : RegDesc := { base := 0x8, die := false, dims := [(0x8, 2)], fields := [PKG_SERIAL.SERIAL] }

/-- [3:0] RO. 0 REGULATING, 1 LOADING, 2 WEAVING, 3 MEMORY, 4 LINKS, 5 OPTICS, 6 READY, 7 NO_IMAGE. (17 Table 17.10) -/
def PKG_STATUS.PHASE : Field := { base := 0x18, lsb := 0, width := 4, acc := .ro, reset := 0 }

/-- [6:4] RO. 0 cold, 1 PERST#, 2 RESET_PACKAGE, 3 supply fault. (17 Table 17.10) -/
def PKG_STATUS.LAST_RESET : Field := { base := 0x18, lsb := 4, width := 3, acc := .ro, reset := 0 }

/-- [7] W1C. A host-interface reset occurred since this bit was last cleared. (17 Table 17.10) -/
def PKG_STATUS.HOST_RESET : Field := { base := 0x18, lsb := 7, width := 1, acc := .w1c, reset := 0 }

/-- [31:16] RO. Milliseconds from start to READY at the last start-up; saturates. (17 Table 17.10) -/
def PKG_STATUS.READY_MS : Field := { base := 0x18, lsb := 16, width := 16, acc := .ro, reset := 0 }

/-- [63:32] RO. Seconds since READY. (17 Table 17.10) -/
def PKG_STATUS.UPTIME_S : Field := { base := 0x18, lsb := 32, width := 32, acc := .ro, reset := 0 }

/-- PKG_STATUS (17 Table 17.10). -/
def PKG_STATUS.desc : RegDesc := { base := 0x18, die := false, dims := [], fields := [PKG_STATUS.PHASE, PKG_STATUS.LAST_RESET, PKG_STATUS.HOST_RESET, PKG_STATUS.READY_MS, PKG_STATUS.UPTIME_S] }

/-- [0] WO. 1 requests a package reset. (17 Table 17.11) -/
def PKG_CMD.RESET_PACKAGE : Field := { base := 0x20, lsb := 0, width := 1, acc := .wo, reset := 0 }

/-- [31:16] WO. Must be 0xA5C3. (17 Table 17.11) -/
def PKG_CMD.KEY : Field := { base := 0x20, lsb := 16, width := 16, acc := .wo, reset := 0 }

/-- [35:32] RO. 0 OK, 1 BAD_KEY, 2 LOCKED. (17 Table 17.11) -/
def PKG_CMD.RESULT : Field := { base := 0x20, lsb := 32, width := 4, acc := .ro, reset := 0 }

/-- PKG_CMD (17 Table 17.11). -/
def PKG_CMD.desc : RegDesc := { base := 0x20, die := false, dims := [], fields := [PKG_CMD.RESET_PACKAGE, PKG_CMD.KEY, PKG_CMD.RESULT] }

/-- [15:0] RO. Input voltage, mV. (18 Table 18.12) -/
def PKG_PWR_STATUS.VIN_MV : Field := { base := 0x100, lsb := 0, width := 16, acc := .ro, reset := 0 }

/-- [31:16] RO. Input current, 0.01 A. (18 Table 18.12) -/
def PKG_PWR_STATUS.IIN_CA : Field := { base := 0x100, lsb := 16, width := 16, acc := .ro, reset := 0 }

/-- [47:32] RO. Input power, 0.1 W. (18 Table 18.12) -/
def PKG_PWR_STATUS.PIN_DW : Field := { base := 0x100, lsb := 32, width := 16, acc := .ro, reset := 0 }

/-- [48] RO. Table 18.1. (18 Table 18.12) -/
def PKG_PWR_STATUS.UNDERVOLT : Field := { base := 0x100, lsb := 48, width := 1, acc := .ro, reset := 0 }

/-- [49] RO. Table 18.1. (18 Table 18.12) -/
def PKG_PWR_STATUS.OVERPOWER : Field := { base := 0x100, lsb := 49, width := 1, acc := .ro, reset := 0 }

/-- [50] W1C. Set at each onset of bits 48–49. (18 Table 18.12) -/
def PKG_PWR_STATUS.ALERT_EVENT : Field := { base := 0x100, lsb := 50, width := 1, acc := .w1c, reset := 0 }

/-- PKG_PWR_STATUS (18 Table 18.12). -/
def PKG_PWR_STATUS.desc : RegDesc := { base := 0x100, die := false, dims := [], fields := [PKG_PWR_STATUS.VIN_MV, PKG_PWR_STATUS.IIN_CA, PKG_PWR_STATUS.PIN_DW, PKG_PWR_STATUS.UNDERVOLT, PKG_PWR_STATUS.OVERPOWER, PKG_PWR_STATUS.ALERT_EVENT] }

/-- [15:0] RW. Power alarm, W; 0: off. (18 Table 18.13) -/
def PKG_PWR_CTRL.ALARM_W : Field := { base := 0x108, lsb := 0, width := 16, acc := .rw, reset := 0 }

/-- [16] RW. PWR_ALERT# follows UNDERVOLT and OVERPOWER. (18 Table 18.13) -/
def PKG_PWR_CTRL.ALERT_EN : Field := { base := 0x108, lsb := 16, width := 1, acc := .rw, reset := 1 }

/-- PKG_PWR_CTRL (18 Table 18.13). -/
def PKG_PWR_CTRL.desc : RegDesc := { base := 0x108, die := false, dims := [], fields := [PKG_PWR_CTRL.ALARM_W, PKG_PWR_CTRL.ALERT_EN] }

/-- [0] RW. Power request (R405, R406). (18 Table 18.14) -/
def PKG_DIE_CTRL.ENABLE : Field := { base := 0x140, lsb := 0, width := 1, acc := .rw, reset := 1 }

/-- [2:1] RO. 0 OFF, 1 STARTING, 2 ON, 3 SHUTTING. (18 Table 18.14) -/
def PKG_DIE_CTRL.STATE : Field := { base := 0x140, lsb := 1, width := 2, acc := .ro, reset := 0 }

/-- [3] RO. Off by thermal trip. (18 Table 18.14) -/
def PKG_DIE_CTRL.TRIPPED : Field := { base := 0x140, lsb := 3, width := 1, acc := .ro, reset := 0 }

/-- [4] W1C. Set at each trip. (18 Table 18.14) -/
def PKG_DIE_CTRL.TRIP_EVENT : Field := { base := 0x140, lsb := 4, width := 1, acc := .w1c, reset := 0 }

/-- [5] RW. Restart after a trip without host command. (18 Table 18.14) -/
def PKG_DIE_CTRL.AUTO_RESTART : Field := { base := 0x140, lsb := 5, width := 1, acc := .rw, reset := 1 }

/-- [63:32] RO. Power-downs since package reset; wraps. (18 Table 18.14) -/
def PKG_DIE_CTRL.OFF_COUNT : Field := { base := 0x140, lsb := 32, width := 32, acc := .ro, reset := 0 }

/-- PKG_DIE_CTRL (18 Table 18.14). -/
def PKG_DIE_CTRL.desc : RegDesc := { base := 0x140, die := false, dims := [(0x8, 8)], fields := [PKG_DIE_CTRL.ENABLE, PKG_DIE_CTRL.STATE, PKG_DIE_CTRL.TRIPPED, PKG_DIE_CTRL.TRIP_EVENT, PKG_DIE_CTRL.AUTO_RESTART, PKG_DIE_CTRL.OFF_COUNT] }

/-- [0] RO. 0: A, 1: B. (02 Table 2.11) -/
def DMK_STATUS.ACTIVE_SLOT : Field := { base := 0x10000, lsb := 0, width := 1, acc := .ro, reset := 0 }

/-- [1] RO. 1 while the active image is on trial. (02 Table 2.11) -/
def DMK_STATUS.TRIAL : Field := { base := 0x10000, lsb := 1, width := 1, acc := .ro, reset := 0 }

/-- [2] W1C. Set under R51. (02 Table 2.11) -/
def DMK_STATUS.FALLBACK : Field := { base := 0x10000, lsb := 2, width := 1, acc := .w1c, reset := 0 }

/-- [5:3] RO. 0 NO_IMAGE, 1 CHECKING, 2 WEAVING, 3 WOVEN, 4 STAGING, 5 REWEAVING; others reserved. (02 Table 2.11) -/
def DMK_STATUS.WEAVE_STATE : Field := { base := 0x10000, lsb := 3, width := 3, acc := .ro, reset := 0 }

/-- [11:8] RO. Result of the last command or check, Table 2.12. (02 Table 2.11) -/
def DMK_STATUS.LAST_RESULT : Field := { base := 0x10000, lsb := 8, width := 4, acc := .ro, reset := 0 }

/-- [47:16] RO. IMAGE_VERSION of the woven image. (02 Table 2.11) -/
def DMK_STATUS.ACTIVE_VERSION : Field := { base := 0x10000, lsb := 16, width := 32, acc := .ro, reset := 0, perImage := true }

/-- [63:48] RO. Records rejected under R48 since package reset; saturates. (02 Table 2.11) -/
def DMK_STATUS.CORRUPT_COUNT : Field := { base := 0x10000, lsb := 48, width := 16, acc := .ro, reset := 0 }

/-- DMK_STATUS (02 Table 2.11). -/
def DMK_STATUS.desc : RegDesc := { base := 0x10000, die := false, dims := [], fields := [DMK_STATUS.ACTIVE_SLOT, DMK_STATUS.TRIAL, DMK_STATUS.FALLBACK, DMK_STATUS.WEAVE_STATE, DMK_STATUS.LAST_RESULT, DMK_STATUS.ACTIVE_VERSION, DMK_STATUS.CORRUPT_COUNT] }

/-- [3:0] WO. 1 STAGE_BEGIN, 2 STAGE_END, 3 SELECT, 4 CONFIRM, 5 WEAVE, 6 TREE_REWEAVE; others ignored. (02 Table 2.13) -/
def DMK_COMMAND.OP : Field := { base := 0x10008, lsb := 0, width := 4, acc := .wo, reset := 0 }

/-- [4] WO. Slot for STAGE_BEGIN, SELECT and TREE_REWEAVE. (02 Table 2.13) -/
def DMK_COMMAND.SLOT : Field := { base := 0x10008, lsb := 4, width := 1, acc := .wo, reset := 0 }

/-- [5] WO. For SELECT: 1 selects on trial. (02 Table 2.13) -/
def DMK_COMMAND.TRIAL : Field := { base := 0x10008, lsb := 5, width := 1, acc := .wo, reset := 0 }

/-- [13:8] WO. Package-wide tree for TREE_REWEAVE. (02 Table 2.13) -/
def DMK_COMMAND.TREE : Field := { base := 0x10008, lsb := 8, width := 6, acc := .wo, reset := 0 }

/-- DMK_COMMAND (02 Table 2.13). -/
def DMK_COMMAND.desc : RegDesc := { base := 0x10008, die := false, dims := [], fields := [DMK_COMMAND.OP, DMK_COMMAND.SLOT, DMK_COMMAND.TRIAL, DMK_COMMAND.TREE] }

/-- [1:0] RO. 0 OFF, 1 STARTING, 2 ON, 3 SHUTTING. (02 Table 2.14) -/
def DMK_TREE_STATE.STATE : Field := { base := 0x10100, lsb := 0, width := 2, acc := .ro, reset := 0 }

/-- [2] RO. 1 while a per-tree re-weave runs on this tree. (02 Table 2.14) -/
def DMK_TREE_STATE.REWEAVE : Field := { base := 0x10100, lsb := 2, width := 1, acc := .ro, reset := 0 }

/-- [3] RO. 1 while a request is latched under R56. (02 Table 2.14) -/
def DMK_TREE_STATE.LATCHED : Field := { base := 0x10100, lsb := 3, width := 1, acc := .ro, reset := 0 }

/-- [6:4] RO. 0 not live, 1 Twill, 2 50G-PON, 3 XGS-PON, 4 coexistence. (02 Table 2.14) -/
def DMK_TREE_STATE.LINE_MODE : Field := { base := 0x10100, lsb := 4, width := 3, acc := .ro, reset := 0 }

/-- [63:32] RO. Completed per-tree re-weaves since package reset; wraps. (02 Table 2.14) -/
def DMK_TREE_STATE.REWEAVE_COUNT : Field := { base := 0x10100, lsb := 32, width := 32, acc := .ro, reset := 0 }

/-- DMK_TREE_STATE (02 Table 2.14). -/
def DMK_TREE_STATE.desc : RegDesc := { base := 0x10100, die := false, dims := [(0x8, 64)], fields := [DMK_TREE_STATE.STATE, DMK_TREE_STATE.REWEAVE, DMK_TREE_STATE.LATCHED, DMK_TREE_STATE.LINE_MODE, DMK_TREE_STATE.REWEAVE_COUNT] }

/-- [0] W1S. Locks key bindings and plaintext key entry. (02 Table 2.15) -/
def SEC_LOCK.KEYS : Field := { base := 0x20000, lsb := 0, width := 1, acc := .w1s, reset := 0 }

/-- [1] W1S. Locks image staging, selection and weaving. (02 Table 2.15) -/
def SEC_LOCK.DAMASK : Field := { base := 0x20000, lsb := 1, width := 1, acc := .w1s, reset := 0 }

/-- [2] W1S. Locks the firewall rules. (02 Table 2.15) -/
def SEC_LOCK.FIREWALL : Field := { base := 0x20000, lsb := 2, width := 1, acc := .w1s, reset := 0 }

/-- [3] W1S. Keeps the debug port shut. (02 Table 2.15) -/
def SEC_LOCK.DEBUG : Field := { base := 0x20000, lsb := 3, width := 1, acc := .w1s, reset := 0 }

/-- [4] W1S. Locks host control of network time. (02 Table 2.15) -/
def SEC_LOCK.TIME : Field := { base := 0x20000, lsb := 4, width := 1, acc := .w1s, reset := 0 }

/-- SEC_LOCK (02 Table 2.15). -/
def SEC_LOCK.desc : RegDesc := { base := 0x20000, die := false, dims := [], fields := [SEC_LOCK.KEYS, SEC_LOCK.DAMASK, SEC_LOCK.FIREWALL, SEC_LOCK.DEBUG, SEC_LOCK.TIME] }

/-- [19:0] RWL. First 4 KiB page covered. (02 Table 2.17) -/
def SEC_FW_RULE.BASE_PAGE : Field := { base := 0x20100, lsb := 0, width := 20, acc := .rwl, reset := 0 }

/-- [39:20] RWL. Last 4 KiB page covered, inclusive. (02 Table 2.17) -/
def SEC_FW_RULE.LIMIT_PAGE : Field := { base := 0x20100, lsb := 20, width := 20, acc := .rwl, reset := 0 }

/-- [40] RWL. 0: BAR0, 1: BAR2. (02 Table 2.17) -/
def SEC_FW_RULE.BAR : Field := { base := 0x20100, lsb := 40, width := 1, acc := .rwl, reset := 0 }

/-- [41] RWL. Host reads permitted. (02 Table 2.17) -/
def SEC_FW_RULE.HOST_READ : Field := { base := 0x20100, lsb := 41, width := 1, acc := .rwl, reset := 0 }

/-- [42] RWL. Host writes permitted. (02 Table 2.17) -/
def SEC_FW_RULE.HOST_WRITE : Field := { base := 0x20100, lsb := 42, width := 1, acc := .rwl, reset := 0 }

/-- [43] RWL. Extension-task reads permitted. (02 Table 2.17) -/
def SEC_FW_RULE.EXT_READ : Field := { base := 0x20100, lsb := 43, width := 1, acc := .rwl, reset := 0 }

/-- [44] RWL. Extension-task writes permitted. (02 Table 2.17) -/
def SEC_FW_RULE.EXT_WRITE : Field := { base := 0x20100, lsb := 44, width := 1, acc := .rwl, reset := 0 }

/-- [45] RWL. Rule in force. (02 Table 2.17) -/
def SEC_FW_RULE.VALID : Field := { base := 0x20100, lsb := 45, width := 1, acc := .rwl, reset := 0 }

/-- SEC_FW_RULE (02 Table 2.17). -/
def SEC_FW_RULE.desc : RegDesc := { base := 0x20100, die := false, dims := [(0x8, 64)], fields := [SEC_FW_RULE.BASE_PAGE, SEC_FW_RULE.LIMIT_PAGE, SEC_FW_RULE.BAR, SEC_FW_RULE.HOST_READ, SEC_FW_RULE.HOST_WRITE, SEC_FW_RULE.EXT_READ, SEC_FW_RULE.EXT_WRITE, SEC_FW_RULE.VALID] }

/-- [31:0] RO. Byte offset in the BAR of the last event. (02 Table 2.18) -/
def SEC_FW_EVENT.LAST_OFFSET : Field := { base := 0x20300, lsb := 0, width := 32, acc := .ro, reset := 0 }

/-- [32] RO. 0: BAR0, 1: BAR2. (02 Table 2.18) -/
def SEC_FW_EVENT.LAST_BAR : Field := { base := 0x20300, lsb := 32, width := 1, acc := .ro, reset := 0 }

/-- [33] RO. 1 if the access was a write. (02 Table 2.18) -/
def SEC_FW_EVENT.LAST_WRITE : Field := { base := 0x20300, lsb := 33, width := 1, acc := .ro, reset := 0 }

/-- [35:34] RO. 0 host refused, 1 extension task refused, 2 debug refused, 3 LOCKED (R15, R39, Table 2.16). (02 Table 2.18) -/
def SEC_FW_EVENT.SOURCE : Field := { base := 0x20300, lsb := 34, width := 2, acc := .ro, reset := 0 }

/-- [63:36] RO. Events since package reset; saturates. (02 Table 2.18) -/
def SEC_FW_EVENT.COUNT : Field := { base := 0x20300, lsb := 36, width := 28, acc := .ro, reset := 0 }

/-- SEC_FW_EVENT (02 Table 2.18). -/
def SEC_FW_EVENT.desc : RegDesc := { base := 0x20300, die := false, dims := [], fields := [SEC_FW_EVENT.LAST_OFFSET, SEC_FW_EVENT.LAST_BAR, SEC_FW_EVENT.LAST_WRITE, SEC_FW_EVENT.SOURCE, SEC_FW_EVENT.COUNT] }

/-- [1:0] RO. 0 CLOSED, 1 OPEN, 2 SHUT, 3 LOCKED (DEBUG set). (02 Table 2.19) -/
def SEC_DBG_STATUS.STATE : Field := { base := 0x20400, lsb := 0, width := 2, acc := .ro, reset := 0 }

/-- [6:2] RO. Failed attempts, 0–16; kept across package reset. (02 Table 2.19) -/
def SEC_DBG_STATUS.FAILURES : Field := { base := 0x20400, lsb := 2, width := 5, acc := .ro, reset := 0 }

/-- [7] RO. A nonce is outstanding. (02 Table 2.19) -/
def SEC_DBG_STATUS.NONCE_VALID : Field := { base := 0x20400, lsb := 7, width := 1, acc := .ro, reset := 0 }

/-- [8] RO. A DEBUG_PW_HASH record holds. (02 Table 2.19) -/
def SEC_DBG_STATUS.PASSWORD_SET : Field := { base := 0x20400, lsb := 8, width := 1, acc := .ro, reset := 0 }

/-- [15:12] RO. 0 none, 1 OPENED, 2 FAILED, 3 WAIT, 4 SHUT, 5 LOCKED, 6 NO_NONCE, 7 NO_PASSWORD, 8 PASSWORD_CHANGED. (02 Table 2.19) -/
def SEC_DBG_STATUS.LAST_RESULT : Field := { base := 0x20400, lsb := 12, width := 4, acc := .ro, reset := 0 }

/-- [29:16] RO. Milliseconds until the next attempt is accepted, 0–10,000. (02 Table 2.19) -/
def SEC_DBG_STATUS.WAIT_MS : Field := { base := 0x20400, lsb := 16, width := 14, acc := .ro, reset := 0 }

/-- SEC_DBG_STATUS (02 Table 2.19). -/
def SEC_DBG_STATUS.desc : RegDesc := { base := 0x20400, die := false, dims := [], fields := [SEC_DBG_STATUS.STATE, SEC_DBG_STATUS.FAILURES, SEC_DBG_STATUS.NONCE_VALID, SEC_DBG_STATUS.PASSWORD_SET, SEC_DBG_STATUS.LAST_RESULT, SEC_DBG_STATUS.WAIT_MS] }

/-- [63:0] RO.  (02 Registers) -/
def SEC_DBG_NONCE.NONCE : Field := { base := 0x20408, lsb := 0, width := 64, acc := .ro, reset := 0 }

/-- SEC_DBG_NONCE (02 Registers). -/
def SEC_DBG_NONCE.desc : RegDesc := { base := 0x20408, die := false, dims := [(0x8, 4)], fields := [SEC_DBG_NONCE.NONCE] }

/-- [63:0] WO.  (02 Registers) -/
def SEC_DBG_CRED.CRED : Field := { base := 0x20440, lsb := 0, width := 64, acc := .wo, reset := 0 }

/-- SEC_DBG_CRED (02 Registers). -/
def SEC_DBG_CRED.desc : RegDesc := { base := 0x20440, die := false, dims := [(0x8, 25)], fields := [SEC_DBG_CRED.CRED] }

/-- [1:0] WO.  (02 Registers) -/
def SEC_DBG_SUBMIT.METHOD : Field := { base := 0x20508, lsb := 0, width := 2, acc := .wo, reset := 0 }

/-- SEC_DBG_SUBMIT (02 Registers). -/
def SEC_DBG_SUBMIT.desc : RegDesc := { base := 0x20508, die := false, dims := [], fields := [SEC_DBG_SUBMIT.METHOD] }

/-- [1:0] RWL. Table 13.6; initial value from the fabric lane modes section (R293). (13 Table 13.15) -/
def TIME_CTRL.SOURCE : Field := { base := 0x30000, lsb := 0, width := 2, acc := .rwl, reset := 0, perImage := true }

/-- [2] WO. 1 adds TIME_OFFSET (R311). (13 Table 13.15) -/
def TIME_CTRL.STEP : Field := { base := 0x30000, lsb := 2, width := 1, acc := .wo, reset := 0 }

/-- [3] WO. With STEP: step with trees ON. (13 Table 13.15) -/
def TIME_CTRL.FORCE : Field := { base := 0x30000, lsb := 3, width := 1, acc := .wo, reset := 0 }

/-- [19:4] RWL. 1–65,535 µs; initial value from the fabric lane modes section, 1,000 by Fraush default. (13 Table 13.15) -/
def TIME_CTRL.STEP_LIMIT_US : Field := { base := 0x30000, lsb := 4, width := 16, acc := .rwl, reset := 0, perImage := true }

/-- [20] RW. Drive 1PPS out. (13 Table 13.15) -/
def TIME_CTRL.PPS_OUT_EN : Field := { base := 0x30000, lsb := 20, width := 1, acc := .rw, reset := 1 }

/-- [21] RW. Drive ToD out. (13 Table 13.15) -/
def TIME_CTRL.TOD_OUT_EN : Field := { base := 0x30000, lsb := 21, width := 1, acc := .rw, reset := 1 }

/-- [22] RO. 1 while a step with FORCE, or an acquisition, waits for its trees (R311). (13 Table 13.15) -/
def TIME_CTRL.STEP_PENDING : Field := { base := 0x30000, lsb := 22, width := 1, acc := .ro, reset := 0 }

/-- TIME_CTRL (13 Table 13.15). -/
def TIME_CTRL.desc : RegDesc := { base := 0x30000, die := false, dims := [], fields := [TIME_CTRL.SOURCE, TIME_CTRL.STEP, TIME_CTRL.FORCE, TIME_CTRL.STEP_LIMIT_US, TIME_CTRL.PPS_OUT_EN, TIME_CTRL.TOD_OUT_EN, TIME_CTRL.STEP_PENDING] }

/-- [63:0] RWL.  (13 Registers) -/
def TIME_OFFSET.OFFSET : Field := { base := 0x30008, lsb := 0, width := 64, acc := .rwl, reset := 0 }

/-- TIME_OFFSET (13 Registers). -/
def TIME_OFFSET.desc : RegDesc := { base := 0x30008, die := false, dims := [], fields := [TIME_OFFSET.OFFSET] }

/-- [63:0] WO.  (13 Registers) -/
def TIME_MEAS.MEAS : Field := { base := 0x30010, lsb := 0, width := 64, acc := .wo, reset := 0 }

/-- TIME_MEAS (13 Registers). -/
def TIME_MEAS.desc : RegDesc := { base := 0x30010, die := false, dims := [], fields := [TIME_MEAS.MEAS] }

/-- [47:0] RO.  (13 Registers) -/
def TIME_NOW_LO.TIME : Field := { base := 0x30018, lsb := 0, width := 48, acc := .ro, reset := 0 }

/-- TIME_NOW_LO (13 Registers). -/
def TIME_NOW_LO.desc : RegDesc := { base := 0x30018, die := false, dims := [], fields := [TIME_NOW_LO.TIME] }

/-- [47:0] RO.  (13 Registers) -/
def TIME_NOW_HI.SECONDS : Field := { base := 0x30020, lsb := 0, width := 48, acc := .ro, reset := 0 }

/-- TIME_NOW_HI (13 Registers). -/
def TIME_NOW_HI.desc : RegDesc := { base := 0x30020, die := false, dims := [], fields := [TIME_NOW_HI.SECONDS] }

/-- [0] RO. R309. (13 Table 13.16) -/
def TIME_STATUS.VALID : Field := { base := 0x30028, lsb := 0, width := 1, acc := .ro, reset := 0 }

/-- [1] RO. R310. (13 Table 13.16) -/
def TIME_STATUS.HOLDOVER : Field := { base := 0x30028, lsb := 1, width := 1, acc := .ro, reset := 0 }

/-- [2] RO. Offset estimate within ±100 ns. (13 Table 13.16) -/
def TIME_STATUS.LOCKED : Field := { base := 0x30028, lsb := 2, width := 1, acc := .ro, reset := 0 }

/-- [3] W1C. R311. (13 Table 13.16) -/
def TIME_STATUS.STEP_NEEDED : Field := { base := 0x30028, lsb := 3, width := 1, acc := .w1c, reset := 0 }

/-- [4] W1C. R310. (13 Table 13.16) -/
def TIME_STATUS.SOURCE_LOST : Field := { base := 0x30028, lsb := 4, width := 1, acc := .w1c, reset := 0 }

/-- [10:5] RO. Stratum sent. (13 Table 13.16) -/
def TIME_STATUS.STRATUM : Field := { base := 0x30028, lsb := 5, width := 6, acc := .ro, reset := 63 }

/-- [15:11] RO. Package lane of the FABRIC source. (13 Table 13.16) -/
def TIME_STATUS.SOURCE_LANE : Field := { base := 0x30028, lsb := 11, width := 5, acc := .ro, reset := 0 }

/-- [47:16] RO. Last offset estimate, signed ns; saturates. (13 Table 13.16) -/
def TIME_STATUS.OFFSET_NS : Field := { base := 0x30028, lsb := 16, width := 32, acc := .ro, reset := 0 }

/-- [63:48] RO. Rate against the resonator, signed ppb; saturates at −32,768 and +32,767. (13 Table 13.16) -/
def TIME_STATUS.RATE_PPB : Field := { base := 0x30028, lsb := 48, width := 16, acc := .ro, reset := 0 }

/-- TIME_STATUS (13 Table 13.16). -/
def TIME_STATUS.desc : RegDesc := { base := 0x30028, die := false, dims := [], fields := [TIME_STATUS.VALID, TIME_STATUS.HOLDOVER, TIME_STATUS.LOCKED, TIME_STATUS.STEP_NEEDED, TIME_STATUS.SOURCE_LOST, TIME_STATUS.STRATUM, TIME_STATUS.SOURCE_LANE, TIME_STATUS.OFFSET_NS, TIME_STATUS.RATE_PPB] }

/-- [0] RW. Pairing on (R326). (14 Table 14.12) -/
def PEER_CTRL.ENABLE : Field := { base := 0x40000, lsb := 0, width := 1, acc := .rw, reset := 0 }

/-- [10:1] RW. Device ID in stamps and tags (R327). (14 Table 14.12) -/
def PEER_CTRL.PAIR_DEVICE : Field := { base := 0x40000, lsb := 1, width := 10, acc := .rw, reset := 0 }

/-- [11] RW. R337. (14 Table 14.12) -/
def PEER_CTRL.AUTO_DEGRADE : Field := { base := 0x40000, lsb := 11, width := 1, acc := .rw, reset := 0 }

/-- [31:16] RW. Tag EtherType (R330). (14 Table 14.12) -/
def PEER_CTRL.TAG_ETHERTYPE : Field := { base := 0x40000, lsb := 16, width := 16, acc := .rw, reset := 34998 }

/-- PEER_CTRL (14 Table 14.12). -/
def PEER_CTRL.desc : RegDesc := { base := 0x40000, die := false, dims := [], fields := [PEER_CTRL.ENABLE, PEER_CTRL.PAIR_DEVICE, PEER_CTRL.AUTO_DEGRADE, PEER_CTRL.TAG_ETHERTYPE] }

/-- [2:0] RO. 0 ALONE, 1 PAIRING, 2 ACTIVE, 3 STANDBY. (14 Table 14.13) -/
def PEER_STATUS.ROLE : Field := { base := 0x40008, lsb := 0, width := 3, acc := .ro, reset := 0 }

/-- [3] RO. Toggling. (14 Table 14.13) -/
def PEER_STATUS.CLAIM_OUT : Field := { base := 0x40008, lsb := 3, width := 1, acc := .ro, reset := 0 }

/-- [4] RO. Live claim read. (14 Table 14.13) -/
def PEER_STATUS.CLAIM_IN : Field := { base := 0x40008, lsb := 4, width := 1, acc := .ro, reset := 0 }

/-- [5] RO. Strap at package reset. (14 Table 14.13) -/
def PEER_STATUS.SENIOR : Field := { base := 0x40008, lsb := 5, width := 1, acc := .ro, reset := 0, perImage := true }

/-- [6] RO. R325. (14 Table 14.13) -/
def PEER_STATUS.HB_FAIL : Field := { base := 0x40008, lsb := 6, width := 1, acc := .ro, reset := 0 }

/-- [7] W1C. R326. (14 Table 14.13) -/
def PEER_STATUS.PAIR_MISMATCH : Field := { base := 0x40008, lsb := 7, width := 1, acc := .w1c, reset := 0 }

/-- [8] W1C. R322. (14 Table 14.13) -/
def PEER_STATUS.CLAIM_FAULT : Field := { base := 0x40008, lsb := 8, width := 1, acc := .w1c, reset := 0 }

/-- [9] W1C. R319. (14 Table 14.13) -/
def PEER_STATUS.CLAIM_BLOCKED : Field := { base := 0x40008, lsb := 9, width := 1, acc := .w1c, reset := 0 }

/-- [10] W1C. R334. (14 Table 14.13) -/
def PEER_STATUS.SWITCH_EVENT : Field := { base := 0x40008, lsb := 10, width := 1, acc := .w1c, reset := 0 }

/-- [25:16] RO. From the partner's PEER blocks. (14 Table 14.13) -/
def PEER_STATUS.PARTNER_DEVICE : Field := { base := 0x40008, lsb := 16, width := 10, acc := .ro, reset := 0 }

/-- PEER_STATUS (14 Table 14.13). -/
def PEER_STATUS.desc : RegDesc := { base := 0x40008, die := false, dims := [], fields := [PEER_STATUS.ROLE, PEER_STATUS.CLAIM_OUT, PEER_STATUS.CLAIM_IN, PEER_STATUS.SENIOR, PEER_STATUS.HB_FAIL, PEER_STATUS.PAIR_MISMATCH, PEER_STATUS.CLAIM_FAULT, PEER_STATUS.CLAIM_BLOCKED, PEER_STATUS.SWITCH_EVENT, PEER_STATUS.PARTNER_DEVICE] }

/-- [1:0] WO. 1 RELEASE, 2 CALIBRATE; others ignored. (14 Table 14.14) -/
def PEER_CMD.OP : Field := { base := 0x40010, lsb := 0, width := 2, acc := .wo, reset := 0 }

/-- [7:2] WO. Tree for CALIBRATE. (14 Table 14.14) -/
def PEER_CMD.TREE : Field := { base := 0x40010, lsb := 2, width := 6, acc := .wo, reset := 0 }

/-- [39:8] WO. F for RELEASE. (14 Table 14.14) -/
def PEER_CMD.FRAME : Field := { base := 0x40010, lsb := 8, width := 32, acc := .wo, reset := 0 }

/-- [43:40] RO. 0 OK, 1 BUSY, 2 BAD_STATE, 3 LATE, 4 FAR. (14 Table 14.14) -/
def PEER_CMD.RESULT : Field := { base := 0x40010, lsb := 40, width := 4, acc := .ro, reset := 0 }

/-- [44] RO. 1 when the last command has finished. (14 Table 14.14) -/
def PEER_CMD.DONE : Field := { base := 0x40010, lsb := 44, width := 1, acc := .ro, reset := 1 }

/-- PEER_CMD (14 Table 14.14). -/
def PEER_CMD.desc : RegDesc := { base := 0x40010, die := false, dims := [], fields := [PEER_CMD.OP, PEER_CMD.TREE, PEER_CMD.FRAME, PEER_CMD.RESULT, PEER_CMD.DONE] }

/-- [31:0] RO.  (14 Registers) -/
def PEER_TIME.TAU : Field := { base := 0x40018, lsb := 0, width := 32, acc := .ro, reset := 0 }

/-- PEER_TIME (14 Registers). -/
def PEER_TIME.desc : RegDesc := { base := 0x40018, die := false, dims := [], fields := [PEER_TIME.TAU] }

/-- [0] RW.  (14 Registers) -/
def PEER_ELIM_CTRL.ENABLE : Field := { base := 0x40020, lsb := 0, width := 1, acc := .rw, reset := 0 }

/-- [7:1] RW.  (14 Registers) -/
def PEER_ELIM_CTRL.HISTORY : Field := { base := 0x40020, lsb := 1, width := 7, acc := .rw, reset := 32 }

/-- [23:8] RW.  (14 Registers) -/
def PEER_ELIM_CTRL.RESET_MS : Field := { base := 0x40020, lsb := 8, width := 16, acc := .rw, reset := 1000 }

/-- PEER_ELIM_CTRL (14 Registers). -/
def PEER_ELIM_CTRL.desc : RegDesc := { base := 0x40020, die := false, dims := [], fields := [PEER_ELIM_CTRL.ENABLE, PEER_ELIM_CTRL.HISTORY, PEER_ELIM_CTRL.RESET_MS] }

/-- [0] RW. Tree is shared with the partner; takes effect at the tree's next start. (14 Table 14.15) -/
def PEER_TREE.PROTECTED : Field := { base := 0x40100, lsb := 0, width := 1, acc := .rw, reset := 0 }

/-- [1] W1C. R328. (14 Table 14.15) -/
def PEER_TREE.CAL_FAIL : Field := { base := 0x40100, lsb := 1, width := 1, acc := .w1c, reset := 0 }

/-- [2] RO. Offsets set since pairing. (14 Table 14.15) -/
def PEER_TREE.CAL_DONE : Field := { base := 0x40100, lsb := 2, width := 1, acc := .ro, reset := 0 }

/-- [23:8] RO. Signed, 1/24.8832 ns. (14 Table 14.15) -/
def PEER_TREE.RX_OFFSET : Field := { base := 0x40100, lsb := 8, width := 16, acc := .ro, reset := 0 }

/-- [47:24] RO. Signed, ps. (14 Table 14.15) -/
def PEER_TREE.DS_OFFSET_PS : Field := { base := 0x40100, lsb := 24, width := 24, acc := .ro, reset := 0 }

/-- PEER_TREE (14 Table 14.15). -/
def PEER_TREE.desc : RegDesc := { base := 0x40100, die := false, dims := [(0x8, 64)], fields := [PEER_TREE.PROTECTED, PEER_TREE.CAL_FAIL, PEER_TREE.CAL_DONE, PEER_TREE.RX_OFFSET, PEER_TREE.DS_OFFSET_PS] }

/-- [63:0] RC. Table 4.16. (14 R339) -/
def PEER_CNT.COUNT : Field := { base := 0x40300, lsb := 0, width := 64, acc := .rc, reset := 0 }

/-- PEER_CNT (14 R339). -/
def PEER_CNT.desc : RegDesc := { base := 0x40300, die := false, dims := [(0x8, 12)], fields := [PEER_CNT.COUNT] }

/-- [63:0] RO.  (14 Registers) -/
def PEER_HEALTH_SELF.DATA : Field := { base := 0x40400, lsb := 0, width := 64, acc := .ro, reset := 0 }

/-- PEER_HEALTH_SELF (14 Registers). -/
def PEER_HEALTH_SELF.desc : RegDesc := { base := 0x40400, die := false, dims := [(0x8, 8)], fields := [PEER_HEALTH_SELF.DATA] }

/-- [63:0] RO.  (14 Registers) -/
def PEER_HEALTH_PARTNER.DATA : Field := { base := 0x40440, lsb := 0, width := 64, acc := .ro, reset := 0 }

/-- PEER_HEALTH_PARTNER (14 Registers). -/
def PEER_HEALTH_PARTNER.desc : RegDesc := { base := 0x40440, die := false, dims := [(0x8, 8)], fields := [PEER_HEALTH_PARTNER.DATA] }

/-- [27:0] RO. Offset within its BAR, in 16-byte units for BAR2. (17 Table 17.12) -/
def HOST_UNMAPPED.LAST_OFFSET : Field := { base := 0x50008, lsb := 0, width := 28, acc := .ro, reset := 0 }

/-- [28] RO. 1 if a write. (17 Table 17.12) -/
def HOST_UNMAPPED.LAST_WRITE : Field := { base := 0x50008, lsb := 28, width := 1, acc := .ro, reset := 0 }

/-- [29] RO. 0 BAR0, 1 BAR2. (17 Table 17.12) -/
def HOST_UNMAPPED.LAST_BAR : Field := { base := 0x50008, lsb := 29, width := 1, acc := .ro, reset := 0 }

/-- [63:32] RO. Accesses since package reset; saturates. (17 Table 17.12) -/
def HOST_UNMAPPED.COUNT : Field := { base := 0x50008, lsb := 32, width := 32, acc := .ro, reset := 0 }

/-- HOST_UNMAPPED (17 Table 17.12). -/
def HOST_UNMAPPED.desc : RegDesc := { base := 0x50008, die := false, dims := [], fields := [HOST_UNMAPPED.LAST_OFFSET, HOST_UNMAPPED.LAST_WRITE, HOST_UNMAPPED.LAST_BAR, HOST_UNMAPPED.COUNT] }

/-- [0] RW. Aperture mapped. (17 Table 17.13) -/
def HOST_BAR2_WIN.VALID : Field := { base := 0x50100, lsb := 0, width := 1, acc := .rw, reset := 0 }

/-- [3:1] RW. Die. (17 Table 17.13) -/
def HOST_BAR2_WIN.DIE : Field := { base := 0x50100, lsb := 1, width := 3, acc := .rw, reset := 0 }

/-- [15:4] RW. Device-memory offset in 64 MiB units. (17 Table 17.13) -/
def HOST_BAR2_WIN.BASE : Field := { base := 0x50100, lsb := 4, width := 12, acc := .rw, reset := 0 }

/-- HOST_BAR2_WIN (17 Table 17.13). -/
def HOST_BAR2_WIN.desc : RegDesc := { base := 0x50100, die := false, dims := [(0x8, 16)], fields := [HOST_BAR2_WIN.VALID, HOST_BAR2_WIN.DIE, HOST_BAR2_WIN.BASE] }

/-- [63:5] RW.  (17 Registers) -/
def HOST_DMA_BASE.ADDR : Field := { base := 0x51000, lsb := 5, width := 59, acc := .rw, reset := 0 }

/-- HOST_DMA_BASE (17 Registers). -/
def HOST_DMA_BASE.desc : RegDesc := { base := 0x51000, die := false, dims := [(0x40, 16)], fields := [HOST_DMA_BASE.ADDR] }

/-- [0] RW. Channel fetches descriptors. (17 Table 17.14) -/
def HOST_DMA_CTRL.ENABLE : Field := { base := 0x51008, lsb := 0, width := 1, acc := .rw, reset := 0 }

/-- [1] RW. 0 transmit, 1 receive. (17 Table 17.14) -/
def HOST_DMA_CTRL.DIRECTION : Field := { base := 0x51008, lsb := 1, width := 1, acc := .rw, reset := 0 }

/-- [5:2] RW. Ring of 2^(SIZE_EXP + 4) descriptors, 0–12. (17 Table 17.14) -/
def HOST_DMA_CTRL.SIZE_EXP : Field := { base := 0x51008, lsb := 2, width := 4, acc := .rw, reset := 0 }

/-- [6] RW. Receive channel takes OMCI. (17 Table 17.14) -/
def HOST_DMA_CTRL.RX_OMCI : Field := { base := 0x51008, lsb := 6, width := 1, acc := .rw, reset := 0 }

/-- [7] RW. Receive channel takes OAM cells. (17 Table 17.14) -/
def HOST_DMA_CTRL.RX_OAM : Field := { base := 0x51008, lsb := 7, width := 1, acc := .rw, reset := 0 }

/-- [18:8] RW. MSI-X vector for IRQ. (17 Table 17.14) -/
def HOST_DMA_CTRL.VECTOR : Field := { base := 0x51008, lsb := 8, width := 11, acc := .rw, reset := 0 }

/-- HOST_DMA_CTRL (17 Table 17.14). -/
def HOST_DMA_CTRL.desc : RegDesc := { base := 0x51008, die := false, dims := [(0x40, 16)], fields := [HOST_DMA_CTRL.ENABLE, HOST_DMA_CTRL.DIRECTION, HOST_DMA_CTRL.SIZE_EXP, HOST_DMA_CTRL.RX_OMCI, HOST_DMA_CTRL.RX_OAM, HOST_DMA_CTRL.VECTOR] }

/-- [15:0] RW.  (17 Registers) -/
def HOST_DMA_PTR.TAIL : Field := { base := 0x51010, lsb := 0, width := 16, acc := .rw, reset := 0 }

/-- [31:16] RO.  (17 Registers) -/
def HOST_DMA_PTR.HEAD : Field := { base := 0x51010, lsb := 16, width := 16, acc := .ro, reset := 0 }

/-- HOST_DMA_PTR (17 Registers). -/
def HOST_DMA_PTR.desc : RegDesc := { base := 0x51010, die := false, dims := [(0x40, 16)], fields := [HOST_DMA_PTR.TAIL, HOST_DMA_PTR.HEAD] }

/-- [0] W1C. Set under R388; fetching stops while set. (17 Table 17.15) -/
def HOST_DMA_STATUS.ERROR : Field := { base := 0x51018, lsb := 0, width := 1, acc := .w1c, reset := 0 }

/-- [3:1] RO. STATUS of the last descriptor completed. (17 Table 17.15) -/
def HOST_DMA_STATUS.LAST_STATUS : Field := { base := 0x51018, lsb := 1, width := 3, acc := .ro, reset := 0 }

/-- [31:16] RO. Messages dropped under R389; saturates. (17 Table 17.15) -/
def HOST_DMA_STATUS.RX_NO_BUFFER : Field := { base := 0x51018, lsb := 16, width := 16, acc := .ro, reset := 0 }

/-- [63:32] RO. Descriptors completed; wraps. (17 Table 17.15) -/
def HOST_DMA_STATUS.COMPLETED : Field := { base := 0x51018, lsb := 32, width := 32, acc := .ro, reset := 0 }

/-- HOST_DMA_STATUS (17 Table 17.15). -/
def HOST_DMA_STATUS.desc : RegDesc := { base := 0x51018, die := false, dims := [(0x40, 16)], fields := [HOST_DMA_STATUS.ERROR, HOST_DMA_STATUS.LAST_STATUS, HOST_DMA_STATUS.RX_NO_BUFFER, HOST_DMA_STATUS.COMPLETED] }

/-- [63:0] RO.  (17 Table 17.1, R386) -/
def HOST_MSIX_PBA.BITS : Field := { base := 0x54000, lsb := 0, width := 64, acc := .ro, reset := 0 }

/-- HOST_MSIX_PBA (17 Table 17.1, R386). -/
def HOST_MSIX_PBA.desc : RegDesc := { base := 0x54000, die := false, dims := [(0x8, 32)], fields := [HOST_MSIX_PBA.BITS] }

/-- [63:0] RW.  (17 Table 17.1 (entry layout of the PCIe base specification)) -/
def HOST_MSIX_ADDR.ADDR : Field := { base := 0x58000, lsb := 0, width := 64, acc := .rw, reset := 0 }

/-- HOST_MSIX_ADDR (17 Table 17.1 (entry layout of the PCIe base specification)). -/
def HOST_MSIX_ADDR.desc : RegDesc := { base := 0x58000, die := false, dims := [(0x10, 2048)], fields := [HOST_MSIX_ADDR.ADDR] }

/-- [31:0] RW.  (17 Table 17.1, R386) -/
def HOST_MSIX_CTRL.MSG_DATA : Field := { base := 0x58008, lsb := 0, width := 32, acc := .rw, reset := 0 }

/-- [32] RW.  (17 Table 17.1, R386) -/
def HOST_MSIX_CTRL.MASK : Field := { base := 0x58008, lsb := 32, width := 1, acc := .rw, reset := 1 }

/-- HOST_MSIX_CTRL (17 Table 17.1, R386). -/
def HOST_MSIX_CTRL.desc : RegDesc := { base := 0x58008, die := false, dims := [(0x10, 2048)], fields := [HOST_MSIX_CTRL.MSG_DATA, HOST_MSIX_CTRL.MASK] }

/-- [47:0] RW.  (16 Registers) -/
def SNAP_TIME_S.SECONDS : Field := { base := 0x60000, lsb := 0, width := 48, acc := .rw, reset := 0 }

/-- SNAP_TIME_S (16 Registers). -/
def SNAP_TIME_S.desc : RegDesc := { base := 0x60000, die := false, dims := [], fields := [SNAP_TIME_S.SECONDS] }

/-- [29:0] RW.  (16 Registers) -/
def SNAP_TIME_NS.NS : Field := { base := 0x60008, lsb := 0, width := 30, acc := .rw, reset := 0 }

/-- SNAP_TIME_NS (16 Registers). -/
def SNAP_TIME_NS.desc : RegDesc := { base := 0x60008, die := false, dims := [], fields := [SNAP_TIME_NS.NS] }

/-- [1:0] WO. 1 ARM, 2 CANCEL; others ignored. (16 Table 16.15) -/
def SNAP_CTRL.OP : Field := { base := 0x60010, lsb := 0, width := 2, acc := .wo, reset := 0 }

/-- [3:2] RO. 0 IDLE, 1 ARMED, 2 COPYING, 3 DONE. (16 Table 16.15) -/
def SNAP_CTRL.STATE : Field := { base := 0x60010, lsb := 2, width := 2, acc := .ro, reset := 0 }

/-- [6:4] RO. 0 OK, 1 BUSY, 2 LATE, 3 FAR, 4 NO_TIME, 5 CANCELLED. (16 Table 16.15) -/
def SNAP_CTRL.RESULT : Field := { base := 0x60010, lsb := 4, width := 3, acc := .ro, reset := 0 }

/-- [15:8] RO. Bit d: DIE[d] has written its header. (16 Table 16.15) -/
def SNAP_CTRL.DIES_DONE : Field := { base := 0x60010, lsb := 8, width := 8, acc := .ro, reset := 0 }

/-- [23:16] RO. Bit d: DIE[d] could not take part. (16 Table 16.15) -/
def SNAP_CTRL.DIES_MISSING : Field := { base := 0x60010, lsb := 16, width := 8, acc := .ro, reset := 0 }

/-- [55:24] RO. Raised by one at each ARM accepted. (16 Table 16.15) -/
def SNAP_CTRL.SNAP_ID : Field := { base := 0x60010, lsb := 24, width := 32, acc := .ro, reset := 0 }

/-- SNAP_CTRL (16 Table 16.15). -/
def SNAP_CTRL.desc : RegDesc := { base := 0x60010, die := false, dims := [], fields := [SNAP_CTRL.OP, SNAP_CTRL.STATE, SNAP_CTRL.RESULT, SNAP_CTRL.DIES_DONE, SNAP_CTRL.DIES_MISSING, SNAP_CTRL.SNAP_ID] }

/-- [2:0] RO. Index d of this die, 0–7. (01 Table 1.9) -/
def SEG_IDENT.DIE_INDEX : Field := { base := 0x1000000, lsb := 0, width := 3, acc := .ro, reset := 0, perImage := true }

/-- [6:3] RO. 2, 4 or 8. (01 Table 1.9) -/
def SEG_IDENT.DIE_COUNT : Field := { base := 0x1000000, lsb := 3, width := 4, acc := .ro, reset := 0, perImage := true }

/-- [15:8] RO. Bit t is 1 when local tree t is live in the woven image. (01 Table 1.9) -/
def SEG_IDENT.TREE_LIVE : Field := { base := 0x1000000, lsb := 8, width := 8, acc := .ro, reset := 0 }

/-- SEG_IDENT (01 Table 1.9). -/
def SEG_IDENT.desc : RegDesc := { base := 0x1000000, die := true, dims := [], fields := [SEG_IDENT.DIE_INDEX, SEG_IDENT.DIE_COUNT, SEG_IDENT.TREE_LIVE] }

/-- [31:0] RO. Package frame count of R32. (01 Table 1.10) -/
def SEG_FRAME_COUNT.FRAME : Field := { base := 0x1000008, lsb := 0, width := 32, acc := .ro, reset := 0 }

/-- [32] RO. 1 once network time is valid; key changes are rejected with LATE status while 0. (01 Table 1.10) -/
def SEG_FRAME_COUNT.VALID : Field := { base := 0x1000008, lsb := 32, width := 1, acc := .ro, reset := 0 }

/-- SEG_FRAME_COUNT (01 Table 1.10). -/
def SEG_FRAME_COUNT.desc : RegDesc := { base := 0x1000008, die := true, dims := [], fields := [SEG_FRAME_COUNT.FRAME, SEG_FRAME_COUNT.VALID] }

/-- [47:0] RO. Sequence number of the last applied update. (01 Table 1.11) -/
def SEG_ORDER_APPLIED.SEQ : Field := { base := 0x1000010, lsb := 0, width := 48, acc := .ro, reset := 0 }

/-- SEG_ORDER_APPLIED (01 Table 1.11). -/
def SEG_ORDER_APPLIED.desc : RegDesc := { base := 0x1000010, die := true, dims := [], fields := [SEG_ORDER_APPLIED.SEQ] }

/-- [0] W1C. Set when an update stays unapplied for 100 µs. (01 Table 1.12) -/
def SEG_ORDER_STATUS.STALL : Field := { base := 0x1000018, lsb := 0, width := 1, acc := .w1c, reset := 0 }

/-- [47:16] RO. Number of stalls since package reset; wraps. (01 Table 1.12) -/
def SEG_ORDER_STATUS.STALL_COUNT : Field := { base := 0x1000018, lsb := 16, width := 32, acc := .ro, reset := 0 }

/-- SEG_ORDER_STATUS (01 Table 1.12). -/
def SEG_ORDER_STATUS.desc : RegDesc := { base := 0x1000018, die := true, dims := [], fields := [SEG_ORDER_STATUS.STALL, SEG_ORDER_STATUS.STALL_COUNT] }

/-- [15:0] RO. Last 10 µs reading, M tokens/s. (16 Table 16.14) -/
def SEG_SENTINEL.LAST : Field := { base := 0x1000100, lsb := 0, width := 16, acc := .ro, reset := 0 }

/-- [31:16] RO. Lowest reading since package reset. (16 Table 16.14) -/
def SEG_SENTINEL.MIN : Field := { base := 0x1000100, lsb := 16, width := 16, acc := .ro, reset := 65535 }

/-- [47:32] RO. Highest reading since package reset. (16 Table 16.14) -/
def SEG_SENTINEL.MAX : Field := { base := 0x1000100, lsb := 32, width := 16, acc := .ro, reset := 0 }

/-- [63:48] RO. Intervals below 1,500 M tokens/s; saturates. (16 Table 16.14) -/
def SEG_SENTINEL.BELOW : Field := { base := 0x1000100, lsb := 48, width := 16, acc := .ro, reset := 0 }

/-- SEG_SENTINEL (16 Table 16.14). -/
def SEG_SENTINEL.desc : RegDesc := { base := 0x1000100, die := true, dims := [(0x8, 8)], fields := [SEG_SENTINEL.LAST, SEG_SENTINEL.MIN, SEG_SENTINEL.MAX, SEG_SENTINEL.BELOW] }

/-- [11:0] RO.  (16 Registers) -/
def SEG_TEMP.NOW : Field := { base := 0x1000200, lsb := 0, width := 12, acc := .ro, reset := 0 }

/-- [23:12] RO.  (16 Registers) -/
def SEG_TEMP.MAX : Field := { base := 0x1000200, lsb := 12, width := 12, acc := .ro, reset := 0 }

/-- SEG_TEMP (16 Registers). -/
def SEG_TEMP.desc : RegDesc := { base := 0x1000200, die := true, dims := [(0x8, 16)], fields := [SEG_TEMP.NOW, SEG_TEMP.MAX] }

/-- [11:0] RW. Speed target, 1,650–2,400 M tokens/s. (18 Table 18.15) -/
def SEG_GOV_CTRL.TARGET_MTOK : Field := { base := 0x1000300, lsb := 0, width := 12, acc := .rw, reset := 2100 }

/-- [19:12] RW. Hysteresis, 10–200 M tokens/s. (18 Table 18.15) -/
def SEG_GOV_CTRL.HYST_MTOK : Field := { base := 0x1000300, lsb := 12, width := 8, acc := .rw, reset := 50 }

/-- [20] RW. 1: hold FIXED_MV (test); the floor rule still applies. (18 Table 18.15) -/
def SEG_GOV_CTRL.FIXED : Field := { base := 0x1000300, lsb := 20, width := 1, acc := .rw, reset := 0 }

/-- [30:21] RW. 620–850 mV. (18 Table 18.15) -/
def SEG_GOV_CTRL.FIXED_MV : Field := { base := 0x1000300, lsb := 21, width := 10, acc := .rw, reset := 720 }

/-- SEG_GOV_CTRL (18 Table 18.15). -/
def SEG_GOV_CTRL.desc : RegDesc := { base := 0x1000300, die := true, dims := [], fields := [SEG_GOV_CTRL.TARGET_MTOK, SEG_GOV_CTRL.HYST_MTOK, SEG_GOV_CTRL.FIXED, SEG_GOV_CTRL.FIXED_MV] }

/-- [9:0] RO. Core supply, mV. (18 Table 18.16) -/
def SEG_GOV_STATUS.VCORE_MV : Field := { base := 0x1000308, lsb := 0, width := 10, acc := .ro, reset := 720 }

/-- [10] RO. R402. (18 Table 18.16) -/
def SEG_GOV_STATUS.AT_MAX : Field := { base := 0x1000308, lsb := 10, width := 1, acc := .ro, reset := 0 }

/-- [11] RO. Table 18.4. (18 Table 18.16) -/
def SEG_GOV_STATUS.HOT : Field := { base := 0x1000308, lsb := 11, width := 1, acc := .ro, reset := 0 }

/-- [12] W1C. Set with source 2,272 (R371). (18 Table 18.16) -/
def SEG_GOV_STATUS.SPEED_FAULT : Field := { base := 0x1000308, lsb := 12, width := 1, acc := .w1c, reset := 0 }

/-- [13] W1C. Set on entering HOT. (18 Table 18.16) -/
def SEG_GOV_STATUS.HOT_EVENT : Field := { base := 0x1000308, lsb := 13, width := 1, acc := .w1c, reset := 0 }

/-- [14] RO. Hardware policy in use (R402). (18 Table 18.16) -/
def SEG_GOV_STATUS.POLICY_LOST : Field := { base := 0x1000308, lsb := 14, width := 1, acc := .ro, reset := 0 }

/-- [47:16] RO. Steps taken; wraps. (18 Table 18.16) -/
def SEG_GOV_STATUS.STEPS : Field := { base := 0x1000308, lsb := 16, width := 32, acc := .ro, reset := 0 }

/-- [63:48] RO. Below-floor steps; saturates. (18 Table 18.16) -/
def SEG_GOV_STATUS.EMERGENCY_STEPS : Field := { base := 0x1000308, lsb := 48, width := 16, acc := .ro, reset := 0 }

/-- SEG_GOV_STATUS (18 Table 18.16). -/
def SEG_GOV_STATUS.desc : RegDesc := { base := 0x1000308, die := true, dims := [], fields := [SEG_GOV_STATUS.VCORE_MV, SEG_GOV_STATUS.AT_MAX, SEG_GOV_STATUS.HOT, SEG_GOV_STATUS.SPEED_FAULT, SEG_GOV_STATUS.HOT_EVENT, SEG_GOV_STATUS.POLICY_LOST, SEG_GOV_STATUS.STEPS, SEG_GOV_STATUS.EMERGENCY_STEPS] }

/-- [15:0] RO. Input power attributed to the die, 0.1 W. (18 Table 18.17) -/
def SEG_POWER.DIE_POWER : Field := { base := 0x1000310, lsb := 0, width := 16, acc := .ro, reset := 0 }

/-- [31:16] RO. Core logic, before regulation, 0.1 W. (18 Table 18.17) -/
def SEG_POWER.CORE_POWER : Field := { base := 0x1000310, lsb := 16, width := 16, acc := .ro, reset := 0 }

/-- [47:32] RO. Stack, 0.1 W. (18 Table 18.17) -/
def SEG_POWER.DRAM_POWER : Field := { base := 0x1000310, lsb := 32, width := 16, acc := .ro, reset := 0 }

/-- [63:48] RO. Tree optics, 0.1 W. (18 Table 18.17) -/
def SEG_POWER.OPTICS_POWER : Field := { base := 0x1000310, lsb := 48, width := 16, acc := .ro, reset := 0 }

/-- SEG_POWER (18 Table 18.17). -/
def SEG_POWER.desc : RegDesc := { base := 0x1000310, die := true, dims := [], fields := [SEG_POWER.DIE_POWER, SEG_POWER.CORE_POWER, SEG_POWER.DRAM_POWER, SEG_POWER.OPTICS_POWER] }

/-- [0] RW. 1: fallback is LAST_VECTOR; 0: the core of FALLBACK_DIE. (15 Table 15.7) -/
def IC_CTRL.FALLBACK_HOST : Field := { base := 0x1080000, lsb := 0, width := 1, acc := .rw, reset := 0, perImage := true }

/-- [3:1] RW. Die whose core is the fallback. (15 Table 15.7) -/
def IC_CTRL.FALLBACK_DIE : Field := { base := 0x1080000, lsb := 1, width := 3, acc := .rw, reset := 0, perImage := true }

/-- [14:4] RW. MSI-X vector of last resort, 0–2,047. (15 Table 15.7) -/
def IC_CTRL.LAST_VECTOR : Field := { base := 0x1080000, lsb := 4, width := 11, acc := .rw, reset := 0, perImage := true }

/-- IC_CTRL (15 Table 15.7). -/
def IC_CTRL.desc : RegDesc := { base := 0x1080000, die := true, dims := [], fields := [IC_CTRL.FALLBACK_HOST, IC_CTRL.FALLBACK_DIE, IC_CTRL.LAST_VECTOR] }

/-- [20:12] RW.  (15 Registers) -/
def IC_HANDLER_BASE.BASE : Field := { base := 0x1080008, lsb := 12, width := 9, acc := .rw, reset := 0, perImage := true }

/-- IC_HANDLER_BASE (15 Registers). -/
def IC_HANDLER_BASE.desc : RegDesc := { base := 0x1080008, die := true, dims := [], fields := [IC_HANDLER_BASE.BASE] }

/-- [6:0] RO. Running priority; 64 at base level. (15 Table 15.8) -/
def IC_CORE_STATUS.RUNNING : Field := { base := 0x1080010, lsb := 0, width := 7, acc := .ro, reset := 64 }

/-- [13:7] RO. As set by firmware. (15 Table 15.8) -/
def IC_CORE_STATUS.THRESHOLD : Field := { base := 0x1080010, lsb := 7, width := 7, acc := .ro, reset := 64 }

/-- [14] RO. As set by firmware. (15 Table 15.8) -/
def IC_CORE_STATUS.MASK : Field := { base := 0x1080010, lsb := 14, width := 1, acc := .ro, reset := 1 }

/-- [15] RO. Core asleep. (15 Table 15.8) -/
def IC_CORE_STATUS.SLEEP : Field := { base := 0x1080010, lsb := 15, width := 1, acc := .ro, reset := 0 }

/-- [28:16] RO. Source or 4,096 + group of the running handler. (15 Table 15.8) -/
def IC_CORE_STATUS.CURRENT : Field := { base := 0x1080010, lsb := 16, width := 13, acc := .ro, reset := 0 }

/-- [35:29] RO. Context store depth, 0–64 (R351). (15 Table 15.8) -/
def IC_CORE_STATUS.DEPTH : Field := { base := 0x1080010, lsb := 29, width := 7, acc := .ro, reset := 0 }

/-- IC_CORE_STATUS (15 Table 15.8). -/
def IC_CORE_STATUS.desc : RegDesc := { base := 0x1080010, die := true, dims := [], fields := [IC_CORE_STATUS.RUNNING, IC_CORE_STATUS.THRESHOLD, IC_CORE_STATUS.MASK, IC_CORE_STATUS.SLEEP, IC_CORE_STATUS.CURRENT, IC_CORE_STATUS.DEPTH] }

/-- [12:0] WO.  (15 Registers) -/
def IC_HOST_EOI.SOURCE : Field := { base := 0x1080018, lsb := 0, width := 13, acc := .wo, reset := 0 }

/-- IC_HOST_EOI (15 Registers). -/
def IC_HOST_EOI.desc : RegDesc := { base := 0x1080018, die := true, dims := [], fields := [IC_HOST_EOI.SOURCE] }

/-- [63:0] RC. Table 4.16. (15 R360) -/
def IC_CNT.COUNT : Field := { base := 0x1080100, lsb := 0, width := 64, acc := .rc, reset := 0 }

/-- IC_CNT (15 R360). -/
def IC_CNT.desc : RegDesc := { base := 0x1080100, die := true, dims := [(0x8, 8)], fields := [IC_CNT.COUNT] }

/-- [63:0] RO.  (15 Registers) -/
def IC_PENDING.BITS : Field := { base := 0x1081000, lsb := 0, width := 64, acc := .ro, reset := 0 }

/-- IC_PENDING (15 Registers). -/
def IC_PENDING.desc : RegDesc := { base := 0x1081000, die := true, dims := [(0x8, 64)], fields := [IC_PENDING.BITS] }

/-- [0] RW. Group delivered. (15 Table 15.10) -/
def IC_GROUP.ENABLE : Field := { base := 0x1082000, lsb := 0, width := 1, acc := .rw, reset := 0, perImage := true }

/-- [6:1] RW. 0–63. (15 Table 15.10) -/
def IC_GROUP.PRIORITY : Field := { base := 0x1082000, lsb := 1, width := 6, acc := .rw, reset := 0, perImage := true }

/-- [22:7] RW. 1–65,535; 0 reads back 1. (15 Table 15.10) -/
def IC_GROUP.COUNT_TH : Field := { base := 0x1082000, lsb := 7, width := 16, acc := .rw, reset := 0, perImage := true }

/-- [38:23] RW. 0–65,535 µs; 0: no time limit. (15 Table 15.10) -/
def IC_GROUP.TIME_US : Field := { base := 0x1082000, lsb := 23, width := 16, acc := .rw, reset := 0, perImage := true }

/-- [39] RW. As IC_SRC. (15 Table 15.10) -/
def IC_GROUP.HOST : Field := { base := 0x1082000, lsb := 39, width := 1, acc := .rw, reset := 0, perImage := true }

/-- [42:40] RW. As IC_SRC. (15 Table 15.10) -/
def IC_GROUP.DIE : Field := { base := 0x1082000, lsb := 40, width := 3, acc := .rw, reset := 0, perImage := true }

/-- [53:43] RW. As IC_SRC. (15 Table 15.10) -/
def IC_GROUP.VECTOR : Field := { base := 0x1082000, lsb := 43, width := 11, acc := .rw, reset := 0, perImage := true }

/-- IC_GROUP (15 Table 15.10). -/
def IC_GROUP.desc : RegDesc := { base := 0x1082000, die := true, dims := [(0x10, 256)], fields := [IC_GROUP.ENABLE, IC_GROUP.PRIORITY, IC_GROUP.COUNT_TH, IC_GROUP.TIME_US, IC_GROUP.HOST, IC_GROUP.DIE, IC_GROUP.VECTOR] }

/-- [15:0] RO.  (15 Registers) -/
def IC_GROUP_STATUS.COUNT : Field := { base := 0x1082008, lsb := 0, width := 16, acc := .ro, reset := 0 }

/-- [16] W1C.  (15 Registers) -/
def IC_GROUP_STATUS.PENDING : Field := { base := 0x1082008, lsb := 16, width := 1, acc := .w1c, reset := 0 }

/-- [17] RO.  (15 Registers) -/
def IC_GROUP_STATUS.ACTIVE : Field := { base := 0x1082008, lsb := 17, width := 1, acc := .ro, reset := 0 }

/-- IC_GROUP_STATUS (15 Registers). -/
def IC_GROUP_STATUS.desc : RegDesc := { base := 0x1082008, die := true, dims := [(0x10, 256)], fields := [IC_GROUP_STATUS.COUNT, IC_GROUP_STATUS.PENDING, IC_GROUP_STATUS.ACTIVE] }

/-- [0] RW. Source delivered. (15 Table 15.9) -/
def IC_SRC.ENABLE : Field := { base := 0x1088000, lsb := 0, width := 1, acc := .rw, reset := 0, perImage := true }

/-- [6:1] RW. 0–63; 0 highest. (15 Table 15.9) -/
def IC_SRC.PRIORITY : Field := { base := 0x1088000, lsb := 1, width := 6, acc := .rw, reset := 0, perImage := true }

/-- [7] RO. 0 edge, 1 level (R349). (15 Table 15.9) -/
def IC_SRC.KIND : Field := { base := 0x1088000, lsb := 7, width := 1, acc := .ro, reset := 0, perImage := true }

/-- [8] W1C. Pending. (15 Table 15.9) -/
def IC_SRC.PENDING : Field := { base := 0x1088000, lsb := 8, width := 1, acc := .w1c, reset := 0 }

/-- [9] WO. 1 sets PENDING (R355). (15 Table 15.9) -/
def IC_SRC.SWSET : Field := { base := 0x1088000, lsb := 9, width := 1, acc := .wo, reset := 0 }

/-- [10] RO. In service at its target. (15 Table 15.9) -/
def IC_SRC.ACTIVE : Field := { base := 0x1088000, lsb := 10, width := 1, acc := .ro, reset := 0 }

/-- [11] RW. Coalesced (R354). (15 Table 15.9) -/
def IC_SRC.IN_GROUP : Field := { base := 0x1088000, lsb := 11, width := 1, acc := .rw, reset := 0, perImage := true }

/-- [19:12] RW. Group 0–255. (15 Table 15.9) -/
def IC_SRC.GROUP : Field := { base := 0x1088000, lsb := 12, width := 8, acc := .rw, reset := 0, perImage := true }

/-- [20] RW. 1: target is VECTOR; 0: target is the core of DIE. (15 Table 15.9) -/
def IC_SRC.HOST : Field := { base := 0x1088000, lsb := 20, width := 1, acc := .rw, reset := 0, perImage := true }

/-- [23:21] RW. Target die. (15 Table 15.9) -/
def IC_SRC.DIE : Field := { base := 0x1088000, lsb := 21, width := 3, acc := .rw, reset := 0, perImage := true }

/-- [34:24] RW. MSI-X vector 0–2,047. (15 Table 15.9) -/
def IC_SRC.VECTOR : Field := { base := 0x1088000, lsb := 24, width := 11, acc := .rw, reset := 0, perImage := true }

/-- IC_SRC (15 Table 15.9). -/
def IC_SRC.desc : RegDesc := { base := 0x1088000, die := true, dims := [(0x8, 4096)], fields := [IC_SRC.ENABLE, IC_SRC.PRIORITY, IC_SRC.KIND, IC_SRC.PENDING, IC_SRC.SWSET, IC_SRC.ACTIVE, IC_SRC.IN_GROUP, IC_SRC.GROUP, IC_SRC.HOST, IC_SRC.DIE, IC_SRC.VECTOR] }

/-- [6:0] RW. 1–100 ms (R345). (15 Table 15.11) -/
def TWEED_CTRL.WATCHDOG_MS : Field := { base := 0x10c0000, lsb := 0, width := 7, acc := .rw, reset := 10 }

/-- [13:7] RW. 50–99 % (R344). (15 Table 15.11) -/
def TWEED_CTRL.LOAD_HIGH_PCT : Field := { base := 0x10c0000, lsb := 7, width := 7, acc := .rw, reset := 90 }

/-- [20:14] RW. 10 % to LOAD_HIGH_PCT − 10. (15 Table 15.11) -/
def TWEED_CTRL.LOAD_LOW_PCT : Field := { base := 0x10c0000, lsb := 14, width := 7, acc := .rw, reset := 70 }

/-- TWEED_CTRL (15 Table 15.11). -/
def TWEED_CTRL.desc : RegDesc := { base := 0x10c0000, die := true, dims := [], fields := [TWEED_CTRL.WATCHDOG_MS, TWEED_CTRL.LOAD_HIGH_PCT, TWEED_CTRL.LOAD_LOW_PCT] }

/-- [1:0] RO. 0 RESET, 1 RUNNING, 2 SLEEPING, 3 HALTED by debug. (15 Table 15.12) -/
def TWEED_STATUS.STATE : Field := { base := 0x10c0008, lsb := 0, width := 2, acc := .ro, reset := 0 }

/-- [2] RO. R344. (15 Table 15.12) -/
def TWEED_STATUS.OVERLOAD : Field := { base := 0x10c0008, lsb := 2, width := 1, acc := .ro, reset := 0 }

/-- [3] W1C. Set at each onset. (15 Table 15.12) -/
def TWEED_STATUS.OVERLOAD_EVENT : Field := { base := 0x10c0008, lsb := 3, width := 1, acc := .w1c, reset := 0 }

/-- [4] W1C. R345. (15 Table 15.12) -/
def TWEED_STATUS.WATCHDOG_EVENT : Field := { base := 0x10c0008, lsb := 4, width := 1, acc := .w1c, reset := 0 }

/-- [5] W1C. R343. (15 Table 15.12) -/
def TWEED_STATUS.TASK_FAULT : Field := { base := 0x10c0008, lsb := 5, width := 1, acc := .w1c, reset := 0 }

/-- [15:8] RO. Bit n: task n running. (15 Table 15.12) -/
def TWEED_STATUS.TASKS_RUNNING : Field := { base := 0x10c0008, lsb := 8, width := 8, acc := .ro, reset := 0 }

/-- [23:16] RO. Deadline and periodic load over the last frame, %. (15 Table 15.12) -/
def TWEED_STATUS.LOAD_PCT : Field := { base := 0x10c0008, lsb := 16, width := 8, acc := .ro, reset := 0 }

/-- [63:32] RO. Firmware version. (15 Table 15.12) -/
def TWEED_STATUS.FW_VERSION : Field := { base := 0x10c0008, lsb := 32, width := 32, acc := .ro, reset := 0, perImage := true }

/-- TWEED_STATUS (15 Table 15.12). -/
def TWEED_STATUS.desc : RegDesc := { base := 0x10c0008, die := true, dims := [], fields := [TWEED_STATUS.STATE, TWEED_STATUS.OVERLOAD, TWEED_STATUS.OVERLOAD_EVENT, TWEED_STATUS.WATCHDOG_EVENT, TWEED_STATUS.TASK_FAULT, TWEED_STATUS.TASKS_RUNNING, TWEED_STATUS.LOAD_PCT, TWEED_STATUS.FW_VERSION] }

/-- [63:0] RO.  (15 Registers) -/
def TWEED_MBOX_STATE.SLOT : Field := { base := 0x10c0010, lsb := 0, width := 64, acc := .ro, reset := 0 }

/-- TWEED_MBOX_STATE (15 Registers). -/
def TWEED_MBOX_STATE.desc : RegDesc := { base := 0x10c0010, die := true, dims := [], fields := [TWEED_MBOX_STATE.SLOT] }

/-- [3:0] WO.  (15 Registers) -/
def TWEED_MBOX_DOORBELL.SLOT : Field := { base := 0x10c0018, lsb := 0, width := 4, acc := .wo, reset := 0 }

/-- [4] WO.  (15 Registers) -/
def TWEED_MBOX_DOORBELL.RELEASE : Field := { base := 0x10c0018, lsb := 4, width := 1, acc := .wo, reset := 0 }

/-- TWEED_MBOX_DOORBELL (15 Registers). -/
def TWEED_MBOX_DOORBELL.desc : RegDesc := { base := 0x10c0018, die := true, dims := [], fields := [TWEED_MBOX_DOORBELL.SLOT, TWEED_MBOX_DOORBELL.RELEASE] }

/-- [63:0] RC. Table 4.16. (15 R360) -/
def TWEED_CNT.COUNT : Field := { base := 0x10c0100, lsb := 0, width := 64, acc := .rc, reset := 0 }

/-- TWEED_CNT (15 R360). -/
def TWEED_CNT.desc : RegDesc := { base := 0x10c0100, die := true, dims := [(0x8, 8)], fields := [TWEED_CNT.COUNT] }

/-- [63:0] RW.  (15 Registers) -/
def TWEED_MBOX.DATA : Field := { base := 0x10c1000, lsb := 0, width := 64, acc := .rw, reset := 0 }

/-- TWEED_MBOX (15 Registers). -/
def TWEED_MBOX.desc : RegDesc := { base := 0x10c1000, die := true, dims := [(0x80, 16), (0x8, 16)], fields := [TWEED_MBOX.DATA] }

/-- [0] RW. 1 darkens every transmitter of the tree (R76). (03 Table 3.10) -/
def TREE_OPT_CTRL.TX_MUTE : Field := { base := 0x1100000, lsb := 0, width := 1, acc := .rw, reset := 0 }

/-- [1] RW. 1 suspends calibration; runs count as missed (R74). (03 Table 3.10) -/
def TREE_OPT_CTRL.CAL_FREEZE : Field := { base := 0x1100000, lsb := 1, width := 1, acc := .rw, reset := 0 }

/-- [2] RW. Applies at the next start: 1 starts the tree in test (R86). (03 Table 3.10) -/
def TREE_OPT_CTRL.TEST : Field := { base := 0x1100000, lsb := 2, width := 1, acc := .rw, reset := 0 }

/-- [3] RW. 1 stops learned-state updates; burst thresholds are still measured. (03 Table 3.10) -/
def TREE_OPT_CTRL.LEARN_FREEZE : Field := { base := 0x1100000, lsb := 3, width := 1, acc := .rw, reset := 0 }

/-- [15:8] RW. Loss-of-signal power as −dBm, 30–45; other values read back as 38. (03 Table 3.10) -/
def TREE_OPT_CTRL.LOS_LEVEL : Field := { base := 0x1100000, lsb := 8, width := 8, acc := .rw, reset := 38 }

/-- [23:16] RW. Launch trim of the 50G-class set, signed, 0.1 dB steps, −20 to +20. (03 Table 3.10) -/
def TREE_OPT_CTRL.TRIM_FIFTY : Field := { base := 0x1100000, lsb := 16, width := 8, acc := .rw, reset := 0 }

/-- [31:24] RW. Launch trim of the XGS-PON set, signed, 0.1 dB steps, −20 to +20. (03 Table 3.10) -/
def TREE_OPT_CTRL.TRIM_XGS : Field := { base := 0x1100000, lsb := 24, width := 8, acc := .rw, reset := 0 }

/-- [39:32] RW. Laser temperature hold after OFF, s (R73). (03 Table 3.10) -/
def TREE_OPT_CTRL.HOLD_S : Field := { base := 0x1100000, lsb := 32, width := 8, acc := .rw, reset := 10 }

/-- TREE_OPT_CTRL (03 Table 3.10). -/
def TREE_OPT_CTRL.desc : RegDesc := { base := 0x1100000, die := true, dims := [(0x20000, 8)], fields := [TREE_OPT_CTRL.TX_MUTE, TREE_OPT_CTRL.CAL_FREEZE, TREE_OPT_CTRL.TEST, TREE_OPT_CTRL.LEARN_FREEZE, TREE_OPT_CTRL.LOS_LEVEL, TREE_OPT_CTRL.TRIM_FIFTY, TREE_OPT_CTRL.TRIM_XGS, TREE_OPT_CTRL.HOLD_S] }

/-- [1:0] RO. 50G-class transmitter: 0 dark, 1 locking, 2 lit, 3 muted. (03 Table 3.11) -/
def TREE_OPT_STATUS.TX_STATE_FIFTY : Field := { base := 0x1100008, lsb := 0, width := 2, acc := .ro, reset := 0 }

/-- [3:2] RO. XGS-PON transmitter, coded as TX_STATE_FIFTY. (03 Table 3.11) -/
def TREE_OPT_STATUS.TX_STATE_XGS : Field := { base := 0x1100008, lsb := 2, width := 2, acc := .ro, reset := 0 }

/-- [4] RO. 50G-class wavelength locked. (03 Table 3.11) -/
def TREE_OPT_STATUS.LOCKED_FIFTY : Field := { base := 0x1100008, lsb := 4, width := 1, acc := .ro, reset := 0 }

/-- [5] RO. XGS-PON wavelength locked. (03 Table 3.11) -/
def TREE_OPT_STATUS.LOCKED_XGS : Field := { base := 0x1100008, lsb := 5, width := 1, acc := .ro, reset := 0 }

/-- [6] RO. Loss of signal present on the 50G-class set (R83). (03 Table 3.11) -/
def TREE_OPT_STATUS.LOS_FIFTY : Field := { base := 0x1100008, lsb := 6, width := 1, acc := .ro, reset := 0 }

/-- [7] RO. Loss of signal present on the XGS-PON set. (03 Table 3.11) -/
def TREE_OPT_STATUS.LOS_XGS : Field := { base := 0x1100008, lsb := 7, width := 1, acc := .ro, reset := 0 }

/-- [8] RO. Receive loss of lock present on either set. (03 Table 3.11) -/
def TREE_OPT_STATUS.RX_LOL : Field := { base := 0x1100008, lsb := 8, width := 1, acc := .ro, reset := 0 }

/-- [9] RO. Transmit synthesiser of either set out of lock. (03 Table 3.11) -/
def TREE_OPT_STATUS.TX_LOL : Field := { base := 0x1100008, lsb := 9, width := 1, acc := .ro, reset := 0 }

/-- [10] W1C. Set under R75. (03 Table 3.11) -/
def TREE_OPT_STATUS.AGEING : Field := { base := 0x1100008, lsb := 10, width := 1, acc := .w1c, reset := 0 }

/-- [11] W1C. Set under R74. (03 Table 3.11) -/
def TREE_OPT_STATUS.CAL_LAG : Field := { base := 0x1100008, lsb := 11, width := 1, acc := .w1c, reset := 0 }

/-- [12] W1C. Set under R79. (03 Table 3.11) -/
def TREE_OPT_STATUS.CONTEXT_ERROR : Field := { base := 0x1100008, lsb := 12, width := 1, acc := .w1c, reset := 0 }

/-- [17:16] RO. 0 no 50G-class set, 1 Twill, 2 50G-PON. (03 Table 3.11) -/
def TREE_OPT_STATUS.VARIANT : Field := { base := 0x1100008, lsb := 16, width := 2, acc := .ro, reset := 0 }

/-- TREE_OPT_STATUS (03 Table 3.11). -/
def TREE_OPT_STATUS.desc : RegDesc := { base := 0x1100008, die := true, dims := [(0x20000, 8)], fields := [TREE_OPT_STATUS.TX_STATE_FIFTY, TREE_OPT_STATUS.TX_STATE_XGS, TREE_OPT_STATUS.LOCKED_FIFTY, TREE_OPT_STATUS.LOCKED_XGS, TREE_OPT_STATUS.LOS_FIFTY, TREE_OPT_STATUS.LOS_XGS, TREE_OPT_STATUS.RX_LOL, TREE_OPT_STATUS.TX_LOL, TREE_OPT_STATUS.AGEING, TREE_OPT_STATUS.CAL_LAG, TREE_OPT_STATUS.CONTEXT_ERROR, TREE_OPT_STATUS.VARIANT] }

/-- [15:0] RO. Onsets of loss of signal, both sets. (03 Table 3.12) -/
def TREE_OPT_DET.LOS_COUNT : Field := { base := 0x1100010, lsb := 0, width := 16, acc := .ro, reset := 0 }

/-- [31:16] RO. Onsets of receive loss of lock, both sets. (03 Table 3.12) -/
def TREE_OPT_DET.RX_LOL_COUNT : Field := { base := 0x1100010, lsb := 16, width := 16, acc := .ro, reset := 0 }

/-- [47:32] RO. Bursts left unreceived under R79. (03 Table 3.12) -/
def TREE_OPT_DET.CONTEXT_ERROR_COUNT : Field := { base := 0x1100010, lsb := 32, width := 16, acc := .ro, reset := 0 }

/-- [63:48] RO. Preamble measurements rejected under R81. (03 Table 3.12) -/
def TREE_OPT_DET.LEARN_REJECT_COUNT : Field := { base := 0x1100010, lsb := 48, width := 16, acc := .ro, reset := 0 }

/-- TREE_OPT_DET (03 Table 3.12). -/
def TREE_OPT_DET.desc : RegDesc := { base := 0x1100010, die := true, dims := [(0x20000, 8)], fields := [TREE_OPT_DET.LOS_COUNT, TREE_OPT_DET.RX_LOL_COUNT, TREE_OPT_DET.CONTEXT_ERROR_COUNT, TREE_OPT_DET.LEARN_REJECT_COUNT] }

/-- [15:0] RO. Transmitter darkenings under R77. (03 Table 3.13) -/
def TREE_OPT_EVENTS.TX_LOL_COUNT : Field := { base := 0x1100018, lsb := 0, width := 16, acc := .ro, reset := 0 }

/-- [31:16] RO. Missed calibration runs under R74. (03 Table 3.13) -/
def TREE_OPT_EVENTS.CAL_MISSED_COUNT : Field := { base := 0x1100018, lsb := 16, width := 16, acc := .ro, reset := 0 }

/-- TREE_OPT_EVENTS (03 Table 3.13). -/
def TREE_OPT_EVENTS.desc : RegDesc := { base := 0x1100018, die := true, dims := [(0x20000, 8)], fields := [TREE_OPT_EVENTS.TX_LOL_COUNT, TREE_OPT_EVENTS.CAL_MISSED_COUNT] }

/-- [15:0] RO. Launch power at the receptacle, signed, 0.01 dBm. (03 Table 3.14) -/
def TREE_OPT_TX.POWER : Field := { base := 0x1100040, lsb := 0, width := 16, acc := .ro, reset := 0 }

/-- [31:16] RO. Laser bias current, 10 µA units. (03 Table 3.14) -/
def TREE_OPT_TX.BIAS : Field := { base := 0x1100040, lsb := 16, width := 16, acc := .ro, reset := 0 }

/-- [47:32] RO. Wavelength offset from target, signed, pm. (03 Table 3.14) -/
def TREE_OPT_TX.WAVE_OFFSET : Field := { base := 0x1100040, lsb := 32, width := 16, acc := .ro, reset := 0 }

/-- [55:48] RO. Laser temperature, °C. (03 Table 3.14) -/
def TREE_OPT_TX.LASER_TEMP : Field := { base := 0x1100040, lsb := 48, width := 8, acc := .ro, reset := 0 }

/-- [63:56] RO. Bias as a percentage of beginning-of-life bias; saturates at 255. (03 Table 3.14) -/
def TREE_OPT_TX.AGEING_PCT : Field := { base := 0x1100040, lsb := 56, width := 8, acc := .ro, reset := 0 }

/-- TREE_OPT_TX (03 Table 3.14). -/
def TREE_OPT_TX.desc : RegDesc := { base := 0x1100040, die := true, dims := [(0x20000, 8), (0x8, 2)], fields := [TREE_OPT_TX.POWER, TREE_OPT_TX.BIAS, TREE_OPT_TX.WAVE_OFFSET, TREE_OPT_TX.LASER_TEMP, TREE_OPT_TX.AGEING_PCT] }

/-- [2:0] RW. Table 3.9; acts only in test (R86). (03 Table 3.15) -/
def TREE_PAT_CTRL.GEN_PATTERN : Field := { base := 0x1100100, lsb := 0, width := 3, acc := .rw, reset := 0 }

/-- [3] RW. 0: 50G-class, 1: XGS-PON. (03 Table 3.15) -/
def TREE_PAT_CTRL.GEN_SET : Field := { base := 0x1100100, lsb := 3, width := 1, acc := .rw, reset := 0 }

/-- [6:4] RW. Table 3.9. (03 Table 3.15) -/
def TREE_PAT_CTRL.CHK_PATTERN : Field := { base := 0x1100100, lsb := 4, width := 3, acc := .rw, reset := 0 }

/-- [7] RW. 0: 50G-class, 1: XGS-PON. (03 Table 3.15) -/
def TREE_PAT_CTRL.CHK_SET : Field := { base := 0x1100100, lsb := 7, width := 1, acc := .rw, reset := 0 }

/-- [8] RW. 1: serial loopback; acts only in test. (03 Table 3.15) -/
def TREE_PAT_CTRL.LOOP : Field := { base := 0x1100100, lsb := 8, width := 1, acc := .rw, reset := 0 }

/-- [9] RW. Twill only: 1 precodes pattern symbols. (03 Table 3.15) -/
def TREE_PAT_CTRL.PRECODE : Field := { base := 0x1100100, lsb := 9, width := 1, acc := .rw, reset := 1 }

/-- [10] RW. 1: check the bursts of CHK_TERMINAL in service (R87). (03 Table 3.15) -/
def TREE_PAT_CTRL.CHK_TERMINAL_MODE : Field := { base := 0x1100100, lsb := 10, width := 1, acc := .rw, reset := 0 }

/-- [23:16] RW. Terminal whose burst payload is checked. (03 Table 3.15) -/
def TREE_PAT_CTRL.CHK_TERMINAL : Field := { base := 0x1100100, lsb := 16, width := 8, acc := .rw, reset := 0 }

/-- TREE_PAT_CTRL (03 Table 3.15). -/
def TREE_PAT_CTRL.desc : RegDesc := { base := 0x1100100, die := true, dims := [(0x20000, 8)], fields := [TREE_PAT_CTRL.GEN_PATTERN, TREE_PAT_CTRL.GEN_SET, TREE_PAT_CTRL.CHK_PATTERN, TREE_PAT_CTRL.CHK_SET, TREE_PAT_CTRL.LOOP, TREE_PAT_CTRL.PRECODE, TREE_PAT_CTRL.CHK_TERMINAL_MODE, TREE_PAT_CTRL.CHK_TERMINAL] }

/-- [0] RO. Checker locked (R87). (03 Table 3.16) -/
def TREE_PAT_STATUS.CHK_LOCK : Field := { base := 0x1100108, lsb := 0, width := 1, acc := .ro, reset := 0 }

/-- [55:8] RO. Bit errors counted while locked; saturates. (03 Table 3.16) -/
def TREE_PAT_STATUS.ERRORS : Field := { base := 0x1100108, lsb := 8, width := 48, acc := .ro, reset := 0 }

/-- TREE_PAT_STATUS (03 Table 3.16). -/
def TREE_PAT_STATUS.desc : RegDesc := { base := 0x1100108, die := true, dims := [(0x20000, 8)], fields := [TREE_PAT_STATUS.CHK_LOCK, TREE_PAT_STATUS.ERRORS] }

/-- [63:0] RO.  (03 Registers) -/
def TREE_PAT_BITS.BITS : Field := { base := 0x1100110, lsb := 0, width := 64, acc := .ro, reset := 0 }

/-- TREE_PAT_BITS (03 Registers). -/
def TREE_PAT_BITS.desc : RegDesc := { base := 0x1100110, die := true, dims := [(0x20000, 8)], fields := [TREE_PAT_BITS.BITS] }

/-- [63:0] RW.  (03 Registers) -/
def TREE_PAT_USER.PATTERN : Field := { base := 0x1100118, lsb := 0, width := 64, acc := .rw, reset := 0 }

/-- TREE_PAT_USER (03 Registers). -/
def TREE_PAT_USER.desc : RegDesc := { base := 0x1100118, die := true, dims := [(0x20000, 8)], fields := [TREE_PAT_USER.PATTERN] }

/-- [0] RW. 1 injects at the programmed interval. (03 Table 3.17) -/
def TREE_INJ_CTRL.ENABLE : Field := { base := 0x1100120, lsb := 0, width := 1, acc := .rw, reset := 0 }

/-- [1] RW. 0: bit inversion, 1: four-level symbol moved to a neighbouring level. (03 Table 3.17) -/
def TREE_INJ_CTRL.MODE : Field := { base := 0x1100120, lsb := 1, width := 1, acc := .rw, reset := 0 }

/-- [2] RW. 1 permits injection on a tree carrying traffic (R88). (03 Table 3.17) -/
def TREE_INJ_CTRL.IN_SERVICE : Field := { base := 0x1100120, lsb := 2, width := 1, acc := .rw, reset := 0 }

/-- [3] RW. 0: 50G-class, 1: XGS-PON downstream. (03 Table 3.17) -/
def TREE_INJ_CTRL.SET : Field := { base := 0x1100120, lsb := 3, width := 1, acc := .rw, reset := 0 }

/-- [8:4] RW. Interval of 2^(RATE_EXP + 10) bits. (03 Table 3.17) -/
def TREE_INJ_CTRL.RATE_EXP : Field := { base := 0x1100120, lsb := 4, width := 5, acc := .rw, reset := 0 }

/-- [9] WO. 1 injects one error. (03 Table 3.17) -/
def TREE_INJ_CTRL.ONE_SHOT : Field := { base := 0x1100120, lsb := 9, width := 1, acc := .wo, reset := 0 }

/-- [47:16] RO. Errors injected since package reset; wraps. (03 Table 3.17) -/
def TREE_INJ_CTRL.INJECTED : Field := { base := 0x1100120, lsb := 16, width := 32, acc := .ro, reset := 0 }

/-- TREE_INJ_CTRL (03 Table 3.17). -/
def TREE_INJ_CTRL.desc : RegDesc := { base := 0x1100120, die := true, dims := [(0x20000, 8)], fields := [TREE_INJ_CTRL.ENABLE, TREE_INJ_CTRL.MODE, TREE_INJ_CTRL.IN_SERVICE, TREE_INJ_CTRL.SET, TREE_INJ_CTRL.RATE_EXP, TREE_INJ_CTRL.ONE_SHOT, TREE_INJ_CTRL.INJECTED] }

/-- [3:0] RW. Loss-of-burst run to declare, 2–15. (04 Table 4.10) -/
def TREE_FRM_CTRL.LOB_N : Field := { base := 0x1100200, lsb := 0, width := 4, acc := .rw, reset := 4 }

/-- [11:4] RW. Drift-of-window limit in symbols, 1–64. (04 Table 4.10) -/
def TREE_FRM_CTRL.DRIFT_LIMIT : Field := { base := 0x1100200, lsb := 4, width := 8, acc := .rw, reset := 8 }

/-- [14:12] RW. Signal-fail exponent, 3–6. (04 Table 4.10) -/
def TREE_FRM_CTRL.SF_EXP : Field := { base := 0x1100200, lsb := 12, width := 3, acc := .rw, reset := 4 }

/-- [18:15] RW. Signal-degrade mantissa, 1–9. (04 Table 4.10) -/
def TREE_FRM_CTRL.SD_MANT : Field := { base := 0x1100200, lsb := 15, width := 4, acc := .rw, reset := 5 }

/-- [21:19] RW. Signal-degrade exponent, 2–6. (04 Table 4.10) -/
def TREE_FRM_CTRL.SD_EXP : Field := { base := 0x1100200, lsb := 19, width := 3, acc := .rw, reset := 3 }

/-- TREE_FRM_CTRL (04 Table 4.10). -/
def TREE_FRM_CTRL.desc : RegDesc := { base := 0x1100200, die := true, dims := [(0x20000, 8)], fields := [TREE_FRM_CTRL.LOB_N, TREE_FRM_CTRL.DRIFT_LIMIT, TREE_FRM_CTRL.SF_EXP, TREE_FRM_CTRL.SD_MANT, TREE_FRM_CTRL.SD_EXP] }

/-- [0] W1C. Set at each MISDIRECTED outcome (R102). (04 Table 4.11) -/
def TREE_FRM_STATUS.MISDIRECT : Field := { base := 0x1100208, lsb := 0, width := 1, acc := .w1c, reset := 0 }

/-- [1] W1C. Set at each event of R23. (04 Table 4.11) -/
def TREE_FRM_STATUS.LATE_MAP : Field := { base := 0x1100208, lsb := 1, width := 1, acc := .w1c, reset := 0 }

/-- [2] W1C. Set at each event of R25. (04 Table 4.11) -/
def TREE_FRM_STATUS.DS_UNDERRUN : Field := { base := 0x1100208, lsb := 2, width := 1, acc := .w1c, reset := 0 }

/-- [15:8] RO. TERMINAL field of the last MISDIRECTED stamp; in standard modes, the terminal bound to its ONU-ID, or 0xFF if none. (04 Table 4.11) -/
def TREE_FRM_STATUS.MISDIRECT_TERMINAL : Field := { base := 0x1100208, lsb := 8, width := 8, acc := .ro, reset := 0 }

/-- TREE_FRM_STATUS (04 Table 4.11). -/
def TREE_FRM_STATUS.desc : RegDesc := { base := 0x1100208, die := true, dims := [(0x20000, 8)], fields := [TREE_FRM_STATUS.MISDIRECT, TREE_FRM_STATUS.LATE_MAP, TREE_FRM_STATUS.DS_UNDERRUN, TREE_FRM_STATUS.MISDIRECT_TERMINAL] }

/-- [3:0] RW. Preamble (PRE_UNITS + 1) × 64 symbols; 0 reads back 3. (04 Table 4.12) -/
def TREE_FRM_PROFILE.PRE_UNITS : Field := { base := 0x1100220, lsb := 0, width := 4, acc := .rw, reset := 3 }

/-- [5:4] RW. Delimiter 0–3. (04 Table 4.12) -/
def TREE_FRM_PROFILE.DELIM : Field := { base := 0x1100220, lsb := 4, width := 2, acc := .rw, reset := 0 }

/-- TREE_FRM_PROFILE (04 Table 4.12). -/
def TREE_FRM_PROFILE.desc : RegDesc := { base := 0x1100220, die := true, dims := [(0x20000, 8), (0x8, 4)], fields := [TREE_FRM_PROFILE.PRE_UNITS, TREE_FRM_PROFILE.DELIM] }

/-- [0] RO. Tree loss of signal declared on the 50G-class set. (04 Table 4.13) -/
def TREE_DEF_STATUS.LOS_FIFTY : Field := { base := 0x1100280, lsb := 0, width := 1, acc := .ro, reset := 0 }

/-- [1] RO. Tree loss of signal declared on the XGS-PON set. (04 Table 4.13) -/
def TREE_DEF_STATUS.LOS_XGS : Field := { base := 0x1100280, lsb := 1, width := 1, acc := .ro, reset := 0 }

/-- [2] RO. Tree receiver loss of lock declared on the 50G-class set. (04 Table 4.13) -/
def TREE_DEF_STATUS.LOL_FIFTY : Field := { base := 0x1100280, lsb := 2, width := 1, acc := .ro, reset := 0 }

/-- [3] RO. Tree receiver loss of lock declared on the XGS-PON set. (04 Table 4.13) -/
def TREE_DEF_STATUS.LOL_XGS : Field := { base := 0x1100280, lsb := 3, width := 1, acc := .ro, reset := 0 }

/-- [4] RO. Loss of signal declared on every live set. (04 Table 4.13) -/
def TREE_DEF_STATUS.TREE_LOS : Field := { base := 0x1100280, lsb := 4, width := 1, acc := .ro, reset := 0 }

/-- [5] RO. OR of all declared per-terminal defects of the tree. (04 Table 4.13) -/
def TREE_DEF_STATUS.TERM_SUMMARY : Field := { base := 0x1100280, lsb := 5, width := 1, acc := .ro, reset := 0 }

/-- [6] RO. A die-level condition suppresses this tree (R17). (04 Table 4.13) -/
def TREE_DEF_STATUS.SUPPRESSED_ABOVE : Field := { base := 0x1100280, lsb := 6, width := 1, acc := .ro, reset := 0 }

/-- [12:8] W1C. Bit 8 + i set when bit i is declared. (04 Table 4.13) -/
def TREE_DEF_STATUS.ONSET : Field := { base := 0x1100280, lsb := 8, width := 5, acc := .w1c, reset := 0 }

/-- TREE_DEF_STATUS (04 Table 4.13). -/
def TREE_DEF_STATUS.desc : RegDesc := { base := 0x1100280, die := true, dims := [(0x20000, 8)], fields := [TREE_DEF_STATUS.LOS_FIFTY, TREE_DEF_STATUS.LOS_XGS, TREE_DEF_STATUS.LOL_FIFTY, TREE_DEF_STATUS.LOL_XGS, TREE_DEF_STATUS.TREE_LOS, TREE_DEF_STATUS.TERM_SUMMARY, TREE_DEF_STATUS.SUPPRESSED_ABOVE, TREE_DEF_STATUS.ONSET] }

/-- [63:0] RO.  (04 Registers) -/
def TREE_DEF_SUMMARY.TERM : Field := { base := 0x11002c0, lsb := 0, width := 64, acc := .ro, reset := 0 }

/-- TREE_DEF_SUMMARY (04 Registers). -/
def TREE_DEF_SUMMARY.desc : RegDesc := { base := 0x11002c0, die := true, dims := [(0x20000, 8), (0x8, 4)], fields := [TREE_DEF_SUMMARY.TERM] }

/-- [47:0] RO. Network-time seconds of the last latch. (04 Table 4.14) -/
def TREE_CNT_LATCH.SECONDS : Field := { base := 0x1100300, lsb := 0, width := 48, acc := .ro, reset := 0 }

/-- [48] RO. 1 if that latch followed valid network time. (04 Table 4.14) -/
def TREE_CNT_LATCH.TIME_VALID : Field := { base := 0x1100300, lsb := 48, width := 1, acc := .ro, reset := 0 }

/-- TREE_CNT_LATCH (04 Table 4.14). -/
def TREE_CNT_LATCH.desc : RegDesc := { base := 0x1100300, die := true, dims := [(0x20000, 8)], fields := [TREE_CNT_LATCH.SECONDS, TREE_CNT_LATCH.TIME_VALID] }

/-- [63:0] RC. Table 4.16. (04 Table 4.17) -/
def TREE_CNT.COUNT : Field := { base := 0x1100340, lsb := 0, width := 64, acc := .rc, reset := 0 }

/-- TREE_CNT (04 Table 4.17). -/
def TREE_CNT.desc : RegDesc := { base := 0x1100340, die := true, dims := [(0x20000, 8), (0x8, 8)], fields := [TREE_CNT.COUNT] }

/-- [0] RW. Sets CHIFFON in every frame stamp; runs the correlators. (05 Table 5.6) -/
def TREE_RNG_CTRL.CHIFFON_EN : Field := { base := 0x1100400, lsb := 0, width := 1, acc := .rw, reset := 1 }

/-- [1] RW. Periodic quiet windows (R117). (05 Table 5.6) -/
def TREE_RNG_CTRL.QUIET_EN : Field := { base := 0x1100400, lsb := 1, width := 1, acc := .rw, reset := 1 }

/-- [2] WO. Opens one quiet window (R118). (05 Table 5.6) -/
def TREE_RNG_CTRL.QUIET_FORCE : Field := { base := 0x1100400, lsb := 2, width := 1, acc := .wo, reset := 0 }

/-- [3] RW. Admission from the registration list (R133). (05 Table 5.6) -/
def TREE_RNG_CTRL.AUTO_ADMIT : Field := { base := 0x1100400, lsb := 3, width := 1, acc := .rw, reset := 1 }

/-- [9:4] RW. Differential reach, 0–40 km. (05 Table 5.6) -/
def TREE_RNG_CTRL.QW_DIFF_KM : Field := { base := 0x1100400, lsb := 4, width := 6, acc := .rw, reset := 20 }

/-- [15:10] RW. Nearest distance, km; QW_MIN_KM + QW_DIFF_KM ≤ 60. (05 Table 5.6) -/
def TREE_RNG_CTRL.QW_MIN_KM : Field := { base := 0x1100400, lsb := 10, width := 6, acc := .rw, reset := 0 }

/-- [31:16] RW. Frames between quiet windows, 80–65,535. (05 Table 5.6) -/
def TREE_RNG_CTRL.QW_PERIOD : Field := { base := 0x1100400, lsb := 16, width := 16, acc := .rw, reset := 8000 }

/-- [39:32] RW. Detection threshold in eighths, 40–160. (05 Table 5.6) -/
def TREE_RNG_CTRL.Z_TH : Field := { base := 0x1100400, lsb := 32, width := 8, acc := .rw, reset := 60 }

/-- [43:40] RW. Drift correction step, 1–8 symbols. (05 Table 5.6) -/
def TREE_RNG_CTRL.DRIFT_STEP : Field := { base := 0x1100400, lsb := 40, width := 4, acc := .rw, reset := 2 }

/-- [51:44] RW. Loss-of-burst time to LOST, 10 ms units, 2–255. (05 Table 5.6) -/
def TREE_RNG_CTRL.LOST_TIME : Field := { base := 0x1100400, lsb := 44, width := 8, acc := .rw, reset := 20 }

/-- [55:52] RW. Step retries, 1–15. (05 Table 5.6) -/
def TREE_RNG_CTRL.RETRY_MAX : Field := { base := 0x1100400, lsb := 52, width := 4, acc := .rw, reset := 8 }

/-- [63:56] RW. Admission wait, s, 1–255. (05 Table 5.6) -/
def TREE_RNG_CTRL.ADMIT_WAIT : Field := { base := 0x1100400, lsb := 56, width := 8, acc := .rw, reset := 10 }

/-- TREE_RNG_CTRL (05 Table 5.6). -/
def TREE_RNG_CTRL.desc : RegDesc := { base := 0x1100400, die := true, dims := [(0x20000, 8)], fields := [TREE_RNG_CTRL.CHIFFON_EN, TREE_RNG_CTRL.QUIET_EN, TREE_RNG_CTRL.QUIET_FORCE, TREE_RNG_CTRL.AUTO_ADMIT, TREE_RNG_CTRL.QW_DIFF_KM, TREE_RNG_CTRL.QW_MIN_KM, TREE_RNG_CTRL.QW_PERIOD, TREE_RNG_CTRL.Z_TH, TREE_RNG_CTRL.DRIFT_STEP, TREE_RNG_CTRL.LOST_TIME, TREE_RNG_CTRL.RETRY_MAX, TREE_RNG_CTRL.ADMIT_WAIT] }

/-- [15:0] RW. Codes offered; 0 reads back 0xFFFF. (05 Table 5.7) -/
def TREE_RNG_CHF.CODE_MASK : Field := { base := 0x1100408, lsb := 0, width := 16, acc := .rw, reset := 65535 }

/-- [37:16] RW. Signature start in the upstream frame, 0–3,110,399 symbols. (05 Table 5.7) -/
def TREE_RNG_CHF.SIG_START : Field := { base := 0x1100408, lsb := 16, width := 22, acc := .rw, reset := 0 }

/-- [45:38] RW. Signature power at the receptacle, −dBm, 40–50. (05 Table 5.7) -/
def TREE_RNG_CHF.SIG_LEVEL : Field := { base := 0x1100408, lsb := 38, width := 8, acc := .rw, reset := 45 }

/-- [47:46] RW. Burst profile of micro-window grants, and of directed ranging grants on a Twill set (R119). (05 Table 5.7) -/
def TREE_RNG_CHF.MW_PROFILE : Field := { base := 0x1100408, lsb := 46, width := 2, acc := .rw, reset := 0 }

/-- [49:48] RW. Burst profile of the broadcast serial-number grant that opens a quiet window on a Twill set (R117). (05 Table 5.7) -/
def TREE_RNG_CHF.QW_PROFILE : Field := { base := 0x1100408, lsb := 48, width := 2, acc := .rw, reset := 0 }

/-- TREE_RNG_CHF (05 Table 5.7). -/
def TREE_RNG_CHF.desc : RegDesc := { base := 0x1100408, die := true, dims := [(0x20000, 8)], fields := [TREE_RNG_CHF.CODE_MASK, TREE_RNG_CHF.SIG_START, TREE_RNG_CHF.SIG_LEVEL, TREE_RNG_CHF.MW_PROFILE, TREE_RNG_CHF.QW_PROFILE] }

/-- [3:0] WO. 1 ADMIT, 2 DENY, 3 RERANGE, 4 DEACTIVATE, 5 FREE; others ignored. (05 Table 5.8) -/
def TREE_RNG_CMD.OP : Field := { base := 0x1100410, lsb := 0, width := 4, acc := .wo, reset := 0 }

/-- [11:4] WO. Terminal index. (05 Table 5.8) -/
def TREE_RNG_CMD.TERMINAL : Field := { base := 0x1100410, lsb := 4, width := 8, acc := .wo, reset := 0 }

/-- [21:12] WO. ONU-ID for ADMIT, 0–1,015. (05 Table 5.8) -/
def TREE_RNG_CMD.ONU_ID : Field := { base := 0x1100410, lsb := 12, width := 10, acc := .wo, reset := 0 }

/-- TREE_RNG_CMD (05 Table 5.8). -/
def TREE_RNG_CMD.desc : RegDesc := { base := 0x1100410, die := true, dims := [(0x20000, 8)], fields := [TREE_RNG_CMD.OP, TREE_RNG_CMD.TERMINAL, TREE_RNG_CMD.ONU_ID] }

/-- [15:0] RO. Residual RMS per sample over the last frame, 1/16 sample code. (05 Table 5.9) -/
def TREE_RNG_STATUS.RES_RMS : Field := { base := 0x1100418, lsb := 0, width := 16, acc := .ro, reset := 0 }

/-- [23:16] RO. Share of samples excluded in the last frame, %. (05 Table 5.9) -/
def TREE_RNG_STATUS.EXCLUDED : Field := { base := 0x1100418, lsb := 16, width := 8, acc := .ro, reset := 0 }

/-- [26:24] RO. Pending detections, 0–4. (05 Table 5.9) -/
def TREE_RNG_STATUS.PENDING : Field := { base := 0x1100418, lsb := 24, width := 3, acc := .ro, reset := 0 }

/-- [31:28] RO. 0 OK, 1 BAD_STATE, 2 BUSY, 3 ONU_ID_IN_USE, 4 BAD_ONU_ID. (05 Table 5.9) -/
def TREE_RNG_STATUS.CMD_RESULT : Field := { base := 0x1100418, lsb := 28, width := 4, acc := .ro, reset := 0 }

/-- [32] RO. Quiet windows held off (R118). (05 Table 5.9) -/
def TREE_RNG_STATUS.QW_BLOCKED : Field := { base := 0x1100418, lsb := 32, width := 1, acc := .ro, reset := 0 }

/-- [33] W1C. Set under R138. (05 Table 5.9) -/
def TREE_RNG_STATUS.ROGUE : Field := { base := 0x1100418, lsb := 33, width := 1, acc := .w1c, reset := 0 }

/-- [34] W1C. Set under R133. (05 Table 5.9) -/
def TREE_RNG_STATUS.REACQUIRED : Field := { base := 0x1100418, lsb := 34, width := 1, acc := .w1c, reset := 0 }

/-- [35] W1C. Set under R133. (05 Table 5.9) -/
def TREE_RNG_STATUS.DUP_SN : Field := { base := 0x1100418, lsb := 35, width := 1, acc := .w1c, reset := 0 }

/-- [47:40] RO. Terminal last recorded under R138. (05 Table 5.9) -/
def TREE_RNG_STATUS.ROGUE_TERMINAL : Field := { base := 0x1100418, lsb := 40, width := 8, acc := .ro, reset := 0 }

/-- TREE_RNG_STATUS (05 Table 5.9). -/
def TREE_RNG_STATUS.desc : RegDesc := { base := 0x1100418, die := true, dims := [(0x20000, 8)], fields := [TREE_RNG_STATUS.RES_RMS, TREE_RNG_STATUS.EXCLUDED, TREE_RNG_STATUS.PENDING, TREE_RNG_STATUS.CMD_RESULT, TREE_RNG_STATUS.QW_BLOCKED, TREE_RNG_STATUS.ROGUE, TREE_RNG_STATUS.REACQUIRED, TREE_RNG_STATUS.DUP_SN, TREE_RNG_STATUS.ROGUE_TERMINAL] }

/-- [0] RO. Detection pending. (05 Table 5.10) -/
def TREE_RNG_DETECT.VALID : Field := { base := 0x1100440, lsb := 0, width := 1, acc := .ro, reset := 0 }

/-- [4:1] RO. Code detected. (05 Table 5.10) -/
def TREE_RNG_DETECT.CODE : Field := { base := 0x1100440, lsb := 1, width := 4, acc := .ro, reset := 0 }

/-- [5] RO. 0: first invitation, 1: second. (05 Table 5.10) -/
def TREE_RNG_DETECT.ATTEMPT : Field := { base := 0x1100440, lsb := 5, width := 1, acc := .ro, reset := 0 }

/-- [31:6] RO. Signed arrival from upstream frame start, symbols. (05 Table 5.10) -/
def TREE_RNG_DETECT.ARRIVAL : Field := { base := 0x1100440, lsb := 6, width := 26, acc := .ro, reset := 0 }

/-- [39:32] RO. z in eighths; saturates at 255. (05 Table 5.10) -/
def TREE_RNG_DETECT.Z : Field := { base := 0x1100440, lsb := 32, width := 8, acc := .ro, reset := 0 }

/-- [43:40] RO. Frames accumulated at detection, 1–8. (05 Table 5.10) -/
def TREE_RNG_DETECT.FRAMES : Field := { base := 0x1100440, lsb := 40, width := 4, acc := .ro, reset := 0 }

/-- [51:44] RO. Index reserved. (05 Table 5.10) -/
def TREE_RNG_DETECT.TERMINAL : Field := { base := 0x1100440, lsb := 44, width := 8, acc := .ro, reset := 0 }

/-- TREE_RNG_DETECT (05 Table 5.10). -/
def TREE_RNG_DETECT.desc : RegDesc := { base := 0x1100440, die := true, dims := [(0x20000, 8), (0x8, 4)], fields := [TREE_RNG_DETECT.VALID, TREE_RNG_DETECT.CODE, TREE_RNG_DETECT.ATTEMPT, TREE_RNG_DETECT.ARRIVAL, TREE_RNG_DETECT.Z, TREE_RNG_DETECT.FRAMES, TREE_RNG_DETECT.TERMINAL] }

/-- [63:0] RC. Table 4.16. (05 R140) -/
def TREE_RNG_CNT.COUNT : Field := { base := 0x1100480, lsb := 0, width := 64, acc := .rc, reset := 0 }

/-- TREE_RNG_CNT (05 R140). -/
def TREE_RNG_CNT.desc : RegDesc := { base := 0x1100480, die := true, dims := [(0x20000, 8), (0x8, 10)], fields := [TREE_RNG_CNT.COUNT] }

/-- [11:0] RO. Learned low threshold, sample code. (03 Table 3.18) -/
def TREE_RX_TERM.TH_LOW : Field := { base := 0x1101000, lsb := 0, width := 12, acc := .ro, reset := 0 }

/-- [23:12] RO. Learned middle threshold. (03 Table 3.18) -/
def TREE_RX_TERM.TH_MID : Field := { base := 0x1101000, lsb := 12, width := 12, acc := .ro, reset := 0 }

/-- [35:24] RO. Learned high threshold. (03 Table 3.18) -/
def TREE_RX_TERM.TH_HIGH : Field := { base := 0x1101000, lsb := 24, width := 12, acc := .ro, reset := 0 }

/-- [47:36] RO. Received power of the last learned burst; value v means −v/100 dBm. (03 Table 3.18) -/
def TREE_RX_TERM.RX_POWER : Field := { base := 0x1101000, lsb := 36, width := 12, acc := .ro, reset := 0 }

/-- [55:48] RO. RLM of that burst × 256, rounded down; saturates at 255. (03 Table 3.18) -/
def TREE_RX_TERM.RLM : Field := { base := 0x1101000, lsb := 48, width := 8, acc := .ro, reset := 0 }

/-- [62:56] RO. Signal-to-noise ratio of that burst as R81 defines it, 0.25 dB units. (03 Table 3.18) -/
def TREE_RX_TERM.SNR : Field := { base := 0x1101000, lsb := 56, width := 7, acc := .ro, reset := 0 }

/-- [63] W1C. 1 while the learned state is valid; writing 1 clears the entry (R82). (03 Table 3.18) -/
def TREE_RX_TERM.VALID : Field := { base := 0x1101000, lsb := 63, width := 1, acc := .w1c, reset := 0 }

/-- TREE_RX_TERM (03 Table 3.18). -/
def TREE_RX_TERM.desc : RegDesc := { base := 0x1101000, die := true, dims := [(0x20000, 8), (0x8, 256)], fields := [TREE_RX_TERM.TH_LOW, TREE_RX_TERM.TH_MID, TREE_RX_TERM.TH_HIGH, TREE_RX_TERM.RX_POWER, TREE_RX_TERM.RLM, TREE_RX_TERM.SNR, TREE_RX_TERM.VALID] }

/-- [0] RO. Loss of burst declared. (04 Table 4.15) -/
def TREE_DEF_TERM.LOB : Field := { base := 0x1102000, lsb := 0, width := 1, acc := .ro, reset := 0 }

/-- [1] RO. Loss of delineation declared. (04 Table 4.15) -/
def TREE_DEF_TERM.LOD : Field := { base := 0x1102000, lsb := 1, width := 1, acc := .ro, reset := 0 }

/-- [2] RO. Drift of window declared. (04 Table 4.15) -/
def TREE_DEF_TERM.DOW : Field := { base := 0x1102000, lsb := 2, width := 1, acc := .ro, reset := 0 }

/-- [3] RO. Signal fail declared. (04 Table 4.15) -/
def TREE_DEF_TERM.SF : Field := { base := 0x1102000, lsb := 3, width := 1, acc := .ro, reset := 0 }

/-- [4] RO. Signal degrade declared. (04 Table 4.15) -/
def TREE_DEF_TERM.SD : Field := { base := 0x1102000, lsb := 4, width := 1, acc := .ro, reset := 0 }

/-- [12:8] W1C. Bit 8 + i set when bit i is declared. (04 Table 4.15) -/
def TREE_DEF_TERM.ONSET : Field := { base := 0x1102000, lsb := 8, width := 5, acc := .w1c, reset := 0 }

/-- [20:16] RO. Criteria met, declared or suppressed, in the order of bits [4:0]. (04 Table 4.15) -/
def TREE_DEF_TERM.RAW : Field := { base := 0x1102000, lsb := 16, width := 5, acc := .ro, reset := 0 }

/-- [31:24] RO. Drift of the last VALID burst, signed, symbols. (04 Table 4.15) -/
def TREE_DEF_TERM.LAST_DRIFT : Field := { base := 0x1102000, lsb := 24, width := 8, acc := .ro, reset := 0 }

/-- [35:32] RO. Loss-of-burst run; saturates at 15. (04 Table 4.15) -/
def TREE_DEF_TERM.LOB_RUN : Field := { base := 0x1102000, lsb := 32, width := 4, acc := .ro, reset := 0 }

/-- [39:36] RO. Delineation run; saturates at 15. (04 Table 4.15) -/
def TREE_DEF_TERM.LOD_RUN : Field := { base := 0x1102000, lsb := 36, width := 4, acc := .ro, reset := 0 }

/-- [40] RO. Terminal in operation state (R107). (04 Table 4.15) -/
def TREE_DEF_TERM.OPERATION : Field := { base := 0x1102000, lsb := 40, width := 1, acc := .ro, reset := 0 }

/-- TREE_DEF_TERM (04 Table 4.15). -/
def TREE_DEF_TERM.desc : RegDesc := { base := 0x1102000, die := true, dims := [(0x20000, 8), (0x8, 256)], fields := [TREE_DEF_TERM.LOB, TREE_DEF_TERM.LOD, TREE_DEF_TERM.DOW, TREE_DEF_TERM.SF, TREE_DEF_TERM.SD, TREE_DEF_TERM.ONSET, TREE_DEF_TERM.RAW, TREE_DEF_TERM.LAST_DRIFT, TREE_DEF_TERM.LOB_RUN, TREE_DEF_TERM.LOD_RUN, TREE_DEF_TERM.OPERATION] }

/-- [2:0] RO. Table 5.2. (05 Table 5.11) -/
def TREE_RNG_TERM.STATE : Field := { base := 0x1103000, lsb := 0, width := 3, acc := .ro, reset := 0 }

/-- [3] RO. 0: 50G-class, 1: XGS-PON. (05 Table 5.11) -/
def TREE_RNG_TERM.SET : Field := { base := 0x1103000, lsb := 3, width := 1, acc := .ro, reset := 0 }

/-- [4] RO. 0: quiet window, 1: Chiffon. (05 Table 5.11) -/
def TREE_RNG_TERM.METHOD : Field := { base := 0x1103000, lsb := 4, width := 1, acc := .ro, reset := 0 }

/-- [17:8] RO. Assigned or provisional ONU-ID. (05 Table 5.11) -/
def TREE_RNG_TERM.ONU_ID : Field := { base := 0x1103000, lsb := 8, width := 10, acc := .ro, reset := 0 }

/-- [47:24] RO. Twill: symbols; standard sets: the recommendation's units. (05 Table 5.11) -/
def TREE_RNG_TERM.EQD : Field := { base := 0x1103000, lsb := 24, width := 24, acc := .ro, reset := 0 }

/-- [61:48] RO. 10 m units (R113). (05 Table 5.11) -/
def TREE_RNG_TERM.DISTANCE : Field := { base := 0x1103000, lsb := 48, width := 14, acc := .ro, reset := 0 }

/-- TREE_RNG_TERM (05 Table 5.11). -/
def TREE_RNG_TERM.desc : RegDesc := { base := 0x1103000, die := true, dims := [(0x20000, 8), (0x10, 256)], fields := [TREE_RNG_TERM.STATE, TREE_RNG_TERM.SET, TREE_RNG_TERM.METHOD, TREE_RNG_TERM.ONU_ID, TREE_RNG_TERM.EQD, TREE_RNG_TERM.DISTANCE] }

/-- [63:0] RO.  (05 Registers) -/
def TREE_RNG_SN.SERIAL : Field := { base := 0x1103008, lsb := 0, width := 64, acc := .ro, reset := 0 }

/-- TREE_RNG_SN (05 Registers). -/
def TREE_RNG_SN.desc : RegDesc := { base := 0x1103008, die := true, dims := [(0x20000, 8), (0x10, 256)], fields := [TREE_RNG_SN.SERIAL] }

/-- [63:0] RC. Table 4.16. (04 Table 4.18) -/
def TREE_TCNT.COUNT : Field := { base := 0x1110000, lsb := 0, width := 64, acc := .rc, reset := 0 }

/-- TREE_TCNT (04 Table 4.18). -/
def TREE_TCNT.desc : RegDesc := { base := 0x1110000, die := true, dims := [(0x20000, 8), (0x80, 256), (0x8, 16)], fields := [TREE_TCNT.COUNT] }

/-- [31:0] RO. Longest build since package reset, ns; saturates. (06 Table 6.10) -/
def GRANT_BUILD_STATUS.MAX_BUILD_NS : Field := { base := 0x1200008, lsb := 0, width := 32, acc := .ro, reset := 0 }

/-- [47:32] RO. Builds that ended after their deadline; saturates. (06 Table 6.10) -/
def GRANT_BUILD_STATUS.SLOW_BUILDS : Field := { base := 0x1200008, lsb := 32, width := 16, acc := .ro, reset := 0 }

/-- GRANT_BUILD_STATUS (06 Table 6.10). -/
def GRANT_BUILD_STATUS.desc : RegDesc := { base := 0x1200008, die := true, dims := [], fields := [GRANT_BUILD_STATUS.MAX_BUILD_NS, GRANT_BUILD_STATUS.SLOW_BUILDS] }

/-- [39:0] RO. Byte offset of the map-record area in the die's DRAM. (06 Table 6.11) -/
def GRANT_MAP_BASE.OFFSET : Field := { base := 0x1200010, lsb := 0, width := 40, acc := .ro, reset := 0, perImage := true }

/-- GRANT_MAP_BASE (06 Table 6.11). -/
def GRANT_MAP_BASE.desc : RegDesc := { base := 0x1200010, die := true, dims := [], fields := [GRANT_MAP_BASE.OFFSET] }

/-- [1:0] WO. 1 READ, 2 WRITE, 3 WRITE_RESET (contexts only; with TARGET 1, 2 or 3 it returns BAD_VALUE and changes nothing); 0 ignored. (06 Table 6.12) -/
def GRANT_ACC_CTRL.OP : Field := { base := 0x1200020, lsb := 0, width := 2, acc := .wo, reset := 0 }

/-- [3:2] WO. 0 allocation context, 1 gate list header, 2 operational entry, 3 administrative entry. (06 Table 6.12) -/
def GRANT_ACC_CTRL.TARGET : Field := { base := 0x1200020, lsb := 2, width := 2, acc := .wo, reset := 0 }

/-- [6:4] WO. Local tree, for contexts. (06 Table 6.12) -/
def GRANT_ACC_CTRL.TREE : Field := { base := 0x1200020, lsb := 4, width := 3, acc := .wo, reset := 0 }

/-- [17:8] WO. Allocation 0–1,023, or entry 0–1,023. (06 Table 6.12) -/
def GRANT_ACC_CTRL.INDEX : Field := { base := 0x1200020, lsb := 8, width := 10, acc := .wo, reset := 0 }

/-- [25:18] WO. Gate list 0–255. (06 Table 6.12) -/
def GRANT_ACC_CTRL.LIST : Field := { base := 0x1200020, lsb := 18, width := 8, acc := .wo, reset := 0 }

/-- [29:26] RO. 0 OK, 1 BUSY, 2 OVERBOOK, 3 BAD_INDEX, 4 IN_USE, 5 BAD_VALUE. (06 Table 6.12) -/
def GRANT_ACC_CTRL.RESULT : Field := { base := 0x1200020, lsb := 26, width := 4, acc := .ro, reset := 0 }

/-- [30] RO. 1 when the last operation has finished. (06 Table 6.12) -/
def GRANT_ACC_CTRL.DONE : Field := { base := 0x1200020, lsb := 30, width := 1, acc := .ro, reset := 1 }

/-- GRANT_ACC_CTRL (06 Table 6.12). -/
def GRANT_ACC_CTRL.desc : RegDesc := { base := 0x1200020, die := true, dims := [], fields := [GRANT_ACC_CTRL.OP, GRANT_ACC_CTRL.TARGET, GRANT_ACC_CTRL.TREE, GRANT_ACC_CTRL.INDEX, GRANT_ACC_CTRL.LIST, GRANT_ACC_CTRL.RESULT, GRANT_ACC_CTRL.DONE] }

/-- [63:0] RW.  (06 Registers) -/
def GRANT_ACC_DATA.DATA : Field := { base := 0x1200040, lsb := 0, width := 64, acc := .rw, reset := 0 }

/-- GRANT_ACC_DATA (06 Registers). -/
def GRANT_ACC_DATA.desc : RegDesc := { base := 0x1200040, die := true, dims := [(0x8, 8)], fields := [GRANT_ACC_DATA.DATA] }

/-- [1:0] WO. 1 micro-window, 2 ranging grant, 3 quiet window. (06 Table 6.13) -/
def GRANT_RESV.KIND : Field := { base := 0x1200080, lsb := 0, width := 2, acc := .wo, reset := 0 }

/-- [4:2] WO. Local tree. (06 Table 6.13) -/
def GRANT_RESV.TREE : Field := { base := 0x1200080, lsb := 2, width := 3, acc := .wo, reset := 0 }

/-- [5] WO. Set. (06 Table 6.13) -/
def GRANT_RESV.SET : Field := { base := 0x1200080, lsb := 5, width := 1, acc := .wo, reset := 0 }

/-- [15:6] WO. ONU-ID granted; ignored for a quiet window. (06 Table 6.13) -/
def GRANT_RESV.ONU_ID : Field := { base := 0x1200080, lsb := 6, width := 10, acc := .wo, reset := 0 }

/-- [31:16] WO. Bits [15:0] of M. (06 Table 6.13) -/
def GRANT_RESV.FRAME_LOW : Field := { base := 0x1200080, lsb := 16, width := 16, acc := .wo, reset := 0 }

/-- [43:32] WO. Ranging grant size, units, 1–4,095; ignored otherwise. (06 Table 6.13) -/
def GRANT_RESV.UNITS : Field := { base := 0x1200080, lsb := 32, width := 12, acc := .wo, reset := 0 }

/-- [45:44] WO. Burst profile for a ranging grant. (06 Table 6.13) -/
def GRANT_RESV.PROFILE : Field := { base := 0x1200080, lsb := 44, width := 2, acc := .wo, reset := 0 }

/-- GRANT_RESV (06 Table 6.13). -/
def GRANT_RESV.desc : RegDesc := { base := 0x1200080, die := true, dims := [], fields := [GRANT_RESV.KIND, GRANT_RESV.TREE, GRANT_RESV.SET, GRANT_RESV.ONU_ID, GRANT_RESV.FRAME_LOW, GRANT_RESV.UNITS, GRANT_RESV.PROFILE] }

/-- [2:0] RO.  (06 Table 6.14) -/
def GRANT_RESV_STATUS.ACCEPT : Field := { base := 0x1200088, lsb := 0, width := 3, acc := .ro, reset := 0 }

/-- [3] W1C.  (06 Table 6.14) -/
def GRANT_RESV_STATUS.NO_ROOM : Field := { base := 0x1200088, lsb := 3, width := 1, acc := .w1c, reset := 0 }

/-- [19:4] RO.  (06 Table 6.14) -/
def GRANT_RESV_STATUS.NO_ROOM_FRAME : Field := { base := 0x1200088, lsb := 4, width := 16, acc := .ro, reset := 0 }

/-- GRANT_RESV_STATUS (06 Table 6.14). -/
def GRANT_RESV_STATUS.desc : RegDesc := { base := 0x1200088, die := true, dims := [], fields := [GRANT_RESV_STATUS.ACCEPT, GRANT_RESV_STATUS.NO_ROOM, GRANT_RESV_STATUS.NO_ROOM_FRAME] }

/-- [6:0] RW. Guard, 24–64 ns. (06 Table 6.15) -/
def GRANT_TREE_CTRL.GUARD_NS : Field := { base := 0x1200100, lsb := 0, width := 7, acc := .rw, reset := 32 }

/-- [13:7] RW. Delimiter search half-width, 4–64 symbols. (06 Table 6.15) -/
def GRANT_TREE_CTRL.WINDOW : Field := { base := 0x1200100, lsb := 7, width := 7, acc := .rw, reset := 16 }

/-- [21:14] RW. Least part of a split burst, 1–255 units. (06 Table 6.15) -/
def GRANT_TREE_CTRL.SPLIT_MIN : Field := { base := 0x1200100, lsb := 14, width := 8, acc := .rw, reset := 16 }

/-- [25:22] RW. ASSURED credit cap in frames of RATE, 1–15. (06 Table 6.15) -/
def GRANT_TREE_CTRL.CREDIT_FRAMES : Field := { base := 0x1200100, lsb := 22, width := 4, acc := .rw, reset := 2 }

/-- [32:26] RW. Booking limit, 50–100 % (R145). (06 Table 6.15) -/
def GRANT_TREE_CTRL.BOOK_LIMIT : Field := { base := 0x1200100, lsb := 26, width := 7, acc := .rw, reset := 90 }

/-- [33] RW. Arrival predictor on the tree. (06 Table 6.15) -/
def GRANT_TREE_CTRL.PREDICT_EN : Field := { base := 0x1200100, lsb := 33, width := 1, acc := .rw, reset := 1 }

/-- GRANT_TREE_CTRL (06 Table 6.15). -/
def GRANT_TREE_CTRL.desc : RegDesc := { base := 0x1200100, die := true, dims := [(0x100, 8)], fields := [GRANT_TREE_CTRL.GUARD_NS, GRANT_TREE_CTRL.WINDOW, GRANT_TREE_CTRL.SPLIT_MIN, GRANT_TREE_CTRL.CREDIT_FRAMES, GRANT_TREE_CTRL.BOOK_LIMIT, GRANT_TREE_CTRL.PREDICT_EN] }

/-- [9:0] RO. Structures in the last 50G-class map. (06 Table 6.16) -/
def GRANT_TREE_STATUS.STRUCTS_FIFTY : Field := { base := 0x1200108, lsb := 0, width := 10, acc := .ro, reset := 0 }

/-- [19:10] RO. Structures in the last XGS-PON map. (06 Table 6.16) -/
def GRANT_TREE_STATUS.STRUCTS_XGS : Field := { base := 0x1200108, lsb := 10, width := 10, acc := .ro, reset := 0 }

/-- [35:20] RO. Units of the frame capacity (R145) neither granted nor overhead in that map. The overhead of each burst is its guard, preamble and delimiter in the set's own units, rounded up: O(PRE) on Twill (R150); on a standard set, the span the builder keeps for them on the StartTime grid. (06 Table 6.16) -/
def GRANT_TREE_STATUS.UNUSED_FIFTY : Field := { base := 0x1200108, lsb := 20, width := 16, acc := .ro, reset := 0 }

/-- [51:36] RO. As UNUSED_FIFTY, XGS-PON set, counted in its own units and StartTime grid. (06 Table 6.16) -/
def GRANT_TREE_STATUS.UNUSED_XGS : Field := { base := 0x1200108, lsb := 36, width := 16, acc := .ro, reset := 0 }

/-- [52] RO. A build is running. (06 Table 6.16) -/
def GRANT_TREE_STATUS.BUILDING : Field := { base := 0x1200108, lsb := 52, width := 1, acc := .ro, reset := 0 }

/-- [53] RO. 50G-class set overbooked (R145). (06 Table 6.16) -/
def GRANT_TREE_STATUS.OVERBOOKED_FIFTY : Field := { base := 0x1200108, lsb := 53, width := 1, acc := .ro, reset := 0 }

/-- [54] RO. XGS-PON set overbooked (R145). (06 Table 6.16) -/
def GRANT_TREE_STATUS.OVERBOOKED_XGS : Field := { base := 0x1200108, lsb := 54, width := 1, acc := .ro, reset := 0 }

/-- GRANT_TREE_STATUS (06 Table 6.16). -/
def GRANT_TREE_STATUS.desc : RegDesc := { base := 0x1200108, die := true, dims := [(0x100, 8)], fields := [GRANT_TREE_STATUS.STRUCTS_FIFTY, GRANT_TREE_STATUS.STRUCTS_XGS, GRANT_TREE_STATUS.UNUSED_FIFTY, GRANT_TREE_STATUS.UNUSED_XGS, GRANT_TREE_STATUS.BUILDING, GRANT_TREE_STATUS.OVERBOOKED_FIFTY, GRANT_TREE_STATUS.OVERBOOKED_XGS] }

/-- [4:0] RW. Initial gain code. (06 Table 6.17) -/
def GRANT_RX_PRESET.GAIN : Field := { base := 0x1200110, lsb := 0, width := 5, acc := .rw, reset := 16 }

/-- [19:8] RW. Initial low threshold, sample code. (06 Table 6.17) -/
def GRANT_RX_PRESET.TH_LOW : Field := { base := 0x1200110, lsb := 8, width := 12, acc := .rw, reset := 1024 }

/-- [31:20] RW. Initial middle threshold. (06 Table 6.17) -/
def GRANT_RX_PRESET.TH_MID : Field := { base := 0x1200110, lsb := 20, width := 12, acc := .rw, reset := 2048 }

/-- [43:32] RW. Initial high threshold. (06 Table 6.17) -/
def GRANT_RX_PRESET.TH_HIGH : Field := { base := 0x1200110, lsb := 32, width := 12, acc := .rw, reset := 3072 }

/-- GRANT_RX_PRESET (06 Table 6.17). -/
def GRANT_RX_PRESET.desc : RegDesc := { base := 0x1200110, die := true, dims := [(0x100, 8), (0x10, 2)], fields := [GRANT_RX_PRESET.GAIN, GRANT_RX_PRESET.TH_LOW, GRANT_RX_PRESET.TH_MID, GRANT_RX_PRESET.TH_HIGH] }

/-- [63:0] RW.  (06 Registers) -/
def GRANT_RX_EQ.TAPS : Field := { base := 0x1200118, lsb := 0, width := 64, acc := .rw, reset := 4194304 }

/-- GRANT_RX_EQ (06 Registers). -/
def GRANT_RX_EQ.desc : RegDesc := { base := 0x1200118, die := true, dims := [(0x100, 8), (0x10, 2)], fields := [GRANT_RX_EQ.TAPS] }

/-- [63:0] RC. Table 4.16. (06 R167) -/
def GRANT_CNT.COUNT : Field := { base := 0x1200140, lsb := 0, width := 64, acc := .rc, reset := 0 }

/-- GRANT_CNT (06 R167). -/
def GRANT_CNT.desc : RegDesc := { base := 0x1200140, die := true, dims := [(0x100, 8), (0x8, 14)], fields := [GRANT_CNT.COUNT] }

/-- [47:0] RW. Source address of circuit-emulation packets. (07 Table 7.8) -/
def CIRC_CTRL.SRC_MAC : Field := { base := 0x1280000, lsb := 0, width := 48, acc := .rw, reset := 0 }

/-- [63:48] RW. EtherType of circuit-emulation packets. (07 Table 7.8) -/
def CIRC_CTRL.ETHERTYPE : Field := { base := 0x1280000, lsb := 48, width := 16, acc := .rw, reset := 34997 }

/-- CIRC_CTRL (07 Table 7.8). -/
def CIRC_CTRL.desc : RegDesc := { base := 0x1280000, die := true, dims := [], fields := [CIRC_CTRL.SRC_MAC, CIRC_CTRL.ETHERTYPE] }

/-- [2:0] WO. 1 READ, 2 WRITE, 3 ENABLE, 4 DISABLE; others ignored. (07 Table 7.9) -/
def CIRC_ACC_CTRL.OP : Field := { base := 0x1280008, lsb := 0, width := 3, acc := .wo, reset := 0 }

/-- [3] WO. 0 circuit context, 1 group context. (07 Table 7.9) -/
def CIRC_ACC_CTRL.TARGET : Field := { base := 0x1280008, lsb := 3, width := 1, acc := .wo, reset := 0 }

/-- [13:4] WO. Circuit 0–1,023 or group 0–127. (07 Table 7.9) -/
def CIRC_ACC_CTRL.INDEX : Field := { base := 0x1280008, lsb := 4, width := 10, acc := .wo, reset := 0 }

/-- [17:14] RO. 0 OK, 1 BUSY, 2 BAD_VALUE, 3 IN_USE, 4 NO_FIT, 5 BINDING. (07 Table 7.9) -/
def CIRC_ACC_CTRL.RESULT : Field := { base := 0x1280008, lsb := 14, width := 4, acc := .ro, reset := 0 }

/-- [18] RO. 1 when the last operation has finished. (07 Table 7.9) -/
def CIRC_ACC_CTRL.DONE : Field := { base := 0x1280008, lsb := 18, width := 1, acc := .ro, reset := 1 }

/-- CIRC_ACC_CTRL (07 Table 7.9). -/
def CIRC_ACC_CTRL.desc : RegDesc := { base := 0x1280008, die := true, dims := [], fields := [CIRC_ACC_CTRL.OP, CIRC_ACC_CTRL.TARGET, CIRC_ACC_CTRL.INDEX, CIRC_ACC_CTRL.RESULT, CIRC_ACC_CTRL.DONE] }

/-- [63:0] RO.  (07 Registers) -/
def CIRC_UNKNOWN.UNKNOWN_LABEL : Field := { base := 0x1280010, lsb := 0, width := 64, acc := .ro, reset := 0 }

/-- CIRC_UNKNOWN (07 Registers). -/
def CIRC_UNKNOWN.desc : RegDesc := { base := 0x1280010, die := true, dims := [], fields := [CIRC_UNKNOWN.UNKNOWN_LABEL] }

/-- [63:0] RW.  (07 Registers) -/
def CIRC_ACC_DATA.DATA : Field := { base := 0x1280040, lsb := 0, width := 64, acc := .rw, reset := 0 }

/-- CIRC_ACC_DATA (07 Registers). -/
def CIRC_ACC_DATA.desc : RegDesc := { base := 0x1280040, die := true, dims := [(0x8, 8)], fields := [CIRC_ACC_DATA.DATA] }

/-- [3:0] RO. Declared: bit 0 CLOSS, 1 CFAIL, 2 RFAIL, 3 CE_LOSS. (07 Table 7.12) -/
def CIRC_DEF.DEFECT : Field := { base := 0x1281000, lsb := 0, width := 4, acc := .ro, reset := 0 }

/-- [11:8] W1C. Bit 8 + i set when bit i is declared. (07 Table 7.12) -/
def CIRC_DEF.ONSET : Field := { base := 0x1281000, lsb := 8, width := 4, acc := .w1c, reset := 0 }

/-- [15:12] RO. Criteria met, declared or suppressed. (07 Table 7.12) -/
def CIRC_DEF.RAW : Field := { base := 0x1281000, lsb := 12, width := 4, acc := .ro, reset := 0 }

/-- [17:16] RO. As the context. (07 Table 7.12) -/
def CIRC_DEF.RUN_STATE : Field := { base := 0x1281000, lsb := 16, width := 2, acc := .ro, reset := 0 }

/-- [18] RO. A terminal or tree defect suppresses CLOSS. (07 Table 7.12) -/
def CIRC_DEF.SUPPRESSED_ABOVE : Field := { base := 0x1281000, lsb := 18, width := 1, acc := .ro, reset := 0 }

/-- [47:32] RO. GSEQ of the last container received. (07 Table 7.12) -/
def CIRC_DEF.LAST_GSEQ : Field := { base := 0x1281000, lsb := 32, width := 16, acc := .ro, reset := 0 }

/-- CIRC_DEF (07 Table 7.12). -/
def CIRC_DEF.desc : RegDesc := { base := 0x1281000, die := true, dims := [(0x8, 1024)], fields := [CIRC_DEF.DEFECT, CIRC_DEF.ONSET, CIRC_DEF.RAW, CIRC_DEF.RUN_STATE, CIRC_DEF.SUPPRESSED_ABOVE, CIRC_DEF.LAST_GSEQ] }

/-- [1:0] RO. Declared: bit 0 MLOSS, bit 1 DDE. (07 Table 7.13) -/
def CIRC_GROUP_STATUS.DEFECT : Field := { base := 0x1283000, lsb := 0, width := 2, acc := .ro, reset := 0 }

/-- [5:4] W1C. Bit 4 + i set when bit i is declared. (07 Table 7.13) -/
def CIRC_GROUP_STATUS.ONSET : Field := { base := 0x1283000, lsb := 4, width := 2, acc := .w1c, reset := 0 }

/-- [15:8] RO. Bit k: member k missing at the last release. (07 Table 7.13) -/
def CIRC_GROUP_STATUS.MISSING : Field := { base := 0x1283000, lsb := 8, width := 8, acc := .ro, reset := 0 }

/-- [19:16] RO. As the group context. (07 Table 7.13) -/
def CIRC_GROUP_STATUS.SKEW : Field := { base := 0x1283000, lsb := 16, width := 4, acc := .ro, reset := 0 }

/-- CIRC_GROUP_STATUS (07 Table 7.13). -/
def CIRC_GROUP_STATUS.desc : RegDesc := { base := 0x1283000, die := true, dims := [(0x8, 128)], fields := [CIRC_GROUP_STATUS.DEFECT, CIRC_GROUP_STATUS.ONSET, CIRC_GROUP_STATUS.MISSING, CIRC_GROUP_STATUS.SKEW] }

/-- [63:0] RC. Table 4.16. (07 R185) -/
def CIRC_CNT.COUNT : Field := { base := 0x1288000, lsb := 0, width := 64, acc := .rc, reset := 0 }

/-- CIRC_CNT (07 R185). -/
def CIRC_CNT.desc : RegDesc := { base := 0x1288000, die := true, dims := [(0x80, 1024), (0x8, 16)], fields := [CIRC_CNT.COUNT] }

/-- [0] RW. 0 DROP, 1 CONTINUE (R191). (08 Table 8.9) -/
def PARSE_CTRL.MALFORMED_ACTION : Field := { base := 0x1300000, lsb := 0, width := 1, acc := .rw, reset := 0 }

/-- PARSE_CTRL (08 Table 8.9). -/
def PARSE_CTRL.desc : RegDesc := { base := 0x1300000, die := true, dims := [], fields := [PARSE_CTRL.MALFORMED_ACTION] }

/-- [2:0] RO. As MALFORMED in Table 8.2. (08 Table 8.10) -/
def PARSE_LAST_MAL.REASON : Field := { base := 0x1300008, lsb := 0, width := 3, acc := .ro, reset := 0 }

/-- [3] RO. 0 downstream, 1 upstream. (08 Table 8.10) -/
def PARSE_LAST_MAL.DIRECTION : Field := { base := 0x1300008, lsb := 3, width := 1, acc := .ro, reset := 0 }

/-- [7:4] RO. Parse profile. (08 Table 8.10) -/
def PARSE_LAST_MAL.PROFILE : Field := { base := 0x1300008, lsb := 4, width := 4, acc := .ro, reset := 0 }

/-- [12:8] RO. Headers found. (08 Table 8.10) -/
def PARSE_LAST_MAL.COUNT : Field := { base := 0x1300008, lsb := 8, width := 5, acc := .ro, reset := 0 }

/-- [21:13] RO. Offset of the failing header. (08 Table 8.10) -/
def PARSE_LAST_MAL.OFFSET : Field := { base := 0x1300008, lsb := 13, width := 9, acc := .ro, reset := 0 }

/-- [29:22] RO. Node at which the walk failed. (08 Table 8.10) -/
def PARSE_LAST_MAL.NODE : Field := { base := 0x1300008, lsb := 22, width := 8, acc := .ro, reset := 0 }

/-- [35:30] RO. Upstream source tree; 0 downstream. (08 Table 8.10) -/
def PARSE_LAST_MAL.TREE : Field := { base := 0x1300008, lsb := 30, width := 6, acc := .ro, reset := 0 }

/-- [40:36] RO. Downstream ingress lane; 0 upstream. (08 Table 8.10) -/
def PARSE_LAST_MAL.FABRIC_LANE : Field := { base := 0x1300008, lsb := 36, width := 5, acc := .ro, reset := 0 }

/-- PARSE_LAST_MAL (08 Table 8.10). -/
def PARSE_LAST_MAL.desc : RegDesc := { base := 0x1300008, die := true, dims := [], fields := [PARSE_LAST_MAL.REASON, PARSE_LAST_MAL.DIRECTION, PARSE_LAST_MAL.PROFILE, PARSE_LAST_MAL.COUNT, PARSE_LAST_MAL.OFFSET, PARSE_LAST_MAL.NODE, PARSE_LAST_MAL.TREE, PARSE_LAST_MAL.FABRIC_LANE] }

/-- [7:0] RO. Start node. (08 Table 8.11) -/
def PARSE_ENTRY.NODE : Field := { base := 0x1300040, lsb := 0, width := 8, acc := .ro, reset := 0, perImage := true }

/-- [8] RO. Entry in use. (08 Table 8.11) -/
def PARSE_ENTRY.VALID : Field := { base := 0x1300040, lsb := 8, width := 1, acc := .ro, reset := 0, perImage := true }

/-- PARSE_ENTRY (08 Table 8.11). -/
def PARSE_ENTRY.desc : RegDesc := { base := 0x1300040, die := true, dims := [(0x8, 16)], fields := [PARSE_ENTRY.NODE, PARSE_ENTRY.VALID] }

/-- [63:0] RO.  (08 Registers) -/
def PARSE_KEY_PROFILE.MASK : Field := { base := 0x1300100, lsb := 0, width := 64, acc := .ro, reset := 0, perImage := true }

/-- PARSE_KEY_PROFILE (08 Registers). -/
def PARSE_KEY_PROFILE.desc : RegDesc := { base := 0x1300100, die := true, dims := [(0x10, 16), (0x8, 2)], fields := [PARSE_KEY_PROFILE.MASK] }

/-- [63:0] RC. Table 4.16. (08 R206) -/
def PARSE_CNT.COUNT : Field := { base := 0x1300200, lsb := 0, width := 64, acc := .rc, reset := 0 }

/-- PARSE_CNT (08 R206). -/
def PARSE_CNT.desc : RegDesc := { base := 0x1300200, die := true, dims := [(0x8, 14)], fields := [PARSE_CNT.COUNT] }

/-- [63:0] RO.  (08 Registers) -/
def PARSE_NODE.DATA : Field := { base := 0x1301000, lsb := 0, width := 64, acc := .ro, reset := 0, perImage := true }

/-- PARSE_NODE (08 Registers). -/
def PARSE_NODE.desc : RegDesc := { base := 0x1301000, die := true, dims := [(0x40, 256), (0x8, 8)], fields := [PARSE_NODE.DATA] }

/-- [7:0] RW. Header TYPE that carries colour; 0: every frame green (R200). (08 Table 8.13) -/
def CLASS_CTRL.COLOUR_TYPE : Field := { base := 0x1380000, lsb := 0, width := 8, acc := .rw, reset := 0 }

/-- [39:8] RW. Entry i in bits [2i + 9:2i + 8]: 0 green, 1 yellow, 2 red; reset maps DEI 1 to yellow. (08 Table 8.13) -/
def CLASS_CTRL.COLOUR_MAP : Field := { base := 0x1380000, lsb := 8, width := 32, acc := .rw, reset := 1145324612 }

/-- CLASS_CTRL (08 Table 8.13). -/
def CLASS_CTRL.desc : RegDesc := { base := 0x1380000, die := true, dims := [], fields := [CLASS_CTRL.COLOUR_TYPE, CLASS_CTRL.COLOUR_MAP] }

/-- [2:0] WO. 1 READ, 2 WRITE (ternary), 3 INSERT, 4 REPLACE, 5 DELETE (exact); others ignored. (08 Table 8.15) -/
def CLASS_ACC_CTRL.OP : Field := { base := 0x1380008, lsb := 0, width := 3, acc := .wo, reset := 0 }

/-- [3] WO. 0 exact, 1 ternary. (08 Table 8.15) -/
def CLASS_ACC_CTRL.TARGET : Field := { base := 0x1380008, lsb := 3, width := 1, acc := .wo, reset := 0 }

/-- [17:4] WO. Ternary rule 0–16,383; exact READ finds by key. (08 Table 8.15) -/
def CLASS_ACC_CTRL.INDEX : Field := { base := 0x1380008, lsb := 4, width := 14, acc := .wo, reset := 0 }

/-- [21:18] RO. 0 OK, 1 BUSY, 2 FULL, 3 EXISTS, 4 NOT_FOUND, 5 BAD_VALUE, 6 BAD_INDEX. (08 Table 8.15) -/
def CLASS_ACC_CTRL.RESULT : Field := { base := 0x1380008, lsb := 18, width := 4, acc := .ro, reset := 0 }

/-- [22] RO. 1 when the last operation has finished. (08 Table 8.15) -/
def CLASS_ACC_CTRL.DONE : Field := { base := 0x1380008, lsb := 22, width := 1, acc := .ro, reset := 1 }

/-- CLASS_ACC_CTRL (08 Table 8.15). -/
def CLASS_ACC_CTRL.desc : RegDesc := { base := 0x1380008, die := true, dims := [], fields := [CLASS_ACC_CTRL.OP, CLASS_ACC_CTRL.TARGET, CLASS_ACC_CTRL.INDEX, CLASS_ACC_CTRL.RESULT, CLASS_ACC_CTRL.DONE] }

/-- [16:0] RO. Exact rules present, 0–65,536. (08 Table 8.14) -/
def CLASS_STATUS.EXACT_USED : Field := { base := 0x1380010, lsb := 0, width := 17, acc := .ro, reset := 0 }

/-- [47:32] RO. INSERTs that returned FULL; saturates. (08 Table 8.14) -/
def CLASS_STATUS.INSERT_FULL : Field := { base := 0x1380010, lsb := 32, width := 16, acc := .ro, reset := 0 }

/-- CLASS_STATUS (08 Table 8.14). -/
def CLASS_STATUS.desc : RegDesc := { base := 0x1380010, die := true, dims := [], fields := [CLASS_STATUS.EXACT_USED, CLASS_STATUS.INSERT_FULL] }

/-- [63:0] RW.  (08 Registers) -/
def CLASS_ACC_DATA.DATA : Field := { base := 0x1380040, lsb := 0, width := 64, acc := .rw, reset := 0 }

/-- CLASS_ACC_DATA (08 Registers). -/
def CLASS_ACC_DATA.desc : RegDesc := { base := 0x1380040, die := true, dims := [(0x8, 22)], fields := [CLASS_ACC_DATA.DATA] }

/-- [0] RW. 1 drops unmatched downstream frames to this tree. (08 Table 8.16) -/
def CLASS_DEFAULT.DS_DROP : Field := { base := 0x1380100, lsb := 0, width := 1, acc := .rw, reset := 0 }

/-- [3:1] RW. Their traffic class. (08 Table 8.16) -/
def CLASS_DEFAULT.DS_TC : Field := { base := 0x1380100, lsb := 1, width := 3, acc := .rw, reset := 0 }

/-- [4] RW. 1 drops unmatched upstream frames from this tree. (08 Table 8.16) -/
def CLASS_DEFAULT.US_DROP : Field := { base := 0x1380100, lsb := 4, width := 1, acc := .rw, reset := 0 }

/-- [7:5] RW. Their traffic class. (08 Table 8.16) -/
def CLASS_DEFAULT.US_TC : Field := { base := 0x1380100, lsb := 5, width := 3, acc := .rw, reset := 0 }

/-- CLASS_DEFAULT (08 Table 8.16). -/
def CLASS_DEFAULT.desc : RegDesc := { base := 0x1380100, die := true, dims := [(0x8, 8)], fields := [CLASS_DEFAULT.DS_DROP, CLASS_DEFAULT.DS_TC, CLASS_DEFAULT.US_DROP, CLASS_DEFAULT.US_TC] }

/-- [1:0] WO. 1 READ, 2 WRITE; others ignored. (08 Table 8.17) -/
def CLASS_METER_ACC_CTRL.OP : Field := { base := 0x1380200, lsb := 0, width := 2, acc := .wo, reset := 0 }

/-- [2] WO. 1 keeps tokens on WRITE (R203). (08 Table 8.17) -/
def CLASS_METER_ACC_CTRL.KEEP : Field := { base := 0x1380200, lsb := 2, width := 1, acc := .wo, reset := 0 }

/-- [20:3] WO. Meter 0–262,143. (08 Table 8.17) -/
def CLASS_METER_ACC_CTRL.METER : Field := { base := 0x1380200, lsb := 3, width := 18, acc := .wo, reset := 0 }

/-- [24:21] RO. 0 OK, 1 BUSY, 5 BAD_VALUE, 6 BAD_INDEX. (08 Table 8.17) -/
def CLASS_METER_ACC_CTRL.RESULT : Field := { base := 0x1380200, lsb := 21, width := 4, acc := .ro, reset := 0 }

/-- [25] RO. 1 when the last operation has finished. (08 Table 8.17) -/
def CLASS_METER_ACC_CTRL.DONE : Field := { base := 0x1380200, lsb := 25, width := 1, acc := .ro, reset := 1 }

/-- CLASS_METER_ACC_CTRL (08 Table 8.17). -/
def CLASS_METER_ACC_CTRL.desc : RegDesc := { base := 0x1380200, die := true, dims := [], fields := [CLASS_METER_ACC_CTRL.OP, CLASS_METER_ACC_CTRL.KEEP, CLASS_METER_ACC_CTRL.METER, CLASS_METER_ACC_CTRL.RESULT, CLASS_METER_ACC_CTRL.DONE] }

/-- [63:0] RW.  (08 Registers) -/
def CLASS_METER_DATA.DATA : Field := { base := 0x1380208, lsb := 0, width := 64, acc := .rw, reset := 0 }

/-- CLASS_METER_DATA (08 Registers). -/
def CLASS_METER_DATA.desc : RegDesc := { base := 0x1380208, die := true, dims := [(0x8, 4)], fields := [CLASS_METER_DATA.DATA] }

/-- [63:0] RC. Table 4.16. (08 R207) -/
def CLASS_CNT.COUNT : Field := { base := 0x1380300, lsb := 0, width := 64, acc := .rc, reset := 0 }

/-- CLASS_CNT (08 R207). -/
def CLASS_CNT.desc : RegDesc := { base := 0x1380300, die := true, dims := [(0x8, 8)], fields := [CLASS_CNT.COUNT] }

/-- [63:0] RC. Table 4.16. (08 R207) -/
def CLASS_TREE_CNT.COUNT : Field := { base := 0x1380400, lsb := 0, width := 64, acc := .rc, reset := 0 }

/-- CLASS_TREE_CNT (08 R207). -/
def CLASS_TREE_CNT.desc : RegDesc := { base := 0x1380400, die := true, dims := [(0x10, 8), (0x8, 2)], fields := [CLASS_TREE_CNT.COUNT] }

/-- [15:0] RW. Time for one ageing visit of every bucket, 1–65,535 s. (09 Table 9.8) -/
def FWD_CTRL.AGE_PERIOD_S : Field := { base := 0x1400000, lsb := 0, width := 16, acc := .rw, reset := 30 }

/-- [19:16] RW. Visits without a hit before removal, 2–15. (09 Table 9.8) -/
def FWD_CTRL.AGE_LIMIT : Field := { base := 0x1400000, lsb := 16, width := 4, acc := .rw, reset := 10 }

/-- [20] RW. 0 oldest, 1 pseudo-random victim (R214). (09 Table 9.8) -/
def FWD_CTRL.EVICT_MODE : Field := { base := 0x1400000, lsb := 20, width := 1, acc := .rw, reset := 0 }

/-- [21] RW. 1 lets a learn evict under R215. (09 Table 9.8) -/
def FWD_CTRL.FULL_EVICT : Field := { base := 0x1400000, lsb := 21, width := 1, acc := .rw, reset := 0 }

/-- [22] RW. Learning on. (09 Table 9.8) -/
def FWD_CTRL.LEARN_EN : Field := { base := 0x1400000, lsb := 22, width := 1, acc := .rw, reset := 1 }

/-- [35:24] RW. Lock expiry, 10–4,000 µs. (09 Table 9.8) -/
def FWD_CTRL.LOCK_MAX_US : Field := { base := 0x1400000, lsb := 24, width := 12, acc := .rw, reset := 100 }

/-- FWD_CTRL (09 Table 9.8). -/
def FWD_CTRL.desc : RegDesc := { base := 0x1400000, die := true, dims := [], fields := [FWD_CTRL.AGE_PERIOD_S, FWD_CTRL.AGE_LIMIT, FWD_CTRL.EVICT_MODE, FWD_CTRL.FULL_EVICT, FWD_CTRL.LEARN_EN, FWD_CTRL.LOCK_MAX_US] }

/-- [20:0] RO. Valid entries, 0–1,048,576. (09 Table 9.9) -/
def FWD_STATUS.ENTRIES : Field := { base := 0x1400008, lsb := 0, width := 21, acc := .ro, reset := 0 }

/-- [29:21] RO. Pending learning updates, 0–256. (09 Table 9.9) -/
def FWD_STATUS.LEARN_QUEUE : Field := { base := 0x1400008, lsb := 21, width := 9, acc := .ro, reset := 0 }

/-- [43:30] RO. Cache ways held by pinned buckets. (09 Table 9.9) -/
def FWD_STATUS.PINNED : Field := { base := 0x1400008, lsb := 30, width := 14, acc := .ro, reset := 0 }

/-- [44] W1C. Set under R222. (09 Table 9.9) -/
def FWD_STATUS.ENTRY_BAD : Field := { base := 0x1400008, lsb := 44, width := 1, acc := .w1c, reset := 0 }

/-- FWD_STATUS (09 Table 9.9). -/
def FWD_STATUS.desc : RegDesc := { base := 0x1400008, die := true, dims := [], fields := [FWD_STATUS.ENTRIES, FWD_STATUS.LEARN_QUEUE, FWD_STATUS.PINNED, FWD_STATUS.ENTRY_BAD] }

/-- [63:6] RW.  (09 Registers) -/
def FWD_RING_BASE.ADDR : Field := { base := 0x1400010, lsb := 6, width := 58, acc := .rw, reset := 0 }

/-- FWD_RING_BASE (09 Registers). -/
def FWD_RING_BASE.desc : RegDesc := { base := 0x1400010, die := true, dims := [], fields := [FWD_RING_BASE.ADDR] }

/-- [3:0] RW. Ring of 2^(SIZE_EXP + 8) events, 0–12. (09 Table 9.10) -/
def FWD_RING_CTRL.SIZE_EXP : Field := { base := 0x1400018, lsb := 0, width := 4, acc := .rw, reset := 4 }

/-- [4] RW. 1 writes events. (09 Table 9.10) -/
def FWD_RING_CTRL.ENABLE : Field := { base := 0x1400018, lsb := 4, width := 1, acc := .rw, reset := 0 }

/-- [5] W1C. Set under R223. (09 Table 9.10) -/
def FWD_RING_CTRL.OVERFLOW : Field := { base := 0x1400018, lsb := 5, width := 1, acc := .w1c, reset := 0 }

/-- [27:8] RO. Next entry the part writes. (09 Table 9.10) -/
def FWD_RING_CTRL.PROD : Field := { base := 0x1400018, lsb := 8, width := 20, acc := .ro, reset := 0 }

/-- [51:32] RW. Next entry the host reads. (09 Table 9.10) -/
def FWD_RING_CTRL.CONS : Field := { base := 0x1400018, lsb := 32, width := 20, acc := .rw, reset := 0 }

/-- FWD_RING_CTRL (09 Table 9.10). -/
def FWD_RING_CTRL.desc : RegDesc := { base := 0x1400018, die := true, dims := [], fields := [FWD_RING_CTRL.SIZE_EXP, FWD_RING_CTRL.ENABLE, FWD_RING_CTRL.OVERFLOW, FWD_RING_CTRL.PROD, FWD_RING_CTRL.CONS] }

/-- [63:0] RC. Table 4.16. (09 R226) -/
def FWD_CNT.COUNT : Field := { base := 0x1400100, lsb := 0, width := 64, acc := .rc, reset := 0 }

/-- FWD_CNT (09 R226). -/
def FWD_CNT.desc : RegDesc := { base := 0x1400100, die := true, dims := [(0x8, 16)], fields := [FWD_CNT.COUNT] }

/-- [19:0] RW. Dynamic entries allowed; 0 stops learning. (09 Table 9.11) -/
def FWD_DOMAIN.QUOTA : Field := { base := 0x1408000, lsb := 0, width := 20, acc := .rw, reset := 0, perImage := true }

/-- [39:20] RO. Dynamic entries held (R216). (09 Table 9.11) -/
def FWD_DOMAIN.COUNT : Field := { base := 0x1408000, lsb := 20, width := 20, acc := .ro, reset := 0 }

/-- FWD_DOMAIN (09 Table 9.11). -/
def FWD_DOMAIN.desc : RegDesc := { base := 0x1408000, die := true, dims := [(0x8, 4096)], fields := [FWD_DOMAIN.QUOTA, FWD_DOMAIN.COUNT] }

/-- [1:0] WO. 1 READ, 2 WRITE; others ignored. (10 Table 10.11) -/
def TM_ACC_CTRL.OP : Field := { base := 0x1480000, lsb := 0, width := 2, acc := .wo, reset := 0 }

/-- [3:2] WO. 0 downstream queue, 1 upstream queue, 2 downstream node, 3 upstream node. (10 Table 10.11) -/
def TM_ACC_CTRL.TARGET : Field := { base := 0x1480000, lsb := 2, width := 2, acc := .wo, reset := 0 }

/-- [18:4] WO. Queue or node index. (10 Table 10.11) -/
def TM_ACC_CTRL.INDEX : Field := { base := 0x1480000, lsb := 4, width := 15, acc := .wo, reset := 0 }

/-- [22:19] RO. 0 OK, 1 BUSY, 2 BAD_INDEX, 3 BAD_VALUE. (10 Table 10.11) -/
def TM_ACC_CTRL.RESULT : Field := { base := 0x1480000, lsb := 19, width := 4, acc := .ro, reset := 0 }

/-- [23] RO. 1 when the last operation has finished. (10 Table 10.11) -/
def TM_ACC_CTRL.DONE : Field := { base := 0x1480000, lsb := 23, width := 1, acc := .ro, reset := 1 }

/-- TM_ACC_CTRL (10 Table 10.11). -/
def TM_ACC_CTRL.desc : RegDesc := { base := 0x1480000, die := true, dims := [], fields := [TM_ACC_CTRL.OP, TM_ACC_CTRL.TARGET, TM_ACC_CTRL.INDEX, TM_ACC_CTRL.RESULT, TM_ACC_CTRL.DONE] }

/-- [29:0] RO. Cells in the buffer region. (10 Table 10.12) -/
def TM_BUF_STATUS.BUF_CELLS : Field := { base := 0x1480008, lsb := 0, width := 30, acc := .ro, reset := 0, perImage := true }

/-- [59:30] RO. Cells in use. (10 Table 10.12) -/
def TM_BUF_STATUS.BUF_USED : Field := { base := 0x1480008, lsb := 30, width := 30, acc := .ro, reset := 0 }

/-- TM_BUF_STATUS (10 Table 10.12). -/
def TM_BUF_STATUS.desc : RegDesc := { base := 0x1480008, die := true, dims := [], fields := [TM_BUF_STATUS.BUF_CELLS, TM_BUF_STATUS.BUF_USED] }

/-- [9:0] RW. Window, 1–1,000 ms; other values read back as 100. (10 Table 10.13) -/
def TM_SAMPLE_CTRL.WINDOW_MS : Field := { base := 0x1480010, lsb := 0, width := 10, acc := .rw, reset := 100 }

/-- [10] RW. 1 writes records. (10 Table 10.13) -/
def TM_SAMPLE_CTRL.ENABLE : Field := { base := 0x1480010, lsb := 10, width := 1, acc := .rw, reset := 0 }

/-- [11] RO. Bank last completed. (10 Table 10.13) -/
def TM_SAMPLE_CTRL.LAST_BANK : Field := { base := 0x1480010, lsb := 11, width := 1, acc := .ro, reset := 0 }

/-- [47:16] RO. WINDOW of the last completed bank. (10 Table 10.13) -/
def TM_SAMPLE_CTRL.LAST_WINDOW : Field := { base := 0x1480010, lsb := 16, width := 32, acc := .ro, reset := 0 }

/-- TM_SAMPLE_CTRL (10 Table 10.13). -/
def TM_SAMPLE_CTRL.desc : RegDesc := { base := 0x1480010, die := true, dims := [], fields := [TM_SAMPLE_CTRL.WINDOW_MS, TM_SAMPLE_CTRL.ENABLE, TM_SAMPLE_CTRL.LAST_BANK, TM_SAMPLE_CTRL.LAST_WINDOW] }

/-- [39:0] RO.  (10 Registers) -/
def TM_SAMPLE_BASE.OFFSET : Field := { base := 0x1480018, lsb := 0, width := 40, acc := .ro, reset := 0, perImage := true }

/-- TM_SAMPLE_BASE (10 Registers). -/
def TM_SAMPLE_BASE.desc : RegDesc := { base := 0x1480018, die := true, dims := [], fields := [TM_SAMPLE_BASE.OFFSET] }

/-- [63:0] RW.  (10 Registers) -/
def TM_ACC_DATA.DATA : Field := { base := 0x1480040, lsb := 0, width := 64, acc := .rw, reset := 0 }

/-- TM_ACC_DATA (10 Registers). -/
def TM_ACC_DATA.desc : RegDesc := { base := 0x1480040, die := true, dims := [(0x8, 8)], fields := [TM_ACC_DATA.DATA] }

/-- [63:0] RC. Table 4.16. (10 R249) -/
def TM_CNT.COUNT : Field := { base := 0x1480100, lsb := 0, width := 64, acc := .rc, reset := 0 }

/-- TM_CNT (10 R249). -/
def TM_CNT.desc : RegDesc := { base := 0x1480100, die := true, dims := [(0x8, 12)], fields := [TM_CNT.COUNT] }

/-- [27:0] RW. Buffer cells the domain may hold. (10 Table 10.14) -/
def TM_DOMAIN.BUF_QUOTA : Field := { base := 0x1488000, lsb := 0, width := 28, acc := .rw, reset := 0, perImage := true }

/-- [55:28] RO. Cells held. (10 Table 10.14) -/
def TM_DOMAIN.BUF_USED : Field := { base := 0x1488000, lsb := 28, width := 28, acc := .ro, reset := 0 }

/-- TM_DOMAIN (10 Table 10.14). -/
def TM_DOMAIN.desc : RegDesc := { base := 0x1488000, die := true, dims := [(0x8, 4096)], fields := [TM_DOMAIN.BUF_QUOTA, TM_DOMAIN.BUF_USED] }

/-- [29:0] RO. Cells in the Felt region. (10 Table 10.16) -/
def FELT_STATUS.REGION_CELLS : Field := { base := 0x1500000, lsb := 0, width := 30, acc := .ro, reset := 0, perImage := true }

/-- [59:30] RO. Cells held. (10 Table 10.16) -/
def FELT_STATUS.USED_CELLS : Field := { base := 0x1500000, lsb := 30, width := 30, acc := .ro, reset := 0 }

/-- [60] W1C. Set at each drop for a full region. (10 Table 10.16) -/
def FELT_STATUS.REGION_FULL : Field := { base := 0x1500000, lsb := 60, width := 1, acc := .w1c, reset := 0 }

/-- FELT_STATUS (10 Table 10.16). -/
def FELT_STATUS.desc : RegDesc := { base := 0x1500000, die := true, dims := [], fields := [FELT_STATUS.REGION_CELLS, FELT_STATUS.USED_CELLS, FELT_STATUS.REGION_FULL] }

/-- [63:0] RC. Table 4.16. (10 R250) -/
def FELT_CNT.COUNT : Field := { base := 0x1500040, lsb := 0, width := 64, acc := .rc, reset := 0 }

/-- FELT_CNT (10 R250). -/
def FELT_CNT.desc : RegDesc := { base := 0x1500040, die := true, dims := [(0x8, 8)], fields := [FELT_CNT.COUNT] }

/-- [0] RW. Cause HOST (R242). (10 Table 10.17) -/
def FELT_PORT_CTRL.HOLD : Field := { base := 0x1500100, lsb := 0, width := 1, acc := .rw, reset := 0 }

/-- [16:1] RW. Hold-off before DRAINING, 0–65,535 µs. (10 Table 10.17) -/
def FELT_PORT_CTRL.RESUME_US : Field := { base := 0x1500100, lsb := 1, width := 16, acc := .rw, reset := 100 }

/-- [48:17] RW. Drain rate, kbit/s; 0: port rate only. (10 Table 10.17) -/
def FELT_PORT_CTRL.DRAIN_KBPS : Field := { base := 0x1500100, lsb := 17, width := 32, acc := .rw, reset := 0 }

/-- FELT_PORT_CTRL (10 Table 10.17). -/
def FELT_PORT_CTRL.desc : RegDesc := { base := 0x1500100, die := true, dims := [(0x10, 32)], fields := [FELT_PORT_CTRL.HOLD, FELT_PORT_CTRL.RESUME_US, FELT_PORT_CTRL.DRAIN_KBPS] }

/-- [1:0] RO. Table 10.7. (10 Table 10.18) -/
def FELT_PORT_STATUS.STATE : Field := { base := 0x1500108, lsb := 0, width := 2, acc := .ro, reset := 0 }

/-- [5:2] RO. Present causes: bit 2 LANE, 3 DIE_LINK, 4 PATH, 5 HOST. (10 Table 10.18) -/
def FELT_PORT_STATUS.CAUSE : Field := { base := 0x1500108, lsb := 2, width := 4, acc := .ro, reset := 0 }

/-- [35:6] RO. Felt cells held for the port. (10 Table 10.18) -/
def FELT_PORT_STATUS.CELLS : Field := { base := 0x1500108, lsb := 6, width := 30, acc := .ro, reset := 0 }

/-- [63:36] RO. Entries to HELD since package reset; saturates. (10 Table 10.18) -/
def FELT_PORT_STATUS.HOLDS : Field := { base := 0x1500108, lsb := 36, width := 28, acc := .ro, reset := 0 }

/-- FELT_PORT_STATUS (10 Table 10.18). -/
def FELT_PORT_STATUS.desc : RegDesc := { base := 0x1500108, die := true, dims := [(0x10, 32)], fields := [FELT_PORT_STATUS.STATE, FELT_PORT_STATUS.CAUSE, FELT_PORT_STATUS.CELLS, FELT_PORT_STATUS.HOLDS] }

/-- [29:0] RW. Felt cells the domain may hold. (10 Table 10.19) -/
def FELT_DOMAIN.QUOTA : Field := { base := 0x1508000, lsb := 0, width := 30, acc := .rw, reset := 0, perImage := true }

/-- [59:30] RO. Cells held. (10 Table 10.19) -/
def FELT_DOMAIN.USED : Field := { base := 0x1508000, lsb := 30, width := 30, acc := .ro, reset := 0 }

/-- [60] W1C. Set under R245. (10 Table 10.19) -/
def FELT_DOMAIN.QUOTA_FULL : Field := { base := 0x1508000, lsb := 60, width := 1, acc := .w1c, reset := 0 }

/-- FELT_DOMAIN (10 Table 10.19). -/
def FELT_DOMAIN.desc : RegDesc := { base := 0x1508000, die := true, dims := [(0x8, 4096)], fields := [FELT_DOMAIN.QUOTA, FELT_DOMAIN.USED, FELT_DOMAIN.QUOTA_FULL] }

/-- [4:0] RW. Mark step 2^MARK_EXP PNs, 16–30. (11 Table 11.14) -/
def CIPH_CTRL.MARK_EXP : Field := { base := 0x1580000, lsb := 0, width := 5, acc := .rw, reset := 24 }

/-- [10:5] RW. Warning when fewer than 2^PN_WARN_EXP PNs remain, 10–40. (11 Table 11.14) -/
def CIPH_CTRL.PN_WARN_EXP : Field := { base := 0x1580000, lsb := 5, width := 6, acc := .rw, reset := 24 }

/-- CIPH_CTRL (11 Table 11.14). -/
def CIPH_CTRL.desc : RegDesc := { base := 0x1580000, die := true, dims := [], fields := [CIPH_CTRL.MARK_EXP, CIPH_CTRL.PN_WARN_EXP] }

/-- [0] W1C. Set under R261. (11 Table 11.15) -/
def CIPH_STATUS.KEY_STARVED : Field := { base := 0x1580008, lsb := 0, width := 1, acc := .w1c, reset := 0 }

/-- [1] W1C. Set under R261. (11 Table 11.15) -/
def CIPH_STATUS.AUTO_SWITCH : Field := { base := 0x1580008, lsb := 1, width := 1, acc := .w1c, reset := 0 }

/-- [2] W1C. Set under R260. (11 Table 11.15) -/
def CIPH_STATUS.SWITCH_CANCELLED : Field := { base := 0x1580008, lsb := 2, width := 1, acc := .w1c, reset := 0 }

/-- [3] W1C. Set under R267. (11 Table 11.15) -/
def CIPH_STATUS.PN_WARN : Field := { base := 0x1580008, lsb := 3, width := 1, acc := .w1c, reset := 0 }

/-- [4] W1C. Set under R267. (11 Table 11.15) -/
def CIPH_STATUS.PN_EXHAUSTED : Field := { base := 0x1580008, lsb := 4, width := 1, acc := .w1c, reset := 0 }

/-- [5] W1C. Set under R268. (11 Table 11.15) -/
def CIPH_STATUS.MARK_WAIT : Field := { base := 0x1580008, lsb := 5, width := 1, acc := .w1c, reset := 0 }

/-- [6] W1C. Set under R262. (11 Table 11.15) -/
def CIPH_STATUS.UNWRAP_FAIL : Field := { base := 0x1580008, lsb := 6, width := 1, acc := .w1c, reset := 0 }

/-- [7] W1C. Set under R271. (11 Table 11.15) -/
def CIPH_STATUS.CUT_TAG_FAIL : Field := { base := 0x1580008, lsb := 7, width := 1, acc := .w1c, reset := 0 }

/-- [8] W1C. Set under R272. (11 Table 11.15) -/
def CIPH_STATUS.SEPARATION : Field := { base := 0x1580008, lsb := 8, width := 1, acc := .w1c, reset := 0 }

/-- [30:16] RO. Association of the last event at bits 3–5 or 7. (11 Table 11.15) -/
def CIPH_STATUS.LAST_SA : Field := { base := 0x1580008, lsb := 16, width := 15, acc := .ro, reset := 0 }

/-- [43:31] RO. Slot of the last event at bits 0–2 or 7. (11 Table 11.15) -/
def CIPH_STATUS.LAST_SLOT : Field := { base := 0x1580008, lsb := 31, width := 13, acc := .ro, reset := 0 }

/-- CIPH_STATUS (11 Table 11.15). -/
def CIPH_STATUS.desc : RegDesc := { base := 0x1580008, die := true, dims := [], fields := [CIPH_STATUS.KEY_STARVED, CIPH_STATUS.AUTO_SWITCH, CIPH_STATUS.SWITCH_CANCELLED, CIPH_STATUS.PN_WARN, CIPH_STATUS.PN_EXHAUSTED, CIPH_STATUS.MARK_WAIT, CIPH_STATUS.UNWRAP_FAIL, CIPH_STATUS.CUT_TAG_FAIL, CIPH_STATUS.SEPARATION, CIPH_STATUS.LAST_SA, CIPH_STATUS.LAST_SLOT] }

/-- [3:0] WO. 1 LOAD, 2 ERASE, 3 SWITCH, 4 READ, 5 LOAD_KEK; others ignored. (11 Table 11.16) -/
def CIPH_KEY_CMD.OP : Field := { base := 0x1580010, lsb := 0, width := 4, acc := .wo, reset := 0 }

/-- [4] WO. 0 tree key slot, 1 MACsec association. (11 Table 11.16) -/
def CIPH_KEY_CMD.TARGET : Field := { base := 0x1580010, lsb := 4, width := 1, acc := .wo, reset := 0 }

/-- [19:5] WO. Slot 0–8,191, association 0–32,767, or key-encryption key 0–3. (11 Table 11.16) -/
def CIPH_KEY_CMD.INDEX : Field := { base := 0x1580010, lsb := 5, width := 15, acc := .wo, reset := 0 }

/-- [20] WO. 1: key bytes are wrapped. (11 Table 11.16) -/
def CIPH_KEY_CMD.WRAPPED : Field := { base := 0x1580010, lsb := 20, width := 1, acc := .wo, reset := 0 }

/-- [22:21] WO. Key-encryption key of the wrap. (11 Table 11.16) -/
def CIPH_KEY_CMD.KEK : Field := { base := 0x1580010, lsb := 21, width := 2, acc := .wo, reset := 0 }

/-- [34:23] WO. Line port for SWITCH. (11 Table 11.16) -/
def CIPH_KEY_CMD.LINE_PORT : Field := { base := 0x1580010, lsb := 23, width := 12, acc := .wo, reset := 0 }

/-- [37:35] WO. Local tree for SWITCH. (11 Table 11.16) -/
def CIPH_KEY_CMD.TREE : Field := { base := 0x1580010, lsb := 35, width := 3, acc := .wo, reset := 0 }

/-- [41:38] RO. 0 OK, 1 BUSY, 2 BAD_VALUE, 3 DOMAIN, 4 LOCKED, 5 UNWRAP, 6 LATE, 7 FAR, 8 SUPERSEDED, 9 NOT_READY. (11 Table 11.16) -/
def CIPH_KEY_CMD.RESULT : Field := { base := 0x1580010, lsb := 38, width := 4, acc := .ro, reset := 0 }

/-- [42] RO. 1 when the last command has finished. (11 Table 11.16) -/
def CIPH_KEY_CMD.DONE : Field := { base := 0x1580010, lsb := 42, width := 1, acc := .ro, reset := 1 }

/-- CIPH_KEY_CMD (11 Table 11.16). -/
def CIPH_KEY_CMD.desc : RegDesc := { base := 0x1580010, die := true, dims := [], fields := [CIPH_KEY_CMD.OP, CIPH_KEY_CMD.TARGET, CIPH_KEY_CMD.INDEX, CIPH_KEY_CMD.WRAPPED, CIPH_KEY_CMD.KEK, CIPH_KEY_CMD.LINE_PORT, CIPH_KEY_CMD.TREE, CIPH_KEY_CMD.RESULT, CIPH_KEY_CMD.DONE] }

/-- [63:0] RW.  (11 Registers) -/
def CIPH_KEY_DATA.DATA : Field := { base := 0x1580040, lsb := 0, width := 64, acc := .rw, reset := 0 }

/-- CIPH_KEY_DATA (11 Registers). -/
def CIPH_KEY_DATA.desc : RegDesc := { base := 0x1580040, die := true, dims := [(0x8, 12)], fields := [CIPH_KEY_DATA.DATA] }

/-- [3:0] WO. 1 LOAD, 2 ERASE, 3 SWITCH, 4 READ, 5 LOAD_KEK; others ignored. (11 Registers) -/
def CIPH_TW_CMD.OP : Field := { base := 0x1580100, lsb := 0, width := 4, acc := .wo, reset := 0 }

/-- [4] WO. 0 tree key slot, 1 MACsec association. (11 Registers) -/
def CIPH_TW_CMD.TARGET : Field := { base := 0x1580100, lsb := 4, width := 1, acc := .wo, reset := 0 }

/-- [19:5] WO. Slot 0–8,191, association 0–32,767, or key-encryption key 0–3. (11 Registers) -/
def CIPH_TW_CMD.INDEX : Field := { base := 0x1580100, lsb := 5, width := 15, acc := .wo, reset := 0 }

/-- [20] WO. 1: key bytes are wrapped. (11 Registers) -/
def CIPH_TW_CMD.WRAPPED : Field := { base := 0x1580100, lsb := 20, width := 1, acc := .wo, reset := 0 }

/-- [22:21] WO. Key-encryption key of the wrap. (11 Registers) -/
def CIPH_TW_CMD.KEK : Field := { base := 0x1580100, lsb := 21, width := 2, acc := .wo, reset := 0 }

/-- [34:23] WO. Line port for SWITCH. (11 Registers) -/
def CIPH_TW_CMD.LINE_PORT : Field := { base := 0x1580100, lsb := 23, width := 12, acc := .wo, reset := 0 }

/-- [37:35] WO. Local tree for SWITCH. (11 Registers) -/
def CIPH_TW_CMD.TREE : Field := { base := 0x1580100, lsb := 35, width := 3, acc := .wo, reset := 0 }

/-- [41:38] RO. 0 OK, 1 BUSY, 2 BAD_VALUE, 3 DOMAIN, 4 LOCKED, 5 UNWRAP, 6 LATE, 7 FAR, 8 SUPERSEDED, 9 NOT_READY. (11 Registers) -/
def CIPH_TW_CMD.RESULT : Field := { base := 0x1580100, lsb := 38, width := 4, acc := .ro, reset := 0 }

/-- [42] RO. 1 when the last command has finished. (11 Registers) -/
def CIPH_TW_CMD.DONE : Field := { base := 0x1580100, lsb := 42, width := 1, acc := .ro, reset := 1 }

/-- CIPH_TW_CMD (11 Registers). -/
def CIPH_TW_CMD.desc : RegDesc := { base := 0x1580100, die := true, dims := [], fields := [CIPH_TW_CMD.OP, CIPH_TW_CMD.TARGET, CIPH_TW_CMD.INDEX, CIPH_TW_CMD.WRAPPED, CIPH_TW_CMD.KEK, CIPH_TW_CMD.LINE_PORT, CIPH_TW_CMD.TREE, CIPH_TW_CMD.RESULT, CIPH_TW_CMD.DONE] }

/-- [63:0] RW.  (11 Registers) -/
def CIPH_TW_DATA.DATA : Field := { base := 0x1580140, lsb := 0, width := 64, acc := .rw, reset := 0 }

/-- CIPH_TW_DATA (11 Registers). -/
def CIPH_TW_DATA.desc : RegDesc := { base := 0x1580140, die := true, dims := [(0x8, 12)], fields := [CIPH_TW_DATA.DATA] }

/-- [1:0] WO. 1 READ, 2 WRITE (channels), 3 ARM (association as next transmit). (11 Table 11.18) -/
def CIPH_MSEC_ACC_CTRL.OP : Field := { base := 0x1580200, lsb := 0, width := 2, acc := .wo, reset := 0 }

/-- [2] WO. 0 secure channel, 1 association. (11 Table 11.18) -/
def CIPH_MSEC_ACC_CTRL.TARGET : Field := { base := 0x1580200, lsb := 2, width := 1, acc := .wo, reset := 0 }

/-- [17:3] WO. Channel 0–16,383 or association 0–32,767. (11 Table 11.18) -/
def CIPH_MSEC_ACC_CTRL.INDEX : Field := { base := 0x1580200, lsb := 3, width := 15, acc := .wo, reset := 0 }

/-- [21:18] RO. 0 OK, 1 BUSY, 2 BAD_VALUE, 3 DOMAIN, 4 IN_USE. (11 Table 11.18) -/
def CIPH_MSEC_ACC_CTRL.RESULT : Field := { base := 0x1580200, lsb := 18, width := 4, acc := .ro, reset := 0 }

/-- [22] RO. 1 when the last operation has finished. (11 Table 11.18) -/
def CIPH_MSEC_ACC_CTRL.DONE : Field := { base := 0x1580200, lsb := 22, width := 1, acc := .ro, reset := 1 }

/-- CIPH_MSEC_ACC_CTRL (11 Table 11.18). -/
def CIPH_MSEC_ACC_CTRL.desc : RegDesc := { base := 0x1580200, die := true, dims := [], fields := [CIPH_MSEC_ACC_CTRL.OP, CIPH_MSEC_ACC_CTRL.TARGET, CIPH_MSEC_ACC_CTRL.INDEX, CIPH_MSEC_ACC_CTRL.RESULT, CIPH_MSEC_ACC_CTRL.DONE] }

/-- [63:0] RW.  (11 Registers) -/
def CIPH_MSEC_DATA.DATA : Field := { base := 0x1580240, lsb := 0, width := 64, acc := .rw, reset := 0 }

/-- CIPH_MSEC_DATA (11 Registers). -/
def CIPH_MSEC_DATA.desc : RegDesc := { base := 0x1580240, die := true, dims := [(0x8, 8)], fields := [CIPH_MSEC_DATA.DATA] }

/-- [0] RW. 1: frames without SecTAG are dropped, UNTAGGED_DROP. (11 Table 11.19) -/
def CIPH_LANE.REQUIRE : Field := { base := 0x1580300, lsb := 0, width := 1, acc := .rw, reset := 0 }

/-- [14:1] RW. Receive channel for frames without SCI. (11 Table 11.19) -/
def CIPH_LANE.DEFAULT_RX_SC : Field := { base := 0x1580300, lsb := 1, width := 14, acc := .rw, reset := 0 }

/-- [15] RW. DEFAULT_RX_SC in use. (11 Table 11.19) -/
def CIPH_LANE.DEFAULT_EN : Field := { base := 0x1580300, lsb := 15, width := 1, acc := .rw, reset := 0 }

/-- CIPH_LANE (11 Table 11.19). -/
def CIPH_LANE.desc : RegDesc := { base := 0x1580300, die := true, dims := [(0x8, 4)], fields := [CIPH_LANE.REQUIRE, CIPH_LANE.DEFAULT_RX_SC, CIPH_LANE.DEFAULT_EN] }

/-- [3:0] RO. k of Table 11.11. (11 Table 11.20) -/
def CIPH_SEP_LAST.CHECK : Field := { base := 0x1580400, lsb := 0, width := 4, acc := .ro, reset := 0 }

/-- [15:4] RO. Domain of the frame. (11 Table 11.20) -/
def CIPH_SEP_LAST.FRAME_DOMAIN : Field := { base := 0x1580400, lsb := 4, width := 12, acc := .ro, reset := 0 }

/-- [27:16] RO. Domain of the resource; 0xFFF when unbound. (11 Table 11.20) -/
def CIPH_SEP_LAST.RESOURCE_DOMAIN : Field := { base := 0x1580400, lsb := 16, width := 12, acc := .ro, reset := 0 }

/-- [33:28] RO. Package-wide tree, where one applies. (11 Table 11.20) -/
def CIPH_SEP_LAST.TREE : Field := { base := 0x1580400, lsb := 28, width := 6, acc := .ro, reset := 0 }

/-- [45:34] RO. Line port, where one applies. (11 Table 11.20) -/
def CIPH_SEP_LAST.LINE_PORT : Field := { base := 0x1580400, lsb := 34, width := 12, acc := .ro, reset := 0 }

/-- [63:46] RO. Index of the slot, channel, rule, meter, queue or circuit. (11 Table 11.20) -/
def CIPH_SEP_LAST.RESOURCE : Field := { base := 0x1580400, lsb := 46, width := 18, acc := .ro, reset := 0 }

/-- CIPH_SEP_LAST (11 Table 11.20). -/
def CIPH_SEP_LAST.desc : RegDesc := { base := 0x1580400, die := true, dims := [], fields := [CIPH_SEP_LAST.CHECK, CIPH_SEP_LAST.FRAME_DOMAIN, CIPH_SEP_LAST.RESOURCE_DOMAIN, CIPH_SEP_LAST.TREE, CIPH_SEP_LAST.LINE_PORT, CIPH_SEP_LAST.RESOURCE] }

/-- [63:0] RC. Table 4.16. (11 R275) -/
def CIPH_SEP_CNT.COUNT : Field := { base := 0x1580500, lsb := 0, width := 64, acc := .rc, reset := 0 }

/-- CIPH_SEP_CNT (11 R275). -/
def CIPH_SEP_CNT.desc : RegDesc := { base := 0x1580500, die := true, dims := [(0x8, 12)], fields := [CIPH_SEP_CNT.COUNT] }

/-- [63:0] RC. Table 4.16. (11 R275) -/
def CIPH_CNT.COUNT : Field := { base := 0x1580600, lsb := 0, width := 64, acc := .rc, reset := 0 }

/-- CIPH_CNT (11 R275). -/
def CIPH_CNT.desc : RegDesc := { base := 0x1580600, die := true, dims := [(0x8, 16)], fields := [CIPH_CNT.COUNT] }

/-- [11:0] RWL. Key pair; a pair of another domain is refused and the field keeps its value. (11 Table 11.17) -/
def CIPH_LP_BIND.KEY_PAIR : Field := { base := 0x1588000, lsb := 0, width := 12, acc := .rwl, reset := 0, perImage := true }

/-- [12] RWL. Encrypt the line port. (11 Table 11.17) -/
def CIPH_LP_BIND.ENCRYPT : Field := { base := 0x1588000, lsb := 12, width := 1, acc := .rwl, reset := 0, perImage := true }

/-- [13] RO. 0: slot 2k transmits; 1: slot 2k + 1. (11 Table 11.17) -/
def CIPH_LP_BIND.TX_INDEX : Field := { base := 0x1588000, lsb := 13, width := 1, acc := .ro, reset := 0 }

/-- [27:14] RWL. Transmit secure channel on the uplink's die. (11 Table 11.17) -/
def CIPH_LP_BIND.TX_SC : Field := { base := 0x1588000, lsb := 14, width := 14, acc := .rwl, reset := 0, perImage := true }

/-- [28] RO. Line port starved under R261. (11 Table 11.17) -/
def CIPH_LP_BIND.STARVED : Field := { base := 0x1588000, lsb := 28, width := 1, acc := .ro, reset := 0 }

/-- CIPH_LP_BIND (11 Table 11.17). -/
def CIPH_LP_BIND.desc : RegDesc := { base := 0x1588000, die := true, dims := [(0x8000, 8), (0x8, 4096)], fields := [CIPH_LP_BIND.KEY_PAIR, CIPH_LP_BIND.ENCRYPT, CIPH_LP_BIND.TX_INDEX, CIPH_LP_BIND.TX_SC, CIPH_LP_BIND.STARVED] }

/-- [15:0] RW. Activations that trigger neighbour refresh, 512–32,768 (R284). (12 Table 12.9) -/
def MEM_CTRL.DISTURB_TH : Field := { base := 0x1600000, lsb := 0, width := 16, acc := .rw, reset := 4096 }

/-- [25:16] RW. Delay before each throttled activation, 0–1,000 ns. (12 Table 12.9) -/
def MEM_CTRL.THROTTLE_NS : Field := { base := 0x1600000, lsb := 16, width := 10, acc := .rw, reset := 500 }

/-- [33:26] RW. Throttle period, 1–255 µs. (12 Table 12.9) -/
def MEM_CTRL.THROTTLE_US : Field := { base := 0x1600000, lsb := 26, width := 8, acc := .rw, reset := 100 }

/-- [34] RW. 1 restarts after SHUTDOWN without host command. (12 Table 12.9) -/
def MEM_CTRL.AUTO_RESTART : Field := { base := 0x1600000, lsb := 34, width := 1, acc := .rw, reset := 1 }

/-- MEM_CTRL (12 Table 12.9). -/
def MEM_CTRL.desc : RegDesc := { base := 0x1600000, die := true, dims := [], fields := [MEM_CTRL.DISTURB_TH, MEM_CTRL.THROTTLE_NS, MEM_CTRL.THROTTLE_US, MEM_CTRL.AUTO_RESTART] }

/-- [15:0] RO. Bit c: channel c retired. (12 Table 12.10) -/
def MEM_STATUS.RETIRED : Field := { base := 0x1600008, lsb := 0, width := 16, acc := .ro, reset := 0 }

/-- [31:16] RO. Bit 16 + c: channel c RETUNING or RETRAINING. (12 Table 12.10) -/
def MEM_STATUS.OFFLINE : Field := { base := 0x1600008, lsb := 16, width := 16, acc := .ro, reset := 0 }

/-- [32] RO. Table 12.4. (12 Table 12.10) -/
def MEM_STATUS.THROTTLED : Field := { base := 0x1600008, lsb := 32, width := 1, acc := .ro, reset := 0 }

/-- [33] RO. Table 12.4. (12 Table 12.10) -/
def MEM_STATUS.SHUTDOWN : Field := { base := 0x1600008, lsb := 33, width := 1, acc := .ro, reset := 0 }

/-- [34] RO. Some table cell has one copy. (12 Table 12.10) -/
def MEM_STATUS.MIRROR_DEGRADED : Field := { base := 0x1600008, lsb := 34, width := 1, acc := .ro, reset := 0 }

/-- [35] W1C. Set at each retirement. (12 Table 12.10) -/
def MEM_STATUS.RETIRE_EVENT : Field := { base := 0x1600008, lsb := 35, width := 1, acc := .w1c, reset := 0 }

/-- [36] W1C. Set on entering THROTTLED or SHUTDOWN. (12 Table 12.10) -/
def MEM_STATUS.HOT_EVENT : Field := { base := 0x1600008, lsb := 36, width := 1, acc := .w1c, reset := 0 }

/-- [37] W1C. Set at each forced episode. (12 Table 12.10) -/
def MEM_STATUS.FORCED_EVENT : Field := { base := 0x1600008, lsb := 37, width := 1, acc := .w1c, reset := 0 }

/-- [38] W1C. Set under R287. (12 Table 12.10) -/
def MEM_STATUS.SCRUB_LAG : Field := { base := 0x1600008, lsb := 38, width := 1, acc := .w1c, reset := 0 }

/-- [39] W1C. Set under R284. (12 Table 12.10) -/
def MEM_STATUS.DISTURB_EVENT : Field := { base := 0x1600008, lsb := 39, width := 1, acc := .w1c, reset := 0 }

/-- [55:48] RO. Highest layer temperature, °C. (12 Table 12.10) -/
def MEM_STATUS.MAX_TEMP : Field := { base := 0x1600008, lsb := 48, width := 8, acc := .ro, reset := 0 }

/-- MEM_STATUS (12 Table 12.10). -/
def MEM_STATUS.desc : RegDesc := { base := 0x1600008, die := true, dims := [], fields := [MEM_STATUS.RETIRED, MEM_STATUS.OFFLINE, MEM_STATUS.THROTTLED, MEM_STATUS.SHUTDOWN, MEM_STATUS.MIRROR_DEGRADED, MEM_STATUS.RETIRE_EVENT, MEM_STATUS.HOT_EVENT, MEM_STATUS.FORCED_EVENT, MEM_STATUS.SCRUB_LAG, MEM_STATUS.DISTURB_EVENT, MEM_STATUS.MAX_TEMP] }

/-- [1:0] WO. 1 RETRAIN, 2 RETIRE, 3 RESTART; 0 ignored. (12 Table 12.11) -/
def MEM_CMD.OP : Field := { base := 0x1600010, lsb := 0, width := 2, acc := .wo, reset := 0 }

/-- [5:2] WO. Channel for RETRAIN and RETIRE. (12 Table 12.11) -/
def MEM_CMD.CHANNEL : Field := { base := 0x1600010, lsb := 2, width := 4, acc := .wo, reset := 0 }

/-- [9:6] RO. 0 OK, 1 BUSY, 2 BAD_STATE, 3 FAILED. (12 Table 12.11) -/
def MEM_CMD.RESULT : Field := { base := 0x1600010, lsb := 6, width := 4, acc := .ro, reset := 0 }

/-- [10] RO. 1 when the last command has finished. (12 Table 12.11) -/
def MEM_CMD.DONE : Field := { base := 0x1600010, lsb := 10, width := 1, acc := .ro, reset := 1 }

/-- MEM_CMD (12 Table 12.11). -/
def MEM_CMD.desc : RegDesc := { base := 0x1600010, die := true, dims := [], fields := [MEM_CMD.OP, MEM_CMD.CHANNEL, MEM_CMD.RESULT, MEM_CMD.DONE] }

/-- [3:0] RO. Channel. (12 Table 12.12) -/
def MEM_ECC_LAST.CHANNEL : Field := { base := 0x1600018, lsb := 0, width := 4, acc := .ro, reset := 0 }

/-- [8:4] RO. Bank. (12 Table 12.12) -/
def MEM_ECC_LAST.BANK : Field := { base := 0x1600018, lsb := 4, width := 5, acc := .ro, reset := 0 }

/-- [26:9] RO. Row. (12 Table 12.12) -/
def MEM_ECC_LAST.ROW : Field := { base := 0x1600018, lsb := 9, width := 18, acc := .ro, reset := 0 }

/-- [29:27] RO. Cell within the row. (12 Table 12.12) -/
def MEM_ECC_LAST.CELL : Field := { base := 0x1600018, lsb := 27, width := 3, acc := .ro, reset := 0 }

/-- [32:30] RO. 256-bit word within the cell. (12 Table 12.12) -/
def MEM_ECC_LAST.WORD : Field := { base := 0x1600018, lsb := 30, width := 3, acc := .ro, reset := 0 }

/-- [35:33] RO. KIND of Table 12.2. (12 Table 12.12) -/
def MEM_ECC_LAST.REGION : Field := { base := 0x1600018, lsb := 33, width := 3, acc := .ro, reset := 0 }

/-- [39:36] RO. q of Table 12.3. (12 Table 12.12) -/
def MEM_ECC_LAST.REQUESTER : Field := { base := 0x1600018, lsb := 36, width := 4, acc := .ro, reset := 0 }

/-- MEM_ECC_LAST (12 Table 12.12). -/
def MEM_ECC_LAST.desc : RegDesc := { base := 0x1600018, die := true, dims := [], fields := [MEM_ECC_LAST.CHANNEL, MEM_ECC_LAST.BANK, MEM_ECC_LAST.ROW, MEM_ECC_LAST.CELL, MEM_ECC_LAST.WORD, MEM_ECC_LAST.REGION, MEM_ECC_LAST.REQUESTER] }

/-- [31:0] RO. Age of the oldest cell's last scrub, s; saturates. (12 Table 12.13) -/
def MEM_SCRUB.PASS_AGE_S : Field := { base := 0x1600020, lsb := 0, width := 32, acc := .ro, reset := 0 }

/-- [47:32] RO. Complete passes since package reset; wraps. (12 Table 12.13) -/
def MEM_SCRUB.PASSES : Field := { base := 0x1600020, lsb := 32, width := 16, acc := .ro, reset := 0 }

/-- MEM_SCRUB (12 Table 12.13). -/
def MEM_SCRUB.desc : RegDesc := { base := 0x1600020, die := true, dims := [], fields := [MEM_SCRUB.PASS_AGE_S, MEM_SCRUB.PASSES] }

/-- [23:0] RO. First stripe. (12 Table 12.14) -/
def MEM_REGION.BASE : Field := { base := 0x1600040, lsb := 0, width := 24, acc := .ro, reset := 0, perImage := true }

/-- [47:24] RO. Stripes in the region. (12 Table 12.14) -/
def MEM_REGION.STRIPES : Field := { base := 0x1600040, lsb := 24, width := 24, acc := .ro, reset := 0, perImage := true }

/-- MEM_REGION (12 Table 12.14). -/
def MEM_REGION.desc : RegDesc := { base := 0x1600040, die := true, dims := [(0x8, 6)], fields := [MEM_REGION.BASE, MEM_REGION.STRIPES] }

/-- [2:0] RO. 0 ACTIVE, 1 RETUNING, 2 RETRAINING, 3 FORCED_REFRESH, 4 RETIRED, 5 OFF. (12 Table 12.15) -/
def MEM_CH_STATUS.STATE : Field := { base := 0x1600100, lsb := 0, width := 3, acc := .ro, reset := 0 }

/-- [3] RO. 1 while the interval is 1,950 ns. (12 Table 12.15) -/
def MEM_CH_STATUS.HOT_INTERVAL : Field := { base := 0x1600100, lsb := 3, width := 1, acc := .ro, reset := 0 }

/-- [8:4] RO. Refresh debt, 0–16. (12 Table 12.15) -/
def MEM_CH_STATUS.REF_DEBT : Field := { base := 0x1600100, lsb := 4, width := 5, acc := .ro, reset := 0 }

/-- [15:9] RO. Write queue entries, 0–64. (12 Table 12.15) -/
def MEM_CH_STATUS.WQ_DEPTH : Field := { base := 0x1600100, lsb := 9, width := 7, acc := .ro, reset := 0 }

/-- [23:16] RO. Stack temperature of the channel, °C. (12 Table 12.15) -/
def MEM_CH_STATUS.TEMP : Field := { base := 0x1600100, lsb := 16, width := 8, acc := .ro, reset := 0 }

/-- [31:24] RO. Eye margin, % of a unit interval. (12 Table 12.15) -/
def MEM_CH_STATUS.MARGIN : Field := { base := 0x1600100, lsb := 24, width := 8, acc := .ro, reset := 0 }

/-- [63:32] RO. Retunes and retrains since package reset; wraps. (12 Table 12.15) -/
def MEM_CH_STATUS.RETRAINS : Field := { base := 0x1600100, lsb := 32, width := 32, acc := .ro, reset := 0 }

/-- MEM_CH_STATUS (12 Table 12.15). -/
def MEM_CH_STATUS.desc : RegDesc := { base := 0x1600100, die := true, dims := [(0x10, 16)], fields := [MEM_CH_STATUS.STATE, MEM_CH_STATUS.HOT_INTERVAL, MEM_CH_STATUS.REF_DEBT, MEM_CH_STATUS.WQ_DEPTH, MEM_CH_STATUS.TEMP, MEM_CH_STATUS.MARGIN, MEM_CH_STATUS.RETRAINS] }

/-- [31:0] RO. Throttle periods started; saturates. (12 Table 12.16) -/
def MEM_THROTTLE.THROTTLE_COUNT : Field := { base := 0x1600200, lsb := 0, width := 32, acc := .ro, reset := 0 }

/-- [43:32] RO. Domain of the last crossing request. (12 Table 12.16) -/
def MEM_THROTTLE.LAST_DOMAIN : Field := { base := 0x1600200, lsb := 32, width := 12, acc := .ro, reset := 0 }

/-- [44] RO. Throttle period running on some channel. (12 Table 12.16) -/
def MEM_THROTTLE.ACTIVE : Field := { base := 0x1600200, lsb := 44, width := 1, acc := .ro, reset := 0 }

/-- MEM_THROTTLE (12 Table 12.16). -/
def MEM_THROTTLE.desc : RegDesc := { base := 0x1600200, die := true, dims := [(0x8, 16)], fields := [MEM_THROTTLE.THROTTLE_COUNT, MEM_THROTTLE.LAST_DOMAIN, MEM_THROTTLE.ACTIVE] }

/-- [63:0] RC. Table 4.16. (12 R292) -/
def MEM_CNT.COUNT : Field := { base := 0x1600300, lsb := 0, width := 64, acc := .rc, reset := 0 }

/-- MEM_CNT (12 R292). -/
def MEM_CNT.desc : RegDesc := { base := 0x1600300, die := true, dims := [(0x8, 16)], fields := [MEM_CNT.COUNT] }

/-- [0] RW. Enable request (R38). (13 Table 13.9) -/
def FAB_LANE_CTRL.ENABLE : Field := { base := 0x1680000, lsb := 0, width := 1, acc := .rw, reset := 0 }

/-- [11:1] RW. DEST of upstream cells (R302). (13 Table 13.9) -/
def FAB_LANE_CTRL.UP_DEST : Field := { base := 0x1680000, lsb := 1, width := 11, acc := .rw, reset := 1024 }

/-- [12] RW. Request precoding in training. (13 Table 13.9) -/
def FAB_LANE_CTRL.PRECODE_REQ : Field := { base := 0x1680000, lsb := 12, width := 1, acc := .rw, reset := 1 }

/-- [13] RW. Kolkan: send and use TIME blocks. (13 Table 13.9) -/
def FAB_LANE_CTRL.TIME_EN : Field := { base := 0x1680000, lsb := 13, width := 1, acc := .rw, reset := 1 }

/-- [14] RW. Ethernet: one-step PTP (Table 13.7). (13 Table 13.9) -/
def FAB_LANE_CTRL.ONE_STEP : Field := { base := 0x1680000, lsb := 14, width := 1, acc := .rw, reset := 0 }

/-- [30:15] RW. Delay asymmetry, signed, ps. (13 Table 13.9) -/
def FAB_LANE_CTRL.ASYM : Field := { base := 0x1680000, lsb := 15, width := 16, acc := .rw, reset := 0 }

/-- FAB_LANE_CTRL (13 Table 13.9). -/
def FAB_LANE_CTRL.desc : RegDesc := { base := 0x1680000, die := true, dims := [(0x100, 4)], fields := [FAB_LANE_CTRL.ENABLE, FAB_LANE_CTRL.UP_DEST, FAB_LANE_CTRL.PRECODE_REQ, FAB_LANE_CTRL.TIME_EN, FAB_LANE_CTRL.ONE_STEP, FAB_LANE_CTRL.ASYM] }

/-- [1:0] RO. 0 OFF, 1 STARTING, 2 ON, 3 SHUTTING. (13 Table 13.10) -/
def FAB_LANE_STATUS.STATE : Field := { base := 0x1680008, lsb := 0, width := 2, acc := .ro, reset := 0 }

/-- [4:2] RO. Table 13.1. (13 Table 13.10) -/
def FAB_LANE_STATUS.MODE : Field := { base := 0x1680008, lsb := 2, width := 3, acc := .ro, reset := 0, perImage := true }

/-- [5] RO. No signal. (13 Table 13.10) -/
def FAB_LANE_STATUS.LOS : Field := { base := 0x1680008, lsb := 5, width := 1, acc := .ro, reset := 0 }

/-- [6] RO. Clock recovered. (13 Table 13.10) -/
def FAB_LANE_STATUS.CDR_LOCK : Field := { base := 0x1680008, lsb := 6, width := 1, acc := .ro, reset := 0 }

/-- [7] RO. Comma lock or FEC alignment lock. (13 Table 13.10) -/
def FAB_LANE_STATUS.ALIGN : Field := { base := 0x1680008, lsb := 7, width := 1, acc := .ro, reset := 0 }

/-- [8] RO. Loss of path (R301). (13 Table 13.10) -/
def FAB_LANE_STATUS.PATH_LOSS : Field := { base := 0x1680008, lsb := 8, width := 1, acc := .ro, reset := 0 }

/-- [9] RO. Electrical idle. (13 Table 13.10) -/
def FAB_LANE_STATUS.IDLE : Field := { base := 0x1680008, lsb := 9, width := 1, acc := .ro, reset := 0 }

/-- [10] RO. This lane is the FABRIC source. (13 Table 13.10) -/
def FAB_LANE_STATUS.TIME_SOURCE : Field := { base := 0x1680008, lsb := 10, width := 1, acc := .ro, reset := 0 }

/-- [11] W1C. Set under R303. (13 Table 13.10) -/
def FAB_LANE_STATUS.LINK_EVENT : Field := { base := 0x1680008, lsb := 11, width := 1, acc := .w1c, reset := 0 }

/-- [12] W1C. Set under R304. (13 Table 13.10) -/
def FAB_LANE_STATUS.DUP_DEVICE : Field := { base := 0x1680008, lsb := 12, width := 1, acc := .w1c, reset := 0 }

/-- [23:13] RO. DEVICE from the partner's CAP. (13 Table 13.10) -/
def FAB_LANE_STATUS.PARTNER_DEVICE : Field := { base := 0x1680008, lsb := 13, width := 11, acc := .ro, reset := 0 }

/-- [28:24] RO. LANE from the partner's CAP. (13 Table 13.10) -/
def FAB_LANE_STATUS.PARTNER_LANE : Field := { base := 0x1680008, lsb := 24, width := 5, acc := .ro, reset := 0 }

/-- [34:29] RO. STRATUM of the partner's last TIME block. (13 Table 13.10) -/
def FAB_LANE_STATUS.PARTNER_STRATUM : Field := { base := 0x1680008, lsb := 29, width := 6, acc := .ro, reset := 63 }

/-- FAB_LANE_STATUS (13 Table 13.10). -/
def FAB_LANE_STATUS.desc : RegDesc := { base := 0x1680008, die := true, dims := [(0x100, 4)], fields := [FAB_LANE_STATUS.STATE, FAB_LANE_STATUS.MODE, FAB_LANE_STATUS.LOS, FAB_LANE_STATUS.CDR_LOCK, FAB_LANE_STATUS.ALIGN, FAB_LANE_STATUS.PATH_LOSS, FAB_LANE_STATUS.IDLE, FAB_LANE_STATUS.TIME_SOURCE, FAB_LANE_STATUS.LINK_EVENT, FAB_LANE_STATUS.DUP_DEVICE, FAB_LANE_STATUS.PARTNER_DEVICE, FAB_LANE_STATUS.PARTNER_LANE, FAB_LANE_STATUS.PARTNER_STRATUM] }

/-- [63:0] RC. Table 4.16. (13 R317) -/
def FAB_LANE_CNT.COUNT : Field := { base := 0x1680080, lsb := 0, width := 64, acc := .rc, reset := 0 }

/-- FAB_LANE_CNT (13 R317). -/
def FAB_LANE_CNT.desc : RegDesc := { base := 0x1680080, die := true, dims := [(0x100, 4), (0x8, 12)], fields := [FAB_LANE_CNT.COUNT] }

/-- [0] RW. Enable request (R38). (13 Table 13.11) -/
def FAB_DL_CTRL.ENABLE : Field := { base := 0x1680800, lsb := 0, width := 1, acc := .rw, reset := 1 }

/-- [10:1] RW. Idle entry, 0–1,000 ns; 0 never idles. (13 Table 13.11) -/
def FAB_DL_CTRL.IDLE_NS : Field := { base := 0x1680800, lsb := 1, width := 10, acc := .rw, reset := 500 }

/-- [11] WO. 1 sends the link to STARTING. (13 Table 13.11) -/
def FAB_DL_CTRL.RETRAIN : Field := { base := 0x1680800, lsb := 11, width := 1, acc := .wo, reset := 0 }

/-- FAB_DL_CTRL (13 Table 13.11). -/
def FAB_DL_CTRL.desc : RegDesc := { base := 0x1680800, die := true, dims := [(0x100, 8)], fields := [FAB_DL_CTRL.ENABLE, FAB_DL_CTRL.IDLE_NS, FAB_DL_CTRL.RETRAIN] }

/-- [1:0] RO. As FAB_LANE_STATUS. (13 Table 13.12) -/
def FAB_DL_STATUS.STATE : Field := { base := 0x1680808, lsb := 0, width := 2, acc := .ro, reset := 0 }

/-- [2] RO. Last bring-up was blind (R308). (13 Table 13.12) -/
def FAB_DL_STATUS.BLIND : Field := { base := 0x1680808, lsb := 2, width := 1, acc := .ro, reset := 0 }

/-- [3] RO. Electrical idle. (13 Table 13.12) -/
def FAB_DL_STATUS.IDLE : Field := { base := 0x1680808, lsb := 3, width := 1, acc := .ro, reset := 0 }

/-- [11:4] RO. Bit k: lane k in symbol lock. (13 Table 13.12) -/
def FAB_DL_STATUS.LANES_LOCKED : Field := { base := 0x1680808, lsb := 4, width := 8, acc := .ro, reset := 0 }

/-- [12] W1C. Set at each unrequested exit from ON. (13 Table 13.12) -/
def FAB_DL_STATUS.LINK_EVENT : Field := { base := 0x1680808, lsb := 12, width := 1, acc := .w1c, reset := 0 }

/-- FAB_DL_STATUS (13 Table 13.12). -/
def FAB_DL_STATUS.desc : RegDesc := { base := 0x1680808, die := true, dims := [(0x100, 8)], fields := [FAB_DL_STATUS.STATE, FAB_DL_STATUS.BLIND, FAB_DL_STATUS.IDLE, FAB_DL_STATUS.LANES_LOCKED, FAB_DL_STATUS.LINK_EVENT] }

/-- [63:0] RC. Table 4.16. (13 R317) -/
def FAB_DL_CNT.COUNT : Field := { base := 0x1680880, lsb := 0, width := 64, acc := .rc, reset := 0 }

/-- FAB_DL_CNT (13 R317). -/
def FAB_DL_CNT.desc : RegDesc := { base := 0x1680880, die := true, dims := [(0x100, 8), (0x8, 8)], fields := [FAB_DL_CNT.COUNT] }

/-- [2:0] RW. Table 3.9; acts in OFF only (R306). (13 Table 13.13) -/
def FAB_PAT_CTRL.GEN_PATTERN : Field := { base := 0x1681000, lsb := 0, width := 3, acc := .rw, reset := 0 }

/-- [5:3] RW. Table 3.9. (13 Table 13.13) -/
def FAB_PAT_CTRL.CHK_PATTERN : Field := { base := 0x1681000, lsb := 3, width := 3, acc := .rw, reset := 0 }

/-- [6] RW. Inject at the interval. (13 Table 13.13) -/
def FAB_PAT_CTRL.INJ_ENABLE : Field := { base := 0x1681000, lsb := 6, width := 1, acc := .rw, reset := 0 }

/-- [11:7] RW. Interval 2^(INJ_EXP + 10) bits; at least 2^20 when ON. (13 Table 13.13) -/
def FAB_PAT_CTRL.INJ_EXP : Field := { base := 0x1681000, lsb := 7, width := 5, acc := .rw, reset := 10 }

/-- [12] WO. 1 injects one error. (13 Table 13.13) -/
def FAB_PAT_CTRL.ONE_SHOT : Field := { base := 0x1681000, lsb := 12, width := 1, acc := .wo, reset := 0 }

/-- FAB_PAT_CTRL (13 Table 13.13). -/
def FAB_PAT_CTRL.desc : RegDesc := { base := 0x1681000, die := true, dims := [(0x10, 68)], fields := [FAB_PAT_CTRL.GEN_PATTERN, FAB_PAT_CTRL.CHK_PATTERN, FAB_PAT_CTRL.INJ_ENABLE, FAB_PAT_CTRL.INJ_EXP, FAB_PAT_CTRL.ONE_SHOT] }

/-- [0] RO.  (13 Registers) -/
def FAB_PAT_STATUS.CHK_LOCK : Field := { base := 0x1681008, lsb := 0, width := 1, acc := .ro, reset := 0 }

/-- [55:8] RO.  (13 Registers) -/
def FAB_PAT_STATUS.ERRORS : Field := { base := 0x1681008, lsb := 8, width := 48, acc := .ro, reset := 0 }

/-- FAB_PAT_STATUS (13 Registers). -/
def FAB_PAT_STATUS.desc : RegDesc := { base := 0x1681008, die := true, dims := [(0x10, 68)], fields := [FAB_PAT_STATUS.CHK_LOCK, FAB_PAT_STATUS.ERRORS] }

/-- [47:0] RO.  (13 Table 13.14) -/
def FAB_TS_LO.TIME : Field := { base := 0x1681800, lsb := 0, width := 48, acc := .ro, reset := 0 }

/-- [63:48] RO.  (13 Table 13.14) -/
def FAB_TS_LO.SEQUENCE_ID : Field := { base := 0x1681800, lsb := 48, width := 16, acc := .ro, reset := 0 }

/-- FAB_TS_LO (13 Table 13.14). -/
def FAB_TS_LO.desc : RegDesc := { base := 0x1681800, die := true, dims := [], fields := [FAB_TS_LO.TIME, FAB_TS_LO.SEQUENCE_ID] }

/-- [47:0] RO.  (13 Table 13.14) -/
def FAB_TS_HI.SECONDS : Field := { base := 0x1681808, lsb := 0, width := 48, acc := .ro, reset := 0 }

/-- [49:48] RO.  (13 Table 13.14) -/
def FAB_TS_HI.LANE : Field := { base := 0x1681808, lsb := 48, width := 2, acc := .ro, reset := 0 }

/-- [53:50] RO.  (13 Table 13.14) -/
def FAB_TS_HI.MSG_TYPE : Field := { base := 0x1681808, lsb := 50, width := 4, acc := .ro, reset := 0 }

/-- [54] RO.  (13 Table 13.14) -/
def FAB_TS_HI.VALID : Field := { base := 0x1681808, lsb := 54, width := 1, acc := .ro, reset := 0 }

/-- [55] W1C.  (13 Table 13.14) -/
def FAB_TS_HI.OVERFLOW : Field := { base := 0x1681808, lsb := 55, width := 1, acc := .w1c, reset := 0 }

/-- FAB_TS_HI (13 Table 13.14). -/
def FAB_TS_HI.desc : RegDesc := { base := 0x1681808, die := true, dims := [], fields := [FAB_TS_HI.SECONDS, FAB_TS_HI.LANE, FAB_TS_HI.MSG_TYPE, FAB_TS_HI.VALID, FAB_TS_HI.OVERFLOW] }

/-- [0] WO.  (13 Registers) -/
def FAB_TS_POP.POP : Field := { base := 0x1681810, lsb := 0, width := 1, acc := .wo, reset := 0 }

/-- FAB_TS_POP (13 Registers). -/
def FAB_TS_POP.desc : RegDesc := { base := 0x1681810, die := true, dims := [], fields := [FAB_TS_POP.POP] }

/-- [1:0] WO. 1 READ, 2 READ_CLEAR, 3 CLEAR; 0 ignored. (16 Table 16.9) -/
def PERF_CNT_ACC_CTRL.OP : Field := { base := 0x1700000, lsb := 0, width := 2, acc := .wo, reset := 0 }

/-- [22:2] WO. Counter 0–2,097,151. (16 Table 16.9) -/
def PERF_CNT_ACC_CTRL.INDEX : Field := { base := 0x1700000, lsb := 2, width := 21, acc := .wo, reset := 0 }

/-- [25:23] RO. 0 OK, 1 BUSY, 2 BAD_INDEX. (16 Table 16.9) -/
def PERF_CNT_ACC_CTRL.RESULT : Field := { base := 0x1700000, lsb := 23, width := 3, acc := .ro, reset := 0 }

/-- [26] RO. 1 when the last operation has finished. (16 Table 16.9) -/
def PERF_CNT_ACC_CTRL.DONE : Field := { base := 0x1700000, lsb := 26, width := 1, acc := .ro, reset := 1 }

/-- PERF_CNT_ACC_CTRL (16 Table 16.9). -/
def PERF_CNT_ACC_CTRL.desc : RegDesc := { base := 0x1700000, die := true, dims := [], fields := [PERF_CNT_ACC_CTRL.OP, PERF_CNT_ACC_CTRL.INDEX, PERF_CNT_ACC_CTRL.RESULT, PERF_CNT_ACC_CTRL.DONE] }

/-- [63:0] RO.  (16 Registers) -/
def PERF_CNT_ACC_DATA.VALUE : Field := { base := 0x1700008, lsb := 0, width := 64, acc := .ro, reset := 0 }

/-- PERF_CNT_ACC_DATA (16 Registers). -/
def PERF_CNT_ACC_DATA.desc : RegDesc := { base := 0x1700008, die := true, dims := [], fields := [PERF_CNT_ACC_DATA.VALUE] }

/-- [39:0] RO.  (16 Registers) -/
def PERF_CNT_BASE.OFFSET : Field := { base := 0x1700010, lsb := 0, width := 40, acc := .ro, reset := 0, perImage := true }

/-- PERF_CNT_BASE (16 Registers). -/
def PERF_CNT_BASE.desc : RegDesc := { base := 0x1700010, die := true, dims := [], fields := [PERF_CNT_BASE.OFFSET] }

/-- [39:0] RO.  (16 Registers) -/
def PERF_SNAP_BASE.OFFSET : Field := { base := 0x1700018, lsb := 0, width := 40, acc := .ro, reset := 0, perImage := true }

/-- PERF_SNAP_BASE (16 Registers). -/
def PERF_SNAP_BASE.desc : RegDesc := { base := 0x1700018, die := true, dims := [], fields := [PERF_SNAP_BASE.OFFSET] }

/-- [0] RW. Tag downstream frames. (16 Table 16.10) -/
def PERF_TRACE_CTRL.ENABLE_DS : Field := { base := 0x1700020, lsb := 0, width := 1, acc := .rw, reset := 0 }

/-- [1] RW. Tag upstream frames. (16 Table 16.10) -/
def PERF_TRACE_CTRL.ENABLE_US : Field := { base := 0x1700020, lsb := 1, width := 1, acc := .rw, reset := 0 }

/-- [6:2] RW. Tag probability 2^−RATE_EXP, 6–24. (16 Table 16.10) -/
def PERF_TRACE_CTRL.RATE_EXP : Field := { base := 0x1700020, lsb := 2, width := 5, acc := .rw, reset := 16 }

/-- [7] RW. Keep only records of DOMAIN. (16 Table 16.10) -/
def PERF_TRACE_CTRL.FILTER : Field := { base := 0x1700020, lsb := 7, width := 1, acc := .rw, reset := 0 }

/-- [19:8] RW. Domain kept under FILTER. (16 Table 16.10) -/
def PERF_TRACE_CTRL.DOMAIN : Field := { base := 0x1700020, lsb := 8, width := 12, acc := .rw, reset := 0 }

/-- [23:20] RW. Ring of 2^(SIZE_EXP + 10) records, 0–14, within the trace region. (16 Table 16.10) -/
def PERF_TRACE_CTRL.SIZE_EXP : Field := { base := 0x1700020, lsb := 20, width := 4, acc := .rw, reset := 6 }

/-- PERF_TRACE_CTRL (16 Table 16.10). -/
def PERF_TRACE_CTRL.desc : RegDesc := { base := 0x1700020, die := true, dims := [], fields := [PERF_TRACE_CTRL.ENABLE_DS, PERF_TRACE_CTRL.ENABLE_US, PERF_TRACE_CTRL.RATE_EXP, PERF_TRACE_CTRL.FILTER, PERF_TRACE_CTRL.DOMAIN, PERF_TRACE_CTRL.SIZE_EXP] }

/-- [23:0] RO. Next entry the part writes. (16 Table 16.11) -/
def PERF_TRACE_RING.PROD : Field := { base := 0x1700028, lsb := 0, width := 24, acc := .ro, reset := 0 }

/-- [47:24] RW. Next entry the host reads. (16 Table 16.11) -/
def PERF_TRACE_RING.CONS : Field := { base := 0x1700028, lsb := 24, width := 24, acc := .rw, reset := 0 }

/-- [48] W1C. Set under R369. (16 Table 16.11) -/
def PERF_TRACE_RING.OVERFLOW : Field := { base := 0x1700028, lsb := 48, width := 1, acc := .w1c, reset := 0 }

/-- PERF_TRACE_RING (16 Table 16.11). -/
def PERF_TRACE_RING.desc : RegDesc := { base := 0x1700028, die := true, dims := [], fields := [PERF_TRACE_RING.PROD, PERF_TRACE_RING.CONS, PERF_TRACE_RING.OVERFLOW] }

/-- [39:0] RO.  (16 Registers) -/
def PERF_TRACE_BASE.OFFSET : Field := { base := 0x1700030, lsb := 0, width := 40, acc := .ro, reset := 0, perImage := true }

/-- PERF_TRACE_BASE (16 Registers). -/
def PERF_TRACE_BASE.desc : RegDesc := { base := 0x1700030, die := true, dims := [], fields := [PERF_TRACE_BASE.OFFSET] }

/-- [19:0] RW. Window, 100–1,000,000 µs; other values read back as 1,000. (16 Table 16.12) -/
def PERF_BW_CTRL.WINDOW_US : Field := { base := 0x1700040, lsb := 0, width := 20, acc := .rw, reset := 1000 }

/-- [20] RW. Windows measured. (16 Table 16.12) -/
def PERF_BW_CTRL.ENABLE : Field := { base := 0x1700040, lsb := 20, width := 1, acc := .rw, reset := 1 }

/-- [21] WO. 1 sets every PEAK_MBPS to 0. (16 Table 16.12) -/
def PERF_BW_CTRL.PEAK_CLEAR : Field := { base := 0x1700040, lsb := 21, width := 1, acc := .wo, reset := 0 }

/-- [53:22] RO. Low 32 bits of the last window closed. (16 Table 16.12) -/
def PERF_BW_CTRL.LAST_WINDOW : Field := { base := 0x1700040, lsb := 22, width := 32, acc := .ro, reset := 0 }

/-- PERF_BW_CTRL (16 Table 16.12). -/
def PERF_BW_CTRL.desc : RegDesc := { base := 0x1700040, die := true, dims := [], fields := [PERF_BW_CTRL.WINDOW_US, PERF_BW_CTRL.ENABLE, PERF_BW_CTRL.PEAK_CLEAR, PERF_BW_CTRL.LAST_WINDOW] }

/-- [39:0] RO.  (16 Registers) -/
def PERF_TELE_BASE.OFFSET : Field := { base := 0x1700048, lsb := 0, width := 40, acc := .ro, reset := 0, perImage := true }

/-- PERF_TELE_BASE (16 Registers). -/
def PERF_TELE_BASE.desc : RegDesc := { base := 0x1700048, die := true, dims := [], fields := [PERF_TELE_BASE.OFFSET] }

/-- [15:0] RO.  (16 Registers) -/
def PERF_TELE_STATUS.SEQ : Field := { base := 0x1700050, lsb := 0, width := 16, acc := .ro, reset := 0 }

/-- PERF_TELE_STATUS (16 Registers). -/
def PERF_TELE_STATUS.desc : RegDesc := { base := 0x1700050, die := true, dims := [], fields := [PERF_TELE_STATUS.SEQ] }

/-- [31:0] RO.  (16 Registers) -/
def PERF_LAG.LAG : Field := { base := 0x1700080, lsb := 0, width := 32, acc := .ro, reset := 0 }

/-- [32] W1C.  (16 Registers) -/
def PERF_LAG.OVER : Field := { base := 0x1700080, lsb := 32, width := 1, acc := .w1c, reset := 0 }

/-- PERF_LAG (16 Registers). -/
def PERF_LAG.desc : RegDesc := { base := 0x1700080, die := true, dims := [(0x8, 8)], fields := [PERF_LAG.LAG, PERF_LAG.OVER] }

/-- [63:0] RC. Table 4.16. (16 R381) -/
def PERF_CNT.COUNT : Field := { base := 0x1700100, lsb := 0, width := 64, acc := .rc, reset := 0 }

/-- PERF_CNT (16 R381). -/
def PERF_CNT.desc : RegDesc := { base := 0x1700100, die := true, dims := [(0x8, 12)], fields := [PERF_CNT.COUNT] }

/-- [47:0] RO.  (16 Registers) -/
def PERF_BW.BYTES : Field := { base := 0x1701000, lsb := 0, width := 48, acc := .ro, reset := 0 }

/-- PERF_BW (16 Registers). -/
def PERF_BW.desc : RegDesc := { base := 0x1701000, die := true, dims := [(0x10, 56)], fields := [PERF_BW.BYTES] }

/-- [23:0] RO.  (16 Table 16.13) -/
def PERF_BW_RATE.RATE_MBPS : Field := { base := 0x1701008, lsb := 0, width := 24, acc := .ro, reset := 0 }

/-- [47:24] RO.  (16 Table 16.13) -/
def PERF_BW_RATE.PEAK_MBPS : Field := { base := 0x1701008, lsb := 24, width := 24, acc := .ro, reset := 0 }

/-- PERF_BW_RATE (16 Table 16.13). -/
def PERF_BW_RATE.desc : RegDesc := { base := 0x1701008, die := true, dims := [(0x10, 56)], fields := [PERF_BW_RATE.RATE_MBPS, PERF_BW_RATE.PEAK_MBPS] }

/-- bytes from 0. Alloc-ID sent in the map (06 Table 6.2) -/
def ALLOC.ALLOC_ID : Field := { base := 0x10000000, lsb := 0, width := 14, acc := .mem, reset := 0 }

/-- bytes from 2. Terminal index (06 Table 6.2) -/
def ALLOC.TERMINAL : Field := { base := 0x10000000, lsb := 16, width := 8, acc := .mem, reset := 0 }

/-- bytes from 3. Service class, Table 6.1 (06 Table 6.2) -/
def ALLOC.CLASS : Field := { base := 0x10000000, lsb := 24, width := 3, acc := .mem, reset := 0 }

/-- bytes from 3. 0 50G-class, 1 XGS-PON (06 Table 6.2) -/
def ALLOC.SET : Field := { base := 0x10000000, lsb := 27, width := 1, acc := .mem, reset := 0 }

/-- bytes from 3. Burst profile (06 Table 6.2) -/
def ALLOC.PROFILE : Field := { base := 0x10000000, lsb := 28, width := 2, acc := .mem, reset := 0 }

/-- bytes from 3. Each grant requests a status report (06 Table 6.2) -/
def ALLOC.DBRU : Field := { base := 0x10000000, lsb := 30, width := 1, acc := .mem, reset := 0 }

/-- bytes from 3. Arrival predictor on (06 Table 6.2) -/
def ALLOC.PREDICT : Field := { base := 0x10000000, lsb := 31, width := 1, acc := .mem, reset := 0 }

/-- bytes from 4. FIXED or ASSURED rate, 1/256 unit per frame (06 Table 6.2) -/
def ALLOC.RATE : Field := { base := 0x10000000, lsb := 32, width := 24, acc := .mem, reset := 0 }

/-- bytes from 8. Most in a frame, 1/256 unit, 0 no limit (06 Table 6.2) -/
def ALLOC.PEAK : Field := { base := 0x10000000, lsb := 64, width := 24, acc := .mem, reset := 0 }

/-- bytes from 12. 1 to 4,096 (06 Table 6.2) -/
def ALLOC.WEIGHT : Field := { base := 0x10000000, lsb := 96, width := 16, acc := .mem, reset := 0 }

/-- bytes from 14. Largest grant in one frame, units (06 Table 6.2) -/
def ALLOC.MAX_GRANT : Field := { base := 0x10000000, lsb := 112, width := 16, acc := .mem, reset := 0 }

/-- bytes from 16. Preferred position of the first unit (06 Table 6.2) -/
def ALLOC.PIN : Field := { base := 0x10000000, lsb := 128, width := 14, acc := .mem, reset := 0 }

/-- bytes from 16. PIN in use (06 Table 6.2) -/
def ALLOC.PIN_EN : Field := { base := 0x10000000, lsb := 143, width := 1, acc := .mem, reset := 0 }

/-- bytes from 18. Gate list (06 Table 6.2) -/
def ALLOC.GATE_LIST : Field := { base := 0x10000000, lsb := 144, width := 8, acc := .mem, reset := 0 }

/-- bytes from 19. Gate of that list (06 Table 6.2) -/
def ALLOC.GATE : Field := { base := 0x10000000, lsb := 152, width := 3, acc := .mem, reset := 0 }

/-- bytes from 20. 0 rate mode, 1 periodic mode (06 Table 6.2) -/
def ALLOC.PRED_MODE : Field := { base := 0x10000000, lsb := 160, width := 1, acc := .mem, reset := 0 }

/-- bytes from 20. 2 to 15 frames (06 Table 6.2) -/
def ALLOC.PERIOD : Field := { base := 0x10000000, lsb := 164, width := 4, acc := .mem, reset := 0 }

/-- bytes from 21. 1 to 8 (06 Table 6.2) -/
def ALLOC.PRED_SHIFT : Field := { base := 0x10000000, lsb := 168, width := 4, acc := .mem, reset := 0 }

/-- bytes from 21. 1 to 15 (06 Table 6.2) -/
def ALLOC.IDLE_N : Field := { base := 0x10000000, lsb := 172, width := 4, acc := .mem, reset := 0 }

/-- bytes from 32. Signed credit, 1/256 unit (06 Table 6.2) -/
def ALLOC.CREDIT : Field := { base := 0x10000000, lsb := 256, width := 32, acc := .mem, reset := 0 }

/-- bytes from 36. Last reported backlog, 1/256 unit (06 Table 6.2) -/
def ALLOC.BACKLOG : Field := { base := 0x10000000, lsb := 288, width := 32, acc := .mem, reset := 0 }

/-- bytes from 40. Upstream frame of that report (06 Table 6.2) -/
def ALLOC.REPORT_FRAME : Field := { base := 0x10000000, lsb := 320, width := 32, acc := .mem, reset := 0 }

/-- bytes from 44. Rate estimate or cycle volume, 1/256 unit (06 Table 6.2) -/
def ALLOC.PRED : Field := { base := 0x10000000, lsb := 352, width := 24, acc := .mem, reset := 0 }

/-- bytes from 44. Phase of arrivals (06 Table 6.2) -/
def ALLOC.PHI : Field := { base := 0x10000000, lsb := 376, width := 4, acc := .mem, reset := 0 }

/-- bytes from 48. Units granted after REPORT_FRAME, times 256 (06 Table 6.2) -/
def ALLOC.INFLIGHT : Field := { base := 0x10000000, lsb := 384, width := 32, acc := .mem, reset := 0 }

/-- bytes from 52. Consecutive grants returned wholly idle (06 Table 6.2) -/
def ALLOC.IDLE_RUN : Field := { base := 0x10000000, lsb := 416, width := 16, acc := .mem, reset := 0 }

/-- bytes from 54. R148 (06 Table 6.2) -/
def ALLOC.SUSPENDED : Field := { base := 0x10000000, lsb := 432, width := 1, acc := .mem, reset := 0 }

/-- bytes from 54. Displaced in the last map (06 Table 6.2) -/
def ALLOC.DISPLACED : Field := { base := 0x10000000, lsb := 433, width := 1, acc := .mem, reset := 0 }

/-- bytes from 56. Last map that granted the allocation (06 Table 6.2) -/
def ALLOC.LAST_GRANT_FRAME : Field := { base := 0x10000000, lsb := 448, width := 32, acc := .mem, reset := 0 }

/-- The fields of ALLOC (06 Table 6.2), 64 bytes. -/
def ALLOC.fields : List Field := [ALLOC.ALLOC_ID, ALLOC.TERMINAL, ALLOC.CLASS, ALLOC.SET, ALLOC.PROFILE, ALLOC.DBRU, ALLOC.PREDICT, ALLOC.RATE, ALLOC.PEAK, ALLOC.WEIGHT, ALLOC.MAX_GRANT, ALLOC.PIN, ALLOC.PIN_EN, ALLOC.GATE_LIST, ALLOC.GATE, ALLOC.PRED_MODE, ALLOC.PERIOD, ALLOC.PRED_SHIFT, ALLOC.IDLE_N, ALLOC.CREDIT, ALLOC.BACKLOG, ALLOC.REPORT_FRAME, ALLOC.PRED, ALLOC.PHI, ALLOC.INFLIGHT, ALLOC.IDLE_RUN, ALLOC.SUSPENDED, ALLOC.DISPLACED, ALLOC.LAST_GRANT_FRAME]

/-- bytes from 0. Seconds of the base time (06 Table 6.5) -/
def GATEHDR.BASE_S : Field := { base := 0x10001000, lsb := 0, width := 48, acc := .mem, reset := 0 }

/-- bytes from 8. Nanoseconds of the base time (06 Table 6.5) -/
def GATEHDR.BASE_NS : Field := { base := 0x10001000, lsb := 64, width := 32, acc := .mem, reset := 0 }

/-- bytes from 12. Cycle time (06 Table 6.5) -/
def GATEHDR.CYCLE_NS : Field := { base := 0x10001000, lsb := 96, width := 32, acc := .mem, reset := 0 }

/-- bytes from 16. Entries in the operational bank (06 Table 6.5) -/
def GATEHDR.LENGTH : Field := { base := 0x10001000, lsb := 128, width := 16, acc := .mem, reset := 0 }

/-- bytes from 18. Bit 0 upstream grants, bit 1 downstream egress (06 Table 6.5) -/
def GATEHDR.USE : Field := { base := 0x10001000, lsb := 144, width := 2, acc := .mem, reset := 0 }

/-- bytes from 20. Seconds of the change time (06 Table 6.5) -/
def GATEHDR.CHANGE_S : Field := { base := 0x10001000, lsb := 160, width := 48, acc := .mem, reset := 0 }

/-- bytes from 28. Nanoseconds of the change time (06 Table 6.5) -/
def GATEHDR.CHANGE_NS : Field := { base := 0x10001000, lsb := 224, width := 32, acc := .mem, reset := 0 }

/-- bytes from 32. Entries in the administrative bank (06 Table 6.5) -/
def GATEHDR.ADMIN_LENGTH : Field := { base := 0x10001000, lsb := 256, width := 16, acc := .mem, reset := 0 }

/-- bytes from 34. The administrative bank replaces the operational bank at the change time (06 Table 6.5) -/
def GATEHDR.PENDING : Field := { base := 0x10001000, lsb := 272, width := 1, acc := .mem, reset := 0 }

/-- The fields of GATEHDR (06 Table 6.5), 64 bytes. -/
def GATEHDR.fields : List Field := [GATEHDR.BASE_S, GATEHDR.BASE_NS, GATEHDR.CYCLE_NS, GATEHDR.LENGTH, GATEHDR.USE, GATEHDR.CHANGE_S, GATEHDR.CHANGE_NS, GATEHDR.ADMIN_LENGTH, GATEHDR.PENDING]

/-- bytes from 0. Bit q: gate q open (06 Table 6.6) -/
def GATEOP.GATES : Field := { base := 0x10002000, lsb := 0, width := 8, acc := .mem, reset := 0 }

/-- bytes from 4. Duration (06 Table 6.6) -/
def GATEOP.DURATION_NS : Field := { base := 0x10002000, lsb := 32, width := 32, acc := .mem, reset := 0 }

/-- The fields of GATEOP (06 Table 6.6), 8 bytes. -/
def GATEOP.fields : List Field := [GATEOP.GATES, GATEOP.DURATION_NS]

/-- bytes from 0. Bit q: gate q open (06 Table 6.6) -/
def GATEADM.GATES : Field := { base := 0x10003000, lsb := 0, width := 8, acc := .mem, reset := 0 }

/-- bytes from 4. Duration (06 Table 6.6) -/
def GATEADM.DURATION_NS : Field := { base := 0x10003000, lsb := 32, width := 32, acc := .mem, reset := 0 }

/-- The fields of GATEADM (06 Table 6.6), 8 bytes. -/
def GATEADM.fields : List Field := [GATEADM.GATES, GATEADM.DURATION_NS]

/-- bytes from 0. Line port (07 Table 7.10) -/
def CIRC.LINE_PORT : Field := { base := 0x10004000, lsb := 0, width := 12, acc := .mem, reset := 0 }

/-- bytes from 0. Local tree (07 Table 7.10) -/
def CIRC.LOCAL_TREE : Field := { base := 0x10004000, lsb := 12, width := 3, acc := .mem, reset := 0 }

/-- bytes from 2. Allocation (07 Table 7.10) -/
def CIRC.ALLOCATION : Field := { base := 0x10004000, lsb := 16, width := 10, acc := .mem, reset := 0 }

/-- bytes from 4. Base data bits (07 Table 7.10) -/
def CIRC.D_BASE : Field := { base := 0x10004000, lsb := 32, width := 24, acc := .mem, reset := 0 }

/-- bytes from 4. Justification exponent (07 Table 7.10) -/
def CIRC.JUST_EXP : Field := { base := 0x10004000, lsb := 56, width := 4, acc := .mem, reset := 0 }

/-- bytes from 8. Label (07 Table 7.10) -/
def CIRC.LABEL : Field := { base := 0x10004000, lsb := 64, width := 20, acc := .mem, reset := 0 }

/-- bytes from 12. Group on home die (07 Table 7.10) -/
def CIRC.GROUP : Field := { base := 0x10004000, lsb := 96, width := 7, acc := .mem, reset := 0 }

/-- bytes from 12. In a group (07 Table 7.10) -/
def CIRC.GROUPED : Field := { base := 0x10004000, lsb := 103, width := 1, acc := .mem, reset := 0 }

/-- bytes from 12. Member number (07 Table 7.10) -/
def CIRC.MEMBER : Field := { base := 0x10004000, lsb := 104, width := 3, acc := .mem, reset := 0 }

/-- bytes from 12. Home die (07 Table 7.10) -/
def CIRC.HOME_DIE : Field := { base := 0x10004000, lsb := 107, width := 3, acc := .mem, reset := 0 }

/-- bytes from 14. 32 to 8,192 (07 Table 7.10) -/
def CIRC.PAYLOAD_BYTES : Field := { base := 0x10004000, lsb := 112, width := 16, acc := .mem, reset := 0 }

/-- bytes from 16. 1 to 64 (07 Table 7.10) -/
def CIRC.JITTER_FRAMES : Field := { base := 0x10004000, lsb := 128, width := 8, acc := .mem, reset := 0 }

/-- bytes from 17. 0 to 6 (07 Table 7.10) -/
def CIRC.AVG_EXP : Field := { base := 0x10004000, lsb := 136, width := 3, acc := .mem, reset := 0 }

/-- bytes from 17. Tag packets (07 Table 7.10) -/
def CIRC.VLAN_EN : Field := { base := 0x10004000, lsb := 139, width := 1, acc := .mem, reset := 0 }

/-- bytes from 18. Tag control (07 Table 7.10) -/
def CIRC.VLAN_TCI : Field := { base := 0x10004000, lsb := 144, width := 16, acc := .mem, reset := 0 }

/-- bytes from 20. Destination address (07 Table 7.10) -/
def CIRC.DEST_MAC : Field := { base := 0x10004000, lsb := 160, width := 48, acc := .mem, reset := 0 }

/-- bytes from 26. Package fabric lane (07 Table 7.10) -/
def CIRC.FABRIC_LANE : Field := { base := 0x10004000, lsb := 208, width := 5, acc := .mem, reset := 0 }

/-- bytes from 28. Grant units per frame (07 Table 7.10) -/
def CIRC.SLOTS : Field := { base := 0x10004000, lsb := 224, width := 16, acc := .mem, reset := 0 }

/-- bytes from 30. Preferred position (07 Table 7.10) -/
def CIRC.PIN : Field := { base := 0x10004000, lsb := 240, width := 14, acc := .mem, reset := 0 }

/-- bytes from 32. Playout buffer content, bits (07 Table 7.10) -/
def CIRC.FILL : Field := { base := 0x10004000, lsb := 256, width := 32, acc := .mem, reset := 0 }

/-- bytes from 36. Running sum of R172 (07 Table 7.10) -/
def CIRC.FILL_SUM : Field := { base := 0x10004000, lsb := 288, width := 32, acc := .mem, reset := 0 }

/-- bytes from 40. Next SEQ sent (07 Table 7.10) -/
def CIRC.SEQ_TX : Field := { base := 0x10004000, lsb := 320, width := 16, acc := .mem, reset := 0 }

/-- bytes from 42. Next SEQ expected (07 Table 7.10) -/
def CIRC.SEQ_RX : Field := { base := 0x10004000, lsb := 336, width := 16, acc := .mem, reset := 0 }

/-- bytes from 44. Next GSEQ expected upstream (07 Table 7.10) -/
def CIRC.GSEQ_NEXT : Field := { base := 0x10004000, lsb := 352, width := 16, acc := .mem, reset := 0 }

/-- bytes from 46. Missing-container run (07 Table 7.10) -/
def CIRC.MISS_RUN : Field := { base := 0x10004000, lsb := 368, width := 4, acc := .mem, reset := 0 }

/-- bytes from 46. Good-container run (07 Table 7.10) -/
def CIRC.GOOD_RUN : Field := { base := 0x10004000, lsb := 372, width := 4, acc := .mem, reset := 0 }

/-- bytes from 47. 0 DISABLED, 1 FILLING, 2 RUNNING (07 Table 7.10) -/
def CIRC.RUN_STATE : Field := { base := 0x10004000, lsb := 376, width := 2, acc := .mem, reset := 0 }

/-- bytes from 48. Bits assembled toward the next upstream packet (07 Table 7.10) -/
def CIRC.PKT_BITS : Field := { base := 0x10004000, lsb := 384, width := 32, acc := .mem, reset := 0 }

/-- bytes from 52. TS of that packet (07 Table 7.10) -/
def CIRC.PKT_TS : Field := { base := 0x10004000, lsb := 416, width := 32, acc := .mem, reset := 0 }

/-- The fields of CIRC (07 Table 7.10), 64 bytes. -/
def CIRC.fields : List Field := [CIRC.LINE_PORT, CIRC.LOCAL_TREE, CIRC.ALLOCATION, CIRC.D_BASE, CIRC.JUST_EXP, CIRC.LABEL, CIRC.GROUP, CIRC.GROUPED, CIRC.MEMBER, CIRC.HOME_DIE, CIRC.PAYLOAD_BYTES, CIRC.JITTER_FRAMES, CIRC.AVG_EXP, CIRC.VLAN_EN, CIRC.VLAN_TCI, CIRC.DEST_MAC, CIRC.FABRIC_LANE, CIRC.SLOTS, CIRC.PIN, CIRC.FILL, CIRC.FILL_SUM, CIRC.SEQ_TX, CIRC.SEQ_RX, CIRC.GSEQ_NEXT, CIRC.MISS_RUN, CIRC.GOOD_RUN, CIRC.RUN_STATE, CIRC.PKT_BITS, CIRC.PKT_TS]

/-- bytes from 0. 1 to 8 (07 Table 7.11) -/
def CGRP.MEMBERS : Field := { base := 0x10005000, lsb := 0, width := 8, acc := .mem, reset := 0 }

/-- bytes from 1. Frames of alignment, 1 to 8 (07 Table 7.11) -/
def CGRP.DELAY_MAX : Field := { base := 0x10005000, lsb := 8, width := 8, acc := .mem, reset := 0 }

/-- bytes from 2. Package circuit number of member 0 (07 Table 7.11) -/
def CGRP.MEMBER_CIRCUIT0 : Field := { base := 0x10005000, lsb := 16, width := 13, acc := .mem, reset := 0 }

/-- bytes from 4. Package circuit number of member 1 (07 Table 7.11) -/
def CGRP.MEMBER_CIRCUIT1 : Field := { base := 0x10005000, lsb := 32, width := 13, acc := .mem, reset := 0 }

/-- bytes from 6. Package circuit number of member 2 (07 Table 7.11) -/
def CGRP.MEMBER_CIRCUIT2 : Field := { base := 0x10005000, lsb := 48, width := 13, acc := .mem, reset := 0 }

/-- bytes from 8. Package circuit number of member 3 (07 Table 7.11) -/
def CGRP.MEMBER_CIRCUIT3 : Field := { base := 0x10005000, lsb := 64, width := 13, acc := .mem, reset := 0 }

/-- bytes from 10. Package circuit number of member 4 (07 Table 7.11) -/
def CGRP.MEMBER_CIRCUIT4 : Field := { base := 0x10005000, lsb := 80, width := 13, acc := .mem, reset := 0 }

/-- bytes from 12. Package circuit number of member 5 (07 Table 7.11) -/
def CGRP.MEMBER_CIRCUIT5 : Field := { base := 0x10005000, lsb := 96, width := 13, acc := .mem, reset := 0 }

/-- bytes from 14. Package circuit number of member 6 (07 Table 7.11) -/
def CGRP.MEMBER_CIRCUIT6 : Field := { base := 0x10005000, lsb := 112, width := 13, acc := .mem, reset := 0 }

/-- bytes from 16. Package circuit number of member 7 (07 Table 7.11) -/
def CGRP.MEMBER_CIRCUIT7 : Field := { base := 0x10005000, lsb := 128, width := 13, acc := .mem, reset := 0 }

/-- bytes from 32. Next group frame to release (07 Table 7.11) -/
def CGRP.GSEQ_RELEASE : Field := { base := 0x10005000, lsb := 256, width := 16, acc := .mem, reset := 0 }

/-- bytes from 34. Largest arrival spread of the last 64 group frames, frames (07 Table 7.11) -/
def CGRP.SKEW : Field := { base := 0x10005000, lsb := 272, width := 8, acc := .mem, reset := 0 }

/-- The fields of CGRP (07 Table 7.11), 64 bytes. -/
def CGRP.fields : List Field := [CGRP.MEMBERS, CGRP.DELAY_MAX, CGRP.MEMBER_CIRCUIT0, CGRP.MEMBER_CIRCUIT1, CGRP.MEMBER_CIRCUIT2, CGRP.MEMBER_CIRCUIT3, CGRP.MEMBER_CIRCUIT4, CGRP.MEMBER_CIRCUIT5, CGRP.MEMBER_CIRCUIT6, CGRP.MEMBER_CIRCUIT7, CGRP.GSEQ_RELEASE, CGRP.SKEW]

/-- bytes from 0. Committed rate, kbit/s (08 Table 8.6) -/
def METER.CIR : Field := { base := 0x10006000, lsb := 0, width := 32, acc := .mem, reset := 0 }

/-- bytes from 4. Peak rate, kbit/s (08 Table 8.6) -/
def METER.PIR : Field := { base := 0x10006000, lsb := 32, width := 32, acc := .mem, reset := 0 }

/-- bytes from 8. Committed bucket, bytes (08 Table 8.6) -/
def METER.CBS : Field := { base := 0x10006000, lsb := 64, width := 24, acc := .mem, reset := 0 }

/-- bytes from 11. Colour-aware (08 Table 8.6) -/
def METER.AWARE : Field := { base := 0x10006000, lsb := 88, width := 1, acc := .mem, reset := 0 }

/-- bytes from 11. Red frames are dropped (08 Table 8.6) -/
def METER.RED_DROP : Field := { base := 0x10006000, lsb := 89, width := 1, acc := .mem, reset := 0 }

/-- bytes from 12. Peak bucket, bytes (08 Table 8.6) -/
def METER.PBS : Field := { base := 0x10006000, lsb := 96, width := 24, acc := .mem, reset := 0 }

/-- bytes from 15. Signed length adjustment, bytes (08 Table 8.6) -/
def METER.LEN_ADJ : Field := { base := 0x10006000, lsb := 120, width := 8, acc := .mem, reset := 0 }

/-- bytes from 16. Owner domain (08 Table 8.6) -/
def METER.DOMAIN : Field := { base := 0x10006000, lsb := 128, width := 12, acc := .mem, reset := 0 }

/-- bytes from 20. Tc, 1/256 byte (08 Table 8.6) -/
def METER.TC_TOKENS : Field := { base := 0x10006000, lsb := 160, width := 32, acc := .mem, reset := 0 }

/-- bytes from 24. Tp, 1/256 byte (08 Table 8.6) -/
def METER.TP_TOKENS : Field := { base := 0x10006000, lsb := 192, width := 32, acc := .mem, reset := 0 }

/-- bytes from 28. Nanosecond count of the last update (08 Table 8.6) -/
def METER.LAST : Field := { base := 0x10006000, lsb := 224, width := 32, acc := .mem, reset := 0 }

/-- The fields of METER (08 Table 8.6), 32 bytes. -/
def METER.fields : List Field := [METER.CIR, METER.PIR, METER.CBS, METER.AWARE, METER.RED_DROP, METER.PBS, METER.LEN_ADJ, METER.DOMAIN, METER.TC_TOKENS, METER.TP_TOKENS, METER.LAST]

/-- bytes from 0. Owner domain (10 Table 10.1) -/
def QUEUE.DOMAIN : Field := { base := 0x10007000, lsb := 0, width := 12, acc := .mem, reset := 0, perImage := true }

/-- bytes from 2. Parent node (10 Table 10.1) -/
def QUEUE.PARENT : Field := { base := 0x10007000, lsb := 16, width := 14, acc := .mem, reset := 0, perImage := true }

/-- bytes from 4. Input at the parent (10 Table 10.1) -/
def QUEUE.INPUT : Field := { base := 0x10007000, lsb := 32, width := 5, acc := .mem, reset := 0, perImage := true }

/-- bytes from 5. Upstream queue (10 Table 10.1) -/
def QUEUE.UPSTREAM : Field := { base := 0x10007000, lsb := 40, width := 1, acc := .mem, reset := 0, perImage := true }

/-- bytes from 5. Low-delay queue (10 Table 10.1) -/
def QUEUE.CUT_THROUGH : Field := { base := 0x10007000, lsb := 41, width := 1, acc := .mem, reset := 0, perImage := true }

/-- bytes from 8. Queue enabled (10 Table 10.1) -/
def QUEUE.ENABLE : Field := { base := 0x10007000, lsb := 64, width := 1, acc := .mem, reset := 0, perImage := true }

/-- bytes from 8. Sends in gate windows only (10 Table 10.1) -/
def QUEUE.GATED : Field := { base := 0x10007000, lsb := 65, width := 1, acc := .mem, reset := 0, perImage := true }

/-- bytes from 8. Frames may be held in Felt (10 Table 10.1) -/
def QUEUE.HOLD : Field := { base := 0x10007000, lsb := 66, width := 1, acc := .mem, reset := 0, perImage := true }

/-- bytes from 9. Die-local gate list (10 Table 10.1) -/
def QUEUE.GATE_LIST : Field := { base := 0x10007000, lsb := 72, width := 8, acc := .mem, reset := 0, perImage := true }

/-- bytes from 10. Gate (10 Table 10.1) -/
def QUEUE.GATE : Field := { base := 0x10007000, lsb := 80, width := 3, acc := .mem, reset := 0, perImage := true }

/-- bytes from 11. Yellow limit, percent (10 Table 10.1) -/
def QUEUE.YELLOW_PCT : Field := { base := 0x10007000, lsb := 88, width := 8, acc := .mem, reset := 0, perImage := true }

/-- bytes from 12. Red limit, percent (10 Table 10.1) -/
def QUEUE.RED_PCT : Field := { base := 0x10007000, lsb := 96, width := 8, acc := .mem, reset := 0, perImage := true }

/-- bytes from 14. 1 to 4,096 (10 Table 10.1) -/
def QUEUE.WEIGHT : Field := { base := 0x10007000, lsb := 112, width := 16, acc := .mem, reset := 0, perImage := true }

/-- bytes from 16. Green limit, cells (10 Table 10.1) -/
def QUEUE.MAX_CELLS : Field := { base := 0x10007000, lsb := 128, width := 24, acc := .mem, reset := 0, perImage := true }

/-- bytes from 20. kbit/s, 0 unshaped (10 Table 10.1) -/
def QUEUE.SHAPE_RATE : Field := { base := 0x10007000, lsb := 160, width := 32, acc := .mem, reset := 0, perImage := true }

/-- bytes from 24. bytes (10 Table 10.1) -/
def QUEUE.SHAPE_BURST : Field := { base := 0x10007000, lsb := 192, width := 24, acc := .mem, reset := 0, perImage := true }

/-- bytes from 28. On-die share, cells (10 Table 10.1) -/
def QUEUE.EXPRESS_CELLS : Field := { base := 0x10007000, lsb := 224, width := 16, acc := .mem, reset := 0, perImage := true }

/-- bytes from 32. Cells held (10 Table 10.1) -/
def QUEUE.CELLS : Field := { base := 0x10007000, lsb := 256, width := 24, acc := .mem, reset := 0 }

/-- bytes from 36. Frames held (10 Table 10.1) -/
def QUEUE.FRAMES : Field := { base := 0x10007000, lsb := 288, width := 32, acc := .mem, reset := 0 }

/-- bytes from 40. Signed shaper tokens, 1/256 byte (10 Table 10.1) -/
def QUEUE.TOKENS : Field := { base := 0x10007000, lsb := 320, width := 32, acc := .mem, reset := 0 }

/-- bytes from 44. Nanosecond count of the last shaper update (10 Table 10.1) -/
def QUEUE.LAST : Field := { base := 0x10007000, lsb := 352, width := 32, acc := .mem, reset := 0 }

/-- bytes from 48. Finish tag of the head frame (10 Table 10.1) -/
def QUEUE.TAG : Field := { base := 0x10007000, lsb := 384, width := 48, acc := .mem, reset := 0 }

/-- bytes from 54. On-die cells held (10 Table 10.1) -/
def QUEUE.EXPRESS_USED : Field := { base := 0x10007000, lsb := 432, width := 16, acc := .mem, reset := 0 }

/-- The fields of QUEUE (10 Table 10.1), 64 bytes. -/
def QUEUE.fields : List Field := [QUEUE.DOMAIN, QUEUE.PARENT, QUEUE.INPUT, QUEUE.UPSTREAM, QUEUE.CUT_THROUGH, QUEUE.ENABLE, QUEUE.GATED, QUEUE.HOLD, QUEUE.GATE_LIST, QUEUE.GATE, QUEUE.YELLOW_PCT, QUEUE.RED_PCT, QUEUE.WEIGHT, QUEUE.MAX_CELLS, QUEUE.SHAPE_RATE, QUEUE.SHAPE_BURST, QUEUE.EXPRESS_CELLS, QUEUE.CELLS, QUEUE.FRAMES, QUEUE.TOKENS, QUEUE.LAST, QUEUE.TAG, QUEUE.EXPRESS_USED]

/-- bytes from 0. Parent node (10 Table 10.4) -/
def NODE.PARENT : Field := { base := 0x10008000, lsb := 0, width := 14, acc := .mem, reset := 0, perImage := true }

/-- bytes from 2. Input at the parent (10 Table 10.4) -/
def NODE.INPUT : Field := { base := 0x10008000, lsb := 16, width := 5, acc := .mem, reset := 0, perImage := true }

/-- bytes from 3. Upstream node (10 Table 10.4) -/
def NODE.UPSTREAM : Field := { base := 0x10008000, lsb := 24, width := 1, acc := .mem, reset := 0, perImage := true }

/-- bytes from 3. A port (10 Table 10.4) -/
def NODE.PORT : Field := { base := 0x10008000, lsb := 25, width := 1, acc := .mem, reset := 0, perImage := true }

/-- bytes from 4. Tree and set, or package fabric lane (10 Table 10.4) -/
def NODE.PORT_ID : Field := { base := 0x10008000, lsb := 32, width := 5, acc := .mem, reset := 0, perImage := true }

/-- bytes from 8. Node enabled (10 Table 10.4) -/
def NODE.ENABLE : Field := { base := 0x10008000, lsb := 64, width := 1, acc := .mem, reset := 0, perImage := true }

/-- bytes from 10. 1 to 4,096 (10 Table 10.4) -/
def NODE.WEIGHT : Field := { base := 0x10008000, lsb := 80, width := 16, acc := .mem, reset := 0, perImage := true }

/-- bytes from 12. kbit/s, 0 unshaped (10 Table 10.4) -/
def NODE.SHAPE_RATE : Field := { base := 0x10008000, lsb := 96, width := 32, acc := .mem, reset := 0, perImage := true }

/-- bytes from 16. bytes (10 Table 10.4) -/
def NODE.SHAPE_BURST : Field := { base := 0x10008000, lsb := 128, width := 24, acc := .mem, reset := 0, perImage := true }

/-- bytes from 20. Bytes added per frame on the line (10 Table 10.4) -/
def NODE.GATE_OVERHEAD : Field := { base := 0x10008000, lsb := 160, width := 16, acc := .mem, reset := 0, perImage := true }

/-- bytes from 24. Least time to the receptacle (10 Table 10.4) -/
def NODE.LEAD_MIN_NS : Field := { base := 0x10008000, lsb := 192, width := 32, acc := .mem, reset := 0, perImage := true }

/-- bytes from 28. Greatest such time (10 Table 10.4) -/
def NODE.LEAD_MAX_NS : Field := { base := 0x10008000, lsb := 224, width := 32, acc := .mem, reset := 0, perImage := true }

/-- bytes from 32. Signed shaper tokens, 1/256 byte (10 Table 10.4) -/
def NODE.TOKENS : Field := { base := 0x10008000, lsb := 256, width := 32, acc := .mem, reset := 0 }

/-- bytes from 36. Nanosecond count of the last shaper update (10 Table 10.4) -/
def NODE.LAST : Field := { base := 0x10008000, lsb := 288, width := 32, acc := .mem, reset := 0 }

/-- bytes from 40. Finish tag of the frame offered to the parent (10 Table 10.4) -/
def NODE.TAG : Field := { base := 0x10008000, lsb := 320, width := 48, acc := .mem, reset := 0 }

/-- bytes from 46. Virtual time of the weighted group (10 Table 10.4) -/
def NODE.VT : Field := { base := 0x10008000, lsb := 368, width := 48, acc := .mem, reset := 0 }

/-- The fields of NODE (10 Table 10.4), 64 bytes. -/
def NODE.fields : List Field := [NODE.PARENT, NODE.INPUT, NODE.UPSTREAM, NODE.PORT, NODE.PORT_ID, NODE.ENABLE, NODE.WEIGHT, NODE.SHAPE_RATE, NODE.SHAPE_BURST, NODE.GATE_OVERHEAD, NODE.LEAD_MIN_NS, NODE.LEAD_MAX_NS, NODE.TOKENS, NODE.LAST, NODE.TAG, NODE.VT]

/-- bytes from 0. Context in use (11 Table 11.3) -/
def LPORT.VALID : Field := { base := 0x10009000, lsb := 0, width := 1, acc := .mem, reset := 0, perImage := true }

/-- bytes from 0. 0 50G-class, 1 XGS-PON (11 Table 11.3) -/
def LPORT.SET : Field := { base := 0x10009000, lsb := 1, width := 1, acc := .mem, reset := 0, perImage := true }

/-- bytes from 0. 0 unicast, 1 multicast, 2 circuit (11 Table 11.3) -/
def LPORT.KIND : Field := { base := 0x10009000, lsb := 2, width := 2, acc := .mem, reset := 0, perImage := true }

/-- bytes from 0. Initial ENCRYPT (11 Table 11.3) -/
def LPORT.ENCRYPT : Field := { base := 0x10009000, lsb := 4, width := 1, acc := .mem, reset := 0, perImage := true }

/-- bytes from 1. Terminal index (11 Table 11.3) -/
def LPORT.TERMINAL : Field := { base := 0x10009000, lsb := 8, width := 8, acc := .mem, reset := 0, perImage := true }

/-- bytes from 2. Customer domain (11 Table 11.3) -/
def LPORT.DOMAIN : Field := { base := 0x10009000, lsb := 16, width := 12, acc := .mem, reset := 0, perImage := true }

/-- bytes from 4. XGEM Port-ID (11 Table 11.3) -/
def LPORT.XGEM_PORT_ID : Field := { base := 0x10009000, lsb := 32, width := 16, acc := .mem, reset := 0, perImage := true }

/-- bytes from 6. Upstream parse profile (11 Table 11.3) -/
def LPORT.PARSE : Field := { base := 0x10009000, lsb := 48, width := 3, acc := .mem, reset := 0, perImage := true }

/-- bytes from 7. Package fabric lane of upstream frames (11 Table 11.3) -/
def LPORT.UPLINK : Field := { base := 0x10009000, lsb := 56, width := 5, acc := .mem, reset := 0, perImage := true }

/-- bytes from 8. Service of upstream frames (11 Table 11.3) -/
def LPORT.SERVICE : Field := { base := 0x10009000, lsb := 64, width := 20, acc := .mem, reset := 0, perImage := true }

/-- bytes from 12. Bridge of upstream frames (11 Table 11.3) -/
def LPORT.BRIDGE : Field := { base := 0x10009000, lsb := 96, width := 16, acc := .mem, reset := 0, perImage := true }

/-- bytes from 14. Downstream queue base (11 Table 11.3) -/
def LPORT.DS_QUEUE : Field := { base := 0x10009000, lsb := 112, width := 15, acc := .mem, reset := 0, perImage := true }

/-- bytes from 16. Upstream queue base (11 Table 11.3) -/
def LPORT.US_QUEUE : Field := { base := 0x10009000, lsb := 128, width := 13, acc := .mem, reset := 0, perImage := true }

/-- bytes from 18. Downstream queue count (11 Table 11.3) -/
def LPORT.DS_COUNT : Field := { base := 0x10009000, lsb := 144, width := 4, acc := .mem, reset := 0, perImage := true }

/-- bytes from 18. Upstream queue count (11 Table 11.3) -/
def LPORT.US_COUNT : Field := { base := 0x10009000, lsb := 148, width := 4, acc := .mem, reset := 0, perImage := true }

/-- bytes from 20. Initial key pair (11 Table 11.3) -/
def LPORT.KEY_PAIR : Field := { base := 0x10009000, lsb := 160, width := 12, acc := .mem, reset := 0, perImage := true }

/-- bytes from 22. Initial transmit secure channel (11 Table 11.3) -/
def LPORT.TX_SC : Field := { base := 0x10009000, lsb := 176, width := 14, acc := .mem, reset := 0, perImage := true }

/-- bytes from 24. Multicast key group (11 Table 11.3) -/
def LPORT.MC_GROUP : Field := { base := 0x10009000, lsb := 192, width := 12, acc := .mem, reset := 0, perImage := true }

/-- The fields of LPORT (11 Table 11.3), 32 bytes. -/
def LPORT.fields : List Field := [LPORT.VALID, LPORT.SET, LPORT.KIND, LPORT.ENCRYPT, LPORT.TERMINAL, LPORT.DOMAIN, LPORT.XGEM_PORT_ID, LPORT.PARSE, LPORT.UPLINK, LPORT.SERVICE, LPORT.BRIDGE, LPORT.DS_QUEUE, LPORT.US_QUEUE, LPORT.DS_COUNT, LPORT.US_COUNT, LPORT.KEY_PAIR, LPORT.TX_SC, LPORT.MC_GROUP]

/-- bytes from 40. 0 Twill AES-256-GCM, 1 AES-128-CTR (11 Table 11.5) -/
def KEYSLOT.SUITE : Field := { base := 0x1000a000, lsb := 320, width := 8, acc := .mem, reset := 0 }

/-- bytes from 41. 0 EMPTY, 1 LOADED, 2 ACTIVE, 3 EXPIRED (11 Table 11.5) -/
def KEYSLOT.STATE : Field := { base := 0x1000a000, lsb := 328, width := 8, acc := .mem, reset := 0 }

/-- bytes from 42. Owner domain (11 Table 11.5) -/
def KEYSLOT.DOMAIN : Field := { base := 0x1000a000, lsb := 336, width := 12, acc := .mem, reset := 0, perImage := true }

/-- bytes from 42. No partition entry covers the slot (11 Table 11.5) -/
def KEYSLOT.UNBOUND : Field := { base := 0x1000a000, lsb := 351, width := 1, acc := .mem, reset := 0, perImage := true }

/-- bytes from 44. Key life in frames (11 Table 11.5) -/
def KEYSLOT.LIMIT : Field := { base := 0x1000a000, lsb := 352, width := 32, acc := .mem, reset := 0 }

/-- bytes from 48. Frame at which the key became ACTIVE (11 Table 11.5) -/
def KEYSLOT.FIRST_FRAME : Field := { base := 0x1000a000, lsb := 384, width := 32, acc := .mem, reset := 0 }

/-- bytes from 52. Line ports transmitting with the slot (11 Table 11.5) -/
def KEYSLOT.USERS : Field := { base := 0x1000a000, lsb := 416, width := 32, acc := .mem, reset := 0 }

/-- bytes from 56. Tag failures (11 Table 11.5) -/
def KEYSLOT.TAG_FAIL : Field := { base := 0x1000a000, lsb := 448, width := 32, acc := .mem, reset := 0 }

/-- bytes from 60. Those after release of plaintext (11 Table 11.5) -/
def KEYSLOT.TAG_FAIL_CUT : Field := { base := 0x1000a000, lsb := 480, width := 32, acc := .mem, reset := 0 }

/-- The fields of KEYSLOT (11 Table 11.5), 64 bytes. -/
def KEYSLOT.fields : List Field := [KEYSLOT.SUITE, KEYSLOT.STATE, KEYSLOT.DOMAIN, KEYSLOT.UNBOUND, KEYSLOT.LIMIT, KEYSLOT.FIRST_FRAME, KEYSLOT.USERS, KEYSLOT.TAG_FAIL, KEYSLOT.TAG_FAIL_CUT]

/-- bytes from 0. Secure channel identifier (11 Table 11.8) -/
def MSC.SCI : Field := { base := 0x1000b000, lsb := 0, width := 64, acc := .mem, reset := 0 }

/-- bytes from 8. Channel in use (11 Table 11.8) -/
def MSC.VALID : Field := { base := 0x1000b000, lsb := 64, width := 1, acc := .mem, reset := 0 }

/-- bytes from 8. Transmit channel (11 Table 11.8) -/
def MSC.TRANSMIT : Field := { base := 0x1000b000, lsb := 65, width := 1, acc := .mem, reset := 0 }

/-- bytes from 8. Extended packet numbers (11 Table 11.8) -/
def MSC.XPN : Field := { base := 0x1000b000, lsb := 66, width := 1, acc := .mem, reset := 0 }

/-- bytes from 8. Replay protection (11 Table 11.8) -/
def MSC.REPLAY_EN : Field := { base := 0x1000b000, lsb := 67, width := 1, acc := .mem, reset := 0 }

/-- bytes from 8. Association that transmits (11 Table 11.8) -/
def MSC.TX_SA : Field := { base := 0x1000b000, lsb := 68, width := 1, acc := .mem, reset := 0 }

/-- bytes from 8. The other association is armed (11 Table 11.8) -/
def MSC.NEXT_ARMED : Field := { base := 0x1000b000, lsb := 69, width := 1, acc := .mem, reset := 0 }

/-- bytes from 9. Package fabric lane (11 Table 11.8) -/
def MSC.LANE : Field := { base := 0x1000b000, lsb := 72, width := 5, acc := .mem, reset := 0 }

/-- bytes from 10. Owner domain (11 Table 11.8) -/
def MSC.DOMAIN : Field := { base := 0x1000b000, lsb := 80, width := 12, acc := .mem, reset := 0, perImage := true }

/-- bytes from 10. No partition entry covers the channel (11 Table 11.8) -/
def MSC.UNBOUND : Field := { base := 0x1000b000, lsb := 95, width := 1, acc := .mem, reset := 0, perImage := true }

/-- bytes from 12. Replay window (11 Table 11.8) -/
def MSC.REPLAY_WINDOW : Field := { base := 0x1000b000, lsb := 96, width := 30, acc := .mem, reset := 0 }

/-- The fields of MSC (11 Table 11.8), 16 bytes. -/
def MSC.fields : List Field := [MSC.SCI, MSC.VALID, MSC.TRANSMIT, MSC.XPN, MSC.REPLAY_EN, MSC.TX_SA, MSC.NEXT_ARMED, MSC.LANE, MSC.DOMAIN, MSC.UNBOUND, MSC.REPLAY_WINDOW]

/-- bytes from 0. Association number (11 Table 11.9) -/
def MSA.AN : Field := { base := 0x1000c000, lsb := 0, width := 2, acc := .mem, reset := 0 }

/-- bytes from 0. Association in use (11 Table 11.9) -/
def MSA.VALID : Field := { base := 0x1000c000, lsb := 2, width := 1, acc := .mem, reset := 0 }

/-- bytes from 0. R267 (11 Table 11.9) -/
def MSA.EXHAUSTED : Field := { base := 0x1000c000, lsb := 3, width := 1, acc := .mem, reset := 0 }

/-- bytes from 0. R267 (11 Table 11.9) -/
def MSA.WARN : Field := { base := 0x1000c000, lsb := 4, width := 1, acc := .mem, reset := 0 }

/-- bytes from 0. R268 (11 Table 11.9) -/
def MSA.MARK_WAIT : Field := { base := 0x1000c000, lsb := 5, width := 1, acc := .mem, reset := 0 }

/-- bytes from 1. 3 or 4 (11 Table 11.9) -/
def MSA.SUITE : Field := { base := 0x1000c000, lsb := 8, width := 8, acc := .mem, reset := 0 }

/-- bytes from 4. As loaded (11 Table 11.9) -/
def MSA.SSCI : Field := { base := 0x1000c000, lsb := 32, width := 32, acc := .mem, reset := 0 }

/-- bytes from 8. Next PN, or lowest acceptable PN (11 Table 11.9) -/
def MSA.PN : Field := { base := 0x1000c000, lsb := 64, width := 64, acc := .mem, reset := 0 }

/-- bytes from 16. Committed high-water mark (11 Table 11.9) -/
def MSA.MARK : Field := { base := 0x1000c000, lsb := 128, width := 64, acc := .mem, reset := 0 }

/-- bytes from 24. MKA key identifier (11 Table 11.9) -/
def MSA.KI : Field := { base := 0x1000c000, lsb := 192, width := 128, acc := .mem, reset := 0 }

/-- bytes from 40. Tag failures (11 Table 11.9) -/
def MSA.TAG_FAIL : Field := { base := 0x1000c000, lsb := 320, width := 32, acc := .mem, reset := 0 }

/-- bytes from 44. Those after release of plaintext (11 Table 11.9) -/
def MSA.TAG_FAIL_CUT : Field := { base := 0x1000c000, lsb := 352, width := 32, acc := .mem, reset := 0 }

/-- bytes from 48. Replay drops (11 Table 11.9) -/
def MSA.REPLAY : Field := { base := 0x1000c000, lsb := 384, width := 32, acc := .mem, reset := 0 }

/-- The fields of MSA (11 Table 11.9), 64 bytes. -/
def MSA.fields : List Field := [MSA.AN, MSA.VALID, MSA.EXHAUSTED, MSA.WARN, MSA.MARK_WAIT, MSA.SUITE, MSA.SSCI, MSA.PN, MSA.MARK, MSA.KI, MSA.TAG_FAIL, MSA.TAG_FAIL_CUT, MSA.REPLAY]

/-- The registers of block PKG. -/
def regsPKG : List RegDesc := [PKG_IDENT.desc, PKG_SERIAL.desc, PKG_STATUS.desc, PKG_CMD.desc, PKG_PWR_STATUS.desc, PKG_PWR_CTRL.desc, PKG_DIE_CTRL.desc]

/-- The registers of block DMK. -/
def regsDMK : List RegDesc := [DMK_STATUS.desc, DMK_COMMAND.desc, DMK_TREE_STATE.desc]

/-- The registers of block SEC. -/
def regsSEC : List RegDesc := [SEC_LOCK.desc, SEC_FW_RULE.desc, SEC_FW_EVENT.desc, SEC_DBG_STATUS.desc, SEC_DBG_NONCE.desc, SEC_DBG_CRED.desc, SEC_DBG_SUBMIT.desc]

/-- The registers of block TIME. -/
def regsTIME : List RegDesc := [TIME_CTRL.desc, TIME_OFFSET.desc, TIME_MEAS.desc, TIME_NOW_LO.desc, TIME_NOW_HI.desc, TIME_STATUS.desc]

/-- The registers of block PEER. -/
def regsPEER : List RegDesc := [PEER_CTRL.desc, PEER_STATUS.desc, PEER_CMD.desc, PEER_TIME.desc, PEER_ELIM_CTRL.desc, PEER_TREE.desc, PEER_CNT.desc, PEER_HEALTH_SELF.desc, PEER_HEALTH_PARTNER.desc]

/-- The registers of block HOST. -/
def regsHOST : List RegDesc := [HOST_UNMAPPED.desc, HOST_BAR2_WIN.desc, HOST_DMA_BASE.desc, HOST_DMA_CTRL.desc, HOST_DMA_PTR.desc, HOST_DMA_STATUS.desc, HOST_MSIX_PBA.desc, HOST_MSIX_ADDR.desc, HOST_MSIX_CTRL.desc]

/-- The registers of block SNAP. -/
def regsSNAP : List RegDesc := [SNAP_TIME_S.desc, SNAP_TIME_NS.desc, SNAP_CTRL.desc]

/-- The registers of block SEG. -/
def regsSEG : List RegDesc := [SEG_IDENT.desc, SEG_FRAME_COUNT.desc, SEG_ORDER_APPLIED.desc, SEG_ORDER_STATUS.desc, SEG_SENTINEL.desc, SEG_TEMP.desc, SEG_GOV_CTRL.desc, SEG_GOV_STATUS.desc, SEG_POWER.desc]

/-- The registers of block IC. -/
def regsIC : List RegDesc := [IC_CTRL.desc, IC_HANDLER_BASE.desc, IC_CORE_STATUS.desc, IC_HOST_EOI.desc, IC_CNT.desc, IC_PENDING.desc, IC_GROUP.desc, IC_GROUP_STATUS.desc, IC_SRC.desc]

/-- The registers of block TWEED. -/
def regsTWEED : List RegDesc := [TWEED_CTRL.desc, TWEED_STATUS.desc, TWEED_MBOX_STATE.desc, TWEED_MBOX_DOORBELL.desc, TWEED_CNT.desc, TWEED_MBOX.desc]

/-- The registers of block TREE. -/
def regsTREE : List RegDesc := [TREE_OPT_CTRL.desc, TREE_OPT_STATUS.desc, TREE_OPT_DET.desc, TREE_OPT_EVENTS.desc, TREE_OPT_TX.desc, TREE_PAT_CTRL.desc, TREE_PAT_STATUS.desc, TREE_PAT_BITS.desc, TREE_PAT_USER.desc, TREE_INJ_CTRL.desc, TREE_FRM_CTRL.desc, TREE_FRM_STATUS.desc, TREE_FRM_PROFILE.desc, TREE_DEF_STATUS.desc, TREE_DEF_SUMMARY.desc, TREE_CNT_LATCH.desc, TREE_CNT.desc, TREE_RNG_CTRL.desc, TREE_RNG_CHF.desc, TREE_RNG_CMD.desc, TREE_RNG_STATUS.desc, TREE_RNG_DETECT.desc, TREE_RNG_CNT.desc, TREE_RX_TERM.desc, TREE_DEF_TERM.desc, TREE_RNG_TERM.desc, TREE_RNG_SN.desc, TREE_TCNT.desc]

/-- The registers of block GRANT. -/
def regsGRANT : List RegDesc := [GRANT_BUILD_STATUS.desc, GRANT_MAP_BASE.desc, GRANT_ACC_CTRL.desc, GRANT_ACC_DATA.desc, GRANT_RESV.desc, GRANT_RESV_STATUS.desc, GRANT_TREE_CTRL.desc, GRANT_TREE_STATUS.desc, GRANT_RX_PRESET.desc, GRANT_RX_EQ.desc, GRANT_CNT.desc]

/-- The registers of block CIRC. -/
def regsCIRC : List RegDesc := [CIRC_CTRL.desc, CIRC_ACC_CTRL.desc, CIRC_UNKNOWN.desc, CIRC_ACC_DATA.desc, CIRC_DEF.desc, CIRC_GROUP_STATUS.desc, CIRC_CNT.desc]

/-- The registers of block PARSE. -/
def regsPARSE : List RegDesc := [PARSE_CTRL.desc, PARSE_LAST_MAL.desc, PARSE_ENTRY.desc, PARSE_KEY_PROFILE.desc, PARSE_CNT.desc, PARSE_NODE.desc]

/-- The registers of block CLASS. -/
def regsCLASS : List RegDesc := [CLASS_CTRL.desc, CLASS_ACC_CTRL.desc, CLASS_STATUS.desc, CLASS_ACC_DATA.desc, CLASS_DEFAULT.desc, CLASS_METER_ACC_CTRL.desc, CLASS_METER_DATA.desc, CLASS_CNT.desc, CLASS_TREE_CNT.desc]

/-- The registers of block FWD. -/
def regsFWD : List RegDesc := [FWD_CTRL.desc, FWD_STATUS.desc, FWD_RING_BASE.desc, FWD_RING_CTRL.desc, FWD_CNT.desc, FWD_DOMAIN.desc]

/-- The registers of block TM. -/
def regsTM : List RegDesc := [TM_ACC_CTRL.desc, TM_BUF_STATUS.desc, TM_SAMPLE_CTRL.desc, TM_SAMPLE_BASE.desc, TM_ACC_DATA.desc, TM_CNT.desc, TM_DOMAIN.desc]

/-- The registers of block FELT. -/
def regsFELT : List RegDesc := [FELT_STATUS.desc, FELT_CNT.desc, FELT_PORT_CTRL.desc, FELT_PORT_STATUS.desc, FELT_DOMAIN.desc]

/-- The registers of block CIPH. -/
def regsCIPH : List RegDesc := [CIPH_CTRL.desc, CIPH_STATUS.desc, CIPH_KEY_CMD.desc, CIPH_KEY_DATA.desc, CIPH_TW_CMD.desc, CIPH_TW_DATA.desc, CIPH_MSEC_ACC_CTRL.desc, CIPH_MSEC_DATA.desc, CIPH_LANE.desc, CIPH_SEP_LAST.desc, CIPH_SEP_CNT.desc, CIPH_CNT.desc, CIPH_LP_BIND.desc]

/-- The registers of block MEM. -/
def regsMEM : List RegDesc := [MEM_CTRL.desc, MEM_STATUS.desc, MEM_CMD.desc, MEM_ECC_LAST.desc, MEM_SCRUB.desc, MEM_REGION.desc, MEM_CH_STATUS.desc, MEM_THROTTLE.desc, MEM_CNT.desc]

/-- The registers of block FAB. -/
def regsFAB : List RegDesc := [FAB_LANE_CTRL.desc, FAB_LANE_STATUS.desc, FAB_LANE_CNT.desc, FAB_DL_CTRL.desc, FAB_DL_STATUS.desc, FAB_DL_CNT.desc, FAB_PAT_CTRL.desc, FAB_PAT_STATUS.desc, FAB_TS_LO.desc, FAB_TS_HI.desc, FAB_TS_POP.desc]

/-- The registers of block PERF. -/
def regsPERF : List RegDesc := [PERF_CNT_ACC_CTRL.desc, PERF_CNT_ACC_DATA.desc, PERF_CNT_BASE.desc, PERF_SNAP_BASE.desc, PERF_TRACE_CTRL.desc, PERF_TRACE_RING.desc, PERF_TRACE_BASE.desc, PERF_BW_CTRL.desc, PERF_TELE_BASE.desc, PERF_TELE_STATUS.desc, PERF_LAG.desc, PERF_CNT.desc, PERF_BW.desc, PERF_BW_RATE.desc]

/-- Every register of the part (Tables 17.2, 17.3). -/
def allRegs : List RegDesc :=
  regsPKG ++ regsDMK ++ regsSEC ++ regsTIME ++ regsPEER ++ regsHOST ++ regsSNAP ++ regsSEG ++ regsIC ++ regsTWEED ++ regsTREE ++ regsGRANT ++ regsCIRC ++ regsPARSE ++ regsCLASS ++ regsFWD ++ regsTM ++ regsFELT ++ regsCIPH ++ regsMEM ++ regsFAB ++ regsPERF

end Sys2Proof.Machine
end

