-- ==== Sys2Proof/Machine/State.lean ====
section
/-!
DEFINITION. The state of the part, as plain data; its fault and refusal reasons; and the state right after reset.
Register fields, contexts and records with a field layout live in the field table `regs`; what the spec describes without a field layout is typed below.
-/

namespace Sys2Proof.Machine

/-! ### The physical part -/

/-- The three members of the family (R2, Table 0.1). -/
inductive Member where
  | hjc7016 | hjc7032 | hjc7064
  deriving DecidableEq, Repr

/-- Segment dies of a member (Table 0.1). -/
def Member.dies : Member → Nat
  | .hjc7016 => 2
  | .hjc7032 => 4
  | .hjc7064 => 8

/-- MEMBER code of PKG_IDENT (Table 17.9). -/
def Member.code : Member → Nat
  | .hjc7016 => 0
  | .hjc7032 => 1
  | .hjc7064 => 2

/-- PCIe device ID of a member (Table 17.1). -/
def Member.pciDevice : Member → Nat
  | .hjc7016 => 0x7016
  | .hjc7032 => 0x7032
  | .hjc7064 => 0x7064

/-- What is fixed in one physical part: member, serial number, fuses and straps (R2, R44, R63, R391, Table 18.8). -/
structure Ident where
  member : Member := .hjc7032
  serial : BitVec 128 := 0
  ownerFused : Bool := false
  ownerEcHash : Nat := 0
  ownerPqHash : Nat := 0
  debugKeyHash : Nat := 0
  perstScope : Bool := true
  seniorStrap : Bool := true
  deriving DecidableEq, Repr

/-! ### MRAM, image and loader (chapter 2) -/

/-- One MRAM record (Table 2.6): header fields, payload bytes, CRC and commit word, each as it stands in MRAM; a step of R47 not yet done leaves zeros. -/
structure MRec where
  type : Nat
  key : Nat
  seq : Nat
  time : Nat
  payload : List Nat
  crc : Nat := 0
  commit : Nat := 0
  deriving DecidableEq, Repr

/-- The record area of one die (R49, R414): 16 pages, the write page, the copy-forward destination, the pages in the order
they became write page (oldest first), the next SEQ, and the records that wait for a free page. -/
structure MramDie where
  pages : List (List MRec) := List.replicate 16 []
  writePage : Nat := 0
  dest : Nat := 15
  age : List Nat := [0]
  seq : Nat := 0
  waiting : List MRec := []
  /-- Records asked for and not yet committed (R47, R268). -/
  todo : List MRec := []
  reserve : Bool := false
  deriving DecidableEq, Repr

/-- A running or latched per-tree re-weave (R55, R56). -/
structure Reweave where
  tree : Nat
  slot : Nat
  /-- The die whose copy of the slot is used (R46). -/
  source : Nat
  /-- True once the re-weave runs; false while it waits for the tree to reach ON or OFF (R56). -/
  running : Bool
  deriving DecidableEq, Repr

/-- The Damask loader (chapter 2). -/
structure Loader where
  /-- The slot of the open staging session (R58). -/
  staging : Option Nat := none
  /-- The bytes staged so far (R58). -/
  staged : Memory := []
  /-- Slots whose last STAGE_END returned OK (R58), bit 0 A, bit 1 B. -/
  checked : Nat := 0
  /-- EPOCH of the trial selection being woven (R52). -/
  trialEpoch : Nat := 0
  /-- The running or waiting per-tree re-weave (R56). -/
  reweave : Option Reweave := none
  /-- A TREE_REWEAVE latched for the same tree: its slot (R56). -/
  latchedReweave : Option Nat := none
  /-- A WEAVE command latched behind a re-weave (R56). -/
  latchedWeave : Bool := false
  /-- Bit d: DIE[d] has reported WOVEN (R383). -/
  woven : Nat := 0
  /-- A full weave: 0 none runs, 1 it waits for every unit to reach OFF (R53), 2 the dies load their sections. -/
  weave : Nat := 0
  /-- The die whose copy of the slot is woven (R46), and whether the weave was a command's; a fallback whose event is due (R51, R349). -/
  source : Nat := 0
  byCommand : Bool := false
  fellBack : Bool := false
  /-- The firewall event of the running second is in the event log (R374). -/
  fwLogged : Bool := false
  deriving DecidableEq, Repr

/-! ### Tweed and interrupts (chapter 15) -/

/-- One slot of the interrupt context store (R351): the interrupted context and its running priority and handler. -/
structure Saved where
  pc : Nat := 0
  status : Nat := 0
  r : List Nat := List.replicate 8 0
  running : Nat := 64
  current : Nat := 0
  srcDie : Nat := 0
  deriving DecidableEq, Repr

/-- Firmware-side state of one Tweed core (R343 to R347). -/
structure Tweed where
  /-- Posted mailbox slots, oldest first (R346). -/
  posted : List Nat := []
  /-- Frames in a row with no missed cut-off and a low load (R344). -/
  calm : Nat := 0
  /-- Overruns of each extension task in the current second (R343). -/
  overruns : List Nat := List.replicate 8 0
  /-- Generation of the local SRAM contents, raised at each load (R340, R345). -/
  gen : Nat := 0
  /-- The die of the source whose handler runs (CURRENT names only its number). -/
  srcDie : Nat := 0
  /-- EVENT_LOG records written in the current second (R374). -/
  logged : Nat := 0
  deriving DecidableEq, Repr

/-- A key rotation that the mailbox scheduled (R347), with what its message gave: the wrapped key, LIMIT and the key-encryption key. `orphan`: its
slot was freed by a host-interface reset, so that no reply is due (R393). -/
structure Rotation where
  slot : Nat
  tree : Nat
  linePort : Nat
  keySlot : Nat
  target : Nat
  wrapped : Nat
  limit : Nat
  kek : Nat
  loaded : Bool := false
  orphan : Bool := false
  deriving DecidableEq, Repr

/-! ### Counters and measurement (chapter 16) -/

/-- A statistics counter (R363, R366): its DRAM part, its delta, and whether its pre-T value has been written in the running snapshot. -/
structure Stat where
  dram : Nat := 0
  delta : Nat := 0
  copied : Bool := false
  deriving DecidableEq, Repr

/-- Measurement state of one die (chapter 16). -/
structure Perf where
  /-- Records lost since the last trace record written (R369). -/
  gap : Bool := false
  traceSeq : Nat := 0
  /-- Sentinel extremes and faults of the running millisecond (R373). -/
  msMin : Nat := 65535
  msMax : Nat := 0
  msFault : Bool := false
  /-- A die that began the snapshot's epoch and has not finished its copy (R366). -/
  copying : Bool := false
  snapLost : Bool := false
  /-- SEQ of the next telemetry record (R373). -/
  teleNext : Nat := 0
  deriving DecidableEq, Repr

/-- The 12 V input and the pins of the package (R391, R400, R404). -/
structure Supply where
  /-- Readings in a row above 11.0 V, above ALARM_W, and below it (Table 18.1). -/
  voltGood : Nat := 0
  powerHigh : Nat := 0
  powerGood : Nat := 0
  /-- THERMTRIP# is held low: every regulator is off until 12 V is removed. -/
  thermtrip : Bool := false
  /-- PERST# is asserted. -/
  perst : Bool := false
  deriving DecidableEq, Repr

/-- Power and thermal state of one die (R402, R404). -/
structure Power where
  /-- Consecutive intervals without a Tweed request (R402). -/
  missed : Nat := 0
  /-- Consecutive intervals above the target by more than the hysteresis (R402). -/
  above : Nat := 0
  /-- The condition of the die's thermal trip still holds (Table 18.4, R413). -/
  tripHolds : Bool := false
  deriving DecidableEq, Repr

/-! ### Tree slices (chapters 3 to 6) -/

/-- A built container on its way to the slice (R172, R174): circuit, downstream frame, bytes, and the customer domain and line port of the circuit
when it was built. -/
structure CircOut where
  circuit : Nat
  frame : Nat
  bytes : List Nat
  domain : Nat
  port : Nat
  deriving DecidableEq, Repr

/-- A cut-through frame that the framer of a set has started and not ended: the frame, its bytes not yet sent, and how many of these have come into the
downstream boundary FIFO (R24, R25). -/
structure OpenFrame where
  frame : Frame
  rest : List Nat
  come : Nat
  deriving DecidableEq, Repr

/-- What the framer holds of the downstream frame being sent, until its line is complete (R91, R93): its number, the superframe count of its PSBd, the FS
header, and on a Twill set the frame stamp. -/
structure FrameHead where
  frame : Nat
  count : Nat
  header : List Nat
  stamp : Option Nat
  deriving DecidableEq, Repr

/-- A burst context in the shadow registers or active, with the learned state of its terminal as it was loaded (R80, R81): the gain code and the
thresholds used while the preamble is acquired. -/
structure Loaded where
  ctx : BurstCtx
  gain : Nat
  th : List Nat
  deriving DecidableEq, Repr

/-- Where a received burst lay in its upstream frame, for the residual (R124): symbols from the frame's start, whether it counts (VALID, and every codeword
decoded), the gain code, the measured means and the values of its symbols. -/
structure Span where
  first : Int
  stop : Int
  counts : Bool
  gain : Nat
  means : List LevelSum
  symbols : List Nat
  deriving DecidableEq, Repr

/-- One wavelength set of a tree slice. -/
structure SetSt where
  /-- The cut-through frame being sent (R25). -/
  sending : Option OpenFrame := none
  /-- Consecutive counted frames without and with a burst at the loss-of-signal power (R83). -/
  darkRun : Nat := 0
  litRun : Nat := 0
  /-- What the running upstream frame has seen: a counted burst, and one at the power (R83). -/
  counted : Bool := false
  lit : Bool := false
  rxLol : Bool := false
  txLol : Bool := false
  /-- Contexts that the grant engine keeps until the ring can take them (R163); the context ring, in START order; the shadow registers; and the active
  context (R78, R80). -/
  kept : List BurstCtx := []
  ring : List BurstCtx := []
  shadow : Option Loaded := none
  active : Option Loaded := none
  /-- End of the previous context, in symbols of 49.7664 GBd, and the frame it stood in (R79). -/
  prevEnd : Nat := 0
  prevFrame : Nat := 0
  /-- The upstream frame being received. -/
  upFrame : Nat := 0
  /-- The downstream frame being sent. -/
  dsFrame : Nat := 0
  /-- Downstream and upstream PLOAM rings, the messages sampled for the next frame, and whether its sample is taken (R94). -/
  ploamDown : List Ploam := []
  ploamUp : List Ploam := []
  sampled : List Ploam := []
  took : Bool := false
  /-- Maps built and not yet sent, oldest first (R22). -/
  maps : List Map := []
  /-- The downstream frame being sent: its head, its XGEM frames so far, what the injector does to it, each with MODE and place (R88), and the superframe count
  of the next PSBd (R93). -/
  head : Option FrameHead := none
  body : List (List Nat) := []
  flips : List (Bool × Bool × Nat) := []
  count : Nat := 0
  /-- What the ranging logic found in micro-windows and directed ranging grants, by terminal (R119, R130). -/
  ranged : List (Nat × RangeResult) := []
  /-- Bursts of the running upstream frame, and the half-chips of the last frames, newest first (R124, R125). -/
  spans : List Span := []
  chips : List (List HalfChip) := []
  /-- Circuit containers delivered for the next downstream frame (R171). -/
  containers : List CircOut := []
  deriving DecidableEq, Repr

/-- One tree slice. -/
structure TreeSt where
  /-- Started in test (R86). -/
  test : Bool := false
  /-- Bytes in the upstream boundary FIFO (R24). -/
  usFill : Nat := 0
  /-- The pattern generator, once it has started (R85); errors injected and not yet seen by a checker in loopback (R86). -/
  gen : Option PatGen := none
  loopErrors : Nat := 0
  /-- Calibration runs missed in a row (R74). -/
  calMissed : Nat := 0
  /-- The 10 ms after TX_MUTE clears (R107). -/
  muteTail : Bool := false
  /-- The tree has been dark since it was shut (R72). -/
  txShut : Bool := true
  /-- Protection of the tree as it took effect at its last start (Table 14.15). -/
  shared : Bool := false
  /-- Misses in a row of Chiffon_Params (R132). -/
  misses : Nat := 0
  /-- Detections whose code stays blocked: code, arrival and frame (R127). -/
  blocked : List (Nat × Nat × Nat) := []
  /-- The drifts of the first VALID bursts of a running calibration (R328); the sum and number of the drifts since the last offset update. -/
  calib : Option (List Int) := none
  driftSum : Int := 0
  driftCount : Nat := 0
  deriving DecidableEq, Repr

/-- What the slice and the ranging logic keep per terminal beside its registers. -/
structure TermSt where
  /-- Consecutive counted grants that did not end LOST, and that ended VALID (R105). -/
  lobOk : Nat := 0
  lodOk : Nat := 0
  /-- Consecutive VALID bursts beyond DRIFT_LIMIT, and within half of it (R105). -/
  dowBad : Nat := 0
  dowGood : Nat := 0
  /-- Drifts of the last VALID bursts, newest first, at most 16, and the upstream frame from which bursts count again (R136). -/
  drifts : List Int := []
  driftFrom : Option Nat := none
  /-- RATE of its last VALID burst, and a correction on its way to it, in Twill symbols (R136). -/
  rate : Nat := 0
  fix : Option Int := none
  /-- Instants, in ns of network time, of the rogue bursts of the last second, and of the re-ranging they led to (R138). -/
  rogueTimes : List Nat := []
  rogueAt : Option Nat := none
  /-- Found by Chiffon: the pending detection that found it, its upstream frame, and the micro-window's frame (R128, R134). -/
  detection : Nat := 0
  trainFrame : Nat := 0
  mwFrame : Nat := 0
  /-- Ranging grants tried so far (R119); misses in a row of each step (R132). -/
  attempts : Nat := 0
  misses : List (RngStep × Nat) := []
  /-- Admitted, with Assign_ONU-ID not yet sent (R135); a directed ranging grant to come (R119, R139). -/
  assignDue : Bool := false
  rangingDue : Bool := false
  /-- Round-trip delay in Twill symbols (R113). -/
  rtd : Nat := 0
  /-- When the final EqD was measured and when the serial number was found, in ns of network time (R134, R135). -/
  rangedAt : Nat := 0
  foundAt : Nat := 0
  /-- The last frame that granted it a PLOAM message (R154). -/
  ploamAt : Option Nat := none
  deriving DecidableEq, Repr

/-- What the grant engine and Tweed keep of an allocation beside its context: the units granted and the units found carrying data
since the last report, by frame (R148); the tallies of the running period (R148); whether a report has come; a context byte found damaged (R166);
the assignment last sent (terminal and Alloc-ID), the one waiting in the PLOAM ring, and those due (R415). -/
structure AllocSt where
  granted : List (Nat × Nat) := []
  used : List (Nat × Nat) := []
  tally : List (Nat × Nat) := []
  reported : Bool := false
  bad : Bool := false
  assigned : Option (Nat × Nat) := none
  sending : Option (Nat × Nat) := none
  assignDue : Bool := false
  deallocDue : Option (Nat × Nat) := none
  deriving DecidableEq, Repr

/-- A reservation for a frame of a set (R159), in order of acceptance. `silent` is the rest of a quiet window that began in an earlier
frame: its symbols from the frame's start. -/
structure Resv where
  frame : Nat
  kind : GrantKind
  onuId : Nat := 0
  units : Nat := 0
  profile : Nat := 0
  silent : Nat := 0
  /-- A quiet window of QUIET_FORCE: it waits for the first frame that has room for it (R118). -/
  forced : Bool := false
  deriving DecidableEq, Repr

/-! ### Circuits (chapter 7) -/

/-- What the circuit unit keeps of a circuit beside its context. The client side of a group (playout, packet assembly) is kept with its member 0. -/
structure CircSt where
  /-- Playout bits, oldest first, and F of the last frames, newest first (R172). -/
  playout : List Bool := []
  fills : List Nat := []
  /-- LOCAL_FAIL and REMOTE_FAIL of the last accepted packet (R182), packets accepted in order in a row, and container builds since the last
  accepted packet (CE_LOSS of Table 7.6). -/
  pktLocal : Bool := false
  pktRemote : Bool := false
  inOrder : Nat := 0
  quiet : Nat := 0
  /-- A container was decoded in the running upstream frame; one has come since ENABLE. -/
  got : Bool := false
  synced : Bool := false
  /-- Consecutive containers with and without CLIENT_FAIL, with and without REMOTE_FAIL; the last REMOTE_FAIL (Table 7.6, R182). -/
  cfOn : Nat := 0
  cfOff : Nat := 0
  rfOn : Nat := 0
  rfOff : Nat := 0
  remote : Bool := false
  /-- Bits assembled toward the next packet, and whether replacement bits are among them (R180, R182). -/
  pkt : List Bool := []
  pktFail : Bool := false
  /-- Where those bits lay (Table 14.6): of each group frame, its GSEQ, the position of the first bit taken from it, and that bit's place in `pkt`. -/
  pktMarks : List (Nat × Nat × Nat) := []
  /-- Packets that a standby keeps, with SEQ and the frame they were completed in; the last SEQ sent, here or by the partner (R333). -/
  kept : List (Nat × Nat × List Nat) := []
  seqLast : Nat := 0
  /-- The customer domain at ENABLE (R184). -/
  domain : Nat := 0
  /-- Containers that have come whole on the line port and wait to be demapped, with their upstream frame (R171, R176). -/
  boxes : List (Nat × List Nat) := []
  /-- Of a circuit that was disabled: the last frame whose map was built before; its containers are still demapped (R184). -/
  drain : Option Nat := none
  deriving DecidableEq, Repr

/-- A member's part of a group frame: the member, its frame of arrival, client bits, CLIENT_FAIL and REMOTE_FAIL. -/
structure MemberPart where
  member : Nat
  frame : Nat
  data : List Bool
  cf : Bool
  rf : Bool
  /-- Its cells in the circuit region: index in the die's stack and ciphertext (R178, R269). -/
  stored : List (Nat × List Nat) := []
  deriving DecidableEq, Repr

/-- A group frame held for its members (R178): GSEQ, the upstream frame of its first container, and the parts that have come. -/
structure GroupFrame where
  gseq : Nat
  first : Nat
  parts : List MemberPart
  deriving DecidableEq, Repr

/-- What a home die keeps of a group (R178, Table 7.6). -/
structure GrpSt where
  held : List GroupFrame := []
  synced : Bool := false
  missRun : Nat := 0
  wholeRun : Nat := 0
  lateRun : Nat := 0
  spreads : List Nat := []
  mloss : Bool := false
  dde : Bool := false
  deriving DecidableEq, Repr


/-! ### Classifier (chapter 8) -/

/-- A rule action (Table 8.4). -/
structure RuleAction where
  drop : Bool := false
  override : Bool := false
  anyDomain : Bool := false
  tcEn : Bool := false
  tc : Nat := 0
  meterEn : Bool := false
  countEn : Bool := false
  domain : Nat := 0
  meter : Nat := 0
  counter : Nat := 0
  deriving DecidableEq, Repr

/-- An exact rule: its 38-byte key and its action (R194). -/
structure ExactRule where
  key : List Nat
  action : RuleAction
  deriving DecidableEq, Repr

/-- A ternary rule: value and mask of 640 bits, key byte 0 most significant, and its action (R195). -/
structure TernRule where
  value : BitVec 640
  mask : BitVec 640
  action : RuleAction
  deriving DecidableEq, Repr

/-! ### Forwarding table (chapter 9) -/

/-- What an ordered table update does (R30, R214 to R221). -/
inductive UpdateOp where
  | learn (e : FwdEntry)
  | move (e : FwdEntry)
  | touch (e : FwdEntry)
  | ageBucket (b : Nat)
  | insert (e : FwdEntry) (expect : Option Nat)
  | replace (e : FwdEntry) (expect : Option Nat)
  | delete (e : FwdEntry) (expect : Option Nat)
  | lock (chan b1 : Nat) (b2 : Option Nat)
  | unlock (chan : Nat)
  | writeSlot (chan b slot : Nat) (e : FwdEntry) (expect : Option Nat)
  /-- Fields of FWD_CTRL or FWD_DOMAIN, with the domain and the values written. -/
  | ctrl (inst : Nat) (values : List (Field × Nat))
  /-- A circuit's label enters or leaves the label table of every die (R181). -/
  | label (label circuit : Nat) (on : Bool)
  deriving DecidableEq, Repr

/-- The request of a DMA channel that waits for its update: channel, and the request record's address for the write-back (R219). -/
structure UpdateReq where
  chan : Nat
  addr : Nat
  deriving DecidableEq, Repr

/-- A sequenced table update (R30): its number, the die that originated it, and the dies that have applied it. -/
structure Update where
  seq : Nat
  die : Nat
  op : UpdateOp
  req : Option UpdateReq := none
  timeS : Nat := 0
  timeNs : Nat := 0
  applied : Nat := 0
  /-- STATUS of the request so far (Table 9.4), and a TIMEOUT already returned (R31). -/
  status : Nat := 0
  timedOut : Bool := false
  deriving DecidableEq, Repr

/-- A table lock (R220): channel and buckets. -/
structure TableLock where
  chan : Nat
  buckets : List Nat
  deriving DecidableEq, Repr

/-! ### Traffic manager (chapter 10) -/

/-- What a queue's sample window holds so far, and what is kept of its head frame (R232, R236, R239). -/
structure QueueSt where
  peak : Nat := 0
  framesOut : Nat := 0
  sojournMax : Nat := 0
  sojournSum : Nat := 0
  gateWait : Nat := 0
  /-- The instant, in ns, from which the time that its gate holds the head frame is yet to be counted, and whether the gate has been seen to hold it (R236). -/
  headAt : Option Nat := none
  waited : Bool := false
  /-- Head frames that the queue has had: what tells one from the next. -/
  heads : Nat := 0
  deriving DecidableEq, Repr

/-- An upstream port's drain shaper on a die (R246): signed tokens in 1/256 byte and the instant of the last refill,
once for DRAIN_KBPS and once for the port's SHAPE_RATE. -/
structure DrainSt where
  tokens : Int := 0
  last : Nat := 0
  /-- The port's own rate over what leaves while DRAINING. -/
  outTokens : Int := 0
  outLast : Nat := 0
  deriving DecidableEq, Repr

/-! ### Cipher engine (chapter 11) -/

/-- A pending SWITCH of a line port (R260). `checked` once the check at the start of T - 1 passed. -/
structure KeySwitch where
  tree : Nat
  linePort : Nat
  target : Nat
  /-- Issued by the host through CIPH_KEY_CMD, else by Tweed. -/
  byHost : Bool := true
  checked : Bool := false
  /-- The trees whose line ports have moved already: each moves at its own frame T (R33). -/
  moved : List Nat := []
  deriving DecidableEq, Repr

/-- A CIPH_LP_BIND write that takes effect at the next frame boundary (R262, Table 11.12). -/
structure BindWrite where
  keyPair : Nat
  encrypt : Bool
  txSc : Nat
  deriving DecidableEq, Repr


/-! ### The fabric side -/

/-- What a fabric lane has received whole and not yet handed on: a frame's bytes, or a circuit packet of a circuit cell, with its ingress domain (R302). -/
structure RxReady where
  bytes : List Nat
  domain : Nat
  circuit : Bool := false
  deriving DecidableEq, Repr

/-- A frame that a Kolkan lane is putting together from its cells, per class (R299): payload so far, ingress domain, and its CTYPE. -/
structure RxPart where
  bytes : List Nat
  domain : Nat
  ctype : Nat
  deriving DecidableEq, Repr

/-- What a fabric lane keeps beside its registers. -/
structure LaneSt where
  /-- What the sender of a Kolkan lane keeps between blocks (R295, R296). -/
  tx : LaneTx := {}
  /-- Commas found in a row while unlocked, and missing in a row while locked (R297). -/
  commas : Nat := 0
  missing : Nat := 0
  /-- The last CAP block, how many identical ones came in a row, our SEEN and the partner's (R304). -/
  cap : Option Cap := none
  capRun : Nat := 0
  seen : Bool := false
  partnerSeen : Bool := false
  /-- Consecutive STATUS blocks that show a bad path, and a good one (R301). -/
  pathBad : Nat := 0
  pathGood : Nat := 0
  /-- Classes whose present wait for credit is counted already (R300). -/
  stalled : List Nat := []
  /-- Time transfer (R313): SEQ of the next TIME block, the TIME blocks sent and not answered (SEQ, departure in units of 2^-16 ns), the link delay, and SRC_VALID
  and MASTER of the partner's last TIME block. -/
  timeSeq : Nat := 0
  timeSent : List (Nat × Nat) := []
  delay : Option Int := none
  srcValid : Bool := false
  master : Bool := false
  deriving DecidableEq, Repr

/-- A circuit-emulation packet on its way to its circuit's home die (R181, Table 7.4). -/
structure CePkt where
  circuit : Nat
  domain : Nat
  localFail : Bool
  remoteFail : Bool
  seq : Nat
  ts : Nat
  payload : List Nat
  deriving DecidableEq, Repr

/-- A recovery entry of duplicate elimination (R332). -/
structure ElimEnt where
  stream : Nat
  top : Nat
  hist : Nat
  last : Nat
  deriving DecidableEq, Repr

/-- A transmit timestamp of a die (R314). -/
structure TxStamp where
  sec : Nat
  frac : Nat
  lane : Nat
  msg : PtpMsg
  deriving DecidableEq, Repr

/-! ### The stacked DRAM (chapter 12) -/

/-- A bank of a channel (R281): its close predictor, the row of its last access, and whether that row is open. -/
structure BankSt where
  pred : Nat := 2
  row : Option Nat := none
  isOpen : Bool := false
  deriving DecidableEq, Repr

/-- A channel: its banks by number, the activation counts of rows by bank and row (R284), the first row of the next refresh command, and the
requesters throttled on it. -/
structure ChanSt where
  banks : Tbl BankSt := []
  acts : Tbl Nat := []
  nextRow : Nat := 0
  throttled : List Nat := []
  /-- Read queue, write queue, and the requests delayed for want of an entry, oldest first; the channel drains its writes (R280). -/
  reads : List MemReq := []
  writes : List MemReq := []
  delayed : List MemReq := []
  draining : Bool := false
  /-- The last slot served an ordinary command (THROTTLED of Table 12.4). -/
  served : Bool := false
  /-- Cells that the patrol scrub has read (R287). -/
  scrubbed : Nat := 0
  /-- A retune waits for a forced refresh to end (Table 12.8). -/
  retuneDue : Bool := false
  /-- A retrain that the host asked for runs (R289). -/
  byHost : Bool := false
  deriving DecidableEq, Repr

/-- What the memory controller of a die keeps for its stack as a whole: the trees and lanes that start again after a SHUTDOWN (R283). -/
structure StackSt where
  trees : List Nat := []
  lanes : List Nat := []
  deriving DecidableEq, Repr

/-! ### Network time and the pair (chapters 13 and 14) -/

/-- A step of network time that waits for its trees (R311): the amount in units of 2^-16 ns, whether it acquires time, and the trees that start again. -/
structure PendingStep where
  amount : Int
  acquires : Bool
  trees : List Nat
  deriving DecidableEq, Repr

/-- The network-time unit (R310, R315): the last 8 offsets from the source, newest first, in units of 2^-16 ns; the last edge at 1PPS in, in the same
units of network time; and a step that waits. -/
structure Clock where
  meas : List Int := []
  edge : Option Nat := none
  step : Option PendingStep := none
  deriving DecidableEq, Repr

/-- The pair (chapter 14). -/
structure Pair where
  /-- The pair has formed; the digests agree (R326). -/
  formed : Bool := false
  agreed : Bool := false
  /-- The settle after a seize runs (R322). -/
  settling : Bool := false
  /-- The frame F of a RELEASE accepted here (R335). -/
  release : Option Nat := none
  /-- A standby became ACTIVE: it holds TAU, which moves toward zero (R328). -/
  tauHeld : Bool := false
  /-- Block count of what is sent; HEARTBEATs sent and not echoed: SEQ and departure, in units of 2^-8 ns (R325). -/
  seq : Nat := 0
  sent : List (Nat × Nat) := []
  /-- The last valid HEARTBEAT: its SEQ, its arrival in units of 2^-8 ns, and its ACTIVE bit. -/
  last : Option (Nat × Nat × Bool) := none
  /-- The last 8 values of the time difference, newest first, in units of 2^-8 ns (R325). -/
  taus : List Int := []
  /-- Frames in a row in which the partner serves more trees (R337); arrival of its last health report, in ns. -/
  degrade : Nat := 0
  healthAt : Option Nat := none
  /-- SHADOW_DIFF and SEQ_UNSURE over the last second (Table 14.9). -/
  shadowLast : Nat := 0
  unsureLast : Nat := 0
  /-- Frames whose map in force is a mirrored one: tree, set and frame (R329). -/
  mirrored : List (Nat × Nat × Nat) := []
  deriving DecidableEq, Repr

/-! ### The host side (chapters 16 and 17) -/

/-- A descriptor that a DMA channel has fetched and not yet completed (R387): KIND, FLAGS, host address and length; STATUS and DONE_LENGTH once it has
them, while an earlier descriptor holds its completion back. -/
structure DmaJob where
  kind : Nat
  flags : Nat
  addr : Nat
  length : Nat
  done : Option (Nat × Nat) := none
  deriving DecidableEq, Repr

/-- What configuration space sets (Table 17.1): D3hot, and PME enabled. No row of the operation table is a configuration access (log entry 40). -/
structure Pci where
  d3hot : Bool := false
  pmeEn : Bool := false
  deriving DecidableEq, Repr

/-- A snapshot armed or running (R365): its instant T. -/
structure Snap where
  sec : Nat := 0
  ns : Nat := 0
  deriving DecidableEq, Repr

/-! ### What leaves the part -/

/-- What the part sends or writes outside. -/
inductive Sent where
  | hostWrite (addr : Nat) (bytes : List Nat)
  | tableDone (chan addr status : Nat) (seq : Option Nat)
  /-- An XGEM frame on the tree: line port, Key Index, IV, LF, and what follows its header (R255); marked by an inverted tag or FCS (R29). -/
  | xgem (tree set linePort keyIndex iv : Nat) (lf : Bool) (data : List Nat)
  /-- A downstream frame of a set with a lit transmitter: its number, the 64-bit structures of its map, its PLOAM messages, and on a Twill set
  its 192-bit frame stamp (R94). -/
  | dsFrame (tree set frame : Nat) (structs : List Nat) (ploam : List Ploam) (stamp : Option Nat)
  /-- A downstream frame, or a frame's time of a test pattern, as it stands on the fibre: the level of every symbol (R69, R91). -/
  | line (tree set frame : Nat) (levels : List Int)
  | injected (u : PatUnit)
  | ethFrame (lane : Nat) (bytes : List Nat)
  | cell (lane header : Nat) (payload : List Nat)
  | abort (lane cls : Nat)
  /-- The levels of a codeword that a Kolkan lane sends (R296). -/
  | codeword (lane : Nat) (levels : List Int)
  /-- A Kolkan control block: the 128 payload bits, CRC included (R298). -/
  | control (lane block : Nat)
  /-- A PEER block and its data blocks, on the peer lane (R323). -/
  | peer (lane header : Nat) (data : List Nat)
  /-- An MSI-X message (R358): vector, address, data. -/
  | msix (vector addr data : Nat)
  /-- A pulse at 1PPS out, and the 12 bytes of ToD out (R315). -/
  | pps
  | tod (bytes : List Nat)
  /-- The data of a read, to who made it. -/
  | readData (bytes value : Nat)
  /-- An OMCI message on the OMCI channel of a terminal (Table 17.5). -/
  | omci (tree set terminal : Nat) (bytes : List Nat)
  deriving DecidableEq, Repr

/-! ### Outcomes -/

/-- Why a step may stop with a fault: for no reason. The spec answers every error of the part with a status, an event, a dropped access or a reset. -/
inductive Fault where
  deriving DecidableEq, Repr

/-- Why a step may be refused. -/
inductive Refusal where
  /-- The command has no meaning yet; raised by its arm of `exec` alone. Safe: no next state is claimed. No arm raises it. -/
  | notModelled (mnemonic : String)
  deriving DecidableEq, Repr

/-! ### The state -/

/-- The part: its registers and contexts field by field, what the chapters describe without a field layout, what has left it, and the commands that wait.
Keys of tables are a unit and an index within it; an unlisted key reads as the default that the accessor names. -/
structure State where
  /-- Member, serial number, fuses and straps. -/
  ident : Ident := {}
  /-- Every field of every register and context (Machine/Regs.lean), by field number and unit. -/
  regs : Tbl Nat := []
  /-- Live counts behind the shadow registers (R109), by field number and unit. -/
  live : Tbl Nat := []
  /-- The woven sections: type, and die or tree (R41, R53). -/
  sects : Tbl (List Nat) := []
  /-- Latched unit requests (R38, R413): 0 none, 1 disable, 2 enable. -/
  latches : Tbl Nat := []
  /-- States of the secure channels as units (R38, R265). -/
  chans : Tbl Nat := []
  loader : Loader := {}
  /-- The bytes of slots A and B of each die (R40, R58), and the check code of a slot that an MRAM scrub found damaged (R378). -/
  slots : Tbl Memory := []
  slotBad : Tbl Nat := []
  /-- The record area of each die (R47 to R49). -/
  mram : Tbl MramDie := []
  /-- Tweed cores: registers, interrupt context stores, firmware state, and scheduled rotations (R341 to R352). -/
  cores : Tbl CoreRegs := []
  ctxStore : Tbl (List Saved) := []
  tweed : Tbl Tweed := []
  rotations : List Rotation := []
  /-- Statistics counters (R363), and the trace region's contents as written by the part (R269, R368). -/
  stats : Tbl Stat := []
  dev : Tbl Memory := []
  perf : Tbl Perf := []
  /-- DRAM channels and stacks (chapter 12). -/
  channels : Tbl ChanSt := []
  dieStacks : Tbl StackSt := []
  clock : Clock := {}
  pair : Pair := {}
  snap : Snap := {}
  /-- Descriptors in flight on each DMA channel, oldest first (R387). -/
  dma : Tbl (List DmaJob) := []
  pci : Pci := {}
  power : Tbl Power := []
  supply : Supply := {}
  /-- Bytes of the running bandwidth window, by die and port (R370). -/
  bwAcc : Tbl Nat := []
  /-- Tree slices: sets, slices, terminals, allocations, reservations, and the rotation pointers of the builder's passes (R152). -/
  sets : Tbl SetSt := []
  trees : Tbl TreeSt := []
  terms : Tbl TermSt := []
  allocs : Tbl AllocSt := []
  resv : Tbl (List Resv) := []
  rot : Tbl Nat := []
  /-- Circuits and groups (chapter 7). -/
  circs : Tbl CircSt := []
  grps : Tbl GrpSt := []
  /-- The last bits that a pattern checker saw since it locked or lost lock, newest first, each with whether it was correct (R87). -/
  chkSeen : Tbl (List Bool) := []
  /-- Rules (R194, R195). -/
  exact : Tbl (Option ExactRule) := []
  tern : Tbl (Option TernRule) := []
  /-- Each die's copy of the forwarding table by slot, its cache by set (most recent first), and named counts that no register shows (R218, R222). -/
  fwd : Tbl FwdEntry := []
  cache : Tbl (List Nat) := []
  notes : Tbl Nat := []
  /-- The order of table updates (R30): those sequenced and not applied everywhere, those that a lock holds back, the last number, and the locks as
  sequenced and as applied on each die (R220). -/
  updates : List Update := []
  heldUpdates : List Update := []
  lastSeq : Nat := 0
  seqLocks : List TableLock := []
  dieLocks : Tbl (List TableLock) := []
  /-- The bucket that the ageing engine visits next (R217). -/
  ageAt : Nat := 0
  /-- TOUCH updates already sent in this visit, the second of the last QUOTA_FULL event of a domain, and the dies whose ring lost events (R212, R223). -/
  touchSent : List Key := []
  quotaSaid : Tbl Nat := []
  ringLost : Nat := 0
  /-- When PENDING of a gate list was set, in ns (R157). -/
  pendSince : Tbl Nat := []
  /-- Key material: slots, associations, salts, key-encryption keys; when a slot was loaded, in ns and one (R251, R261, R262);
  the association, and one, of each path's LOAD that waits for its mark record (R268). -/
  keys : Tbl (Option Nat) := []
  loadedAt : Tbl Nat := []
  /-- The root of each die from which the key pairs of its stack are derived, and one (R269). -/
  roots : Tbl Nat := []
  /-- Bindings in force until the next frame boundary, pending switches, XGEM indices of the frame, fragments held (their bytes, and whether one of them is
  marked), and the last frame boundary served on each tree, and one (R255, R257, R260). -/
  oldBind : Tbl (Option BindWrite) := []
  switches : List KeySwitch := []
  xgemIndex : Tbl Nat := []
  frags : Tbl (Option (List Nat × Bool)) := []
  keyFrame : Tbl Nat := []
  /-- Label table of each die (R181): circuit and one. -/
  labels : Tbl Nat := []
  /-- Traffic-manager queues, head first, and what is kept of them; Felt FIFOs and drain shapers of ports (chapter 10). -/
  queues : Tbl (List Frame) := []
  qstat : Tbl QueueSt := []
  /-- What each node below a port offers its parent: the queue and its head's number (R232). -/
  offers : Tbl (Option (Nat × Nat)) := []
  felt : Tbl (List Frame) := []
  drain : Tbl DrainSt := []
  /-- Frames before a die's classifier; frames on their way to a lane, by lane and die (R229, R266). -/
  inbox : Tbl (List Frame) := []
  laneOut : Tbl (List Frame) := []
  /-- Cells already sent of a class's frame (place 8: the die served last), transmit credits, credits owed, frames being put together and frames put
  together (R299 to R302). -/
  cellPos : Tbl Nat := []
  credit : Tbl Nat := []
  lanes : Tbl LaneSt := []
  owed : Tbl Nat := []
  rxPart : Tbl (Option RxPart) := []
  rxReady : Tbl (List RxReady) := []
  /-- OAM cells that wait for the host, oldest first (R302, R389). -/
  oam : List OamMsg := []
  /-- Replays in a row on a die link (R307). -/
  replays : Tbl Nat := []
  /-- Circuit-emulation packets that wait on a die (R181). -/
  ceWaiting : Tbl (List CePkt) := []
  /-- Recovery entries of duplicate elimination (R332), transmit timestamps (R314), and the second of the last event of a kind that is raised once a second. -/
  elim : Tbl (List ElimEnt) := []
  stamps : Tbl (List TxStamp) := []
  saidAt : Tbl Nat := []
  /-- Network time: seconds and units of 2^-16 ns (R309). -/
  netSec : Nat := 0
  netFrac : Nat := 0
  /-- The model's own: the number of free values used so far (log entry 3). -/
  uses : Nat := 0
  /-- The model's own: everything that has left the part, in order. -/
  outbox : List Sent := []
  /-- The commands that wait, first in, first out. -/
  pending : List Instr := []
  deriving DecidableEq, Repr

/-- Right after reset (R11, R390): every field at its reset value, nothing woven, MRAM empty, no die reported WOVEN, no network time, and no command
waiting. The member and its fuses are those of log entry 4. -/
def State.reset : State := {}

end Sys2Proof.Machine
end

