-- ==== Sys2Proof/Machine/Image.lean ====
section
/-!
DEFINITION. What the woven image sections give the machine: the value of every field that the image sets (R11, R42).
Sections whose byte layout the spec gives are read from their bytes; the others through `Config.imageField` (log entry 9).
-/

namespace Sys2Proof.Machine

/-- Byte `k` of a section. -/
def byteAt (b : List Nat) (k : Nat) : Nat := b.getD k 0

/-- `n` little-endian bytes of a section from byte `k`. -/
def leAt (b : List Nat) (k n : Nat) : Nat := leValue ((b.drop k).take n)

/-- The woven section of a type on a die, or on a package-wide tree for the tree-scoped types; empty when none is woven. -/
def State.sect (s : State) (type unit : Nat) : List Nat := s.sects.get ⟨type, unit⟩ []

/-- The key under which the package holds the fabric lane modes section that the last full weave took its device ID and time values from (R11, R293):
no die's power takes it away. -/
def packageType : Nat := 0x1007

/-- The fields of the package that the image sets (R293). -/
def packageField (f : Field) : Bool :=
  f.num == PKG_IDENT.DEVICE_ID.num || f.num == TIME_CTRL.SOURCE.num || f.num == TIME_CTRL.STEP_LIMIT_US.num

/-- The section type that a field of a register or context comes from, where its layout is the image compiler's: the parser graph (R186), the
traffic-manager shape (R231), the fabric lane modes (R293), the firmware, and for region bases and quotas the DRAM partition (log entry 9). -/
def sectionOf (base : Nat) : Nat :=
  if base = PARSE_NODE.desc.base || base = PARSE_ENTRY.desc.base || base = PARSE_KEY_PROFILE.desc.base then 2
  else if base = QUEUE.DOMAIN.base || base = NODE.PARENT.base || base = TM_DOMAIN.desc.base || base = FELT_DOMAIN.desc.base then 3
  else if base = FAB_LANE_STATUS.desc.base then 7
  else if base = TWEED_STATUS.desc.base then 9
  else 1

/-- A field whose place in its section the image compiler chooses (log entry 9): it depends on the bytes of that one section. Bits [63:16] of the
second word of a key profile are zero (R186). -/
def sectionField (b : List Nat) (f : Field) (i : Nat) : Nat :=
  let v := Config.imageField b f.num i % 2 ^ f.width
  if f.base = PARSE_KEY_PROFILE.desc.base && i % 2 = 1 then v % 2 ^ 16 else v

/-- Such a field as the woven section of a die gives it. -/
def State.imageFree (s : State) (d : Nat) (f : Field) (i : Nat) : Nat := sectionField (s.sect (sectionOf f.base) d) f i

/-- The DRAM partition entry of a KIND (Table 12.2): base and length in stripes. -/
def partitionOf (b : List Nat) (kind : Nat) : Nat × Nat :=
  match (List.range (leAt b 0 4)).find? fun k => byteAt b (4 + 16 * k) == kind with
  | some k => (leAt b (8 + 16 * k) 4, leAt b (12 + 16 * k) 4)
  | none => (0, 0)

/-- The domain that the key-slot partition gives slot or channel `x` of a die (Table 11.2); none where no entry covers it. -/
def partitionDomain (b : List Nat) (die kind x : Nat) : Option Nat :=
  let entry := fun k => 4 + 8 * k
  match (List.range (leAt b 0 4)).find? fun k =>
      byteAt b (entry k + 6) % 8 == die && byteAt b (entry k + 7) == kind
        && leAt b (entry k) 2 ≤ x && x < leAt b (entry k) 2 + leAt b (entry k + 2) 2 with
  | some k => some (leAt b (entry k + 4) 2 % 4096)
  | none => none

/-- A field of line-port context `p` of a tree line ports section (R253, Table 11.3). -/
def linePortField (b : List Nat) (p : Nat) (f : Field) : Nat :=
  if p < leAt b 0 4 then bits (leAt b (16 + 32 * p) 32) f.lsb f.width else 0

/-- Word `k` of the interrupt routing section: IC_CTRL, IC_HANDLER_BASE, every IC_SRC, every IC_GROUP (R349; log entry 10). -/
def routingWord (b : List Nat) (k : Nat) : Nat := leAt b (8 * k) 8

/-- The value the image gives a field of its interrupt routing section. -/
def routingField (b : List Nat) (f : Field) (i : Nat) : Nat :=
  let k :=
    if f.base = IC_CTRL.desc.base then 0
    else if f.base = IC_HANDLER_BASE.desc.base then 1
    else if f.base = IC_SRC.desc.base then 2 + i % 4096
    else 4098 + i % 256
  bits (routingWord b k) f.lsb f.width

/-- What the part itself fixes: its member, silicon and place (Tables 1.9, 17.9; log entry 4). -/
def State.identVal (s : State) (f : Field) (i : Nat) : Option Nat :=
  if f.num = PKG_IDENT.MEMBER.num then some s.ident.member.code
  else if f.num = PKG_IDENT.DIE_COUNT.num || f.num = SEG_IDENT.DIE_COUNT.num then some s.ident.member.dies
  else if f.num = PKG_IDENT.STEPPING.num then some Config.stepping.toNat
  else if f.num = PKG_IDENT.VENDOR.num then some Config.pciVendor.toNat
  else if f.num = PKG_IDENT.PCI_DEVICE.num then some s.ident.member.pciDevice
  else if f.num = PKG_SERIAL.SERIAL.num then some (bits s.ident.serial.toNat (64 * i) 64)
  else if f.num = SEG_IDENT.DIE_INDEX.num then some i
  else if f.num = PEER_STATUS.SENIOR.num then some (ofBool s.ident.seniorStrap)
  else none

/-- Channels of a die that are not retired: each holds one sixteenth of every region (R277, R290). -/
def State.channelsLeft (s : State) (d : Nat) : Nat :=
  ((List.range 16).filter fun c => !bitAt (s.regs.get ⟨MEM_STATUS.RETIRED.num, d⟩ 0) c).length

/-- The value the woven image gives a field; the field's reset value while nothing is woven (log entry 9). -/
def State.imageVal (s : State) (f : Field) (i : Nat) : Nat :=
  if let some v := s.identVal f i then v
  else if packageField f then
    match s.sect packageType 0 with
    | [] => f.reset
    | b => sectionField b f 0
  else if s.sects = [] then ofBool (f.num == KEYSLOT.UNBOUND.num || f.num == MSC.UNBOUND.num)
  else if f.base = LPORT.VALID.base then linePortField (s.sect 0x0102 (i / 4096)) (i % 4096) f
  else if f.base = CIPH_LP_BIND.desc.base then
    let g := if f.num = CIPH_LP_BIND.KEY_PAIR.num then LPORT.KEY_PAIR
      else if f.num = CIPH_LP_BIND.ENCRYPT.num then LPORT.ENCRYPT else LPORT.TX_SC
    linePortField (s.sect 0x0102 (i / 4096)) (i % 4096) g
  else if f.base = KEYSLOT.DOMAIN.base then
    let o := partitionDomain (s.sect 0x0005 (i / 8192)) (i / 8192) 0 (i % 8192)
    if f.num = KEYSLOT.DOMAIN.num then o.getD 0 else ofBool o.isNone
  else if f.base = MSC.DOMAIN.base then
    let o := partitionDomain (s.sect 0x0005 (i / 16384)) (i / 16384) 1 (i % 16384)
    if f.num = MSC.DOMAIN.num then o.getD 0 else ofBool o.isNone
  else if f.base = MEM_REGION.desc.base then
    let e := partitionOf (s.sect 0x0001 (i / 6)) (i % 6)
    if f.num = MEM_REGION.BASE.num then e.1 else e.2
  else if f.num = GRANT_MAP_BASE.OFFSET.num then 32768 * (partitionOf (s.sect 0x0001 i) 2).1 + 0x4000000
  else if f.num = PERF_CNT_BASE.OFFSET.num then 32768 * (partitionOf (s.sect 0x0001 i) 2).1 + 0x5000000
  else if f.num = TM_BUF_STATUS.BUF_CELLS.num then 8 * s.channelsLeft i * (partitionOf (s.sect 0x0001 i) 0).2
  else if f.num = FELT_STATUS.REGION_CELLS.num then 8 * s.channelsLeft i * (partitionOf (s.sect 0x0001 i) 1).2
  else if f.base = IC_CTRL.desc.base || f.base = IC_HANDLER_BASE.desc.base then routingField (s.sect 0x0006 i) f i
  else if f.base = IC_SRC.desc.base then routingField (s.sect 0x0006 (i / 4096)) f i
  else if f.base = IC_GROUP.desc.base then routingField (s.sect 0x0006 (i / 256)) f i
  else if f.base = QUEUE.DOMAIN.base then s.imageFree (i / 65536) f (i % 65536)
  else if f.base = NODE.PARENT.base then s.imageFree (i / 32768) f (i % 32768)
  else if f.base = PARSE_NODE.desc.base then s.imageFree (i / 2048) f (i % 2048)
  else if f.base = PARSE_ENTRY.desc.base then s.imageFree (i / 16) f (i % 16)
  else if f.base = PARSE_KEY_PROFILE.desc.base then s.imageFree (i / 32) f (i % 32)
  else if f.base = FWD_DOMAIN.desc.base || f.base = TM_DOMAIN.desc.base || f.base = FELT_DOMAIN.desc.base then
    s.imageFree (i / 4096) f (i % 4096)
  else if f.base = FAB_LANE_STATUS.desc.base then s.imageFree (i / 4) f (i % 4)
  else s.imageFree i f 0

end Sys2Proof.Machine
end

