-- ==== Sys2Proof/Machine/Ops.lean ====
section
/-!
DEFINITION. The named operations over State that every family of commands is built from:
fields, live counts, interrupt sources, firewall and unmapped events, units, free values, per-unit records, network time.
-/

namespace Sys2Proof.Machine

/-- What a command's meaning answers. -/
abbrev Result := Host.Outcome State Fault Refusal

/-! ### Fields of registers and contexts -/

/-- The value of field `f` of unit `i`; an unlisted field holds its reset value (R11). A Per image field is listed one above its
value, so that an unlisted one holds what the image sets. -/
def State.get (s : State) (f : Field) (i : Nat) : Nat :=
  if f.perImage then
    match s.regs.get ⟨f.num, i⟩ 0 with
    | 0 => s.imageVal f i % 2 ^ f.width
    | v + 1 => v
  else s.regs.get ⟨f.num, i⟩ f.reset

/-- What the field table lists for a field that nothing has written. -/
def Field.unlisted (f : Field) : Nat := if f.perImage then 0 else f.reset

/-- Field `f` of unit `i` set to `v`, cut to the field's width. -/
def State.put (f : Field) (i v : Nat) (s : State) : State :=
  { s with regs := s.regs.set ⟨f.num, i⟩ f.unlisted (v % 2 ^ f.width + if f.perImage then 1 else 0) }

/-- A one-bit field as a Boolean. -/
def State.flag (s : State) (f : Field) (i : Nat) : Bool := s.get f i == 1

/-- A one-bit field set or cleared. -/
def State.putFlag (f : Field) (i : Nat) (b : Bool) (s : State) : State := s.put f i (ofBool b)

/-- A saturating counter field raised by `n`. -/
def State.addSat (f : Field) (i n : Nat) (s : State) : State := s.put f i (satAdd f.width (s.get f i) n)

/-- A wrapping counter field raised by `n`. -/
def State.addWrap (f : Field) (i n : Nat) (s : State) : State := s.put f i (s.get f i + n)

/-- One bit of a field set. -/
def State.putBit (f : Field) (i k : Nat) (s : State) : State := s.put f i (setBit (s.get f i) k)

/-- Every unit of a field back to its reset value. -/
def State.clearField (f : Field) (s : State) : State := { s with regs := s.regs.filter fun e => e.1.n ≠ f.num }

/-- The fields of one unit back to their reset values. -/
def State.clearRec (fs : List Field) (i : Nat) (s : State) : State :=
  { s with regs := s.regs.filter fun e => !(e.1.i == i && fs.any fun f => f.num == e.1.n) }

/-- The fields of a context as one little-endian number, each at its place. -/
def State.packRec (s : State) (fs : List Field) (i : Nat) : Nat := (fs.map fun f => s.get f i * 2 ^ f.lsb).sum

/-- The fields of a context set from a number that spells its bytes. -/
def State.unpackRec (fs : List Field) (i v : Nat) (s : State) : State :=
  fs.foldl (fun s f => s.put f i (bits v f.lsb f.width)) s

/-! ### Live counts and shadow registers (R109, R110) -/

/-- The live count behind shadow register `c` of unit `i`. -/
def State.liveOf (s : State) (c : Field) (i : Nat) : Nat := s.live.get ⟨c.num, i⟩ 0

/-- The live count behind shadow register `c` raised by `n` (R109). -/
def State.bump (c : Field) (i n : Nat) (s : State) : State :=
  { s with live := s.live.set ⟨c.num, i⟩ 0 (s.liveOf c i + n) }

/-! ### Free values and what leaves the part -/

/-- The next free value (log entry 3). -/
def State.free (s : State) : Nat := Config.freeValue s.uses

/-- One free value used up. -/
def State.useFree (s : State) : State := { s with uses := s.uses + 1 }

/-- Something leaves the part. -/
def State.emit (o : Sent) (s : State) : State := { s with outbox := s.outbox ++ [o] }

/-- Several things leave the part, in their order. -/
def State.emitAll (os : List Sent) (s : State) : State := { s with outbox := s.outbox ++ os }

/-- What a lane keeps beside its registers. -/
def State.lane (s : State) (l : Nat) : LaneSt := s.lanes.get ⟨l, 0⟩ {}

/-- A change of it. -/
def State.modLane (l : Nat) (f : LaneSt → LaneSt) (s : State) : State := { s with lanes := s.lanes.set ⟨l, 0⟩ {} (f (s.lane l)) }

/-- Something leaves over a Kolkan lane in blocks, each with whether it is a control block: the codewords that carry it follow (R295, R296). -/
def State.onLane (l : Nat) (o : Sent) (blocks : List (Bool × Nat)) (s : State) : State :=
  let r := (s.lane l).tx.run blocks
  s.modLane l (fun x => { x with tx := r.2 }) |>.emit o |>.emitAll (r.1.map fun v => Sent.codeword l v)

/-- A control block leaves over a Kolkan lane. -/
def State.sendControl (l v : Nat) (s : State) : State := s.onLane l (.control l v) [(true, v)]

/-- Bytes as the payloads of data blocks: 16 bytes each, the first byte in bits [127:120], the last block padded with zeros (R299). -/
def dataBlocks (b : List Nat) : List (Bool × Nat) :=
  (List.range ((b.length + 15) / 16)).map fun k =>
    let x := (b.drop (16 * k)).take 16
    (false, (x ++ List.replicate (16 - x.length) 0).foldl (fun v y => v * 256 + y % 256) 0)

/-! ### Dies and their trees, lanes and links (R6, R16) -/

/-- Number of segment dies (Table 0.1). -/
def State.dies (s : State) : Nat := s.ident.member.dies

/-- The dies of the member. -/
def State.dieList (s : State) : List Nat := List.range s.dies

/-- The die of a package-wide tree (R6). -/
def dieOf (tree : Nat) : Nat := tree / 8

/-- DIE[d] has reported WOVEN (R383). -/
def State.isWoven (s : State) (d : Nat) : Bool := bitAt s.loader.woven d

/-- DIE[d] is present and powered (R405). -/
def State.diePresent (s : State) (d : Nat) : Bool := d < s.dies && s.get PKG_DIE_CTRL.STATE d == 2

/-- The lowest-indexed die that is ON (R405, R406). -/
def State.firstDie (s : State) : Nat := (s.dieList.find? fun d => s.diePresent d).getD 0

/-! ### Interrupt sources (R349, R354) -/

/-- The sources that Table 15.4 marks reserved. -/
def sourceReserved (src : Nat) : Bool :=
  if src < 1024 then 9 ≤ src % 128
  else if src < 2176 then false
  else if src < 2184 then 2179 < src
  else if src < 2200 then 2188 < src
  else if src < 2216 then !(src == 2200 || src == 2201 || src == 2208 || src == 2209 || src == 2210)
  else if src < 2232 then 2224 < src
  else if src < 2240 then 2236 < src
  else if src < 2272 then !(src < 2252 || (2256 ≤ src && src < 2264))
  else if src < 2280 then 2274 < src
  else if src < 2288 then 2284 < src
  else if src < 2304 then !(src < 2295 || src == 2296)
  else if src < 2432 then true
  else if src < 2560 then false
  else if src < 3840 then true
  else !([3840, 3841, 3842, 3848, 3849, 3856, 3857, 3864, 3865, 3866, 3867, 3872, 3880, 3888].contains src)

/-- The unit number of source `src` of DIE[d]. -/
def srcAt (d src : Nat) : Nat := d * 4096 + src

/-- The unit number of group `g` of DIE[d]. -/
def grpAt (d g : Nat) : Nat := d * 256 + g

/-- An event of source `src` of DIE[d]: PENDING is set; an enabled source of a group adds one to the group's count (R349, R354). -/
def State.raise (d src : Nat) (s : State) : State :=
  if sourceReserved src then s
  else
    let i := srcAt d src
    let s1 := s.put IC_SRC.PENDING i 1
    if s.flag IC_SRC.ENABLE i && s.flag IC_SRC.IN_GROUP i then
      s1.addSat IC_GROUP_STATUS.COUNT (grpAt d (s.get IC_SRC.GROUP i)) 1
    else s1

/-- A package source: an event in the controller of every die (R348). -/
def State.raisePkg (src : Nat) (s : State) : State := s.dieList.foldl (fun s d => s.raise d src) s

/-- Source `k` of tree slice `tree` (Table 15.4). -/
def State.raiseTree (tree k : Nat) (s : State) : State := s.raise (dieOf tree) (128 * (tree % 8) + k)

/-! ### Refused, locked and unmapped accesses (R9, R15, R61) -/

/-- A firewall event: SOURCE 0 host refused, 1 extension task refused, 2 debug refused, 3 LOCKED (Table 2.18). -/
def State.fwEvent (off bar : Nat) (write : Bool) (source : Nat) (s : State) : State :=
  s.put SEC_FW_EVENT.LAST_OFFSET 0 off |>.put SEC_FW_EVENT.LAST_BAR 0 bar |>.putFlag SEC_FW_EVENT.LAST_WRITE 0 write
    |>.put SEC_FW_EVENT.SOURCE 0 source |>.addSat SEC_FW_EVENT.COUNT 0 1 |>.raisePkg 3848

/-- An unmapped access (R9, R385, Table 17.12). -/
def State.unmapped (off bar : Nat) (write : Bool) (s : State) : State :=
  s.put HOST_UNMAPPED.LAST_OFFSET 0 (if bar = 1 then off / 16 else off) |>.putFlag HOST_UNMAPPED.LAST_WRITE 0 write
    |>.put HOST_UNMAPPED.LAST_BAR 0 bar |>.addSat HOST_UNMAPPED.COUNT 0 1 |>.raisePkg 3872

/-- The data of a read of `size` bytes that reaches nothing: all ones (R9). -/
def noData (size : Nat) : Nat := 256 ^ size - 1

/-! ### Per-unit records -/

/-- The wavelength set `k` (0 the 50G-class set, 1 the XGS-PON set) of a tree. -/
def State.setOf (s : State) (tree k : Nat) : SetSt := s.sets.get ⟨tree, k⟩ {}

/-- A change of one set. -/
def State.modSet (tree k : Nat) (f : SetSt → SetSt) (s : State) : State :=
  { s with sets := s.sets.set ⟨tree, k⟩ {} (f (s.setOf tree k)) }

/-- A tree slice's own state. -/
def State.tree (s : State) (t : Nat) : TreeSt := s.trees.get ⟨t, 0⟩ {}

/-- A change of one tree slice's state. -/
def State.modTree (t : Nat) (f : TreeSt → TreeSt) (s : State) : State :=
  { s with trees := s.trees.set ⟨t, 0⟩ {} (f (s.tree t)) }

/-- What the slice keeps of terminal `n` of a tree. -/
def State.term (s : State) (t n : Nat) : TermSt := s.terms.get ⟨t, n⟩ {}

/-- A change of one terminal's state. -/
def State.modTerm (t n : Nat) (f : TermSt → TermSt) (s : State) : State :=
  { s with terms := s.terms.set ⟨t, n⟩ {} (f (s.term t n)) }

/-- The unit number of terminal `n` of a tree in the terminal registers. -/
def termAt (t n : Nat) : Nat := t * 256 + n

/-- The Tweed firmware state of a die. -/
def State.tweedOf (s : State) (d : Nat) : Tweed := s.tweed.get ⟨d, 0⟩ {}

/-- A change of one Tweed core's firmware state. -/
def State.modTweed (d : Nat) (f : Tweed → Tweed) (s : State) : State :=
  { s with tweed := s.tweed.set ⟨d, 0⟩ {} (f (s.tweedOf d)) }

/-- The registers of a Tweed core. -/
def State.coreOf (s : State) (d : Nat) : CoreRegs := s.cores.get ⟨d, 0⟩ {}

/-- A change of a Tweed core's registers. -/
def State.modCore (d : Nat) (f : CoreRegs → CoreRegs) (s : State) : State :=
  { s with cores := s.cores.set ⟨d, 0⟩ {} (f (s.coreOf d)) }

/-- Measurement state of a die. -/
def State.perfOf (s : State) (d : Nat) : Perf := s.perf.get ⟨d, 0⟩ {}

/-- A change of a die's measurement state. -/
def State.modPerf (d : Nat) (f : Perf → Perf) (s : State) : State :=
  { s with perf := s.perf.set ⟨d, 0⟩ {} (f (s.perfOf d)) }

/-- Power state of a die. -/
def State.powerOf (s : State) (d : Nat) : Power := s.power.get ⟨d, 0⟩ {}

/-- A change of a die's power state. -/
def State.modPower (d : Nat) (f : Power → Power) (s : State) : State :=
  { s with power := s.power.set ⟨d, 0⟩ {} (f (s.powerOf d)) }

/-- Bytes 0 to 16 + P - 1 of a record: header and padded payload (Table 2.6). -/
def MRec.body (r : MRec) : List Nat :=
  leBytes 2 r.type ++ leBytes 2 r.payload.length ++ leBytes 4 r.seq ++ leBytes 4 r.time ++ leBytes 4 r.key ++ r.payload
    ++ List.replicate ((8 - r.payload.length % 8) % 8) 0

/-- The CRC of a record matches (R47). -/
def MRec.crcOk (r : MRec) : Bool := r.crc == crc32c r.body

/-- The commit word that a record's SEQ asks for (R47). -/
def MRec.commitWord (r : MRec) : Nat := 0x5AC396E1 * 2 ^ 32 + r.seq

/-- The commit word of a record is valid (R47). -/
def MRec.committed (r : MRec) : Bool := r.commit == r.commitWord

/-- A record after the first `k` steps of R47: header, padded payload, CRC, commit word. -/
def MRec.written (k : Nat) (r : MRec) : MRec :=
  { r with payload := if k < 2 then List.replicate r.payload.length 0 else r.payload
           crc := if k < 3 then 0 else crc32c r.body
           commit := if k < 4 then 0 else r.commitWord }

/-- The record area of a die. -/
def State.mramOf (s : State) (d : Nat) : MramDie := s.mram.get ⟨d, 0⟩ {}

/-- A change of a die's record area. -/
def State.modMram (d : Nat) (f : MramDie → MramDie) (s : State) : State :=
  { s with mram := s.mram.set ⟨d, 0⟩ {} (f (s.mramOf d)) }

/-- A change of the loader. -/
def State.modLoader (f : Loader → Loader) (s : State) : State := { s with loader := f s.loader }

/-- The value of statistics counter `c` of DIE[d], its DRAM part and its delta taken as one (R364). -/
def State.statOf (s : State) (d c : Nat) : Stat := s.stats.get ⟨d, c⟩ {}

/-- A change of one statistics counter. -/
def State.modStat (d c : Nat) (f : Stat → Stat) (s : State) : State :=
  { s with stats := s.stats.set ⟨d, c⟩ {} (f (s.statOf d c)) }

/-! ### Network time and the frame count (R32) -/

/-- Nanoseconds of network time. -/
def State.timeNs (s : State) : Nat := s.netFrac / 2 ^ 16

/-- Network time in nanoseconds since its zero. -/
def State.nowNs (s : State) : Nat := s.netSec * 10 ^ 9 + s.timeNs

/-- The package frame count of a network time of `sec` seconds and `ns` nanoseconds (R32). -/
def frameCount (sec ns : Nat) : Nat := (sec * 8000 + ns / 125000) % 2 ^ 32

/-- The package frame count (R32). -/
def State.frame (s : State) : Nat := frameCount s.netSec s.timeNs

/-- Network time is valid. -/
def State.timeValid (s : State) : Bool := s.flag TIME_STATUS.VALID 0

/-- Network time moves on to `sec` seconds and `frac` units of 2^-16 ns (log entry 7). -/
def State.setTime (sec frac : Nat) (s : State) : State := { s with netSec := sec % 2 ^ 48, netFrac := frac }

/-- How a request naming target frame `t` is judged against the frame count (R33). -/
inductive FrameCheck where
  | ok | late | far
  deriving DecidableEq, Repr

/-- R33: D = (T − FRAME) mod 2^32; D of 0, 1 or 2^31 and above is LATE, 80,001 to 2^31 − 1 is FAR; LATE while time is not valid. -/
def State.checkFrame (s : State) (t : Nat) : FrameCheck :=
  let d := wrapSub 32 t s.frame
  if !s.timeValid || d < 2 || 2 ^ 31 ≤ d then .late else if 80000 < d then .far else .ok

/-! ### Units (R38) -/

/-- The two-bit state of a unit (R38): 0 OFF, 1 STARTING, 2 ON, 3 SHUTTING. -/
def State.unitState (s : State) (u : UnitId) : Nat :=
  match u with
  | .tree t => s.get DMK_TREE_STATE.STATE t
  | .lane l => s.get FAB_LANE_STATUS.STATE l
  | .dieLink k => s.get FAB_DL_STATUS.STATE k
  | .channel c => s.chans.get ⟨c, 0⟩ 0
  | .die d => s.get PKG_DIE_CTRL.STATE d

/-- A unit's state set; a tree's change raises STATE of its slice (Table 15.4). -/
def State.setUnit (u : UnitId) (v : Nat) (s : State) : State :=
  match u with
  | .tree t => if s.get DMK_TREE_STATE.STATE t = v % 4 then s else s.put DMK_TREE_STATE.STATE t v |>.raiseTree t 8
  | .lane l => s.put FAB_LANE_STATUS.STATE l v
  | .dieLink k => s.put FAB_DL_STATUS.STATE k v
  | .channel c => { s with chans := s.chans.set ⟨c, 0⟩ 0 (v % 4) }
  | .die d => s.put PKG_DIE_CTRL.STATE d v

/-- The key of a unit in the table of latched requests: a die link has one, at whichever end it is asked. -/
def unitKey : UnitId → Key
  | .tree t => ⟨0, t⟩
  | .lane l => ⟨1, l⟩
  | .dieLink k => ⟨2, min (k / 8) (k % 8) * 8 + max (k / 8) (k % 8)⟩
  | .channel c => ⟨3, c⟩
  | .die d => ⟨4, d⟩

/-- The latched request of a unit: 0 none, 1 disable, 2 enable (R38). -/
def State.latchOf (s : State) (u : UnitId) : Nat := s.latches.get (unitKey u) 0

/-- The latched request of a unit set. -/
def State.setLatch (u : UnitId) (v : Nat) (s : State) : State := { s with latches := s.latches.set (unitKey u) 0 v }

end Sys2Proof.Machine
end

