-- ==== Sys2Proof/Machine/Defects.lean ====
section
/-!
DEFINITION. Tree-level and per-terminal defects (chapter 4): the hierarchy of Table 4.9, suppression (R17, R106, R107) and its events (R108); the defects
of circuits and groups below them (R183).
A criterion is kept as its raw condition; what is declared follows from the raw conditions and from what suppresses them.
-/

namespace Sys2Proof.Machine

/-- The sets a line mode makes live (Table 2.14): 0 the 50G-class set, 1 the XGS-PON set. -/
def setsOfMode (mode : Nat) : List Nat :=
  match mode with
  | 1 => [0]
  | 2 => [0]
  | 3 => [1]
  | 4 => [0, 1]
  | _ => []

/-- TX_STATE of set `k`. -/
def txState (k : Nat) : Field := if k = 0 then TREE_OPT_STATUS.TX_STATE_FIFTY else TREE_OPT_STATUS.TX_STATE_XGS

/-- Wavelength lock of set `k`. -/
def lockedField (k : Nat) : Field := if k = 0 then TREE_OPT_STATUS.LOCKED_FIFTY else TREE_OPT_STATUS.LOCKED_XGS

/-- Loss of signal present on set `k`. -/
def losField (k : Nat) : Field := if k = 0 then TREE_OPT_STATUS.LOS_FIFTY else TREE_OPT_STATUS.LOS_XGS

/-- The part is the standby for a tree (R329): ROLE is STANDBY and the tree is protected. -/
def State.standbyFor (s : State) (t : Nat) : Bool := s.get PEER_STATUS.ROLE 0 == 3 && (s.tree t).shared

/-- A tree is claim-gated: every tree while PEER_CTRL.ENABLE is 0, else the protected ones (R319, R320). -/
def State.claimGated (s : State) (t : Nat) : Bool := !s.flag PEER_CTRL.ENABLE 0 || (s.tree t).shared

/-- The claim lets a tree's transmitters light: the tree is not gated, or the part toggles and reads no claim (R319). -/
def State.claimOk (s : State) (t : Nat) : Bool :=
  !s.claimGated t || (s.flag PEER_STATUS.CLAIM_OUT 0 && !s.flag PEER_STATUS.CLAIM_IN 0)

/-- A set runs Twill (R65). -/
def State.twill (s : State) (t k : Nat) : Bool := k == 0 && s.get TREE_OPT_STATUS.VARIANT t == 1

/-- Something leaves on the fibre of set `k` of a tree: only while its transmitter is lit (R76, R77, R319). -/
def State.emitTree (t k : Nat) (o : Sent) (s : State) : State := if s.get (txState k) t = 2 then s.emit o else s

/-- The key of a pattern unit: a tree, or a unit of a die's fabric patterns. -/
def patKey : PatUnit → Key
  | .tree t => ⟨0, t⟩
  | .fab d u => ⟨1, d * 68 + u⟩

/-- The last bits that a checker saw, newest first (R87). -/
def State.seenBits (s : State) (u : PatUnit) : List Bool := s.chkSeen.get (patKey u) []

/-- Those bits set. -/
def State.setSeen (u : PatUnit) (v : List Bool) (s : State) : State := { s with chkSeen := s.chkSeen.set (patKey u) [] v }

/-- A tree-level defect brought in line: field, ONSET bit, its own criterion, and whether it is to be declared. A declaration raises DEFECT, and so does a
clearing for which the criterion no longer holds; one that a higher condition takes away clears without an event (R17, R106, R108). -/
def State.declareTree (t : Nat) (f : Field) (bit : Nat) (raw now : Bool) (s : State) : State :=
  let was := s.flag f t
  if now && !was then s.put f t 1 |>.putBit TREE_DEF_STATUS.ONSET t bit |>.raiseTree t 0
  else if was && !now then if raw then s.put f t 0 else s.put f t 0 |>.raiseTree t 0
  else s

/-- Declarations on a tree: none is made unless it is ON, those made last while it is SHUTTING, and a die-level condition suppresses all
(R17, R83, R107). Answers whether a defect may be declared, given whether it is. -/
def State.treeJudged (s : State) (t : Nat) (was : Bool) : Bool :=
  let st := s.get DMK_TREE_STATE.STATE t
  (st == 2 || (st == 3 && was)) && !s.flag TREE_DEF_STATUS.SUPPRESSED_ABOVE t

/-- The five defects of a terminal in the order of Table 4.9. -/
def termDefects : List (Field × Nat) :=
  [(TREE_DEF_TERM.LOB, 0), (TREE_DEF_TERM.LOD, 1), (TREE_DEF_TERM.DOW, 2), (TREE_DEF_TERM.SF, 3), (TREE_DEF_TERM.SD, 4)]

/-- The set of terminal `n` has a declared tree-level defect (R105). -/
def State.setDefect (s : State) (t n : Nat) : Bool :=
  if s.get TREE_RNG_TERM.SET (termAt t n) = 0 then s.flag TREE_DEF_STATUS.LOS_FIFTY t || s.flag TREE_DEF_STATUS.LOL_FIFTY t
  else s.flag TREE_DEF_STATUS.LOS_XGS t || s.flag TREE_DEF_STATUS.LOL_XGS t

/-! ### Circuits and their defects (R183) -/

/-- The unit number of line port `p` of tree `t`. -/
def lpAt (t p : Nat) : Nat := t * 4096 + p

/-- The unit number of group `g` of a die. -/
def groupAt (d g : Nat) : Nat := d * 128 + g

/-- What is kept of a circuit. -/
def State.circ (s : State) (c : Nat) : CircSt := s.circs.get ⟨c, 0⟩ {}

/-- A change of it. -/
def State.modCirc (c : Nat) (f : CircSt → CircSt) (s : State) : State := { s with circs := s.circs.set ⟨c, 0⟩ {} (f (s.circ c)) }

/-- What is kept of a group. -/
def State.grp (s : State) (u : Nat) : GrpSt := s.grps.get ⟨u, 0⟩ {}

/-- A change of it. -/
def State.modGrp (u : Nat) (f : GrpSt → GrpSt) (s : State) : State := { s with grps := s.grps.set ⟨u, 0⟩ {} (f (s.grp u)) }

/-- Circuit counter `k` (Table 7.14). -/
def State.circCnt (c k n : Nat) (s : State) : State := s.bump CIRC_CNT.COUNT (c * 16 + k) n

/-- A circuit is enabled. -/
def State.circOn (s : State) (c : Nat) : Bool := s.get CIRC.RUN_STATE c != 0

/-- RUN_STATE of a circuit, in its context and in CIRC_DEF. -/
def State.setRun (c v : Nat) (s : State) : State := s.put CIRC.RUN_STATE c v |>.put CIRC_DEF.RUN_STATE c v

/-- The package-wide tree of a circuit. -/
def State.circTree (s : State) (c : Nat) : Nat := c / 1024 * 8 + s.get CIRC.LOCAL_TREE c

/-- The line port of a circuit, as a unit. -/
def State.circPort (s : State) (c : Nat) : Nat := lpAt (s.circTree c) (s.get CIRC.LINE_PORT c)

/-- The set that carries a circuit. -/
def State.circSet (s : State) (c : Nat) : Nat := s.get LPORT.SET (s.circPort c)

/-- The group of a grouped circuit, as a unit. -/
def State.circGroup (s : State) (c : Nat) : Nat := groupAt (s.get CIRC.HOME_DIE c) (s.get CIRC.GROUP c)

/-- The fields of MEMBER_CIRCUIT. -/
def memberFields : List Field :=
  [CGRP.MEMBER_CIRCUIT0, CGRP.MEMBER_CIRCUIT1, CGRP.MEMBER_CIRCUIT2, CGRP.MEMBER_CIRCUIT3, CGRP.MEMBER_CIRCUIT4, CGRP.MEMBER_CIRCUIT5,
   CGRP.MEMBER_CIRCUIT6, CGRP.MEMBER_CIRCUIT7]

/-- The circuits of a group, member 0 first. -/
def State.members (s : State) (u : Nat) : List Nat := (memberFields.take (s.get CGRP.MEMBERS u)).map fun f => s.get f u

/-- The circuit whose client fields hold: itself, or member 0 of its group (Table 7.10). -/
def State.leadOf (s : State) (c : Nat) : Nat := if s.flag CIRC.GROUPED c then s.get CGRP.MEMBER_CIRCUIT0 (s.circGroup c) else c

/-- The circuits that carry a client, its lead first. -/
def State.carriers (s : State) (c : Nat) : List Nat := if s.flag CIRC.GROUPED c then s.members (s.circGroup c) else [c]

/-- D_BASE and J of a circuit (R168). -/
def State.dBase (s : State) (c : Nat) : Nat := s.get CIRC.D_BASE c
/-- J = 2^JUST_EXP. -/
def State.just (s : State) (c : Nat) : Nat := 2 ^ s.get CIRC.JUST_EXP c

/-- The terminal of a circuit has a declared defect of Table 4.9, or is not in OPERATION. -/
def State.clossSuppressed (s : State) (c : Nat) : Bool :=
  let t := s.circTree c
  let n := s.get LPORT.TERMINAL (s.circPort c)
  let i := termAt t n
  !s.flag TREE_DEF_TERM.OPERATION i || s.setDefect t n || s.flag TREE_DEF_STATUS.TREE_LOS t || s.flag TREE_DEF_STATUS.SUPPRESSED_ABOVE t
    || termDefects.any fun d => s.flag d.1 i

/-- A raw condition of a circuit set or cleared. -/
def State.circRaw (c bit : Nat) (b : Bool) (s : State) : State :=
  let v := s.get CIRC_DEF.RAW c
  s.put CIRC_DEF.RAW c (if b then setBit v bit else clearBit v bit)

/-- The declared defects of a circuit brought in line (R183, R106); an onset raises the circuit's source. -/
def State.judgeLone (c : Nat) (s : State) : State :=
  let sup := s.clossSuppressed c
  let raw := s.get CIRC_DEF.RAW c
  let now := if sup then clearBit raw 0 else raw
  let was := s.get CIRC_DEF.DEFECT c
  let fresh := (List.range 4).filter fun k => bitAt now k && !bitAt was k
  let s := s.putFlag CIRC_DEF.SUPPRESSED_ABOVE c sup |>.put CIRC_DEF.DEFECT c now
  let s := fresh.foldl (fun s k => State.putBit CIRC_DEF.ONSET c k s) s
  if fresh.isEmpty then s else s.raise (c / 1024) (1024 + c % 1024)

/-- The declared defects of a group brought in line; DDE gives way to CLOSS of a member (R183). -/
def State.judgeGroup (u : Nat) (s : State) : State :=
  let x := s.grp u
  let closs := (s.members u).any fun c => bitAt (s.get CIRC_DEF.DEFECT c) 0
  let now := ofBool x.mloss + 2 * ofBool (x.dde && !closs)
  let was := s.get CIRC_GROUP_STATUS.DEFECT u
  let fresh := [0, 1].filter fun k => bitAt now k && !bitAt was k
  let s := s.put CIRC_GROUP_STATUS.DEFECT u now
  let s := fresh.foldl (fun s k => State.putBit CIRC_GROUP_STATUS.ONSET u k s) s
  if fresh.isEmpty then s else s.raise (u / 128) (2048 + u % 128)

/-- The declared defects of a circuit and of its group brought in line; a disabled circuit has none. -/
def State.judgeCircuit (c : Nat) (s : State) : State :=
  if !s.circOn c then s
  else if s.flag CIRC.GROUPED c then s.judgeLone c |>.judgeGroup (s.circGroup c)
  else s.judgeLone c

/-- The enabled circuits of a die. -/
def State.circuitsOf (s : State) (d : Nat) : List Nat :=
  (s.regs.filter fun e => e.1.n == CIRC.RUN_STATE.num && e.1.i / 1024 == d).map fun e => e.1.i

/-- The circuits of terminal `n` of a tree judged: what suppresses their CLOSS has changed (R106, R183). -/
def State.judgeCircuits (t n : Nat) (s : State) : State :=
  ((s.circuitsOf (dieOf t)).filter fun c => s.circTree c == t && s.get LPORT.TERMINAL (s.circPort c) == n).foldl
    (fun s c => State.judgeCircuit c s) s

/-! ### Terminals -/

/-- Whether a terminal's defect may be declared, given whether it is (R105, R107). -/
def State.termJudged (s : State) (t n : Nat) (was : Bool) : Bool :=
  s.treeJudged t was && s.flag TREE_DEF_TERM.OPERATION (termAt t n) && !s.flag TREE_OPT_CTRL.TX_MUTE t && !(s.tree t).muteTail
    && !s.setDefect t n

/-- One terminal defect brought in line with its raw condition: a declaration sets ONSET and raises DEFECT; a clearing raises
DEFECT unless a higher defect or a suppression took it away (R106, R108). Answers whether a defect at or above it is declared. -/
def State.declareTerm (t i : Nat) (free : Bool → Bool) (d : Field × Nat) (acc : State × Bool) : State × Bool :=
  let (s, higher) := acc
  let raw := bitAt (s.get TREE_DEF_TERM.RAW i) d.2
  let was := s.flag d.1 i
  let now := raw && free was && !higher
  if now && !was then (s.put d.1 i 1 |>.putBit TREE_DEF_TERM.ONSET i d.2 |>.raiseTree t 0, true)
  else if was && !now then (if raw then s.put d.1 i 0 else s.put d.1 i 0 |>.raiseTree t 0, higher)
  else (s, higher || was)

/-- The defects of terminal `n` brought in line with their raw conditions (R105, R106), and its circuits' with them (R183). -/
def State.judgeTerm (t n : Nat) (s : State) : State :=
  (termDefects.foldl (fun acc d => State.declareTerm t (termAt t n) (s.termJudged t n) d acc) (s, false)).1.judgeCircuits t n

/-- The terminals of a tree in the operation state. -/
def State.operating (s : State) (t : Nat) : List Nat :=
  (s.regs.filter fun e => e.1.n == TREE_DEF_TERM.OPERATION.num && e.1.i / 256 == t).map fun e => e.1.i % 256

/-- The tree-level defects, then every terminal's (R83, R105). Loss of signal suppresses loss of lock of the same set. -/
def State.judgeTree (t : Nat) (s : State) : State :=
  let may := fun f => s.treeJudged t (s.flag f t)
  let losF := may TREE_DEF_STATUS.LOS_FIFTY && s.flag TREE_OPT_STATUS.LOS_FIFTY t
  let losX := may TREE_DEF_STATUS.LOS_XGS && s.flag TREE_OPT_STATUS.LOS_XGS t
  let lolF := may TREE_DEF_STATUS.LOL_FIFTY && (s.setOf t 0).rxLol && !losF
  let lolX := may TREE_DEF_STATUS.LOL_XGS && (s.setOf t 1).rxLol && !losX
  let live := setsOfMode (s.get DMK_TREE_STATE.LINE_MODE t)
  let all := !live.isEmpty && live.all fun k => if k = 0 then losF else losX
  let rawAll := !live.isEmpty && live.all fun k => s.flag (losField k) t
  let s := s.declareTree t TREE_DEF_STATUS.LOS_FIFTY 0 (s.flag TREE_OPT_STATUS.LOS_FIFTY t) losF
    |>.declareTree t TREE_DEF_STATUS.LOS_XGS 1 (s.flag TREE_OPT_STATUS.LOS_XGS t) losX
    |>.declareTree t TREE_DEF_STATUS.LOL_FIFTY 2 (s.setOf t 0).rxLol lolF
    |>.declareTree t TREE_DEF_STATUS.LOL_XGS 3 (s.setOf t 1).rxLol lolX
    |>.declareTree t TREE_DEF_STATUS.TREE_LOS 4 rawAll all
  (s.operating t).foldl (fun s n => s.judgeTerm t n) s

/-- Terminal `n` of a tree has a declared defect. -/
def State.termDefect (s : State) (t n : Nat) : Bool := termDefects.any fun d => s.flag d.1 (termAt t n)

/-- The summary bit of a tree: the OR of the per-terminal conditions declared below it (R17); TERM_SUMMARY shows it. -/
def State.treeSummary (s : State) (t : Nat) : Bool := (List.range 256).any fun n => s.termDefect t n

/-- A tree-level condition is declared. -/
def State.treeDefect (s : State) (t : Nat) : Bool :=
  [TREE_DEF_STATUS.LOS_FIFTY, TREE_DEF_STATUS.LOS_XGS, TREE_DEF_STATUS.LOL_FIFTY, TREE_DEF_STATUS.LOL_XGS, TREE_DEF_STATUS.TREE_LOS].any fun f => s.flag f t

/-- The summary bit of a die (R17): the OR of the conditions declared on its trees and below them. No register shows it. -/
def State.dieSummary (s : State) (d : Nat) : Bool := (List.range 8).any fun k => s.treeDefect (8 * d + k) || s.treeSummary (8 * d + k)

/-- The die-level condition that suppresses a die's tree defects is present (R17). -/
def State.dieDefect (s : State) (d : Nat) : Bool := (List.range 8).any fun k => s.flag TREE_DEF_STATUS.SUPPRESSED_ABOVE (8 * d + k)

/-- The summary bit of the package (R17): the OR of the conditions of its dies and below them. No register shows it. -/
def State.packageSummary (s : State) : Bool := s.dieList.any fun d => s.dieDefect d || s.dieSummary d

/-- A raw condition of a terminal set or cleared. -/
def State.setRaw (i bit : Nat) (b : Bool) (s : State) : State :=
  let v := s.get TREE_DEF_TERM.RAW i
  s.put TREE_DEF_TERM.RAW i (if b then setBit v bit else clearBit v bit)

/-- A terminal enters or leaves the operation state: on leaving, its defects and runs clear without events (R107); its circuits follow (R183). -/
def State.setOperation (t n : Nat) (on : Bool) (s : State) : State :=
  let i := termAt t n
  if on then s.put TREE_DEF_TERM.OPERATION i 1 |>.judgeCircuits t n
  else
    let s := s.put TREE_DEF_TERM.OPERATION i 0 |>.put TREE_DEF_TERM.LOB i 0 |>.put TREE_DEF_TERM.LOD i 0
      |>.put TREE_DEF_TERM.DOW i 0 |>.put TREE_DEF_TERM.SF i 0 |>.put TREE_DEF_TERM.SD i 0 |>.put TREE_DEF_TERM.RAW i 0
      |>.put TREE_DEF_TERM.LOB_RUN i 0 |>.put TREE_DEF_TERM.LOD_RUN i 0
    s.modTerm t n (fun x => { x with lobOk := 0, lodOk := 0, dowBad := 0, dowGood := 0 }) |>.judgeCircuits t n

end Sys2Proof.Machine
end

