-- ==== Sys2Proof/Machine/Cells.lean ====
section
/-!
DEFINITION. Encryption of the stacked DRAM (R269): the root of a die, the key pairs of the domains, and the 256-byte cells that are written.
What a permitted read decrypts is what was written, so the contents stand in the state in plain beside the cells (log entry 67).
-/

namespace Sys2Proof.Machine

/-- A die draws the root of its stack's key pairs from its random source (R269; a free value, log entry 67). -/
def State.drawRoot (d : Nat) (s : State) : State :=
  { s with roots := s.roots.set ⟨d, 0⟩ 0 (s.free % 2 ^ 256 + 1) }.useFree

/-- The key pair of a customer domain on a die (R269). -/
def State.domainPair (s : State) (d dom : Nat) : Nat := Config.cmacKdf (s.roots.get ⟨d, 0⟩ 0 - 1) dom

/-- A cell as it stands in the stack: its 256 bytes, zeros at the end of a short one, under the pair of its domain; the tweak is its index (R269). -/
def State.sealCell (s : State) (d dom index : Nat) (b : List Nat) : Nat × List Nat :=
  (index, Config.xtsSeal (s.domainPair d dom) index (b ++ List.replicate (256 - b.length) 0))

/-- The cells of a die that hold frames or containers. -/
def State.cellsUsed (s : State) (d : Nat) : List Nat :=
  ((s.queues.filter fun e => e.1.n / 2 == d) ++ s.felt.filter fun e => e.1.n == d).flatMap (fun e => e.2.flatMap fun f => f.stored.map fun c => c.1)
    ++ (s.grps.filter fun e => e.1.n / 128 == d).flatMap fun e => e.2.held.flatMap fun g => g.parts.flatMap fun p => p.stored.map fun c => c.1

/-- Cells of a channel are given out: it is not retraining, retired or without power (R289, R290, Table 12.1). -/
def State.gives (s : State) (d cell : Nat) : Bool :=
  let st := s.get MEM_CH_STATUS.STATE (d * 16 + cell / 8 % 16)
  st != 2 && st < 4

/-- The first of `size` cells from `base` that may be given out and is not in use, from place `k` on and around. -/
def State.freeCell (s : State) (d base size : Nat) (used : List Nat) : Nat → Nat → Nat
  | 0, k => base + k % size
  | fuel + 1, k =>
    let x := base + k % size
    if used.contains x || !s.gives d x then s.freeCell d base size used fuel (k + 1) else x

/-- Bytes sealed cell by cell into cells not in use, of a region that begins at cell `base`; which ones is left open (log entry 67). -/
def State.sealInto (s : State) (d dom base size : Nat) : Nat → List Nat → List Nat → List (Nat × List Nat)
  | 0, _, _ => []
  | fuel + 1, used, b =>
    if b.isEmpty then []
    else
      let x := s.freeCell d base size used (128 * (used.length + 1)) s.free
      s.sealCell d dom x (b.take 256) :: s.sealInto d dom base size fuel (x :: used) (b.drop 256)

/-- The cells that bytes of a domain take in a region (0 buffer, 1 Felt, 3 circuit) of a die's stack (R269). -/
def State.sealCells (s : State) (d kind dom : Nat) (b : List Nat) : List (Nat × List Nat) :=
  s.sealInto d dom (128 * s.get MEM_REGION.BASE (d * 6 + kind)) (128 * s.get MEM_REGION.STRIPES (d * 6 + kind)) (b.length / 256 + 1) (s.cellsUsed d) b

end Sys2Proof.Machine
end

