-- ==== Sys2Proof/Machine/Stats.lean ====
section
/-!
DEFINITION. Statistics counters (chapter 16): counter banks, counts, the exact value, and the copy of a running snapshot;
byte counts of ports.
-/

namespace Sys2Proof.Machine

/-- A counter bank (Table 16.1). -/
structure Bank where
  first : Nat
  size : Nat
  domain : Nat
  kind : Nat
  snap : Bool
  deriving DecidableEq, Repr

/-- The counter banks of a counter banks section (R362). -/
def banksOf (b : List Nat) : List Bank :=
  (List.range (leAt b 0 4)).map fun k =>
    let o := 4 + 16 * k
    ⟨leAt b o 4, leAt b (o + 4) 4, leAt b (o + 8) 2 % 4096, byteAt b (o + 10), byteAt b (o + 11) % 2 == 1⟩

/-- The banks of a die. -/
def State.banks (s : State) (d : Nat) : List Bank := banksOf (s.sect 0x0004 d)

/-- The bank that holds a counter; none for an unbound counter (R362). -/
def State.bankOf (s : State) (d c : Nat) : Option Bank := (s.banks d).find? fun b => b.first ≤ c && c < b.first + b.size

/-- The exact value of a counter: DRAM value plus delta, modulo 2^64 (R361, R364). -/
def Stat.total (x : Stat) : Nat := (x.dram + x.delta) % 2 ^ 64

/-- Bytes of device memory written on a die. -/
def State.devWrite (d off : Nat) (bs : List Nat) (s : State) : State :=
  { s with dev := s.dev.set ⟨d, 0⟩ [] ((s.dev.get ⟨d, 0⟩ []).writeBytes off bs) }

/-- Bytes of device memory of a die. -/
def State.devRead (s : State) (d off n : Nat) : List Nat := Memory.readBytes (s.dev.get ⟨d, 0⟩ []) off n

/-- The pre-T value of a counter written into the snapshot area of its die (R366, R367). -/
def State.snapCopy (d c : Nat) (lost : Bool) (s : State) : State :=
  let v := if lost then 2 ^ 64 - 1 else (s.statOf d c).total
  s.devWrite d (s.get PERF_SNAP_BASE.OFFSET d + 64 + 8 * c) (leBytes 8 v) |>.modStat d c fun x => { x with copied := true }

/-- While a die copies, a SNAP counter not yet written is written before it changes (R366). -/
def State.snapBefore (d c : Nat) (s : State) : State :=
  if (s.perfOf d).copying && !(s.statOf d c).copied && ((s.bankOf d c).map fun b => b.snap).getD false then s.snapCopy d c false else s

/-- The snapshot ends once no die copies any more (R366). -/
def State.snapEnd (s : State) : State :=
  if s.get SNAP_CTRL.STATE 0 = 2 && !(s.dieList.any fun d => (s.perfOf d).copying) then s.put SNAP_CTRL.STATE 0 3 |>.raisePkg 3880 else s

/-- A die that loses its stack while it copies is missing (R366). -/
def State.snapMissing (d : Nat) (s : State) : State :=
  if (s.perfOf d).copying then s.modPerf d (fun x => { x with copying := false }) |>.putBit SNAP_CTRL.DIES_MISSING 0 d |>.snapEnd else s

/-- A full weave cancels a snapshot that is armed or copying (R365). -/
def State.cancelSnapshot (s : State) : State :=
  let s' := s.dieList.foldl (fun (s : State) d => s.modPerf d fun x => { x with copying := false }) s
  if s.get SNAP_CTRL.STATE 0 = 1 || s.get SNAP_CTRL.STATE 0 = 2 then s'.put SNAP_CTRL.STATE 0 0 |>.put SNAP_CTRL.RESULT 0 5 else s'

/-- A count of `n` on counter `c` of a die (R363). -/
def State.count (d c n : Nat) (s : State) : State := s.snapBefore d c |>.modStat d c fun x => { x with delta := x.delta + n }

/-- The first counter of the die's queue bank (R240, R362). -/
def State.queueBank (s : State) (d : Nat) : Nat := (((s.banks d).find? fun b => b.kind == 1).map fun b => b.first).getD 0

/-- Counter `k` of a queue: 0 ENQ_FRAMES, 1 ENQ_BYTES, 2 DROP_FRAMES, 3 DROP_BYTES (R240). -/
def State.countQueue (d : Nat) (up : Bool) (q k n : Nat) (s : State) : State :=
  s.count d (s.queueBank d + (if up then 131072 else 0) + 4 * q + k) n

/-- Bytes that passed port `p` of a die in the running bandwidth window (R370). -/
def State.passBytes (d p n : Nat) (s : State) : State :=
  if s.flag PERF_BW_CTRL.ENABLE d then { s with bwAcc := s.bwAcc.set ⟨d, p⟩ 0 (s.bwAcc.get ⟨d, p⟩ 0 + n) } else s

end Sys2Proof.Machine
end

