-- ==== Sys2Proof/Machine/Separation.lean ====
section
/-!
DEFINITION. Separation checks (R272), event bits that raise a source, reserved bits of contexts (R12), and the words of an access window.
-/

namespace Sys2Proof.Machine

/-- An event bit of unit `i` set and source `src` of DIE[d] raised. -/
def State.event (f : Field) (i d src : Nat) (s : State) : State := s.put f i 1 |>.raise d src

/-- A cipher event: bit `f` of CIPH_STATUS, source 2,216 + its bit (Table 15.4). -/
def State.ciphEvent (f : Field) (d : Nat) (s : State) : State := s.event f d d (2216 + f.lsb)

/-- A separation check that failed (R272): counted, recorded, SEPARATION set and the source raised.
`rd` is the resource's domain, 0xFFF when unbound. -/
def State.separation (d k fd rd tree lp res : Nat) (s : State) : State :=
  s.bump CIPH_SEP_CNT.COUNT (d * 12 + k) 1 |>.put CIPH_SEP_LAST.CHECK d k |>.put CIPH_SEP_LAST.FRAME_DOMAIN d fd
    |>.put CIPH_SEP_LAST.RESOURCE_DOMAIN d rd |>.put CIPH_SEP_LAST.TREE d tree |>.put CIPH_SEP_LAST.LINE_PORT d lp
    |>.put CIPH_SEP_LAST.RESOURCE d res |>.ciphEvent CIPH_STATUS.SEPARATION d

/-- A separation check that failed for a frame. -/
def State.sepFrame (d k : Nat) (f : Frame) (rd res : Nat) (s : State) : State :=
  s.separation d k f.domain rd f.tree f.linePort res

/-- Bits `lo` to `hi - 1` of `v` are used by fields alone: no reserved bit is 1 there (R12). -/
def reservedClear (fs : List Field) (lo hi v : Nat) : Bool :=
  let w := bits v lo (hi - lo) * 2 ^ lo
  w == (fs.map fun f => if lo ≤ f.lsb && f.lsb < hi then bits w f.lsb f.width * 2 ^ f.lsb else 0).sum

/-- The `n` data words of an access window from unit `i`, as one little-endian number. -/
def State.words (s : State) (f : Field) (i n : Nat) : Nat := ((List.range n).map fun k => s.get f (i + k) * 2 ^ (64 * k)).sum

/-- The `n` data words of an access window set from a number. -/
def State.putWords (f : Field) (i n v : Nat) (s : State) : State :=
  (List.range n).foldl (fun s k => s.put f (i + k) (bits v (64 * k) 64)) s

/-- A context of 64 bytes as READ returns it: its fields, and CRC-32C over bytes 0 to 59 at byte 60. -/
def withCheck (v : Nat) : Nat := v % 2 ^ 480 + crc32c (leBytes 60 v) * 2 ^ 480

/-- Network time in nanoseconds modulo 2^32 (R201). -/
def State.ns32 (s : State) : Nat := (s.netSec * 10 ^ 9 + s.timeNs) % 2 ^ 32

/-- A token bucket refilled for `e` ns at `rate` kbit/s, in 1/256 byte, up to `cap` bytes (R201). -/
def refill (cap rate e tokens : Nat) : Nat :=
  if 2 ^ 31 ≤ e then 256 * cap else min (256 * cap) (tokens + e * rate * 4 / 125000)

end Sys2Proof.Machine
end

