-- ==== Sys2Proof/Machine/Cipher.lean ====
section
/-!
DEFINITION. The cipher engine (chapter 11): key slots and their states, line-port bindings, switches, expiry, MACsec channels and
associations, packet numbers and their marks, tree-side encryption.
-/

namespace Sys2Proof.Machine

/-! ### Line ports, their slots and who uses a slot -/

/-- The unit number of key slot `k` of a die. -/
def slotAt (d k : Nat) : Nat := d * 8192 + k

/-- The binding of a line port in force: the register's, or the one before a write that waits for the frame boundary (Table 11.12). -/
def State.binding (s : State) (t p : Nat) : BindWrite :=
  match s.oldBind.get ⟨t, p⟩ none with
  | some b => b
  | none => ⟨s.get CIPH_LP_BIND.KEY_PAIR (lpAt t p), s.flag CIPH_LP_BIND.ENCRYPT (lpAt t p), s.get CIPH_LP_BIND.TX_SC (lpAt t p)⟩

/-- The slot of a line port's pair that Key Index 01 (0) or 10 (1) selects (R254). -/
def State.pairSlot (s : State) (t p index : Nat) : Nat := slotAt (dieOf t) (2 * (s.binding t p).keyPair + index % 2)

/-- The slot with which a line port transmits. -/
def State.txSlot (s : State) (t p : Nat) : Nat := s.pairSlot t p (s.get CIPH_LP_BIND.TX_INDEX (lpAt t p))

/-- The other slot of the pair. -/
def State.otherSlot (s : State) (t p : Nat) : Nat := s.pairSlot t p (1 - s.get CIPH_LP_BIND.TX_INDEX (lpAt t p))

/-- Line ports of a tree that exist and are valid (R253). -/
def State.linePorts (s : State) (t : Nat) : List Nat :=
  (List.range (leAt (s.sect 0x0102 t) 0 4)).filter fun p => s.flag LPORT.VALID (lpAt t p)

/-- The trees that have a woven tree line ports section. -/
def State.portTrees (s : State) : List Nat := (s.sects.filter fun e => e.1.n == 0x0102).map fun e => e.1.i

/-- Line ports of a die's trees that transmit with a slot. -/
def State.slotUsers (s : State) (slot : Nat) : List (Nat × Nat) :=
  (s.portTrees.filter fun t => dieOf t == slot / 8192).flatMap fun t =>
    ((s.linePorts t).filter fun p => (s.binding t p).encrypt && s.txSlot t p == slot).map fun p => (t, p)

/-- The line ports that one SWITCH of a line port moves: its multicast key group, or itself (R260). -/
def State.switchMembers (s : State) (t p : Nat) : List (Nat × Nat) :=
  let g := s.get LPORT.MC_GROUP (lpAt t p)
  if g = 0 then [(t, p)]
  else s.portTrees.flatMap fun u => ((s.linePorts u).filter fun q => s.get LPORT.MC_GROUP (lpAt u q) == g).map fun q => (u, q)

/-- The suite a line port's set uses: 0 Twill AES-256-GCM, 1 AES-128-CTR (Table 11.5). -/
def State.suiteOf (s : State) (t p : Nat) : Nat := if s.twill t (s.get LPORT.SET (lpAt t p)) then 0 else 1

/-- A slot a line port may switch to: LOADED, bound to its domain, of its suite (R260). -/
def State.switchReady (s : State) (t p : Nat) : Bool :=
  let k := s.otherSlot t p
  s.get KEYSLOT.STATE k == 1 && !s.flag KEYSLOT.UNBOUND k && s.get KEYSLOT.DOMAIN k == s.get LPORT.DOMAIN (lpAt t p)
    && s.get KEYSLOT.SUITE k == s.suiteOf t p

/-- A cipher counter of a die (Table 11.21). -/
def State.ciphCnt (d k : Nat) (s : State) : State := s.bump CIPH_CNT.COUNT (d * 16 + k) 1

/-- A slot becomes ACTIVE at a frame (R258). -/
def State.activate (slot frame : Nat) (s : State) : State := s.put KEYSLOT.STATE slot 2 |>.put KEYSLOT.FIRST_FRAME slot frame

/-- A line port's transmit slot moves to the other of its pair, which becomes ACTIVE at the frame (R258, R260). -/
def State.toggleSlot (t p frame : Nat) (s : State) : State :=
  let i := lpAt t p
  let s := s.put CIPH_LP_BIND.TX_INDEX i (1 - s.get CIPH_LP_BIND.TX_INDEX i)
  let k := s.txSlot t p
  if s.get KEYSLOT.STATE k = 1 then s.activate k frame else s

/-! ### Mailbox slots, and the rotations that end with a switch (R346, R347) -/

/-- State of mailbox slot `i` of a die: 0 FREE, 1 POSTED, 2 RUNNING, 3 DONE, 4 BUSY. -/
def State.mbox (s : State) (d i : Nat) : Nat := bits (s.get TWEED_MBOX_STATE.SLOT d) (4 * i) 4

/-- State of a mailbox slot set. -/
def State.setMbox (d i v : Nat) (s : State) : State :=
  let w := s.get TWEED_MBOX_STATE.SLOT d
  s.put TWEED_MBOX_STATE.SLOT d (w - bits w (4 * i) 4 * 2 ^ (4 * i) + v % 16 * 2 ^ (4 * i))

/-- The unit number of word `k` of a mailbox slot. -/
def mboxAt (d i k : Nat) : Nat := (d * 16 + i) * 16 + k

/-- A mailbox operation ends: RESULT at byte 4, the slot DONE, the reply source raised (R346). -/
def State.mboxReply (d i result : Nat) (s : State) : State :=
  let w := s.get TWEED_MBOX.DATA (mboxAt d i 0)
  s.put TWEED_MBOX.DATA (mboxAt d i 0) (w - bits w 32 8 * 2 ^ 32 + result % 256 * 2 ^ 32) |>.setMbox d i 3 |>.raise d 2284

/-- Rotations for which `ends` holds are over, with their reply (R347). -/
def State.endRotations (ends : Rotation → Bool) (result : Nat) (s : State) : State :=
  let s' := { s with rotations := s.rotations.filter fun r => !ends r }
  (s.rotations.filter fun r => ends r && !r.orphan).foldl (fun s r => s.mboxReply (dieOf r.tree) r.slot result) s'

/-! ### Work at a frame boundary -/

/-- A pending switch runs on tree `t` at its frame: the line ports that it moves there toggle (R33, R260). -/
def State.runSwitch (t frame : Nat) (s : State) (w : KeySwitch) : State :=
  ((s.switchMembers w.tree w.linePort).filter fun m => m.1 == t).foldl (fun s m => s.toggleSlot m.1 m.2 frame) s

/-- A switch that is kept and whose frame tree `t` has reached, and that has not run there. -/
def KeySwitch.dueOn (t frame : Nat) (w : KeySwitch) : Bool := w.checked && wrapSub 32 frame w.target < 2 ^ 31 && !w.moved.contains t

/-- The trees that hold a line port which a switch moves. -/
def State.switchTrees (s : State) (w : KeySwitch) : List Nat := ((s.switchMembers w.tree w.linePort).map fun m => m.1).eraseDups

/-- Key work of tree `t` at the start of its frame `frame` (R33, R258, R260, R262): new bindings, switches that were kept, LOADED slots in use become
ACTIVE. A switch of a multicast key group moves each tree's line ports at that tree's own frame T and is over when all have moved. -/
def State.keyBoundary (t frame : Nat) (s : State) : State :=
  let s := { s with oldBind := s.oldBind.filter fun e => e.1.n ≠ t }
  let due := s.switches.filter fun w => w.dueOn t frame
  let s := due.foldl (fun s w => State.runSwitch t frame s w) s
  let after := s.switches.map fun w => if w.dueOn t frame then { w with moved := t :: w.moved } else w
  let s := { s with switches := after.filter fun w => !(w.checked && (s.switchTrees w).all fun u => w.moved.contains u) }
  let loaded := (s.regs.filter fun e => e.1.n == KEYSLOT.STATE.num && e.2 == 1).map fun e => e.1.i
  (loaded.foldl (fun s k => if (s.slotUsers k).any (fun m => m.1 == t) then s.activate k frame else s) s).endRotations
    (fun r => r.loaded && r.tree == t && wrapSub 32 frame r.target < 2 ^ 31) 0

/-- Frames spent starved by the line ports of a tree's set (R261). -/
def State.countStarved (t k : Nat) (s : State) : State :=
  let n := ((s.linePorts t).filter fun p => s.get LPORT.SET (lpAt t p) == k && s.flag CIPH_LP_BIND.STARVED (lpAt t p)).length
  s.bump CIPH_CNT.COUNT (dieOf t * 16 + 15) n

/-! ### Key commands (R262, R263) -/

/-- Who runs a key command: the host through CIPH_KEY_CMD, Tweed through CIPH_TW_CMD. -/
def keyData (host : Bool) : Field := if host then CIPH_KEY_DATA.DATA else CIPH_TW_DATA.DATA

/-- A key command ends with a RESULT (Table 11.16). -/
def State.keyDone (host : Bool) (d r : Nat) (s : State) : State :=
  if host then s.put CIPH_KEY_CMD.RESULT d r |>.put CIPH_KEY_CMD.DONE d 1 else s.put CIPH_TW_CMD.RESULT d r |>.put CIPH_TW_CMD.DONE d 1

/-- The address of a die's command register, for the firewall record. -/
def keyCmdAddr (d : Nat) : Nat := CIPH_KEY_CMD.OP.base + d * 2 ^ 24

/-- A command of one of the two paths may run: the other path's command of the same slot wins or loses as R263 says, and a running
command of the same path makes it BUSY. -/
def State.keyGate (host : Bool) (d : Nat) (tied : Bool) (s : State) (run : State → State) : State :=
  if (if host then s.get CIPH_KEY_CMD.DONE d else s.get CIPH_TW_CMD.DONE d) = 0 then
    if host then s.put CIPH_KEY_CMD.RESULT d 1 else s.put CIPH_TW_CMD.RESULT d 1
  else if !host && tied then s.keyDone false d 8
  else run s

/-- The 96 bytes of key data. -/
def State.keyBytes (s : State) (host : Bool) (d : Nat) : Nat := s.words (keyData host) (d * 12) 12

/-- The key material of the data: as it stands, or unwrapped; none when the wrap fails (R262). -/
def State.keyMaterial (s : State) (v : Nat) (wrapped : Bool) (kek len : Nat) : Option Nat :=
  if wrapped then
    match s.keys.get ⟨3, kek⟩ none with
    | some k => (Config.keyUnwrap k (leBytes (len + 8) v)).map leValue
    | none => none
  else some (bits v 0 (8 * len))

/-- A wrap that fails (R262). -/
def State.unwrapFailed (host : Bool) (d : Nat) (s : State) : State :=
  s.ciphCnt d 14 |>.ciphEvent CIPH_STATUS.UNWRAP_FAIL d |>.keyDone host d 5

/-- LOAD of a tree key slot (R258, R262, Table 11.6). -/
def State.loadSlot (host : Bool) (d k : Nat) (wrapped : Bool) (kek : Nat) (s : State) : State :=
  let v := s.keyBytes host d
  let suite := bits v 320 8
  let limit := bits v 352 32
  let len := if suite = 0 then 32 else 16
  let used := if wrapped then len + 8 else len
  let i := slotAt d k
  if 8192 ≤ k || 2 ≤ suite || limit < 8000 || 2147483647 < limit || bits v (8 * used) (320 - 8 * used) ≠ 0 || bits v 328 24 ≠ 0
    || bits v 384 384 ≠ 0 then s.keyDone host d 2
  else if s.flag KEYSLOT.UNBOUND i then s.keyDone host d 3
  else
    match s.keyMaterial v wrapped kek len with
    | none => s.unwrapFailed host d
    | some key =>
      { s with keys := s.keys.set ⟨0, i⟩ none (some key), loadedAt := s.loadedAt.set ⟨0, i⟩ 0 (s.nowNs + 1) }.put KEYSLOT.SUITE i suite
        |>.put KEYSLOT.LIMIT i limit |>.put KEYSLOT.STATE i 1 |>.keyDone host d 0

/-- The other association of a channel. -/
def otherSa (a : Nat) : Nat := if a % 2 = 0 then a + 1 else a - 1

/-- The unit number of association `a` of a die. -/
def saAt (d a : Nat) : Nat := d * 32768 + a

/-- The unit number of secure channel `c` of a die. -/
def scAt (d c : Nat) : Nat := d * 16384 + c

/-- The MACSEC_PN_MARK payload of an association (Table 11.10). -/
def markPayload (ki sci mark suite : Nat) : List Nat := leBytes 16 ki ++ leBytes 8 sci ++ leBytes 8 mark ++ [suite] ++ List.replicate 7 0

/-- The holding record of a TYPE and KEY on a die: valid, with the highest SEQ within a window of 2^31 (R48). -/
def State.holding (s : State) (d type key : Nat) : Option MRec :=
  let all := ((s.mramOf d).pages.flatMap id).filter fun r => r.committed && r.crcOk && r.type == type && r.key == key
  all.foldl (fun best r =>
    match best with
    | none => some r
    | some b => if wrapSub 32 r.seq b.seq < 2 ^ 31 then some r else some b) none

/-- A record asked of the loader of a die; it is written when MRAM_RECORD_COMMIT runs (R47). -/
def State.askRecord (d type key : Nat) (payload : List Nat) (s : State) : State :=
  s.modMram d fun m => { m with todo := m.todo ++ [{ type := type, key := key, seq := 0, time := 0, payload := payload }] }

/-- Where the association of a path's LOAD that waits for its mark record is kept. -/
def loadKey (host : Bool) (d : Nat) : Key := ⟨1, 2 * d + (if host then 1 else 0)⟩

/-- The association, if any, whose LOAD of a path waits for its mark record (R268). -/
def State.loadWaits (host : Bool) (d i : Nat) (s : State) : Bool :=
  (if host then s.get CIPH_KEY_CMD.DONE d else s.get CIPH_TW_CMD.DONE d) == 0 && s.loadedAt.get (loadKey host d) 0 == i + 1

/-- A host command of an association for which a LOAD of Tweed waits is the one applied (R263). -/
def State.supersede (host : Bool) (d a : Nat) (s : State) : State :=
  if host && s.loadWaits false d (saAt d a) then s.keyDone false d 8 else s

/-- LOAD of an association (R262, R267, R268): a transmit association completes only when its mark record is committed. -/
def State.loadSa (host : Bool) (d a : Nat) (wrapped : Bool) (kek : Nat) (s : State) : State :=
  let v := s.keyBytes host d
  let suite := bits v 320 8
  let i := saAt d a
  let c := scAt d (a / 2)
  let used := if wrapped then 40 else 32
  if 32768 ≤ a || !(suite == 3 || suite == 4) || bits v (8 * used) (320 - 8 * used) ≠ 0 || bits v 330 6 ≠ 0 || bits v 336 16 ≠ 0
    || bits v 672 96 ≠ 0 then s.keyDone host d 2
  else if s.flag MSC.UNBOUND c then s.keyDone host d 3
  else
    match s.keyMaterial v wrapped kek 32 with
    | none => s.unwrapFailed host d
    | some key =>
      let ki := bits v 480 128
      let pn0 := bits v 608 64
      let sci := s.get MSC.SCI c
      let tx := s.flag MSC.TRANSMIT c
      let pn := match (if tx then s.holding d 0x0010 (saAt d a) else none) with
        | some r => if leAt r.payload 0 16 = ki && leAt r.payload 16 8 = sci then max pn0 (leAt r.payload 24 8) else pn0
        | none => pn0
      let otherValid := s.flag MSA.VALID (saAt d (otherSa a))
      let s := s.supersede host d a
      let s := { s with keys := s.keys.set ⟨1, i⟩ none (some key) |>.set ⟨2, i⟩ none (some (bits v 384 96)) }
      let s := s.put MSA.AN i (bits v 328 2) |>.put MSA.SUITE i suite |>.put MSA.SSCI i (bits v 352 32) |>.put MSA.KI i ki
        |>.put MSA.PN i pn |>.put MSA.EXHAUSTED i 0 |>.put MSA.WARN i 0 |>.put MSA.MARK_WAIT i 0
      if tx then
        let mark := pn + 2 ^ s.get CIPH_CTRL.MARK_EXP d
        let s := s.put MSA.VALID i 1 |>.put MSA.MARK i pn
        let s := if otherValid then s else s.put MSC.TX_SA c (a % 2)
        let s := { s with loadedAt := s.loadedAt.set (loadKey host d) 0 (i + 1) }.askRecord d 0x0010 (saAt d a) (markPayload ki sci mark suite)
        if host then s.put CIPH_KEY_CMD.DONE d 0 else s.put CIPH_TW_CMD.DONE d 0
      else s.put MSA.VALID i 1 |>.put MSA.MARK i 0 |>.keyDone host d 0

/-- KEY_LOAD (R262, R263): a plaintext key only while KEYS is clear; `tied` where the other path's command of the same slot is in progress. -/
def execKeyLoad (host : Bool) (d : Nat) (assoc : Bool) (index : Nat) (wrapped : Bool) (kek : Nat) (tied : Bool) (s : State) : Result :=
  .next (s.keyGate host d tied fun s =>
    if !wrapped && s.flag SEC_LOCK.KEYS 0 then s.fwEvent (keyCmdAddr d) 0 true 3 |>.keyDone host d 4
    else if assoc then s.loadSa host d index wrapped kek else s.loadSlot host d index wrapped kek)

/-- KEY_ERASE (R258): a slot becomes EMPTY; an association is no longer valid. -/
def execKeyErase (host : Bool) (d : Nat) (assoc : Bool) (index : Nat) (tied : Bool) (s : State) : Result :=
  .next (s.keyGate host d tied fun s =>
    if assoc then
      if 32768 ≤ index then s.keyDone host d 2
      else { s with keys := s.keys.set ⟨1, saAt d index⟩ none none |>.set ⟨2, saAt d index⟩ none none }.put MSA.VALID (saAt d index) 0
        |>.supersede host d index |>.keyDone host d 0
    else if 8192 ≤ index then s.keyDone host d 2
    else { s with keys := s.keys.set ⟨0, slotAt d index⟩ none none }.put KEYSLOT.STATE (slotAt d index) 0 |>.keyDone host d 0)

/-- KEY_SWITCH (R260): the target frame stands in bytes 0 to 3 of the data and is judged by R33; `t` is the die's local tree. -/
def execKeySwitch (host : Bool) (d t p : Nat) (tied : Bool) (s : State) : Result :=
  .next (s.keyGate host d tied fun s =>
    let target := s.keyBytes host d % 2 ^ 32
    match s.checkFrame target with
    | .late => s.keyDone host d 6
    | .far => s.keyDone host d 7
    | .ok => { s with switches := s.switches ++ [({ tree := d * 8 + t % 8, linePort := p, target := target, byHost := host } : KeySwitch)] }.keyDone host d 0)

/-- KEY_READ (R251): a slot or association record; never key material. -/
def execKeyRead (host : Bool) (d : Nat) (assoc : Bool) (index : Nat) (tied : Bool) (s : State) : Result :=
  .next (s.keyGate host d tied fun s =>
    if assoc then
      if 32768 ≤ index then s.keyDone host d 2
      else s.putWords (keyData host) (d * 12) 8 (withCheck (s.packRec MSA.fields (saAt d index))) |>.keyDone host d 0
    else if 8192 ≤ index then s.keyDone host d 2
    else
      let s := s.put KEYSLOT.USERS (slotAt d index) (s.slotUsers (slotAt d index)).length
      s.putWords (keyData host) (d * 12) 8 (s.packRec KEYSLOT.fields (slotAt d index)) |>.keyDone host d 0)

/-- KEK_LOAD (R262): a key-encryption key on every die, only while KEYS is clear. -/
def execKekLoad (host : Bool) (d k : Nat) (s : State) : Result :=
  .next (s.keyGate host d false fun s =>
    if s.flag SEC_LOCK.KEYS 0 then s.fwEvent (keyCmdAddr d) 0 true 3 |>.keyDone host d 4
    else if 4 ≤ k then s.keyDone host d 2
    else { s with keys := s.keys.set ⟨3, k⟩ none (some (s.keyBytes host d % 2 ^ 256)) }.keyDone host d 0)

/-- SWITCH_CHECK (R260): at the start of frame T − 1 each switch to T is kept, or cancelled for all its line ports. -/
def execSwitchCheck (s : State) : Result :=
  let due := fun (w : KeySwitch) => w.target == wrapAdd 32 s.frame 1 && !w.checked
  let good := fun (w : KeySwitch) => (s.switchMembers w.tree w.linePort).all fun m => s.switchReady m.1 m.2
  let bad := s.switches.filter fun w => due w && !good w
  let s1 := { s with switches := (s.switches.filter fun w => !(due w && !good w)).map fun w => if due w then { w with checked := true } else w }
  .next (bad.foldl (fun s w =>
    let d := dieOf w.tree
    s.ciphCnt d 12 |>.put CIPH_STATUS.LAST_SLOT d (s.otherSlot w.tree w.linePort % 8192) |>.ciphEvent CIPH_STATUS.SWITCH_CANCELLED d
      |>.keyDone w.byHost d 9
      |>.endRotations (fun r => !w.byHost && r.tree == w.tree && r.linePort == w.linePort && r.target == w.target) (2 + s.free % 6)
      |>.useFree) s1)

/-- A SWITCH that passed its check moves the line port at a frame (R260). -/
def State.switchKept (s : State) (frame : Nat) (m : Nat × Nat) : Bool :=
  s.switches.any fun w => w.checked && w.target == frame && !w.moved.contains m.1 && (s.switchMembers w.tree w.linePort).contains m

/-- One line port at the expiry of its slot (R261): a SWITCH that targets the frame is the one switch (Table 11.12); else it switches, or is starved. -/
def State.expireUser (frame : Nat) (m : Nat × Nat) (s : State) : State :=
  let d := dieOf m.1
  if s.switchKept frame m then s else
  let s := { s with switches := s.switches.filter fun w => !(w.tree == m.1 && w.linePort == m.2 && w.target == frame) }
  if s.switchReady m.1 m.2 then
    s.toggleSlot m.1 m.2 frame |>.ciphCnt d 11 |>.put CIPH_STATUS.LAST_SLOT d (s.otherSlot m.1 m.2 % 8192) |>.ciphEvent CIPH_STATUS.AUTO_SWITCH d
  else
    s.put CIPH_LP_BIND.STARVED (lpAt m.1 m.2) 1 |>.put CIPH_STATUS.LAST_SLOT d (s.txSlot m.1 m.2 % 8192) |>.ciphEvent CIPH_STATUS.KEY_STARVED d

/-- KEY_EXPIRY (R258, R261): at frame FIRST_FRAME + LIMIT an ACTIVE slot of a die expires and its line ports switch or starve. -/
def execKeyExpiry (d k : Nat) (s : State) : Result :=
  let i := slotAt d k
  if s.get KEYSLOT.STATE i = 2 && wrapAdd 32 (s.get KEYSLOT.FIRST_FRAME i) (s.get KEYSLOT.LIMIT i) == s.frame then
    let users := s.slotUsers i
    .next (users.foldl (fun s m => s.expireUser s.frame m) (s.put KEYSLOT.STATE i 3))
  else .next s

/-- STARVED_RESUME (R261): at a frame boundary at least one whole frame after a LOAD that meets R260. -/
def execStarvedResume (t p : Nat) (s : State) : Result :=
  let since := s.loadedAt.get ⟨0, s.otherSlot t p⟩ 0
  if s.flag CIPH_LP_BIND.STARVED (lpAt t p) && s.switchReady t p && 0 < since && since - 1 + 125000 ≤ s.nowNs then
    .next (s.put CIPH_LP_BIND.STARVED (lpAt t p) 0 |>.toggleSlot t p s.frame)
  else .next s

/-- LP_BIND_WRITE (R262, R15, Table 11.17): dropped while KEYS is set, with one firewall event if it would change a field; a pair or
channel of another domain is refused and its field keeps its value. -/
def execLpBindWrite (t p pair : Nat) (encrypt : Bool) (txSc : Nat) (s : State) : Result :=
  let i := lpAt t p
  let d := dieOf t
  let change := s.get CIPH_LP_BIND.KEY_PAIR i ≠ pair || s.flag CIPH_LP_BIND.ENCRYPT i != encrypt || s.get CIPH_LP_BIND.TX_SC i ≠ txSc
  if s.flag SEC_LOCK.KEYS 0 then
    .next (if change then s.fwEvent (CIPH_LP_BIND.desc.base + d * 2 ^ 24 + t % 8 * 0x8000 + p * 8) 0 true 3 else s)
  else
    let dom := s.get LPORT.DOMAIN i
    let own := fun k => !s.flag KEYSLOT.UNBOUND (slotAt d k) && s.get KEYSLOT.DOMAIN (slotAt d k) == dom
    let pairOk := own (2 * pair) && own (2 * pair + 1)
    let c := scAt (s.get LPORT.UPLINK i / 4) txSc
    let scOk := !s.flag MSC.UNBOUND c && s.get MSC.DOMAIN c == dom
    let old := s.binding t p
    let s := { s with oldBind := s.oldBind.set ⟨t, p⟩ none (some old) }
    let s := if pairOk then s.put CIPH_LP_BIND.KEY_PAIR i pair else s
    let s := s.putFlag CIPH_LP_BIND.ENCRYPT i encrypt
    .next (if scOk then s.put CIPH_LP_BIND.TX_SC i txSc else s)

/-! ### MACsec contexts -/

/-- A MACsec access completes (Table 11.18). -/
def State.msecDone (d r : Nat) (s : State) : State := s.put CIPH_MSEC_ACC_CTRL.RESULT d r |>.put CIPH_MSEC_ACC_CTRL.DONE d 1

/-- MSEC_READ (R265): a channel context, or an association context with its CHECK. -/
def execMsecRead (d : Nat) (assoc : Bool) (index : Nat) (s : State) : Result :=
  if assoc then .next (s.putWords CIPH_MSEC_DATA.DATA (d * 8) 8 (withCheck (s.packRec MSA.fields (saAt d index))) |>.msecDone d 0)
  else if 16384 ≤ index then .next (s.msecDone d 2)
  else .next (s.putWords CIPH_MSEC_DATA.DATA (d * 8) 8 (s.packRec MSC.fields (scAt d index)) |>.msecDone d 0)

/-- MSEC_CHANNEL_WRITE (R265, Table 11.18): bytes 0 to 9 and 12 to 15, while neither association is valid. -/
def execMsecChannelWrite (d c : Nat) (s : State) : Result :=
  let v := s.words CIPH_MSEC_DATA.DATA (d * 8) 2
  let i := scAt d c
  if 16384 ≤ c then .next (s.msecDone d 2)
  else if s.flag MSC.UNBOUND i then .next (s.msecDone d 3)
  else if s.flag MSA.VALID (saAt d (2 * c)) || s.flag MSA.VALID (saAt d (2 * c + 1)) then .next (s.msecDone d 4)
  else if bits v 70 2 ≠ 0 || bits v 77 3 ≠ 0 || bits v 126 2 ≠ 0 || bits v 72 5 / 4 ≠ d then .next (s.msecDone d 2)
  else
    .next (s.put MSC.SCI i (bits v 0 64) |>.putFlag MSC.VALID i (bitAt v 64) |>.putFlag MSC.TRANSMIT i (bitAt v 65)
      |>.putFlag MSC.XPN i (bitAt v 66) |>.putFlag MSC.REPLAY_EN i (bitAt v 67) |>.put MSC.LANE i (bits v 72 5)
      |>.put MSC.REPLAY_WINDOW i (bits v 96 30) |>.msecDone d 0)

/-- A channel moves to its armed association (R267). -/
def State.moveArmed (d c : Nat) (s : State) : State :=
  let i := scAt d c
  s.put MSC.TX_SA i (1 - s.get MSC.TX_SA i) |>.put MSC.NEXT_ARMED i 0

/-- ARM (R267): the association becomes the channel's next transmit association; a channel already exhausted moves to it. -/
def execArm (d a : Nat) (s : State) : Result :=
  let c := scAt d (a / 2)
  if !s.flag MSA.VALID (saAt d a) || !s.flag MSC.TRANSMIT c || s.get MSC.TX_SA c = a % 2 then .next (s.msecDone d 2)
  else
    let s := s.put MSC.NEXT_ARMED c 1
    .next ((if s.flag MSA.EXHAUSTED (saAt d (otherSa a)) then s.moveArmed d (a / 2) else s).msecDone d 0)

/-! ### Sending under MACsec (R266 to R268) -/

/-- What taking a packet number yields. -/
inductive PnTake where
  | sent (pn a : Nat)
  | wait
  | drop
  deriving DecidableEq, Repr

/-- The number of packet numbers an association has: up to 2^64 − 1 for XPN, else 2^32 − 1 (R267). -/
def State.pnLimit (s : State) (i : Nat) : Nat := if s.get MSA.SUITE i = 4 then 2 ^ 64 - 1 else 2 ^ 32 - 1

/-- After a PN is taken: warning, exhaustion and the next mark record (R267, R268). -/
def State.pnAfter (d a pn : Nat) (s : State) : State :=
  let i := saAt d a
  let limit := s.pnLimit i
  let s := if limit - pn < 2 ^ s.get CIPH_CTRL.PN_WARN_EXP d && !s.flag MSA.WARN i then
    s.put MSA.WARN i 1 |>.put CIPH_STATUS.LAST_SA d a |>.ciphEvent CIPH_STATUS.PN_WARN d else s
  let s := if pn = limit then s.put MSA.EXHAUSTED i 1 |>.put CIPH_STATUS.LAST_SA d a |>.ciphEvent CIPH_STATUS.PN_EXHAUSTED d else s
  let e := s.get CIPH_CTRL.MARK_EXP d
  let mark := s.get MSA.MARK i
  let pending := ((s.mramOf d).todo ++ (s.mramOf d).waiting).any fun r => r.type == 0x0010 && r.key == i
  if mark ≤ pn + 1 + 2 ^ (e - 1) && !pending then
    s.askRecord d 0x0010 i (markPayload (s.get MSA.KI i) (s.get MSC.SCI (scAt d (a / 2))) (mark + 2 ^ e) (s.get MSA.SUITE i))
  else s

/-- A PN taken from the transmit association of channel `c` (R266 to R268): waits at the mark, drops when exhausted. -/
def State.takePn (d c : Nat) (s : State) : PnTake × State :=
  let a0 := 2 * c + s.get MSC.TX_SA (scAt d c)
  let s := if s.flag MSA.EXHAUSTED (saAt d a0) && s.flag MSC.NEXT_ARMED (scAt d c) then s.moveArmed d c else s
  let a := 2 * c + s.get MSC.TX_SA (scAt d c)
  let i := saAt d a
  if !s.flag MSA.VALID i then (.drop, s.ciphCnt d 5)
  else if s.flag MSA.EXHAUSTED i then (.drop, s.ciphCnt d 10)
  else
    let pn := s.get MSA.PN i
    if s.get MSA.MARK i ≤ pn then
      (.wait, if s.flag MSA.MARK_WAIT i then s
        else s.put MSA.MARK_WAIT i 1 |>.ciphCnt d 13 |>.put CIPH_STATUS.LAST_SA d a |>.ciphEvent CIPH_STATUS.MARK_WAIT d)
    else (.sent pn a, s.put MSA.PN i (pn + 1) |>.put MSA.MARK_WAIT i 0 |>.pnAfter d a pn)

/-! ### Tree-side encryption (R255 to R258, R272) -/

/-- The 96-bit IV of a Twill XGEM frame (Table 11.4). -/
def twillIv (frame : Nat) (up : Bool) (t p index : Nat) : Nat :=
  frame % 2 ^ 32 * 2 ^ 64 + ofBool up * 2 ^ 63 + t % 64 * 2 ^ 57 + p % 4096 * 2 ^ 45 + index % 2 ^ 16 * 2 ^ 16

/-- The index of a line port's next encrypted XGEM frame of the running frame, raised by one (R256). -/
def State.nextIndex (t p : Nat) (up : Bool) (s : State) : Nat × State :=
  let k : Key := ⟨2 * t + ofBool up, p⟩
  (s.xgemIndex.get k 0, { s with xgemIndex := s.xgemIndex.set k 0 (s.xgemIndex.get k 0 + 1) })

/-- The last `n` bytes of a list inverted (R29, R271). -/
def invertLast (n : Nat) (b : List Nat) : List Nat := b.take (b.length - n) ++ (b.drop (b.length - n)).map fun x => 255 - x % 256

/-- Zero bytes up to the next 8-byte boundary (R255). -/
def padEight (b : List Nat) : List Nat := b ++ List.replicate ((8 - b.length % 8) % 8) 0

/-- An XGEM frame of line port `p` with a payload of `n` bytes leaves: its header and `data` join the downstream frame being sent (R91). -/
def State.putXgem (t k p ki iv n : Nat) (lf : Bool) (data : List Nat) (s : State) : State :=
  let header := Config.xgemHeader n ki (s.get LPORT.XGEM_PORT_ID (lpAt t p)) lf
  s.emitTree t k (.xgem t k p ki iv lf data) |>.modSet t k fun x => { x with body := x.body ++ [header ++ data] }

/-- One XGEM frame of line port `p` of a set: `piece` of frame `f`, the last of it where `lf`. It is checked (R272) and, with ENCRYPT, sealed as a GCM
invocation of its own or in counter mode (R255 to R258). The last piece of a frame marked under R29 has its tag inverted on an encrypted Twill line port,
else its Ethernet FCS; where the tag's 16 bytes stand is before the filling zeros. -/
def State.sendPiece (f : Frame) (lf : Bool) (piece : List Nat) (s : State) : State :=
  let t := f.tree
  let p := f.linePort
  let d := dieOf t
  let i := lpAt t p
  let dom := s.get LPORT.DOMAIN i
  let end_ := f.marked && lf
  let plain := if end_ then invertLast 4 piece else piece
  if !s.flag LPORT.VALID i || dom ≠ f.domain then s.sepFrame d 0 f dom p
  else if !(s.binding t p).encrypt then
    s.putXgem t f.set p 0 0 piece.length lf plain
  else
    let k := s.txSlot t p
    if s.flag KEYSLOT.UNBOUND k then s.sepFrame d 11 f 0xFFF (k % 8192)
    else if s.get KEYSLOT.DOMAIN k ≠ dom then s.sepFrame d 2 f (s.get KEYSLOT.DOMAIN k) (k % 8192)
    else
      match s.keys.get ⟨0, k⟩ none with
      | none => s.ciphCnt d 8
      | some key =>
        let ki := 1 + s.get CIPH_LP_BIND.TX_INDEX i
        let (n, s) := s.nextIndex t p false
        let iv := twillIv (s.setOf t f.set).dsFrame false t p n
        if s.twill t f.set then
          let sealed_ := Config.gcmSeal key iv (Config.xgemHeader piece.length ki (s.get LPORT.XGEM_PORT_ID i) lf) piece
          s.putXgem t f.set p ki iv piece.length lf (padEight (if end_ then invertLast 16 sealed_ else sealed_))
        else s.putXgem t f.set p ki iv piece.length lf (Config.ctrSeal key iv plain)

/-- The greatest payload of one XGEM frame, as its 14-bit PLI can say (log entry 57). -/
def xgemMax : Nat := 16383

/-- Bytes of a frame sent as XGEM frames of at most the greatest payload; LF stands on the last where the frame ends with them. At most `fuel` of them. -/
def State.sendBytes (f : Frame) (ends : Bool) : Nat → List Nat → State → State
  | 0, _, s => s
  | fuel + 1, b, s =>
    if b.length ≤ xgemMax then s.sendPiece f ends b
    else (s.sendPiece f false (b.take xgemMax)).sendBytes f ends fuel (b.drop xgemMax)

/-- All bytes of a frame's end sent. -/
def State.sendRest (f : Frame) (b : List Nat) (s : State) : State := s.sendBytes f true (b.length / xgemMax + 1) b

/-- Depth of a boundary FIFO, and what of a cut-through frame must be in it before the frame is started (R24, R25, Table 1.6). -/
def boundaryBytes : Nat := 32768
/-- The first 2 KiB of a cut-through frame (R25). -/
def startBytes : Nat := 2048

/-- Bytes in the downstream boundary FIFO of a tree slice: of the frames that its sets have started and not ended (R24). -/
def State.dsFill (s : State) (t : Nat) : Nat := ([0, 1].map fun k => (((s.setOf t k).sending.map fun o => o.come).getD 0)).sum

/-- The rest of the frame that a set has started comes and is sent: it ends (R25). -/
def State.endSending (t k : Nat) (s : State) : State :=
  match (s.setOf t k).sending with
  | none => s
  | some o => (s.modSet t k fun x => { x with sending := none }).sendRest o.frame o.rest

/-- A released downstream frame enters the boundary FIFO of its tree slice (R24, R25). The frame started before it ends first, so that no frame stands
between fragments. A store-and-forward frame is started when it is wholly in the FIFO, and a frame of at most 2 KiB likewise: it is sent. A longer
cut-through frame (`cut`) is started with its first 2 KiB and stays in hand until its rest has come. -/
def State.treeSend (cut : Bool) (f : Frame) (s : State) : State :=
  let s := s.endSending f.tree f.set
  if cut && startBytes < f.bytes.length then s.modSet f.tree f.set fun x => { x with sending := some ⟨f, f.bytes, startBytes⟩ }
  else s.sendRest f f.bytes

/-- The FIFO runs empty behind a started frame of which `come` bytes came: what came leaves as fragments with LF 0, and the rest stays in hand; with all
of it there, the frame ends (R25). -/
def State.cutSending (t k come : Nat) (s : State) : State :=
  match (s.setOf t k).sending with
  | none => s
  | some o =>
    let n := max o.come come
    if o.rest.length ≤ n then s.endSending t k
    else
      (s.modSet t k fun x => { x with sending := some { o with rest := o.rest.drop n, come := 0 } }).sendBytes o.frame false (n / xgemMax + 1) (o.rest.take n)

end Sys2Proof.Machine
end

