-- ==== Sys2Proof/Machine/Gates.lean ====
section
/-!
DEFINITION. Gate lists (chapter 6, R156, R157): banks, open spans of a cycle, and the instant of a bank swap.
-/

namespace Sys2Proof.Machine

/-- The unit number of gate list `g` of a die. -/
def listAt (d g : Nat) : Nat := d * 256 + g

/-- The entries of a bank of a gate list: GATES and DURATION_NS. -/
def State.bank (s : State) (admin : Bool) (l : Nat) : List (Nat × Nat) :=
  if admin then (List.range (s.get GATEHDR.ADMIN_LENGTH l)).map fun e => (s.get GATEADM.GATES (l * 1024 + e), s.get GATEADM.DURATION_NS (l * 1024 + e))
  else (List.range (s.get GATEHDR.LENGTH l)).map fun e => (s.get GATEOP.GATES (l * 1024 + e), s.get GATEOP.DURATION_NS (l * 1024 + e))

/-- The open segments of gate `q` in one cycle from `pos`: each entry in turn, the last one to the cycle's end, cut short by it (R156). -/
def openSegments (cycle q : Nat) : Nat → List (Nat × Nat) → List (Nat × Nat)
  | _, [] => []
  | pos, (g, dur) :: rest =>
    if cycle ≤ pos then []
    else
      let e := if rest.isEmpty then cycle else min cycle (pos + dur)
      (if bitAt g q then [(pos, e)] else []) ++ openSegments cycle q (pos + dur) rest

/-- Segments that follow one another joined (R237). -/
def joinSpans : List (Nat × Nat) → List (Nat × Nat)
  | [] => []
  | (a, b) :: rest =>
    match joinSpans rest with
    | (c, e) :: more => if b = c then (a, e) :: more else (a, b) :: (c, e) :: more
    | [] => [(a, b)]

/-- The open spans of gate `q` in one cycle of a bank. -/
def openSpans (bank : List (Nat × Nat)) (cycle q : Nat) : List (Nat × Nat) := joinSpans (openSegments cycle q 0 bank)

/-- The base time of a list in nanoseconds. -/
def State.gateBase (s : State) (l : Nat) : Nat := s.get GATEHDR.BASE_S l * 10 ^ 9 + s.get GATEHDR.BASE_NS l

/-- Some open span covers [a, b) of the cycle. -/
def spanCovers (spans : List (Nat × Nat)) (a b : Nat) : Bool := spans.any fun w => w.1 ≤ a && b ≤ w.2

/-- Gate `q` of a list is open throughout [t1, t2), in nanoseconds of network time; before BASE it is closed (R156). -/
def State.gateOpen (s : State) (l q t1 t2 : Nat) : Bool :=
  let cycle := s.get GATEHDR.CYCLE_NS l
  let spans := openSpans (s.bank false l) cycle q
  let base := s.gateBase l
  if t1 < base || cycle = 0 then false
  else if cycle ≤ t2 - t1 then spanCovers spans 0 cycle
  else
    let x := (t1 - base) % cycle
    let y := x + (t2 - t1)
    if y ≤ cycle then spanCovers spans x y else spanCovers spans x cycle && spanCovers spans 0 (y - cycle)

/-- The longest window of gate `q`, joined across the cycle boundary; none when the gate never closes (R237). -/
def State.longestWindow (s : State) (l q : Nat) : Option Nat :=
  let cycle := s.get GATEHDR.CYCLE_NS l
  let spans := openSpans (s.bank false l) cycle q
  if cycle ≠ 0 && spanCovers spans 0 cycle then none
  else
    let inner := spans.foldl (fun m w => max m (w.2 - w.1)) 0
    let wrap := match spans.head?, spans.getLast? with
      | some a, some z => if a.1 = 0 && z.2 = cycle then a.2 + (z.2 - z.1) else 0
      | _, _ => 0
    some (max inner wrap)

/-- The instant at which a pending bank swap takes place, in ns: the first cycle start at or after the change time and 2 ms after
the write that set PENDING (R157). -/
def State.swapAt (s : State) (l : Nat) : Nat :=
  let cycle := max 1 (s.get GATEHDR.CYCLE_NS l)
  let base := s.gateBase l
  let change := s.get GATEHDR.CHANGE_S l * 10 ^ 9 + s.get GATEHDR.CHANGE_NS l
  let t := max change (s.pendSince.get ⟨l, 0⟩ 0 + 2000000)
  if t ≤ base then base else base + (t - base + cycle - 1) / cycle * cycle

/-- The open spans of gate `q` of a list over cycles `first` to `first + n - 1`, in ns; from a pending swap on, of the new bank (R157). -/
def State.spansOver (s : State) (l q first n : Nat) : List (Nat × Nat) :=
  let cycle := s.get GATEHDR.CYCLE_NS l
  let base := s.gateBase l
  joinSpans ((List.range n).flatMap fun j =>
    let at0 := base + (first + j) * cycle
    let admin := s.flag GATEHDR.PENDING l && s.swapAt l ≤ at0
    (openSpans (s.bank admin l) cycle q).map fun w => (at0 + w.1, at0 + w.2))

end Sys2Proof.Machine
end

