-- ==== Sys2Proof/Machine/Optics.lean ====
section
/-!
DEFINITION. Tree optics (chapter 3): optics start and stop, mute, calibration, loss of lock, context swap, patterns and injection.
-/

namespace Sys2Proof.Machine

/-- Both sets of a tree that its line mode makes live. -/
def State.liveSets (s : State) (t : Nat) : List Nat := setsOfMode (s.get DMK_TREE_STATE.LINE_MODE t)

/-- The state of the transmitter of set `k` that may light: dark without the claim or out of lock, muted under TX_MUTE, else lit (R76, R77, R319). -/
def State.litState (s : State) (t k : Nat) : Nat :=
  if !s.claimOk t || (s.setOf t k).txLol then 0
  else if s.flag TREE_OPT_CTRL.TX_MUTE t then 3 else 2

/-- The transmitter of set `k` lights as far as mute, lock and claim let it. -/
def State.light (t k : Nat) (s : State) : State := s.put (txState k) t (s.litState t k)

/-- Every transmitter of the tree dark. -/
def State.darken (t : Nat) (s : State) : State := s.put (txState 0) t 0 |>.put (txState 1) t 0

/-- The optics of a tree start (R71): transmitters dark and locking; TEST applies at the start (R86). -/
def State.opticsStart (t : Nat) (s : State) : State :=
  let s := s.modTree t fun x => { x with test := s.flag TREE_OPT_CTRL.TEST t, txShut := false }
  (s.liveSets t).foldl (fun s k => s.put (txState k) t 1) s

/-- OPTICS_START (R71): supplies and synthesisers of a tree in STARTING start. -/
def execOpticsStart (t : Nat) (s : State) : Result := .next (if s.get DMK_TREE_STATE.STATE t = 1 then s.opticsStart t else s)

/-- The claim is asked for when a gated tree may light: a part that does not pair toggles CLAIM_OUT while it reads no claim, and is blocked by a
live one; a pair's role decides otherwise (R319, R322). -/
def State.askClaim (s : State) : State :=
  if s.flag PEER_CTRL.ENABLE 0 then s
  else if s.flag PEER_STATUS.CLAIM_IN 0 then s.put PEER_STATUS.CLAIM_BLOCKED 0 1 |>.raisePkg 3867
  else s.put PEER_STATUS.CLAIM_OUT 0 1

/-- The sets of a tree are locked and light (R71). -/
def State.opticsLit (t : Nat) (s : State) : State :=
  let s := s.askClaim
  (s.liveSets t).foldl (fun s k => s.put (lockedField k) t 1 |>.light t k) s

/-- LASER_PARK (R73): a tree in OFF releases its locked temperature, unless a re-weave of the tree holds it. -/
def execLaserPark (t : Nat) (s : State) : Result :=
  if s.get DMK_TREE_STATE.STATE t = 0 && !s.flag DMK_TREE_STATE.REWEAVE t then
    .next (s.put (lockedField 0) t 0 |>.put (lockedField 1) t 0)
  else .next s

/-- One calibration step toward the target: at most 0.1 dB, in units of 0.01 dB (R74). -/
def calStep (toward : Int) : Int := max (-10) (min 10 toward)

/-- The launch power that calibration aims at, in 0.01 dBm: that of the tree optics targets section plus the set's trim (R74). -/
def State.launchGoal (s : State) (t k : Nat) : Int :=
  Config.launchTarget (s.sect 0x0103 t) k + 10 * toSigned 8 (s.get (if k = 0 then TREE_OPT_CTRL.TRIM_FIFTY else TREE_OPT_CTRL.TRIM_XGS) t)

/-- TX_CALIBRATION (R74): a run of set `k`. A muted transmitter has nothing to calibrate, nor has a standby's (R329); else the run is missed under
CAL_FREEZE or out of lock. The tenth miss in a row on the tree, of either set, sets CAL_LAG (log entry 61). -/
def execTxCalibration (t k : Nat) (s : State) : Result :=
  if s.standbyFor t || s.get (txState k) t = 3 then .next s
  else if s.flag TREE_OPT_CTRL.CAL_FREEZE t || (s.setOf t k).txLol then
    let run := (s.tree t).calMissed + 1
    let s := s.addSat TREE_OPT_EVENTS.CAL_MISSED_COUNT t 1 |>.modTree t fun x => { x with calMissed := run }
    .next (if run = 10 then s.put TREE_OPT_STATUS.CAL_LAG t 1 |>.raiseTree t 1 else s)
  else if s.get (txState k) t = 2 then
    let i := t * 2 + k
    let p := toSigned 16 (s.get TREE_OPT_TX.POWER i)
    .next (s.put TREE_OPT_TX.POWER i (ofSigned 16 (p + calStep (s.launchGoal t k - p))) |>.modTree t fun x => { x with calMissed := 0 })
  else .next s

/-- BIAS as a percentage of the laser's beginning-of-life bias (R75). -/
def State.ageingPct (s : State) (t k : Nat) : Nat := s.get TREE_OPT_TX.BIAS (t * 2 + k) * 100 / Config.factoryBias t k

/-- LASER_AGEING_CHECK (R75). -/
def execLaserAgeingCheck (t k : Nat) (s : State) : Result :=
  let pct := s.ageingPct t k
  let s := s.put TREE_OPT_TX.AGEING_PCT (t * 2 + k) (min pct 255)
  .next (if 150 ≤ pct then s.put TREE_OPT_STATUS.AGEING t 1 |>.raiseTree t 1 else s)

/-- TX_MUTE_SET (R76): every lit transmitter goes dark, muted; per-terminal defects are suppressed (R107). -/
def execTxMuteSet (t : Nat) (s : State) : Result :=
  let s := s.put TREE_OPT_CTRL.TX_MUTE t 1
  let s := [0, 1].foldl (fun s k => if s.get (txState k) t = 2 then s.put (txState k) t 3 else s) s
  .next (s.judgeTree t)

/-- TX_MUTE_CLEAR (R76): muted transmitters light again; suppression lasts 10 ms more (R107). -/
def execTxMuteClear (t : Nat) (s : State) : Result :=
  let was := s.flag TREE_OPT_CTRL.TX_MUTE t
  let s := s.put TREE_OPT_CTRL.TX_MUTE t 0
  let s := [0, 1].foldl (fun s k => if s.get (txState k) t = 3 then s.light t k else s) s
  .next (if was then s.modTree t (fun x => { x with muteTail := true }) |>.judgeTree t else s)

/-- MUTE_SUPPRESSION_END (R107, R106). -/
def execMuteSuppressionEnd (t : Nat) (s : State) : Result :=
  .next (s.modTree t (fun x => { x with muteTail := false }) |>.judgeTree t)

/-- TX_LOL of the tree: either synthesiser out of lock (Table 3.11). -/
def State.showTxLol (t : Nat) (s : State) : State :=
  s.putFlag TREE_OPT_STATUS.TX_LOL t ((s.setOf t 0).txLol || (s.setOf t 1).txLol)

/-- TX_LOL (R77): the set's transmitter goes dark and the loss is counted; source OPTICS is raised. -/
def execTxLol (t k : Nat) (s : State) : Result :=
  let s := s.modSet t k fun x => { x with txLol := true }
  let s := s.put (txState k) t 0 |>.addSat TREE_OPT_EVENTS.TX_LOL_COUNT t 1
  .next (s.showTxLol t |>.raiseTree t 1)

/-- TX_RELOCK (R77): after 100 µs of lock the transmitter of a tree that is ON or SHUTTING, not yet dark, lights again; one of a tree in STARTING lights
once it is calibrated (R71). -/
def execTxRelock (t k : Nat) (s : State) : Result :=
  let s := s.modSet t k (fun x => { x with txLol := false }) |>.showTxLol t
  let st := s.get DMK_TREE_STATE.STATE t
  .next (if s.flag (lockedField k) t && !(s.tree t).txShut && (st = 2 || st = 3) then s.light t k else s)

/-! ### Burst contexts -/

/-- RATE is valid for the set (Table 3.6, R65): 0 on a Twill set, 1 to 3 on a 50G-PON set, 4 on an XGS-PON set. -/
def rateValid (variant k rate : Nat) : Bool :=
  if k = 1 then rate == 4 else if variant = 1 then rate == 0 else 1 ≤ rate && rate ≤ 3

/-- Symbols of 49.7664 GBd in a symbol of a RATE code (Table 3.6): 24.8832, 49.7664, 24.8832, 12.4416 and 9.95328 GBd. -/
def symbolTicks (rate : Nat) : Nat := [2, 1, 2, 4, 5].getD rate 1

/-- The checks of R79 on the next context of a set. -/
def State.contextGood (s : State) (t k : Nat) (c : BurstCtx) : Bool :=
  let x := s.setOf t k
  c.checkOk && c.frame == x.upFrame && rateValid (s.get TREE_OPT_STATUS.VARIANT t) k c.rate
    && (x.prevFrame != c.frame || x.prevEnd < c.start * symbolTicks c.rate)

/-- A grant that the part left unreceived: counted at tree level only, and reported to the grant engine (R79, R102). -/
def State.lostByPart (t : Nat) (s : State) : State := s.bump TREE_CNT.COUNT (t * 8 + 5) 1

/-- A bad or absent context (R79). -/
def State.contextError (t : Nat) (s : State) : State :=
  s.addSat TREE_OPT_DET.CONTEXT_ERROR_COUNT t 1 |>.put TREE_OPT_STATUS.CONTEXT_ERROR t 1 |>.raiseTree t 1 |>.lostByPart t

/-- A context with the settings its preamble is acquired with: the terminal's learned ones while they are valid, else its own GAIN and INIT_TH (R81). -/
def State.loaded (s : State) (t : Nat) (c : BurstCtx) : Loaded :=
  let i := termAt t c.terminal
  if s.flag TREE_RX_TERM.VALID i then
    ⟨c, Config.learnedGain (s.get TREE_RX_TERM.RX_POWER i), [s.get TREE_RX_TERM.TH_LOW i, s.get TREE_RX_TERM.TH_MID i, s.get TREE_RX_TERM.TH_HIGH i]⟩
  else ⟨c, c.gain, c.initTh⟩

/-- The shadow registers, where they are empty, take the next context of the ring with its terminal's learned state; its entry is free (Table 3.7,
R163). -/
def State.loadShadow (t k : Nat) (s : State) : State :=
  match (s.setOf t k).shadow, (s.setOf t k).ring with
  | none, c :: rest => s.modSet t k fun x => { x with ring := rest, shadow := some (s.loaded t c) }
  | _, _ => s

/-- What a swap does with what the shadow registers hold (R79, R80): it becomes active; one of a later frame stays, the due one being absent; another that
does not pass the checks is dropped. Without an active context the burst is left unreceived. -/
def State.swapTo (t k : Nat) (l : Loaded) (s : State) : State :=
  let ahead := wrapSub 32 l.ctx.frame (s.setOf t k).upFrame
  if s.contextGood t k l.ctx then
    s.modSet t k fun x =>
      { x with shadow := none, active := some l, prevEnd := (l.ctx.start + l.ctx.length) * symbolTicks l.ctx.rate, prevFrame := l.ctx.frame }
  else if l.ctx.checkOk && 0 < ahead && ahead < 2 ^ 31 then s.modSet t k (fun x => { x with active := none }) |>.contextError t
  else s.modSet t k (fun x => { x with shadow := none, active := none }) |>.contextError t

/-- CONTEXT_SWAP (R80, R79): the context in the shadow registers becomes active, and the next one is loaded into them behind it. -/
def execContextSwap (t k : Nat) (s : State) : Result :=
  let s := s.loadShadow t k
  match (s.setOf t k).shadow with
  | none => .next (s.modSet t k (fun x => { x with active := none }) |>.contextError t)
  | some l => .next (s.swapTo t k l |>.loadShadow t k)

/-- Every context of frame `n` of a set is gone: kept, in the ring or in the shadow registers (R161, Table 14.7). -/
def State.dropContexts (t k n : Nat) (s : State) : State :=
  s.modSet t k fun x => { x with kept := x.kept.filter fun c => c.frame != n, ring := x.ring.filter fun c => c.frame != n,
                                 shadow := x.shadow.filter fun l => l.ctx.frame != n }

/-- CONTEXT_RING_WRITE (R163, R78): the next context that the grant engine keeps enters the ring, while one of its 1,536 entries is free. -/
def execContextRingWrite (t k : Nat) (s : State) : Result :=
  match (s.setOf t k).kept with
  | [] => .next s
  | c :: rest => .next (if (s.setOf t k).ring.length < 1536 then s.modSet t k fun x => { x with kept := rest, ring := x.ring ++ [c] } else s)

/-! ### Detectors -/

/-- The loss-of-signal runs of a set step at the end of an upstream frame, if it was a counted one (R83). -/
def State.losFrameEnd (t k : Nat) (s : State) : State :=
  let x := s.setOf t k
  let dark := if x.counted && !x.lit then min 4 (x.darkRun + 1) else if x.counted then 0 else x.darkRun
  let lit := if x.counted && x.lit then min 2 (x.litRun + 1) else if x.counted then 0 else x.litRun
  let was := s.flag (losField k) t
  let los := if was then !(lit == 2) else dark == 4
  let s := s.modSet t k fun x => { x with darkRun := dark, litRun := lit, counted := false, lit := false }
  let s := s.putFlag (losField k) t los
  if los && !was then s.addSat TREE_OPT_DET.LOS_COUNT t 1 else s

/-- RX_LOL of the tree: either set out of lock (Table 3.11). -/
def State.showRxLol (t : Nat) (s : State) : State :=
  s.putFlag TREE_OPT_STATUS.RX_LOL t ((s.setOf t 0).rxLol || (s.setOf t 1).rxLol)

/-- RX_LOL (R83). -/
def execRxLol (t k : Nat) (s : State) : Result :=
  let was := (s.setOf t k).rxLol
  let s := s.modSet t k fun x => { x with rxLol := true }
  let s := if was then s else s.addSat TREE_OPT_DET.RX_LOL_COUNT t 1
  .next (s.showRxLol t |>.judgeTree t)

/-- RX_LOL_CLEAR (R83): after 100 µs of lock. -/
def execRxLolClear (t k : Nat) (s : State) : Result :=
  .next (s.modSet t k (fun x => { x with rxLol := false }) |>.showRxLol t |>.judgeTree t)

/-- RX_TERM_CLEAR (R82): the terminal's learned state is cleared. -/
def execRxTermClear (t n : Nat) (s : State) : Result := .next (s.clearRec TREE_RX_TERM.desc.fields (termAt t n))

/-! ### Patterns and injection -/

/-- A tree that carries traffic: ON and not started in test (R86, R88). -/
def State.inService (s : State) (t : Nat) : Bool := s.get DMK_TREE_STATE.STATE t == 2 && !(s.tree t).test

/-- The set that a tree's injector is pointed at (Table 3.17). -/
def State.injectSet (s : State) (t : Nat) : Nat := s.get TREE_INJ_CTRL.SET t

/-- Symbols of a tree's loopback that one error spoils: a moved symbol of a precoded pattern spoils two (R69, R86). -/
def State.loopSpoils (s : State) (t : Nat) : Nat :=
  if s.flag TREE_INJ_CTRL.MODE t && s.twill t (s.injectSet t) && s.flag TREE_PAT_CTRL.PRECODE t then 2 else 1

/-- One error injected at a place of the running frame's line bits (R88, R306). On a tree that carries traffic IN_SERVICE must permit it. The direction in
which MODE 1 moves an inner level is a free value (log entry 62). -/
def State.inject (u : PatUnit) (place : Nat) (s : State) : State :=
  match u with
  | .tree t =>
    if s.inService t && !s.flag TREE_INJ_CTRL.IN_SERVICE t then s
    else
      let flip := (s.flag TREE_INJ_CTRL.MODE t, s.free % 2 == 0, place)
      s.addWrap TREE_INJ_CTRL.INJECTED t 1 |>.useFree
        |>.modSet t (s.injectSet t) (fun x => { x with flips := x.flips ++ [flip] })
        |>.modTree t fun x => { x with loopErrors := x.loopErrors + s.loopSpoils t }
  | .fab _ _ => s.emit (.injected u)

/-- The injector's interval in bits: 2^(RATE_EXP + 10), never under 2^20 on a tree that carries traffic (R88). -/
def State.injectInterval (s : State) (t : Nat) : Nat :=
  let n := 2 ^ (s.get TREE_INJ_CTRL.RATE_EXP t + 10)
  if s.inService t then max (2 ^ 20) n else n

/-- State of the lane (0 to 3) or of the die link (8 lanes each, from 4) that a fabric generator, checker and injector belong to (R306). -/
def State.fabUnit (s : State) (d l : Nat) : Nat :=
  if l < 4 then s.get FAB_LANE_STATUS.STATE (4 * d + l) else s.get FAB_DL_STATUS.STATE (8 * d + (l - 4) / 8)

/-- The interval of a fabric injector in bits, never under 2^20 on a unit that is ON (R306, Table 13.13). -/
def State.fabInterval (s : State) (d l : Nat) : Nat :=
  let n := 2 ^ (s.get FAB_PAT_CTRL.INJ_EXP (d * 68 + l) + 10)
  if s.fabUnit d l = 2 then max (2 ^ 20) n else n

/-- ERROR_INJECT (R88, R306): the injector is enabled and its interval has passed since its last error. -/
def execErrorInject (u : PatUnit) (passed place : Nat) (s : State) : Result :=
  match u with
  | .tree t => .next (if s.flag TREE_INJ_CTRL.ENABLE t && s.injectInterval t ≤ passed then s.inject u place else s)
  | .fab d l => .next (if s.flag FAB_PAT_CTRL.INJ_ENABLE (d * 68 + l) && s.fabInterval d l ≤ passed then s.inject u place else s)

/-- ONE_SHOT_INJECT (R88, R306). -/
def execOneShotInject (u : PatUnit) (place : Nat) (s : State) : Result := .next (s.inject u place)

/-- The pattern checker's fields of a unit: lock and errors, with their unit number (Table 3.16, R306). -/
def patCheck : PatUnit → Field × Field × Nat
  | .tree t => (TREE_PAT_STATUS.CHK_LOCK, TREE_PAT_STATUS.ERRORS, t)
  | .fab d l => (FAB_PAT_STATUS.CHK_LOCK, FAB_PAT_STATUS.ERRORS, d * 68 + l)

/-- The selected check pattern of a unit; 0 is off (Table 3.9). -/
def State.checkPattern (s : State) (u : PatUnit) : Nat :=
  match u with
  | .tree t => s.get TREE_PAT_CTRL.CHK_PATTERN t
  | .fab d l => s.get FAB_PAT_CTRL.CHK_PATTERN (d * 68 + l)

/-- One bit that a checker examines (R87): the 64th correct one in a row locks it; one more error than 128 among the last 1,024 loses lock; bits and
errors count while it is locked. -/
def State.checkBit (u : PatUnit) (s : State) (ok : Bool) : State :=
  let (lock, errs, i) := patCheck u
  if s.flag lock i then
    let seen := (ok :: s.seenBits u).take 1024
    let s := s.addSat errs i (ofBool !ok)
    let s := match u with
      | .tree t => s.addWrap TREE_PAT_BITS.BITS t 1
      | .fab _ _ => s
    if 128 < (seen.filter fun b => !b).length then s.put lock i 0 |>.setSeen u [] else s.setSeen u seen
  else
    let seen := if ok then ok :: s.seenBits u else []
    if 64 ≤ seen.length then s.put lock i 1 |>.setSeen u [] else s.setSeen u seen

/-- In loopback the checker gets what the tree's generator sends (R86): the pattern itself where the two are set alike, but for what the injector spoiled
since, which falls on the next bits (log entry 62). -/
def State.loopBits (s : State) (t : Nat) (good : List Bool) : List Bool :=
  if s.get TREE_PAT_CTRL.GEN_PATTERN t = s.get TREE_PAT_CTRL.CHK_PATTERN t && s.get TREE_PAT_CTRL.GEN_SET t = s.get TREE_PAT_CTRL.CHK_SET t then
    good.mapIdx fun i _ => (s.tree t).loopErrors ≤ i
  else good

/-- The bits that reach a tree's checker: in test those of the loopback, or the chosen set's; in service those of the bursts of CHK_TERMINAL alone, a
terminal of the chosen set, while CHK_TERMINAL_MODE is 1 (R86, R87). -/
def State.checkedBits (s : State) (t : Nat) (terminal : Option Nat) (good : List Bool) : List Bool :=
  if (s.tree t).test then if s.flag TREE_PAT_CTRL.LOOP t then s.loopBits t good else good
  else if s.flag TREE_PAT_CTRL.CHK_TERMINAL_MODE t && terminal == some (s.get TREE_PAT_CTRL.CHK_TERMINAL t)
    && s.get TREE_RNG_TERM.SET (termAt t (s.get TREE_PAT_CTRL.CHK_TERMINAL t)) == s.get TREE_PAT_CTRL.CHK_SET t then good
  else []

/-- PATTERN_CHECKER_LOCK (R87, R306): the checker examines bits, each of which agrees with its pattern or does not; a fabric one acts in OFF alone. -/
def execPatternCheckerLock (u : PatUnit) (terminal : Option Nat) (good : List Bool) (s : State) : Result :=
  if s.checkPattern u = 0 then .next s
  else
    match u with
    | .tree t =>
      let bits := s.checkedBits t terminal good
      let looped := (s.tree t).test && s.flag TREE_PAT_CTRL.LOOP t
      let s := if looped then s.modTree t fun x => { x with loopErrors := x.loopErrors - bits.length } else s
      .next (bits.foldl (fun s ok => State.checkBit u s ok) s)
    | .fab d l => .next (if s.fabUnit d l = 0 then good.foldl (fun s ok => State.checkBit u s ok) s else s)

/-- OPT_TX_REFRESH (R89): the monitored transmit quantities of set `k`. -/
def execOptTxRefresh (t k power bias wave temp : Nat) (s : State) : Result :=
  let i := t * 2 + k
  .next (s.put TREE_OPT_TX.POWER i power |>.put TREE_OPT_TX.BIAS i bias |>.put TREE_OPT_TX.WAVE_OFFSET i wave
    |>.put TREE_OPT_TX.LASER_TEMP i temp)

end Sys2Proof.Machine
end

