-- ==== Sys2Proof/Machine/Grant.lean ====
section
/-!
DEFINITION. The grant engine's contexts and gate lists (R142 to R145, R157), demand and the arrival predictor (R148, R149),
and reservations (R159). Access completes with the command, so BUSY never arises (log entry 15).
-/

namespace Sys2Proof.Machine

/-- The unit number of allocation `a` of a tree. -/
def allocAt (t a : Nat) : Nat := t * 1024 + a

/-- The unit number of circuit `c` of a die. -/
def circAt (d c : Nat) : Nat := d * 1024 + c

/-- The unit number of burst profile `p` of a tree. -/
def profileAt (t p : Nat) : Nat := t * 4 + p

/-- What is kept of an allocation beside its context. -/
def State.alloc (s : State) (t a : Nat) : AllocSt := s.allocs.get ⟨t, a⟩ {}

/-- A change of it. -/
def State.modAlloc (t a : Nat) (f : AllocSt → AllocSt) (s : State) : State :=
  { s with allocs := s.allocs.set ⟨t, a⟩ {} (f (s.alloc t a)) }

/-- Grant counter `k` of a tree (Table 6.18). -/
def State.grantCnt (t k n : Nat) (s : State) : State := s.bump GRANT_CNT.COUNT (t * 14 + k) n

/-- The allocations of a tree whose CLASS is not OFF, in index order. -/
def State.allocations (s : State) (t : Nat) : List Nat :=
  (s.regs.filter fun e => e.1.n == ALLOC.CLASS.num && e.1.i / 1024 == t).map fun e => e.1.i % 1024

/-! ### Booking (R145) -/

/-- Grant units of an upstream frame of a set (R145). -/
def State.capacity (s : State) (t k : Nat) : Nat := if k = 1 then 38880 else if s.twill t k then 12150 else Config.ponCapacity

/-- FIXED or ASSURED. -/
def booked (cls : Nat) : Bool := cls == 1 || cls == 2

/-- The sum of RATE over the FIXED and ASSURED allocations of a set. -/
def State.bookedSum (s : State) (t k : Nat) : Nat :=
  ((s.allocations t).map fun a =>
    let i := allocAt t a
    if booked (s.get ALLOC.CLASS i) && s.get ALLOC.SET i == k then s.get ALLOC.RATE i else 0).sum

/-- A booked sum above BOOK_LIMIT percent of the set's capacity. -/
def State.overLimit (s : State) (t k sum : Nat) : Bool :=
  s.get GRANT_TREE_CTRL.BOOK_LIMIT t * s.capacity t k * 256 < sum * 100

/-- OVERBOOKED of a set. -/
def overbookedField (k : Nat) : Field := if k = 0 then GRANT_TREE_STATUS.OVERBOOKED_FIFTY else GRANT_TREE_STATUS.OVERBOOKED_XGS

/-- OVERBOOKED of both sets brought in line with the bookings (R145). -/
def State.judgeBooking (t : Nat) (s : State) : State :=
  [0, 1].foldl (fun (s : State) k =>
    let above := s.overLimit t k (s.bookedSum t k)
    let was := s.flag (overbookedField k) t
    let s := s.putFlag (overbookedField k) t above
    if above && !was then s.raise (dieOf t) 2179 else s) s

/-! ### Allocation contexts (R142, R144) -/

/-- The fields of bytes 0 to 31 of an allocation context. -/
def allocHost : List Field := ALLOC.fields.filter fun f => f.lsb < 256

/-- The fields of bytes 32 to 59 of an allocation context. -/
def allocEngine : List Field := ALLOC.fields.filter fun f => 256 ≤ f.lsb

/-- A field of a context as a number spells it. -/
def Field.ofBits (f : Field) (v : Nat) : Nat := bits v f.lsb f.width

/-- The checks of R144 on bytes 0 to 31 of a context. -/
def State.allocValid (s : State) (t v : Nat) : Bool :=
  let cls := ALLOC.CLASS.ofBits v
  let weight := ALLOC.WEIGHT.ofBits v
  let list := listAt (dieOf t) (ALLOC.GATE_LIST.ofBits v)
  let period := ALLOC.PERIOD.ofBits v
  let shift := ALLOC.PRED_SHIFT.ofBits v
  reservedClear ALLOC.fields 0 256 v && cls < 6
    && (cls == 0 || 1 ≤ ALLOC.MAX_GRANT.ofBits v)
    && (!(cls == 3 || cls == 4) || (1 ≤ weight && weight ≤ 4096))
    && (!(cls == 1 && ALLOC.PIN_EN.ofBits v == 1) || ALLOC.PIN.ofBits v ≤ 12149)
    && (cls != 5 || bitAt (s.get GATEHDR.USE list) 0)
    && (ALLOC.PREDICT.ofBits v == 0
      || ((ALLOC.PRED_MODE.ofBits v == 0 || 2 ≤ period) && 1 ≤ shift && shift ≤ 8 && 1 ≤ ALLOC.IDLE_N.ofBits v))

/-- A circuit of the tree's die that is enabled holds the allocation (R175). -/
def State.heldByCircuit (s : State) (t a : Nat) : Bool :=
  (s.regs.filter fun e => e.1.n == CIRC.RUN_STATE.num && e.1.i / 1024 == dieOf t).any fun e =>
    s.get CIRC.LOCAL_TREE e.1.i == t % 8 && s.get CIRC.ALLOCATION e.1.i == a

/-- The ONU-ID of a terminal. -/
def State.onuId (s : State) (t n : Nat) : Nat := s.get TREE_RNG_TERM.ONU_ID (termAt t n)

/-- Terminal `n` is in OPERATION (Table 5.2). -/
def State.inOperation (s : State) (t n : Nat) : Bool := s.get TREE_RNG_TERM.STATE (termAt t n) == 4

/-- After a WRITE: the assignment that must be withdrawn, sent or still waiting in the PLOAM ring, and the one that must be sent (R415). -/
def State.noteAssignment (t a : Nat) (s : State) : State :=
  let i := allocAt t a
  let n := s.get ALLOC.TERMINAL i
  let id := s.get ALLOC.ALLOC_ID i
  let off := s.get ALLOC.CLASS i == 0
  let x := s.alloc t a
  let held := x.assigned <|> x.sending
  let stale := held.any fun p => off || p != (n, id)
  let x := if stale then { x with deallocDue := held, assigned := none, sending := none } else x
  let due := !off && s.inOperation t n && id != s.onuId t n && x.assigned.isNone && x.sending.isNone
  s.modAlloc t a fun _ => { x with assignDue := due }

/-- Bytes 0 to 31 of a context written, with the checks of R144 and R145; `reset` zeroes the engine's bytes; CHECK is computed anew (R142).
Answers RESULT of Table 6.12. -/
def State.writeAlloc (t a v : Nat) (reset : Bool) (s : State) : Nat × State :=
  let i := allocAt t a
  let k := ALLOC.SET.ofBits v
  let cls := ALLOC.CLASS.ofBits v
  let old := s.bookedSum t k
  let own := if booked (s.get ALLOC.CLASS i) && s.get ALLOC.SET i == k then s.get ALLOC.RATE i else 0
  let sum := old - own + if booked cls then ALLOC.RATE.ofBits v else 0
  if !s.allocValid t v then (5, s)
  else if old < sum && s.overLimit t k sum then (2, s)
  else
    let s := s.unpackRec allocHost i v
    let s := if reset then s.clearRec allocEngine i |>.modAlloc t a fun x =>
        { x with granted := [], used := [], tally := [], reported := false, bad := false }
      else s.modAlloc t a fun x => { x with bad := false }
    (0, s.judgeBooking t |>.noteAssignment t a)

/-! ### Gate lists (R156, R157) -/

/-- A list is used by a GATED allocation of the die's trees. -/
def State.listGrants (s : State) (d g : Nat) : Bool :=
  (List.range 8).any fun j => (s.allocations (8 * d + j)).any fun a =>
    s.get ALLOC.CLASS (allocAt (8 * d + j) a) == 5 && s.get ALLOC.GATE_LIST (allocAt (8 * d + j) a) == g

/-- The gated queues of a die that use a list. -/
def State.listQueues (s : State) (d g : Nat) : List Nat :=
  ((s.regs.filter fun e => e.1.n == QUEUE.GATED.num && e.1.i / 65536 == d).filter fun e => s.get QUEUE.GATE_LIST e.1.i == g).map
    fun e => e.1.i % 32768

/-- Some allocation or queue uses the list (R157). -/
def State.listUsed (s : State) (d g : Nat) : Bool := s.listGrants d g || !(s.listQueues d g).isEmpty

/-- The fields of a header that belong to the operational bank, and those of the administrative bank (R157). -/
def headerOperational : List Field := [GATEHDR.BASE_S, GATEHDR.BASE_NS, GATEHDR.CYCLE_NS, GATEHDR.LENGTH, GATEHDR.USE]
/-- The fields of a header that belong to the administrative bank. -/
def headerAdmin : List Field := [GATEHDR.CHANGE_S, GATEHDR.CHANGE_NS, GATEHDR.ADMIN_LENGTH, GATEHDR.PENDING]

/-- A written header differs from the stored one in some of the fields. -/
def State.changes (s : State) (fs : List Field) (i v : Nat) : Bool := fs.any fun f => s.get f i != f.ofBits v

/-- The ranges of Table 6.5. -/
def headerValid (v : Nat) : Bool :=
  let cycle := GATEHDR.CYCLE_NS.ofBits v
  let len := GATEHDR.LENGTH.ofBits v
  let admin := GATEHDR.ADMIN_LENGTH.ofBits v
  reservedClear GATEHDR.fields 0 512 v && GATEHDR.BASE_NS.ofBits v < 10 ^ 9 && 10000 ≤ cycle && cycle ≤ 10 ^ 9
    && 1 ≤ len && len ≤ 1024 && GATEHDR.CHANGE_NS.ofBits v < 10 ^ 9 && 1 ≤ admin && admin ≤ 1024

/-- A header WRITE (R157). -/
def State.writeHeader (d g v : Nat) (s : State) : Nat × State :=
  let l := listAt d g
  let pend := s.flag GATEHDR.PENDING l
  let onlyClear := GATEHDR.PENDING.ofBits v == 0
    && !s.changes (headerOperational ++ [GATEHDR.CHANGE_S, GATEHDR.CHANGE_NS, GATEHDR.ADMIN_LENGTH]) l v
  if !headerValid v then (5, s)
  else if s.listUsed d g && s.changes headerOperational l v then (4, s)
  else if pend && s.changes headerAdmin l v && !onlyClear then (4, s)
  else
    let s := s.unpackRec GATEHDR.fields l v
    (0, if !pend && s.flag GATEHDR.PENDING l then { s with pendSince := s.pendSince.set ⟨l, 0⟩ 0 s.nowNs } else s)

/-- An entry WRITE: operational while nothing uses the list, administrative while no swap is pending (R157). -/
def State.writeEntry (d g e : Nat) (admin : Bool) (v : Nat) (s : State) : Nat × State :=
  let i := listAt d g * 1024 + e
  let dur := bits v 32 32
  if !reservedClear GATEOP.fields 0 64 v || dur = 0 || 10 ^ 9 < dur then (5, s)
  else if admin then
    if s.flag GATEHDR.PENDING (listAt d g) then (4, s) else (0, s.unpackRec GATEADM.fields i v)
  else if s.listUsed d g then (4, s) else (0, s.unpackRec GATEOP.fields i v)

/-! ### GRANT_ACC (R144, Table 6.12) -/

/-- The data words of the access window of a die. -/
def State.grantData (s : State) (d : Nat) : Nat := s.words GRANT_ACC_DATA.DATA (d * 8) 8

/-- The end of an access. -/
def State.grantDone (d r : Nat) (s : State) : State := s.put GRANT_ACC_CTRL.RESULT d r |>.put GRANT_ACC_CTRL.DONE d 1

/-- GRANT_ACC_READ (R144): the context, header or entry into the data words; TARGET 0 context of `tree` (local), 1 header, 2 operational
entry, 3 administrative entry. -/
def execGrantAccRead (d target tree index list : Nat) (s : State) : Result :=
  let v := match target with
    | 0 => withCheck (s.packRec ALLOC.fields (allocAt (8 * d + tree) index))
    | 1 => s.packRec GATEHDR.fields (listAt d list)
    | 2 => s.packRec GATEOP.fields (listAt d list * 1024 + index)
    | _ => s.packRec GATEADM.fields (listAt d list * 1024 + index)
  .next (s.putWords GRANT_ACC_DATA.DATA (d * 8) 8 v |>.grantDone d 0)

/-- A host write of a context: refused while a circuit holds the allocation (R175). -/
def State.hostAlloc (t a v : Nat) (reset : Bool) (s : State) : Nat × State :=
  if s.heldByCircuit t a then (4, s) else s.writeAlloc t a v reset

/-- The write that TARGET names: 0 context, 1 header, 2 operational entry, 3 administrative entry. -/
def State.grantWrite (d target tree index list v : Nat) (s : State) : Nat × State :=
  match target with
  | 0 => s.hostAlloc (8 * d + tree) index v false
  | 1 => s.writeHeader d list v
  | 2 => s.writeEntry d list index false v
  | _ => s.writeEntry d list index true v

/-- GRANT_ACC_WRITE (R144, R157). -/
def execGrantAccWrite (d target tree index list : Nat) (s : State) : Result :=
  let v := s.grantData d
  .next ((s.grantWrite d target tree index list v).2.grantDone d (s.grantWrite d target tree index list v).1)

/-- WRITE_RESET (R144): contexts only. -/
def execWriteReset (d target tree index : Nat) (s : State) : Result :=
  let v := s.grantData d
  if target = 0 then .next ((s.hostAlloc (8 * d + tree) index v true).2.grantDone d (s.hostAlloc (8 * d + tree) index v true).1)
  else .next (s.grantDone d 5)

/-! ### Demand (R148) -/

/-- Frames `f` of R + 1 to M with f mod PERIOD = PHI. -/
def phaseCount (r m period phi : Nat) : Nat :=
  let upTo := fun x => (x + period - phi) / period
  upTo m - upTo r

/-- PRED(a, R + 1 … M) of an allocation (R148). -/
def State.predicted (s : State) (t a m : Nat) : Nat :=
  let i := allocAt t a
  let r := s.get ALLOC.REPORT_FRAME i
  let span := wrapSub 32 m r
  if !s.flag ALLOC.PREDICT i || !s.flag GRANT_TREE_CTRL.PREDICT_EN t || s.flag ALLOC.SUSPENDED i || !(s.alloc t a).reported then 0
  else if s.get ALLOC.PRED_MODE i = 0 then s.get ALLOC.PRED i * span
  else s.get ALLOC.PRED i * phaseCount r (r + span) (s.get ALLOC.PERIOD i) (s.get ALLOC.PHI i)

/-- D(a) in 1/256 unit (R148). -/
def State.demand (s : State) (t a m : Nat) : Nat :=
  let i := allocAt t a
  s.get ALLOC.BACKLOG i + s.predicted t a m - s.get ALLOC.INFLIGHT i

/-- The demand in units. -/
def State.demandUnits (s : State) (t a m : Nat) : Nat := (s.demand t a m + 255) / 256

/-- `pred + ((x − pred) >> k)`, an arithmetic shift, kept in the 24 bits of PRED. -/
def predStep (pred : Nat) (x : Int) (k : Nat) : Nat :=
  min (maxOf 24) ((pred : Int) + (x - pred) / (2 : Int) ^ k).toNat

/-- The phase with the largest tally, the lowest on a tie (R148). -/
def bestPhase (tally : Nat → Int) (period : Nat) : Nat :=
  (List.range period).foldl (fun b p => if tally b < tally p then p else b) 0

/-- The tally of a phase, two's complement in 32 bits. -/
def tallyOf (ts : List (Nat × Nat)) (p : Nat) : Int := ((ts.filter fun e => e.1 == p).map fun e => toSigned 32 e.2).sum

/-- The predictor at the end of a period: PHI and PRED, and empty tallies (R148). -/
def State.predFold (t a : Nat) (s : State) : State :=
  let i := allocAt t a
  let period := s.get ALLOC.PERIOD i
  let tally := tallyOf (s.alloc t a).tally
  let sum := ((List.range period).map tally).sum
  s.put ALLOC.PHI i (bestPhase tally period) |>.put ALLOC.PRED i (predStep (s.get ALLOC.PRED i) sum (s.get ALLOC.PRED_SHIFT i))
    |>.modAlloc t a fun x => { x with tally := [] }

/-- Periods of no arrival whose further folding changes nothing: PRED of 24 bits at the largest PRED_SHIFT is then 0. -/
def foldLimit : Nat := 4096

/-- `n` ends of a period in a row. -/
def State.predFolds (t a : Nat) : Nat → State → State
  | 0, s => s
  | n + 1, s => State.predFolds t a n (s.predFold t a)

/-- Ends of a period among frames R + 1 to R'. -/
def periodEnds (r r' period : Nat) : Nat := (r' + 1) / period - (r + 1) / period

/-- Periodic mode (R148): the arrivals belong to frame R', after every earlier end of a period. -/
def State.predPeriodic (t a r r' : Nat) (arrived : Int) (s : State) : State :=
  let period := s.get ALLOC.PERIOD (allocAt t a)
  let before := periodEnds r (r' - 1) period
  let s := s.predFolds t a (min before foldLimit)
  let s := s.modAlloc t a fun x => { x with tally := x.tally ++ [(r' % period, ofSigned 32 arrived)] }
  if r' % period = period - 1 then s.predFold t a else s

/-- Units of a by-frame record in frames after `r` up to `r'`. -/
def unitsIn (r r' : Nat) (us : List (Nat × Nat)) : Nat :=
  ((us.filter fun e => 0 < wrapSub 32 e.1 r && wrapSub 32 e.1 r ≤ wrapSub 32 r' r).map fun e => e.2).sum

/-- The entries of a by-frame record after frame `r`. -/
def after (r : Nat) (us : List (Nat × Nat)) : List (Nat × Nat) :=
  us.filter fun e => 0 < wrapSub 32 e.1 r && wrapSub 32 e.1 r < 2 ^ 31

/-- STATUS_REPORT_DECODE (R148): a report of `backlog` (1/256 unit) of allocation `a` from upstream frame `r'`.
An earlier frame than REPORT_FRAME is stale; the same frame replaces BACKLOG alone; the first report teaches the predictor nothing (log entry 16). -/
def execStatusReportDecode (t a backlog r' : Nat) (s : State) : Result :=
  let i := allocAt t a
  let x := s.alloc t a
  let r := s.get ALLOC.REPORT_FRAME i
  let span := wrapSub 32 r' r
  let wake := fun (s : State) => if backlog = 0 then s else s.put ALLOC.SUSPENDED i 0 |>.put ALLOC.IDLE_RUN i 0
  if x.reported && 2 ^ 31 ≤ span then .next s
  else if x.reported && span = 0 then .next (wake (s.put ALLOC.BACKLOG i backlog))
  else
    let arrived : Int := (backlog : Int) - s.get ALLOC.BACKLOG i + 256 * unitsIn r r' x.used
    let s :=
      if !x.reported || !s.flag ALLOC.PREDICT i then s
      else if s.get ALLOC.PRED_MODE i = 0 then
        s.put ALLOC.PRED i (predStep (s.get ALLOC.PRED i) (arrived / (span : Int)) (s.get ALLOC.PRED_SHIFT i))
      else s.predPeriodic t a r (r + span) arrived
    let s := s.put ALLOC.BACKLOG i backlog |>.put ALLOC.REPORT_FRAME i r'
    let g := after r' x.granted
    let s := s.put ALLOC.INFLIGHT i (256 * (g.map fun e => e.2).sum)
    .next (wake (s.modAlloc t a fun y => { y with granted := g, used := after r' y.used, reported := true }))

/-- The units of an allocation in a VALID burst, judged (R149): `idle` of `units` carried no data. -/
def State.judgeIdle (t a frame units idle : Nat) (s : State) : State :=
  let i := allocAt t a
  let s := s.grantCnt t 5 idle |>.modAlloc t a fun x => { x with used := x.used ++ [(frame, units - idle)] }
  if idle < units then s.put ALLOC.IDLE_RUN i 0
  else
    let s := s.addSat ALLOC.IDLE_RUN i 1
    if s.get ALLOC.IDLE_RUN i = s.get ALLOC.IDLE_N i then s.put ALLOC.SUSPENDED i 1 else s

/-! ### Reservations (R159) -/

/-- The reservations of a set. -/
def State.resvOf (s : State) (t k : Nat) : List Resv := s.resv.get ⟨t, k⟩ []

/-- The reservations of a set replaced. -/
def State.setResv (t k : Nat) (rs : List Resv) (s : State) : State := { s with resv := s.resv.set ⟨t, k⟩ [] rs }

/-- A request through GRANT_RESV naming FRAME_LOW: judged and accepted or not (R159); 4 BAD names a set that is not live or a tree that is not
building. -/
def State.reserve (t k frameLow : Nat) (r : Nat → Resv) (s : State) : State :=
  let d := dieOf t
  let dist := wrapSub 16 frameLow (s.frame % 2 ^ 16)
  let m := (s.frame + dist) % 2 ^ 32
  let held := ((s.resvOf t k).filter fun x => x.frame == m && x.silent == 0).length
  let code :=
    if !(s.liveSets t).contains k then 4
    else if dist < 3 || 2 ^ 15 ≤ dist then 1
    else if 64 < dist then 2
    else if 8 ≤ held then 3 else 0
  let s := s.put GRANT_RESV_STATUS.ACCEPT d code
  if code = 0 then s.setResv t k (s.resvOf t k ++ [r m]) else s

/-- RESV_MICRO_WINDOW (R159, R128): 11 slots with MW_PROFILE to a provisional ONU-ID. -/
def execResvMicroWindow (t k onuId frameLow : Nat) (s : State) : Result :=
  .next (s.reserve t k frameLow fun m =>
    { frame := m, kind := .microWindow, onuId := onuId, units := 11, profile := s.get TREE_RNG_CHF.MW_PROFILE t })

/-- RESV_RANGING_GRANT (R159): the UNITS and PROFILE named; no unit at all is BAD. -/
def execResvRangingGrant (t k onuId frameLow units profile : Nat) (s : State) : Result :=
  if units = 0 then .next (s.put GRANT_RESV_STATUS.ACCEPT (dieOf t) 4)
  else .next (s.reserve t k frameLow fun m => { frame := m, kind := .ranging, onuId := onuId, units := units, profile := profile })

/-- The quiet-window reservation of a frame (R117): on Twill 11 slots with QW_PROFILE. -/
def State.quietResv (s : State) (t k m : Nat) : Resv :=
  { frame := m, kind := .quiet, onuId := 1023, units := if s.twill t k then 11 else Config.stdSerialGrant k,
    profile := s.get TREE_RNG_CHF.QW_PROFILE t }

/-- RESV_QUIET_WINDOW (R159). -/
def execResvQuietWindow (t k frameLow : Nat) (s : State) : Result := .next (s.reserve t k frameLow fun m => s.quietResv t k m)

/-! ### Bank swap (R157) -/

/-- Network time moves on to an instant in ns unless it is past it (log entry 7). -/
def State.reachNs (ns : Nat) (s : State) : State := if s.nowNs < ns then s.setTime (ns / 10 ^ 9) (ns % 10 ^ 9 * 2 ^ 16) else s

/-- Entry `e` of the two banks of a list exchanged. -/
def State.swapEntry (l : Nat) (s : State) (e : Nat) : State :=
  let i := l * 1024 + e
  s.put GATEOP.GATES i (s.get GATEADM.GATES i) |>.put GATEOP.DURATION_NS i (s.get GATEADM.DURATION_NS i)
    |>.put GATEADM.GATES i (s.get GATEOP.GATES i) |>.put GATEADM.DURATION_NS i (s.get GATEOP.DURATION_NS i)

end Sys2Proof.Machine
end

