-- ==== Sys2Proof/Machine/PeerSend.lean ====
section
/-!
DEFINITION. What a part of a protection pair sends over its peer lane (R323, R324): PEER blocks with their data blocks. Bytes of a record fill a
block from its low end (log entry 26).
-/

namespace Sys2Proof.Machine

/-- The peer lane, if it is ON (Table 14.1, R323). -/
def State.peerLane (s : State) : Option Nat :=
  (List.range (4 * s.dies)).find? fun l => s.get FAB_LANE_STATUS.MODE l == 4 && s.get FAB_LANE_STATUS.STATE l == 2

/-- Bits [55:8] of network time (Table 14.2). -/
def State.peerTime (s : State) : Nat := s.netSec % 256 * 2 ^ 40 + s.timeNs * 2 ^ 8 + s.netFrac % 2 ^ 16 / 2 ^ 8

/-- The part holds the claim with its settle complete (Table 14.2). -/
def State.holdsClaim (s : State) : Bool := s.flag PEER_STATUS.CLAIM_OUT 0 && !s.pair.settling

/-- A PEER block with its CRC (Table 14.2). -/
def State.peerHeader (s : State) (kind blocks arg : Nat) : Nat :=
  let body := 0x66 * 2 ^ 120 + kind * 2 ^ 116 + blocks * 2 ^ 104 + s.get PKG_IDENT.DEVICE_ID 0 * 2 ^ 94 + ofBool s.holdsClaim * 2 ^ 93
    + s.get PEER_STATUS.CLAIM_IN 0 * 2 ^ 92 + s.get PEER_STATUS.SENIOR 0 * 2 ^ 91 + s.pair.seq * 2 ^ 72 + s.peerTime * 2 ^ 24 + arg * 2 ^ 16
  body + crc16 112 (body / 2 ^ 16)

/-- A change of the pair. -/
def State.modPair (f : Pair → Pair) (s : State) : State := { s with pair := f s.pair }

/-- A peer message leaves over the peer lane, while pairing is on and the lane is ON. -/
def State.sendPeer (kind arg : Nat) (data : List Nat) (s : State) : State :=
  if !s.flag PEER_CTRL.ENABLE 0 then s
  else
    match s.peerLane with
    | none => s
    | some l =>
      let h := s.peerHeader kind data.length arg
      s.onLane l (.peer l h data) ((true, h) :: data.map fun v => (false, v)) |>.modPair fun p => { p with seq := (p.seq + 1) % 2 ^ 16 }

/-- Bytes as 16-byte blocks. -/
def blocksOf (n : Nat) (bytes : List Nat) : List Nat := (List.range n).map fun k => leValue ((bytes.drop (16 * k)).take 16)

/-- The part is the active for a tree: ROLE is ACTIVE and the tree is protected. -/
def State.activeFor (s : State) (t : Nat) : Bool := s.get PEER_STATUS.ROLE 0 == 2 && (s.tree t).shared

/-! ### TERMINAL records (Table 14.5) -/

/-- The fields of a terminal that a record carries. -/
def recordFields : List Field :=
  [TREE_RNG_TERM.STATE, TREE_RNG_TERM.SET, TREE_RNG_TERM.METHOD, TREE_RNG_TERM.ONU_ID, TREE_RNG_TERM.EQD, TREE_RNG_SN.SERIAL]

/-- The terminals of a tree whose ranging record differs from what it was. -/
def State.termsChanged (new old : State) (t : Nat) : List Nat :=
  (List.range 256).filter fun n => recordFields.any fun f => new.get f (termAt t n) != old.get f (termAt t n)

/-- The 32 bytes of a terminal's record. -/
def State.termRecord (s : State) (t n : Nat) : List Nat :=
  let i := termAt t n
  [t, n, s.get TREE_RNG_TERM.STATE i, s.get TREE_RNG_TERM.SET i + 2 * s.get TREE_RNG_TERM.METHOD i] ++ leBytes 2 (s.get TREE_RNG_TERM.ONU_ID i)
    ++ [0, 0] ++ leBytes 4 (s.get TREE_RNG_TERM.EQD i) ++ leBytes 8 (s.get TREE_RNG_SN.SERIAL i)
    ++ leBytes 4 (s.setOf t (s.get TREE_RNG_TERM.SET i)).dsFrame ++ List.replicate 8 0

/-- Records sent in messages of up to 8, `n` blocks a record. -/
def State.sendRecords (kind n : Nat) : Nat → List (List Nat) → State → State
  | 0, _, s => s
  | fuel + 1, rs, s =>
    if rs.isEmpty then s
    else
      let now := rs.take 8
      (s.sendPeer kind now.length (now.flatMap fun r => blocksOf n r)).sendRecords kind n fuel (rs.drop 8)

/-- The active tells the standby of every terminal of a tree whose ranging record has changed (Table 14.3). -/
def State.tellTerminals (s old : State) (t : Nat) : State :=
  if s.activeFor t then
    let ns := s.termsChanged old t
    s.sendRecords 2 2 ns.length (ns.map fun n => s.termRecord t n)
  else s

/-- A ranging event of a tree: what it changes in the terminals' records is told to a standby. -/
def tellRanging (t : Nat) (old : State) (r : Result) : Result :=
  match r with
  | .next s => .next (s.tellTerminals old t)
  | r => r

/-- A step of the ranging logic: a standby takes its ranging state from records alone (Table 14.7). -/
def rangingStep (t : Nat) (old : State) (r : Result) : Result := if old.standbyFor t then .next old else tellRanging t old r

end Sys2Proof.Machine
end

