-- ==== Sys2Proof/Machine/Parse.lean ====
section
/-!
DEFINITION. Parsing (chapter 8): the parse graph, the walk of R189, the header vector and malformed frames.
-/

namespace Sys2Proof.Machine

/-- Parse node `i` of a die as the number its 64 bytes spell (Table 8.1). -/
def State.parseNode (s : State) (d i : Nat) : Nat :=
  ((List.range 8).map fun k => s.get PARSE_NODE.DATA (d * 2048 + i * 8 + k) * 2 ^ (64 * k)).sum

/-- `w` bits of a node from bit `bit` of byte `byte`. -/
def nodeBits (node byte bit w : Nat) : Nat := bits node (8 * byte + bit) w

/-- Byte `k` of a frame of `len` bytes; beyond the end it reads as zero (R189). -/
def frameByte (bytes : List Nat) (len k : Nat) : Nat := if k < len then bytes.getD k 0 % 256 else 0

/-- The big-endian 16-bit word at byte `k` of a frame. -/
def frameWord (bytes : List Nat) (len k : Nat) : Nat := 256 * frameByte bytes len k + frameByte bytes len (k + 1)

/-- What a walk of the graph yields (R189, R191). -/
structure Parsed where
  headers : List Hdr := []
  field : List Nat := List.replicate 64 0
  malformed : Nat := 0
  node : Nat := 0
  pos : Nat := 0
  deriving DecidableEq, Repr

/-- Header length of a node at `pos` (R189). -/
def nodeLength (node : Nat) (bytes : List Nat) (len pos : Nat) : Nat :=
  if nodeBits node 1 1 1 = 1 then
    ((frameWord bytes len (pos + nodeBits node 4 0 8) / 2 ^ nodeBits node 5 0 4) &&& nodeBits node 6 0 16)
      * 2 ^ nodeBits node 5 4 3 + nodeBits node 2 0 16
  else nodeBits node 2 0 16

/-- Extract entry `e` of a node applied to the field area (Table 8.1). -/
def nodeExtract (node : Nat) (bytes : List Nat) (len pos : Nat) (field : List Nat) (e : Nat) : List Nat :=
  let at' := 42 + 3 * e
  if nodeBits node (at' + 1) 7 1 = 1 then
    (List.range (nodeBits node (at' + 1) 0 4 + 1)).foldl
      (fun a j => a.set (nodeBits node (at' + 2) 0 8 + j) (frameByte bytes len (pos + nodeBits node at' 0 8 + j))) field
  else field

/-- The node after this one: none ends the parse (R189). -/
def nodeNext (node : Nat) (bytes : List Nat) (len pos : Nat) : Option Nat :=
  if nodeBits node 1 0 1 = 1 then none
  else
    let sel := (frameWord bytes len (pos + nodeBits node 12 0 8) / 2 ^ nodeBits node 13 0 4) &&& nodeBits node 14 0 16
    match (List.range (min 8 (nodeBits node 40 0 8))).find? fun i => nodeBits node (16 + 3 * i) 0 16 == sel with
    | some i => some (nodeBits node (18 + 3 * i) 0 8)
    | none => if nodeBits node 1 2 1 = 1 then none else some (nodeBits node 41 0 8)

/-- The walk of R189 from `node` at `pos`, with `fuel` visits left; TOO_MANY when they run out. -/
def State.walk (s : State) (d : Nat) (bytes : List Nat) (len : Nat) : Nat → Nat → Parsed → Parsed
  | 0, node, p => { p with malformed := 3, node := node }
  | fuel + 1, node, p =>
    let n := s.parseNode d node
    let l := nodeLength n bytes len p.pos
    if l < nodeBits n 8 0 16 || nodeBits n 10 0 16 < l then { p with malformed := 4, node := node }
    else if 512 < p.pos + l then { p with malformed := 2, node := node }
    else if len < p.pos + l then { p with malformed := 1, node := node }
    else
      let p1 := { p with
        headers := p.headers ++ [Hdr.mk (nodeBits n 0 0 8) p.pos l]
        field := [0, 1, 2, 3].foldl (nodeExtract n bytes len p.pos) p.field }
      match nodeNext n bytes len p.pos with
      | none => { p1 with node := node, pos := p.pos + l }
      | some next => s.walk d bytes len fuel next { p1 with pos := p.pos + l }

/-- The parse of a frame on a die by parse profile (R187, R189): an entry that is not valid makes it malformed, NO_ENTRY. -/
def State.parse (s : State) (d : Nat) (up : Bool) (profile : Nat) (bytes : List Nat) (len : Nat) : Parsed :=
  let e := d * 16 + 8 * ofBool up + profile
  if s.flag PARSE_ENTRY.VALID e then s.walk d bytes len 16 (s.get PARSE_ENTRY.NODE e) {}
  else { malformed := 5 }

/-- A parser counter of a die (Table 8.12). -/
def State.parseCnt (d k : Nat) (s : State) : State := s.bump PARSE_CNT.COUNT (d * 14 + k) 1

/-- A parsed frame recorded: its counters, and for a malformed one PARSE_LAST_MAL (R191, R206). -/
def State.recordParse (d : Nat) (up : Bool) (profile tree lane : Nat) (p : Parsed) (s : State) : State :=
  let s := s.parseCnt d (ofBool up)
  if p.malformed = 0 then s
  else
    s.parseCnt d ((if up then 6 else 1) + p.malformed) |>.put PARSE_LAST_MAL.REASON d p.malformed
      |>.putFlag PARSE_LAST_MAL.DIRECTION d up |>.put PARSE_LAST_MAL.PROFILE d profile |>.put PARSE_LAST_MAL.COUNT d p.headers.length
      |>.put PARSE_LAST_MAL.OFFSET d p.pos |>.put PARSE_LAST_MAL.NODE d p.node
      |>.put PARSE_LAST_MAL.TREE d (if up then tree else 0) |>.put PARSE_LAST_MAL.FABRIC_LANE d (if up then 0 else lane)

/-- A frame parsed on a die (R187 to R191): the frame with its header vector, or none when a malformed frame is dropped. -/
def State.parseFrame (d profile : Nat) (f : Frame) (s : State) : Option Frame × State :=
  let p := s.parse d f.up profile f.bytes f.length
  let s := s.recordParse d f.up profile f.tree f.lane p
  let f := { f with headers := p.headers, field := p.field, malformed := p.malformed }
  if p.malformed ≠ 0 && !s.flag PARSE_CTRL.MALFORMED_ACTION d then (none, s.parseCnt d 13) else (some f, s)

/-! ### The header vector (R190) -/

/-- Input colour of a frame: PCP and DEI of the first header of COLOUR_TYPE select an entry of COLOUR_MAP; 3 reads as red (R200). -/
def State.inColour (s : State) (d : Nat) (f : Frame) : Nat :=
  let ty := s.get CLASS_CTRL.COLOUR_TYPE d
  match f.headers.find? fun h => h.type == ty with
  | some h => if ty = 0 then 0 else min 2 (bits (s.get CLASS_CTRL.COLOUR_MAP d) (2 * (frameWord f.bytes f.length h.offset / 4096)) 2)
  | none => 0

/-- The metadata block (Table 8.2). -/
def State.metadata (s : State) (d : Nat) (f : Frame) : Nat :=
  let last := (f.headers.getLast?.map fun h => h.type).getD 0
  f.domain % 2 ^ 12 * 2 ^ 116 + ofBool f.up * 2 ^ 115 + f.tree % 64 * 2 ^ 109 + f.set % 2 * 2 ^ 108 + f.linePort % 2 ^ 12 * 2 ^ 96
    + f.service % 2 ^ 20 * 2 ^ 76 + (if f.up then 0 else f.lane % 32) * 2 ^ 71 + s.inColour d f * 2 ^ 69 + f.malformed % 8 * 2 ^ 66
    + ofBool f.macsec * 2 ^ 65 + f.length % 2 ^ 16 * 2 ^ 48 + (if f.up then f.terminal % 256 else 0) * 2 ^ 40
    + min 16 f.headers.length * 2 ^ 35 + last * 2 ^ 27

/-- The 80 bytes of the classifier's key: the metadata block, bit 127 first, then the field area (R190). -/
def State.classKey (s : State) (d : Nat) (f : Frame) : List Nat :=
  (leBytes 16 (s.metadata d f)).reverse ++ (List.range 64).map fun k => f.field.getD k 0

end Sys2Proof.Machine
end

