-- ==== Sys2Proof/Machine/Classify.lean ====
section
/-!
DEFINITION. Classification and policing (chapter 8): exact and ternary rules, rule actions and their merging, meters, host access.
-/

namespace Sys2Proof.Machine

/-! ### Rule tables -/

/-- A rule action from its 16 bytes (Table 8.4). -/
def RuleAction.ofBits (v : Nat) : RuleAction where
  drop := bitAt v 0
  override := bitAt v 1
  anyDomain := bitAt v 2
  tcEn := bitAt v 3
  tc := bits v 4 3
  meterEn := bitAt v 8
  countEn := bitAt v 9
  domain := bits v 16 12
  meter := bits v 32 18
  counter := bits v 64 20

/-- A rule action as its 16 bytes spell it. -/
def RuleAction.toBits (a : RuleAction) : Nat :=
  ofBool a.drop + ofBool a.override * 2 + ofBool a.anyDomain * 4 + ofBool a.tcEn * 8 + a.tc * 16 + ofBool a.meterEn * 2 ^ 8
    + ofBool a.countEn * 2 ^ 9 + a.domain * 2 ^ 16 + a.meter * 2 ^ 32 + a.counter * 2 ^ 64

/-- The action part of the data holds no reserved 1 (R12). -/
def actionClear (v : Nat) : Bool := RuleAction.toBits (RuleAction.ofBits v) == v % 2 ^ 128

/-- The 36 bytes that a key profile selects, zero-filled (R194). -/
def State.selected (s : State) (d profile : Nat) (key : List Nat) : List Nat :=
  let i := (d * 16 + profile) * 2
  let mask := s.get PARSE_KEY_PROFILE.MASK i + s.get PARSE_KEY_PROFILE.MASK (i + 1) % 2 ^ 16 * 2 ^ 64
  let sel := ((List.range 80).filter fun k => bitAt mask k).map fun k => key.getD k 0
  (sel ++ List.replicate 36 0).take 36

/-- The 38-byte exact key of a frame (R194). -/
def State.exactKey (s : State) (d profile : Nat) (f : Frame) (key : List Nat) : List Nat :=
  let p := profile + 8 * ofBool f.up
  [f.domain / 16 % 256, f.domain % 16 * 16 + p % 16] ++ s.selected d p key

/-- The two buckets of an exact key (R194). -/
def exactBuckets (key : List Nat) : Nat × Nat :=
  let c := crc32c key
  (c % 16384, (2 ^ 32 - 1 - c) % 16384)

/-- Whether a slot of the exact table holds a rule. -/
def State.exactAt (s : State) (d slot : Nat) : Option ExactRule := s.exact.get ⟨d, slot⟩ none

/-- The four slots of a bucket. -/
def bucketSlots (b : Nat) : List Nat := [4 * b, 4 * b + 1, 4 * b + 2, 4 * b + 3]

/-- The slot that holds a key. -/
def State.exactFind (s : State) (d : Nat) (key : List Nat) : Option Nat :=
  let b := exactBuckets key
  (bucketSlots b.1 ++ bucketSlots b.2).find? fun i => (s.exactAt d i).any fun r => r.key == key

/-- A slot of the exact table set. -/
def State.exactSet (d slot : Nat) (r : Option ExactRule) (s : State) : State :=
  { s with exact := s.exact.set ⟨d, slot⟩ none r }

/-- Free slots of a bucket. -/
def State.exactFree (s : State) (d b : Nat) : List Nat := (bucketSlots b).filter fun i => (s.exactAt d i).isNone

/-- Where INSERT places a rule: the fuller bucket with a free entry, the lower-numbered when equally full; the lowest free slot (R194). -/
def State.exactPlace (s : State) (d : Nat) (key : List Nat) : Option Nat :=
  let b := exactBuckets key
  let lo := min b.1 b.2
  let hi := max b.1 b.2
  let fl := s.exactFree d lo
  let fh := s.exactFree d hi
  if fl.isEmpty then fh.head? else if fh.isEmpty then fl.head?
  else if fh.length < fl.length then fh.head? else fl.head?

/-! ### Host access -/

/-- The 176 bytes of CLASS_ACC_DATA as one number. -/
def State.classData (s : State) (d : Nat) : Nat := s.words CLASS_ACC_DATA.DATA (d * 22) 22

/-- The exact key in the data: bytes 0 to 37. -/
def State.dataKey (s : State) (d : Nat) : List Nat := leBytes 38 (s.classData d)

/-- The action in the data: bytes 160 to 175. -/
def State.dataAction (s : State) (d : Nat) : Nat := bits (s.classData d) 1280 128

/-- A classifier access completes with a RESULT (Table 8.15). -/
def State.classDone (d r : Nat) (s : State) : State := s.put CLASS_ACC_CTRL.RESULT d r |>.put CLASS_ACC_CTRL.DONE d 1

/-- The action shown in the data. -/
def State.showAction (d : Nat) (a : RuleAction) (s : State) : State :=
  s.putWords CLASS_ACC_DATA.DATA (d * 22 + 20) 2 a.toBits

/-- CLASS_RULE_READ of an exact rule by the key in the data (R195, Table 8.15). -/
def execClassRuleReadExact (d : Nat) (s : State) : State :=
  match s.exactFind d (s.dataKey d) with
  | some i =>
    match s.exactAt d i with
    | some r => s.showAction d r.action |>.classDone d 0
    | none => s.classDone d 4
  | none => s.classDone d 4

/-- CLASS_RULE_READ (R195): an exact rule is found by its key, a ternary rule by its index; an index with no rule reads as zeros. -/
def execClassRuleRead (d : Nat) (ternary : Bool) (index : Nat) (s : State) : Result :=
  if ternary then
    let r := s.tern.get ⟨d, index⟩ none
    let v := (r.map fun r => r.value.toNat).getD 0
    let m := (r.map fun r => r.mask.toNat).getD 0
    .next (s.putWords CLASS_ACC_DATA.DATA (d * 22) 10 v |>.putWords CLASS_ACC_DATA.DATA (d * 22 + 10) 10 m
      |>.showAction d ((r.map fun r => r.action).getD {}) |>.classDone d 0)
  else .next (execClassRuleReadExact d s)

/-- The domain that a 640-bit value spells in key bytes 0 and 1 (Table 8.2). -/
def keyDomain (v : Nat) : Nat := v % 256 * 16 + bits v 12 4

/-- A ternary rule in bound or unbound form (R196). -/
def ternaryForm (value mask : Nat) (a : RuleAction) : Bool :=
  if a.anyDomain then keyDomain mask == 0 && !a.meterEn && !a.countEn && a.domain == 0
  else keyDomain mask == 4095 && keyDomain value == a.domain

/-- TERNARY_WRITE (R195, R196): value, mask and action together; any form but the two is BAD_VALUE. -/
def execTernaryWrite (d index : Nat) (s : State) : Result :=
  let v := s.classData d % 2 ^ 640
  let m := bits (s.classData d) 640 640
  let a := RuleAction.ofBits (s.dataAction d)
  if actionClear (s.dataAction d) && ternaryForm v m a then
    let r : TernRule := ⟨BitVec.ofNat 640 v, BitVec.ofNat 640 m, a⟩
    .next ({ s with tern := s.tern.set ⟨d, index⟩ none (some r) }.classDone d 0)
  else .next (s.classDone d 5)

/-- The action an exact rule stores: its domain is the key's (Table 8.4). -/
def State.exactAction (s : State) (d : Nat) : RuleAction :=
  { RuleAction.ofBits (s.dataAction d) with
    override := false, anyDomain := false, domain := (s.dataKey d).getD 0 0 * 16 + (s.dataKey d).getD 1 0 / 16 }

/-- EXACT_INSERT (R194). -/
def execExactInsert (d : Nat) (s : State) : Result :=
  if !actionClear (s.dataAction d) then .next (s.classDone d 5)
  else if (s.exactFind d (s.dataKey d)).isSome then .next (s.classDone d 3)
  else
    match s.exactPlace d (s.dataKey d) with
    | some i =>
      .next (s.exactSet d i (some ⟨s.dataKey d, s.exactAction d⟩) |>.put CLASS_STATUS.EXACT_USED d (s.get CLASS_STATUS.EXACT_USED d + 1)
        |>.classDone d 0)
    | none => .next (s.addSat CLASS_STATUS.INSERT_FULL d 1 |>.classDone d 2)

/-- EXACT_REPLACE (R194): the action of a present key changes. -/
def execExactReplace (d : Nat) (s : State) : Result :=
  if !actionClear (s.dataAction d) then .next (s.classDone d 5)
  else
    match s.exactFind d (s.dataKey d) with
    | some i => .next (s.exactSet d i (some ⟨s.dataKey d, s.exactAction d⟩) |>.classDone d 0)
    | none => .next (s.classDone d 4)

/-- EXACT_DELETE (R194). -/
def execExactDelete (d : Nat) (s : State) : Result :=
  match s.exactFind d (s.dataKey d) with
  | some i => .next (s.exactSet d i none |>.put CLASS_STATUS.EXACT_USED d (s.get CLASS_STATUS.EXACT_USED d - 1) |>.classDone d 0)
  | none => .next (s.classDone d 4)

/-! ### Meters -/

/-- The unit number of meter `m` of a die. -/
def meterAt (d m : Nat) : Nat := d * 262144 + m

/-- A meter access completes (Table 8.17). -/
def State.meterDone (d r : Nat) (s : State) : State := s.put CLASS_METER_ACC_CTRL.RESULT d r |>.put CLASS_METER_ACC_CTRL.DONE d 1

/-- METER_READ (R203). -/
def execMeterRead (d m : Nat) (s : State) : Result :=
  .next (s.putWords CLASS_METER_DATA.DATA (d * 4) 4 (s.packRec METER.fields (meterAt d m)) |>.meterDone d 0)

/-- The contract in bytes 0 to 19 lies in its ranges (Table 8.6, R12). -/
def meterValid (v : Nat) : Bool :=
  let adj := toSigned 8 (bits v 120 8)
  bits v 0 32 ≤ bits v 32 32 && bits v 32 32 ≤ 1600000000 && -64 ≤ adj && adj ≤ 63 && reservedClear METER.fields 0 160 v

/-- METER_WRITE (R203): KEEP clips the tokens to the new buckets; otherwise both fill and LAST is the present count. -/
def execMeterWrite (d m : Nat) (keep : Bool) (s : State) : Result :=
  let v := s.words CLASS_METER_DATA.DATA (d * 4) 4
  if !meterValid v then .next (s.meterDone d 5)
  else
    let i := meterAt d m
    let tc := s.get METER.TC_TOKENS i
    let tp := s.get METER.TP_TOKENS i
    let cbs := 256 * bits v 64 24
    let pbs := 256 * bits v 96 24
    let s := s.unpackRec (METER.fields.filter fun f => f.lsb < 160) i v
    let s := if keep then s.put METER.TC_TOKENS i (min tc cbs) |>.put METER.TP_TOKENS i (min tp pbs)
      else s.put METER.TC_TOKENS i cbs |>.put METER.TP_TOKENS i pbs |>.put METER.LAST i s.ns32
    .next (s.meterDone d 0)

/-- One meter polices a frame with input colour `c` (R201): the colour that results. -/
def State.police (i len c : Nat) (s : State) : Nat × State :=
  let e := wrapSub 32 s.ns32 (s.get METER.LAST i)
  let tc := refill (s.get METER.CBS i) (s.get METER.CIR i) e (s.get METER.TC_TOKENS i)
  let tp := refill (s.get METER.PBS i) (s.get METER.PIR i) e (s.get METER.TP_TOKENS i)
  let b := 256 * (max 1 ((len : Int) + toSigned 8 (s.get METER.LEN_ADJ i))).toNat
  let aware := s.flag METER.AWARE i
  let (col, tc, tp) :=
    if (aware && c == 2) || tp < b then (2, tc, tp)
    else if (aware && c == 1) || tc < b then (1, tc, tp - b)
    else (0, tc - b, tp - b)
  (col, s.put METER.LAST i s.ns32 |>.put METER.TC_TOKENS i tc |>.put METER.TP_TOKENS i tp)

/-- A second meter of a frame: the first meter's colour is its input, as if it were colour-aware (R202). -/
def State.policeSecond (i len c : Nat) (s : State) : Nat × State :=
  let was := s.get METER.AWARE i
  let (col, s) := s.put METER.AWARE i 1 |>.police i len c
  (col, s.put METER.AWARE i was)

/-! ### Classification of a frame (R197 to R199) -/

/-- A classifier counter of a die (Table 8.18). -/
def State.classCnt (d k : Nat) (s : State) : State := s.bump CLASS_CNT.COUNT (d * 8 + k) 1

/-- What the search of the ternary table gives: the action of the rule that prevails, and whether the frame met a bound rule of another domain. -/
structure TernHit where
  action : Option RuleAction := none
  foreign : Bool := false
  deriving DecidableEq, Repr

/-- The lowest matching ternary rule whose domain check passes; each matching bound rule of another domain before it is ignored and counted (R195,
R196). -/
def State.ternMatch (d : Nat) (f : Frame) (key : BitVec 640) (s : State) : TernHit × State :=
  (s.tern.filter fun e => e.1.n == d).foldl (init := (({} : TernHit), s)) fun (acc : TernHit × State) e =>
    match acc.1.action, e.2 with
    | none, some r =>
      if key &&& r.mask = r.value &&& r.mask then
        if r.action.anyDomain || r.action.domain == f.domain then ({ acc.1 with action := some r.action }, acc.2)
        else ({ acc.1 with foreign := true }, acc.2.sepFrame d 4 f r.action.domain e.1.i)
      else acc
    | _, _ => acc

/-- The count action of a hit rule (R198, R199): false where the counter's bank belongs to another domain. -/
def State.ruleCount (d : Nat) (f : Frame) (a : RuleAction) (s : State) : Bool × State :=
  if !a.countEn then (true, s)
  else
    match s.bankOf d (2 * a.counter), s.bankOf d (2 * a.counter + 1) with
    | some b, some b' =>
      if b.kind == 0 && b'.kind == 0 && b.domain == f.domain && b'.domain == f.domain then
        (true, s.count d (2 * a.counter) 1 |>.count d (2 * a.counter + 1) f.length)
      else (false, s.sepFrame d 6 f (if b.kind == 0 then b.domain else 0xFFF) a.counter)
    | _, _ => (false, s.sepFrame d 6 f 0xFFF a.counter)

/-- The meter of a hit rule (R199, R201, R202): none where its domain is another's; else the colour and whether the frame is dropped,
which only the meter that made it red decides. -/
def State.ruleMeter (d : Nat) (f : Frame) (a : RuleAction) (second : Bool) (c : Nat) (s : State) : Option (Nat × Bool) × State :=
  let i := meterAt d a.meter
  if s.get METER.DOMAIN i ≠ f.domain then (none, s.sepFrame d 5 f (s.get METER.DOMAIN i) a.meter)
  else
    let (col, s) := if second then s.policeSecond i f.length c else s.police i f.length c
    (some (col, col == 2 && !(second && c == 2) && s.flag METER.RED_DROP i), s)

/-- What classification does with a frame: the frame with its class and colour, or none when it is dropped. -/
abbrev Classified := Option Frame × State

/-- Both rules' meters run in order, and the frame leaves with the worse colour (R202). -/
def State.runMeters (d : Nat) (f : Frame) (first second : Option RuleAction) (s : State) : Classified :=
  let use := fun (o : Option RuleAction) => o.filter fun a => a.meterEn
  let c0 := s.inColour d f
  let finish := fun (c : Nat) (metered : Bool) (s : State) =>
    (some { f with colour := c }, if metered then s.classCnt d (3 + c) else s)
  let drop := fun (s : State) => ((none : Option Frame), s)
  match use first, use second with
  | none, none => finish c0 false s
  | some a, none | none, some a =>
    match s.ruleMeter d f a false c0 with
    | (none, s) => drop (s.classCnt d 7)
    | (some (_, true), s) => drop (s.classCnt d 6)
    | (some (c, false), s) => finish c true s
  | some a, some b =>
    match s.ruleMeter d f a false c0 with
    | (none, s) => drop (s.classCnt d 7)
    | (some (_, true), s) => drop (s.classCnt d 6)
    | (some (c1, false), s) =>
      match s.ruleMeter d f b true c1 with
      | (none, s) => drop (s.classCnt d 7)
      | (some (_, true), s) => drop (s.classCnt d 6)
      | (some (c2, false), s) => finish (max c1 c2) true s

/-- The traffic class of a frame from the rules that hit (R197). -/
def mergedTc (exact tern : Option RuleAction) : Nat :=
  match tern.filter fun a => a.override && a.tcEn, exact.filter fun a => a.tcEn, tern.filter fun a => a.tcEn with
  | some a, _, _ => a.tc
  | none, some a, _ => a.tc
  | none, none, some a => a.tc
  | none, none, none => 0

/-- The tree's default for a frame that no rule matches (R197, R207). -/
def State.classDefault (d : Nat) (f : Frame) (s : State) : Classified :=
  let s := s.bump CLASS_TREE_CNT.COUNT (2 * f.tree + ofBool f.up) 1
  let dropF := if f.up then CLASS_DEFAULT.US_DROP else CLASS_DEFAULT.DS_DROP
  let tcF := if f.up then CLASS_DEFAULT.US_TC else CLASS_DEFAULT.DS_TC
  if s.flag dropF f.tree then (none, s.classCnt d 2)
  else (some { f with tc := s.get tcF f.tree, colour := s.inColour d f }, s)

/-- CLASSIFY_FRAME (R197): both tables searched, the count of each hit rule, DROP, class, meters. A frame that met a bound rule of another domain is dropped
once its counts have run (R37, Table 8.18). `profile` is the frame's parse profile. -/
def State.classify (d profile : Nat) (f : Frame) (s : State) : Classified :=
  let key := s.classKey d f
  let ex := (s.exactFind d (s.exactKey d profile f key)).bind fun i => (s.exactAt d i).map fun r => r.action
  let (hit, s) := s.ternMatch d f (BitVec.ofNat 640 (leValue key))
  let te := hit.action
  let s := if ex.isSome then s.classCnt d 0 else s
  let s := if te.isSome then s.classCnt d 1 else s
  if ex.isNone && te.isNone then if hit.foreign then (none, s.classCnt d 7) else s.classDefault d f
  else
    let (ok1, s) := match ex with | some a => s.ruleCount d f a | none => (true, s)
    let (ok2, s) := match te with | some a => s.ruleCount d f a | none => (true, s)
    if hit.foreign || !(ok1 && ok2) then (none, s.classCnt d 7)
    else if (ex.any fun a => a.drop) || (te.any fun a => a.drop) then (none, s.classCnt d 2)
    else s.runMeters d { f with tc := mergedTc ex te } ex te

end Sys2Proof.Machine
end

