-- ==== Sys2Proof/Machine/DmaRing.lean ====
section
/-!
DEFINITION. MSI-X messages (R358, R386), and the rings of the DMA channels (R387): descriptors in flight, and their completion in ring order.
-/

namespace Sys2Proof.Machine

/-! ### MSI-X vectors -/

/-- The pending bit of a vector. -/
def State.putPba (v : Nat) (on : Bool) (s : State) : State :=
  let w := s.get HOST_MSIX_PBA.BITS (v / 64)
  s.put HOST_MSIX_PBA.BITS (v / 64) (if on then setBit w (v % 64) else clearBit w (v % 64))

/-- A message of a vector, or its pending bit while the vector is masked or the function is in D3hot (Table 17.1). -/
def State.sendVector (v : Nat) (s : State) : State :=
  if s.flag HOST_MSIX_CTRL.MASK v || s.pci.d3hot then s.putPba v true
  else s.putPba v false |>.emit (.msix v (s.get HOST_MSIX_ADDR.ADDR v) (s.get HOST_MSIX_CTRL.MSG_DATA v))

/-! ### Descriptors in flight -/

/-- The descriptors that a channel has fetched and not completed, in ring order. -/
def State.jobs (s : State) (c : Nat) : List DmaJob := s.dma.get ⟨c, 0⟩ []

/-- They changed. -/
def State.setJobs (c : Nat) (js : List DmaJob) (s : State) : State := { s with dma := s.dma.set ⟨c, 0⟩ [] js }

/-- Descriptors of a channel's ring. -/
def State.ringSize (s : State) (c : Nat) : Nat := 2 ^ (s.get HOST_DMA_CTRL.SIZE_EXP c + 4)

/-- One descriptor completed: DONE_LENGTH and STATUS written, then DONE; HEAD moves on, and the vector is sent if IRQ is set (R387). -/
def State.completeJob (c : Nat) (j : DmaJob) (status n : Nat) (s : State) : State :=
  let head := s.get HOST_DMA_PTR.HEAD c
  let at0 := s.get HOST_DMA_BASE.ADDR c * 32 + 32 * head
  let s := s.emit (.hostWrite (at0 + 24) (leBytes 4 n)) |>.emit (.hostWrite (at0 + 2) [status])
    |>.emit (.hostWrite (at0 + 1) [setBit (j.flags % 256) 7])
    |>.put HOST_DMA_PTR.HEAD c ((head + 1) % s.ringSize c) |>.put HOST_DMA_STATUS.LAST_STATUS c status |>.addWrap HOST_DMA_STATUS.COMPLETED c 1
  if bitAt j.flags 0 then s.sendVector (s.get HOST_DMA_CTRL.VECTOR c) else s

/-- Descriptors at the front of a channel's list that are done complete, in ring order (R387). -/
def State.dmaFlush (c : Nat) : List DmaJob → State → State
  | [], s => s.setJobs c []
  | j :: rest, s =>
    match j.done with
    | some (st, n) => (s.completeJob c j st n).dmaFlush c rest
    | none => s.setJobs c (j :: rest)

/-- The first descriptor in flight for which `mine` holds is done. -/
def jobDone (mine : DmaJob → Bool) (st n : Nat) : List DmaJob → List DmaJob
  | [] => []
  | j :: rest => if j.done.isNone && mine j then { j with done := some (st, n) } :: rest else j :: jobDone mine st n rest

/-- A descriptor of a channel done, and completed when its turn comes. -/
def State.dmaDone (c : Nat) (mine : DmaJob → Bool) (st n : Nat) (s : State) : State := s.dmaFlush c (jobDone mine st n (s.jobs c))

/-- A channel can fetch another descriptor: in D0, enabled, without error, TAIL ahead of what it has fetched; one with FENCE waits for the earlier ones. -/
def State.mayFetch (s : State) (c flags : Nat) : Bool :=
  let n := (s.jobs c).length
  let left := (s.get HOST_DMA_PTR.TAIL c + s.ringSize c - s.get HOST_DMA_PTR.HEAD c % s.ringSize c) % s.ringSize c
  !s.pci.d3hot && s.flag HOST_DMA_CTRL.ENABLE c && !s.flag HOST_DMA_STATUS.ERROR c && decide (n < left) && !(bitAt flags 1 && 0 < n)

end Sys2Proof.Machine
end

