-- ==== Sys2Proof/Machine/Forward.lean ====
section
/-!
DEFINITION. The forwarding table unit (chapter 9): entries and buckets, the lookup and its cache, ordered updates (R30), learning,
insertion with displacement, ageing, locks, learning events.
-/

namespace Sys2Proof.Machine

/-! ### Entries, keys and buckets (R209, R210) -/

/-- The 23-byte hash key of an entry (R209). -/
def FwdEntry.hashKey (e : FwdEntry) : List Nat := [e.type % 4] ++ leBytes 2 e.domain ++ leBytes 20 e.key

/-- Two entries have one key: TYPE, DOMAIN and KEY (R208). -/
def FwdEntry.same (a b : FwdEntry) : Bool := a.type == b.type && a.domain == b.domain && a.key == b.key

/-- The home buckets of an entry (R210). -/
def FwdEntry.homes (e : FwdEntry) : Nat × Nat :=
  let c := crc32c e.hashKey
  let h1 := c % 2 ^ 18
  let h2 := bits c 14 18
  (h1, if h2 = h1 then h1 ^^^ 1 else h2)

/-- The key of a SERVICE entry (Table 9.2). -/
def serviceKey (lane mode outer inner : Nat) : Nat := lane % 32 + mode * 2 ^ 8 + outer * 2 ^ 16 + inner * 2 ^ 32

/-- The key of a MAC entry (Table 9.2): the address as its bytes spell a little-endian number, first byte sent first. -/
def macKey (bridge addr : Nat) : Nat := bridge % 2 ^ 16 + addr % 2 ^ 48 * 2 ^ 16

/-- BRIDGE of a SERVICE result. -/
def FwdEntry.bridge (e : FwdEntry) : Nat := bits e.result 32 16
/-- SERVICE of a SERVICE result. -/
def FwdEntry.service (e : FwdEntry) : Nat := bits e.result 0 20
/-- LEARN_EN of a SERVICE result. -/
def FwdEntry.learnEn (e : FwdEntry) : Bool := bitAt e.result 24
/-- FLOOD_EN of a SERVICE result. -/
def FwdEntry.floodEn (e : FwdEntry) : Bool := bitAt e.result 25
/-- TREE and LINE_PORT of a point-to-point SERVICE result. -/
def FwdEntry.p2p (e : FwdEntry) : Nat × Nat := (bits e.result 48 6, bits e.result 64 12)
/-- FLOOD_SET of a SERVICE result. -/
def FwdEntry.floodSet (e : FwdEntry) : Nat := bits e.result 80 12
/-- TREE and LINE_PORT of a MAC result. -/
def FwdEntry.place (e : FwdEntry) : Nat × Nat := (bits e.result 0 6, bits e.result 16 12)

/-- The result bytes of a MAC entry (Table 9.2). -/
def macResult (tree lp service : Nat) : Nat := tree % 64 + lp % 4096 * 2 ^ 16 + service % 2 ^ 20 * 2 ^ 32

/-- A die's copy of the table, as a function of slot number: slot s of bucket b is number 4b + s. -/
abbrev Copy := List (Nat × FwdEntry)

/-- The entry in a slot; a free slot is the empty entry. -/
def Copy.at (c : Copy) (i : Nat) : FwdEntry := ((c.find? fun e => e.1 == i).map fun e => e.2).getD {}

/-- A slot written. -/
def Copy.put (c : Copy) (i : Nat) (e : FwdEntry) : Copy := (i, e) :: c.filter fun x => x.1 ≠ i

/-- The copy of a die. -/
def State.copyOf (s : State) (d : Nat) : Copy := (s.fwd.filter fun e => e.1.n == d).map fun e => (e.1.i, e.2)

/-- One slot of a die's copy written. -/
def State.putEntry (d i : Nat) (e : FwdEntry) (s : State) : State := { s with fwd := s.fwd.set ⟨d, i⟩ {} e }

/-- The slots of a working copy written back to a die. -/
def State.putCopy (d : Nat) (c : Copy) (s : State) : State := c.foldr (fun e s => s.putEntry d e.1 e.2) s

/-- The entry in slot `i` of a die. -/
def State.entryAt (s : State) (d i : Nat) : FwdEntry := s.fwd.get ⟨d, i⟩ {}

/-- The slot of a die that holds an entry's key. -/
def State.findEntry (s : State) (d : Nat) (e : FwdEntry) : Option Nat :=
  let h := e.homes
  (bucketSlots h.1 ++ bucketSlots h.2).find? fun i => (s.entryAt d i).same e && e.type ≠ 0

/-! ### The SRAM cache (R218) and damaged entries (R222) -/

/-- A bucket of a die holds a PIN entry. -/
def State.pinned (s : State) (d b : Nat) : Bool := (bucketSlots b).any fun i => (s.entryAt d i).pin

/-- A bucket read through the cache of a die; true when it was not cached. -/
def State.cacheRead (d b : Nat) (s : State) : Bool × State :=
  let k : Key := ⟨d, b % 4096⟩
  let ways := s.cache.get k []
  if ways.contains b then (false, { s with cache := s.cache.set k [] (b :: ways.filter fun x => x ≠ b) })
  else
    let keep := if ways.length < 4 then ways
      else match (ways.reverse.find? fun x => !s.pinned d x) with
        | some x => ways.filter fun y => y ≠ x
        | none => ways
    (true, { s with cache := s.cache.set k [] (if keep.length < 4 then b :: keep else keep) })

/-- A named event count that no register shows. -/
def State.note (code unit : Nat) (s : State) : State := { s with notes := s.notes.set ⟨code, unit⟩ 0 (s.notes.get ⟨code, unit⟩ 0 + 1) }

/-- A damaged bucket as a lookup meets it (R222): repaired from the mirror, or treated as empty with ENTRY_BAD. True when it can be used. -/
def State.repairBucket (d b : Nat) (s : State) : Bool × State :=
  let slots := bucketSlots b
  if slots.any fun i => (s.entryAt d i).damage == 2 then (false, s.note 1 d |>.event FWD_STATUS.ENTRY_BAD d d 2184)
  else if slots.any fun i => (s.entryAt d i).damage == 1 then
    (true, (slots.foldl (fun s i => s.putEntry d i { s.entryAt d i with damage := 0 }) s).note 0 d)
  else (true, s)

/-- FORWARD_LOOKUP of one key on a die (R210, R218, R222): both home buckets are read. -/
def State.lookup (d : Nat) (e : FwdEntry) (s : State) : Option FwdEntry × State :=
  let h := e.homes
  let (m1, s) := s.cacheRead d h.1
  let (m2, s) := s.cacheRead d h.2
  let s := if m1 || m2 then s.bump FWD_CNT.COUNT (d * 16 + 4) 1 else s
  let (ok1, s) := s.repairBucket d h.1
  let (ok2, s) := s.repairBucket d h.2
  let slots := (if ok1 then bucketSlots h.1 else []) ++ (if ok2 then bucketSlots h.2 else [])
  (((slots.map fun i => s.entryAt d i).find? fun x => x.same e && e.type ≠ 0), s)

/-! ### The order sequencer (R30, R220) -/

/-- The buckets an update names (R220). -/
def UpdateOp.buckets : UpdateOp → List Nat
  | .learn e | .move e | .touch e => [e.homes.1, e.homes.2]
  | .insert e _ | .replace e _ | .delete e _ => [e.homes.1, e.homes.2]
  | .ageBucket b => [b]
  | .lock _ b1 b2 => [b1] ++ b2.toList
  | .writeSlot _ b _ _ _ => [b]
  | .unlock _ | .ctrl _ _ | .label _ _ _ => []

/-- The DMA channel an update acts for, if any. -/
def Update.chan (u : Update) : Option Nat := u.req.map fun r => r.chan

/-- A lock of another channel, among those sequenced so far, holds an update back (R220). -/
def State.blocked (s : State) (chan : Option Nat) (op : UpdateOp) : Bool :=
  s.seqLocks.any fun l => some l.chan ≠ chan && l.buckets.any fun b => op.buckets.contains b

/-- The lock set after an update is sequenced. -/
def locksAfter (locks : List TableLock) : UpdateOp → List TableLock
  | .lock c b1 b2 => locks ++ [⟨c, [b1] ++ b2.toList⟩]
  | .unlock c => locks.filter fun l => l.chan ≠ c
  | _ => locks

/-- An update sequenced (R30), or held while a lock of another channel covers it. -/
def State.sequence (die : Nat) (op : UpdateOp) (req : Option UpdateReq) (s : State) : State :=
  if s.blocked (req.map fun r => r.chan) op then { s with heldUpdates := s.heldUpdates ++ [Update.mk 0 die op req 0 0 0 0 false] }
  else
    { s with
      lastSeq := (s.lastSeq + 1) % 2 ^ 48
      seqLocks := locksAfter s.seqLocks op
      updates := s.updates ++ [Update.mk ((s.lastSeq + 1) % 2 ^ 48) die op req (s.netSec % 2 ^ 32) s.timeNs 0 0 false] }

/-- After a lock clears, the held updates are sequenced in their order as far as locks allow. -/
def State.releaseHeld (s : State) : State :=
  s.heldUpdates.foldl (fun s u => s.sequence u.die u.op u.req) { s with heldUpdates := [] }

/-! ### Learning events (R223) -/

/-- A learning event of a die (Table 9.5), written to its ring in host memory, or dropped with OVERFLOW; dropped while the ring is disabled (R393). -/
def State.learnEvent (d seq kind : Nat) (e : FwdEntry) (oldTree oldLp : Nat) (timeS timeNs : Nat) (s : State) : State :=
  if !s.flag FWD_RING_CTRL.ENABLE d then { s with ringLost := setBit s.ringLost d }
  else
    let size := 2 ^ (s.get FWD_RING_CTRL.SIZE_EXP d + 8)
    let prod := s.get FWD_RING_CTRL.PROD d
    let next := (prod + 1) % size
    if next = s.get FWD_RING_CTRL.CONS d % size then
      { s with ringLost := setBit s.ringLost d }.event FWD_RING_CTRL.OVERFLOW d d 2186
    else
      let bytes := leBytes 6 seq ++ [kind, ofBool (bitAt s.ringLost d)] ++ leBytes 2 e.domain ++ leBytes 8 (e.key % 2 ^ 64)
        ++ [e.place.1, oldTree] ++ leBytes 2 e.place.2 ++ leBytes 2 oldLp ++ leBytes 4 timeS ++ leBytes 4 timeNs
      { s with ringLost := clearBit s.ringLost d }.put FWD_RING_CTRL.PROD d next
        |>.emit (.hostWrite (s.get FWD_RING_BASE.ADDR d * 64 + 32 * prod) bytes) |>.raise d 2185

/-- A forwarding counter of a die (Table 9.12). -/
def State.fwdCnt (d k : Nat) (s : State) : State := s.bump FWD_CNT.COUNT (d * 16 + k) 1

/-! ### Insertion with displacement (R214, R215) -/

/-- The victim of a step in a bucket: neither PIN nor the entry just placed; oldest or pseudo-random (R214). -/
def victim (c : Copy) (mode b seq step : Nat) (last : Option Nat) : Option Nat :=
  let ok := fun i => some i ≠ last && !(c.at i).pin
  if mode = 0 then
    (bucketSlots b).foldl (fun best i =>
      if ok i && (best.all fun j => (c.at j).age < (c.at i).age) then some i else best) none
  else
    let start := crc32c (leBytes 6 seq ++ [step]) % 4
    ([0, 1, 2, 3].map fun k => 4 * b + (start + k) % 4).find? ok

/-- A bucket's lowest free slot. -/
def freeSlot (c : Copy) (b : Nat) : Option Nat := (bucketSlots b).find? fun i => (c.at i).type == 0

/-- Where an insertion ends (R214): `stuck` at a damaged bucket (R222). -/
inductive Inserted where
  | exists_ | full | stuck | ok (c : Copy)
  deriving DecidableEq, Repr

/-- A bucket of a copy holds an entry whose two copies are damaged (R222). -/
def Copy.bad (c : Copy) (b : Nat) : Bool := (bucketSlots b).any fun i => (c.at i).damage == 2

/-- An entry as it is written to its place: nothing is wrong with what was read. -/
def FwdEntry.sound (e : FwdEntry) : FwdEntry := { e with damage := 0 }

/-- The displacement search of R214 from step `9 - fuel`: where it ends, and the buckets that it read. -/
def displace (mode seq : Nat) (locked : Nat → Bool) : Nat → Copy → FwdEntry → Nat → Option Nat → Inserted × List Nat
  | 0, _, _, _, _ => (.full, [])
  | fuel + 1, c, cur, b, last =>
    if locked b then (.full, [])
    else
      match victim c mode b seq (8 - fuel) last with
      | none => (.full, [])
      | some v =>
        let old := c.at v
        let c := c.put v cur
        let b2 := if old.homes.1 = b then old.homes.2 else old.homes.1
        if locked b2 then (.full, [])
        else if c.bad b2 then (.stuck, [b2])
        else
          match freeSlot c b2 with
          | some i => (.ok (c.put i old.sound), [b2])
          | none =>
            let (x, bs) := displace mode seq locked fuel c old.sound b2 (some v)
            (x, b2 :: bs)

/-- The insertion of R214 on one copy: where it ends, and the buckets that it read. -/
def insertCopy (c : Copy) (mode seq : Nat) (locked : Nat → Bool) (e : FwdEntry) : Inserted × List Nat :=
  let h := e.homes
  let own := [h.1, h.2]
  if own.any c.bad then (.stuck, own)
  else if (bucketSlots h.1 ++ bucketSlots h.2).any fun i => (c.at i).same e then (.exists_, own)
  else
    match (own.filter fun b => !locked b).findSome? fun b => freeSlot c b with
    | some i => (.ok (c.put i e), own)
    | none =>
      let (x, bs) := displace mode seq locked 8 c e (if locked h.1 then h.2 else h.1) none
      (x, own ++ bs)

/-- The dynamic occupant that a full learn evicts: highest AGE in the unlocked home buckets, h1 first, lower slot first (R215). -/
def evictee (c : Copy) (locked : Nat → Bool) (e : FwdEntry) : Option Nat :=
  let slots := ([e.homes.1, e.homes.2].filter fun b => !locked b).flatMap bucketSlots
  slots.foldl (fun best i =>
    let x := c.at i
    if x.type ≠ 0 && !x.static && !x.pin && (best.all fun j => (c.at j).age < x.age) then some i else best) none

/-! ### What an update does on one die -/

/-- COUNT of a domain on a die raised or lowered (R216). -/
def State.domainCount (d dom : Nat) (up : Bool) (s : State) : State :=
  let i := d * 4096 + dom
  let n := s.get FWD_DOMAIN.COUNT i
  s.put FWD_DOMAIN.COUNT i (if up then n + 1 else n - 1)

/-- A removal of the entry in slot `i`: a dynamic one leaves its domain's count (R216). -/
def State.removeEntry (d i : Nat) (s : State) : State :=
  let e := s.entryAt d i
  let s := s.putEntry d i {}
  if e.static then s else s.domainCount d e.domain false

/-- A bucket is locked on a die, for an update of `chan` (R214, R220). -/
def State.lockedFor (s : State) (d : Nat) (chan : Option Nat) (b : Nat) : Bool :=
  (s.dieLocks.get ⟨d, 0⟩ []).any fun l => some l.chan ≠ chan && l.buckets.contains b

/-- A place for a pinned entry: the bucket's cache set would hold no fourth pinned bucket (R218). -/
def State.pinRoom (s : State) (d b : Nat) : Bool :=
  let others := ((s.fwd.filter fun e => e.1.n == d && e.2.pin && e.1.i / 4 % 4096 == b % 4096 && e.1.i / 4 ≠ b).map fun e => e.1.i / 4).eraseDups
  others.length < 3

/-- The insertion of an entry on a die (R214), for an update. -/
def State.insertion (s : State) (d : Nat) (u : Update) (e : FwdEntry) : Inserted × List Nat :=
  insertCopy (s.copyOf d) (s.get FWD_CTRL.EVICT_MODE d) u.seq (s.lockedFor d u.chan) { e with lastSeq := u.seq }

/-- A domain at its quota: no insert; counted, with at most one event a domain and second (Table 9.3). -/
def State.quotaFull (d seq : Nat) (e : FwdEntry) (s : State) : State :=
  let s := s.fwdCnt d 9
  if s.quotaSaid.get ⟨d, e.domain⟩ 0 = s.netSec + 1 then s
  else { s with quotaSaid := s.quotaSaid.set ⟨d, e.domain⟩ 0 (s.netSec + 1) }
    |>.learnEvent d seq 5 e 0 0 (s.netSec % 2 ^ 32) s.timeNs |>.raise d 2187

/-- A domain's dynamic entries have reached its quota on a die (R216). -/
def State.atQuota (s : State) (d dom : Nat) : Bool := s.get FWD_DOMAIN.QUOTA (d * 4096 + dom) ≤ s.get FWD_DOMAIN.COUNT (d * 4096 + dom)

/-- The entry in slot `i` takes the place of `e`: AGE is 0, and the die that originated the update counts and reports it (Table 9.3, R223). -/
def State.moveEntry (d i : Nat) (u : Update) (e : FwdEntry) (s : State) : State :=
  let x := s.entryAt d i
  let s := s.putEntry d i { x with result := e.result, age := 0, lastSeq := u.seq }
  if u.die = d then s.fwdCnt d 6 |>.learnEvent d u.seq 2 e x.place.1 x.place.2 u.timeS u.timeNs else s

/-- A LEARN applied on a die (R214 to R216, Table 9.6): the key already present makes it a TOUCH or a MOVE, and an entry of the host elsewhere stays; a
domain that other updates have brought to its quota takes no more. -/
def State.applyLearn (d : Nat) (u : Update) (e : FwdEntry) (s : State) : State :=
  let mine := u.die == d
  match s.findEntry d e with
  | some i =>
    let x := s.entryAt d i
    if x.place = e.place then s.putEntry d i { x with touched := true, lastSeq := u.seq }
    else if x.static then (if mine then s.fwdCnt d 12 else s)
    else s.moveEntry d i u e
  | none =>
    let e := { e with lastSeq := u.seq }
    let learned := fun (s : State) =>
      let s := s.domainCount d e.domain true
      if mine then s.fwdCnt d 5 |>.learnEvent d u.seq 1 e 0 0 u.timeS u.timeNs else s
    if s.atQuota d e.domain then (if mine then s.quotaFull d u.seq e else s)
    else
      match (s.insertion d u e).1 with
      | .ok c => learned (s.putCopy d c)
      | _ =>
        match (if s.flag FWD_CTRL.FULL_EVICT d then evictee (s.copyOf d) (s.lockedFor d none) e else none) with
        | some i =>
          let old := s.entryAt d i
          let s := s.removeEntry d i |>.putEntry d i e |>.fwdCnt d 8
          let s := if mine then s.learnEvent d u.seq 4 old 0 0 u.timeS u.timeNs else s
          learned s
        | none => if mine then s.fwdCnt d 10 |>.learnEvent d u.seq 6 e 0 0 u.timeS u.timeNs else s

/-- A MOVE applied on a die (Table 9.3). -/
def State.applyMove (d : Nat) (u : Update) (e : FwdEntry) (s : State) : State :=
  match s.findEntry d e with
  | some i => if (s.entryAt d i).static then s else s.moveEntry d i u e
  | none => s

/-- The bucket of a die that holds the entry of a TOUCH sent earlier; none where it is gone. -/
def State.touchBucket (s : State) (d : Nat) (k : Key) : Option Nat :=
  (s.findEntry d { type := 2, domain := k.i % 4096, key := k.i / 4096 }).map fun i => i / 4

/-- An AGE_BUCKET applied on a die (R217). -/
def State.applyAge (d : Nat) (u : Update) (b : Nat) (s : State) : State :=
  let s := { s with touchSent := s.touchSent.filter fun k => k.n != d || (s.touchBucket d k).any fun x => x != b }
  (bucketSlots b).foldl (fun s i =>
    let x := s.entryAt d i
    if x.type = 0 || x.static then s
    else if x.touched then s.putEntry d i { x with touched := false, age := 0, lastSeq := u.seq }
    else if s.get FWD_CTRL.AGE_LIMIT d ≤ x.age + 1 then
      let s := s.removeEntry d i |>.fwdCnt d 7
      if d = s.firstDie then s.learnEvent d u.seq 3 x 0 0 u.timeS u.timeNs else s
    else s.putEntry d i { x with age := x.age + 1, lastSeq := u.seq }) s

/-- LAST_SEQ of the entry is what the request expects (R221). -/
def expectOk (expect : Option Nat) (x : FwdEntry) : Bool := expect.all fun q => q == x.lastSeq

/-- A host INSERT applied on a die: its STATUS and the state (R214, R218, R221, Table 9.4). -/
def State.applyInsert (d : Nat) (u : Update) (e : FwdEntry) (expect : Option Nat) (s : State) : Nat × State :=
  let e := { e with static := true, lastSeq := u.seq }
  match (s.insertion d u e).1 with
  | .exists_ =>
    match s.findEntry d e with
    | some i => if expectOk expect (s.entryAt d i) then (4, s) else (1, s)
    | none => (4, s)
  | .full | .stuck => (3, s)
  | .ok c =>
    let s' := s.putCopy d c
    match s'.findEntry d e with
    | some i => if e.pin && !s.pinRoom d (i / 4) then (8, s) else (0, s')
    | none => (0, s')

/-- A host REPLACE applied on a die: the result bytes change and the entry is then static (R219, R221). -/
def State.applyReplace (d : Nat) (u : Update) (e : FwdEntry) (expect : Option Nat) (s : State) : Nat × State :=
  match s.findEntry d e with
  | none => (5, s)
  | some i =>
    let x := s.entryAt d i
    if !expectOk expect x then (1, s)
    else
      let s := if x.static then s else s.domainCount d x.domain false
      (0, s.putEntry d i { x with result := e.result, static := true, lastSeq := u.seq })

/-- A host DELETE applied on a die (R216, R219, R221). -/
def State.applyDelete (d : Nat) (e : FwdEntry) (expect : Option Nat) (s : State) : Nat × State :=
  match s.findEntry d e with
  | none => (5, s)
  | some i => if expectOk expect (s.entryAt d i) then (0, s.removeEntry d i) else (1, s)

/-- A WRITE_SLOT applied on a die (R219): CONFLICT where the slot's occupant is not the expected one (R221), EXISTS where the key stands in another slot,
for no key is ever present twice (R210, log entry 65). -/
def State.applyWriteSlot (d : Nat) (u : Update) (b slot : Nat) (e : FwdEntry) (expect : Option Nat) (s : State) : Nat × State :=
  let i := 4 * b + slot % 4
  let x := s.entryAt d i
  if x.type ≠ 0 && !expectOk expect x then (1, s)
  else if (s.findEntry d e).any fun j => j != i then (4, s)
  else if e.pin && !s.pinRoom d b then (8, s)
  else
    let s := if x.type = 0 then s else s.removeEntry d i
    (0, s.putEntry d i { e with static := true, lastSeq := u.seq })

/-- An update on one die: STATUS for a request, and the state. -/
def State.applyOp (d : Nat) (u : Update) (s : State) : Nat × State :=
  match u.op with
  | .learn e => (0, s.applyLearn d u e)
  | .move e => (0, s.applyMove d u e)
  | .touch e =>
    match s.findEntry d e with
    | some i => (0, s.putEntry d i { s.entryAt d i with touched := true, lastSeq := u.seq })
    | none => (0, s)
  | .ageBucket b => (0, s.applyAge d u b)
  | .insert e x => s.applyInsert d u e x
  | .replace e x => s.applyReplace d u e x
  | .delete e x => s.applyDelete d e x
  | .lock c b1 b2 => (0, { s with dieLocks := s.dieLocks.set ⟨d, 0⟩ [] (locksAfter (s.dieLocks.get ⟨d, 0⟩ []) (.lock c b1 b2)) })
  | .unlock c => (0, { s with dieLocks := s.dieLocks.set ⟨d, 0⟩ [] (locksAfter (s.dieLocks.get ⟨d, 0⟩ []) (.unlock c)) })
  | .writeSlot _ b slot e x => s.applyWriteSlot d u b slot e x
  | .label l c on => (0, { s with labels := s.labels.set ⟨d, l⟩ 0 (if on then c + 1 else 0) })
  | .ctrl i vs => (0, vs.foldl (fun (s : State) e => s.put e.1 (if e.1.base = FWD_CTRL.desc.base then d else d * 4096 + i) e.2) s)

/-- The buckets of a die that applying an update reads (R214, R222): the home buckets of an entry, those that a displacement reaches, the bucket that ages. -/
def State.reads (s : State) (d : Nat) (u : Update) : List Nat :=
  match u.op with
  | .learn e | .insert e _ => (s.insertion d u e).2.eraseDups
  | .writeSlot _ _ _ e _ => [e.homes.1, e.homes.2]
  | .lock _ _ _ | .unlock _ | .ctrl _ _ | .label _ _ _ => []
  | op => op.buckets

/-- An update depends on a damaged entry of a die (R222). -/
def State.dependsDamaged (s : State) (d : Nat) (u : Update) : Bool := (s.reads d u).any fun b => (s.copyOf d).bad b

/-- Every present die has applied an update (R31). -/
def State.allApplied (s : State) (u : Update) : Bool := s.dieList.all fun d => !s.diePresent d || bitAt u.applied d

/-- A request's completion returned to its channel: STATUS and DONE_SEQ written back, and its descriptor done (R219, R31). -/
def State.completeRequest (r : UpdateReq) (status : Nat) (seq : Option Nat) (s : State) : State :=
  let s := if status = 1 then s.fwdCnt s.firstDie 13 else s
  s.emit (.tableDone r.chan r.addr status seq) |>.dmaDone r.chan (fun j => j.kind == 1 && j.addr == r.addr) 0 96

/-- Updates that every present die has applied leave the sequencer; their requests complete. -/
def State.retireUpdates (s : State) : State :=
  let done := s.updates.filter fun u => s.allApplied u
  let s' := done.foldl (fun s u =>
    match u.req with
    | some r => if u.timedOut then s else s.completeRequest r u.status (some u.seq)
    | none => s) s
  { s' with updates := s.updates.filter fun u => !s.allApplied u }

/-- An update that a die has not applied for 100 µs: the next of its order, found so, and those behind it that have waited as long (R31). -/
def State.unappliedLong (s : State) (d next : Nat) (u : Update) : Bool :=
  u.seq == next || (!bitAt u.applied d && u.timeNs + 100000 ≤ wrapSub 32 s.netSec u.timeS * 10 ^ 9 + s.timeNs)

/-- Updates that stay unapplied on a die (R31, R222): STALL, and their waiting requests complete with TIMEOUT. -/
def State.stall (d : Nat) (s : State) : State :=
  let next := (s.get SEG_ORDER_APPLIED.SEQ d + 1) % 2 ^ 48
  let late := s.updates.filter fun u => s.unappliedLong d next u && !u.timedOut
  let s := late.foldl (fun s u => match u.req with
    | some r => s.completeRequest r 2 (some u.seq)
    | none => s) s
  { s with updates := s.updates.map fun (u : Update) => if s.unappliedLong d next u then { u with timedOut := true } else u }.addWrap SEG_ORDER_STATUS.STALL_COUNT d 1
    |>.event SEG_ORDER_STATUS.STALL d d 2188

/-- TABLE_UPDATE_APPLY (R30): a die applies the update after its last applied one; with none sequenced nothing happens. The buckets that it reads are
repaired where one copy is good, and an update that depends on a damaged entry stalls (R222). -/
def execTableUpdateApply (d : Nat) (s : State) : Result :=
  match s.updates.find? fun u => u.seq == (s.get SEG_ORDER_APPLIED.SEQ d + 1) % 2 ^ 48 with
  | none => .next s
  | some u =>
    let stuck := s.dependsDamaged d u
    let s := (s.reads d u).foldl (fun (s : State) b => (s.repairBucket d b).2) s
    if stuck then .next (s.stall d)
    else
      let (st, s) := s.applyOp d u
      let s := s.put SEG_ORDER_APPLIED.SEQ d u.seq
      let s := { s with updates := s.updates.map fun (x : Update) =>
        if x.seq = u.seq then { x with applied := setBit x.applied d, status := max x.status st } else x }
      .next s.retireUpdates

/-- ORDER_STALL (R31): an update unapplied on a die for 100 µs. -/
def execOrderStall (d : Nat) (s : State) : Result :=
  if s.updates.any fun u => u.seq == (s.get SEG_ORDER_APPLIED.SEQ d + 1) % 2 ^ 48 then .next (s.stall d) else .next s

/-- AGE_BUCKET (R217): the ageing engine's ordered update for the next bucket, in bucket order. -/
def execAgeBucket (s : State) : Result := .next ({ s with ageAt := (s.ageAt + 1) % 262144 }.sequence 0 (.ageBucket s.ageAt) none)

/-! ### Source learning (R212, R213) -/

/-- The learning updates of a die that it has not yet applied (R213). -/
def State.learnQueue (s : State) (d : Nat) : List Update :=
  (s.updates ++ s.heldUpdates).filter fun u => u.die == d && u.req.isNone && !bitAt u.applied d
    && match u.op with | .learn _ | .move _ | .touch _ => true | _ => false

/-- The entry of a pending learning update. -/
def UpdateOp.entry : UpdateOp → Option FwdEntry
  | .learn e | .move e | .touch e => some e
  | _ => none

/-- A learning update with the key is pending on a die (R213). -/
def State.learning (s : State) (d : Nat) (op : UpdateOp) : Bool :=
  (s.learnQueue d).any fun u => (u.op.entry.bind fun a => op.entry.map fun b => a.same b).getD false

/-- A learning update queued on a die, unless one with its key is pending or the queue of 256 is full (R213). -/
def State.queueLearn (d : Nat) (op : UpdateOp) (s : State) : State :=
  if s.learning d op then s
  else if 256 ≤ (s.learnQueue d).length then s.fwdCnt d 11
  else s.sequence d op none

/-- The number a MAC key and domain spell together, for the record of TOUCH updates sent. -/
def touchKey (d : Nat) (e : FwdEntry) : Key := ⟨d, e.key * 4096 + e.domain % 4096⟩

/-- SOURCE_LEARN (R212, Table 9.3) of an upstream frame from the service entry that governs its bridge. -/
def State.sourceLearn (d : Nat) (f : Frame) (bridge : Nat) (s : State) : State :=
  let src := leValue ((f.bytes.drop 6).take 6)
  if src % 2 = 1 then s.fwdCnt d 15
  else
    let e : FwdEntry := { type := 2, domain := f.domain, key := macKey bridge src, result := macResult f.tree f.linePort f.service }
    let (hit, s) := s.lookup d e
    match hit with
    | some x =>
      if x.place = e.place then
        if x.touched || s.touchSent.contains (touchKey d e) then s
        else if s.learning d (.touch e) || 256 ≤ (s.learnQueue d).length then s.queueLearn d (.touch e)
        else { s with touchSent := s.touchSent ++ [touchKey d e] }.queueLearn d (.touch e)
      else if x.static then s.fwdCnt d 12
      else s.queueLearn d (.move e)
    | none =>
      if s.atQuota d f.domain then s.useFree.quotaFull d s.free e else s.queueLearn d (.learn e)

/-! ### Host requests (R219 to R221) -/

/-- KEY of a request's entry: TYPE is SERVICE or MAC, the bits that its type leaves at 0 are 0, and its fields are in range (Table 9.2, R12). -/
def FwdEntry.keyOk (e : FwdEntry) : Bool :=
  if e.type = 1 then bits e.key 5 3 == 0 && bits e.key 8 8 ≤ 2 && bits e.key 28 4 == 0 && bits e.key 44 116 == 0
  else e.type == 2 && bits e.key 0 16 != 0 && bits e.key 64 96 == 0

/-- The result bits of an entry that its type leaves at 0 are 0 (Table 9.2, R12). -/
def FwdEntry.resultOk (e : FwdEntry) : Bool :=
  if e.type = 1 then
    bits e.result 20 4 == 0 && bits e.result 26 6 == 0 && bits e.result 54 10 == 0 && bits e.result 76 4 == 0 && bits e.result 92 100 == 0
  else bits e.result 6 10 == 0 && bits e.result 28 4 == 0 && bits e.result 52 140 == 0

/-- The entry of an INSERT, REPLACE or WRITE_SLOT is as Tables 9.1 and 9.2 ask (R12). -/
def entryValid (e : FwdEntry) : Bool := e.keyOk && e.resultOk

/-- The entry that 64 bytes spell (Table 9.1); AGE and bytes 48 to 63 are ignored in a request (Table 9.4). -/
def FwdEntry.ofBytes (v : Nat) : FwdEntry where
  type := bits v 0 2
  static := bitAt v 2
  pin := bitAt v 3
  domain := bits v 16 12
  key := bits v 32 160
  result := bits v 192 192

/-- The 64 bytes of an entry, with CHECK. -/
def FwdEntry.toBits (e : FwdEntry) : Nat :=
  withCheck (e.type % 4 + ofBool e.static * 4 + ofBool e.pin * 8 + ofBool e.touched * 16 + e.age % 16 * 2 ^ 8 + e.domain % 4096 * 2 ^ 16
    + e.key % 2 ^ 160 * 2 ^ 32 + e.result % 2 ^ 192 * 2 ^ 192 + e.lastSeq % 2 ^ 48 * 2 ^ 384)

/-- The bits of bytes 0 to 3 of an entry that no field holds are 0 (Table 9.1, R12). -/
def flagsClear (v : Nat) : Bool := bits v 5 3 == 0 && bits v 28 4 == 0

/-- A lock that a channel holds, among those sequenced (R220). -/
def State.lockOf (s : State) (chan : Nat) : Option TableLock := s.seqLocks.find? fun l => l.chan == chan

/-- A request answered without an update. -/
def State.refuse (chan addr status : Nat) (s : State) : State := s.completeRequest ⟨chan, addr⟩ status none

/-- A request on an entry: BAD_VALUE for an unusable entry, CONFLICT when a learning update for its bucket reached the sequencer in the same instant
(R221), else sequenced. A lock on the bucket changes that: its holder proceeds, and any other request is held (R220, Table 9.6). -/
def State.entryRequest (chan addr : Nat) (valid tied : Bool) (op : UpdateOp) (s : State) : State :=
  if !valid then s.refuse chan addr 7
  else if tied && !s.seqLocks.any (fun l => l.buckets.any fun b => op.buckets.contains b) then s.refuse chan addr 1
  else s.sequence s.firstDie op (some ⟨chan, addr⟩)

/-- TABLE_INSERT (R214, R219, R221). -/
def execTableInsert (chan addr : Nat) (e : FwdEntry) (expect : Option Nat) (tied : Bool) (s : State) : Result :=
  .next (s.entryRequest chan addr (entryValid e) tied (.insert e expect))

/-- TABLE_REPLACE (R219, R221). -/
def execTableReplace (chan addr : Nat) (e : FwdEntry) (expect : Option Nat) (tied : Bool) (s : State) : Result :=
  .next (s.entryRequest chan addr (entryValid e) tied (.replace e expect))

/-- TABLE_DELETE (R216, R219, R221): the entry is found by TYPE, DOMAIN and KEY. -/
def execTableDelete (chan addr : Nat) (e : FwdEntry) (expect : Option Nat) (tied : Bool) (s : State) : Result :=
  .next (s.entryRequest chan addr e.keyOk tied (.delete e expect))

/-- A LOCK of the channel waits for another channel's lock to clear (R220). -/
def State.lockWaits (s : State) (chan : Nat) : Bool :=
  s.heldUpdates.any fun u => match u.op with
    | .lock c _ _ => c == chan
    | _ => false

/-- TABLE_LOCK (R220): a channel that holds a lock already, or waits for one, gets BAD_VALUE. -/
def execTableLock (chan addr b1 : Nat) (b2 : Option Nat) (s : State) : Result :=
  if (s.lockOf chan).isSome || s.lockWaits chan then .next (s.refuse chan addr 7)
  else .next (s.sequence s.firstDie (.lock chan b1 b2) (some ⟨chan, addr⟩))

/-- TABLE_UNLOCK (R220): NO_LOCK where the channel holds none. -/
def execTableUnlock (chan addr : Nat) (s : State) : Result :=
  if (s.lockOf chan).isSome then .next (s.sequence s.firstDie (.unlock chan) (some ⟨chan, addr⟩)).releaseHeld
  else .next (s.refuse chan addr 6)

/-- WRITE_SLOT (R219): NO_LOCK without a lock on the bucket, BAD_VALUE where it is no home bucket of the entry. -/
def execWriteSlot (chan addr b slot : Nat) (e : FwdEntry) (expect : Option Nat) (s : State) : Result :=
  if !((s.lockOf chan).any fun l => l.buckets.contains b) then .next (s.refuse chan addr 6)
  else if !entryValid e || !(e.homes.1 == b || e.homes.2 == b) then .next (s.refuse chan addr 7)
  else .next (s.sequence s.firstDie (.writeSlot chan b slot e expect) (some ⟨chan, addr⟩))

/-- LOCK_EXPIRY (R220): the part releases a channel's lock and counts LOCK_EXPIRED on every die. -/
def execLockExpiry (chan : Nat) (s : State) : Result :=
  if (s.lockOf chan).isSome then
    let s := s.dieList.foldl (fun s d => s.fwdCnt d 14) s
    .next (s.sequence s.firstDie (.unlock chan) none).releaseHeld
  else .next s

end Sys2Proof.Machine
end

