-- ==== Sys2Proof/Machine/Hierarchy.lean ====
section
/-!
DEFINITION. The scheduling hierarchy (chapter 10): queue and node contexts, paths, shapers (R233), egress gates (R236, R237),
tags and selection (R232).
-/

namespace Sys2Proof.Machine

/-! ### Units and paths -/

/-- The unit number of queue `q` of a die and direction. -/
def queueAt (d : Nat) (up : Bool) (q : Nat) : Nat := d * 65536 + ofBool up * 32768 + q

/-- The unit number of node `n` of a die and direction. -/
def nodeAt (d : Nat) (up : Bool) (n : Nat) : Nat := d * 32768 + ofBool up * 16384 + n

/-- The key of a queue's contents. -/
def queueKey (d : Nat) (up : Bool) (q : Nat) : Key := ⟨2 * d + ofBool up, q⟩

/-- The frames of a queue, head first. -/
def State.queueOf (s : State) (d : Nat) (up : Bool) (q : Nat) : List Frame := s.queues.get (queueKey d up q) []

/-- The frames of a queue replaced. -/
def State.setQueue (d : Nat) (up : Bool) (q : Nat) (fs : List Frame) (s : State) : State :=
  { s with queues := s.queues.set (queueKey d up q) [] fs }

/-- What the traffic manager keeps of a queue beside its context. -/
def State.qstatOf (s : State) (d : Nat) (up : Bool) (q : Nat) : QueueSt := s.qstat.get (queueKey d up q) {}

/-- A change of it. -/
def State.modQstat (d : Nat) (up : Bool) (q : Nat) (f : QueueSt → QueueSt) (s : State) : State :=
  { s with qstat := s.qstat.set (queueKey d up q) {} (f (s.qstatOf d up q)) }

/-- The queues of a die and direction that hold frames. -/
def State.busyQueues (s : State) (d : Nat) (up : Bool) : List Nat :=
  (s.queues.filter fun e => e.1.n == 2 * d + ofBool up && !e.2.isEmpty).map fun e => e.1.i

/-- The nodes from `n` up to its port: at most three levels and the port (Table 10.3). -/
def State.nodesUp (s : State) (d : Nat) (up : Bool) : Nat → Nat → List Nat
  | 0, _ => []
  | k + 1, n => n :: (if s.flag NODE.PORT (nodeAt d up n) then [] else s.nodesUp d up k (s.get NODE.PARENT (nodeAt d up n)))

/-- The nodes from a queue's parent up to its port. -/
def State.pathOf (s : State) (d : Nat) (up : Bool) (q : Nat) : List Nat :=
  s.nodesUp d up 4 (s.get QUEUE.PARENT (queueAt d up q))

/-- The port node of a queue. -/
def State.portOf (s : State) (d : Nat) (up : Bool) (q : Nat) : Nat := ((s.pathOf d up q).getLast?).getD 0

/-- A queue leads to the port with this PORT_ID (Table 10.4). -/
def State.leadsTo (s : State) (d : Nat) (up : Bool) (port q : Nat) : Bool :=
  let n := nodeAt d up (s.portOf d up q)
  s.flag NODE.PORT n && s.get NODE.PORT_ID n == port

/-! ### Shapers (R233) -/

/-- Signed tokens refilled for `e` ns at `rate` kbit/s up to `cap` bytes, in 1/256 byte, as R201 refills a meter; never above what the
signed field holds. -/
def refillSigned (cap rate e : Nat) (tokens : Int) : Int :=
  let top : Int := min (256 * cap) (2 ^ 31 - 1)
  if 2 ^ 31 ≤ e then top else min top (tokens + e * rate * 4 / 125000)

/-- A shaper: its rate, burst, token and time fields, with their unit number. -/
structure Shaper where
  rate : Field
  burst : Field
  tokens : Field
  last : Field
  i : Nat
  deriving DecidableEq, Repr

/-- The shaper of a queue. -/
def queueShaper (i : Nat) : Shaper := ⟨QUEUE.SHAPE_RATE, QUEUE.SHAPE_BURST, QUEUE.TOKENS, QUEUE.LAST, i⟩

/-- The shaper of a node. -/
def nodeShaper (i : Nat) : Shaper := ⟨NODE.SHAPE_RATE, NODE.SHAPE_BURST, NODE.TOKENS, NODE.LAST, i⟩

/-- The tokens a shaper holds now. -/
def State.shaperNow (s : State) (h : Shaper) : Int :=
  refillSigned (s.get h.burst h.i) (s.get h.rate h.i) (wrapSub 32 s.ns32 (s.get h.last h.i)) (toSigned 32 (s.get h.tokens h.i))

/-- A shaper allows a frame (R233). -/
def State.shaperAllows (s : State) (h : Shaper) : Bool := s.get h.rate h.i == 0 || 0 ≤ s.shaperNow h

/-- A frame of `len` bytes charged to a shaper (R233). -/
def State.charge (h : Shaper) (len : Nat) (s : State) : State :=
  if s.get h.rate h.i = 0 then s
  else s.put h.tokens h.i (ofSigned 32 (s.shaperNow h - 256 * len)) |>.put h.last h.i s.ns32

/-! ### Egress gates (R236, R237) -/

/-- The line time of a frame at a downstream port, in ns (R236). -/
def State.txTime (s : State) (port len : Nat) : Nat :=
  let rate := s.get NODE.SHAPE_RATE port
  if rate = 0 then 0 else ((len + s.get NODE.GATE_OVERHEAD port) * 8 * 10 ^ 6 + rate - 1) / rate

/-- The gate of a gated queue lets its head frame go now (R236). -/
def State.gateAllows (s : State) (d q len : Nat) : Bool :=
  let i := queueAt d false q
  let port := nodeAt d false (s.portOf d false q)
  !s.flag QUEUE.GATED i
    || s.gateOpen (listAt d (s.get QUEUE.GATE_LIST i)) (s.get QUEUE.GATE i) (s.nowNs + s.get NODE.LEAD_MIN_NS port)
      (s.nowNs + s.get NODE.LEAD_MAX_NS port + s.txTime port len)

/-- Of the time from `t0` to `t1`, in ns, how long R236 holds a head frame of `len` bytes: what lies outside [open - LEAD_MIN_NS, close - LEAD_MAX_NS - tx]
of every window. -/
def State.heldTime (s : State) (d q len t0 t1 : Nat) : Nat :=
  let i := queueAt d false q
  let l := listAt d (s.get QUEUE.GATE_LIST i)
  let port := nodeAt d false (s.portOf d false q)
  let cycle := max 1 (s.get GATEHDR.CYCLE_NS l)
  let early := s.get NODE.LEAD_MIN_NS port
  let late := s.get NODE.LEAD_MAX_NS port + s.txTime port len
  let spans := s.spansOver l (s.get QUEUE.GATE i) ((t0 - s.gateBase l) / cycle - 1) ((t1 + early - t0) / cycle + 4)
  if s.flag QUEUE.GATED i then t1 - t0 - (spans.map fun w => min t1 (w.2 - late) - max t0 (w.1 - early)).sum else 0

/-- A head frame that no window of its gate can ever hold (R237); before BASE none is (R238). -/
def State.oversize (s : State) (d q len : Nat) : Bool :=
  let i := queueAt d false q
  let l := listAt d (s.get QUEUE.GATE_LIST i)
  let port := nodeAt d false (s.portOf d false q)
  s.flag QUEUE.GATED i && s.gateBase l ≤ s.nowNs
    && match s.longestWindow l (s.get QUEUE.GATE i) with
      | none => false
      | some w => w < s.txTime port len + s.get NODE.LEAD_MAX_NS port - s.get NODE.LEAD_MIN_NS port

/-! ### Tags and selection (R232) -/

/-- `a` is before `b` modulo 2^48 in a window of 2^47. -/
def tagBefore (a b : Nat) : Bool := a ≠ b && wrapSub 48 b a < 2 ^ 47

/-- The later of two tags. -/
def tagMax (a b : Nat) : Nat := if tagBefore a b then b else a

/-- A way to a waiting frame: its queue, and the nodes still between the node that selects and the queue, top first. -/
structure Way where
  queue : Nat
  nodes : List Nat
  deriving DecidableEq, Repr

/-- The ways from a port to the busy queues below it. -/
def State.waysTo (s : State) (d : Nat) (up : Bool) (port : Nat) : List Way :=
  ((s.busyQueues d up).filter fun q => s.leadsTo d up port q).map fun q => ⟨q, ((s.pathOf d up q).reverse).drop 1⟩

/-- The input of the selecting node that a way enters by. -/
def State.inputOf (s : State) (d : Nat) (up : Bool) (w : Way) : Nat :=
  match w.nodes with
  | [] => s.get QUEUE.INPUT (queueAt d up w.queue)
  | n :: _ => s.get NODE.INPUT (nodeAt d up n)

/-- The finish tag of the input that a way enters by. -/
def State.tagOf (s : State) (d : Nat) (up : Bool) (w : Way) : Nat :=
  match w.nodes with
  | [] => s.get QUEUE.TAG (queueAt d up w.queue)
  | n :: _ => s.get NODE.TAG (nodeAt d up n)

/-- Length of the head frame of a queue. -/
def State.headLength (s : State) (d : Nat) (up : Bool) (q : Nat) : Nat := ((s.queueOf d up q).head?.map fun f => f.length).getD 0

/-- A downstream queue of a line port that is starved of a key (R261). -/
def State.starvedQueue (s : State) (d q : Nat) : Bool :=
  s.regs.any fun e => e.1.n == CIPH_LP_BIND.STARVED.num && e.2 == 1 && dieOf (e.1.i / 4096) == d
    && s.get LPORT.DS_QUEUE e.1.i ≤ q && q < s.get LPORT.DS_QUEUE e.1.i + s.get LPORT.DS_COUNT e.1.i

/-- A queue is eligible at its parent (R232, R261). -/
def State.queueEligible (s : State) (d : Nat) (up : Bool) (q : Nat) : Bool :=
  s.flag QUEUE.ENABLE (queueAt d up q) && s.shaperAllows (queueShaper (queueAt d up q))
    && (up || (!s.starvedQueue d q && s.gateAllows d q (s.headLength d up q)))

/-- Of the inputs that offer a frame, the one a node selects: strict inputs first, then the smallest tag, ties to the lower input (R232).
An offer is its input, its tag and the queue it leads to. -/
def choose (offers : List (Nat × Nat × Nat)) : Option (Nat × Nat × Nat) :=
  match (List.range 4).findSome? fun i => offers.find? fun o => o.1 == i with
  | some o => some o
  | none => (List.range 16).foldl (fun best k =>
      match offers.find? fun o => o.1 == k + 4 with
      | some o => if best.all fun b => tagBefore o.2.1 b.2.1 then some o else best
      | none => best) (none : Option (Nat × Nat × Nat))

/-- The queue that a node selects among the ways below it, with `fuel` levels left (R232). -/
def State.selectBelow (s : State) (d : Nat) (up : Bool) : Nat → List Way → Option Nat
  | 0, _ => none
  | fuel + 1, ws =>
    let offers := (List.range 20).filterMap fun i =>
      match ws.filter fun w => s.inputOf d up w == i with
      | [] => none
      | w :: more =>
        match w.nodes with
        | [] => if s.queueEligible d up w.queue then some (i, s.tagOf d up w, w.queue) else none
        | n :: _ =>
          let below := (w :: more).map fun x => Way.mk x.queue (x.nodes.drop 1)
          if s.flag NODE.ENABLE (nodeAt d up n) && s.shaperAllows (nodeShaper (nodeAt d up n)) then
            (s.selectBelow d up fuel below).map fun q => (i, s.tagOf d up w, q)
          else none
    (choose offers).map fun o => o.2.2

/-- The queue whose head frame a port releases now; the port itself must be enabled and its shaper allow it. -/
def State.select (s : State) (d : Nat) (up : Bool) (port : Nat) : Option Nat :=
  let ws := s.waysTo d up port
  match ws.head?.map fun w => nodeAt d up (s.portOf d up w.queue) with
  | none => none
  | some p => if s.flag NODE.ENABLE p && s.shaperAllows (nodeShaper p) then s.selectBelow d up 5 ws else none

/-- The finish tag of a new head frame of `len` bytes at an input (R232). -/
def finishTag (vt tag len weight : Nat) (before : Bool) : Nat :=
  wrapAdd 48 (if before then tagMax vt tag else vt) (if weight = 0 then 0 else len * 4096 / weight)

/-- A queue offers a new head frame of `len` bytes to its parent. -/
def State.offerQueue (d : Nat) (up : Bool) (q len : Nat) (before : Bool) (s : State) : State :=
  let i := queueAt d up q
  let vt := s.get NODE.VT (nodeAt d up (s.get QUEUE.PARENT i))
  s.put QUEUE.TAG i (finishTag vt (s.get QUEUE.TAG i) len (s.get QUEUE.WEIGHT i) before)

/-- A node below a port offers a new frame of `len` bytes to its parent. -/
def State.offerNode (d : Nat) (up : Bool) (n len : Nat) (before : Bool) (s : State) : State :=
  let i := nodeAt d up n
  let vt := s.get NODE.VT (nodeAt d up (s.get NODE.PARENT i))
  s.put NODE.TAG i (finishTag vt (s.get NODE.TAG i) len (s.get NODE.WEIGHT i) before)

/-- The head of a queue has changed: another frame stands there and is offered (`before`: one was offered before it), or none. -/
def State.newHead (d : Nat) (up : Bool) (q : Nat) (before : Bool) (s : State) : State :=
  let none_ := (s.queueOf d up q).isEmpty
  let s := s.modQstat d up q fun x => { x with heads := x.heads + 1, headAt := if none_ then none else some s.nowNs, waited := false }
  if none_ then s else s.offerQueue d up q (s.headLength d up q) before

/-- The queue whose head a node offers its parent: the one it would select (R232). -/
def State.nextBelow (s : State) (d : Nat) (up : Bool) (n : Nat) : Option Nat :=
  let busy := (s.busyQueues d up).filter fun x => (s.pathOf d up x).contains n
  s.selectBelow d up 5 (busy.map fun q => Way.mk q (((s.pathOf d up q).takeWhile fun m => m ≠ n).reverse))

/-- What a node offers brought in line: a frame other than the one it offered gives it a new tag (R232). -/
def State.reofferNode (d : Nat) (up : Bool) (s : State) (n : Nat) : State :=
  let k := queueKey d up n
  let was := s.offers.get k none
  let now := (s.nextBelow d up n).map fun q => (q, (s.qstatOf d up q).heads)
  if now = was then s
  else
    let s := { s with offers := s.offers.set k none now }
    match now with
    | some (q, _) => s.offerNode d up n (s.headLength d up q) was.isSome
    | none => s

/-- The ways from a port, itself first, to its busy queues' parents and to the nodes below it that offered a frame. -/
def State.branches (s : State) (d : Nat) (up : Bool) (port : Nat) : List (List Nat) :=
  let own := (s.offers.filter fun e => e.1.n == 2 * d + ofBool up).map fun e => (s.nodesUp d up 4 e.1.i).reverse
  (((s.busyQueues d up).map fun q => (s.pathOf d up q).reverse) ++ own).filter fun p =>
    p.head?.any fun n => s.flag NODE.PORT (nodeAt d up n) && s.get NODE.PORT_ID (nodeAt d up n) == port

/-- The offers of every node below a port brought in line with its queues, shapers and gates, the lowest level first (R232, log entry 66). -/
def State.reoffer (d : Nat) (up : Bool) (port : Nat) (s : State) : State :=
  let ps := s.branches d up port
  ([3, 2, 1].flatMap fun k => (ps.filterMap fun p => p[k]?).eraseDups).foldl (fun s n => State.reofferNode d up s n) s

/-- The same for the port of a queue. -/
def State.reofferQueue (d : Nat) (up : Bool) (q : Nat) (s : State) : State := s.reoffer d up (s.get NODE.PORT_ID (nodeAt d up (s.portOf d up q)))

/-- After a release through a path, the virtual times of the nodes whose weighted group it came from (R232). -/
def State.moveVt (d : Nat) (up : Bool) (q : Nat) (s : State) : State :=
  let path := s.pathOf d up q
  let i := queueAt d up q
  let s := match path.head? with
    | some n => if 4 ≤ s.get QUEUE.INPUT i then s.put NODE.VT (nodeAt d up n) (s.get QUEUE.TAG i) else s
    | none => s
  path.foldl (fun s n =>
    let k := nodeAt d up n
    if s.flag NODE.PORT k || s.get NODE.INPUT k < 4 then s
    else s.put NODE.VT (nodeAt d up (s.get NODE.PARENT k)) (s.get NODE.TAG k)) s

/-! ### Host access to contexts (R228) -/

/-- Bytes 8 to 31 of TM_ACC_DATA in their place. -/
def State.tmData (s : State) (d : Nat) : Nat := s.words TM_ACC_DATA.DATA (d * 8) 8

/-- A traffic-manager access completes (Table 10.11). -/
def State.tmDone (d r : Nat) (s : State) : State := s.put TM_ACC_CTRL.RESULT d r |>.put TM_ACC_CTRL.DONE d 1

/-- TARGET of Table 10.11: upstream, and node rather than queue. -/
def targetUp (t : Nat) : Bool := t % 2 == 1
/-- TARGET names a node. -/
def targetNode (t : Nat) : Bool := t / 2 % 2 == 1

/-- The number of queues or nodes that a TARGET numbers (Table 10.3). -/
def targetSize (t : Nat) : Nat :=
  match t with
  | 0 => 32768
  | 1 => 8192
  | 2 => 16384
  | _ => 4096

/-- TM_ACC_READ (R228). -/
def execTmAccRead (d target index : Nat) (s : State) : Result :=
  if targetSize target ≤ index then .next (s.tmDone d 2)
  else
    let v := if targetNode target then s.packRec NODE.fields (nodeAt d (targetUp target) index)
      else s.packRec QUEUE.fields (queueAt d (targetUp target) index)
    .next (s.putWords TM_ACC_DATA.DATA (d * 8) 8 (withCheck v) |>.tmDone d 0)

/-- Bytes 8 to 31 of a queue context as a WRITE brings them (R228, Table 10.1). -/
def State.queueWriteOk (s : State) (d : Nat) (up : Bool) (q v : Nat) : Bool :=
  let i := queueAt d up q
  let gated := bitAt v 65
  let port := nodeAt d up (s.portOf d up q)
  let weight := bits v 112 16
  reservedClear QUEUE.fields 64 256 v && bits v 88 8 ≤ 100 && bits v 96 8 ≤ bits v 88 8
    && (s.get QUEUE.INPUT i < 4 || (1 ≤ weight && weight ≤ 4096)) && bits v 160 32 ≤ 1600000000
    && !(gated && (up || !s.flag QUEUE.CUT_THROUGH i || s.get NODE.SHAPE_RATE port == 0
      || !bitAt (s.get GATEHDR.USE (listAt d (bits v 72 8))) 1))
    && !(bitAt v 66 && !up)

/-- An enabled gated queue lies below a downstream port of a die (R228). -/
def State.gatedBelow (s : State) (d n : Nat) : Bool :=
  (List.range 32768).any fun q =>
    s.flag QUEUE.GATED (queueAt d false q) && s.flag QUEUE.ENABLE (queueAt d false q) && s.portOf d false q == n

/-- Bytes 8 to 31 of a node context as a WRITE brings them (R228, Table 10.4). -/
def State.nodeWriteOk (s : State) (d : Nat) (up : Bool) (n v : Nat) : Bool :=
  let i := nodeAt d up n
  let weight := bits v 80 16
  let port := s.flag NODE.PORT i
  reservedClear NODE.fields 64 256 v && bits v 96 32 ≤ 1600000000 && bits v 160 16 ≤ 64
    && 1 ≤ weight && weight ≤ 4096
    && bits v 192 32 ≤ bits v 224 32 && bits v 224 32 ≤ 100000
    && !(port && !up && bits v 96 32 == 0 && s.gatedBelow d n)

/-- Fields of a context in bytes 8 to 31. -/
def hostBytes (fs : List Field) : List Field := fs.filter fun f => 64 ≤ f.lsb && f.lsb < 256

/-- TM_ACC_WRITE (R228): bytes 8 to 31 replaced whole, or BAD_VALUE and no change. -/
def execTmAccWrite (d target index : Nat) (s : State) : Result :=
  let v := s.tmData d
  let up := targetUp target
  if targetSize target ≤ index then .next (s.tmDone d 2)
  else if targetNode target then
    .next (if s.nodeWriteOk d up index v then s.unpackRec (hostBytes NODE.fields) (nodeAt d up index) v |>.tmDone d 0 else s.tmDone d 3)
  else
    .next (if s.queueWriteOk d up index v then s.unpackRec (hostBytes QUEUE.fields) (queueAt d up index) v |>.tmDone d 0 else s.tmDone d 3)

end Sys2Proof.Machine
end

