-- ==== Sys2Proof/Machine/Ingress.lean ====
section
/-!
DEFINITION. Frames on their way into the part: fabric lane receive with MACsec (R265, R271), sequence tags (R332), circuit packets (R187),
forwarding lookup (R211), and admission on the die of the tree (R227 to R230).
-/

namespace Sys2Proof.Machine

/-! ### Lanes -/

/-- Counter `k` of a package fabric lane (Table 13.17). -/
def State.laneCnt (l k n : Nat) (s : State) : State := s.bump FAB_LANE_CNT.COUNT (l * 12 + k) n

/-- The unit number of the link from DIE[d] to DIE[e] as DIE[d] sees it. -/
def linkAt (d e : Nat) : Nat := d * 8 + e

/-- Counter `k` of a die link (Table 13.17). -/
def State.linkCnt (d e k n : Nat) (s : State) : State := s.bump FAB_DL_CNT.COUNT (linkAt d e * 8 + k) n

/-- The die link between two dies is ON; within one die none is needed. -/
def State.linked (s : State) (d e : Nat) : Bool := d == e || s.get FAB_DL_STATUS.STATE (linkAt d e) == 2

/-- Bytes that cross from a die to another (R307, R317, R370). DESIGN CHOICE of the flits that carry them, log entry 70. -/
def State.crossBytes (d e n : Nat) (s : State) : State :=
  if d = e then s else s.linkCnt d e 0 (Config.flitsOf n) |>.passBytes d (40 + e) n |>.passBytes e (48 + d) n

/-- The lane that stands for a lane: local lane 0 for a 400 Gbit/s group (R293). -/
def State.laneUnit (s : State) (l : Nat) : Nat := if s.get FAB_LANE_STATUS.MODE l = 2 then l / 4 * 4 else l

/-- A package fabric lane is ON. -/
def State.laneOn (s : State) (l : Nat) : Bool := s.get FAB_LANE_STATUS.STATE l == 2

/-- A counter of the protection pair (Table 14.16). -/
def State.peerCnt (k n : Nat) (s : State) : State := s.bump PEER_CNT.COUNT k n

/-! ### MACsec on receive (R265, R271) -/

/-- Ingress domain of a frame, whether it arrived under MACsec with its tag verified (Table 8.2), and whether its tag failed after plaintext left. -/
structure Entered where
  domain : Nat := 0
  macsec : Bool := false
  marked : Bool := false
  deriving DecidableEq, Repr

/-- Valid receive channels of a lane. -/
def State.rxChannels (s : State) (lane : Nat) : List Nat :=
  ((s.regs.filter fun e => e.1.n == MSC.VALID.num && e.1.i / 16384 == lane / 4 && e.2 == 1).map fun e => e.1.i).filter fun i =>
    !s.flag MSC.TRANSMIT i && s.get MSC.LANE i == lane

/-- The receive channel of a frame with a SecTAG: by lane and SCI, or the lane's default. -/
def State.rxChannel (s : State) (lane : Nat) (sci : Option Nat) : Option Nat :=
  match sci with
  | some x => (s.rxChannels lane).find? fun i => s.get MSC.SCI i == x
  | none => if s.flag CIPH_LANE.DEFAULT_EN lane then
      (s.rxChannels lane).find? fun i => i % 16384 == s.get CIPH_LANE.DEFAULT_RX_SC lane
    else none

/-- The valid association of a channel with an association number; answers its unit number. -/
def State.rxAssoc (s : State) (i an : Nat) : Option Nat :=
  let d := i / 16384
  let c := i % 16384
  [saAt d (2 * c), saAt d (2 * c + 1)].find? fun a => s.flag MSA.VALID a && s.get MSA.AN a == an

/-- A frame's tag judged under association `a` of channel `i` (R265, R271). -/
def State.macsecJudge (d i a : Nat) (t : SecTag) (s : State) : Option Entered × State :=
  if s.flag MSC.REPLAY_EN i && t.pn + s.get MSC.REPLAY_WINDOW i < s.get MSA.PN a then
    (none, s.ciphCnt d 4 |>.addSat MSA.REPLAY a 1)
  else
    match t.result with
    | .bad => (none, s.ciphCnt d 2 |>.addSat MSA.TAG_FAIL a 1)
    | .badLate =>
      (some ⟨s.get MSC.DOMAIN i, false, true⟩, s.ciphCnt d 3 |>.addSat MSA.TAG_FAIL_CUT a 1 |>.put CIPH_STATUS.LAST_SA d (a % 32768)
        |>.ciphEvent CIPH_STATUS.CUT_TAG_FAIL d)
    | .ok => (some ⟨s.get MSC.DOMAIN i, true, false⟩, s.put MSA.PN a (max (s.get MSA.PN a) (t.pn + 1)))

/-- MACsec removed and verified (R264, R265): SCB or no encryption is dropped as NO_SC; a frame without a SecTAG enters in domain 0 unless the lane requires one. -/
def State.macsecIn (lane : Nat) (sec : Option SecTag) (s : State) : Option Entered × State :=
  let d := lane / 4
  match sec with
  | none => if s.flag CIPH_LANE.REQUIRE lane then (none, s.ciphCnt d 6) else (some {}, s)
  | some t =>
    if t.scb || !t.e then (none, s.ciphCnt d 5)
    else match s.rxChannel lane t.sci with
    | none => (none, s.ciphCnt d 5)
    | some i =>
      if s.flag MSC.UNBOUND i then (none, s.separation d 11 0 0xFFF 0 0 (i % 16384))
      else
        match s.rxAssoc i t.an with
        | none => (none, s.ciphCnt d 5)
        | some a => s.macsecJudge d i a t

/-! ### Tags ahead of the parser -/

/-- The big-endian value of `n` bytes from byte `k`. -/
def beAt (b : List Nat) (k n : Nat) : Nat := ((b.drop k).take n).foldl (fun v x => v * 256 + x % 256) 0

/-- A protection sequence tag directly after the source address taken out (R332, Table 14.8). -/
def State.takeSeqTag (s : State) (b : List Nat) : List Nat × Option SeqTag :=
  if beAt b 12 2 = s.get PEER_CTRL.TAG_ETHERTYPE 0 && beAt b 14 1 / 16 = 1 && 24 ≤ b.length then
    (b.take 12 ++ b.drop 24, some ⟨beAt b 15 3, beAt b 18 6⟩)
  else (b, none)

/-- Where the header of a circuit-emulation packet starts: after its EtherType, itself after the source address or one 802.1Q tag (R187). -/
def ceStart (etherType : Nat) (b : List Nat) : Option Nat :=
  if beAt b 12 2 = etherType then some 14
  else if beAt b 12 2 = 0x8100 && beAt b 16 2 = etherType then some 18
  else none

/-- A circuit packet from its header and payload (Table 7.4). -/
def cePacket (circuit domain : Nat) (b : List Nat) : CePkt where
  circuit := circuit
  domain := domain
  localFail := bitAt (beAt b 0 4) 27
  remoteFail := bitAt (beAt b 0 4) 26
  seq := beAt b 4 2
  ts := beAt b 8 4
  payload := (b.drop 12).take (beAt b 6 2)

/-- A circuit packet handed to the home die of its label's circuit, or dropped for an unknown label (R181). -/
def State.circuitIn (d domain : Nat) (b : List Nat) (s : State) : State :=
  let s := s.parseCnt d 12
  match s.labels.get ⟨d, beAt b 0 4 % 2 ^ 20⟩ 0 with
  | 0 => s.addSat CIRC_UNKNOWN.UNKNOWN_LABEL d 1
  | c + 1 =>
    let home := s.get CIRC.HOME_DIE c
    let e := if s.flag CIRC.GROUPED c then home else c / 1024
    { s with ceWaiting := s.ceWaiting.set ⟨e, 0⟩ [] (s.ceWaiting.get ⟨e, 0⟩ [] ++ [cePacket c domain b]) }

/-! ### Forwarding (R211) -/

/-- An IEEE 802.1Q or 802.1ad tag's EtherType (log entry 12). -/
def isVlanTag (w : Nat) : Bool := w == 0x8100 || w == 0x88A8

/-- TAG_MODE, outer and inner VID of a frame (Table 9.2). -/
def frameTags (b : List Nat) : Nat × Nat × Nat :=
  if isVlanTag (beAt b 12 2) then
    if isVlanTag (beAt b 16 2) then (2, beAt b 14 2 % 4096, beAt b 18 2 % 4096) else (1, beAt b 14 2 % 4096, 0)
  else (0, 0, 0)

/-- The members of flood set `set` in what follows the line-port contexts of a section, with `n` sets left (R253). -/
def floodIn (set : Nat) : Nat → List Nat → List Nat
  | 0, _ => []
  | n + 1, b =>
    let w := leAt b 0 4
    let m := w / 2 ^ 12 % 256 + 1
    (if w % 4096 = set then (List.range m).map fun k => leAt b (4 + 2 * k) 2 % 4096 else []) ++ floodIn set n (b.drop (4 + 2 * m))

/-- The line ports of a flood set over all trees (R227, R253). -/
def State.floodSet (s : State) (set : Nat) : List (Nat × Nat) :=
  s.portTrees.flatMap fun t =>
    let b := s.sect 0x0102 t
    (floodIn set (leAt b 4 4) (b.drop (16 + 32 * leAt b 0 4))).map fun p => (t, p)

/-- One copy of a frame on its way to its line port: dropped by a standby (R329) or for want of a die link (R307), else on the tree's die. -/
def State.deliver (d : Nat) (f : Frame) (m : Nat × Nat) (s : State) : State :=
  let e := dieOf m.1
  let f := { f with tree := m.1, linePort := m.2, set := s.get LPORT.SET (lpAt m.1 m.2) }
  if s.standbyFor m.1 then s.peerCnt 9 1
  else if !s.linked d e then s.linkCnt d e 5 1
  else { s with inbox := s.inbox.set ⟨e, 0⟩ [] (s.inbox.get ⟨e, 0⟩ [] ++ [f]) }.crossBytes d e f.length

/-- FORWARD_LOOKUP of a parsed downstream frame on the die of its lane (R211). -/
def State.forward (d lane ingress : Nat) (f : Frame) (s : State) : State :=
  let (mode, outer, inner) := frameTags f.bytes
  let (hit, s) := s.lookup d { type := 1, domain := ingress, key := serviceKey lane mode outer inner }
  match hit with
  | none => s.fwdCnt d 1
  | some e =>
    let s := s.fwdCnt d 0
    let f := { f with domain := e.domain, service := e.service }
    if e.bridge = 0 then s.deliver d f e.p2p
    else
      let dst := leValue (f.bytes.take 6)
      let flood := fun (s : State) =>
        if e.floodEn then (s.floodSet e.floodSet).foldl (fun s m => s.deliver d f m) (s.fwdCnt d 2) else s.fwdCnt d 3
      if dst % 2 = 1 then flood s
      else
        let (mac, s) := s.lookup d { type := 2, domain := e.domain, key := macKey e.bridge dst }
        match mac with
        | some x => s.deliver d f x.place
        | none => flood s

/-- A verified frame parsed and forwarded, or a circuit packet handed on (R187, R211). -/
def State.enter (lane profile : Nat) (e : Entered) (b : List Nat) (s : State) : State :=
  let d := lane / 4
  let (b, tag) := s.takeSeqTag b
  match ceStart (s.get CIRC_CTRL.ETHERTYPE d) b with
  | some k => s.circuitIn d e.domain (b.drop k)
  | none =>
    let f : Frame := { bytes := b, length := b.length, domain := e.domain, lane := lane, macsec := e.macsec, marked := e.marked,
                       tag := tag, profile := profile }
    match s.parseFrame d profile f with
    | (none, s) => s
    | (some f, s) => s.forward d lane e.domain f

/-- A frame on an Ethernet lane (R294, R265): PAUSE and over-long frames are discarded; then MACsec, parser and lookup. -/
def State.ethernetIn (lane : Nat) (b : List Nat) (sec : Option SecTag) (s : State) : State :=
  let s := s.laneCnt lane 5 1 |>.passBytes (lane / 4) (32 + lane % 4) b.length
  if sec.isNone && beAt b 12 2 = 0x8808 then s.laneCnt lane 7 1
  else if b.length < 64 || 9216 < b.length then s.laneCnt lane 7 1
  else
    match s.macsecIn lane sec with
    | (none, s) => s
    | (some e, s) => s.enter lane 0 e b

/-- The oldest frame that a Kolkan lane has received whole (R302). -/
def State.kolkanIn (lane : Nat) (s : State) : State :=
  match s.rxReady.get ⟨lane, 0⟩ [] with
  | [] => s
  | r :: rest =>
    let s := { s with rxReady := s.rxReady.set ⟨lane, 0⟩ [] rest }
    if r.circuit then s.circuitIn (lane / 4) r.domain r.bytes
    else s.passBytes (lane / 4) (32 + lane % 4) r.bytes.length |>.enter lane 1 { domain := r.domain } r.bytes

/-- FABRIC_FRAME_RECEIVE (R211, R265): a frame `b`, from destination address through FCS with MACsec removed, and its SecTAG, on an
Ethernet lane; on a Kolkan lane the oldest frame that its cells completed. Nothing is received on a lane that is not ON. -/
def execFabricFrameReceive (lane : Nat) (b : List Nat) (sec : Option SecTag) (s : State) : Result :=
  let l := s.laneUnit lane
  if !s.laneOn l then .next s
  else
    match s.get FAB_LANE_STATUS.MODE l with
    | 1 | 2 => .next (s.ethernetIn l b sec)
    | 3 => .next (s.kolkanIn l)
    | _ => .next s

/-! ### Admission on the tree's die -/

/-- Duplicate elimination of a tagged frame on the die of its tree (R332): whether it is accepted. -/
def State.eliminate (d : Nat) (t : SeqTag) (s : State) : Bool × State :=
  if !s.flag PEER_ELIM_CTRL.ENABLE 0 then (true, s)
  else
    let key : Key := ⟨d, crc32c (leBytes 3 t.stream).reverse % 4096⟩
    let ways := s.elim.get key []
    let now := s.nowNs
    let save := fun (e : ElimEnt) (s : State) =>
      { s with elim := s.elim.set key [] ((e :: ways.filter fun x => x.stream ≠ t.stream).take 4) }
    match ways.find? fun x => x.stream == t.stream && now - x.last ≤ s.get PEER_ELIM_CTRL.RESET_MS 0 * 1000000 with
    | none => (true, save ⟨t.stream, t.seq, 1, now⟩ s)
    | some e =>
      let delta := toSigned 48 (wrapSub 48 t.seq e.top)
      let h := s.get PEER_ELIM_CTRL.HISTORY 0
      if 0 < delta then (true, save { e with top := t.seq, hist := (e.hist * 2 ^ delta.toNat + 1) % 2 ^ h, last := now } s)
      else if (-delta).toNat < h && !bitAt e.hist (-delta).toNat then
        (true, save { e with hist := setBit e.hist (-delta).toNat, last := now } s)
      else (false, save { e with last := now } s |>.peerCnt 7 1)

/-- A drop of this chapter: the queue's drop counters and a die counter (R229, R240). -/
def State.dropQueued (d : Nat) (up : Bool) (q len : Nat) (s : State) : State := s.countQueue d up q 2 1 |>.countQueue d up q 3 len

/-- A traffic-manager counter of a die (Table 10.15). -/
def State.tmCnt (d k : Nat) (s : State) : State := s.bump TM_CNT.COUNT (d * 12 + k) 1

/-- An event at most once a second of a unit: `true` and remembered when none was said in this second of network time. -/
def State.oncePerSecond (code unit : Nat) (s : State) : Bool × State :=
  if s.saidAt.get ⟨code, unit⟩ 0 = s.netSec + 1 then (false, s) else (true, { s with saidAt := s.saidAt.set ⟨code, unit⟩ 0 (s.netSec + 1) })

/-- A source raised at most once a second. -/
def State.raiseOnce (code unit d src : Nat) (s : State) : State :=
  match s.oncePerSecond code unit with
  | (true, s) => s.raise d src
  | (false, s) => s

/-- Cells that a length takes (R229). -/
def cellsFor (len : Nat) : Nat := (len + 255) / 256

/-- Express SRAM cells in use on a die in a direction (R230). -/
def State.expressInUse (s : State) (d : Nat) (up : Bool) : Nat :=
  ((s.regs.filter fun e => e.1.n == QUEUE.EXPRESS_USED.num && e.1.i / 32768 == 2 * d + ofBool up).map fun e => e.2).sum

/-- A cut-through queue takes a frame of `n` cells into express SRAM (R230). -/
def State.expressRoom (s : State) (d : Nat) (up : Bool) (q n : Nat) : Bool :=
  let i := queueAt d up q
  s.flag QUEUE.CUT_THROUGH i && s.get QUEUE.CELLS i == s.get QUEUE.EXPRESS_USED i
    && s.get QUEUE.EXPRESS_USED i + n ≤ s.get QUEUE.EXPRESS_CELLS i && s.expressInUse d up + n ≤ (if up then 32768 else 65536)

/-- The colour limit of a queue (R229). -/
def State.colourLimit (s : State) (i colour : Nat) : Nat :=
  let m := s.get QUEUE.MAX_CELLS i
  match colour with
  | 0 => m
  | 1 => m * s.get QUEUE.YELLOW_PCT i / 100
  | _ => m * s.get QUEUE.RED_PCT i / 100

/-- The head frame of a queue taken out, its cells freed. -/
def State.popQueue (d : Nat) (up : Bool) (q : Nat) (s : State) : Option Frame × State :=
  match s.queueOf d up q with
  | [] => (none, s)
  | f :: rest =>
    let i := queueAt d up q
    let dom := d * 4096 + f.cellDomain
    let s := s.setQueue d up q rest |>.put QUEUE.CELLS i (s.get QUEUE.CELLS i - f.cells) |>.put QUEUE.FRAMES i (s.get QUEUE.FRAMES i - 1)
      |>.put TM_DOMAIN.BUF_USED dom (s.get TM_DOMAIN.BUF_USED dom - f.cells)
    let s := if f.dram then s.put TM_BUF_STATUS.BUF_USED d (s.get TM_BUF_STATUS.BUF_USED d - f.cells)
      else s.put QUEUE.EXPRESS_USED i (s.get QUEUE.EXPRESS_USED i - f.cells)
    (some { f with stored := [] }, s)

/-- A memory counter of a die (Table 12.17). -/
def State.memCnt (d k n : Nat) (s : State) : State := s.bump MEM_CNT.COUNT (d * 16 + k) n

/-- A head frame that must go: one with a cell lost to an uncorrectable word or a retired channel (R286, R290), or one no window can
hold (R237). None when the head may stay. -/
def State.headBad (s : State) (d : Nat) (up : Bool) (q : Nat) : Option (State → State) :=
  match s.queueOf d up q with
  | [] => none
  | f :: _ =>
    if f.damage = 1 then some fun s => s.memCnt d 8 1
    else if f.damage = 2 then some fun s => s.memCnt d 12 1
    else if !up && s.oversize d q f.length then some fun s => s.tmCnt d 11
    else none

/-- Head frames that must go are dropped, at most `fuel` of them. -/
def State.cleanHead (d : Nat) (up : Bool) (q : Nat) : Nat → State → State
  | 0, s => s
  | fuel + 1, s =>
    match s.headBad d up q with
    | none => s
    | some count =>
      match s.popQueue d up q with
      | (some f, s) =>
        let s := count s |>.dropQueued d up q f.length
        (s.newHead d up q true).cleanHead d up q fuel
      | (none, s) => s

/-- An admitted frame of `n` cells appended to its queue; in an empty one it is the head, and judged as such at once (R229, R230, R232, R237). -/
def State.append (d : Nat) (up : Bool) (q n : Nat) (express : Bool) (f : Frame) (s : State) : State :=
  let i := queueAt d up q
  let dom := d * 4096 + f.domain
  let was := s.queueOf d up q
  let f := { f with queue := q, cells := n, dram := !express, enq := s.nowNs, cellDomain := f.domain,
                    stored := if express then [] else s.sealCells d 0 f.domain f.bytes }
  let s := s.useFree.setQueue d up q (was ++ [f]) |>.put QUEUE.CELLS i (s.get QUEUE.CELLS i + n) |>.put QUEUE.FRAMES i (s.get QUEUE.FRAMES i + 1)
    |>.put TM_DOMAIN.BUF_USED dom (s.get TM_DOMAIN.BUF_USED dom + n)
  let s := if express then s.put QUEUE.EXPRESS_USED i (s.get QUEUE.EXPRESS_USED i + n)
    else s.put TM_BUF_STATUS.BUF_USED d (s.get TM_BUF_STATUS.BUF_USED d + n)
  let s := if !express && s.flag QUEUE.CUT_THROUGH i then s.tmCnt d 9 else s
  let s := s.modQstat d up q fun x => { x with peak := max x.peak (s.get QUEUE.CELLS i) }
  let s := s.tmCnt d (ofBool up) |>.countQueue d up q 0 1 |>.countQueue d up q 1 f.length
  if was.isEmpty then s.newHead d up q false |>.cleanHead d up q 1 |>.reofferQueue d up q else s

/-- The queue of a classified frame (R227). -/
def State.queueFor (s : State) (f : Frame) : Nat :=
  let i := lpAt f.tree f.linePort
  if f.up then s.get LPORT.US_QUEUE i + min f.tc (s.get LPORT.US_COUNT i - 1)
  else s.get LPORT.DS_QUEUE i + min f.tc (s.get LPORT.DS_COUNT i - 1)

/-- Admission of a classified frame (R229, Table 10.2). A frame whose tag failed has no place in a store-and-forward queue (R27): it goes, counted by
the cipher engine already. A downstream frame of a cut-through queue carries no length, so 9,216 bytes count until it ends. -/
def State.admitFrame (d : Nat) (f : Frame) (s : State) : State :=
  let q := s.queueFor f
  let i := queueAt d f.up q
  let n := cellsFor f.length
  let ahead := if s.flag QUEUE.CUT_THROUGH i && !f.up then 36 else n
  let drop := fun (k : Nat) (s : State) => s.tmCnt d k |>.dropQueued d f.up q f.length
  let dom := d * 4096 + f.domain
  if f.marked && !s.flag QUEUE.CUT_THROUGH i then s
  else if !s.flag QUEUE.ENABLE i then drop 2 s
  else if f.domain ≠ s.get QUEUE.DOMAIN i then s.sepFrame d 7 f (s.get QUEUE.DOMAIN i) q |>.dropQueued d f.up q f.length
  else if s.colourLimit i f.colour < s.get QUEUE.CELLS i + ahead then drop (3 + min f.colour 2) s
  else if s.get TM_DOMAIN.BUF_QUOTA dom < s.get TM_DOMAIN.BUF_USED dom + ahead then drop 6 s
  else if s.get TM_BUF_STATUS.BUF_CELLS d < s.get TM_BUF_STATUS.BUF_USED d + ahead then drop 7 s |>.raiseOnce 0 d d 2200
  else s.append d f.up q n (s.expressRoom d f.up q ahead) f

/-- A parsed frame classified, policed and admitted; one whose tree is SHUTTING is flushed (R55, R248). -/
def State.classifyAdmit (d : Nat) (f : Frame) (s : State) : State :=
  match s.classify d f.profile f with
  | (none, s) => s
  | (some f, s) =>
    if !f.up && s.get DMK_TREE_STATE.STATE f.tree = 3 then s.tmCnt d 8 |>.dropQueued d false (s.queueFor f) f.length
    else s.admitFrame d f

/-- The service entry of a binding has LEARN_EN set on a die (R212). -/
def State.learnEnabled (s : State) (d : Nat) (domain service bridge : Nat) : Bool :=
  s.fwd.any fun e => e.1.n == d && e.2.type == 1 && e.2.domain == domain && e.2.service == service && e.2.bridge == bridge && e.2.learnEn

/-- An upstream frame parsed, learned from, classified and admitted (Table 1.3, R187, R212). -/
def State.admitUp (d : Nat) (f : Frame) (s : State) : State :=
  let i := lpAt f.tree f.linePort
  let f := { f with profile := s.get LPORT.PARSE i, service := s.get LPORT.SERVICE i, lane := s.get LPORT.UPLINK i }
  match s.parseFrame d f.profile f with
  | (none, s) => s
  | (some f, s) =>
    let bridge := s.get LPORT.BRIDGE i
    let s := if bridge ≠ 0 && s.flag FWD_CTRL.LEARN_EN d && s.learnEnabled d f.domain f.service bridge then s.sourceLearn d f bridge else s
    s.classifyAdmit d f

/-- A downstream frame on its tree's die: duplicates go (R332), then classification and admission. -/
def State.admitDown (d : Nat) (f : Frame) (s : State) : State :=
  match f.tag with
  | none => s.classifyAdmit d f
  | some t =>
    match s.eliminate d t with
    | (true, s) => s.classifyAdmit d f
    | (false, s) => s

/-- FRAME_ADMIT (R229): the oldest frame that waits on a die before its classifier. -/
def execFrameAdmit (d : Nat) (s : State) : Result :=
  match s.inbox.get ⟨d, 0⟩ [] with
  | [] => .next s
  | f :: rest =>
    let s := { s with inbox := s.inbox.set ⟨d, 0⟩ [] rest }
    .next (if f.up then s.admitUp d f else s.admitDown d f)

end Sys2Proof.Machine
end

