-- ==== Sys2Proof/Machine/Traffic.lean ====
section
/-!
DEFINITION. Frames on their way out (chapter 10): release from the hierarchy, the Felt hold store and its port states, samples, and
upstream transmission with sequence tag and MACsec (R266, R330) or as Kolkan cells (R299 to R302).
-/

namespace Sys2Proof.Machine

/-! ### Leaving a queue -/

/-- Every head frame below a port that must go is dropped. -/
def State.cleanPort (d : Nat) (up : Bool) (port : Nat) (s : State) : State :=
  ((s.busyQueues d up).filter fun q => s.leadsTo d up port q).foldl (fun s q => State.cleanHead d up q (s.queueOf d up q).length s) s

/-- Gated head frames that their gate holds at this instant (R236): GATE_WAITS counts each once. -/
def State.noteGates (d port : Nat) (s : State) : State :=
  ((s.busyQueues d false).filter fun q => s.leadsTo d false port q).foldl (fun s q =>
    if !(s.qstatOf d false q).waited && !s.gateAllows d q (s.headLength d false q) then
      s.tmCnt d 10 |>.modQstat d false q fun x => { x with waited := true }
    else s) s

/-- The time that its gate held the head frame of a downstream queue since what is counted of it (R236, R239). -/
def State.headWait (s : State) (d : Nat) (up : Bool) (q : Nat) : Nat :=
  match up, (s.qstatOf d up q).headAt with
  | false, some t0 => s.heldTime d q (s.headLength d false q) t0 s.nowNs
  | _, _ => 0

/-- The wait of a head frame so far counted in its queue's window. -/
def State.settleWait (d q : Nat) (s : State) : State :=
  let wait := s.headWait d false q
  s.modQstat d false q fun x => { x with gateWait := x.gateWait + wait, headAt := x.headAt.map fun _ => s.nowNs }

/-- The sample of a frame released from a queue, whose gate held it for `wait` ns at the head (R239). -/
def State.sampleRelease (d : Nat) (up : Bool) (q : Nat) (f : Frame) (wait : Nat) (s : State) : State :=
  let sojourn := s.nowNs - f.enq
  s.modQstat d up q fun x =>
    { x with
      framesOut := x.framesOut + 1
      sojournMax := max x.sojournMax (min sojourn (2 ^ 32 - 1))
      sojournSum := x.sojournSum + sojourn
      gateWait := x.gateWait + wait }

/-! ### Upstream ports and Felt (R242 to R247) -/

/-- The unit number of upstream port `p` on a die. -/
def portAt (d p : Nat) : Nat := d * 32 + p

/-- A Felt counter of a die (Table 10.20). -/
def State.feltCnt (d k n : Nat) (s : State) : State := s.bump FELT_CNT.COUNT (d * 8 + k) n

/-- The frames of a port's Felt FIFO on a die, head first. -/
def State.feltOf (s : State) (d p : Nat) : List Frame := s.felt.get ⟨d, p⟩ []

/-- A frame handed to the lane of an upstream port; it crosses a die link where the lane lies on another die (R19). -/
def State.toLane (d p : Nat) (f : Frame) (s : State) : State :=
  { s with laneOut := s.laneOut.set ⟨p, d⟩ [] (s.laneOut.get ⟨p, d⟩ [] ++ [f]) }.crossBytes d (p / 4) f.length

/-- A frame of a HOLD queue appended to a port's Felt FIFO, or dropped for its quota or the region (R243, R245). -/
def State.feltAppend (d p : Nat) (f : Frame) (s : State) : State :=
  let dom := d * 4096 + f.domain
  let n := cellsFor f.length
  if f.domain ≠ s.get QUEUE.DOMAIN (queueAt d true f.queue) then
    s.sepFrame d 8 f (s.get QUEUE.DOMAIN (queueAt d true f.queue)) f.queue |>.dropQueued d true f.queue f.length
  else if s.get FELT_DOMAIN.QUOTA dom < s.get FELT_DOMAIN.USED dom + n then
    s.feltCnt d 4 1 |>.dropQueued d true f.queue f.length |>.put FELT_DOMAIN.QUOTA_FULL dom 1 |>.raiseOnce 1 dom d 2209
  else if s.get FELT_STATUS.REGION_CELLS d < s.get FELT_STATUS.USED_CELLS d + n then
    s.feltCnt d 5 1 |>.dropQueued d true f.queue f.length |>.event FELT_STATUS.REGION_FULL d d 2210
  else
    { s with felt := s.felt.set ⟨d, p⟩ [] (s.feltOf d p ++ [{ f with cells := n, felt := true, damage := 0, stored := s.sealCells d 1 f.domain f.bytes }]) }.useFree.put
        FELT_DOMAIN.USED dom (s.get FELT_DOMAIN.USED dom + n)
      |>.put FELT_STATUS.USED_CELLS d (s.get FELT_STATUS.USED_CELLS d + n)
      |>.put FELT_PORT_STATUS.CELLS (portAt d p) (s.get FELT_PORT_STATUS.CELLS (portAt d p) + n)
      |>.feltCnt d 0 1 |>.feltCnt d 1 f.length

/-- The node of an upstream port on a die, if its hierarchy has one. -/
def State.upPortNode (s : State) (d p : Nat) : Option Nat :=
  ((List.range 4096).find? fun n => s.flag NODE.PORT (nodeAt d true n) && s.get NODE.PORT_ID (nodeAt d true n) == p).map fun n => nodeAt d true n

/-- The drain shapers of a port. -/
def State.drainOf (s : State) (d p : Nat) : DrainSt := s.drain.get ⟨d, p⟩ {}

/-- The drain shapers of a port set. -/
def State.setDrain (d p : Nat) (x : DrainSt) (s : State) : State := { s with drain := s.drain.set ⟨d, p⟩ {} x }

/-- Tokens of the port's own rate over what leaves it while DRAINING (R246). -/
def State.outNow (s : State) (d p : Nat) : Int :=
  match s.upPortNode d p with
  | none => 0
  | some n => refillSigned (s.get NODE.SHAPE_BURST n) (s.get NODE.SHAPE_RATE n) (wrapSub 32 s.ns32 (s.drainOf d p).outLast) (s.drainOf d p).outTokens

/-- The port's own rate allows one more frame while DRAINING. -/
def State.outAllows (s : State) (d p : Nat) : Bool :=
  ((s.upPortNode d p).all fun n => s.get NODE.SHAPE_RATE n == 0) || 0 ≤ s.outNow d p

/-- A frame that leaves a DRAINING port charged to the port's own rate. -/
def State.outCharge (d p len : Nat) (s : State) : State :=
  s.setDrain d p { s.drainOf d p with outTokens := s.outNow d p - 256 * len, outLast := s.ns32 }

/-- A frame that an upstream port selected (R243, R244): to the lane, to Felt, or dropped. `hold` is HOLD of its queue; circuit packets
have none and no queue to count a drop against. -/
def State.toPort (d p : Nat) (hold queued : Bool) (f : Frame) (s : State) : State :=
  match s.get FELT_PORT_STATUS.STATE (portAt d p) with
  | 0 => s.toLane d p f
  | 1 =>
    if hold then s.feltAppend d p f
    else
      let s := s.feltCnt d 6 1
      if queued then s.dropQueued d true f.queue f.length else s
  | _ => if hold then s.feltAppend d p f else s.outCharge d p f.length |>.toLane d p f

/-- QUEUE_RELEASE (R232, R233, R236): one frame released through a port of a die: downstream 2 × local tree + set, upstream a package
fabric lane. A cell of another domain is never decrypted (R270). -/
def execQueueRelease (d : Nat) (up : Bool) (port : Nat) (s : State) : Result :=
  let s := s.cleanPort d up port
  let s := (if up then s else s.noteGates d port).reoffer d up port
  match s.select d up port with
  | none => .next s
  | some q =>
    let wait := s.headWait d up q
    match s.popQueue d up q with
    | (none, s) => .next s
    | (some f, s) =>
      let s := s.charge (queueShaper (queueAt d up q)) f.length
      let s := (s.pathOf d up q).foldl (fun s n => s.charge (nodeShaper (nodeAt d up n)) f.length) s
      let s := s.moveVt d up q |>.newHead d up q true
      let s := s.cleanHead d up q (s.queueOf d up q).length |>.reoffer d up port |>.sampleRelease d up q f wait
      if f.dram && f.cellDomain ≠ s.get QUEUE.DOMAIN (queueAt d up q) then
        .next (s.sepFrame d 10 f (s.get QUEUE.DOMAIN (queueAt d up q)) q |>.dropQueued d up q f.length)
      else if up then .next (s.toPort d port (s.flag QUEUE.HOLD (queueAt d true q)) true f)
      else .next (s.treeSend (s.flag QUEUE.CUT_THROUGH (queueAt d false q)) f |>.passBytes d port f.length)

/-- The Felt head of a port taken out. -/
def State.popFelt (d p : Nat) (f : Frame) (rest : List Frame) (s : State) : State :=
  let dom := d * 4096 + f.domain
  { s with felt := s.felt.set ⟨d, p⟩ [] rest }.put FELT_DOMAIN.USED dom (s.get FELT_DOMAIN.USED dom - f.cells)
    |>.put FELT_STATUS.USED_CELLS d (s.get FELT_STATUS.USED_CELLS d - f.cells)
    |>.put FELT_PORT_STATUS.CELLS (portAt d p) (s.get FELT_PORT_STATUS.CELLS (portAt d p) - f.cells)

/-- Damaged Felt frames are dropped as they reach the head (R247, R286). -/
def State.cleanFelt (d p : Nat) : Nat → State → State
  | 0, s => s
  | fuel + 1, s =>
    match s.feltOf d p with
    | f :: rest =>
      if f.damage = 0 then s else (s.popFelt d p f rest |>.feltCnt d 7 1 |>.dropQueued d true f.queue f.length).cleanFelt d p fuel
    | [] => s

/-- Tokens of the drain shaper: DRAIN_KBPS with a burst of 16 KiB (R246). -/
def State.drainNow (s : State) (d p : Nat) : Int :=
  refillSigned 16384 (s.get FELT_PORT_CTRL.DRAIN_KBPS (portAt d p)) (wrapSub 32 s.ns32 (s.drainOf d p).last) (s.drainOf d p).tokens

/-- FELT_RELEASE (R246): the Felt head of a DRAINING port goes to the lane when the drain shaper and the port's own rate allow it. -/
def execFeltRelease (d p : Nat) (s : State) : Result :=
  if s.get FELT_PORT_STATUS.STATE (portAt d p) ≠ 2 then .next s
  else
    let s := s.cleanFelt d p (s.feltOf d p).length
    let rate := s.get FELT_PORT_CTRL.DRAIN_KBPS (portAt d p)
    match s.feltOf d p with
    | [] => .next s
    | f :: rest =>
      if (rate ≠ 0 && s.drainNow d p < 0) || !s.outAllows d p then .next s
      else
        let s := if rate = 0 then s else s.setDrain d p { s.drainOf d p with tokens := s.drainNow d p - 256 * f.length, last := s.ns32 }
        .next (s.outCharge d p f.length |>.popFelt d p f rest |>.feltCnt d 2 1 |>.feltCnt d 3 f.length |>.toLane d p { f with stored := [] })

/-- A port of a die enters a state; each entry raises its source (R242). -/
def State.portState (d p st : Nat) (s : State) : State := s.put FELT_PORT_STATUS.STATE (portAt d p) st |>.raise d 2208

/-- A cause of HELD appears at a port (R242): bit 0 LANE, 1 DIE_LINK, 2 PATH, 3 HOST. -/
def State.portCause (d p cause : Nat) (s : State) : State :=
  let i := portAt d p
  let s := s.putBit FELT_PORT_STATUS.CAUSE i cause
  if s.get FELT_PORT_STATUS.STATE i = 1 then s else s.addSat FELT_PORT_STATUS.HOLDS i 1 |>.portState d p 1

/-- A cause clears (R242). -/
def State.portClear (d p cause : Nat) (s : State) : State :=
  s.put FELT_PORT_STATUS.CAUSE (portAt d p) (clearBit (s.get FELT_PORT_STATUS.CAUSE (portAt d p)) cause)

/-- A cause set or cleared at the port of a lane on every die. -/
def State.laneCause (lane cause : Nat) (on : Bool) (s : State) : State :=
  s.dieList.foldl (fun s d => if on then s.portCause d lane cause else s.portClear d lane cause) s

/-- PORT_HOLD_CAUSE (R242). -/
def execPortHoldCause (d p cause : Nat) (s : State) : Result := .next (s.portCause d p cause)

/-- PORT_RESUME (R242): RESUME_US after the last cause cleared; nothing while a cause is present. -/
def execPortResume (d p : Nat) (s : State) : Result :=
  if s.get FELT_PORT_STATUS.STATE (portAt d p) = 1 && s.get FELT_PORT_STATUS.CAUSE (portAt d p) = 0 then
    .next (s.setDrain d p ⟨256 * 16384, s.ns32, s.outNow d p, s.ns32⟩ |>.portState d p 2)
  else .next s

/-- PORT_AVAILABLE (R242): a DRAINING port that holds no Felt cells. -/
def execPortAvailable (d p : Nat) (s : State) : Result :=
  if s.get FELT_PORT_STATUS.STATE (portAt d p) = 2 && s.feltOf d p = [] then .next (s.portState d p 0) else .next s

/-! ### Samples (R239) -/

/-- Felt cells that frames of an upstream queue hold. -/
def State.feltCellsOf (s : State) (d q : Nat) : Nat :=
  ((s.felt.filter fun e => e.1.n == d).flatMap fun e => e.2.filter fun f => f.queue == q).foldl (fun n f => n + f.cells) 0

/-- The sample record of a queue (Table 10.5). -/
def State.sampleRecord (s : State) (d : Nat) (up : Bool) (q window : Nat) : List Nat :=
  let x := s.qstatOf d up q
  let wait := if up then s.feltCellsOf d q else x.gateWait + s.headWait d false q
  leBytes 4 window ++ leBytes 4 (s.get QUEUE.CELLS (queueAt d up q)) ++ leBytes 4 x.peak ++ leBytes 4 x.framesOut ++ leBytes 4 x.sojournMax
    ++ leBytes 8 x.sojournSum ++ leBytes 4 wait

/-- The number of the sample window that ends now (R239). -/
def State.sampleWindow (s : State) (d : Nat) : Nat :=
  (s.netSec * 1000 + s.timeNs / 10 ^ 6) / s.get TM_SAMPLE_CTRL.WINDOW_MS d - 1

/-- The sample window of every queue of a die starts empty. -/
def State.restartSamples (d : Nat) (s : State) : State :=
  { s with qstat := s.qstat.foldl (fun (t : Tbl QueueSt) (e : Key × QueueSt) =>
      let cells := s.get QUEUE.CELLS (queueAt d (e.1.n % 2 == 1) e.1.i)
      if e.1.n / 2 = d then
        t.set e.1 {} { e.2 with peak := cells, framesOut := 0, sojournMax := 0, sojournSum := 0, gateWait := 0, headAt := e.2.headAt.map fun _ => s.nowNs }
      else t.set e.1 {} e.2) [] }

/-- TM_SAMPLE_WINDOW (R239): a record of every queue into bank (window mod 2); the next window starts empty. -/
def execTmSampleWindow (d : Nat) (s : State) : Result :=
  if !s.flag TM_SAMPLE_CTRL.ENABLE d then .next s
  else
    let w := s.sampleWindow d
    let bytes := ((List.range 32768).flatMap fun q => s.sampleRecord d false q w) ++ (List.range 8192).flatMap fun q => s.sampleRecord d true q w
    let s := s.devWrite d (s.get TM_SAMPLE_BASE.OFFSET d + w % 2 * 1310720) bytes |>.restartSamples d
    .next (s.put TM_SAMPLE_CTRL.LAST_BANK d (w % 2) |>.put TM_SAMPLE_CTRL.LAST_WINDOW d w |>.raise d 2201)

/-! ### Upstream transmission (R266, R330, R299 to R302, R314) -/

/-- The 12 bytes of a sequence tag (Table 14.8). -/
def State.seqTagBytes (s : State) (t : SeqTag) : List Nat :=
  (leBytes 2 (s.get PEER_CTRL.TAG_ETHERTYPE 0)).reverse ++ [0x10] ++ (leBytes 3 t.stream).reverse ++ (leBytes 6 t.seq).reverse

/-- A frame of a protected tree with its sequence tag inserted after the source address (R330); none when it grows beyond 9,216 bytes. -/
def State.insertTag (s : State) (f : Frame) : Option Frame :=
  match f.tag with
  | none => some f
  | some t =>
    if 9216 < f.length + 12 then none
    else some { f with bytes := f.bytes.take 12 ++ s.seqTagBytes t ++ f.bytes.drop 12, length := f.length + 12, tag := none }

/-- The last four bytes of a frame inverted (R271). -/
def invertFcs (b : List Nat) : List Nat := b.take (b.length - 4) ++ (b.drop (b.length - 4)).map fun x => 255 - x % 256

/-- The frames that dies hold for a lane in a class (any class where `tc` is none), in rotating order after the die served last (R235). -/
def State.nextForLane (s : State) (lane : Nat) (tc : Option Nat) : Option (Nat × Frame) :=
  let start := s.cellPos.get ⟨lane, 8⟩ 0
  ((List.range 8).map fun k => (start + 1 + k) % 8).findSome? fun d =>
    ((s.laneOut.get ⟨lane, d⟩ []).find? fun f => tc.all fun c => f.tc == c).map fun f => (d, f)

/-- A frame leaves the hold of its die for a lane, which then serves the next die. -/
def State.leaveHold (lane d : Nat) (f : Frame) (s : State) : State :=
  { s with laneOut := s.laneOut.set ⟨lane, d⟩ [] ((s.laneOut.get ⟨lane, d⟩ []).erase f), cellPos := s.cellPos.set ⟨lane, 8⟩ 0 d }

/-- The timestamps that FAB_TS_LO and FAB_TS_HI show: the oldest entry of the die's FIFO. -/
def State.showStamp (d : Nat) (s : State) : State :=
  match s.stamps.get ⟨d, 0⟩ [] with
  | [] => s.put FAB_TS_LO.TIME d 0 |>.put FAB_TS_LO.SEQUENCE_ID d 0 |>.put FAB_TS_HI.SECONDS d 0 |>.put FAB_TS_HI.LANE d 0
      |>.put FAB_TS_HI.MSG_TYPE d 0 |>.put FAB_TS_HI.VALID d 0
  | e :: _ => s.put FAB_TS_LO.TIME d e.frac |>.put FAB_TS_LO.SEQUENCE_ID d e.msg.seqId |>.put FAB_TS_HI.SECONDS d e.sec
      |>.put FAB_TS_HI.LANE d e.lane |>.put FAB_TS_HI.MSG_TYPE d e.msg.type |>.put FAB_TS_HI.VALID d 1

/-- A PTP message that Table 13.7 timestamps leaves an Ethernet lane: Sync, Delay_Req, Pdelay_Req or Pdelay_Resp (R314). -/
def State.stampOut (lane : Nat) (ptp : Option PtpMsg) (s : State) : State :=
  match ptp with
  | none => s
  | some m =>
    let d := lane / 4
    let fifo := s.stamps.get ⟨d, 0⟩ []
    if 3 < m.type then s
    else if 64 ≤ fifo.length then s.put FAB_TS_HI.OVERFLOW d 1
    else { s with stamps := s.stamps.set ⟨d, 0⟩ [] (fifo ++ [TxStamp.mk s.netSec s.netFrac (lane % 4) m]) }.showStamp d

/-- A frame sent on an Ethernet lane under the secure channel of its line port (R266 to R268): it waits at the mark, or is dropped. -/
def State.sendEthernet (lane d : Nat) (f g : Frame) (ptp : Option PtpMsg) (s : State) : State :=
  let e := lane / 4
  let c := (s.binding f.tree f.linePort).txSc
  let i := scAt e c
  let gone := fun (s : State) => s.leaveHold lane d f
  if s.flag MSC.UNBOUND i then (gone s).separation e 11 f.domain 0xFFF f.tree f.linePort c
  else if s.get MSC.DOMAIN i ≠ f.domain || s.get MSC.LANE i ≠ lane then
    (gone s).separation e 3 f.domain (s.get MSC.DOMAIN i) f.tree f.linePort c
  else if !s.flag MSC.VALID i || !s.flag MSC.TRANSMIT i then (gone s).ciphCnt e 5
  else
    match s.takePn e c with
    | (.wait, s) => s
    | (.drop, s) => gone s
    | (.sent pn a, s) =>
      let k := saAt e a
      let bytes := if g.marked then invertFcs g.bytes else g.bytes
      let sealed := Config.macsecSeal ((s.keys.get ⟨1, k⟩ none).getD 0) ((s.keys.get ⟨2, k⟩ none).getD 0) (s.get MSA.SSCI k)
        (s.get MSC.SCI i) (s.get MSA.AN k) pn (s.get MSA.SUITE k) bytes
      gone s |>.emit (.ethFrame lane sealed) |>.laneCnt lane (if g.marked then 8 else 6) 1 |>.passBytes e (36 + lane % 4) g.length
        |>.stampOut lane ptp

/-- The global terminal identity of a frame's source (Table 0.3). -/
def State.identity (s : State) (f : Frame) : Nat := s.get PKG_IDENT.DEVICE_ID 0 * 2 ^ 14 + f.tree % 64 * 2 ^ 8 + f.terminal % 256

/-- Payload bits [127:0] of a CELL control block, HCRC included (Table 13.4). -/
def State.cellHeader (s : State) (lane : Nat) (f : Frame) (first last : Bool) (len : Nat) : Nat :=
  let v := 0x78 * 2 ^ 120 + ofBool f.circuit * 2 ^ 116 + ofBool first * 2 ^ 115 + ofBool last * 2 ^ 114 + f.tc % 8 * 2 ^ 111 + len % 256 * 2 ^ 102
    + s.get FAB_LANE_CTRL.UP_DEST lane * 2 ^ 91 + s.get PKG_IDENT.DEVICE_ID 0 * 2 ^ 80 + f.domain % 4096 * 2 ^ 68 + s.identity f * 2 ^ 44
    + f.service % 2 ^ 20 * 2 ^ 24
  v + crc16 112 (v / 2 ^ 16)

/-- Cells of a frame sent while credit for its class lasts, from cell `k`, at most `fuel` (R299, R300). In place of the last cell of a marked frame an
ABORT block goes, so that the receiver never has the frame whole (R29, R271). -/
def State.sendCells (lane : Nat) (f : Frame) : Nat → Nat → State → Nat × State
  | 0, k, s => (k, s)
  | fuel + 1, k, s =>
    let c := s.credit.get ⟨lane, f.tc⟩ 0
    let last := f.length ≤ 240 * (k + 1)
    if f.marked && last then (k + 1, s.onLane lane (.abort lane f.tc) [(true, controlBlock 0x55 (f.tc % 8 * 2 ^ 114))])
    else if c = 0 then (k, s)
    else
      let part := (f.bytes.drop (240 * k)).take 240
      let h := s.cellHeader lane f (k == 0) last part.length
      let s := { s with credit := s.credit.set ⟨lane, f.tc⟩ 0 (c - 1) }.onLane lane (.cell lane h part) ((true, h) :: dataBlocks part)
      if last then (k + 1, s) else s.sendCells lane f fuel (k + 1)

/-- A frame sent on a Kolkan lane; it stays, part sent, when credit runs out. A marked frame ends with an ABORT block (R29, R271). -/
def State.sendKolkan (lane d : Nat) (f g : Frame) (s : State) : State :=
  let n := (g.length + 239) / 240
  let (k, s) := s.sendCells lane g (n - s.cellPos.get ⟨lane, f.tc⟩ 0) (s.cellPos.get ⟨lane, f.tc⟩ 0)
  if k < n then { s with cellPos := (s.cellPos.set ⟨lane, f.tc⟩ 0 k).set ⟨lane, 8⟩ 0 ((d + 7) % 8) }
  else
    let s := { s with cellPos := s.cellPos.set ⟨lane, f.tc⟩ 0 0 }.leaveHold lane d f |>.passBytes (lane / 4) (36 + lane % 4) g.length
    s.laneCnt lane (if g.marked then 8 else 6) 1

/-- FABRIC_FRAME_TRANSMIT (R266, R330): the next frame for a lane, of class `tc` on a Kolkan lane, leaves with its sequence tag and under
MACsec, or as cells. `ptp` is the PTP message it carries, as the lane recognises it. -/
def execFabricFrameTransmit (lane tc : Nat) (ptp : Option PtpMsg) (s : State) : Result :=
  let l := s.laneUnit lane
  let mode := s.get FAB_LANE_STATUS.MODE l
  if !s.laneOn l || mode = 0 || 4 ≤ mode then .next s
  else
    match s.nextForLane l (if mode = 3 then some tc else none) with
    | none => .next s
    | some (d, f) =>
      match s.insertTag f with
      | none => .next (s.leaveHold l d f |>.peerCnt 6 1)
      | some g => .next (if mode = 3 then s.sendKolkan l d f g else s.sendEthernet l d f g ptp)

end Sys2Proof.Machine
end

