-- ==== Sys2Proof/Machine/MapBuild.lean ====
section
/-!
DEFINITION. The map builder (R146, R150 to R155, R158, R160, R162, R164 to R166) and the bank swap of a gate list (R157).
One builder serves every set: positions are grant units from the start of the upstream frame, and what a burst needs in front of it is a
number of units (O(PRE) of R150 on Twill; the recommendation's figure on a standard set, log entry 14).
-/

namespace Sys2Proof.Machine

/-- A burst placed in the map being built, or (`silent`) the rest of an earlier quiet window. `first` is its first unit and `stop` one past
the last unit it keeps from others. -/
structure Occ where
  first : Nat
  stop : Nat
  profile : Nat := 0
  clear : Bool := false
  silent : Bool := false
  kind : GrantKind := .data
  terminal : Nat := 0
  structs : List Grant := []
  deriving DecidableEq, Repr

/-- A map being built: the state, the bursts placed, in order of position, and the allocations left with demand at the structure limit. -/
structure Build where
  st : State
  occ : List Occ := []
  left : List Nat := []

/-- The symbols of a profile's preamble (Table 4.4). -/
def State.preamble (s : State) (t p : Nat) : Nat := (s.get TREE_FRM_PROFILE.PRE_UNITS (profileAt t p) + 1) * 64

/-- G of R150, in symbols: ⌈GUARD_NS × 24.8832⌉. -/
def State.guardSymbols (s : State) (t : Nat) : Nat := (s.get GRANT_TREE_CTRL.GUARD_NS t * 248832 + 9999) / 10000

/-- Units that a burst of profile `p` needs in front of its first unit: O(PRE) (R150); a ranging grant keeps 24,883 symbols clear (R159). -/
def State.lead (s : State) (t k p : Nat) (clear : Bool) : Nat :=
  if s.twill t k then ((if clear then max 24883 (s.guardSymbols t) else s.guardSymbols t) + s.preamble t p + 64 + 255) / 256
  else
    Config.stdOverhead k (s.get GRANT_TREE_CTRL.GUARD_NS t) (s.get TREE_FRM_PROFILE.PRE_UNITS (profileAt t p))
        (s.get TREE_FRM_PROFILE.DELIM (profileAt t p))
      + if clear then (s.capacity t k + 124) / 125 else 0

/-- Units that a ranging grant keeps clear behind it (R159). -/
def State.tail (s : State) (t k : Nat) : Nat := if s.twill t k then (24883 + 255) / 256 else (s.capacity t k + 124) / 125

/-- Free intervals for a burst of profile `p` between the bursts placed, from unit `edge` on; `near` is a clear burst behind the edge (R150). -/
def State.gapsFrom (s : State) (t k p : Nat) (clear : Bool) : Nat → Bool → List Occ → List (Nat × Nat)
  | edge, near, [] => [(edge + s.lead t k p (clear || near), s.capacity t k - if clear then s.tail t k else 0)]
  | edge, near, o :: rest =>
    (edge + s.lead t k p (clear || near), o.first - s.lead t k o.profile (clear || o.clear))
      :: s.gapsFrom t k p clear o.stop o.clear rest

/-- The free intervals for a burst of profile `p` at or after a unit. -/
def Build.gaps (b : Build) (t k p : Nat) (clear : Bool) (lo : Nat) : List (Nat × Nat) :=
  ((b.st.gapsFrom t k p clear 0 false b.occ).map fun (w : Nat × Nat) => (max lo w.1, w.2)).filter fun w => w.1 < w.2

/-- A burst put in its place. -/
def insertOcc (o : Occ) : List Occ → List Occ
  | [] => [o]
  | x :: rest => if o.first < x.first then o :: x :: rest else x :: insertOcc o rest

/-- Structures placed so far (R152). -/
def Build.structs (b : Build) : Nat := (b.occ.map fun o => o.structs.length).sum

/-- A change of the state of a build. -/
def Build.on (b : Build) (f : State → State) : Build := { b with st := f b.st }

/-- The map holds its 512 structures (R152). -/
def Build.full (b : Build) : Bool := 512 ≤ b.structs

/-- An allocation that the structure limit leaves with demand: counted once in the map (R152). -/
def Build.leave (b : Build) (t a : Nat) (demand : Bool) : Build :=
  if b.full && demand && !b.left.contains a then { b with st := b.st.grantCnt t 10 1, left := a :: b.left } else b

/-! ### Placing (R151, R153) -/

/-- Units free directly behind burst `o`. -/
def Build.roomBehind (b : Build) (t k : Nat) (o : Occ) : Nat :=
  match b.occ.find? fun x => o.first < x.first with
  | some x => x.first - b.st.lead t k x.profile (x.clear || o.clear) - o.stop
  | none => b.st.capacity t k - o.stop

/-- The burst of a terminal that `n` more units of the profile can continue, at or after `lo` (R153). -/
def Build.joinable (b : Build) (t k terminal p n lo : Nat) : Option Occ :=
  b.occ.find? fun o => o.kind == .data && o.terminal == terminal && o.profile == p && lo ≤ o.stop && n ≤ b.roomBehind t k o

/-- Where `n` units of a new burst go: whole in the first interval; split over it and the first later one that holds the rest, each part of at
least SPLIT_MIN; whole in the first that holds them; or the largest interval, shortened (R153). -/
def chunksIn (spans : List (Nat × Nat)) (n splitMin : Nat) (maySplit : Bool) : List (Nat × Nat) :=
  match spans with
  | [] => []
  | w :: rest =>
    let z := w.2 - w.1
    if n ≤ z then [(w.1, n)]
    else
      let second := if maySplit && splitMin ≤ z && splitMin ≤ n - z then rest.find? fun v => n - z ≤ v.2 - v.1 else none
      match second with
      | some v => [(w.1, z), (v.1, n - z)]
      | none =>
        match rest.find? fun v => n ≤ v.2 - v.1 with
        | some v => [(v.1, n)]
        | none =>
          let best := rest.foldl (fun (m : Nat × Nat) v => if m.2 - m.1 < v.2 - v.1 then v else m) w
          [(best.1, best.2 - best.1)]

/-- The structure that grants `n` units of an allocation from unit `first` (Table 6.4). -/
def State.structFor (s : State) (t a first n : Nat) (continued : Bool) : Grant :=
  let i := allocAt t a
  { allocId := s.get ALLOC.ALLOC_ID i, allocation := a, terminal := s.get ALLOC.TERMINAL i, start := first, units := n,
    profile := s.get ALLOC.PROFILE i, dbru := s.flag ALLOC.DBRU i, continued := continued }

/-- What a grant of `n` units does to its allocation: INFLIGHT, the frame's record, LAST_GRANT_FRAME, the counters (R148, R167). -/
def State.granted (t a m n : Nat) (s : State) : State :=
  let i := allocAt t a
  let known := (s.get ALLOC.BACKLOG i - s.get ALLOC.INFLIGHT i + 255) / 256
  let fixed := s.get ALLOC.CLASS i == 1
  s.put ALLOC.INFLIGHT i (satAdd 32 (s.get ALLOC.INFLIGHT i) (256 * n)) |>.put ALLOC.LAST_GRANT_FRAME i m
    |>.modAlloc t a (fun x => { x with granted := x.granted ++ [(m, n)] })
    |>.grantCnt t 3 n |>.grantCnt t 4 (if fixed then 0 else n - known)

/-- New bursts of an allocation at the chosen places. -/
def Build.putChunks (b : Build) (t a m : Nat) (kind : GrantKind) (chunks : List (Nat × Nat)) : Build :=
  chunks.foldl (fun (b : Build) w =>
    let g := { b.st.structFor t a w.1 w.2 false with kind := kind }
    { b with
      st := b.st.granted t a m w.2
      occ := insertOcc { first := w.1, stop := w.1 + w.2, profile := g.profile, terminal := g.terminal, kind := .data, structs := [g] } b.occ }) b

/-- `n` units of an allocation placed as R151 and R153 say, at or after `lo`; answers the units placed. -/
def Build.place (b : Build) (t k a m n lo : Nat) : Nat × Build :=
  let s := b.st
  let i := allocAt t a
  let p := s.get ALLOC.PROFILE i
  if n = 0 || b.full then (0, b)
  else
    match b.joinable t k (s.get ALLOC.TERMINAL i) p n lo with
    | some o =>
      let o' := { o with stop := o.stop + n, structs := o.structs ++ [s.structFor t a o.stop n true] }
      (n, { b with st := s.granted t a m n, occ := b.occ.map fun (x : Occ) => if x.first = o.first && x.silent == o.silent then o' else x })
    | none =>
      let chunks := chunksIn (b.gaps t k p false lo) n (s.get GRANT_TREE_CTRL.SPLIT_MIN t) (b.structs + 1 < 512)
      ((chunks.map fun w => w.2).sum, b.putChunks t a m .data chunks)

/-! ### Which allocations take part (R143, R166, R415) -/

/-- The allocation's Alloc-ID is known to its terminal (R415). -/
def State.idKnown (s : State) (t a : Nat) : Bool :=
  let i := allocAt t a
  let n := s.get ALLOC.TERMINAL i
  let id := s.get ALLOC.ALLOC_ID i
  id == s.onuId t n || (s.alloc t a).assigned == some (n, id)

/-- An allocation of a class on a set that may receive grants (R143). -/
def State.mayGrant (s : State) (t k cls a : Nat) : Bool :=
  let i := allocAt t a
  let n := s.get ALLOC.TERMINAL i
  s.get ALLOC.CLASS i == cls && s.get ALLOC.SET i == k && s.inOperation t n && s.get TREE_RNG_TERM.SET (termAt t n) == k
    && s.idKnown t a && !(s.alloc t a).bad

/-- The allocations of a class on a set, in index order. -/
def State.ofClass (s : State) (t k cls : Nat) : List Nat := (s.allocations t).filter fun a => s.mayGrant t k cls a

/-- A list turned so that it begins at the first element not below `r` (R152). -/
def rotateFrom (r : Nat) (as : List Nat) : List Nat := (as.filter fun a => r ≤ a) ++ as.filter fun a => a < r

/-- The rotation pointer of a class on a set: the allocation after the last one served (R152). -/
def State.rotation (s : State) (t k cls : Nat) : Nat := s.rot.get ⟨2 * t + k, cls⟩ 0

/-- An allocation served in its pass (R152). -/
def State.served (t k cls a : Nat) (s : State) : State := { s with rot := s.rot.set ⟨2 * t + k, cls⟩ 0 ((a + 1) % 1024) }

/-! ### Pass 1 and the reservations of pass 2 (R159, R160) -/

/-- A reservation with no place: NO_ROOM, its frame, the count and the source (R159). -/
def State.noRoom (t m : Nat) (s : State) : State :=
  let d := dieOf t
  s.put GRANT_RESV_STATUS.NO_ROOM d 1 |>.put GRANT_RESV_STATUS.NO_ROOM_FRAME d m |>.grantCnt t 11 1 |>.raise d 2177

/-- The terminal that an ONU-ID names on a set: a provisional one by its detection, else the index that holds it. -/
def State.terminalOf (s : State) (t k onuId : Nat) : Nat :=
  if k = 0 && s.twill t k && 1016 ≤ onuId && onuId ≤ 1019 then s.get TREE_RNG_DETECT.TERMINAL (t * 4 + (onuId - 1016))
  else ((List.range 256).find? fun n =>
    s.get TREE_RNG_TERM.STATE (termAt t n) != 0 && s.get TREE_RNG_TERM.SET (termAt t n) == k && s.onuId t n == onuId).getD 0

/-- The structure of a reservation from unit `first`. -/
def State.resvStruct (s : State) (t k first : Nat) (r : Resv) : Grant :=
  { allocId := r.onuId, terminal := if r.kind = .quiet then 0 else s.terminalOf t k r.onuId, start := first, units := r.units,
    profile := r.profile, ploam := true, kind := r.kind }

/-- Symbols of a quiet window: 9.794 × QW_DIFF_KM + 51 µs (R117). -/
def State.quietSymbols (s : State) (t : Nat) : Nat :=
  ((9794 * s.get TREE_RNG_CTRL.QW_DIFF_KM t + 51000) * 248832 + 9999) / 10000

/-- One past the last unit of a quiet window whose first unit is `first` (R117). -/
def State.quietStop (s : State) (t k p first : Nat) : Nat :=
  if s.twill t k then (256 * first + s.quietSymbols t - s.preamble t p - 64 + 255) / 256
  else first - s.lead t k p false + ((9794 * s.get TREE_RNG_CTRL.QW_DIFF_KM t + 51000) * s.capacity t k + 124999) / 125000

/-- Units between START and a burst's first unit. -/
def State.startLead (s : State) (t k p : Nat) : Nat := if s.twill t k then (s.preamble t p + 64 + 255) / 256 else s.lead t k p false

/-- A quiet window placed from the first usable unit, its rest kept silent in the frames that follow (R159). One of QUIET_FORCE waits for the next
frame where this one has no room (R118). -/
def Build.placeQuiet (b : Build) (t k m : Nat) (r : Resv) : Build :=
  let s := b.st
  match (b.gaps t k r.profile false 0).find? fun w => w.1 + r.units ≤ w.2 with
  | none => b.on fun s => if r.forced then s.setResv t k (s.resvOf t k ++ [{ r with frame := (m + 1) % 2 ^ 32 }]) else s.noRoom t m
  | some w =>
    let stop := s.quietStop t k r.profile w.1
    let cap := s.capacity t k
    let o : Occ := { first := w.1, stop := min stop cap, profile := r.profile, kind := .quiet, structs := [s.resvStruct t k w.1 r] }
    let more := stop - cap
    let rest := (List.range 4).filterMap fun j =>
      if j * cap < more then some { r with frame := (m + 1 + j) % 2 ^ 32, silent := min cap (more - j * cap) } else none
    { b with
      st := s.setResv t k (s.resvOf t k ++ rest) |>.bump TREE_RNG_CNT.COUNT (t * 10 + 6) 1 |>.grantCnt t 3 r.units
      occ := insertOcc o b.occ }

/-- The rest of an earlier quiet window. -/
def Build.placeSilent (b : Build) (r : Resv) : Build :=
  { b with occ := insertOcc { first := 0, stop := r.silent, kind := .quiet, silent := true } b.occ }

/-- A micro-window or ranging grant at the lowest position that holds it (R159). -/
def Build.placeResv (b : Build) (t k m : Nat) (r : Resv) : Build :=
  let clear := r.kind == .ranging
  if b.full then b.on fun s => s.noRoom t m
  else
    match (b.gaps t k r.profile clear 0).find? fun w => w.1 + r.units ≤ w.2 with
    | none => b.on fun s => s.noRoom t m
    | some w =>
      let g := b.st.resvStruct t k w.1 r
      { b with
        st := b.st.grantCnt t 3 r.units
        occ := insertOcc { first := w.1, stop := w.1 + r.units, profile := r.profile, clear := clear, kind := r.kind,
                                  terminal := g.terminal, structs := [g] } b.occ }

/-! ### Gated windows (R156, R158) -/

/-- The absolute frame number (frames since the zero of network time) of a frame count near the present. -/
def State.absFrame (s : State) (m : Nat) : Nat :=
  let now := s.netSec * 8000 + s.timeNs / 125000
  let ahead := wrapSub 32 m (now % 2 ^ 32)
  if ahead < 2 ^ 31 then now + ahead else now + ahead - 2 ^ 32

/-- U(M) in ps of network time: 750 µs after downstream frame M, with the tree's two offsets (R158, R328). -/
def State.upstreamAt (s : State) (t m : Nat) : Nat :=
  let rx := toSigned 16 (s.get PEER_TREE.RX_OFFSET t) * 10000000 / 248832
  let ds := toSigned 24 (s.get PEER_TREE.DS_OFFSET_PS t)
  ((s.absFrame m : Int) * 125000000 + 750000000 + ds + rx).toNat

/-- The windows of gate `q` of a list in upstream frame M of a tree, in ps from U(M), clipped to the frame (R158). -/
def State.windows (s : State) (t l q m : Nat) : List (Nat × Nat) :=
  let u := s.upstreamAt t m
  let cycle := max 1 (s.get GATEHDR.CYCLE_NS l)
  let base := s.gateBase l
  let first := (u / 1000 - base) / cycle
  let spans := if u / 1000 + 125001 < base then [] else s.spansOver l q first (125001 / cycle + 3)
  (spans.map fun (w : Nat × Nat) => (max (w.1 * 1000) u - u, min (w.2 * 1000) (u + 125000000) - u)).filter fun w => w.1 < w.2

/-- The first unit and the unit one past the last that a window admits: s and ⌊c / 256⌋ of R158. -/
def State.windowUnits (s : State) (t k p : Nat) (w : Nat × Nat) : Nat × Nat :=
  if s.twill t k then
    let o := (w.1 * 248832 + 9999999) / 10000000
    ((o + s.preamble t p + 64 + 255) / 256, w.2 * 248832 / 10000000 / 256)
  else
    let cap := s.capacity t k
    ((w.1 * cap + 124999999) / 125000000 + s.startLead t k p, w.2 * cap / 125000000)

/-- One window of a GATED allocation (R158, R160). -/
def Build.placeWindow (b : Build) (t k m : Nat) (w : Nat × Nat × Nat) : Build :=
  let a := w.2.2
  let s := b.st
  let i := allocAt t a
  let p := s.get ALLOC.PROFILE i
  let (lo, hi) := s.windowUnits t k p (w.1, w.2.1)
  let want := max 1 (min (s.get ALLOC.MAX_GRANT i) (s.demandUnits t a m))
  let quiet := b.occ.any fun o => o.kind == .quiet && lo < o.stop && o.first - s.lead t k p false < lo + min want (hi - lo)
  let span := ((b.gaps t k p false lo).map fun (v : Nat × Nat) => (v.1, min v.2 hi)).find? fun v => v.1 < v.2
  if b.full then b.leave t a (0 < s.demandUnits t a m)
  else if quiet && lo < hi then b.on fun s => s.grantCnt t 7 1
  else
    match span with
    | none => b.on fun s => s.grantCnt t 8 1
    | some v => (b.putChunks t a m .data [(v.1, min want (v.2 - v.1))]).on fun s => s.grantCnt t 6 1

/-- Insertion by opening time, then allocation (R151). -/
def insertWindow (w : Nat × Nat × Nat) : List (Nat × Nat × Nat) → List (Nat × Nat × Nat)
  | [] => [w]
  | x :: rest => if w.1 < x.1 || (w.1 = x.1 && w.2.2 < x.2.2) then w :: x :: rest else x :: insertWindow w rest

/-- The windows of every GATED allocation of a set in frame M. -/
def State.gatedWindows (s : State) (t k m : Nat) : List (Nat × Nat × Nat) :=
  ((s.ofClass t k 5).flatMap fun a =>
    let i := allocAt t a
    (s.windows t (listAt (dieOf t) (s.get ALLOC.GATE_LIST i)) (s.get ALLOC.GATE i) m).map fun w => (w.1, w.2, a)).foldl
      (fun ws w => insertWindow w ws) []

/-! ### Passes 3 to 6 (R151) -/

/-- CREDIT of an allocation, signed. -/
def State.creditOf (s : State) (i : Nat) : Int := toSigned 32 (s.get ALLOC.CREDIT i)

/-- CREDIT set, kept in its 32 bits. -/
def State.setCredit (i : Nat) (c : Int) (s : State) : State := s.put ALLOC.CREDIT i (ofSigned 32 (max (-(2 : Int) ^ 31) (min ((2 : Int) ^ 31 - 1) c)))

/-- The end of a booked grant: CREDIT falls by what was placed; a short one is DISPLACED (R151, R153). -/
def State.settle (t i due placed : Nat) (s : State) : State :=
  s.setCredit i (s.creditOf i - 256 * placed) |>.putFlag ALLOC.DISPLACED i (placed < due) |>.grantCnt t 9 (due - placed)

/-- Whether a pinned grant may begin: the first unit at or after PIN (Table 6.2). -/
def State.pinUnit (s : State) (t k i : Nat) : Nat :=
  if s.flag ALLOC.PIN_EN i then (s.get ALLOC.PIN i * s.capacity t k + 12149) / 12150 else 0

/-- Pass 3 for one FIXED allocation (R151). -/
def Build.placeFixed (t k m : Nat) (b : Build) (a : Nat) : Build :=
  let i := allocAt t a
  let b := b.on fun s => s.setCredit i (s.creditOf i + s.get ALLOC.RATE i)
  let n := min (b.st.creditOf i / 256).toNat (b.st.get ALLOC.MAX_GRANT i)
  let b := b.leave t a (0 < n)
  let (placed, b) := b.place t k a m n (b.st.pinUnit t k i)
  b.on fun s => s.settle t i n placed

/-- PEAK in units; none means no limit (R151). -/
def State.peakOf (s : State) (i n : Nat) : Nat := if s.get ALLOC.PEAK i = 0 then n else min n (s.get ALLOC.PEAK i / 256)

/-- Pass 4 for one ASSURED allocation (R151). -/
def Build.placeAssured (t k m : Nat) (b : Build) (a : Nat) : Build :=
  let i := allocAt t a
  let want := b.st.demandUnits t a m
  let rate := b.st.get ALLOC.RATE i
  let cap := if want = 0 then rate else rate * b.st.get GRANT_TREE_CTRL.CREDIT_FRAMES t
  let b := b.on fun s => s.setCredit i (min (s.creditOf i + rate) cap)
  let n := b.st.peakOf i (min (min (b.st.creditOf i / 256).toNat want) (b.st.get ALLOC.MAX_GRANT i))
  let b := b.leave t a (0 < want)
  let (placed, b) := b.place t k a m n 0
  let b := b.on fun s => s.settle t i n placed
  if 0 < placed then b.on fun s => s.served t k 2 a else b

/-- Units free between the bursts placed, the bursts' own lead taken off (log entry 17). -/
def State.freeUnits (s : State) (t k : Nat) : Nat → List Occ → Nat
  | edge, [] => s.capacity t k - edge
  | edge, o :: rest => o.first - s.lead t k o.profile o.clear - edge + s.freeUnits t k o.stop rest

/-- A waiting allocation of a share whose terminal has no burst in the map yet is charged its own lead (R151). -/
def Build.charge (b : Build) (t k : Nat) (waiting : List Nat) : Nat :=
  (waiting.map fun a =>
    let i := allocAt t a
    if b.occ.any fun o => o.kind == .data && o.terminal == b.st.get ALLOC.TERMINAL i then 0
    else b.st.lead t k (b.st.get ALLOC.PROFILE i) false).sum

/-- Passes 5 and 6: the share of a class among the allocations still waiting (R151). -/
def Build.share (t k m cls : Nat) : List Nat → Build → Build
  | [], b => b
  | a :: rest, b =>
    let i := allocAt t a
    let left := b.st.freeUnits t k 0 b.occ - b.charge t k (a :: rest)
    let weights := ((a :: rest).map fun x => b.st.get ALLOC.WEIGHT (allocAt t x)).sum
    let q := max 1 (left * b.st.get ALLOC.WEIGHT i / weights)
    let n := b.st.peakOf i (min (min q (b.st.demandUnits t a m)) (b.st.get ALLOC.MAX_GRANT i))
    let b := b.leave t a true
    let (placed, b) := b.place t k a m n 0
    Build.share t k m cls rest (if 0 < placed then b.on fun s => s.served t k cls a else b)

/-- One share with the allocations that have demand, in rotation. -/
def Build.shareClass (b : Build) (t k m cls : Nat) : Build :=
  let as := (b.st.ofClass t k cls).filter fun a => 0 < b.st.demandUnits t a m
  Build.share t k m cls (rotateFrom (b.st.rotation t k cls) as) b

/-- The FIXED allocations by PIN, then allocation; those without a PIN last (log entry 17). -/
def State.fixedOrder (s : State) (t k : Nat) : List Nat :=
  let key := fun (a : Nat) => if s.flag ALLOC.PIN_EN (allocAt t a) then s.get ALLOC.PIN (allocAt t a) else 2 ^ 14
  (s.ofClass t k 1).foldl (fun (as : List Nat) a => (as.filter fun x => key x ≤ key a) ++ [a] ++ as.filter fun x => key a < key x) []

/-- The passes of R151 for frame M of a set. -/
def State.passes (t k m : Nat) (s : State) : Build :=
  let now := (s.resvOf t k).filter fun r => r.frame == m
  let b : Build := { st := s.setResv t k ((s.resvOf t k).filter fun r => r.frame != m && wrapSub 32 r.frame m < 2 ^ 31) }
  let b := (now.filter fun r => 0 < r.silent).foldl (fun b r => b.placeSilent r) b
  let b := (now.filter fun r => r.silent == 0 && r.kind == .quiet).foldl (fun (b : Build) r => b.placeQuiet t k m r) b
  let b := (b.st.gatedWindows t k m).foldl (fun (b : Build) w => b.placeWindow t k m w) b
  let b := (now.filter fun r => r.kind != .quiet).foldl (fun (b : Build) r => b.placeResv t k m r) b
  let b := (b.st.fixedOrder t k).foldl (fun b a => Build.placeFixed t k m b a) b
  let b := (rotateFrom (b.st.rotation t k 2) (b.st.ofClass t k 2)).foldl (fun b a => Build.placeAssured t k m b a) b
  (b.shareClass t k m 3).shareClass t k m 4

/-! ### The finished map (R154, R162, R165) -/

/-- PLOAMU of a burst (R154): a reservation; a terminal that Tweed flagged; or 64 frames since its last. -/
def State.ploamWanted (s : State) (t m : Nat) (flagged : List Nat) (o : Occ) : Bool :=
  o.kind != .data || flagged.contains o.terminal
    || match (s.term t o.terminal).ploamAt with
      | some f => 64 ≤ wrapSub 32 m f
      | none => true

/-- The bursts with PLOAMU decided, in order; a terminal that gets it is noted. -/
def markPloam (t m : Nat) (flagged : List Nat) : List Occ → State → List Occ × State
  | [], s => ([], s)
  | o :: rest, s =>
    let want := s.ploamWanted t m flagged o
    let o' := { o with structs := match o.structs with
                                  | g :: gs => { g with ploam := want } :: gs
                                  | [] => [] }
    let s := if want && o.kind != .quiet then s.modTerm t o.terminal fun x => { x with ploamAt := some m } else s
    let (os, s) := markPloam t m flagged rest s
    (o' :: os, s)

/-- RATE of a burst context (Table 6.8). -/
def State.burstRate (s : State) (t k p : Nat) : Nat := if k = 1 then 4 else if s.twill t k then 0 else 1 + (Config.stdProfile t p).1.val

/-- The burst context of a burst (Table 6.8). -/
def State.contextOf (s : State) (t k m index : Nat) (o : Occ) : BurstCtx :=
  let tw := s.twill t k
  let pre := s.preamble t o.profile
  let rate := s.burstRate t k o.profile
  let i := t * 2 + k
  let units := (o.structs.map fun g => g.units).sum
  let pu := s.get TREE_FRM_PROFILE.PRE_UNITS (profileAt t o.profile)
  let delim := s.get TREE_FRM_PROFILE.DELIM (profileAt t o.profile)
  { start := if tw then 256 * o.first - pre - 64 else Config.stdStart k rate o.first
    frame := m
    grantIndex := index
    terminal := if o.kind = .quiet then 0 else o.terminal
    fec := tw || (Config.stdProfile t o.profile).2
    statusReport := o.structs.any fun g => g.dbru
    ploam := (o.structs.head?.map fun g => g.ploam).getD false
    ranging := o.kind != .data
    noLearn := o.kind == .microWindow || o.kind == .quiet
    allocation := if o.kind = .data then (o.structs.head?.map fun g => g.allocation).getD 0 else 0
    rate := rate
    gain := s.get GRANT_RX_PRESET.GAIN i
    preamble := pre
    window := match o.kind with
      | .data => s.get GRANT_TREE_CTRL.WINDOW t
      | .microWindow => 88
      | .ranging => 24883
      | .quiet => 0xFFFF
    length := if tw then pre + 64 + 256 * units else Config.stdLength k rate pu delim units
    initTh := [s.get GRANT_RX_PRESET.TH_LOW i, s.get GRANT_RX_PRESET.TH_MID i, s.get GRANT_RX_PRESET.TH_HIGH i]
    eq := leBytes 8 (s.get GRANT_RX_EQ.TAPS i)
    delim := delim }

/-- The 64 bytes of a burst context (Table 3.6). -/
def contextBytes (c : BurstCtx) : List Nat :=
  let flags := ofBool c.fec + 2 * ofBool c.statusReport + 4 * ofBool c.ploam + 8 * ofBool c.ranging + 16 * ofBool c.noLearn
  let body := leBytes 4 (c.start % 2 ^ 22) ++ leBytes 4 c.frame ++ leBytes 2 (c.grantIndex % 512) ++ [c.terminal % 256, flags]
    ++ leBytes 2 (c.allocation % 1024) ++ [c.rate % 256, c.gain % 32] ++ leBytes 2 c.preamble ++ leBytes 2 c.window ++ leBytes 4 c.length
    ++ (c.initTh.flatMap fun th => leBytes 2 (th % 4096)) ++ [0, 0] ++ c.eq ++ List.replicate 20 0
  body ++ leBytes 4 (crc32c body)

/-- The 64-bit structure of a grant (Table 6.4; the recommendation's on a standard set). -/
def State.structWord (s : State) (t k : Nat) (g : Grant) : Nat :=
  if s.twill t k then
    let v := g.allocId % 2 ^ 14 * 2 ^ 50 + ofBool g.dbru * 2 ^ 49 + ofBool g.ploam * 2 ^ 48
      + (if g.continued then 0xFFFF else g.start % 2 ^ 16) * 2 ^ 32 + g.units % 2 ^ 16 * 2 ^ 16 + g.profile % 4 * 2 ^ 13
    v + (Config.structureHec (v / 2 ^ 13)).toNat
  else Config.stdStructure k g.allocId (2 * ofBool g.dbru + ofBool g.ploam) (if g.continued then 0xFFFF else g.start) g.units g.profile

/-- The burst contexts of the bursts in order, with the index of each burst's first structure. -/
def State.contextsOf (s : State) (t k m : Nat) : Nat → List Occ → List BurstCtx
  | _, [] => []
  | n, o :: rest => s.contextOf t k m n o :: s.contextsOf t k m (n + o.structs.length) rest

/-- Where the map record of frame M lies in the die's device memory (R165). -/
def State.recordAt (s : State) (t k m : Nat) : Nat := s.get GRANT_MAP_BASE.OFFSET (dieOf t) + ((2 * (t % 8) + k) * 16 + m % 16) * 65536

/-- A list of bytes filled with zeros to `n`. -/
def padTo (n : Nat) (bs : List Nat) : List Nat := bs ++ List.replicate (n - bs.length) 0

/-- The map record of a map (Table 6.9). -/
def State.recordBytes (s : State) (t k buildNs : Nat) (x : Map) : List Nat :=
  let used := (x.grants.map fun g => g.units).sum
  padTo 64 (leBytes 4 x.frame ++ [1, 0] ++ leBytes 2 x.grants.length ++ leBytes 2 x.bursts.length ++ [0, 0] ++ leBytes 4 used ++ leBytes 4 buildNs)
    ++ padTo 8128 (x.grants.flatMap fun g => leBytes 8 (s.structWord t k g)) ++ padTo 57344 (x.bursts.flatMap contextBytes)

/-- The status of the last map of a set (Table 6.16). -/
def State.showMap (t k structs unused : Nat) (s : State) : State :=
  if k = 0 then s.put GRANT_TREE_STATUS.STRUCTS_FIFTY t structs |>.put GRANT_TREE_STATUS.UNUSED_FIFTY t unused
  else s.put GRANT_TREE_STATUS.STRUCTS_XGS t structs |>.put GRANT_TREE_STATUS.UNUSED_XGS t unused

/-- The four burst profiles of a tree in the form of Table 4.4. -/
def State.profileWords (s : State) (t : Nat) : List Nat :=
  (List.range 4).map fun p => s.get TREE_FRM_PROFILE.PRE_UNITS (profileAt t p) * 1024 + s.get TREE_FRM_PROFILE.DELIM (profileAt t p) * 256

/-- The end of a build: the map into the slice, its record, status and counters (R146, R165, R167). -/
def Build.finish (b : Build) (t k m buildNs : Nat) (flagged : List Nat) : State :=
  let (occ, s) := markPloam t m flagged b.occ b.st
  let bursts := occ.filter fun o => !o.silent
  let x : Map := { frame := m, grants := bursts.flatMap fun o => o.structs, bursts := s.contextsOf t k m 0 bursts,
                   profiles := s.profileWords t }
  let units := (x.grants.map fun g => g.units).sum
  let above := (bursts.map fun o => s.lead t k o.profile false).sum
  let d := dieOf t
  let s := s.modSet t k (fun y => { y with maps := y.maps ++ [x], kept := y.kept ++ x.bursts }) |>.devWrite d (s.recordAt t k m) (s.recordBytes t k buildNs x)
    |>.showMap t k x.grants.length (s.capacity t k - units - above)
    |>.grantCnt t 0 1 |>.grantCnt t 1 x.grants.length |>.grantCnt t 2 x.bursts.length
    |>.put GRANT_BUILD_STATUS.MAX_BUILD_NS d (min (maxOf 32) (max (s.get GRANT_BUILD_STATUS.MAX_BUILD_NS d) buildNs))
  if 125000 < buildNs then s.addSat GRANT_BUILD_STATUS.SLOW_BUILDS d 1 |>.raise d 2176 else s

/-- The contexts whose CHECK fails at the snapshot: counted, the source raised, the dynamic bytes zeroed (R166). -/
def State.rebuildBad (t : Nat) (as : List Nat) (s : State) : State :=
  as.foldl (fun (s : State) a =>
    s.grantCnt t 12 1 |>.raise (dieOf t) 2178 |>.clearRec allocEngine (allocAt t a)
      |>.modAlloc t a fun x => { x with granted := [], used := [], tally := [], reported := false, bad := false }) s

/-- One allocation's units of a map that is sent empty go out of INFLIGHT; FIXED and ASSURED ones return to CREDIT (R161). -/
def State.returnGrant (t n : Nat) (s : State) (g : Grant) : State :=
  if g.kind != .data then s
  else
    let i := allocAt t g.allocation
    let s := s.put ALLOC.INFLIGHT i (s.get ALLOC.INFLIGHT i - 256 * g.units)
      |>.modAlloc t g.allocation fun x => { x with granted := x.granted.filter fun e => e.1 != n }
    if booked (s.get ALLOC.CLASS i) then s.setCredit i (s.creditOf i + 256 * g.units) else s

/-! ### A pair's maps (R324, R329) -/

/-- The words of a map's structures. -/
def State.mapWords (s : State) (t k : Nat) (x : Map) : List Nat := x.grants.map fun g => s.structWord t k g

/-- Structures two to a block, the first in the high half (Table 14.3). -/
def pairsOf : List Nat → List Nat
  | [] => []
  | [a] => [a * 2 ^ 64]
  | a :: b :: rest => (a * 2 ^ 64 + b) :: pairsOf rest

/-- The active sends a map that it has built (Table 14.3). -/
def State.sendMap (t k : Nat) (x : Map) (s : State) : State :=
  if s.activeFor t then
    s.sendPeer 1 0 ((t % 64 * 2 ^ 122 + k * 2 ^ 121 + x.frame * 2 ^ 89 + x.grants.length * 2 ^ 79) :: pairsOf (s.mapWords t k x))
  else s

/-- A map that is not in force on a standby is taken back: its units leave INFLIGHT, and booked ones return to CREDIT. -/
def State.undoMap (t : Nat) (x : Map) (s : State) : State :=
  x.grants.foldl (fun (s : State) g =>
    if g.kind != .data then s
    else
      let i := allocAt t g.allocation
      let s := s.put ALLOC.INFLIGHT i (s.get ALLOC.INFLIGHT i - 256 * g.units)
        |>.modAlloc t g.allocation fun y => { y with granted := y.granted.erase (x.frame, g.units) }
      if booked (s.get ALLOC.CLASS i) then s.setCredit i (s.creditOf i + 256 * g.units) else s) s

/-- Two maps of a set differ in their structures. -/
def State.mapsDiffer (s : State) (t k : Nat) (x y : Map) : Bool := s.mapWords t k x != s.mapWords t k y

/-- The bursts of a map's structures, in order: one that continues joins the burst before it. -/
def burstsOf : List Grant → List Occ
  | [] => []
  | g :: rest =>
    match burstsOf rest with
    | o :: os =>
      if o.structs.head?.any fun h => h.continued then
        { o with first := g.start, profile := g.profile, kind := g.kind, terminal := g.terminal, structs := g :: o.structs } :: os
      else { first := g.start, stop := g.start + g.units, profile := g.profile, kind := g.kind, terminal := g.terminal, structs := [g] } :: o :: os
    | [] => [{ first := g.start, stop := g.start + g.units, profile := g.profile, kind := g.kind, terminal := g.terminal, structs := [g] }]

/-- A map just built: the active sends it; a standby that holds the mirrored one compares the two and keeps the mirrored (Table 14.7). -/
def State.pairMap (t k m : Nat) (s : State) : State :=
  let ms := (s.setOf t k).maps.filter fun x => x.frame == m
  match ms with
  | [x] => s.sendMap t k x
  | mirror :: own :: _ =>
    let s := if s.mapsDiffer t k mirror own then s.peerCnt 4 1 else s
    (s.modSet t k fun y => { y with maps := (y.maps.filter fun z => z.frame != m) ++ [mirror],
                                    kept := y.kept.take (y.kept.length - own.bursts.length) }).undoMap t own
  | [] => s

/-- MAP_BUILD (R146, R151, R164): the map of the frame two after the one being sent, in a tree that is STARTING or ON; `buildNs` is the time the
build takes, and `flagged` the terminals that Tweed has flagged for an upstream PLOAM message. -/
def execMapBuild (t k buildNs : Nat) (flagged : List Nat) (s : State) : Result :=
  let st := s.get DMK_TREE_STATE.STATE t
  if !(s.liveSets t).contains k || !(st == 1 || st == 2) || (s.tree t).test then .next s
  else
    let m := ((s.setOf t k).dsFrame + 2) % 2 ^ 32
    let bad := ((s.allocs.filter fun e => e.1.n == t && e.2.bad).map fun e => e.1.i).filter fun a => s.get ALLOC.SET (allocAt t a) == k
    let s' := (s.passes t k m).finish t k m buildNs flagged
    .next ((s'.rebuildBad t bad).pairMap t k m)

/-- GATE_BANK_SWAP (R157): at the swap instant the administrative bank becomes operational; heads that no window can hold go (R237). -/
def execGateBankSwap (d g : Nat) (s : State) : Result :=
  let l := listAt d g
  if s.flag GATEHDR.PENDING l then
    let s := s.reachNs (s.swapAt l)
    let s := (s.listQueues d g).foldl (fun (s : State) q => s.settleWait d q) s
    let s := (List.range 1024).foldl (fun s e => State.swapEntry l s e) s
    let s := s.put GATEHDR.LENGTH l (s.get GATEHDR.ADMIN_LENGTH l) |>.put GATEHDR.PENDING l 0
    .next ((s.listQueues d g).foldl (fun (s : State) q => s.cleanHead d false q (s.queueOf d false q).length |>.reofferQueue d false q) s)
  else .next s

end Sys2Proof.Machine
end

