-- ==== Sys2Proof/Machine/Circuits.lean ====
section
/-!
DEFINITION. Circuit services (chapter 7): containers, justification, playout, groups, circuit-emulation packets, and the context access of the circuit
unit; what a circuit is and its defects stand with the defects. A circuit's unit is its package number.
-/

namespace Sys2Proof.Machine

/-! ### Containers (R169, R170, R172, R177) -/

/-- Bits to bytes, the first bit most significant. -/
def bitsToBytes : Nat → List Bool → List Nat
  | 0, _ => []
  | n + 1, bs => (((bs.take 8) ++ List.replicate (8 - (bs.take 8).length) false).foldl (fun v b => 2 * v + ofBool b) 0) :: bitsToBytes n (bs.drop 8)

/-- Bytes to bits, most significant first. -/
def bytesToBits (bs : List Nat) : List Bool := bs.flatMap fun b => (List.range 8).map fun k => bitAt b (7 - k)

/-- A justification decision: 0 positive, 1 nominal, 2 negative. -/
abbrev Just := Nat

/-- The 64-bit container header (Table 7.2). -/
def containerHeader (j : Just) (member members : Nat) (cf rf : Bool) (gseq : Nat) : Nat :=
  let v := 0xA6 * 2 ^ 56 + (if j = 0 then 7 else 0) * 2 ^ 53 + (if j = 2 then 7 else 0) * 2 ^ 50 + member % 8 * 2 ^ 47 + members % 8 * 2 ^ 44
    + ofBool cf * 2 ^ 43 + ofBool rf * 2 ^ 42 + gseq % 2 ^ 16 * 2 ^ 24
  v + crc8 50 (bits v 56 8 * 2 ^ 42 + bits v 8 42)

/-- The bytes of a container of client bits `bs` (R169): base, negative opportunity, positive opportunity. -/
def containerBytes (header d jz : Nat) (j : Just) (bs : List Bool) : List Nat :=
  let njo := if j = 2 then (bs.drop d).take jz else List.replicate jz false
  let pjo := if j = 0 then List.replicate jz false else (bs.drop (if j = 2 then d + jz else d)).take jz
  (leBytes 8 header).reverse ++ bitsToBytes ((d + 2 * jz + 7) / 8) (bs.take d ++ njo ++ pjo)

/-- Client bits of a member in a group frame: every M-th bit from its own (R177). -/
def memberBits (m k : Nat) (bs : List Bool) : List Bool :=
  (List.range ((bs.length + m - 1 - k) / m)).map fun i => bs.getD (i * m + k) true

/-- A carrier's container of frame N stands in its slice. -/
def State.delivered (s : State) (c n : Nat) : Bool :=
  (s.setOf (s.circTree c) (s.circSet c)).containers.any fun x => x.circuit == c && x.frame == n

/-- A container of one carrier put in its slice for frame N, unless one stands there (R172, R174). REMOTE_FAIL says that the client's last packet carried
it or that some carrier has CLOSS declared: every member's container carries the same flags (R177, R182). -/
def State.putContainer (lead c n m k : Nat) (j : Just) (cf : Bool) (bs : List Bool) (s : State) : State :=
  let t := s.circTree c
  let rf := (s.circ lead).pktRemote || (s.carriers lead).any fun x => bitAt (s.get CIRC_DEF.DEFECT x) 0
  let h := containerHeader j k (m - 1) cf rf (n % 2 ^ 16)
  let o : CircOut := { circuit := c, frame := n, bytes := containerBytes h (s.dBase c) (s.just c) j bs, domain := (s.circ c).domain,
                       port := s.get CIRC.LINE_PORT c }
  if s.circOn c && s.get DMK_TREE_STATE.STATE t == 2 && !s.delivered c n then
    s.modSet t (s.circSet c) (fun x => { x with containers := x.containers ++ [o] }) |>.circCnt c (if j = 0 then 8 else 9) (if j = 1 then 0 else 1)
  else s

/-- The containers of every carrier of a client for frame N. -/
def State.putContainers (lead n : Nat) (j : Just) (cf : Bool) (bs : List Bool) (s : State) : State :=
  let cs := s.carriers lead
  let m := cs.length
  (List.range m).foldl (fun (s : State) k => s.putContainer lead (cs.getD k 0) n m k j cf (memberBits m k bs)) s

/-- RUN_STATE of every carrier of a client. -/
def State.runAll (lead v : Nat) (s : State) : State :=
  (s.carriers lead).foldl (fun (s : State) c => if s.circOn c then s.setRun c v else s) s

/-- The carrier whose frames a client follows: the first on a tree that is not OFF. -/
def State.pacer (s : State) (lead : Nat) : Option Nat := (s.carriers lead).find? fun c => s.get DMK_TREE_STATE.STATE (s.circTree c) != 0

/-- The downstream frame being sent, as a client's circuits see it; with every tree of them OFF, the package's frame count. -/
def State.clientFrame (s : State) (lead : Nat) : Nat :=
  match s.pacer lead with
  | some c => (s.setOf (s.circTree c) (s.circSet c)).dsFrame
  | none => s.frame

/-- The upstream frame being received, likewise. -/
def State.clientUpFrame (s : State) (lead : Nat) : Nat :=
  match s.pacer lead with
  | some c => (s.setOf (s.circTree c) (s.circSet c)).upFrame
  | none => wrapSub 32 s.frame 6

/-- CONTAINER_BUILD (R172): the container, or the containers of a group, of the frame after the one being sent, built for the lead circuit. -/
def execContainerBuild (c : Nat) (s : State) : Result :=
  if !s.circOn c || s.leadOf c ≠ c then .next s
  else
    let n := (s.clientFrame c + 1) % 2 ^ 32
    let x := s.circ c
    let m := (s.carriers c).length
    let db := m * s.dBase c
    let jg := m * s.just c
    let target := s.get CIRC.JITTER_FRAMES c * (db + jg)
    let w := 2 ^ s.get CIRC.AVG_EXP c
    let f := x.playout.length
    let sum := s.get CIRC.FILL_SUM c + f - x.fills.getD (w - 1) 0
    let filling := s.get CIRC.RUN_STATE c == 1
    let j : Just := if filling then 1 else if (target + jg) * w ≤ sum then 2 else if sum + jg * w < target * w then 0 else 1
    let want := db + j * jg
    let under := !filling && f < want
    let ones := filling || under
    let send := if ones then List.replicate want true else x.playout.take want
    let rest := if ones then x.playout else x.playout.drop want
    let above := 2 * target < f
    let rest := if above then rest.drop (rest.length - target) else rest
    let run := if filling then (if target ≤ f then 2 else 1) else if under then 1 else 2
    let quiet := x.quiet + 1
    let lost := 32 * s.get CIRC.PAYLOAD_BYTES c ≤ quiet * (db + jg)
    let s := s.putContainers c n j (ones || x.pktLocal) send |>.runAll c run
      |>.circCnt c 14 (ofBool under) |>.circCnt c 15 (ofBool above)
      |>.put CIRC.FILL_SUM c sum |>.put CIRC.FILL c rest.length
      |>.modCirc c fun y => { y with playout := rest, fills := (f :: y.fills).take 64, quiet := quiet }
    let s := if lost then s.circRaw c 3 true |>.modCirc c fun y => { y with inOrder := 0 } else s
    .next (s.judgeCircuit c)

/-- CONTAINER_MISSING (R174): a container that is not in the slice for the coming frame is replaced by a nominal one of all ones. -/
def execContainerMissing (c : Nat) (s : State) : Result :=
  let t := s.circTree c
  let k := s.circSet c
  let n := ((s.setOf t k).dsFrame + 1) % 2 ^ 32
  if !s.circOn c || s.get DMK_TREE_STATE.STATE t ≠ 2 || s.delivered c n then .next s
  else
    let m := (s.carriers c).length
    let member := if s.flag CIRC.GROUPED c then s.get CIRC.MEMBER c else 0
    .next (s.putContainer (s.leadOf c) c n m member 1 true (List.replicate (s.dBase c + s.just c) true) |>.circCnt c 2 1)

/-! ### Packets from the core (R173, R181) -/

/-- A packet that belongs to the circuit's customer entered into the playout buffer by SEQ. -/
def State.playIn (c : Nat) (p : CePkt) (s : State) : State :=
  let size := s.get CIRC.PAYLOAD_BYTES c
  let ahead := wrapSub 16 p.seq (s.get CIRC.SEQ_RX c)
  let data := bytesToBits (p.payload.take size)
  let take := fun (fill : List Bool) (order : Nat) (s : State) =>
    let s := s.put CIRC.SEQ_RX c (p.seq + 1) |>.circCnt c 11 1
      |>.modCirc c fun x => { x with playout := fill ++ data, pktLocal := p.localFail, pktRemote := p.remoteFail, quiet := 0, inOrder := order }
    let s := s.put CIRC.FILL c (s.circ c).playout.length
    if 2 ≤ order then s.circRaw c 3 false else s
  let x := s.circ c
  if ahead = 0 then take x.playout (min 2 (x.inOrder + 1)) s
  else if ahead < 16 then take (x.playout ++ List.replicate (8 * size * ahead) true) 1 s |>.circCnt c 12 ahead
  else if 2 ^ 15 ≤ ahead then s.circCnt c 13 1
  else take [] 1 s |>.runAll c 1 |>.circCnt c 15 1

/-- CE_PACKET_RECEIVE (R173, R181): the oldest packet that waits at a die, checked against the domain of its circuit's line port. -/
def execCePacketReceive (d : Nat) (s : State) : Result :=
  match s.ceWaiting.get ⟨d, 0⟩ [] with
  | [] => .next s
  | p :: rest =>
    let s := { s with ceWaiting := s.ceWaiting.set ⟨d, 0⟩ [] rest }
    let c := p.circuit
    let dom := s.get LPORT.DOMAIN (s.circPort c)
    if dom ≠ p.domain then .next (s.separation d 9 p.domain dom (s.circTree c) (s.get CIRC.LINE_PORT c) c)
    else if s.circOn c then .next (s.playIn c p |>.judgeCircuit c)
    else .next s

/-! ### Packets toward the core (R180, R182) -/

/-- The header and payload of a packet (Table 7.4). -/
def State.cePayload (s : State) (c seq : Nat) (localFail remoteFail : Bool) (payload : List Nat) : List Nat :=
  let w := 2 ^ 28 + ofBool localFail * 2 ^ 27 + ofBool remoteFail * 2 ^ 26 + s.get CIRC.LABEL c
  (leBytes 4 w).reverse ++ (leBytes 2 seq).reverse ++ (leBytes 2 (s.get CIRC.PAYLOAD_BYTES c)).reverse
    ++ (leBytes 4 (s.get CIRC.PKT_TS c)).reverse ++ payload

/-- A packet as the frame that its fabric lane carries: an Ethernet frame, or header and payload alone for a cell of the circuit type (R180). -/
def State.ceFrame (s : State) (c : Nat) (payload : List Nat) : Frame :=
  let lane := s.get CIRC.FABRIC_LANE c
  let t := s.circTree c
  let p := s.get CIRC.LINE_PORT c
  let tag := if s.flag CIRC.VLAN_EN c then [0x81, 0x00] ++ (leBytes 2 (s.get CIRC.VLAN_TCI c)).reverse else []
  let bytes :=
    if s.get FAB_LANE_STATUS.MODE (s.laneUnit lane) = 3 then payload
    else withFcs ((leBytes 6 (s.get CIRC.DEST_MAC c)).reverse ++ (leBytes 6 (s.get CIRC_CTRL.SRC_MAC (c / 1024))).reverse ++ tag
      ++ (leBytes 2 (s.get CIRC_CTRL.ETHERTYPE (c / 1024))).reverse ++ payload)
  { bytes := bytes, length := bytes.length, up := true, domain := s.get LPORT.DOMAIN (s.circPort c), tree := t, set := s.circSet c,
    linePort := p, lane := lane, terminal := s.get LPORT.TERMINAL (s.circPort c), tc := Config.circuitClass.val, circuit := true }

/-- A completed packet sent toward the core, or kept by a standby for 2 frames (R180, R333). -/
def State.cePacketOut (c frame seq : Nat) (payload : List Nat) (s : State) : State :=
  if s.standbyFor (s.circTree c) then
    s.modCirc c fun x => { x with kept := (x.kept.filter fun e => wrapSub 32 frame e.2.1 < 2) ++ [(seq, frame, payload)] }
  else
    s.toPort (c / 1024) (s.get CIRC.FABRIC_LANE c) false false (s.ceFrame c payload) |>.circCnt c 10 1
      |>.modCirc c fun x => { x with seqLast := seq }

/-- TS of a packet whose first bit came in upstream frame `frame`: network time of the frame's start modulo 4 s (R180). -/
def State.ceTs (s : State) (c frame : Nat) : Nat := s.upstreamAt (s.circTree c) frame / 1000 % (4 * 10 ^ 9)

/-- What one group frame (or a single circuit's container) brings: its GSEQ, the upstream frame in which it is taken, the frames in which the members'
containers came, and its indications (Table 7.5). -/
structure FrameIn where
  gseq : Nat
  frame : Nat
  froms : List Nat
  fail : Bool
  remote : Bool

/-- Bits of a group frame joined to the packet being assembled; every full packet leaves. `pos` is the position of the first of the bits in the group
frame: bit i came in the container of member i mod M (R177), whose frame gives TS (R180). -/
def State.assemble (c : Nat) (g : FrameIn) : Nat → Nat → List Bool → State → State
  | 0, _, _, s => s
  | fuel + 1, pos, bs, s =>
    if bs.isEmpty then s
    else
      let size := 8 * s.get CIRC.PAYLOAD_BYTES c
      let s := if (s.circ c).pkt.isEmpty then
          s.put CIRC.PKT_TS c (s.ceTs c (g.froms.getD (pos % g.froms.length) g.frame))
            |>.modCirc c fun x => { x with pktFail := false, pktMarks := [(g.gseq, pos, 0)] }
        else s.modCirc c fun x => { x with pktMarks := x.pktMarks ++ [(g.gseq, pos, x.pkt.length)] }
      let x := s.circ c
      let room := size - x.pkt.length
      let now := x.pkt ++ bs.take room
      let bad := x.pktFail || g.fail
      if now.length < size then
        s.modCirc c (fun y => { y with pkt := now, pktFail := bad }) |>.put CIRC.PKT_BITS c now.length
      else
        let seq := s.get CIRC.SEQ_TX c
        let rf := g.remote || s.get CIRC.RUN_STATE c != 2
        let p := s.cePayload c seq bad rf (bitsToBytes (size / 8) now)
        s.modCirc c (fun y => { y with pkt := [], pktFail := false, pktMarks := [] }) |>.put CIRC.PKT_BITS c 0 |>.put CIRC.SEQ_TX c (seq + 1)
          |>.cePacketOut c g.frame seq p |>.assemble c g fuel (pos + room) (bs.drop room)

/-- Bits of one group frame joined, with fuel for as many packets as they can fill. -/
def State.assembleAll (c : Nat) (g : FrameIn) (bs : List Bool) (s : State) : State := s.assemble c g (bs.length + 1) 0 bs

/-! ### Containers from a tree (R170, R176, R178) -/

/-- The majority of three equal bits, and whether the copies differ (R170). -/
def majority (v : Nat) : Bool × Bool := (3 < v && v != 4 || v == 3, v != 0 && v != 7)

/-- A container as received: what its header says, and its client bits. -/
structure Demapped where
  gseq : Nat
  member : Nat
  cf : Bool
  rf : Bool
  data : List Bool

/-- The client bits of a container by its decision: base, then the opportunities that carry data (R169). -/
def clientBits (d jz : Nat) (j : Just) (bs : List Bool) : List Bool :=
  bs.take d ++ (if j = 2 then (bs.drop d).take jz else []) ++ (if j = 0 then [] else (bs.drop (d + jz)).take jz)

/-- A container read as R170 says, with its counts and its runs of Table 7.6. -/
def State.demap (c header : Nat) (data : List Nat) (s : State) : Demapped × State :=
  let (pos, pv) := majority (bits header 53 3)
  let (neg, nv) := majority (bits header 50 3)
  let bad := crc8 50 (bits header 56 8 * 2 ^ 42 + bits header 8 42) != bits header 0 8
  let both := pos && neg
  let j : Just := if both then 1 else if pos then 0 else if neg then 2 else 1
  let gseq := if bad then (s.get CIRC_DEF.LAST_GSEQ c + 1) % 2 ^ 16 else bits header 24 16
  let member := if bad then s.get CIRC.MEMBER c else bits header 47 3
  let cf := bitAt header 43
  let rf := bitAt header 42
  let s := s.circCnt c 1 1 |>.circCnt c 3 (ofBool bad) |>.circCnt c 4 (ofBool pv + ofBool nv) |>.circCnt c 5 (ofBool both)
    |>.circCnt c 6 (ofBool (j == 0)) |>.circCnt c 7 (ofBool (j == 2)) |>.put CIRC_DEF.LAST_GSEQ c gseq
    |>.modCirc c (fun x => { x with got := true, remote := rf,
                                    cfOn := if cf then min 3 (x.cfOn + 1) else 0, cfOff := if cf then 0 else min 3 (x.cfOff + 1),
                                    rfOn := if rf then min 3 (x.rfOn + 1) else 0, rfOff := if rf then 0 else min 3 (x.rfOff + 1) })
  let x := s.circ c
  let s := if !s.circOn c then s else if x.cfOn = 3 then s.circRaw c 1 true else if x.cfOff = 3 then s.circRaw c 1 false else s
  let s := if !s.circOn c then s else if x.rfOn = 3 then s.circRaw c 2 true else if x.rfOff = 3 then s.circRaw c 2 false else s
  (⟨gseq, member, cf, rf, clientBits (s.dBase c) (s.just c) j (bytesToBits data)⟩, s)

/-- Frames of a single circuit that brought no container: all-ones bits at the nominal count, LOCAL_FAIL (Table 7.5). -/
def State.fillOnes (c frame : Nat) : Nat → State → State
  | 0, s => s
  | n + 1, s =>
    let g := s.get CIRC.GSEQ_NEXT c
    (s.assembleAll c ⟨g, frame, [frame], true, (s.circ c).remote⟩ (List.replicate (s.dBase c + s.just c) true)
      |>.circCnt c 2 1 |>.put CIRC.GSEQ_NEXT c (g + 1)).fillOnes c frame n

/-- A container of a single circuit: the missing ones before it filled, a repeated one discarded, its bits sent on. -/
def State.singleIn (c frame : Nat) (m : Demapped) (s : State) : State :=
  let ahead := wrapSub 16 m.gseq (s.get CIRC.GSEQ_NEXT c)
  if (s.circ c).synced && 2 ^ 15 ≤ ahead then s.circCnt c 2 1
  else
    let s := if (s.circ c).synced then s.fillOnes c frame ahead else s.modCirc c fun x => { x with synced := true }
    s.assembleAll c ⟨m.gseq, frame, [frame], m.cf || bitAt (s.get CIRC_DEF.DEFECT c) 0, m.rf⟩ m.data |>.put CIRC.GSEQ_NEXT c (m.gseq + 1)

/-- A member's part added to its group frame, the frames kept in GSEQ order from GSEQ_RELEASE (R178). -/
def heldWith (base : Nat) (g : GroupFrame) : List GroupFrame → List GroupFrame
  | [] => [g]
  | x :: rest =>
    if x.gseq = g.gseq then { x with parts := x.parts ++ g.parts } :: rest
    else if wrapSub 16 g.gseq base < wrapSub 16 x.gseq base then g :: x :: rest
    else x :: heldWith base g rest

/-- A container of a group member on its home die: held, or late and discarded (R178). -/
def State.memberIn (c frame : Nat) (m : Demapped) (s : State) : State :=
  let u := s.circGroup c
  let s := if (s.grp u).synced then s else s.put CGRP.GSEQ_RELEASE u m.gseq |>.modGrp u fun x => { x with synced := true }
  let base := s.get CGRP.GSEQ_RELEASE u
  let s := s.crossBytes (c / 1024) (u / 128) ((m.data.length + 7) / 8) |>.put CIRC.GSEQ_NEXT c (m.gseq + 1)
  if 2 ^ 15 ≤ wrapSub 16 m.gseq base then
    s.circCnt c 2 1 |>.modGrp u fun x => { x with lateRun := min 3 (x.lateRun + 1), dde := x.dde || 2 ≤ x.lateRun }
  else
    let stored := s.sealCells (u / 128) 3 (s.circ c).domain (bitsToBytes ((m.data.length + 7) / 8) m.data)
    s.useFree.modGrp u fun x =>
      { x with lateRun := 0, held := heldWith base ⟨m.gseq, frame, [⟨m.member, frame, m.data, m.cf, m.rf, stored⟩]⟩ x.held }

/-- Insertion of a container of one grant in GSEQ order: it goes before one whose GSEQ lies ahead of its own. -/
def insertByGseq (m : Demapped) : List Demapped → List Demapped
  | [] => [m]
  | x :: rest => if m.gseq ≠ x.gseq && wrapSub 16 x.gseq m.gseq < 2 ^ 15 then m :: x :: rest else x :: insertByGseq m rest

/-- A disabled circuit still takes the containers of bursts whose maps were built before (Table 7.7). -/
def State.draining (s : State) (c frame : Nat) : Bool := (s.circ c).drain.any fun m => wrapSub 32 m frame < 2 ^ 31

/-- The length of a circuit's container (R169). -/
def State.containerLength (s : State) (c : Nat) : Nat := 8 + (s.dBase c + 2 * s.just c + 7) / 8

/-- CONTAINER_RECEIVE (R170, R176): the containers of circuit `c` that came whole in one upstream frame, the oldest that waits; at most four are taken, and
demapped in GSEQ order. -/
def execContainerReceive (c : Nat) (s : State) : Result :=
  match (s.circ c).boxes with
  | [] => .next s
  | (frame, _) :: _ =>
    let cs := ((s.circ c).boxes.filter fun b => b.1 == frame).map fun b => b.2
    let s := s.modCirc c fun x => { x with boxes := x.boxes.filter fun b => b.1 != frame }
    if !s.circOn c && !s.draining c frame then .next s
    else
      let whole := (cs.filter fun b => b.length == s.containerLength c).take 4
      let (ms, s) := whole.foldl (fun (acc : List Demapped × State) b =>
        let (m, s) := acc.2.demap c (leValue (b.take 8).reverse) (b.drop 8)
        (insertByGseq m acc.1, s)) ([], s)
      let s := ms.foldl (fun (s : State) m => if s.flag CIRC.GROUPED c then s.memberIn c frame m else s.singleIn c frame m) s
      let port := 16 + 2 * (s.circTree c % 8) + s.circSet c
      .next ((s.passBytes (c / 1024) port (cs.map fun b => b.length).sum).judgeCircuit c)

/-- The bits of a group frame: the members' bits in turn, ones for a missing member (R177, R178). -/
def groupBits (m : Nat) (parts : List MemberPart) : List Bool :=
  let len := ((parts.map fun p => p.data.length).max?).getD 0
  let row := fun k => ((parts.find? fun p => p.member == k).map fun p => p.data).getD (List.replicate len true)
  let rows := (List.range m).map row
  (List.range len).flatMap fun i => rows.map fun r => r.getD i true

/-- One group frame released, whole or not (R178, R179). -/
def State.releaseFrame (u : Nat) (g : GroupFrame) (s : State) : State :=
  let cs := s.members u
  let m := cs.length
  let c := cs.headD 0
  let absent := (List.range m).filter fun k => !(g.parts.any fun p => p.member == k)
  let whole := absent.isEmpty
  let froms := (List.range m).map fun k => ((g.parts.find? fun p => p.member == k).map fun p => p.frame).getD g.first
  let spread := (g.parts.map fun p => wrapSub 32 p.frame g.first).foldl max 0
  let bs := if g.parts.isEmpty then List.replicate (m * (s.dBase c + s.just c)) true else groupBits m g.parts
  let s := s.modGrp u fun x =>
    let miss := if whole then 0 else min 3 (x.missRun + 1)
    let ok := if whole then min 8 (x.wholeRun + 1) else 0
    { x with missRun := miss, wholeRun := ok, spreads := (spread :: x.spreads).take 64,
             mloss := if miss = 3 then true else if ok = 8 then false else x.mloss, dde := if ok = 8 then false else x.dde }
  let skew := ((s.grp u).spreads).foldl max 0
  let s := absent.foldl (fun (s : State) k => s.circCnt (cs.getD k 0) 2 1) s
  let s := s.put CGRP.GSEQ_RELEASE u (g.gseq + 1) |>.put CGRP.SKEW u skew |>.put CIRC_GROUP_STATUS.SKEW u skew
    |>.put CIRC_GROUP_STATUS.MISSING u (absent.foldl setBit 0)
  let closs := cs.any fun k => bitAt (s.get CIRC_DEF.DEFECT k) 0
  let remote := if g.parts.isEmpty then (s.circ c).remote else g.parts.any fun p => p.rf
  s.assembleAll c ⟨g.gseq, froms.headD g.first, froms, !whole || closs || g.parts.any fun p => p.cf, remote⟩ bs |>.judgeGroup u

/-- Group frames that brought no container at all before a later one is released. -/
def State.releaseEmpty (u frame : Nat) : Nat → State → State
  | 0, s => s
  | n + 1, s => (s.releaseFrame u ⟨s.get CGRP.GSEQ_RELEASE u, frame, []⟩).releaseEmpty u frame n

/-- GROUP_RELEASE (R178): the oldest held group frame is released when every member is present or DELAY_MAX frames have passed. -/
def execGroupRelease (d g : Nat) (s : State) : Result :=
  let u := groupAt d g
  match (s.grp u).held with
  | [] => .next s
  | x :: rest =>
    let c := (s.members u).headD 0
    let now := s.clientUpFrame c
    let whole := (List.range (s.members u).length).all fun k => x.parts.any fun p => p.member == k
    let due := s.get CGRP.DELAY_MAX u ≤ wrapSub 32 now x.first && wrapSub 32 now x.first < 2 ^ 31
    if whole || due then
      let s := s.modGrp u fun y => { y with held := rest }
      .next (s.releaseEmpty u x.first (wrapSub 16 x.gseq (s.get CGRP.GSEQ_RELEASE u)) |>.releaseFrame u x)
    else .next s

/-- The end of an upstream frame for the circuits of a set: runs of Table 7.6, and all-ones bits for a single circuit without its container. -/
def State.circuitsFrameEnd (t k frame : Nat) (s : State) : State :=
  ((s.circuitsOf (dieOf t)).filter fun c => s.circTree c == t && s.circSet c == k).foldl (fun (s : State) c =>
    let got := (s.circ c).got
    let s := s.modCirc c fun x => { x with got := false }
    let miss := if got then 0 else min 15 (s.get CIRC.MISS_RUN c + 1)
    let good := if got then min 15 (s.get CIRC.GOOD_RUN c + 1) else 0
    let s := s.put CIRC.MISS_RUN c miss |>.put CIRC.GOOD_RUN c good
    let was := bitAt (s.get CIRC_DEF.RAW c) 0
    let s := if 8 ≤ miss then s.circRaw c 0 true else if 8 ≤ good then s.circRaw c 0 false else s
    let s := if s.flag CIRC.GROUPED c || got || !(s.circ c).synced then s
      else if miss = 8 && !was then s.fillOnes c frame 8
      else if was then s.fillOnes c frame 1 else s
    s.judgeCircuit c) s

/-- The 16 bytes of a circuit's CIRCUIT record (Table 14.6). -/
def State.circRecord (s : State) (c : Nat) : List Nat :=
  let x := s.circ c
  let (g, pos, _) := x.pktMarks.headD (s.get CIRC.GSEQ_NEXT c, 0, 0)
  leBytes 2 c ++ leBytes 2 (s.get CIRC.SEQ_TX c) ++ leBytes 2 g ++ leBytes 4 pos ++ leBytes 2 x.seqLast ++ [0, 0, 0, 0]

/-- Once per frame the active sends a record of every circuit on a protected tree (Table 14.3). -/
def State.sendCircuits (t k : Nat) (s : State) : State :=
  if s.activeFor t then
    let own := (s.circuitsOf (dieOf t)).filter fun c => s.circTree c == t && s.circSet c == k
    s.sendRecords 3 1 own.length (own.map fun c => s.circRecord c)
  else s

/-! ### CIRC_ACC (R168, R175, R181, R184) -/

/-- The data words of the access window of a die. -/
def State.circData (s : State) (d : Nat) : Nat := s.words CIRC_ACC_DATA.DATA (d * 8) 8

/-- The end of an access. -/
def State.circDone (d r : Nat) (s : State) : State := s.put CIRC_ACC_CTRL.RESULT d r |>.put CIRC_ACC_CTRL.DONE d 1

/-- CIRC_ACC_READ (R184): a circuit context, or a group context of the home die. -/
def execCircAccRead (d : Nat) (group : Bool) (index : Nat) (s : State) : Result :=
  let v := if group then withCheck (s.packRec CGRP.fields (groupAt d (index % 128))) else withCheck (s.packRec CIRC.fields (circAt d index))
  .next (s.putWords CIRC_ACC_DATA.DATA (d * 8) 8 v |>.circDone d 0)

/-- Some client rate of 1.544 Mbit/s to 10.3125 Gbit/s meets R168 with this D_BASE and J over `m` members (log entry 13). -/
def rateExists (d j m : Nat) : Bool := 2 * d * m < 2578125 && 193 < m * (d + 2 * j) && d < 50000 * j

/-- The checks on bytes 0 to 31 of a circuit context (R168, Table 7.10). -/
def circValid (v : Nat) : Bool :=
  let d := CIRC.D_BASE.ofBits v
  let j := 2 ^ CIRC.JUST_EXP.ofBits v
  let size := CIRC.PAYLOAD_BYTES.ofBits v
  let jitter := CIRC.JITTER_FRAMES.ofBits v
  let slots := CIRC.SLOTS.ofBits v
  let ms := if CIRC.GROUPED.ofBits v = 1 then [1, 2, 3, 4, 5, 6, 7, 8] else [1]
  reservedClear CIRC.fields 0 256 v && CIRC.JUST_EXP.ofBits v ≤ 9 && ms.any (fun m => rateExists d j m)
    && 32 ≤ size && size ≤ 8192 && 1 ≤ jitter && jitter ≤ 64 && CIRC.AVG_EXP.ofBits v ≤ 6 && 1 ≤ slots && slots ≤ 4095
    && CIRC.PIN.ofBits v ≤ 12149

/-- The checks on bytes 0 to 31 of a group context (Table 7.11). -/
def groupValid (v : Nat) : Bool :=
  let m := CGRP.MEMBERS.ofBits v
  let w := CGRP.DELAY_MAX.ofBits v
  reservedClear CGRP.fields 0 256 v && 1 ≤ m && m ≤ 8 && 1 ≤ w && w ≤ 8

/-- A written context agrees with the enabled members of the group it names in D_BASE and J (R168). -/
def State.agrees (s : State) (c v : Nat) : Bool :=
  CIRC.GROUPED.ofBits v == 0 || (s.members (groupAt (CIRC.HOME_DIE.ofBits v) (CIRC.GROUP.ofBits v))).all fun x =>
    x == c || !s.circOn x || (s.dBase x == CIRC.D_BASE.ofBits v && s.get CIRC.JUST_EXP x == CIRC.JUST_EXP.ofBits v)

/-- CIRC_ACC_WRITE (R168): bytes 0 to 31 of a disabled circuit, or of a group with no enabled member. -/
def execCircAccWrite (d : Nat) (group : Bool) (index : Nat) (s : State) : Result :=
  let v := s.circData d
  if group then
    let u := groupAt d (index % 128)
    if 128 ≤ index || !groupValid v then .next (s.circDone d 2)
    else if (s.members u).any fun c => s.circOn c then .next (s.circDone d 3)
    else .next (s.unpackRec (CGRP.fields.filter fun f => f.lsb < 256) u v |>.circDone d 0)
  else
    let c := circAt d index
    if s.circOn c then .next (s.circDone d 3)
    else if !circValid v || !s.agrees c v then .next (s.circDone d 2)
    else .next (s.unpackRec (CIRC.fields.filter fun f => f.lsb < 256) c v |>.modCirc c (fun x => { x with boxes := [], drain := none }) |>.circDone d 0)

/-- The enabled circuits of the package. -/
def State.enabledCircuits (s : State) : List Nat := (s.regs.filter fun e => e.1.n == CIRC.RUN_STATE.num).map fun e => e.1.i

/-- Bytes that the XGEM frames of a circuit's container take (R169, R171). -/
def State.containerXgem (s : State) (c : Nat) : Nat :=
  Config.xgemBytes (s.circSet c) (s.binding (s.circTree c) (s.get CIRC.LINE_PORT c)).encrypt (s.containerLength c)

/-- The containers of a tree with circuit `c` exceed the limit of R171. -/
def State.noFit (s : State) (c : Nat) : Bool :=
  let t := s.circTree c
  777600 < ((c :: (s.enabledCircuits.filter fun x => s.circTree x == t)).map fun x => s.containerXgem x).sum

/-- The circuit's line port is a circuit port of its tree (Table 11.3). -/
def State.bound (s : State) (c : Nat) : Bool := s.flag LPORT.VALID (s.circPort c) && s.get LPORT.KIND (s.circPort c) == 2

/-- A member agrees with its group: listed there at its place, with the D_BASE and J of member 0 and of every enabled member (R168). -/
def State.memberFits (s : State) (c : Nat) : Bool :=
  !s.flag CIRC.GROUPED c
    || ((s.members (s.circGroup c)).getD (s.get CIRC.MEMBER c) (2 ^ 13) == c
      && ((s.members (s.circGroup c)).all fun x => (x != s.leadOf c && !s.circOn x) || (s.dBase c == s.dBase x && s.just c == s.just x))
      && rateExists (s.dBase c) (s.just c) (s.members (s.circGroup c)).length)

/-- The circuit's allocation with CLASS `cls`: FIXED with RATE = 256 × SLOTS, its PIN and the line port's terminal (R175), or OFF. -/
def State.circAlloc (c cls : Nat) (s : State) : Nat × State :=
  let t := s.circTree c
  let a := s.get CIRC.ALLOCATION c
  let i := allocAt t a
  let fs := allocHost.filter fun f =>
    !([ALLOC.CLASS, ALLOC.RATE, ALLOC.PIN, ALLOC.PIN_EN, ALLOC.TERMINAL].contains f)
  let keep := s.packRec (if cls = 0 then allocHost.filter fun f => f != ALLOC.CLASS else fs) i
  let v := keep + cls * 2 ^ ALLOC.CLASS.lsb + if cls = 0 then 0 else
    256 * s.get CIRC.SLOTS c * 2 ^ ALLOC.RATE.lsb + s.get CIRC.PIN c * 2 ^ ALLOC.PIN.lsb + 2 ^ ALLOC.PIN_EN.lsb
      + s.get LPORT.TERMINAL (s.circPort c) * 2 ^ ALLOC.TERMINAL.lsb
  s.writeAlloc t a v false

/-- CIRCUIT_ENABLE (R175, R181). A refused write of the allocation, for which Table 7.9 has no code of its own, reads BAD_VALUE (log entry 18). -/
def execCircuitEnable (d index : Nat) (s : State) : Result :=
  let c := circAt d index
  let isLead := s.leadOf c == c
  let label := s.get CIRC.LABEL c
  if s.circOn c then .next (s.circDone d 3)
  else if !circValid (s.packRec CIRC.fields c % 2 ^ 256) || !s.memberFits c then .next (s.circDone d 2)
  else if !s.bound c then .next (s.circDone d 5)
  else if isLead && s.enabledCircuits.any (fun x => s.leadOf x == x && s.get CIRC.LABEL x == label) then .next (s.circDone d 3)
  else if s.noFit c then .next (s.circDone d 4)
  else
    let (r, s) := s.circAlloc c 1
    if r ≠ 0 then .next (s.circDone d 2)
    else
      let s := s.clearRec (CIRC.fields.filter fun f => 256 ≤ f.lsb) c |>.setRun c 1
        |>.modCirc c fun _ => { domain := s.get LPORT.DOMAIN (s.circPort c) }
      let s := if isLead then s.sequence d (.label label c true) none else s
      .next (s.circDone d 0)

/-- The last frame of a circuit's set whose map has been built (R146). -/
def State.lastBuilt (s : State) (c : Nat) : Nat :=
  let x := s.setOf (s.circTree c) (s.circSet c)
  let m := (x.dsFrame + 2) % 2 ^ 32
  if x.maps.any fun y => y.frame == m then m else (x.dsFrame + 1) % 2 ^ 32

/-- A circuit disabled: its label withdrawn, its allocation OFF, its playout empty and its defects gone. What assembles its packets stays, for the bursts of
maps already built (R184). -/
def State.disableCircuit (c : Nat) (s : State) : State :=
  let isLead := s.leadOf c == c
  let label := s.get CIRC.LABEL c
  let last := s.lastBuilt c
  let s := (s.circAlloc c 0).2
  let s := s.setRun c 0
    |>.modCirc c (fun x => { x with playout := [], fills := [], pktLocal := false, pktRemote := false, inOrder := 0, quiet := 0, got := false,
                                    cfOn := 0, cfOff := 0, rfOn := 0, rfOff := 0, drain := some last })
    |>.put CIRC.FILL c 0 |>.put CIRC.FILL_SUM c 0 |>.put CIRC.MISS_RUN c 0 |>.put CIRC.GOOD_RUN c 0
    |>.put CIRC_DEF.DEFECT c 0 |>.put CIRC_DEF.RAW c 0 |>.put CIRC_DEF.SUPPRESSED_ABOVE c 0
  let s := if s.flag CIRC.GROUPED c then s.judgeGroup (s.circGroup c) else s
  if isLead then s.sequence (c / 1024) (.label label c false) none else s

/-- CIRCUIT_DISABLE (R184): containers already delivered are still sent, and those of maps already built are still received. -/
def execCircuitDisable (d index : Nat) (s : State) : Result :=
  let c := circAt d index
  .next ((if s.circOn c then s.disableCircuit c else s).circDone d 0)

/-- The circuits of a tree that comes back ON after a re-weave: one whose line port lost its customer domain is disabled, BINDING (R184). -/
def State.circuitsResume (t : Nat) (s : State) : State :=
  (s.enabledCircuits.filter fun c => s.circTree c == t).foldl (fun (s : State) c =>
    if s.bound c && s.get LPORT.DOMAIN (s.circPort c) == (s.circ c).domain then s
    else s.disableCircuit c |>.circDone (c / 1024) 5) s

end Sys2Proof.Machine
end

