-- ==== Sys2Proof/Machine/Ranging.lean ====
section
/-!
DEFINITION. Ranging and Chiffon discovery (chapter 5): terminal states, quiet windows, detections, invitations, micro-windows, admission,
drift correction, and the host's ranging commands. A host command completes with its write (log entry 15).
-/

namespace Sys2Proof.Machine

/-- Ranging counter `k` of a tree (Table 5.12). -/
def State.rngCnt (t k n : Nat) (s : State) : State := s.bump TREE_RNG_CNT.COUNT (t * 10 + k) n

/-- STATE of a terminal index (Table 5.2). -/
def State.rngState (s : State) (t n : Nat) : Nat := s.get TREE_RNG_TERM.STATE (termAt t n)

/-- A message into the downstream PLOAM ring of a set (R94). -/
def State.ploamPush (t k : Nat) (m : Ploam) (s : State) : State := s.modSet t k fun x => { x with ploamDown := x.ploamDown ++ [m] }

/-- `n` big-endian bytes of a value. -/
def beBytes (n v : Nat) : List Nat := (leBytes n v).reverse

/-! ### Delay and distance (R111 to R113) -/

/-- RTD(D) of a distance in km, in symbols: round((97.5 + 9.794 × D) × 24,883.2). -/
def rtdOfKm (d : Nat) : Nat := ((97500 + 9794 * d) * 248832 + 5000) / 10000

/-- DISTANCE of a round-trip delay, in 10 m units, halves up, 0 below the receptacle, at most 16,383 (R113). -/
def distanceOf (rtd : Nat) : Nat := min 16383 ((2 * (rtd - 2426112) * 1000000 + 2437060608) / (2 * 2437060608))

/-- The equalisation delay for a round-trip delay on a set, in the set's units (R111, R112). -/
def State.eqdOf (s : State) (t k rtd : Nat) : Nat := if s.twill t k then 18662400 - rtd else Config.stdEqd k rtd

/-- A terminal's round-trip delay, and EQD and DISTANCE from it (R113). -/
def State.setRtd (t n rtd : Nat) (s : State) : State :=
  let i := termAt t n
  s.put TREE_RNG_TERM.EQD i (s.eqdOf t (s.get TREE_RNG_TERM.SET i) rtd) |>.put TREE_RNG_TERM.DISTANCE i (distanceOf rtd)
    |>.modTerm t n fun x => { x with rtd := rtd }

/-! ### Terminal indices (R116) -/

/-- A terminal index freed: its ranging fields, serial number and records cleared. -/
def State.freeTerm (t n : Nat) (s : State) : State :=
  s.setOperation t n false |>.clearRec TREE_RNG_TERM.desc.fields (termAt t n) |>.clearRec TREE_RNG_SN.desc.fields (termAt t n)
    |>.modTerm t n fun _ => {}

/-- A queued message is a step for the terminal with an ONU-ID: assignment, index, delay or hold (R137). -/
def stepOf (id : Nat) (m : Ploam) : Bool :=
  (m.onuId == id && (m.kind == .rangingTime || m.kind == .terminalIndex || m.kind == .assignAllocId || m.kind == .chiffonHold))
    || (m.kind == .assignOnuId && m.content.take 2 == beBytes 2 id)

/-- The assignments and de-allocations of a terminal that are due or waiting are dropped (R132, R137). -/
def State.dropAssignments (t n : Nat) (s : State) : State :=
  ((s.allocs.filter fun e => e.1.n == t).map fun e => e.1.i).foldl (fun (s : State) a => s.modAlloc t a fun x =>
    { x with assignDue := x.assignDue && s.get ALLOC.TERMINAL (allocAt t a) != n, sending := x.sending.filter fun e => e.1 != n,
             deallocDue := x.deallocDue.filter fun e => e.1 != n }) s

/-- A terminal leaves service and keeps its index and serial number: LOST; its pending steps and corrections are cancelled (R137). -/
def State.loseTerm (t n : Nat) (s : State) : State :=
  let k := s.get TREE_RNG_TERM.SET (termAt t n)
  let id := s.onuId t n
  let s := s.setOperation t n false |>.put TREE_RNG_TERM.STATE (termAt t n) 5
    |>.modTerm t n (fun x => { x with drifts := [], fix := none, assignDue := false, rangingDue := false, misses := [], attempts := 0 })
    |>.modSet t k fun x => { x with ploamDown := x.ploamDown.filter fun m => !stepOf id m }
  s.dropAssignments t n

/-- A directed ranging grant reserved for the first frame that can be named (R119, R159): 11 slots with MW_PROFILE on a Twill set, what the recommendation
gives on a standard set. -/
def State.rangeGrant (t n : Nat) (s : State) : State :=
  let k := s.get TREE_RNG_TERM.SET (termAt t n)
  let (units, profile) := if s.twill t k then (11, s.get TREE_RNG_CHF.MW_PROFILE t) else Config.stdRangingGrant k
  s.reserve t k ((s.frame + 3) % 2 ^ 16) fun m => { frame := m, kind := .ranging, onuId := s.onuId t n, units := units, profile := profile }

/-- A terminal to be ranged again by a directed ranging grant (R119, R139); a correction under way is discarded (R137). -/
def State.rangeAgain (t n : Nat) (s : State) : State :=
  let id := s.onuId t n
  s.setOperation t n false |>.put TREE_RNG_TERM.STATE (termAt t n) 3
    |>.modTerm t n (fun x => { x with rangingDue := true, attempts := 0, drifts := [], fix := none, misses := [] })
    |>.modSet t (s.get TREE_RNG_TERM.SET (termAt t n))
      (fun x => { x with ploamDown := x.ploamDown.filter fun m => !(m.kind == .rangingTime && m.onuId == id) })
    |>.rangeGrant t n

/-- Deactivate_ONU-ID to a terminal. One found in a quiet window and not admitted has no ONU-ID: the message goes to every terminal and names its serial
number (log entry 19). -/
def State.sendDeactivate (t n : Nat) (s : State) : State :=
  let i := termAt t n
  let k := s.get TREE_RNG_TERM.SET i
  if s.get TREE_RNG_TERM.STATE i = 2 && s.get TREE_RNG_TERM.METHOD i = 0 then
    s.ploamPush t k { kind := .deactivate, onuId := 0x3FF, content := beBytes 8 (s.get TREE_RNG_SN.SERIAL i) }
  else s.ploamPush t k { kind := .deactivate, onuId := s.onuId t n, content := [] }

/-- A step of a terminal is made: its misses in a row are over (R132). -/
def State.stepMade (t n : Nat) (step : RngStep) (s : State) : State :=
  s.modTerm t n fun x => { x with misses := x.misses.filter fun e => e.1 != step }

/-- The lowest FREE index of a tree (R128). -/
def State.freeIndex (s : State) (t : Nat) : Option Nat := (List.range 256).find? fun n => s.rngState t n == 0

/-- A terminal enters OPERATION (R135): counted; its further Alloc-IDs are to be assigned (R415). -/
def State.enterOperation (t n : Nat) (s : State) : State :=
  let s := s.put TREE_RNG_TERM.STATE (termAt t n) 4 |>.setOperation t n true |>.rngCnt t 4 1
    |>.modTerm t n fun x => { x with rangingDue := false, attempts := 0, misses := [], drifts := [], driftFrom := none, fix := none }
  let as := (s.allocations t).filter fun a => s.get ALLOC.TERMINAL (allocAt t a) == n
  as.foldl (fun (s : State) a =>
    s.modAlloc t a fun x => { x with assigned := none, sending := none, assignDue := s.get ALLOC.ALLOC_ID (allocAt t a) != s.onuId t n }) s

/-! ### Quiet windows (R117, R118) -/

/-- A set with an active allocation bound to a gate list (R118). -/
def State.gatedActive (s : State) (t k : Nat) : Bool :=
  (s.allocations t).any fun a =>
    let i := allocAt t a
    s.get ALLOC.CLASS i == 5 && s.get ALLOC.SET i == k && s.inOperation t (s.get ALLOC.TERMINAL i)

/-- EqD_pre of a tree, in Twill symbols (R117). -/
def State.eqdPre (s : State) (t : Nat) : Nat := 18662400 - rtdOfKm (s.get TREE_RNG_CTRL.QW_MIN_KM t)

/-- The pre-assigned delay broadcast on a set by its recommendation's message, in its units (R117). -/
def State.sendPreAssigned (t k : Nat) (s : State) : State :=
  s.ploamPush t k { kind := .preAssignedDelay, onuId := 0x3FF, content := Config.preAssigned k (s.eqdPre t) }

/-- A quiet window for the first frame whose map is still to be built; a standard set is told the pre-assigned delay with it (log entry 19). -/
def State.askQuiet (t : Nat) (forced : Bool) (k : Nat) (s : State) : State :=
  let m := ((s.setOf t k).dsFrame + 3) % 2 ^ 32
  let s := s.setResv t k (s.resvOf t k ++ [{ s.quietResv t k m with forced := forced }])
  if s.twill t k then s else s.sendPreAssigned t k

/-- QUIET_WINDOW_OPEN (R117, R118): QW_PERIOD has passed on a set with QUIET_EN. QW_BLOCKED reads 0 again with the next window opened on the tree (log entry
19). -/
def execQuietWindowOpen (t k : Nat) (s : State) : Result := rangingStep t s <|
  if s.get DMK_TREE_STATE.STATE t ≠ 2 || !(s.liveSets t).contains k || !s.flag TREE_RNG_CTRL.QUIET_EN t then .next s
  else if s.gatedActive t k then .next (s.rngCnt t 7 1 |>.put TREE_RNG_STATUS.QW_BLOCKED t 1)
  else .next (s.askQuiet t false k |>.put TREE_RNG_STATUS.QW_BLOCKED t 0)

/-- QUIET_FORCE (R118): one window on each live set, whatever the gates, in the first frame that has room for it. -/
def execQuietForce (t : Nat) (s : State) : Result := rangingStep t s <|
  if s.get DMK_TREE_STATE.STATE t = 2 then .next ((s.liveSets t).foldl (fun s k => State.askQuiet t true k s) s) else .next s

/-! ### Admission (R133) -/

/-- Where the registration list of a tree line ports section starts: behind its contexts and flood sets (R253). -/
def pastFloods (b : List Nat) : Nat → Nat → Nat
  | 0, o => o
  | n + 1, o => pastFloods b n (o + 4 + 2 * (bits (leAt b o 4) 12 8 + 1))

/-- A registration entry (R253). -/
structure RegEntry where
  serial : Nat
  terminal : Nat
  set : Nat
  onuId : Nat
  deriving DecidableEq, Repr

/-- The registration list of a tree. -/
def State.registrations (s : State) (t : Nat) : List RegEntry :=
  let b := s.sect 0x0102 t
  let o := pastFloods b (leAt b 4 4) (16 + 32 * leAt b 0 4)
  (List.range (leAt b 8 4)).map fun k =>
    let e := o + 16 * k
    ⟨leAt b e 8, byteAt b (e + 8), byteAt b (e + 9) % 2, leAt b (e + 10) 2 % 1024⟩

/-- Another index of the set that holds an ONU-ID. -/
def State.onuIdTaken (s : State) (t k n id : Nat) : Bool :=
  (List.range 256).any fun m =>
    m != n && s.rngState t m != 0 && s.get TREE_RNG_TERM.SET (termAt t m) == k && s.onuId t m == id
      && !(s.rngState t m == 2 && s.get TREE_RNG_TERM.METHOD (termAt t m) == 0)

/-- What an index holds of a terminal moved to another index. -/
def State.moveTerm (t n m : Nat) (s : State) : State :=
  if n = m then s
  else
    let x := s.term t n
    let s := (TREE_RNG_TERM.desc.fields ++ TREE_RNG_SN.desc.fields).foldl (fun (s : State) f => s.put f (termAt t m) (s.get f (termAt t n))) s
    s.freeTerm t n |>.modTerm t m fun _ => x

/-- A terminal in SN_FOUND admitted with an ONU-ID: RANGING, Assign_ONU-ID to be sent (R135). -/
def State.admitTerm (t n id : Nat) (s : State) : State :=
  s.put TREE_RNG_TERM.STATE (termAt t n) 3 |>.put TREE_RNG_TERM.ONU_ID (termAt t n) id
    |>.modTerm t n fun x => { x with assignDue := true, misses := [] }

/-- The other index of a set that holds a serial number in LOST (R133). -/
def State.lostHeld (s : State) (t n k sn : Nat) : Option Nat :=
  (List.range 256).find? fun m =>
    m != n && s.get TREE_RNG_SN.SERIAL (termAt t m) == sn && s.rngState t m == 5 && s.get TREE_RNG_TERM.SET (termAt t m) == k

/-- The other index of a tree that holds a serial number in one of the states. -/
def State.serialHeld (s : State) (t n sn : Nat) (states : List Nat) : Option Nat :=
  (List.range 256).find? fun m => m != n && s.get TREE_RNG_SN.SERIAL (termAt t m) == sn && states.contains (s.rngState t m)

/-- Admission of a terminal that reached SN_FOUND (R133): a duplicate denied, a LOST one reacquired, one on the registration list admitted,
any other left to the host. -/
def State.admission (t n : Nat) (s : State) : State :=
  let i := termAt t n
  let sn := s.get TREE_RNG_SN.SERIAL i
  let k := s.get TREE_RNG_TERM.SET i
  match s.serialHeld t n sn [3, 4] with
  | some _ => s.sendDeactivate t n |>.freeTerm t n |>.put TREE_RNG_STATUS.DUP_SN t 1 |>.raiseTree t 4
  | none =>
    match s.lostHeld t n k sn with
    | some m =>
      let id := s.onuId t m
      s.moveTerm t n m |>.admitTerm t m id |>.put TREE_RNG_STATUS.REACQUIRED t 1 |>.raiseTree t 4
    | none =>
      match if s.flag TREE_RNG_CTRL.AUTO_ADMIT t then (s.registrations t).find? fun e => e.serial == sn && e.set == k else none with
      | none => s
      | some e =>
        if (e.terminal != n && s.rngState t e.terminal != 0) || s.onuIdTaken t k n e.onuId then s.raiseTree t 4
        else s.moveTerm t n e.terminal |>.admitTerm t e.terminal e.onuId

/-- A serial number received: SN_FOUND, counted, its source raised, and admission (R119, R130, R133). -/
def State.serialFound (t n k method rtd sn : Nat) (s : State) : State :=
  let i := termAt t n
  s.put TREE_RNG_TERM.SET i k |>.put TREE_RNG_TERM.METHOD i method |>.put TREE_RNG_TERM.STATE i 2 |>.put TREE_RNG_SN.SERIAL i sn
    |>.setRtd t n rtd |>.modTerm t n (fun x => { x with rangedAt := s.nowNs, foundAt := s.nowNs }) |>.rngCnt t 3 1 |>.raiseTree t 5
    |>.admission t n

/-- The coarse round-trip delay of a serial-number burst, in Twill symbols: where it arrived behind that of QW_MIN_KM, less its random delay in slots of 256
symbols (R117, R119, R120). -/
def State.coarseRtd (s : State) (t k : Nat) (arrival : Int) (delay : Nat) : Nat :=
  let km := s.get TREE_RNG_CTRL.QW_MIN_KM t
  if s.twill t k then ((rtdOfKm km : Int) + arrival - 256 * delay).toNat else Config.stdCoarse k km arrival delay

/-- SERIAL_NUMBER_FOUND (R119): a serial-number burst decoded in a quiet window. Without a FREE index, or while the serial number already waits, it is
discarded (log entry 19). -/
def execSerialNumberFound (t k : Nat) (arrival : Int) (delay sn : Nat) (s : State) : Result := rangingStep t s <|
  match s.freeIndex t with
  | none => .next s
  | some n => if (s.serialHeld t n sn [1, 2]).isSome then .next s else .next (s.serialFound t n k 0 (s.coarseRtd t k arrival delay) sn)

/-! ### Chiffon (R123 to R134) -/

/-- A signed launch power of 0.01 dB rounded to 0.1 dB, as one byte (Table 5.3). -/
def launchByte (p : Nat) : Nat := ofSigned 8 ((toSigned 16 p + 5) / 10)

/-- CHIFFON_PARAMS (R117, R123): Table 5.3 broadcast on a Twill set, with the pre-assigned delay by the recommendation's message too. -/
def execChiffonParams (t : Nat) (s : State) : Result := rangingStep t s <|
  if !s.twill t 0 || s.get DMK_TREE_STATE.STATE t ≠ 2 then .next s
  else
    let content := beBytes 3 (s.eqdPre t) ++ beBytes 3 (s.get TREE_RNG_CHF.SIG_START t) ++ beBytes 2 (s.get TREE_RNG_CHF.CODE_MASK t)
      ++ [s.get TREE_RNG_CHF.SIG_LEVEL t, launchByte (s.get TREE_OPT_TX.POWER (t * 2)), 8, 16, 255] ++ List.replicate 23 0
    .next (s.ploamPush t 0 { kind := .chiffonParams, onuId := 0x3FF, content := content } |>.sendPreAssigned t 0 |>.modTree t fun x => { x with misses := 0 })

/-- The unit number of pending detection `i` of a tree. -/
def detectAt (t i : Nat) : Nat := t * 4 + i

/-- PENDING of a tree: its pending detections. -/
def State.showPending (t : Nat) (s : State) : State :=
  s.put TREE_RNG_STATUS.PENDING t ((List.range 4).filter fun i => s.flag TREE_RNG_DETECT.VALID (detectAt t i)).length

/-- Magnitude of a difference. -/
def distance (a b : Int) : Nat := (a - b).natAbs

/-- A detection slot is taken: pending, or its provisional ONU-ID still addresses a terminal in SN_FOUND (log entry 19). -/
def State.slotTaken (s : State) (t i : Nat) : Bool :=
  s.flag TREE_RNG_DETECT.VALID (detectAt t i)
    || (List.range 256).any fun n => s.rngState t n == 2 && s.get TREE_RNG_TERM.METHOD (termAt t n) == 1 && (s.term t n).detection == i

/-- The search span of R125 holds an arrival. -/
def State.inSpan (s : State) (t : Nat) (arrival : Int) : Bool :=
  let start : Int := s.get TREE_RNG_CHF.SIG_START t
  let km := s.get TREE_RNG_CTRL.QW_MIN_KM t
  let reach : Int := (rtdOfKm (km + s.get TREE_RNG_CTRL.QW_DIFF_KM t) : Int) - rtdOfKm km
  start - 24883 ≤ arrival && arrival ≤ start + reach + 24883

/-- The half-chips from a lag on, relative to the start of the frame `age` frames before the last one (R125): of that frame and those after it, and of the
one before it where the lag is negative. -/
def halfChipsFrom (chips : List (List HalfChip)) (age : Nat) (lag : Int) : List HalfChip :=
  let stream := ((chips.take (age + 1)).reverse).flatten
  if 0 ≤ lag then stream.drop lag.toNat
  else
    let before := chips.getD (age + 1) []
    before.drop (before.length - lag.natAbs) ++ stream

/-- Half-chips that a code takes: two for each of its 8,191 chips. -/
def codeHalfChips : Nat := 2 * 8191

/-- The last `n` frames in which the whole of a code at a lag was received, the latest first. -/
def framesHeard (chips : List (List HalfChip)) (lag : Int) (n : Nat) : List Nat :=
  ((List.range chips.length).filter fun a => codeHalfChips ≤ (halfChipsFrom chips a lag).length).take n

/-- (C / √(2PN))² of a code at a lag over frames (R125). -/
def signatureSquare (code : List Bool) (chips : List (List HalfChip)) (ages : List Nat) (lag : Int) : Rat :=
  let parts := ages.map fun a => correlate code (halfChipsFrom chips a lag)
  let heard := (ages.flatMap fun a => chips.getD a []).filter fun x => 0 < x.v
  let power := (heard.map fun x => x.h * x.h).sum / heard.length
  statSquare (parts.map fun p => p.1).sum power (parts.map fun p => p.2).sum

/-- What the correlators make of a code at a lag over the last `n` frames (R125): z in eighths, ARRIVAL in symbols from the start of the upstream frame, and
the latest frame summed; nothing where z is under Z_TH or not the largest within ±64 half-chips. -/
def State.correlated (s : State) (t code : Nat) (lag : Int) (n : Nat) : Option (Nat × Int × Nat) :=
  let chips := (s.setOf t 0).chips
  let c := goldCode code
  let ages := framesHeard chips lag n
  let z2 := fun (l : Int) => signatureSquare c chips ages l
  let th := s.get TREE_RNG_CTRL.Z_TH t
  let largest := (List.range 129).all fun j => z2 (lag + j - 64) ≤ z2 lag
  if ages.length = n && 0 < n && (th * th : Nat) ≤ 64 * z2 lag && largest then
    some (rootSteps (64 * z2 lag) / 2 ^ 16,
      16 * lag + vertex (rootSteps (z2 (lag - 1))) (rootSteps (z2 lag)) (rootSteps (z2 (lag + 1))), wrapSub 32 (s.setOf t 0).upFrame (1 + ages.headD 0))
  else none

/-- A detection (R127): blocked, merged, recorded with the lowest FREE index INVITED, or discarded; one that is discarded blocks its lags as well (log entry
64). -/
def State.detection (t code : Nat) (arrival : Int) (z frames train : Nat) (s : State) : State :=
  let up := (s.setOf t 0).upFrame
  let near := (s.tree t).blocked.filter fun b => wrapSub 32 up b.2.2 < 32
  let blocked := near.any fun b => b.1 == code && distance arrival (toSigned 26 b.2.1) ≤ 1024
  let merged := (List.range 4).any fun i =>
    s.flag TREE_RNG_DETECT.VALID (detectAt t i) && s.get TREE_RNG_DETECT.CODE (detectAt t i) == code
      && distance arrival (toSigned 26 (s.get TREE_RNG_DETECT.ARRIVAL (detectAt t i))) ≤ 4
  if merged || blocked then s
  else
    let s := s.modTree t fun x => { x with blocked := near ++ [(code, ofSigned 26 arrival, up)] }
    match (List.range 4).find? fun i => !s.slotTaken t i, s.freeIndex t with
    | some i, some n =>
      let u := detectAt t i
      s.put TREE_RNG_DETECT.VALID u 1 |>.put TREE_RNG_DETECT.CODE u code |>.put TREE_RNG_DETECT.ATTEMPT u 0
        |>.put TREE_RNG_DETECT.ARRIVAL u (ofSigned 26 arrival) |>.put TREE_RNG_DETECT.Z u (min 255 z)
        |>.put TREE_RNG_DETECT.FRAMES u frames |>.put TREE_RNG_DETECT.TERMINAL u n
        |>.put TREE_RNG_TERM.STATE (termAt t n) 1 |>.put TREE_RNG_TERM.METHOD (termAt t n) 1
        |>.put TREE_RNG_TERM.ONU_ID (termAt t n) (1016 + i)
        |>.modTerm t n (fun x => { x with detection := i, trainFrame := train })
        |>.showPending t |>.rngCnt t 0 1 |>.raiseTree t 3
    | _, _ => s.rngCnt t 8 1

/-- SIGNATURE_DETECTION (R125 to R127): the correlators reach a code of CODE_MASK at a half-chip lag of the search span, over the last `frames` frames. -/
def execSignatureDetection (t code : Nat) (lag : Int) (frames : Nat) (s : State) : Result := rangingStep t s <|
  if !s.twill t 0 || s.get DMK_TREE_STATE.STATE t ≠ 2 || !s.flag TREE_RNG_CTRL.CHIFFON_EN t || !bitAt (s.get TREE_RNG_CHF.CODE_MASK t) code
    || !s.inSpan t (16 * lag) || 8 < frames then .next s
  else
    match s.correlated t code lag frames with
    | none => .next s
    | some (z, arrival, train) => .next (s.detection t code arrival z frames train)

/-- The coarse EqD of a detection: EQD_PRE + SIG_START − ARRIVAL (Table 5.4). -/
def State.coarseEqd (s : State) (t i : Nat) : Nat :=
  ((18662400 - rtdOfKm (s.get TREE_RNG_CTRL.QW_MIN_KM t) + s.get TREE_RNG_CHF.SIG_START t : Int)
    - toSigned 26 (s.get TREE_RNG_DETECT.ARRIVAL (detectAt t i))).toNat % 2 ^ 24

/-- The messages of a PLOAM ring that a sample takes: the first four, but for those whose frame-mates would stay behind (R94, R135). -/
def sampleCount (ring : List Ploam) (room : Nat) : Nat :=
  ((List.range (room + 1)).filter fun n => n ≤ ring.length && !((ring[n]?).any fun m => m.joined)).foldl max 0

/-- Frames that pass before the last message of a ring goes: samples of four of what stands before it. -/
def framesBehind : Nat → List Ploam → Nat
  | 0, _ => 0
  | fuel + 1, ring =>
    let n := sampleCount ring 4
    if ring.length ≤ n || n = 0 then 0 else 1 + framesBehind fuel (ring.drop n)

/-- The frame in which a message put into a set's ring now would go (R94). -/
def State.leavesIn (s : State) (t k : Nat) (m : Ploam) : Nat :=
  let x := s.setOf t k
  (x.dsFrame + (if x.took then 2 else 1) + framesBehind x.ploamDown.length (x.ploamDown ++ [m])) % 2 ^ 32

/-- CHIFFON_INVITE (R128): for pending detection `i`, Tweed reserves a micro-window in frame `m` and, once it is accepted, sends the invitation of
Table 5.4; the reserved index is INVITED. An invitation that would go later than in frame m − 2 is not made for that frame. -/
def execChiffonInvite (t i m : Nat) (s : State) : Result := rangingStep t s <|
  let u := detectAt t i
  let n := s.get TREE_RNG_DETECT.TERMINAL u
  let content := [s.get TREE_RNG_DETECT.CODE u] ++ beBytes 2 (s.term t n).trainFrame ++ beBytes 3 (s.coarseEqd t i) ++ beBytes 2 (1016 + i)
    ++ beBytes 2 (m % 2 ^ 16) ++ [n, s.get TREE_RNG_DETECT.ATTEMPT u + 1] ++ List.replicate 24 0
  let msg : Ploam := { kind := .chiffonInvite, onuId := 0x3FF, content := content }
  let spare := wrapSub 32 m (s.leavesIn t 0 msg)
  if !s.flag TREE_RNG_DETECT.VALID u || spare < 2 || 2 ^ 31 ≤ spare then .next s
  else
    let s := s.reserve t 0 (m % 2 ^ 16) fun f =>
      { frame := f, kind := .microWindow, onuId := 1016 + i, units := 11, profile := s.get TREE_RNG_CHF.MW_PROFILE t }
    if s.get GRANT_RESV_STATUS.ACCEPT (dieOf t) ≠ 0 then .next s
    else
      .next (s.put TREE_RNG_TERM.STATE (termAt t n) 1 |>.modTerm t n (fun x => { x with mwFrame := m % 2 ^ 32 })
        |>.stepMade t n .chiffonInvite |>.ploamPush t 0 msg |>.rngCnt t 1 1)

/-- A pending detection dropped. -/
def State.dropDetection (t i : Nat) (s : State) : State := s.put TREE_RNG_DETECT.VALID (detectAt t i) 0 |>.showPending t

/-- What the search of a ranging grant of terminal `n` came to, and taken from what is kept; one of which nothing is kept was left unreceived (R119, R130). -/
def State.takeRange (t k n : Nat) (s : State) : RangeResult × State :=
  ((((s.setOf t k).ranged.find? fun e => e.1 == n).map fun e => e.2).getD .lostByPart,
    s.modSet t k fun x => { x with ranged := x.ranged.filter fun e => e.1 != n })

/-- MICRO_WINDOW_RESULT (R130): what the search of the micro-window of detection `i` found. -/
def execMicroWindowResult (t i : Nat) (s : State) : Result := rangingStep t s <|
  let u := detectAt t i
  let n := s.get TREE_RNG_DETECT.TERMINAL u
  let (r, s) := s.takeRange t 0 n
  let failed := if s.get TREE_RNG_DETECT.ATTEMPT u = 0 then s.put TREE_RNG_DETECT.ATTEMPT u 1
    else s.dropDetection t i |>.freeTerm t n |>.rngCnt t 2 1
  if !s.flag TREE_RNG_DETECT.VALID u then .next s
  else
    match r with
    | .found drift (some sn) =>
      let rtd := ((18662400 : Int) - (s.coarseEqd t i - drift)).toNat
      .next (s.dropDetection t i |>.serialFound t n 0 1 rtd sn)
    | _ => .next failed

/-- ADMIT_WAIT_EXPIRY (R133): ADMIT_WAIT seconds without a decision. -/
def execAdmitWaitExpiry (t n : Nat) (s : State) : Result := rangingStep t s <|
  if s.rngState t n = 2 then .next (s.sendDeactivate t n |>.freeTerm t n |>.raiseTree t 4) else .next s

/-- CHIFFON_HOLD (R134): to a terminal found by Chiffon that waits in SN_FOUND. -/
def execChiffonHold (t n : Nat) (s : State) : Result := rangingStep t s <|
  let i := termAt t n
  if s.rngState t n ≠ 2 || s.get TREE_RNG_TERM.METHOD i ≠ 1 then .next s
  else
    let x := s.term t n
    let left := s.get TREE_RNG_CTRL.ADMIT_WAIT t - (s.nowNs - x.foundAt) / 10 ^ 9
    .next (s.ploamPush t 0 { kind := .chiffonHold, onuId := s.onuId t n, content := [n] ++ beBytes 2 x.mwFrame ++ [left] ++ List.replicate 32 0 }
      |>.stepMade t n .chiffonHold)

/-! ### Activation (R119, R135, R415, R416) -/

/-- Ranging_Time with an absolute or a relative delay, as the model spells it: a flag byte and four bytes of the value. -/
def rangingTime (absolute : Bool) (v : Int) : List Nat := ofBool absolute :: beBytes 4 (ofSigned 32 v)

/-- ASSIGN_ONU_ID (R135, R416): Assign_ONU-ID, on a Twill set Terminal_Index, and Ranging_Time for a Chiffon terminal whose micro-window ended
less than 1 s earlier, all in one frame; otherwise the terminal is ranged by a directed grant. -/
def execAssignOnuId (t n : Nat) (s : State) : Result := rangingStep t s <|
  let i := termAt t n
  let x := s.term t n
  if !x.assignDue || s.rngState t n ≠ 3 then .next s
  else
    let k := s.get TREE_RNG_TERM.SET i
    let id := s.onuId t n
    let fresh := s.get TREE_RNG_TERM.METHOD i == 1 && s.nowNs - x.rangedAt < 10 ^ 9
    let s := s.ploamPush t k { kind := .assignOnuId, onuId := 0x3FF, content := beBytes 2 id ++ beBytes 8 (s.get TREE_RNG_SN.SERIAL i) }
    let s := if s.twill t k then s.ploamPush t k { kind := .terminalIndex, onuId := id, content := n :: List.replicate 35 0, joined := true } else s
    let s := if fresh then
        s.ploamPush t k { kind := .rangingTime, onuId := id, content := rangingTime true (s.get TREE_RNG_TERM.EQD i), joined := true }
      else s.rangeGrant t n
    .next (s.modTerm t n (fun y => { y with assignDue := false, rangingDue := !fresh, attempts := 0 }) |>.stepMade t n .assignOnuId)

/-- A change of delay in symbols of a RATE code as Twill symbols, to the nearest (R136, Table 3.6). -/
def twillSymbols (rate : Nat) (v : Int) : Int := (v * symbolTicks rate + 1) / 2

/-- RANGING_GRANT_RESULT (R119): what the search of a directed ranging grant found; without a candidate the grant is repeated in the next frame, up to
RETRY_MAX times, and the terminal then returns to FREE. -/
def execRangingGrantResult (t n : Nat) (s : State) : Result := rangingStep t s <|
  let i := termAt t n
  let x := s.term t n
  let k := s.get TREE_RNG_TERM.SET i
  let (r, s) := s.takeRange t k n
  if s.rngState t n ≠ 3 || !x.rangingDue then .next s
  else
    match r with
    | .found drift _ =>
      let s := s.setRtd t n ((x.rtd : Int) + drift).toNat
        |>.modTerm t n fun y => { y with rangingDue := false, rangedAt := s.nowNs }
      .next (s.ploamPush t k { kind := .rangingTime, onuId := s.onuId t n, content := rangingTime true (s.get TREE_RNG_TERM.EQD i) })
    | _ =>
      if s.get TREE_RNG_CTRL.RETRY_MAX t < x.attempts + 1 then .next (s.freeTerm t n)
      else .next (s.modTerm t n (fun y => { y with attempts := y.attempts + 1 }) |>.rangeGrant t n)

/-- ASSIGN_ALLOC_ID (R415): for allocation `a` of a tree, the de-allocation that is due, else the assignment that is due. -/
def execAssignAllocId (t a : Nat) (s : State) : Result := rangingStep t s <|
  let x := s.alloc t a
  let i := allocAt t a
  let k := s.get ALLOC.SET i
  match x.deallocDue with
  | some (n, id) =>
    .next (s.ploamPush t k { kind := .assignAllocId, onuId := s.onuId t n, content := beBytes 2 id ++ [255] }
      |>.modAlloc t a (fun y => { y with deallocDue := none }) |>.stepMade t n .assignAllocId)
  | none =>
    if x.assignDue then
      .next (s.ploamPush t k { kind := .assignAllocId, onuId := s.onuId t (s.get ALLOC.TERMINAL i), content := beBytes 2 (s.get ALLOC.ALLOC_ID i) ++ [1] }
        |>.modAlloc t a (fun y => { y with assignDue := false, sending := some (s.get ALLOC.TERMINAL i, s.get ALLOC.ALLOC_ID i) }) |>.stepMade t (s.get ALLOC.TERMINAL i) .assignAllocId)
    else .next s

/-- A correction has gone to its terminal in frame `n` (R136): the delay is moved, counted, and the bursts of the two upstream frames after it are ignored. -/
def State.corrected (t m n : Nat) (s : State) : State :=
  match (s.term t m).fix with
  | none => s
  | some fix => s.setRtd t m (((s.term t m).rtd : Int) - fix).toNat |>.rngCnt t 5 1
      |>.modTerm t m fun y => { y with fix := none, drifts := [], driftFrom := some ((n + 3) % 2 ^ 32) }

/-- A sent message takes effect: an absolute Ranging_Time puts its terminal in OPERATION (R135), an assignment is known to its terminal (R415). -/
def State.ploamSent (t k : Nat) (m : Ploam) (s : State) : State :=
  match m.kind with
  | .rangingTime =>
    let holder := fun (state : Nat) => (List.range 256).find? fun n =>
      s.rngState t n == state && s.get TREE_RNG_TERM.SET (termAt t n) == k && s.onuId t n == m.onuId
    if m.content.headD 0 = 1 then
      match holder 3 with
      | some n => s.enterOperation t n
      | none => s
    else
      match holder 4 with
      | some n => s.corrected t n (s.setOf t k).dsFrame
      | none => s
  | .assignAllocId =>
    if m.content.getD 2 0 = 1 then
      let id := m.content.getD 0 0 * 256 + m.content.getD 1 0
      ((s.allocs.filter fun e => e.1.n == t && e.2.sending.any fun p => p.2 == id && s.onuId t p.1 == m.onuId).map fun e => e.1.i).foldl
        (fun (s : State) a => s.modAlloc t a fun x => { x with assigned := x.sending, sending := none }) s
    else s
  | _ => s

/-- A step is abandoned (R132): the terminal's state decides what becomes of it; of one in OPERATION the due work of the step is dropped. -/
def State.abandonStep (t n : Nat) (step : RngStep) (s : State) : State :=
  let s := s.raiseTree t 4
  match s.rngState t n with
  | 1 => s.dropDetection t (s.term t n).detection |>.freeTerm t n
  | 2 => s.freeTerm t n
  | 3 => s.loseTerm t n
  | _ =>
    let s := s.stepMade t n step
    if step = .assignAllocId then s.dropAssignments t n
    else if step = .rangingTime then s.modTerm t n fun x => { x with fix := none }
    else s

/-- STEP_MISSED (R132): a Tweed step missed its frame; after RETRY_MAX misses of it in a row it is abandoned. -/
def execStepMissed (t : Nat) (terminal : Option Nat) (step : RngStep) (s : State) : Result := rangingStep t s <|
  let s := s.rngCnt t 9 1
  let limit := s.get TREE_RNG_CTRL.RETRY_MAX t
  match terminal with
  | none =>
    let misses := (s.tree t).misses + 1
    .next (if misses < limit then s.modTree t fun x => { x with misses := misses } else s.modTree t (fun x => { x with misses := 0 }) |>.raiseTree t 4)
  | some n =>
    let misses := (((s.term t n).misses.find? fun e => e.1 == step).map fun e => e.2).getD 0 + 1
    let s := s.stepMade t n step |>.modTerm t n fun x => { x with misses := x.misses ++ [(step, misses)] }
    .next (if misses < limit then s else s.abandonStep t n step)

/-! ### Drift, loss and rogues (R136 to R138) -/

/-- The drift of a VALID burst of a terminal in OPERATION kept for R136, unless a correction is on its way or its frame is still ignored. -/
def State.noteDrift (t n frame rate : Nat) (drift : Int) (s : State) : State :=
  s.modTerm t n fun x =>
    let wait : Bool := match x.driftFrom with
      | some f => 2 ^ 31 ≤ wrapSub 32 frame f
      | none => false
    if wait || x.fix.isSome then x else { x with drifts := (drift :: x.drifts).take 16, driftFrom := none, rate := rate }

/-- The nearest integer to a 16th, halves up. -/
def round16 (v : Int) : Int := (v + 8) / 16

/-- DRIFT_CORRECTION (R136): the sum of the last drifts, 16 or as many as have come, has reached 16 × DRIFT_STEP (log entry 19). The delay moves when the
message goes. -/
def execDriftCorrection (t n : Nat) (s : State) : Result := rangingStep t s <|
  let x := s.term t n
  let sum := x.drifts.sum
  let k := s.get TREE_RNG_TERM.SET (termAt t n)
  if s.rngState t n ≠ 4 || x.fix.isSome || sum.natAbs < 16 * s.get TREE_RNG_CTRL.DRIFT_STEP t then .next s
  else
    let fix := twillSymbols x.rate (-round16 sum)
    let told := if s.twill t k then fix else Config.stdDelta k fix
    .next (s.modTerm t n (fun y => { y with drifts := [], fix := some fix }) |>.stepMade t n .rangingTime
      |>.ploamPush t k { kind := .rangingTime, onuId := s.onuId t n, content := rangingTime false told })

/-- TERMINAL_LOST (R137): loss of burst declared for LOST_TIME × 10 ms without a break. -/
def execTerminalLost (t n : Nat) (s : State) : Result := rangingStep t s <|
  if s.rngState t n = 4 && s.flag TREE_DEF_TERM.LOB (termAt t n) then .next (s.loseTerm t n |>.raiseTree t 4) else .next s

/-- A MISDIRECTED burst that names terminal `m` in OPERATION (R138). -/
def State.rogueBurst (t m : Nat) (s : State) : State :=
  if s.standbyFor t then s else
  let now := s.nowNs
  let x := s.term t m
  let times := (now :: x.rogueTimes).filter fun z => now - z < 10 ^ 9
  let again : Bool := match x.rogueAt with
    | some z => now - z ≤ 10 ^ 10
    | none => false
  if again then s.sendDeactivate t m |>.loseTerm t m |>.raiseTree t 4 |>.modTerm t m fun y => { y with rogueTimes := [], rogueAt := none }
  else if times.length < 4 then s.modTerm t m fun y => { y with rogueTimes := times }
  else
    s.put TREE_RNG_STATUS.ROGUE t 1 |>.put TREE_RNG_STATUS.ROGUE_TERMINAL t m |>.raiseTree t 4 |>.rangeAgain t m
      |>.modTerm t m fun y => { y with rogueTimes := [], rogueAt := some now }

/-! ### Host commands (R139) -/

/-- The result of a host command. -/
def State.rngResult (t r : Nat) (s : State) : State := s.put TREE_RNG_STATUS.CMD_RESULT t r

/-- A host command of the ranging logic; a standby, which never invites, admits or corrects (Table 14.7), answers BAD_STATE (log entry 26). -/
def hostStep (t : Nat) (s : State) (r : Result) : Result := if s.standbyFor t then .next (s.rngResult t 1) else tellRanging t s r

/-- ADMIT (R139): SN_FOUND, an ONU-ID of 0 to 1,015 that no other terminal of the set holds. -/
def execAdmit (t n id : Nat) (s : State) : Result := hostStep t s <|
  if s.rngState t n ≠ 2 then .next (s.rngResult t 1)
  else if 1015 < id then .next (s.rngResult t 4)
  else if s.onuIdTaken t (s.get TREE_RNG_TERM.SET (termAt t n)) n id then .next (s.rngResult t 3)
  else .next (s.admitTerm t n id |>.rngResult t 0)

/-- DENY (R139, R134): SN_FOUND; Deactivate_ONU-ID to a terminal found by Chiffon, and the index FREE. -/
def execDeny (t n : Nat) (s : State) : Result := hostStep t s <|
  if s.rngState t n ≠ 2 then .next (s.rngResult t 1) else .next (s.sendDeactivate t n |>.freeTerm t n |>.rngResult t 0)

/-- RERANGE (R139, R137): OPERATION or LOST. -/
def execRerange (t n : Nat) (s : State) : Result := hostStep t s <|
  if s.rngState t n = 4 || s.rngState t n = 5 then .next (s.rangeAgain t n |>.rngResult t 0) else .next (s.rngResult t 1)

/-- DEACTIVATE (R139): any state but FREE; a terminal not yet admitted leaves its index FREE, another becomes LOST (log entry 19). -/
def execDeactivate (t n : Nat) (s : State) : Result := hostStep t s <|
  match s.rngState t n with
  | 0 => .next (s.rngResult t 1)
  | 1 => .next (s.sendDeactivate t n |>.dropDetection t (s.term t n).detection |>.freeTerm t n |>.rngResult t 0)
  | 2 => .next (s.sendDeactivate t n |>.freeTerm t n |>.rngResult t 0)
  | _ => .next (s.sendDeactivate t n |>.loseTerm t n |>.rngResult t 0)

/-- FREE (R139): LOST. -/
def execFree (t n : Nat) (s : State) : Result := hostStep t s <|
  if s.rngState t n = 5 then .next (s.freeTerm t n |>.rngResult t 0) else .next (s.rngResult t 1)

end Sys2Proof.Machine
end

