-- ==== Sys2Proof/Machine/Framing.lean ====
section
/-!
DEFINITION. Downstream framing (chapter 4): the start of a frame with its map, messages, stamp and containers, the sampling of the PLOAM ring,
late maps and underruns.
-/

namespace Sys2Proof.Machine

/-- A framing event: bit `f` of TREE_FRM_STATUS and source FRAMING (Table 15.4). -/
def State.framing (f : Field) (t : Nat) (s : State) : State := s.put f t 1 |>.raiseTree t 2

/-- The die runs below the speed floor (R25, R371): its governor's speed fault. -/
def State.speedFault (d : Nat) (s : State) : State := s.put SEG_GOV_STATUS.SPEED_FAULT d 1 |>.raise d 2272

/-- A tree counter (Table 4.17). -/
def State.treeCnt (t k n : Nat) (s : State) : State := s.bump TREE_CNT.COUNT (t * 8 + k) n

/-- The number of the downstream frame of a tree that begins now: network time less the tree's phase offset, and plus TAU on a protected
tree of a standby, or of the active that it became (R32, R328). The command comes at a frame boundary, so the nearest one counts. -/
def State.frameNow (s : State) (t : Nat) : Nat :=
  let tau : Int := if s.standbyFor t || (s.pair.tauHeld && (s.tree t).shared) then toSigned 32 (s.get PEER_TIME.TAU 0) * 1000 / 256 else 0
  let ps : Int := (s.nowNs * 1000 : Nat) + tau - toSigned 24 (s.get PEER_TREE.DS_OFFSET_PS t)
  ((ps + 62500000) / 125000000 % 2 ^ 32).toNat

/-- The code of a set's line mode (Table 4.1): 0 Twill, 1 50G-PON, 2 XGS-PON. -/
def State.lineCode (s : State) (t k : Nat) : Nat := if k = 1 then 2 else if s.twill t k then 0 else 1

/-- Symbols of a downstream frame of a set, and the line bits in each (R70, R65). -/
def frameSymbols (code : Nat) : Nat := if code = 2 then 1244160 else 6220800

/-- The frame being sent ends (R91, R93): its line is complete, with what the injector did to it, and its levels have left if its transmitter is lit. XGEM
frames that no longer fit begin the next frame (log entry 61). -/
def State.closeFrame (t k : Nat) (s : State) : State :=
  let x := s.setOf t k
  match x.head with
  | none => s
  | some h =>
    let code := s.lineCode t k
    let (now, later) := fitFrames (infoBytes code - Config.fsTrailerBytes - h.header.length) x.body
    let bits := injectBits x.flips (frameBits code h.count (fsFrame code h.header now) h.stamp)
    let four := code == 0
    let levels := injectLevels four x.flips (if four then fourLevels bits else nrzLevels bits)
    s.modSet t k (fun y => { y with head := none, body := later, flips := [] }) |>.emitTree t k (.line t k h.frame levels)

/-- A frame's head is held while it is sent; the superframe count of the PSBd goes on by one (R93). -/
def State.openFrame (t k n : Nat) (structs : List Nat) (ploam : List Ploam) (stamp : Option Nat) (s : State) : State :=
  s.modSet t k fun x =>
    { x with head := some ⟨n, x.count, Config.fsHeader (s.lineCode t k) structs ploam, stamp⟩, count := (x.count + 1) % 2 ^ 51 }

/-- A frame's time of a tree in test (R85, R86): the generator drives the transmitter of its set with its pattern, mapped as line bits are; on Twill the
precoder follows PRECODE and runs on from the generator's start. -/
def State.testFrame (t k n : Nat) (s : State) : State :=
  let p := s.get TREE_PAT_CTRL.GEN_PATTERN t
  if s.get TREE_PAT_CTRL.GEN_SET t ≠ k || p = 0 || 4 < p then s
  else
    let code := s.lineCode t k
    let four := code == 0
    let g := (s.tree t).gen.getD (patStart p)
    let (bits, g') := patternRun p (s.get TREE_PAT_USER.PATTERN t) (frameSymbols code * if four then 2 else 1) g
    let flips := (s.setOf t k).flips
    let bits := injectBits flips bits
    let ps := if s.flag TREE_PAT_CTRL.PRECODE t then precode g.prev (grayIndices bits) else grayIndices bits
    let levels := injectLevels four flips (if four then ps.map levelOf else nrzLevels bits)
    s.modTree t (fun x => { x with gen := some { g' with prev := ps.getLastD 0 } }) |>.modSet t k (fun x => { x with flips := [] })
      |>.emitTree t k (.line t k n levels)

/-- The frame stamp of a Twill frame (Table 4.3). A protected tree names the pair (R327). -/
def State.frameStamp (s : State) (t : Nat) (m : Map) : Nat :=
  let device := if (s.tree t).shared then s.get PEER_CTRL.PAIR_DEVICE 0 else s.get PKG_IDENT.DEVICE_ID 0
  let quiet := m.grants.any fun g => g.kind == .quiet
  let profiles := (List.range 4).foldl (fun v p => v + m.profiles.getD p 0 % 2 ^ 14 * 2 ^ (58 - 14 * p)) 0
  let body := m.frame % 2 ^ 32 * 2 ^ 96 + device % 1024 * 2 ^ 86 + t % 64 * 2 ^ 80 + ofBool quiet * 2 ^ 72
    + s.get TREE_RNG_CTRL.CHIFFON_EN t * 2 ^ 73 + profiles
  0x9E3B51C628F4D70A * 2 ^ 128 + body + crc16 112 (body / 2 ^ 16)

/-- Insertion by line port (R171). -/
def insertByPort (o : CircOut) : List CircOut → List CircOut
  | [] => [o]
  | x :: rest => if o.port < x.port then o :: x :: rest else x :: insertByPort o rest

/-- A container sent as one SDU of its line port, fragmented as its length needs, and counted where it leaves (R171, R185). -/
def State.sendContainer (t k : Nat) (s : State) (o : CircOut) : State :=
  let f : Frame := { bytes := o.bytes, length := o.bytes.length, domain := o.domain, tree := t, set := k, linePort := o.port }
  let s' := s.sendRest f f.bytes |>.passBytes (dieOf t) (2 * (t % 8) + k) o.bytes.length
  if s.get (txState k) t = 2 && (s.setOf t k).body.length < (s'.setOf t k).body.length then s'.circCnt o.circuit 0 1 else s'

/-- The containers of frame N leave in ascending order of line port, directly behind the FS header and the messages (R171). -/
def State.sendContainers (t k n : Nat) (s : State) : State :=
  let due := (s.setOf t k).containers.filter fun o => o.frame == n
  let waiting := (s.setOf t k).body
  let s := s.modSet t k fun x => { x with body := [], containers := x.containers.filter fun o => wrapSub 32 o.frame n < 2 ^ 31 && o.frame != n }
  let s := (due.foldl (fun l o => insertByPort o l) []).foldl (fun s o => State.sendContainer t k s o) s
  s.modSet t k fun x => { x with body := x.body ++ waiting }

/-- Key work of a tree at the start of its frame, once for each frame number (R33, R260). -/
def State.keysAt (t n : Nat) (s : State) : State :=
  if s.keyFrame.get ⟨t, 0⟩ 0 = n + 1 then s else { s with keyFrame := s.keyFrame.set ⟨t, 0⟩ 0 (n + 1) }.keyBoundary t n

/-- INDEX of every line port of a set starts again with the frame (R256). -/
def State.restartIndex (t k : Nat) (up : Bool) (s : State) : State :=
  { s with xgemIndex := s.xgemIndex.filter fun e => !(e.1.n == 2 * t + ofBool up && s.get LPORT.SET (lpAt t e.1.i) == k) }

/-- The numbers of the frame being sent and of the upstream frame being received, which begins 750 µs after its downstream frame (R111). -/
def State.countFrame (t k n : Nat) (s : State) : State :=
  s.modSet t k fun x =>
    if n = (x.dsFrame + 1) % 2 ^ 32 then { x with dsFrame := n }
    else { x with dsFrame := n, upFrame := wrapSub 32 n 6, counted := false, lit := false }

/-- Frame N of a set sent (R94): the rest of a frame that was started (R25), key work, containers, map, messages, stamp and counters. -/
def State.sendFrame (t k n : Nat) (s : State) : State :=
  let s := s.endSending t k |>.closeFrame t k |>.countFrame t k n |>.restartIndex t k false |>.keysAt t n |>.countStarved t k
  let x := s.setOf t k
  let m : Map := (x.maps.find? fun m => m.frame == n).getD { frame := n, empty := true, profiles := s.profileWords t }
  let s := s.modSet t k fun x => { x with maps := x.maps.filter (fun m => wrapSub 32 m.frame n < 2 ^ 31 && m.frame != n), sampled := [], took := false }
  let s := x.sampled.foldl (fun (s : State) m => s.ploamSent t k m) s
  let structs := m.grants.map fun g => s.structWord t k g
  let stamp := if s.twill t k then some (s.frameStamp t m) else none
  let s := s.emitTree t k (.dsFrame t k n structs x.sampled stamp) |>.openFrame t k n structs x.sampled stamp |>.sendContainers t k n
  if s.get (txState k) t = 2 then
    s.treeCnt t 0 1 |>.treeCnt t 3 x.sampled.length |>.treeCnt t 7 (dsCodewords (s.lineCode t k))
  else s

/-- On a standby, at the start of frame N: its own build of N + 1 is used where no mirrored map of it has come (Table 14.7). -/
def State.shadowUsed (t k n : Nat) (s : State) : State :=
  if !s.standbyFor t then s
  else
    let s := if s.pair.mirrored.contains (t, k, (n + 1) % 2 ^ 32) then s else s.peerCnt 3 1
    s.modPair fun p => { p with mirrored := p.mirrored.filter fun x => !(x.1 == t && x.2.1 == k) || 2 ^ 31 ≤ wrapSub 32 n x.2.2 }

/-- DOWNSTREAM_FRAME_START (R94): network time reaches `at0`, the start of a downstream frame of the set; the framer of a tree that is not
OFF sends the frame, or builds it unsent while its transmitter is dark or muted. -/
def execDownstreamFrameStart (t k : Nat) (at0 : NetTime) (s : State) : Result :=
  tellRanging t s <|
  let s := s.setTime at0.sec at0.frac
  let n := s.frameNow t
  if !(s.liveSets t).contains k || s.get DMK_TREE_STATE.STATE t = 0 then .next s
  else if (s.tree t).test then .next (s.testFrame t k n)
  else .next (s.shadowUsed t k n |>.sendFrame t k n)

/-- TX_DARK_AT_SHUTDOWN (R72): a tree in SHUTTING is dark behind the last frame whose map was delivered. -/
def execTxDarkAtShutdown (t : Nat) (s : State) : Result :=
  .next (if s.get DMK_TREE_STATE.STATE t = 3 then
    s.closeFrame t 0 |>.closeFrame t 1 |>.darken t |>.modTree t fun x => { x with txShut := true } else s)

/-- PLOAM_RING_SAMPLE (R94): up to 4 messages of the ring are taken for the next frame, those that go in one frame together (R135); a standby sends none
(R329). -/
def execPloamRingSample (t k : Nat) (s : State) : Result :=
  if s.standbyFor t then .next s
  else .next (s.modSet t k fun x =>
    let n := sampleCount x.ploamDown (4 - x.sampled.length)
    { x with sampled := x.sampled ++ x.ploamDown.take n, ploamDown := x.ploamDown.drop n, took := true })

/-- The map of frame N of a set goes empty (R161): its contexts are gone and its units return. -/
def State.emptyMap (t k n : Nat) (s : State) : State :=
  let old : Option Map := (s.setOf t k).maps.find? fun m => m.frame == n
  let m : Map := { frame := n, empty := true, profiles := (old.map fun m => m.profiles).getD (s.profileWords t) }
  let s := s.modSet t k fun x => { x with maps := (x.maps.filter fun m => m.frame != n) ++ [m] }
  let s := s.dropContexts t k n
  ((old.map fun m => m.grants).getD []).foldl (fun s g => State.returnGrant t n s g) s

/-- LATE_MAP (R23, R161): the map of the frame after the one being sent is not complete in the slice; an empty one goes in its place. -/
def execLateMap (t k : Nat) (s : State) : Result :=
  let n := ((s.setOf t k).dsFrame + 1) % 2 ^ 32
  let s := s.emptyMap t k n
  let d := dieOf t
  let flags := (s.devRead d (s.recordAt t k n + 4) 1).headD 0
  .next (s.grantCnt t 13 1 |>.devWrite d (s.recordAt t k n + 4) [setBit flags 1] |>.treeCnt t 1 1 |>.framing TREE_FRM_STATUS.LATE_MAP t)

/-- DS_UNDERRUN (R25): the FIFO is empty; idle encapsulation fills the codeword, and a cut-through frame that was started ends as a fragment behind the
`come` bytes of it that had come. -/
def execDsUnderrun (t k come : Nat) (s : State) : Result :=
  .next (s.treeCnt t 2 1 |>.framing TREE_FRM_STATUS.DS_UNDERRUN t |>.speedFault (dieOf t) |>.cutSending t k come)

end Sys2Proof.Machine
end

