-- ==== Sys2Proof/Machine/Bursts.lean ====
section
/-!
DEFINITION. Upstream bursts (chapters 3, 4, 11): threshold learning (R81), the delimiter search (R100), outcomes (R102, R103), defect runs (R105),
and the XGEM frames of a VALID burst with their keys, checks and sequence tags (R255 to R259, R272, R331).
-/

namespace Sys2Proof.Machine

/-! ### The preamble (R81) -/

/-- A burst of four levels, as RATE of its context says (Table 3.6). -/
def fourRate (c : BurstCtx) : Bool := c.rate == 0

/-- The values of the last 64 preamble symbols (R97; the recommendation's preamble on a standard set). -/
def preambleTail (c : BurstCtx) : List Nat :=
  if fourRate c then preambleSymbols 64 else (Config.stdPreamble c.rate c.delim).map fun b => if b then 3 else 0

/-- The measured means of a burst's levels. -/
def burstMeans (c : BurstCtx) (b : Burst) : List LevelSum := levelSums (fourRate c) (preambleTail c) b.pre

/-- The measured levels teach thresholds: they rise strictly over a span of at least 256. -/
def burstAccepted (c : BurstCtx) (b : Burst) : Bool := levelsAccepted (burstMeans c b)

/-- The thresholds in force for a context's format: three, or the middle one alone. -/
def usedThresholds (c : BurstCtx) (th : List Nat) : List Nat := if fourRate c then th else [th.getD 1 0]

/-- The thresholds that decide a burst's symbols (R81): those of its own preamble, or those it was acquired with. -/
def burstThresholds (l : Loaded) (b : Burst) : List Nat :=
  if burstAccepted l.ctx b then levelThresholds (burstMeans l.ctx b) else usedThresholds l.ctx l.th

/-- The preamble of a burst measured: a rejected measurement is counted. -/
def State.measure (t : Nat) (c : BurstCtx) (b : Burst) (s : State) : State :=
  if burstAccepted c b then s else s.addSat TREE_OPT_DET.LEARN_REJECT_COUNT t 1

/-- The fields of a terminal that a burst's thresholds teach. -/
def taughtFields (c : BurstCtx) : List Field :=
  if fourRate c then [TREE_RX_TERM.TH_LOW, TREE_RX_TERM.TH_MID, TREE_RX_TERM.TH_HIGH] else [TREE_RX_TERM.TH_MID]

/-- The learned state of terminal `n` moves a quarter step toward the thresholds of a decoded burst, or takes them (R81). The RLM of an NRZ
burst is not stated: a free value (log entry 20). -/
def State.learn (t n : Nat) (c : BurstCtx) (b : Burst) (s : State) : State :=
  let i := termAt t n
  let means := burstMeans c b
  let valid := s.flag TREE_RX_TERM.VALID i
  let s := ((taughtFields c).zip (levelThresholds means)).foldl (fun (s : State) e =>
    let old : Int := s.get e.1 i
    s.put e.1 i (if valid then (old + Int.tdiv ((e.2 : Int) - old) 4).toNat else e.2)) s
  let s := s.put TREE_RX_TERM.VALID i 1 |>.put TREE_RX_TERM.RX_POWER i b.power |>.put TREE_RX_TERM.SNR i (levelSnr b.pre means)
  match levelRlm means with
  | some r => s.put TREE_RX_TERM.RLM i r
  | none => s.put TREE_RX_TERM.RLM i s.free |>.useFree

/-- Whether a burst teaches its terminal: accepted, no codeword of it uncorrectable, and not barred by its context or by LEARN_FREEZE. Of a burst under FEC
some codeword was decoded at all (log entry 20). -/
def State.teaches (s : State) (t : Nat) (c : BurstCtx) (b : Burst) : Bool :=
  burstAccepted c b && (!c.fec || 0 < b.codewords) && b.uncorrectable == 0 && !c.noLearn && !s.flag TREE_OPT_CTRL.LEARN_FREEZE t

/-! ### The delimiter search and the outcome (R100 to R103) -/

/-- The outcome of a granted burst (Table 4.8). -/
inductive BurstOutcome where
  | lost
  | stampFail
  /-- The terminal that the stamp or header names; none where no terminal is bound to its ONU-ID. -/
  | misdirected (terminal : Option Nat)
  | valid (drift : Int)
  deriving DecidableEq, Repr

/-- The half-width of the search: the window of a micro-window or directed ranging grant (R119, R130); 24,883 symbols while a standby calibrates (R328);
else the context's window, kept within 4 to 64 (R100). -/
def State.searchWindow (s : State) (t : Nat) (c : BurstCtx) : Nat :=
  if c.ranging then c.window
  else if (s.tree t).calib.isSome then 24883 else min (max c.window 4) 64

/-- The delimiter that a burst's profile names, as symbol values (R98, R103). -/
def burstDelimiter (c : BurstCtx) : List Nat :=
  if fourRate c then delimiterSymbols c.delim else (Config.stdDelimiter c.rate c.delim).map fun b => if b then 3 else 0

/-- The most mismatches of a candidate: 6, or ⌊6 × L / 64⌋ of a standard delimiter of L bits (R100, R103). -/
def mismatchLimit (c : BurstCtx) : Nat := if fourRate c then 6 else 6 * (burstDelimiter c).length / 64

/-- The symbols of a burst as its thresholds decide them, from the first position searched on (R81). -/
def decided (l : Loaded) (b : Burst) : List Nat := b.samples.map fun x => decideSymbol (burstThresholds l b) x

/-- The mismatches at every position of a burst's search window (R100). -/
def burstPositions (w : Nat) (l : Loaded) (b : Burst) : List (Int × Nat) :=
  windowMismatches w (burstDelimiter l.ctx) (2 * w + 1) (decided l b)

/-- The symbols behind the delimiter of a candidate at `drift`. -/
def behindDelimiter (w : Nat) (l : Loaded) (b : Burst) (drift : Int) : List Nat :=
  (decided l b).drop (((w : Int) + drift).toNat + (burstDelimiter l.ctx).length)

/-- The 64 bits of the burst stamp behind a candidate: 32 symbols, decoded from the delimiter's last symbol on (R69, R99). -/
def stampBehind (w : Nat) (l : Loaded) (b : Burst) (drift : Int) : Nat :=
  let last := (decided l b).getD (((w : Int) + drift).toNat + 63) 0
  bitsValue ((unprecode last ((behindDelimiter w l b drift).take 32)).flatMap grayPair)

/-- A burst stamp judged (R102): its CRC, then its identity fields against the context's. -/
def judgeStamp (c : BurstCtx) (stamp : Nat) (drift : Int) : BurstOutcome :=
  if crc16 48 (stamp / 2 ^ 16 % 2 ^ 48) ≠ stamp % 2 ^ 16 then .stampFail
  else if bits stamp 56 8 = c.terminal && bits stamp 40 16 = c.frame % 2 ^ 16 && bits stamp 31 9 = c.grantIndex then .valid drift
  else .misdirected (some (bits stamp 56 8))

/-- The terminal of a set to which an ONU-ID is bound; one found in a quiet window and not admitted has none yet (R103). -/
def State.boundTo (s : State) (t k id : Nat) : Option Nat :=
  (List.range 256).find? fun n =>
    s.rngState t n != 0 && s.get TREE_RNG_TERM.SET (termAt t n) == k && s.onuId t n == id
      && !(s.rngState t n == 2 && s.get TREE_RNG_TERM.METHOD (termAt t n) == 0)

/-- What stands behind the candidate, judged: the burst stamp on a Twill set (R99, R102), the burst header on a standard set (R103). -/
def State.identify (s : State) (t k w : Nat) (l : Loaded) (b : Burst) (drift : Int) : BurstOutcome :=
  if s.twill t k then judgeStamp l.ctx (stampBehind w l b drift) drift
  else
    match Config.burstHeader l.ctx.rate ((behindDelimiter w l b drift).map fun p => p == 3) with
    | none => .stampFail
    | some id => if id = s.onuId t l.ctx.terminal then .valid drift else .misdirected (s.boundTo t k id)

/-- The outcome of a burst that is not lost by the part. -/
def State.outcome (s : State) (t k : Nat) (l : Loaded) (b : Burst) : BurstOutcome :=
  let w := s.searchWindow t l.ctx
  match search w (mismatchLimit l.ctx) (burstPositions w l b) with
  | none => .lost
  | some drift => s.identify t k w l b drift

/-! ### Micro-windows and directed ranging grants (R119, R130) -/

/-- What the ranging logic finds in a ranging grant: in a micro-window a VALID burst, its stamp checked; in a directed ranging grant the best candidate of
its span. The drift is in Twill symbols. -/
def State.rangeFound (s : State) (t k : Nat) (l : Loaded) (b : Burst) : RangeResult :=
  if l.ctx.noLearn then
    match s.outcome t k l b with
    | .valid drift => .found (twillSymbols l.ctx.rate drift) b.serial
    | _ => .nothing
  else
    match bestOf (mismatchLimit l.ctx) (burstPositions l.ctx.window l b) with
    | some drift => .found (twillSymbols l.ctx.rate drift) b.serial
    | none => .nothing

/-- What was found in a ranging grant of a terminal kept until its result is asked for; a quiet window's bursts come by themselves (R119). -/
def State.noteRange (t k : Nat) (c : BurstCtx) (r : RangeResult) (s : State) : State :=
  if c.window = 0xFFFF then s else s.modSet t k fun x => { x with ranged := (x.ranged.filter fun e => e.1 != c.terminal) ++ [(c.terminal, r)] }

/-! ### The residual's bursts (R124) -/

/-- The values of a Twill burst's symbols as its corrected bits, encoded again and precoded, give them: preamble, delimiter, stamp, FS burst. -/
def spanSymbols (c : BurstCtx) (stamp : Nat) (line : List Bool) : List Nat :=
  let front := preambleSymbols c.preamble ++ burstDelimiter c
  front ++ precode (front.getLastD 0) (grayIndices (wordBits 64 stamp ++ line))

/-- A received burst noted for the residual of its frame. -/
def State.noteSpan (t k : Nat) (l : Loaded) (b : Burst) (s : State) : State :=
  if !s.twill t k || !s.flag TREE_RNG_CTRL.CHIFFON_EN t then s
  else
    let c := l.ctx
    let w := s.searchWindow t c
    let o : Option Int := match if c.window = 0xFFFF then .lost else s.outcome t k l b with
      | .valid drift => some drift
      | _ => none
    let counts := o.isSome && b.uncorrectable == 0
    let drift := o.getD 0
    let x : Span := { first := (c.start : Int) + drift, stop := (c.start : Int) + drift + c.length, counts := counts, gain := l.gain,
                      means := burstMeans c b,
                      symbols := if counts then spanSymbols c (stampBehind w l b drift) b.line else [] }
    s.modSet t k fun y => { y with spans := y.spans ++ [x] }

/-- The level that a symbol of a burst stands for: the burst's measured mean of it. -/
def Span.level (x : Span) (n : Int) : Rat :=
  let m := x.means.getD (x.symbols.getD (n - x.first).toNat 0) ⟨0, 1⟩
  (m.sum : Rat) / m.count

/-- The residual of one sample (R124), `gain` the avalanche gain code in use between bursts; none where it is excluded: in a burst that does not count, or
in the 257 symbols of the fast reset behind a burst. -/
def residualAt (spans : List Span) (gain : Nat) (dark : Rat) (n : Int) (x : Nat) : Option Rat :=
  match spans.find? fun p => p.first ≤ n && n < p.stop with
  | some p => if p.counts then some ((x : Rat) / Config.avalancheGain p.gain - p.level n / Config.avalancheGain p.gain) else none
  | none => if spans.any fun p => p.stop ≤ n && n < p.stop + 257 then none else some ((x : Rat) / Config.avalancheGain gain - dark)

/-- The residual of a frame's samples (R124). The gain in use between bursts is that of the burst before (log entry 64). -/
def residual (spans : List Span) (dark : Rat) (samples : List Nat) : List (Option Rat) :=
  samples.mapIdx fun n x =>
    let before := (spans.filter fun p => p.stop ≤ (n : Int)).getLast?
    residualAt spans ((before.map fun p => p.gain).getD ((spans.head?.map fun p => p.gain).getD 0)) dark n x

/-- The residual of a frame measured (R124, Table 5.9): RES_RMS over the samples not excluded, EXCLUDED, and its half-chips, kept for the 14 frames that a
search may span. -/
def State.noteResidual (t : Nat) (samples : List Nat) (s : State) : State :=
  let x := s.setOf t 0
  let r := residual x.spans (Config.darkLevel t x.upFrame) samples
  let heard := r.filterMap id
  let square := (heard.map fun v => v * v).sum
  let rms := isqrt (256 * square / heard.length).floor.toNat
  s.put TREE_RNG_STATUS.RES_RMS t (min 65535 rms) |>.put TREE_RNG_STATUS.EXCLUDED t ((r.length - heard.length) * 100 / r.length)
    |>.modSet t 0 fun y => { y with spans := [], chips := (halfChips r :: y.chips).take 14 }

/-! ### Runs and counters (R104, R105, Table 4.18) -/

/-- A terminal counter. -/
def State.termCnt (t n k v : Nat) (s : State) : State := s.bump TREE_TCNT.COUNT (termAt t n * 16 + k) v

/-- A run raised by one, saturating at 15 (Table 4.15). -/
def State.stepRun (f : Field) (i : Nat) (s : State) : State := s.addSat f i 1

/-- A counted grant that ended LOST. -/
def State.runLost (t n : Nat) (s : State) : State :=
  let i := termAt t n
  let s := s.stepRun TREE_DEF_TERM.LOB_RUN i |>.modTerm t n fun x => { x with lobOk := 0, lodOk := 0 }
  if s.get TREE_FRM_CTRL.LOB_N t ≤ s.get TREE_DEF_TERM.LOB_RUN i then s.setRaw i 0 true else s

/-- A burst was delineated: the second in a row clears loss of burst. -/
def State.runHeard (t n : Nat) (s : State) : State :=
  let i := termAt t n
  let ok := min 2 ((s.term t n).lobOk + 1)
  let s := s.put TREE_DEF_TERM.LOB_RUN i 0 |>.modTerm t n fun x => { x with lobOk := ok }
  if ok = 2 then s.setRaw i 0 false else s

/-- A counted grant that ended STAMP_FAIL or MISDIRECTED. -/
def State.runBad (t n : Nat) (s : State) : State :=
  let i := termAt t n
  let s := s.runHeard t n |>.stepRun TREE_DEF_TERM.LOD_RUN i |>.modTerm t n fun x => { x with lodOk := 0 }
  if 4 ≤ s.get TREE_DEF_TERM.LOD_RUN i then s.setRaw i 1 true else s

/-- The drift-of-window runs of a VALID burst. -/
def State.runDrift (t n : Nat) (drift : Int) (s : State) : State :=
  let i := termAt t n
  let limit := s.get TREE_FRM_CTRL.DRIFT_LIMIT t
  let bad := if limit < drift.natAbs then min 2 ((s.term t n).dowBad + 1) else 0
  let good := if drift.natAbs ≤ limit / 2 then min 4 ((s.term t n).dowGood + 1) else 0
  let s := s.modTerm t n fun x => { x with dowBad := bad, dowGood := good }
  if bad = 2 then s.setRaw i 2 true else if good = 4 then s.setRaw i 2 false else s

/-- A counted grant that ended VALID. -/
def State.runValid (t n : Nat) (drift : Int) (s : State) : State :=
  let i := termAt t n
  let ok := min 2 ((s.term t n).lodOk + 1)
  let s := s.runHeard t n |>.put TREE_DEF_TERM.LOD_RUN i 0 |>.modTerm t n fun x => { x with lodOk := ok }
  let s := if ok = 2 then s.setRaw i 1 false else s
  s.runDrift t n drift |>.put TREE_DEF_TERM.LAST_DRIFT i (ofSigned 8 (max (-128) (min 127 drift)))

/-- Bits of the codewords of a burst as sent: on Twill 512 × slots − 64 (Table 4.18). -/
def State.codedBits (s : State) (t k : Nat) (c : BurstCtx) (b : Burst) : Nat :=
  if s.twill t k then 512 * ((c.length - c.preamble - 64) / 256) - 64 else b.codedBits

/-- The counters of the codewords of a VALID burst. -/
def State.countCodewords (t k : Nat) (c : BurstCtx) (b : Burst) (s : State) : State :=
  s.termCnt t c.terminal 4 b.codewords |>.termCnt t c.terminal 5 (s.codedBits t k c b) |>.termCnt t c.terminal 6 b.corrected
    |>.termCnt t c.terminal 7 b.uncorrectable

/-! ### Drifts that a standby measures (R328) -/

/-- Insertion in rising order. -/
def insertInt (v : Int) : List Int → List Int
  | [] => [v]
  | x :: rest => if v ≤ x then v :: x :: rest else x :: insertInt v rest

/-- Twice the median of 16 values: the sum of the two middle ones. -/
def twiceMedian (vs : List Int) : Int :=
  let sorted := vs.foldl (fun l v => insertInt v l) []
  sorted.getD 7 0 + sorted.getD 8 0

/-- A change of RX_OFFSET, with DS_OFFSET_PS set from the result: −round(RX_OFFSET × 1,000 / 24.8832 / 2) (R328). -/
def State.setOffset (t : Nat) (v : Int) (s : State) : State :=
  let ps : Int := -((v.natAbs * 10000000 + 248832) / 497664 : Nat) * v.sign
  s.put PEER_TREE.RX_OFFSET t (ofSigned 16 v) |>.put PEER_TREE.DS_OFFSET_PS t (ofSigned 24 ps)

/-- The 16th VALID burst of a calibration ends it: twice the median drift joins RX_OFFSET, or CAL_FAIL is set (R328). -/
def State.endCalibration (t : Nat) (vs : List Int) (s : State) : State :=
  let s := s.modTree t (fun x => { x with calib := none, driftSum := 0, driftCount := 0 }) |>.put PEER_CMD.DONE 0 1
  let m := twiceMedian vs
  if 2 * 24883 < m.natAbs then s.put PEER_TREE.CAL_FAIL t 1
  else s.setOffset t (toSigned 16 (s.get PEER_TREE.RX_OFFSET t) + m) |>.put PEER_TREE.CAL_DONE t 1

/-- The drift of a VALID burst on a protected tree. -/
def State.pairDrift (t : Nat) (drift : Int) (s : State) : State :=
  if !(s.tree t).shared then s
  else
    match (s.tree t).calib with
    | some vs =>
      let vs := vs ++ [drift]
      if vs.length = 16 then s.endCalibration t vs else s.modTree t fun x => { x with calib := some vs }
    | none => s.modTree t fun x => { x with driftSum := x.driftSum + drift, driftCount := x.driftCount + 1 }

/-! ### The XGEM frames of a VALID burst -/

/-- The line port of a set that an XGEM Port-ID names. -/
def State.portNamed (s : State) (t k id : Nat) : Option Nat :=
  (s.linePorts t).find? fun p => s.flag LPORT.VALID (lpAt t p) && s.get LPORT.SET (lpAt t p) == k && s.get LPORT.XGEM_PORT_ID (lpAt t p) == id

/-- What becomes of an upstream XGEM frame's payload: dropped, good, or good so far with a tag that failed after plaintext left (R271). -/
inductive Opened where
  | dropped | clear | marked
  deriving DecidableEq, Repr

/-- The verdict on the tag of a Twill XGEM frame (R271); a standard set carries none (R257). -/
def State.treeTag (t k slot : Nat) (x : UpXgem) (s : State) : Opened × State :=
  let d := dieOf t
  if !s.twill t k then (.clear, s)
  else
    match x.tag with
    | .ok => (.clear, s)
    | .bad => (.dropped, s.ciphCnt d 0 |>.addSat KEYSLOT.TAG_FAIL slot 1)
    | .badLate => (.marked, s.ciphCnt d 1 |>.addSat KEYSLOT.TAG_FAIL_CUT slot 1 |>.put CIPH_STATUS.LAST_SLOT d (slot % 8192)
        |>.ciphEvent CIPH_STATUS.CUT_TAG_FAIL d)

/-- The slot of an upstream XGEM frame used: bound, of the domain, not EMPTY, and at most 80 frames past its expiry (R258, R259, R272). -/
def State.openSlot (t k p frame slot : Nat) (x : UpXgem) (s : State) : Opened × State :=
  let d := dieOf t
  let dom := s.get LPORT.DOMAIN (lpAt t p)
  let st := s.get KEYSLOT.STATE slot
  let expiry := s.get KEYSLOT.FIRST_FRAME slot + s.get KEYSLOT.LIMIT slot
  if s.flag KEYSLOT.UNBOUND slot then (.dropped, s.separation d 11 dom 0xFFF t p (slot % 8192))
  else if s.get KEYSLOT.DOMAIN slot ≠ dom then (.dropped, s.separation d 2 dom (s.get KEYSLOT.DOMAIN slot) t p (slot % 8192))
  else if st = 0 then (.dropped, s.ciphCnt d 8)
  else if st = 3 && 80 < wrapSub 32 frame expiry && wrapSub 32 frame expiry < 2 ^ 31 then (.dropped, s.ciphCnt d 9)
  else s.treeTag t k slot x

/-- An upstream XGEM frame up to its plaintext (R255, R259): the terminal check, the Key Index, INDEX, the slot (R256). -/
def State.openXgem (t k p : Nat) (c : BurstCtx) (x : UpXgem) (s : State) : Opened × State :=
  let d := dieOf t
  let i := lpAt t p
  let dom := s.get LPORT.DOMAIN i
  if s.get LPORT.TERMINAL i ≠ c.terminal then (.dropped, s.separation d 1 dom dom t p p)
  else if x.keyIndex % 4 = 3 || (x.keyIndex = 0 && (s.binding t p).encrypt) then (.dropped, s.ciphCnt d 7)
  else if x.keyIndex = 0 then (.clear, s)
  else (s.nextIndex t p true).2.openSlot t k p c.frame (s.pairSlot t p (x.keyIndex - 1)) x

/-- The sequence tag of a frame of a protected tree (Table 14.8). -/
def State.seqTagOf (s : State) (t : Nat) (c : BurstCtx) (pos : Nat) : Option SeqTag :=
  if (s.tree t).shared then
    some ⟨s.get PEER_CTRL.PAIR_DEVICE 0 % 1024 * 2 ^ 14 + t % 64 * 2 ^ 8 + c.terminal % 256,
      c.frame % 2 ^ 25 * 2 ^ 23 + c.grantIndex % 512 * 2 ^ 14 + pos % 2 ^ 14⟩
  else none

/-- The key of a line port's reassembly. -/
def fragKey (t p : Nat) : Key := ⟨t, p⟩

/-- The next fragment of a line port joined to what it has; a dropped one spoils the frame, and one marked marks it (R29). -/
def State.joinFragment (t p : Nat) (o : Opened) (x : UpXgem) (s : State) : Option (List Nat × Bool) :=
  match s.frags.get (fragKey t p) (some ([], false)), o with
  | none, _ => none
  | _, .dropped => none
  | some (b, m), _ => some (b ++ x.bytes, m || o == .marked)

/-- A whole upstream frame into the die's parser (Table 1.3). -/
def State.frameUp (t k p pos : Nat) (c : BurstCtx) (marked : Bool) (b : List Nat) (s : State) : State :=
  let d := dieOf t
  let f : Frame := { bytes := b, length := b.length, up := true, domain := s.get LPORT.DOMAIN (lpAt t p), tree := t, set := k, linePort := p,
                     terminal := c.terminal, marked := marked, tag := s.seqTagOf t c pos }
  { s with inbox := s.inbox.set ⟨d, 0⟩ [] (s.inbox.get ⟨d, 0⟩ [] ++ [f]) }.passBytes d (16 + 2 * (t % 8) + k) b.length

/-- The circuit that takes the containers of a circuit port: enabled, or disabled with bursts of built maps still to come (R171, R184). -/
def State.circuitAt (s : State) (t p : Nat) : Option Nat :=
  (s.circuitsOf (dieOf t) ++ (s.circs.filter fun e => e.2.drain.isSome).map fun e => e.1.n).find? fun c => s.circPort c == lpAt t p

/-- A whole container waits for its circuit; one whose tag failed is no container (R29, R171). -/
def State.containerUp (t p frame : Nat) (marked : Bool) (b : List Nat) (s : State) : State :=
  match s.circuitAt t p with
  | none => s
  | some c => if marked then s else s.modCirc c fun x => { x with boxes := x.boxes ++ [(frame, b)] }

/-- One XGEM frame of a burst: `unsure` behind an uncorrectable codeword, `pos` the frames completed before it (R331). -/
def State.takeXgem (t k : Nat) (c : BurstCtx) (unsure : Bool) (pos : Nat) (x : UpXgem) (s : State) : State :=
  match s.portNamed t k x.portId with
  | none => s
  | some p =>
    let circuit := s.get LPORT.KIND (lpAt t p) == 2
    let (o, s) := s.openXgem t k p c x
    let whole := s.joinFragment t p o x
    let s := { s with frags := s.frags.set (fragKey t p) (some ([], false)) (if x.lf then some ([], false) else whole) }
    if !x.lf then s
    else if unsure && !circuit && (s.tree t).shared then s.peerCnt 5 1
    else
      match whole with
      | none => s
      | some (b, marked) => if circuit then s.containerUp t p c.frame marked b else s.frameUp t k p pos c marked b

/-- Bytes in the upstream boundary FIFO of a tree slice once the core has taken what stands with the next XGEM frame (R24). -/
def State.usLeft (s : State) (t : Nat) (x : UpXgem) : Nat :=
  match x.taken with
  | none => 0
  | some n => (s.tree t).usFill - n

/-- The XGEM frames of a burst in order. One for which the upstream FIFO has no room goes, with the rest of the burst (R25). -/
def State.takeItems (t k : Nat) (c : BurstCtx) (b : Burst) : Nat → Nat → List UpXgem → State → State
  | _, _, [], s => s
  | n, pos, x :: rest, s =>
    let fill := s.usLeft t x + x.bytes.length
    if boundaryBytes < fill then s.modTree t (fun y => { y with usFill := s.usLeft t x }) |>.termCnt t c.terminal 8 1 |>.speedFault (dieOf t)
    else
      let s := s.modTree t fun y => { y with usFill := fill }
      let unsure : Bool := match b.unsureFrom with
        | some j => j ≤ n
        | none => false
      State.takeItems t k c b (n + 1) (if x.lf then pos + 1 else pos) rest (s.takeXgem t k c unsure pos x)

/-- The PLOAM messages of a burst enter the set's upstream ring; PLOAM_RX says that it is not empty (R94). -/
def State.takePloam (t k : Nat) (ms : List Ploam) (s : State) : State :=
  if ms.isEmpty then s else s.modSet t k (fun x => { x with ploamUp := x.ploamUp ++ ms }) |>.raiseTree t 6

/-! ### The burst -/

/-- A VALID burst decoded and forwarded. -/
def State.burstValid (t k : Nat) (c : BurstCtx) (b : Burst) (drift : Int) (s : State) : State :=
  let n := c.terminal
  let s := s.termCnt t n 0 1 |>.countCodewords t k c b |>.runValid t n drift |>.pairDrift t drift
  let s := if s.inOperation t n then s.noteDrift t n c.frame c.rate drift else s
  let s := b.idle.foldl (fun (s : State) e => s.judgeIdle t e.1 c.frame e.2.1 e.2.2) s
  s.takePloam t k b.ploam |>.takeItems t k c b 0 0 b.items

/-- A MISDIRECTED burst: counted against the granted terminal, and against the one it names (R102, R138). -/
def State.burstMisdirected (t n : Nat) (m : Option Nat) (s : State) : State :=
  let s := s.termCnt t n 3 1 |>.treeCnt t 6 1 |>.runBad t n |>.put TREE_FRM_STATUS.MISDIRECT_TERMINAL t (m.getD 255)
    |>.framing TREE_FRM_STATUS.MISDIRECT t
  match m with
  | none => s
  | some x => if x ≠ n && s.inOperation t x then s.rogueBurst t x else s

/-- A counted grant received (R102, R104): its outcome, then what the terminal's defects come to. -/
def State.countedGrant (t k : Nat) (l : Loaded) (b : Burst) (s : State) : State :=
  let c := l.ctx
  let n := c.terminal
  let s := s.treeCnt t 4 1 |>.modSet t k fun x =>
    { x with counted := true, lit := x.lit || b.power ≤ 100 * s.get TREE_OPT_CTRL.LOS_LEVEL t }
  let s := match s.outcome t k l b with
    | .lost => s.termCnt t n 1 1 |>.runLost t n
    | .stampFail => s.termCnt t n 2 1 |>.runBad t n
    | .misdirected m => s.burstMisdirected t n m
    | .valid drift =>
      let s := s.burstValid t k c b drift
      if s.teaches t c b then s.learn t n c b else s
  s.judgeTerm t n

/-- BURST_RECEIVE (R102): the burst of the active context has arrived. Without a context it was left unreceived (R79); under receive loss of lock
it is lost by the part (R84); a ranging grant is searched by the ranging logic (R101). -/
def execBurstReceive (t k : Nat) (b : Burst) (s : State) : Result := tellRanging t s <|
  match (s.setOf t k).active with
  | none => .next s
  | some l =>
    let c := l.ctx
    let s := s.modSet t k fun x => { x with active := none }
    if (s.setOf t k).rxLol then .next ((if c.ranging then s.noteRange t k c .lostByPart else s).lostByPart t)
    else
      let s := s.measure t c b |>.noteSpan t k l b
      if c.ranging then
        let s := s.noteRange t k c (s.rangeFound t k l b)
        .next (if s.teaches t c b then s.learn t c.terminal c b else s)
      else .next (s.countedGrant t k l b)

/-- UPSTREAM_FRAME_END (R83, R105): the loss-of-signal runs step on a counted frame, the circuits' container runs step and an active tells its
standby of them, and the next upstream frame begins. On a Twill set with CHIFFON_EN the residual of the frame's samples is formed (R124). -/
def execUpstreamFrameEnd (t k : Nat) (samples : List Nat) (s : State) : Result :=
  let frame := (s.setOf t k).upFrame
  let s := if s.twill t k && s.flag TREE_RNG_CTRL.CHIFFON_EN t && !samples.isEmpty then s.noteResidual t samples else s
  .next (s.losFrameEnd t k |>.circuitsFrameEnd t k frame |>.sendCircuits t k |>.restartIndex t k true
    |>.modSet t k (fun x => { x with upFrame := (x.upFrame + 1) % 2 ^ 32 }) |>.judgeTree t)

end Sys2Proof.Machine
end

