-- ==== Sys2Proof/Machine/Mram.lean ====
section
/-!
DEFINITION. The record area of MRAM (chapter 2) and the event log (R374): writing under R47, pages, copy-forward, rotation, and the scan at power-up.
-/

namespace Sys2Proof.Machine

/-- Bytes of a page (R49). -/
def pageBytes : Nat := 524288

/-- Bytes that a record occupies (Table 2.6). -/
def MRec.bytes (r : MRec) : Nat := 32 + (r.payload.length + 7) / 8 * 8

/-- Page `p` of a record area. -/
def MramDie.page (m : MramDie) (p : Nat) : List MRec := m.pages.getD p []

/-- Bytes left in a page. -/
def MramDie.room (m : MramDie) (p : Nat) : Nat := pageBytes - ((m.page p).map MRec.bytes).sum

/-- Free pages, the destination of copy-forward apart (R379, R414). -/
def MramDie.free (m : MramDie) : List Nat :=
  (List.range 16).filter fun p => (m.page p).isEmpty && p != m.writePage && p != m.dest

/-- The records that a scan of a page finds, `used` bytes into it: it stops at TYPE 0x0000, at a header whose record would run past the page end, or
after a record without a valid commit word, which does not exist (R47, R49). -/
def scanPage : Nat → List MRec → List MRec
  | _, [] => []
  | used, r :: rest =>
    if r.type = 0 || pageBytes < used + r.bytes || !r.committed then [] else r :: scanPage (used + r.bytes) rest

/-- Records that exist and are sound (R47, R48). -/
def MramDie.valid (m : MramDie) : List MRec := (m.pages.flatMap (scanPage 0)).filter fun r => r.crcOk

/-- SEQ `a` is later than SEQ `b`, modulo 2^32 within a window of 2^31 (R48). -/
def seqLater (a b : Nat) : Bool := a != b && wrapSub 32 a b < 2 ^ 31

/-- A record holds: it is sound and none of its TYPE and KEY is later (R48). -/
def MramDie.holds (m : MramDie) (r : MRec) : Bool :=
  r.committed && r.crcOk && !(m.valid.any fun x => x.type == r.type && x.key == r.key && seqLater x.seq r.seq)

/-- The types written while only one free page remains (R379). -/
def criticalType (type : Nat) : Bool := type == 1 || type == 2 || type == 0x10 || type == 0x30

/-- An extension record (Table 2.7). -/
def extensionType (type : Nat) : Bool := 0x8000 ≤ type && type < 0xFFFF

/-- A record appended to a page. -/
def MramDie.append (p : Nat) (r : MRec) (m : MramDie) : MramDie := { m with pages := m.pages.set p (m.page p ++ [r]) }

/-- A record put into the write page, or into a free page that becomes the write page; it waits where there is none (R49, R414). -/
def MramDie.write (r : MRec) (m : MramDie) : MramDie × Bool :=
  if r.bytes ≤ m.room m.writePage then (m.append m.writePage r, true)
  else
    match m.free with
    | p :: _ => ({ m.append p r with writePage := p, age := m.age.filter (· ≠ p) ++ [p] }, true)
    | [] => ({ m with waiting := m.waiting ++ [r] }, false)

/-- One page reclaimed: its holding records go to the destination page, it is zero-filled and becomes the new destination (R414). Where no free page
exists, the room behind the copies takes the next records. -/
def MramDie.reclaim (p : Nat) (m : MramDie) : MramDie :=
  let keep := (m.page p).filter m.holds
  let old := m.dest
  let m' := { m with pages := (m.pages.set old (m.page old ++ keep)).set p [], dest := p }
  let aged := m.age.filter (· ≠ p)
  let m' := { m' with age := if keep.isEmpty then aged else aged ++ [old] }
  if m'.free.isEmpty || m.writePage = p then { m' with writePage := old, age := m'.age.filter (· ≠ old) ++ [old] } else m'

/-- Records of a page that no longer hold. -/
def MramDie.stale (m : MramDie) (p : Nat) : Nat := ((m.page p).filter fun r => !m.holds r).length

/-- The page with the most records that no longer hold, the lowest of them on a tie. -/
def MramDie.stalest (m : MramDie) : Nat :=
  (((List.range 16).filter fun p => p != m.dest).foldl (fun (b : Nat × Nat) p => if b.1 < m.stale p + 1 then (m.stale p + 1, p) else b) (0, 0)).2

/-! ### Records of the part -/

/-- Commit of a mark record (R268): it authorises its association, and a LOAD that waits for it completes. -/
def State.markCommitted (d : Nat) (r : MRec) (s : State) : State :=
  if r.type ≠ 0x0010 then s
  else
    let i := r.key
    let s := if s.flag MSA.VALID i && s.get MSA.KI i == leAt r.payload 0 16 then s.put MSA.MARK i (leAt r.payload 24 8) |>.put MSA.MARK_WAIT i 0 else s
    let s := if s.loadWaits true d i then s.keyDone true d 0 else s
    if s.loadWaits false d i then s.keyDone false d 0 else s

/-- The state of few free pages: the source is raised on entry to it (R379). -/
def State.judgeReserve (d : Nat) (s : State) : State :=
  let m := s.mramOf d
  let low := decide (m.free.length ≤ 1)
  let s := s.modMram d fun m => { m with reserve := low }
  if low && !m.reserve then s.raise d 2296 else s

/-- A performance counter (Table 16.16). -/
def State.perfCnt (d k n : Nat) (s : State) : State := s.bump PERF_CNT.COUNT (d * 12 + k) n

/-- Bytes of the extension records that would hold on a die beside a new one of TYPE and KEY: the one it supersedes holds no more (R48, R414). -/
def MramDie.extensionsBeside (m : MramDie) (type key : Nat) : Nat :=
  ((m.valid.filter fun r => extensionType r.type && m.holds r && !(r.type == type && r.key == key)).map MRec.bytes).sum

/-- A record refused: while only one free page remains (R379), past the sum of extension records (R414), or one longer than a record can be (Table 2.6). -/
def State.recordRefused (s : State) (d type key len : Nat) : Bool :=
  let m := s.mramOf d
  4064 < len || (m.free.length ≤ 1 && !criticalType type)
    || (extensionType type && 2 ^ 21 < m.extensionsBeside type key + (32 + (len + 7) / 8 * 8))

/-- A record of the die's next SEQ and the time (Table 2.6), before any step of R47. -/
def State.newRecord (s : State) (d type key : Nat) (payload : List Nat) : MRec :=
  { type := type, key := key, seq := (s.mramOf d).seq, time := if s.timeValid then s.netSec % 2 ^ 32 else 0, payload := payload }

/-- A record written in the four steps of R47, each complete before the next: it stands whole in MRAM (log entry 56). -/
def State.writeRecord (d type key : Nat) (payload : List Nat) (s : State) : State :=
  if s.recordRefused d type key payload.length then s.perfCnt d 9 1
  else
    let m := s.mramOf d
    let r := s.newRecord d type key payload |>.written 4
    let (m', done) := { m with seq := (m.seq + 1) % 2 ^ 32 }.write r
    let s := s.modMram d (fun _ => m') |>.judgeReserve d
    if done then s.markCommitted d r else s

/-- DIE[d] has power: its MRAM is written (R50, R405). -/
def State.powered (s : State) (d : Nat) : Bool := d < s.dies && s.get PKG_DIE_CTRL.STATE d != 0

/-- A record written to every present die (R46, R50). -/
def State.writeAll (type key : Nat) (payload : List Nat) (s : State) : State :=
  s.dieList.foldl (fun s d => if s.powered d then s.writeRecord d type key payload else s) s

/-- MRAM_RECORD_COMMIT (R47): the next record asked of the loader of a die is written; its commit word ends it. -/
def execMramRecordCommit (d : Nat) (s : State) : Result :=
  match (s.mramOf d).todo with
  | [] => .next s
  | r :: rest => .next (s.modMram d (fun m => { m with todo := rest }) |>.writeRecord d r.type r.key r.payload)

/-- The waiting records written as far as they now fit, oldest first. -/
def State.writeWaiting (d : Nat) : List MRec → State → State
  | [], s => s
  | r :: rest, s =>
    let (m, done) := (s.mramOf d).write r
    if done then (s.modMram d (fun _ => { m with waiting := rest }) |>.markCommitted d r).writeWaiting d rest else s

/-- Pages are reclaimed until the waiting records fit, at most every page once. -/
def State.reclaimFor (d : Nat) : Nat → State → State
  | 0, s => s
  | fuel + 1, s =>
    let m := s.mramOf d
    if m.waiting.isEmpty then s
    else
      let s := s.modMram d fun m => m.reclaim m.stalest
      (s.writeWaiting d m.waiting).reclaimFor d fuel

/-- PAGE_RECLAIM (R414). -/
def execPageReclaim (d : Nat) (s : State) : Result :=
  .next (if (s.mramOf d).free.isEmpty then (s.reclaimFor d 16).judgeReserve d else s)

/-- RECORD_ROTATION (R379, R49): while four or fewer free pages remain, the oldest page other than the write page is copied forward. -/
def execRecordRotation (d : Nat) (s : State) : Result :=
  let m := s.mramOf d
  if 4 < m.free.length then .next s
  else
    match m.age.filter fun p => p != m.writePage && p != m.dest with
    | [] => .next s
    | p :: _ => .next (s.modMram d (fun m => m.reclaim p) |>.judgeReserve d)

/-- Records rejected under R48 by the scan of a die. -/
def MramDie.corrupt (m : MramDie) : Nat := ((m.pages.flatMap (scanPage 0)).filter fun r => !r.crcOk).length

/-- What a die's record area is after the scan: requests of the past are gone, and a fresh page is opened for new writes, so that nothing is written
behind a torn record; where no page is free, one is reclaimed for it (R47, R49, R414). -/
def MramDie.scanned (m : MramDie) : MramDie :=
  let m := { m with waiting := [], todo := [] }
  if (m.page m.writePage).isEmpty then m
  else
    match m.free with
    | p :: _ => { m with writePage := p, age := m.age.filter (· ≠ p) ++ [p] }
    | [] => m.reclaim m.stalest

/-- Power or reset cuts the writing of the oldest record asked of a die's loader: how many of the first three steps of R47 are done is a free value
(log entry 56). -/
def State.tearRecord (s : State) (d : Nat) : State :=
  match (s.mramOf d).todo with
  | [] => s
  | r :: _ =>
    let k := s.free % 4
    let s := s.useFree
    if k = 0 then s else s.modMram d fun m => (m.write ((s.newRecord d r.type r.key r.payload).written k)).1

/-- The record areas of the powered dies scanned; corrupt records are counted (R48). -/
def State.scanRecords (s : State) : State :=
  s.dieList.foldl (fun (s : State) d =>
    if s.powered d then
      let n := (s.mramOf d).corrupt
      let s := s.modMram d MramDie.scanned
      if n = 0 then s else s.addSat DMK_STATUS.CORRUPT_COUNT 0 n |>.raisePkg 3841
    else s) s

/-! ### The event log (R374) -/

/-- The status register and the last-event register of a source's block (Table 16.5); none where there is none. -/
def logArgs (src : Nat) : Option RegDesc × Option RegDesc :=
  if src < 2216 then (none, none)
  else if src < 2232 then (some CIPH_STATUS.desc, some CIPH_SEP_LAST.desc)
  else if src < 2240 then (some MEM_STATUS.desc, some MEM_ECC_LAST.desc)
  else if src < 2272 then (none, none)
  else if src < 2280 then (some SEG_GOV_STATUS.desc, none)
  else if src < 2288 then (some TWEED_STATUS.desc, none)
  else if src < 3840 then (none, none)
  else if src < 3848 then (some DMK_STATUS.desc, none)
  else if src = 3848 then (some SEC_LOCK.desc, some SEC_FW_EVENT.desc)
  else if src < 3856 then (some SEC_DBG_STATUS.desc, some SEC_DBG_STATUS.desc)
  else if src < 3864 then (some TIME_STATUS.desc, none)
  else if src < 3872 then (some PEER_STATUS.desc, none)
  else if src < 3880 then (some HOST_UNMAPPED.desc, none)
  else if src < 3888 then (some SNAP_CTRL.desc, none)
  else (some PKG_PWR_STATUS.desc, none)

/-- The value of a register for the log. -/
def State.logReg (s : State) (r : Option RegDesc) (d : Nat) : Nat :=
  match r with
  | none => 0
  | some r => s.packRec r.fields (if r.die then d else 0)

/-- The payload of an EVENT_LOG record (Table 16.5). -/
def State.logPayload (s : State) (die src origin : Nat) : List Nat :=
  leBytes 4 s.timeNs ++ leBytes 2 (src % 4096) ++ [die, origin] ++ leBytes 8 (s.logReg (logArgs src).1 die)
    ++ leBytes 8 (s.logReg (logArgs src).2 die) ++ List.replicate 8 0

/-- Sources whose records the loader writes: DMK_FALLBACK, MRAM_CORRUPT, firewall and debug events. -/
def loaderLogs (src : Nat) : Bool := src == 3840 || src == 3841 || src == 3848 || src == 3849

/-- Sources whose records Tweed writes: every other package source, and the die events that R374 names. -/
def tweedLogs (src : Nat) : Bool :=
  (3840 ≤ src && !sourceReserved src && !loaderLogs src)
    || [2216, 2223, 2224, 2232, 2233, 2272, 2281, 2282, 2291].contains src

/-- EVENT_LOG (R374): the record of an event of source `src` of DIE[die], written on DIE[d]. The loader writes security events, the firewall's once in
a second; Tweed writes the others, at most 64 in a second and none while overloaded. -/
def execEventLog (d die src : Nat) (s : State) : Result :=
  if loaderLogs src then
    if src = 3848 && s.loader.fwLogged then .next s
    else .next (s.modLoader (fun l => { l with fwLogged := l.fwLogged || src == 3848 }) |>.writeRecord d 0x0020 0 (s.logPayload die src 0))
  else if !tweedLogs src then .next s
  else if s.flag TWEED_STATUS.OVERLOAD d then .next (s.perfCnt d 10 1 |>.bump TWEED_CNT.COUNT (d * 8 + 2) 1)
  else if 64 ≤ (s.tweedOf d).logged then .next (s.perfCnt d 10 1)
  else .next (s.modTweed d (fun x => { x with logged := x.logged + 1 }) |>.writeRecord d 0x0020 0 (s.logPayload die src 1))

end Sys2Proof.Machine
end

