-- ==== Sys2Proof/Machine/ImageCheck.lean ====
section
/-!
DEFINITION. The Damask image in a slot and its check (chapter 2, R40 to R46), with the content checks of the sections whose layout the spec gives.
-/

namespace Sys2Proof.Machine

/-! ### Reading a slot -/

/-- `n` little-endian bytes of a slot. -/
def slotNat (b : Memory) (a n : Nat) : Nat := leValue (b.readBytes a n)

/-- A section table entry (Table 2.3), with its place in the image. -/
structure SectEntry where
  type : Nat
  flags : Nat
  dieMask : Nat
  treeMask : Nat
  reserved : Nat
  offset : Nat
  length : Nat
  digest : List Nat
  deriving DecidableEq, Repr

/-- Entry `k` of the section table. -/
def sectEntry (b : Memory) (k : Nat) : SectEntry :=
  let o := 0x40 + 64 * k
  ⟨slotNat b o 2, slotNat b (o + 2) 1, slotNat b (o + 3) 1, slotNat b (o + 4) 1, slotNat b (o + 5) 3, slotNat b (o + 8) 4, slotNat b (o + 12) 4,
    b.readBytes (o + 16) 48⟩

/-- LENGTH of the image in a slot. -/
def imageLength (b : Memory) : Nat := slotNat b 0x08 4

/-- SIG_OFFSET. -/
def sigOffset (b : Memory) : Nat := slotNat b 0x1C 4

/-- IMAGE_VERSION. -/
def imageVersion (b : Memory) : Nat := slotNat b 0x10 4

/-- FLAGS.RAISE_FLOOR. -/
def raisesFloor (b : Memory) : Bool := slotNat b 0x06 2 % 2 == 1

/-- The section table. -/
def sectTable (b : Memory) : List SectEntry := (List.range (slotNat b 0x0E 2)).map fun k => sectEntry b k

/-- The bytes of a section. -/
def sectBytes (b : Memory) (e : SectEntry) : List Nat := b.readBytes e.offset e.length

/-- Digest D of the image (R43). -/
def imageDigest (b : Memory) : Nat := Config.sha384 (b.readBytes 0 (sigOffset b))

/-! ### Header and section table (R40, R41, R42) -/

/-- Constraints of Table 2.2 whose breach is BAD_HEADER. -/
def headerOk (b : Memory) : Bool :=
  slotNat b 0 4 == 0x44A7C3E9 && slotNat b 4 2 == 1 && slotNat b 6 2 ≤ 1 && imageLength b ≤ 12582912 && slotNat b 0x0C 1 < 8
    && slotNat b 0x0D 1 == 0 && 1 ≤ slotNat b 0x0E 2 && slotNat b 0x0E 2 ≤ 256 && sigOffset b % 8 == 0
    && sigOffset b + 5464 == imageLength b && slotNat b 0x34 12 == 0

/-- Member and serial number of the image fit the part (R40). -/
def State.memberOk (s : State) (b : Memory) : Bool :=
  bitAt (slotNat b 0x0C 1) s.ident.member.code && (slotNat b 0x20 16 == 0 || slotNat b 0x20 16 == s.ident.serial.toNat)

/-- Section types of Table 2.4 that are not tree-scoped. -/
def dieTypes : List Nat := [1, 2, 3, 4, 5, 6, 7, 8, 9, 10]

/-- A section type is tree-scoped. -/
def treeType (type : Nat) : Bool := 0x0101 ≤ type && type ≤ 0x0103

/-- An entry agrees with its TYPE (R41). -/
def entryOk (e : SectEntry) : Bool :=
  (dieTypes.contains e.type || treeType e.type) && e.flags == ofBool (treeType e.type) && (e.treeMask != 0) == treeType e.type && e.reserved == 0

/-- Sections lie between the table and the signature block, aligned, and do not overlap (R41). -/
def placesOk (b : Memory) (es : List SectEntry) : Bool :=
  (es.all fun e => 0x40 + 64 * es.length ≤ e.offset && e.offset % 64 == 0 && e.offset + e.length ≤ sigOffset b)
    && (List.range es.length).all fun i => (List.range i).all fun j =>
      let x := es.getD i ⟨0, 0, 0, 0, 0, 0, 0, []⟩
      let y := es.getD j ⟨0, 0, 0, 0, 0, 0, 0, []⟩
      x.offset + x.length ≤ y.offset || y.offset + y.length ≤ x.offset

/-- The section of a type that names a die and, for a tree-scoped one, its local tree. -/
def sectFor (es : List SectEntry) (type die local_ : Nat) : Option SectEntry :=
  es.find? fun e => e.type == type && bitAt e.dieMask die && (!treeType type || bitAt e.treeMask local_)

/-- The line mode that a tree line mode section gives (its layout is Fraush's; log entry 9). -/
def lineMode (bytes : List Nat) : Nat := Config.imageField bytes DMK_TREE_STATE.LINE_MODE.num 0 % 5

/-- The line mode of local tree `t` of a die in an image; 0 without a section. -/
def imageLineMode (b : Memory) (es : List SectEntry) (die t : Nat) : Nat :=
  match sectFor es 0x0101 die t with
  | some e => lineMode (sectBytes b e)
  | none => 0

/-- The mandatory sections of a present die are there (R42, Table 2.4). -/
def State.mandatoryOk (s : State) (b : Memory) (es : List SectEntry) (d : Nat) : Bool :=
  ([1, 2, 3, 4, 5, 6, 7, 9].all fun t => (sectFor es t d 0).isSome) && (s.ident.member != .hjc7064 || (sectFor es 8 d 0).isSome)
    && (List.range 8).all fun t => (sectFor es 0x0101 d t).isSome
      && (imageLineMode b es d t == 0 || ((sectFor es 0x0102 d t).isSome && (sectFor es 0x0103 d t).isSome))

/-- The dies that a check counts as present. -/
def State.poweredDies (s : State) : List Nat := s.dieList.filter fun d => s.powered d

/-- The section table is sound (R41, R42). -/
def State.tableOk (s : State) (b : Memory) : Bool :=
  let es := sectTable b
  es.all entryOk && placesOk b es && s.poweredDies.all fun d => s.mandatoryOk b es d

/-! ### Signatures (R43, R44) -/

/-- The key hashes of the signature block are the owner's, or the factory's while no owner is fused (R44). -/
def State.keysOk (s : State) (b : Memory) : Bool :=
  let o := sigOffset b
  let ec := Config.sha384 (b.readBytes o 97)
  let pq := Config.sha384 (b.readBytes (o + 200) 1952)
  if s.ident.ownerFused then ec == s.ident.ownerEcHash && pq == s.ident.ownerPqHash
  else ec == Config.factoryEcHash && pq == Config.factoryPqHash

/-- The ECDSA signature verifies (R43). -/
def ecOk (b : Memory) : Bool := Config.ecdsaVerify (b.readBytes (sigOffset b) 97) (imageDigest b) (b.readBytes (sigOffset b + 104) 96)

/-- The ML-DSA signature verifies over the 48 bytes of D (R43). -/
def pqOk (b : Memory) : Bool :=
  Config.mldsaVerify (b.readBytes (sigOffset b + 200) 1952) (imageDigest b) (b.readBytes (sigOffset b + 2152) 3309)

/-- The rollback floor (R46). -/
def State.rollbackFloor (s : State) : Nat :=
  s.poweredDies.foldl (fun m d => max m (((s.holding d 0x0002 0).map fun r => leAt r.payload 0 4).getD 0)) 0

/-! ### Section contents -/

/-- Two spans share a number. -/
def spansMeet (a b : Nat × Nat) : Bool := a.1 < b.1 + b.2 && b.1 < a.1 + a.2

/-- No two spans of a list meet. -/
def disjoint : List (Nat × Nat) → Bool
  | [] => true
  | x :: xs => xs.all (fun y => !spansMeet x y) && disjoint xs

/-- The DRAM partition section (R277). -/
def partitionOk (b : List Nat) : Bool :=
  let spans := (List.range 6).map fun k => partitionOf b k
  leAt b 0 4 == 6 && spans.all (fun p => 1 ≤ p.2 && p.1 + p.2 ≤ 8388608) && disjoint spans && (partitionOf b 5).2 == (partitionOf b 2).2

/-- What the DRAM partition may not ask for (R277, R241). -/
def partitionTooBig (b : List Nat) : Bool := 6710886 < (partitionOf b 1).2 || (partitionOf b 2).2 < 3072

/-- The counter banks section (R362). -/
def banksOk (b : List Nat) : Bool :=
  let bs := banksOf b
  1 ≤ leAt b 0 4 && leAt b 0 4 ≤ 4096 && disjoint (bs.map fun k => (k.first, k.size))
    && bs.all (fun k => 1 ≤ k.size && k.first + k.size ≤ 2097152 && k.kind ≤ 2)
    && ((bs.filter fun k => k.kind == 1).map fun k => k.size) == [163840]

/-- The key-slot partition section (R252). -/
def keyPartitionOk (b : List Nat) : Bool :=
  let n := leAt b 0 4
  let e := fun k => 4 + 8 * k
  let all := List.range n
  let spans := fun die kind => (all.filter fun k => byteAt b (e k + 6) == die && byteAt b (e k + 7) == kind).map fun k => (leAt b (e k) 2, leAt b (e k + 2) 2)
  1 ≤ n && n ≤ 65536
    && all.all (fun k => 1 ≤ leAt b (e k + 2) 2 && leAt b (e k + 4) 2 < 4096 && byteAt b (e k + 6) < 8 && byteAt b (e k + 7) < 2
      && leAt b (e k) 2 + leAt b (e k + 2) 2 ≤ if byteAt b (e k + 7) = 0 then 8192 else 16384)
    && (List.range 8).all fun die => disjoint (spans die 0) && disjoint (spans die 1)

/-- The contexts of a tree line ports section (R253). -/
def linePorts (b : List Nat) : List Nat := (List.range (leAt b 0 4)).filter fun p => linePortField b p LPORT.VALID == 1

/-- The words of the flood sets of a section, from byte `at0`: the members named by `n` sets. -/
def floodMembers (b : List Nat) : Nat → Nat → List Nat
  | 0, _ => []
  | n + 1, at0 =>
    let m := bits (leAt b at0 4) 12 8 + 1
    ((List.range m).map fun k => leAt b (at0 + 4 + 2 * k) 2 % 4096) ++ floodMembers b n (at0 + 4 + 2 * m)

/-- The tree line ports section of local tree `t` of a die (R254); `parts` is the key-slot partition of a die, `queueDomain` the owner of a queue. -/
def linePortsOk (b : List Nat) (die : Nat) (parts : Nat → List Nat) (queueDomain : Bool → Nat → Nat) : Bool :=
  let ps := linePorts b
  let g := fun p f => linePortField b p f
  1 ≤ leAt b 0 4 && leAt b 0 4 ≤ 4096 && leAt b 4 4 ≤ 4096 && leAt b 8 4 ≤ 256
    && ps.all (fun p =>
      let dom := g p LPORT.DOMAIN
      let k := g p LPORT.KEY_PAIR
      let sd := g p LPORT.UPLINK / 4
      partitionDomain (parts die) die 0 (2 * k) == some dom && partitionDomain (parts die) die 0 (2 * k + 1) == some dom
        && partitionDomain (parts sd) sd 1 (g p LPORT.TX_SC) == some dom
        && (List.range (g p LPORT.DS_COUNT)).all (fun j => queueDomain false (g p LPORT.DS_QUEUE + j) == dom)
        && (List.range (g p LPORT.US_COUNT)).all (fun j => queueDomain true (g p LPORT.US_QUEUE + j) == dom)
        && (g p LPORT.MC_GROUP == 0 || g p LPORT.KIND == 1))
    && ps.all (fun p => ps.all fun q => p == q || g p LPORT.SET != g q LPORT.SET || g p LPORT.XGEM_PORT_ID != g q LPORT.XGEM_PORT_ID)
    && (floodMembers b (leAt b 4 4) (16 + 32 * leAt b 0 4)).all fun p => ps.contains p && g p LPORT.KIND < 2

/-- The multicast line ports of a section: group, domain and ENCRYPT. -/
def multicastPorts (b : List Nat) : List (Nat × Nat × Nat) :=
  ((linePorts b).filter fun p => linePortField b p LPORT.MC_GROUP != 0).map fun p =>
    (linePortField b p LPORT.MC_GROUP, linePortField b p LPORT.DOMAIN, linePortField b p LPORT.ENCRYPT)

/-- The bytes of the section of a type for a die, and a local tree. -/
def imageSect (b : Memory) (type die t : Nat) : List Nat := ((sectFor (sectTable b) type die t).map fun e => sectBytes b e).getD []

/-- A field that the section of a type gives a unit of a die, as the image has it (log entry 9). -/
def imageGives (b : Memory) (type d : Nat) (f : Field) (i : Nat) : Nat := sectionField (imageSect b type d 0) f i

/-- The lane modes of a die (R293): ETH400 on all four lanes or on none. -/
def laneModesOk (b : Memory) (d : Nat) : Bool :=
  let m := (List.range 4).map fun l => imageGives b 7 d FAB_LANE_STATUS.MODE l
  (m.all fun x => x ≤ 4) && ((m.all fun x => x == 2) || (m.all fun x => x != 2))

/-- The device ID is the same on every die, and at most one lane of the package is in PEER mode (R293). -/
def State.lanesOk (s : State) (b : Memory) : Bool :=
  let ds := s.poweredDies
  let id := fun d => imageGives b 7 d PKG_IDENT.DEVICE_ID 0
  let peers := ds.flatMap fun d => (List.range 4).filter fun l => imageGives b 7 d FAB_LANE_STATUS.MODE l == 4
  ds.all (fun d => id d == id (ds.headD 0) && laneModesOk b d) && peers.length ≤ 1

/-! ### The parser graph (R188) -/

/-- Parse node `i` of a parser-graph section, as the number its 64 bytes spell (Table 8.1). -/
def graphNode (b : List Nat) (i : Nat) : Nat := ((List.range 8).map fun k => sectionField b PARSE_NODE.DATA (8 * i + k) * 2 ^ (64 * k)).sum

/-- The nodes that node `n` names as its next ones: those of its match entries in use, and DEFAULT_NEXT where the walk can take it (R189). -/
def nodeNexts (n : Nat) : List Nat :=
  if nodeBits n 1 0 1 = 1 then []
  else ((List.range (min 8 (nodeBits n 40 0 8))).map fun i => nodeBits n (18 + 3 * i) 0 8) ++ if nodeBits n 1 2 1 = 1 then [] else [nodeBits n 41 0 8]

/-- CHECK of a node is correct (Table 8.1). -/
def nodeSound (n : Nat) : Bool := crc32c (leBytes 60 n) == nodeBits n 60 0 32

/-- Nodes reached from a list in at most `fuel` steps. -/
def nodesFrom (b : List Nat) : Nat → List Nat → List Nat
  | 0, seen => seen
  | fuel + 1, seen => nodesFrom b fuel (seen ++ (seen.flatMap fun i => nodeNexts (graphNode b i))).eraseDups

/-- The used nodes of a section: those that a walk from a valid entry can reach (log entry 53). -/
def usedNodes (b : List Nat) : List Nat :=
  nodesFrom b 256 (((List.range 16).filter fun e => sectionField b PARSE_ENTRY.VALID e == 1).map fun e => sectionField b PARSE_ENTRY.NODE e).eraseDups

/-- The constraints of R188 on one used node. -/
def nodeOk (b : List Nat) (n : Nat) : Bool :=
  let least := nodeBits n 8 0 16
  nodeBits n 0 0 8 != 0 && 1 ≤ least && nodeBits n 10 0 16 ≤ 512
    && (nodeBits n 1 1 1 == 0 || nodeBits n 4 0 8 + 2 ≤ least)
    && (nodeBits n 1 0 1 == 1 || nodeBits n 12 0 8 + 2 ≤ least)
    && ((List.range 4).all fun e =>
      let l := nodeBits n (43 + 3 * e) 0 4 + 1
      nodeBits n (43 + 3 * e) 7 1 == 0 || (nodeBits n (42 + 3 * e) 0 8 + l ≤ least && nodeBits n (44 + 3 * e) 0 8 + l ≤ 64))
    && (nodeNexts n).all fun i => nodeSound (graphNode b i)

/-- The parser-graph section of a die is sound (R188): every used node, and no key profile that selects more than 36 bytes. -/
def graphOk (b : List Nat) : Bool :=
  (usedNodes b).all (fun i => nodeOk b (graphNode b i))
    && (List.range 16).all fun j =>
      ((List.range 128).filter fun k => bitAt (sectionField b PARSE_KEY_PROFILE.MASK (2 * j + k / 64)) (k % 64)).length ≤ 36

/-! ### The traffic-manager shape (R231, R236) -/

/-- A field of queue or node `x` of a direction, as a shape section gives it; `per` units of the context a direction. -/
def shapeField (b : List Nat) (up : Bool) (per : Nat) (f : Field) (x : Nat) : Nat := sectionField b f (ofBool up * per + x)

/-- The way from node `n` to its port in a shape: the nodes on it, port last; none where no port is reached. -/
def shapePath (b : List Nat) (up : Bool) : Nat → Nat → Option (List Nat)
  | 0, _ => none
  | fuel + 1, n =>
    if !(Config.shapeNodes b up).contains n then none
    else if shapeField b up 16384 NODE.PORT n = 1 then some [n]
    else (shapePath b up fuel (shapeField b up 16384 NODE.PARENT n)).map fun p => n :: p

/-- The way of a queue to its port. -/
def queuePath (b : List Nat) (up : Bool) (q : Nat) : Option (List Nat) := shapePath b up 16385 (shapeField b up 32768 QUEUE.PARENT q)

/-- Parent and input of every queue and of every node that is no port. -/
def shapeInputs (b : List Nat) (up : Bool) : List (Nat × Nat) :=
  ((Config.shapeQueues b up).map fun q => (shapeField b up 32768 QUEUE.PARENT q, shapeField b up 32768 QUEUE.INPUT q))
    ++ ((Config.shapeNodes b up).filter fun n => shapeField b up 16384 NODE.PORT n == 0).map fun n =>
      (shapeField b up 16384 NODE.PARENT n, shapeField b up 16384 NODE.INPUT n)

/-- The shape of a die is sound: no input has two children, every queue has a path to a port (R231), and a gated queue's port has a rate (R236). -/
def shapeOk (b : List Nat) : Bool :=
  [false, true].all fun up =>
    (shapeInputs b up).Nodup && (Config.shapeQueues b up).all fun q =>
      match queuePath b up q with
      | none => false
      | some p => shapeField b up 32768 QUEUE.GATED q == 0 || shapeField b up 16384 NODE.SHAPE_RATE (p.getLastD 0) != 0

/-- The shape of a die keeps the limits of Table 10.3 on a part of `dies` dies. -/
def shapeFits (dies : Nat) (b : List Nat) : Bool :=
  [false, true].all fun up =>
    let qs := Config.shapeQueues b up
    let ns := Config.shapeNodes b up
    let ports := ns.filter fun n => shapeField b up 16384 NODE.PORT n == 1
    let ids := ports.map fun n => shapeField b up 16384 NODE.PORT_ID n
    qs.all (fun q => q < if up then 8192 else 32768) && ns.all (fun n => n < if up then 4096 else 16384)
      && ids.Nodup && ids.all (fun k => k < if up then 4 * dies else 16)
      && (shapeInputs b up).all (fun x => x.2 < 20)
      && qs.all (fun q => (queuePath b up q).all fun p => p.length ≤ 4)
      && (qs.map fun q => shapeField b up 32768 QUEUE.EXPRESS_CELLS q).sum ≤ if up then 32768 else 65536

/-- The contents of the sections are sound (R45 step 10), each by the rules of its chapter. -/
def State.contentsOk (s : State) (b : Memory) : Bool :=
  let ds := s.poweredDies
  let es := sectTable b
  let ports := ds.flatMap fun d => ((List.range 8).filter fun t => imageLineMode b es d t != 0).map fun t => (d, imageSect b 0x0102 d t)
  let queueDomain := fun d up q => shapeField (imageSect b 3 d 0) up 32768 QUEUE.DOMAIN q
  let mc := ports.flatMap fun x => multicastPorts x.2
  ds.all (fun d => partitionOk (imageSect b 1 d 0) && banksOk (imageSect b 4 d 0) && keyPartitionOk (imageSect b 5 d 0)
      && graphOk (imageSect b 2 d 0) && shapeOk (imageSect b 3 d 0))
    && ports.all (fun x => linePortsOk x.2 x.1 (fun d => imageSect b 5 d 0) (queueDomain x.1))
    && mc.all (fun x => mc.all fun y => x.1 != y.1 || x.2 == y.2) && s.lanesOk b

/-- Firmware and extension tasks of a die fit its local SRAM and the task budget (R340, R343). -/
def tasksFit (b : Memory) (d : Nat) : Bool :=
  let es := (sectTable b).filter fun e => (e.type == 9 || e.type == 10) && bitAt e.dieMask d
  ((es.map fun e => e.length).sum ≤ 2 ^ 21) && ((es.filter fun e => e.type == 10).map fun e => Config.taskBudget (sectBytes b e)).sum ≤ 240000

/-- The resources of the image are there (R45 step 11). -/
def State.resourcesOk (s : State) (b : Memory) : Bool :=
  s.poweredDies.all fun d => !partitionTooBig (imageSect b 1 d 0) && shapeFits s.dies (imageSect b 3 d 0) && tasksFit b d

/-! ### The whole check (R45) -/

/-- The result of the check of an image, in the order of R45; `digest` is the D that a SLOT_SELECT names. DESIGN CHOICE: the zero bytes 97 to 103 and
5,461 to 5,463 of the signature block are not checked, since R43 gives no result for others (log entry 55). -/
def State.checkImage (s : State) (b : Memory) (digest : Option Nat) : Nat :=
  if !headerOk b then 1
  else if !s.memberOk b then 2
  else if !s.tableOk b then 1
  else if !s.keysOk b then 3
  else if imageVersion b < s.rollbackFloor then 7
  else if digest.any fun v => v != imageDigest b then 4
  else if (sectTable b).any fun e => Config.sha384 (sectBytes b e) != leValue e.digest.reverse then 8
  else if !ecOk b then 5
  else if !pqOk b then 6
  else if !s.contentsOk b then 1
  else if !s.resourcesOk b then 13
  else 0

/-- Slot `k` of a die. -/
def State.slotOf (s : State) (d k : Nat) : Memory := s.slots.get ⟨d, k⟩ []

/-- The check of a die's copy of a slot; a copy in which the scrub found an uncorrectable word fails (R378; log entry 30). -/
def State.copyCheck (s : State) (d k : Nat) (digest : Option Nat) : Nat :=
  match s.slotBad.get ⟨d, k⟩ 0 with
  | 0 => s.checkImage (s.slotOf d k) digest
  | c => c

/-- The lowest-indexed die whose copy of a slot passes the check, with the result of the first copy where none does. -/
def State.slotCheck (s : State) (k : Nat) (digest : Option Nat) : Option Nat × Nat :=
  let ds := s.poweredDies
  match ds.find? fun d => s.copyCheck d k digest == 0 with
  | some d => (some d, 0)
  | none => (none, s.copyCheck (ds.headD 0) k digest)

/-! ### Scope of a re-weave (R54) -/

/-- A section of an image concerns one local tree of one die alone. -/
def soleSect (d t : Nat) (e : SectEntry) : Bool := e.dieMask == 2 ^ d && e.treeMask == 2 ^ t

/-- What of a table entry a re-weave of local tree `t` of DIE[d] may not change. -/
def fixedEntry (d t : Nat) (e : SectEntry) : SectEntry :=
  if soleSect d t e then { e with offset := 0, length := 0, digest := [] } else { e with offset := 0 }

/-- Where the image goes on after byte `x`: the next section's start, or the signature block. -/
def nextStart (b : Memory) (x : Nat) : Nat :=
  ((sectTable b).map fun e => e.offset).foldl (fun m o => if x ≤ o && o < m then o else m) (sigOffset b)

/-- The bytes between byte `x`, where a part of the image ends, and the next part. -/
def gapAt (b : Memory) (x : Nat) : List Nat := b.readBytes x (nextStart b x - x)

/-- The bytes behind a list's last byte that is not zero taken off. -/
def stripZeros (xs : List Nat) : List Nat := (xs.reverse.dropWhile fun x => x == 0).reverse

/-- The bytes that no section holds are the same: behind the table, and behind each section; behind a section that may change its length, up to the
zeros that fill to the next offset. -/
def gapsSame (d t : Nat) (a b : Memory) : Bool :=
  let ea := sectTable a
  let eb := sectTable b
  gapAt a (0x40 + 64 * ea.length) == gapAt b (0x40 + 64 * eb.length)
    && (ea.zip eb).all fun p =>
      let x := gapAt a (p.1.offset + p.1.length)
      let y := gapAt b (p.2.offset + p.2.length)
      if soleSect d t p.1 then stripZeros x == stripZeros y else x == y && sectBytes a p.1 == sectBytes b p.2

/-- Two images differ only as R54 allows for local tree `t` of DIE[d]: every byte counts, in a section or outside (log entry 54). -/
def scopeOk (d t : Nat) (a b : Memory) : Bool :=
  let ea := sectTable a
  let eb := sectTable b
  slotNat a 0 8 == slotNat b 0 8 && slotNat a 0x0C 4 == slotNat b 0x0C 4 && slotNat a 0x20 16 == slotNat b 0x20 16
    && slotNat a 0x34 12 == slotNat b 0x34 12 && (ea.map (fixedEntry d t)) == (eb.map (fixedEntry d t)) && gapsSame d t a b

end Sys2Proof.Machine
end

