-- ==== Sys2Proof/Machine/Lanes.lean ====
section
/-!
DEFINITION. Fabric lanes and die links (chapter 13): lanes up and down, commas, Kolkan cells and control blocks, credits, path status,
capability exchange, and die-link bring-up, replay and idle.
-/

namespace Sys2Proof.Machine

/-! ### Lanes -/

/-- MODE of a package lane (Table 13.1). -/
def State.laneMode (s : State) (l : Nat) : Nat := s.get FAB_LANE_STATUS.MODE l

/-- A lane with the Kolkan coding: KOLKAN or PEER. -/
def State.kolkanCoded (s : State) (l : Nat) : Bool := s.laneMode l == 3 || s.laneMode l == 4

/-- Every package lane. -/
def State.laneList (s : State) : List Nat := List.range (4 * s.dies)

/-- Source `k + l` of the die of lane `l` (Table 15.4). -/
def State.raiseLane (l k : Nat) (s : State) : State := s.raise (l / 4) (k + l % 4)

/-- The FABRIC source lane (R313): the ON Kolkan lane of lowest partner STRATUM whose TIME blocks have SRC_VALID and MASTER, then lowest lane. -/
def State.sourceLane (s : State) : Option Nat :=
  let ls := s.laneList.filter fun l => s.laneMode l == 3 && s.laneOn l && s.flag FAB_LANE_CTRL.TIME_EN l && (s.lane l).srcValid && (s.lane l).master
  ls.foldl (fun (best : Option Nat) l =>
    match best with
    | none => some l
    | some b => if s.get FAB_LANE_STATUS.PARTNER_STRATUM l < s.get FAB_LANE_STATUS.PARTNER_STRATUM b then some l else some b) none

/-- STRATUM sent (Table 13.6, R310). -/
def State.stratum (s : State) : Nat :=
  if !s.timeValid || s.flag TIME_STATUS.HOLDOVER 0 then 63
  else
    match s.get TIME_CTRL.SOURCE 0 with
    | 1 => 0
    | 2 => match s.sourceLane with
      | none => 63
      | some l => min 62 (s.get FAB_LANE_STATUS.PARTNER_STRATUM l + 1)
    | 3 => 1
    | _ => 63

/-- TIME_SOURCE, SOURCE_LANE and STRATUM brought in line with the lanes (Tables 13.10, 13.16). -/
def State.showSource (s : State) : State :=
  let chosen := if s.get TIME_CTRL.SOURCE 0 = 2 then s.sourceLane else none
  let s := s.laneList.foldl (fun (s : State) l => s.putFlag FAB_LANE_STATUS.TIME_SOURCE l (chosen == some l)) s
  s.put TIME_STATUS.SOURCE_LANE 0 (chosen.getD 0) |>.put TIME_STATUS.STRATUM 0 s.stratum

/-- Frames of a lane that are part received or part sent when it leaves ON: they are lost (R303). -/
def State.inFlight (s : State) (l : Nat) : Nat :=
  ((List.range 8).filter fun c => (s.rxPart.get ⟨l, c⟩ none).isSome).length + ((List.range 8).filter fun c => s.cellPos.get ⟨l, c⟩ 0 != 0).length

/-- Credits of both directions and cells in flight are gone (R300, R303). -/
def State.forgetCells (l : Nat) (s : State) : State :=
  let s := (List.range 8).foldl (fun (s : State) c =>
    { s with credit := s.credit.set ⟨l, c⟩ 0 0, owed := s.owed.set ⟨l, c⟩ 0 0, rxPart := s.rxPart.set ⟨l, c⟩ none none,
             cellPos := s.cellPos.set ⟨l, c⟩ 0 0 }) s
  s.modLane l fun _ => {}

/-- The end of what a lane leaving ON brings: LANE cause at its ports (R242), cells lost, the time source chosen anew; the peer lane takes the
heartbeat with it (R325). -/
def State.laneLeftOn (l : Nat) (s : State) : State :=
  let s := s.laneCnt l 10 (s.inFlight l) |>.forgetCells l |>.laneCause l 0 true
  let s := if s.laneMode l = 4 then s.put PEER_STATUS.HB_FAIL 0 1 else s
  s.showSource

/-- A lane leaves ON, or a phase it was in, for state `st`. -/
def State.laneTo (l st : Nat) (s : State) : State :=
  let was := s.laneOn l
  let s := s.put FAB_LANE_STATUS.STATE l st
  let s := if st = 0 then s.put FAB_LANE_STATUS.ALIGN l 0 |>.put FAB_LANE_STATUS.IDLE l 1 |>.modLane l (fun _ => {})
    else if st = 1 then s.put FAB_LANE_STATUS.IDLE l 0 else s
  if was && st ≠ 2 then s.laneLeftOn l else s

/-- A lane reaches ON: credits start at the partner's CAP values, and its LANE cause goes (R300, R303, R242). -/
def State.laneUp (l : Nat) (s : State) : State :=
  let credits := ((s.lane l).cap.map fun c => c.credits).getD []
  let s := s.put FAB_LANE_STATUS.STATE l 2 |>.put FAB_LANE_STATUS.ALIGN l 1 |>.put FAB_LANE_STATUS.CDR_LOCK l 1
    |>.put FAB_LANE_STATUS.LOS l 0 |>.put FAB_LANE_STATUS.IDLE l 0
  let s := (List.range 8).foldl (fun (s : State) c => { s with credit := s.credit.set ⟨l, c⟩ 0 (min 4095 (credits.getD c 0)) }) s
  s.laneCause l 0 false |>.showSource

/-- The capability exchange lets a Kolkan lane reach ON (R304). -/
def State.capDone (s : State) (l : Nat) : Bool :=
  let x := s.lane l
  s.flag FAB_LANE_STATUS.ALIGN l && x.seen && x.partnerSeen
    && x.cap.any fun c => c.version == 1 && !(c.device < 1024 && c.device == s.get PKG_IDENT.DEVICE_ID 0)

/-- A lane leaves ON for STARTING without a request (R303). -/
def State.laneFail (l : Nat) (s : State) : State :=
  if s.laneOn l then s.laneTo l 1 |>.put FAB_LANE_STATUS.ALIGN l 0 |>.put FAB_LANE_STATUS.LINK_EVENT l 1 |>.raiseLane l 2240 else s

/-- LANE_FAIL (R303): signal, clock lock or alignment lost while ON. -/
def execLaneFail (lane : Nat) (los cdrLock : Bool) (s : State) : Result :=
  let l := s.laneUnit lane
  if s.laneOn l then .next (s.laneFail l |>.putFlag FAB_LANE_STATUS.LOS l los |>.putFlag FAB_LANE_STATUS.CDR_LOCK l cdrLock) else .next s

/-- The CAP block of a lane (R300, R304, Table 13.3): VERSION 1, TIME blocks supported, 256 cells a class. -/
def State.sendCap (l : Nat) (s : State) : State :=
  s.sendControl l (controlBlock 0x5A (s.get PKG_IDENT.DEVICE_ID 0 * 2 ^ 109 + l * 2 ^ 104 + 2 ^ 100 + s.get FAB_LANE_CTRL.PRECODE_REQ l * 2 ^ 99 + 2 ^ 98
    + ofBool (s.lane l).seen * 2 ^ 97 + ((List.range 8).map fun c => 256 * 2 ^ (16 + 10 * c)).sum))

/-- COMMA_LOCK (R297): the 130 bits received where a comma is due, header first. Three commas in a row give lock; four missing in a row lose it. While
locked, 512 codewords have come since the one before. From lock on the part sends CAP blocks (R304; log entry 69). -/
def execCommaLock (lane : Nat) (block : List Bool) (s : State) : Result :=
  let x := s.lane lane
  let found := isComma block
  if !s.kolkanCoded lane then .next s
  else if s.flag FAB_LANE_STATUS.ALIGN lane then
    let n := if found then 0 else x.missing + 1
    let s := s.laneCnt lane 0 512
    if n = 4 then .next (s.modLane lane (fun x => { x with missing := 0, commas := 0 }) |>.put FAB_LANE_STATUS.ALIGN lane 0 |>.laneFail lane)
    else .next (s.modLane lane fun x => { x with missing := n })
  else
    let n := if found then x.commas + 1 else 0
    if n = 3 then .next (s.modLane lane (fun x => { x with commas := 0, missing := 0 }) |>.put FAB_LANE_STATUS.ALIGN lane 1 |>.sendCap lane)
    else .next (s.modLane lane fun x => { x with commas := n })

/-! ### Cells (R298 to R302) -/

/-- The frame in progress of a class ends unused, and counts in RX_ABORTED. -/
def State.endPart (l c : Nat) (s : State) : State :=
  match s.rxPart.get ⟨l, c⟩ none with
  | none => s
  | some _ => { s with rxPart := s.rxPart.set ⟨l, c⟩ none none }.laneCnt l 7 1

/-- The frames in progress of several classes end. -/
def State.endParts (l : Nat) (cs : List Nat) (s : State) : State := cs.foldl (fun s c => s.endPart l c) s

/-- A frame that its cells completed waits for the parser, the circuit unit or the host; one beyond 9,216 bytes is dropped. -/
def State.completePart (l src : Nat) (p : RxPart) (s : State) : State :=
  if p.ctype = 2 then { s with oam := s.oam ++ [OamMsg.mk l src p.bytes] }
  else if 9216 < p.bytes.length then s.laneCnt l 7 1
  else { s with rxReady := s.rxReady.set ⟨l, 0⟩ [] (s.rxReady.get ⟨l, 0⟩ [] ++ [RxReady.mk p.bytes p.domain (p.ctype == 1)]) }.laneCnt l 5 1

/-- A cell joined to the frame in progress of its class (R299). -/
def State.joinCell (l h : Nat) (payload : List Nat) (s : State) : State :=
  let tc := bits h 111 3
  let first := bitAt h 115
  let s := if first then s.endPart l tc else s
  match s.rxPart.get ⟨l, tc⟩ none, first with
  | none, false => s
  | part, _ =>
    let p : RxPart := part.getD ⟨[], bits h 68 12, bits h 116 4⟩
    let p := { p with bytes := p.bytes ++ payload.take (bits h 102 8) }
    if bitAt h 114 then { s with rxPart := s.rxPart.set ⟨l, tc⟩ none none }.completePart l (bits h 80 11) p
    else { s with rxPart := s.rxPart.set ⟨l, tc⟩ none (some p) }

/-- The types of Table 13.3. -/
def controlTypes : List Nat := [0x1E, 0x2D, 0x2E, 0x3C, 0x4B, 0x55, 0x5A, 0x66, 0x78]

/-- The 440 symbols of a codeword from its precoded values as received and the value before them, the inverse of R296. -/
def codewordSymbols (before : Nat) (p : List Nat) : List Nat := symbolsOf 440 ((unprecode before p).flatMap grayPair)

/-- A block or codeword that came wrong (R296, R298): what is of no use is discarded, and frames with a cell in it end. On the peer lane a message
is discarded and counts in PEER_BAD (R323). A codeword with at most 12 wrong symbols is corrected, and nothing ends. -/
def State.badBlock (lane : Nat) (b : BadBlock) (s : State) : State :=
  let bad := fun (s : State) => if s.laneMode lane = 4 then s.peerCnt 1 1 else s
  match b with
  | .control v readable =>
    if crc16 112 (v / 2 ^ 16 % 2 ^ 112) ≠ v % 2 ^ 16 then
      let s := (bad s).laneCnt lane 3 1
      if bits v 120 8 = 0x78 then s.endParts lane (if readable then [bits v 111 3] else List.range 8) else s
    else if controlTypes.contains (bits v 120 8) then s
    else (bad s).laneCnt lane 4 1
  | .header cs => (bad s).laneCnt lane 4 1 |>.endParts lane cs
  | .codeword comma before p cs =>
    match rsCorrect (codewordSymbols (if comma then 0 else before) p) with
    | some (n, _) => s.laneCnt lane 1 n
    | none => (bad s).laneCnt lane 2 1 |>.endParts lane cs

/-- CONTROL_BLOCK_BAD (R298), on a lane that holds comma lock. -/
def execControlBlockBad (lane : Nat) (b : BadBlock) (s : State) : Result :=
  if !s.kolkanCoded lane || !s.flag FAB_LANE_STATUS.ALIGN lane then .next s else .next (s.badBlock lane b)

/-- KOLKAN_CELL_RECEIVE (R302): a CELL control block, its 128 payload bits and the bytes of its data blocks, on a Kolkan lane that is ON. A bad
HCRC is judged as CONTROL_BLOCK_BAD judges it; each cell's buffer place is owed back to the partner (R300). -/
def execKolkanCellReceive (lane h : Nat) (payload : List Nat) (s : State) : Result :=
  if s.laneMode lane ≠ 3 || !s.laneOn lane then .next s
  else if crc16 112 (h / 2 ^ 16 % 2 ^ 112) ≠ h % 2 ^ 16 then execControlBlockBad lane (.control h true) s
  else
    let tc := bits h 111 3
    let s := { s with owed := s.owed.set ⟨lane, tc⟩ 0 (s.owed.get ⟨lane, tc⟩ 0 + 1) }
    if bits h 91 11 ≠ s.get PKG_IDENT.DEVICE_ID 0 then .next (s.laneCnt lane 9 1)
    else if bits h 116 4 < 3 then .next (s.joinCell lane h payload)
    else .next s

/-- ABORT (R299): the frame in progress of a class ends. -/
def execAbort (lane tc : Nat) (s : State) : Result := .next (if s.laneOn lane then s.endPart lane tc else s)

/-! ### Credits (R300) -/

/-- FLOW (R300): credit increments of classes 0 to 7; credits saturate at 4,095. -/
def execFlow (lane : Nat) (inc : List Nat) (s : State) : Result :=
  if s.laneMode lane ≠ 3 || !s.laneOn lane then .next s
  else
    let s := (List.range 8).foldl (fun (s : State) c =>
      { s with credit := s.credit.set ⟨lane, c⟩ 0 (min 4095 (s.credit.get ⟨lane, c⟩ 0 + inc.getD c 0)) }) s
    .next (s.modLane lane fun x => { x with stalled := x.stalled.filter fun c => inc.getD c 0 == 0 })

/-- A frame of a class waits for a lane. -/
def State.classWaits (s : State) (lane tc : Nat) : Bool := (s.nextForLane lane (some tc)).isSome

/-- CREDIT_STALL (R300): a class has waited for credit for more than 100 µs; each wait counts once. -/
def execCreditStall (lane tc : Nat) (s : State) : Result :=
  if s.laneOn lane && s.laneMode lane == 3 && s.credit.get ⟨lane, tc⟩ 0 == 0 && s.classWaits lane tc && !(s.lane lane).stalled.contains tc then
    .next (s.laneCnt lane 11 1 |>.modLane lane fun x => { x with stalled := tc :: x.stalled })
  else .next s

/-- FLOW_SEND (R300): credits owed are returned, 12 bits a class, class 7 first. -/
def execFlowSend (lane : Nat) (s : State) : Result :=
  let give := fun c => min 4095 (s.owed.get ⟨lane, c⟩ 0)
  let sum := ((List.range 8).map give).sum
  if s.laneMode lane ≠ 3 || !s.laneOn lane || sum = 0 then .next s
  else
    let body := ((List.range 8).map fun c => give c * 2 ^ (24 + 12 * c)).sum
    let s' := (List.range 8).foldl (fun (s : State) c => { s with owed := s.owed.set ⟨lane, c⟩ 0 (s.owed.get ⟨lane, c⟩ 0 - give c) }) s
    .next (s'.sendControl lane (controlBlock 0x4B body))

/-! ### Path status (R301) -/

/-- Loss of path declared: PATH cause at every port of the lane. -/
def State.declarePath (l : Nat) (loss : Bool) (s : State) : State :=
  if s.flag FAB_LANE_STATUS.PATH_LOSS l = loss then s
  else s.putFlag FAB_LANE_STATUS.PATH_LOSS l loss |>.raiseLane l 2248 |>.laneCause l 2 loss

/-- STATUS (R301): a valid STATUS block; two in a row decide. On an Ethernet lane it is a remote fault that has held for 1 µs, or its end (R294). -/
def execStatus (lane : Nat) (pathOk rxOk : Bool) (s : State) : Result :=
  let l := s.laneUnit lane
  let good := pathOk && rxOk
  match s.laneMode l with
  | 1 | 2 => .next (s.declarePath l (!good))
  | 3 =>
    if !s.flag FAB_LANE_STATUS.ALIGN l then .next s
    else
      let x := s.lane l
      let bad := if good then 0 else min 2 (x.pathBad + 1)
      let ok := if good then min 2 (x.pathGood + 1) else 0
      let s := s.modLane l fun x => { x with pathBad := bad, pathGood := ok }
      .next (if bad = 2 then s.declarePath l true else if ok = 2 then s.declarePath l false else s)
  | _ => .next s

/-- STATUS_TIMEOUT (R301): 8 µs without a valid STATUS block. -/
def execStatusTimeout (lane : Nat) (s : State) : Result :=
  if s.laneMode lane ≠ 3 then .next s
  else .next (s.modLane lane (fun x => { x with pathGood := 0 }) |>.declarePath lane true)

/-- Frames can leave the part onward (R301): a tree is ON, on a standby one that is not protected. -/
def State.pathOk (s : State) : Bool :=
  (List.range (8 * s.dies)).any fun t => s.get DMK_TREE_STATE.STATE t == 2 && !s.standbyFor t

/-- STATUS_SEND (R301). -/
def execStatusSend (lane : Nat) (s : State) : Result :=
  if s.laneMode lane ≠ 3 || !(s.laneOn lane || s.get FAB_LANE_STATUS.STATE lane == 1) then .next s
  else
    .next (s.sendControl lane (controlBlock 0x3C
      (s.get PKG_IDENT.DEVICE_ID 0 * 2 ^ 109 + ofBool s.pathOk * 2 ^ 108 + s.get FAB_LANE_STATUS.ALIGN lane * 2 ^ 107)))

/-! ### Die links (R305, R307, R308) -/

/-- A field of both ends of the link between two dies. -/
def State.putLink (f : Field) (d e v : Nat) (s : State) : State := s.put f (linkAt d e) v |>.put f (linkAt e d) v

/-- The DIE_LINK cause at the ports of each die whose lanes lie on the other (R242). -/
def State.linkCause (d e : Nat) (on : Bool) (s : State) : State :=
  (List.range 4).foldl (fun (s : State) l =>
    if on then s.portCause d (4 * e + l) 1 |>.portCause e (4 * d + l) 1 else s.portClear d (4 * e + l) 1 |>.portClear e (4 * d + l) 1) s

/-- The link between two dies goes to state `st`; leaving ON holds the ports that need it. A start on the largest member is a blind one (R308). -/
def State.linkTo (d e st : Nat) (s : State) : State :=
  let was := s.linked d e
  let s := s.putLink FAB_DL_STATUS.STATE d e st |>.putLink FAB_DL_STATUS.LANES_LOCKED d e 0 |>.putLink FAB_DL_STATUS.IDLE d e (ofBool (st == 0))
  let s := if st = 1 then s.putLink FAB_DL_STATUS.BLIND d e (ofBool (s.ident.member == .hjc7064)) else s
  if was then s.linkCnt d e 3 1 |>.linkCnt e d 3 1 |>.linkCause d e true else s

/-- FLIT_REPLAY (R307): a flit from DIE[d] to DIE[e] failed its CRC and was replayed, well or not. The eighth failure in a row sends the link to
STARTING; `lost` flits were in flight. -/
def execFlitReplay (d e : Nat) (ok : Bool) (lost : Nat) (s : State) : Result :=
  if d = e || !s.linked d e then .next s
  else
    let k : Key := ⟨d, e⟩
    let run := if ok then 0 else s.replays.get k 0 + 1
    let s := s.linkCnt e d 1 1 |>.linkCnt d e 2 1
    if run < 8 then .next { s with replays := s.replays.set k 0 run }
    else
      let s := { s with replays := s.replays.set k 0 0 }.linkCnt d e 4 lost |>.linkTo d e 1 |>.putLink FAB_DL_STATUS.LINK_EVENT d e 1
      .next (s.raise d (2256 + e) |>.raise e (2256 + d))

/-- DIE_LINK_IDLE (R305): nothing to send either way for IDLE_NS; 0 never idles. -/
def execDieLinkIdle (d e : Nat) (s : State) : Result :=
  if d ≠ e && s.linked d e && s.get FAB_DL_CTRL.IDLE_NS (linkAt d e) ≠ 0 && !s.flag FAB_DL_STATUS.IDLE (linkAt d e) then
    .next (s.putLink FAB_DL_STATUS.IDLE d e 1 |>.linkCnt d e 6 1 |>.linkCnt e d 6 1)
  else .next s

/-- DIE_LINK_WAKE (R305). -/
def execDieLinkWake (d e : Nat) (s : State) : Result :=
  if d ≠ e && s.linked d e then .next (s.putLink FAB_DL_STATUS.IDLE d e 0) else .next s

/-- BLIND_FALLBACK (R308): a blind start without symbol lock in 2 ms, or one that met training patterns, goes on staged. -/
def execBlindFallback (d e : Nat) (s : State) : Result :=
  if d ≠ e && s.get FAB_DL_STATUS.STATE (linkAt d e) = 1 && s.flag FAB_DL_STATUS.BLIND (linkAt d e) then
    .next (s.putLink FAB_DL_STATUS.BLIND d e 0 |>.linkCnt d e 7 1 |>.linkCnt e d 7 1)
  else .next s

end Sys2Proof.Machine
end

