-- ==== Sys2Proof/Machine/Clear.lean ====
section
/-!
DEFINITION. What a full weave clears (R53), what a die loses with its power (R405), and what a reset of the package leaves (Table 17.6).
-/

namespace Sys2Proof.Machine

/-! ### Whose unit a field belongs to -/

/-- Units of a register on one die. -/
def RegDesc.perDie (r : RegDesc) : Nat := (r.dims.map fun x => x.2).foldl (· * ·) 1

/-- The contexts of a die and how many it has. -/
def contextTables : List (List Field × Nat) :=
  [(ALLOC.fields, 8192), (GATEHDR.fields, 256), (GATEOP.fields, 262144), (GATEADM.fields, 262144), (CIRC.fields, 1024), (CGRP.fields, 128),
   (METER.fields, 262144), (QUEUE.fields, 65536), (NODE.fields, 32768), (LPORT.fields, 32768), (KEYSLOT.fields, 8192), (MSC.fields, 16384),
   (MSA.fields, 32768)]

/-- Every die-scoped field with its units per die. -/
def dieFields : List (Nat × Nat) :=
  ((allRegs.filter fun r => r.die).flatMap fun r => r.fields.map fun f => (f.num, r.perDie))
    ++ contextTables.flatMap fun c => c.1.map fun f => (f.num, c.2)

/-- The die that a field's unit belongs to; none for a package field. -/
def dieOfKey (k : Key) : Option Nat := (dieFields.find? fun e => e.1 == k.n).map fun e => k.i / e.2

/-- The fields whose value the image sets. -/
def imageFields : List Nat :=
  (((allRegs.flatMap fun r => r.fields) ++ contextTables.flatMap fun c => c.1).filter fun f => f.perImage).map fun f => f.num

/-- The fields that the image sets hold its values again, but for TIME_CTRL.SOURCE and STEP_LIMIT_US (R293). -/
def State.loadImageValues (s : State) : State :=
  { s with regs := s.regs.filter fun e =>
      !(imageFields.contains e.1.n) || e.1.n == TIME_CTRL.SOURCE.num || e.1.n == TIME_CTRL.STEP_LIMIT_US.num }

/-! ### A full weave (R53) -/

/-- Occupancy fields of queues and of the Felt store. -/
def occupancyFields : List Field :=
  [QUEUE.CELLS, QUEUE.FRAMES, QUEUE.EXPRESS_USED, TM_DOMAIN.BUF_USED, TM_BUF_STATUS.BUF_USED, FELT_STATUS.USED_CELLS, FELT_DOMAIN.USED,
   FELT_PORT_STATUS.CELLS]

/-- Every unit of several fields back to reset. -/
def State.clearFields (fs : List Field) (s : State) : State := fs.foldl (fun s f => s.clearField f) s

/-- Buffers, queues, the Felt store and what waits for them. -/
def State.clearTraffic (s : State) : State :=
  let s : State := { s with
    queues := [], qstat := [], offers := [], felt := [], drain := [], inbox := [], laneOut := [], rxReady := [], rxPart := [], ceWaiting := [], frags := [] }
  s.clearFields occupancyFields

/-- Interrupt sources and groups: PENDING, ACTIVE and every count (R349). -/
def State.clearInterrupts (s : State) : State :=
  s.clearFields [IC_SRC.PENDING, IC_SRC.ACTIVE, IC_GROUP_STATUS.COUNT, IC_GROUP_STATUS.PENDING, IC_GROUP_STATUS.ACTIVE]

/-- A full weave clears buffers, queues, the Felt store, table regions, key slots and counters (R53, R361); circuits lose what the circuit region
held of them. -/
def State.clearWeave (s : State) : State :=
  let s := s.clearTraffic
  let s : State := { s with
    fwd := [], cache := [], ageAt := 0, touchSent := [], dev := [], stats := [], bwAcc := [],
    keys := s.keys.filter fun e => e.1.n == 3, loadedAt := s.loadedAt.filter fun e => e.1.n == 1, roots := [], switches := [], oldBind := [],
    circs := (s.circs.map fun e => (e.1, ({ domain := e.2.domain } : CircSt))).filter (fun e => e.2 ≠ {}), grps := [] }
  s.clearFields (FWD_DOMAIN.COUNT :: KEYSLOT.fields ++ MSA.fields) |>.clearInterrupts

/-! ### A die without power (R405) -/

/-- The key under which extension task sections are held: eight a die, by task. -/
def taskType : Nat := 0x100A

/-- Keys of per-die tables: those whose first number is the die. -/
def notOf {α : Type} (d : Nat) (t : Tbl α) : Tbl α := t.filter fun e => e.1.n ≠ d

/-- Keys whose first number counts `per` units a die. -/
def notIn {α : Type} (d per : Nat) (t : Tbl α) : Tbl α := t.filter fun e => e.1.n / per ≠ d

/-- What a die loses with its power: its registers, contexts, buffers, tables, keys and counters. MRAM stays, and so
does what the package holds of the image (R11). -/
def State.clearDie (d : Nat) (s : State) : State :=
  { s with
    regs := s.regs.filter (fun e => dieOfKey e.1 ≠ some d)
    live := s.live.filter (fun e => dieOfKey e.1 ≠ some d)
    sects := s.sects.filter (fun e => e.1.n == packageType || !(if treeType e.1.n || e.1.n == taskType then e.1.i / 8 == d else e.1.i == d))
    chans := s.chans.filter (fun e => e.1.n / 16384 ≠ d)
    cores := notOf d s.cores, ctxStore := notOf d s.ctxStore, tweed := notOf d s.tweed
    stats := notOf d s.stats, dev := notOf d s.dev, perf := notOf d s.perf, power := notOf d s.power, bwAcc := notOf d s.bwAcc
    sets := notIn d 8 s.sets, trees := notIn d 8 s.trees, terms := notIn d 8 s.terms, allocs := notIn d 8 s.allocs
    resv := notIn d 8 s.resv, rot := notIn d 16 s.rot, circs := notIn d 1024 s.circs, grps := notIn d 128 s.grps
    exact := notOf d s.exact, tern := notOf d s.tern, fwd := notOf d s.fwd, cache := notOf d s.cache
    chkSeen := s.chkSeen.filter (fun e => (if e.1.n = 0 then dieOf e.1.i else e.1.i / 68) ≠ d), touchSent := s.touchSent.filter (fun k => k.n ≠ d)
    dieLocks := notOf d s.dieLocks, quotaSaid := notOf d s.quotaSaid
    keys := s.keys.filter (fun e => e.1.n == 3 || !(e.1.i / (if e.1.n = 0 then 8192 else 32768) == d))
    loadedAt := s.loadedAt.filter (fun e => e.1.i / (if e.1.n = 1 then 2 else 8192) ≠ d), roots := notOf d s.roots
    oldBind := notIn d 8 s.oldBind, xgemIndex := notIn d 16 s.xgemIndex, frags := notIn d 8 s.frags
    switches := s.switches.filter (fun x => dieOf x.tree ≠ d)
    rotations := s.rotations.filter (fun x => dieOf x.tree ≠ d)
    labels := notOf d s.labels, queues := notIn d 2 s.queues, qstat := notIn d 2 s.qstat, offers := notIn d 2 s.offers, felt := notOf d s.felt, drain := notOf d s.drain
    inbox := notOf d s.inbox, laneOut := s.laneOut.filter (fun e => e.1.n / 4 ≠ d && e.1.i ≠ d)
    cellPos := notIn d 4 s.cellPos, credit := notIn d 4 s.credit, lanes := notIn d 4 s.lanes, owed := notIn d 4 s.owed
    rxPart := notIn d 4 s.rxPart, rxReady := notIn d 4 s.rxReady, replays := notOf d s.replays, ceWaiting := notOf d s.ceWaiting
    elim := notOf d s.elim, stamps := notOf d s.stamps
    channels := notIn d 16 s.channels, dieStacks := notOf d s.dieStacks }

/-! ### Reset of the package (Table 17.6) -/

/-- MRAM keeps what is written; what was asked for and not written is lost. -/
def State.mramKept (s : State) : Tbl MramDie :=
  (s.mram.map fun e => (e.1, { e.2 with waiting := [], todo := [] })).filter fun (e : Key × MramDie) => e.2 ≠ ({} : MramDie)

/-- What a package reset keeps: the part itself, MRAM (a record being written is torn) and its slots, debug FAILURES and SHUT, the free values used so far, and what is outside the
part: its pins, commands that wait and what has left. Network time runs on without being valid. -/
def State.afterReset (s : State) : State :=
  let s := s.dieList.foldl State.tearRecord s
  let failures := s.get SEC_DBG_STATUS.FAILURES 0
  let s' : State := { ident := s.ident, slots := s.slots, slotBad := s.slotBad, mram := s.mramKept, uses := s.uses, outbox := s.outbox, pending := s.pending,
                      netSec := s.netSec, netFrac := s.netFrac, supply := { thermtrip := s.supply.thermtrip, perst := s.supply.perst } }
  s'.put SEC_DBG_STATUS.FAILURES 0 failures |>.put SEC_DBG_STATUS.STATE 0 (if 16 ≤ failures then 2 else 0)

end Sys2Proof.Machine
end

