-- ==== Sys2Proof/Machine/Units.lean ====
section
/-!
DEFINITION. Units and their enable requests (R38): what entering STARTING and SHUTTING does to trees, lanes, die links, secure channels and dies,
and what a tree loses when it reaches OFF (R55, R72, R83, R164).
-/

namespace Sys2Proof.Machine

/-! ### Trees -/

/-- The cells of a frame freed from a queue. -/
def State.uncell (d : Nat) (up : Bool) (q : Nat) (f : Frame) (s : State) : State :=
  let i := queueAt d up q
  let dom := d * 4096 + f.cellDomain
  let s := s.put QUEUE.CELLS i (s.get QUEUE.CELLS i - f.cells) |>.put QUEUE.FRAMES i (s.get QUEUE.FRAMES i - 1)
    |>.put TM_DOMAIN.BUF_USED dom (s.get TM_DOMAIN.BUF_USED dom - f.cells)
  if f.dram then s.put TM_BUF_STATUS.BUF_USED d (s.get TM_BUF_STATUS.BUF_USED d - f.cells)
  else s.put QUEUE.EXPRESS_USED i (s.get QUEUE.EXPRESS_USED i - f.cells)

/-- The frames of a queue for which `bad` holds dropped and counted in the queue's drop counters. -/
def State.dropFrom (d : Nat) (up : Bool) (bad : Frame → Bool) (s : State) (q : Nat) : State :=
  let fs := s.queueOf d up q
  let gone := fs.filter bad
  if gone.isEmpty then s
  else
    let s := s.setQueue d up q (fs.filter fun f => !bad f)
    let s := gone.foldl (fun (s : State) f => s.uncell d up q f |>.dropQueued d up q f.length) s
    let newHead := (fs.head?.map bad).getD false
    if newHead then s.newHead d up q true |>.reofferQueue d up q else s

/-- Downstream frames queued for the line ports of a tree dropped at the start of its re-weave (R55). -/
def State.flushTree (t : Nat) (s : State) : State :=
  let d := dieOf t
  (s.busyQueues d false).foldl (fun s q => State.dropFrom d false (fun f => f.tree == t) s q) s

/-- A tree enters STARTING: TEST and PROTECTED take effect (R86, Table 14.15). -/
def State.treeStart (t : Nat) (s : State) : State :=
  s.modTree t (fun x => { x with test := s.flag TREE_OPT_CTRL.TEST t, shared := s.flag PEER_TREE.PROTECTED t, gen := none, loopErrors := 0 })
    |>.setUnit (.tree t) 1

/-- A tree enters SHUTTING: what is declared on it lasts, and nothing is declared any more (R83, R107). -/
def State.treeShut (t : Nat) (s : State) : State := s.setUnit (.tree t) 3

/-- Terminals of a tree that hold an index. -/
def State.usedTerms (s : State) (t : Nat) : List Nat :=
  (s.regs.filter fun e => e.1.n == TREE_RNG_TERM.STATE.num && e.1.i / 256 == t).map fun e => e.1.i % 256

/-- Fields of a tree slice that say something of the light and the terminals of the time before. -/
def treeOffFields : List Field :=
  [TREE_OPT_STATUS.LOS_FIFTY, TREE_OPT_STATUS.LOS_XGS, TREE_DEF_STATUS.LOS_FIFTY, TREE_DEF_STATUS.LOS_XGS, TREE_DEF_STATUS.LOL_FIFTY,
   TREE_DEF_STATUS.LOL_XGS, TREE_DEF_STATUS.TREE_LOS]

/-- A part that does not pair stops toggling when none of its transmitters may be lit (R319). -/
def State.releaseClaim (s : State) : State :=
  let lit := (List.range (8 * s.dies)).any fun t => s.get (txState 0) t ≥ 2 || s.get (txState 1) t ≥ 2
  if s.flag PEER_CTRL.ENABLE 0 || lit then s else s.put PEER_STATUS.CLAIM_OUT 0 0

/-- What a tree slice keeps of its terminals, allocations, reservations and fragments is gone, and the dynamic bytes of its allocations are zero. -/
def State.dropTree (t : Nat) (s : State) : State :=
  { s with
    terms := s.terms.filter (fun e => e.1.n ≠ t), allocs := s.allocs.filter (fun e => e.1.n ≠ t), resv := s.resv.filter (fun e => e.1.n ≠ t),
    rot := s.rot.filter (fun e => e.1.n / 2 ≠ t), frags := s.frags.filter (fun e => e.1.n ≠ t),
    regs := s.regs.filter (fun e => !(e.1.i / 1024 == t && allocEngine.any fun f => f.num == e.1.n)) }

/-- A tree reaches OFF: dark, its runs zero, its terminals and detections gone (they are found again), the dynamic bytes of its allocations zero,
and nothing left of maps, contexts and containers (R72, R83, R164). -/
def State.treeOff (t : Nat) (s : State) : State :=
  let s := if (s.tree t).calib.isSome then s.put PEER_CMD.DONE 0 1 else s
  let s := s.darken t |>.modTree t fun x => { x with txShut := true, muteTail := false, blocked := [], calib := none, driftSum := 0, driftCount := 0 }
  let s := treeOffFields.foldl (fun (s : State) f => s.put f t 0) s
  let s := [0, 1].foldl (fun (s : State) k => s.modSet t k fun x => { rxLol := x.rxLol, txLol := x.txLol }) s
  let s := (s.usedTerms t).foldl (fun s n => s.freeTerm t n) s
  let s := (List.range 4).foldl (fun (s : State) i => s.clearRec TREE_RNG_DETECT.desc.fields (detectAt t i)) s |>.showPending t
  (s.dropTree t |>.setUnit (.tree t) 0).releaseClaim

/-- A tree's transmitters light and it is ON: its circuits resume (R71, R184). -/
def State.treeOn (t : Nat) (s : State) : State := s.opticsLit t |>.setUnit (.tree t) 2 |>.circuitsResume t |>.judgeTree t

/-! ### Requests -/

/-- A unit that can be switched on: a live tree, a lane with a mode, a link between two powered dies, each on a woven die; a present die whose
trip condition does not hold. Nothing starts while a full weave runs (R53). -/
def State.mayStart (s : State) (u : UnitId) : Bool :=
  s.loader.weave == 0 && match u with
  | .tree t => s.get DMK_TREE_STATE.LINE_MODE t != 0 && s.isWoven (dieOf t)
  | .lane l => s.laneMode l != 0 && s.isWoven (l / 4)
  | .dieLink k => k / 8 != k % 8 && s.powered (k / 8) && s.powered (k % 8)
  | .channel c => s.isWoven (c / 16384)
  | .die d => d < s.dies && !(s.powerOf d).tripHolds

/-- A unit enters STARTING. -/
def State.startUnit (u : UnitId) (s : State) : State :=
  match u with
  | .tree t => s.treeStart t
  | .lane l => s.laneTo l 1
  | .dieLink k => s.linkTo (k / 8) (k % 8) 1
  | .channel c => s.setUnit (.channel c) 1
  | .die d => s.setUnit (.die d) 1 |>.put PKG_DIE_CTRL.TRIPPED d 0

/-- A unit other than a die enters SHUTTING. -/
def State.shutUnit (u : UnitId) (s : State) : State :=
  match u with
  | .tree t => s.treeShut t
  | .lane l => s.laneTo l 3
  | .dieLink k => s.linkTo (k / 8) (k % 8) 3
  | .channel c => s.setUnit (.channel c) 3
  | .die d => s.setUnit (.die d) 3

/-- The units of a die that have left OFF, the die itself apart. -/
def State.unitsOf (s : State) (d : Nat) : List UnitId :=
  (((List.range 8).map fun t => UnitId.tree (8 * d + t)) ++ ((List.range 4).map fun l => UnitId.lane (4 * d + l))
    ++ (((List.range s.dies).filter fun e => e != d).map fun e => UnitId.dieLink (8 * d + e))
    ++ ((s.chans.filter fun e => e.1.n / 16384 == d).map fun e => UnitId.channel e.1.n)).filter fun u => s.unitState u != 0

/-- A re-weave runs or waits on a tree (R56). -/
def State.reweaving (s : State) (t : Nat) : Bool := s.loader.reweave.any fun r => r.tree == t

/-- DMK_TREE_STATE.LATCHED shows a request latched for a tree under re-weave (R56). -/
def State.showLatched (t : Nat) (s : State) : State :=
  let waits := s.loader.reweave.any fun r => r.tree == t && !r.running
  s.putFlag DMK_TREE_STATE.LATCHED t
    (s.reweaving t && (waits || s.latchOf (.tree t) != 0 || s.loader.latchedReweave.isSome || s.loader.latchedWeave))

/-- An enable or disable request acts in OFF or ON, and is latched in STARTING or SHUTTING and while a re-weave runs on the tree; the last one counts
(R38, R56). A die's shutdown takes its units along (R405). -/
def State.requestUnit (u : UnitId) (on : Bool) (s : State) : State :=
  let latch := fun (s : State) => s.setLatch u (if on then 2 else 1)
  let held := match u with
    | .tree t => s.reweaving t
    | _ => false
  if held then
    match u with
    | .tree t => (latch s).showLatched t
    | _ => s
  else
    match s.unitState u, on with
    | 0, true => if s.mayStart u then s.startUnit u else s
    | 2, false => s.shutUnit u
    | 1, _ => latch s
    | 3, _ => latch s
    | _, _ => s

/-- The ENABLE field of a unit that has one. -/
def State.putEnable (u : UnitId) (on : Bool) (s : State) : State :=
  match u with
  | .lane l => s.putFlag FAB_LANE_CTRL.ENABLE l on
  | .dieLink k => s.putFlag FAB_DL_CTRL.ENABLE k on |>.putFlag FAB_DL_CTRL.ENABLE (k % 8 * 8 + k / 8) on
  | .die d => s.putFlag PKG_DIE_CTRL.ENABLE d on
  | _ => s

/-- Every unit of a die other than the die itself told to shut down; one in STARTING latches it. -/
def State.shutDieUnits (d : Nat) (s : State) : State := (s.unitsOf d).foldl (fun s u => s.requestUnit u false) s

/-- A die is told to start or to shut down (R405, R406): shutting down takes its units along; what is asked while its trip condition holds acts when
that ends (R413). -/
def State.requestDie (d : Nat) (on : Bool) (s : State) : State :=
  let was := s.unitState (.die d)
  if was = 0 && (s.powerOf d).tripHolds then s.setLatch (.die d) (if on then 2 else 1)
  else
    let s := s.requestUnit (.die d) on
    if was = 2 && !on then s.shutDieUnits d else s

/-- A unit told to stop does not start again after a step of network time or a SHUTDOWN of its stack, for which it would have waited (R38). -/
def State.forgetRestart (u : UnitId) (s : State) : State :=
  match u with
  | .tree t =>
    let s : State := { s with clock := { s.clock with step := s.clock.step.map fun p => { p with trees := p.trees.filter fun x => x ≠ t } } }
    { s with dieStacks := s.dieStacks.set ⟨dieOf t, 0⟩ {} (let x := s.dieStacks.get ⟨dieOf t, 0⟩ {}; { x with trees := x.trees.filter fun y => y ≠ t }) }
  | .lane l =>
    { s with dieStacks := s.dieStacks.set ⟨l / 4, 0⟩ {} (let x := s.dieStacks.get ⟨l / 4, 0⟩ {}; { x with lanes := x.lanes.filter fun y => y ≠ l }) }
  | _ => s

/-- UNIT_ENABLE_REQUEST (R38). -/
def execUnitEnableRequest (u : UnitId) (on : Bool) (s : State) : Result :=
  let s := s.putEnable u on
  let s := if on then s else s.forgetRestart u
  match u with
  | .die d => .next (s.requestDie d on)
  | .tree _ | .lane _ | .dieLink _ | .channel _ => .next (s.requestUnit u on)

end Sys2Proof.Machine
end

