-- ==== Sys2Proof/Machine/Weave.lean ====
section
/-!
DEFINITION. The Damask loader at work (chapter 2): slot selection, full weaves and per-tree re-weaves, the DMK commands, and the completion of unit
phases, whose latched requests the loader and R38 act on.
-/

namespace Sys2Proof.Machine

/-! ### Selection (R50, R51, R52) -/

/-- A SLOT_SELECT record (Table 2.8). -/
structure Selection where
  epoch : Nat
  slot : Nat
  trial : Bool
  digest : Nat
  deriving DecidableEq, Repr

/-- The payload of a SLOT_SELECT (Table 2.8); DIGEST holds the 48 bytes of D in their order. -/
def selectPayload (epoch slot : Nat) (trial : Bool) (version digest : Nat) : List Nat :=
  leBytes 4 epoch ++ [slot % 2, ofBool trial, 0, 0] ++ leBytes 4 version ++ [0, 0, 0, 0] ++ beBytes 48 digest

/-- The selection that a die's records hold. -/
def State.dieSelection (s : State) (d : Nat) : Option Selection :=
  (s.holding d 0x0001 0).map fun r =>
    ⟨leAt r.payload 0 4, byteAt r.payload 4 % 2, byteAt r.payload 5 == 1, leValue ((r.payload.drop 16).take 48).reverse⟩

/-- The selection with the highest EPOCH on any powered die (R50); on equal epochs that of the lowest die. -/
def State.selection (s : State) : Option Selection :=
  s.poweredDies.foldl (fun (best : Option Selection) d =>
    match best, s.dieSelection d with
    | none, x => x
    | some b, none => some b
    | some b, some x => if b.epoch < x.epoch then some x else some b) none

/-- The highest EPOCH, 0 while nothing is selected. -/
def State.epoch (s : State) : Nat := (s.selection.map fun x => x.epoch).getD 0

/-- The selection rewritten to the dies that hold a lower epoch or none (R50). -/
def State.spreadSelection (s : State) : State :=
  match s.selection with
  | none => s
  | some x =>
    let r := (s.poweredDies.filterMap fun d => s.holding d 0x0001 0).find? fun r => leAt r.payload 0 4 == x.epoch
    s.poweredDies.foldl (fun (s : State) d =>
      if (s.dieSelection d).any fun y => y.epoch == x.epoch then s else s.writeRecord d 0x0001 0 ((r.map fun r => r.payload).getD [])) s

/-- The copy of a slot that is read when no check chooses one: the lowest powered die's. -/
def State.slotCopy (s : State) (k : Nat) : Memory := s.slotOf (s.poweredDies.headD 0) k

/-- A SLOT_SELECT for the image in a slot, written to every present die (R50). -/
def State.writeSelect (epoch slot : Nat) (trial : Bool) (b : Memory) (s : State) : State :=
  s.writeAll 0x0001 0 (selectPayload epoch slot trial (imageVersion b) (imageDigest b))

/-- The slot to weave (R51): the selected one, its digest as the record names it; else the other. The die of the copy, the slot, and whether the
loader fell back; or the code of the last check. Slot A with no digest to match while nothing is selected (log entry 22). -/
def State.weaveChoice (s : State) : Option (Nat × Nat × Bool) × Nat :=
  let slot := (s.selection.map fun x => x.slot).getD 0
  match s.slotCheck slot (s.selection.map fun x => x.digest) with
  | (some d, c) => (some (d, slot, false), c)
  | (none, _) =>
    match s.slotCheck (1 - slot) none with
    | (some d, c) => (some (d, 1 - slot, true), c)
    | (none, c) => (none, c)

/-! ### Results of commands -/

/-- LAST_RESULT set. -/
def State.dmkResult (c : Nat) (s : State) : State := s.put DMK_STATUS.LAST_RESULT 0 c

/-- A command done: its result, and source 3,842 (Table 15.4). -/
def State.dmkDone (c : Nat) (s : State) : State := s.dmkResult c |>.raisePkg 3842

/-- A command refused for a reason to which the spec gives no code of its own: a free code other than OK (log entry 23). -/
def State.dmkRefused (s : State) : State := s.useFree.dmkDone (1 + s.free % 13)

/-- Every DMK command under SEC_LOCK.DAMASK: LOCKED, and a firewall event (R15, Table 2.16). -/
def State.dmkLocked (s : State) : State := s.fwEvent 0x10008 0 true 3 |>.dmkDone 10

/-- WEAVE_STATE set. -/
def State.weaveState (v : Nat) (s : State) : State := s.put DMK_STATUS.WEAVE_STATE 0 v

/-! ### Loading sections -/

/-- A Tweed core starts from its firmware's entry point, with every extension task running (R340, R343). -/
def State.tweedStart (d : Nat) (s : State) : State :=
  let n := (s.sects.filter fun e => e.1.n == taskType && e.1.i / 8 == d).length
  let gen := (s.tweedOf d).gen + 1
  let s : State := { s with cores := s.cores.set ⟨d, 0⟩ {} {}, ctxStore := s.ctxStore.set ⟨d, 0⟩ [] [] }
  s.modTweed d (fun x => { x with gen := gen, calm := 0, overruns := List.replicate 8 0, srcDie := 0 })
    |>.clearRec IC_CORE_STATUS.desc.fields d |>.put TWEED_STATUS.STATE d 1 |>.put TWEED_STATUS.OVERLOAD d 0 |>.put TWEED_STATUS.TASKS_RUNNING d (2 ^ min 8 n - 1)

/-- A section of an image woven. -/
def State.weaveSect (type unit : Nat) (b : List Nat) (s : State) : State := { s with sects := s.sects.set ⟨type, unit⟩ [] b }

/-- VARIANT of a line mode (Table 3.11): of a coexistence tree, as its line mode section says (log entry 9). -/
def State.variantOf (s : State) (t mode : Nat) : Nat :=
  match mode with
  | 1 => 1
  | 2 => 2
  | 4 => 1 + Config.imageField (s.sect 0x0101 t) TREE_OPT_STATUS.VARIANT.num 0 % 2
  | _ => 0

/-- The line mode of a tree as its woven section gives it; its frame capacity follows, and the booking is judged against it (R145). -/
def State.setLineMode (t : Nat) (s : State) : State :=
  let mode := lineMode (s.sect 0x0101 t)
  let live := s.get SEG_IDENT.TREE_LIVE (dieOf t)
  s.put DMK_TREE_STATE.LINE_MODE t mode |>.put TREE_OPT_STATUS.VARIANT t (s.variantOf t mode)
    |>.put SEG_IDENT.TREE_LIVE (dieOf t) (if mode = 0 then clearBit live (t % 8) else setBit live (t % 8))
    |>.judgeBooking t

/-- The tree-scoped sections of a tree loaded from an image. -/
def State.weaveTree (b : Memory) (t : Nat) (s : State) : State :=
  let s := [0x0101, 0x0102, 0x0103].foldl (fun (s : State) type => s.weaveSect type t (imageSect b type (dieOf t) (t % 8))) s
  s.setLineMode t

/-- What holds the port of a lane as DIE[d] comes up: LANE where the lane is not ON, on every die where the lane is its own, and PATH (R242). -/
def State.holdFor (d l : Nat) (s : State) : State :=
  let s := if s.laneOn l then s else if l / 4 = d then s.laneCause l 0 true else s.portCause d l 0
  if s.flag FAB_LANE_STATUS.PATH_LOSS l then s.portCause d l 2 else s

/-- The sections of a die loaded from an image (R46), the root of its stack drawn (R269), its Tweed core started, and the ports of its lanes and links HELD until they are ON (R242). -/
def State.weaveDie (b : Memory) (d : Nat) (s : State) : State :=
  let s := [1, 2, 3, 4, 5, 6, 7, 8, 9].foldl (fun (s : State) type => s.weaveSect type d (imageSect b type d 0)) s
  let tasks := ((sectTable b).filter fun e => e.type == 10 && bitAt e.dieMask d).take 8
  let s := (List.range tasks.length).foldl (fun (s : State) n => s.weaveSect taskType (8 * d + n) ((tasks[n]?.map fun e => sectBytes b e).getD [])) s
  let s := (List.range 8).foldl (fun (s : State) t => s.weaveTree b (8 * d + t)) s
  let s := (s.drawRoot d).tweedStart d
  let s := (s.dieList.flatMap fun e => (List.range 4).map fun l => 4 * e + l).foldl (fun (s : State) l => s.holdFor d l) s
  (s.dieList.filter fun e => e != d).foldl (fun (s : State) e => if s.linked d e then s else s.linkCause d e true) s

/-- The image in force. -/
def State.runningImage (s : State) : Memory := s.slotOf s.loader.source (s.get DMK_STATUS.ACTIVE_SLOT 0)

/-! ### A full weave (R53) -/

/-- The selected slot is checked and its weave begins; or the part stays in NO_IMAGE, with no die WOVEN (R51, R52). -/
def State.beginWeave (s : State) : State :=
  match s.weaveChoice with
  | (none, c) =>
    let s := s.modLoader (fun l => { l with weave := 0, woven := 0 }) |>.weaveState 0
    if s.loader.byCommand then s.dmkDone c else s.dmkResult c
  | (some (d, slot, fell), _) =>
    let b := s.slotOf d slot
    let trial := !fell && s.selection.any fun x => x.trial
    let e := s.epoch
    let s := if trial then s.writeSelect (e + 1) (1 - slot) false (s.slotCopy (1 - slot)) |>.modLoader fun l => { l with trialEpoch := e } else s
    let s := if s.loader.byCommand then s.put TIME_CTRL.SOURCE 0 (s.get TIME_CTRL.SOURCE 0) |>.put TIME_CTRL.STEP_LIMIT_US 0 (s.get TIME_CTRL.STEP_LIMIT_US 0)
      else s
    let s : State := { s.cancelSnapshot.clearWeave with sects := [] }
    let s : State := { s with sects := s.sects.set ⟨packageType, 0⟩ [] (imageSect b 7 (s.poweredDies.headD 0) 0) }
    s.loadImageValues.modLoader (fun l => { l with weave := 2, woven := 0, source := d, fellBack := fell })
      |>.put DMK_STATUS.ACTIVE_SLOT 0 slot |>.putFlag DMK_STATUS.TRIAL 0 trial |>.put DMK_STATUS.ACTIVE_VERSION 0 (imageVersion b)
      |>.weaveState 2

/-- Every unit that R53 names is OFF. -/
def State.allOff (s : State) : Bool := s.dieList.all fun d => (s.unitsOf d).isEmpty

/-- A weave command whose units are all OFF goes on. -/
def State.weaveIfOff (s : State) : State := if s.loader.weave == 1 && s.allOff then s.beginWeave else s

/-- A full weave by command: every unit shuts first (R53). -/
def State.startWeave (s : State) : State :=
  let s := s.modLoader fun l => { l with weave := 1, byCommand := true }
  (s.dieList.foldl (fun s d => s.shutDieUnits d) s).weaveIfOff

/-- The units of a die that a weave enables: its live trees, its lanes with a mode, and its links (R395). -/
def State.enableDie (d : Nat) (s : State) : State :=
  let on := fun (u : UnitId) (s : State) => s.requestUnit u true
  let s := (List.range 8).foldl (fun (s : State) t => if s.get DMK_TREE_STATE.LINE_MODE (8 * d + t) = 0 then s else on (.tree (8 * d + t)) s) s
  let s := (List.range 4).foldl (fun (s : State) l =>
    if s.laneMode (4 * d + l) = 0 then s else on (.lane (4 * d + l)) (s.putEnable (.lane (4 * d + l)) true)) s
  (s.dieList.filter fun e => e != d).foldl (fun (s : State) e =>
    if s.powered e then on (.dieLink (8 * d + e)) (s.putEnable (.dieLink (8 * d + e)) true) else s) s

/-- The last die is WOVEN: the weave ends, and the loader enables the units (R395). -/
def State.endWeave (s : State) : State :=
  let fell := s.loader.fellBack
  let cmd := s.loader.byCommand
  let s := s.modLoader (fun l => { l with weave := 0, byCommand := false, fellBack := false }) |>.weaveState 3 |>.dmkResult 0
  let s := if fell then s.put DMK_STATUS.FALLBACK 0 1 |>.raisePkg 3840 else s
  let s := if cmd then s.raisePkg 3842 else s
  (s.dieList.filter fun d => s.diePresent d).foldl (fun s d => s.enableDie d) s

/-- A latched enable or disable request of a unit is acted on (R38). -/
def State.actLatch (u : UnitId) (s : State) : State :=
  let v := s.latchOf u
  let s := s.setLatch u 0
  match u with
  | .die d => if v = 0 then s else s.requestDie d (v == 2)
  | _ => if v = 0 then s else s.requestUnit u (v == 2)

/-- WEAVE_DONE (R53): a die of a running weave reports WOVEN. -/
def execWeaveDone (d : Nat) (s : State) : Result :=
  if s.loader.weave ≠ 2 || !s.powered d || s.isWoven d then .next s
  else
    let s := s.weaveDie s.runningImage d |>.modLoader (fun l => { l with woven := setBit l.woven d }) |>.setUnit (.die d) 2
      |>.actLatch (.die d)
    .next (if s.poweredDies.all fun e => s.isWoven e then s.endWeave else s)

/-! ### Per-tree re-weaves (R54 to R57) -/

/-- A re-weave begins to run (R55): a tree that is ON flushes its downstream queues and shuts; one that is OFF waits for its sections. -/
def State.runReweave (t : Nat) (s : State) : State :=
  let s := s.modLoader (fun l => { l with reweave := l.reweave.map fun r => { r with running := true } })
    |>.put DMK_TREE_STATE.REWEAVE t 1 |>.weaveState 5
  if s.unitState (.tree t) = 2 then s.flushTree t |>.treeShut t else s

/-- The judgement of a TREE_REWEAVE (R54): the die of the slot's copy, or a code; none where the spec gives none. -/
def State.reweaveCheck (s : State) (t slot : Nat) : Option (Nat × Nat) :=
  if slot = s.get DMK_STATUS.ACTIVE_SLOT 0 then some (0, 12)
  else if !(s.powered (dieOf t) && s.isWoven (dieOf t)) then none
  else
    match s.slotCheck slot none with
    | (none, c) => some (0, c)
    | (some d, _) => some (d, if scopeOk (dieOf t) (t % 8) s.runningImage (s.slotOf d slot) then 0 else 9)

/-- A TREE_REWEAVE acted on: refused with its code, begun, or waiting for the tree to reach ON or OFF (R54, R56). -/
def State.startReweave (t slot : Nat) (s : State) : State :=
  match s.reweaveCheck t slot with
  | none => s.dmkRefused
  | some (d, 0) =>
    let st := s.unitState (.tree t)
    let s := s.dmkResult 0 |>.modLoader (fun l => { l with reweave := some (Reweave.mk t slot d false) }) |>.weaveState 5
    if st = 0 || st = 2 then s.runReweave t else s
  | some (_, c) => s.dmkDone c

/-- What a re-woven tree's new sections replace: values that the host wrote over those of the old (R54). -/
def State.dropTreeValues (t : Nat) (s : State) : State :=
  let lp := (LPORT.fields ++ CIPH_LP_BIND.desc.fields).filter fun f => f.perImage
  { s with regs := s.regs.filter (fun e => !(e.1.i / 4096 == t && lp.any fun f => f.num == e.1.n)), oldBind := s.oldBind.filter (fun e => e.1.n ≠ t),
           switches := s.switches.filter (fun x => x.tree ≠ t) }

/-- The selection of a re-weave's slot is written and shown (R55). -/
def State.selectReweave (r : Reweave) (s : State) : State :=
  let b := s.slotOf r.source r.slot
  s.writeSelect (s.epoch + 1) r.slot false b
    |>.put DMK_TREE_STATE.REWEAVE r.tree 0 |>.addWrap DMK_TREE_STATE.REWEAVE_COUNT r.tree 1 |>.weaveState 3
    |>.put DMK_STATUS.ACTIVE_SLOT 0 r.slot |>.put DMK_STATUS.TRIAL 0 0 |>.put DMK_STATUS.ACTIVE_VERSION 0 (imageVersion b)

/-- A re-weave that was latched for the tree starts, or is LOCKED. -/
def State.latchedNext (t : Nat) (next : Option Nat) (s : State) : State :=
  match next with
  | some k => if s.flag SEC_LOCK.DAMASK 0 then s.dmkDone 10 else s.startReweave t k
  | none => s

/-- A WEAVE that was latched starts once no re-weave runs, or is LOCKED. -/
def State.latchedWeaveNext (weave : Bool) (s : State) : State :=
  if weave && s.loader.reweave.isNone then
    let s := s.modLoader fun l => { l with latchedWeave := false }
    if s.flag SEC_LOCK.DAMASK 0 then s.dmkDone 10 else s.startWeave
  else s

/-- A finished re-weave: the new selection is written (R55), and what was latched behind it is acted on: another re-weave, the enable or disable
request, a full weave (R56; log entry 24). DESIGN CHOICE: one that runs already when DAMASK is set runs on, though Table 2.16 says
that the running image cannot change under it; so does a full weave (log entry 55). -/
def State.finishReweave (r : Reweave) (s : State) : State :=
  let s := s.selectReweave r
  let next := s.loader.latchedReweave
  let weave := s.loader.latchedWeave
  let s := s.modLoader (fun l => { l with reweave := none, latchedReweave := none, source := r.source, trialEpoch := 0 }) |>.dmkDone 0
  let s := s.latchedNext r.tree next
  let s := if s.loader.reweave.isSome then s else s.actLatch (.tree r.tree)
  (s.latchedWeaveNext weave).showLatched r.tree

/-- A waiting re-weave that DAMASK has locked meanwhile is not acted on (Table 2.16). -/
def State.refuseReweave (t : Nat) (s : State) : State :=
  (s.modLoader (fun l => { l with reweave := none, latchedReweave := none, latchedWeave := false }) |>.weaveState 3 |>.dmkDone 10).actLatch (.tree t)
    |>.showLatched t

/-- A tree has reached ON or OFF: a re-weave of it ends or begins, or the latched request is acted on (R38, R56). -/
def State.treeSettled (t : Nat) (s : State) : State :=
  match s.loader.reweave with
  | some r =>
    if r.tree ≠ t then s.actLatch (.tree t)
    else if !r.running && s.flag SEC_LOCK.DAMASK 0 then s.refuseReweave t
    else if !r.running then (s.runReweave t).showLatched t
    else if s.unitState (.tree t) = 2 then s.finishReweave r
    else s
  | none => s.actLatch (.tree t)

/-- The re-weave of a tree whose optics or memory stopped under it is given up: the selection that held stays (R57). -/
def State.dropReweave (t : Nat) (s : State) : State :=
  match s.loader.reweave with
  | some r =>
    if r.tree ≠ t then s
    else
      let weave := s.loader.latchedWeave
      let s := s.modLoader (fun l => { l with reweave := none, latchedReweave := none, latchedWeave := false })
        |>.put DMK_TREE_STATE.REWEAVE t 0 |>.weaveState 3 |>.showLatched t
      if weave then s.startWeave else s
  | none => s

/-- REWEAVE_SECTIONS_LOADED (R55): the tree's new sections are loaded and its optics start; a tree that is no longer live ends in OFF. -/
def execReweaveSectionsLoaded (s : State) : Result :=
  match s.loader.reweave with
  | none => .next s
  | some r =>
    if !r.running || s.unitState (.tree r.tree) ≠ 0 then .next s
    else
      let s := s.dropTreeValues r.tree |>.weaveTree (s.slotOf r.source r.slot) r.tree
      if s.get DMK_TREE_STATE.LINE_MODE r.tree = 0 then .next (s.finishReweave r) else .next (s.treeStart r.tree |>.opticsStart r.tree)

/-- A tree in STARTING finishes it: its transmitters light (R71), and what follows ON follows. -/
def State.treeStarted (t : Nat) (s : State) : State :=
  if s.unitState (.tree t) = 1 then (s.treeOn t).treeSettled t |>.weaveIfOff else s

/-- REWEAVE_COMPLETE (R55): the re-woven tree reaches ON and its selection is written. -/
def execReweaveComplete (s : State) : Result :=
  match s.loader.reweave with
  | some r => .next (if r.running then s.treeStarted r.tree else s)
  | none => .next s

/-- OPTICS_LIT (R71): lock and calibration are complete; the transmitters light and STARTING ends. -/
def execOpticsLit (t : Nat) (s : State) : Result := .next (s.treeStarted t)

/-! ### Phases that end (R38) -/

/-- The link between two dies completes bring-up (R308). -/
def State.linkUp (d e : Nat) (s : State) : State :=
  if d = e || s.get FAB_DL_STATUS.STATE (linkAt d e) ≠ 1 then s
  else s.putLink FAB_DL_STATUS.STATE d e 2 |>.putLink FAB_DL_STATUS.LANES_LOCKED d e 255 |>.linkCause d e false

/-- LANE_ON (R303, R304): a lane in STARTING has finished its training, and a Kolkan lane its capability exchange. A request latched meanwhile is acted on (R38). -/
def execLaneOn (lane : Nat) (s : State) : Result :=
  let l := s.laneUnit lane
  if s.get FAB_LANE_STATUS.STATE l ≠ 1 || s.laneMode l = 0 then .next s
  else if s.kolkanCoded l && !s.capDone l then .next s
  else .next ((s.laneUp l).actLatch (.lane l))

/-- CAP (R304): a CAP block received under comma lock. The third identical one sets SEEN; then the lane reaches ON, or DUP_DEVICE is set. -/
def execCap (lane : Nat) (c : Cap) (s : State) : Result :=
  if !s.kolkanCoded lane || !s.flag FAB_LANE_STATUS.ALIGN lane then .next s
  else
    let x := s.lane lane
    let run := if x.cap == some c then min 3 (x.capRun + 1) else 1
    let seen := x.seen || run == 3
    let s := s.modLane lane fun x => { x with cap := some c, capRun := run, seen := seen, partnerSeen := c.seen }
    let s := if seen && !x.seen then s.sendCap lane else s
    if !seen then .next s
    else
      let s := s.put FAB_LANE_STATUS.PARTNER_DEVICE lane c.device |>.put FAB_LANE_STATUS.PARTNER_LANE lane c.lane
      let dup := c.version != 1 || (c.device < 1024 && c.device == s.get PKG_IDENT.DEVICE_ID 0)
      if dup then
        .next (if s.flag FAB_LANE_STATUS.DUP_DEVICE lane then s else s.put FAB_LANE_STATUS.DUP_DEVICE lane 1 |>.raiseLane lane 2244)
      else if s.get FAB_LANE_STATUS.STATE lane = 1 && s.capDone lane then .next ((s.laneUp lane).actLatch (.lane lane))
      else .next s

/-- DIE_LINK_ON (R308): bring-up is complete. A request latched meanwhile is acted on (R38). -/
def execDieLinkOn (d e : Nat) (s : State) : Result :=
  if d = e || s.get FAB_DL_STATUS.STATE (linkAt d e) ≠ 1 then .next s
  else .next ((s.linkUp d e).actLatch (.dieLink (linkAt d e)))

/-- A unit other than a tree or a die reaches the end of its phase. -/
def State.endPhase (u : UnitId) (s : State) : State :=
  match u, s.unitState u with
  | .lane l, 1 => if s.kolkanCoded l && !s.capDone l then s else (s.laneUp l).actLatch u
  | .lane l, 3 => (s.laneTo l 0).actLatch u
  | .dieLink k, 1 => (s.linkUp (k / 8) (k % 8)).actLatch u
  | .dieLink k, 3 => (s.linkTo (k / 8) (k % 8) 0).actLatch u
  | .channel c, 1 => (s.setUnit (.channel c) 2).actLatch u
  | .channel c, 3 => (s.setUnit (.channel c) 0).actLatch u
  | _, _ => s

/-! ### Dies (R405, R406) -/

/-- A die without power: what it held is lost, its MRAM apart; its trees' defects are suppressed, and table updates complete without it (R405). -/
def State.powerDown (d : Nat) (s : State) : State :=
  let trees := (List.range 8).map fun t => 8 * d + t
  let s := trees.foldl (fun (s : State) t => (s.dropReweave t).put DMK_TREE_STATE.STATE t 0) s
  let s := (s.dieList.filter fun e => e != d).foldl (fun (s : State) e => s.linkTo d e 0) s
  let s := (List.range 4).foldl (fun (s : State) l => s.laneTo (4 * d + l) 0 |>.laneCause (4 * d + l) 0 true) s
  let s := ((s.snapMissing d).tearRecord d).clearDie d |>.modMram d (fun m => { m with todo := [], waiting := [] })
    |>.modLoader fun l => { l with woven := clearBit l.woven d }
  let s := trees.foldl (fun (s : State) t => s.put TREE_DEF_STATUS.SUPPRESSED_ABOVE t 1) s
  let s : State := { s with latches := s.latches.filter fun e => !((e.1.n == 0 && e.1.i / 8 == d) || (e.1.n == 1 && e.1.i / 4 == d)
    || (e.1.n == 2 && (e.1.i / 8 == d || e.1.i % 8 == d)) || (e.1.n == 3 && e.1.i / 16384 == d)) }
  (s.setUnit (.die d) 0 |>.addWrap PKG_DIE_CTRL.OFF_COUNT d 1).releaseClaim.retireUpdates.showSource

/-- A die whose units are OFF loses its supplies; then its latched request is acted on (R38, R405). -/
def State.dieOffIfClear (d : Nat) (s : State) : State :=
  if s.unitState (.die d) = 3 && (s.unitsOf d).isEmpty then (s.powerDown d).actLatch (.die d) |>.weaveIfOff else s

/-- UNIT_PHASE_DONE (R38): a unit ends STARTING or SHUTTING, reaches ON or OFF, and acts on the last latched request. -/
def execUnitPhaseDone (u : UnitId) (s : State) : Result :=
  match u with
  | .tree t =>
    match s.unitState u with
    | 1 => .next (s.treeStarted t)
    | 3 => .next ((s.treeOff t).treeSettled t |>.weaveIfOff)
    | _ => .next s
  | .lane _ | .dieLink _ | .channel _ => .next ((s.endPhase u).weaveIfOff)
  | .die d =>
    match s.unitState u with
    | 1 => .next (if s.isWoven d then (s.setUnit u 2).actLatch u else s)
    | _ => .next (s.dieOffIfClear d)

/-! ### DMK commands (R58, R59, R52, R54) -/

/-- A full weave or a staging session runs, so that another command finds the loader BUSY (R59; log entry 25). -/
def State.loaderBusy (s : State) : Bool := s.loader.weave != 0 || s.loader.staging.isSome

/-- STAGE_BEGIN (R58). DESIGN CHOICE: while WEAVE_STATE is NO_IMAGE no image runs, so the slot that ACTIVE_SLOT shows may be staged (log entry 55). -/
def execStageBegin (slot : Nat) (s : State) : Result :=
  if s.flag SEC_LOCK.DAMASK 0 then .next s.dmkLocked
  else if s.loaderBusy then .next (s.dmkDone 11)
  else if slot = s.get DMK_STATUS.ACTIVE_SLOT 0 && s.get DMK_STATUS.WEAVE_STATE 0 ≠ 0 || s.loader.reweave.any fun r => r.slot == slot then .next (s.dmkDone 12)
  else if s.loader.reweave.isSome then .next (s.dmkDone 11)
  else
    .next (s.modLoader (fun l => { l with staging := some slot, staged := [], checked := clearBit l.checked slot }) |>.weaveState 4 |>.dmkDone 0)

/-- WEAVE_STATE while no command runs. -/
def State.restState (s : State) : State := s.weaveState (if s.loader.woven = 0 then 0 else 3)

/-- The staged bytes are written into the slot on every powered die (R58). -/
def State.writeSlot (slot : Nat) (b : Memory) (s : State) : State :=
  s.poweredDies.foldl (fun (s : State) d => { s with slots := s.slots.set ⟨d, slot⟩ [] b, slotBad := s.slotBad.set ⟨d, slot⟩ 0 0 }) s

/-- STAGE_END (R58): the slot is written on every present die and checked (R45). -/
def execStageEnd (s : State) : Result :=
  if s.flag SEC_LOCK.DAMASK 0 then .next s.dmkLocked
  else
    match s.loader.staging with
    | none => .next (if s.loader.weave ≠ 0 || s.loader.reweave.isSome then s.dmkDone 11 else s.dmkRefused)
    | some slot =>
      let s := s.writeSlot slot s.loader.staged
      let c := (s.slotCheck slot none).2
      .next (s.modLoader (fun l => { l with staging := none, staged := [], checked := if c = 0 then setBit l.checked slot else l.checked })
        |>.restState |>.dmkDone c)

/-- DMK_STAGE_DATA (R58): bytes for an image offset, taken while a session is open. -/
def execDmkStageData (offset : Nat) (bytes : List Nat) (s : State) : Result :=
  if s.loader.staging.isSome && !s.flag SEC_LOCK.DAMASK 0 && offset + bytes.length ≤ 12582912 then
    .next (s.modLoader fun l => { l with staged := Memory.writeBytes l.staged offset bytes })
  else .next s

/-- SELECT (R58, R59): effective at the next full weave. -/
def execSelect (slot : Nat) (trial : Bool) (s : State) : Result :=
  if s.flag SEC_LOCK.DAMASK 0 then .next s.dmkLocked
  else if s.loaderBusy || s.loader.reweave.isSome then .next (s.dmkDone 11)
  else if !bitAt s.loader.checked slot then .next s.dmkRefused
  else .next (s.writeSelect (s.epoch + 1) slot trial (s.slotCopy slot) |>.dmkDone 0)

/-- CONFIRM (R46, R52): the trial slot is selected for good, and its version becomes the rollback floor if it asks for that. -/
def execConfirm (s : State) : Result :=
  if s.flag SEC_LOCK.DAMASK 0 then .next s.dmkLocked
  else if s.loaderBusy || s.loader.reweave.isSome then .next (s.dmkDone 11)
  else if !s.flag DMK_STATUS.TRIAL 0 then .next s.dmkRefused
  else
    let b := s.runningImage
    let s := s.writeSelect (s.loader.trialEpoch + 2) (s.get DMK_STATUS.ACTIVE_SLOT 0) false b
    let s := if raisesFloor b then s.writeAll 0x0002 0 (leBytes 4 (imageVersion b)) else s
    .next (s.put DMK_STATUS.TRIAL 0 0 |>.dmkDone 0)

/-- WEAVE (R53); latched while a re-weave runs (R56). -/
def execWeave (s : State) : Result :=
  if s.flag SEC_LOCK.DAMASK 0 then .next s.dmkLocked
  else if s.loaderBusy then .next (s.dmkDone 11)
  else
    match s.loader.reweave with
    | some r => .next (s.modLoader (fun l => { l with latchedWeave := true }) |>.dmkResult 0 |>.showLatched r.tree)
    | none => .next (s.dmkResult 0).startWeave

/-- TREE_REWEAVE (R54, R56). -/
def execTreeReweave (t slot : Nat) (s : State) : Result :=
  if s.flag SEC_LOCK.DAMASK 0 then .next s.dmkLocked
  else if s.loaderBusy then .next (s.dmkDone 11)
  else
    match s.loader.reweave with
    | some r =>
      .next (if r.tree = t then s.modLoader (fun l => { l with latchedReweave := some slot }) |>.dmkResult 0 |>.showLatched t else s.dmkDone 11)
    | none => .next ((s.startReweave t slot).showLatched t)

end Sys2Proof.Machine
end

