-- ==== Sys2Proof/Machine/Tweed.lean ====
section
/-!
DEFINITION. Tweed cores (chapter 15): load and overload, the watchdog, extension tasks, and the host mailbox with its operations. The firmware's own
instructions are not modelled; commands bring what it measures and what its tasks do (log entry 27).
-/

namespace Sys2Proof.Machine

/-- Tweed counter `k` of a die (Table 15.13). -/
def State.tweedCnt (d k n : Nat) (s : State) : State := s.bump TWEED_CNT.COUNT (d * 8 + k) n

/-- The core runs its firmware, awake or asleep. -/
def State.tweedRuns (s : State) (d : Nat) : Bool := s.get TWEED_STATUS.STATE d == 1 || s.get TWEED_STATUS.STATE d == 2

/-! ### Key rotations at work (R347) -/

/-- RESULT of the mailbox for a RESULT of the key command that it ran; none is named for some of them (log entry 28). -/
def rotateResult (free r : Nat) : Nat :=
  match r with
  | 2 => 3
  | 3 => 7
  | 5 => 3
  | 6 => 4
  | 7 => 5
  | 8 => 6
  | _ => 2 + free % 6

/-- The LOAD and the SWITCH of a rotation, through CIPH_TW_CMD: done when the path is free, replied at once where refused; `tied` where a host command of the
same slot is in progress (R263). -/
def State.rotate (tied : Bool) (s : State) (r : Rotation) : State :=
  let d := dieOf r.tree
  if r.loaded || s.get CIPH_TW_CMD.DONE d = 0 then s
  else if tied then s.endRotations (fun x => x == r) 6
  else
    let s := s.putWords CIPH_TW_DATA.DATA (d * 12) 12 (r.wrapped + s.suiteOf r.tree r.linePort * 2 ^ 320 + r.limit * 2 ^ 352)
    let s := s.loadSlot false d r.keySlot true r.kek
    if s.get CIPH_TW_CMD.RESULT d ≠ 0 then
      s.useFree.endRotations (fun x => x == r) (rotateResult s.free (s.get CIPH_TW_CMD.RESULT d))
    else
      { s with switches := s.switches ++ [({ tree := r.tree, linePort := r.linePort, target := r.target, byHost := false } : KeySwitch)]
               rotations := s.rotations.map fun x => if x = r then { x with loaded := true } else x }

/-- Rotations of a die that still wait for their LOAD: deadline work, tried again at each frame (R341, R347). -/
def State.deadlineWork (d : Nat) (s : State) : State :=
  (s.rotations.filter fun r => dieOf r.tree == d).foldl (fun s r => State.rotate false s r) s

/-! ### Load, watchdog, tasks (R343 to R345) -/

/-- TWEED_LOAD_CHECK (R344): at a frame start the firmware finds its load over the last frame, the deadline cut-offs it missed, the periodic items a whole period
late, and the deferrable items that wait or have newly come. -/
def execTweedLoadCheck (d load missed late deferrable : Nat) (s : State) : Result :=
  if !s.tweedRuns d then .next s
  else
    let was := s.flag TWEED_STATUS.OVERLOAD d
    let calm := if missed = 0 && load < s.get TWEED_CTRL.LOAD_LOW_PCT d then (s.tweedOf d).calm + 1 else 0
    let now := if was then decide (calm < 64) else decide (0 < missed) || decide (s.get TWEED_CTRL.LOAD_HIGH_PCT d < load)
    let s := s.put TWEED_STATUS.LOAD_PCT d (min load 255) |>.tweedCnt d 0 missed |>.putFlag TWEED_STATUS.OVERLOAD d now
      |>.modTweed d fun x => { x with calm := if now then calm else 0 }
    let s := if now && !was then s.put TWEED_STATUS.OVERLOAD_EVENT d 1 |>.raise d 2280 else s
    let s := if now then s.tweedCnt d 7 1 |>.tweedCnt d 1 late |>.tweedCnt d 2 deferrable else s
    .next (s.deadlineWork d)

/-- The watchdog restart of a core: local SRAM from the active image, firmware from its entry point; the interrupt controller keeps its sources (R345). -/
def State.watchdogRestart (d : Nat) (s : State) : State :=
  s.tweedStart d |>.tweedCnt d 6 1 |>.put TWEED_STATUS.WATCHDOG_EVENT d 1 |>.raise d 2281

/-- WATCHDOG (R345): firmware has not kicked for WATCHDOG_MS. A core held in reset, or halted by debug, has none to kick. -/
def execWatchdog (d : Nat) (s : State) : Result := .next (if s.tweedRuns d then s.watchdogRestart d else s)

/-- An extension task is stopped (R343). -/
def State.stopTask (d n : Nat) (s : State) : State :=
  s.put TWEED_STATUS.TASKS_RUNNING d (clearBit (s.get TWEED_STATUS.TASKS_RUNNING d) n) |>.put TWEED_STATUS.TASK_FAULT d 1 |>.raise d 2282

/-- TASK_OVERRUN (R342, R343): task `n` exhausts its budget, or faults; a fault, or the 16th overrun of a second, stops it. -/
def execTaskOverrun (d n : Nat) (fault : Bool) (s : State) : Result :=
  if !bitAt (s.get TWEED_STATUS.TASKS_RUNNING d) n then .next s
  else if fault then .next (s.stopTask d n)
  else
    let runs := (s.tweedOf d).overruns.getD n 0 + 1
    let s := s.tweedCnt d 5 1 |>.modTweed d fun x => { x with overruns := x.overruns.set n runs }
    .next (if 16 ≤ runs then s.stopTask d n else s)

/-! ### The mailbox (R346) -/

/-- DOORBELL (R346): a slot is posted, made BUSY under overload, or released; a doorbell that does not fit the slot's state is dropped. -/
def execDoorbell (d i : Nat) (release : Bool) (s : State) : Result :=
  let st := s.mbox d i
  if release then .next (if st = 3 then s.setMbox d i 0 else s.tweedCnt d 4 1)
  else if st ≠ 0 && st ≠ 4 then .next (s.tweedCnt d 4 1)
  else if s.flag TWEED_STATUS.OVERLOAD d then .next (s.setMbox d i 4 |>.tweedCnt d 3 1)
  else .next (s.setMbox d i 1 |>.modTweed d (fun x => { x with posted := x.posted ++ [i] }) |>.raise d 2283)

/-- OP of the message in a slot. -/
def State.mboxOp (s : State) (d i : Nat) : Nat := bits (s.get TWEED_MBOX.DATA (mboxAt d i 0)) 0 8

/-- A reply's payload written into a slot, with its LENGTH. -/
def State.mboxPayload (d i : Nat) (bytes : List Nat) (s : State) : State :=
  let b := bytes.take 120
  let w := s.get TWEED_MBOX.DATA (mboxAt d i 0)
  let s := s.put TWEED_MBOX.DATA (mboxAt d i 0) (w - bits w 16 16 * 2 ^ 16 + b.length * 2 ^ 16)
  (List.range ((b.length + 7) / 8)).foldl (fun (s : State) k =>
    s.put TWEED_MBOX.DATA (mboxAt d i (1 + k)) (leValue ((b.drop (8 * k)).take 8))) s

/-- VERSION (Table 15.3). -/
def State.serveVersion (d i : Nat) (s : State) : State :=
  let b := leBytes 4 (s.get TWEED_STATUS.FW_VERSION d) ++ leBytes 4 (s.get DMK_STATUS.ACTIVE_VERSION 0) ++ [s.get TWEED_STATUS.TASKS_RUNNING d]
  s.mboxPayload d i b |>.mboxReply d i 0

/-- The line port that a rotation message names: package-wide tree and port; none where there is none such, or a byte that is 0 is not. -/
def State.mboxPort (s : State) (d i : Nat) : Option (Nat × Nat) :=
  let w := s.get TWEED_MBOX.DATA (mboxAt d i 1)
  let t := 8 * d + bits w 0 8
  let p := bits w 16 16
  if 8 ≤ bits w 0 8 || bits w 8 8 ≠ 0 || !(s.linePorts t).contains p then none else some (t, p)

/-- ROTATE (R347): T is checked as R33 says; the rotation is then deadline work. -/
def State.serveRotate (tied : Bool) (d i : Nat) (s : State) : State :=
  let target := bits (s.get TWEED_MBOX.DATA (mboxAt d i 2)) 32 32
  let kek := s.get TWEED_MBOX.DATA (mboxAt d i 1) / 2 ^ 32
  match s.mboxPort d i with
  | none => s.mboxReply d i 3
  | some (t, p) =>
    if 4 ≤ kek then s.mboxReply d i 3
    else
      match s.checkFrame target with
      | .late => s.mboxReply d i 4
      | .far => s.mboxReply d i 5
      | .ok =>
        let word := fun k => s.get TWEED_MBOX.DATA (mboxAt d i k)
        let key := ((List.range 5).map fun k => word (3 + k) * 2 ^ (64 * k)).sum
        let r : Rotation := { slot := i, tree := t, linePort := p, keySlot := s.otherSlot t p % 8192, target := target, wrapped := key,
                              limit := bits (word 2) 0 32, kek := kek % 256 }
        ({ s with rotations := s.rotations ++ [r] }.setMbox d i 2).rotate tied r

/-- ROTATE_CANCEL (R347): before the LOAD the rotation is withdrawn; after it the loaded slot is erased, which cancels the switch at its check (log entry 28). -/
def State.serveCancel (d i : Nat) (s : State) : State :=
  match s.mboxPort d i with
  | none => s.mboxReply d i 3
  | some (t, p) =>
    match s.rotations.find? fun r => r.tree == t && r.linePort == p with
    | none => s.mboxReply d i 3
    | some r =>
      if r.loaded then
        { s with keys := s.keys.set ⟨0, slotAt d r.keySlot⟩ none none }.put KEYSLOT.STATE (slotAt d r.keySlot) 0 |>.keyDone false d 0 |>.mboxReply d i 0
      else s.useFree.endRotations (fun x => x == r) (s.free % 256) |>.mboxReply d i 0

/-- EXT_MSG (R342): a message to an extension task, whose reply its own code gives. -/
def State.serveTask (reply : List Nat) (d i : Nat) (s : State) : State :=
  if bitAt (s.get TWEED_STATUS.TASKS_RUNNING d) (s.mboxOp d i % 8) then s.mboxPayload d i reply |>.mboxReply d i 0 else s.mboxReply d i 8

/-- An OP of Table 15.3. -/
def mboxKnown (op : Nat) : Bool := op == 0x01 || op == 0x02 || op == 0x03 || (0x80 ≤ op && op ≤ 0x87)

/-- The reserved bytes 5 to 7 of the message in a slot are zero (Table 15.2). -/
def State.mboxClear (s : State) (d i : Nat) : Bool := bits (s.get TWEED_MBOX.DATA (mboxAt d i 0)) 40 24 == 0

/-- The message of a slot run by its OP (Table 15.3); a known one with a reserved byte that is not zero is BAD_VALUE (R12). -/
def State.serve (tied : Bool) (reply : List Nat) (d i : Nat) (s : State) : State :=
  if mboxKnown (s.mboxOp d i) && !s.mboxClear d i then s.mboxReply d i 3
  else
  match s.mboxOp d i with
  | 0x01 => s.serveVersion d i
  | 0x02 => s.serveRotate tied d i
  | 0x03 => s.serveCancel d i
  | op => if 0x80 ≤ op && op ≤ 0x87 then s.serveTask reply d i else s.mboxReply d i 2

/-- Tweed takes the oldest posted slot, if `takes` holds of its OP: mailbox commands are deferrable work and wait while the core is overloaded. -/
def State.takePosted (takes : Nat → Bool) (tied : Bool) (reply : List Nat) (d : Nat) (s : State) : State :=
  if !s.tweedRuns d || s.flag TWEED_STATUS.OVERLOAD d then s
  else
    match (s.tweedOf d).posted with
    | [] => s
    | i :: rest => if takes (s.mboxOp d i) then s.modTweed d (fun x => { x with posted := rest }) |>.setMbox d i 2 |>.serve tied reply d i else s

/-- MAILBOX_SERVICE (R346): the oldest posted slot is run, whatever its OP; `reply` is what an extension task answers. -/
def execMailboxService (d : Nat) (reply : List Nat) (s : State) : Result := .next (s.takePosted (fun _ => true) false reply d)

/-- VERSION (R346): the oldest posted slot, if it asks for the version. -/
def execVersion (d : Nat) (s : State) : Result := .next (s.takePosted (fun op => op == 0x01) false [] d)

/-- ROTATE (R347): the oldest posted slot, if it schedules a rotation; `tied` as R263 has it. -/
def execRotate (d : Nat) (tied : Bool) (s : State) : Result := .next (s.takePosted (fun op => op == 0x02) tied [] d)

/-- ROTATE_CANCEL (R347): the oldest posted slot, if it withdraws a rotation. -/
def execRotateCancel (d : Nat) (s : State) : Result := .next (s.takePosted (fun op => op == 0x03) false [] d)

/-- EXT_MSG (R342): the oldest posted slot, if it addresses an extension task, and that task's reply. -/
def execExtMsg (d : Nat) (reply : List Nat) (s : State) : Result := .next (s.takePosted (fun op => 0x80 ≤ op && op ≤ 0x87) false reply d)

end Sys2Proof.Machine
end

