-- ==== Sys2Proof/Machine/Interrupts.lean ====
section
/-!
DEFINITION. The interrupt controller of each die (chapter 15): which delivery is due where, entry and exit with substitution and chaining, wake, groups, targets,
and MSI-X messages to the host.
-/

namespace Sys2Proof.Machine

/-- Interrupt counter `k` of a die (Table 15.13). -/
def State.icCnt (d k n : Nat) (s : State) : State := s.bump IC_CNT.COUNT (d * 8 + k) n

/-! ### Level sources (R349) -/

/-- Some field of several is not zero. -/
def State.anyOf (s : State) (fs : List Field) (i : Nat) : Bool := fs.any fun f => s.get f i != 0

/-- The condition of tree-slice source `k` (Table 15.4). -/
def State.treeHolds (s : State) (t k : Nat) : Bool :=
  match k with
  | 0 => s.get TREE_DEF_STATUS.ONSET t != 0 || (List.range 256).any fun n => s.get TREE_DEF_TERM.ONSET (termAt t n) != 0
  | 1 => s.anyOf [TREE_OPT_STATUS.AGEING, TREE_OPT_STATUS.CAL_LAG, TREE_OPT_STATUS.CONTEXT_ERROR, TREE_OPT_STATUS.TX_LOL] t
  | 2 => s.anyOf [TREE_FRM_STATUS.MISDIRECT, TREE_FRM_STATUS.LATE_MAP, TREE_FRM_STATUS.DS_UNDERRUN] t
  | 3 => s.get TREE_RNG_STATUS.PENDING t != 0
  | 4 => s.anyOf [TREE_RNG_STATUS.ROGUE, TREE_RNG_STATUS.REACQUIRED, TREE_RNG_STATUS.DUP_SN] t
  | 5 => (List.range 256).any fun n => s.get TREE_RNG_TERM.STATE (termAt t n) == 2
  | 6 => [0, 1].any fun k => !(s.setOf t k).ploamUp.isEmpty
  | _ => false

/-- The condition of a package source. -/
def State.packageHolds (s : State) (src : Nat) : Bool :=
  match src with
  | 3840 => s.flag DMK_STATUS.FALLBACK 0
  | 3856 => s.flag TIME_STATUS.SOURCE_LOST 0
  | 3857 => s.flag TIME_STATUS.STEP_NEEDED 0
  | 3864 => s.flag PEER_STATUS.SWITCH_EVENT 0
  | 3865 => s.flag PEER_STATUS.PAIR_MISMATCH 0
  | 3866 => s.flag PEER_STATUS.CLAIM_FAULT 0
  | 3867 => s.flag PEER_STATUS.CLAIM_BLOCKED 0
  | 3888 => s.flag PKG_PWR_STATUS.ALERT_EVENT 0
  | _ => false

/-- The condition of a source of DIE[d], for a source that the image makes a level: the status that it reports still stands. An event that leaves no status has
no condition. -/
def State.levelHolds (s : State) (d src : Nat) : Bool :=
  if src < 1024 then s.treeHolds (8 * d + src / 128) (src % 128)
  else if src < 2048 then s.get CIRC_DEF.ONSET (d * 1024 + (src - 1024)) != 0
  else if src < 2176 then s.get CIRC_GROUP_STATUS.ONSET (d * 128 + (src - 2048)) != 0
  else if 2216 ≤ src && src < 2225 then bitAt (s.packRec CIPH_STATUS.desc.fields d) (src - 2216)
  else if 2232 ≤ src && src < 2237 then bitAt (s.packRec MEM_STATUS.desc.fields d) (35 + (src - 2232))
  else if 2240 ≤ src && src < 2244 then s.flag FAB_LANE_STATUS.LINK_EVENT (4 * d + (src - 2240))
  else if 2244 ≤ src && src < 2248 then s.flag FAB_LANE_STATUS.DUP_DEVICE (4 * d + (src - 2244))
  else if 2248 ≤ src && src < 2252 then s.flag FAB_LANE_STATUS.PATH_LOSS (4 * d + (src - 2248))
  else if 2256 ≤ src && src < 2264 then s.flag FAB_DL_STATUS.LINK_EVENT (8 * d + (src - 2256))
  else if 3840 ≤ src then s.packageHolds src
  else
    match src with
    | 2177 => s.flag GRANT_RESV_STATUS.NO_ROOM d
    | 2179 => (List.range 8).any fun t => s.anyOf [GRANT_TREE_STATUS.OVERBOOKED_FIFTY, GRANT_TREE_STATUS.OVERBOOKED_XGS] (8 * d + t)
    | 2184 => s.flag FWD_STATUS.ENTRY_BAD d
    | 2185 => s.get FWD_RING_CTRL.PROD d != s.get FWD_RING_CTRL.CONS d
    | 2186 => s.flag FWD_RING_CTRL.OVERFLOW d
    | 2188 => s.flag SEG_ORDER_STATUS.STALL d
    | 2210 => s.flag FELT_STATUS.REGION_FULL d
    | 2272 => s.flag SEG_GOV_STATUS.SPEED_FAULT d
    | 2273 => s.flag SEG_GOV_STATUS.HOT_EVENT d || s.flag PKG_DIE_CTRL.TRIP_EVENT d
    | 2280 => s.flag TWEED_STATUS.OVERLOAD_EVENT d
    | 2281 => s.flag TWEED_STATUS.WATCHDOG_EVENT d
    | 2282 => s.flag TWEED_STATUS.TASK_FAULT d
    | 2283 => (List.range 16).any fun i => s.mbox d i == 1
    | 2284 => (List.range 16).any fun i => s.mbox d i == 3
    | 2288 => s.get PERF_TRACE_RING.PROD d != s.get PERF_TRACE_RING.CONS d
    | 2289 => s.flag PERF_TRACE_RING.OVERFLOW d
    | 2291 => (List.range 8).any fun i => s.flag PERF_LAG.OVER (8 * d + i)
    | 2296 => (s.mramOf d).reserve
    | _ => false

/-- PENDING of a source once it has been cleared: a level source is pending again at once while its condition holds (R349). -/
def State.clearPending (d src : Nat) (s : State) : State :=
  let i := srcAt d src
  s.putFlag IC_SRC.PENDING i (s.flag IC_SRC.KIND i && s.levelHolds d src)

/-! ### What is due, and where (R350, R356, R357) -/

/-- A source or group that waits for delivery: its number (a group as 4,096 + g), the die of its controller, and its priority. -/
structure Due where
  prio : Nat
  num : Nat
  die : Nat
  deriving DecidableEq, Repr

/-- Where a delivery goes: to a core or to a vector of the host, and how often it was redirected on the way. -/
inductive Dest where
  | core (die redirects : Nat)
  | host (vector redirects : Nat)
  deriving DecidableEq, Repr

/-- The destination of a target; a core without power gives way to the fallback, and a fallback without power to the last vector (R357). -/
def State.destOf (s : State) (d : Nat) (host : Bool) (die vector : Nat) : Dest :=
  if host then .host vector 0
  else if s.diePresent die then .core die 0
  else if s.flag IC_CTRL.FALLBACK_HOST d then .host (s.get IC_CTRL.LAST_VECTOR d) 1
  else if s.diePresent (s.get IC_CTRL.FALLBACK_DIE d) then .core (s.get IC_CTRL.FALLBACK_DIE d) 1
  else .host (s.get IC_CTRL.LAST_VECTOR d) 2

/-- The destination of a source or group. -/
def State.dest (s : State) (x : Due) : Dest :=
  if x.num < 4096 then
    let i := srcAt x.die x.num
    s.destOf x.die (s.flag IC_SRC.HOST i) (s.get IC_SRC.DIE i) (s.get IC_SRC.VECTOR i)
  else
    let g := grpAt x.die (x.num - 4096)
    s.destOf x.die (s.flag IC_GROUP.HOST g) (s.get IC_GROUP.DIE g) (s.get IC_GROUP.VECTOR g)

/-- Sources and groups that are enabled, pending and not active; a member of a group is never delivered alone (R350, R354). -/
def State.due (s : State) : List Due :=
  s.regs.filterMap fun e =>
    let i := e.1.i
    if e.1.n = IC_SRC.PENDING.num then
      if s.flag IC_SRC.ENABLE i && !s.flag IC_SRC.ACTIVE i && !s.flag IC_SRC.IN_GROUP i then some ⟨s.get IC_SRC.PRIORITY i, i % 4096, i / 4096⟩ else none
    else if e.1.n = IC_GROUP_STATUS.PENDING.num then
      if s.flag IC_GROUP.ENABLE i && !s.flag IC_GROUP_STATUS.ACTIVE i then some ⟨s.get IC_GROUP.PRIORITY i, 4096 + i % 256, i / 256⟩ else none
    else none

/-- One delivery before another: priority number, then number (R350), then die (log entry 29). -/
def Due.before (a b : Due) : Bool := a.prio < b.prio || (a.prio == b.prio && (a.num < b.num || (a.num == b.num && a.die < b.die)))

/-- The first of several deliveries. -/
def bestDue : List Due → Option Due
  | [] => none
  | x :: rest =>
    match bestDue rest with
    | none => some x
    | some y => some (if x.before y then x else y)

/-- A delivery goes to the core of DIE[d]. -/
def State.forCore (s : State) (d : Nat) (x : Due) : Bool :=
  match s.dest x with
  | .core e _ => e == d
  | .host _ _ => false

/-- The delivery that the core of DIE[d] takes at a running priority: below it and below THRESHOLD, while MASK is clear (R350). -/
def State.eligible (s : State) (d running : Nat) : Option Due :=
  if s.flag IC_CORE_STATUS.MASK d then none
  else bestDue (s.due.filter fun x => s.forCore d x && x.prio < running && x.prio < s.get IC_CORE_STATUS.THRESHOLD d)

/-- Redirects of a delivery counted in its controller (R357). -/
def State.countRedirects (x : Due) (s : State) : State :=
  match s.dest x with
  | .core _ n => s.icCnt x.die 4 n
  | .host _ n => s.icCnt x.die 4 n

/-- A source or group is taken: ACTIVE, and PENDING of an edge source or of a group clears (R351). -/
def State.takeDue (x : Due) (s : State) : State :=
  if x.num < 4096 then
    let i := srcAt x.die x.num
    let s := s.put IC_SRC.ACTIVE i 1
    if s.flag IC_SRC.KIND i then s else s.put IC_SRC.PENDING i 0
  else
    let g := grpAt x.die (x.num - 4096)
    s.put IC_GROUP_STATUS.ACTIVE g 1 |>.put IC_GROUP_STATUS.PENDING g 0

/-- A source displaced from an entry: PENDING again and not ACTIVE (R351). -/
def State.displace (x : Due) (s : State) : State :=
  if x.num < 4096 then s.put IC_SRC.ACTIVE (srcAt x.die x.num) 0 |>.put IC_SRC.PENDING (srcAt x.die x.num) 1
  else s.put IC_GROUP_STATUS.ACTIVE (grpAt x.die (x.num - 4096)) 0 |>.put IC_GROUP_STATUS.PENDING (grpAt x.die (x.num - 4096)) 1

/-- ACTIVE of a source or group cleared; a level source is pending while its condition holds (R349, R352, R358). -/
def State.finish (d n : Nat) (s : State) : State :=
  if n < 4096 then
    let i := srcAt d n
    let s := s.put IC_SRC.ACTIVE i 0
    if s.flag IC_SRC.KIND i && s.levelHolds d n then s.put IC_SRC.PENDING i 1 else s
  else s.put IC_GROUP_STATUS.ACTIVE (grpAt d (n - 4096)) 0

/-- The handler of a delivery begins: its table entry gives the handler address and the argument word (R350, R351). -/
def State.enterHandler (d : Nat) (x : Due) (s : State) : State :=
  let at0 := s.get IC_HANDLER_BASE.BASE d * 4096 + 16 * x.num
  let gen := (s.tweedOf d).gen
  s.modCore d (fun c => { c with pc := (Config.tweedWord gen d at0).toNat, a0 := (Config.tweedWord gen d (at0 + 8)).toNat })
    |>.put IC_CORE_STATUS.RUNNING d x.prio |>.put IC_CORE_STATUS.CURRENT d x.num |>.modTweed d (fun t => { t with srcDie := x.die })
    |>.icCnt d 0 1 |>.countRedirects x

/-- What the firmware has done since: its registers, THRESHOLD and MASK (log entry 27). -/
def State.firmwareAt (d : Nat) (f : FwState) (s : State) : State :=
  s.modCore d (fun _ => f.regs) |>.put IC_CORE_STATUS.THRESHOLD d f.threshold |>.putFlag IC_CORE_STATUS.MASK d f.mask

/-- A sleeping core wakes (R353). -/
def State.wake (d : Nat) (s : State) : State :=
  if s.flag IC_CORE_STATUS.SLEEP d then s.put IC_CORE_STATUS.SLEEP d 0 |>.put TWEED_STATUS.STATE d 1 |>.icCnt d 3 1 else s

/-- Events of several sources, by die. -/
def State.raiseAll (events : List (Nat × Nat)) (s : State) : State := events.foldl (fun s e => State.raise e.1 e.2 s) s

/-- INTERRUPT_ENTRY (R350, R351): the core, at `f`, takes the first eligible delivery and its context is saved; `late` are the events of cycles 0 to 10, by die
and source, one of which may take the entry over. -/
def execInterruptEntry (d : Nat) (f : FwState) (late : List (Nat × Nat)) (s : State) : Result :=
  if !s.tweedRuns d then .next s
  else
    let s := s.firmwareAt d f
    let running := s.get IC_CORE_STATUS.RUNNING d
    match s.eligible d running with
    | none => .next s
    | some x =>
      let saved : Saved := { pc := f.regs.pc, status := f.regs.status, r := f.regs.r, running := running,
                             current := s.get IC_CORE_STATUS.CURRENT d, srcDie := (s.tweedOf d).srcDie }
      let s := s.wake d |>.takeDue x
      let s : State := { s with ctxStore := s.ctxStore.set ⟨d, 0⟩ [] (saved :: s.ctxStore.get ⟨d, 0⟩ []) }
      let s := s.put IC_CORE_STATUS.DEPTH d (s.ctxStore.get ⟨d, 0⟩ []).length |>.raiseAll late
      match s.eligible d x.prio with
      | some y => .next (s.displace x |>.takeDue y |>.enterHandler d y |>.icCnt d 1 1)
      | none => .next (s.enterHandler d x)

/-- RESUME (R352): the handler returns, the core at `f`. A delivery eligible against the context being returned to, `late` events of cycles 0 to 10 included, is
dispatched in its place; otherwise the context resumes. -/
def execResume (d : Nat) (f : FwState) (late : List (Nat × Nat)) (s : State) : Result :=
  match s.ctxStore.get ⟨d, 0⟩ [], s.tweedRuns d with
  | c :: rest, true =>
    let s := s.firmwareAt d f |>.finish (s.tweedOf d).srcDie (s.get IC_CORE_STATUS.CURRENT d) |>.raiseAll late
    match s.eligible d c.running with
    | some y => .next (s.takeDue y |>.enterHandler d y |>.icCnt d 2 1)
    | none =>
      let s : State := { s with ctxStore := s.ctxStore.set ⟨d, 0⟩ [] rest }
      .next (s.modCore d (fun x => { x with pc := c.pc, status := c.status, r := c.r }) |>.put IC_CORE_STATUS.RUNNING d c.running
        |>.put IC_CORE_STATUS.CURRENT d c.current |>.put IC_CORE_STATUS.DEPTH d rest.length |>.modTweed d fun t => { t with srcDie := c.srcDie })
  | _, _ => .next s

/-- An enabled source or group that is pending and targets the core of DIE[d], whatever MASK and THRESHOLD (R353). -/
def State.anyFor (s : State) (d : Nat) : Bool := s.due.any fun x => s.forCore d x

/-- CORE_WAKE (R353): the core has executed its sleep instruction at `f`; it wakes when an enabled source targeted at it is pending. -/
def execCoreWake (d : Nat) (f : FwState) (s : State) : Result :=
  if !s.tweedRuns d then .next s
  else
    let s := s.firmwareAt d f |>.put IC_CORE_STATUS.SLEEP d 1 |>.put TWEED_STATUS.STATE d 2
    .next (if s.anyFor d then s.wake d else s)

/-! ### Groups, software events, targets (R354 to R356) -/

/-- GROUP_FIRE (R354): COUNT has reached COUNT_TH, or TIME_US has passed since its first event. -/
def execGroupFire (d g : Nat) (s : State) : Result :=
  let i := grpAt d g
  let n := s.get IC_GROUP_STATUS.COUNT i
  if 0 < n && (max 1 (s.get IC_GROUP.COUNT_TH i) ≤ n || s.get IC_GROUP.TIME_US i ≠ 0) then
    .next (s.put IC_GROUP_STATUS.COUNT i 0 |>.put IC_GROUP_STATUS.PENDING i 1 |>.icCnt d 6 1)
  else .next s

/-- SWSET (R355): as the source's event; a reserved source stays never pending. -/
def execSwset (d src : Nat) (s : State) : Result := .next (s.raise d src)

/-- TARGET_WRITE (R356): a source's or group's target rewritten; what is pending follows it, what is active finishes where it is. -/
def execTargetWrite (d num : Nat) (host : Bool) (die vector : Nat) (s : State) : Result :=
  if num < 4096 then
    .next (s.putFlag IC_SRC.HOST (srcAt d num) host |>.put IC_SRC.DIE (srcAt d num) die |>.put IC_SRC.VECTOR (srcAt d num) vector)
  else
    let g := grpAt d (num - 4096)
    .next (s.putFlag IC_GROUP.HOST g host |>.put IC_GROUP.DIE g die |>.put IC_GROUP.VECTOR g vector)

/-! ### The host (R358, R386) -/

/-- The vector of a delivery to the host. -/
def State.vectorOf (s : State) (x : Due) : Option Nat :=
  match s.dest x with
  | .host v _ => some v
  | .core _ _ => none

/-- A delivery to the host: the message, ACTIVE, and a level source still pending while its condition holds (R358). -/
def State.deliverHost (x : Due) (v : Nat) (s : State) : State :=
  let s := s.sendVector v |>.icCnt x.die 5 1 |>.icCnt x.die 0 1 |>.countRedirects x |>.takeDue x
  if x.num < 4096 && s.flag IC_SRC.KIND (srcAt x.die x.num) then s.clearPending x.die x.num else s

/-- Deliveries of a die's controller that are due at the host. -/
def State.dueHost (s : State) (d : Nat) : List Due := s.due.filter fun x => x.die == d && (s.vectorOf x).isSome

/-- MSIX_DELIVERY (R358): the first delivery due at the host whose vector is not masked is sent; the pending bit of a masked one is set. -/
def execMsixDelivery (d : Nat) (s : State) : Result :=
  let all := if s.pci.d3hot then [] else s.dueHost d
  let masked := fun (x : Due) => (s.vectorOf x).any fun v => s.flag HOST_MSIX_CTRL.MASK v
  let s := (all.filter masked).foldl (fun (s : State) x => s.putPba ((s.vectorOf x).getD 0) true) s
  match bestDue (all.filter fun x => !masked x) with
  | none => .next s
  | some x => .next (s.deliverHost x ((s.vectorOf x).getD 0))

/-- EOI (R358): ends a delivery; a source still pending is delivered once more. -/
def execEoi (d num : Nat) (s : State) : Result :=
  let active := if num < 4096 then s.flag IC_SRC.ACTIVE (srcAt d num) else s.flag IC_GROUP_STATUS.ACTIVE (grpAt d (num - 4096))
  if !active then .next (s.icCnt d 7 1)
  else
    let s := s.finish d num
    match (s.dueHost d).find? fun x => x.num == num with
    | none => .next s
    | some x =>
      let v := (s.vectorOf x).getD 0
      .next (if s.pci.d3hot then s else if s.flag HOST_MSIX_CTRL.MASK v then s.putPba v true else s.deliverHost x v)

/-- WAKE# is asserted: a message is due in D3hot with PME enabled (Table 17.1). -/
def State.wakePin (s : State) : Bool :=
  s.pci.d3hot && s.pci.pmeEn && ((s.due.any fun x => (s.vectorOf x).isSome) || s.regs.any fun e => e.1.n == HOST_MSIX_PBA.BITS.num)

/-- A vector unmasked with its pending bit set: what waits for it is sent (R358, R386). -/
def State.unmaskVector (v : Nat) (s : State) : State :=
  if !bitAt (s.get HOST_MSIX_PBA.BITS (v / 64)) (v % 64) || s.pci.d3hot then s
  else
    match bestDue (s.due.filter fun x => s.vectorOf x == some v) with
    | some x => s.deliverHost x v
    | none => s.sendVector v

end Sys2Proof.Machine
end

