-- ==== Sys2Proof/Machine/Time.lean ====
section
/-!
DEFINITION. Network time (chapter 13): measurements, acquisition, holdover, steps, the TIME blocks of Kolkan lanes, and the 1PPS and ToD signals.
Offsets and instants are in units of 2^-16 ns.
-/

namespace Sys2Proof.Machine

/-- A second in units of 2^-16 ns. -/
def unitsPerSecond : Nat := 10 ^ 9 * 2 ^ 16

/-- An instant as one number of units of 2^-16 ns. -/
def timeUnits (t : NetTime) : Nat := t.sec * unitsPerSecond + t.frac

/-- A change of the network-time unit. -/
def State.modClock (f : Clock → Clock) (s : State) : State := { s with clock := f s.clock }

/-- Network time moved by a signed amount, modulo its 48 bits of seconds. -/
def State.moveTime (amount : Int) (s : State) : State :=
  let total := (((s.netSec * unitsPerSecond + s.netFrac : Nat) : Int) + amount) % ((2 ^ 48 * unitsPerSecond : Nat) : Int)
  s.setTime (total.toNat / unitsPerSecond) (total.toNat % unitsPerSecond)

/-! ### Steps (R311) -/

/-- Trees in a state. -/
def State.treesIn (s : State) (st : Nat) : List Nat := (List.range (8 * s.dies)).filter fun t => s.get DMK_TREE_STATE.STATE t == st

/-- No tree sends frames: none is ON or SHUTTING. -/
def State.noTreeSends (s : State) : Bool := (s.treesIn 2).isEmpty && (s.treesIn 3).isEmpty

/-- A step applies (R311): the time moves and is valid, and the maps that trees in STARTING built before it are discarded. Measurements begun before it
are not taken (R316). -/
def State.applyStep (amount : Int) (s : State) : State :=
  let s := (s.treesIn 1).foldl (fun (s : State) t => [0, 1].foldl (fun (s : State) k => s.modSet t k fun x => { x with maps := [], kept := [], ring := [], shadow := none }) s) s
  let s := s.laneList.foldl (fun (s : State) l => s.modLane l fun x => { x with timeSent := [] }) s
  (s.moveTime amount |>.modClock fun c => { c with meas := [], edge := none }).put TIME_STATUS.VALID 0 1 |>.showSource

/-- A step or an acquisition asked for: at once while no tree sends, else it waits for the trees that are ON to shut (R311, R312). -/
def State.askStep (amount : Int) (acquires : Bool) (s : State) : State :=
  if s.noTreeSends then s.applyStep amount
  else
    let on := s.treesIn 2
    let s := s.put TIME_CTRL.STEP_PENDING 0 1 |>.modClock fun c => { c with step := some ⟨amount, acquires, on⟩ }
    on.foldl (fun s t => s.requestUnit (.tree t) false) s

/-- TIME_STEP (R311): TIME_OFFSET is added; refused while a step waits, and while a tree sends unless FORCE is written with it. -/
def execTimeStep (force : Bool) (s : State) : Result :=
  if s.flag SEC_LOCK.TIME 0 then .next (s.fwEvent 0x30000 0 true 3)
  else if s.flag TIME_CTRL.STEP_PENDING 0 || (!s.noTreeSends && !force) then .next s
  else .next (s.askStep (toSigned 64 (s.get TIME_OFFSET.OFFSET 0) * 2 ^ 16) false)

/-- STEP_APPLY (R311): once its trees are OFF the waiting step applies, and the trees that were ON start again. -/
def execStepApply (s : State) : Result :=
  match s.clock.step with
  | none => .next s
  | some p =>
    if !s.noTreeSends then .next s
    else
      let s := s.applyStep p.amount |>.put TIME_CTRL.STEP_PENDING 0 0 |>.modClock fun c => { c with step := none }
      .next (p.trees.foldl (fun s t => s.requestUnit (.tree t) true) s)

/-! ### Measurements (R310, R312) -/

/-- The median of up to 8 measurements: of an even number, the mean of the middle two, rounded down (log entry 21). -/
def medianOf (vs : List Int) : Int :=
  let sorted := vs.foldl (fun l v => insertInt v l) []
  let n := sorted.length
  if n % 2 = 1 then sorted.getD (n / 2) 0 else (sorted.getD (n / 2 - 1) 0 + sorted.getD (n / 2) 0) / 2

/-- A signed value cut to `w` bits, saturating. -/
def satSigned (w : Nat) (v : Int) : Nat := ofSigned w (max (-(2 ^ (w - 1) : Int)) (min (2 ^ (w - 1) - 1 : Int) v))

/-- The offset estimate as TIME_STATUS shows it; the rate that the unit takes from the trend is a free value (log entry 21). -/
def State.showOffset (est : Int) (s : State) : State :=
  s.put TIME_STATUS.OFFSET_NS 0 (satSigned 32 (est / 2 ^ 16)) |>.putFlag TIME_STATUS.LOCKED 0 (est.natAbs ≤ 100 * 2 ^ 16)
    |>.put TIME_STATUS.RATE_PPB 0 s.free |>.useFree

/-- An offset larger than STEP_LIMIT_US is not corrected (R311). -/
def State.judgeStep (est : Int) (s : State) : State :=
  if est.natAbs ≤ s.get TIME_CTRL.STEP_LIMIT_US 0 * 1000 * 2 ^ 16 || s.flag TIME_STATUS.STEP_NEEDED 0 then s
  else s.put TIME_STATUS.STEP_NEEDED 0 1 |>.raisePkg 3857

/-- A valid measurement of a source: the offset of network time from it. The selected source's ends holdover and renews the estimate, or acquires
time while it is not valid. -/
def State.measured (source : Nat) (offset : Int) (s : State) : State :=
  if source = 0 || s.get TIME_CTRL.SOURCE 0 ≠ source then s
  else if s.timeValid then
    let vs := (offset :: s.clock.meas).take 8
    let est := medianOf vs
    (s.modClock fun c => { c with meas := vs }).showOffset est |>.put TIME_STATUS.HOLDOVER 0 0 |>.judgeStep est |>.showSource
  else if s.flag TIME_CTRL.STEP_PENDING 0 then s
  else s.showOffset offset |>.askStep (-offset) true

/-- TIME_MEASUREMENT (R310). -/
def execTimeMeasurement (source : Nat) (offset : Int) (s : State) : Result := .next (s.measured source offset)

/-- SOURCE_LOST (R310): the selected source fails; while time is valid the unit enters holdover. -/
def execSourceLost (s : State) : Result :=
  if s.timeValid && s.get TIME_CTRL.SOURCE 0 ≠ 0 && !s.flag TIME_STATUS.HOLDOVER 0 then
    .next (s.put TIME_STATUS.HOLDOVER 0 1 |>.put TIME_STATUS.SOURCE_LOST 0 1 |>.modClock (fun c => { c with meas := [] }) |>.showSource |>.raisePkg 3856)
  else .next s

/-- TIME_MEAS_WRITE (R310, R10): an 8-byte write delivers a HOST measurement; a 4-byte write is dropped. -/
def execTimeMeasWrite (size : Nat) (value : Word) (s : State) : Result :=
  if size ≠ 8 then .next s
  else if s.flag SEC_LOCK.TIME 0 then .next (s.fwEvent 0x30010 0 true 3)
  else .next (s.measured 3 (toSigned 64 value.toNat))

/-! ### TIME blocks (R313) -/

/-- The 80 bits of a time as TIME and TIME_ECHO blocks carry it (Table 13.3). -/
def timeBits (t : NetTime) : Nat := t.sec % 2 ^ 32 * 2 ^ 48 + t.frac % 2 ^ 48

/-- A Kolkan lane that sends and uses TIME blocks. -/
def State.timeLane (s : State) (l : Nat) : Bool := s.laneMode l == 3 && s.laneOn l && s.flag FAB_LANE_CTRL.TIME_EN l

/-- ASYM of a lane, from ps to units of 2^-16 ns, rounded down. -/
def State.asym (s : State) (l : Nat) : Int := toSigned 16 (s.get FAB_LANE_CTRL.ASYM l) * 2 ^ 16 / 1000

/-- The difference of an arrival and a departure whose seconds came as 32 bits: in full while time is yet to be acquired, else within half of the
32 bits' range (log entry 21). -/
def State.blockOffset (s : State) (rx tx : NetTime) : Int :=
  if s.timeValid then toSigned 32 ((rx.sec + 2 ^ 32 - tx.sec % 2 ^ 32) % 2 ^ 32) * unitsPerSecond + ((rx.frac : Int) - tx.frac)
  else (timeUnits rx : Int) - timeUnits (NetTime.mk (tx.sec % 2 ^ 32) tx.frac)

/-- TIME (R313): a TIME block that left the partner at `tx` and arrived at `rx`; the answer leaves `turn` ns later. The chosen source lane's block is
a measurement once the link delay is known. -/
def execTime (lane seq : Nat) (tx rx : NetTime) (srcValid master : Bool) (stratum turn : Nat) (s : State) : Result :=
  if !s.timeLane lane then .next s
  else
    let s := s.setTime rx.sec rx.frac |>.put FAB_LANE_STATUS.PARTNER_STRATUM lane stratum
      |>.modLane lane (fun x => { x with srcValid := srcValid, master := master }) |>.showSource
    let s := s.sendControl lane (controlBlock 0x2E (seq % 256 * 2 ^ 112 + timeBits rx * 2 ^ 32 + turn % 2 ^ 16 * 2 ^ 16))
    match (s.lane lane).delay with
    | some d => .next (if s.sourceLane = some lane then s.measured 2 (s.blockOffset rx tx - d - s.asym lane) else s)
    | none => .next s

/-- TIME_ECHO (R313): the answer to our TIME block of sequence `seq`, at arrival `rx`; it gives the link delay. -/
def execTimeEcho (lane seq turn : Nat) (rx : NetTime) (s : State) : Result :=
  if !s.timeLane lane then .next s
  else
    match (s.lane lane).timeSent.find? fun e => e.1 == seq with
    | none => .next s
    | some (_, t1) =>
      let d : Int := ((timeUnits rx : Int) - t1 - turn * 2 ^ 16) / 2
      .next (s.setTime rx.sec rx.frac |>.modLane lane fun x => { x with delay := some d, timeSent := x.timeSent.filter fun e => e.1 ≠ seq })

/-- TIME_SEND (R313): a TIME block leaves at `tx`. -/
def execTimeSend (lane : Nat) (tx : NetTime) (s : State) : Result :=
  if !s.timeLane lane then .next s
  else
    let s := s.setTime tx.sec tx.frac
    let q := (s.lane lane).timeSeq
    let master := !(s.get TIME_CTRL.SOURCE 0 == 2 && s.sourceLane == some lane)
    let body := q * 2 ^ 112 + timeBits tx * 2 ^ 32 + ofBool s.timeValid * 2 ^ 31 + ofBool master * 2 ^ 30 + s.stratum * 2 ^ 24
    .next (s.modLane lane (fun x => { x with timeSeq := (q + 1) % 256, timeSent := (x.timeSent.filter fun e => e.1 ≠ q) ++ [(q, timeUnits tx)] })
      |>.sendControl lane (controlBlock 0x2D body))

/-! ### 1PPS and ToD (R315) -/

/-- PPS_EDGE (R315): an edge at 1PPS in. -/
def execPpsEdge (time : NetTime) (s : State) : Result :=
  .next (s.setTime time.sec time.frac |>.modClock fun c => { c with edge := some (timeUnits time) })

/-- The CRC-8 of the first 11 bytes of a ToD message. -/
def todCrc (bytes : List Nat) : Nat := crc8 88 (leValue (bytes.take 11).reverse)

/-- TOD_MESSAGE (R315): a message that arrives 10 to 900 ms after an edge, with its mark and CRC right, names that edge's second. -/
def execTodMessage (bytes : List Nat) (time : NetTime) (s : State) : Result :=
  let s := s.setTime time.sec time.frac
  match s.clock.edge with
  | none => .next s
  | some e =>
    let since := timeUnits time - e
    let good := bytes.length == 12 && byteAt bytes 0 == 0x54 && byteAt bytes 1 == 0x44 && byteAt bytes 11 == todCrc bytes
    if !good || timeUnits time < e || since < 10 * 10 ^ 6 * 2 ^ 16 || 900 * 10 ^ 6 * 2 ^ 16 < since then .next s
    else
      let second := leValue ((bytes.drop 2).take 6).reverse
      .next ((s.modClock fun c => { c with edge := none }).measured 1 ((e : Int) - (second * unitsPerSecond : Nat)))

/-- The 12 bytes of ToD out for a second (R315). -/
def State.todBytes (s : State) (sec : Nat) : List Nat :=
  let b := [0x54, 0x44] ++ beBytes 6 sec ++ [ofBool s.timeValid + 2 * s.get TIME_STATUS.HOLDOVER 0 + 4 * s.stratum, 0, 0]
  b ++ [todCrc b]

/-- PPS_OUT (R315): a second boundary of network time. -/
def execPpsOut (sec : Nat) (s : State) : Result :=
  let s := s.setTime sec 0
  let s := if s.flag TIME_CTRL.PPS_OUT_EN 0 then s.emit .pps else s
  .next (if s.flag TIME_CTRL.TOD_OUT_EN 0 then s.emit (.tod (s.todBytes sec)) else s)

/-! ### Transmit timestamps (R314) -/

/-- FAB_TS_POP (R314): the oldest timestamp of a die's FIFO is removed. -/
def execFabTsPop (d : Nat) (s : State) : Result :=
  .next ({ s with stamps := s.stamps.set ⟨d, 0⟩ [] ((s.stamps.get ⟨d, 0⟩ []).drop 1) }.showStamp d)

end Sys2Proof.Machine
end

