-- ==== Sys2Proof/Machine/Pair.lean ====
section
/-!
DEFINITION. Protection pairs (chapter 14): the claim, heartbeats, pairing, mirrored maps and records, health, and switch-over.
Heartbeat times are in units of 2^-8 ns, modulo the 256 s that bits [55:8] of network time hold.
-/

namespace Sys2Proof.Machine

/-! ### Protected trees and the claim (R319 to R322) -/

/-- Every tree of the part. -/
def State.allTrees (s : State) : List Nat := List.range (8 * s.dies)

/-- The protected trees. -/
def State.sharedTrees (s : State) : List Nat := s.allTrees.filter fun t => (s.tree t).shared

/-- ROLE (Table 14.13). -/
def State.role (s : State) : Nat := s.get PEER_STATUS.ROLE 0

/-- ROLE set. -/
def State.setRole (r : Nat) (s : State) : State := s.put PEER_STATUS.ROLE 0 r

/-- Every claim-gated tree dark (R319). -/
def State.darkenGated (s : State) : State := (s.allTrees.filter fun t => s.claimGated t).foldl (fun s t => State.darken t s) s

/-- The transmitters of a tree that is ON light again as far as mute, lock and claim let them (R319, R76). -/
def State.relight (t : Nat) (s : State) : State :=
  if s.get DMK_TREE_STATE.STATE t = 2 && !(s.tree t).txShut then (s.liveSets t).foldl (fun s k => State.light t k s) s else s

/-- Every claim-gated tree that is ON lights as far as it may. -/
def State.relightGated (s : State) : State := (s.allTrees.filter fun t => s.claimGated t).foldl (fun s t => State.relight t s) s

/-- A claim-gated tree has left OFF, so that a live claim blocks it. -/
def State.blocks (s : State) : Bool := s.allTrees.any fun t => s.claimGated t && s.get DMK_TREE_STATE.STATE t != 0

/-- CLAIM_LIVE (R319, R321, R322): gated transmitters go dark and CLAIM_BLOCKED is raised, though not on a standby (Table 14.7). A junior in its settle
yields. -/
def execClaimLive (s : State) : Result :=
  let s := s.put PEER_STATUS.CLAIM_IN 0 1 |>.darkenGated
  if s.pair.settling && !s.flag PEER_STATUS.SENIOR 0 then
    .next (s.put PEER_STATUS.CLAIM_OUT 0 0 |>.modPair (fun p => { p with settling := false }) |>.setRole 3)
  else if s.role != 3 && s.blocks then .next (s.put PEER_STATUS.CLAIM_BLOCKED 0 1 |>.raisePkg 3867)
  else .next s

/-- CLAIM_ABSENT (R319, R321): 800 ns without an edge; the gated transmitters that may light do. -/
def execClaimAbsent (s : State) : Result :=
  let s := s.put PEER_STATUS.CLAIM_IN 0 0
  let s := if s.blocks then s.askClaim else s
  .next s.relightGated

/-- A pair that has formed and whose digests disagree: its standby never seizes (R326). -/
def State.mayNotSeize (s : State) : Bool := s.role == 3 && s.pair.formed && !s.pair.agreed

/-- The part starts toggling; its settle begins (R322). -/
def State.seize (s : State) : State := s.put PEER_STATUS.CLAIM_OUT 0 1 |>.modPair fun p => { p with settling := true }

/-- Map F of every protected tree goes empty: neither part sends frame F (R335). -/
def State.emptyFrame (f : Nat) (s : State) : State :=
  s.sharedTrees.foldl (fun (s : State) t => (s.liveSets t).foldl (fun s k => State.emptyMap t k f s) s) s

/-- SEIZE (R322, R335): a paired part without the claim judges whether it may seize; `release` is the frame F of a RELEASE that it holds. -/
def execSeize (release : Option Nat) (s : State) : Result :=
  if !s.flag PEER_CTRL.ENABLE 0 || s.flag PEER_STATUS.CLAIM_OUT 0 || s.flag PEER_STATUS.CLAIM_IN 0 || s.mayNotSeize then .next s
  else
    match release with
    | some f => .next (s.emptyFrame f).seize
    | none =>
      if s.flag PEER_STATUS.HB_FAIL 0 || s.pair.last.any fun h => !h.2.2 then .next s.seize
      else .next (s.put PEER_STATUS.CLAIM_FAULT 0 1 |>.peerCnt 11 1 |>.raisePkg 3866)

/-- After a switch-over the new active sends the packets it kept whose SEQ follows the last one sent by the other part (R333). -/
def State.resendKept (s : State) : State :=
  ((s.circs.map fun e => e.1.n).filter fun c => (s.tree (s.circTree c)).shared).foldl (fun (s : State) c =>
    let x := s.circ c
    let s := s.modCirc c fun x => { x with kept := [] }
    (x.kept.filter fun e => 0 < wrapSub 16 e.1 x.seqLast && wrapSub 16 e.1 x.seqLast < 2 ^ 15).foldl
      (fun (s : State) e => s.cePacketOut c e.2.1 e.1 e.2.2) s) s

/-- A calibration under way ends with the standby role. -/
def State.dropCalibration (s : State) : State :=
  if s.sharedTrees.any fun t => (s.tree t).calib.isSome then
    (s.sharedTrees.foldl (fun (s : State) t => s.modTree t fun x => { x with calib := none }) s).put PEER_CMD.DONE 0 1
  else s

/-- The part is ACTIVE: its protected trees light, and one that was STANDBY has switched over (R334). -/
def State.becomeActive (s : State) : State :=
  let was := s.role
  let s := s.setRole 2 |>.modPair fun p => { p with settling := false, release := none, degrade := 0 }
  let s := s.relightGated
  if was = 3 then
    (s.dropCalibration.modPair fun p => { p with tauHeld := true }).put PEER_STATUS.SWITCH_EVENT 0 1 |>.peerCnt 10 1 |>.resendKept |>.raisePkg 3864
  else s

/-- SETTLE_END (R322, R334): 1 µs after a seize began. -/
def execSettleEnd (s : State) : Result :=
  if !s.pair.settling then .next s
  else if s.flag PEER_STATUS.CLAIM_IN 0 && !s.flag PEER_STATUS.SENIOR 0 then
    .next (s.put PEER_STATUS.CLAIM_OUT 0 0 |>.modPair (fun p => { p with settling := false }) |>.setRole 3)
  else .next s.becomeActive

/-- DOUBLE_CLAIM (R322): a live claim for more than 1 µs while the part holds its own; the junior yields. -/
def execDoubleClaim (s : State) : Result :=
  if s.holdsClaim && s.flag PEER_STATUS.CLAIM_IN 0 && !s.flag PEER_STATUS.SENIOR 0 then
    let s := s.darkenGated.put PEER_STATUS.CLAIM_OUT 0 0
    .next (if s.flag PEER_CTRL.ENABLE 0 then s.setRole 3 |>.modPair fun p => { p with tauHeld := false } else s)
  else .next s

/-- PEER_CTRL.ENABLE written (R319, R320, R326): pairing begins anew; or the part runs alone, every tree claim-gated again. -/
def State.setPairing (on : Bool) (s : State) : State :=
  if s.flag PEER_CTRL.ENABLE 0 = on then s
  else if on then
    let s := s.put PEER_CTRL.ENABLE 0 1 |>.setRole 1
    let s := s.modPair fun p => { seq := p.seq, shadowLast := p.shadowLast, unsureLast := p.unsureLast }
    (s.allTrees.filter fun t => !(s.tree t).shared).foldl (fun s t => State.relight t s) s
  else
    let s := (s.sendPeer 5 4 []).put PEER_CTRL.ENABLE 0 0 |>.setRole 0 |>.dropCalibration
    let s := s.modPair fun p => { seq := p.seq, shadowLast := p.shadowLast, unsureLast := p.unsureLast }
    let s := if s.blocks then s.askClaim else s
    (s.allTrees.filter fun t => !s.claimOk t).foldl (fun s t => State.darken t s) s |>.relightGated

/-! ### Heartbeats (R324, R325) -/

/-- Units of 2^-8 ns in the 256 s that a PEER block's time can tell apart. -/
def peerSpan : Nat := 256 * 10 ^ 9 * 2 ^ 8

/-- Bits [55:8] of a network time as units of 2^-8 ns. -/
def peerUnits (v : Nat) : Nat := v / 2 ^ 40 % 256 * (10 ^ 9 * 2 ^ 8) + v % 2 ^ 40

/-- A difference modulo the span, signed. -/
def peerDiff (a b : Nat) : Int :=
  let d := (a + peerSpan - b % peerSpan) % peerSpan
  if d < peerSpan / 2 then d else (d : Int) - peerSpan

/-- HEARTBEAT_SEND (R324, R325): a HEARTBEAT leaves at `tx` (Table 14.4). -/
def execHeartbeatSend (tx : NetTime) (s : State) : Result :=
  if !s.flag PEER_CTRL.ENABLE 0 || s.peerLane.isNone then .next s
  else
    let s := s.setTime tx.sec tx.frac
    let now := peerUnits s.peerTime
    let (echo, rx) := match s.pair.last with
      | some (q, at0, _) => (q, at0)
      | none => (0, 0)
    let turn := if s.pair.last.isNone then 0 else min (maxOf 32) (peerDiff now rx).toNat
    let rxTime := rx / (10 ^ 9 * 2 ^ 8) * 2 ^ 40 + rx % (10 ^ 9 * 2 ^ 8)
    let seq := s.pair.seq
    .next ((s.sendPeer 0 0 [echo * 2 ^ 112 + rxTime * 2 ^ 64 + turn * 2 ^ 32]).modPair fun p =>
      { p with sent := (p.sent ++ [(seq, now)]).reverse.take 16 |>.reverse })

/-- TAU shown: the median of the last 8 values (R325). -/
def State.showTau (s : State) : State := if s.pair.tauHeld then s else s.put PEER_TIME.TAU 0 (satSigned 32 (medianOf s.pair.taus))

/-- The time difference that a pair of HEARTBEATs gives: the partner's block left at `t0` of its time and arrived at `t2` of ours, `d` after it left. -/
def State.noteTau (echoSeq turn t0 t2 : Nat) (s : State) : State :=
  match s.pair.sent.find? fun e => e.1 == echoSeq with
  | none => s
  | some (_, t1) =>
    let d : Int := (peerDiff t2 t1 - turn) / 2
    (s.modPair fun p => { p with taus := ((peerDiff t0 t2 + d) :: p.taus).take 8 }).showTau

/-- A part in the standby role: the offsets of every protected tree are searched (R326, R328). -/
def State.becomeStandby (s : State) : State :=
  s.sharedTrees.foldl (fun (s : State) t =>
    s.modTree t (fun x => { x with calib := some [], driftSum := 0, driftCount := 0 }) |>.put PEER_TREE.CAL_DONE t 0)
    (s.setRole 3 |>.modPair fun p => { p with tauHeld := false })

/-- The roles of a formed pair (R326): the holder of the claim ACTIVE, the other STANDBY; while neither holds it both stay as they are. -/
def State.takeRole (partnerActive : Bool) (s : State) : State :=
  if s.role != 1 || !s.pair.formed then s
  else if s.holdsClaim then s.becomeActive
  else if partnerActive then s.becomeStandby
  else s

/-- HEARTBEAT (R325): a valid HEARTBEAT of sequence `seq` from device `device`, sent at `t0` (bits [55:8] of the partner's time) with its ACTIVE bit, ECHO_SEQ and
TURN; it arrives at `rx`. -/
def execHeartbeat (seq device : Nat) (active : Bool) (t0 echoSeq turn : Nat) (rx : NetTime) (s : State) : Result :=
  if !s.flag PEER_CTRL.ENABLE 0 || s.peerLane.isNone then .next s
  else
    let s := s.setTime rx.sec rx.frac
    let t2 := peerUnits s.peerTime
    let s := s.put PEER_STATUS.HB_FAIL 0 0 |>.put PEER_STATUS.PARTNER_DEVICE 0 device |>.peerCnt 0 1
      |>.modPair fun p => { p with last := some (seq, t2, active) }
    .next ((s.noteTau echoSeq turn (peerUnits t0) t2).takeRole active)

/-- HEARTBEAT_FAILURE (R325): 26 µs without a valid HEARTBEAT. -/
def execHeartbeatFailure (s : State) : Result := .next (if s.flag PEER_CTRL.ENABLE 0 then s.put PEER_STATUS.HB_FAIL 0 1 else s)

/-! ### Pairing (R326) -/

/-- The pair digest: SHA-384 over the tree-scoped sections of every protected tree in ascending order (R326). -/
def State.pairDigest (s : State) : Nat :=
  Config.sha384 (s.sharedTrees.flatMap fun t => [0x0101, 0x0102, 0x0103].flatMap fun x => s.sect x t)

/-- The partner's PAIR_HELLO matches the part (Table 14.1). -/
def State.pairMatches (s : State) (digest : Nat) (member : Nat) (pairDevice : Nat) (trees : List Nat) (senior : Bool) (device : Nat) : Bool :=
  digest == s.pairDigest && member == s.ident.member.code && pairDevice == s.get PEER_CTRL.PAIR_DEVICE 0 && trees == s.sharedTrees
    && senior != s.flag PEER_STATUS.SENIOR 0 && (pairDevice == s.get PKG_IDENT.DEVICE_ID 0 || pairDevice == device)

/-- PAIR_HELLO (R326): the partner's digest, member, PAIR_DEVICE, set of protected trees, SENIOR and device ID compared with our own. -/
def execPairHello (digest member pairDevice : Nat) (trees : List Nat) (senior : Bool) (device : Nat) (s : State) : Result :=
  if !s.flag PEER_CTRL.ENABLE 0 || s.peerLane.isNone then .next s
  else
    let s := s.put PEER_STATUS.PARTNER_DEVICE 0 device
    if s.pairMatches digest member pairDevice trees senior device then .next ((s.sendPeer 4 2 []).modPair fun p => { p with agreed := true })
    else
      let s := s.modPair fun p => { p with agreed := false }
      .next (if s.flag PEER_STATUS.PAIR_MISMATCH 0 then s else s.put PEER_STATUS.PAIR_MISMATCH 0 1 |>.raisePkg 3865)

/-- PAIR_ACCEPT (R326): the partner has found the two alike; with our own finding the pair is formed. -/
def execPairAccept (s : State) : Result :=
  if !s.flag PEER_CTRL.ENABLE 0 || !s.pair.agreed || s.pair.formed then .next s
  else
    let s := s.modPair fun p => { p with formed := true }
    .next (s.takeRole (s.flag PEER_STATUS.CLAIM_IN 0 || s.pair.last.any fun h => h.2.2))

/-! ### The standby follows (R329, R333) -/

/-- The terminal of a set that holds an Alloc-ID as its ONU-ID. -/
def State.terminalAt (s : State) (t k id : Nat) : Option Nat :=
  (List.range 256).find? fun n => s.rngState t n != 0 && s.get TREE_RNG_TERM.SET (termAt t n) == k && s.onuId t n == id

/-- A structure of a mirrored map with what the standby's own contexts say of it: the allocation of its Alloc-ID, or what a reservation is for, which
the structure does not spell (log entry 26). -/
def State.mirrorGrant (s : State) (t k : Nat) (g : Grant) : Grant :=
  let id := g.allocId
  let known := (s.allocations t).find? fun a => s.get ALLOC.SET (allocAt t a) == k && s.get ALLOC.ALLOC_ID (allocAt t a) == id
  if id = 1023 then { g with kind := .quiet, allocation := 0, terminal := 0 }
  else if s.twill t k && 1016 ≤ id && id ≤ 1019 then { g with kind := .microWindow, allocation := 0, terminal := s.terminalOf t k id }
  else
    match (s.terminalAt t k id).filter fun n => !s.inOperation t n, known with
    | some n, _ => { g with kind := .ranging, allocation := 0, terminal := n }
    | none, some a => { g with kind := .data, allocation := a, terminal := s.get ALLOC.TERMINAL (allocAt t a) }
    | none, none => { g with kind := .ranging, allocation := 0, terminal := (s.terminalAt t k id).getD 0 }

/-- A mirrored map in force: its units join INFLIGHT, and booked ones leave CREDIT (Table 14.7). -/
def State.useMap (t m : Nat) (gs : List Grant) (s : State) : State :=
  gs.foldl (fun (s : State) g =>
    if g.kind != .data || s.get ALLOC.CLASS (allocAt t g.allocation) = 0 then s
    else
      let i := allocAt t g.allocation
      let s := s.granted t g.allocation m g.units
      if booked (s.get ALLOC.CLASS i) then s.setCredit i (s.creditOf i - 256 * g.units) else s) s

/-- MAP (R329): a mirrored map of a set for frame `m`. One that comes before the start of frame m − 1 is in force; its own build, if it is there, is
compared with it and taken back. -/
def execMap (t k m : Nat) (grants : List Grant) (s : State) : Result :=
  let ahead := wrapSub 32 m (s.setOf t k).dsFrame
  if !s.standbyFor t || !(s.liveSets t).contains k || ahead < 2 || 2 ^ 31 ≤ ahead then .next s
  else
    let gs := grants.map fun g => s.mirrorGrant t k g
    let own := (s.setOf t k).maps.find? fun x => x.frame == m
    let x : Map := { frame := m, grants := gs, bursts := s.contextsOf t k m 0 (burstsOf gs),
                     profiles := (own.map fun x => x.profiles).getD (s.profileWords t) }
    let s := match own with
      | some y => (if s.mapsDiffer t k x y then s.peerCnt 4 1 else s).undoMap t y
      | none => s
    let s := s.dropContexts t k m |>.modSet t k fun y => { y with maps := (y.maps.filter fun z => z.frame != m) ++ [x], kept := y.kept ++ x.bursts }
    .next (s.useMap t m gs |>.peerCnt 2 1 |>.modPair fun p => { p with mirrored := p.mirrored ++ [(t, k, m)] })

/-- A terminal as a TERMINAL record gives it (Table 14.5). -/
def State.recordTerm (s : State) (r : TermRecord) : State :=
  let i := termAt r.tree r.terminal
  if !s.standbyFor r.tree then s
  else if r.state = 0 then s.freeTerm r.tree r.terminal
  else
    let s := s.put TREE_RNG_TERM.STATE i r.state |>.put TREE_RNG_TERM.SET i (ofBool r.set) |>.put TREE_RNG_TERM.METHOD i (ofBool r.method)
      |>.put TREE_RNG_TERM.ONU_ID i r.onuId |>.put TREE_RNG_TERM.EQD i r.eqd |>.put TREE_RNG_SN.SERIAL i r.serial
    let on := r.state == 4
    if on != s.flag TREE_DEF_TERM.OPERATION i then s.setOperation r.tree r.terminal on else s

/-- TERMINAL (R329): 1 to 8 records; an active ignores them (Table 14.11). -/
def execTerminal (records : List TermRecord) (s : State) : Result := .next (records.foldl (fun s r => State.recordTerm s r) s)

/-- The place in the bits assembled of position `pos` of group frame `gseq`. -/
def pktPlace (marks : List (Nat × Nat × Nat)) (len gseq pos : Nat) : Option Nat :=
  (marks.filterMap fun m => if m.1 = gseq && m.2.1 ≤ pos && m.2.2 + (pos - m.2.1) ≤ len then some (m.2.2 + (pos - m.2.1)) else none).getLast?

/-- The packet assembly of a circuit aligned to a record (R333): its packet begins where the active's does and has its SEQ. A start that lies before the bits
held aligns nothing yet. -/
def State.alignPacket (s : State) (r : CircRecord) : State :=
  let c := r.circuit
  if !s.standbyFor (s.circTree c) then s
  else
    let x := s.circ c
    let s := s.modCirc c fun x => { x with seqLast := r.seqLast }
    match pktPlace x.pktMarks x.pkt.length r.gseq r.offset with
    | none => if x.pkt.isEmpty && s.get CIRC.GSEQ_NEXT c = r.gseq && r.offset = 0 then s.put CIRC.SEQ_TX c r.seqNext else s
    | some k =>
      let marks := (r.gseq, r.offset, 0) :: (x.pktMarks.filter fun m => k < m.2.2).map fun m => (m.1, m.2.1, m.2.2 - k)
      let bits := x.pkt.drop k
      s.modCirc c (fun x => { x with pkt := bits, pktMarks := if bits.isEmpty then [] else marks })
        |>.put CIRC.PKT_BITS c bits.length |>.put CIRC.SEQ_TX c r.seqNext

/-- CIRCUIT (R333): 1 to 8 records. -/
def execCircuit (records : List CircRecord) (s : State) : Result := .next (records.foldl (fun s r => State.alignPacket s r) s)

/-! ### Health (R336, R337) -/

/-- A protected tree is serviceable (R336). -/
def State.serviceable (s : State) (t : Nat) : Bool :=
  (s.tree t).shared && s.get DMK_TREE_STATE.STATE t == 2
    && !([TREE_DEF_STATUS.LOS_FIFTY, TREE_DEF_STATUS.LOS_XGS, TREE_DEF_STATUS.LOL_FIFTY, TREE_DEF_STATUS.LOL_XGS, TREE_DEF_STATUS.TREE_LOS].any
        fun f => s.flag f t)
    && (s.role != 3 || (!s.flag PEER_TREE.CAL_FAIL t && s.flag PEER_TREE.CAL_DONE t))

/-- TAU has been steady within ±0.5 ns over its last 8 values. -/
def State.tauLocked (s : State) : Bool :=
  let tau := toSigned 32 (s.get PEER_TIME.TAU 0)
  s.pair.tauHeld || (s.pair.taus.length == 8 && s.pair.taus.all fun v => (v - tau).natAbs ≤ 128)

/-- The number of bits set. -/
def popCount (n v : Nat) : Nat := ((List.range n).filter fun k => bitAt v k).length

/-- A lane toward the core is ON without loss of path. -/
def State.uplinkOk (s : State) : Bool :=
  s.laneList.any fun l => s.laneMode l != 4 && s.laneOn l && !s.flag FAB_LANE_STATUS.PATH_LOSS l

/-- The part's own report (Table 14.9). -/
def State.healthBytes (s : State) : List Nat :=
  let good := s.sharedTrees.filter fun t => s.serviceable t
  let flags := ofBool (s.sharedTrees.all fun t => s.flag PEER_TREE.CAL_DONE t && !s.flag PEER_TREE.CAL_FAIL t) + 2 * ofBool s.tauLocked
    + 4 * ofBool s.pair.agreed + 8 * s.get PEER_STATUS.CLAIM_IN 0 + 16 * ofBool s.uplinkOk
  let tauPs : Int := toSigned 32 (s.get PEER_TIME.TAU 0) * 1000 / 256
  let temp := s.dieList.foldl (fun v d => max v (s.get MEM_STATUS.MAX_TEMP d)) 0
  let retired := (s.dieList.map fun d => popCount 16 (s.get MEM_STATUS.RETIRED d)).sum
  let body := leBytes 4 s.frame ++ [s.role, flags] ++ leBytes 2 good.length ++ leBytes 8 ((good.map fun t => 2 ^ t).sum)
    ++ leBytes 4 (satSigned 32 tauPs) ++ [temp, retired, 0, 0] ++ leBytes 4 s.pair.shadowLast ++ leBytes 4 s.pair.unsureLast
    ++ List.replicate 28 0
  body ++ leBytes 4 (crc32c body)

/-- HEALTH (R336): a millisecond's own report, assembled and sent with the PAIR_HELLO of the same millisecond (R326); or the partner's, kept if its CHECK
holds. -/
def execHealth (received : Option (List Nat)) (s : State) : Result :=
  match received with
  | none =>
    let b := s.healthBytes
    .next (s.putWords PEER_HEALTH_SELF.DATA 0 8 (leValue b) |>.sendPeer 4 1 (blocksOf 3 (beBytes 48 s.pairDigest)) |>.sendPeer 5 0 (blocksOf 4 b))
  | some b =>
    if !s.flag PEER_CTRL.ENABLE 0 then .next s
    else if b.length = 64 && crc32c (b.take 60) = leAt b 60 4 then
      .next (s.putWords PEER_HEALTH_PARTNER.DATA 0 8 (leValue b) |>.modPair fun p => { p with healthAt := some s.nowNs })
    else .next (s.peerCnt 1 1)

/-- The partner would serve better (R337). -/
def State.partnerBetter (s : State) : Bool :=
  let w := s.get PEER_HEALTH_PARTNER.DATA 0
  let fresh : Bool := match s.pair.healthAt with
    | some at0 => s.nowNs - at0 ≤ 2000000
    | none => false
  fresh && bits w 40 3 == 7 && ((s.sharedTrees.filter fun t => s.serviceable t).length < bits w 48 16)

/-! ### Planned switch-over (R335) -/

/-- A RELEASE accepted: it is sent at once, and waits for frame F. -/
def State.acceptRelease (f : Nat) (s : State) : State :=
  (s.sendPeer 4 3 [f * 2 ^ 96]).modPair (fun p => { p with release := some f, degrade := 0 }) |>.put PEER_CMD.RESULT 0 0 |>.put PEER_CMD.DONE 0 0

/-- AUTO_DEGRADE (R337): one frame's judgement; after 8,000 in a row the active releases with F = FRAME + 16. -/
def execAutoDegrade (s : State) : Result :=
  if s.role ≠ 2 || !s.flag PEER_CTRL.AUTO_DEGRADE 0 || !s.partnerBetter then .next (s.modPair fun p => { p with degrade := 0 })
  else
    let n := min 8000 (s.pair.degrade + 1)
    let s := s.modPair fun p => { p with degrade := n }
    .next (if n = 8000 && s.pair.release.isNone then s.acceptRelease ((s.frame + 16) % 2 ^ 32) else s)

/-- RELEASE (R335, R33): on the active, a frame at least 8 ahead. -/
def execRelease (f : Nat) (s : State) : Result :=
  let d := wrapSub 32 f s.frame
  let refuse := fun (c : Nat) => s.put PEER_CMD.RESULT 0 c
  if s.role ≠ 2 then .next (refuse 2)
  else if s.pair.release.isSome then .next (refuse 1)
  else if !s.timeValid || d < 8 || 2 ^ 31 ≤ d then .next (refuse 3)
  else if 80000 < d then .next (refuse 4)
  else .next (s.acceptRelease f)

/-- RELEASE_DARKEN (R335): the start of frame F on the releasing part: dark, then no claim, and STANDBY. -/
def execReleaseDarken (s : State) : Result :=
  match s.pair.release with
  | none => .next s
  | some f =>
    let s := s.darkenGated.emptyFrame f
    .next (s.put PEER_STATUS.CLAIM_OUT 0 0 |>.setRole 3 |>.modPair (fun p => { p with release := none, tauHeld := false }) |>.put PEER_CMD.DONE 0 1)

/-! ### Offsets of a standby (R328) -/

/-- CALIBRATE (R328): on a standby, for a protected tree. -/
def execCalibrate (t : Nat) (s : State) : Result :=
  if !s.standbyFor t then .next (s.put PEER_CMD.RESULT 0 2)
  else if s.sharedTrees.any fun x => (s.tree x).calib.isSome then .next (s.put PEER_CMD.RESULT 0 1)
  else .next (s.modTree t (fun x => { x with calib := some [] }) |>.put PEER_CMD.RESULT 0 0 |>.put PEER_CMD.DONE 0 0)

/-- The nearest integer to `a / b`, halves away from zero. -/
def roundDiv (a : Int) (b : Nat) : Int := a.sign * ((2 * a.natAbs + b) / (2 * b) : Nat)

/-- STANDBY_OFFSET_UPDATE (R328): a second's mean drift of at least one symbol moves RX_OFFSET by twice its rounded value. -/
def execStandbyOffsetUpdate (t : Nat) (s : State) : Result :=
  let x := s.tree t
  let done := s.modTree t fun x => { x with driftSum := 0, driftCount := 0 }
  if !s.standbyFor t || x.calib.isSome || !s.flag PEER_TREE.CAL_DONE t || x.driftCount = 0 || x.driftSum.natAbs < x.driftCount then .next done
  else .next (done.setOffset t (toSigned 16 (s.get PEER_TREE.RX_OFFSET t) + 2 * roundDiv x.driftSum x.driftCount))

/-- What a second brings the pair: a held TAU moves 1 ns toward zero (R328), and the second's SHADOW_DIFF and SEQ_UNSURE are kept for the report. -/
def State.pairSecond (s : State) : State :=
  let tau := toSigned 32 (s.get PEER_TIME.TAU 0)
  let s := if s.pair.tauHeld then s.put PEER_TIME.TAU 0 (ofSigned 32 (tau.sign * (tau.natAbs - 256 : Nat))) else s
  s.modPair fun p => { p with shadowLast := s.liveOf PEER_CNT.COUNT 4 % 2 ^ 32, unsureLast := s.liveOf PEER_CNT.COUNT 5 % 2 ^ 32 }

end Sys2Proof.Machine
end

