-- ==== Sys2Proof/Machine/Channel.lean ====
section
/-!
DEFINITION. A channel of the stacked DRAM (chapter 12): its request queues and the order in which it serves them (R279, R280), the close predictor (R281),
refresh (R282), and row disturbance (R284).
-/

namespace Sys2Proof.Machine

/-- The unit number of channel `c` of a die. -/
def chanAt (d c : Nat) : Nat := d * 16 + c

/-- What the controller keeps of a channel. -/
def State.chan (s : State) (d c : Nat) : ChanSt := s.channels.get ⟨chanAt d c, 0⟩ {}

/-- A change of it. -/
def State.modChan (d c : Nat) (f : ChanSt → ChanSt) (s : State) : State :=
  { s with channels := s.channels.set ⟨chanAt d c, 0⟩ {} (f (s.chan d c)) }

/-- What the controller keeps of a die's stack. -/
def State.stack (s : State) (d : Nat) : StackSt := s.dieStacks.get ⟨d, 0⟩ {}

/-- A change of it. -/
def State.modStack (d : Nat) (f : StackSt → StackSt) (s : State) : State := { s with dieStacks := s.dieStacks.set ⟨d, 0⟩ {} (f (s.stack d)) }

/-- STATE of a channel (Table 12.15): 0 ACTIVE, 1 RETUNING, 2 RETRAINING, 3 FORCED_REFRESH, 4 RETIRED, 5 OFF. -/
def State.chanState (s : State) (d c : Nat) : Nat := s.get MEM_CH_STATUS.STATE (chanAt d c)

/-- STATE set, with the channel's OFFLINE bit in MEM_STATUS. -/
def State.setChan (d c st : Nat) (s : State) : State :=
  let off := s.get MEM_STATUS.OFFLINE d
  s.put MEM_CH_STATUS.STATE (chanAt d c) st |>.put MEM_STATUS.OFFLINE d (if st = 1 || st = 2 then setBit off c else clearBit off c)

/-- A memory event: its bit of MEM_STATUS and its source (Table 15.4). -/
def State.memEvent (d : Nat) (f : Field) (src : Nat) (s : State) : State := s.put f d 1 |>.raise d src

/-- KIND of the region that a device-memory offset lies in; none where it lies in no region (Table 12.2). -/
def State.regionOf (s : State) (d off : Nat) : Option Nat :=
  (List.range 6).find? fun k =>
    s.get MEM_REGION.BASE (d * 6 + k) * 32768 ≤ off && off < (s.get MEM_REGION.BASE (d * 6 + k) + s.get MEM_REGION.STRIPES (d * 6 + k)) * 32768

/-- A channel that holds nothing any more; how far its patrol scrub has come is kept. -/
def ChanSt.emptied (x : ChanSt) : ChanSt := { scrubbed := x.scrubbed }

/-! ### Requests in their queues (R279, R280) -/

/-- Class of a requester (Table 12.3); a reserved one is served last. -/
def requesterClass (q : Nat) : Nat :=
  match q with
  | 1 | 2 => 1
  | 3 | 4 | 5 | 13 => 2
  | 6 | 7 | 8 | 9 => 3
  | 10 | 11 => 4
  | _ => 5

/-- The class of a request: one higher once it has waited 4 µs, but never above 1 (R279). -/
def classAt (r : MemReq) (now : Nat) : Nat :=
  if r.came + 4000 ≤ now then max 1 (requesterClass r.requester - 1) else requesterClass r.requester

/-- Two requests to the same 256-bit word. -/
def sameWord (a b : MemReq) : Bool := a.bank == b.bank && a.row == b.row && a.cell == b.cell && a.word == b.word

/-- The bank of a request has the request's row open. -/
def ChanSt.hits (x : ChanSt) (r : MemReq) : Bool :=
  let b := x.banks.get ⟨r.bank, 0⟩ {}
  b.isOpen && b.row == some r.row

/-- Of requests, the one that is served next: the lowest class, in it one to an open row, then the oldest (R279). -/
def ChanSt.next (x : ChanSt) (now : Nat) (rs : List MemReq) : Option MemReq :=
  let ready := rs.filter fun r => r.hold ≤ now
  let c := (ready.map fun r => classAt r now).foldl min 5
  let best := ready.filter fun r => classAt r now == c
  match best.find? fun r => x.hits r with
  | some r => some r
  | none => best.head?

/-- A write to a word that has one queued merges with it; a write-back to such a word is discarded, and one that a requester's write meets becomes that
requester's (R280, Table 12.8). -/
def mergeWrite (r : MemReq) : List MemReq → List MemReq
  | [] => []
  | w :: ws => if sameWord w r then (if w.requester = 12 then { r with came := w.came } else w) :: ws else w :: mergeWrite r ws

/-- A request that needs an entry: it takes a free one, or is delayed (R279, R280). -/
def ChanSt.enter (x : ChanSt) (r : MemReq) : ChanSt :=
  if r.write then
    if x.writes.length < 64 then { x with writes := x.writes ++ [r], draining := x.draining || 48 ≤ x.writes.length + 1 }
    else { x with delayed := x.delayed ++ [r] }
  else if x.reads.length < 64 then { x with reads := x.reads ++ [r] }
  else { x with delayed := x.delayed ++ [r] }

/-- Delayed requests take the entries that have become free, the oldest first. -/
def ChanSt.refill (x : ChanSt) : ChanSt := x.delayed.foldl ChanSt.enter { x with delayed := [] }

/-- A queue of a channel changed: WQ_DEPTH shows the write queue, and a drain that begins is counted. -/
def State.queued (d c : Nat) (x : ChanSt) (s : State) : State :=
  let began := x.draining && !(s.chan d c).draining
  let s := s.modChan d c (fun _ => x) |>.put MEM_CH_STATUS.WQ_DEPTH (chanAt d c) x.writes.length
  if began then s.memCnt d 11 1 else s

/-- A request comes to a channel: a read of a word in the write queue is answered from there (R280). -/
def State.memRequest (d c : Nat) (r : MemReq) (s : State) : State :=
  let x := s.chan d c
  if x.writes.any fun w => sameWord w r then
    if r.write then s.queued d c { x with writes := mergeWrite r x.writes } else s.memCnt d 0 1
  else s.queued d c (x.enter r)

/-! ### Row disturbance (R284) -/

/-- A requester's throttle period runs on some channel. -/
def State.showThrottle (d q : Nat) (s : State) : State :=
  s.putFlag MEM_THROTTLE.ACTIVE (d * 16 + q) ((List.range 16).any fun c => (s.chan d c).throttled.contains q)

/-- The close predictor after row `r` follows on a bank (R281). -/
def BankSt.train (b : BankSt) (r : Nat) : Nat :=
  match b.row with
  | none => b.pred
  | some x => if x = r then min 3 (b.pred + 1) else b.pred - 1

/-- An activation of a row (R284). When it brings the row's count to DISTURB_TH, the rows within two of it are refreshed, their counts clear and
the bank closed, and the requester is throttled; the event is raised at most once a second. -/
def State.activateRow (d c : Nat) (r : MemReq) (s : State) : State :=
  let n := (s.chan d c).acts.get ⟨r.bank, r.row⟩ 0 + 1
  let s := s.memCnt d 3 1
  if n < s.get MEM_CTRL.DISTURB_TH d then s.modChan d c fun x => { x with acts := x.acts.set ⟨r.bank, r.row⟩ 0 n }
  else
    let s := s.memCnt d 9 1 |>.modChan d c fun x =>
      let b := x.banks.get ⟨r.bank, 0⟩ {}
      { x with acts := x.acts.filter fun e => !(e.1.n == r.bank && r.row ≤ e.1.i + 2 && e.1.i ≤ r.row + 2)
               banks := x.banks.set ⟨r.bank, 0⟩ {} { b with isOpen := false } }
    let s := if r.requester = 0 then s
      else
        let i := d * 16 + r.requester
        s.modChan d c (fun x => { x with throttled := r.requester :: x.throttled.filter fun y => y ≠ r.requester })
          |>.addSat MEM_THROTTLE.THROTTLE_COUNT i 1 |>.put MEM_THROTTLE.LAST_DOMAIN i r.domain |>.showThrottle d r.requester
    (s.put MEM_STATUS.DISTURB_EVENT d 1).raiseOnce 7 d d 2236

/-- One access: a hit in an open row, or an activation; with no request to the bank waiting the row stays open by the bank's predictor (R281). -/
def State.access (d c : Nat) (r : MemReq) (s : State) : State :=
  let x := s.chan d c
  let b := x.banks.get ⟨r.bank, 0⟩ {}
  let p := b.train r.row
  let more := (x.reads ++ x.writes).any fun y => y.bank == r.bank
  let s := s.memCnt d (if r.write then 1 else 0) 1 |>.modChan d c fun y =>
    { y with banks := y.banks.set ⟨r.bank, 0⟩ {} ⟨p, some r.row, more || 2 ≤ p⟩ }
  if x.hits r then s.memCnt d 2 1 else s.activateRow d c r

/-! ### What a command slot does (R279 to R284, R287) -/

/-- A scrub read has been made (R287): the pass goes on, and ends when every channel in use has read all its cells. -/
def State.scrubRead (d c : Nat) (s : State) : State :=
  let s := s.memCnt d 13 1 |>.modChan d c fun x => { x with scrubbed := x.scrubbed + 1 }
  let live := (List.range 16).filter fun c => s.chanState d c != 4
  let passes := ((live.map fun c => (s.chan d c).scrubbed / 67108864).min?).getD 0
  s.put MEM_SCRUB.PASSES d (passes % 65536)

/-- A request taken from its queue and served; a drain ends with 16 writes left (R280). -/
def State.serveReq (d c : Nat) (r : MemReq) (s : State) : State :=
  let x := s.chan d c
  let y := if r.write then { x with writes := x.writes.erase r } else { x with reads := x.reads.erase r }
  let s := s.queued d c ({ y with draining := y.draining && 16 < y.writes.length, served := true }).refill |>.access d c r
  if r.requester = 12 && !r.write then s.scrubRead d c else s

/-- The next ordinary command of a slot: a write in a drain, else a read; an activation of a throttled requester waits THROTTLE_NS first and lets another
request go before it (R279, R280, R284). At most `fuel` such waits begin. -/
def State.serveSlot (d c now : Nat) : Nat → State → State
  | 0, s => s
  | fuel + 1, s =>
    let x := s.chan d c
    match x.next now (if x.draining then x.writes else x.reads) with
    | none => s.modChan d c fun x => { x with served := false }
    | some r =>
      if !x.hits r && r.hold = 0 && x.throttled.contains r.requester && s.get MEM_CTRL.THROTTLE_NS d ≠ 0 then
        let wait := fun (rs : List MemReq) => rs.map fun y => if y = r then { y with hold := now + s.get MEM_CTRL.THROTTLE_NS d } else y
        (s.memCnt d 10 1 |>.modChan d c fun x => { x with reads := wait x.reads, writes := wait x.writes }).serveSlot d c now fuel
      else s.serveReq d c r

/-- A channel starts to retune (1) or retrain (2). -/
def State.trainStart (d c st : Nat) (s : State) : State := s.setChan d c st |>.addWrap MEM_CH_STATUS.RETRAINS (chanAt d c) 1

/-- One refresh command: 32 rows of every bank, in row order; every row is closed, and the refreshed rows' activation counts are clear. -/
def State.refresh (d c : Nat) (s : State) : State :=
  let r := (s.chan d c).nextRow
  let i := chanAt d c
  let debt := s.get MEM_CH_STATUS.REF_DEBT i - 1
  let s := s.modChan d c (fun x =>
      { x with banks := x.banks.map fun e => (e.1, { e.2 with isOpen := false }), acts := x.acts.filter fun e => !(r ≤ e.1.i && e.1.i < r + 32),
               nextRow := (r + 32) % 262144 })
    |>.memCnt d 4 1 |>.put MEM_CH_STATUS.REF_DEBT i debt
  if s.chanState d c = 3 && debt ≤ 8 then
    if (s.chan d c).retuneDue then (s.modChan d c fun x => { x with retuneDue := false }).trainStart d c 1 |>.memCnt d 14 1
    else s.setChan d c 0
  else s

/-- A debt above 8 forces refresh on a channel in service (R282). -/
def State.judgeDebt (d c : Nat) (s : State) : State :=
  if 8 < s.get MEM_CH_STATUS.REF_DEBT (chanAt d c) && s.chanState d c = 0 then
    s.setChan d c 3 |>.memCnt d 5 1 |>.memEvent d MEM_STATUS.FORCED_EVENT 2234
  else s

/-- A new debt; it never passes what its field holds. -/
def State.setDebt (d c v : Nat) (s : State) : State := s.put MEM_CH_STATUS.REF_DEBT (chanAt d c) (min 31 v) |>.judgeDebt d c

/-- A channel that is trained and in use or in training. -/
def State.chanLive (s : State) (d c : Nat) : Bool := s.chanState d c < 4

/-- A command slot at an instant (R282): a forced or urgent refresh, a refresh while no request of class 1 or 2 waits, or the next request. A channel that
retunes pauses, one that retrains only refreshes (R289); while the stack is THROTTLED every other slot serves no request (Table 12.4). -/
def State.chanSlot (d c now : Nat) (s : State) : State :=
  let x := s.chan d c
  let debt := s.get MEM_CH_STATUS.REF_DEBT (chanAt d c)
  let tight := (x.reads ++ x.writes ++ x.delayed).any fun r => classAt r now ≤ 2
  match s.chanState d c with
  | 0 =>
    if debt = 8 || (0 < debt && !tight) then s.refresh d c
    else if s.flag MEM_STATUS.THROTTLED d && x.served then s.modChan d c fun x => { x with served := false }
    else s.serveSlot d c now 128
  | 2 => if 0 < debt then s.refresh d c else s
  | 3 => s.refresh d c
  | _ => s

/-- An event of a channel. -/
def State.chanEvent (d c : Nat) (s : State) (e : ChanEvent) : State :=
  match e with
  | .arrives r => s.memRequest d c { r with hold := 0 }
  | .slot now => s.chanSlot d c now

/-- REFRESH_INTERVAL (R282): an interval of a channel with what came to it and its command slots; at its end the debt rises. -/
def execRefreshInterval (d c : Nat) (events : List ChanEvent) (s : State) : Result :=
  if !s.chanLive d c then .next s
  else
    let s := events.foldl (fun s e => s.chanEvent d c e) s
    .next (s.setDebt d c (s.get MEM_CH_STATUS.REF_DEBT (chanAt d c) + 1))

end Sys2Proof.Machine
end

