-- ==== Sys2Proof/Machine/Stack.lean ====
section
/-!
DEFINITION. The stacked DRAM and its controller (chapter 12): temperature, row disturbance, error correction, scrubbing, training and retirement. Regions hold plain contents elsewhere in the state; a command names what a lost cell belongs to.
-/

namespace Sys2Proof.Machine

/-- The highest layer temperature shown. -/
def State.showMaxTemp (d : Nat) (s : State) : State :=
  s.put MEM_STATUS.MAX_TEMP d (((List.range 16).map fun c => s.get MEM_CH_STATUS.TEMP (chanAt d c)).foldl max 0)

/-- STACK_TEMP_CROSSING (R282): a layer's reading; above 85 °C the interval halves and the debt doubles, below 83 °C the interval returns. -/
def execStackTempCrossing (d c temp : Nat) (s : State) : Result :=
  let i := chanAt d c
  let s := s.put MEM_CH_STATUS.TEMP i temp |>.showMaxTemp d
  if 85 < temp && !s.flag MEM_CH_STATUS.HOT_INTERVAL i then
    let s := s.put MEM_CH_STATUS.HOT_INTERVAL i 1
    .next (if s.chanLive d c then s.setDebt d c (2 * s.get MEM_CH_STATUS.REF_DEBT i) else s)
  else if temp < 83 then .next (s.put MEM_CH_STATUS.HOT_INTERVAL i 0)
  else .next s

/-! ### Contents of the stack -/

/-- What every region of a die's stack held is gone: forwarding copy, map records, statistics in DRAM, samples, traces, frames in DRAM cells, the
Felt store, and circuit alignment (R283). -/
def State.loseStack (d : Nat) (s : State) : State :=
  let dropDram := fun (up : Bool) (s : State) =>
    (s.busyQueues d up).foldl (fun (s : State) q =>
      let fs := s.queueOf d up q
      let s := s.setQueue d up q (fs.filter fun f => !f.dram)
      let s := (fs.filter fun f => f.dram).foldl (fun s f => State.uncell d up q f s) s
      if fs.head?.any fun f => f.dram then s.newHead d up q true |>.reofferQueue d up q else s) s
  let s := dropDram true (dropDram false s)
  let s : State := { s with
    fwd := notOf d s.fwd, cache := notOf d s.cache, dev := notOf d s.dev, felt := notOf d s.felt,
    stats := (s.stats.map fun e => if e.1.n = d then (e.1, { e.2 with dram := 0 }) else e).filter (fun e => e.2 ≠ {}),
    grps := (s.grps.map fun e => if e.1.n / 128 = d then (e.1, { e.2 with held := [] }) else e).filter (fun e => e.2 ≠ {}),
    regs := s.regs.filter fun e => !((e.1.n == FELT_DOMAIN.USED.num || e.1.n == FWD_DOMAIN.COUNT.num) && e.1.i / 4096 == d)
      && !(e.1.n == FELT_PORT_STATUS.CELLS.num && e.1.i / 32 == d) }
  s.put FELT_STATUS.USED_CELLS d 0

/-- The lowest-indexed die that is ON with a running stack, another than DIE[d] (R283, R406). -/
def State.donorOf (s : State) (d : Nat) : Option Nat :=
  s.dieList.find? fun e => e != d && s.diePresent e && !s.flag MEM_STATUS.SHUTDOWN e

/-- Fields of a register with `per` units a die copied from DIE[e] to DIE[d]. -/
def State.copyUnits (per e d : Nat) (fs : List Field) (s : State) : State :=
  let own := fun (x : Nat) (k : Key) => (fs.any fun f => f.num == k.n) && k.i / per == x
  let kept := s.regs.filter fun x => !own d x.1
  { s with regs := (s.regs.filter fun x => own e x.1).foldr (fun x r => Tbl.set r ⟨x.1.n, d * per + x.1.i % per⟩ 0 x.2) kept }

/-- The forwarding buckets copied from another die, with the domains' counts and the package-wide fields of the unit (Tables 9.8, 9.11), which then stand as after that die's last applied update (R30, R283). -/
def State.copyForwarding (d : Nat) (s : State) : State :=
  match s.donorOf d with
  | none => s
  | some e =>
    let seq := s.get SEG_ORDER_APPLIED.SEQ e
    let s := (s.copyOf e).foldr (fun x s => s.putEntry d x.1 x.2) { s with fwd := notOf d s.fwd }
    let s : State := { s with
      labels := (s.labels.filter fun x => x.1.n == e).foldr (fun x l => Tbl.set l ⟨d, x.1.i⟩ 0 x.2) (notOf d s.labels)
      dieLocks := s.dieLocks.set ⟨d, 0⟩ [] (s.dieLocks.get ⟨e, 0⟩ [])
      updates := s.updates.map fun (u : Update) => if bitAt u.applied e then { u with applied := setBit u.applied d } else u }
    let s := s.copyUnits 1 e d FWD_CTRL.desc.fields |>.copyUnits 4096 e d FWD_DOMAIN.desc.fields
    (s.put SEG_ORDER_APPLIED.SEQ d seq).retireUpdates

/-! ### Heat (R283) -/

/-- A die's trees are suppressed by a condition of the die, or no longer (R17). -/
def State.suppressTrees (d : Nat) (on : Bool) (s : State) : State :=
  (List.range 8).foldl (fun (s : State) t => s.putFlag TREE_DEF_STATUS.SUPPRESSED_ABOVE (8 * d + t) on |>.judgeTree (8 * d + t)) s

/-- A tree goes dark and is OFF at once, without its shutdown. -/
def State.cutTree (t : Nat) (s : State) : State :=
  if s.unitState (.tree t) = 0 then s else ((s.treeOff t).setLatch (.tree t) 0).dropReweave t

/-- SHUTDOWN of a die's stack (R283). -/
def State.stackShutdown (d : Nat) (s : State) : State :=
  let trees := ((List.range 8).map fun t => 8 * d + t).filter fun t => s.unitState (.tree t) == 1 || s.unitState (.tree t) == 2
  let lanes := ((List.range 4).map fun l => 4 * d + l).filter fun l => s.unitState (.lane l) == 1 || s.unitState (.lane l) == 2
  let s := s.put MEM_STATUS.SHUTDOWN d 1 |>.suppressTrees d true
  let s := (List.range 8).foldl (fun (s : State) t => s.cutTree (8 * d + t)) s
  let s := (List.range 4).foldl (fun (s : State) l => (s.laneTo (4 * d + l) 0).setLatch (.lane (4 * d + l)) 0) s
  let s := (s.snapMissing d).loseStack d |>.modStack d fun x => { x with trees := trees, lanes := lanes }
  let s := (List.range 16).foldl (fun (s : State) c =>
    if s.chanState d c = 4 then s
    else (s.setChan d c 5).put MEM_CH_STATUS.REF_DEBT (chanAt d c) 0 |>.put MEM_CH_STATUS.WQ_DEPTH (chanAt d c) 0 |>.modChan d c ChanSt.emptied) s
  s.weaveIfOff

/-- STACK_THERMAL_RESPONSE (R283): the highest layer reading; each change of response raises an event. -/
def execStackThermalResponse (d temp : Nat) (s : State) : Result :=
  let s := s.put MEM_STATUS.MAX_TEMP d temp
  let s := if 95 < temp && !s.flag MEM_STATUS.THROTTLED d then s.put MEM_STATUS.THROTTLED d 1 |>.memEvent d MEM_STATUS.HOT_EVENT 2233
    else if temp < 92 && s.flag MEM_STATUS.THROTTLED d then s.put MEM_STATUS.THROTTLED d 0 |>.raise d 2233
    else s
  .next (if 105 < temp && !s.flag MEM_STATUS.SHUTDOWN d then (s.memEvent d MEM_STATUS.HOT_EVENT 2233).stackShutdown d else s)

/-- A die's stack starts again (R283): trained, filled with zeros, the forwarding copy restored; its trees and lanes start from OFF. -/
def State.stackRestart (d : Nat) (s : State) : State :=
  let x := s.stack d
  let s := s.put MEM_STATUS.SHUTDOWN d 0 |>.raise d 2233
  let s := (List.range 16).foldl (fun (s : State) c => if s.chanState d c = 5 then s.setChan d c 0 else s) s
  let s := s.copyForwarding d |>.modStack d (fun x => { x with trees := [], lanes := [] }) |>.suppressTrees d false
  let s := x.lanes.foldl (fun s l => s.requestUnit (.lane l) true) s
  x.trees.foldl (fun s t => s.requestUnit (.tree t) true) s

/-- The condition of a restart holds: below 90 °C for 10 s (Table 12.4). -/
def State.mayRestartStack (s : State) (d cool : Nat) : Bool := s.flag MEM_STATUS.SHUTDOWN d && 10 ≤ cool

/-- STACK_RESTART (R283): with AUTO_RESTART, after `cool` seconds below 90 °C. -/
def execStackRestart (d cool : Nat) (s : State) : Result :=
  .next (if s.mayRestartStack d cool && s.flag MEM_CTRL.AUTO_RESTART d then s.stackRestart d else s)

/-- The end of a host command of the memory controller. -/
def State.memDone (d result : Nat) (s : State) : State := s.put MEM_CMD.RESULT d result |>.put MEM_CMD.DONE d 1

/-- MEM_RESTART (R283): BAD_STATE outside SHUTDOWN or before the temperature condition holds. -/
def execMemRestart (d cool : Nat) (s : State) : Result :=
  .next (if s.mayRestartStack d cool then (s.stackRestart d).memDone d 0 else s.memDone d 2)

/-! ### Row disturbance (R284) -/

/-- ROW_DISTURB (R284): an activation of a row by requester `q` for a domain, which may bring the row's count to DISTURB_TH. -/
def execRowDisturb (d c bank row q dom : Nat) (s : State) : Result :=
  if !s.chanLive d c then .next s
  else .next (s.access d c { write := false, bank := bank, row := row, cell := 0, word := 0, requester := q, domain := dom, came := 0 })

/-- THROTTLE_END (R284): THROTTLE_US have passed since a requester's last crossing on a channel. -/
def execThrottleEnd (d q c : Nat) (s : State) : Result :=
  .next (s.modChan d c (fun x => { x with throttled := x.throttled.filter fun y => y ≠ q }) |>.showThrottle d q)

/-! ### Errors (R285 to R287) -/

/-- A frame at a place of a list marked. -/
def markAt (n : Nat) (v : Nat) (fs : List Frame) : List Frame := fs.mapIdx fun i f => if i = n then { f with damage := v } else f

/-- A bucket of a die whose primary copy (1) or both copies (2) are damaged, as its next reader meets it (R222). -/
def State.damageBucket (d b v : Nat) (s : State) : State :=
  (bucketSlots b).foldl (fun (s : State) i => s.putEntry d i { s.entryAt d i with damage := v }) s

/-- A lost cell marked for its next reader (Table 12.5, Table 12.7): frames with `v`, containers as missing, trace bytes as all ones. -/
def State.loseCell (d v : Nat) (o : CellOwner) (s : State) : State :=
  match o with
  | .none => s
  | .bucket _ => s
  | .queued up q n => s.setQueue d up q (markAt n v (s.queueOf d up q))
  | .felt p n => { s with felt := s.felt.set ⟨d, p⟩ [] (markAt n v (s.feltOf d p)) }
  | .container c g =>
    s.modGrp (s.circGroup c) fun x => { x with held := x.held.map fun (f : GroupFrame) =>
      if f.gseq = g then { f with parts := f.parts.filter fun p => p.member ≠ s.get CIRC.MEMBER c } else f }
  | .trace o => { s with dev := s.dev.set ⟨d, 0⟩ [] (Memory.writeBytes (s.dev.get ⟨d, 0⟩ []) o (List.replicate 32 255)) }.memCnt d 15 1

/-- MEM_ECC_LAST of an uncorrectable word (Table 12.12), its address decoded (Table 12.1). -/
def State.eccLast (d off q : Nat) (s : State) : State :=
  s.put MEM_ECC_LAST.CHANNEL d (bits off 11 4) |>.put MEM_ECC_LAST.BANK d (bits off 15 5) |>.put MEM_ECC_LAST.ROW d (bits off 20 18)
    |>.put MEM_ECC_LAST.CELL d (bits off 8 3) |>.put MEM_ECC_LAST.WORD d (bits off 5 3) |>.put MEM_ECC_LAST.REGION d ((s.regionOf d off).getD 0)
    |>.put MEM_ECC_LAST.REQUESTER d q

/-- The request of requester `q` for the word at a device-memory offset (Table 12.1). -/
def wordReq (write : Bool) (off q now : Nat) : MemReq where
  write := write
  bank := bits off 15 5
  row := bits off 20 18
  cell := bits off 8 3
  word := bits off 5 3
  requester := q
  domain := 0
  came := now

/-- The device-memory offset of a request of channel `c` (Table 12.1). -/
def reqOffset (c : Nat) (r : MemReq) : Nat := r.row * 2 ^ 20 + r.bank * 2 ^ 15 + c * 2 ^ 11 + r.cell * 2 ^ 8 + r.word * 2 ^ 5

/-- ECC_CORRECT (R285, R286): a read of a word at a device-memory offset finds it wrong. A corrected word is written back; a scrub read (requester 12) leaves
what it cannot correct to the next reader, but for the two table copies (R287). -/
def execEccCorrect (d off q : Nat) (correctable : Bool) (owner : CellOwner) (s : State) : Result :=
  if correctable then .next (s.memCnt d 6 1 |>.memRequest d (bits off 11 4) (wordReq true off 12 s.nowNs))
  else
    let s := s.memCnt d 7 1 |>.eccLast d off q
    let c := bits off 11 4
    match owner with
    | .bucket b =>
      if s.regionOf d off = some 5 then .next s
      else
        let gone := s.chanState d (if c < 8 then c + 8 else c - 8) == 4
        .next ((s.damageBucket d b (if gone then 2 else 1)).repairBucket d b).2
    | o => .next (if q = 12 then s else s.loseCell d 1 o)

/-- The read that the patrol scrub makes next on a channel: its cells in address order (R287, Table 12.1). -/
def State.scrubReq (s : State) (d c : Nat) : MemReq :=
  let n := (s.chan d c).scrubbed % 67108864
  { write := false, bank := n / 8 % 32, row := n / 256, cell := n % 8, word := 0, requester := 12, domain := 0, came := s.nowNs }

/-- PATROL_SCRUB (R287): every 1.25 ms one cell of each channel in use is to be read as a class 5 request; where the last one still waits, the read is
deferred. `age` is the time since the oldest cell was last scrubbed, in s. -/
def execPatrolScrub (d age : Nat) (s : State) : Result :=
  let live := (List.range 16).filter fun c => s.chanLive d c
  let free := live.filter fun c => !(((s.chan d c).reads ++ (s.chan d c).delayed).any fun r => r.requester == 12 && !r.write)
  let s := free.foldl (fun s c => s.memRequest d c (s.scrubReq d c)) s
  let s := s.put MEM_SCRUB.PASS_AGE_S d (min age (2 ^ 32 - 1))
  .next (if 172800 < age && !s.flag MEM_STATUS.SCRUB_LAG d then s.memEvent d MEM_STATUS.SCRUB_LAG 2235 else s)

/-! ### Training and retirement (R289, R290) -/

/-- Reads that a channel has not served complete as uncorrectable (Table 12.8). -/
def State.failReads (d c : Nat) (s : State) : State :=
  let x := s.chan d c
  (x.reads ++ x.delayed.filter fun r => !r.write).foldl (fun s r => s.memCnt d 7 1 |>.eccLast d (reqOffset c r) r.requester) s

/-- A channel of a die retired (R290): reads outstanding fail, lost cells are marked; a table cell with no copy left comes from another die that is ON, or is damaged. -/
def State.retire (d c : Nat) (lost : List CellOwner) (s : State) : State :=
  if s.chanState d c = 4 then s
  else
    let other := if c < 8 then c + 8 else c - 8
    let both := s.chanState d other == 4
    let s := (s.failReads d c).setChan d c 4 |>.put MEM_CH_STATUS.REF_DEBT (chanAt d c) 0 |>.put MEM_CH_STATUS.WQ_DEPTH (chanAt d c) 0 |>.modChan d c ChanSt.emptied
      |>.putBit MEM_STATUS.RETIRED d c |>.put MEM_STATUS.MIRROR_DEGRADED d 1 |>.memEvent d MEM_STATUS.RETIRE_EVENT 2232
    lost.foldl (fun (s : State) o =>
      match o with
      | .bucket b =>
        if !both then s
        else
          match s.donorOf d with
          | some e => (bucketSlots b).foldl (fun (s : State) i => s.putEntry d i (s.entryAt e i)) s
          | none => s.damageBucket d b 2
      | .none | .queued _ _ _ | .felt _ _ | .container _ _ | .trace _ => s.loseCell d 2 o) s

/-- Training ends with the channel in service and an eye margin; refreshes owed meanwhile may force an episode. -/
def State.trainEnd (d c margin : Nat) (s : State) : State :=
  s.setChan d c 0 |>.put MEM_CH_STATUS.MARGIN (chanAt d c) margin |>.judgeDebt d c

/-- CHANNEL_RETUNE (R289): a trigger starts a retune of a channel in service, or once a forced refresh has ended (Table 12.8); less than 10 % of margin left leads to a retrain. -/
def execChannelRetune (d c : Nat) (t : Training) (s : State) : Result :=
  match t, s.chanState d c with
  | .begins, 0 => .next (s.trainStart d c 1 |>.memCnt d 14 1)
  | .begins, 3 => .next (s.modChan d c fun x => { x with retuneDue := true })
  | .ends m, 1 => .next (if m < 10 then (s.put MEM_CH_STATUS.MARGIN (chanAt d c) m).trainStart d c 2 else s.trainEnd d c m)
  | .fails, 1 => .next (s.trainStart d c 2)
  | _, _ => .next s

/-- The end of a retrain that the host asked for (R289). -/
def State.hostTrained (d c result : Nat) (s : State) : State :=
  if (s.chan d c).byHost then (s.modChan d c fun x => { x with byHost := false }).memDone d result else s

/-- CHANNEL_RETRAIN (R289): a retrain starts, ends with a passing margin, or finds no setting and retires the channel. -/
def execChannelRetrain (d c : Nat) (t : Training) (lost : List CellOwner) (s : State) : Result :=
  match t, s.chanState d c with
  | .begins, 0 => .next (s.trainStart d c 2)
  | .begins, 1 => .next (s.trainStart d c 2)
  | .ends m, 2 => .next ((s.trainEnd d c m).hostTrained d c 0)
  | .fails, 2 => .next ((s.hostTrained d c 3).retire d c lost)
  | _, _ => .next s

/-- CHANNEL_RETIRE (R290): a channel that cannot be kept trained is retired; `lost` names what its cells hold. -/
def execChannelRetire (d c : Nat) (lost : List CellOwner) (s : State) : Result := .next (s.retire d c lost)

/-- MEM_RETRAIN (R289): BAD_STATE for a retired channel or one without power, BUSY while it trains. -/
def execMemRetrain (d c : Nat) (s : State) : Result :=
  match s.chanState d c with
  | 4 => .next (s.memDone d 2)
  | 5 => .next (s.memDone d 2)
  | 1 => .next (s.memDone d 1)
  | 2 => .next (s.memDone d 1)
  | _ => .next (s.put MEM_CMD.DONE d 0 |>.trainStart d c 2 |>.modChan d c fun x => { x with byHost := true })

/-- MEM_RETIRE (R290). -/
def execMemRetire (d c : Nat) (lost : List CellOwner) (s : State) : Result := .next ((s.retire d c lost).memDone d 0)

end Sys2Proof.Machine
end

