-- ==== Sys2Proof/Machine/Perf.lean ====
section
/-!
DEFINITION. Counters and measurement (chapter 16): flushes and host accesses of statistics counters, the snapshot, trace records, bandwidth windows,
sentinels, telemetry, and background work.
-/

namespace Sys2Proof.Machine

/-! ### Statistics counters (R363, R364) -/

/-- The DRAM copy of a counter as device memory holds it (R361). -/
def State.statDram (d c v : Nat) (s : State) : State := s.devWrite d (s.get PERF_CNT_BASE.OFFSET d + 8 * c) (leBytes 8 v)

/-- COUNTER_FLUSH (R363): the DRAM value gains the delta, which restarts. -/
def execCounterFlush (d c : Nat) (s : State) : Result :=
  let x := s.statOf d c
  if x.delta = 0 then .next s
  else .next (s.modStat d c (fun x => { x with dram := x.total, delta := 0 }) |>.statDram d c x.total |>.perfCnt d 0 1)

/-- The end of a counter access (Table 16.9). -/
def State.cntDone (d r : Nat) (s : State) : State := s.put PERF_CNT_ACC_CTRL.RESULT d r |>.put PERF_CNT_ACC_CTRL.DONE d 1

/-- Both parts of a counter set to zero, with its pre-T value written first while a snapshot copies (R364, R366). -/
def State.cntClear (d c : Nat) (s : State) : State :=
  s.snapBefore d c |>.modStat d c (fun x => { x with dram := 0, delta := 0 }) |>.statDram d c 0

/-- PERF_CNT_READ (R364): DRAM value plus delta, taken as one. -/
def execPerfCntRead (d c : Nat) (s : State) : Result :=
  .next (if 2097152 ≤ c then s.cntDone d 2 else s.put PERF_CNT_ACC_DATA.VALUE d (s.statOf d c).total |>.cntDone d 0)

/-- READ_CLEAR (R364). -/
def execReadClear (d c : Nat) (s : State) : Result :=
  .next (if 2097152 ≤ c then s.cntDone d 2 else s.put PERF_CNT_ACC_DATA.VALUE d (s.statOf d c).total |>.cntClear d c |>.cntDone d 0)

/-- CLEAR (R364). -/
def execClear (d c : Nat) (s : State) : Result := .next (if 2097152 ≤ c then s.cntDone d 2 else s.cntClear d c |>.cntDone d 0)

/-! ### Snapshots (R365 to R367) -/

/-- RESULT of SNAP_CTRL. -/
def State.snapResult (r : Nat) (s : State) : State := s.put SNAP_CTRL.RESULT 0 r

/-- SNAPSHOT_ARM (R365): the instant stands in SNAP_TIME_S and SNAP_TIME_NS. -/
def execSnapshotArm (s : State) : Result :=
  let sec := s.get SNAP_TIME_S.SECONDS 0
  let ns := s.get SNAP_TIME_NS.NS 0
  let t := sec * 10 ^ 9 + ns
  let st := s.get SNAP_CTRL.STATE 0
  .next (if !s.timeValid then s.snapResult 4
    else if t < s.nowNs + 1000000 then s.snapResult 2
    else if s.nowNs + 10000000000 < t then s.snapResult 3
    else if st = 1 || st = 2 then s.snapResult 1
    else
      { s with snap := { sec := sec, ns := ns } }.put SNAP_CTRL.STATE 0 1 |>.snapResult 0 |>.put SNAP_CTRL.DIES_DONE 0 0 |>.put SNAP_CTRL.DIES_MISSING 0 0
        |>.addWrap SNAP_CTRL.SNAP_ID 0 1)

/-- SNAPSHOT_CANCEL (R365): an armed snapshot returns to IDLE. -/
def execSnapshotCancel (s : State) : Result := .next (if s.get SNAP_CTRL.STATE 0 = 1 then s.put SNAP_CTRL.STATE 0 0 else s)

/-- A die begins the new epoch: nothing is copied yet, and its area holds no valid header (R366). -/
def State.snapBegin (d : Nat) (s : State) : State :=
  let s := s.modPerf d fun x => { x with copying := true, snapLost := false }
  let stats : Tbl Stat := s.stats.map fun e => if e.1.n = d then (e.1, { e.2 with copied := false }) else e
  { s with stats := stats.filter fun (e : Key × Stat) => e.2 ≠ ({} : Stat) }.devWrite d (s.get PERF_SNAP_BASE.OFFSET d) (List.replicate 64 0)

/-- SNAPSHOT_EPOCH (R366): network time reaches T. -/
def execSnapshotEpoch (s : State) : Result :=
  if s.get SNAP_CTRL.STATE 0 ≠ 1 then .next s
  else
    let s := s.reachNs (s.snap.sec * 10 ^ 9 + s.snap.ns) |>.put SNAP_CTRL.STATE 0 2
    let s := s.dieList.foldl (fun (s : State) d =>
      if s.diePresent d && !s.flag MEM_STATUS.SHUTDOWN d then s.snapBegin d else s.putBit SNAP_CTRL.DIES_MISSING 0 d) s
    .next s.snapEnd

/-- The SNAP banks of a die. -/
def State.snapBanks (s : State) (d : Nat) : List Bank := (s.banks d).filter fun b => b.snap

/-- The values of a bank in the snapshot area: those written already stay, the others are the counters' values. -/
def State.bankBytes (s : State) (d : Nat) (b : Bank) : List Nat :=
  (List.range b.size).flatMap fun k =>
    let c := b.first + k
    if (s.statOf d c).copied then s.devRead d (s.get PERF_SNAP_BASE.OFFSET d + 64 + 8 * c) 8 else leBytes 8 (s.statOf d c).total

/-- The header of a die's snapshot (Table 16.2). -/
def State.snapHeader (s : State) (d copyNs : Nat) : List Nat :=
  let b := leBytes 4 (s.get SNAP_CTRL.SNAP_ID 0) ++ leBytes 6 s.snap.sec ++ [0, 0] ++ leBytes 4 s.snap.ns ++ [d, 1 + 2 * ofBool (s.perfOf d).snapLost, 0, 0]
    ++ leBytes 4 (min copyNs (2 ^ 32 - 1)) ++ leBytes 4 ((s.snapBanks d).map fun b => b.size).sum ++ List.replicate 32 0
  b ++ leBytes 4 (crc32c b)

/-- SNAPSHOT_DIE_DONE (R366, R367): a die has written its last value and writes its header. -/
def execSnapshotDieDone (d copyNs : Nat) (s : State) : Result :=
  if !(s.perfOf d).copying then .next s
  else
    let s := (s.snapBanks d).foldl (fun (s : State) b => s.devWrite d (s.get PERF_SNAP_BASE.OFFSET d + 64 + 8 * b.first) (s.bankBytes d b)) s
    let s := s.devWrite d (s.get PERF_SNAP_BASE.OFFSET d) (s.snapHeader d copyNs) |>.modPerf d fun x => { x with copying := false }
    .next (s.putBit SNAP_CTRL.DIES_DONE 0 d).snapEnd

/-! ### Trace records (R368, R369) -/

/-- Entries of the trace ring of a die. -/
def State.traceSize (s : State) (d : Nat) : Nat := 2 ^ (s.get PERF_TRACE_CTRL.SIZE_EXP d + 10)

/-- A trace record (Table 16.3). -/
def traceBytes (r : TraceRec) (gap : Bool) (seq : Nat) : List Nat :=
  let stage := fun (k : Nat) => match (r.stages[k]?).getD none with
    | none => 0xFFFFFFFF
    | some v => min v 0xFFFFFFFE
  leBytes 4 r.tIngress
    ++ [ofBool r.up + 2 * ofBool r.dropped + 4 * ofBool r.cutThrough + 8 * ofBool r.felt + 16 * ofBool gap + 32 * ofBool r.crossed,
        if r.dropped then r.dropStage % 8 else 0]
    ++ leBytes 2 (r.domain % 4096) ++ leBytes 2 r.length ++ [r.tree % 256, r.cls % 8 + 8 * (r.colour % 4)] ++ leBytes 2 (r.linePort % 4096)
    ++ [r.lane % 256, r.ingressDie % 8 + 8 * (r.exitDie % 8)] ++ leBytes 2 (r.queue % 32768 + 32768 * ofBool r.upQueue) ++ [0, 0] ++ leBytes 4 seq
    ++ ((List.range 8).flatMap fun k => leBytes 4 (stage k)) ++ List.replicate 8 0

/-- A trace record lost: the ring has no free entry (R369). -/
def State.traceLost (d : Nat) (s : State) : State :=
  s.perfCnt d 3 1 |>.put PERF_TRACE_RING.OVERFLOW d 1 |>.raise d 2289 |>.modPerf d fun x => { x with gap := true }

/-- TRACE_RECORD (R368, R369): a tagged frame leaves DIE[d] or is dropped there; `throttled` frames were chosen too soon after another since the last record. -/
def execTraceRecord (d : Nat) (r : TraceRec) (throttled : Nat) (s : State) : Result :=
  let on := s.flag PERF_TRACE_CTRL.ENABLE_DS d || s.flag PERF_TRACE_CTRL.ENABLE_US d
  let s := if on then s.perfCnt d 4 throttled else s
  let prod := s.get PERF_TRACE_RING.PROD d
  let next := (prod + 1) % s.traceSize d
  if s.flag PERF_TRACE_CTRL.FILTER d && r.domain ≠ s.get PERF_TRACE_CTRL.DOMAIN d then .next (s.perfCnt d 5 1)
  else if next = s.get PERF_TRACE_RING.CONS d then .next (s.traceLost d)
  else
    let x := s.perfOf d
    .next (s.devWrite d (s.get PERF_TRACE_BASE.OFFSET d + 64 * prod) (traceBytes r x.gap x.traceSeq)
      |>.modPerf d (fun x => { x with gap := false, traceSeq := (x.traceSeq + 1) % 2 ^ 32 })
      |>.perfCnt d 2 1 |>.put PERF_TRACE_RING.PROD d next |>.raise d 2288)

/-! ### Bandwidth windows (R370) -/

/-- The end of a window on one port of a die. -/
def State.closePort (d w : Nat) (s : State) (p : Nat) : State :=
  let i := d * 56 + p
  let n := s.bwAcc.get ⟨d, p⟩ 0
  let rate := n * 8 / w
  { s with bwAcc := s.bwAcc.set ⟨d, p⟩ 0 0 }.put PERF_BW.BYTES i n |>.put PERF_BW_RATE.RATE_MBPS i rate
    |>.put PERF_BW_RATE.PEAK_MBPS i (max rate (s.get PERF_BW_RATE.PEAK_MBPS i))

/-- BANDWIDTH_WINDOW (R370): window `k` of DIE[d] ends. -/
def execBandwidthWindow (d k : Nat) (s : State) : Result :=
  if !s.flag PERF_BW_CTRL.ENABLE d then .next s
  else
    let w := s.get PERF_BW_CTRL.WINDOW_US d
    let s := s.reachNs ((k + 1) * w * 1000)
    .next ((List.range 56).foldl (fun s p => State.closePort d w s p) s |>.put PERF_BW_CTRL.LAST_WINDOW d k |>.raise d 2290)

/-! ### Sentinels and telemetry (R371, R373) -/

/-- One reading of sentinel `i` (Table 16.14). -/
def State.sentinel (d : Nat) (s : State) (x : Nat × Nat) : State :=
  let i := d * 8 + x.1
  let v := min x.2 65535
  let s := s.put SEG_SENTINEL.LAST i v |>.put SEG_SENTINEL.MIN i (min v (s.get SEG_SENTINEL.MIN i)) |>.put SEG_SENTINEL.MAX i (max v (s.get SEG_SENTINEL.MAX i))
    |>.modPerf d fun p => { p with msMin := min v p.msMin, msMax := max v p.msMax }
  if v < 1500 then s.addSat SEG_SENTINEL.BELOW i 1 else s

/-- SENTINEL_INTERVAL (R371): the readings of the eight sentinels over 10 µs, in M tokens/s. -/
def execSentinelInterval (d : Nat) (readings : List Nat) (s : State) : Result :=
  let rs := readings.take 8
  let s := ((List.range rs.length).zip rs).foldl (fun s x => s.sentinel d x) s
  .next (if rs.any fun v => v < 1500 then s.speedFault d |>.modPerf d fun p => { p with msFault := true } else s)

/-- The highest junction reading of a die, in 0.25 °C. -/
def State.hottest (s : State) (d : Nat) : Int :=
  ((List.range 15).map fun i => toSigned 12 (s.get SEG_TEMP.NOW (d * 16 + i + 1))).foldl max (toSigned 12 (s.get SEG_TEMP.NOW (d * 16)))

/-- A telemetry record (Table 16.4). -/
def State.teleBytes (s : State) (d seq : Nat) : List Nat :=
  let p := s.perfOf d
  let b := leBytes 4 s.netSec ++ leBytes 4 s.timeNs ++ leBytes 2 seq ++ [s.get TWEED_STATUS.LOAD_PCT d,
      s.get TWEED_STATUS.OVERLOAD d + 2 * ofBool p.msFault + 4 * s.get MEM_STATUS.THROTTLED d]
    ++ leBytes 2 (s.get SEG_GOV_STATUS.VCORE_MV d) ++ leBytes 2 p.msMin ++ leBytes 2 p.msMax ++ [ofSigned 8 (s.hottest d / 4), s.get MEM_STATUS.MAX_TEMP d % 256]
    ++ leBytes 2 (s.get SEG_POWER.DIE_POWER d) ++ [0, 0] ++ ((List.range 16).flatMap fun k => leBytes 2 (s.get TREE_OPT_TX.POWER (16 * d + k)))
    ++ ((List.range 8).flatMap fun i => leBytes 2 (min 65535 (s.get PERF_LAG.LAG (8 * d + i)))) ++ List.replicate 52 0
  b ++ leBytes 4 (crc32c b)

/-- The four readings of SEG_POWER (Table 18.17), in 0.1 W: die, core, stack, optics. -/
def State.putPower (d : Nat) (p : List Nat) (s : State) : State :=
  s.put SEG_POWER.DIE_POWER d (p.getD 0 0) |>.put SEG_POWER.CORE_POWER d (p.getD 1 0) |>.put SEG_POWER.DRAM_POWER d (p.getD 2 0)
    |>.put SEG_POWER.OPTICS_POWER d (p.getD 3 0)

/-- TELEMETRY_RECORD (R373): a millisecond ends and SEG_POWER is refreshed (Table 18.17); under overload its record may be skipped. -/
def execTelemetryRecord (d : Nat) (power : List Nat) (skipped : Bool) (s : State) : Result :=
  let s := s.putPower d power
  if !s.tweedRuns d then .next s
  else
    let seq := (s.perfOf d).teleNext
    let s := if skipped && s.flag TWEED_STATUS.OVERLOAD d then s.perfCnt d 11 1
      else
        s.devWrite d (s.get PERF_TELE_BASE.OFFSET d + 128 * (seq % 4096)) (s.teleBytes d seq) |>.put PERF_TELE_STATUS.SEQ d seq |>.raise d 2294
    .next (s.modPerf d fun x => { x with teleNext := (seq + 1) % 65536, msMin := 65535, msMax := 0, msFault := false })

/-! ### Background work (R375 to R378) -/

/-- A counter's delta lost, and with it the pre-T value of a counter that a running snapshot has not written (R376, R377). -/
def State.deltaLost (d c : Nat) (s : State) : State :=
  let open? := (s.perfOf d).copying && !(s.statOf d c).copied && ((s.bankOf d c).map fun b => b.snap).getD false
  let s := if open? then s.snapCopy d c true |>.modPerf d fun x => { x with snapLost := true } else s
  s.modStat d c (fun x => { x with delta := 0 }) |>.perfCnt d 1 1 |>.raise d 2293

/-- The consequence of an uncorrectable SRAM word for its owner (Table 16.7). -/
def State.sramLost (d : Nat) (o : SramOwner) (s : State) : State :=
  match o with
  | .allocation t a => s.modAlloc (8 * d + t) a fun x => { x with bad := true }
  | .burst t k n => s.modSet (8 * d + t) k fun x => { x with ring := x.ring.mapIdx fun i c => if i = n then { c with checkOk := false } else c }
  | .circuit c => let i := circAt d c; if s.circOn i then (s.disableCircuit i).circDone d 5 else s
  | .queue up q => s.put QUEUE.ENABLE (queueAt d up q) 0
  | .node up n => s.put NODE.ENABLE (nodeAt d up n) 0
  | .cacheWay b => { s with cache := s.cache.set ⟨d, b % 4096⟩ [] ((s.cache.get ⟨d, b % 4096⟩ []).filter fun x => x ≠ b) }
  | .meter m =>
    let i := meterAt d m
    s.put METER.TC_TOKENS i (256 * s.get METER.CBS i) |>.put METER.TP_TOKENS i (256 * s.get METER.PBS i)
  | .counter c => s.deltaLost d c
  | .keySlot k => { s with keys := s.keys.set ⟨0, slotAt d k⟩ none none }.put KEYSLOT.STATE (slotAt d k) 0
  | .association a =>
    { s with keys := s.keys.set ⟨1, saAt d a⟩ none none |>.set ⟨2, saAt d a⟩ none none }.put MSA.VALID (saAt d a) 0
  | .learned t n => s.clearRec TREE_RX_TERM.desc.fields (termAt (8 * d + t) n)
  | .expressCell up q n => s.loseCell d 1 (.queued up q n)
  | .tweedSram => s.watchdogRestart d
  | .other => s

/-- SRAM_SCRUB (R376): a wrong word is corrected, or is lost to its owner. -/
def execSramScrub (d : Nat) (uncorrectable : Option SramOwner) (s : State) : Result :=
  match uncorrectable with
  | none => .next (s.perfCnt d 6 1)
  | some o => .next (s.perfCnt d 7 1 |>.raise d 2292 |>.sramLost d o)

/-- The codes with which a check can end that finds damage in an image (Table 2.12). -/
def damageCodes : List Nat := [1, 2, 3, 4, 5, 6, 7, 8, 13]

/-- MRAM_SCRUB (R378): a word corrected and rewritten; a slot that fails its next check; a record invalid as R48 has it. -/
def execMramScrub (d : Nat) (flaw : MramFlaw) (s : State) : Result :=
  match flaw with
  | .corrected => .next (s.perfCnt d 8 1)
  | .slot k => .next ({ s.useFree with slotBad := s.slotBad.set ⟨d, k⟩ 0 (damageCodes.getD (s.free % 9) 1) }.raisePkg 3841)
  | .record p n =>
    .next (s.modMram d (fun m => { m with pages := m.pages.set p ((m.page p).mapIdx fun i r => if i = n then { r with crc := (r.crc + 1) % 2 ^ 32 } else r) })
      |>.addSat DMK_STATUS.CORRUPT_COUNT 0 1 |>.raisePkg 3841)

/-- Limits of the lags of PERF_LAG[0] to [7] (Table 16.6). -/
def lagLimit (i : Nat) : Nat := [60, 48, 10000, 100, 100, 2, 12, 1000].getD i 0

/-- BG_LAG (R375): the lag of activity `i`; OVER and the event come once each time the lag passes its limit. -/
def execBgLag (d i lag : Nat) (s : State) : Result :=
  let k := d * 8 + i
  let was := s.get PERF_LAG.LAG k
  let s := s.put PERF_LAG.LAG k (min lag (2 ^ 32 - 1))
  .next (if lagLimit i < lag && was ≤ lagLimit i then s.put PERF_LAG.OVER k 1 |>.raise d 2291 else s)

end Sys2Proof.Machine
end

