-- ==== Sys2Proof/Machine/Bus.lean ====
section
/-!
DEFINITION. Accesses to the BAR0 registers: address decoding (R9, R10, R383), the firewall (R61), what a read returns (R11 to R13), and the rows of the
operation table that are reads.
-/

namespace Sys2Proof.Machine

/-! ### Decoding -/

/-- The copy of a register at an offset from its first copy, counted over its indices; none where no copy stands there. -/
def dimsIndex : List (Nat × Nat) → Nat → Option Nat
  | [], x => if x = 0 then some 0 else none
  | (stride, n) :: rest, x =>
    if x / stride < n then (dimsIndex rest (x % stride)).map fun k => x / stride * (rest.map fun r => r.2).foldl (· * ·) 1 + k else none

/-- What an 8-byte-aligned address of BAR0 selects: a register and the number of its copy. -/
def decodeReg (off : Nat) : Option (RegDesc × Nat) :=
  if off < 0x1000000 then
    allRegs.findSome? fun r => if r.die || off < r.base then none else (dimsIndex r.dims (off - r.base)).map fun k => (r, k)
  else
    let d := off / 0x1000000 - 1
    let x := 0x1000000 + off % 0x1000000
    allRegs.findSome? fun r => if !r.die || x < r.base then none else (dimsIndex r.dims (x - r.base)).map fun k => (r, d * r.perDie + k)

/-- How an access to BAR0 is taken before any rule is judged (R9, R10, R61, R383). -/
inductive Reach where
  | unmapped
  /-- The window of a present die that is not WOVEN. -/
  | notWoven
  | reg (r : RegDesc) (k : Nat)
  deriving DecidableEq, Repr

/-- The access of a size at an offset: PKG_DIE_CTRL of an absent die is a reserved address. -/
def State.reach (s : State) (off size : Nat) : Reach :=
  if !(size = 4 || size = 8) || off % size ≠ 0 || 2 ^ 28 ≤ off then .unmapped
  else if 0x1000000 ≤ off && s.dies ≤ off / 0x1000000 - 1 then .unmapped
  else if 0x1000000 ≤ off && !s.isWoven (off / 0x1000000 - 1) then .notWoven
  else
    match decodeReg (off / 8 * 8) with
    | none => .unmapped
    | some (r, k) => if r.base = PKG_DIE_CTRL.desc.base && s.dies ≤ k then .unmapped else .reg r k

/-! ### The firewall (R61, R62, R342) -/

/-- The lowest valid rule that covers a page of a BAR. -/
def State.ruleFor (s : State) (bar page : Nat) : Option Nat :=
  (List.range 64).find? fun i =>
    s.flag SEC_FW_RULE.VALID i && s.get SEC_FW_RULE.BAR i == bar && s.get SEC_FW_RULE.BASE_PAGE i ≤ page && page ≤ s.get SEC_FW_RULE.LIMIT_PAGE i

/-- A rule permits a requester and direction; the debug port has access as the host has it (R62). Tweed's firmware is subject to none. -/
def State.permits (s : State) (who : Requester) (write : Bool) (i : Nat) : Bool :=
  match who with
  | .host | .debug => s.flag (if write then SEC_FW_RULE.HOST_WRITE else SEC_FW_RULE.HOST_READ) i
  | .task _ _ => s.flag (if write then SEC_FW_RULE.EXT_WRITE else SEC_FW_RULE.EXT_READ) i
  | .tweed _ => true

/-- The firewall refuses an access; the pages of the SEC block are never subject to a rule. -/
def State.refused (s : State) (who : Requester) (bar off : Nat) (write : Bool) : Bool :=
  !(bar = 0 && 0x20000 ≤ off && off < 0x30000) && match s.ruleFor bar (off / 4096) with
    | none => false
    | some i => !s.permits who write i

/-- SOURCE of a refused access (Table 2.18). -/
def sourceOf : Requester → Nat
  | .host | .tweed _ => 0
  | .task _ _ => 1
  | .debug => 2

/-- A refused access counted. -/
def State.fwRefuse (who : Requester) (bar off : Nat) (write : Bool) (s : State) : State := s.fwEvent off bar write (sourceOf who)

/-- The debug port makes accesses only while it is open (R62). -/
def State.mayAsk (s : State) (who : Requester) : Bool :=
  match who with
  | .debug => s.get SEC_DBG_STATUS.STATE 0 == 1
  | _ => true

/-- Registers that an extension task never reaches; an attempt is a fault of the task (R342). -/
def taskFaults (r : RegDesc) : Bool :=
  r.base == CIPH_TW_CMD.desc.base || r.base == CIPH_TW_DATA.desc.base || r.base == SEC_LOCK.desc.base || r.base == DMK_COMMAND.desc.base

/-- An extension task stopped for its fault (R343). -/
def State.faultTask (who : Requester) (s : State) : State :=
  match who with
  | .task d n => if bitAt (s.get TWEED_STATUS.TASKS_RUNNING d) n then s.stopTask d n else s
  | _ => s

/-! ### What a register reads as -/

/-- Bits 0 to `n - 1` of a word. -/
def wordOf (n : Nat) (f : Nat → Bool) : Nat := ((List.range n).map fun k => if f k then 2 ^ k else 0).sum

/-- Entries of the cache of a die that hold a bucket with a PIN entry. -/
def State.pinnedWays (s : State) (d : Nat) : Nat :=
  ((s.cache.filter fun e => e.1.n == d).map fun e => (e.2.filter fun b => s.pinned d b).length).sum

/-- The DEBUG_PW_HASH record that holds on a powered die (Table 2.19); one without a payload says that the password was removed (log entry 33). -/
def State.passwordRecord (s : State) : Option MRec :=
  (s.poweredDies.findSome? fun d => s.holding d 0x0030 0).filter fun r => !r.payload.isEmpty

/-- The value of a field that mirrors other state. -/
def State.viewOf (s : State) (f : Field) (k : Nat) : Option Nat :=
  if f.num = SEG_FRAME_COUNT.FRAME.num then some s.frame
  else if f.num = SEG_FRAME_COUNT.VALID.num then some (ofBool s.timeValid)
  else if f.num = TIME_NOW_LO.TIME.num then some s.netFrac
  else if f.num = FWD_STATUS.ENTRIES.num then some (s.fwd.filter fun e => e.1.n == k && e.2.type != 0).length
  else if f.num = FWD_STATUS.LEARN_QUEUE.num then some (s.learnQueue k).length
  else if f.num = FWD_STATUS.PINNED.num then some (s.pinnedWays k)
  else if f.num = TREE_DEF_STATUS.TERM_SUMMARY.num then some (ofBool (s.treeSummary k))
  else if f.num = TREE_DEF_SUMMARY.TERM.num then some (wordOf 64 fun b => s.termDefect (k / 4) (64 * (k % 4) + b))
  else if f.num = IC_PENDING.BITS.num then some (wordOf 64 fun b => s.flag IC_SRC.PENDING (64 * k + b))
  else if f.num = SEC_DBG_STATUS.PASSWORD_SET.num then some (ofBool s.passwordRecord.isSome)
  else if f.num = CIPH_KEY_DATA.DATA.num || f.num = CIPH_TW_DATA.DATA.num then if k % 12 < 5 then some 0 else none
  else none

/-- A field as a read shows it: WO fields read as zero (Table 0.4). -/
def State.readField (s : State) (f : Field) (k : Nat) : Nat :=
  match f.acc with
  | .wo => 0
  | _ => (s.viewOf f k).getD (s.get f k) % 2 ^ f.width

/-- FAB_DL_CTRL towards the die itself or an absent die reads as zero and drops writes (Table 13.11). -/
def State.noLink (s : State) (r : RegDesc) (k : Nat) : Bool := r.base == FAB_DL_CTRL.desc.base && (k / 8 == k % 8 || s.dies ≤ k % 8)

/-- A register read whole; reserved bits are zero (R12). -/
def State.readReg (s : State) (r : RegDesc) (k : Nat) : Nat :=
  if s.noLink r k then 0 else (r.fields.map fun f => s.readField f k * 2 ^ f.lsb).sum

/-- The side effects of an 8-byte read (R13): RC fields are cleared; a read of TIME_NOW_LO latches the seconds. -/
def State.readEffect (r : RegDesc) (k : Nat) (s : State) : State :=
  let s := r.fields.foldl (fun (s : State) f => if f.acc = .rc then s.put f k 0 else s) s
  if r.base = TIME_NOW_LO.desc.base then s.put TIME_NOW_HI.SECONDS 0 s.netSec else s

/-- Data returned by a read of a size. -/
def State.answer (size v : Nat) (s : State) : State := s.emit (.readData size (v % 256 ^ size))

/-- A register access that a requester may not make (R61, R342): the state with its event or the task's fault; none where it may. -/
def State.turnedAway (s : State) (who : Requester) (r : RegDesc) (off : Nat) (write : Bool) : Option State :=
  let task := match who with
    | .task _ _ => taskFaults r
    | _ => false
  if task then some (s.faultTask who) else if s.refused who 0 off write then some (s.fwRefuse who 0 off write) else none

/-- A read of BAR0 by a requester: all ones where nothing is reached or the access is refused (R9, R61, R383). -/
def State.busRead (who : Requester) (off size : Nat) (s : State) : State :=
  if !s.mayAsk who then s
  else
    match s.reach off size with
    | .unmapped => (s.unmapped off 0 false).answer size (noData size)
    | .notWoven => s.answer size (noData size)
    | .reg r k =>
      match s.turnedAway who r off false with
      | some s' => s'.answer size (noData size)
      | none => (if size = 8 then s.readEffect r k else s).answer size (s.readReg r k / (if off % 8 = 0 then 1 else 2 ^ 32))

/-! ### The rows that are reads -/

/-- UNMAPPED_ACCESS (R9, R10): an access to BAR0 that reaches no register; one that does is no such access and changes nothing here. -/
def execUnmappedAccess (who : Requester) (off size : Nat) (write : Bool) (s : State) : Result :=
  match s.reach off size with
  | .unmapped =>
    if !s.mayAsk who then .next s
    else if write then .next (s.unmapped off 0 true)
    else .next ((s.unmapped off 0 false).answer size (noData size))
  | .notWoven => .next (if write || !s.mayAsk who then s else s.answer size (noData size))
  | .reg _ _ => .next s

/-- SHADOW_READ (R110, R13): a read of BAR0. An 8-byte read of an RC register clears it; a 4-byte read returns its half and clears nothing; a read of any
other register returns its value. -/
def execShadowRead (who : Requester) (off size : Nat) (s : State) : Result := .next (s.busRead who off size)

/-- TIME_NOW_READ (R13): a read of TIME_NOW_LO. -/
def execTimeNowRead (who : Requester) (size : Nat) (s : State) : Result := .next (s.busRead who TIME_NOW_LO.desc.base size)

end Sys2Proof.Machine
end

