-- ==== Sys2Proof/Machine/Host.lean ====
section
/-!
DEFINITION. The DMA channels' descriptors (R387 to R389) and the BAR2 window (R384, R385).
-/

namespace Sys2Proof.Machine

/-! ### Descriptors -/

/-- A descriptor fetched; `done` where it is done at once. -/
def State.post (c : Nat) (x : DmaDesc) (done : Option (Nat × Nat)) (s : State) : State :=
  s.dmaFlush c (s.jobs c ++ [DmaJob.mk x.kind x.flags x.hostAddr x.length done])

/-- A descriptor of a row's KIND is taken; any other KIND, or a KIND of the channel's other direction, completes with BAD_KIND (R388, R389). -/
def State.takes (s : State) (c kind : Nat) (x : DmaDesc) : Bool := x.kind == kind && s.flag HOST_DMA_CTRL.DIRECTION c == (kind == 5)

/-- A descriptor whose LENGTH or DEV_ADDR Table 17.5 does not allow ends without moving anything; the spec gives no STATUS (log entry 31). -/
def State.badLength (c : Nat) (x : DmaDesc) (s : State) : State := s.useFree.post c x (some (1 + s.free % 6, 0))

/-- A descriptor fetched when its channel can fetch, and acted on when it is of the row's KIND and its LENGTH fits. -/
def State.fetch (c kind : Nat) (x : DmaDesc) (fits : Bool) (act : State → State) (s : State) : State :=
  if !s.mayFetch c x.flags then s
  else if !s.takes c kind x then s.post c x (some (1, 0))
  else if !fits then s.badLength c x
  else act s

/-! ### TABLE (R219, Table 9.4) -/

/-- A request whose FLAGS, SLOT, BUCKET or zero bytes break Table 9.4 (R12). -/
def requestBad (r : List Nat) : Bool :=
  byteAt r 0 == 0 || 6 < byteAt r 0 || 1 < byteAt r 1 || 3 < byteAt r 2 || 2 ^ 18 ≤ leAt r 4 4
    || !(leAt r 20 4 < 2 ^ 18 || leAt r 20 4 == 0xFFFFFFFF) || leAt r 24 8 != 0

/-- The request of a record put to the table. -/
def State.request (c addr : Nat) (r : List Nat) (tied : Bool) (s : State) : Result :=
  let v := leAt r 32 64
  let e := FwdEntry.ofBytes v
  let expect := if byteAt r 1 = 1 then some (leAt r 8 6) else none
  let bad : Result := .next (s.refuse c addr 7)
  if requestBad r then bad
  else
    match byteAt r 0 with
    | 1 => if flagsClear v then execTableInsert c addr e expect tied s else bad
    | 2 => if flagsClear v then execTableReplace c addr e expect tied s else bad
    | 3 => if flagsClear v then execTableDelete c addr e expect tied s else bad
    | 4 => execTableLock c addr (leAt r 4 4) (if leAt r 20 4 = 0xFFFFFFFF then none else some (leAt r 20 4)) s
    | 5 => execTableUnlock c addr s
    | _ => if flagsClear v then execWriteSlot c addr (leAt r 4 4) (byteAt r 2) e expect s else bad

/-- TABLE (R219, R388): the descriptor stays in flight until its request completes under R31. -/
def execTable (c : Nat) (x : DmaDesc) (record : List Nat) (tied : Bool) (s : State) : Result :=
  if s.mayFetch c x.flags && s.takes c 1 x && x.length = 96 then (s.post c x none).request c x.hostAddr record tied
  else .next (s.fetch c 1 x (x.length == 96) id)

/-! ### STAGE -/

/-- STAGE (R58, Table 17.5): image bytes to the staging port. -/
def execStage (c : Nat) (x : DmaDesc) (bytes : List Nat) (s : State) : Result :=
  .next (s.fetch c 2 x (8 ≤ x.length && x.length ≤ 1048576 && x.length % 8 == 0 && x.devAddr + x.length ≤ 12582912) fun s =>
    if s.flag SEC_LOCK.DAMASK 0 then s.post c x (some (3, 0))
    else if s.loader.staging.isNone then s.post c x (some (6, 0))
    else (s.modLoader fun l => { l with staged := Memory.writeBytes l.staged x.devAddr bytes }).post c x (some (0, x.length)))

/-! ### Device memory as the host sees it (R270, R278, R385) -/

/-- A slot of the forwarding table as its 64 bytes; no more can be said of an entry whose two copies are damaged. -/
def State.slotBits (s : State) (d i : Nat) : Nat := if (s.entryAt d i).damage = 2 then s.free else (s.entryAt d i).toBits

/-- One byte of device memory as a permitted read returns it: the table region with its buckets first (R210), the trace region, all ones elsewhere. -/
def State.devByte (s : State) (d off : Nat) : Nat :=
  match s.regionOf d off with
  | some 2 =>
    let o := off - 32768 * s.get MEM_REGION.BASE (d * 6 + 2)
    if o < 0x4000000 then bits (s.slotBits d (o / 64)) (8 * (o % 64)) 8 else (s.devRead d off 1).headD 0
  | some 4 => (s.devRead d off 1).headD 0
  | _ => 255

/-- A cell of the table or trace region as it stands in the stack: what the part wrote, under the pair of domain 0 (R269). -/
def State.regionCell (s : State) (d index : Nat) : Nat × List Nat :=
  s.sealCell d 0 index ((List.range 256).map fun k => s.devByte d (256 * index + k))

/-- A region that no host access reads: buffer, Felt, circuit, mirror. -/
def hiddenRegion (k : Option Nat) : Bool := k.any fun k => k != 2 && k != 4

/-- DEV_READ (R385, R388): device memory copied to the host. Words that R385 answers with all ones make STATUS REFUSED and count once a descriptor, at an
offset that the spec does not state (log entry 31). -/
def execDevRead (c : Nat) (x : DmaDesc) (s : State) : Result :=
  .next (s.fetch c 3 x (8 ≤ x.length && x.length ≤ 16777216) fun s =>
    let d := x.arg % 8
    let at0 := fun (k : Nat) => x.devAddr % 2 ^ 38 + k
    let all := (List.range x.length).map fun k => s.regionOf d (at0 k)
    let hidden := all.any hiddenRegion
    let lost := all.any fun k => k.isNone
    let bytes := (List.range x.length).map fun k => s.devByte d (at0 k)
    let s := s.useFree.emit (.hostWrite x.hostAddr bytes)
    let s := if hidden then s.useFree.fwEvent (s.free % 2 ^ 32) 1 false 0 else s
    let s := if lost then s.useFree.unmapped (s.free % 2 ^ 32) 1 false else s
    s.post c x (some (if hidden || lost then 6 else 0, x.length)))

/-! ### OMCI_TX -/

/-- OMCI_TX (R388): a message for a terminal in OPERATION on the set named. -/
def execOmciTx (c : Nat) (x : DmaDesc) (bytes : List Nat) (s : State) : Result :=
  .next (s.fetch c 4 x (48 ≤ x.length && x.length ≤ 1980) fun s =>
    let t := x.arg % 64
    let k := bits x.arg 6 1
    let n := x.devAddr % 256
    if s.inOperation t n && s.get TREE_RNG_TERM.SET (termAt t n) = k then s.emit (.omci t k n bytes) |>.post c x (some (0, x.length))
    else s.post c x (some (6, 0)))

/-! ### Receive channels (R389) -/

/-- RX_BUFFER (R389): a buffer of at least 2,048 bytes is posted. -/
def execRxBuffer (c : Nat) (x : DmaDesc) (s : State) : Result := .next (s.fetch c 5 x (2048 ≤ x.length) fun s => s.post c x none)

/-- The channel that takes a class: the lowest-numbered receive channel that names it. -/
def State.dmaChannelFor (s : State) (oam : Bool) : Option Nat :=
  (List.range 16).find? fun c => s.flag HOST_DMA_CTRL.DIRECTION c && s.flag (if oam then HOST_DMA_CTRL.RX_OAM else HOST_DMA_CTRL.RX_OMCI) c

/-- A message put into the oldest posted buffer of its channel behind its header, or dropped. -/
def State.fillBuffer (oam : Bool) (tree terminal : Nat) (bytes : List Nat) (at0 : NetTime) (s : State) : State :=
  match s.dmaChannelFor oam with
  | none => s
  | some c =>
    match (s.jobs c).find? fun j => j.kind == 5 && j.done.isNone with
    | none => s.addSat HOST_DMA_STATUS.RX_NO_BUFFER c 1
    | some j =>
      let m := [ofBool oam, tree, terminal, 0] ++ leBytes 2 bytes.length ++ [0, 0] ++ leBytes 8 (at0.frac + at0.sec % 2 ^ 16 * 2 ^ 48) ++ bytes
      s.emit (.hostWrite j.addr (m.take j.length))
        |>.dmaDone c (fun x => x.kind == 5) (if j.length < m.length then 5 else 0) (min j.length m.length)

/-- RX_MESSAGE (R389): a message arrives at a network time. The spec names no tree and no terminal for an OAM cell: those bytes are free (log entry 31). -/
def execRxMessage (m : RxMessage) (at0 : NetTime) (s : State) : Result :=
  match m with
  | .omci t n bytes => .next (s.raiseTree t 7 |>.fillBuffer false t n bytes at0)
  | .oam =>
    match s.oam with
    | [] => .next s
    | x :: rest => .next ({ s.useFree.useFree with oam := rest }.fillBuffer true (s.free % 256) (s.useFree.free % 256) x.bytes at0)

/-! ### Failed accesses (R388) -/

/-- The descriptor at a place among those in flight done. -/
def doneAt (st n : Nat) : Nat → List DmaJob → List DmaJob
  | _, [] => []
  | 0, j :: rest => { j with done := some (st, n) } :: rest
  | k + 1, j :: rest => j :: doneAt st n k rest

/-- The request of a TABLE descriptor is no more written back. -/
def State.forgetRequest (c addr : Nat) (s : State) : State :=
  let cut := fun (u : Update) => if u.req = some (UpdateReq.mk c addr) then { u with req := none } else u
  { s with updates := s.updates.map cut, heldUpdates := s.heldUpdates.map cut }

/-- DMA_ERROR (R388): a host memory access ends with an error completion or a timeout; the descriptor ends with BAD_ADDR and its channel stops fetching. -/
def execDmaError (c : Nat) (f : DmaFail) (s : State) : Result :=
  let stop := fun (s : State) => s.put HOST_DMA_STATUS.ERROR c 1
  match f with
  | .fetched x => .next (if s.mayFetch c x.flags then stop (s.post c x (some (2, 0))) else s)
  | .inFlight k =>
    match (s.jobs c)[k]? with
    | none => .next s
    | some j =>
      if j.done.isSome then .next s
      else
        let s := if j.kind = 1 then s.forgetRequest c j.addr else s
        .next (stop (s.dmaFlush c (doneAt 2 0 k (s.jobs c))))

/-! ### BAR2 (R384, R385) -/

/-- The die and device-memory offset that a BAR2 offset selects; none through an aperture that is not valid. -/
def State.bar2At (s : State) (off : Nat) : Option (Nat × Nat) :=
  let a := off / 2 ^ 28
  if a < 16 && s.flag HOST_BAR2_WIN.VALID a then some (s.get HOST_BAR2_WIN.DIE a, 0x4000000 * s.get HOST_BAR2_WIN.BASE a + off % 2 ^ 28) else none

/-- The location of a BAR2 access, with the region it lies in; none where R385 calls it unmapped. -/
def State.bar2Place (s : State) (off : Nat) : Option (Nat × Nat × Nat) :=
  match s.bar2At off with
  | none => none
  | some (d, o) => (s.regionOf d o).map fun k => (d, o, k)

/-- BAR2_READ (R270, R278, R384, R385). -/
def execBar2Read (who : Requester) (off size : Nat) (s : State) : Result :=
  let ones := noData size
  if !s.mayAsk who then .next s
  else
    match s.bar2Place off with
    | none => .next ((s.unmapped off 1 false).answer size ones)
    | some (d, o, k) =>
      if s.refused who 1 off false || hiddenRegion (some k) then .next ((s.fwRefuse who 1 off false).answer size ones)
      else .next (s.useFree.answer size (leValue ((List.range size).map fun i => s.devByte d (o + i))))

/-- A write through BAR2 other than the host's: extension tasks write the trace region only. -/
def State.taskWrite (who : Requester) (off : Nat) (bytes : List Nat) (s : State) : State :=
  match s.bar2Place off with
  | none => s.unmapped off 1 true
  | some (d, o, k) => if s.refused who 1 off true || k ≠ 4 then s.fwRefuse who 1 off true else s.devWrite d o bytes

/-- BAR2_WRITE (R385): a host write is dropped and counted as refused. -/
def execBar2Write (who : Requester) (off : Nat) (bytes : List Nat) (s : State) : Result :=
  if !s.mayAsk who then .next s
  else
    match who with
    | .host | .debug => .next (s.fwRefuse who 1 off true)
    | .task _ _ | .tweed _ => .next (s.taskWrite who off bytes)

end Sys2Proof.Machine
end

