-- ==== Sys2Proof/Machine/Reset.lean ====
section
/-!
DEFINITION. Resets (R390 to R393, R386) and start-up (R394 to R396).
-/

namespace Sys2Proof.Machine

/-! ### Resets of the package -/

/-- A package reset, whose cause LAST_RESET names (Table 17.10): locks, firewall rules, VALID, the pair's role and every register at reset; start-up with a full
weave follows (R390, R394). -/
def State.packageReset (cause : Nat) (s : State) : State := s.afterReset.put PKG_STATUS.LAST_RESET 0 cause

/-- COLD_RESET (R390, R63): 12 V rises into range; debug FAILURES and SHUT clear too, and THERMTRIP# is released (R404). -/
def execColdReset (s : State) : Result :=
  .next ((s.packageReset 0).put SEC_DBG_STATUS.FAILURES 0 0 |>.put SEC_DBG_STATUS.STATE 0 0 |> fun s => { s with supply := { perst := s.supply.perst } })

/-- PACKAGE_RESET (R390). -/
def execPackageReset (cause : Nat) (s : State) : Result := .next (s.packageReset cause)

/-- RESET_PACKAGE (R392): acts on the right KEY alone, and is refused under DAMASK. -/
def execResetPackage (key : Nat) (s : State) : Result :=
  if key ≠ 0xA5C3 then .next (s.put PKG_CMD.RESULT 0 1)
  else if s.flag SEC_LOCK.DAMASK 0 then .next (s.put PKG_CMD.RESULT 0 2 |>.fwEvent PKG_CMD.desc.base 0 true 3)
  else .next (s.packageReset 2)

/-! ### Reset of the host interface (R393, R386) -/

/-- Registers of the host's interface that its reset clears (Table 17.6); the pending-bit array is kept. -/
def hostRegisters : List RegDesc :=
  [HOST_BAR2_WIN.desc, HOST_DMA_BASE.desc, HOST_DMA_CTRL.desc, HOST_DMA_PTR.desc, HOST_DMA_STATUS.desc, HOST_MSIX_ADDR.desc, HOST_MSIX_CTRL.desc,
   SNAP_TIME_S.desc, SNAP_TIME_NS.desc, SNAP_CTRL.desc]

/-- Table requests: a sequenced one goes on without write-back, one not yet sequenced is never applied (Table 17.8); locks are released as UNLOCK does. -/
def State.dropRequests (s : State) : State :=
  let s : State := { s with
    updates := s.updates.map fun (u : Update) => { u with req := none }
    heldUpdates := s.heldUpdates.filter fun u => u.req.isNone }
  (s.seqLocks.foldl (fun (s : State) l => s.sequence s.firstDie (.unlock l.chan) none) s).releaseHeld

/-- A staging session abandoned: its slot cannot be selected until a new STAGE_END returns OK (R58). -/
def State.dropStaging (s : State) : State :=
  if s.loader.staging.isSome then (s.modLoader fun l => { l with staging := none, staged := [] }).restState else s

/-- Mailbox slots FREE and learning rings disabled; rotations already taken go on without a reply. -/
def State.dropMailboxes (s : State) : State :=
  let s : State := { s with rotations := s.rotations.map fun r => { r with orphan := true } }
  s.dieList.foldl (fun (s : State) d =>
    s.put TWEED_MBOX_STATE.SLOT d 0 |>.put FWD_RING_CTRL.ENABLE d 0 |>.modPerf d (fun x => { x with copying := false })
      |>.modTweed d fun x => { x with posted := [] }) s

/-- A host-interface reset. -/
def State.hostReset (s : State) : State :=
  let s : State := { s.dropRequests.dropStaging.dropMailboxes with dma := [], snap := {}, pci := {} }
  hostRegisters.foldl (fun (s : State) r => s.clearFields r.fields) s |>.put PKG_STATUS.HOST_RESET 0 1

/-- HOST_INTERFACE_RESET (R393, R386): FLR, hot reset, link down. -/
def execHostInterfaceReset (s : State) : Result := .next s.hostReset

/-- PERST (R391): the pin is asserted or deasserted. With PERST_SCOPE high it holds the package in reset, and start-up begins when it deasserts; with
PERST_SCOPE low it resets the host interface alone. -/
def execPerst (asserted : Bool) (s : State) : Result :=
  let s' : State := { s with supply := { s.supply with perst := asserted } }
  if !asserted then .next s'
  else if s.ident.perstScope then .next (s'.packageReset 1)
  else .next s'.hostReset

/-! ### Start-up (R394, Table 17.7) -/

/-- PHASE set. -/
def State.phase (v : Nat) (s : State) : State := s.put PKG_STATUS.PHASE 0 v

/-- Record areas are scanned (R49) and the selection is made (R50); every enabled die has power. -/
def State.startLoading (s : State) : State :=
  let s := s.dieList.foldl (fun (s : State) d => if s.flag PKG_DIE_CTRL.ENABLE d then s.setUnit (.die d) 1 else s) s
  s.scanRecords.spreadSelection.phase 1

/-- The selected slot is read, checked and woven, the other one if it fails, or start-up stops without an image (R51). -/
def State.startWeaving (s : State) : State :=
  let s := s.beginWeave
  s.phase (if s.loader.weave = 2 then 2 else 7)

/-- Every link between two powered dies is ON (R394). -/
def State.linksOn (s : State) : Bool := s.poweredDies.all fun d => s.poweredDies.all fun e => s.linked d e

/-- A live tree has not left STARTING. -/
def State.treesStarting (s : State) : Bool := (List.range (8 * s.dies)).any fun t => s.get DMK_TREE_STATE.STATE t == 1

/-- The part is held from starting: PERST# with PERST_SCOPE high, or THERMTRIP (R391, R404). -/
def State.heldInReset (s : State) : Bool := s.supply.thermtrip || (s.supply.perst && s.ident.perstScope)

/-- STARTUP (R394, R396): the next phase of start-up, when what it waits for has come. `ms` is the time since start-up began, `untrained` the channels of
dies that found no setting (R289). -/
def execStartup (ms : Nat) (untrained : List (Nat × Nat)) (s : State) : Result :=
  if s.heldInReset then .next s
  else
    match s.get PKG_STATUS.PHASE 0 with
    | 0 => .next s.startLoading
    | 1 => .next s.startWeaving
    | 2 => .next (if s.loader.weave = 0 && s.get DMK_STATUS.WEAVE_STATE 0 ≠ 0 then s.phase 3 else s)
    | 3 => .next ((untrained.foldl (fun (s : State) x => s.retire x.1 x.2 []) s).phase 4)
    | 4 => .next (if s.linksOn then s.phase 5 else s)
    | 5 => .next (if s.treesStarting then s else s.phase 6 |>.put PKG_STATUS.READY_MS 0 (min ms 65535) |>.put PKG_STATUS.UPTIME_S 0 0)
    | 7 => .next (if s.loader.weave ≠ 0 || s.loader.woven ≠ 0 then s.phase 2 else s)
    | _ => .next s

end Sys2Proof.Machine
end

