-- ==== Sys2Proof/Machine/Power.lean ====
section
/-!
DEFINITION. Power and heat (chapter 18): supervision of the 12 V input, supply faults, the core voltage governor, junction temperatures, and dies that lose
and regain their power.
-/

namespace Sys2Proof.Machine

/-! ### The 12 V input (R400, Table 18.1) -/

/-- A condition of the input as its state and its runs of readings say; its onset sets ALERT_EVENT and raises source 3,888. -/
def State.inputState (f : Field) (on : Bool) (s : State) : State :=
  let was := s.flag f 0
  let s := s.putFlag f 0 on
  if on && !was then s.put PKG_PWR_STATUS.ALERT_EVENT 0 1 |>.raisePkg 3888 else s

/-- SUPPLY_SUPERVISION (R400): one measurement, in mV, 0.01 A and 0.1 W; measurements are 10 µs apart, so that 1 ms is a hundred of them. -/
def execSupplySupervision (vin iin pin : Nat) (s : State) : Result :=
  let alarm := 10 * s.get PKG_PWR_CTRL.ALARM_W 0
  let above := alarm ≠ 0 && alarm < pin
  let below := alarm = 0 || pin < alarm
  let volt := if 11000 < vin then s.supply.voltGood + 1 else 0
  let high := if above then s.supply.powerHigh + 1 else 0
  let good := if below then s.supply.powerGood + 1 else 0
  let under : Bool := vin < 10800 || s.flag PKG_PWR_STATUS.UNDERVOLT 0 && volt < 100
  let power : Bool := 100 ≤ high || s.flag PKG_PWR_STATUS.OVERPOWER 0 && good < 100
  let s : State := { s with supply := { s.supply with voltGood := min volt 100, powerHigh := min high 100, powerGood := min good 100 } }
  .next (s.put PKG_PWR_STATUS.VIN_MV 0 vin |>.put PKG_PWR_STATUS.IIN_CA 0 iin |>.put PKG_PWR_STATUS.PIN_DW 0 pin
    |>.inputState PKG_PWR_STATUS.UNDERVOLT under |>.inputState PKG_PWR_STATUS.OVERPOWER power)

/-- PWR_ALERT# is asserted: it follows UNDERVOLT and OVERPOWER while ALERT_EN is set (Table 18.13). -/
def State.pwrAlert (s : State) : Bool :=
  s.flag PKG_PWR_CTRL.ALERT_EN 0 && (s.flag PKG_PWR_STATUS.UNDERVOLT 0 || s.flag PKG_PWR_STATUS.OVERPOWER 0)

/-- The record that waits on a die as the step of R47 in progress leaves it: step 4 gives it its commit word, an earlier one leaves a record that does not
exist, and with none in progress nothing of it is there. What was asked and not begun is lost. -/
def State.finishStep (s : State) (x : Nat × Nat) : State :=
  let s' := s.modMram x.1 fun m => { m with todo := [] }
  match (s.mramOf x.1).todo, x.2 with
  | [], _ | _, 0 => s'
  | r :: _, k =>
    if 4 ≤ k then s'.writeRecord x.1 r.type r.key r.payload
    else s'.modMram x.1 fun m => (m.write ((s'.newRecord x.1 r.type r.key r.payload).written k)).1

/-- SUPPLY_FAULT (R400): transmitters go dark, the MRAM step in progress on each die (die, step of R47) completes in the hold-up, and the package resets. -/
def execSupplyFault (steps : List (Nat × Nat)) (s : State) : Result := .next ((steps.foldl State.finishStep s).packageReset 3)

/-! ### The core voltage governor (R402) -/

/-- The lowest sentinel reading of a die. -/
def State.lowestSentinel (s : State) (d : Nat) : Nat :=
  ((List.range 7).map fun i => s.get SEG_SENTINEL.LAST (d * 8 + i + 1)).foldl min (s.get SEG_SENTINEL.LAST (d * 8))

/-- The speed target: capped at 1,650 M tokens/s while HOT. -/
def State.speedTarget (s : State) (d : Nat) : Nat :=
  let t := s.get SEG_GOV_CTRL.TARGET_MTOK d
  if s.flag SEG_GOV_STATUS.HOT d then min t 1650 else t

/-- The core supply moved by steps of 5 mV, between 620 mV and 850 mV; a move counts in STEPS. -/
def State.moveCore (d : Nat) (req : Int) (s : State) : State :=
  let v := s.get SEG_GOV_STATUS.VCORE_MV d
  let w := (max 620 (min 850 ((v : Int) + 5 * req))).toNat
  if w = v then s else s.put SEG_GOV_STATUS.VCORE_MV d w |>.addWrap SEG_GOV_STATUS.STEPS d 1

/-- One step toward FIXED_MV, none that would pass it. -/
def State.towardFixed (s : State) (d : Nat) : Int :=
  let v := s.get SEG_GOV_STATUS.VCORE_MV d
  let f := s.get SEG_GOV_CTRL.FIXED_MV d
  if v + 5 ≤ f then 1 else if f + 5 ≤ v then -1 else 0

/-- own(m): the hardware's policy (R402). -/
def State.ownPolicy (d m : Nat) (s : State) : Int × State :=
  let target := s.speedTarget d
  if m < target then (1, s.modPower d fun x => { x with above := 0 })
  else if target + s.get SEG_GOV_CTRL.HYST_MTOK d < m then
    let n := (s.powerOf d).above + 1
    if 10 ≤ n then (-1, s.modPower d fun x => { x with above := 0 }) else (0, s.modPower d fun x => { x with above := n })
  else (0, s.modPower d fun x => { x with above := 0 })

/-- A request applied: the supply moves within its limits, and AT_MAX shows a supply at its highest that does not reach the target. -/
def State.stepCore (d m : Nat) (req : Int) (s : State) : State :=
  let s := s.moveCore d req
  s.putFlag SEG_GOV_STATUS.AT_MAX d (s.get SEG_GOV_STATUS.VCORE_MV d == 850 && decide (m < s.speedTarget d))

/-- GOVERNOR_STEP (R402): one interval; `req` is Tweed's request, if there is one. A reading below the floor is below the target too, and ends the run of
intervals above it. -/
def execGovernorStep (d : Nat) (req : Option Int) (s : State) : Result :=
  let m := s.lowestSentinel d
  if m < 1500 then .next (s.modPower d (fun x => { x with above := 0 }) |>.moveCore d 1 |>.addSat SEG_GOV_STATUS.EMERGENCY_STEPS d 1)
  else if s.flag SEG_GOV_CTRL.FIXED d then .next (s.moveCore d (s.towardFixed d))
  else
    match req with
    | some r => .next (s.modPower d (fun x => { x with missed := 0 }) |>.put SEG_GOV_STATUS.POLICY_LOST d 0 |>.stepCore d m r)
    | none =>
      let n := min 100 ((s.powerOf d).missed + 1)
      let s := s.modPower d fun x => { x with missed := n }
      if 100 ≤ n then
        let (r, s) := s.ownPolicy d m
        .next (s.put SEG_GOV_STATUS.POLICY_LOST d 1 |>.stepCore d m r)
      else .next (s.stepCore d m 0)

/-! ### Dies without power (R404, R405) -/

/-- A thermal trip: the die's transmitters are dark and its supplies gone at once; the condition holds until it has ended (Table 18.4, R413). -/
def State.tripDie (d : Nat) (s : State) : State :=
  (s.powerDown d).modPower d (fun x => { x with tripHolds := true }) |>.setLatch (.die d) 0
    |>.put PKG_DIE_CTRL.TRIPPED d 1 |>.put PKG_DIE_CTRL.TRIP_EVENT d 1 |>.raise d 2273 |>.weaveIfOff

/-- THERMTRIP: every regulator is off until 12 V is removed, and what the part held without 12 V lasting through it is lost. -/
def State.thermtrip (s : State) : State := { s.afterReset with supply := { perst := s.supply.perst, thermtrip := true } }

/-- Junction readings of a die's sensors, in 0.25 °C (R372): NOW, and the highest since package reset. -/
def State.putTemps (d : Nat) (readings : List Int) (s : State) : State :=
  ((List.range 16).zip readings).foldl (fun (s : State) x =>
    let i := d * 16 + x.1
    s.put SEG_TEMP.NOW i (ofSigned 12 x.2) |>.put SEG_TEMP.MAX i (ofSigned 12 (max x.2 (toSigned 12 (s.get SEG_TEMP.MAX i))))) s

/-- The condition of a thermal trip has ended: the die restarts on its own under AUTO_RESTART, else on a host ENABLE, one given meanwhile included. -/
def State.tripOver (d : Nat) (s : State) : State :=
  let asked := s.latchOf (.die d) == 2
  let s := s.modPower d (fun x => { x with tripHolds := false }) |>.setLatch (.die d) 0
  if s.flag PKG_DIE_CTRL.ENABLE d && (asked || s.flag PKG_DIE_CTRL.AUTO_RESTART d) then s.requestDie d true else s

/-- JUNCTION_THERMAL (R404): the readings of a die's sensors in 0.25 °C; `package` is the highest reading of the package common logic, `cool` the seconds for
which the die's highest has stayed below 90 °C. -/
def execJunctionThermal (d : Nat) (readings : List Int) (package : Int) (cool : Nat) (s : State) : Result :=
  match readings with
  | [] => .next s
  | r :: rest =>
    let top := rest.foldl max r
    if 500 < top || 500 < package then .next s.thermtrip
    else if !s.powered d then .next (if (s.powerOf d).tripHolds && top < 360 && 10 ≤ cool then s.tripOver d else s)
    else
      let s := s.putTemps d readings
      if 440 < top then .next (s.tripDie d)
      else if 400 < top && !s.flag SEG_GOV_STATUS.HOT d then
        .next (s.put SEG_GOV_STATUS.HOT d 1 |>.put SEG_GOV_STATUS.HOT_EVENT d 1 |>.raise d 2273)
      else if top < 380 then .next (s.put SEG_GOV_STATUS.HOT d 0)
      else .next s

/-- DIE_POWER_DOWN (R405): by a thermal trip, at once; by a host disable, the units shut first and the supplies go when all are OFF. -/
def execDiePowerDown (d : Nat) (trip : Bool) (s : State) : Result :=
  if trip then .next (if s.unitState (.die d) = 0 then s else s.tripDie d)
  else
    let s := if s.unitState (.die d) = 2 then s.putEnable (.die d) false |>.requestDie d false else s
    .next (s.dieOffIfClear d)

/-- DIE_RESTART (R406): a die in STARTING while an image is in force: woven from the active slot, its stack trained and filled, the table copied, links and
units started. -/
def execDieRestart (d : Nat) (s : State) : Result :=
  if s.unitState (.die d) ≠ 1 || s.loader.weave ≠ 0 || s.loader.woven = 0 then .next s
  else
    let s := s.weaveDie s.runningImage d |>.modLoader (fun l => { l with woven := setBit l.woven d })
    let s := s.copyForwarding d |>.setUnit (.die d) 2 |>.suppressTrees d false
    .next ((s.enableDie d).actLatch (.die d))

end Sys2Proof.Machine
end

