-- ==== Sys2Proof/Machine/Debug.lean ====
section
/-!
DEFINITION. The lock bits (R60) and the debug port (R62 to R64).
-/

namespace Sys2Proof.Machine

/-- The fields of SEC_LOCK, by bit. -/
def lockFields : List Field := [SEC_LOCK.KEYS, SEC_LOCK.DAMASK, SEC_LOCK.FIREWALL, SEC_LOCK.DEBUG, SEC_LOCK.TIME]

/-- SEC_LOCK_SET (R60): each 1 sets its bit; DEBUG closes an open session (Table 2.16). -/
def execSecLockSet (mask : Nat) (s : State) : Result :=
  let s := lockFields.foldl (fun (s : State) f => if bitAt mask f.lsb then s.put f 0 1 else s) s
  .next (if s.flag SEC_LOCK.DEBUG 0 then s.put SEC_DBG_STATUS.STATE 0 3 else s)

/-- LAST_RESULT of SEC_DBG_STATUS. -/
def State.dbgResult (r : Nat) (s : State) : State := s.put SEC_DBG_STATUS.LAST_RESULT 0 r

/-- A result for which Table 2.19 has no code (log entry 32). -/
def State.dbgOpen (s : State) : State := s.useFree.dbgResult s.free

/-- Why a submission is turned away whatever it holds: LOCKED under DEBUG, SHUT after 16 failures. -/
def State.dbgBarred (s : State) : Option Nat :=
  if s.flag SEC_LOCK.DEBUG 0 then some 5 else if s.get SEC_DBG_STATUS.STATE 0 = 2 then some 4 else none

/-- A submission turned away with its code. Under DEBUG, one written by the bus is a write that would trigger what the lock forbids: it counts one
firewall event with source LOCKED (R15). -/
def State.dbgTurned (r : Nat) (bus : Bool) (s : State) : State :=
  (if r = 5 && bus then s.fwEvent SEC_DBG_SUBMIT.desc.base 0 true 3 else s).dbgResult r

/-- Milliseconds left of the 10 s between attempts, `elapsed` ms after WAIT_MS was last set. -/
def State.dbgWait (s : State) (elapsed : Nat) : Nat := s.get SEC_DBG_STATUS.WAIT_MS 0 - elapsed

/-- The outcome of an accepted attempt (R63): the port opens, or FAILURES rises and the sixteenth shuts it. -/
def State.dbgAttempt (ok : Bool) (s : State) : State :=
  let s := s.put SEC_DBG_STATUS.WAIT_MS 0 10000
  if ok then s.put SEC_DBG_STATUS.STATE 0 1 |>.dbgResult 1 |>.raisePkg 3849
  else
    let s := s.addSat SEC_DBG_STATUS.FAILURES 0 1 |>.dbgResult 2 |>.raisePkg 3849
    if 16 ≤ s.get SEC_DBG_STATUS.FAILURES 0 then s.put SEC_DBG_STATUS.STATE 0 2 else s

/-- The credential: what came through the port's own register, else `n` words of SEC_DBG_CRED. -/
def State.credential (s : State) (own : Option (List Nat)) (n : Nat) : List Nat :=
  own.getD ((List.range n).flatMap fun k => leBytes 8 (s.get SEC_DBG_CRED.CRED k))

/-- The outstanding nonce, as SEC_DBG_NONCE holds it. -/
def State.nonceBytes (s : State) : List Nat := (List.range 4).flatMap fun k => leBytes 8 (s.get SEC_DBG_NONCE.NONCE k)

/-- DBG_NONCE_REQUEST (R63): method 0 makes a fresh nonce. -/
def execDbgNonceRequest (s : State) : Result :=
  match s.dbgBarred with
  | some r => .next (s.dbgTurned r true)
  | none =>
    let n := (Config.freshNonce s.uses).toNat
    .next ((List.range 4).foldl (fun (s : State) k => s.put SEC_DBG_NONCE.NONCE k (bits n (64 * k) 64)) s.dbgOpen |>.put SEC_DBG_STATUS.NONCE_VALID 0 1)

/-- DBG_PASSWORD_ATTEMPT (R63): method 1, `elapsed` ms after WAIT_MS was last set. -/
def execDbgPasswordAttempt (own : Option (List Nat)) (elapsed : Nat) (s : State) : Result :=
  match s.dbgBarred with
  | some r => .next (s.dbgTurned r own.isNone)
  | none =>
    let wait := s.dbgWait elapsed
    let s := s.put SEC_DBG_STATUS.WAIT_MS 0 wait
    if 0 < wait then .next (s.dbgResult 3)
    else
      match s.passwordRecord with
      | none => .next (s.dbgResult 7)
      | some r => .next (s.dbgAttempt (beBytes 48 (Config.sha384 (r.payload.take 16 ++ s.credential own 4)) == (r.payload.drop 16).take 48))

/-- DBG_SIGNED_ATTEMPT (R63, R64): method 2; the nonce serves one attempt. -/
def execDbgSignedAttempt (own : Option (List Nat)) (elapsed : Nat) (s : State) : Result :=
  match s.dbgBarred with
  | some r => .next (s.dbgTurned r own.isNone)
  | none =>
    let wait := s.dbgWait elapsed
    let s := s.put SEC_DBG_STATUS.WAIT_MS 0 wait
    if 0 < wait then .next (s.dbgResult 3)
    else if !s.flag SEC_DBG_STATUS.NONCE_VALID 0 then .next (s.dbgResult 6)
    else
      let c := s.credential own 25
      let key := c.take 97
      let signed := Config.sha384 (s.nonceBytes ++ leBytes 16 s.ident.serial.toNat)
      let ok := Config.sha384 key == s.ident.debugKeyHash && Config.ecdsaVerify key signed ((c.drop 104).take 96)
      .next ((s.put SEC_DBG_STATUS.NONCE_VALID 0 0).dbgAttempt ok)

/-- DBG_SET_PASSWORD (R64): method 3, while the port is open; an all-zero password removes the one that holds. -/
def execDbgSetPassword (own : Option (List Nat)) (s : State) : Result :=
  match s.dbgBarred with
  | some r => .next (s.dbgTurned r own.isNone)
  | none =>
    if s.get SEC_DBG_STATUS.STATE 0 ≠ 1 then .next s.dbgOpen
    else
      let p := s.credential own 4
      let salt := leBytes 16 (Config.freshSalt s.uses).toNat
      let payload := if p.all fun b => b == 0 then [] else salt ++ beBytes 48 (Config.sha384 (salt ++ p))
      .next (s.useFree.writeAll 0x0030 0 payload |>.dbgResult 8 |>.raisePkg 3849)

/-- NONCE_EXPIRY (R64): 60 s after it was made, an outstanding nonce is valid no more. -/
def execNonceExpiry (s : State) : Result := .next (s.put SEC_DBG_STATUS.NONCE_VALID 0 0)

end Sys2Proof.Machine
end

