-- ==== Sys2Proof/Machine/Latch.lean ====
section
/-!
DEFINITION. The one-second latch (R109): shadow registers, signal fail and signal degrade (R105), and what else counts by the second.
-/

namespace Sys2Proof.Machine

/-- The live count of terminal counter `k` (Table 4.18). -/
def State.termLive (s : State) (t n k : Nat) : Nat := s.liveOf TREE_TCNT.COUNT (termAt t n * 16 + k)

/-- A ratio against a threshold with hysteresis: met at `on`, no more met at `off`, else as it was. -/
def State.setCriterion (i bit : Nat) (on off : Bool) (s : State) : State := if on then s.setRaw i bit true else if off then s.setRaw i bit false else s

/-- Signal fail and signal degrade of a terminal from the second's live counts; fewer than 1,000 codewords leave them unchanged (R105, Table 4.20). -/
def State.judgeSignal (t : Nat) (s : State) (n : Nat) : State :=
  let words := s.termLive t n 4
  let coded := s.termLive t n 5
  let corrected := s.termLive t n 6
  let lost := s.termLive t n 7
  let i := termAt t n
  let sf := s.get TREE_FRM_CTRL.SF_EXP t
  let sd := s.get TREE_FRM_CTRL.SD_EXP t
  let mant := s.get TREE_FRM_CTRL.SD_MANT t
  if words < 1000 then s
  else
    s.setCriterion i 3 (words ≤ lost * 10 ^ sf) (lost * 10 ^ (sf + 1) < words)
      |>.setCriterion i 4 (mant * coded ≤ corrected * 10 ^ sd) (corrected * 10 ^ (sd + 1) < mant * coded)
      |>.judgeTerm t n

/-- Every live count is added into its shadow register, saturating, and starts again from zero. -/
def State.latchCounts (s : State) : State :=
  let regs := s.live.foldl (fun (r : Tbl Nat) e => r.set e.1 0 (satAdd 64 (r.get e.1 0) e.2)) s.regs
  { s with regs := regs, live := [] }

/-- The latch of a tree slice. -/
def State.latchTree (s : State) (t : Nat) : State :=
  let s := (s.operating t).foldl (fun s n => State.judgeSignal t s n) s
  s.put TREE_CNT_LATCH.SECONDS t s.netSec |>.putFlag TREE_CNT_LATCH.TIME_VALID t s.timeValid

/-- What a die does by the second: its latch event, and the limits on log records and overruns (R343, R374). -/
def State.dieSecond (s : State) (d : Nat) : State :=
  s.modTweed d (fun x => { x with logged := 0, overruns := List.replicate 8 0 }) |>.raise d 2274

/-- SECOND_LATCH (R109): second `sec` of network time begins; while it is not valid, of the part's own count, which the time then is (R312). -/
def execSecondLatch (sec : Nat) (s : State) : Result :=
  let s := s.reachNs (sec * 10 ^ 9)
  let on := s.dieList.filter fun d => s.diePresent d
  let s := on.foldl (fun (s : State) d => (List.range 8).foldl (fun s l => State.latchTree s (8 * d + l)) s) s
  let s := s.pairSecond.latchCounts
  let s := on.foldl State.dieSecond s |>.modLoader fun l => { l with fwLogged := false }
  .next (if s.get PKG_STATUS.PHASE 0 = 6 then s.addWrap PKG_STATUS.UPTIME_S 0 1 else s)

end Sys2Proof.Machine
end

