-- ==== Sys2Proof/Machine/Write.lean ====
section
/-!
DEFINITION. REGISTER_WRITE: a write of BAR0 (R10 to R12, R15, R39), the fields it sets by access type, and what it triggers. A register whose write
is a row of its own acts as that row.
-/

namespace Sys2Proof.Machine

/-! ### The bits of a write -/

/-- A write as it reaches a register: its bits in their places, zero outside the half written, and the mask of the bits written (R10). -/
structure Wr where
  v : Nat
  m : Nat
  deriving DecidableEq, Repr

/-- The write of a size at an offset. -/
def wrOf (off size : Nat) (value : Word) : Wr :=
  if size = 8 then ⟨value.toNat, maxOf 64⟩
  else if off % 8 = 0 then ⟨value.toNat % 2 ^ 32, maxOf 32⟩
  else ⟨value.toNat % 2 ^ 32 * 2 ^ 32, maxOf 32 * 2 ^ 32⟩

/-- A field of what is written; a WO field of the other half counts as zero (R10). -/
def Wr.get (w : Wr) (f : Field) : Nat := bits w.v f.lsb f.width

/-- A one-bit field is written as 1. -/
def Wr.flag (w : Wr) (f : Field) : Bool := w.get f == 1

/-- The write reaches a field, at least in part. -/
def Wr.covers (w : Wr) (f : Field) : Bool := bits w.m f.lsb f.width != 0

/-- A field's value after the write: the bits of the half written are new. -/
def Wr.merge (w : Wr) (f : Field) (old : Nat) : Nat :=
  let m := bits w.m f.lsb f.width
  (old &&& (maxOf f.width - m)) ||| (w.get f &&& m)

/-- A register that holds a WO field spanning bit 31: a 4-byte write is dropped (R10). Bytes 0 to 39 of CIPH_KEY_DATA and CIPH_TW_DATA are WO. -/
def spans (r : RegDesc) (k : Nat) : Bool :=
  (r.fields.any fun f => f.acc = .wo && f.lsb < 32 && 32 < f.lsb + f.width)
    || ((r.base = CIPH_KEY_DATA.desc.base || r.base = CIPH_TW_DATA.desc.base) && k % 12 < 5)

/-! ### Fields that read back as their reset value outside a range (R11) -/

/-- The ranges that the field tables give to such fields. -/
def rangesA : List (Field × Nat × Nat) := [
  (TREE_OPT_CTRL.LOS_LEVEL, 30, 45), (TREE_FRM_CTRL.LOB_N, 2, 15), (TREE_FRM_CTRL.DRIFT_LIMIT, 1, 64), (TREE_FRM_CTRL.SF_EXP, 3, 6),
  (TREE_FRM_CTRL.SD_MANT, 1, 9), (TREE_FRM_CTRL.SD_EXP, 2, 6), (TREE_FRM_PROFILE.PRE_UNITS, 1, 15), (TREE_RNG_CTRL.QW_DIFF_KM, 0, 40),
  (TREE_RNG_CTRL.QW_PERIOD, 80, 65535), (TREE_RNG_CTRL.Z_TH, 40, 160), (TREE_RNG_CTRL.DRIFT_STEP, 1, 8), (TREE_RNG_CTRL.LOST_TIME, 2, 255),
  (TREE_RNG_CTRL.RETRY_MAX, 1, 15), (TREE_RNG_CTRL.ADMIT_WAIT, 1, 255), (TREE_RNG_CHF.CODE_MASK, 1, 65535), (TREE_RNG_CHF.SIG_START, 0, 3110399),
  (TREE_RNG_CHF.SIG_LEVEL, 40, 50), (GRANT_TREE_CTRL.GUARD_NS, 24, 64), (GRANT_TREE_CTRL.WINDOW, 4, 64), (GRANT_TREE_CTRL.SPLIT_MIN, 1, 255),
  (GRANT_TREE_CTRL.CREDIT_FRAMES, 1, 15), (GRANT_TREE_CTRL.BOOK_LIMIT, 50, 100)]

/-- The ranges, continued. -/
def rangesB : List (Field × Nat × Nat) := [
  (FWD_CTRL.AGE_PERIOD_S, 1, 65535), (FWD_CTRL.AGE_LIMIT, 2, 15), (FWD_CTRL.LOCK_MAX_US, 10, 4000), (TM_SAMPLE_CTRL.WINDOW_MS, 1, 1000),
  (CIPH_CTRL.MARK_EXP, 16, 30), (CIPH_CTRL.PN_WARN_EXP, 10, 40), (MEM_CTRL.DISTURB_TH, 512, 32768), (MEM_CTRL.THROTTLE_NS, 0, 1000),
  (MEM_CTRL.THROTTLE_US, 1, 255), (IC_GROUP.COUNT_TH, 1, 65535), (TWEED_CTRL.WATCHDOG_MS, 1, 100), (TWEED_CTRL.LOAD_HIGH_PCT, 50, 99),
  (PERF_TRACE_CTRL.RATE_EXP, 6, 24), (PERF_TRACE_CTRL.SIZE_EXP, 0, 14), (PERF_BW_CTRL.WINDOW_US, 100, 1000000), (SEG_GOV_CTRL.TARGET_MTOK, 1650, 2400),
  (SEG_GOV_CTRL.HYST_MTOK, 10, 200), (SEG_GOV_CTRL.FIXED_MV, 620, 850)]

/-- What such a field reads back as: its reset value, or the image's where that sets it; a group's COUNT_TH of 0 reads back as 1 (Table 15.10). -/
def State.readBack (s : State) (f : Field) (k : Nat) : Nat :=
  if f.num = IC_GROUP.COUNT_TH.num then 1 else if f.perImage then s.imageVal f k % 2 ^ f.width else f.reset

/-- A written value as the field takes it. -/
def State.inRange (s : State) (f : Field) (k v : Nat) : Nat :=
  match (rangesA ++ rangesB).find? fun e => e.1.num == f.num with
  | some (_, lo, hi) => if lo ≤ v && v ≤ hi then v else s.readBack f k
  | none => v

/-- Ranges that another field of the register limits (Tables 5.6, 15.11). -/
def State.judgePair (r : RegDesc) (k : Nat) (s : State) : State :=
  if r.base = TREE_RNG_CTRL.desc.base then
    if 60 < s.get TREE_RNG_CTRL.QW_DIFF_KM k + s.get TREE_RNG_CTRL.QW_MIN_KM k then s.put TREE_RNG_CTRL.QW_MIN_KM k TREE_RNG_CTRL.QW_MIN_KM.reset else s
  else if r.base = TWEED_CTRL.desc.base then
    let low := s.get TWEED_CTRL.LOAD_LOW_PCT k
    if 10 ≤ low && low + 10 ≤ s.get TWEED_CTRL.LOAD_HIGH_PCT k then s else s.put TWEED_CTRL.LOAD_LOW_PCT k TWEED_CTRL.LOAD_LOW_PCT.reset
  else s

/-! ### Locks (R15, R39) -/

/-- The lock bit that governs the RWL fields of a register (Table 2.16). -/
def lockOver (base : Nat) : Field :=
  if base = SEC_FW_RULE.desc.base then SEC_LOCK.FIREWALL
  else if base = CIPH_LP_BIND.desc.base then SEC_LOCK.KEYS
  else SEC_LOCK.TIME

/-- The registers that hold the woven structure: RO, and a write to one is counted (R39, log entry 34). -/
def structural : List RegDesc := [
  SEG_IDENT.desc, GRANT_MAP_BASE.desc, PARSE_ENTRY.desc, PARSE_KEY_PROFILE.desc, PARSE_NODE.desc, TM_BUF_STATUS.desc, TM_SAMPLE_BASE.desc,
  DMK_TREE_STATE.desc, MEM_REGION.desc, PERF_CNT_BASE.desc, PERF_SNAP_BASE.desc, PERF_TRACE_BASE.desc, PERF_TELE_BASE.desc]

/-- A write that reaches a register of the woven structure. FAB_LANE_STATUS holds a lane's MODE beside bits that a write clears; a write that clears
neither of them can only be aimed at MODE (log entry 34). -/
def aimsAtStructure (r : RegDesc) (w : Wr) : Bool :=
  (structural.any fun x => x.base == r.base)
    || (r.base == FAB_LANE_STATUS.desc.base && !w.flag FAB_LANE_STATUS.LINK_EVENT && !w.flag FAB_LANE_STATUS.DUP_DEVICE)

/-- A write that would change a locked RWL field, or reaches a register of the woven structure. -/
def State.writeLocked (s : State) (r : RegDesc) (k : Nat) (w : Wr) : Bool :=
  aimsAtStructure r w
    || (s.flag (lockOver r.base) 0 && r.fields.any fun f => f.acc = .rwl && w.covers f && w.merge f (s.get f k) != s.get f k)

/-! ### The fields of a register -/

/-- Fields whose write is an operation of its own, and which the plain store leaves to it. -/
def ownEffect (f : Field) : Bool :=
  f.num == PEER_CTRL.ENABLE.num || f.num == TREE_OPT_CTRL.TX_MUTE.num || f.num == IC_SRC.PENDING.num || f.num == TREE_RX_TERM.VALID.num
    || f.base == SEC_LOCK.desc.base || f.base == CIPH_LP_BIND.desc.base || f.base == FWD_CTRL.desc.base || f.base == FWD_DOMAIN.desc.base
    || f.num == PKG_DIE_CTRL.ENABLE.num || f.num == FAB_LANE_CTRL.ENABLE.num || f.num == FAB_DL_CTRL.ENABLE.num

/-- One field under a write, by its access type (Table 0.4). -/
def State.writeField (k : Nat) (w : Wr) (s : State) (f : Field) : State :=
  if !w.covers f || ownEffect f then s
  else
    match f.acc with
    | .rw => s.put f k (s.inRange f k (w.merge f (s.get f k)))
    | .rwl => if s.flag (lockOver f.base) 0 then s else s.put f k (s.inRange f k (w.merge f (s.get f k)))
    | .w1c => if w.flag f then s.put f k 0 else s
    | .w1s => if w.flag f then s.put f k 1 else s
    | .wo => if f.base == SEC_DBG_CRED.desc.base then s.put f k (w.get f) else s
    | .ro | .rc | .mem => s

/-- The W1C fields of several bits, bit by bit: ONSET of the defect registers. -/
def State.writeOnset (k : Nat) (w : Wr) (old s : State) (f : Field) : State :=
  if f.acc = .w1c && 1 < f.width && w.covers f then s.put f k (old.get f k &&& (maxOf f.width - w.get f)) else s

/-- The fields of a register under a write. -/
def State.writeFields (r : RegDesc) (k : Nat) (w : Wr) (s : State) : State :=
  let after := r.fields.foldl (fun (a : State) f => State.writeField k w a f) s
  (r.fields.foldl (fun (a : State) f => State.writeOnset k w s a f) after).judgePair r k

/-! ### What a write triggers -/

/-- The state a meaning of another row answers. -/
def nextOr (s : State) : Result → State
  | .next t => t
  | _ => s

/-- A one-bit field was 0 and is written as 1, or the other way round. -/
def Wr.turns (w : Wr) (f : Field) (old : Nat) (on : Bool) : Bool := w.covers f && old == ofBool !on && w.get f == ofBool on

/-- The commands of the package blocks. `was` is the state before the write, `s` the one with the fields written. -/
def State.actPackage (who : Requester) (r : RegDesc) (k : Nat) (w : Wr) (was s : State) : Result :=
  if r.base = PKG_CMD.desc.base then
    if w.flag PKG_CMD.RESET_PACKAGE then execResetPackage (w.get PKG_CMD.KEY) s else .next s
  else if r.base = PKG_DIE_CTRL.desc.base then
    if w.covers PKG_DIE_CTRL.ENABLE then execUnitEnableRequest (.die k) (w.flag PKG_DIE_CTRL.ENABLE) s else .next s
  else if r.base = DMK_COMMAND.desc.base then
    let slot := w.get DMK_COMMAND.SLOT
    match w.get DMK_COMMAND.OP with
    | 1 => if who = .debug then .next (s.fwRefuse who 0 r.base true) else execStageBegin slot s
    | 2 => if who = .debug then .next (s.fwRefuse who 0 r.base true) else execStageEnd s
    | 3 => execSelect slot (w.flag DMK_COMMAND.TRIAL) s
    | 4 => execConfirm s
    | 5 => execWeave s
    | 6 => execTreeReweave (w.get DMK_COMMAND.TREE) slot s
    | _ => .next s
  else if r.base = SEC_LOCK.desc.base then execSecLockSet (w.v % 32) s
  else if r.base = SEC_DBG_SUBMIT.desc.base then
    if !w.covers SEC_DBG_SUBMIT.METHOD then .next s
    else
      match w.get SEC_DBG_SUBMIT.METHOD with
      | 0 => execDbgNonceRequest s
      | 1 => execDbgPasswordAttempt none 0 s
      | 2 => execDbgSignedAttempt none 0 s
      | _ => execDbgSetPassword none s
  else if r.base = TIME_CTRL.desc.base then
    let s := if s.get TIME_CTRL.SOURCE 0 = was.get TIME_CTRL.SOURCE 0 then s else (s.modClock fun c => { c with meas := [] }).showSource
    if w.flag TIME_CTRL.STEP && !s.flag SEC_LOCK.TIME 0 then execTimeStep (w.flag TIME_CTRL.FORCE) s else .next s
  else if r.base = TIME_MEAS.desc.base then execTimeMeasWrite 8 (BitVec.ofNat 64 w.v) s
  else if r.base = PEER_CTRL.desc.base then
    .next (if w.covers PEER_CTRL.ENABLE then s.setPairing (w.flag PEER_CTRL.ENABLE) else s)
  else if r.base = PEER_CMD.desc.base then
    match w.get PEER_CMD.OP with
    | 1 => execRelease (w.get PEER_CMD.FRAME) s
    | 2 => execCalibrate (w.get PEER_CMD.TREE) s
    | _ => .next s
  else if r.base = HOST_DMA_CTRL.desc.base then
    let moved := s.get HOST_DMA_CTRL.DIRECTION k != was.get HOST_DMA_CTRL.DIRECTION k || s.get HOST_DMA_CTRL.SIZE_EXP k != was.get HOST_DMA_CTRL.SIZE_EXP k
    .next (if w.flag HOST_DMA_CTRL.ENABLE && moved then was else s)
  else if r.base = HOST_MSIX_CTRL.desc.base then
    .next (if w.turns HOST_MSIX_CTRL.MASK (was.get HOST_MSIX_CTRL.MASK k) false then s.unmaskVector k else s)
  else if r.base = SNAP_CTRL.desc.base then
    match w.get SNAP_CTRL.OP with
    | 1 => execSnapshotArm s
    | 2 => execSnapshotCancel s
    | _ => .next s
  else .next s

/-- The commands of the interrupt controller and the Tweed core of a die. -/
def State.actCore (r : RegDesc) (k : Nat) (w : Wr) (was s : State) : Result :=
  if r.base = IC_HOST_EOI.desc.base then if w.covers IC_HOST_EOI.SOURCE then execEoi k (w.get IC_HOST_EOI.SOURCE) s else .next s
  else if r.base = IC_SRC.desc.base then
    let s := if w.flag IC_SRC.PENDING then s.clearPending (k / 4096) (k % 4096) else s
    if w.flag IC_SRC.SWSET then execSwset (k / 4096) (k % 4096) s else .next s
  else if r.base = TWEED_MBOX_DOORBELL.desc.base then
    if w.covers TWEED_MBOX_DOORBELL.SLOT then execDoorbell k (w.get TWEED_MBOX_DOORBELL.SLOT) (w.flag TWEED_MBOX_DOORBELL.RELEASE) s else .next s
  else if r.base = TWEED_MBOX.desc.base then
    let d := k / 256
    let st := was.mbox d (k / 16 % 16)
    .next (if st = 0 || st = 4 then s else was.tweedCnt d 4 1)
  else .next s

/-- The commands of a tree slice. -/
def State.actTree (r : RegDesc) (k : Nat) (w : Wr) (was s : State) : Result :=
  if r.base = TREE_OPT_CTRL.desc.base then
    if w.turns TREE_OPT_CTRL.TX_MUTE (was.get TREE_OPT_CTRL.TX_MUTE k) true then execTxMuteSet k s
    else if w.turns TREE_OPT_CTRL.TX_MUTE (was.get TREE_OPT_CTRL.TX_MUTE k) false then execTxMuteClear k s
    else .next s
  else if r.base = TREE_PAT_CTRL.desc.base then
    let same := s.get TREE_PAT_CTRL.GEN_PATTERN k == was.get TREE_PAT_CTRL.GEN_PATTERN k && s.get TREE_PAT_CTRL.GEN_SET k == was.get TREE_PAT_CTRL.GEN_SET k
    let s := s.put TREE_PAT_STATUS.ERRORS k 0 |>.put TREE_PAT_BITS.BITS k 0
    .next (if same then s else s.modTree k fun x => { x with gen := none })
  else if r.base = TREE_INJ_CTRL.desc.base then if w.flag TREE_INJ_CTRL.ONE_SHOT then execOneShotInject (.tree k) 0 s else .next s
  else if r.base = TREE_RNG_CTRL.desc.base then if w.flag TREE_RNG_CTRL.QUIET_FORCE then execQuietForce k s else .next s
  else if r.base = TREE_RNG_CMD.desc.base then
    let n := w.get TREE_RNG_CMD.TERMINAL
    match w.get TREE_RNG_CMD.OP with
    | 1 => execAdmit k n (w.get TREE_RNG_CMD.ONU_ID) s
    | 2 => execDeny k n s
    | 3 => execRerange k n s
    | 4 => execDeactivate k n s
    | 5 => execFree k n s
    | _ => .next s
  else if r.base = TREE_RX_TERM.desc.base then if w.flag TREE_RX_TERM.VALID then execRxTermClear (k / 256) (k % 256) s else .next s
  else .next s

/-- The commands of the grant engine and the circuit unit of a die. -/
def State.actGrant (r : RegDesc) (k : Nat) (w : Wr) (s : State) : Result :=
  if r.base = GRANT_ACC_CTRL.desc.base then
    let target := w.get GRANT_ACC_CTRL.TARGET
    let tree := w.get GRANT_ACC_CTRL.TREE
    let index := w.get GRANT_ACC_CTRL.INDEX
    let list := w.get GRANT_ACC_CTRL.LIST
    match w.get GRANT_ACC_CTRL.OP with
    | 1 => execGrantAccRead k target tree index list s
    | 2 => execGrantAccWrite k target tree index list s
    | 3 => execWriteReset k target tree index s
    | _ => .next s
  else if r.base = GRANT_RESV.desc.base then
    let t := 8 * k + w.get GRANT_RESV.TREE
    let set := w.get GRANT_RESV.SET
    let onu := w.get GRANT_RESV.ONU_ID
    let low := w.get GRANT_RESV.FRAME_LOW
    match w.get GRANT_RESV.KIND with
    | 1 => execResvMicroWindow t set onu low s
    | 2 => execResvRangingGrant t set onu low (w.get GRANT_RESV.UNITS) (w.get GRANT_RESV.PROFILE) s
    | 3 => execResvQuietWindow t set low s
    | _ => .next s
  else if r.base = GRANT_TREE_CTRL.desc.base then .next (if w.covers GRANT_TREE_CTRL.BOOK_LIMIT then s.judgeBooking k else s)
  else if r.base = CIRC_ACC_CTRL.desc.base then
    let index := w.get CIRC_ACC_CTRL.INDEX
    match w.get CIRC_ACC_CTRL.OP with
    | 1 => execCircAccRead k (w.flag CIRC_ACC_CTRL.TARGET) index s
    | 2 => execCircAccWrite k (w.flag CIRC_ACC_CTRL.TARGET) index s
    | 3 => execCircuitEnable k index s
    | 4 => execCircuitDisable k index s
    | _ => .next s
  else .next s

/-- The fields of FWD_CTRL or FWD_DOMAIN as the write leaves them: one table update for the package (R30, Table 9.8). -/
def State.sequenceCtrl (r : RegDesc) (k : Nat) (w : Wr) (s : State) : State :=
  let fs := r.fields.filter fun f => f.acc = .rw && w.covers f
  let inst := if r.base = FWD_CTRL.desc.base then 0 else k % 4096
  let d := if r.base = FWD_CTRL.desc.base then k else k / 4096
  if fs.isEmpty then s else s.sequence d (.ctrl inst (fs.map fun f => (f, s.inRange f k (w.merge f (s.get f k))))) none

/-- The commands of the classifier, the forwarding table, the traffic manager and the Felt unit of a die. -/
def State.actQueue (r : RegDesc) (k : Nat) (w : Wr) (was s : State) : Result :=
  if r.base = CLASS_ACC_CTRL.desc.base then
    let index := w.get CLASS_ACC_CTRL.INDEX
    match w.get CLASS_ACC_CTRL.OP with
    | 1 => execClassRuleRead k (w.flag CLASS_ACC_CTRL.TARGET) index s
    | 2 => execTernaryWrite k index s
    | 3 => execExactInsert k s
    | 4 => execExactReplace k s
    | 5 => execExactDelete k s
    | _ => .next s
  else if r.base = CLASS_METER_ACC_CTRL.desc.base then
    let m := w.get CLASS_METER_ACC_CTRL.METER
    match w.get CLASS_METER_ACC_CTRL.OP with
    | 1 => execMeterRead k m s
    | 2 => execMeterWrite k m (w.flag CLASS_METER_ACC_CTRL.KEEP) s
    | _ => .next s
  else if r.base = FWD_CTRL.desc.base || r.base = FWD_DOMAIN.desc.base then .next (s.sequenceCtrl r k w)
  else if r.base = TM_ACC_CTRL.desc.base then
    match w.get TM_ACC_CTRL.OP with
    | 1 => execTmAccRead k (w.get TM_ACC_CTRL.TARGET) (w.get TM_ACC_CTRL.INDEX) s
    | 2 => execTmAccWrite k (w.get TM_ACC_CTRL.TARGET) (w.get TM_ACC_CTRL.INDEX) s
    | _ => .next s
  else if r.base = FELT_PORT_CTRL.desc.base then
    .next (if w.turns FELT_PORT_CTRL.HOLD (was.get FELT_PORT_CTRL.HOLD k) true then s.portCause (k / 32) (k % 32) 3
      else if w.turns FELT_PORT_CTRL.HOLD (was.get FELT_PORT_CTRL.HOLD k) false then s.portClear (k / 32) (k % 32) 3 else s)
  else if r.base = TM_SAMPLE_CTRL.desc.base then
    .next (if w.turns TM_SAMPLE_CTRL.ENABLE (was.get TM_SAMPLE_CTRL.ENABLE k) true then s.restartSamples k else s)
  else .next s

/-- A key command of the host (R263). -/
def State.keyCommand (host : Bool) (d : Nat) (w : Wr) (s : State) : Result :=
  let assoc := w.flag CIPH_KEY_CMD.TARGET
  let index := w.get CIPH_KEY_CMD.INDEX
  match w.get CIPH_KEY_CMD.OP with
  | 1 => execKeyLoad host d assoc index (w.flag CIPH_KEY_CMD.WRAPPED) (w.get CIPH_KEY_CMD.KEK) false s
  | 2 => execKeyErase host d assoc index false s
  | 3 => execKeySwitch host d (w.get CIPH_KEY_CMD.TREE) (w.get CIPH_KEY_CMD.LINE_PORT) false s
  | 4 => execKeyRead host d assoc index false s
  | 5 => execKekLoad host d index s
  | _ => .next s

/-- The commands of the cipher engine of a die. -/
def State.actCipher (r : RegDesc) (k : Nat) (w : Wr) (was s : State) : Result :=
  if r.base = CIPH_KEY_CMD.desc.base then s.keyCommand true k w
  else if r.base = CIPH_TW_CMD.desc.base then s.keyCommand false k w
  else if r.base = CIPH_MSEC_ACC_CTRL.desc.base then
    let index := w.get CIPH_MSEC_ACC_CTRL.INDEX
    match w.get CIPH_MSEC_ACC_CTRL.OP with
    | 1 => execMsecRead k (w.flag CIPH_MSEC_ACC_CTRL.TARGET) index s
    | 2 => if w.flag CIPH_MSEC_ACC_CTRL.TARGET then .next (s.msecDone k 2) else execMsecChannelWrite k index s
    | 3 => execArm k index s
    | _ => .next s
  else if r.base = CIPH_LP_BIND.desc.base then
    let t := k / 4096
    execLpBindWrite t (k % 4096) (w.merge CIPH_LP_BIND.KEY_PAIR (was.get CIPH_LP_BIND.KEY_PAIR k))
      (w.merge CIPH_LP_BIND.ENCRYPT (was.get CIPH_LP_BIND.ENCRYPT k) == 1) (w.merge CIPH_LP_BIND.TX_SC (was.get CIPH_LP_BIND.TX_SC k)) s
  else .next s

/-- The commands of the memory controller, the fabric lanes, the die links and the counters of a die. -/
def State.actFabric (r : RegDesc) (k : Nat) (w : Wr) (s : State) : Result :=
  if r.base = MEM_CMD.desc.base then
    match w.get MEM_CMD.OP with
    | 1 => execMemRetrain k (w.get MEM_CMD.CHANNEL) s
    | 2 => execMemRetire k (w.get MEM_CMD.CHANNEL) [] s
    | 3 => execMemRestart k 0 s
    | _ => .next s
  else if r.base = FAB_LANE_CTRL.desc.base then
    let s := s.showSource
    if w.covers FAB_LANE_CTRL.ENABLE then execUnitEnableRequest (.lane k) (w.flag FAB_LANE_CTRL.ENABLE) s else .next s
  else if r.base = FAB_DL_CTRL.desc.base then
    let s := if w.flag FAB_DL_CTRL.RETRAIN && s.linked (k / 8) (k % 8) then s.linkTo (k / 8) (k % 8) 1 else s
    if w.covers FAB_DL_CTRL.ENABLE then execUnitEnableRequest (.dieLink k) (w.flag FAB_DL_CTRL.ENABLE) s else .next s
  else if r.base = FAB_PAT_CTRL.desc.base then
    if w.flag FAB_PAT_CTRL.ONE_SHOT then execOneShotInject (.fab (k / 68) (k % 68)) 0 s else .next s
  else if r.base = FAB_TS_POP.desc.base then if w.flag FAB_TS_POP.POP then execFabTsPop k s else .next s
  else if r.base = PERF_CNT_ACC_CTRL.desc.base then
    let c := w.get PERF_CNT_ACC_CTRL.INDEX
    match w.get PERF_CNT_ACC_CTRL.OP with
    | 1 => execPerfCntRead k c s
    | 2 => execReadClear k c s
    | 3 => execClear k c s
    | _ => .next s
  else if r.base = PERF_BW_CTRL.desc.base then
    .next (if w.flag PERF_BW_CTRL.PEAK_CLEAR then (List.range 56).foldl (fun (s : State) p => s.put PERF_BW_RATE.PEAK_MBPS (k * 56 + p) 0) s else s)
  else .next s

/-! ### An operation asked for while another runs -/

/-- The registers whose operations answer BUSY to a second one: OP, the greatest value of OP that names an operation, the result and its BUSY
(Tables 5.8, 6.12, 7.9, 8.15, 8.17, 10.11, 11.16, 11.18, 16.9). -/
def busyRegs : List (Field × Nat × Field × Nat) := [
  (TREE_RNG_CMD.OP, 5, TREE_RNG_STATUS.CMD_RESULT, 2), (GRANT_ACC_CTRL.OP, 3, GRANT_ACC_CTRL.RESULT, 1), (CIRC_ACC_CTRL.OP, 4, CIRC_ACC_CTRL.RESULT, 1),
  (CLASS_ACC_CTRL.OP, 5, CLASS_ACC_CTRL.RESULT, 1), (CLASS_METER_ACC_CTRL.OP, 2, CLASS_METER_ACC_CTRL.RESULT, 1), (TM_ACC_CTRL.OP, 2, TM_ACC_CTRL.RESULT, 1),
  (CIPH_KEY_CMD.OP, 5, CIPH_KEY_CMD.RESULT, 1), (CIPH_TW_CMD.OP, 5, CIPH_TW_CMD.RESULT, 1), (CIPH_MSEC_ACC_CTRL.OP, 3, CIPH_MSEC_ACC_CTRL.RESULT, 1),
  (PERF_CNT_ACC_CTRL.OP, 3, PERF_CNT_ACC_CTRL.RESULT, 1)]

/-- The result that turns BUSY where a write asks for an operation while the register's earlier one runs (R139, R144, R204; log entry 15). -/
def busyResult (r : RegDesc) (w : Wr) : Option (Field × Nat) :=
  (busyRegs.find? fun e => e.1.base == r.base && 0 < w.get e.1 && w.get e.1 ≤ e.2.1).map fun e => (e.2.2.1, e.2.2.2)

/-- What a write of a register triggers, its fields once written. -/
def State.act (who : Requester) (r : RegDesc) (k : Nat) (w : Wr) (was s : State) : State :=
  let s := nextOr s (State.actPackage who r k w was s)
  let s := nextOr s (State.actCore r k w was s)
  let s := nextOr s (State.actTree r k w was s)
  let s := nextOr s (s.actGrant r k w)
  let s := nextOr s (State.actQueue r k w was s)
  let s := nextOr s (State.actCipher r k w was s)
  nextOr s (s.actFabric r k w)

/-- A key register of Tweed is closed to every other requester: the write is dropped and counts as host refused (Table 11.16). -/
def tweedOnly (who : Requester) (r : RegDesc) : Bool :=
  (r.base == CIPH_TW_CMD.desc.base || r.base == CIPH_TW_DATA.desc.base) && match who with
    | .tweed _ => false
    | _ => true

/-- A write that reaches a register: one firewall event at most for what a lock drops (R15). The events of CIPH_LP_BIND, TIME_CTRL.STEP, TIME_MEAS and
DMK_COMMAND are those of their rows; a STEP under TIME is counted here, with the locked fields of the same write. -/
def State.writeReg (who : Requester) (r : RegDesc) (k off : Nat) (w : Wr) (during : Bool) (s : State) : State :=
  let locked := (s.writeLocked r k w && r.base != CIPH_LP_BIND.desc.base)
    || (r.base == TIME_CTRL.desc.base && w.flag TIME_CTRL.STEP && s.flag SEC_LOCK.TIME 0)
  let s := if locked then s.fwEvent off 0 true 3 else s
  let t := s.writeFields r k w
  match if during then busyResult r w else none with
  | some (f, busy) => t.put f k busy
  | none => State.act who r k w s t

/-- A write of BAR0 (R9, R10, R61, R383). -/
def State.busWrite (who : Requester) (off size : Nat) (value : Word) (during : Bool) (s : State) : State :=
  if !s.mayAsk who then s
  else
    match s.reach off size with
    | .unmapped => s.unmapped off 0 true
    | .notWoven => s
    | .reg r k =>
      match s.turnedAway who r off true with
      | some t => t
      | none =>
        if tweedOnly who r then s.fwEvent off 0 true 0
        else if s.noLink r k || (size ≠ 8 && spans r k) then s
        else s.writeReg who r k off (wrOf off size value) during

/-- REGISTER_WRITE (R11): a write of BAR0 by a requester. -/
def execRegisterWrite (who : Requester) (off size : Nat) (value : Word) (during : Bool) (s : State) : Result :=
  .next (s.busWrite who off size value during)

end Sys2Proof.Machine
end

