-- ==== Sys2Proof/Machine/Dispatch.lean ====
section
/-!
DEFINITION. One meaning for each command.
-/

namespace Sys2Proof.Machine

/-- A command's effect on everything but the queue. -/
def exec (i : Instr) (s : State) : Host.Outcome State Fault Refusal :=
  match i with
  | .registerWrite who off size value during => Sys2Proof.Machine.execRegisterWrite who off size value during s
  | .unmappedAccess who off size write => Sys2Proof.Machine.execUnmappedAccess who off size write s
  | .shadowRead who off size => Sys2Proof.Machine.execShadowRead who off size s
  | .timeNowRead who size => Sys2Proof.Machine.execTimeNowRead who size s
  | .unitEnableRequest unit on => Sys2Proof.Machine.execUnitEnableRequest unit on s
  | .unitPhaseDone unit => Sys2Proof.Machine.execUnitPhaseDone unit s
  | .secondLatch sec => Sys2Proof.Machine.execSecondLatch sec s
  | .tableUpdateApply die => Sys2Proof.Machine.execTableUpdateApply die s
  | .orderStall die => Sys2Proof.Machine.execOrderStall die s
  | .downstreamFrameStart tree set at0 => Sys2Proof.Machine.execDownstreamFrameStart tree set at0 s
  | .lateMap tree set => Sys2Proof.Machine.execLateMap tree set s
  | .ploamRingSample tree set => Sys2Proof.Machine.execPloamRingSample tree set s
  | .dsUnderrun tree set come => Sys2Proof.Machine.execDsUnderrun tree set come s
  | .stageBegin slot => Sys2Proof.Machine.execStageBegin slot s
  | .stageEnd => Sys2Proof.Machine.execStageEnd s
  | .select slot trial => Sys2Proof.Machine.execSelect slot trial s
  | .confirm => Sys2Proof.Machine.execConfirm s
  | .weave => Sys2Proof.Machine.execWeave s
  | .weaveDone die => Sys2Proof.Machine.execWeaveDone die s
  | .treeReweave tree slot => Sys2Proof.Machine.execTreeReweave tree slot s
  | .reweaveSectionsLoaded => Sys2Proof.Machine.execReweaveSectionsLoaded s
  | .reweaveComplete => Sys2Proof.Machine.execReweaveComplete s
  | .dmkStageData offset bytes => Sys2Proof.Machine.execDmkStageData offset bytes s
  | .mramRecordCommit die => Sys2Proof.Machine.execMramRecordCommit die s
  | .pageReclaim die => Sys2Proof.Machine.execPageReclaim die s
  | .recordRotation die => Sys2Proof.Machine.execRecordRotation die s
  | .secLockSet mask => Sys2Proof.Machine.execSecLockSet mask s
  | .dbgNonceRequest => Sys2Proof.Machine.execDbgNonceRequest s
  | .dbgPasswordAttempt own elapsed => Sys2Proof.Machine.execDbgPasswordAttempt own elapsed s
  | .dbgSignedAttempt own elapsed => Sys2Proof.Machine.execDbgSignedAttempt own elapsed s
  | .dbgSetPassword own => Sys2Proof.Machine.execDbgSetPassword own s
  | .nonceExpiry => Sys2Proof.Machine.execNonceExpiry s
  | .opticsStart tree => Sys2Proof.Machine.execOpticsStart tree s
  | .opticsLit tree => Sys2Proof.Machine.execOpticsLit tree s
  | .txDarkAtShutdown tree => Sys2Proof.Machine.execTxDarkAtShutdown tree s
  | .laserPark tree => Sys2Proof.Machine.execLaserPark tree s
  | .txCalibration tree set => Sys2Proof.Machine.execTxCalibration tree set s
  | .laserAgeingCheck tree set => Sys2Proof.Machine.execLaserAgeingCheck tree set s
  | .txMuteSet tree => Sys2Proof.Machine.execTxMuteSet tree s
  | .txMuteClear tree => Sys2Proof.Machine.execTxMuteClear tree s
  | .txLol tree set => Sys2Proof.Machine.execTxLol tree set s
  | .txRelock tree set => Sys2Proof.Machine.execTxRelock tree set s
  | .contextSwap tree set => Sys2Proof.Machine.execContextSwap tree set s
  | .burstReceive tree set burst => Sys2Proof.Machine.execBurstReceive tree set burst s
  | .upstreamFrameEnd tree set samples => Sys2Proof.Machine.execUpstreamFrameEnd tree set samples s
  | .rxLol tree set => Sys2Proof.Machine.execRxLol tree set s
  | .rxLolClear tree set => Sys2Proof.Machine.execRxLolClear tree set s
  | .rxTermClear tree terminal => Sys2Proof.Machine.execRxTermClear tree terminal s
  | .errorInject unit passed place => Sys2Proof.Machine.execErrorInject unit passed place s
  | .oneShotInject unit place => Sys2Proof.Machine.execOneShotInject unit place s
  | .patternCheckerLock unit terminal good => Sys2Proof.Machine.execPatternCheckerLock unit terminal good s
  | .optTxRefresh tree set power bias wave temp => Sys2Proof.Machine.execOptTxRefresh tree set power bias wave temp s
  | .quietWindowOpen tree set => Sys2Proof.Machine.execQuietWindowOpen tree set s
  | .quietForce tree => Sys2Proof.Machine.execQuietForce tree s
  | .serialNumberFound tree set arrival delay serial => Sys2Proof.Machine.execSerialNumberFound tree set arrival delay serial s
  | .rangingGrantResult tree terminal => Sys2Proof.Machine.execRangingGrantResult tree terminal s
  | .chiffonParams tree => Sys2Proof.Machine.execChiffonParams tree s
  | .signatureDetection tree code lag frames => Sys2Proof.Machine.execSignatureDetection tree code lag frames s
  | .chiffonInvite tree place frame => Sys2Proof.Machine.execChiffonInvite tree place frame s
  | .microWindowResult tree place => Sys2Proof.Machine.execMicroWindowResult tree place s
  | .admitWaitExpiry tree terminal => Sys2Proof.Machine.execAdmitWaitExpiry tree terminal s
  | .chiffonHold tree terminal => Sys2Proof.Machine.execChiffonHold tree terminal s
  | .assignOnuId tree terminal => Sys2Proof.Machine.execAssignOnuId tree terminal s
  | .assignAllocId tree allocation => Sys2Proof.Machine.execAssignAllocId tree allocation s
  | .stepMissed tree terminal step => Sys2Proof.Machine.execStepMissed tree terminal step s
  | .driftCorrection tree terminal => Sys2Proof.Machine.execDriftCorrection tree terminal s
  | .terminalLost tree terminal => Sys2Proof.Machine.execTerminalLost tree terminal s
  | .admitTerminal tree terminal onuId => Sys2Proof.Machine.execAdmit tree terminal onuId s
  | .deny tree terminal => Sys2Proof.Machine.execDeny tree terminal s
  | .rerange tree terminal => Sys2Proof.Machine.execRerange tree terminal s
  | .deactivate tree terminal => Sys2Proof.Machine.execDeactivate tree terminal s
  | .free tree terminal => Sys2Proof.Machine.execFree tree terminal s
  | .mapBuild tree set buildNs flagged => Sys2Proof.Machine.execMapBuild tree set buildNs flagged s
  | .statusReportDecode tree allocation backlog frame => Sys2Proof.Machine.execStatusReportDecode tree allocation backlog frame s
  | .contextRingWrite tree set => Sys2Proof.Machine.execContextRingWrite tree set s
  | .grantAccRead die target tree index list => Sys2Proof.Machine.execGrantAccRead die target tree index list s
  | .grantAccWrite die target tree index list => Sys2Proof.Machine.execGrantAccWrite die target tree index list s
  | .writeReset die target tree index => Sys2Proof.Machine.execWriteReset die target tree index s
  | .gateBankSwap die list => Sys2Proof.Machine.execGateBankSwap die list s
  | .resvMicroWindow tree set onuId frameLow => Sys2Proof.Machine.execResvMicroWindow tree set onuId frameLow s
  | .resvRangingGrant tree set onuId frameLow units profile => Sys2Proof.Machine.execResvRangingGrant tree set onuId frameLow units profile s
  | .resvQuietWindow tree set frameLow => Sys2Proof.Machine.execResvQuietWindow tree set frameLow s
  | .containerBuild circuit => Sys2Proof.Machine.execContainerBuild circuit s
  | .containerMissing circuit => Sys2Proof.Machine.execContainerMissing circuit s
  | .cePacketReceive die => Sys2Proof.Machine.execCePacketReceive die s
  | .containerReceive circuit => Sys2Proof.Machine.execContainerReceive circuit s
  | .groupRelease die group => Sys2Proof.Machine.execGroupRelease die group s
  | .circAccRead die group index => Sys2Proof.Machine.execCircAccRead die group index s
  | .circAccWrite die group index => Sys2Proof.Machine.execCircAccWrite die group index s
  | .circuitEnable die index => Sys2Proof.Machine.execCircuitEnable die index s
  | .circuitDisable die index => Sys2Proof.Machine.execCircuitDisable die index s
  | .fabricFrameReceive lane bytes sec => Sys2Proof.Machine.execFabricFrameReceive lane bytes sec s
  | .frameAdmit die => Sys2Proof.Machine.execFrameAdmit die s
  | .queueRelease die up port => Sys2Proof.Machine.execQueueRelease die up port s
  | .fabricFrameTransmit lane cls ptp => Sys2Proof.Machine.execFabricFrameTransmit lane cls ptp s
  | .feltRelease die port => Sys2Proof.Machine.execFeltRelease die port s
  | .portHoldCause die port cause => Sys2Proof.Machine.execPortHoldCause die port cause s
  | .portResume die port => Sys2Proof.Machine.execPortResume die port s
  | .portAvailable die port => Sys2Proof.Machine.execPortAvailable die port s
  | .tmSampleWindow die => Sys2Proof.Machine.execTmSampleWindow die s
  | .tmAccRead die target index => Sys2Proof.Machine.execTmAccRead die target index s
  | .tmAccWrite die target index => Sys2Proof.Machine.execTmAccWrite die target index s
  | .classRuleRead die ternary index => Sys2Proof.Machine.execClassRuleRead die ternary index s
  | .ternaryWrite die index => Sys2Proof.Machine.execTernaryWrite die index s
  | .exactInsert die => Sys2Proof.Machine.execExactInsert die s
  | .exactReplace die => Sys2Proof.Machine.execExactReplace die s
  | .exactDelete die => Sys2Proof.Machine.execExactDelete die s
  | .meterRead die meter => Sys2Proof.Machine.execMeterRead die meter s
  | .meterWrite die meter keep => Sys2Proof.Machine.execMeterWrite die meter keep s
  | .tableInsert chan addr entry expect tied => Sys2Proof.Machine.execTableInsert chan addr entry expect tied s
  | .tableReplace chan addr entry expect tied => Sys2Proof.Machine.execTableReplace chan addr entry expect tied s
  | .tableDelete chan addr entry expect tied => Sys2Proof.Machine.execTableDelete chan addr entry expect tied s
  | .tableLock chan addr bucket second => Sys2Proof.Machine.execTableLock chan addr bucket second s
  | .tableUnlock chan addr => Sys2Proof.Machine.execTableUnlock chan addr s
  | .writeSlot chan addr bucket slot entry expect => Sys2Proof.Machine.execWriteSlot chan addr bucket slot entry expect s
  | .ageBucket => Sys2Proof.Machine.execAgeBucket s
  | .lockExpiry chan => Sys2Proof.Machine.execLockExpiry chan s
  | .keyLoad host die assoc index wrapped kek tied => Sys2Proof.Machine.execKeyLoad host die assoc index wrapped kek tied s
  | .keyErase host die assoc index tied => Sys2Proof.Machine.execKeyErase host die assoc index tied s
  | .keySwitch host die localTree linePort tied => Sys2Proof.Machine.execKeySwitch host die localTree linePort tied s
  | .keyRead host die assoc index tied => Sys2Proof.Machine.execKeyRead host die assoc index tied s
  | .kekLoad host die kek => Sys2Proof.Machine.execKekLoad host die kek s
  | .switchCheck => Sys2Proof.Machine.execSwitchCheck s
  | .keyExpiry die slot => Sys2Proof.Machine.execKeyExpiry die slot s
  | .starvedResume tree linePort => Sys2Proof.Machine.execStarvedResume tree linePort s
  | .lpBindWrite tree linePort keyPair encrypt txSc => Sys2Proof.Machine.execLpBindWrite tree linePort keyPair encrypt txSc s
  | .msecRead die assoc index => Sys2Proof.Machine.execMsecRead die assoc index s
  | .msecChannelWrite die channel => Sys2Proof.Machine.execMsecChannelWrite die channel s
  | .arm die association => Sys2Proof.Machine.execArm die association s
  | .refreshInterval die channel events => Sys2Proof.Machine.execRefreshInterval die channel events s
  | .stackTempCrossing die channel temp => Sys2Proof.Machine.execStackTempCrossing die channel temp s
  | .stackThermalResponse die temp => Sys2Proof.Machine.execStackThermalResponse die temp s
  | .stackRestart die cool => Sys2Proof.Machine.execStackRestart die cool s
  | .rowDisturb die channel bank row requester domain => Sys2Proof.Machine.execRowDisturb die channel bank row requester domain s
  | .throttleEnd die requester channel => Sys2Proof.Machine.execThrottleEnd die requester channel s
  | .eccCorrect die offset requester correctable owner => Sys2Proof.Machine.execEccCorrect die offset requester correctable owner s
  | .patrolScrub die age => Sys2Proof.Machine.execPatrolScrub die age s
  | .channelRetune die channel training => Sys2Proof.Machine.execChannelRetune die channel training s
  | .channelRetrain die channel training lost => Sys2Proof.Machine.execChannelRetrain die channel training lost s
  | .channelRetire die channel lost => Sys2Proof.Machine.execChannelRetire die channel lost s
  | .memRetrain die channel => Sys2Proof.Machine.execMemRetrain die channel s
  | .memRetire die channel lost => Sys2Proof.Machine.execMemRetire die channel lost s
  | .memRestart die cool => Sys2Proof.Machine.execMemRestart die cool s
  | .laneOn lane => Sys2Proof.Machine.execLaneOn lane s
  | .laneFail lane los cdrLock => Sys2Proof.Machine.execLaneFail lane los cdrLock s
  | .commaLock lane block => Sys2Proof.Machine.execCommaLock lane block s
  | .kolkanCellReceive lane header payload => Sys2Proof.Machine.execKolkanCellReceive lane header payload s
  | .controlBlockBad lane block => Sys2Proof.Machine.execControlBlockBad lane block s
  | .flow lane credits => Sys2Proof.Machine.execFlow lane credits s
  | .abort lane cls => Sys2Proof.Machine.execAbort lane cls s
  | .creditStall lane cls => Sys2Proof.Machine.execCreditStall lane cls s
  | .status lane pathOk rxOk => Sys2Proof.Machine.execStatus lane pathOk rxOk s
  | .statusTimeout lane => Sys2Proof.Machine.execStatusTimeout lane s
  | .statusSend lane => Sys2Proof.Machine.execStatusSend lane s
  | .cap lane block => Sys2Proof.Machine.execCap lane block s
  | .time lane seq tx rx srcValid master stratum turn => Sys2Proof.Machine.execTime lane seq tx rx srcValid master stratum turn s
  | .timeEcho lane seq turn rx => Sys2Proof.Machine.execTimeEcho lane seq turn rx s
  | .timeSend lane tx => Sys2Proof.Machine.execTimeSend lane tx s
  | .flitReplay die peer ok lost => Sys2Proof.Machine.execFlitReplay die peer ok lost s
  | .dieLinkIdle die peer => Sys2Proof.Machine.execDieLinkIdle die peer s
  | .dieLinkWake die peer => Sys2Proof.Machine.execDieLinkWake die peer s
  | .blindFallback die peer => Sys2Proof.Machine.execBlindFallback die peer s
  | .dieLinkOn die peer => Sys2Proof.Machine.execDieLinkOn die peer s
  | .timeMeasurement source offset => Sys2Proof.Machine.execTimeMeasurement source offset s
  | .sourceLost => Sys2Proof.Machine.execSourceLost s
  | .timeStep force => Sys2Proof.Machine.execTimeStep force s
  | .stepApply => Sys2Proof.Machine.execStepApply s
  | .timeMeasWrite size value => Sys2Proof.Machine.execTimeMeasWrite size value s
  | .ppsEdge time => Sys2Proof.Machine.execPpsEdge time s
  | .todMessage bytes time => Sys2Proof.Machine.execTodMessage bytes time s
  | .ppsOut sec => Sys2Proof.Machine.execPpsOut sec s
  | .fabTsPop die => Sys2Proof.Machine.execFabTsPop die s
  | .claimLive => Sys2Proof.Machine.execClaimLive s
  | .claimAbsent => Sys2Proof.Machine.execClaimAbsent s
  | .seize release => Sys2Proof.Machine.execSeize release s
  | .settleEnd => Sys2Proof.Machine.execSettleEnd s
  | .doubleClaim => Sys2Proof.Machine.execDoubleClaim s
  | .heartbeatSend tx => Sys2Proof.Machine.execHeartbeatSend tx s
  | .heartbeat seq device active t0 echoSeq turn rx => Sys2Proof.Machine.execHeartbeat seq device active t0 echoSeq turn rx s
  | .heartbeatFailure => Sys2Proof.Machine.execHeartbeatFailure s
  | .pairHello digest member pairDevice trees senior device => Sys2Proof.Machine.execPairHello digest member pairDevice trees senior device s
  | .pairAccept => Sys2Proof.Machine.execPairAccept s
  | .map tree set frame grants => Sys2Proof.Machine.execMap tree set frame grants s
  | .terminal records => Sys2Proof.Machine.execTerminal records s
  | .circuit records => Sys2Proof.Machine.execCircuit records s
  | .health received => Sys2Proof.Machine.execHealth received s
  | .autoDegrade => Sys2Proof.Machine.execAutoDegrade s
  | .release frame => Sys2Proof.Machine.execRelease frame s
  | .releaseDarken => Sys2Proof.Machine.execReleaseDarken s
  | .calibrate tree => Sys2Proof.Machine.execCalibrate tree s
  | .standbyOffsetUpdate tree => Sys2Proof.Machine.execStandbyOffsetUpdate tree s
  | .tweedLoadCheck die load missed late deferrable => Sys2Proof.Machine.execTweedLoadCheck die load missed late deferrable s
  | .watchdog die => Sys2Proof.Machine.execWatchdog die s
  | .taskOverrun die task fault => Sys2Proof.Machine.execTaskOverrun die task fault s
  | .doorbell die slot release => Sys2Proof.Machine.execDoorbell die slot release s
  | .mailboxService die reply => Sys2Proof.Machine.execMailboxService die reply s
  | .version die => Sys2Proof.Machine.execVersion die s
  | .rotate die tied => Sys2Proof.Machine.execRotate die tied s
  | .rotateCancel die => Sys2Proof.Machine.execRotateCancel die s
  | .extMsg die reply => Sys2Proof.Machine.execExtMsg die reply s
  | .interruptEntry die firmware late => Sys2Proof.Machine.execInterruptEntry die firmware late s
  | .resume die firmware late => Sys2Proof.Machine.execResume die firmware late s
  | .coreWake die firmware => Sys2Proof.Machine.execCoreWake die firmware s
  | .groupFire die group => Sys2Proof.Machine.execGroupFire die group s
  | .swset die source => Sys2Proof.Machine.execSwset die source s
  | .targetWrite die source host target vector => Sys2Proof.Machine.execTargetWrite die source host target vector s
  | .msixDelivery die => Sys2Proof.Machine.execMsixDelivery die s
  | .eoi die source => Sys2Proof.Machine.execEoi die source s
  | .counterFlush die counter => Sys2Proof.Machine.execCounterFlush die counter s
  | .perfCntRead die counter => Sys2Proof.Machine.execPerfCntRead die counter s
  | .readClear die counter => Sys2Proof.Machine.execReadClear die counter s
  | .clear die counter => Sys2Proof.Machine.execClear die counter s
  | .snapshotArm => Sys2Proof.Machine.execSnapshotArm s
  | .snapshotCancel => Sys2Proof.Machine.execSnapshotCancel s
  | .snapshotEpoch => Sys2Proof.Machine.execSnapshotEpoch s
  | .snapshotDieDone die copyNs => Sys2Proof.Machine.execSnapshotDieDone die copyNs s
  | .traceRecord die record throttled => Sys2Proof.Machine.execTraceRecord die record throttled s
  | .bandwidthWindow die window => Sys2Proof.Machine.execBandwidthWindow die window s
  | .sentinelInterval die readings => Sys2Proof.Machine.execSentinelInterval die readings s
  | .telemetryRecord die power skipped => Sys2Proof.Machine.execTelemetryRecord die power skipped s
  | .eventLog die origin source => Sys2Proof.Machine.execEventLog die origin source s
  | .sramScrub die uncorrectable => Sys2Proof.Machine.execSramScrub die uncorrectable s
  | .mramScrub die flaw => Sys2Proof.Machine.execMramScrub die flaw s
  | .bgLag die activity lag => Sys2Proof.Machine.execBgLag die activity lag s
  | .table chan desc record tied => Sys2Proof.Machine.execTable chan desc record tied s
  | .stage chan desc bytes => Sys2Proof.Machine.execStage chan desc bytes s
  | .devRead chan desc => Sys2Proof.Machine.execDevRead chan desc s
  | .omciTx chan desc bytes => Sys2Proof.Machine.execOmciTx chan desc bytes s
  | .rxBuffer chan desc => Sys2Proof.Machine.execRxBuffer chan desc s
  | .rxMessage message at0 => Sys2Proof.Machine.execRxMessage message at0 s
  | .dmaError chan failed => Sys2Proof.Machine.execDmaError chan failed s
  | .bar2Read who off size => Sys2Proof.Machine.execBar2Read who off size s
  | .bar2Write who off bytes => Sys2Proof.Machine.execBar2Write who off bytes s
  | .coldReset => Sys2Proof.Machine.execColdReset s
  | .packageReset cause => Sys2Proof.Machine.execPackageReset cause s
  | .resetPackage key => Sys2Proof.Machine.execResetPackage key s
  | .perst asserted => Sys2Proof.Machine.execPerst asserted s
  | .hostInterfaceReset => Sys2Proof.Machine.execHostInterfaceReset s
  | .startup ms untrained => Sys2Proof.Machine.execStartup ms untrained s
  | .supplySupervision vin iin pin => Sys2Proof.Machine.execSupplySupervision vin iin pin s
  | .supplyFault steps => Sys2Proof.Machine.execSupplyFault steps s
  | .governorStep die request => Sys2Proof.Machine.execGovernorStep die request s
  | .junctionThermal die readings package cool => Sys2Proof.Machine.execJunctionThermal die readings package cool s
  | .diePowerDown die trip => Sys2Proof.Machine.execDiePowerDown die trip s
  | .dieRestart die => Sys2Proof.Machine.execDieRestart die s
  | .muteSuppressionEnd tree => Sys2Proof.Machine.execMuteSuppressionEnd tree s
  | .flowSend lane => Sys2Proof.Machine.execFlowSend lane s

end Sys2Proof.Machine
end

