-- ==== Sys2Proof/Machine/Frame.lean ====
section
/-!
DEFINITION. What each command may change, so that a claim can say that it changes nothing else: the words of registers and contexts, and the parts of
State beside them.
-/

namespace Sys2Proof.Machine

/-- The fields of State other than the identity, the table of register fields and the queue. -/
inductive Part where
  | live | sects | latches | chans | loader | slots | slotBad | mram | cores | ctxStore | tweed | rotations | stats | dev | perf | channels
  | dieStacks | clock | pair | snap | dma | pci | power | supply | bwAcc | sets | trees | terms | allocs | resv | rot | circs | grps
  | chkSeen | exact | tern | fwd | cache | notes | updates | heldUpdates | lastSeq | seqLocks | dieLocks | touchSent | quotaSaid | ringLost
  | pendSince | keys | loadedAt | oldBind | switches | xgemIndex | frags | keyFrame | labels | queues | qstat | felt | drain | inbox
  | laneOut | cellPos | credit | lanes | owed | rxPart | rxReady | oam | replays | ceWaiting | elim | stamps | saidAt | netSec | netFrac
  | uses | outbox | offers | ageAt | roots
  deriving DecidableEq, Repr

/-- One part of a state, everything else as an empty state has it. -/
def State.part (s : State) : Part → State
  | .live => { live := s.live }
  | .sects => { sects := s.sects }
  | .latches => { latches := s.latches }
  | .chans => { chans := s.chans }
  | .loader => { loader := s.loader }
  | .slots => { slots := s.slots }
  | .slotBad => { slotBad := s.slotBad }
  | .mram => { mram := s.mram }
  | .cores => { cores := s.cores }
  | .ctxStore => { ctxStore := s.ctxStore }
  | .tweed => { tweed := s.tweed }
  | .rotations => { rotations := s.rotations }
  | .stats => { stats := s.stats }
  | .dev => { dev := s.dev }
  | .perf => { perf := s.perf }
  | .channels => { channels := s.channels }
  | .dieStacks => { dieStacks := s.dieStacks }
  | .clock => { clock := s.clock }
  | .pair => { pair := s.pair }
  | .snap => { snap := s.snap }
  | .dma => { dma := s.dma }
  | .pci => { pci := s.pci }
  | .power => { power := s.power }
  | .supply => { supply := s.supply }
  | .bwAcc => { bwAcc := s.bwAcc }
  | .sets => { sets := s.sets }
  | .trees => { trees := s.trees }
  | .terms => { terms := s.terms }
  | .allocs => { allocs := s.allocs }
  | .resv => { resv := s.resv }
  | .rot => { rot := s.rot }
  | .circs => { circs := s.circs }
  | .grps => { grps := s.grps }
  | .chkSeen => { chkSeen := s.chkSeen }
  | .exact => { exact := s.exact }
  | .tern => { tern := s.tern }
  | .fwd => { fwd := s.fwd }
  | .cache => { cache := s.cache }
  | .notes => { notes := s.notes }
  | .updates => { updates := s.updates }
  | .heldUpdates => { heldUpdates := s.heldUpdates }
  | .lastSeq => { lastSeq := s.lastSeq }
  | .seqLocks => { seqLocks := s.seqLocks }
  | .dieLocks => { dieLocks := s.dieLocks }
  | .touchSent => { touchSent := s.touchSent }
  | .quotaSaid => { quotaSaid := s.quotaSaid }
  | .ringLost => { ringLost := s.ringLost }
  | .pendSince => { pendSince := s.pendSince }
  | .keys => { keys := s.keys }
  | .loadedAt => { loadedAt := s.loadedAt }
  | .oldBind => { oldBind := s.oldBind }
  | .switches => { switches := s.switches }
  | .xgemIndex => { xgemIndex := s.xgemIndex }
  | .frags => { frags := s.frags }
  | .keyFrame => { keyFrame := s.keyFrame }
  | .labels => { labels := s.labels }
  | .queues => { queues := s.queues }
  | .qstat => { qstat := s.qstat }
  | .felt => { felt := s.felt }
  | .drain => { drain := s.drain }
  | .inbox => { inbox := s.inbox }
  | .laneOut => { laneOut := s.laneOut }
  | .cellPos => { cellPos := s.cellPos }
  | .credit => { credit := s.credit }
  | .lanes => { lanes := s.lanes }
  | .owed => { owed := s.owed }
  | .rxPart => { rxPart := s.rxPart }
  | .rxReady => { rxReady := s.rxReady }
  | .oam => { oam := s.oam }
  | .replays => { replays := s.replays }
  | .ceWaiting => { ceWaiting := s.ceWaiting }
  | .elim => { elim := s.elim }
  | .stamps => { stamps := s.stamps }
  | .saidAt => { saidAt := s.saidAt }
  | .netSec => { netSec := s.netSec }
  | .netFrac => { netFrac := s.netFrac }
  | .uses => { uses := s.uses }
  | .outbox => { outbox := s.outbox }
  | .offers => { offers := s.offers }
  | .ageAt => { ageAt := s.ageAt }
  | .roots => { roots := s.roots }

/-- Every part. -/
def everyPart : List Part := [
  .live, .sects, .latches, .chans, .loader, .slots, .slotBad, .mram, .cores, .ctxStore, .tweed, .rotations, .stats, .dev, .perf, .channels,
  .dieStacks, .clock, .pair, .snap, .dma, .pci, .power, .supply, .bwAcc, .sets, .trees, .terms, .allocs, .resv, .rot, .circs, .grps, .chkSeen,
  .exact, .tern, .fwd, .cache, .notes, .updates, .heldUpdates, .lastSeq, .seqLocks, .dieLocks, .touchSent, .quotaSaid, .ringLost, .pendSince, .keys,
  .loadedAt, .oldBind, .switches, .xgemIndex, .frags, .keyFrame, .labels, .queues, .qstat, .felt, .drain, .inbox, .laneOut, .cellPos, .credit,
  .lanes, .owed, .rxPart, .rxReady, .oam, .replays, .ceWaiting, .elim, .stamps, .saidAt, .netSec, .netFrac, .uses, .outbox, .offers, .ageAt, .roots]

/-- The words and the parts that a command may change, whatever its operands: a field stands for the 64-bit word of its register or context that it lies
in, of every unit; none stands for every word. -/
def mayChange : Instr → Option (List Field) × List Part
  | .registerWrite .. => (none, everyPart)
  | .unmappedAccess .. => (some [HOST_UNMAPPED.LAST_OFFSET, IC_GROUP_STATUS.COUNT, IC_SRC.ENABLE], [.outbox])
  | .shadowRead .. => (none, [.outbox])
  | .timeNowRead .. => (none, [.outbox])
  | .unitEnableRequest .. => (
    some [PKG_DIE_CTRL.ENABLE, DMK_TREE_STATE.STATE, TIME_STATUS.VALID, PEER_STATUS.ROLE, IC_GROUP_STATUS.COUNT, IC_SRC.ENABLE,
      FELT_PORT_STATUS.STATE, FAB_LANE_CTRL.ENABLE, FAB_LANE_STATUS.STATE, FAB_DL_CTRL.ENABLE, FAB_DL_STATUS.STATE],
    [.live, .latches, .chans, .dieStacks, .clock, .trees, .cellPos, .credit, .lanes, .owed, .rxPart])
  | .unitPhaseDone .. => (
    none,
    [.live, .sects, .latches, .chans, .loader, .mram, .cores, .ctxStore, .tweed, .rotations, .stats, .dev, .perf, .channels, .dieStacks, .dma,
      .power, .bwAcc, .sets, .trees, .terms, .allocs, .resv, .rot, .circs, .grps, .chkSeen, .exact, .tern, .fwd, .cache, .updates, .heldUpdates,
      .lastSeq, .seqLocks, .dieLocks, .touchSent, .quotaSaid, .keys, .loadedAt, .oldBind, .switches, .xgemIndex, .frags, .labels, .queues, .qstat,
      .felt, .drain, .inbox, .laneOut, .cellPos, .credit, .lanes, .owed, .rxPart, .rxReady, .replays, .ceWaiting, .elim, .stamps, .uses, .outbox,
      .offers, .ageAt, .roots])
  | .secondLatch .. => (none, [.live, .loader, .tweed, .pair, .netSec, .netFrac])
  | .tableUpdateApply .. => (
    none,
    [.live, .slots, .dma, .fwd, .notes, .updates, .lastSeq, .dieLocks, .touchSent, .quotaSaid, .ringLost, .labels, .outbox])
  | .orderStall .. => (
    some [HOST_DMA_PTR.TAIL, HOST_DMA_STATUS.ERROR, HOST_MSIX_PBA.BITS, SEG_ORDER_STATUS.STALL, IC_GROUP_STATUS.COUNT, IC_SRC.ENABLE],
    [.live, .dma, .updates, .outbox])
  | .downstreamFrameStart .. => (
    some [IC_GROUP_STATUS.COUNT, IC_SRC.ENABLE, TWEED_MBOX_STATE.SLOT, TWEED_MBOX.DATA, TREE_DEF_TERM.LOB, TREE_RNG_TERM.STATE, CIRC_DEF.DEFECT,
      CIRC_GROUP_STATUS.DEFECT, CIPH_STATUS.KEY_STARVED, CIPH_SEP_LAST.CHECK, CIPH_LP_BIND.KEY_PAIR, KEYSLOT.SUITE, KEYSLOT.FIRST_FRAME],
    [.live, .rotations, .pair, .bwAcc, .sets, .trees, .terms, .allocs, .oldBind, .switches, .xgemIndex, .keyFrame, .lanes, .netSec, .netFrac,
      .outbox])
  | .lateMap .. => (
    some [IC_GROUP_STATUS.COUNT, IC_SRC.ENABLE, TREE_FRM_STATUS.MISDIRECT, ALLOC.CREDIT, ALLOC.INFLIGHT],
    [.live, .dev, .sets, .allocs])
  | .ploamRingSample .. => (some [], [.sets])
  | .dsUnderrun .. => (
    some [SEG_GOV_STATUS.VCORE_MV, IC_GROUP_STATUS.COUNT, IC_SRC.ENABLE, TREE_FRM_STATUS.MISDIRECT, CIPH_STATUS.KEY_STARVED, CIPH_SEP_LAST.CHECK],
    [.live, .sets, .xgemIndex, .outbox])
  | .stageBegin .. => (some [DMK_STATUS.ACTIVE_SLOT, SEC_FW_EVENT.LAST_OFFSET, IC_GROUP_STATUS.COUNT, IC_SRC.ENABLE], [.loader])
  | .stageEnd => (some [DMK_STATUS.ACTIVE_SLOT, SEC_FW_EVENT.LAST_OFFSET, IC_GROUP_STATUS.COUNT, IC_SRC.ENABLE], [.loader, .slots, .slotBad, .uses])
  | .select .. => (
    some [DMK_STATUS.ACTIVE_SLOT, SEC_FW_EVENT.LAST_OFFSET, IC_GROUP_STATUS.COUNT, IC_SRC.ENABLE, CIPH_KEY_CMD.OP, CIPH_TW_CMD.OP, MSA.AN,
      MSA.MARK],
    [.live, .mram, .uses])
  | .confirm => (
    some [DMK_STATUS.ACTIVE_SLOT, SEC_FW_EVENT.LAST_OFFSET, IC_GROUP_STATUS.COUNT, IC_SRC.ENABLE, CIPH_KEY_CMD.OP, CIPH_TW_CMD.OP, MSA.AN,
      MSA.MARK],
    [.live, .mram, .uses])
  | .weave => (
    none,
    [.live, .sects, .latches, .chans, .loader, .mram, .stats, .dev, .perf, .bwAcc, .trees, .circs, .grps, .fwd, .cache, .touchSent, .keys,
      .loadedAt, .oldBind, .switches, .frags, .queues, .qstat, .felt, .drain, .inbox, .laneOut, .cellPos, .credit, .lanes, .owed, .rxPart, .rxReady,
      .ceWaiting, .offers, .ageAt, .roots])
  | .weaveDone .. => (
    some [PKG_DIE_CTRL.ENABLE, DMK_STATUS.ACTIVE_SLOT, DMK_TREE_STATE.STATE, TIME_STATUS.VALID, PEER_STATUS.ROLE, SEG_IDENT.DIE_INDEX,
      IC_CORE_STATUS.RUNNING, IC_GROUP_STATUS.COUNT, IC_SRC.ENABLE, TWEED_STATUS.STATE, TREE_OPT_STATUS.TX_STATE_FIFTY,
      GRANT_TREE_STATUS.STRUCTS_FIFTY, FELT_PORT_STATUS.STATE, FAB_LANE_CTRL.ENABLE, FAB_LANE_STATUS.STATE, FAB_DL_CTRL.ENABLE, FAB_DL_STATUS.STATE],
    [.live, .sects, .latches, .chans, .loader, .cores, .ctxStore, .tweed, .trees, .cellPos, .credit, .lanes, .owed, .rxPart, .uses, .roots])
  | .treeReweave .. => (
    some [PKG_DIE_CTRL.ENABLE, DMK_STATUS.ACTIVE_SLOT, DMK_TREE_STATE.STATE, SEC_FW_EVENT.LAST_OFFSET, IC_GROUP_STATUS.COUNT, IC_SRC.ENABLE,
      TM_BUF_STATUS.BUF_CELLS, TM_DOMAIN.BUF_QUOTA, FAB_LANE_STATUS.STATE, FAB_DL_STATUS.STATE, QUEUE.CELLS, QUEUE.TAG, NODE.TAG],
    [.chans, .loader, .stats, .dev, .queues, .qstat, .uses, .offers])
  | .reweaveSectionsLoaded => (
    none,
    [.live, .sects, .latches, .chans, .loader, .mram, .stats, .dev, .perf, .bwAcc, .trees, .circs, .grps, .fwd, .cache, .touchSent, .keys,
      .loadedAt, .oldBind, .switches, .frags, .queues, .qstat, .felt, .drain, .inbox, .laneOut, .cellPos, .credit, .lanes, .owed, .rxPart, .rxReady,
      .ceWaiting, .uses, .offers, .ageAt, .roots])
  | .reweaveComplete => (
    none,
    [.live, .sects, .latches, .chans, .loader, .mram, .stats, .dev, .perf, .bwAcc, .trees, .allocs, .circs, .grps, .fwd, .cache, .updates,
      .heldUpdates, .lastSeq, .seqLocks, .touchSent, .keys, .loadedAt, .oldBind, .switches, .frags, .queues, .qstat, .felt, .drain, .inbox,
      .laneOut, .cellPos, .credit, .lanes, .owed, .rxPart, .rxReady, .ceWaiting, .uses, .offers, .ageAt, .roots])
  | .dmkStageData .. => (some [], [.loader])
  | .mramRecordCommit .. => (some [IC_GROUP_STATUS.COUNT, IC_SRC.ENABLE, CIPH_KEY_CMD.OP, CIPH_TW_CMD.OP, MSA.AN, MSA.MARK], [.live, .mram])
  | .pageReclaim .. => (some [IC_GROUP_STATUS.COUNT, IC_SRC.ENABLE, CIPH_KEY_CMD.OP, CIPH_TW_CMD.OP, MSA.AN, MSA.MARK], [.mram])
  | .recordRotation .. => (some [IC_GROUP_STATUS.COUNT, IC_SRC.ENABLE], [.mram])
  | .secLockSet .. => (some [SEC_LOCK.KEYS, SEC_DBG_STATUS.STATE], [])
  | .dbgNonceRequest => (some [SEC_FW_EVENT.LAST_OFFSET, SEC_DBG_STATUS.STATE, SEC_DBG_NONCE.NONCE, IC_GROUP_STATUS.COUNT, IC_SRC.ENABLE], [.uses])
  | .dbgPasswordAttempt .. => (some [SEC_FW_EVENT.LAST_OFFSET, SEC_DBG_STATUS.STATE, IC_GROUP_STATUS.COUNT, IC_SRC.ENABLE], [])
  | .dbgSignedAttempt .. => (some [SEC_FW_EVENT.LAST_OFFSET, SEC_DBG_STATUS.STATE, IC_GROUP_STATUS.COUNT, IC_SRC.ENABLE], [])
  | .dbgSetPassword .. => (
    some [SEC_FW_EVENT.LAST_OFFSET, SEC_DBG_STATUS.STATE, IC_GROUP_STATUS.COUNT, IC_SRC.ENABLE, CIPH_KEY_CMD.OP, CIPH_TW_CMD.OP, MSA.AN, MSA.MARK],
    [.live, .mram, .uses])
  | .nonceExpiry => (some [SEC_DBG_STATUS.STATE], [])
  | .opticsStart .. => (some [TREE_OPT_STATUS.TX_STATE_FIFTY], [.trees])
  | .opticsLit .. => (
    none,
    [.live, .sects, .latches, .chans, .loader, .mram, .stats, .dev, .perf, .bwAcc, .trees, .allocs, .circs, .grps, .fwd, .cache, .updates,
      .heldUpdates, .lastSeq, .seqLocks, .touchSent, .keys, .loadedAt, .oldBind, .switches, .frags, .queues, .qstat, .felt, .drain, .inbox,
      .laneOut, .cellPos, .credit, .lanes, .owed, .rxPart, .rxReady, .ceWaiting, .uses, .offers, .ageAt, .roots])
  | .txDarkAtShutdown .. => (some [TREE_OPT_STATUS.TX_STATE_FIFTY], [.sets, .trees, .outbox])
  | .laserPark .. => (some [TREE_OPT_STATUS.TX_STATE_FIFTY], [])
  | .txCalibration .. => (
    some [IC_GROUP_STATUS.COUNT, IC_SRC.ENABLE, TREE_OPT_STATUS.TX_STATE_FIFTY, TREE_OPT_EVENTS.TX_LOL_COUNT, TREE_OPT_TX.POWER],
    [.trees])
  | .laserAgeingCheck .. => (some [IC_GROUP_STATUS.COUNT, IC_SRC.ENABLE, TREE_OPT_STATUS.TX_STATE_FIFTY, TREE_OPT_TX.POWER], [])
  | .txMuteSet .. => (
    some [IC_GROUP_STATUS.COUNT, IC_SRC.ENABLE, TREE_OPT_CTRL.TX_MUTE, TREE_OPT_STATUS.TX_STATE_FIFTY, TREE_DEF_STATUS.LOS_FIFTY,
      TREE_DEF_TERM.LOB, CIRC_DEF.DEFECT, CIRC_GROUP_STATUS.DEFECT],
    [])
  | .txMuteClear .. => (
    some [IC_GROUP_STATUS.COUNT, IC_SRC.ENABLE, TREE_OPT_CTRL.TX_MUTE, TREE_OPT_STATUS.TX_STATE_FIFTY, TREE_DEF_STATUS.LOS_FIFTY,
      TREE_DEF_TERM.LOB, CIRC_DEF.DEFECT, CIRC_GROUP_STATUS.DEFECT],
    [.trees])
  | .txLol .. => (some [IC_GROUP_STATUS.COUNT, IC_SRC.ENABLE, TREE_OPT_STATUS.TX_STATE_FIFTY, TREE_OPT_EVENTS.TX_LOL_COUNT], [.sets])
  | .txRelock .. => (some [TREE_OPT_STATUS.TX_STATE_FIFTY], [.sets])
  | .contextSwap .. => (some [IC_GROUP_STATUS.COUNT, IC_SRC.ENABLE, TREE_OPT_STATUS.TX_STATE_FIFTY, TREE_OPT_DET.LOS_COUNT], [.live, .sets])
  | .burstReceive .. => (
    some [PEER_CMD.OP, PEER_TREE.PROTECTED, SEG_GOV_STATUS.VCORE_MV, IC_GROUP_STATUS.COUNT, IC_SRC.ENABLE, TREE_OPT_DET.LOS_COUNT,
      TREE_FRM_STATUS.MISDIRECT, TREE_RNG_STATUS.RES_RMS, TREE_RX_TERM.TH_LOW, TREE_DEF_TERM.LOB, TREE_RNG_TERM.STATE, GRANT_RESV_STATUS.ACCEPT,
      CIRC_DEF.DEFECT, CIRC_GROUP_STATUS.DEFECT, CIPH_STATUS.KEY_STARVED, CIPH_SEP_LAST.CHECK, ALLOC.INFLIGHT, KEYSLOT.TAG_FAIL],
    [.live, .pair, .bwAcc, .sets, .trees, .terms, .allocs, .resv, .circs, .xgemIndex, .frags, .inbox, .lanes, .uses, .outbox])
  | .upstreamFrameEnd .. => (
    some [IC_GROUP_STATUS.COUNT, IC_SRC.ENABLE, TREE_OPT_STATUS.TX_STATE_FIFTY, TREE_OPT_DET.LOS_COUNT, TREE_DEF_STATUS.LOS_FIFTY,
      TREE_RNG_STATUS.RES_RMS, TREE_DEF_TERM.LOB, CIRC_DEF.DEFECT, CIRC_GROUP_STATUS.DEFECT, FELT_STATUS.REGION_CELLS, FELT_PORT_STATUS.STATE,
      FELT_DOMAIN.QUOTA, CIPH_STATUS.KEY_STARVED, CIPH_SEP_LAST.CHECK, CIRC.SEQ_TX, CIRC.PKT_BITS],
    [.live, .stats, .dev, .pair, .bwAcc, .sets, .circs, .xgemIndex, .felt, .drain, .laneOut, .lanes, .saidAt, .uses, .outbox])
  | .rxLol .. => (
    some [IC_GROUP_STATUS.COUNT, IC_SRC.ENABLE, TREE_OPT_STATUS.TX_STATE_FIFTY, TREE_OPT_DET.LOS_COUNT, TREE_DEF_STATUS.LOS_FIFTY,
      TREE_DEF_TERM.LOB, CIRC_DEF.DEFECT, CIRC_GROUP_STATUS.DEFECT],
    [.sets])
  | .rxLolClear .. => (
    some [IC_GROUP_STATUS.COUNT, IC_SRC.ENABLE, TREE_OPT_STATUS.TX_STATE_FIFTY, TREE_DEF_STATUS.LOS_FIFTY, TREE_DEF_TERM.LOB, CIRC_DEF.DEFECT,
      CIRC_GROUP_STATUS.DEFECT],
    [.sets])
  | .rxTermClear .. => (some [TREE_RX_TERM.TH_LOW], [])
  | .errorInject .. => (some [TREE_INJ_CTRL.ENABLE], [.sets, .trees, .uses, .outbox])
  | .oneShotInject .. => (some [TREE_INJ_CTRL.ENABLE], [.sets, .trees, .uses, .outbox])
  | .patternCheckerLock .. => (some [TREE_PAT_STATUS.CHK_LOCK, TREE_PAT_BITS.BITS, FAB_PAT_STATUS.CHK_LOCK], [.trees, .chkSeen])
  | .optTxRefresh .. => (some [TREE_OPT_TX.POWER], [])
  | .quietWindowOpen .. => (some [TREE_RNG_STATUS.RES_RMS], [.live, .pair, .sets, .resv, .lanes, .outbox])
  | .quietForce .. => (some [], [.pair, .sets, .resv, .lanes, .outbox])
  | .serialNumberFound .. => (
    some [IC_GROUP_STATUS.COUNT, IC_SRC.ENABLE, TREE_RNG_STATUS.RES_RMS, TREE_DEF_TERM.LOB, TREE_RNG_TERM.STATE, TREE_RNG_SN.SERIAL,
      CIRC_DEF.DEFECT, CIRC_GROUP_STATUS.DEFECT],
    [.live, .pair, .sets, .terms, .lanes, .outbox])
  | .rangingGrantResult .. => (
    some [IC_GROUP_STATUS.COUNT, IC_SRC.ENABLE, TREE_DEF_TERM.LOB, TREE_RNG_TERM.STATE, TREE_RNG_SN.SERIAL, GRANT_RESV_STATUS.ACCEPT,
      CIRC_DEF.DEFECT, CIRC_GROUP_STATUS.DEFECT],
    [.pair, .sets, .terms, .resv, .lanes, .outbox])
  | .chiffonParams .. => (some [], [.pair, .sets, .trees, .lanes, .outbox])
  | .signatureDetection .. => (
    some [IC_GROUP_STATUS.COUNT, IC_SRC.ENABLE, TREE_RNG_STATUS.RES_RMS, TREE_RNG_DETECT.VALID, TREE_RNG_TERM.STATE],
    [.live, .pair, .trees, .terms, .lanes, .outbox])
  | .chiffonInvite .. => (some [TREE_RNG_TERM.STATE, GRANT_RESV_STATUS.ACCEPT], [.live, .pair, .sets, .terms, .resv, .lanes, .outbox])
  | .microWindowResult .. => (
    some [IC_GROUP_STATUS.COUNT, IC_SRC.ENABLE, TREE_RNG_STATUS.RES_RMS, TREE_RNG_DETECT.VALID, TREE_DEF_TERM.LOB, TREE_RNG_TERM.STATE,
      TREE_RNG_SN.SERIAL, CIRC_DEF.DEFECT, CIRC_GROUP_STATUS.DEFECT],
    [.live, .pair, .sets, .terms, .lanes, .outbox])
  | .admitWaitExpiry .. => (
    some [IC_GROUP_STATUS.COUNT, IC_SRC.ENABLE, TREE_DEF_TERM.LOB, TREE_RNG_TERM.STATE, TREE_RNG_SN.SERIAL, CIRC_DEF.DEFECT,
      CIRC_GROUP_STATUS.DEFECT],
    [.pair, .sets, .terms, .lanes, .outbox])
  | .chiffonHold .. => (some [], [.pair, .sets, .terms, .lanes, .outbox])
  | .assignOnuId .. => (some [GRANT_RESV_STATUS.ACCEPT], [.pair, .sets, .terms, .resv, .lanes, .outbox])
  | .assignAllocId .. => (some [], [.pair, .sets, .terms, .allocs, .lanes, .outbox])
  | .stepMissed .. => (
    some [IC_GROUP_STATUS.COUNT, IC_SRC.ENABLE, TREE_RNG_STATUS.RES_RMS, TREE_RNG_DETECT.VALID, TREE_DEF_TERM.LOB, TREE_RNG_TERM.STATE,
      TREE_RNG_SN.SERIAL, CIRC_DEF.DEFECT, CIRC_GROUP_STATUS.DEFECT],
    [.live, .pair, .sets, .trees, .terms, .allocs, .lanes, .outbox])
  | .driftCorrection .. => (some [], [.pair, .sets, .terms, .lanes, .outbox])
  | .terminalLost .. => (
    some [IC_GROUP_STATUS.COUNT, IC_SRC.ENABLE, TREE_DEF_TERM.LOB, TREE_RNG_TERM.STATE, CIRC_DEF.DEFECT, CIRC_GROUP_STATUS.DEFECT],
    [.pair, .sets, .terms, .allocs, .lanes, .outbox])
  | .admitTerminal .. => (some [TREE_RNG_STATUS.RES_RMS, TREE_RNG_TERM.STATE], [.pair, .terms, .lanes, .outbox])
  | .deny .. => (
    some [IC_GROUP_STATUS.COUNT, IC_SRC.ENABLE, TREE_RNG_STATUS.RES_RMS, TREE_DEF_TERM.LOB, TREE_RNG_TERM.STATE, TREE_RNG_SN.SERIAL,
      CIRC_DEF.DEFECT, CIRC_GROUP_STATUS.DEFECT],
    [.pair, .sets, .terms, .lanes, .outbox])
  | .rerange .. => (
    some [IC_GROUP_STATUS.COUNT, IC_SRC.ENABLE, TREE_RNG_STATUS.RES_RMS, TREE_DEF_TERM.LOB, TREE_RNG_TERM.STATE, GRANT_RESV_STATUS.ACCEPT,
      CIRC_DEF.DEFECT, CIRC_GROUP_STATUS.DEFECT],
    [.pair, .sets, .terms, .resv, .lanes, .outbox])
  | .deactivate .. => (
    some [IC_GROUP_STATUS.COUNT, IC_SRC.ENABLE, TREE_RNG_STATUS.RES_RMS, TREE_RNG_DETECT.VALID, TREE_DEF_TERM.LOB, TREE_RNG_TERM.STATE,
      TREE_RNG_SN.SERIAL, CIRC_DEF.DEFECT, CIRC_GROUP_STATUS.DEFECT],
    [.pair, .sets, .terms, .allocs, .lanes, .outbox])
  | .free .. => (
    some [IC_GROUP_STATUS.COUNT, IC_SRC.ENABLE, TREE_RNG_STATUS.RES_RMS, TREE_DEF_TERM.LOB, TREE_RNG_TERM.STATE, TREE_RNG_SN.SERIAL,
      CIRC_DEF.DEFECT, CIRC_GROUP_STATUS.DEFECT],
    [.pair, .terms, .lanes, .outbox])
  | .mapBuild .. => (
    some [IC_GROUP_STATUS.COUNT, IC_SRC.ENABLE, GRANT_BUILD_STATUS.MAX_BUILD_NS, GRANT_RESV_STATUS.ACCEPT, GRANT_TREE_STATUS.STRUCTS_FIFTY,
      ALLOC.ALLOC_ID, ALLOC.PEAK, ALLOC.PIN, ALLOC.CREDIT, ALLOC.REPORT_FRAME, ALLOC.INFLIGHT, ALLOC.LAST_GRANT_FRAME],
    [.live, .dev, .pair, .sets, .terms, .allocs, .resv, .rot, .lanes, .outbox])
  | .statusReportDecode .. => (some [ALLOC.CREDIT, ALLOC.REPORT_FRAME, ALLOC.INFLIGHT], [.allocs])
  | .contextRingWrite .. => (some [], [.sets])
  | .grantAccRead .. => (some [GRANT_ACC_CTRL.OP, GRANT_ACC_DATA.DATA], [])
  | .grantAccWrite .. => (
    some [IC_GROUP_STATUS.COUNT, IC_SRC.ENABLE, GRANT_ACC_CTRL.OP, GRANT_TREE_STATUS.STRUCTS_FIFTY, ALLOC.ALLOC_ID, ALLOC.PEAK, ALLOC.PIN,
      ALLOC.CREDIT, ALLOC.REPORT_FRAME, ALLOC.INFLIGHT, ALLOC.LAST_GRANT_FRAME, GATEHDR.BASE_S, GATEHDR.BASE_NS, GATEHDR.LENGTH, GATEHDR.CHANGE_NS,
      GATEHDR.ADMIN_LENGTH, GATEOP.GATES, GATEADM.GATES],
    [.allocs, .pendSince])
  | .writeReset .. => (
    some [IC_GROUP_STATUS.COUNT, IC_SRC.ENABLE, GRANT_ACC_CTRL.OP, GRANT_TREE_STATUS.STRUCTS_FIFTY, ALLOC.ALLOC_ID, ALLOC.PEAK, ALLOC.PIN,
      ALLOC.CREDIT, ALLOC.REPORT_FRAME, ALLOC.INFLIGHT, ALLOC.LAST_GRANT_FRAME],
    [.allocs])
  | .gateBankSwap .. => (
    some [TM_BUF_STATUS.BUF_CELLS, TM_DOMAIN.BUF_QUOTA, GATEHDR.LENGTH, GATEHDR.ADMIN_LENGTH, GATEOP.GATES, GATEADM.GATES, QUEUE.CELLS, QUEUE.TAG,
      NODE.TAG],
    [.live, .stats, .dev, .queues, .qstat, .netSec, .netFrac, .offers])
  | .resvMicroWindow .. => (some [GRANT_RESV_STATUS.ACCEPT], [.resv])
  | .resvRangingGrant .. => (some [GRANT_RESV_STATUS.ACCEPT], [.resv])
  | .resvQuietWindow .. => (some [GRANT_RESV_STATUS.ACCEPT], [.resv])
  | .containerBuild .. => (
    some [IC_GROUP_STATUS.COUNT, IC_SRC.ENABLE, CIRC_DEF.DEFECT, CIRC_GROUP_STATUS.DEFECT, CIRC.FILL, CIRC.SEQ_TX],
    [.live, .sets, .circs])
  | .containerMissing .. => (some [], [.live, .sets])
  | .cePacketReceive .. => (
    some [IC_GROUP_STATUS.COUNT, IC_SRC.ENABLE, CIRC_DEF.DEFECT, CIRC_GROUP_STATUS.DEFECT, CIPH_STATUS.KEY_STARVED, CIPH_SEP_LAST.CHECK,
      CIRC.FILL, CIRC.SEQ_TX],
    [.live, .circs, .ceWaiting])
  | .containerReceive .. => (
    some [IC_GROUP_STATUS.COUNT, IC_SRC.ENABLE, CIRC_DEF.DEFECT, CIRC_GROUP_STATUS.DEFECT, FELT_STATUS.REGION_CELLS, FELT_PORT_STATUS.STATE,
      FELT_DOMAIN.QUOTA, CIPH_STATUS.KEY_STARVED, CIPH_SEP_LAST.CHECK, CIRC.SEQ_TX, CIRC.PKT_BITS, CGRP.GSEQ_RELEASE],
    [.live, .stats, .dev, .bwAcc, .circs, .grps, .felt, .drain, .laneOut, .saidAt, .uses])
  | .groupRelease .. => (
    some [IC_GROUP_STATUS.COUNT, IC_SRC.ENABLE, CIRC_GROUP_STATUS.DEFECT, FELT_STATUS.REGION_CELLS, FELT_PORT_STATUS.STATE, FELT_DOMAIN.QUOTA,
      CIPH_STATUS.KEY_STARVED, CIPH_SEP_LAST.CHECK, CIRC.SEQ_TX, CIRC.PKT_BITS, CGRP.GSEQ_RELEASE],
    [.live, .stats, .dev, .bwAcc, .circs, .grps, .felt, .drain, .laneOut, .saidAt, .uses])
  | .circAccRead .. => (some [CIRC_ACC_CTRL.OP, CIRC_ACC_DATA.DATA], [])
  | .circAccWrite .. => (
    some [CIRC_ACC_CTRL.OP, CIRC.LINE_PORT, CIRC.LABEL, CIRC.JITTER_FRAMES, CIRC.FABRIC_LANE, CIRC.FILL, CIRC.SEQ_TX, CIRC.PKT_BITS, CGRP.MEMBERS,
      CGRP.MEMBER_CIRCUIT3, CGRP.MEMBER_CIRCUIT7, CGRP.GSEQ_RELEASE],
    [.circs, .drain])
  | .circuitEnable .. => (
    some [IC_GROUP_STATUS.COUNT, IC_SRC.ENABLE, GRANT_TREE_STATUS.STRUCTS_FIFTY, CIRC_ACC_CTRL.OP, CIRC_DEF.DEFECT, ALLOC.ALLOC_ID, ALLOC.PEAK,
      ALLOC.PIN, ALLOC.CREDIT, ALLOC.REPORT_FRAME, ALLOC.INFLIGHT, ALLOC.LAST_GRANT_FRAME, CIRC.LINE_PORT, CIRC.LABEL, CIRC.JITTER_FRAMES,
      CIRC.FABRIC_LANE, CIRC.FILL, CIRC.SEQ_TX, CIRC.PKT_BITS],
    [.allocs, .circs, .updates, .heldUpdates, .lastSeq, .seqLocks])
  | .circuitDisable .. => (
    some [IC_GROUP_STATUS.COUNT, IC_SRC.ENABLE, GRANT_TREE_STATUS.STRUCTS_FIFTY, CIRC_ACC_CTRL.OP, CIRC_DEF.DEFECT, CIRC_GROUP_STATUS.DEFECT,
      ALLOC.ALLOC_ID, ALLOC.PEAK, ALLOC.PIN, ALLOC.CREDIT, ALLOC.REPORT_FRAME, ALLOC.INFLIGHT, ALLOC.LAST_GRANT_FRAME, CIRC.FILL, CIRC.SEQ_TX],
    [.allocs, .circs, .updates, .heldUpdates, .lastSeq, .seqLocks, .drain])
  | .fabricFrameReceive .. => (
    some [IC_GROUP_STATUS.COUNT, IC_SRC.ENABLE, CIRC_UNKNOWN.UNKNOWN_LABEL, PARSE_LAST_MAL.REASON, FWD_STATUS.ENTRIES, CIPH_STATUS.KEY_STARVED,
      CIPH_SEP_LAST.CHECK, MSA.PN, MSA.TAG_FAIL, MSA.REPLAY],
    [.live, .slots, .bwAcc, .fwd, .cache, .notes, .inbox, .rxReady, .ceWaiting])
  | .frameAdmit .. => (
    some [IC_GROUP_STATUS.COUNT, IC_SRC.ENABLE, PARSE_LAST_MAL.REASON, FWD_STATUS.ENTRIES, FWD_RING_CTRL.SIZE_EXP, TM_BUF_STATUS.BUF_CELLS,
      TM_DOMAIN.BUF_QUOTA, CIPH_STATUS.KEY_STARVED, CIPH_SEP_LAST.CHECK, METER.CBS, METER.DOMAIN, METER.TP_TOKENS, QUEUE.CELLS, QUEUE.TAG, NODE.TAG],
    [.live, .slots, .stats, .dev, .fwd, .cache, .notes, .updates, .heldUpdates, .lastSeq, .seqLocks, .touchSent, .quotaSaid, .ringLost, .queues,
      .qstat, .inbox, .elim, .saidAt, .uses, .outbox, .offers])
  | .queueRelease .. => (
    some [IC_GROUP_STATUS.COUNT, IC_SRC.ENABLE, TM_BUF_STATUS.BUF_CELLS, TM_DOMAIN.BUF_QUOTA, FELT_STATUS.REGION_CELLS, FELT_PORT_STATUS.STATE,
      FELT_DOMAIN.QUOTA, CIPH_STATUS.KEY_STARVED, CIPH_SEP_LAST.CHECK, QUEUE.CELLS, QUEUE.TOKENS, QUEUE.TAG, NODE.TOKENS, NODE.TAG],
    [.live, .stats, .dev, .bwAcc, .sets, .xgemIndex, .queues, .qstat, .felt, .drain, .laneOut, .saidAt, .uses, .outbox, .offers])
  | .fabricFrameTransmit .. => (
    some [IC_GROUP_STATUS.COUNT, IC_SRC.ENABLE, CIPH_STATUS.KEY_STARVED, CIPH_SEP_LAST.CHECK, FAB_TS_LO.TIME, FAB_TS_HI.SECONDS, MSC.VALID,
      MSA.AN, MSA.PN],
    [.live, .mram, .bwAcc, .laneOut, .cellPos, .credit, .lanes, .stamps, .outbox])
  | .feltRelease .. => (
    some [FELT_STATUS.REGION_CELLS, FELT_PORT_STATUS.STATE, FELT_DOMAIN.QUOTA],
    [.live, .stats, .dev, .bwAcc, .felt, .drain, .laneOut])
  | .portHoldCause .. => (some [IC_GROUP_STATUS.COUNT, IC_SRC.ENABLE, FELT_PORT_STATUS.STATE], [])
  | .portResume .. => (some [IC_GROUP_STATUS.COUNT, IC_SRC.ENABLE, FELT_PORT_STATUS.STATE], [.drain])
  | .portAvailable .. => (some [IC_GROUP_STATUS.COUNT, IC_SRC.ENABLE, FELT_PORT_STATUS.STATE], [])
  | .tmSampleWindow .. => (some [IC_GROUP_STATUS.COUNT, IC_SRC.ENABLE, TM_SAMPLE_CTRL.WINDOW_MS], [.dev, .qstat])
  | .tmAccRead .. => (some [TM_ACC_CTRL.OP, TM_ACC_DATA.DATA], [])
  | .tmAccWrite .. => (
    some [TM_ACC_CTRL.OP, QUEUE.DOMAIN, QUEUE.ENABLE, QUEUE.MAX_CELLS, QUEUE.SHAPE_BURST, QUEUE.CELLS, QUEUE.TOKENS, QUEUE.TAG, NODE.PARENT,
      NODE.ENABLE, NODE.SHAPE_BURST, NODE.LEAD_MIN_NS, NODE.TOKENS, NODE.TAG],
    [])
  | .classRuleRead .. => (some [CLASS_ACC_CTRL.OP, CLASS_ACC_DATA.DATA], [])
  | .ternaryWrite .. => (some [CLASS_ACC_CTRL.OP], [.tern])
  | .exactInsert .. => (some [CLASS_ACC_CTRL.OP, CLASS_STATUS.EXACT_USED], [.exact])
  | .exactReplace .. => (some [CLASS_ACC_CTRL.OP], [.exact])
  | .exactDelete .. => (some [CLASS_ACC_CTRL.OP, CLASS_STATUS.EXACT_USED], [.exact])
  | .meterRead .. => (some [CLASS_METER_ACC_CTRL.OP, CLASS_METER_DATA.DATA], [])
  | .meterWrite .. => (some [CLASS_METER_ACC_CTRL.OP, METER.CIR, METER.CBS, METER.DOMAIN, METER.TP_TOKENS], [])
  | .tableInsert .. => (
    some [HOST_DMA_PTR.TAIL, HOST_DMA_STATUS.ERROR, HOST_MSIX_PBA.BITS],
    [.live, .dma, .updates, .heldUpdates, .lastSeq, .seqLocks, .outbox])
  | .tableReplace .. => (
    some [HOST_DMA_PTR.TAIL, HOST_DMA_STATUS.ERROR, HOST_MSIX_PBA.BITS],
    [.live, .dma, .updates, .heldUpdates, .lastSeq, .seqLocks, .outbox])
  | .tableDelete .. => (
    some [HOST_DMA_PTR.TAIL, HOST_DMA_STATUS.ERROR, HOST_MSIX_PBA.BITS],
    [.live, .dma, .updates, .heldUpdates, .lastSeq, .seqLocks, .outbox])
  | .tableLock .. => (
    some [HOST_DMA_PTR.TAIL, HOST_DMA_STATUS.ERROR, HOST_MSIX_PBA.BITS],
    [.live, .dma, .updates, .heldUpdates, .lastSeq, .seqLocks, .outbox])
  | .tableUnlock .. => (
    some [HOST_DMA_PTR.TAIL, HOST_DMA_STATUS.ERROR, HOST_MSIX_PBA.BITS],
    [.live, .dma, .updates, .heldUpdates, .lastSeq, .seqLocks, .outbox])
  | .writeSlot .. => (
    some [HOST_DMA_PTR.TAIL, HOST_DMA_STATUS.ERROR, HOST_MSIX_PBA.BITS],
    [.live, .dma, .updates, .heldUpdates, .lastSeq, .seqLocks, .outbox])
  | .ageBucket => (some [], [.updates, .heldUpdates, .lastSeq, .seqLocks, .ageAt])
  | .lockExpiry .. => (some [], [.live, .updates, .heldUpdates, .lastSeq, .seqLocks])
  | .keyLoad .. => (
    some [SEC_FW_EVENT.LAST_OFFSET, IC_GROUP_STATUS.COUNT, IC_SRC.ENABLE, CIPH_STATUS.KEY_STARVED, CIPH_KEY_CMD.OP, CIPH_TW_CMD.OP, KEYSLOT.SUITE,
      MSC.VALID, MSA.AN, MSA.PN, MSA.MARK, MSA.KI],
    [.live, .mram, .keys, .loadedAt])
  | .keyErase .. => (some [CIPH_KEY_CMD.OP, CIPH_TW_CMD.OP, KEYSLOT.SUITE, MSA.AN], [.keys])
  | .keySwitch .. => (some [CIPH_KEY_CMD.OP, CIPH_TW_CMD.OP], [.switches])
  | .keyRead .. => (some [CIPH_KEY_CMD.OP, CIPH_KEY_DATA.DATA, CIPH_TW_CMD.OP, CIPH_TW_DATA.DATA, KEYSLOT.FIRST_FRAME], [])
  | .kekLoad .. => (some [SEC_FW_EVENT.LAST_OFFSET, IC_GROUP_STATUS.COUNT, IC_SRC.ENABLE, CIPH_KEY_CMD.OP, CIPH_TW_CMD.OP], [.keys])
  | .switchCheck => (
    some [IC_GROUP_STATUS.COUNT, IC_SRC.ENABLE, TWEED_MBOX_STATE.SLOT, TWEED_MBOX.DATA, CIPH_STATUS.KEY_STARVED, CIPH_KEY_CMD.OP, CIPH_TW_CMD.OP],
    [.live, .rotations, .switches, .uses])
  | .keyExpiry .. => (
    some [IC_GROUP_STATUS.COUNT, IC_SRC.ENABLE, CIPH_STATUS.KEY_STARVED, CIPH_LP_BIND.KEY_PAIR, KEYSLOT.SUITE, KEYSLOT.FIRST_FRAME],
    [.live, .switches])
  | .starvedResume .. => (some [CIPH_LP_BIND.KEY_PAIR, KEYSLOT.SUITE, KEYSLOT.FIRST_FRAME], [])
  | .lpBindWrite .. => (some [SEC_FW_EVENT.LAST_OFFSET, IC_GROUP_STATUS.COUNT, IC_SRC.ENABLE, CIPH_LP_BIND.KEY_PAIR], [.oldBind])
  | .msecRead .. => (some [CIPH_MSEC_ACC_CTRL.OP, CIPH_MSEC_DATA.DATA], [])
  | .msecChannelWrite .. => (some [CIPH_MSEC_ACC_CTRL.OP, MSC.SCI, MSC.VALID], [])
  | .arm .. => (some [CIPH_MSEC_ACC_CTRL.OP, MSC.VALID], [])
  | .refreshInterval .. => (
    some [IC_GROUP_STATUS.COUNT, IC_SRC.ENABLE, MEM_STATUS.RETIRED, MEM_SCRUB.PASS_AGE_S, MEM_CH_STATUS.STATE, MEM_THROTTLE.THROTTLE_COUNT],
    [.live, .channels, .saidAt])
  | .stackTempCrossing .. => (some [IC_GROUP_STATUS.COUNT, IC_SRC.ENABLE, MEM_STATUS.RETIRED, MEM_CH_STATUS.STATE], [.live])
  | .stackThermalResponse .. => (
    none,
    [.live, .sects, .latches, .chans, .loader, .mram, .stats, .dev, .perf, .channels, .dieStacks, .bwAcc, .sets, .trees, .terms, .allocs, .resv,
      .rot, .circs, .grps, .fwd, .cache, .touchSent, .keys, .loadedAt, .oldBind, .switches, .frags, .queues, .qstat, .felt, .drain, .inbox,
      .laneOut, .cellPos, .credit, .lanes, .owed, .rxPart, .rxReady, .ceWaiting, .offers, .ageAt, .roots])
  | .stackRestart .. => (
    some [PKG_DIE_CTRL.ENABLE, DMK_TREE_STATE.STATE, TIME_STATUS.VALID, PEER_STATUS.ROLE, HOST_DMA_PTR.TAIL, HOST_DMA_STATUS.ERROR,
      HOST_MSIX_PBA.BITS, SEG_ORDER_APPLIED.SEQ, IC_GROUP_STATUS.COUNT, IC_SRC.ENABLE, TREE_DEF_STATUS.LOS_FIFTY, TREE_DEF_TERM.LOB,
      CIRC_DEF.DEFECT, CIRC_GROUP_STATUS.DEFECT, FWD_CTRL.AGE_PERIOD_S, FWD_DOMAIN.QUOTA, FELT_PORT_STATUS.STATE, MEM_STATUS.RETIRED,
      MEM_CH_STATUS.STATE, FAB_LANE_STATUS.STATE, FAB_DL_STATUS.STATE],
    [.live, .latches, .chans, .dieStacks, .dma, .trees, .fwd, .updates, .dieLocks, .labels, .cellPos, .credit, .lanes, .owed, .rxPart, .outbox])
  | .rowDisturb .. => (some [IC_GROUP_STATUS.COUNT, IC_SRC.ENABLE, MEM_STATUS.RETIRED, MEM_THROTTLE.THROTTLE_COUNT], [.live, .channels, .saidAt])
  | .throttleEnd .. => (some [MEM_THROTTLE.THROTTLE_COUNT], [.channels])
  | .eccCorrect .. => (
    some [IC_GROUP_STATUS.COUNT, IC_SRC.ENABLE, FWD_STATUS.ENTRIES, MEM_ECC_LAST.CHANNEL, MEM_CH_STATUS.STATE],
    [.live, .slots, .dev, .channels, .grps, .fwd, .notes, .queues, .felt])
  | .patrolScrub .. => (
    some [IC_GROUP_STATUS.COUNT, IC_SRC.ENABLE, MEM_STATUS.RETIRED, MEM_SCRUB.PASS_AGE_S, MEM_CH_STATUS.STATE],
    [.live, .channels])
  | .channelRetune .. => (some [IC_GROUP_STATUS.COUNT, IC_SRC.ENABLE, MEM_STATUS.RETIRED, MEM_CH_STATUS.STATE], [.live, .channels])
  | .channelRetrain .. => (
    some [IC_GROUP_STATUS.COUNT, IC_SRC.ENABLE, MEM_STATUS.RETIRED, MEM_CMD.OP, MEM_ECC_LAST.CHANNEL, MEM_CH_STATUS.STATE],
    [.live, .dev, .channels, .grps, .fwd, .queues, .felt])
  | .channelRetire .. => (
    some [IC_GROUP_STATUS.COUNT, IC_SRC.ENABLE, MEM_STATUS.RETIRED, MEM_ECC_LAST.CHANNEL, MEM_CH_STATUS.STATE],
    [.live, .dev, .channels, .grps, .fwd, .queues, .felt])
  | .memRetrain .. => (some [MEM_STATUS.RETIRED, MEM_CMD.OP, MEM_CH_STATUS.STATE], [.channels])
  | .memRetire .. => (
    some [IC_GROUP_STATUS.COUNT, IC_SRC.ENABLE, MEM_STATUS.RETIRED, MEM_CMD.OP, MEM_ECC_LAST.CHANNEL, MEM_CH_STATUS.STATE],
    [.live, .dev, .channels, .grps, .fwd, .queues, .felt])
  | .memRestart .. => (
    some [PKG_DIE_CTRL.ENABLE, DMK_TREE_STATE.STATE, TIME_STATUS.VALID, PEER_STATUS.ROLE, HOST_DMA_PTR.TAIL, HOST_DMA_STATUS.ERROR,
      HOST_MSIX_PBA.BITS, SEG_ORDER_APPLIED.SEQ, IC_GROUP_STATUS.COUNT, IC_SRC.ENABLE, TREE_DEF_STATUS.LOS_FIFTY, TREE_DEF_TERM.LOB,
      CIRC_DEF.DEFECT, CIRC_GROUP_STATUS.DEFECT, FWD_CTRL.AGE_PERIOD_S, FWD_DOMAIN.QUOTA, FELT_PORT_STATUS.STATE, MEM_STATUS.RETIRED, MEM_CMD.OP,
      MEM_CH_STATUS.STATE, FAB_LANE_STATUS.STATE, FAB_DL_STATUS.STATE],
    [.live, .latches, .chans, .dieStacks, .dma, .trees, .fwd, .updates, .dieLocks, .labels, .cellPos, .credit, .lanes, .owed, .rxPart, .outbox])
  | .laneOn .. => (
    some [PKG_DIE_CTRL.ENABLE, DMK_TREE_STATE.STATE, TIME_STATUS.VALID, PEER_STATUS.ROLE, IC_GROUP_STATUS.COUNT, IC_SRC.ENABLE,
      FELT_PORT_STATUS.STATE, FAB_LANE_STATUS.STATE, FAB_DL_STATUS.STATE],
    [.live, .latches, .chans, .trees, .cellPos, .credit, .lanes, .owed, .rxPart])
  | .laneFail .. => (
    some [TIME_STATUS.VALID, PEER_STATUS.ROLE, IC_GROUP_STATUS.COUNT, IC_SRC.ENABLE, FELT_PORT_STATUS.STATE, FAB_LANE_STATUS.STATE],
    [.live, .cellPos, .credit, .lanes, .owed, .rxPart])
  | .commaLock .. => (
    some [TIME_STATUS.VALID, PEER_STATUS.ROLE, IC_GROUP_STATUS.COUNT, IC_SRC.ENABLE, FELT_PORT_STATUS.STATE, FAB_LANE_STATUS.STATE],
    [.live, .cellPos, .credit, .lanes, .owed, .rxPart, .outbox])
  | .kolkanCellReceive .. => (some [], [.live, .owed, .rxPart, .rxReady, .oam])
  | .controlBlockBad .. => (some [], [.live, .rxPart])
  | .flow .. => (some [], [.credit, .lanes])
  | .abort .. => (some [], [.live, .rxPart])
  | .creditStall .. => (some [], [.live, .lanes])
  | .status .. => (some [IC_GROUP_STATUS.COUNT, IC_SRC.ENABLE, FELT_PORT_STATUS.STATE, FAB_LANE_STATUS.STATE], [.lanes])
  | .statusTimeout .. => (some [IC_GROUP_STATUS.COUNT, IC_SRC.ENABLE, FELT_PORT_STATUS.STATE, FAB_LANE_STATUS.STATE], [.lanes])
  | .statusSend .. => (some [], [.lanes, .outbox])
  | .cap .. => (
    some [PKG_DIE_CTRL.ENABLE, DMK_TREE_STATE.STATE, TIME_STATUS.VALID, PEER_STATUS.ROLE, IC_GROUP_STATUS.COUNT, IC_SRC.ENABLE,
      FELT_PORT_STATUS.STATE, FAB_LANE_STATUS.STATE, FAB_DL_STATUS.STATE],
    [.live, .latches, .chans, .trees, .cellPos, .credit, .lanes, .owed, .rxPart, .outbox])
  | .time .. => (
    some [PKG_DIE_CTRL.ENABLE, DMK_TREE_STATE.STATE, TIME_CTRL.SOURCE, TIME_STATUS.VALID, PEER_STATUS.ROLE, IC_GROUP_STATUS.COUNT, IC_SRC.ENABLE,
      FELT_PORT_STATUS.STATE, FAB_LANE_STATUS.STATE, FAB_DL_STATUS.STATE],
    [.live, .latches, .chans, .clock, .sets, .trees, .cellPos, .credit, .lanes, .owed, .rxPart, .netSec, .netFrac, .uses, .outbox])
  | .timeEcho .. => (some [], [.lanes, .netSec, .netFrac])
  | .timeSend .. => (some [], [.lanes, .netSec, .netFrac, .outbox])
  | .flitReplay .. => (some [IC_GROUP_STATUS.COUNT, IC_SRC.ENABLE, FELT_PORT_STATUS.STATE, FAB_DL_STATUS.STATE], [.live, .replays])
  | .dieLinkIdle .. => (some [FAB_DL_STATUS.STATE], [.live])
  | .dieLinkWake .. => (some [FAB_DL_STATUS.STATE], [])
  | .blindFallback .. => (some [FAB_DL_STATUS.STATE], [.live])
  | .dieLinkOn .. => (
    some [PKG_DIE_CTRL.ENABLE, DMK_TREE_STATE.STATE, TIME_STATUS.VALID, PEER_STATUS.ROLE, IC_GROUP_STATUS.COUNT, IC_SRC.ENABLE,
      FELT_PORT_STATUS.STATE, FAB_LANE_STATUS.STATE, FAB_DL_STATUS.STATE],
    [.live, .latches, .chans, .trees, .cellPos, .credit, .lanes, .owed, .rxPart])
  | .timeMeasurement .. => (
    some [PKG_DIE_CTRL.ENABLE, DMK_TREE_STATE.STATE, TIME_CTRL.SOURCE, TIME_STATUS.VALID, PEER_STATUS.ROLE, IC_GROUP_STATUS.COUNT, IC_SRC.ENABLE,
      FELT_PORT_STATUS.STATE, FAB_LANE_STATUS.STATE, FAB_DL_STATUS.STATE],
    [.live, .latches, .chans, .clock, .sets, .trees, .cellPos, .credit, .lanes, .owed, .rxPart, .netSec, .netFrac, .uses])
  | .sourceLost => (some [TIME_STATUS.VALID, IC_GROUP_STATUS.COUNT, IC_SRC.ENABLE, FAB_LANE_STATUS.STATE], [.clock])
  | .timeStep .. => (
    some [PKG_DIE_CTRL.ENABLE, DMK_TREE_STATE.STATE, SEC_FW_EVENT.LAST_OFFSET, TIME_CTRL.SOURCE, TIME_STATUS.VALID, PEER_STATUS.ROLE,
      IC_GROUP_STATUS.COUNT, IC_SRC.ENABLE, FELT_PORT_STATUS.STATE, FAB_LANE_STATUS.STATE, FAB_DL_STATUS.STATE],
    [.live, .latches, .chans, .clock, .sets, .trees, .cellPos, .credit, .lanes, .owed, .rxPart, .netSec, .netFrac])
  | .stepApply => (
    some [PKG_DIE_CTRL.ENABLE, DMK_TREE_STATE.STATE, TIME_CTRL.SOURCE, TIME_STATUS.VALID, PEER_STATUS.ROLE, IC_GROUP_STATUS.COUNT, IC_SRC.ENABLE,
      FELT_PORT_STATUS.STATE, FAB_LANE_STATUS.STATE, FAB_DL_STATUS.STATE],
    [.live, .latches, .chans, .clock, .sets, .trees, .cellPos, .credit, .lanes, .owed, .rxPart, .netSec, .netFrac])
  | .timeMeasWrite .. => (
    some [PKG_DIE_CTRL.ENABLE, DMK_TREE_STATE.STATE, SEC_FW_EVENT.LAST_OFFSET, TIME_CTRL.SOURCE, TIME_STATUS.VALID, PEER_STATUS.ROLE,
      IC_GROUP_STATUS.COUNT, IC_SRC.ENABLE, FELT_PORT_STATUS.STATE, FAB_LANE_STATUS.STATE, FAB_DL_STATUS.STATE],
    [.live, .latches, .chans, .clock, .sets, .trees, .cellPos, .credit, .lanes, .owed, .rxPart, .netSec, .netFrac, .uses])
  | .ppsEdge .. => (some [], [.clock, .netSec, .netFrac])
  | .todMessage .. => (
    some [PKG_DIE_CTRL.ENABLE, DMK_TREE_STATE.STATE, TIME_CTRL.SOURCE, TIME_STATUS.VALID, PEER_STATUS.ROLE, IC_GROUP_STATUS.COUNT, IC_SRC.ENABLE,
      FELT_PORT_STATUS.STATE, FAB_LANE_STATUS.STATE, FAB_DL_STATUS.STATE],
    [.live, .latches, .chans, .clock, .sets, .trees, .cellPos, .credit, .lanes, .owed, .rxPart, .netSec, .netFrac, .uses])
  | .ppsOut .. => (some [], [.netSec, .netFrac, .outbox])
  | .fabTsPop .. => (some [FAB_TS_LO.TIME, FAB_TS_HI.SECONDS], [.stamps])
  | .claimLive => (some [PEER_STATUS.ROLE, IC_GROUP_STATUS.COUNT, IC_SRC.ENABLE, TREE_OPT_STATUS.TX_STATE_FIFTY], [.pair])
  | .claimAbsent => (some [PEER_STATUS.ROLE, IC_GROUP_STATUS.COUNT, IC_SRC.ENABLE, TREE_OPT_STATUS.TX_STATE_FIFTY], [])
  | .seize .. => (some [PEER_STATUS.ROLE, IC_GROUP_STATUS.COUNT, IC_SRC.ENABLE, ALLOC.CREDIT, ALLOC.INFLIGHT], [.live, .pair, .sets, .allocs])
  | .settleEnd => (
    some [PEER_STATUS.ROLE, PEER_CMD.OP, IC_GROUP_STATUS.COUNT, IC_SRC.ENABLE, TREE_OPT_STATUS.TX_STATE_FIFTY, FELT_STATUS.REGION_CELLS,
      FELT_PORT_STATUS.STATE, FELT_DOMAIN.QUOTA, CIPH_STATUS.KEY_STARVED, CIPH_SEP_LAST.CHECK],
    [.live, .stats, .dev, .pair, .bwAcc, .trees, .circs, .felt, .drain, .laneOut, .saidAt, .uses])
  | .doubleClaim => (some [PEER_STATUS.ROLE, TREE_OPT_STATUS.TX_STATE_FIFTY], [.pair])
  | .heartbeatSend .. => (some [], [.pair, .lanes, .netSec, .netFrac, .outbox])
  | .heartbeat .. => (
    some [PEER_STATUS.ROLE, PEER_CMD.OP, PEER_TIME.TAU, PEER_TREE.PROTECTED, IC_GROUP_STATUS.COUNT, IC_SRC.ENABLE, TREE_OPT_STATUS.TX_STATE_FIFTY,
      FELT_STATUS.REGION_CELLS, FELT_PORT_STATUS.STATE, FELT_DOMAIN.QUOTA, CIPH_STATUS.KEY_STARVED, CIPH_SEP_LAST.CHECK],
    [.live, .stats, .dev, .pair, .bwAcc, .trees, .circs, .felt, .drain, .laneOut, .saidAt, .netSec, .netFrac, .uses])
  | .heartbeatFailure => (some [PEER_STATUS.ROLE], [])
  | .pairHello .. => (some [PEER_STATUS.ROLE, IC_GROUP_STATUS.COUNT, IC_SRC.ENABLE], [.pair, .lanes, .outbox])
  | .pairAccept => (
    some [PEER_STATUS.ROLE, PEER_CMD.OP, PEER_TREE.PROTECTED, IC_GROUP_STATUS.COUNT, IC_SRC.ENABLE, TREE_OPT_STATUS.TX_STATE_FIFTY,
      FELT_STATUS.REGION_CELLS, FELT_PORT_STATUS.STATE, FELT_DOMAIN.QUOTA, CIPH_STATUS.KEY_STARVED, CIPH_SEP_LAST.CHECK],
    [.live, .stats, .dev, .pair, .bwAcc, .trees, .circs, .felt, .drain, .laneOut, .saidAt, .uses])
  | .map .. => (some [ALLOC.CREDIT, ALLOC.INFLIGHT, ALLOC.LAST_GRANT_FRAME], [.live, .pair, .sets, .allocs])
  | .terminal .. => (
    some [IC_GROUP_STATUS.COUNT, IC_SRC.ENABLE, TREE_DEF_TERM.LOB, TREE_RNG_TERM.STATE, TREE_RNG_SN.SERIAL, CIRC_DEF.DEFECT,
      CIRC_GROUP_STATUS.DEFECT],
    [.terms])
  | .circuit .. => (some [CIRC.SEQ_TX, CIRC.PKT_BITS], [.circs])
  | .health .. => (some [PEER_HEALTH_SELF.DATA, PEER_HEALTH_PARTNER.DATA], [.live, .pair, .lanes, .outbox])
  | .autoDegrade => (some [PEER_CMD.OP], [.pair, .lanes, .outbox])
  | .release .. => (some [PEER_CMD.OP], [.pair, .lanes, .outbox])
  | .releaseDarken => (some [PEER_STATUS.ROLE, PEER_CMD.OP, TREE_OPT_STATUS.TX_STATE_FIFTY, ALLOC.CREDIT, ALLOC.INFLIGHT], [.pair, .sets, .allocs])
  | .calibrate .. => (some [PEER_CMD.OP], [.trees])
  | .standbyOffsetUpdate .. => (some [PEER_TREE.PROTECTED], [.trees])
  | .tweedLoadCheck .. => (
    some [IC_GROUP_STATUS.COUNT, IC_SRC.ENABLE, TWEED_STATUS.STATE, TWEED_MBOX_STATE.SLOT, TWEED_MBOX.DATA, CIPH_STATUS.KEY_STARVED,
      CIPH_KEY_CMD.OP, CIPH_TW_CMD.OP, CIPH_TW_DATA.DATA, KEYSLOT.SUITE],
    [.live, .tweed, .rotations, .keys, .loadedAt, .switches, .uses])
  | .watchdog .. => (some [IC_CORE_STATUS.RUNNING, IC_GROUP_STATUS.COUNT, IC_SRC.ENABLE, TWEED_STATUS.STATE], [.live, .cores, .ctxStore, .tweed])
  | .taskOverrun .. => (some [IC_GROUP_STATUS.COUNT, IC_SRC.ENABLE, TWEED_STATUS.STATE], [.live, .tweed])
  | .doorbell .. => (some [IC_GROUP_STATUS.COUNT, IC_SRC.ENABLE, TWEED_MBOX_STATE.SLOT], [.live, .tweed])
  | .mailboxService .. => (
    some [IC_GROUP_STATUS.COUNT, IC_SRC.ENABLE, TWEED_MBOX_STATE.SLOT, TWEED_MBOX.DATA, CIPH_STATUS.KEY_STARVED, CIPH_KEY_CMD.OP, CIPH_TW_CMD.OP,
      CIPH_TW_DATA.DATA, KEYSLOT.SUITE],
    [.live, .tweed, .rotations, .keys, .loadedAt, .switches, .uses])
  | .version .. => (
    some [IC_GROUP_STATUS.COUNT, IC_SRC.ENABLE, TWEED_MBOX_STATE.SLOT, TWEED_MBOX.DATA, CIPH_STATUS.KEY_STARVED, CIPH_KEY_CMD.OP, CIPH_TW_CMD.OP,
      CIPH_TW_DATA.DATA, KEYSLOT.SUITE],
    [.live, .tweed, .rotations, .keys, .loadedAt, .switches, .uses])
  | .rotate .. => (
    some [IC_GROUP_STATUS.COUNT, IC_SRC.ENABLE, TWEED_MBOX_STATE.SLOT, TWEED_MBOX.DATA, CIPH_STATUS.KEY_STARVED, CIPH_KEY_CMD.OP, CIPH_TW_CMD.OP,
      CIPH_TW_DATA.DATA, KEYSLOT.SUITE],
    [.live, .tweed, .rotations, .keys, .loadedAt, .switches, .uses])
  | .rotateCancel .. => (
    some [IC_GROUP_STATUS.COUNT, IC_SRC.ENABLE, TWEED_MBOX_STATE.SLOT, TWEED_MBOX.DATA, CIPH_STATUS.KEY_STARVED, CIPH_KEY_CMD.OP, CIPH_TW_CMD.OP,
      CIPH_TW_DATA.DATA, KEYSLOT.SUITE],
    [.live, .tweed, .rotations, .keys, .loadedAt, .switches, .uses])
  | .extMsg .. => (
    some [IC_GROUP_STATUS.COUNT, IC_SRC.ENABLE, TWEED_MBOX_STATE.SLOT, TWEED_MBOX.DATA, CIPH_STATUS.KEY_STARVED, CIPH_KEY_CMD.OP, CIPH_TW_CMD.OP,
      CIPH_TW_DATA.DATA, KEYSLOT.SUITE],
    [.live, .tweed, .rotations, .keys, .loadedAt, .switches, .uses])
  | .interruptEntry .. => (
    some [IC_CORE_STATUS.RUNNING, IC_GROUP_STATUS.COUNT, IC_SRC.ENABLE, TWEED_STATUS.STATE],
    [.live, .cores, .ctxStore, .tweed])
  | .resume .. => (some [IC_CORE_STATUS.RUNNING, IC_GROUP_STATUS.COUNT, IC_SRC.ENABLE], [.live, .cores, .ctxStore, .tweed])
  | .coreWake .. => (some [IC_CORE_STATUS.RUNNING, TWEED_STATUS.STATE], [.live, .cores])
  | .groupFire .. => (some [IC_GROUP_STATUS.COUNT], [.live])
  | .swset .. => (some [IC_GROUP_STATUS.COUNT, IC_SRC.ENABLE], [])
  | .targetWrite .. => (some [IC_GROUP.ENABLE, IC_SRC.ENABLE], [])
  | .msixDelivery .. => (some [HOST_MSIX_PBA.BITS, IC_GROUP_STATUS.COUNT, IC_SRC.ENABLE], [.live, .outbox])
  | .eoi .. => (some [HOST_MSIX_PBA.BITS, IC_GROUP_STATUS.COUNT, IC_SRC.ENABLE], [.live, .outbox])
  | .counterFlush .. => (some [], [.live, .stats, .dev])
  | .perfCntRead .. => (some [PERF_CNT_ACC_CTRL.OP, PERF_CNT_ACC_DATA.VALUE], [])
  | .readClear .. => (some [PERF_CNT_ACC_CTRL.OP, PERF_CNT_ACC_DATA.VALUE], [.stats, .dev])
  | .clear .. => (some [PERF_CNT_ACC_CTRL.OP], [.stats, .dev])
  | .snapshotArm => (some [SNAP_CTRL.OP], [.snap])
  | .snapshotCancel => (some [SNAP_CTRL.OP], [])
  | .snapshotEpoch => (some [SNAP_CTRL.OP, IC_GROUP_STATUS.COUNT, IC_SRC.ENABLE], [.stats, .dev, .perf, .netSec, .netFrac])
  | .snapshotDieDone .. => (some [SNAP_CTRL.OP, IC_GROUP_STATUS.COUNT, IC_SRC.ENABLE], [.dev, .perf])
  | .traceRecord .. => (some [IC_GROUP_STATUS.COUNT, IC_SRC.ENABLE, PERF_TRACE_RING.PROD], [.live, .dev, .perf])
  | .bandwidthWindow .. => (
    some [IC_GROUP_STATUS.COUNT, IC_SRC.ENABLE, PERF_BW_CTRL.WINDOW_US, PERF_BW.BYTES, PERF_BW_RATE.RATE_MBPS],
    [.bwAcc, .netSec, .netFrac])
  | .sentinelInterval .. => (some [SEG_SENTINEL.LAST, SEG_GOV_STATUS.VCORE_MV, IC_GROUP_STATUS.COUNT, IC_SRC.ENABLE], [.perf])
  | .telemetryRecord .. => (some [SEG_POWER.DIE_POWER, IC_GROUP_STATUS.COUNT, IC_SRC.ENABLE, PERF_TELE_STATUS.SEQ], [.live, .dev, .perf])
  | .eventLog .. => (some [IC_GROUP_STATUS.COUNT, IC_SRC.ENABLE, CIPH_KEY_CMD.OP, CIPH_TW_CMD.OP, MSA.AN, MSA.MARK], [.live, .loader, .mram, .tweed])
  | .sramScrub .. => (
    some [IC_CORE_STATUS.RUNNING, IC_GROUP_STATUS.COUNT, IC_SRC.ENABLE, TWEED_STATUS.STATE, TREE_RX_TERM.TH_LOW, GRANT_TREE_STATUS.STRUCTS_FIFTY,
      CIRC_ACC_CTRL.OP, CIRC_DEF.DEFECT, CIRC_GROUP_STATUS.DEFECT, ALLOC.ALLOC_ID, ALLOC.PEAK, ALLOC.PIN, ALLOC.CREDIT, ALLOC.REPORT_FRAME,
      ALLOC.INFLIGHT, ALLOC.LAST_GRANT_FRAME, CIRC.FILL, CIRC.SEQ_TX, METER.DOMAIN, METER.TP_TOKENS, QUEUE.ENABLE, NODE.ENABLE, KEYSLOT.SUITE,
      MSA.AN],
    [.live, .cores, .ctxStore, .tweed, .stats, .dev, .perf, .sets, .allocs, .circs, .grps, .cache, .updates, .heldUpdates, .lastSeq, .seqLocks,
      .keys, .queues, .felt, .drain])
  | .mramScrub .. => (some [DMK_STATUS.ACTIVE_SLOT, IC_GROUP_STATUS.COUNT, IC_SRC.ENABLE], [.live, .slotBad, .mram, .uses])
  | .bgLag .. => (some [IC_GROUP_STATUS.COUNT, IC_SRC.ENABLE, PERF_LAG.LAG], [])
  | .table .. => (
    some [HOST_DMA_PTR.TAIL, HOST_DMA_STATUS.ERROR, HOST_MSIX_PBA.BITS],
    [.live, .dma, .updates, .heldUpdates, .lastSeq, .seqLocks, .uses, .outbox])
  | .stage .. => (some [HOST_DMA_PTR.TAIL, HOST_DMA_STATUS.ERROR, HOST_MSIX_PBA.BITS], [.loader, .dma, .uses, .outbox])
  | .devRead .. => (
    some [SEC_FW_EVENT.LAST_OFFSET, HOST_UNMAPPED.LAST_OFFSET, HOST_DMA_PTR.TAIL, HOST_DMA_STATUS.ERROR, HOST_MSIX_PBA.BITS,
      IC_GROUP_STATUS.COUNT, IC_SRC.ENABLE],
    [.dma, .uses, .outbox])
  | .omciTx .. => (some [HOST_DMA_PTR.TAIL, HOST_DMA_STATUS.ERROR, HOST_MSIX_PBA.BITS], [.dma, .uses, .outbox])
  | .rxBuffer .. => (some [HOST_DMA_PTR.TAIL, HOST_DMA_STATUS.ERROR, HOST_MSIX_PBA.BITS], [.dma, .uses, .outbox])
  | .rxMessage .. => (
    some [HOST_DMA_PTR.TAIL, HOST_DMA_STATUS.ERROR, HOST_MSIX_PBA.BITS, IC_GROUP_STATUS.COUNT, IC_SRC.ENABLE],
    [.dma, .oam, .uses, .outbox])
  | .dmaError .. => (some [HOST_DMA_PTR.TAIL, HOST_DMA_STATUS.ERROR, HOST_MSIX_PBA.BITS], [.dma, .updates, .heldUpdates, .outbox])
  | .bar2Read .. => (some [SEC_FW_EVENT.LAST_OFFSET, HOST_UNMAPPED.LAST_OFFSET, IC_GROUP_STATUS.COUNT, IC_SRC.ENABLE], [.uses, .outbox])
  | .bar2Write .. => (some [SEC_FW_EVENT.LAST_OFFSET, HOST_UNMAPPED.LAST_OFFSET, IC_GROUP_STATUS.COUNT, IC_SRC.ENABLE], [.dev])
  | .coldReset => (none, everyPart)
  | .packageReset .. => (none, everyPart)
  | .resetPackage .. => (none, everyPart)
  | .perst .. => (none, everyPart)
  | .hostInterfaceReset => (
    some [PKG_STATUS.PHASE, DMK_STATUS.ACTIVE_SLOT, HOST_BAR2_WIN.VALID, HOST_DMA_BASE.ADDR, HOST_DMA_CTRL.ENABLE, HOST_DMA_PTR.TAIL,
      HOST_DMA_STATUS.ERROR, HOST_MSIX_ADDR.ADDR, HOST_MSIX_CTRL.MSG_DATA, SNAP_TIME_S.SECONDS, SNAP_TIME_NS.NS, SNAP_CTRL.OP,
      TWEED_MBOX_STATE.SLOT, FWD_RING_CTRL.SIZE_EXP],
    [.loader, .tweed, .rotations, .perf, .snap, .dma, .pci, .updates, .heldUpdates, .lastSeq, .seqLocks])
  | .startup .. => (
    none,
    [.live, .sects, .chans, .loader, .mram, .stats, .dev, .perf, .channels, .bwAcc, .circs, .grps, .fwd, .cache, .touchSent, .keys, .loadedAt,
      .oldBind, .switches, .frags, .queues, .qstat, .felt, .drain, .inbox, .laneOut, .rxPart, .rxReady, .ceWaiting, .offers, .ageAt, .roots])
  | .supplySupervision .. => (some [PKG_PWR_STATUS.VIN_MV, IC_GROUP_STATUS.COUNT, IC_SRC.ENABLE], [.supply])
  | .supplyFault .. => (none, everyPart)
  | .governorStep .. => (some [SEG_GOV_STATUS.VCORE_MV], [.power])
  | .junctionThermal .. => (none, everyPart)
  | .diePowerDown .. => (
    none,
    [.live, .sects, .latches, .chans, .loader, .mram, .cores, .ctxStore, .tweed, .rotations, .stats, .dev, .perf, .channels, .dieStacks, .dma,
      .power, .bwAcc, .sets, .trees, .terms, .allocs, .resv, .rot, .circs, .grps, .chkSeen, .exact, .tern, .fwd, .cache, .updates, .dieLocks,
      .touchSent, .quotaSaid, .keys, .loadedAt, .oldBind, .switches, .xgemIndex, .frags, .labels, .queues, .qstat, .felt, .drain, .inbox, .laneOut,
      .cellPos, .credit, .lanes, .owed, .rxPart, .rxReady, .replays, .ceWaiting, .elim, .stamps, .uses, .outbox, .offers, .ageAt, .roots])
  | .dieRestart .. => (
    some [PKG_DIE_CTRL.ENABLE, DMK_TREE_STATE.STATE, TIME_STATUS.VALID, PEER_STATUS.ROLE, HOST_DMA_PTR.TAIL, HOST_DMA_STATUS.ERROR,
      HOST_MSIX_PBA.BITS, SEG_IDENT.DIE_INDEX, SEG_ORDER_APPLIED.SEQ, IC_CORE_STATUS.RUNNING, IC_GROUP_STATUS.COUNT, IC_SRC.ENABLE,
      TWEED_STATUS.STATE, TREE_OPT_STATUS.TX_STATE_FIFTY, TREE_DEF_STATUS.LOS_FIFTY, TREE_DEF_TERM.LOB, GRANT_TREE_STATUS.STRUCTS_FIFTY,
      CIRC_DEF.DEFECT, CIRC_GROUP_STATUS.DEFECT, FWD_CTRL.AGE_PERIOD_S, FWD_DOMAIN.QUOTA, FELT_PORT_STATUS.STATE, FAB_LANE_CTRL.ENABLE,
      FAB_LANE_STATUS.STATE, FAB_DL_CTRL.ENABLE, FAB_DL_STATUS.STATE],
    [.live, .sects, .latches, .chans, .loader, .cores, .ctxStore, .tweed, .dma, .trees, .fwd, .updates, .dieLocks, .labels, .cellPos, .credit,
      .lanes, .owed, .rxPart, .uses, .outbox, .roots])
  | .muteSuppressionEnd .. => (
    some [IC_GROUP_STATUS.COUNT, IC_SRC.ENABLE, TREE_DEF_STATUS.LOS_FIFTY, TREE_DEF_TERM.LOB, CIRC_DEF.DEFECT, CIRC_GROUP_STATUS.DEFECT],
    [.trees])
  | .flowSend .. => (some [], [.lanes, .owed, .outbox])

end Sys2Proof.Machine
end

