-- ==== Sys2Proof/WellFormed.lean ====
section
/-!
DEFINITION. Which commands a part can meet: they name units that its member has (Tables 0.1 and 0.3), and every operand fits the field, message or
measurement that brings it. A command that is not well formed stands for nothing that happens to the part (log entry 36).
-/

namespace Sys2Proof

/-! ### Operands -/

/-- A package-wide tree of a member with `dies` dies. -/
def okTree (dies t : Nat) : Bool := t < 8 * dies

/-- A wavelength set of a tree. -/
def okSet (dies t k : Nat) : Bool := okTree dies t && k < 2

/-- A terminal of a tree. -/
def okTerm (dies t n : Nat) : Bool := okTree dies t && n < 256

/-- A package-wide fabric lane. -/
def okLane (dies l : Nat) : Bool := l < 4 * dies

/-- A lane and a traffic class. -/
def okClass (dies l c : Nat) : Bool := okLane dies l && c < 8

/-- Two different dies. -/
def okLink (dies d e : Nat) : Bool := d < dies && e < dies && d != e

/-- A DRAM channel of a die. -/
def okChannel (dies d c : Nat) : Bool := d < dies && c < 16

/-- An upstream port of a die: a package-wide lane. -/
def okPort (dies d p : Nat) : Bool := d < dies && p < 4 * dies

/-- An interrupt source of a die, or a group as 4,096 + g. -/
def okSource (dies d n : Nat) : Bool := d < dies && n < 4352

/-- Bytes. -/
def okBytes (bs : List Nat) : Bool := bs.all fun b => b < 256

/-- A DMA channel. -/
def okDma (c : Nat) : Bool := c < 16

/-- An instant of network time. -/
def okTime (t : NetTime) : Bool := t.sec < 2 ^ 48 && t.frac < 10 ^ 9 * 2 ^ 16

/-- A unit. -/
def okUnit (dies : Nat) : UnitId → Bool
  | .tree t => okTree dies t
  | .lane l => okLane dies l
  | .dieLink k => okLink dies (k / 8) (k % 8)
  | .channel c => c < 16384 * dies
  | .die d => d < dies

/-- A unit with a pattern generator. -/
def okPat (dies : Nat) : PatUnit → Bool
  | .tree t => okTree dies t
  | .fab d u => d < dies && u < 68

/-- A requester. -/
def okWho (dies : Nat) : Requester → Bool
  | .host => true
  | .task d n => d < dies && n < 8
  | .tweed d => d < dies
  | .debug => true

/-- A forwarding entry whose fields fit Table 9.1. -/
def okEntry (e : Machine.FwdEntry) : Bool :=
  e.type < 4 && e.age < 16 && e.domain < 4096 && e.key < 2 ^ 160 && e.result < 2 ^ 192 && e.lastSeq < 2 ^ 48 && e.damage = 0

/-- A bucket of the forwarding table. -/
def okBucket (b : Nat) : Bool := b < 2 ^ 18

/-- A descriptor whose fields fit Table 17.4. -/
def okDesc (x : DmaDesc) : Bool := x.kind < 256 && x.flags < 256 && x.arg < 256 && x.length < 2 ^ 32 && x.hostAddr < 2 ^ 64 && x.devAddr < 2 ^ 64

/-- A descriptor of the row for kind `k`, or of a kind that no row has. -/
def okKind (k : Nat) (x : DmaDesc) : Bool := okDesc x && (x.kind = k || x.kind = 0 || 6 ≤ x.kind)

/-- The context that a command of the firmware stands at. -/
def okFirmware (f : FwState) : Bool := f.regs.r.length = 8 && f.threshold < 65

/-- Samples of a receiver: codes of its 12-bit thresholds' range (Table 3.13). -/
def okSamples (xs : List Nat) : Bool := xs.all fun x => x < 4096

/-- What a receiver observes of a burst. -/
def okBurst (b : Burst) : Bool := b.pre.length ≤ 64 && okSamples b.pre && okSamples b.samples && b.power < 4096 && b.serial.all fun x => x < 2 ^ 64

/-- A request or a command slot of a DRAM channel (Tables 12.1, 12.3). -/
def okChanEvent : ChanEvent → Bool
  | .arrives r => r.bank < 32 && r.row < 262144 && r.cell < 8 && r.word < 8 && r.requester < 14 && r.domain < 4096 && r.hold = 0
  | .slot _ => true

/-- A block or codeword that comes wrong (R296, R298). -/
def okBadBlock : BadBlock → Bool
  | .control payload _ => payload < 2 ^ 128
  | .header classes => classes.all fun c => c < 8
  | .codeword _ before symbols classes => before < 4 && symbols.length = 2200 && (symbols.all fun x => x < 4) && classes.all fun c => c < 8

/-- Events of the cycles of an entry, by die and source. -/
def okEvents (dies : Nat) (es : List (Nat × Nat)) : Bool := es.all fun e => okSource dies e.1 e.2

/-- Writes whose effect hangs on more than the access itself, which the commands of their own bring: methods 1 and 2 of SEC_DBG_SUBMIT (the time
since the last attempt), RETIRE and RESTART of MEM_CMD (what the channel held; how long the stack has been cool). -/
def needsMore (off : Nat) (value : Word) : Bool :=
  (off = 0x20508 && (value.toNat % 4 = 1 || value.toNat % 4 = 2))
    || (0x1000000 ≤ off && off % 0x1000000 = 0x600010 && 2 ≤ value.toNat % 4)

/-! ### Commands -/

/-- A command that a part with `dies` dies can meet. -/
def Instr.wellFormed (dies : Nat) : Instr → Bool
  | .registerWrite who off size value _ => okWho dies who && off < 2 ^ 28 && size < 4096 && !needsMore off value
  | .unmappedAccess who off size _ => okWho dies who && off < 2 ^ 28 && size < 4096
  | .shadowRead who off size => okWho dies who && off < 2 ^ 28 && size < 4096
  | .timeNowRead who size => okWho dies who && (size = 4 || size = 8)
  | .unitEnableRequest u _ => okUnit dies u
  | .unitPhaseDone u => okUnit dies u
  | .secondLatch sec => sec < 2 ^ 48
  | .tableUpdateApply d => d < dies
  | .orderStall d => d < dies
  | .downstreamFrameStart t k a => okSet dies t k && okTime a
  | .lateMap t k => okSet dies t k
  | .ploamRingSample t k => okSet dies t k
  | .dsUnderrun t k _ => okSet dies t k
  | .stageBegin slot => slot < 2
  | .stageEnd => true
  | .select slot _ => slot < 2
  | .confirm => true
  | .weave => true
  | .weaveDone d => d < dies
  | .treeReweave t slot => t < 64 && slot < 2
  | .reweaveSectionsLoaded => true
  | .reweaveComplete => true
  | .dmkStageData off bs => off + bs.length ≤ 12582912 && okBytes bs
  | .mramRecordCommit d => d < dies
  | .pageReclaim d => d < dies
  | .recordRotation d => d < dies
  | .secLockSet mask => mask < 32
  | .dbgNonceRequest => true
  | .dbgPasswordAttempt own _ => own.all fun b => okBytes b && b.length = 32
  | .dbgSignedAttempt own _ => own.all fun b => okBytes b && b.length = 200
  | .dbgSetPassword own => own.all fun b => okBytes b && b.length = 32
  | .nonceExpiry => true
  | .opticsStart t => okTree dies t
  | .opticsLit t => okTree dies t
  | .txDarkAtShutdown t => okTree dies t
  | .laserPark t => okTree dies t
  | .txCalibration t k => okSet dies t k
  | .laserAgeingCheck t k => okSet dies t k
  | .txMuteSet t => okTree dies t
  | .txMuteClear t => okTree dies t
  | .txLol t k => okSet dies t k
  | .txRelock t k => okSet dies t k
  | .contextSwap t k => okSet dies t k
  | .burstReceive t k b => okSet dies t k && okBurst b
  | .upstreamFrameEnd t k xs => okSet dies t k && okSamples xs
  | .rxLol t k => okSet dies t k
  | .rxLolClear t k => okSet dies t k
  | .rxTermClear t n => okTerm dies t n
  | .errorInject u _ _ => okPat dies u
  | .oneShotInject u _ => okPat dies u
  | .patternCheckerLock u n _ => okPat dies u && n.all fun x => x < 256
  | .optTxRefresh t k _ _ _ _ => okSet dies t k
  | .quietWindowOpen t k => okSet dies t k
  | .quietForce t => okTree dies t
  | .serialNumberFound t k _ _ sn => okSet dies t k && sn < 2 ^ 64
  | .rangingGrantResult t n => okTerm dies t n
  | .chiffonParams t => okTree dies t
  | .signatureDetection t code _ _ => okTree dies t && code < 16
  | .chiffonInvite t i m => okTree dies t && i < 4 && m < 2 ^ 32
  | .microWindowResult t i => okTree dies t && i < 4
  | .admitWaitExpiry t n => okTerm dies t n
  | .chiffonHold t n => okTerm dies t n
  | .assignOnuId t n => okTerm dies t n
  | .assignAllocId t a => okTree dies t && a < 1024
  | .stepMissed t n _ => okTree dies t && n.all fun x => x < 256
  | .driftCorrection t n => okTerm dies t n
  | .terminalLost t n => okTerm dies t n
  | .admitTerminal t n id => okTerm dies t n && id < 1024
  | .deny t n => okTerm dies t n
  | .rerange t n => okTerm dies t n
  | .deactivate t n => okTerm dies t n
  | .free t n => okTerm dies t n
  | .mapBuild t k _ flagged => okSet dies t k && flagged.all fun n => n < 256
  | .statusReportDecode t a backlog r => okTree dies t && a < 1024 && backlog < 2 ^ 32 && r < 2 ^ 32
  | .contextRingWrite t k => okSet dies t k
  | .grantAccRead d target t i l => d < dies && target < 4 && t < 8 && i < 1024 && l < 256
  | .grantAccWrite d target t i l => d < dies && target < 4 && t < 8 && i < 1024 && l < 256
  | .writeReset d target t i => d < dies && target < 4 && t < 8 && i < 1024
  | .gateBankSwap d g => d < dies && g < 256
  | .resvMicroWindow t k id m => okSet dies t k && id < 1024 && m < 65536
  | .resvRangingGrant t k id m units profile => okSet dies t k && id < 1024 && m < 65536 && units < 4096 && profile < 4
  | .resvQuietWindow t k m => okSet dies t k && m < 65536
  | .containerBuild c => c < 1024 * dies
  | .containerMissing c => c < 1024 * dies
  | .cePacketReceive d => d < dies
  | .containerReceive c => c < 1024 * dies
  | .groupRelease d g => d < dies && g < 128
  | .circAccRead d _ i => d < dies && i < 1024
  | .circAccWrite d _ i => d < dies && i < 1024
  | .circuitEnable d i => d < dies && i < 1024
  | .circuitDisable d i => d < dies && i < 1024
  | .fabricFrameReceive l bs sec => okLane dies l && okBytes bs && sec.all fun x => x.an < 4 && x.pn < 2 ^ 64
  | .frameAdmit d => d < dies
  | .queueRelease d up p => d < dies && if up then p < 4 * dies else p < 16
  | .fabricFrameTransmit l c _ => okClass dies l c
  | .feltRelease d p => okPort dies d p
  | .portHoldCause d p cause => okPort dies d p && cause < 4
  | .portResume d p => okPort dies d p
  | .portAvailable d p => okPort dies d p
  | .tmSampleWindow d => d < dies
  | .tmAccRead d target i => d < dies && target < 4 && i < 32768
  | .tmAccWrite d target i => d < dies && target < 4 && i < 32768
  | .classRuleRead d _ i => d < dies && i < 16384
  | .ternaryWrite d i => d < dies && i < 16384
  | .exactInsert d => d < dies
  | .exactReplace d => d < dies
  | .exactDelete d => d < dies
  | .meterRead d m => d < dies && m < 262144
  | .meterWrite d m _ => d < dies && m < 262144
  | .tableInsert c a e x _ => okDma c && a < 2 ^ 64 && okEntry e && x.all fun q => q < 2 ^ 48
  | .tableReplace c a e x _ => okDma c && a < 2 ^ 64 && okEntry e && x.all fun q => q < 2 ^ 48
  | .tableDelete c a e x _ => okDma c && a < 2 ^ 64 && okEntry e && x.all fun q => q < 2 ^ 48
  | .tableLock c a b x => okDma c && a < 2 ^ 64 && okBucket b && x.all fun q => okBucket q
  | .tableUnlock c a => okDma c && a < 2 ^ 64
  | .writeSlot c a b slot e x => okDma c && a < 2 ^ 64 && okBucket b && slot < 4 && okEntry e && x.all fun q => q < 2 ^ 48
  | .ageBucket => true
  | .lockExpiry c => okDma c
  | .keyLoad _ d _ i _ kek _ => d < dies && i < 32768 && kek < 4
  | .keyErase _ d _ i _ => d < dies && i < 32768
  | .keySwitch _ d t p _ => d < dies && t < 8 && p < 4096
  | .keyRead _ d _ i _ => d < dies && i < 32768
  | .kekLoad _ d k => d < dies && k < 32768
  | .switchCheck => true
  | .keyExpiry d k => d < dies && k < 8192
  | .starvedResume t p => okTree dies t && p < 4096
  | .lpBindWrite t p pair _ sc => okTree dies t && p < 4096 && pair < 4096 && sc < 16384
  | .msecRead d _ i => d < dies && i < 32768
  | .msecChannelWrite d c => d < dies && c < 32768
  | .arm d a => d < dies && a < 32768
  | .refreshInterval d c es => okChannel dies d c && es.all okChanEvent
  | .stackTempCrossing d c temp => okChannel dies d c && temp < 256
  | .stackThermalResponse d temp => d < dies && temp < 256
  | .stackRestart d _ => d < dies
  | .rowDisturb d c b row q dom => okChannel dies d c && b < 32 && row < 262144 && q < 14 && dom < 4096
  | .throttleEnd d q c => okChannel dies d c && q < 14
  | .eccCorrect d off q _ _ => d < dies && off < 2 ^ 38 && q < 14
  | .patrolScrub d _ => d < dies
  | .channelRetune d c _ => okChannel dies d c
  | .channelRetrain d c _ _ => okChannel dies d c
  | .channelRetire d c _ => okChannel dies d c
  | .memRetrain d c => okChannel dies d c
  | .memRetire d c _ => okChannel dies d c
  | .memRestart d _ => d < dies
  | .laneOn l => okLane dies l
  | .laneFail l _ _ => okLane dies l
  | .commaLock l b => okLane dies l && b.length = 130
  | .kolkanCellReceive l h p => okLane dies l && h < 2 ^ 128 && okBytes p
  | .controlBlockBad l b => okLane dies l && okBadBlock b
  | .flow l inc => okLane dies l && inc.length = 8 && inc.all fun c => c < 4096
  | .abort l c => okClass dies l c
  | .creditStall l c => okClass dies l c
  | .status l _ _ => okLane dies l
  | .statusTimeout l => okLane dies l
  | .statusSend l => okLane dies l
  | .cap l c => okLane dies l && c.device < 1024 && c.credits.length = 8
  | .time l seq tx rx _ _ stratum turn => okLane dies l && seq < 65536 && okTime tx && okTime rx && stratum < 256 && turn < 2 ^ 32
  | .timeEcho l seq turn rx => okLane dies l && seq < 65536 && turn < 2 ^ 32 && okTime rx
  | .timeSend l tx => okLane dies l && okTime tx
  | .flitReplay d e _ _ => okLink dies d e
  | .dieLinkIdle d e => okLink dies d e
  | .dieLinkWake d e => okLink dies d e
  | .blindFallback d e => okLink dies d e
  | .dieLinkOn d e => okLink dies d e
  | .timeMeasurement source _ => source < 4
  | .sourceLost => true
  | .timeStep _ => true
  | .stepApply => true
  | .timeMeasWrite size _ => size = 4 || size = 8
  | .ppsEdge t => okTime t
  | .todMessage bs t => bs.length = 12 && okBytes bs && okTime t
  | .ppsOut sec => sec < 2 ^ 48
  | .fabTsPop d => d < dies
  | .claimLive => true
  | .claimAbsent => true
  | .seize r => r.all fun f => f < 2 ^ 32
  | .settleEnd => true
  | .doubleClaim => true
  | .heartbeatSend tx => okTime tx
  | .heartbeat seq device _ t0 echo turn rx => seq < 65536 && device < 1024 && t0 < 2 ^ 48 && echo < 65536 && turn < 2 ^ 32 && okTime rx
  | .heartbeatFailure => true
  | .pairHello digest member pd trees _ device => digest < 2 ^ 384 && member < 3 && pd < 1024 && (trees.all fun t => t < 64) && device < 1024
  | .pairAccept => true
  | .map t k m _ => okSet dies t k && m < 2 ^ 32
  | .terminal rs => rs.length ≤ 8 && rs.all fun r => okTerm dies r.tree r.terminal
  | .circuit rs => rs.length ≤ 8 && rs.all fun r => r.circuit < 1024 * dies
  | .health r => r.all okBytes
  | .autoDegrade => true
  | .release f => f < 2 ^ 32
  | .releaseDarken => true
  | .calibrate t => t < 64
  | .standbyOffsetUpdate t => okTree dies t
  | .tweedLoadCheck d load _ _ _ => d < dies && load ≤ 100
  | .watchdog d => d < dies
  | .taskOverrun d n _ => d < dies && n < 8
  | .doorbell d i _ => d < dies && i < 16
  | .mailboxService d reply => d < dies && okBytes reply && reply.length ≤ 120
  | .version d => d < dies
  | .rotate d _ => d < dies
  | .rotateCancel d => d < dies
  | .extMsg d reply => d < dies && okBytes reply && reply.length ≤ 120
  | .interruptEntry d f late => d < dies && okFirmware f && okEvents dies late
  | .resume d f late => d < dies && okFirmware f && okEvents dies late
  | .coreWake d f => d < dies && okFirmware f
  | .groupFire d g => d < dies && g < 256
  | .swset d src => d < dies && src < 4096
  | .targetWrite d n _ die vector => okSource dies d n && die < 8 && vector < 2048
  | .msixDelivery d => d < dies
  | .eoi d n => d < dies && n < 8192
  | .counterFlush d c => d < dies && c < 2097152
  | .perfCntRead d c => d < dies && c < 2097152
  | .readClear d c => d < dies && c < 2097152
  | .clear d c => d < dies && c < 2097152
  | .snapshotArm => true
  | .snapshotCancel => true
  | .snapshotEpoch => true
  | .snapshotDieDone d _ => d < dies
  | .traceRecord d r _ => d < dies && r.stages.length = 8
  | .bandwidthWindow d _ => d < dies
  | .sentinelInterval d rs => d < dies && rs.length = 8
  | .telemetryRecord d power _ => d < dies && power.all fun p => p < 65536
  | .eventLog d o src => d < dies && okSource dies o src
  | .sramScrub d _ => d < dies
  | .mramScrub d _ => d < dies
  | .bgLag d i _ => d < dies && i < 8
  | .table c x record _ => okDma c && okKind 1 x && record.length = 96 && okBytes record
  | .stage c x bs => okDma c && okKind 2 x && bs.length = x.length && okBytes bs
  | .devRead c x => okDma c && okKind 3 x
  | .omciTx c x bs => okDma c && okKind 4 x && bs.length = x.length && okBytes bs
  | .rxBuffer c x => okDma c && okDesc x
  | .rxMessage m a => okTime a && match m with
    | .omci t n bs => okTerm dies t n && okBytes bs
    | .oam => true
  | .dmaError c f => okDma c && match f with
    | .fetched x => okDesc x
    | .inFlight _ => true
  | .bar2Read who off size => okWho dies who && off < 2 ^ 32 && size < 4096
  | .bar2Write who off bs => okWho dies who && off < 2 ^ 32 && okBytes bs
  | .coldReset => true
  | .packageReset cause => cause < 8
  | .resetPackage key => key < 65536
  | .perst _ => true
  | .hostInterfaceReset => true
  | .startup _ untrained => untrained.all fun x => okChannel dies x.1 x.2
  | .supplySupervision v i p => v < 65536 && i < 65536 && p < 65536
  | .supplyFault steps => steps.all fun x => x.1 < dies && x.2 < 5
  | .governorStep d _ => d < dies
  | .junctionThermal d rs _ _ => d < dies && rs.length = 16
  | .diePowerDown d _ => d < dies
  | .dieRestart d => d < dies
  | .muteSuppressionEnd t => okTree dies t
  | .flowSend l => okLane dies l

end Sys2Proof
end

