-- ==== Sys2Proof/Safety.lean ====
section
/-!
DEFINITION. What a safe run is, in the terms that claims use: every command is one that the member can meet, no step ends in a fault or a refusal, and
what State holds sparsely is in its one canonical form.
-/

namespace Sys2Proof.Machine

/-- An outcome that is a next state. -/
def goesOn : Host.Outcome State Fault Refusal → Bool
  | .next _ => true
  | .fault _ => false
  | .refused _ => false

/-- Every waiting command is one that the member can meet. -/
def State.wellFormed (s : State) : Bool := s.pending.all fun c => c.wellFormed s.dies

/-- The next step of a state goes on, and its commands can be met. -/
def State.safe (s : State) : Bool := s.wellFormed && goesOn (step s)

/-- The canonical form: the keys of the field table and of the live counts rise strictly, and device memories, image slots and the staged image list
their cells in rising order without an unlisted byte; so equal contents are equal data. -/
def State.canonical (s : State) : Bool :=
  s.regs.sorted && s.live.sorted && (s.dev.all fun e => e.2.wf) && (s.slots.all fun e => e.2.wf) && s.loader.staged.wf

/-- `n` steps, one after another. -/
def steps : Nat → State → Host.Outcome State Fault Refusal
  | 0, s => .next s
  | n + 1, s =>
    match step s with
    | .next t => steps n t
    | r => r

/-! ### What claims about one command say -/

/-- A command answers a next state, of which `P` holds. -/
def answers (c : Instr) (s : State) (P : State → Prop) : Prop := ∃ t, exec c s = .next t ∧ P t

/-- The key of field `f` of unit `i` in the table of fields. -/
def Field.at (f : Field) (i : Nat) : Key := ⟨f.num, i⟩

/-- Nothing outside the table of fields differs. -/
def registersOnly (s t : State) : Prop := t = { s with regs := t.regs }

/-- Every field of every register and context holds what it held, but for those of `ks`. -/
def fieldsKept (s t : State) (ks : List Key) : Prop := ∀ k, k ∉ ks → ∀ d, t.regs.get k d = s.regs.get k d

/-- From `s` to `t` nothing changed but the fields of `ks`. -/
def changesOnly (s t : State) (ks : List Key) : Prop := registersOnly s t ∧ fieldsKept s t ks

/-- The fields that an event of source `src` of DIE[d] may change: its PENDING, and COUNT of its group (R349, R354). -/
def sourceKeys (s : State) (d src : Nat) : List Key :=
  [IC_SRC.PENDING.at (srcAt d src), IC_GROUP_STATUS.COUNT.at (grpAt d (s.get IC_SRC.GROUP (srcAt d src)))]

/-- The fields that an event of a package source may change, on every die (R348). -/
def packageKeys (s : State) (src : Nat) : List Key := s.dieList.flatMap fun d => sourceKeys s d src

/-- A package source is pending in the controller of every die (R348, R349). -/
def pendingOnAll (t : State) (src : Nat) : Prop := ∀ d, d < t.dies → t.flag IC_SRC.PENDING (srcAt d src) = true

/-- From `s` to `t` nothing changed but the fields of `ks`, and `out` left the part. -/
def changesAndSends (s t : State) (ks : List Key) (out : List Sent) : Prop :=
  t = { s with regs := t.regs, outbox := s.outbox ++ out } ∧ fieldsKept s t ks

/-- Of what left the part, the messages; the codewords that carry them over Kolkan lanes left out. -/
def messages (os : List Sent) : List Sent :=
  os.filter fun o =>
    match o with
    | .codeword _ _ => false
    | _ => true

/-- The keys of the `n` data words of an access window from unit `i`. -/
def windowKeys (f : Field) (i n : Nat) : List Key := (List.range n).map fun k => f.at (i + k)

/-- The `n` data words of a window from unit `i` read as the 64-bit pieces of a number. -/
def showsNumber (t : State) (f : Field) (i n v : Nat) : Prop := ∀ k, k < n → t.get f (i + k) = bits v (64 * k) 64

/-- The fields of a context read as a number spells them. -/
def holdsBytes (t : State) (fs : List Field) (i v : Nat) : Prop := ∀ f ∈ fs, t.get f i = f.ofBits v

/-- The keys of the fields of a context. -/
def recordKeys (fs : List Field) (i : Nat) : List Key := fs.map fun f => f.at i

/-- An access of unit `d` has ended with RESULT `r` and DONE set, and nothing else but the fields of `ks` changed. -/
def accessEnds (s t : State) (result done : Field) (d r : Nat) (ks : List Key) : Prop :=
  t.get result d = r ∧ t.get done d = 1 ∧ changesOnly s t (ks ++ [result.at d, done.at d])

/-- An access of unit `d` has read a number into the `n` data words of its window from unit `i`, and changed nothing else. -/
def accessShows (s t : State) (data : Field) (i n v : Nat) (result done : Field) (d : Nat) : Prop :=
  showsNumber t data i n v ∧ accessEnds s t result done d 0 (windowKeys data i n)

/-- A unit whose enable requests act on it alone: no die, no tree that a re-weave concerns, and a link between two different dies. -/
def State.takesRequests (s : State) : UnitId → Bool
  | .tree t => !s.reweaving t
  | .dieLink k => k / 8 != k % 8
  | .lane _ | .channel _ => true
  | .die _ => false

/-- A secure channel, or a link between two different dies. -/
def linkOrChannel : UnitId → Bool
  | .dieLink k => k / 8 != k % 8
  | .channel _ => true
  | .tree _ | .lane _ | .die _ => false

/-- The shadow registers of the per-second counters (R109, R110). -/
def shadowCounts : List Field := [
  PEER_CNT.COUNT, IC_CNT.COUNT, TWEED_CNT.COUNT, TREE_CNT.COUNT, TREE_RNG_CNT.COUNT, TREE_TCNT.COUNT, GRANT_CNT.COUNT, CIRC_CNT.COUNT, PARSE_CNT.COUNT,
  CLASS_CNT.COUNT, CLASS_TREE_CNT.COUNT, FWD_CNT.COUNT, TM_CNT.COUNT, FELT_CNT.COUNT, CIPH_SEP_CNT.COUNT, CIPH_CNT.COUNT, MEM_CNT.COUNT,
  FAB_LANE_CNT.COUNT, FAB_DL_CNT.COUNT, PERF_CNT.COUNT]

/-- The fields that a firewall event may change (Table 2.18). -/
def firewallKeys (s : State) : List Key :=
  [SEC_FW_EVENT.LAST_OFFSET.at 0, SEC_FW_EVENT.LAST_BAR.at 0, SEC_FW_EVENT.LAST_WRITE.at 0, SEC_FW_EVENT.SOURCE.at 0, SEC_FW_EVENT.COUNT.at 0]
    ++ packageKeys s 3848

/-- An event counted by the firewall: its source, one more event, and source 3,848 on every die (Tables 2.18, 15.4). -/
def firewallEvent (s t : State) (source : Nat) : Prop :=
  t.get SEC_FW_EVENT.SOURCE 0 = source ∧ t.get SEC_FW_EVENT.COUNT 0 = satAdd 28 (s.get SEC_FW_EVENT.COUNT 0) 1 ∧ pendingOnAll t 3848

end Sys2Proof.Machine
end

