-- ==== Sys2Proof/Certificates/Slice0/Obligations.lean ====
section
/-! DEFINITION. The statements of this model for the provers, family by family. -/
open Sys2Proof Sys2Proof.Machine

/-- One step takes the command at the front of the queue and runs it on the state whose queue is the rest. -/
def Obligations.StepRunsTheFrontCommand : Prop :=
  ∀ (c : Instr) (rest : List Instr) (s : State),
    step { s with pending := c :: rest } = exec c { s with pending := rest }

/-- With no command waiting the block idles (log entry 1: the model's choice; the operation table has no row for a tick). -/
def Obligations.IdleOnAnEmptyQueue : Prop := ∀ s : State, s.pending = [] → step s = .next s

/-- The block works off its queue, first in, first out: no number of steps ends in a stop; after `n` of them the first `n` commands are gone and the others wait
as they did; the part is the same one, the canonical form is kept, and nothing that was sent is taken back. -/
def Obligations.QueueIsWorkedOffInOrder : Prop :=
  ∀ (n : Nat) (s : State), ∃ t : State,
    steps n s = .next t ∧ t.pending = s.pending.drop n ∧ t.ident = s.ident ∧ s.outbox <+: t.outbox ∧ (s.canonical = true → t.canonical = true)

/-- A step takes exactly the front of the queue and never changes which part it is: member, serial number, fuses and straps. -/
def Obligations.StepTakesTheFrontAndKeepsThePart : Prop :=
  ∀ s t : State, step s = .next t → t.ident = s.ident ∧ t.pending = s.pending.tail

/-- The canonical form: every step keeps the keys of the field table and of the live counts strictly rising, and device memories, MRAM slots and the staged image
without an unlisted byte. -/
def Obligations.StepKeepsTheCanonicalForm : Prop :=
  ∀ s t : State, s.canonical = true → step s = .next t → t.canonical = true

/-- The canonical form holds at reset. -/
def Obligations.ResetIsCanonical : Prop := State.reset.canonical = true ∧ State.reset.pending = []

/-- What has left the part is never taken back, and a free value is never used twice: over every step the list of what was sent grows at its end, and the number
of free values used does not fall. -/
def Obligations.SentStaysSentAndFreeValuesAreFresh : Prop :=
  ∀ s t : State, step s = .next t → s.outbox <+: t.outbox ∧ s.uses ≤ t.uses

/-- The frame of every command: when exec gives a next state, every field whose register or context word `mayChange` does not name for the command reads in the
field table as before, for every unit, and every part of State that it does not name is as before. -/
def Obligations.CommandChangesOnlyWhatItNames : Prop :=
  ∀ (c : Instr) (s t : State), exec c s = .next t →
    (∀ fs, (mayChange c).1 = some fs → ∀ k : Key, (∀ f ∈ fs, f.num / 64 ≠ k.n / 64) → ∀ d, t.regs.get k d = s.regs.get k d)
      ∧ ∀ p, p ∉ (mayChange c).2 → t.part p = s.part p

/-- After package reset every register field that the image does not set holds the value of its field table (R11), no die has reported WOVEN, nothing waits, nothing
has left the part, and no free value is used. -/
def Obligations.ResetGivesEveryFieldItsResetValue : Prop :=
  (∀ r ∈ allRegs, ∀ f ∈ r.fields, f.perImage = false → ∀ k, State.reset.get f k = f.reset)
    ∧ (∀ d, State.reset.isWoven d = false) ∧ State.reset.pending = [] ∧ State.reset.outbox = [] ∧ State.reset.uses = 0

/-- UNMAPPED_ACCESS (R9). An access to the window of a die that the member does not contain, to an address of BAR0 that decodes to no register (the register of an
absent die among them), of a size other than 4 and 8 bytes, or at an address that is no multiple of its size, reads as all ones and drops the write; HOST_UNMAPPED counts it and records it, source 3,872 is pending on every die, and nothing else changes. -/
def Obligations.UnmappedAccessReadsOnesAndIsCounted : Prop :=
  ∀ (s : State) (who : Requester) (off size : Nat) (write : Bool),
    s.mayAsk who = true → off < 2 ^ 28 →
    (size ≠ 4 ∧ size ≠ 8) ∨ off % size ≠ 0 ∨ (0x1000000 ≤ off ∧ s.dies ≤ off / 0x1000000 - 1) ∨
      (decodeReg (off / 8 * 8) = none ∧ (off < 0x1000000 ∨ s.isWoven (off / 0x1000000 - 1) = true)) ∨
      (off < 0x1000000 ∧ ∃ k, decodeReg (off / 8 * 8) = some (PKG_DIE_CTRL.desc, k) ∧ s.dies ≤ k) →
    answers (.unmappedAccess who off size write) s fun t =>
      t.get HOST_UNMAPPED.COUNT 0 = satAdd 32 (s.get HOST_UNMAPPED.COUNT 0) 1
        ∧ t.get HOST_UNMAPPED.LAST_OFFSET 0 = off ∧ t.flag HOST_UNMAPPED.LAST_WRITE 0 = write ∧ t.get HOST_UNMAPPED.LAST_BAR 0 = 0
        ∧ pendingOnAll t 3872
        ∧ changesAndSends s t
            ([HOST_UNMAPPED.COUNT.at 0, HOST_UNMAPPED.LAST_OFFSET.at 0, HOST_UNMAPPED.LAST_WRITE.at 0, HOST_UNMAPPED.LAST_BAR.at 0] ++ packageKeys s 3872)
            (if write then [] else [.readData size (256 ^ size - 1)])

/-- SHADOW_READ (R13). An 8-byte read answers the register, clears its RC fields, latches TIME_NOW_HI where it reads TIME_NOW_LO, and changes nothing else; a 4-byte
read answers the half it addresses and has no side effect. Both for a requester that no firewall rule or task fault turns away. -/
def Obligations.ReadSideEffectsOnlyOnEightByteReads : Prop :=
  ∀ (s : State) (who : Requester) (off : Nat) (r : RegDesc) (k : Nat), s.mayAsk who = true → s.turnedAway who r off false = none →
    (s.reach off 8 = .reg r k →
      answers (.shadowRead who off 8) s fun t =>
        (∀ f ∈ r.fields, f.acc = .rc → t.get f k = 0)
          ∧ (r.base = TIME_NOW_LO.desc.base → t.get TIME_NOW_HI.SECONDS 0 = s.netSec % 2 ^ 48)
          ∧ changesAndSends s t
              (((r.fields.filter fun f => f.acc = .rc).map fun f => f.at k) ++ if r.base = TIME_NOW_LO.desc.base then [TIME_NOW_HI.SECONDS.at 0] else [])
              [.readData 8 (s.readReg r k % 2 ^ 64)])
    ∧ (s.reach off 4 = .reg r k →
      answers (.shadowRead who off 4) s fun t =>
        t = { s with outbox := s.outbox ++ [.readData 4 (s.readReg r k / (if off % 8 = 0 then 1 else 2 ^ 32) % 2 ^ 32)] })

/-- TIME_NOW_READ (R13). An 8-byte read of TIME_NOW_LO answers the fraction of network time and latches its seconds into TIME_NOW_HI; a 4-byte read answers the low
half of the fraction and latches nothing. -/
def Obligations.TimeNowReadLatchesTheSeconds : Prop :=
  ∀ (s : State) (who : Requester), s.mayAsk who = true → s.refused who 0 TIME_NOW_LO.desc.base false = false →
    (answers (.timeNowRead who 8) s fun t =>
      t.get TIME_NOW_HI.SECONDS 0 = s.netSec % 2 ^ 48
        ∧ changesAndSends s t [TIME_NOW_HI.SECONDS.at 0] [.readData 8 (s.netFrac % 2 ^ 48)])
    ∧ answers (.timeNowRead who 4) s fun t => t = { s with outbox := s.outbox ++ [.readData 4 (s.netFrac % 2 ^ 32)] }

/-- REGISTER_WRITE of a firewall rule, an RWL register (R10, R15): with SEC_LOCK.FIREWALL clear an 8-byte write sets every field from the bits of the value; with it
set no field changes, and a write that would have changed one is counted as a LOCKED firewall event. -/
def Obligations.FirewallRuleIsWrittenUntilLocked : Prop :=
  ∀ (s : State) (i : Nat) (value : Word), i < 64 →
    (s.flag SEC_LOCK.FIREWALL 0 = false →
      answers (.registerWrite .host (0x20100 + 8 * i) 8 value) s fun t =>
        (∀ f ∈ SEC_FW_RULE.desc.fields, t.get f i = bits value.toNat f.lsb f.width)
          ∧ changesOnly s t (SEC_FW_RULE.desc.fields.map fun f => f.at i))
    ∧ (s.flag SEC_LOCK.FIREWALL 0 = true → (∃ f ∈ SEC_FW_RULE.desc.fields, bits value.toNat f.lsb f.width ≠ s.get f i) →
      (∀ f ∈ SEC_FW_RULE.desc.fields, s.get f i < 2 ^ f.width) →
      answers (.registerWrite .host (0x20100 + 8 * i) 8 value) s fun t =>
        (∀ f ∈ SEC_FW_RULE.desc.fields, t.get f i = s.get f i) ∧ firewallEvent s t 3 ∧ changesOnly s t (firewallKeys s))

/-- UNIT_ENABLE_REQUEST (R38) of a lane, a die link between two dies, a secure channel, or a tree that no re-weave concerns: a request that arrives in STARTING or
SHUTTING is latched and the last one counts; an enable in OFF starts the unit where it may start; a disable in ON shuts it down. -/
def Obligations.UnitRequestActsOrIsLatched : Prop :=
  ∀ (s : State) (u : UnitId) (on : Bool),
    s.takesRequests u = true →
    (s.unitState u = 1 ∨ s.unitState u = 3 →
      answers (.unitEnableRequest u on) s fun t => t.latchOf u = (if on then 2 else 1) ∧ t.unitState u = s.unitState u)
    ∧ (s.unitState u = 0 → s.mayStart u = true → answers (.unitEnableRequest u true) s fun t => t.unitState u = 1 ∧ t.latchOf u = s.latchOf u)
    ∧ (s.unitState u = 2 → answers (.unitEnableRequest u false) s fun t => t.unitState u = 3 ∧ t.latchOf u = s.latchOf u)

/-- UNIT_PHASE_DONE (R38) of a secure channel or a die link, while no full weave waits: STARTING ends in ON and SHUTTING in OFF; then the last latched request is
acted on, so that a disable latched in STARTING shuts the unit down again and an enable latched in SHUTTING starts it where it may start. -/
def Obligations.PhaseEndActsOnTheLatchedRequest : Prop :=
  ∀ (s : State) (u : UnitId), linkOrChannel u = true → s.loader.weave = 0 →
    (s.unitState u = 1 →
      answers (.unitPhaseDone u) s fun t => t.unitState u = (if s.latchOf u = 0 ∨ s.latchOf u = 2 then 2 else 3) ∧ t.latchOf u = 0)
    ∧ (s.unitState u = 3 →
      answers (.unitPhaseDone u) s fun t => t.unitState u = (if s.latchOf u = 2 ∧ s.mayStart u = true then 1 else 0) ∧ t.latchOf u = 0)

/-- SECOND_LATCH (R109): every live count is added into its shadow register, which saturates at 64 bits, and starts again from zero; the latch event of every
powered die is pending. -/
def Obligations.SecondLatchMovesLiveCountsIntoShadows : Prop :=
  ∀ (s : State) (sec : Nat), s.canonical = true →
    answers (.secondLatch sec) s fun t =>
      (∀ c ∈ shadowCounts, ∀ i, s.get c i < 2 ^ 64 → t.get c i = satAdd 64 (s.get c i) (s.liveOf c i) ∧ t.liveOf c i = 0)
        ∧ ∀ d, s.diePresent d = true → t.flag IC_SRC.PENDING (srcAt d 2274) = true

/-- TABLE_INSERT, TABLE_REPLACE, TABLE_DELETE and AGE_BUCKET (R30, R217, R219, R220, R221): a request with a usable entry, or key for a DELETE, which no lock of another
channel covers, and which meets no learning update for its bucket in the same instant or holds a lock on the bucket itself, takes the next 48-bit sequence
number and joins the package's order at its end; so does the ageing engine's update of its next bucket, which then moves on by one. A request that another
channel's lock covers is held behind those that wait already, at whatever instant it comes. Nothing else changes. -/
def Obligations.TableUpdatesTakeTheNextSequenceNumber : Prop :=
  ∀ (s : State) (chan addr : Nat) (e : FwdEntry) (x : Option Nat) (tied : Bool),
    let joined := fun (die : Nat) (op : UpdateOp) (req : Option UpdateReq) (s : State) =>
      { s with
        lastSeq := (s.lastSeq + 1) % 2 ^ 48
        updates := s.updates ++ [⟨(s.lastSeq + 1) % 2 ^ 48, die, op, req, s.netSec % 2 ^ 32, s.timeNs, 0, 0, false⟩] }
    let held := fun (op : UpdateOp) =>
      { s with heldUpdates := s.heldUpdates ++ [⟨0, s.firstDie, op, some ⟨chan, addr⟩, 0, 0, 0, 0, false⟩] }
    let covers := fun (l : TableLock) => e.homes.1 ∈ l.buckets ∨ e.homes.2 ∈ l.buckets
    ((tied = true → ∃ l ∈ s.seqLocks, l.chan = chan ∧ covers l) → (∀ l ∈ s.seqLocks, l.chan ≠ chan → ¬ covers l) →
      (entryValid e = true →
        exec (.tableInsert chan addr e x tied) s = .next (joined s.firstDie (.insert e x) (some ⟨chan, addr⟩) s)
          ∧ exec (.tableReplace chan addr e x tied) s = .next (joined s.firstDie (.replace e x) (some ⟨chan, addr⟩) s))
      ∧ (e.keyOk = true → exec (.tableDelete chan addr e x tied) s = .next (joined s.firstDie (.delete e x) (some ⟨chan, addr⟩) s)))
    ∧ ((∃ l ∈ s.seqLocks, l.chan ≠ chan ∧ covers l) →
      (entryValid e = true →
        exec (.tableInsert chan addr e x tied) s = .next (held (.insert e x)) ∧ exec (.tableReplace chan addr e x tied) s = .next (held (.replace e x)))
      ∧ (e.keyOk = true → exec (.tableDelete chan addr e x tied) s = .next (held (.delete e x))))
    ∧ ((∀ l ∈ s.seqLocks, s.ageAt ∉ l.buckets) →
      exec .ageBucket s = .next (joined 0 (.ageBucket s.ageAt) none { s with ageAt := (s.ageAt + 1) % 262144 }))

/-- TABLE_INSERT, TABLE_REPLACE and TABLE_DELETE that change nothing (R219, R221, Table 9.4): an entry, or key for a DELETE, that no request may carry completes with BAD_VALUE
(7); a request that meets a learning update for its bucket in the same instant, while no lock names the bucket, completes with CONFLICT (1). The order takes no
number in either case. -/
def Obligations.UnusableTableRequestsCompleteWithoutAnUpdate : Prop :=
  ∀ (s : State) (chan addr : Nat) (e : FwdEntry) (x : Option Nat) (tied ok : Bool) (c : Instr),
    c = .tableInsert chan addr e x tied ∧ ok = entryValid e ∨ c = .tableReplace chan addr e x tied ∧ ok = entryValid e
      ∨ c = .tableDelete chan addr e x tied ∧ ok = e.keyOk →
    (ok = false → answers c s fun t => .tableDone chan addr 7 none ∈ t.outbox ∧ t.updates = s.updates ∧ t.lastSeq = s.lastSeq ∧ t.fwd = s.fwd)
    ∧ (ok = true → tied = true → (∀ l ∈ s.seqLocks, e.homes.1 ∉ l.buckets ∧ e.homes.2 ∉ l.buckets) →
      answers c s fun t => .tableDone chan addr 1 none ∈ t.outbox ∧ t.updates = s.updates ∧ t.lastSeq = s.lastSeq ∧ t.fwd = s.fwd)

/-- TABLE_LOCK, TABLE_UNLOCK, WRITE_SLOT and LOCK_EXPIRY (R219, R220): a channel without a lock gets one on its buckets where no other channel's lock covers them; one with a
lock gives it up by UNLOCK or when it expires, which every die counts in LOCK_EXPIRED; WRITE_SLOT is sequenced under a lock on a home bucket of its entry.
Without the lock UNLOCK and WRITE_SLOT complete with NO_LOCK (6); a LOCK of a channel that holds one, or for which one waits, completes with BAD_VALUE (7). -/
def Obligations.TableLocksAreGivenHeldAndReleased : Prop :=
  ∀ (s : State) (chan addr b slot : Nat) (b2 x : Option Nat) (e : FwdEntry),
    (s.lockOf chan = none →
      (s.lockWaits chan = false → (∀ l ∈ s.seqLocks, b ∉ l.buckets ∧ ∀ y ∈ b2, y ∉ l.buckets) →
        answers (.tableLock chan addr b b2) s fun t =>
          t.seqLocks = s.seqLocks ++ [⟨chan, [b] ++ b2.toList⟩] ∧ t.lastSeq = (s.lastSeq + 1) % 2 ^ 48 ∧ t.fwd = s.fwd)
      ∧ answers (.tableUnlock chan addr) s (fun t => .tableDone chan addr 6 none ∈ t.outbox ∧ t.seqLocks = s.seqLocks ∧ t.updates = s.updates)
      ∧ answers (.writeSlot chan addr b slot e x) s (fun t => .tableDone chan addr 6 none ∈ t.outbox ∧ t.seqLocks = s.seqLocks ∧ t.updates = s.updates))
    ∧ (s.lockOf chan ≠ none ∨ s.lockWaits chan = true →
      answers (.tableLock chan addr b b2) s (fun t => .tableDone chan addr 7 none ∈ t.outbox ∧ t.seqLocks = s.seqLocks ∧ t.updates = s.updates))
    ∧ (s.lockOf chan ≠ none → s.heldUpdates = [] →
      answers (.tableUnlock chan addr) s (fun t =>
          t.seqLocks = (s.seqLocks.filter fun l => l.chan ≠ chan) ∧ t.lastSeq = (s.lastSeq + 1) % 2 ^ 48 ∧ t.fwd = s.fwd)
      ∧ answers (.lockExpiry chan) s (fun t =>
          t.seqLocks = (s.seqLocks.filter fun l => l.chan ≠ chan)
            ∧ (∀ d, d < s.dies → t.liveOf FWD_CNT.COUNT (d * 16 + 14) = s.liveOf FWD_CNT.COUNT (d * 16 + 14) + 1) ∧ t.fwd = s.fwd)
      ∧ (s.seqLocks = [⟨chan, [b]⟩] → entryValid e = true → e.homes.1 = b ∨ e.homes.2 = b →
          answers (.writeSlot chan addr b slot e x) s fun t =>
            t.lastSeq = (s.lastSeq + 1) % 2 ^ 48 ∧ t.updates.map (fun u => u.op) = s.updates.map (fun u => u.op) ++ [.writeSlot chan b slot e x]
              ∧ t.seqLocks = s.seqLocks ∧ t.fwd = s.fwd))

/-- TABLE_UPDATE_APPLY (R30, R31): a die applies the update whose number follows that of its last one, and no other; its applied number goes up by one, and the other dies'
stay. The update leaves the order, and its request completes, once every present die has applied it; while another present die has not, it stays. -/
def Obligations.DieAppliesUpdatesInOrder : Prop :=
  ∀ (s : State) (d : Nat) (u : Update), s.updates.find? (fun x => x.seq == (s.get SEG_ORDER_APPLIED.SEQ d + 1) % 2 ^ 48) = some u →
    s.dependsDamaged d u = false → (∀ i vs, u.op ≠ .ctrl i vs) →
    answers (.tableUpdateApply d) s fun t =>
      t.get SEG_ORDER_APPLIED.SEQ d = (s.get SEG_ORDER_APPLIED.SEQ d + 1) % 2 ^ 48
        ∧ (∀ e, e ≠ d → t.get SEG_ORDER_APPLIED.SEQ e = s.get SEG_ORDER_APPLIED.SEQ e)
        ∧ ((∃ e, e ≠ d ∧ s.diePresent e = true ∧ bitAt u.applied e = false) → ∃ x ∈ t.updates, x.seq = u.seq ∧ bitAt x.applied d = true)
        ∧ ((∀ e, e ≠ d → s.diePresent e = true → bitAt u.applied e = true) → u.timedOut = false →
            ∀ r, u.req = some r → ∃ st, .tableDone r.chan r.addr st (some u.seq) ∈ t.outbox)

/-- ORDER_STALL (R31): an update that a die has not applied within its time sets STALL and counts; the request of the host that waits for it completes with TIMEOUT (2); the
die's copy of the table and its applied number stay as they are. -/
def Obligations.StalledUpdateReportsTimeout : Prop :=
  ∀ (s : State) (d : Nat) (u : Update), u ∈ s.updates → u.seq = (s.get SEG_ORDER_APPLIED.SEQ d + 1) % 2 ^ 48 → u.timedOut = false →
    answers (.orderStall d) s fun t =>
      t.flag SEG_ORDER_STATUS.STALL d = true ∧ t.get SEG_ORDER_STATUS.STALL_COUNT d = (s.get SEG_ORDER_STATUS.STALL_COUNT d + 1) % 2 ^ 32
        ∧ t.flag IC_SRC.PENDING (srcAt d 2188) = true
        ∧ (∀ r, u.req = some r → .tableDone r.chan r.addr 2 (some u.seq) ∈ t.outbox)
        ∧ t.get SEG_ORDER_APPLIED.SEQ d = s.get SEG_ORDER_APPLIED.SEQ d ∧ t.fwd = s.fwd

/-- OPTICS_START, OPTICS_LIT, TX_DARK_AT_SHUTDOWN and LASER_PARK (R71, R72, R73, R86, R319): a tree in STARTING locks the transmitters of its live sets and takes TEST;
once locked it lights them, where the part that does not pair reads no claim, and is ON; with a live claim they stay dark and CLAIM_BLOCKED is set; in SHUTTING they go
dark; HOLD_S after OFF the lasers are no longer locked. -/
def Obligations.TreeOpticsStartLightAndGoDark : Prop :=
  ∀ (s : State) (t : Nat),
    (s.get DMK_TREE_STATE.STATE t = 1 →
      answers (.opticsStart t) s fun x =>
        (∀ k ∈ s.liveSets t, x.get (txState k) t = 1) ∧ (x.tree t).test = s.flag TREE_OPT_CTRL.TEST t ∧ x.get DMK_TREE_STATE.STATE t = 1)
    ∧ (s.get DMK_TREE_STATE.STATE t = 1 → s.loader.reweave = none → s.loader.weave = 0 → s.latchOf (.tree t) = 0 → s.flag PEER_CTRL.ENABLE 0 = false →
      (s.flag PEER_STATUS.CLAIM_IN 0 = false →
        answers (.opticsLit t) s fun x =>
          x.get DMK_TREE_STATE.STATE t = 2 ∧ x.flag PEER_STATUS.CLAIM_OUT 0 = true
            ∧ ∀ k ∈ s.liveSets t, x.flag (lockedField k) t = true
              ∧ x.get (txState k) t = if (s.setOf t k).txLol = true then 0 else if s.flag TREE_OPT_CTRL.TX_MUTE t = true then 3 else 2)
      ∧ (s.flag PEER_STATUS.CLAIM_IN 0 = true →
        answers (.opticsLit t) s fun x =>
          x.get DMK_TREE_STATE.STATE t = 2 ∧ x.flag PEER_STATUS.CLAIM_BLOCKED 0 = true ∧ ∀ k ∈ s.liveSets t, x.get (txState k) t = 0))
    ∧ (s.get DMK_TREE_STATE.STATE t = 3 →
      answers (.txDarkAtShutdown t) s fun x =>
        x.get TREE_OPT_STATUS.TX_STATE_FIFTY t = 0 ∧ x.get TREE_OPT_STATUS.TX_STATE_XGS t = 0 ∧ (x.tree t).txShut = true
          ∧ fieldsKept s x [TREE_OPT_STATUS.TX_STATE_FIFTY.at t, TREE_OPT_STATUS.TX_STATE_XGS.at t])
    ∧ (s.get DMK_TREE_STATE.STATE t = 0 → s.flag DMK_TREE_STATE.REWEAVE t = false →
      answers (.laserPark t) s fun x =>
        x.flag TREE_OPT_STATUS.LOCKED_FIFTY t = false ∧ x.flag TREE_OPT_STATUS.LOCKED_XGS t = false
          ∧ changesOnly s x [TREE_OPT_STATUS.LOCKED_FIFTY.at t, TREE_OPT_STATUS.LOCKED_XGS.at t])

/-- TX_MUTE_SET, TX_MUTE_CLEAR and MUTE_SUPPRESSION_END (R76, R107): muting turns every lit transmitter of the tree into a muted one and lets no other change; clearing
relights the muted ones, where the claim and their lock let them; 10 ms later a terminal in operation whose burst has been lost is declared LOB again, unless a
condition above it suppresses that. -/
def Obligations.MuteDarkensRelightsAndSuppresses : Prop :=
  ∀ (s : State) (t n : Nat),
    answers (.txMuteSet t) s (fun x =>
      x.flag TREE_OPT_CTRL.TX_MUTE t = true ∧ ∀ k, k < 2 → x.get (txState k) t = if s.get (txState k) t = 2 then 3 else s.get (txState k) t)
    ∧ answers (.txMuteClear t) s (fun x =>
      x.flag TREE_OPT_CTRL.TX_MUTE t = false
        ∧ ∀ k, k < 2 → x.get (txState k) t = if s.get (txState k) t = 3 then (if s.claimOk t = true ∧ (s.setOf t k).txLol = false then 2 else 0) else s.get (txState k) t)
    ∧ answers (.muteSuppressionEnd t) s (fun x =>
      (x.tree t).muteTail = false
        ∧ (n < 256 → s.get DMK_TREE_STATE.STATE t = 2 → s.flag TREE_DEF_STATUS.SUPPRESSED_ABOVE t = false → s.flag TREE_OPT_CTRL.TX_MUTE t = false →
          s.flag TREE_OPT_STATUS.LOS_FIFTY t = false → s.flag TREE_OPT_STATUS.LOS_XGS t = false → (s.setOf t 0).rxLol = false → (s.setOf t 1).rxLol = false →
          s.flag TREE_DEF_TERM.OPERATION (termAt t n) = true → bitAt (s.get TREE_DEF_TERM.RAW (termAt t n)) 0 = true →
          x.flag TREE_DEF_TERM.LOB (termAt t n) = true))

/-- TX_CALIBRATION, LASER_AGEING_CHECK, TX_LOL, TX_RELOCK and OPT_TX_REFRESH (R74, R75, R77, R89): a calibration run of a lit transmitter moves the launch power toward the
set's target by at most 0.1 dB, onto it where it is as near as that; frozen or out of lock, the run is counted as missed, and the tenth miss in a row sets CAL_LAG;
a muted transmitter has no run; a bias of 150 % of the first one sets AGEING; a synthesiser out of lock darkens its transmitter and is counted, and
lock lights it again on a tree that is ON or SHUTTING and not yet dark. -/
def Obligations.TransmitterIsCalibratedAgedAndRelocked : Prop :=
  ∀ (s : State) (t k power bias wave temp : Nat), s.standbyFor t = false → k < 2 →
    let now := toSigned 16 (s.get TREE_OPT_TX.POWER (t * 2 + k))
    let toward := s.launchGoal t k - now
    (s.flag TREE_OPT_CTRL.CAL_FREEZE t = false → (s.setOf t k).txLol = false → s.get (txState k) t = 2 →
      answers (.txCalibration t k) s fun x =>
        ∃ step : Int, (toward.natAbs ≤ 10 → step = toward) ∧ step.natAbs ≤ 10 ∧ (0 < toward → 0 < step) ∧ (toward < 0 → step < 0)
          ∧ x.get TREE_OPT_TX.POWER (t * 2 + k) = ofSigned 16 (now + step)
          ∧ (x.tree t).calMissed = 0 ∧ fieldsKept s x [TREE_OPT_TX.POWER.at (t * 2 + k)])
    ∧ (s.flag TREE_OPT_CTRL.CAL_FREEZE t = true ∨ (s.setOf t k).txLol = true → s.get (txState k) t ≠ 3 →
      answers (.txCalibration t k) s fun x =>
        x.get TREE_OPT_EVENTS.CAL_MISSED_COUNT t = satAdd 16 (s.get TREE_OPT_EVENTS.CAL_MISSED_COUNT t) 1
          ∧ (x.tree t).calMissed = (s.tree t).calMissed + 1 ∧ ((s.tree t).calMissed = 9 → x.flag TREE_OPT_STATUS.CAL_LAG t = true)
          ∧ x.get TREE_OPT_TX.POWER (t * 2 + k) = s.get TREE_OPT_TX.POWER (t * 2 + k))
    ∧ (s.get (txState k) t = 3 → exec (.txCalibration t k) s = .next s)
    ∧ answers (.laserAgeingCheck t k) s (fun x =>
        x.get TREE_OPT_TX.AGEING_PCT (t * 2 + k) = min (s.ageingPct t k) 255
          ∧ x.get TREE_OPT_STATUS.AGEING t = if 150 ≤ s.ageingPct t k then 1 else s.get TREE_OPT_STATUS.AGEING t)
    ∧ answers (.txLol t k) s (fun x =>
        x.get (txState k) t = 0 ∧ (x.setOf t k).txLol = true ∧ x.flag TREE_OPT_STATUS.TX_LOL t = true
          ∧ x.get TREE_OPT_EVENTS.TX_LOL_COUNT t = satAdd 16 (s.get TREE_OPT_EVENTS.TX_LOL_COUNT t) 1)
    ∧ (s.flag (lockedField k) t = true → (s.tree t).txShut = false → s.get DMK_TREE_STATE.STATE t = 2 ∨ s.get DMK_TREE_STATE.STATE t = 3 →
        s.claimOk t = true → s.flag TREE_OPT_CTRL.TX_MUTE t = false →
        answers (.txRelock t k) s fun x =>
          x.get (txState k) t = 2 ∧ (x.setOf t k).txLol = false ∧ x.flag TREE_OPT_STATUS.TX_LOL t = (s.setOf t (1 - k)).txLol)
    ∧ (power < 2 ^ 16 → bias < 2 ^ 16 → wave < 2 ^ 16 → temp < 2 ^ 8 →
        answers (.optTxRefresh t k power bias wave temp) s fun x =>
          x.get TREE_OPT_TX.POWER (t * 2 + k) = power ∧ x.get TREE_OPT_TX.BIAS (t * 2 + k) = bias ∧ x.get TREE_OPT_TX.WAVE_OFFSET (t * 2 + k) = wave
            ∧ x.get TREE_OPT_TX.LASER_TEMP (t * 2 + k) = temp
            ∧ changesOnly s x [TREE_OPT_TX.POWER.at (t * 2 + k), TREE_OPT_TX.BIAS.at (t * 2 + k), TREE_OPT_TX.WAVE_OFFSET.at (t * 2 + k), TREE_OPT_TX.LASER_TEMP.at (t * 2 + k)])

/-- CONTEXT_SWAP, CONTEXT_RING_WRITE, RX_LOL, RX_LOL_CLEAR and RX_TERM_CLEAR (R78, R79, R80, R82, R83): an empty set of shadow registers takes the ring's next context first; a
good context in them becomes active and the ring's next one follows it there; one whose check fails is dropped, and it or an absent one counts as a context error and leaves
the burst unreceived; the engine's next kept context enters the ring while one of its 1,536 entries is free; loss of lock is counted once and shown until it clears; the
learned state of a terminal is cleared alone. -/
def Obligations.BurstContextsAreTakenInOrder : Prop :=
  ∀ (s : State) (t k n : Nat) (l : Loaded) (c : BurstCtx) (rest : List BurstCtx), k < 2 →
    exec (.contextSwap t k) s = exec (.contextSwap t k) (s.loadShadow t k)
    ∧ ((s.setOf t k).shadow = some l →
      (s.contextGood t k l.ctx = true →
        answers (.contextSwap t k) s fun x =>
          (x.setOf t k).active = some l ∧ (x.setOf t k).ring = (s.setOf t k).ring.drop 1 ∧ ((x.setOf t k).shadow.map fun y => y.ctx) = (s.setOf t k).ring.head?
            ∧ x.regs = s.regs ∧ x.live = s.live)
      ∧ (s.contextGood t k l.ctx = false → l.ctx.checkOk = false →
        answers (.contextSwap t k) s fun x =>
          (x.setOf t k).active = none ∧ (x.setOf t k).ring = (s.setOf t k).ring.drop 1 ∧ x.flag TREE_OPT_STATUS.CONTEXT_ERROR t = true
            ∧ x.get TREE_OPT_DET.CONTEXT_ERROR_COUNT t = satAdd TREE_OPT_DET.CONTEXT_ERROR_COUNT.width (s.get TREE_OPT_DET.CONTEXT_ERROR_COUNT t) 1
            ∧ x.liveOf TREE_CNT.COUNT (t * 8 + 5) = s.liveOf TREE_CNT.COUNT (t * 8 + 5) + 1))
    ∧ ((s.setOf t k).shadow = none → (s.setOf t k).ring = [] →
      answers (.contextSwap t k) s fun x =>
        (x.setOf t k).active = none ∧ x.flag TREE_OPT_STATUS.CONTEXT_ERROR t = true ∧ x.liveOf TREE_CNT.COUNT (t * 8 + 5) = s.liveOf TREE_CNT.COUNT (t * 8 + 5) + 1)
    ∧ ((s.setOf t k).kept = c :: rest →
      ((s.setOf t k).ring.length < 1536 →
        answers (.contextRingWrite t k) s fun x => (x.setOf t k).ring = (s.setOf t k).ring ++ [c] ∧ (x.setOf t k).kept = rest ∧ x.regs = s.regs)
      ∧ (1536 ≤ (s.setOf t k).ring.length → exec (.contextRingWrite t k) s = .next s))
    ∧ ((s.setOf t k).kept = [] → exec (.contextRingWrite t k) s = .next s)
    ∧ answers (.rxLol t k) s (fun x =>
        (x.setOf t k).rxLol = true ∧ x.flag TREE_OPT_STATUS.RX_LOL t = true
          ∧ x.get TREE_OPT_DET.RX_LOL_COUNT t = if (s.setOf t k).rxLol = true then s.get TREE_OPT_DET.RX_LOL_COUNT t
            else satAdd TREE_OPT_DET.RX_LOL_COUNT.width (s.get TREE_OPT_DET.RX_LOL_COUNT t) 1)
    ∧ answers (.rxLolClear t k) s (fun x =>
        (x.setOf t k).rxLol = false ∧ x.flag TREE_OPT_STATUS.RX_LOL t = (s.setOf t (1 - k)).rxLol
          ∧ x.get TREE_OPT_DET.RX_LOL_COUNT t = s.get TREE_OPT_DET.RX_LOL_COUNT t)
    ∧ answers (.rxTermClear t n) s (fun x =>
        (∀ f ∈ TREE_RX_TERM.desc.fields, x.get f (termAt t n) = f.reset) ∧ changesOnly s x (TREE_RX_TERM.desc.fields.map fun f => f.at (termAt t n)))

/-- BURST_RECEIVE (R84, R102, R104, R105): the burst of an active context under receive loss of lock counts as lost by the part alone; a counted grant with no delimiter raises LOST and
the terminal's loss-of-burst run; one with a bad stamp raises STAMP_FAIL and the loss-of-delineation run; a VALID one raises VALID, takes its drift and ends both runs. -/
def Obligations.BurstOutcomesAreCounted : Prop :=
  ∀ (s : State) (t k : Nat) (b : Burst) (l : Loaded) (drift : Int), (s.setOf t k).active = some l →
    let n := l.ctx.terminal
    ((s.setOf t k).rxLol = true →
      answers (.burstReceive t k b) s fun x =>
        (x.setOf t k).active = none ∧ x.liveOf TREE_CNT.COUNT (t * 8 + 5) = s.liveOf TREE_CNT.COUNT (t * 8 + 5) + 1 ∧ fieldsKept s x [])
    ∧ ((s.setOf t k).rxLol = false → l.ctx.ranging = false →
      (s.outcome t k l b = .lost →
        answers (.burstReceive t k b) s fun x =>
          (x.setOf t k).active = none ∧ x.liveOf TREE_TCNT.COUNT (termAt t n * 16 + 1) = s.liveOf TREE_TCNT.COUNT (termAt t n * 16 + 1) + 1
            ∧ x.get TREE_DEF_TERM.LOB_RUN (termAt t n) = satAdd 4 (s.get TREE_DEF_TERM.LOB_RUN (termAt t n)) 1)
      ∧ (s.outcome t k l b = .stampFail →
        answers (.burstReceive t k b) s fun x =>
          (x.setOf t k).active = none ∧ x.liveOf TREE_TCNT.COUNT (termAt t n * 16 + 2) = s.liveOf TREE_TCNT.COUNT (termAt t n * 16 + 2) + 1
            ∧ x.get TREE_DEF_TERM.LOD_RUN (termAt t n) = satAdd 4 (s.get TREE_DEF_TERM.LOD_RUN (termAt t n)) 1 ∧ x.get TREE_DEF_TERM.LOB_RUN (termAt t n) = 0)
      ∧ (s.outcome t k l b = .valid drift → b.idle = [] →
        answers (.burstReceive t k b) s fun x =>
          x.get TREE_DEF_TERM.LAST_DRIFT (termAt t n) = ofSigned 8 (max (-128) (min 127 drift)) ∧ x.get TREE_DEF_TERM.LOB_RUN (termAt t n) = 0
            ∧ x.get TREE_DEF_TERM.LOD_RUN (termAt t n) = 0))

/-- UPSTREAM_FRAME_END (R83, R111): the next upstream frame begins; the fourth counted frame in a row without light declares loss of signal at the optics and counts it, and the
second in a row with light clears it. -/
def Obligations.UpstreamFrameStepsLossOfSignal : Prop :=
  ∀ (s : State) (t k : Nat) (samples : List Nat), k < 2 →
    answers (.upstreamFrameEnd t k samples) s (fun x => (x.setOf t k).upFrame = ((s.setOf t k).upFrame + 1) % 2 ^ 32 ∧ (x.setOf t k).counted = false)
    ∧ ((s.setOf t k).counted = true → (s.setOf t k).lit = false → (s.setOf t k).darkRun = 3 → s.flag (losField k) t = false →
      answers (.upstreamFrameEnd t k samples) s fun x =>
        x.flag (losField k) t = true ∧ x.get TREE_OPT_DET.LOS_COUNT t = satAdd TREE_OPT_DET.LOS_COUNT.width (s.get TREE_OPT_DET.LOS_COUNT t) 1)
    ∧ ((s.setOf t k).counted = true → (s.setOf t k).lit = true → (s.setOf t k).litRun = 1 → s.flag (losField k) t = true →
      answers (.upstreamFrameEnd t k samples) s fun x => x.flag (losField k) t = false)

/-- ERROR_INJECT, ONE_SHOT_INJECT and PATTERN_CHECKER_LOCK (R87, R88, R306): an error whose interval has passed, or one asked for, falls on the chosen set's frame and is counted on a
tree, and leaves a fabric unit, but not on a tree in service that forbids it; the checker locks at the 64th correct bit in a row, counts bits and errors while locked, and
loses lock above 128 errors in the last 1,024 bits. -/
def Obligations.ErrorsAreInjectedAndChecked : Prop :=
  ∀ (s : State) (t d l place passed n : Nat) (terminal : Option Nat) (good : List Bool) (ok : Bool),
    (s.inService t = false ∨ s.flag TREE_INJ_CTRL.IN_SERVICE t = true →
      answers (.oneShotInject (.tree t) place) s (fun x =>
        x.get TREE_INJ_CTRL.INJECTED t = (s.get TREE_INJ_CTRL.INJECTED t + 1) % 2 ^ TREE_INJ_CTRL.INJECTED.width ∧ fieldsKept s x [TREE_INJ_CTRL.INJECTED.at t]
          ∧ ∃ up, (x.setOf t (s.injectSet t)).flips = (s.setOf t (s.injectSet t)).flips ++ [(s.flag TREE_INJ_CTRL.MODE t, up, place)])
      ∧ (s.flag TREE_INJ_CTRL.ENABLE t = true → s.injectInterval t ≤ passed →
        answers (.errorInject (.tree t) passed place) s fun x =>
          x.get TREE_INJ_CTRL.INJECTED t = (s.get TREE_INJ_CTRL.INJECTED t + 1) % 2 ^ TREE_INJ_CTRL.INJECTED.width ∧ fieldsKept s x [TREE_INJ_CTRL.INJECTED.at t]
            ∧ ∃ up, (x.setOf t (s.injectSet t)).flips = (s.setOf t (s.injectSet t)).flips ++ [(s.flag TREE_INJ_CTRL.MODE t, up, place)]))
    ∧ (s.inService t = true → s.flag TREE_INJ_CTRL.IN_SERVICE t = false →
      exec (.oneShotInject (.tree t) place) s = .next s ∧ exec (.errorInject (.tree t) passed place) s = .next s)
    ∧ (s.flag TREE_INJ_CTRL.ENABLE t = false ∨ passed < s.injectInterval t → exec (.errorInject (.tree t) passed place) s = .next s)
    ∧ answers (.oneShotInject (.fab d l) place) s (fun x => changesAndSends s x [] [.injected (.fab d l)])
    ∧ (s.flag FAB_PAT_CTRL.INJ_ENABLE (d * 68 + l) = true → s.fabInterval d l ≤ passed →
      answers (.errorInject (.fab d l) passed place) s (fun x => changesAndSends s x [] [.injected (.fab d l)]))
    ∧ (s.get TREE_PAT_CTRL.CHK_PATTERN t = 0 → exec (.patternCheckerLock (.tree t) terminal good) s = .next s)
    ∧ (s.get TREE_PAT_CTRL.CHK_PATTERN t ≠ 0 →
      (s.flag TREE_PAT_STATUS.CHK_LOCK t = false → (s.seenBits (.tree t)).length < 64 → s.checkedBits t terminal good = List.replicate n true →
        ((s.seenBits (.tree t)).length + n = 64 →
          answers (.patternCheckerLock (.tree t) terminal good) s fun x => x.flag TREE_PAT_STATUS.CHK_LOCK t = true ∧ x.seenBits (.tree t) = [])
        ∧ ((s.seenBits (.tree t)).length + n < 64 →
          answers (.patternCheckerLock (.tree t) terminal good) s fun x =>
            x.flag TREE_PAT_STATUS.CHK_LOCK t = false ∧ (x.seenBits (.tree t)).length = (s.seenBits (.tree t)).length + n))
      ∧ (s.flag TREE_PAT_STATUS.CHK_LOCK t = false → s.checkedBits t terminal good = [false] →
        answers (.patternCheckerLock (.tree t) terminal good) s fun x => x.flag TREE_PAT_STATUS.CHK_LOCK t = false ∧ x.seenBits (.tree t) = [])
      ∧ (s.flag TREE_PAT_STATUS.CHK_LOCK t = true → s.checkedBits t terminal good = [ok] →
        answers (.patternCheckerLock (.tree t) terminal good) s fun x =>
          x.get TREE_PAT_STATUS.ERRORS t = satAdd TREE_PAT_STATUS.ERRORS.width (s.get TREE_PAT_STATUS.ERRORS t) (if ok = true then 0 else 1)
            ∧ x.get TREE_PAT_BITS.BITS t = (s.get TREE_PAT_BITS.BITS t + 1) % 2 ^ TREE_PAT_BITS.BITS.width
            ∧ x.flag TREE_PAT_STATUS.CHK_LOCK t = decide ((((ok :: s.seenBits (.tree t)).take 1024).filter fun b => !b).length ≤ 128)))

/-- DOWNSTREAM_FRAME_START, PLOAM_RING_SAMPLE, LATE_MAP and DS_UNDERRUN (R23, R25, R94): 10 µs before a frame up to 4 messages leave the ring for it, in order and none by a standby; at
the frame's start a lit set sends the frame of that number with those messages, stamped on a Twill set; a map that is not complete goes out empty and is counted; an underrun
is counted, sets its flag and the die's speed fault, and keeps in hand the rest of a frame that has not all come. -/
def Obligations.DownstreamFramesAreSentOnTheirBoundary : Prop :=
  ∀ (s : State) (t k come : Nat) (at0 : NetTime) (o : OpenFrame), k < 2 →
    (s.standbyFor t = true → exec (.ploamRingSample t k) s = .next s)
    ∧ (s.standbyFor t = false → (s.setOf t k).sampled.length ≤ 4 →
      answers (.ploamRingSample t k) s fun x =>
        (x.setOf t k).sampled ++ (x.setOf t k).ploamDown = (s.setOf t k).sampled ++ (s.setOf t k).ploamDown ∧ (x.setOf t k).sampled.length ≤ 4
          ∧ ((∀ m ∈ (s.setOf t k).ploamDown, m.joined = false) →
            (x.setOf t k).sampled.length = min 4 ((s.setOf t k).sampled.length + (s.setOf t k).ploamDown.length))
          ∧ x.regs = s.regs)
    ∧ (k ∈ s.liveSets t → s.get DMK_TREE_STATE.STATE t ≠ 0 → (s.tree t).test = false → s.get (txState k) t = 2 →
      answers (.downstreamFrameStart t k at0) s fun x =>
        x.netSec = at0.sec % 2 ^ 48 ∧ x.netFrac = at0.frac ∧ (x.setOf t k).dsFrame = (s.setTime at0.sec at0.frac).frameNow t
          ∧ ∃ structs stamp, .dsFrame t k ((s.setTime at0.sec at0.frac).frameNow t) structs (s.setOf t k).sampled stamp ∈ x.outbox
            ∧ (stamp ≠ none ↔ s.twill t k = true))
    ∧ answers (.lateMap t k) s (fun x =>
        (∃ m ∈ (x.setOf t k).maps, m.frame = ((s.setOf t k).dsFrame + 1) % 2 ^ 32 ∧ m.empty = true ∧ m.grants = [])
          ∧ (∀ m ∈ (x.setOf t k).maps, m.frame = ((s.setOf t k).dsFrame + 1) % 2 ^ 32 → m.grants = [])
          ∧ x.liveOf TREE_CNT.COUNT (t * 8 + 1) = s.liveOf TREE_CNT.COUNT (t * 8 + 1) + 1 ∧ x.flag TREE_FRM_STATUS.LATE_MAP t = true)
    ∧ answers (.dsUnderrun t k come) s (fun x =>
        x.liveOf TREE_CNT.COUNT (t * 8 + 2) = s.liveOf TREE_CNT.COUNT (t * 8 + 2) + 1 ∧ x.flag TREE_FRM_STATUS.DS_UNDERRUN t = true
          ∧ x.flag SEG_GOV_STATUS.SPEED_FAULT (dieOf t) = true
          ∧ ((s.setOf t k).sending = some o → max o.come come < o.rest.length →
            (x.setOf t k).sending = some { o with rest := o.rest.drop (max o.come come), come := 0 })
          ∧ ((s.setOf t k).sending = none → (x.setOf t k).sending = none))

/-- STAGE_BEGIN, DMK_STAGE_DATA and STAGE_END (R15, R58, R59): a session opens on a slot that is not in force while the loader is free; bytes go to their image offset and no other byte of
the staged image changes; the end writes the slot on every powered die and reports its check. Under SEC_LOCK.DAMASK every command of the loader is LOCKED (10) and counted by the
firewall, and none changes the loader. -/
def Obligations.StagingWritesTheSlotOnEveryDie : Prop :=
  ∀ (s : State) (slot off : Nat) (bytes : List Nat),
    (s.flag SEC_LOCK.DAMASK 0 = false → s.loaderBusy = false → s.loader.reweave = none → slot ≠ s.get DMK_STATUS.ACTIVE_SLOT 0 →
      answers (.stageBegin slot) s fun x =>
        x.loader = { s.loader with staging := some slot, staged := [], checked := clearBit s.loader.checked slot }
          ∧ x.get DMK_STATUS.LAST_RESULT 0 = 0 ∧ x.get DMK_STATUS.WEAVE_STATE 0 = 4 ∧ pendingOnAll x 3842 ∧ x.slots = s.slots)
    ∧ (s.flag SEC_LOCK.DAMASK 0 = false → s.loader.staging = some slot → off + bytes.length ≤ 12582912 →
      answers (.dmkStageData off bytes) s fun x =>
        (∀ k, k < bytes.length → x.loader.staged.read (off + k) = BitVec.ofNat 8 (bytes.getD k 0))
          ∧ (∀ a, a < off ∨ off + bytes.length ≤ a → x.loader.staged.read a = s.loader.staged.read a)
          ∧ x = { s with loader := { s.loader with staged := x.loader.staged } })
    ∧ (s.flag SEC_LOCK.DAMASK 0 = false → s.loader.staging = some slot →
      answers .stageEnd s fun x =>
        (∀ d, s.powered d = true → x.slotOf d slot = s.loader.staged) ∧ (∀ d k, k ≠ slot → x.slotOf d k = s.slotOf d k)
          ∧ x.loader.staging = none ∧ pendingOnAll x 3842 ∧ x.get DMK_STATUS.LAST_RESULT 0 = (x.slotCheck slot none).2 % 16
          ∧ ((x.slotCheck slot none).2 = 0 → bitAt x.loader.checked slot = true))
    ∧ (s.flag SEC_LOCK.DAMASK 0 = true → ∀ c, c = .stageBegin slot ∨ c = .stageEnd ∨ c = .select slot false ∨ c = .confirm ∨ c = .weave ∨ c = .treeReweave off slot →
      answers c s fun x => x.get DMK_STATUS.LAST_RESULT 0 = 10 ∧ firewallEvent s x 3 ∧ x.loader = s.loader ∧ x.slots = s.slots ∧ x.mram = s.mram)

/-- SELECT, CONFIRM, WEAVE and WEAVE_DONE (R50, R52, R53, R59): a checked slot is selected by a record with the next epoch on every powered die whose write page has room for it; CONFIRM makes
the trial slot's selection permanent; WEAVE with every unit OFF starts to load the slot that the checks choose; a die that has loaded its sections is WOVEN and ON, and the last one ends the
weave. -/
def Obligations.SelectionAndFullWeave : Prop :=
  ∀ (s : State) (slot d c : Nat) (trial fell : Bool), s.flag SEC_LOCK.DAMASK 0 = false →
    (s.loaderBusy = false → s.loader.reweave = none →
      (bitAt s.loader.checked slot = true →
        answers (.select slot trial) s fun x =>
          x.get DMK_STATUS.LAST_RESULT 0 = 0
            ∧ ∀ e, s.powered e = true → (s.mramOf e).writePage < (s.mramOf e).pages.length → 96 ≤ (s.mramOf e).room (s.mramOf e).writePage →
              ∃ r ∈ (x.mramOf e).page (s.mramOf e).writePage, r.type = 1 ∧ r.committed = true
                ∧ r.payload = selectPayload (s.epoch + 1) slot trial (imageVersion (s.slotCopy slot)) (imageDigest (s.slotCopy slot)))
      ∧ (s.flag DMK_STATUS.TRIAL 0 = true → answers .confirm s fun x => x.flag DMK_STATUS.TRIAL 0 = false ∧ x.get DMK_STATUS.LAST_RESULT 0 = 0)
      ∧ ((∀ e, e < s.dies → s.unitsOf e = []) → s.weaveChoice = (some (d, slot, fell), c) →
        answers .weave s fun x =>
          x.loader.weave = 2 ∧ x.loader.woven = 0 ∧ x.loader.source = d ∧ x.loader.fellBack = fell ∧ x.get DMK_STATUS.ACTIVE_SLOT 0 = slot % 2
            ∧ x.get DMK_STATUS.WEAVE_STATE 0 = 2 ∧ ∀ type u, type ≠ packageType → x.sect type u = []))
    ∧ (s.loader.weave = 2 → s.powered d = true → s.isWoven d = false → s.latchOf (.die d) = 0 →
      answers (.weaveDone d) s fun x =>
        x.isWoven d = true ∧ ((∃ e, e ≠ d ∧ s.powered e = true ∧ s.isWoven e = false) → x.get PKG_DIE_CTRL.STATE d = 2 ∧ x.loader.weave = 2)
          ∧ ((∀ e, e ≠ d → s.powered e = true → s.isWoven e = true) → x.loader.weave = 0 ∧ x.get DMK_STATUS.WEAVE_STATE 0 = 3 ∧ x.get DMK_STATUS.LAST_RESULT 0 = 0))

/-- TREE_REWEAVE, REWEAVE_SECTIONS_LOADED and REWEAVE_COMPLETE (R54, R55, R56): a re-weave of a tree that is OFF runs at once where its check passes, and ends with the check's code where it
does not; one for the slot in force ends with SLOT_ACTIVE (12); one for a tree already under re-weave is latched, and for another tree BUSY (11); with its sections loaded the tree starts; once
it is ON the new slot is in force and counted. -/
def Obligations.TreeReweaveRunsAndCompletes : Prop :=
  ∀ (s : State) (t slot d c : Nat) (r : Reweave), s.flag SEC_LOCK.DAMASK 0 = false → s.loaderBusy = false →
    (s.loader.reweave = none →
      (s.reweaveCheck t slot = some (d, 0) → s.get DMK_TREE_STATE.STATE t = 0 →
        answers (.treeReweave t slot) s fun x =>
          x.loader.reweave = some ⟨t, slot, d, true⟩ ∧ x.flag DMK_TREE_STATE.REWEAVE t = true ∧ x.get DMK_STATUS.WEAVE_STATE 0 = 5 ∧ x.get DMK_STATUS.LAST_RESULT 0 = 0)
      ∧ (s.reweaveCheck t slot = some (d, c + 1) → c < 15 → answers (.treeReweave t slot) s fun x => x.loader = s.loader ∧ x.get DMK_STATUS.LAST_RESULT 0 = c + 1)
      ∧ (slot = s.get DMK_STATUS.ACTIVE_SLOT 0 → answers (.treeReweave t slot) s fun x => x.loader = s.loader ∧ x.get DMK_STATUS.LAST_RESULT 0 = 12))
    ∧ (s.loader.reweave = some r →
      (r.tree = t → answers (.treeReweave t slot) s fun x => x.loader = { s.loader with latchedReweave := some slot } ∧ x.get DMK_STATUS.LAST_RESULT 0 = 0)
      ∧ (r.tree ≠ t → answers (.treeReweave t slot) s fun x => x.loader = s.loader ∧ x.get DMK_STATUS.LAST_RESULT 0 = 11)
      ∧ (r.running = true → s.get DMK_TREE_STATE.STATE r.tree = 0 → lineMode (imageSect (s.slotOf r.source r.slot) 0x0101 (dieOf r.tree) (r.tree % 8)) ≠ 0 →
        answers .reweaveSectionsLoaded s fun x =>
          x.get DMK_TREE_STATE.STATE r.tree = 1 ∧ x.get DMK_TREE_STATE.LINE_MODE r.tree = lineMode (imageSect (s.slotOf r.source r.slot) 0x0101 (dieOf r.tree) (r.tree % 8)) % 8)
      ∧ (r.running = true → s.get DMK_TREE_STATE.STATE r.tree = 1 → s.loader.latchedReweave = none → s.loader.latchedWeave = false → s.latchOf (.tree r.tree) = 0 →
        answers .reweaveComplete s fun x =>
          x.get DMK_TREE_STATE.STATE r.tree = 2 ∧ x.loader.reweave = none ∧ x.get DMK_STATUS.ACTIVE_SLOT 0 = r.slot % 2 ∧ x.flag DMK_TREE_STATE.REWEAVE r.tree = false
            ∧ x.get DMK_TREE_STATE.REWEAVE_COUNT r.tree = (s.get DMK_TREE_STATE.REWEAVE_COUNT r.tree + 1) % 2 ^ DMK_TREE_STATE.REWEAVE_COUNT.width
            ∧ x.get DMK_STATUS.LAST_RESULT 0 = 0))

/-- MRAM_RECORD_COMMIT, RECORD_ROTATION and PAGE_RECLAIM (R47, R379, R414): the next record asked of a die that has room for it is committed behind the others of the write page, with the
die's next SEQ; a rotation moves every record of the oldest page that still holds to the destination page and leaves that page free as the next destination; with no free page, reclaiming
writes the record that waits once it fits. -/
def Obligations.RecordsAreCommittedAndCopiedForward : Prop :=
  ∀ (s : State) (d p : Nat) (r : MRec) (rest : List MRec) (old : List Nat),
    let m := s.mramOf d
    m.pages.length = 16 → m.writePage < 16 → m.dest < 16 →
    (m.todo = r :: rest → s.recordRefused d r.type r.key r.payload.length = false → 32 + (r.payload.length + 7) / 8 * 8 ≤ m.room m.writePage →
      answers (.mramRecordCommit d) s fun x =>
        (x.mramOf d).todo = rest ∧ (x.mramOf d).seq = (m.seq + 1) % 2 ^ 32
          ∧ ∃ q, q.type = r.type ∧ q.key = r.key ∧ q.payload = r.payload ∧ q.seq = m.seq ∧ q.committed = true ∧ q.crcOk = true
            ∧ (x.mramOf d).page m.writePage = m.page m.writePage ++ [q])
    ∧ (m.free.length ≤ 4 → (m.age.filter fun a => a != m.writePage && a != m.dest) = p :: old → p < 16 →
      answers (.recordRotation d) s fun x =>
        (∀ q ∈ m.page p, m.holds q = true → q ∈ (x.mramOf d).page m.dest) ∧ (∀ q ∈ m.page m.dest, q ∈ (x.mramOf d).page m.dest)
          ∧ (x.mramOf d).page p = [] ∧ (x.mramOf d).dest = p ∧ ∀ a, a ≠ p → a ≠ m.dest → (x.mramOf d).page a = m.page a)
    ∧ (m.free = [] → m.waiting = [r] → (MramDie.write r (m.reclaim m.stalest)).2 = true →
      answers (.pageReclaim d) s fun x => (x.mramOf d).waiting = [] ∧ r ∈ (x.mramOf d).pages.flatMap id)

/-- SEC_LOCK_SET and NONCE_EXPIRY (R60, R63, R64): each bit written as 1 sets its lock, no lock clears, and DEBUG locks the debug port; a nonce that is out of time is valid no more. -/
def Obligations.LocksOnlySetAndNonceExpires : Prop :=
  ∀ (s : State) (mask : Nat),
    answers (.secLockSet mask) s (fun x =>
      (∀ f ∈ lockFields, x.flag f 0 = (bitAt mask f.lsb || s.flag f 0))
        ∧ x.get SEC_DBG_STATUS.STATE 0 = (if (bitAt mask SEC_LOCK.DEBUG.lsb || s.flag SEC_LOCK.DEBUG 0) = true then 3 else s.get SEC_DBG_STATUS.STATE 0)
        ∧ changesOnly s x (SEC_DBG_STATUS.STATE.at 0 :: lockFields.map fun f => f.at 0))
    ∧ answers .nonceExpiry s (fun x => x.flag SEC_DBG_STATUS.NONCE_VALID 0 = false ∧ changesOnly s x [SEC_DBG_STATUS.NONCE_VALID.at 0])

/-- DBG_NONCE_REQUEST, DBG_PASSWORD_ATTEMPT, DBG_SIGNED_ATTEMPT and DBG_SET_PASSWORD (R15, R63, R64): a port that is neither locked nor shut makes a nonce; an attempt before WAIT_MS has passed is
TOO_SOON (3); a later one opens the port where its credential fits, and otherwise counts a failure, the sixteenth of which shuts it; a signed attempt uses its nonce up; while the port is open a
password is set by a record with a fresh salt and its hash on every powered die that has room for it. A locked port takes nothing (5), and a submission through the bus then counts
one firewall event with source LOCKED (R15). -/
def Obligations.DebugPortOpensAndShuts : Prop :=
  ∀ (s : State) (own : Option (List Nat)) (elapsed : Nat) (r : MRec),
    (s.flag SEC_LOCK.DEBUG 0 = true → ∀ c, c = .dbgNonceRequest ∨ c = .dbgPasswordAttempt own elapsed ∨ c = .dbgSignedAttempt own elapsed ∨ c = .dbgSetPassword own →
      answers c s fun x =>
        x.get SEC_DBG_STATUS.LAST_RESULT 0 = 5 ∧ changesOnly s x (SEC_DBG_STATUS.LAST_RESULT.at 0 :: firewallKeys s)
          ∧ (own = none → firewallEvent s x 3) ∧ (own ≠ none → c ≠ .dbgNonceRequest → changesOnly s x [SEC_DBG_STATUS.LAST_RESULT.at 0]))
    ∧ (s.flag SEC_LOCK.DEBUG 0 = false → s.get SEC_DBG_STATUS.STATE 0 ≠ 2 →
      answers .dbgNonceRequest s (fun x =>
        x.flag SEC_DBG_STATUS.NONCE_VALID 0 = true ∧ ∀ k, k < 4 → x.get SEC_DBG_NONCE.NONCE k = bits (Config.freshNonce s.uses).toNat (64 * k) 64)
      ∧ (elapsed < s.get SEC_DBG_STATUS.WAIT_MS 0 → ∀ c, c = .dbgPasswordAttempt own elapsed ∨ c = .dbgSignedAttempt own elapsed →
        answers c s fun x => x.get SEC_DBG_STATUS.LAST_RESULT 0 = 3 ∧ changesOnly s x [SEC_DBG_STATUS.LAST_RESULT.at 0, SEC_DBG_STATUS.WAIT_MS.at 0])
      ∧ (s.get SEC_DBG_STATUS.WAIT_MS 0 ≤ elapsed → s.passwordRecord = some r →
        answers (.dbgPasswordAttempt own elapsed) s fun x =>
          x.get SEC_DBG_STATUS.WAIT_MS 0 = 10000
            ∧ if beBytes 48 (Config.sha384 (r.payload.take 16 ++ s.credential own 4)) = (r.payload.drop 16).take 48 then
                x.get SEC_DBG_STATUS.STATE 0 = 1 ∧ x.get SEC_DBG_STATUS.LAST_RESULT 0 = 1
              else
                x.get SEC_DBG_STATUS.LAST_RESULT 0 = 2 ∧ x.get SEC_DBG_STATUS.FAILURES 0 = satAdd 5 (s.get SEC_DBG_STATUS.FAILURES 0) 1
                  ∧ x.get SEC_DBG_STATUS.STATE 0 = if 15 ≤ s.get SEC_DBG_STATUS.FAILURES 0 then 2 else s.get SEC_DBG_STATUS.STATE 0)
      ∧ (s.get SEC_DBG_STATUS.WAIT_MS 0 ≤ elapsed → s.flag SEC_DBG_STATUS.NONCE_VALID 0 = true →
        answers (.dbgSignedAttempt own elapsed) s fun x =>
          x.flag SEC_DBG_STATUS.NONCE_VALID 0 = false ∧ x.get SEC_DBG_STATUS.WAIT_MS 0 = 10000
            ∧ (Config.sha384 ((s.credential own 25).take 97) ≠ s.ident.debugKeyHash → x.get SEC_DBG_STATUS.LAST_RESULT 0 = 2)
            ∧ (x.get SEC_DBG_STATUS.LAST_RESULT 0 = 1 ∧ x.get SEC_DBG_STATUS.STATE 0 = 1
              ∨ x.get SEC_DBG_STATUS.LAST_RESULT 0 = 2 ∧ x.get SEC_DBG_STATUS.FAILURES 0 = satAdd 5 (s.get SEC_DBG_STATUS.FAILURES 0) 1))
      ∧ (s.get SEC_DBG_STATUS.STATE 0 = 1 → (s.credential own 4).any (fun b => b != 0) = true →
        answers (.dbgSetPassword own) s fun x =>
          x.get SEC_DBG_STATUS.LAST_RESULT 0 = 8 ∧ s.uses < x.uses
            ∧ ∀ e, s.powered e = true → (s.mramOf e).writePage < (s.mramOf e).pages.length → 96 ≤ (s.mramOf e).room (s.mramOf e).writePage →
              ∃ q ∈ (x.mramOf e).page (s.mramOf e).writePage, q.type = 0x30 ∧ q.committed = true
                ∧ q.payload = leBytes 16 (Config.freshSalt s.uses).toNat ++ beBytes 48 (Config.sha384 (leBytes 16 (Config.freshSalt s.uses).toNat ++ s.credential own 4))))

/-- QUIET_WINDOW_OPEN, QUIET_FORCE, SERIAL_NUMBER_FOUND, RANGING_GRANT_RESULT and CHIFFON_PARAMS (R117, R118, R119, R123): a quiet window is reserved and counted on a live set, but
skipped, counted and shown blocked while a gated allocation is active; QUIET_FORCE opens one whatever the gates; a serial number heard in a window makes the lowest FREE index SN_FOUND
with its delay and distance; a directed grant's search sets the final delay and sends it, is repeated, or frees the index; Chiffon_Params is broadcast. -/
def Obligations.QuietWindowsFindTerminals : Prop :=
  ∀ (s : State) (t k n delay sn : Nat) (arrival drift : Int) (o : Option Nat), s.standbyFor t = false → k < 2 →
    (s.get DMK_TREE_STATE.STATE t = 2 → k ∈ s.liveSets t →
      (s.flag TREE_RNG_CTRL.QUIET_EN t = true → s.gatedActive t k = false →
        answers (.quietWindowOpen t k) s fun x =>
          x.resvOf t k = s.resvOf t k ++ [s.quietResv t k (((s.setOf t k).dsFrame + 3) % 2 ^ 32)]
            ∧ x.flag TREE_RNG_STATUS.QW_BLOCKED t = false ∧ fieldsKept s x [TREE_RNG_STATUS.QW_BLOCKED.at t])
      ∧ (s.flag TREE_RNG_CTRL.QUIET_EN t = true → s.gatedActive t k = true →
        answers (.quietWindowOpen t k) s fun x =>
          x.resv = s.resv ∧ x.flag TREE_RNG_STATUS.QW_BLOCKED t = true ∧ x.liveOf TREE_RNG_CNT.COUNT (t * 10 + 7) = s.liveOf TREE_RNG_CNT.COUNT (t * 10 + 7) + 1)
      ∧ answers (.quietForce t) s (fun x =>
        x.resvOf t k = s.resvOf t k ++ [{ s.quietResv t k (((s.setOf t k).dsFrame + 3) % 2 ^ 32) with forced := true }] ∧ x.regs = s.regs))
    ∧ (s.freeIndex t = some n → s.serialHeld t n sn [1, 2] = none → s.serialHeld t n sn [3, 4] = none → s.lostHeld t n k sn = none → sn < 2 ^ 64 →
      s.flag TREE_RNG_CTRL.AUTO_ADMIT t = false →
      answers (.serialNumberFound t k arrival delay sn) s fun x =>
        let rtd := s.coarseRtd t k arrival delay
        x.rngState t n = 2 ∧ x.get TREE_RNG_TERM.SET (termAt t n) = k ∧ x.get TREE_RNG_TERM.METHOD (termAt t n) = 0 ∧ x.get TREE_RNG_SN.SERIAL (termAt t n) = sn
          ∧ x.get TREE_RNG_TERM.EQD (termAt t n) = s.eqdOf t k rtd % 2 ^ TREE_RNG_TERM.EQD.width
          ∧ x.get TREE_RNG_TERM.DISTANCE (termAt t n) = distanceOf rtd % 2 ^ TREE_RNG_TERM.DISTANCE.width
          ∧ x.liveOf TREE_RNG_CNT.COUNT (t * 10 + 3) = s.liveOf TREE_RNG_CNT.COUNT (t * 10 + 3) + 1)
    ∧ (s.freeIndex t = none → exec (.serialNumberFound t k arrival delay sn) s = .next s)
    ∧ (s.rngState t n = 3 → (s.term t n).rangingDue = true →
      let j := s.get TREE_RNG_TERM.SET (termAt t n)
      ((s.takeRange t j n).1 = .found drift o →
        answers (.rangingGrantResult t n) s fun x =>
          let e := s.eqdOf t j ((s.term t n).rtd + drift : Int).toNat % 2 ^ TREE_RNG_TERM.EQD.width
          x.get TREE_RNG_TERM.EQD (termAt t n) = e ∧ (x.term t n).rangingDue = false
            ∧ (x.setOf t j).ploamDown = (s.setOf t j).ploamDown ++ [⟨.rangingTime, s.onuId t n, rangingTime true e, false⟩])
      ∧ ((s.takeRange t j n).1 = .nothing ∨ (s.takeRange t j n).1 = .lostByPart →
        ((s.term t n).attempts + 1 ≤ s.get TREE_RNG_CTRL.RETRY_MAX t →
          answers (.rangingGrantResult t n) s fun x =>
            x.rngState t n = 3 ∧ (x.term t n).attempts = (s.term t n).attempts + 1 ∧ fieldsKept s x [GRANT_RESV_STATUS.ACCEPT.at (dieOf t)])
        ∧ (s.get TREE_RNG_CTRL.RETRY_MAX t < (s.term t n).attempts + 1 →
          answers (.rangingGrantResult t n) s fun x => x.rngState t n = 0 ∧ x.get TREE_RNG_SN.SERIAL (termAt t n) = 0 ∧ x.term t n = {})))
    ∧ (s.twill t 0 = true → s.get DMK_TREE_STATE.STATE t = 2 →
      answers (.chiffonParams t) s fun x =>
        ∃ content other, content.take 3 = beBytes 3 (18662400 - rtdOfKm (s.get TREE_RNG_CTRL.QW_MIN_KM t)) ∧ content.length = 36
          ∧ (x.setOf t 0).ploamDown = (s.setOf t 0).ploamDown ++ [⟨.chiffonParams, 0x3FF, content, false⟩, ⟨.preAssignedDelay, 0x3FF, other, false⟩]
          ∧ x.regs = s.regs)

/-- SIGNATURE_DETECTION, CHIFFON_INVITE, MICRO_WINDOW_RESULT, ADMIT_WAIT_EXPIRY, CHIFFON_HOLD and STEP_MISSED (R125 to R130, R132 to R134): a signature strong enough, in the search
span, not merged and not blocked takes a pending detection and the lowest FREE index; without one it is counted and dropped; Tweed reserves a micro-window and invites; its search makes the terminal
SN_FOUND, leads to a second invitation, or frees the index; a terminal not decided on in time is freed; one that waits is held; missed steps are counted and at last abandoned. -/
def Obligations.ChiffonDiscoversTerminals : Prop :=
  ∀ (s : State) (t i j m n code z frames train sn : Nat) (lag arrival drift : Int) (step : RngStep), s.standbyFor t = false → i < 4 →
    (s.twill t 0 = true → s.get DMK_TREE_STATE.STATE t = 2 → s.flag TREE_RNG_CTRL.CHIFFON_EN t = true → bitAt (s.get TREE_RNG_CHF.CODE_MASK t) code = true →
      s.inSpan t (16 * lag) = true → frames ≤ 8 → s.correlated t code lag frames = some (z, arrival, train) → code < 16 →
      (∀ q, q < 4 → s.flag TREE_RNG_DETECT.VALID (detectAt t q) = true →
        s.get TREE_RNG_DETECT.CODE (detectAt t q) ≠ code ∨ 4 < distance arrival (toSigned 26 (s.get TREE_RNG_DETECT.ARRIVAL (detectAt t q)))) →
      (∀ b ∈ (s.tree t).blocked, wrapSub 32 (s.setOf t 0).upFrame b.2.2 < 32 → b.1 ≠ code ∨ 1024 < distance arrival (toSigned 26 b.2.1)) →
      (s.freeIndex t = some n → (∀ q, q < i → s.slotTaken t q = true) → s.slotTaken t i = false →
        answers (.signatureDetection t code lag frames) s fun x =>
          x.flag TREE_RNG_DETECT.VALID (detectAt t i) = true ∧ x.get TREE_RNG_DETECT.CODE (detectAt t i) = code ∧ x.get TREE_RNG_DETECT.ATTEMPT (detectAt t i) = 0
            ∧ x.get TREE_RNG_DETECT.ARRIVAL (detectAt t i) = ofSigned 26 arrival ∧ x.get TREE_RNG_DETECT.TERMINAL (detectAt t i) = n
            ∧ x.rngState t n = 1 ∧ x.onuId t n = 1016 + i ∧ (x.term t n).detection = i ∧ (x.term t n).trainFrame = train
            ∧ x.liveOf TREE_RNG_CNT.COUNT (t * 10) = s.liveOf TREE_RNG_CNT.COUNT (t * 10) + 1)
      ∧ (s.freeIndex t = none →
        answers (.signatureDetection t code lag frames) s fun x => x.regs = s.regs ∧ x.liveOf TREE_RNG_CNT.COUNT (t * 10 + 8) = s.liveOf TREE_RNG_CNT.COUNT (t * 10 + 8) + 1))
    ∧ (s.correlated t code lag frames = none → exec (.signatureDetection t code lag frames) s = .next s)
    ∧ (s.flag TREE_RNG_DETECT.VALID (detectAt t i) = true → n = s.get TREE_RNG_DETECT.TERMINAL (detectAt t i) →
      let content := [s.get TREE_RNG_DETECT.CODE (detectAt t i)] ++ beBytes 2 (s.term t n).trainFrame ++ beBytes 3 (s.coarseEqd t i) ++ beBytes 2 (1016 + i)
        ++ beBytes 2 (m % 2 ^ 16) ++ [n, s.get TREE_RNG_DETECT.ATTEMPT (detectAt t i) + 1] ++ List.replicate 24 0
      let spare := wrapSub 32 m (s.leavesIn t 0 ⟨.chiffonInvite, 0x3FF, content, false⟩)
      let dist := wrapSub 16 (m % 2 ^ 16) (s.frame % 2 ^ 16)
      (2 ≤ spare → spare < 2 ^ 31 → 0 ∈ s.liveSets t → 3 ≤ dist → dist ≤ 64 →
        ((s.resvOf t 0).filter fun x => x.frame == (s.frame + dist) % 2 ^ 32 && x.silent == 0).length < 8 →
        answers (.chiffonInvite t i m) s fun x =>
          x.rngState t n = 1 ∧ (x.term t n).mwFrame = m % 2 ^ 32 ∧ x.get GRANT_RESV_STATUS.ACCEPT (dieOf t) = 0
            ∧ (∃ r, x.resvOf t 0 = s.resvOf t 0 ++ [r] ∧ r.kind = .microWindow ∧ r.onuId = 1016 + i ∧ r.units = 11)
            ∧ (x.setOf t 0).ploamDown = (s.setOf t 0).ploamDown ++ [⟨.chiffonInvite, 0x3FF, content, false⟩]
            ∧ x.liveOf TREE_RNG_CNT.COUNT (t * 10 + 1) = s.liveOf TREE_RNG_CNT.COUNT (t * 10 + 1) + 1)
      ∧ (spare < 2 → exec (.chiffonInvite t i m) s = .next s)
      ∧ ((s.takeRange t 0 n).1 = .found drift (some sn) → s.serialHeld t n sn [3, 4] = none → s.lostHeld t n 0 sn = none → sn < 2 ^ 64 →
        s.flag TREE_RNG_CTRL.AUTO_ADMIT t = false →
        answers (.microWindowResult t i) s fun x =>
          x.rngState t n = 2 ∧ x.get TREE_RNG_TERM.METHOD (termAt t n) = 1 ∧ x.get TREE_RNG_SN.SERIAL (termAt t n) = sn
            ∧ x.flag TREE_RNG_DETECT.VALID (detectAt t i) = false)
      ∧ ((∀ d v, (s.takeRange t 0 n).1 ≠ .found d (some v)) →
        (s.get TREE_RNG_DETECT.ATTEMPT (detectAt t i) = 0 →
          answers (.microWindowResult t i) s fun x =>
            x.get TREE_RNG_DETECT.ATTEMPT (detectAt t i) = 1 ∧ x.flag TREE_RNG_DETECT.VALID (detectAt t i) = true ∧ fieldsKept s x [TREE_RNG_DETECT.ATTEMPT.at (detectAt t i)])
        ∧ (s.get TREE_RNG_DETECT.ATTEMPT (detectAt t i) ≠ 0 →
          answers (.microWindowResult t i) s fun x =>
            x.flag TREE_RNG_DETECT.VALID (detectAt t i) = false ∧ x.rngState t n = 0 ∧ x.liveOf TREE_RNG_CNT.COUNT (t * 10 + 2) = s.liveOf TREE_RNG_CNT.COUNT (t * 10 + 2) + 1)))
    ∧ (s.rngState t j = 2 →
      answers (.admitWaitExpiry t j) s (fun x => x.rngState t j = 0 ∧ x.flag IC_SRC.PENDING (srcAt (dieOf t) (128 * (t % 8) + 4)) = true)
      ∧ (s.get TREE_RNG_TERM.METHOD (termAt t j) = 1 →
        answers (.chiffonHold t j) s fun x =>
          (∃ content, content.length = 36 ∧ (x.setOf t 0).ploamDown = (s.setOf t 0).ploamDown ++ [⟨.chiffonHold, s.onuId t j, content, false⟩])
            ∧ (∀ e ∈ (x.term t j).misses, e.1 ≠ .chiffonHold) ∧ x.regs = s.regs))
    ∧ (let c := (((s.term t j).misses.find? fun e => e.1 == step).map fun e => e.2).getD 0 + 1
      (c < s.get TREE_RNG_CTRL.RETRY_MAX t →
        answers (.stepMissed t (some j) step) s fun x =>
          (step, c) ∈ (x.term t j).misses ∧ (∀ e ∈ (x.term t j).misses, e.1 = step → e.2 = c)
            ∧ x.liveOf TREE_RNG_CNT.COUNT (t * 10 + 9) = s.liveOf TREE_RNG_CNT.COUNT (t * 10 + 9) + 1 ∧ x.regs = s.regs)
      ∧ (s.get TREE_RNG_CTRL.RETRY_MAX t ≤ c →
        (s.rngState t j = 2 → answers (.stepMissed t (some j) step) s fun x => x.rngState t j = 0)
        ∧ (s.rngState t j = 3 → answers (.stepMissed t (some j) step) s fun x => x.rngState t j = 5 ∧ x.onuId t j = s.onuId t j)))
    ∧ answers (.stepMissed t none step) s (fun x =>
        x.liveOf TREE_RNG_CNT.COUNT (t * 10 + 9) = s.liveOf TREE_RNG_CNT.COUNT (t * 10 + 9) + 1
          ∧ (x.tree t).misses = if (s.tree t).misses + 1 < s.get TREE_RNG_CTRL.RETRY_MAX t then (s.tree t).misses + 1 else 0)

/-- ASSIGN_ONU_ID, ASSIGN_ALLOC_ID, DRIFT_CORRECTION, TERMINAL_LOST and the host's ADMIT, DENY, RERANGE, DEACTIVATE and FREE (R133, R135, R136, R137, R139, R415): an admitted terminal
is RANGING and sent its ONU-ID, and its delay at once if its Chiffon range is fresh; a due assignment or de-allocation is sent; a sum of drifts at the step moves its delay; loss of burst
makes a terminal LOST and keeps its ONU-ID; each host command answers 0 in the states it names and BAD_STATE (1) in the others. -/
def Obligations.TerminalsAreActivatedAndReleased : Prop :=
  ∀ (s : State) (t n id a m : Nat), s.standbyFor t = false →
    let i := termAt t n
    let k := s.get TREE_RNG_TERM.SET i
    (s.rngState t n = 3 → (s.term t n).assignDue = true →
      answers (.assignOnuId t n) s fun x =>
        (∃ more, (x.setOf t k).ploamDown = (s.setOf t k).ploamDown ++ ⟨.assignOnuId, 0x3FF, beBytes 2 (s.onuId t n) ++ beBytes 8 (s.get TREE_RNG_SN.SERIAL i), false⟩ :: more
            ∧ (s.twill t k = true → (⟨.terminalIndex, s.onuId t n, n :: List.replicate 35 0, true⟩ : Ploam) ∈ more)
            ∧ (s.get TREE_RNG_TERM.METHOD i = 1 → s.nowNs - (s.term t n).rangedAt < 10 ^ 9 → (⟨.rangingTime, s.onuId t n, rangingTime true (s.get TREE_RNG_TERM.EQD i), true⟩ : Ploam) ∈ more))
          ∧ (x.term t n).assignDue = false ∧ (s.get TREE_RNG_TERM.METHOD i = 0 → (x.term t n).rangingDue = true)
          ∧ fieldsKept s x [GRANT_RESV_STATUS.ACCEPT.at (dieOf t)])
    ∧ ((s.alloc t a).deallocDue = some (m, id) →
      answers (.assignAllocId t a) s fun x =>
        (x.setOf t (s.get ALLOC.SET (allocAt t a))).ploamDown
            = (s.setOf t (s.get ALLOC.SET (allocAt t a))).ploamDown ++ [⟨.assignAllocId, s.onuId t m, beBytes 2 id ++ [255], false⟩]
          ∧ (x.alloc t a).deallocDue = none ∧ x.regs = s.regs)
    ∧ ((s.alloc t a).deallocDue = none → (s.alloc t a).assignDue = true →
      answers (.assignAllocId t a) s fun x =>
        (x.setOf t (s.get ALLOC.SET (allocAt t a))).ploamDown = (s.setOf t (s.get ALLOC.SET (allocAt t a))).ploamDown
            ++ [⟨.assignAllocId, s.onuId t (s.get ALLOC.TERMINAL (allocAt t a)), beBytes 2 (s.get ALLOC.ALLOC_ID (allocAt t a)) ++ [1], false⟩]
          ∧ (x.alloc t a).assignDue = false ∧ x.regs = s.regs)
    ∧ (s.rngState t n = 4 → (s.term t n).fix = none → 16 * s.get TREE_RNG_CTRL.DRIFT_STEP t ≤ (s.term t n).drifts.sum.natAbs →
      answers (.driftCorrection t n) s fun x =>
        let fix := twillSymbols (s.term t n).rate (-round16 (s.term t n).drifts.sum)
        (x.term t n).fix = some fix ∧ (x.term t n).drifts = [] ∧ x.regs = s.regs
          ∧ (x.setOf t k).ploamDown
            = (s.setOf t k).ploamDown ++ [⟨.rangingTime, s.onuId t n, rangingTime false (if s.twill t k = true then fix else Config.stdDelta k fix), false⟩])
    ∧ (s.rngState t n = 4 → s.flag TREE_DEF_TERM.LOB i = true →
      answers (.terminalLost t n) s fun x =>
        x.rngState t n = 5 ∧ x.onuId t n = s.onuId t n ∧ x.get TREE_RNG_SN.SERIAL i = s.get TREE_RNG_SN.SERIAL i ∧ x.flag TREE_DEF_TERM.OPERATION i = false
          ∧ x.flag IC_SRC.PENDING (srcAt (dieOf t) (128 * (t % 8) + 4)) = true)
    ∧ (s.rngState t n = 2 →
      (id ≤ 1015 → s.onuIdTaken t k n id = false →
        answers (.admitTerminal t n id) s fun x => x.rngState t n = 3 ∧ x.onuId t n = id ∧ (x.term t n).assignDue = true ∧ x.get TREE_RNG_STATUS.CMD_RESULT t = 0)
      ∧ (1015 < id → answers (.admitTerminal t n id) s fun x => x.get TREE_RNG_STATUS.CMD_RESULT t = 4 ∧ changesOnly s x [TREE_RNG_STATUS.CMD_RESULT.at t])
      ∧ answers (.deny t n) s (fun x => x.rngState t n = 0 ∧ x.get TREE_RNG_STATUS.CMD_RESULT t = 0))
    ∧ (s.rngState t n = 4 ∨ s.rngState t n = 5 →
      answers (.rerange t n) s (fun x => x.rngState t n = 3 ∧ (x.term t n).rangingDue = true ∧ x.onuId t n = s.onuId t n ∧ x.get TREE_RNG_STATUS.CMD_RESULT t = 0)
      ∧ answers (.deactivate t n) s (fun x =>
        x.rngState t n = 5 ∧ x.onuId t n = s.onuId t n ∧ x.get TREE_RNG_STATUS.CMD_RESULT t = 0
          ∧ (x.setOf t k).ploamDown = ((s.setOf t k).ploamDown ++ [(⟨.deactivate, s.onuId t n, [], false⟩ : Ploam)]).filter fun y : Ploam => !stepOf (s.onuId t n) y))
    ∧ (s.rngState t n = 1 ∨ s.rngState t n = 2 → answers (.deactivate t n) s fun x => x.rngState t n = 0 ∧ x.get TREE_RNG_STATUS.CMD_RESULT t = 0)
    ∧ (s.rngState t n = 5 → answers (.free t n) s fun x => x.rngState t n = 0 ∧ x.get TREE_RNG_STATUS.CMD_RESULT t = 0)
    ∧ (s.rngState t n ≠ 2 → ∀ c, c = .admitTerminal t n id ∨ c = .deny t n →
      answers c s fun x => x.get TREE_RNG_STATUS.CMD_RESULT t = 1 ∧ changesOnly s x [TREE_RNG_STATUS.CMD_RESULT.at t])
    ∧ (s.rngState t n = 0 → ∀ c, c = .rerange t n ∨ c = .deactivate t n ∨ c = .free t n →
      answers c s fun x => x.get TREE_RNG_STATUS.CMD_RESULT t = 1 ∧ changesOnly s x [TREE_RNG_STATUS.CMD_RESULT.at t])

/-- GRANT_ACC_READ, CIRC_ACC_READ, TM_ACC_READ, METER_READ, MSEC_READ and KEY_READ (R144, R184, R228, R203, R265, R251): the context, header or entry that the access names is shown in the
data words of its window, with its CHECK where it has one; RESULT is 0, DONE is 1, and nothing else changes. An index that does not exist reads BAD_INDEX (2). -/
def Obligations.AccessWindowsShowContexts : Prop :=
  ∀ (s : State) (d target tree index list m : Nat) (tied : Bool),
    answers (.grantAccRead d 0 tree index list) s (fun x =>
      accessShows s x GRANT_ACC_DATA.DATA (d * 8) 8 (withCheck (s.packRec ALLOC.fields (allocAt (8 * d + tree) index))) GRANT_ACC_CTRL.RESULT GRANT_ACC_CTRL.DONE d)
    ∧ answers (.grantAccRead d 1 tree index list) s (fun x =>
      accessShows s x GRANT_ACC_DATA.DATA (d * 8) 8 (s.packRec GATEHDR.fields (listAt d list)) GRANT_ACC_CTRL.RESULT GRANT_ACC_CTRL.DONE d)
    ∧ answers (.grantAccRead d 2 tree index list) s (fun x =>
      accessShows s x GRANT_ACC_DATA.DATA (d * 8) 8 (s.packRec GATEOP.fields (listAt d list * 1024 + index)) GRANT_ACC_CTRL.RESULT GRANT_ACC_CTRL.DONE d)
    ∧ answers (.grantAccRead d 3 tree index list) s (fun x =>
      accessShows s x GRANT_ACC_DATA.DATA (d * 8) 8 (s.packRec GATEADM.fields (listAt d list * 1024 + index)) GRANT_ACC_CTRL.RESULT GRANT_ACC_CTRL.DONE d)
    ∧ answers (.circAccRead d false index) s (fun x =>
      accessShows s x CIRC_ACC_DATA.DATA (d * 8) 8 (withCheck (s.packRec CIRC.fields (circAt d index))) CIRC_ACC_CTRL.RESULT CIRC_ACC_CTRL.DONE d)
    ∧ (index < 128 → answers (.circAccRead d true index) s fun x =>
      accessShows s x CIRC_ACC_DATA.DATA (d * 8) 8 (withCheck (s.packRec CGRP.fields (groupAt d index))) CIRC_ACC_CTRL.RESULT CIRC_ACC_CTRL.DONE d)
    ∧ (index < targetSize target → targetNode target = false → answers (.tmAccRead d target index) s fun x =>
      accessShows s x TM_ACC_DATA.DATA (d * 8) 8 (withCheck (s.packRec QUEUE.fields (queueAt d (targetUp target) index))) TM_ACC_CTRL.RESULT TM_ACC_CTRL.DONE d)
    ∧ (index < targetSize target → targetNode target = true → answers (.tmAccRead d target index) s fun x =>
      accessShows s x TM_ACC_DATA.DATA (d * 8) 8 (withCheck (s.packRec NODE.fields (nodeAt d (targetUp target) index))) TM_ACC_CTRL.RESULT TM_ACC_CTRL.DONE d)
    ∧ (targetSize target ≤ index → answers (.tmAccRead d target index) s fun x => accessEnds s x TM_ACC_CTRL.RESULT TM_ACC_CTRL.DONE d 2 [])
    ∧ answers (.meterRead d m) s (fun x =>
      accessShows s x CLASS_METER_DATA.DATA (d * 4) 4 (s.packRec METER.fields (meterAt d m)) CLASS_METER_ACC_CTRL.RESULT CLASS_METER_ACC_CTRL.DONE d)
    ∧ answers (.msecRead d true index) s (fun x =>
      accessShows s x CIPH_MSEC_DATA.DATA (d * 8) 8 (withCheck (s.packRec MSA.fields (saAt d index))) CIPH_MSEC_ACC_CTRL.RESULT CIPH_MSEC_ACC_CTRL.DONE d)
    ∧ (index < 16384 → answers (.msecRead d false index) s fun x =>
      accessShows s x CIPH_MSEC_DATA.DATA (d * 8) 8 (s.packRec MSC.fields (scAt d index)) CIPH_MSEC_ACC_CTRL.RESULT CIPH_MSEC_ACC_CTRL.DONE d)
    ∧ (16384 ≤ index → answers (.msecRead d false index) s fun x => accessEnds s x CIPH_MSEC_ACC_CTRL.RESULT CIPH_MSEC_ACC_CTRL.DONE d 2 [])
    ∧ (s.get CIPH_KEY_CMD.DONE d = 1 →
      (index < 32768 → answers (.keyRead true d true index tied) s fun x =>
        accessShows s x CIPH_KEY_DATA.DATA (d * 12) 8 (withCheck (s.packRec MSA.fields (saAt d index))) CIPH_KEY_CMD.RESULT CIPH_KEY_CMD.DONE d)
      ∧ (8192 ≤ index → answers (.keyRead true d false index tied) s fun x => accessEnds s x CIPH_KEY_CMD.RESULT CIPH_KEY_CMD.DONE d 2 [])
      ∧ (index < 8192 → answers (.keyRead true d false index tied) s fun x =>
        x.get KEYSLOT.USERS (slotAt d index) = (s.slotUsers (slotAt d index)).length % 2 ^ KEYSLOT.USERS.width
          ∧ showsNumber x CIPH_KEY_DATA.DATA (d * 12) 8 (x.packRec KEYSLOT.fields (slotAt d index))
          ∧ accessEnds s x CIPH_KEY_CMD.RESULT CIPH_KEY_CMD.DONE d 0 (KEYSLOT.USERS.at (slotAt d index) :: windowKeys CIPH_KEY_DATA.DATA (d * 12) 8)))
    ∧ (s.get CIPH_TW_CMD.DONE d = 1 → index < 32768 → answers (.keyRead false d true index false) s fun x =>
        accessShows s x CIPH_TW_DATA.DATA (d * 12) 8 (withCheck (s.packRec MSA.fields (saAt d index))) CIPH_TW_CMD.RESULT CIPH_TW_CMD.DONE d)

/-- GRANT_ACC_WRITE, WRITE_RESET, CIRC_ACC_WRITE, TM_ACC_WRITE, METER_WRITE and MSEC_CHANNEL_WRITE (R144, R145, R157, R168, R228, R203, R265): bytes that pass the checks replace the host's bytes of the
context, and WRITE_RESET also zeroes the engine's; bytes that do not, or a context in use, change nothing but RESULT and DONE. -/
def Obligations.AccessWindowsWriteContexts : Prop :=
  ∀ (s : State) (d target tree index list m c : Nat) (keep : Bool),
    let v := s.grantData d
    let t := 8 * d + tree
    let k := ALLOC.SET.ofBits v
    let old := s.bookedSum t k
    let own := if booked (s.get ALLOC.CLASS (allocAt t index)) && s.get ALLOC.SET (allocAt t index) == k then s.get ALLOC.RATE (allocAt t index) else 0
    let sum := old - own + if booked (ALLOC.CLASS.ofBits v) then ALLOC.RATE.ofBits v else 0
    (s.heldByCircuit t index = false →
      (s.allocValid t v = true → sum ≤ old ∨ s.overLimit t k sum = false →
        answers (.grantAccWrite d 0 tree index list) s (fun x =>
          holdsBytes x allocHost (allocAt t index) v ∧ (∀ f ∈ allocEngine, x.get f (allocAt t index) = s.get f (allocAt t index))
            ∧ x.get GRANT_ACC_CTRL.RESULT d = 0 ∧ x.get GRANT_ACC_CTRL.DONE d = 1)
        ∧ answers (.writeReset d 0 tree index) s (fun x =>
          holdsBytes x allocHost (allocAt t index) v ∧ (∀ f ∈ allocEngine, x.get f (allocAt t index) = 0)
            ∧ x.get GRANT_ACC_CTRL.RESULT d = 0 ∧ x.get GRANT_ACC_CTRL.DONE d = 1))
      ∧ (s.allocValid t v = true → old < sum → s.overLimit t k sum = true → ∀ i, i = .grantAccWrite d 0 tree index list ∨ i = .writeReset d 0 tree index →
        answers i s fun x => accessEnds s x GRANT_ACC_CTRL.RESULT GRANT_ACC_CTRL.DONE d 2 [])
      ∧ (s.allocValid t v = false → ∀ i, i = .grantAccWrite d 0 tree index list ∨ i = .writeReset d 0 tree index →
        answers i s fun x => accessEnds s x GRANT_ACC_CTRL.RESULT GRANT_ACC_CTRL.DONE d 5 []))
    ∧ (s.heldByCircuit t index = true → ∀ i, i = .grantAccWrite d 0 tree index list ∨ i = .writeReset d 0 tree index →
        answers i s fun x => accessEnds s x GRANT_ACC_CTRL.RESULT GRANT_ACC_CTRL.DONE d 4 [])
    ∧ (target ≠ 0 → answers (.writeReset d target tree index) s fun x => accessEnds s x GRANT_ACC_CTRL.RESULT GRANT_ACC_CTRL.DONE d 5 [])
    ∧ (headerValid v = true → s.listUsed d list = false → s.flag GATEHDR.PENDING (listAt d list) = false →
      answers (.grantAccWrite d 1 tree index list) s fun x =>
        holdsBytes x GATEHDR.fields (listAt d list) v ∧ x.get GRANT_ACC_CTRL.RESULT d = 0 ∧ x.get GRANT_ACC_CTRL.DONE d = 1)
    ∧ (reservedClear GATEOP.fields 0 64 v = true → 0 < bits v 32 32 → bits v 32 32 ≤ 10 ^ 9 → s.listUsed d list = false →
      answers (.grantAccWrite d 2 tree index list) s fun x =>
        holdsBytes x GATEOP.fields (listAt d list * 1024 + index) v
          ∧ accessEnds s x GRANT_ACC_CTRL.RESULT GRANT_ACC_CTRL.DONE d 0 (recordKeys GATEOP.fields (listAt d list * 1024 + index)))
    ∧ (s.circOn (circAt d index) = true → answers (.circAccWrite d false index) s fun x => accessEnds s x CIRC_ACC_CTRL.RESULT CIRC_ACC_CTRL.DONE d 3 [])
    ∧ (s.circOn (circAt d index) = false →
      (circValid (s.circData d) = false ∨ s.agrees (circAt d index) (s.circData d) = false → answers (.circAccWrite d false index) s fun x => accessEnds s x CIRC_ACC_CTRL.RESULT CIRC_ACC_CTRL.DONE d 2 [])
      ∧ (circValid (s.circData d) = true → s.agrees (circAt d index) (s.circData d) = true → answers (.circAccWrite d false index) s fun x =>
        let fs := CIRC.fields.filter fun f => f.lsb < 256
        holdsBytes x fs (circAt d index) (s.circData d) ∧ (x.circ (circAt d index)).boxes = [] ∧ x.get CIRC_ACC_CTRL.RESULT d = 0 ∧ x.get CIRC_ACC_CTRL.DONE d = 1
          ∧ fieldsKept s x (recordKeys fs (circAt d index) ++ [CIRC_ACC_CTRL.RESULT.at d, CIRC_ACC_CTRL.DONE.at d])))
    ∧ (index < 128 → groupValid (s.circData d) = true → (∀ q ∈ s.members (groupAt d index), s.circOn q = false) →
      answers (.circAccWrite d true index) s fun x =>
        let fs := CGRP.fields.filter fun f => f.lsb < 256
        holdsBytes x fs (groupAt d index) (s.circData d) ∧ accessEnds s x CIRC_ACC_CTRL.RESULT CIRC_ACC_CTRL.DONE d 0 (recordKeys fs (groupAt d index)))
    ∧ (targetSize target ≤ index → answers (.tmAccWrite d target index) s fun x => accessEnds s x TM_ACC_CTRL.RESULT TM_ACC_CTRL.DONE d 2 [])
    ∧ (index < targetSize target → targetNode target = false →
      (s.queueWriteOk d (targetUp target) index (s.tmData d) = true → answers (.tmAccWrite d target index) s fun x =>
        let i := queueAt d (targetUp target) index
        holdsBytes x (hostBytes QUEUE.fields) i (s.tmData d) ∧ accessEnds s x TM_ACC_CTRL.RESULT TM_ACC_CTRL.DONE d 0 (recordKeys (hostBytes QUEUE.fields) i))
      ∧ (s.queueWriteOk d (targetUp target) index (s.tmData d) = false → answers (.tmAccWrite d target index) s fun x => accessEnds s x TM_ACC_CTRL.RESULT TM_ACC_CTRL.DONE d 3 []))
    ∧ (index < targetSize target → targetNode target = true →
      (s.nodeWriteOk d (targetUp target) index (s.tmData d) = true → answers (.tmAccWrite d target index) s fun x =>
        let i := nodeAt d (targetUp target) index
        holdsBytes x (hostBytes NODE.fields) i (s.tmData d) ∧ accessEnds s x TM_ACC_CTRL.RESULT TM_ACC_CTRL.DONE d 0 (recordKeys (hostBytes NODE.fields) i))
      ∧ (s.nodeWriteOk d (targetUp target) index (s.tmData d) = false → answers (.tmAccWrite d target index) s fun x => accessEnds s x TM_ACC_CTRL.RESULT TM_ACC_CTRL.DONE d 3 []))
    ∧ (meterValid (s.words CLASS_METER_DATA.DATA (d * 4) 4) = false →
      answers (.meterWrite d m keep) s fun x => accessEnds s x CLASS_METER_ACC_CTRL.RESULT CLASS_METER_ACC_CTRL.DONE d 5 [])
    ∧ (meterValid (s.words CLASS_METER_DATA.DATA (d * 4) 4) = true →
      answers (.meterWrite d m keep) s fun x =>
        let w := s.words CLASS_METER_DATA.DATA (d * 4) 4
        let fs := METER.fields.filter fun f => f.lsb < 160
        let i := meterAt d m
        holdsBytes x fs i w ∧ x.get METER.TC_TOKENS i = (if keep then min (s.get METER.TC_TOKENS i) (256 * bits w 64 24) else 256 * bits w 64 24) % 2 ^ METER.TC_TOKENS.width
          ∧ x.get METER.TP_TOKENS i = (if keep then min (s.get METER.TP_TOKENS i) (256 * bits w 96 24) else 256 * bits w 96 24) % 2 ^ METER.TP_TOKENS.width
          ∧ x.get METER.LAST i = (if keep then s.get METER.LAST i else s.ns32)
          ∧ accessEnds s x CLASS_METER_ACC_CTRL.RESULT CLASS_METER_ACC_CTRL.DONE d 0 (recordKeys fs i ++ [METER.TC_TOKENS.at i, METER.TP_TOKENS.at i, METER.LAST.at i]))
    ∧ (c < 16384 → s.flag MSC.UNBOUND (scAt d c) = false → s.flag MSA.VALID (saAt d (2 * c)) = false → s.flag MSA.VALID (saAt d (2 * c + 1)) = false →
      bits (s.words CIPH_MSEC_DATA.DATA (d * 8) 2) 70 2 = 0 → bits (s.words CIPH_MSEC_DATA.DATA (d * 8) 2) 77 3 = 0 → bits (s.words CIPH_MSEC_DATA.DATA (d * 8) 2) 126 2 = 0 →
      bits (s.words CIPH_MSEC_DATA.DATA (d * 8) 2) 72 5 / 4 = d →
      answers (.msecChannelWrite d c) s fun x =>
        let fs := [MSC.SCI, MSC.VALID, MSC.TRANSMIT, MSC.XPN, MSC.REPLAY_EN, MSC.LANE, MSC.REPLAY_WINDOW]
        holdsBytes x fs (scAt d c) (s.words CIPH_MSEC_DATA.DATA (d * 8) 2) ∧ accessEnds s x CIPH_MSEC_ACC_CTRL.RESULT CIPH_MSEC_ACC_CTRL.DONE d 0 (recordKeys fs (scAt d c)))
    ∧ (c < 16384 → s.flag MSC.UNBOUND (scAt d c) = true → answers (.msecChannelWrite d c) s fun x => accessEnds s x CIPH_MSEC_ACC_CTRL.RESULT CIPH_MSEC_ACC_CTRL.DONE d 3 [])

/-- MAP_BUILD, the three reservations, GATE_BANK_SWAP and STATUS_REPORT_DECODE (R146, R151, R148, R157, R159): a build puts the map of frame M among the set's maps and measures its time; a
reservation 3 to 64 frames ahead is accepted and kept, one too soon (1), too far (2), a ninth (3) or for a set that is not live (4) is not; a swap exchanges the two banks of a list; a
report sets BACKLOG and its frame, and a stale one changes nothing. -/
def Obligations.GrantEngineBuildsAndReserves : Prop :=
  ∀ (s : State) (t k d g e id low units profile a backlog r buildNs : Nat) (flagged : List Nat),
    (k ∈ s.liveSets t → s.get DMK_TREE_STATE.STATE t = 1 ∨ s.get DMK_TREE_STATE.STATE t = 2 → (s.tree t).test = false →
      (∀ m ∈ (s.setOf t k).maps, m.frame ≠ ((s.setOf t k).dsFrame + 2) % 2 ^ 32) →
      answers (.mapBuild t k buildNs flagged) s fun x =>
        (∃ m : Map, (x.setOf t k).maps = (s.setOf t k).maps ++ [m] ∧ m.frame = ((s.setOf t k).dsFrame + 2) % 2 ^ 32 ∧ m.empty = false)
          ∧ x.get GRANT_BUILD_STATUS.MAX_BUILD_NS (dieOf t) = min (maxOf 32) (max (s.get GRANT_BUILD_STATUS.MAX_BUILD_NS (dieOf t)) buildNs)
          ∧ x.get GRANT_BUILD_STATUS.SLOW_BUILDS (dieOf t) = if 125000 < buildNs then satAdd GRANT_BUILD_STATUS.SLOW_BUILDS.width (s.get GRANT_BUILD_STATUS.SLOW_BUILDS (dieOf t)) 1
            else s.get GRANT_BUILD_STATUS.SLOW_BUILDS (dieOf t))
    ∧ (let ahead := wrapSub 16 low (s.frame % 2 ^ 16)
      let f := (s.frame + ahead) % 2 ^ 32
      let held := ((s.resvOf t k).filter fun x => x.frame == f && x.silent == 0).length
      let micro : Resv := { frame := f, kind := .microWindow, onuId := id, units := 11, profile := s.get TREE_RNG_CHF.MW_PROFILE t }
      let ranging : Resv := { frame := f, kind := .ranging, onuId := id, units := units, profile := profile }
      ∀ c resv, (c = .resvMicroWindow t k id low ∧ resv = micro) ∨ (c = .resvRangingGrant t k id low units profile ∧ resv = ranging ∧ 0 < units)
          ∨ (c = .resvQuietWindow t k low ∧ resv = s.quietResv t k f) →
        (k ∈ s.liveSets t → 3 ≤ ahead → ahead ≤ 64 → held < 8 →
          answers c s fun x => x.get GRANT_RESV_STATUS.ACCEPT (dieOf t) = 0 ∧ x.resvOf t k = s.resvOf t k ++ [resv] ∧ fieldsKept s x [GRANT_RESV_STATUS.ACCEPT.at (dieOf t)])
        ∧ (k ∈ s.liveSets t → ahead < 3 ∨ 2 ^ 15 ≤ ahead → answers c s fun x => x.get GRANT_RESV_STATUS.ACCEPT (dieOf t) = 1 ∧ changesOnly s x [GRANT_RESV_STATUS.ACCEPT.at (dieOf t)])
        ∧ (k ∈ s.liveSets t → 64 < ahead → ahead < 2 ^ 15 → answers c s fun x => x.get GRANT_RESV_STATUS.ACCEPT (dieOf t) = 2 ∧ changesOnly s x [GRANT_RESV_STATUS.ACCEPT.at (dieOf t)])
        ∧ (k ∈ s.liveSets t → 3 ≤ ahead → ahead ≤ 64 → 8 ≤ held → answers c s fun x => x.get GRANT_RESV_STATUS.ACCEPT (dieOf t) = 3 ∧ changesOnly s x [GRANT_RESV_STATUS.ACCEPT.at (dieOf t)])
        ∧ (k ∉ s.liveSets t → answers c s fun x => x.get GRANT_RESV_STATUS.ACCEPT (dieOf t) = 4 ∧ changesOnly s x [GRANT_RESV_STATUS.ACCEPT.at (dieOf t)]))
    ∧ (s.flag GATEHDR.PENDING (listAt d g) = true → e < 1024 →
      answers (.gateBankSwap d g) s fun x =>
        x.flag GATEHDR.PENDING (listAt d g) = false ∧ x.get GATEHDR.LENGTH (listAt d g) = s.get GATEHDR.ADMIN_LENGTH (listAt d g) % 2 ^ GATEHDR.LENGTH.width
          ∧ x.get GATEOP.GATES (listAt d g * 1024 + e) = s.get GATEADM.GATES (listAt d g * 1024 + e) % 2 ^ GATEOP.GATES.width
          ∧ x.get GATEOP.DURATION_NS (listAt d g * 1024 + e) = s.get GATEADM.DURATION_NS (listAt d g * 1024 + e) % 2 ^ GATEOP.DURATION_NS.width
          ∧ x.get GATEADM.GATES (listAt d g * 1024 + e) = s.get GATEOP.GATES (listAt d g * 1024 + e) % 2 ^ GATEADM.GATES.width
          ∧ x.get GATEADM.DURATION_NS (listAt d g * 1024 + e) = s.get GATEOP.DURATION_NS (listAt d g * 1024 + e) % 2 ^ GATEADM.DURATION_NS.width)
    ∧ (s.flag GATEHDR.PENDING (listAt d g) = false → exec (.gateBankSwap d g) s = .next s)
    ∧ (let i := allocAt t a
      ((s.alloc t a).reported = true → 2 ^ 31 ≤ wrapSub 32 r (s.get ALLOC.REPORT_FRAME i) → exec (.statusReportDecode t a backlog r) s = .next s)
      ∧ ((s.alloc t a).reported = false →
        answers (.statusReportDecode t a backlog r) s fun x =>
          x.get ALLOC.BACKLOG i = backlog % 2 ^ ALLOC.BACKLOG.width ∧ x.get ALLOC.REPORT_FRAME i = r % 2 ^ 32 ∧ (x.alloc t a).reported = true
            ∧ (0 < backlog → x.flag ALLOC.SUSPENDED i = false)))

/-- CONTAINER_BUILD, CONTAINER_MISSING, CE_PACKET_RECEIVE, CONTAINER_RECEIVE and GROUP_RELEASE (R172, R174, R173, R181, R176, R178): the container of a running circuit takes its bits from the
playout buffer, all ones when the buffer runs short, and goes behind the set's containers; a container that is missing is made of ones and counted; a packet in order is played in and one of
another domain is dropped and counted; the containers that came whole in one frame are taken, and of a single circuit GSEQ_NEXT follows the one demapped; those of a circuit that is neither
enabled nor draining are dropped; a whole group frame is released. -/
def Obligations.CircuitsCarryTheirClients : Prop :=
  ∀ (s : State) (c d g frame : Nat) (data : List Nat),
    let t := s.circTree c
    let k := s.circSet c
    let n := ((s.setOf t k).dsFrame + 1) % 2 ^ 32
    let fill := (s.circ c).playout.length
    let w := 2 ^ s.get CIRC.AVG_EXP c
    let target := s.get CIRC.JITTER_FRAMES c * (s.dBase c + s.just c)
    let sum := s.get CIRC.FILL_SUM c + fill - (s.circ c).fills.getD (w - 1) 0
    let j := if (target + s.just c) * w ≤ sum then 2 else if sum + s.just c * w < target * w then 0 else 1
    let want := s.dBase c + j * s.just c
    let remote := (s.circ c).pktRemote || bitAt (s.get CIRC_DEF.DEFECT c) 0
    (s.flag CIRC.GROUPED c = false → s.get DMK_TREE_STATE.STATE t = 2 →
      (s.get CIRC.RUN_STATE c = 2 → fill ≤ 2 * target → s.delivered c n = false →
        (want ≤ fill → answers (.containerBuild c) s fun x =>
          (x.setOf t k).containers = (s.setOf t k).containers
              ++ [⟨c, n, containerBytes (containerHeader j 0 0 (s.circ c).pktLocal remote (n % 2 ^ 16)) (s.dBase c) (s.just c) j ((s.circ c).playout.take want), (s.circ c).domain, s.get CIRC.LINE_PORT c⟩]
            ∧ (x.circ c).playout = (s.circ c).playout.drop want ∧ x.get CIRC.RUN_STATE c = 2)
        ∧ (fill < want → answers (.containerBuild c) s fun x =>
          (x.setOf t k).containers = (s.setOf t k).containers
              ++ [⟨c, n, containerBytes (containerHeader j 0 0 true remote (n % 2 ^ 16)) (s.dBase c) (s.just c) j (List.replicate want true), (s.circ c).domain, s.get CIRC.LINE_PORT c⟩]
            ∧ (x.circ c).playout = (s.circ c).playout ∧ x.get CIRC.RUN_STATE c = 1))
      ∧ (s.circOn c = true → s.delivered c n = false →
        answers (.containerMissing c) s fun x =>
          (x.setOf t k).containers = (s.setOf t k).containers
              ++ [⟨c, n, containerBytes (containerHeader 1 0 0 true remote (n % 2 ^ 16)) (s.dBase c) (s.just c) 1 (List.replicate (s.dBase c + s.just c) true), (s.circ c).domain, s.get CIRC.LINE_PORT c⟩]
            ∧ x.liveOf CIRC_CNT.COUNT (c * 16 + 2) = s.liveOf CIRC_CNT.COUNT (c * 16 + 2) + 1))
    ∧ (∀ p rest, s.ceWaiting.get ⟨d, 0⟩ [] = p :: rest →
      (s.get LPORT.DOMAIN (s.circPort p.circuit) = p.domain → s.circOn p.circuit = true → wrapSub 16 p.seq (s.get CIRC.SEQ_RX p.circuit) = 0 →
        answers (.cePacketReceive d) s fun x =>
          x.ceWaiting.get ⟨d, 0⟩ [] = rest ∧ x.get CIRC.SEQ_RX p.circuit = (p.seq + 1) % 2 ^ 16
            ∧ (x.circ p.circuit).playout = (s.circ p.circuit).playout ++ bytesToBits (p.payload.take (s.get CIRC.PAYLOAD_BYTES p.circuit))
            ∧ x.liveOf CIRC_CNT.COUNT (p.circuit * 16 + 11) = s.liveOf CIRC_CNT.COUNT (p.circuit * 16 + 11) + 1)
      ∧ (s.get LPORT.DOMAIN (s.circPort p.circuit) ≠ p.domain →
        answers (.cePacketReceive d) s fun x =>
          x.ceWaiting.get ⟨d, 0⟩ [] = rest ∧ x.circs = s.circs ∧ x.liveOf CIPH_SEP_CNT.COUNT (d * 12 + 9) = s.liveOf CIPH_SEP_CNT.COUNT (d * 12 + 9) + 1))
    ∧ ((s.circ c).boxes = [] → exec (.containerReceive c) s = .next s)
    ∧ ((s.circ c).boxes = [(frame, data)] →
      let y := s.modCirc c fun x => { x with boxes := [] }
      (s.circOn c = false → s.draining c frame = false → exec (.containerReceive c) s = .next y)
      ∧ (s.circOn c = true → s.flag CIRC.GROUPED c = false → data.length = s.containerLength c →
        let m := (y.demap c (leValue (data.take 8).reverse) (data.drop 8)).1
        (s.circ c).synced = false ∨ m.gseq = s.get CIRC.GSEQ_NEXT c →
        answers (.containerReceive c) s fun x => x.get CIRC.GSEQ_NEXT c = (m.gseq + 1) % 2 ^ 16))
    ∧ (∀ y rest, (s.grp (groupAt d g)).held = y :: rest → s.get CGRP.GSEQ_RELEASE (groupAt d g) = y.gseq →
      (∀ i < (s.members (groupAt d g)).length, ∃ p ∈ y.parts, p.member = i) →
      answers (.groupRelease d g) s fun x =>
        (x.grp (groupAt d g)).held = rest ∧ x.get CGRP.GSEQ_RELEASE (groupAt d g) = (y.gseq + 1) % 2 ^ 16)

/-- CIRCUIT_ENABLE and CIRCUIT_DISABLE (R181, R184): a circuit whose context passes every check, and whose allocation the tree takes, starts FILLING with nothing in its buffers; one already
enabled reads IN_USE (3), one not valid BAD_VALUE (2); a disabled circuit stops, its defects and playout are gone, and containers of bursts whose maps were built are still taken (R184). -/
def Obligations.CircuitsAreEnabledAndDisabled : Prop :=
  ∀ (s : State) (d i : Nat),
    let c := circAt d i
    (s.circOn c = true → answers (.circuitEnable d i) s fun x => accessEnds s x CIRC_ACC_CTRL.RESULT CIRC_ACC_CTRL.DONE d 3 [])
    ∧ (s.circOn c = false → circValid (s.packRec CIRC.fields c % 2 ^ 256) = false →
      answers (.circuitEnable d i) s fun x => accessEnds s x CIRC_ACC_CTRL.RESULT CIRC_ACC_CTRL.DONE d 2 [])
    ∧ (s.circOn c = false → circValid (s.packRec CIRC.fields c % 2 ^ 256) = true → s.memberFits c = true → s.bound c = true →
      (∀ q ∈ s.enabledCircuits, s.leadOf q = q → s.get CIRC.LABEL q ≠ s.get CIRC.LABEL c) → s.noFit c = false → (s.circAlloc c 1).1 = 0 →
      answers (.circuitEnable d i) s fun x =>
        x.get CIRC.RUN_STATE c = 1 ∧ x.get CIRC_DEF.RUN_STATE c = 1 ∧ (x.circ c).playout = [] ∧ (x.circ c).synced = false
          ∧ x.get CIRC_ACC_CTRL.RESULT d = 0 ∧ x.get CIRC_ACC_CTRL.DONE d = 1)
    ∧ (s.circOn c = true → answers (.circuitDisable d i) s fun x =>
        x.get CIRC.RUN_STATE c = 0 ∧ x.get CIRC_DEF.RUN_STATE c = 0 ∧ x.get CIRC_DEF.DEFECT c = 0 ∧ (x.circ c).playout = []
          ∧ (x.circ c).boxes = (s.circ c).boxes ∧ (x.circ c).drain = some (s.lastBuilt c) ∧ x.get CIRC.FILL c = 0
          ∧ x.get CIRC_ACC_CTRL.RESULT d = 0 ∧ x.get CIRC_ACC_CTRL.DONE d = 1)
    ∧ (s.circOn c = false → answers (.circuitDisable d i) s fun x => accessEnds s x CIRC_ACC_CTRL.RESULT CIRC_ACC_CTRL.DONE d 0 [])

/-- FABRIC_FRAME_RECEIVE, FRAME_ADMIT and FABRIC_FRAME_TRANSMIT (R211, R265, R229, R266): on a lane that is ON a runt is counted and goes no further, a whole frame enters its die, and a frame made
of cells leaves the reassembly, a circuit's going to the die of its circuit; the oldest frame that waits leaves the inbox and joins its queue when every check passes, or is counted and dropped;
a frame whose channel is sound leaves the lane sealed and leaves the lane's list. -/
def Obligations.FramesEnterAndLeaveTheFabric : Prop :=
  ∀ (s : State) (lane d tc : Nat) (b : List Nat) (ptp : Option PtpMsg),
    let l := s.laneUnit lane
    (s.laneOn l = false → exec (.fabricFrameReceive lane b none) s = .next s ∧ exec (.fabricFrameTransmit lane tc ptp) s = .next s)
    ∧ (s.laneOn l = true → s.get FAB_LANE_STATUS.MODE l = 1 ∨ s.get FAB_LANE_STATUS.MODE l = 2 →
      (b.length < 64 ∨ 9216 < b.length → answers (.fabricFrameReceive lane b none) s fun x =>
        x.liveOf FAB_LANE_CNT.COUNT (l * 12 + 5) = s.liveOf FAB_LANE_CNT.COUNT (l * 12 + 5) + 1
          ∧ x.liveOf FAB_LANE_CNT.COUNT (l * 12 + 7) = s.liveOf FAB_LANE_CNT.COUNT (l * 12 + 7) + 1 ∧ x.inbox = s.inbox ∧ fieldsKept s x [])
      ∧ (64 ≤ b.length → b.length ≤ 9216 → beAt b 12 2 ≠ 0x8808 → s.flag CIPH_LANE.REQUIRE l = false → exec (.fabricFrameReceive lane b none) s =
          .next (((s.laneCnt l 5 1).passBytes (l / 4) (32 + l % 4) b.length).enter l 0 {} b)))
    ∧ (∀ r rest, s.laneOn l = true → s.get FAB_LANE_STATUS.MODE l = 3 → s.rxReady.get ⟨l, 0⟩ [] = r :: rest →
      answers (.fabricFrameReceive lane b none) s (fun x => x.rxReady.get ⟨l, 0⟩ [] = rest)
      ∧ ∀ c, r.circuit = true → s.labels.get ⟨l / 4, beAt r.bytes 0 4 % 2 ^ 20⟩ 0 = c + 1 →
        let e := if s.flag CIRC.GROUPED c then s.get CIRC.HOME_DIE c else c / 1024
        answers (.fabricFrameReceive lane b none) s fun x => x.ceWaiting.get ⟨e, 0⟩ [] = s.ceWaiting.get ⟨e, 0⟩ [] ++ [cePacket c r.domain r.bytes])
    ∧ (∀ f rest, s.inbox.get ⟨d, 0⟩ [] = f :: rest →
      answers (.frameAdmit d) s (fun x => x.inbox.get ⟨d, 0⟩ [] = rest)
      ∧ ∀ g y, f.up = false → f.tag = none → ({ s with inbox := s.inbox.set ⟨d, 0⟩ [] rest } : State).classify d f.profile f = (some g, y) →
        y.get DMK_TREE_STATE.STATE g.tree ≠ 3 →
        let q := y.queueFor g
        let i := queueAt d g.up q
        let n := if y.flag QUEUE.CUT_THROUGH i && !g.up then 36 else cellsFor g.length
        (g.marked = true → y.flag QUEUE.CUT_THROUGH i = false → exec (.frameAdmit d) s = .next y)
        ∧ (g.marked = false ∨ y.flag QUEUE.CUT_THROUGH i = true →
          (y.flag QUEUE.ENABLE i = false → answers (.frameAdmit d) s fun x =>
            x.queues = y.queues ∧ x.liveOf TM_CNT.COUNT (d * 12 + 2) = y.liveOf TM_CNT.COUNT (d * 12 + 2) + 1)
          ∧ (y.flag QUEUE.ENABLE i = true → g.domain = y.get QUEUE.DOMAIN i → y.get QUEUE.CELLS i + n ≤ y.colourLimit i g.colour →
            y.get TM_DOMAIN.BUF_USED (d * 4096 + g.domain) + n ≤ y.get TM_DOMAIN.BUF_QUOTA (d * 4096 + g.domain) →
            y.get TM_BUF_STATUS.BUF_USED d + n ≤ y.get TM_BUF_STATUS.BUF_CELLS d →
            exec (.frameAdmit d) s = .next (y.append d g.up q (cellsFor g.length) (y.expressRoom d g.up q n) g)
            ∧ (y.queueOf d g.up q ≠ [] → answers (.frameAdmit d) s fun x =>
              (∃ h : Frame, x.queueOf d g.up q = y.queueOf d g.up q ++ [h] ∧ h.bytes = g.bytes ∧ h.cellDomain = g.domain)
                ∧ x.get QUEUE.CELLS i = (y.get QUEUE.CELLS i + cellsFor g.length) % 2 ^ QUEUE.CELLS.width
                ∧ x.get QUEUE.FRAMES i = (y.get QUEUE.FRAMES i + 1) % 2 ^ QUEUE.FRAMES.width))))
    ∧ (∀ e f pn a y, s.laneOn l = true → s.get FAB_LANE_STATUS.MODE l = 1 → s.nextForLane l none = some (e, f) → f.tag = none →
      let c := (s.binding f.tree f.linePort).txSc
      let i := scAt (l / 4) c
      s.flag MSC.UNBOUND i = false → s.get MSC.DOMAIN i = f.domain → s.get MSC.LANE i = l → s.flag MSC.VALID i = true → s.flag MSC.TRANSMIT i = true →
      s.takePn (l / 4) c = (.sent pn a, y) →
      answers (.fabricFrameTransmit lane tc ptp) s fun x =>
        (∃ bytes, x.outbox = s.outbox ++ [.ethFrame l bytes]) ∧ x.laneOut.get ⟨l, e⟩ [] = (s.laneOut.get ⟨l, e⟩ []).erase f)

/-- QUEUE_RELEASE, FELT_RELEASE, PORT_HOLD_CAUSE, PORT_RESUME, PORT_AVAILABLE and TM_SAMPLE_WINDOW (R232, R246, R242, R239): the frame that the selection names leaves its queue for its port; the
Felt head of a DRAINING port goes to the lane; a cause holds a port, which drains once no cause is left and is available again when it holds nothing; a window's records go to their bank. -/
def Obligations.PortsReleaseHoldAndResume : Prop :=
  ∀ (s : State) (d p cause : Nat),
    let u := portAt d p
    let w := (s.cleanPort d true p).reoffer d true p
    (∀ q f y, w.select d true p = some q → w.popQueue d true q = (some f, y) → f.dram = false →
      s.get FELT_PORT_STATUS.STATE u = 0 → answers (.queueRelease d true p) s fun x => x.laneOut.get ⟨p, d⟩ [] = s.laneOut.get ⟨p, d⟩ [] ++ [f])
    ∧ (w.select d true p = none → exec (.queueRelease d true p) s = .next w)
    ∧ (s.get FELT_PORT_STATUS.STATE u ≠ 2 → exec (.feltRelease d p) s = .next s)
    ∧ (∀ f rest, s.get FELT_PORT_STATUS.STATE u = 2 → s.feltOf d p = f :: rest → f.damage = 0 → s.get FELT_PORT_CTRL.DRAIN_KBPS u = 0 → s.outAllows d p = true →
      answers (.feltRelease d p) s fun x =>
        x.feltOf d p = rest ∧ x.laneOut.get ⟨p, d⟩ [] = s.laneOut.get ⟨p, d⟩ [] ++ [{ f with stored := [] }]
          ∧ x.get FELT_STATUS.USED_CELLS d = (s.get FELT_STATUS.USED_CELLS d - f.cells) % 2 ^ FELT_STATUS.USED_CELLS.width)
    ∧ (cause < FELT_PORT_STATUS.CAUSE.width → answers (.portHoldCause d p cause) s fun x =>
      bitAt (x.get FELT_PORT_STATUS.CAUSE u) cause = true ∧ x.get FELT_PORT_STATUS.STATE u = 1
        ∧ x.get FELT_PORT_STATUS.HOLDS u = if s.get FELT_PORT_STATUS.STATE u = 1 then s.get FELT_PORT_STATUS.HOLDS u
          else satAdd FELT_PORT_STATUS.HOLDS.width (s.get FELT_PORT_STATUS.HOLDS u) 1)
    ∧ (s.get FELT_PORT_STATUS.STATE u = 1 → s.get FELT_PORT_STATUS.CAUSE u = 0 → answers (.portResume d p) s fun x => x.get FELT_PORT_STATUS.STATE u = 2 ∧ x.felt = s.felt)
    ∧ (s.get FELT_PORT_STATUS.STATE u ≠ 1 ∨ s.get FELT_PORT_STATUS.CAUSE u ≠ 0 → exec (.portResume d p) s = .next s)
    ∧ (s.get FELT_PORT_STATUS.STATE u = 2 → s.feltOf d p = [] → answers (.portAvailable d p) s fun x => x.get FELT_PORT_STATUS.STATE u = 0)
    ∧ (s.get FELT_PORT_STATUS.STATE u ≠ 2 ∨ s.feltOf d p ≠ [] → exec (.portAvailable d p) s = .next s)
    ∧ (s.flag TM_SAMPLE_CTRL.ENABLE d = false → exec (.tmSampleWindow d) s = .next s)
    ∧ (s.flag TM_SAMPLE_CTRL.ENABLE d = true → answers (.tmSampleWindow d) s fun x =>
        x.get TM_SAMPLE_CTRL.LAST_BANK d = s.sampleWindow d % 2 ∧ x.get TM_SAMPLE_CTRL.LAST_WINDOW d = s.sampleWindow d % 2 ^ TM_SAMPLE_CTRL.LAST_WINDOW.width
          ∧ x.queues = s.queues)

/-- EXACT_INSERT, EXACT_REPLACE, EXACT_DELETE, TERNARY_WRITE and CLASS_RULE_READ (R194, R195, R196): an action with a reserved bit reads BAD_VALUE (5), a key already there 3, a full pair of
buckets FULL (2) and an absent key 4, each changing nothing else; otherwise the rule is placed, found by its key from then on and counted, or replaced, or removed, and no other rule moves. -/
def Obligations.ClassifierRulesAreKept : Prop :=
  ∀ (s : State) (d i index : Nat),
    let key := s.dataKey d
    let act := s.dataAction d
    let done := fun (c : Instr) (r : Nat) => answers c s fun x => accessEnds s x CLASS_ACC_CTRL.RESULT CLASS_ACC_CTRL.DONE d r []
    let ended := fun (x : State) => x.get CLASS_ACC_CTRL.RESULT d = 0 ∧ x.get CLASS_ACC_CTRL.DONE d = 1
    (actionClear act = false → done (.exactInsert d) 5 ∧ done (.exactReplace d) 5)
    ∧ (actionClear act = true → s.exactFind d key = some i →
      done (.exactInsert d) 3
      ∧ answers (.exactReplace d) s fun x =>
        x.exactAt d i = some ⟨key, s.exactAction d⟩ ∧ (∀ j, j ≠ i → x.exactAt d j = s.exactAt d j) ∧ x.exactFind d key = some i ∧ ended x)
    ∧ (actionClear act = true → s.exactFind d key = none →
      done (.exactReplace d) 4
      ∧ (s.exactPlace d key = none → answers (.exactInsert d) s fun x =>
        x.get CLASS_STATUS.INSERT_FULL d = satAdd CLASS_STATUS.INSERT_FULL.width (s.get CLASS_STATUS.INSERT_FULL d) 1
          ∧ accessEnds s x CLASS_ACC_CTRL.RESULT CLASS_ACC_CTRL.DONE d 2 [CLASS_STATUS.INSERT_FULL.at d])
      ∧ (s.exactPlace d key = some i → answers (.exactInsert d) s fun x =>
        x.exactAt d i = some ⟨key, s.exactAction d⟩ ∧ (∀ j, j ≠ i → x.exactAt d j = s.exactAt d j) ∧ x.exactFind d key = some i
          ∧ x.get CLASS_STATUS.EXACT_USED d = (s.get CLASS_STATUS.EXACT_USED d + 1) % 2 ^ CLASS_STATUS.EXACT_USED.width ∧ ended x))
    ∧ (s.exactFind d key = none → done (.exactDelete d) 4 ∧ done (.classRuleRead d false index) 4)
    ∧ (s.exactFind d key = some i →
      answers (.exactDelete d) s (fun x =>
        x.exactAt d i = none ∧ (∀ j, j ≠ i → x.exactAt d j = s.exactAt d j)
          ∧ x.get CLASS_STATUS.EXACT_USED d = (s.get CLASS_STATUS.EXACT_USED d - 1) % 2 ^ CLASS_STATUS.EXACT_USED.width ∧ ended x)
      ∧ ∀ r, s.exactAt d i = some r → answers (.classRuleRead d false index) s fun x =>
        accessShows s x CLASS_ACC_DATA.DATA (d * 22 + 20) 2 r.action.toBits CLASS_ACC_CTRL.RESULT CLASS_ACC_CTRL.DONE d)
    ∧ (let v := s.classData d % 2 ^ 640
      let m := bits (s.classData d) 640 640
      let a := RuleAction.ofBits act
      (actionClear act = true → ternaryForm v m a = true → answers (.ternaryWrite d index) s fun x =>
        x.tern.get ⟨d, index⟩ none = some ⟨BitVec.ofNat 640 v, BitVec.ofNat 640 m, a⟩ ∧ (∀ j, j ≠ index → x.tern.get ⟨d, j⟩ none = s.tern.get ⟨d, j⟩ none) ∧ ended x)
      ∧ (actionClear act = false ∨ ternaryForm v m a = false → done (.ternaryWrite d index) 5))
    ∧ (∀ r, s.tern.get ⟨d, index⟩ none = some r → answers (.classRuleRead d true index) s fun x =>
        showsNumber x CLASS_ACC_DATA.DATA (d * 22) 10 r.value.toNat ∧ showsNumber x CLASS_ACC_DATA.DATA (d * 22 + 10) 10 r.mask.toNat
          ∧ showsNumber x CLASS_ACC_DATA.DATA (d * 22 + 20) 2 r.action.toBits
          ∧ accessEnds s x CLASS_ACC_CTRL.RESULT CLASS_ACC_CTRL.DONE d 0 (windowKeys CLASS_ACC_DATA.DATA (d * 22) 22))

/-- KEY_LOAD, KEY_ERASE, KEY_SWITCH, SWITCH_CHECK, KEY_EXPIRY, STARVED_RESUME, KEK_LOAD, LP_BIND_WRITE and ARM (R258, R260, R261, R262, R263, R267): a well-formed key of an EMPTY or a used slot
is held and LOADED; a plaintext key while KEYS is locked reads LOCKED (4) and counts an event; a host command ends Tweed's waiting LOAD of its
association with SUPERSEDED (8); a switch waits for its frame, is checked before it and an expired slot's user is left to a SWITCH kept for this
frame, else moves, or starves when its other slot is not ready; bindings keep to their domain. -/
def Obligations.KeysAreLoadedSwitchedAndBound : Prop :=
  ∀ (s : State) (d k index t p pair txSc a kek : Nat) (encrypt : Bool),
    let v := s.keyBytes true d
    let ended := fun (x : State) (r : Nat) => x.get CIPH_KEY_CMD.RESULT d = r ∧ x.get CIPH_KEY_CMD.DONE d = 1
    let locked := fun (x : State) => ended x 4 ∧ x.keys = s.keys
      ∧ x.get SEC_FW_EVENT.COUNT 0 = satAdd SEC_FW_EVENT.COUNT.width (s.get SEC_FW_EVENT.COUNT 0) 1
    (s.get CIPH_KEY_CMD.DONE d = 0 → ∀ c, c = .keyLoad true d false index false kek false ∨ c = .keyErase true d false index false ∨ c = .keySwitch true d t p false ∨ c = .kekLoad true d k →
      answers c s fun x => x.get CIPH_KEY_CMD.RESULT d = 1 ∧ changesOnly s x [CIPH_KEY_CMD.RESULT.at d])
    ∧ (s.get CIPH_KEY_CMD.DONE d = 1 →
      (s.flag SEC_LOCK.KEYS 0 = true → answers (.keyLoad true d false index false kek false) s locked ∧ answers (.kekLoad true d k) s locked)
      ∧ (s.flag SEC_LOCK.KEYS 0 = false → index < 8192 → bits v 320 8 = 1 → 8000 ≤ bits v 352 32 → bits v 352 32 ≤ 2147483647 → bits v 128 192 = 0 → bits v 328 24 = 0 →
        bits v 384 384 = 0 → s.flag KEYSLOT.UNBOUND (slotAt d index) = false → answers (.keyLoad true d false index false kek false) s fun x =>
          let i := slotAt d index
          x.keys.get ⟨0, i⟩ none = some (bits v 0 128) ∧ x.get KEYSLOT.STATE i = 1 ∧ x.get KEYSLOT.SUITE i = 1 ∧ x.get KEYSLOT.LIMIT i = bits v 352 32 ∧ ended x 0)
      ∧ (s.flag SEC_LOCK.KEYS 0 = false → k < 4 → answers (.kekLoad true d k) s fun x =>
        x.keys.get ⟨3, k⟩ none = some (v % 2 ^ 256) ∧ changesOnly { s with keys := x.keys } x [CIPH_KEY_CMD.RESULT.at d, CIPH_KEY_CMD.DONE.at d] ∧ ended x 0)
      ∧ (index < 8192 → answers (.keyErase true d false index false) s fun x =>
        x.keys.get ⟨0, slotAt d index⟩ none = none ∧ x.get KEYSLOT.STATE (slotAt d index) = 0
          ∧ changesOnly { s with keys := x.keys } x [KEYSLOT.STATE.at (slotAt d index), CIPH_KEY_CMD.RESULT.at d, CIPH_KEY_CMD.DONE.at d] ∧ ended x 0)
      ∧ (index < 32768 → answers (.keyErase true d true index false) s fun x =>
        x.keys.get ⟨1, saAt d index⟩ none = none ∧ x.flag MSA.VALID (saAt d index) = false ∧ ended x 0
          ∧ (s.loadWaits false d (saAt d index) = true → x.get CIPH_TW_CMD.RESULT d = 8 ∧ x.get CIPH_TW_CMD.DONE d = 1))
      ∧ (s.checkFrame (v % 2 ^ 32) = .ok → answers (.keySwitch true d t p false) s fun x =>
        x.switches = s.switches ++ [⟨d * 8 + t % 8, p, v % 2 ^ 32, true, false, []⟩] ∧ ended x 0)
      ∧ (s.checkFrame (v % 2 ^ 32) = .late → answers (.keySwitch true d t p false) s fun x => accessEnds s x CIPH_KEY_CMD.RESULT CIPH_KEY_CMD.DONE d 6 [])
      ∧ (s.checkFrame (v % 2 ^ 32) = .far → answers (.keySwitch true d t p false) s fun x => accessEnds s x CIPH_KEY_CMD.RESULT CIPH_KEY_CMD.DONE d 7 []))
    ∧ (let due := fun (w : KeySwitch) => w.target == wrapAdd 32 s.frame 1 && !w.checked
      let good := fun (w : KeySwitch) => (s.switchMembers w.tree w.linePort).all fun m => s.switchReady m.1 m.2
      answers .switchCheck s fun x => x.switches = (s.switches.filter fun w => !due w || good w).map fun w => if due w then { w with checked := true } else w)
    ∧ (let i := slotAt d index
      let y := s.put KEYSLOT.STATE i 3
      let expires := s.get KEYSLOT.STATE i = 2 ∧ wrapAdd 32 (s.get KEYSLOT.FIRST_FRAME i) (s.get KEYSLOT.LIMIT i) = s.frame
      (¬ expires → exec (.keyExpiry d index) s = .next s)
      ∧ (expires → s.slotUsers i = [] → exec (.keyExpiry d index) s = .next y)
      ∧ (expires → s.slotUsers i = [(t, p)] → s.switchKept s.frame (t, p) = true → exec (.keyExpiry d index) s = .next y)
      ∧ (expires → s.slotUsers i = [(t, p)] → s.switchKept s.frame (t, p) = false → y.switchReady t p = false → answers (.keyExpiry d index) s fun x =>
        x.get KEYSLOT.STATE i = 3 ∧ x.flag CIPH_LP_BIND.STARVED (lpAt t p) = true ∧ x.get CIPH_LP_BIND.TX_INDEX (lpAt t p) = s.get CIPH_LP_BIND.TX_INDEX (lpAt t p))
      ∧ (expires → s.slotUsers i = [(t, p)] → s.switchKept s.frame (t, p) = false → y.switchReady t p = true → answers (.keyExpiry d index) s fun x =>
        x.get CIPH_LP_BIND.TX_INDEX (lpAt t p) = (1 - s.get CIPH_LP_BIND.TX_INDEX (lpAt t p)) % 2))
    ∧ (let since := s.loadedAt.get ⟨0, s.otherSlot t p⟩ 0
      let resumes := s.flag CIPH_LP_BIND.STARVED (lpAt t p) = true ∧ s.switchReady t p = true ∧ 0 < since ∧ since - 1 + 125000 ≤ s.nowNs
      (¬ resumes → exec (.starvedResume t p) s = .next s)
      ∧ (resumes → answers (.starvedResume t p) s fun x =>
        x.flag CIPH_LP_BIND.STARVED (lpAt t p) = false ∧ x.get CIPH_LP_BIND.TX_INDEX (lpAt t p) = (1 - s.get CIPH_LP_BIND.TX_INDEX (lpAt t p)) % 2))
    ∧ (let i := lpAt t p
      let dom := s.get LPORT.DOMAIN i
      let own := fun j => s.flag KEYSLOT.UNBOUND (slotAt (dieOf t) j) = false ∧ s.get KEYSLOT.DOMAIN (slotAt (dieOf t) j) = dom
      let c := scAt (s.get LPORT.UPLINK i / 4) txSc
      (s.flag SEC_LOCK.KEYS 0 = true → s.get CIPH_LP_BIND.KEY_PAIR i = pair → s.flag CIPH_LP_BIND.ENCRYPT i = encrypt → s.get CIPH_LP_BIND.TX_SC i = txSc →
        exec (.lpBindWrite t p pair encrypt txSc) s = .next s)
      ∧ (s.flag SEC_LOCK.KEYS 0 = true → s.get CIPH_LP_BIND.KEY_PAIR i ≠ pair → answers (.lpBindWrite t p pair encrypt txSc) s fun x =>
        x.get CIPH_LP_BIND.KEY_PAIR i = s.get CIPH_LP_BIND.KEY_PAIR i ∧ x.get SEC_FW_EVENT.COUNT 0 = satAdd SEC_FW_EVENT.COUNT.width (s.get SEC_FW_EVENT.COUNT 0) 1)
      ∧ (s.flag SEC_LOCK.KEYS 0 = false → answers (.lpBindWrite t p pair encrypt txSc) s fun x =>
        x.oldBind.get ⟨t, p⟩ none = some (s.binding t p) ∧ x.flag CIPH_LP_BIND.ENCRYPT i = encrypt
          ∧ (own (2 * pair) → own (2 * pair + 1) → x.get CIPH_LP_BIND.KEY_PAIR i = pair % 2 ^ CIPH_LP_BIND.KEY_PAIR.width)
          ∧ (¬ own (2 * pair) → x.get CIPH_LP_BIND.KEY_PAIR i = s.get CIPH_LP_BIND.KEY_PAIR i)
          ∧ (s.flag MSC.UNBOUND c = false → s.get MSC.DOMAIN c = dom → x.get CIPH_LP_BIND.TX_SC i = txSc % 2 ^ CIPH_LP_BIND.TX_SC.width)
          ∧ (s.get MSC.DOMAIN c ≠ dom → x.get CIPH_LP_BIND.TX_SC i = s.get CIPH_LP_BIND.TX_SC i)))
    ∧ (let c := scAt d (a / 2)
      (s.flag MSA.VALID (saAt d a) = false ∨ s.flag MSC.TRANSMIT c = false ∨ s.get MSC.TX_SA c = a % 2 →
        answers (.arm d a) s fun x => accessEnds s x CIPH_MSEC_ACC_CTRL.RESULT CIPH_MSEC_ACC_CTRL.DONE d 2 [])
      ∧ (s.flag MSA.VALID (saAt d a) = true → s.flag MSC.TRANSMIT c = true → s.get MSC.TX_SA c ≠ a % 2 →
        (s.flag MSA.EXHAUSTED (saAt d (otherSa a)) = false → answers (.arm d a) s fun x =>
          x.flag MSC.NEXT_ARMED c = true ∧ accessEnds s x CIPH_MSEC_ACC_CTRL.RESULT CIPH_MSEC_ACC_CTRL.DONE d 0 [MSC.NEXT_ARMED.at c])
        ∧ (s.flag MSA.EXHAUSTED (saAt d (otherSa a)) = true → answers (.arm d a) s fun x =>
          x.flag MSC.NEXT_ARMED c = false ∧ x.get MSC.TX_SA c = (1 - s.get MSC.TX_SA c) % 2
            ∧ accessEnds s x CIPH_MSEC_ACC_CTRL.RESULT CIPH_MSEC_ACC_CTRL.DONE d 0 [MSC.NEXT_ARMED.at c, MSC.TX_SA.at c])))

/-- REFRESH_INTERVAL, STACK_TEMP_CROSSING, STACK_THERMAL_RESPONSE, STACK_RESTART, MEM_RESTART, ROW_DISTURB and THROTTLE_END (R280, R282, R283, R284): a write takes an entry of the write queue and a
read of a queued word is answered from it; a slot in forced refresh refreshes, one less in the debt, until 8 are left; the end of an interval adds one to the debt, and more than 8 forces refresh; a layer above 85 °C runs the short interval and doubles its debt, and returns below 83 °C; the stack throttles above 95 °C, stops
above 105 °C with every channel OFF, and restarts on the host's command or by itself; a row at DISTURB_TH clears the counts of its neighbours and throttles its requester until the period ends. -/
def Obligations.StackRefreshHeatAndDisturbance : Prop :=
  ∀ (s : State) (d c temp cool bank row q dom : Nat) (events : List ChanEvent) (r : MemReq) (now : Nat),
    let i := chanAt d c
    let v := s.get MEM_CH_STATUS.REF_DEBT i
    (s.chanLive d c = false → exec (.refreshInterval d c events) s = .next s ∧ exec (.rowDisturb d c bank row q dom) s = .next s)
    ∧ (s.chanLive d c = true →
      let y := events.foldl (fun s e => s.chanEvent d c e) s
      let debt := min 31 (y.get MEM_CH_STATUS.REF_DEBT i + 1)
      answers (.refreshInterval d c events) s fun x =>
        x.get MEM_CH_STATUS.REF_DEBT i = debt ∧ x.get MEM_CH_STATUS.WQ_DEPTH i = y.get MEM_CH_STATUS.WQ_DEPTH i ∧ x.channels = y.channels
          ∧ (y.chanState d c = 0 → 8 < debt → x.chanState d c = 3 ∧ x.flag MEM_STATUS.FORCED_EVENT d = true)
          ∧ (y.chanState d c ≠ 0 ∨ debt ≤ 8 → x.chanState d c = y.chanState d c ∧ x.get MEM_STATUS.FORCED_EVENT d = y.get MEM_STATUS.FORCED_EVENT d))
    ∧ (s.chanState d c = 3 → 0 < v → v < 32 → answers (.refreshInterval d c [.slot now]) s fun x =>
        x.get MEM_CH_STATUS.REF_DEBT i = v ∧ (x.chan d c).nextRow = ((s.chan d c).nextRow + 32) % 262144
          ∧ (9 < v → x.chanState d c = 3) ∧ (v ≤ 9 → (s.chan d c).retuneDue = true → x.chanState d c = 1)
          ∧ (v ≤ 8 → (s.chan d c).retuneDue = false → x.chanState d c = 0))
    ∧ (s.chanLive d c = true → (∀ w ∈ (s.chan d c).writes, sameWord w r = false) → r.write = true → (s.chan d c).writes.length < 64 →
      answers (.refreshInterval d c [.arrives r]) s fun x =>
        (x.chan d c).writes = (s.chan d c).writes ++ [{ r with hold := 0 }] ∧ x.get MEM_CH_STATUS.WQ_DEPTH i = (s.chan d c).writes.length + 1
          ∧ (48 ≤ (s.chan d c).writes.length + 1 → (x.chan d c).draining = true))
    ∧ (s.chanLive d c = true → (∃ w ∈ (s.chan d c).writes, sameWord w r = true) → r.write = false →
      answers (.refreshInterval d c [.arrives r]) s fun x => x.chan d c = s.chan d c)
    ∧ (85 < temp → s.flag MEM_CH_STATUS.HOT_INTERVAL i = false → s.chanLive d c = true → answers (.stackTempCrossing d c temp) s fun x =>
      x.flag MEM_CH_STATUS.HOT_INTERVAL i = true ∧ x.get MEM_CH_STATUS.REF_DEBT i = min 31 (2 * v) ∧ x.get MEM_CH_STATUS.TEMP i = temp % 2 ^ MEM_CH_STATUS.TEMP.width)
    ∧ (temp < 83 → answers (.stackTempCrossing d c temp) s fun x =>
      x.flag MEM_CH_STATUS.HOT_INTERVAL i = false ∧ x.get MEM_CH_STATUS.TEMP i = temp ∧ changesOnly s x [MEM_CH_STATUS.TEMP.at i, MEM_CH_STATUS.HOT_INTERVAL.at i, MEM_STATUS.MAX_TEMP.at d])
    ∧ (83 ≤ temp → temp ≤ 85 → answers (.stackTempCrossing d c temp) s fun x =>
      x.get MEM_CH_STATUS.TEMP i = temp ∧ changesOnly s x [MEM_CH_STATUS.TEMP.at i, MEM_STATUS.MAX_TEMP.at d])
    ∧ (temp ≤ 105 → answers (.stackThermalResponse d temp) s fun x =>
      x.get MEM_STATUS.MAX_TEMP d = temp ∧ x.get MEM_STATUS.SHUTDOWN d = s.get MEM_STATUS.SHUTDOWN d
        ∧ (95 < temp → s.flag MEM_STATUS.THROTTLED d = false → x.flag MEM_STATUS.THROTTLED d = true ∧ x.flag MEM_STATUS.HOT_EVENT d = true)
        ∧ (temp < 92 → x.flag MEM_STATUS.THROTTLED d = false)
        ∧ (92 ≤ temp → temp ≤ 95 → changesOnly s x [MEM_STATUS.MAX_TEMP.at d]))
    ∧ (105 < temp → s.flag MEM_STATUS.SHUTDOWN d = false → s.loader.weave ≠ 1 → s.loader.reweave = none → answers (.stackThermalResponse d temp) s fun x =>
      x.flag MEM_STATUS.SHUTDOWN d = true ∧ x.flag MEM_STATUS.HOT_EVENT d = true
        ∧ ∀ e, e < 16 → x.chanState d e = if s.chanState d e = 4 then 4 else 5)
    ∧ (let may := s.flag MEM_STATUS.SHUTDOWN d = true ∧ 10 ≤ cool
      let up := fun (x : State) => x.flag MEM_STATUS.SHUTDOWN d = false ∧ ∀ e, e < 16 → x.chanState d e = if s.chanState d e = 5 then 0 else s.chanState d e
      (¬ (may ∧ s.flag MEM_CTRL.AUTO_RESTART d = true) → exec (.stackRestart d cool) s = .next s)
      ∧ (may → s.flag MEM_CTRL.AUTO_RESTART d = true → answers (.stackRestart d cool) s up)
      ∧ (¬ may → answers (.memRestart d cool) s fun x => accessEnds s x MEM_CMD.RESULT MEM_CMD.DONE d 2 [])
      ∧ (may → answers (.memRestart d cool) s fun x => up x ∧ x.get MEM_CMD.RESULT d = 0 ∧ x.get MEM_CMD.DONE d = 1))
    ∧ (s.chanLive d c = true →
      let n := (s.chan d c).acts.get ⟨bank, row⟩ 0 + 1
      let j := d * 16 + q
      let b := (s.chan d c).banks.get ⟨bank, 0⟩ {}
      let here := b.isOpen = true ∧ b.row = some row
      (here ∨ n < s.get MEM_CTRL.DISTURB_TH d → answers (.rowDisturb d c bank row q dom) s fun x => changesOnly { s with live := x.live, channels := x.channels } x [])
      ∧ (¬ here → n < s.get MEM_CTRL.DISTURB_TH d → answers (.rowDisturb d c bank row q dom) s fun x => (x.chan d c).acts.get ⟨bank, row⟩ 0 = n)
      ∧ (¬ here → s.get MEM_CTRL.DISTURB_TH d ≤ n → answers (.rowDisturb d c bank row q dom) s fun x =>
        x.flag MEM_STATUS.DISTURB_EVENT d = true ∧ (∀ r, row ≤ r + 2 → r ≤ row + 2 → (x.chan d c).acts.get ⟨bank, r⟩ 0 = 0)
          ∧ (q ≠ 0 → c < 16 → x.flag MEM_THROTTLE.ACTIVE j = true ∧ q ∈ (x.chan d c).throttled
            ∧ x.get MEM_THROTTLE.THROTTLE_COUNT j = satAdd MEM_THROTTLE.THROTTLE_COUNT.width (s.get MEM_THROTTLE.THROTTLE_COUNT j) 1
            ∧ x.get MEM_THROTTLE.LAST_DOMAIN j = dom % 2 ^ MEM_THROTTLE.LAST_DOMAIN.width)
          ∧ (q = 0 → (x.chan d c).throttled = (s.chan d c).throttled)))
    ∧ (c < 16 → answers (.throttleEnd d q c) s fun x =>
      (x.chan d c).throttled = (s.chan d c).throttled.filter (fun y => y ≠ q)
        ∧ x.flag MEM_THROTTLE.ACTIVE (d * 16 + q) = ((List.range 16).any fun e => e != c && (s.chan d e).throttled.contains q)
        ∧ changesOnly { s with channels := x.channels } x [MEM_THROTTLE.ACTIVE.at (d * 16 + q)])

/-- ECC_CORRECT, PATROL_SCRUB, CHANNEL_RETUNE, CHANNEL_RETRAIN, CHANNEL_RETIRE, MEM_RETRAIN and MEM_RETIRE (R285, R286, R287, R289, R290): a corrected word is counted and its write-back joins the
channel's write queue; a word beyond correction is counted and recorded, and the cell is damaged for its next reader unless scrub read it; each scrub step asks every channel in use for its next
cell, but one whose last scrub read still waits, and a cell older than 48 h raises SCRUB_LAG once; training takes a channel from service and gives it back with its margin, or to a retrain, or retires it for good with its bit in RETIRED. -/
def Obligations.StackErrorsScrubAndTraining : Prop :=
  ∀ (s : State) (d c off q age m n : Nat) (up : Bool) (lost : List CellOwner) (o : CellOwner) (qu : Nat),
    let i := chanAt d c
    let st := s.chanState d c
    let retired := fun (x : State) => x.chanState d c = 4 ∧ x.flag MEM_STATUS.MIRROR_DEGRADED d = true ∧ x.flag MEM_STATUS.RETIRE_EVENT d = true
      ∧ x.get MEM_STATUS.RETIRED d = setBit (s.get MEM_STATUS.RETIRED d) c % 2 ^ 16
    let trains := fun (x : State) (v : Nat) => x.chanState d c = v ∧ x.get MEM_CH_STATUS.RETRAINS i = (s.get MEM_CH_STATUS.RETRAINS i + 1) % 2 ^ 32
      ∧ x.get MEM_STATUS.OFFLINE d = setBit (s.get MEM_STATUS.OFFLINE d) c % 2 ^ 16
    let serves := fun (x : State) => x.get MEM_CH_STATUS.MARGIN i = m % 2 ^ 8
      ∧ (s.get MEM_CH_STATUS.REF_DEBT i ≤ 8 → x.get MEM_STATUS.OFFLINE d = clearBit (s.get MEM_STATUS.OFFLINE d) c % 2 ^ 16) ∧ x.chanState d c = if 8 < s.get MEM_CH_STATUS.REF_DEBT i then 3 else 0
    let ended := fun (x : State) (r : Nat) => x.get MEM_CMD.RESULT d = r ∧ x.get MEM_CMD.DONE d = 1
    let k := bits off 11 4
    let w := { write := true, bank := bits off 15 5, row := bits off 20 18, cell := bits off 8 3, word := bits off 5 3, requester := 12, domain := 0, came := s.nowNs : MemReq }
    answers (.eccCorrect d off q true o) s (fun x => x.liveOf MEM_CNT.COUNT (d * 16 + 6) = s.liveOf MEM_CNT.COUNT (d * 16 + 6) + 1
      ∧ changesOnly { s with live := x.live, channels := x.channels } x [MEM_CH_STATUS.WQ_DEPTH.at (chanAt d k)] ∧ (∀ e, e ≠ k → x.chan d e = s.chan d e)
      ∧ ((∀ y ∈ (s.chan d k).writes, sameWord y w = false) → (s.chan d k).writes.length < 64 → (x.chan d k).writes = (s.chan d k).writes ++ [w])
      ∧ ((∃ y ∈ (s.chan d k).writes, sameWord y w = true) → (x.chan d k).writes.length = (s.chan d k).writes.length))
    ∧ answers (.eccCorrect d off q false (.queued up qu n)) s (fun x =>
      x.liveOf MEM_CNT.COUNT (d * 16 + 7) = s.liveOf MEM_CNT.COUNT (d * 16 + 7) + 1
        ∧ x.get MEM_ECC_LAST.CHANNEL d = bits off 11 4 ∧ x.get MEM_ECC_LAST.BANK d = bits off 15 5 ∧ x.get MEM_ECC_LAST.ROW d = bits off 20 18
        ∧ x.get MEM_ECC_LAST.CELL d = bits off 8 3 ∧ x.get MEM_ECC_LAST.WORD d = bits off 5 3 ∧ x.get MEM_ECC_LAST.REQUESTER d = q % 2 ^ 4
        ∧ x.queueOf d up qu = if q = 12 then s.queueOf d up qu else markAt n 1 (s.queueOf d up qu))
    ∧ (answers (.patrolScrub d age) s fun x =>
        x.get MEM_SCRUB.PASS_AGE_S d = min age (2 ^ 32 - 1)
          ∧ x.flag MEM_STATUS.SCRUB_LAG d = (decide (172800 < age) || s.flag MEM_STATUS.SCRUB_LAG d)
          ∧ ∀ e, e < 16 →
            let y := s.chan d e
            let waits := ∃ r ∈ y.reads ++ y.delayed, r.requester = 12 ∧ r.write = false
            let p := y.scrubbed % 67108864
            let r := { write := false, bank := p / 8 % 32, row := p / 256, cell := p % 8, word := 0, requester := 12, domain := 0, came := s.nowNs : MemReq }
            (s.chanLive d e = false ∨ waits → x.chan d e = y)
            ∧ (s.chanLive d e = true → ¬ waits → (∀ w ∈ y.writes, sameWord w r = false) → y.reads.length < 64 → (x.chan d e).reads = y.reads ++ [r]))
    ∧ (st = 0 → answers (.channelRetune d c .begins) s (fun x => trains x 1 ∧ x.liveOf MEM_CNT.COUNT (d * 16 + 14) = s.liveOf MEM_CNT.COUNT (d * 16 + 14) + 1)
      ∧ answers (.channelRetrain d c .begins lost) s fun x => trains x 2)
    ∧ (st = 3 → answers (.channelRetune d c .begins) s fun x => (x.chan d c).retuneDue = true ∧ changesOnly { s with channels := x.channels } x [])
    ∧ (st = 1 → answers (.channelRetrain d c .begins lost) s (fun x => trains x 2) ∧ answers (.channelRetune d c .fails) s (fun x => trains x 2)
      ∧ (m < 10 → answers (.channelRetune d c (.ends m)) s fun x => trains x 2 ∧ x.get MEM_CH_STATUS.MARGIN i = m)
      ∧ (10 ≤ m → answers (.channelRetune d c (.ends m)) s serves))
    ∧ (st = 2 → answers (.channelRetrain d c (.ends m) lost) s (fun x => serves x ∧ (x.chan d c).byHost = false ∧ ((s.chan d c).byHost = true → ended x 0))
      ∧ answers (.channelRetrain d c .fails lost) s fun x => retired x ∧ ((s.chan d c).byHost = true → ended x 3))
    ∧ (st ≠ 4 → answers (.channelRetire d c lost) s retired ∧ answers (.memRetire d c lost) s fun x => retired x ∧ ended x 0)
    ∧ (st = 4 → exec (.channelRetire d c lost) s = .next s)
    ∧ (st = 0 ∨ st = 3 → answers (.memRetrain d c) s fun x => trains x 2 ∧ x.get MEM_CMD.DONE d = 0 ∧ (x.chan d c).byHost = true)
    ∧ (st = 1 ∨ st = 2 → answers (.memRetrain d c) s fun x => accessEnds s x MEM_CMD.RESULT MEM_CMD.DONE d 1 [])
    ∧ (st = 4 ∨ st = 5 → answers (.memRetrain d c) s fun x => accessEnds s x MEM_CMD.RESULT MEM_CMD.DONE d 2 [])

/-- LANE_ON, LANE_FAIL, COMMA_LOCK, CAP, STATUS, STATUS_TIMEOUT and STATUS_SEND (R297, R300, R301, R303, R304): a lane in STARTING reaches ON with the partner's CAP credits, a Kolkan lane once its
capability exchange is complete; a failed lane goes back to STARTING, its credits gone; three commas (a block of 130 bits that differs from the comma in at most 4) lock and the part sends CAP, four missing unlock, and 512 codewords are counted between two; three identical CAP blocks set SEEN, and a partner that is the
device itself sets DUP_DEVICE; two STATUS blocks in a row, or their absence, decide loss of path; the part sends its own STATUS block. -/
def Obligations.LanesComeUpAndFall : Prop :=
  ∀ (s : State) (lane : Nat) (los lock pathOk rxOk : Bool) (k : Cap) (block : List Bool),
    let l := s.laneUnit lane
    let x0 := s.lane lane
    let kolkan := s.laneMode lane = 3 ∨ s.laneMode lane = 4
    let hit := block.length = 130 ∧ ((block.zip ([false, false] ++ wordBits 128 0xC3A596F00F695A3CE71824DB7E81B42D)).filter fun e => e.1 != e.2).length ≤ 4
    let free := s.latchOf (.lane lane) = 0
    (s.get FAB_LANE_STATUS.STATE l ≠ 1 → exec (.laneOn lane) s = .next s)
    ∧ (s.get FAB_LANE_STATUS.STATE l = 1 → s.laneMode l ≠ 0 → (s.kolkanCoded l = true → s.capDone l = true) → (s.lane l).cap = some k → s.latchOf (.lane l) = 0 → answers (.laneOn lane) s fun x =>
      x.laneOn l = true ∧ x.flag FAB_LANE_STATUS.ALIGN l = true ∧ x.flag FAB_LANE_STATUS.CDR_LOCK l = true ∧ x.flag FAB_LANE_STATUS.LOS l = false
        ∧ ∀ c, c < 8 → x.credit.get ⟨l, c⟩ 0 = min 4095 (k.credits.getD c 0))
    ∧ (s.laneOn l = false → exec (.laneFail lane los lock) s = .next s)
    ∧ (s.laneOn l = true → answers (.laneFail lane los lock) s fun x =>
      x.get FAB_LANE_STATUS.STATE l = 1 ∧ x.flag FAB_LANE_STATUS.ALIGN l = false ∧ x.flag FAB_LANE_STATUS.LINK_EVENT l = true
        ∧ x.flag FAB_LANE_STATUS.LOS l = los ∧ x.flag FAB_LANE_STATUS.CDR_LOCK l = lock
        ∧ ∀ c, c < 8 → x.credit.get ⟨l, c⟩ 0 = 0 ∧ x.owed.get ⟨l, c⟩ 0 = 0 ∧ x.rxPart.get ⟨l, c⟩ none = none)
    ∧ (kolkan → s.flag FAB_LANE_STATUS.ALIGN lane = false →
      (hit → x0.commas ≠ 2 → answers (.commaLock lane block) s fun x => (x.lane lane).commas = x0.commas + 1 ∧ changesOnly { s with lanes := x.lanes } x [])
      ∧ (hit → x0.commas = 2 → answers (.commaLock lane block) s fun x =>
        x.flag FAB_LANE_STATUS.ALIGN lane = true ∧ changesOnly { s with lanes := x.lanes, outbox := x.outbox } x [FAB_LANE_STATUS.ALIGN.at lane]
          ∧ ∃ w : List (List Int), x.outbox = s.outbox ++ Sent.control lane (controlBlock 0x5A (s.get PKG_IDENT.DEVICE_ID 0 * 2 ^ 109 + lane * 2 ^ 104 + 2 ^ 100
            + s.get FAB_LANE_CTRL.PRECODE_REQ lane * 2 ^ 99 + 2 ^ 98 + ofBool x0.seen * 2 ^ 97 + ((List.range 8).map fun c => 256 * 2 ^ (16 + 10 * c)).sum)) :: w.map (Sent.codeword lane))
      ∧ (¬ hit → answers (.commaLock lane block) s fun x => (x.lane lane).commas = 0 ∧ changesOnly { s with lanes := x.lanes } x []))
    ∧ (kolkan → s.flag FAB_LANE_STATUS.ALIGN lane = true →
      (hit → answers (.commaLock lane block) s fun x => (x.lane lane).missing = 0 ∧ x.liveOf FAB_LANE_CNT.COUNT (lane * 12) = s.liveOf FAB_LANE_CNT.COUNT (lane * 12) + 512
        ∧ changesOnly { s with lanes := x.lanes, live := x.live } x [])
      ∧ (¬ hit → x0.missing ≠ 3 → answers (.commaLock lane block) s fun x => (x.lane lane).missing = x0.missing + 1 ∧ changesOnly { s with lanes := x.lanes, live := x.live } x [])
      ∧ (¬ hit → x0.missing = 3 → answers (.commaLock lane block) s fun x =>
        x.flag FAB_LANE_STATUS.ALIGN lane = false ∧ (s.laneOn lane = true → x.get FAB_LANE_STATUS.STATE lane = 1 ∧ x.flag FAB_LANE_STATUS.LINK_EVENT lane = true)))
    ∧ (¬ kolkan → exec (.commaLock lane block) s = .next s ∧ exec (.cap lane k) s = .next s)
    ∧ (kolkan → s.flag FAB_LANE_STATUS.ALIGN lane = true →
      let dup := k.version ≠ 1 ∨ k.device < 1024 ∧ k.device = s.get PKG_IDENT.DEVICE_ID 0
      (x0.seen = false → x0.cap ≠ some k → answers (.cap lane k) s fun x =>
        (x.lane lane).capRun = 1 ∧ (x.lane lane).cap = some k ∧ (x.lane lane).seen = false ∧ changesOnly { s with lanes := x.lanes } x [])
      ∧ (x0.cap = some k → x0.capRun = 2 → free → answers (.cap lane k) s fun x =>
        x.get FAB_LANE_STATUS.PARTNER_DEVICE lane = k.device % 2 ^ 11 ∧ x.get FAB_LANE_STATUS.PARTNER_LANE lane = k.lane % 2 ^ 5
          ∧ (dup → x.flag FAB_LANE_STATUS.DUP_DEVICE lane = true ∧ x.get FAB_LANE_STATUS.STATE lane = s.get FAB_LANE_STATUS.STATE lane)
          ∧ (¬ dup → k.seen = true → s.get FAB_LANE_STATUS.STATE lane = 1 → x.laneOn lane = true)
          ∧ (¬ dup → k.seen = false → x.get FAB_LANE_STATUS.STATE lane = s.get FAB_LANE_STATUS.STATE lane ∧ (x.lane lane).seen = true)))
    ∧ (s.laneMode lane = 3 → s.flag FAB_LANE_STATUS.ALIGN lane = true →
      ((pathOk && rxOk) = false → answers (.status lane pathOk rxOk) s fun x =>
        (0 < x0.pathBad → x.flag FAB_LANE_STATUS.PATH_LOSS lane = true) ∧ (x0.pathBad = 0 → (x.lane lane).pathBad = 1 ∧ changesOnly { s with lanes := x.lanes } x []))
      ∧ ((pathOk && rxOk) = true → answers (.status lane pathOk rxOk) s fun x =>
        (0 < x0.pathGood → x.flag FAB_LANE_STATUS.PATH_LOSS lane = false) ∧ (x0.pathGood = 0 → (x.lane lane).pathGood = 1 ∧ changesOnly { s with lanes := x.lanes } x [])))
    ∧ (s.laneMode l = 1 ∨ s.laneMode l = 2 → answers (.status lane pathOk rxOk) s fun x => x.flag FAB_LANE_STATUS.PATH_LOSS l = !(pathOk && rxOk))
    ∧ (s.laneMode lane = 3 → answers (.statusTimeout lane) s fun x => x.flag FAB_LANE_STATUS.PATH_LOSS lane = true ∧ x.get FAB_LANE_STATUS.STATE lane = s.get FAB_LANE_STATUS.STATE lane)
    ∧ (s.laneMode lane ≠ 3 → exec (.statusTimeout lane) s = .next s ∧ exec (.statusSend lane) s = .next s)
    ∧ (s.laneMode lane = 3 → s.get FAB_LANE_STATUS.STATE lane = 1 ∨ s.get FAB_LANE_STATUS.STATE lane = 2 → answers (.statusSend lane) s fun x =>
      changesOnly { s with lanes := x.lanes, outbox := x.outbox } x []
        ∧ ∃ w : List (List Int), x.outbox = s.outbox ++ Sent.control lane (controlBlock 0x3C
          (s.get PKG_IDENT.DEVICE_ID 0 * 2 ^ 109 + ofBool s.pathOk * 2 ^ 108 + s.get FAB_LANE_STATUS.ALIGN lane * 2 ^ 107)) :: w.map (Sent.codeword lane))

/-- KOLKAN_CELL_RECEIVE, CONTROL_BLOCK_BAD, ABORT, FLOW, FLOW_SEND and CREDIT_STALL (R298, R299, R300, R302): a cell owes its place back; one for another device is only counted, one of ours joins
the frame in progress of its class or completes it; a codeword of at most 12 wrong symbols is corrected, one with more, a bad HCRC, a bad header and an ABORT end the frame in progress; FLOW adds credits to at most 4,095 and FLOW_SEND returns what is owed;
a class that waits without credit counts once. -/
def Obligations.CellsAndCreditsMove : Prop :=
  ∀ (s : State) (lane h tc v before : Nat) (payload inc cs word : List Nat) (readable comma : Bool),
    let runs := s.laneMode lane = 3 ∧ s.laneOn lane = true
    let cls := bits h 111 3
    let sound := crc16 112 (h / 2 ^ 16 % 2 ^ 112) = h % 2 ^ 16
    let ours := bits h 91 11 = s.get PKG_IDENT.DEVICE_ID 0
    let kind := bits h 116 4
    let data := payload.take (bits h 102 8)
    let counted := fun (x : State) (k : Nat) => x.liveOf FAB_LANE_CNT.COUNT (lane * 12 + k) = s.liveOf FAB_LANE_CNT.COUNT (lane * 12 + k) + 1
    let owes := fun (x : State) => x.owed.get ⟨lane, cls⟩ 0 = s.owed.get ⟨lane, cls⟩ 0 + 1
    let due := fun c => min 4095 (s.owed.get ⟨lane, c⟩ 0)
    (¬ runs → exec (.kolkanCellReceive lane h payload) s = .next s ∧ exec (.flow lane inc) s = .next s ∧ exec (.flowSend lane) s = .next s ∧ exec (.creditStall lane tc) s = .next s)
    ∧ (runs → sound → ¬ ours → answers (.kolkanCellReceive lane h payload) s fun x => owes x ∧ counted x 9 ∧ changesOnly { s with owed := x.owed, live := x.live } x [])
    ∧ (runs → sound → ours → kind < 3 →
      (bitAt h 115 = true → bitAt h 114 = false → answers (.kolkanCellReceive lane h payload) s fun x =>
        owes x ∧ x.rxPart.get ⟨lane, cls⟩ none = some ⟨data, bits h 68 12, kind⟩ ∧ x.rxReady = s.rxReady)
      ∧ (bitAt h 115 = true → bitAt h 114 = true → kind < 2 → answers (.kolkanCellReceive lane h payload) s fun x =>
        owes x ∧ x.rxPart.get ⟨lane, cls⟩ none = none ∧ x.rxReady.get ⟨lane, 0⟩ [] = s.rxReady.get ⟨lane, 0⟩ [] ++ [⟨data, bits h 68 12, kind == 1⟩])
      ∧ (∀ p, bitAt h 115 = false → bitAt h 114 = false → s.rxPart.get ⟨lane, cls⟩ none = some p → answers (.kolkanCellReceive lane h payload) s fun x =>
        owes x ∧ x.rxPart.get ⟨lane, cls⟩ none = some { p with bytes := p.bytes ++ data })
      ∧ (bitAt h 115 = false → s.rxPart.get ⟨lane, cls⟩ none = none → answers (.kolkanCellReceive lane h payload) s fun x => owes x ∧ changesOnly { s with owed := x.owed } x []))
    ∧ (runs → ¬ sound → s.flag FAB_LANE_STATUS.ALIGN lane = true → answers (.kolkanCellReceive lane h payload) s fun x =>
      counted x 3 ∧ (bits h 120 8 = 0x78 → x.rxPart.get ⟨lane, cls⟩ none = none) ∧ x.owed = s.owed)
    ∧ (s.laneMode lane = 3 → s.flag FAB_LANE_STATUS.ALIGN lane = true →
      let sums := crc16 112 (v / 2 ^ 16 % 2 ^ 112) = v % 2 ^ 16
      let symbols := codewordSymbols (if comma then 0 else before) word
      (¬ sums → bits v 120 8 ≠ 0x78 → answers (.controlBlockBad lane (.control v readable)) s fun x => counted x 3 ∧ changesOnly { s with live := x.live } x [])
      ∧ (¬ sums → bits v 120 8 = 0x78 → answers (.controlBlockBad lane (.control v readable)) s fun x =>
        counted x 3 ∧ ∀ c, c < 8 → readable = false ∨ c = bits v 111 3 → x.rxPart.get ⟨lane, c⟩ none = none)
      ∧ (sums → bits v 120 8 ∉ [0x1E, 0x2D, 0x2E, 0x3C, 0x4B, 0x55, 0x5A, 0x66, 0x78] →
        answers (.controlBlockBad lane (.control v readable)) s fun x => counted x 4 ∧ changesOnly { s with live := x.live } x [])
      ∧ answers (.controlBlockBad lane (.header cs)) s (fun x => counted x 4 ∧ ∀ c ∈ cs, x.rxPart.get ⟨lane, c⟩ none = none)
      ∧ (rsCorrect symbols = none → answers (.controlBlockBad lane (.codeword comma before word cs)) s fun x => counted x 2 ∧ ∀ c ∈ cs, x.rxPart.get ⟨lane, c⟩ none = none)
      ∧ (∀ n w, rsCorrect symbols = some (n, w) → answers (.controlBlockBad lane (.codeword comma before word cs)) s fun x =>
        x.liveOf FAB_LANE_CNT.COUNT (lane * 12 + 1) = s.liveOf FAB_LANE_CNT.COUNT (lane * 12 + 1) + n ∧ changesOnly { s with live := x.live } x []))
    ∧ (s.laneMode lane = 4 → s.flag FAB_LANE_STATUS.ALIGN lane = true → answers (.controlBlockBad lane (.header cs)) s fun x =>
      counted x 4 ∧ x.liveOf PEER_CNT.COUNT 1 = s.liveOf PEER_CNT.COUNT 1 + 1)
    ∧ (s.laneOn lane = true → answers (.abort lane tc) s fun x =>
      x.rxPart.get ⟨lane, tc⟩ none = none ∧ ((s.rxPart.get ⟨lane, tc⟩ none).isSome = true → counted x 7) ∧ changesOnly { s with rxPart := x.rxPart, live := x.live } x [])
    ∧ (s.laneOn lane = false → exec (.abort lane tc) s = .next s)
    ∧ (runs → answers (.flow lane inc) s fun x =>
      (∀ c, c < 8 → x.credit.get ⟨lane, c⟩ 0 = min 4095 (s.credit.get ⟨lane, c⟩ 0 + inc.getD c 0)) ∧ changesOnly { s with credit := x.credit, lanes := x.lanes } x [])
    ∧ (runs → ((List.range 8).map due).sum ≠ 0 → answers (.flowSend lane) s fun x =>
      (∀ c, c < 8 → x.owed.get ⟨lane, c⟩ 0 = s.owed.get ⟨lane, c⟩ 0 - due c)
        ∧ changesOnly { s with owed := x.owed, lanes := x.lanes, outbox := x.outbox } x []
        ∧ ∃ w : List (List Int), x.outbox = s.outbox ++ Sent.control lane (controlBlock 0x4B ((List.range 8).map fun c => due c * 2 ^ (24 + 12 * c)).sum) :: w.map (Sent.codeword lane))
    ∧ (runs → s.credit.get ⟨lane, tc⟩ 0 = 0 → (s.nextForLane lane (some tc)).isSome = true → tc ∉ (s.lane lane).stalled → answers (.creditStall lane tc) s fun x =>
      counted x 11 ∧ tc ∈ (x.lane lane).stalled ∧ exec (.creditStall lane tc) x = .next x)
    ∧ (s.credit.get ⟨lane, tc⟩ 0 ≠ 0 → exec (.creditStall lane tc) s = .next s)
--OBL
/-- FLIT_REPLAY, DIE_LINK_IDLE, DIE_LINK_WAKE, BLIND_FALLBACK and DIE_LINK_ON (R305, R307, R308): a replay is counted at both ends, and the eighth failure in a row sends the link to STARTING with
its LINK_EVENT; an idle link that may idle shows IDLE at both ends until demand wakes it; a blind start falls back to staged training; a link that completes bring-up is ON at both ends. -/
def Obligations.DieLinksReplayIdleAndStart : Prop :=
  ∀ (s : State) (d e lost : Nat) (ok : Bool), d ≠ e →
    let a := linkAt d e
    let b := linkAt e d
    let run := s.replays.get ⟨d, e⟩ 0
    let counted := fun (x : State) (l k : Nat) => x.liveOf FAB_DL_CNT.COUNT (l * 8 + k) = s.liveOf FAB_DL_CNT.COUNT (l * 8 + k) + 1
    (s.linked d e = false → exec (.flitReplay d e ok lost) s = .next s ∧ exec (.dieLinkIdle d e) s = .next s ∧ exec (.dieLinkWake d e) s = .next s)
    ∧ (s.linked d e = true →
      (answers (.flitReplay d e true lost) s fun x => x.replays.get ⟨d, e⟩ 0 = 0 ∧ counted x b 1 ∧ counted x a 2 ∧ changesOnly { s with replays := x.replays, live := x.live } x [])
      ∧ (run < 7 → answers (.flitReplay d e false lost) s fun x =>
        x.replays.get ⟨d, e⟩ 0 = run + 1 ∧ counted x b 1 ∧ counted x a 2 ∧ changesOnly { s with replays := x.replays, live := x.live } x [])
      ∧ (run = 7 → answers (.flitReplay d e false lost) s fun x =>
        x.replays.get ⟨d, e⟩ 0 = 0 ∧ x.get FAB_DL_STATUS.STATE a = 1 ∧ x.get FAB_DL_STATUS.STATE b = 1 ∧ x.get FAB_DL_STATUS.LANES_LOCKED a = 0
          ∧ x.flag FAB_DL_STATUS.LINK_EVENT a = true ∧ x.flag FAB_DL_STATUS.LINK_EVENT b = true
          ∧ x.liveOf FAB_DL_CNT.COUNT (a * 8 + 4) = s.liveOf FAB_DL_CNT.COUNT (a * 8 + 4) + lost)
      ∧ (s.get FAB_DL_CTRL.IDLE_NS a ≠ 0 → s.flag FAB_DL_STATUS.IDLE a = false → answers (.dieLinkIdle d e) s fun x =>
        x.flag FAB_DL_STATUS.IDLE a = true ∧ x.flag FAB_DL_STATUS.IDLE b = true ∧ counted x a 6 ∧ counted x b 6
          ∧ changesOnly { s with live := x.live } x [FAB_DL_STATUS.IDLE.at a, FAB_DL_STATUS.IDLE.at b])
      ∧ (s.get FAB_DL_CTRL.IDLE_NS a = 0 → exec (.dieLinkIdle d e) s = .next s)
      ∧ answers (.dieLinkWake d e) s fun x =>
        x.flag FAB_DL_STATUS.IDLE a = false ∧ x.flag FAB_DL_STATUS.IDLE b = false ∧ changesOnly s x [FAB_DL_STATUS.IDLE.at a, FAB_DL_STATUS.IDLE.at b])
    ∧ (s.get FAB_DL_STATUS.STATE a = 1 →
      (s.flag FAB_DL_STATUS.BLIND a = true → answers (.blindFallback d e) s fun x =>
        x.flag FAB_DL_STATUS.BLIND a = false ∧ x.flag FAB_DL_STATUS.BLIND b = false ∧ counted x a 7 ∧ counted x b 7
          ∧ changesOnly { s with live := x.live } x [FAB_DL_STATUS.BLIND.at a, FAB_DL_STATUS.BLIND.at b])
      ∧ (s.latchOf (.dieLink a) = 0 → answers (.dieLinkOn d e) s fun x =>
        x.get FAB_DL_STATUS.STATE a = 2 ∧ x.get FAB_DL_STATUS.STATE b = 2 ∧ x.get FAB_DL_STATUS.LANES_LOCKED a = 255 ∧ x.get FAB_DL_STATUS.LANES_LOCKED b = 255 ∧ x.linked d e = true))
    ∧ (s.get FAB_DL_STATUS.STATE a ≠ 1 → exec (.dieLinkOn d e) s = .next s ∧ exec (.blindFallback d e) s = .next s)

/-- TIME_MEASUREMENT, SOURCE_LOST, TIME_STEP, STEP_APPLY, TIME_MEAS_WRITE, PPS_EDGE, TOD_MESSAGE, PPS_OUT, FAB_TS_POP, TIME, TIME_ECHO and TIME_SEND (R310, R311, R312, R313, R314, R315): a measurement
of the selected source renews the estimate and ends holdover, or acquires time; a lost source starts holdover; a step moves network time at once, or waits for its trees and then applies; a ToD
message measures the edge before it; TIME blocks are sent, answered and give the link delay. The median of the estimate is the model's choice (log entry 21). -/
def Obligations.TimeIsMeasuredSteppedAndCarried : Prop :=
  ∀ (s : State) (source lane seq stratum turn sec d size : Nat) (offset : Int) (force srcValid master : Bool) (v : Word) (bytes : List Nat) (tx rx : NetTime),
    let meas := (offset :: s.clock.meas).take 8
    let est := medianOf meas
    let moved := fun (x : State) (amount : Int) => ∀ n : Nat, (s.netSec * unitsPerSecond + s.netFrac : Nat) + amount = n → n < 2 ^ 48 * unitsPerSecond →
      x.netSec = n / unitsPerSecond ∧ x.netFrac = n % unitsPerSecond ∧ x.flag TIME_STATUS.VALID 0 = true
    let chosen := source ≠ 0 ∧ s.get TIME_CTRL.SOURCE 0 = source
    let stepBy := toSigned 64 (s.get TIME_OFFSET.OFFSET 0) * 2 ^ 16
    let logged := fun (x : State) => x.get SEC_FW_EVENT.COUNT 0 = satAdd SEC_FW_EVENT.COUNT.width (s.get SEC_FW_EVENT.COUNT 0) 1 ∧ x.netSec = s.netSec ∧ x.netFrac = s.netFrac ∧ x.clock = s.clock
    (¬ chosen → exec (.timeMeasurement source offset) s = .next s)
    ∧ (chosen → s.timeValid = true → answers (.timeMeasurement source offset) s fun x =>
      x.clock.meas = meas ∧ x.get TIME_STATUS.OFFSET_NS 0 = satSigned 32 (est / 2 ^ 16) % 2 ^ 32 ∧ x.flag TIME_STATUS.LOCKED 0 = decide (est.natAbs ≤ 100 * 2 ^ 16)
        ∧ x.flag TIME_STATUS.HOLDOVER 0 = false ∧ x.netSec = s.netSec ∧ x.netFrac = s.netFrac
        ∧ x.flag TIME_STATUS.STEP_NEEDED 0 = (decide (s.get TIME_CTRL.STEP_LIMIT_US 0 * 1000 * 2 ^ 16 < est.natAbs) || s.flag TIME_STATUS.STEP_NEEDED 0))
    ∧ (chosen → s.timeValid = false → s.flag TIME_CTRL.STEP_PENDING 0 = false → s.noTreeSends = true → answers (.timeMeasurement source offset) s fun x => moved x (-offset))
    ∧ (s.timeValid = true → s.get TIME_CTRL.SOURCE 0 ≠ 0 → s.flag TIME_STATUS.HOLDOVER 0 = false → answers .sourceLost s fun x =>
      x.flag TIME_STATUS.HOLDOVER 0 = true ∧ x.flag TIME_STATUS.SOURCE_LOST 0 = true ∧ x.clock = { s.clock with meas := [] })
    ∧ (s.timeValid = false ∨ s.get TIME_CTRL.SOURCE 0 = 0 ∨ s.flag TIME_STATUS.HOLDOVER 0 = true → exec .sourceLost s = .next s)
    ∧ (s.flag SEC_LOCK.TIME 0 = true → answers (.timeStep force) s logged ∧ answers (.timeMeasWrite 8 v) s logged)
    ∧ (s.flag SEC_LOCK.TIME 0 = false →
      (s.flag TIME_CTRL.STEP_PENDING 0 = true ∨ s.noTreeSends = false ∧ force = false → exec (.timeStep force) s = .next s)
      ∧ (s.flag TIME_CTRL.STEP_PENDING 0 = false → s.noTreeSends = true → answers (.timeStep force) s fun x => moved x stepBy)
      ∧ (s.flag TIME_CTRL.STEP_PENDING 0 = false → s.noTreeSends = false → answers (.timeStep true) s fun x =>
        x.flag TIME_CTRL.STEP_PENDING 0 = true ∧ x.clock.step = some ⟨stepBy, false, s.treesIn 2⟩ ∧ x.netSec = s.netSec ∧ x.netFrac = s.netFrac)
      ∧ exec (.timeMeasWrite 8 v) s = exec (.timeMeasurement 3 (toSigned 64 v.toNat)) s)
    ∧ (size ≠ 8 → exec (.timeMeasWrite size v) s = .next s)
    ∧ (s.clock.step = none ∨ s.noTreeSends = false → exec .stepApply s = .next s)
    ∧ (∀ p, s.clock.step = some p → s.noTreeSends = true → answers .stepApply s fun x =>
      moved x p.amount ∧ x.flag TIME_CTRL.STEP_PENDING 0 = false ∧ x.clock.step = none)
    ∧ answers (.ppsEdge rx) s (fun x => x.netSec = rx.sec % 2 ^ 48 ∧ x.netFrac = rx.frac ∧ x.clock = { s.clock with edge := some (timeUnits rx) })
    ∧ (∀ e, s.clock.edge = some e →
      let good := bytes.length = 12 ∧ byteAt bytes 0 = 0x54 ∧ byteAt bytes 1 = 0x44 ∧ byteAt bytes 11 = todCrc bytes ∧ e + 10 * 10 ^ 6 * 2 ^ 16 ≤ timeUnits rx ∧ timeUnits rx ≤ e + 900 * 10 ^ 6 * 2 ^ 16
      let second := leValue ((bytes.drop 2).take 6).reverse
      let y := ({ s.setTime rx.sec rx.frac with clock := { s.clock with edge := none } } : State)
      (good → exec (.todMessage bytes rx) s = exec (.timeMeasurement 1 ((e : Int) - (second * unitsPerSecond : Nat))) y)
      ∧ (¬ good → exec (.todMessage bytes rx) s = .next (s.setTime rx.sec rx.frac)))
    ∧ answers (.ppsOut sec) s (fun x => x.netSec = sec % 2 ^ 48 ∧ x.netFrac = 0
        ∧ x.outbox = s.outbox ++ (if s.flag TIME_CTRL.PPS_OUT_EN 0 then [.pps] else []) ++ (if s.flag TIME_CTRL.TOD_OUT_EN 0 then [.tod (s.todBytes sec)] else []))
    ∧ answers (.fabTsPop d) s (fun x => x.stamps.get ⟨d, 0⟩ [] = (s.stamps.get ⟨d, 0⟩ []).drop 1 ∧ x.flag FAB_TS_HI.VALID d = !((s.stamps.get ⟨d, 0⟩ []).drop 1).isEmpty)
    ∧ (s.timeLane lane = false → exec (.time lane seq tx rx srcValid master stratum turn) s = .next s ∧ exec (.timeEcho lane seq turn rx) s = .next s ∧ exec (.timeSend lane tx) s = .next s)
    ∧ (s.timeLane lane = true →
      ((s.lane lane).delay = none ∨ s.get TIME_CTRL.SOURCE 0 ≠ 2 → answers (.time lane seq tx rx srcValid master stratum turn) s fun x =>
        x.get FAB_LANE_STATUS.PARTNER_STRATUM lane = stratum % 2 ^ 6 ∧ (x.lane lane).srcValid = srcValid ∧ (x.lane lane).master = master ∧ x.netSec = rx.sec % 2 ^ 48 ∧ x.netFrac = rx.frac
          ∧ ∃ w : List (List Int), x.outbox = s.outbox ++ Sent.control lane (controlBlock 0x2E (seq % 256 * 2 ^ 112 + timeBits rx * 2 ^ 32 + turn % 2 ^ 16 * 2 ^ 16)) :: w.map (Sent.codeword lane))
      ∧ (∀ t1, (s.lane lane).timeSent.find? (fun e => e.1 == seq) = some (seq, t1) → answers (.timeEcho lane seq turn rx) s fun x =>
        (x.lane lane).delay = some (((timeUnits rx : Int) - t1 - turn * 2 ^ 16) / 2) ∧ (x.lane lane).timeSent = (s.lane lane).timeSent.filter (fun e => e.1 ≠ seq))
      ∧ ((s.lane lane).timeSent.find? (fun e => e.1 == seq) = none → exec (.timeEcho lane seq turn rx) s = .next s)
      ∧ answers (.timeSend lane tx) s fun x =>
        (x.lane lane).timeSeq = ((s.lane lane).timeSeq + 1) % 256 ∧ ((s.lane lane).timeSeq, timeUnits tx) ∈ (x.lane lane).timeSent 
          ∧ ∃ (b : Nat) (w : List (List Int)), x.outbox = s.outbox ++ Sent.control lane (controlBlock 0x2D b) :: w.map (Sent.codeword lane))

/-- CLAIM_LIVE, CLAIM_ABSENT, SEIZE, SETTLE_END, DOUBLE_CLAIM, RELEASE, RELEASE_DARKEN and AUTO_DEGRADE (R319, R321, R322, R334, R335, R337): a live claim darkens every claim-gated tree;
without one each such tree that is ON lights as lock, mute and claim let it; a part seizes on a heartbeat failure, an inactive partner or a RELEASE that it holds, and otherwise reports
CLAIM_FAULT; the end of its settle makes it active, and a junior that meets a live claim yields; a release names a frame at least 8 ahead, and at it the part goes dark and is the standby. -/
def Obligations.ClaimGatesTheLightOfAPair : Prop :=
  ∀ (s : State) (f : Nat) (rel : Option Nat),
    let gated := fun (t : Nat) => t < 8 * s.dies ∧ s.claimGated t = true
    let dark := fun (x : State) => ∀ t, gated t → x.get TREE_OPT_STATUS.TX_STATE_FIFTY t = 0 ∧ x.get TREE_OPT_STATUS.TX_STATE_XGS t = 0
    let yields := fun (x : State) => x.flag PEER_STATUS.CLAIM_OUT 0 = false ∧ x.role = 3 ∧ x.pair = { s.pair with settling := false }
    let live := s.flag PEER_STATUS.CLAIM_IN 0
    let claims := s.flag PEER_STATUS.CLAIM_OUT 0
    let junior := !s.flag PEER_STATUS.SENIOR 0
    let maySeize := s.flag PEER_CTRL.ENABLE 0 && !claims && !live && !s.mayNotSeize
    let reason := rel.isSome || s.flag PEER_STATUS.HB_FAIL 0 || s.pair.last.any fun h => !h.2.2
    let ahead := wrapSub 32 f s.frame
    let refused := fun (r : Nat) => answers (.release f) s fun x => x.get PEER_CMD.RESULT 0 = r ∧ x.pair = s.pair ∧ x.role = s.role
    let takes := fun (x : State) (g : Nat) => x.pair.release = some g ∧ x.pair.degrade = 0 ∧ x.get PEER_CMD.RESULT 0 = 0 ∧ x.get PEER_CMD.DONE 0 = 0 ∧ x.role = 2
    answers .claimLive s (fun x => dark x ∧ x.flag PEER_STATUS.CLAIM_IN 0 = true
      ∧ (s.pair.settling = true → junior = true → yields x)
      ∧ ((s.pair.settling && junior) = false → x.pair = s.pair ∧ x.flag PEER_STATUS.CLAIM_OUT 0 = claims
        ∧ (s.role ≠ 3 → s.blocks = true → x.flag PEER_STATUS.CLAIM_BLOCKED 0 = true)))
    ∧ answers .claimAbsent s (fun x => x.flag PEER_STATUS.CLAIM_IN 0 = false
      ∧ (s.flag PEER_CTRL.ENABLE 0 = false → s.blocks = true → x.flag PEER_STATUS.CLAIM_OUT 0 = true)
      ∧ ∀ t, gated t → s.get DMK_TREE_STATE.STATE t = 2 → (s.tree t).txShut = false → ∀ k ∈ s.liveSets t, x.get (txState k) t = x.litState t k)
    ∧ (maySeize = false → exec (.seize rel) s = .next s)
    ∧ (maySeize = true → reason = true → answers (.seize rel) s fun x =>
      x.flag PEER_STATUS.CLAIM_OUT 0 = true ∧ x.pair = { s.pair with settling := true })
    ∧ (maySeize = true → reason = false → answers (.seize rel) s fun x =>
      x.flag PEER_STATUS.CLAIM_FAULT 0 = true ∧ x.flag PEER_STATUS.CLAIM_OUT 0 = false ∧ x.pair = s.pair ∧ x.liveOf PEER_CNT.COUNT 11 = s.liveOf PEER_CNT.COUNT 11 + 1)
    ∧ (s.pair.settling = false → exec .settleEnd s = .next s)
    ∧ (s.pair.settling = true → live = true → junior = true → answers .settleEnd s yields)
    ∧ (s.pair.settling = true → (live && junior) = false → answers .settleEnd s fun x =>
      x.role = 2 ∧ x.flag PEER_STATUS.CLAIM_OUT 0 = claims ∧ x.pair = { s.pair with settling := false, release := none, degrade := 0, tauHeld := s.pair.tauHeld || s.role == 3 }
        ∧ (s.role = 3 → x.flag PEER_STATUS.SWITCH_EVENT 0 = true))
    ∧ ((s.holdsClaim && live && junior) = false → exec .doubleClaim s = .next s)
    ∧ ((s.holdsClaim && live && junior) = true → answers .doubleClaim s fun x =>
      dark x ∧ x.flag PEER_STATUS.CLAIM_OUT 0 = false ∧ (s.flag PEER_CTRL.ENABLE 0 = true → x.role = 3 ∧ x.pair = { s.pair with tauHeld := false }))
    ∧ (s.role ≠ 2 → refused 2)
    ∧ (s.role = 2 → s.pair.release.isSome = true → refused 1)
    ∧ (s.role = 2 → s.pair.release = none → s.timeValid = false ∨ ahead < 8 ∨ 2 ^ 31 ≤ ahead → refused 3)
    ∧ (s.role = 2 → s.pair.release = none → s.timeValid = true → 80000 < ahead → ahead < 2 ^ 31 → refused 4)
    ∧ (s.role = 2 → s.pair.release = none → s.timeValid = true → 8 ≤ ahead → ahead ≤ 80000 → answers (.release f) s fun x => takes x f)
    ∧ (s.pair.release = none → exec .releaseDarken s = .next s)
    ∧ (∀ g, s.pair.release = some g → answers .releaseDarken s fun x =>
      dark x ∧ x.flag PEER_STATUS.CLAIM_OUT 0 = false ∧ x.role = 3 ∧ x.pair = { s.pair with release := none, tauHeld := false } ∧ x.get PEER_CMD.DONE 0 = 1)
    ∧ (s.role ≠ 2 ∨ s.flag PEER_CTRL.AUTO_DEGRADE 0 = false ∨ s.partnerBetter = false → answers .autoDegrade s fun x =>
      x = { s with pair := { s.pair with degrade := 0 } })
    ∧ (s.role = 2 → s.flag PEER_CTRL.AUTO_DEGRADE 0 = true → s.partnerBetter = true →
      (s.pair.degrade < 7999 → answers .autoDegrade s fun x => x = { s with pair := { s.pair with degrade := s.pair.degrade + 1 } })
      ∧ (7999 ≤ s.pair.degrade → s.pair.release = none → answers .autoDegrade s fun x => takes x ((s.frame + 16) % 2 ^ 32)))

/-- HEARTBEAT_SEND, HEARTBEAT, HEARTBEAT_FAILURE, PAIR_HELLO, PAIR_ACCEPT, MAP, TERMINAL, CIRCUIT, HEALTH, CALIBRATE and STANDBY_OFFSET_UPDATE (R325, R326, R328, R329, R333, R336): heartbeats
are sent, clear the failure and give the time difference; equal digests form a pair, whose claim holder is active; a standby takes the maps, terminals and packets of its partner, searches and
moves its offsets; health reports are made, sent and kept. The median, the kinds of a mirrored map and the place of a packet are the model's choices (log entries 26 and 41). -/
def Obligations.PairsFormAndStandbysFollow : Prop :=
  ∀ (s : State) (seq device t0 echo turn t k m digest member pairDevice : Nat) (active senior : Bool) (rx tx : NetTime) (trees : List Nat) (grants : List Grant)
    (r : TermRecord) (rs : List TermRecord) (c : CircRecord) (cs : List CircRecord) (b : List Nat),
    let on := s.flag PEER_CTRL.ENABLE 0
    let linked := on && s.peerLane.isSome
    let arrival := peerUnits (s.setTime rx.sec rx.frac).peerTime
    let roleAfter := fun (formed partner : Bool) => if s.role = 1 ∧ formed = true then (if s.holdsClaim then 2 else if partner then 3 else 1) else s.role
    let ahead := wrapSub 32 m (s.setOf t k).dsFrame
    let own := (s.setOf t k).maps.find? fun x => x.frame == m
    let mirrored : Map := { frame := m, grants := grants.map fun g => s.mirrorGrant t k g, bursts := s.contextsOf t k m 0 (burstsOf (grants.map fun g => s.mirrorGrant t k g)), profiles := (own.map fun x => x.profiles).getD (s.profileWords t) }
    let i := termAt r.tree r.terminal
    let z := s.circ c.circuit
    let drift := (s.tree t).driftSum
    let n := (s.tree t).driftCount
    let moves := s.standbyFor t && (s.tree t).calib.isNone && s.flag PEER_TREE.CAL_DONE t && n != 0 && n ≤ drift.natAbs
    (linked = false → exec (.heartbeatSend tx) s = .next s ∧ exec (.heartbeat seq device active t0 echo turn rx) s = .next s
      ∧ exec (.pairHello digest member pairDevice trees senior device) s = .next s)
    ∧ (linked = true → answers (.heartbeatSend tx) s fun x =>
      x.netSec = tx.sec % 2 ^ 48 ∧ x.netFrac = tx.frac ∧ x.pair.seq = (s.pair.seq + 1) % 2 ^ 16 ∧ (messages x.outbox).length = (messages s.outbox).length + 1
        ∧ (s.pair.seq, peerUnits (s.setTime tx.sec tx.frac).peerTime) ∈ x.pair.sent)
    ∧ (linked = true → answers (.heartbeat seq device active t0 echo turn rx) s fun x =>
      x.flag PEER_STATUS.HB_FAIL 0 = false ∧ x.get PEER_STATUS.PARTNER_DEVICE 0 = device % 2 ^ PEER_STATUS.PARTNER_DEVICE.width
        ∧ x.pair.last = some (seq, arrival, active) ∧ x.role = roleAfter s.pair.formed active
        ∧ (s.pair.sent.find? (fun e => e.1 == echo) = none → x.pair.taus = s.pair.taus)
        ∧ ∀ t1, s.pair.sent.find? (fun e => e.1 == echo) = some (echo, t1) →
          x.pair.taus = ((peerDiff (peerUnits t0) arrival + (peerDiff arrival t1 - turn) / 2) :: s.pair.taus).take 8
            ∧ (s.pair.tauHeld = false → x.get PEER_TIME.TAU 0 = satSigned 32 (medianOf x.pair.taus) % 2 ^ 32))
    ∧ (on = false → exec .heartbeatFailure s = .next s)
    ∧ (on = true → answers .heartbeatFailure s fun x => x.flag PEER_STATUS.HB_FAIL 0 = true ∧ changesOnly s x [PEER_STATUS.HB_FAIL.at 0])
    ∧ (linked = true → s.pairMatches digest member pairDevice trees senior device = true →
      answers (.pairHello digest member pairDevice trees senior device) s fun x => x.pair.agreed = true ∧ (messages x.outbox).length = (messages s.outbox).length + 1 ∧ x.role = s.role)
    ∧ (linked = true → s.pairMatches digest member pairDevice trees senior device = false →
      answers (.pairHello digest member pairDevice trees senior device) s fun x =>
        x.pair = { s.pair with agreed := false } ∧ x.flag PEER_STATUS.PAIR_MISMATCH 0 = true ∧ x.outbox = s.outbox ∧ x.role = s.role)
    ∧ (on = false ∨ s.pair.agreed = false ∨ s.pair.formed = true → exec .pairAccept s = .next s)
    ∧ (on = true → s.pair.agreed = true → s.pair.formed = false → answers .pairAccept s fun x =>
      x.pair.formed = true ∧ x.role = roleAfter true (s.flag PEER_STATUS.CLAIM_IN 0 || s.pair.last.any fun h => h.2.2))
    ∧ (s.standbyFor t = false ∨ k ∉ s.liveSets t ∨ ahead < 2 ∨ 2 ^ 31 ≤ ahead → exec (.map t k m grants) s = .next s)
    ∧ (s.standbyFor t = true → k ∈ s.liveSets t → 2 ≤ ahead → ahead < 2 ^ 31 → answers (.map t k m grants) s fun x =>
      (x.setOf t k).maps = ((s.setOf t k).maps.filter fun z => z.frame != m) ++ [mirrored] ∧ (x.setOf t k).kept = ((s.setOf t k).kept.filter fun c => c.frame != m) ++ mirrored.bursts ∧ x.pair = { s.pair with mirrored := s.pair.mirrored ++ [(t, k, m)] })
    ∧ answers (.terminal rs) s (fun x => exec (.terminal (rs ++ [r])) s = exec (.terminal [r]) x)
    ∧ (s.standbyFor r.tree = false → exec (.terminal [r]) s = .next s)
    ∧ (s.standbyFor r.tree = true → answers (.terminal [r]) s fun x =>
      x.get TREE_RNG_TERM.STATE i = r.state % 2 ^ TREE_RNG_TERM.STATE.width ∧ x.flag TREE_DEF_TERM.OPERATION i = (r.state == 4)
        ∧ (r.state ≠ 0 → x.get TREE_RNG_TERM.ONU_ID i = r.onuId % 2 ^ TREE_RNG_TERM.ONU_ID.width ∧ x.get TREE_RNG_TERM.EQD i = r.eqd % 2 ^ TREE_RNG_TERM.EQD.width
          ∧ x.get TREE_RNG_SN.SERIAL i = r.serial % 2 ^ TREE_RNG_SN.SERIAL.width))
    ∧ answers (.circuit cs) s (fun x => exec (.circuit (cs ++ [c])) s = exec (.circuit [c]) x)
    ∧ (s.standbyFor (s.circTree c.circuit) = false → exec (.circuit [c]) s = .next s)
    ∧ (s.standbyFor (s.circTree c.circuit) = true → answers (.circuit [c]) s fun x => (x.circ c.circuit).seqLast = c.seqLast
      ∧ ∀ p, pktPlace z.pktMarks z.pkt.length c.gseq c.offset = some p →
        (x.circ c.circuit).pkt = z.pkt.drop p ∧ x.get CIRC.SEQ_TX c.circuit = c.seqNext % 2 ^ CIRC.SEQ_TX.width)
    ∧ answers (.health none) s (fun x => showsNumber x PEER_HEALTH_SELF.DATA 0 8 (leValue s.healthBytes)
      ∧ (messages x.outbox).length = (messages s.outbox).length + (if linked then 2 else 0))
    ∧ (on = false → exec (.health (some b)) s = .next s)
    ∧ (on = true → b.length = 64 → crc32c (b.take 60) = leAt b 60 4 → answers (.health (some b)) s fun x =>
      showsNumber x PEER_HEALTH_PARTNER.DATA 0 8 (leValue b) ∧ x.pair = { s.pair with healthAt := some s.nowNs })
    ∧ (on = true → b.length ≠ 64 ∨ crc32c (b.take 60) ≠ leAt b 60 4 → answers (.health (some b)) s fun x =>
      x.liveOf PEER_CNT.COUNT 1 = s.liveOf PEER_CNT.COUNT 1 + 1 ∧ x.regs = s.regs ∧ x.pair = s.pair)
    ∧ (s.standbyFor t = false → answers (.calibrate t) s fun x => x.get PEER_CMD.RESULT 0 = 2 ∧ x.trees = s.trees)
    ∧ (s.standbyFor t = true → (∃ u ∈ s.sharedTrees, (s.tree u).calib.isSome = true) → answers (.calibrate t) s fun x => x.get PEER_CMD.RESULT 0 = 1 ∧ x.trees = s.trees)
    ∧ (s.standbyFor t = true → (∀ u ∈ s.sharedTrees, (s.tree u).calib = none) → answers (.calibrate t) s fun x =>
      x.get PEER_CMD.RESULT 0 = 0 ∧ x.get PEER_CMD.DONE 0 = 0 ∧ x.tree t = { s.tree t with calib := some [] })
    ∧ answers (.standbyOffsetUpdate t) s fun x => x.tree t = { s.tree t with driftSum := 0, driftCount := 0 }
      ∧ x.get PEER_TREE.RX_OFFSET t = if moves then ofSigned 16 (toSigned 16 (s.get PEER_TREE.RX_OFFSET t) + 2 * roundDiv drift n) % 2 ^ 16 else s.get PEER_TREE.RX_OFFSET t

/-- TWEED_LOAD_CHECK, WATCHDOG, TASK_OVERRUN, DOORBELL, MAILBOX_SERVICE, VERSION, ROTATE, ROTATE_CANCEL and EXT_MSG (R33, R342, R343, R344, R345, R346, R347): a missed cut-off or a high load
enters overload, 64 calm frames leave it; the watchdog restarts a core and its pending sources stay; a fault or the 16th overrun stops a task; a doorbell posts, refuses or releases a slot; the
oldest posted slot is served by its operation and shows RESULT and DONE, one with a reserved byte that is not zero is BAD_VALUE, a rotation is held until its cut-off, and a cancelled one is withdrawn, or its loaded slot erased. -/
def Obligations.TweedServesItsLoadAndMailbox : Prop :=
  ∀ (s : State) (d i n load missed late deferrable : Nat) (rest reply : List Nat) (tied : Bool), i < 16 →
    let runs := s.tweedRuns d
    let over' := s.flag TWEED_STATUS.OVERLOAD d
    let high := s.get TWEED_CTRL.LOAD_HIGH_PCT d
    let calm := if missed = 0 ∧ load < s.get TWEED_CTRL.LOAD_LOW_PCT d then (s.tweedOf d).calm + 1 else 0
    let now := if over' then decide (calm < 64) else decide (0 < missed) || decide (high < load)
    let noRotation := ∀ r ∈ s.rotations, dieOf r.tree ≠ d
    let count := fun (x : State) (k m : Nat) => x.liveOf TWEED_CNT.COUNT (d * 8 + k) = s.liveOf TWEED_CNT.COUNT (d * 8 + k) + m
    let running := bitAt (s.get TWEED_STATUS.TASKS_RUNNING d) n
    let laps := (s.tweedOf d).overruns.getD n 0 + 1
    let stopped := fun (x : State) => x.get TWEED_STATUS.TASKS_RUNNING d = clearBit (s.get TWEED_STATUS.TASKS_RUNNING d) n % 2 ^ 8 ∧ x.flag TWEED_STATUS.TASK_FAULT d = true
      ∧ x.flag IC_SRC.PENDING (srcAt d 2282) = true
    let others := fun (x : State) => ∀ j, j < 16 → j ≠ i → x.mbox d j = s.mbox d j
    let dropped := fun (x : State) => count x 4 1 ∧ x.regs = s.regs ∧ x.tweed = s.tweed
    let takes := runs = true ∧ over' = false ∧ (s.tweedOf d).posted = i :: rest
    let op := s.mboxOp d i
    let word := fun (k : Nat) => s.get TWEED_MBOX.DATA (mboxAt d i k)
    let replied := fun (x : State) (r : Nat) => x.mbox d i = 3 ∧ bits (x.get TWEED_MBOX.DATA (mboxAt d i 0)) 32 8 = r ∧ (x.tweedOf d).posted = rest
    let carries := fun (x : State) (bytes : List Nat) => bits (x.get TWEED_MBOX.DATA (mboxAt d i 0)) 16 16 = bytes.length
      ∧ ∀ k, k < (bytes.length + 7) / 8 → x.get TWEED_MBOX.DATA (mboxAt d i (1 + k)) = leValue ((bytes.drop (8 * k)).take 8) % 2 ^ 64
    let target := bits (word 2) 32 32
    let known := (op = 1 ∨ op = 2 ∨ op = 3) ∨ 128 ≤ op ∧ op ≤ 135
    let clear := bits (word 0) 40 24 = 0
    (runs = false → exec (.tweedLoadCheck d load missed late deferrable) s = .next s ∧ exec (.watchdog d) s = .next s)
    ∧ (runs = true → answers (.tweedLoadCheck d load missed late deferrable) s fun x =>
      x.get TWEED_STATUS.LOAD_PCT d = min load 255 ∧ x.flag TWEED_STATUS.OVERLOAD d = now ∧ (x.tweedOf d).calm = (if now then calm else 0)
        ∧ (now = true → over' = false → x.flag TWEED_STATUS.OVERLOAD_EVENT d = true)
        ∧ (noRotation → count x 0 missed ∧ count x 7 (if now then 1 else 0) ∧ count x 1 (if now then late else 0) ∧ count x 2 (if now then deferrable else 0)))
    ∧ (runs = true → answers (.watchdog d) s fun x =>
      x.get TWEED_STATUS.STATE d = 1 ∧ x.flag TWEED_STATUS.OVERLOAD d = false ∧ x.flag TWEED_STATUS.WATCHDOG_EVENT d = true ∧ count x 6 1 ∧ x.coreOf d = {}
        ∧ ∀ k, s.flag IC_SRC.PENDING k = true → x.flag IC_SRC.PENDING k = true)
    ∧ (running = false → exec (.taskOverrun d n true) s = .next s ∧ exec (.taskOverrun d n false) s = .next s)
    ∧ (running = true → answers (.taskOverrun d n true) s stopped)
    ∧ (running = true → answers (.taskOverrun d n false) s fun x =>
      count x 5 1 ∧ (x.tweedOf d).overruns = (s.tweedOf d).overruns.set n laps
        ∧ (16 ≤ laps → stopped x) ∧ (laps < 16 → x.regs = s.regs))
    ∧ (s.mbox d i = 3 → answers (.doorbell d i true) s fun x => x.mbox d i = 0 ∧ others x)
    ∧ (s.mbox d i ≠ 3 → answers (.doorbell d i true) s dropped)
    ∧ (s.mbox d i ≠ 0 → s.mbox d i ≠ 4 → answers (.doorbell d i false) s dropped)
    ∧ (s.mbox d i = 0 ∨ s.mbox d i = 4 →
      (over' = true → answers (.doorbell d i false) s fun x => x.mbox d i = 4 ∧ others x ∧ count x 3 1 ∧ x.tweed = s.tweed)
      ∧ (over' = false → answers (.doorbell d i false) s fun x => x.mbox d i = 1 ∧ others x ∧ (x.tweedOf d).posted = (s.tweedOf d).posted ++ [i]
          ∧ x.flag IC_SRC.PENDING (srcAt d 2283) = true))
    ∧ (runs = false ∨ over' = true ∨ (s.tweedOf d).posted = [] → exec (.mailboxService d reply) s = .next s ∧ exec (.version d) s = .next s
      ∧ exec (.rotate d tied) s = .next s ∧ exec (.rotateCancel d) s = .next s ∧ exec (.extMsg d reply) s = .next s)
    ∧ (takes →
      (op = 1 → exec (.mailboxService d reply) s = exec (.version d) s) ∧ (op = 2 → exec (.mailboxService d reply) s = exec (.rotate d false) s)
      ∧ (op = 3 → exec (.mailboxService d reply) s = exec (.rotateCancel d) s)
      ∧ (128 ≤ op → op ≤ 135 → exec (.mailboxService d reply) s = exec (.extMsg d reply) s)
      ∧ (op = 0 ∨ 4 ≤ op ∧ op < 128 ∨ 135 < op → answers (.mailboxService d reply) s fun x => replied x 2)
      ∧ (known → ¬ clear → answers (.mailboxService d reply) s fun x => replied x 3 ∧ x.rotations = s.rotations)
      ∧ (op = 1 → clear → answers (.version d) s fun x => replied x 0
          ∧ carries x (leBytes 4 (s.get TWEED_STATUS.FW_VERSION d) ++ leBytes 4 (s.get DMK_STATUS.ACTIVE_VERSION 0) ++ [s.get TWEED_STATUS.TASKS_RUNNING d]))
      ∧ (128 ≤ op → op ≤ 135 → clear → bitAt (s.get TWEED_STATUS.TASKS_RUNNING d) (op % 8) = true → answers (.extMsg d reply) s fun x => replied x 0 ∧ carries x (reply.take 120))
      ∧ (128 ≤ op → op ≤ 135 → clear → bitAt (s.get TWEED_STATUS.TASKS_RUNNING d) (op % 8) = false → answers (.extMsg d reply) s fun x => replied x 8)
      ∧ (op = 2 → clear → s.mboxPort d i = none ∨ 4 ≤ word 1 / 2 ^ 32 → answers (.rotate d tied) s fun x => replied x 3 ∧ x.rotations = s.rotations)
      ∧ (op = 2 → clear → s.mboxPort d i ≠ none → word 1 / 2 ^ 32 < 4 → s.checkFrame target = .late → answers (.rotate d tied) s fun x => replied x 4 ∧ x.rotations = s.rotations)
      ∧ (op = 2 → clear → s.mboxPort d i ≠ none → word 1 / 2 ^ 32 < 4 → s.checkFrame target = .far → answers (.rotate d tied) s fun x => replied x 5 ∧ x.rotations = s.rotations)
      ∧ (∀ t p, op = 2 → clear → s.mboxPort d i = some (t, p) → word 1 / 2 ^ 32 < 4 → s.checkFrame target = .ok → s.get CIPH_TW_CMD.DONE d = 0 →
        answers (.rotate d tied) s fun x => x.mbox d i = 2 ∧ (x.tweedOf d).posted = rest ∧ ∃ r, x.rotations = s.rotations ++ [r]
          ∧ r.slot = i ∧ r.tree = t ∧ r.linePort = p ∧ r.target = target ∧ r.loaded = false)
      ∧ (∀ t p, op = 3 → clear → s.mboxPort d i = some (t, p) → ∀ r, s.rotations.find? (fun r => r.tree == t && r.linePort == p) = some r →
        answers (.rotateCancel d) s fun x => replied x 0
          ∧ (if r.loaded then x.get KEYSLOT.STATE (slotAt d r.keySlot) = 0 else x.rotations = s.rotations.filter fun y => !(y == r)))
      ∧ (op = 3 → clear → s.mboxPort d i = none → answers (.rotateCancel d) s fun x => replied x 3 ∧ x.rotations = s.rotations))

/-- INTERRUPT_ENTRY, RESUME, CORE_WAKE, GROUP_FIRE, SWSET, TARGET_WRITE, MSIX_DELIVERY and EOI (R350, R351, R352, R353, R354, R355, R356, R358): with MASK clear the first delivery below the
running priority and THRESHOLD is taken, its context saved, its handler entered, or that of one of higher priority that comes during the entry; a RESUME restores the context or dispatches
another handler in its place; a core asleep wakes for any enabled source of its own; a group fires, a source is set, a target moves; the host gets one message and ends it by an EOI. -/
def Obligations.DeliveriesReachCoreAndHost : Prop :=
  ∀ (s : State) (d num src g die vector : Nat) (f : FwState) (late : List (Nat × Nat)) (host : Bool) (x : Due) (c : Saved) (rest : List Saved), f.threshold ≤ 64 →
    let runs := s.tweedRuns d
    let ready := fun (r : Nat) => s.due.filter fun y => s.forCore d y && y.prio < r && y.prio < f.threshold
    let run := s.get IC_CORE_STATUS.RUNNING d
    let here := fun (t : State) (pc : Nat) => (t.coreOf d) = { f.regs with pc := pc, a0 := (t.coreOf d).a0 }
    let firmware := fun (t : State) => t.get IC_CORE_STATUS.THRESHOLD d = f.threshold ∧ t.flag IC_CORE_STATUS.MASK d = f.mask
    let at0 := fun (y : Due) => s.get IC_HANDLER_BASE.BASE d * 4096 + 16 * y.num
    let argument := fun (a : Nat) => (Config.tweedWord (s.tweedOf d).gen d a).toNat
    let entered := fun (t : State) (y : Due) => here t (argument (at0 y)) ∧ (t.coreOf d).a0 = argument (at0 y + 8)
      ∧ t.get IC_CORE_STATUS.RUNNING d = y.prio % 2 ^ 7 ∧ t.get IC_CORE_STATUS.CURRENT d = y.num % 2 ^ 13 ∧ (t.tweedOf d).srcDie = y.die
    let active := fun (t : State) (y : Due) (b : Bool) => if y.num < 4096 then t.flag IC_SRC.ACTIVE (srcAt y.die y.num) = b else t.flag IC_GROUP_STATUS.ACTIVE (grpAt y.die (y.num - 4096)) = b
    let count := fun (t : State) (k m : Nat) => t.liveOf IC_CNT.COUNT (d * 8 + k) = s.liveOf IC_CNT.COUNT (d * 8 + k) + m
    let saved : Saved := { pc := f.regs.pc, status := f.regs.status, r := f.regs.r, running := run, current := s.get IC_CORE_STATUS.CURRENT d, srcDie := (s.tweedOf d).srcDie }
    let slots := fun (t : State) => t.ctxStore.get ⟨d, 0⟩ []
    let fires := 0 < s.get IC_GROUP_STATUS.COUNT (grpAt d g) ∧ (max 1 (s.get IC_GROUP.COUNT_TH (grpAt d g)) ≤ s.get IC_GROUP_STATUS.COUNT (grpAt d g) ∨ s.get IC_GROUP.TIME_US (grpAt d g) ≠ 0)
    let i := srcAt d num
    let j := grpAt d (num - 4096)
    let masked := fun (y : Due) => (s.vectorOf y).any fun v => s.flag HOST_MSIX_CTRL.MASK v
    let free := (s.dueHost d).filter fun y => !masked y
    let ended := if num < 4096 then s.flag IC_SRC.ACTIVE i else s.flag IC_GROUP_STATUS.ACTIVE j
    (runs = false → exec (.interruptEntry d f late) s = .next s ∧ exec (.resume d f late) s = .next s ∧ exec (.coreWake d f) s = .next s)
    ∧ (runs = true → f.mask = true ∨ bestDue (ready run) = none → answers (.interruptEntry d f late) s fun t =>
      t.coreOf d = f.regs ∧ firmware t ∧ slots t = slots s ∧ t.get IC_CORE_STATUS.RUNNING d = run)
    ∧ (runs = true → f.mask = false → bestDue (ready run) = some x → x.prio < run ∧ x.prio < f.threshold ∧ answers (.interruptEntry d f late) s fun t =>
      ∃ y, entered t y ∧ firmware t ∧ slots t = saved :: slots s ∧ t.get IC_CORE_STATUS.DEPTH d = ((slots s).length + 1) % 2 ^ 7 ∧ (late = [] → y = x)
        ∧ (y ≠ x → y.prio < x.prio) ∧ active t y true ∧ (y ≠ x → active t x false)
        ∧ count t 1 (if y = x then 0 else 1))
    ∧ (runs = true → slots s = [] → exec (.resume d f late) s = .next s)
    ∧ (runs = true → slots s = c :: rest → answers (.resume d f late) s fun t => firmware t
      ∧ ((∃ y, f.mask = false ∧ y.prio < c.running ∧ y.prio < f.threshold ∧ entered t y ∧ active t y true ∧ slots t = c :: rest ∧ count t 2 1)
        ∨ t.coreOf d = { f.regs with pc := c.pc, status := c.status, r := c.r } ∧ t.get IC_CORE_STATUS.RUNNING d = c.running % 2 ^ 7
          ∧ t.get IC_CORE_STATUS.CURRENT d = c.current % 2 ^ 13 ∧ t.get IC_CORE_STATUS.DEPTH d = rest.length % 2 ^ 7 ∧ (t.tweedOf d).srcDie = c.srcDie ∧ slots t = rest
          ∧ active t ⟨0, s.get IC_CORE_STATUS.CURRENT d, (s.tweedOf d).srcDie⟩ false ∧ count t 2 0))
    ∧ (runs = true → answers (.coreWake d f) s fun t => t.coreOf d = f.regs ∧ firmware t
      ∧ (if s.anyFor d = true then t.flag IC_CORE_STATUS.SLEEP d = false ∧ t.get TWEED_STATUS.STATE d = 1 ∧ count t 3 1
          else t.flag IC_CORE_STATUS.SLEEP d = true ∧ t.get TWEED_STATUS.STATE d = 2 ∧ count t 3 0))
    ∧ (¬ fires → exec (.groupFire d g) s = .next s)
    ∧ (fires → answers (.groupFire d g) s fun t => t.get IC_GROUP_STATUS.COUNT (grpAt d g) = 0 ∧ t.flag IC_GROUP_STATUS.PENDING (grpAt d g) = true ∧ count t 6 1)
    ∧ (sourceReserved src = true → exec (.swset d src) s = .next s)
    ∧ (sourceReserved src = false → answers (.swset d src) s fun t => t.flag IC_SRC.PENDING (srcAt d src) = true ∧ changesOnly s t (sourceKeys s d src)
      ∧ t.get IC_GROUP_STATUS.COUNT (grpAt d (s.get IC_SRC.GROUP (srcAt d src))) = (if s.flag IC_SRC.ENABLE (srcAt d src) && s.flag IC_SRC.IN_GROUP (srcAt d src)
        then satAdd 16 (s.get IC_GROUP_STATUS.COUNT (grpAt d (s.get IC_SRC.GROUP (srcAt d src)))) 1 else s.get IC_GROUP_STATUS.COUNT (grpAt d (s.get IC_SRC.GROUP (srcAt d src)))))
    ∧ (num < 4096 → answers (.targetWrite d num host die vector) s fun t => t.flag IC_SRC.HOST i = host ∧ t.get IC_SRC.DIE i = die % 2 ^ 3 ∧ t.get IC_SRC.VECTOR i = vector % 2 ^ 11
      ∧ changesOnly s t [IC_SRC.HOST.at i, IC_SRC.DIE.at i, IC_SRC.VECTOR.at i])
    ∧ (4096 ≤ num → answers (.targetWrite d num host die vector) s fun t => t.flag IC_GROUP.HOST j = host ∧ t.get IC_GROUP.DIE j = die % 2 ^ 3 ∧ t.get IC_GROUP.VECTOR j = vector % 2 ^ 11
      ∧ changesOnly s t [IC_GROUP.HOST.at j, IC_GROUP.DIE.at j, IC_GROUP.VECTOR.at j])
    ∧ (s.pci.d3hot = true → exec (.msixDelivery d) s = .next s)
    ∧ (s.pci.d3hot = false → bestDue free = none → answers (.msixDelivery d) s fun t => t.outbox = s.outbox
      ∧ ∀ y, y ∈ s.dueHost d → ∀ v, s.vectorOf y = some v → bitAt (t.get HOST_MSIX_PBA.BITS (v / 64)) (v % 64) = true)
    ∧ (s.pci.d3hot = false → bestDue free = some x → answers (.msixDelivery d) s fun t => ∃ v, s.vectorOf x = some v
      ∧ t.outbox = s.outbox ++ [.msix v (s.get HOST_MSIX_ADDR.ADDR v) (s.get HOST_MSIX_CTRL.MSG_DATA v)] ∧ active t x true)
    ∧ (ended = false → answers (.eoi d num) s fun t => count t 7 1 ∧ t.regs = s.regs ∧ t.outbox = s.outbox)
    ∧ (ended = true → answers (.eoi d num) s fun t => t.outbox = s.outbox ∧ active t ⟨0, num, d⟩ false
      ∨ ∃ v, t.outbox = s.outbox ++ [.msix v (s.get HOST_MSIX_ADDR.ADDR v) (s.get HOST_MSIX_CTRL.MSG_DATA v)] ∧ active t ⟨0, num, d⟩ true)
    ∧ (num < 4096 → ended = true → s.flag IC_SRC.KIND i = false → (∀ e ∈ s.regs, e.1 ≠ IC_SRC.PENDING.at i) → answers (.eoi d num) s fun t => t.outbox = s.outbox ∧ t.flag IC_SRC.ACTIVE i = false)
    ∧ (num < 4096 → ended = true → s.flag IC_SRC.PENDING i = true → s.flag IC_SRC.ENABLE i = true → s.flag IC_SRC.IN_GROUP i = false → s.flag IC_SRC.HOST i = true →
      s.pci.d3hot = false → s.flag HOST_MSIX_CTRL.MASK (s.get IC_SRC.VECTOR i) = false → answers (.eoi d num) s fun t =>
        let v := s.get IC_SRC.VECTOR i
        t.outbox = s.outbox ++ [.msix v (s.get HOST_MSIX_ADDR.ADDR v) (s.get HOST_MSIX_CTRL.MSG_DATA v)] ∧ t.flag IC_SRC.ACTIVE i = true)

/-- COUNTER_FLUSH, PERF_CNT_READ, READ_CLEAR, CLEAR, the SNAPSHOT commands, TRACE_RECORD, BANDWIDTH_WINDOW, SENTINEL_INTERVAL, TELEMETRY_RECORD, EVENT_LOG, SRAM_SCRUB, MRAM_SCRUB and BG_LAG
(R363, R364, R365, R366, R369, R370, R371, R373, R374, R375, R376, R378): a flush joins a counter's two parts, a read gives them as one; a snapshot is armed, begun and ended; trace and
telemetry records go into their rings; a window closes every port; a slow sentinel is a speed fault; events are logged; a lost SRAM word has the consequence of its owner. -/
def Obligations.MeasurementIsKept : Prop :=
  ∀ (s : State) (d c k i lag copyNs throttled die src : Nat) (r : TraceRec) (readings power : List Nat) (skipped : Bool),
    let y := s.statOf d c
    let stored := fun (t : State) (off : Nat) (bs : List Nat) => ∀ n, n < bs.length → (t.dev.get ⟨d, 0⟩ []).read (off + n) = BitVec.ofNat 8 (bs.getD n 0)
    let count := fun (t : State) (n m : Nat) => t.liveOf PERF_CNT.COUNT (d * 12 + n) = s.liveOf PERF_CNT.COUNT (d * 12 + n) + m
    let raised := fun (t : State) (n : Nat) => t.flag IC_SRC.PENDING (srcAt d n) = true
    let at0 := s.get PERF_CNT_BASE.OFFSET d + 8 * c
    let ends := fun (t : State) (n : Nat) (ks : List Key) => accessEnds s t PERF_CNT_ACC_CTRL.RESULT PERF_CNT_ACC_CTRL.DONE d n ks
    let open' := (s.perfOf d).copying && !y.copied && ((s.bankOf d c).map fun b => b.snap).getD false
    let cleared := fun (t : State) => (t.statOf d c).total = 0 ∧ stored t at0 (leBytes 8 0) ∧ (open' = true → (t.statOf d c).copied = true) ∧ t.get PERF_CNT_ACC_CTRL.RESULT d = 0 ∧ t.get PERF_CNT_ACC_CTRL.DONE d = 1
    let instant := s.get SNAP_TIME_S.SECONDS 0 * 10 ^ 9 + s.get SNAP_TIME_NS.NS 0
    let state := s.get SNAP_CTRL.STATE 0
    let only := fun (t : State) (n : Nat) => t.get SNAP_CTRL.RESULT 0 = n ∧ changesOnly s t [SNAP_CTRL.RESULT.at 0]
    let begins := fun (e : Nat) => s.diePresent e && !s.flag MEM_STATUS.SHUTDOWN e
    let prod := s.get PERF_TRACE_RING.PROD d
    let next := (prod + 1) % 2 ^ (s.get PERF_TRACE_CTRL.SIZE_EXP d + 10)
    let late := if s.flag PERF_TRACE_CTRL.ENABLE_DS d || s.flag PERF_TRACE_CTRL.ENABLE_US d then throttled else 0
    let foreign := s.flag PERF_TRACE_CTRL.FILTER d && r.domain ≠ s.get PERF_TRACE_CTRL.DOMAIN d
    let w := s.get PERF_BW_CTRL.WINDOW_US d
    let bytes := fun (p : Nat) => s.bwAcc.get ⟨d, p⟩ 0
    let shown := fun (t : State) => t.get SEG_POWER.DIE_POWER d = power.getD 0 0 % 2 ^ 16 ∧ t.get SEG_POWER.CORE_POWER d = power.getD 1 0 % 2 ^ 16
      ∧ t.get SEG_POWER.DRAM_POWER d = power.getD 2 0 % 2 ^ 16 ∧ t.get SEG_POWER.OPTICS_POWER d = power.getD 3 0 % 2 ^ 16
    let seq := (s.perfOf d).teleNext
    let shed := skipped && s.flag TWEED_STATUS.OVERLOAD d
    let m := s.mramOf d
    let takes := s.recordRefused d 0x0020 0 32 = false ∧ m.writePage < m.pages.length ∧ 64 ≤ m.room m.writePage
    let logged := fun (t : State) (origin : Nat) => ∃ q, (t.mramOf d).page m.writePage = m.page m.writePage ++ [q] ∧ q.type = 0x0020 ∧ q.payload = s.logPayload die src origin ∧ q.committed = true
    let lost := fun (o : SramOwner) (P : State → Prop) => answers (.sramScrub d (some o)) s fun t => count t 7 1 ∧ raised t 2292 ∧ P t
    (y.delta = 0 → exec (.counterFlush d c) s = .next s)
    ∧ (y.delta ≠ 0 → answers (.counterFlush d c) s fun t => t.statOf d c = { y with dram := y.total, delta := 0 } ∧ stored t at0 (leBytes 8 y.total) ∧ count t 0 1 ∧ t.regs = s.regs)
    ∧ (2097152 ≤ c → answers (.perfCntRead d c) s (fun t => ends t 2 []) ∧ answers (.readClear d c) s (fun t => ends t 2 []) ∧ answers (.clear d c) s (fun t => ends t 2 []))
    ∧ (c < 2097152 → answers (.perfCntRead d c) s (fun t => t.get PERF_CNT_ACC_DATA.VALUE d = y.total ∧ ends t 0 [PERF_CNT_ACC_DATA.VALUE.at d])
      ∧ answers (.readClear d c) s (fun t => t.get PERF_CNT_ACC_DATA.VALUE d = y.total ∧ cleared t) ∧ answers (.clear d c) s (fun t => t.get PERF_CNT_ACC_DATA.VALUE d = s.get PERF_CNT_ACC_DATA.VALUE d ∧ cleared t))
    ∧ (s.timeValid = false → answers .snapshotArm s fun t => only t 4)
    ∧ (s.timeValid = true → instant < s.nowNs + 1000000 → answers .snapshotArm s fun t => only t 2)
    ∧ (s.timeValid = true → s.nowNs + 10000000000 < instant → answers .snapshotArm s fun t => only t 3)
    ∧ (s.timeValid = true → s.nowNs + 1000000 ≤ instant → instant ≤ s.nowNs + 10000000000 → state = 1 ∨ state = 2 → answers .snapshotArm s fun t => only t 1)
    ∧ (s.timeValid = true → s.nowNs + 1000000 ≤ instant → instant ≤ s.nowNs + 10000000000 → state ≠ 1 → state ≠ 2 → answers .snapshotArm s fun t => t.get SNAP_CTRL.RESULT 0 = 0 ∧ t.get SNAP_CTRL.STATE 0 = 1
      ∧ t.get SNAP_CTRL.DIES_DONE 0 = 0 ∧ t.get SNAP_CTRL.DIES_MISSING 0 = 0 ∧ t.get SNAP_CTRL.SNAP_ID 0 = (s.get SNAP_CTRL.SNAP_ID 0 + 1) % 2 ^ 32 ∧ t.snap.sec * 10 ^ 9 + t.snap.ns = instant)
    ∧ (state = 1 → answers .snapshotCancel s fun t => t.get SNAP_CTRL.STATE 0 = 0 ∧ changesOnly s t [SNAP_CTRL.STATE.at 0])
    ∧ (state ≠ 1 → exec .snapshotCancel s = .next s ∧ exec .snapshotEpoch s = .next s)
    ∧ (state = 1 → answers .snapshotEpoch s fun t => (∀ e, e < s.dies → if begins e then (t.perfOf e).copying = true else bitAt (t.get SNAP_CTRL.DIES_MISSING 0) e = true)
      ∧ ((∃ e, e < s.dies ∧ begins e = true) → t.get SNAP_CTRL.STATE 0 = 2))
    ∧ ((s.perfOf d).copying = false → exec (.snapshotDieDone d copyNs) s = .next s)
    ∧ ((s.perfOf d).copying = true → d < 8 → answers (.snapshotDieDone d copyNs) s fun t => (t.perfOf d).copying = false ∧ bitAt (t.get SNAP_CTRL.DIES_DONE 0) d = true
      ∧ stored t (s.get PERF_SNAP_BASE.OFFSET d) (s.snapHeader d copyNs)
      ∧ (state = 2 → (∀ e, e < s.dies → e ≠ d → (s.perfOf e).copying = false) → t.get SNAP_CTRL.STATE 0 = 3 ∧ pendingOnAll t 3880))
    ∧ (foreign = true → answers (.traceRecord d r throttled) s fun t => count t 5 1 ∧ count t 4 late ∧ t.regs = s.regs ∧ t.dev = s.dev)
    ∧ (foreign = false → next = s.get PERF_TRACE_RING.CONS d → answers (.traceRecord d r throttled) s fun t => count t 3 1 ∧ count t 4 late ∧ t.flag PERF_TRACE_RING.OVERFLOW d = true ∧ raised t 2289
      ∧ (t.perfOf d).gap = true ∧ t.dev = s.dev)
    ∧ (foreign = false → next ≠ s.get PERF_TRACE_RING.CONS d → answers (.traceRecord d r throttled) s fun t => count t 2 1 ∧ count t 4 late ∧ t.get PERF_TRACE_RING.PROD d = next % 2 ^ 24 ∧ raised t 2288
      ∧ stored t (s.get PERF_TRACE_BASE.OFFSET d + 64 * prod) (traceBytes r (s.perfOf d).gap (s.perfOf d).traceSeq) ∧ (t.perfOf d).gap = false ∧ (t.perfOf d).traceSeq = ((s.perfOf d).traceSeq + 1) % 2 ^ 32)
    ∧ (s.flag PERF_BW_CTRL.ENABLE d = false → exec (.bandwidthWindow d k) s = .next s)
    ∧ (s.flag PERF_BW_CTRL.ENABLE d = true → answers (.bandwidthWindow d k) s fun t => t.get PERF_BW_CTRL.LAST_WINDOW d = k % 2 ^ 32 ∧ raised t 2290
      ∧ ∀ p, p < 56 → t.get PERF_BW.BYTES (d * 56 + p) = bytes p % 2 ^ 48 ∧ t.get PERF_BW_RATE.RATE_MBPS (d * 56 + p) = bytes p * 8 / w % 2 ^ 24
        ∧ t.get PERF_BW_RATE.PEAK_MBPS (d * 56 + p) = max (bytes p * 8 / w) (s.get PERF_BW_RATE.PEAK_MBPS (d * 56 + p)) % 2 ^ 24 ∧ t.bwAcc.get ⟨d, p⟩ 0 = 0)
    ∧ (readings.length = 8 → (∀ n ∈ readings, n < 65536) → answers (.sentinelInterval d readings) s fun t => (∀ n, n < 8 → t.get SEG_SENTINEL.LAST (d * 8 + n) = readings.getD n 0
        ∧ t.get SEG_SENTINEL.MIN (d * 8 + n) = min (readings.getD n 0) (s.get SEG_SENTINEL.MIN (d * 8 + n)) ∧ t.get SEG_SENTINEL.MAX (d * 8 + n) = max (readings.getD n 0) (s.get SEG_SENTINEL.MAX (d * 8 + n)) % 2 ^ 16
        ∧ t.get SEG_SENTINEL.BELOW (d * 8 + n) = if readings.getD n 0 < 1500 then satAdd 16 (s.get SEG_SENTINEL.BELOW (d * 8 + n)) 1 else s.get SEG_SENTINEL.BELOW (d * 8 + n))
      ∧ ((∃ v ∈ readings, v < 1500) → t.flag SEG_GOV_STATUS.SPEED_FAULT d = true ∧ raised t 2272 ∧ (t.perfOf d).msFault = true))
    ∧ (s.tweedRuns d = false → answers (.telemetryRecord d power skipped) s fun t => shown t ∧ t.dev = s.dev ∧ t.perf = s.perf)
    ∧ (s.tweedRuns d = true → answers (.telemetryRecord d power skipped) s fun t => shown t ∧ (t.perfOf d).teleNext = (seq + 1) % 65536
      ∧ if shed then count t 11 1 ∧ t.dev = s.dev
        else stored t (s.get PERF_TELE_BASE.OFFSET d + 128 * (seq % 4096)) ((s.putPower d power).teleBytes d seq) ∧ t.get PERF_TELE_STATUS.SEQ d = seq % 2 ^ 16 ∧ raised t 2294)
    ∧ (loaderLogs src = false → tweedLogs src = false → exec (.eventLog d die src) s = .next s)
    ∧ (src = 3848 → s.loader.fwLogged = true → exec (.eventLog d die src) s = .next s)
    ∧ (loaderLogs src = true → src ≠ 3848 ∨ s.loader.fwLogged = false → takes → answers (.eventLog d die src) s fun t => logged t 0)
    ∧ (loaderLogs src = false → tweedLogs src = true → s.flag TWEED_STATUS.OVERLOAD d = true ∨ 64 ≤ (s.tweedOf d).logged → answers (.eventLog d die src) s fun t => count t 10 1 ∧ t.mram = s.mram ∧ t.regs = s.regs)
    ∧ (loaderLogs src = false → tweedLogs src = true → s.flag TWEED_STATUS.OVERLOAD d = false → (s.tweedOf d).logged < 64 → takes → answers (.eventLog d die src) s fun t => logged t 1
      ∧ (t.tweedOf d).logged = (s.tweedOf d).logged + 1)
    ∧ answers (.sramScrub d none) s (fun t => count t 6 1 ∧ t.regs = s.regs)
    ∧ lost (.allocation c i) (fun t => (t.alloc (8 * d + c) i).bad = true)
    ∧ lost (.burst c k i) (fun t => ∀ b, (t.setOf (8 * d + c) k).ring[i]? = some b → b.checkOk = false)
    ∧ lost (.queue skipped c) (fun t => t.get QUEUE.ENABLE (queueAt d skipped c) = 0) ∧ lost (.node skipped c) (fun t => t.get NODE.ENABLE (nodeAt d skipped c) = 0)
    ∧ lost (.cacheWay c) (fun t => c ∉ t.cache.get ⟨d, c % 4096⟩ [])
    ∧ lost (.meter c) (fun t => t.get METER.TC_TOKENS (meterAt d c) = 256 * s.get METER.CBS (meterAt d c) % 2 ^ METER.TC_TOKENS.width ∧ t.get METER.TP_TOKENS (meterAt d c) = 256 * s.get METER.PBS (meterAt d c) % 2 ^ METER.TP_TOKENS.width)
    ∧ lost (.counter c) (fun t => (t.statOf d c).delta = 0 ∧ count t 1 1 ∧ raised t 2293)
    ∧ lost (.keySlot c) (fun t => t.get KEYSLOT.STATE (slotAt d c) = 0 ∧ t.keys.get ⟨0, slotAt d c⟩ none = none)
    ∧ lost (.association c) (fun t => t.get MSA.VALID (saAt d c) = 0 ∧ t.keys.get ⟨1, saAt d c⟩ none = none ∧ t.keys.get ⟨2, saAt d c⟩ none = none)
    ∧ lost (.learned c i) (fun t => t.get TREE_RX_TERM.VALID (termAt (8 * d + c) i) = 0) ∧ lost .other (fun t => t.dev = s.dev)
    ∧ (s.circOn (circAt d c) = true → answers (.sramScrub d (some (.circuit c))) s fun t => t.circOn (circAt d c) = false ∧ t.get CIRC_ACC_CTRL.RESULT d = 5)
    ∧ (s.circOn (circAt d c) = false → lost (.circuit c) fun t => t.dev = s.dev)
    ∧ (s.tweedRuns d = true → answers (.sramScrub d (some .tweedSram)) s fun t => t.get TWEED_STATUS.STATE d = 1 ∧ t.flag TWEED_STATUS.WATCHDOG_EVENT d = true)
    ∧ answers (.sramScrub d (some (.expressCell skipped c i))) s (fun t => ∃ x, count x 7 1 ∧ raised x 2292 ∧ t = x.loseCell d 1 (.queued skipped c i))
    ∧ answers (.mramScrub d .corrected) s (fun t => count t 8 1 ∧ t.regs = s.regs ∧ t.mram = s.mram)
    ∧ answers (.mramScrub d (.slot k)) s (fun t => t.slotBad.get ⟨d, k⟩ 0 ∈ damageCodes ∧ pendingOnAll t 3841)
    ∧ answers (.mramScrub d (.record k i)) s (fun t => t.get DMK_STATUS.CORRUPT_COUNT 0 = satAdd DMK_STATUS.CORRUPT_COUNT.width (s.get DMK_STATUS.CORRUPT_COUNT 0) 1 ∧ pendingOnAll t 3841
      ∧ ∀ q, ((s.mramOf d).page k)[i]? = some q → k < (s.mramOf d).pages.length → q.crc < 2 ^ 32 → ∃ q', ((t.mramOf d).page k)[i]? = some q' ∧ q'.crc ≠ q.crc ∧ q'.payload = q.payload)
    ∧ answers (.bgLag d i lag) s (fun t => t.get PERF_LAG.LAG (d * 8 + i) = min lag (2 ^ 32 - 1)
      ∧ if lagLimit i < lag ∧ s.get PERF_LAG.LAG (d * 8 + i) ≤ lagLimit i then t.flag PERF_LAG.OVER (d * 8 + i) = true ∧ raised t 2291 else changesOnly s t [PERF_LAG.LAG.at (d * 8 + i)])

/-- TABLE, STAGE, DEV_READ, OMCI_TX, RX_BUFFER, RX_MESSAGE, DMA_ERROR, BAR2_READ and BAR2_WRITE (R58, R219, R270, R278, R302, R384, R385, R387, R388, R389): a descriptor whose
turn has come completes: data, DONE_LENGTH and STATUS, DONE, then HEAD and, with IRQ, the vector's message; behind an unfinished one it waits. Each KIND has its effect or its STATUS:
BAD_KIND, LOCKED, REFUSED; a LENGTH that its KIND does not allow moves nothing, and its STATUS is the model's free value (log entry 31). A TABLE descriptor
is the request of its record. A message fills the oldest buffer of its channel. A failed access ends its descriptor with BAD_ADDR and stops the channel. BAR2 gives table and trace content;
hidden and unmapped places give all ones and are counted; only extension tasks write, and only the trace region. -/
def Obligations.DescriptorsCompleteAndBar2Answers : Prop :=
  ∀ (s : State) (c : Nat) (x : DmaDesc) (record bytes : List Nat) (tied oam : Bool) (k tree terminal : Nat) (at0 : NetTime) (who : Requester) (off size die slot : Nat) (o : OamMsg) (rest : List OamMsg),
    let fetches := s.mayFetch c x.flags
    let turn := ∀ j ∈ (s.jobs c).head?, j.done = none
    let job := fun done => DmaJob.mk x.kind x.flags x.hostAddr x.length done
    let v := s.get HOST_DMA_CTRL.VECTOR c
    let place := s.get HOST_DMA_BASE.ADDR c * 32 + 32 * s.get HOST_DMA_PTR.HEAD c
    let quiet := s.flag HOST_MSIX_CTRL.MASK v || s.pci.d3hot
    let ended := fun (t : State) (moved : List Sent) (flags st n : Nat) => t.jobs c = [] ∧ t.get HOST_DMA_PTR.HEAD c = (s.get HOST_DMA_PTR.HEAD c + 1) % s.ringSize c % 2 ^ 16
      ∧ t.get HOST_DMA_STATUS.LAST_STATUS c = st % 2 ^ HOST_DMA_STATUS.LAST_STATUS.width
      ∧ t.outbox = s.outbox ++ moved ++ [.hostWrite (place + 24) (leBytes 4 n), .hostWrite (place + 2) [st], .hostWrite (place + 1) [setBit (flags % 256) 7]]
        ++ (if bitAt flags 0 && !quiet then [.msix v (s.get HOST_MSIX_ADDR.ADDR v) (s.get HOST_MSIX_CTRL.MSG_DATA v)] else [])
      ∧ (bitAt flags 0 = true → quiet = true → bitAt (t.get HOST_MSIX_PBA.BITS (v / 64)) (v % 64) = true)
    let completes := fun (t : State) (moved : List Sent) (st n : Nat) =>
      if s.jobs c = [] then ended t moved x.flags st n else t.jobs c = s.jobs c ++ [job (some (st, n))] ∧ t.outbox = s.outbox ++ moved
    let after : State := { s with dma := s.dma.set ⟨c, 0⟩ [] (s.jobs c ++ [job none]) }
    let runs := fun (i : Instr) => exec (.table c x record tied) s = exec i after ∧ ∃ t, exec i after = .next t
    let entry := FwdEntry.ofBytes (leAt record 32 64)
    let expect := if byteAt record 1 = 1 then some (leAt record 8 6) else none
    let good := fetches = true ∧ s.takes c 1 x = true ∧ x.length = 96 ∧ requestBad record = false
    let clear := flagsClear (leAt record 32 64) = true
    let staged := 8 ≤ x.length ∧ x.length ≤ 1048576 ∧ x.length % 8 = 0 ∧ x.devAddr + x.length ≤ 12582912
    let d := x.arg % 8
    let region := fun k => s.regionOf d (x.devAddr % 2 ^ 38 + k)
    let hidden := ∃ k, k < x.length ∧ hiddenRegion (region k) = true
    let lost := ∃ k, k < x.length ∧ region k = none
    let refusal := fun (t : State) => t.get SEC_FW_EVENT.COUNT 0 = satAdd 28 (s.get SEC_FW_EVENT.COUNT 0) 1 ∧ t.get SEC_FW_EVENT.LAST_BAR 0 = 1 ∧ pendingOnAll t 3848
    let refused := fun (t : State) (write : Bool) => refusal t ∧ t.get SEC_FW_EVENT.SOURCE 0 = sourceOf who ∧ t.get SEC_FW_EVENT.LAST_OFFSET 0 = off % 2 ^ 32 ∧ t.flag SEC_FW_EVENT.LAST_WRITE 0 = write
    let stray := fun (t : State) => t.get HOST_UNMAPPED.COUNT 0 = satAdd 32 (s.get HOST_UNMAPPED.COUNT 0) 1 ∧ t.get HOST_UNMAPPED.LAST_BAR 0 = 1 ∧ pendingOnAll t 3872
    let unmapped := fun (t : State) (write : Bool) => stray t ∧ t.get HOST_UNMAPPED.LAST_OFFSET 0 = off / 16 % 2 ^ 28 ∧ t.flag HOST_UNMAPPED.LAST_WRITE 0 = write
    let onSet := bits x.arg 6 1
    let t0 := x.arg % 64
    let n0 := x.devAddr % 256
    let reaches := s.inOperation t0 n0 = true ∧ s.get TREE_RNG_TERM.SET (termAt t0 n0) = onSet
    let header := fun (oam : Bool) (tree terminal : Nat) (bytes : List Nat) => [ofBool oam, tree, terminal, 0] ++ leBytes 2 bytes.length ++ [0, 0] ++ leBytes 8 (at0.frac + at0.sec % 2 ^ 16 * 2 ^ 48) ++ bytes
    let mine := fun (oam : Bool) => s.dmaChannelFor oam = some c
    let waiting := fun (j : DmaJob) => j.kind == 5 && j.done.isNone
    let filled := fun (t : State) (j : DmaJob) (m : List Nat) => (s.jobs c = [j] → ended t [.hostWrite j.addr (m.take j.length)] j.flags (if j.length < m.length then 5 else 0) (min j.length m.length))
      ∧ ∃ more, t.outbox = s.outbox ++ [.hostWrite j.addr (m.take j.length)] ++ more
    let dropped := fun (t : State) => t.get HOST_DMA_STATUS.RX_NO_BUFFER c = satAdd HOST_DMA_STATUS.RX_NO_BUFFER.width (s.get HOST_DMA_STATUS.RX_NO_BUFFER c) 1 ∧ t.outbox = s.outbox ∧ t.dma = s.dma
    let asks := s.mayAsk who = true
    let answer := fun (t : State) (n : Nat) => t.outbox = s.outbox ++ [.readData size n]
    let shut := s.refused who 1 off false
    let kinds := fun (P : Instr → Nat → Prop) => P (.table c x record tied) 1 ∧ P (.stage c x bytes) 2 ∧ P (.devRead c x) 3 ∧ P (.omciTx c x bytes) 4 ∧ P (.rxBuffer c x) 5
    kinds (fun i n => (fetches = false → exec i s = .next s) ∧ (fetches = true → turn → s.takes c n x = false → answers i s fun t => completes t [] 1 0))
    ∧ (fetches = true → turn →
      (s.takes c 1 x = true → x.length ≠ 96 → answers (.table c x record tied) s fun t => ∃ st, 1 ≤ st ∧ st ≤ 6 ∧ completes t [] st 0)
      ∧ (s.takes c 2 x = true → ¬ staged → answers (.stage c x bytes) s fun t => ∃ st, 1 ≤ st ∧ st ≤ 6 ∧ completes t [] st 0)
      ∧ (s.takes c 3 x = true → ¬ (8 ≤ x.length ∧ x.length ≤ 16777216) → answers (.devRead c x) s fun t => ∃ st, 1 ≤ st ∧ st ≤ 6 ∧ completes t [] st 0)
      ∧ (s.takes c 4 x = true → ¬ (48 ≤ x.length ∧ x.length ≤ 1980) → answers (.omciTx c x bytes) s fun t => ∃ st, 1 ≤ st ∧ st ≤ 6 ∧ completes t [] st 0)
      ∧ (s.takes c 5 x = true → x.length < 2048 → answers (.rxBuffer c x) s fun t => ∃ st, 1 ≤ st ∧ st ≤ 6 ∧ completes t [] st 0))
    ∧ (good → turn → (byteAt record 0 = 1 → clear → runs (.tableInsert c x.hostAddr entry expect tied)) ∧ (byteAt record 0 = 2 → clear → runs (.tableReplace c x.hostAddr entry expect tied))
      ∧ (byteAt record 0 = 3 → clear → runs (.tableDelete c x.hostAddr entry expect tied))
      ∧ (byteAt record 0 = 4 → runs (.tableLock c x.hostAddr (leAt record 4 4) (if leAt record 20 4 = 0xFFFFFFFF then none else some (leAt record 20 4))))
      ∧ (byteAt record 0 = 5 → runs (.tableUnlock c x.hostAddr)) ∧ (byteAt record 0 = 6 → clear → runs (.writeSlot c x.hostAddr (leAt record 4 4) (byteAt record 2) entry expect)))
    ∧ (fetches = true → s.takes c 1 x = true → x.length = 96 → requestBad record = true ∨ (byteAt record 0 ≠ 4 ∧ byteAt record 0 ≠ 5 ∧ ¬ clear) → s.jobs c = [] →
      answers (.table c x record tied) s fun t => ended t [.tableDone c x.hostAddr 7 none] x.flags 0 96)
    ∧ (fetches = true → turn → s.takes c 2 x = true → staged →
      (s.flag SEC_LOCK.DAMASK 0 = true → answers (.stage c x bytes) s fun t => completes t [] 3 0)
      ∧ (s.flag SEC_LOCK.DAMASK 0 = false → s.loader.staging = none → answers (.stage c x bytes) s fun t => completes t [] 6 0)
      ∧ (s.flag SEC_LOCK.DAMASK 0 = false → s.loader.staging ≠ none → answers (.stage c x bytes) s fun t => completes t [] 0 x.length
        ∧ ∀ n, n < bytes.length → t.loader.staged.read (x.devAddr + n) = BitVec.ofNat 8 (bytes.getD n 0)))
    ∧ (fetches = true → turn → s.takes c 3 x = true → 8 ≤ x.length → x.length ≤ 16777216 → answers (.devRead c x) s fun t => ∃ st,
      completes t [.hostWrite x.hostAddr ((List.range x.length).map fun k => s.devByte d (x.devAddr % 2 ^ 38 + k))] st x.length
      ∧ (hidden ∨ lost → st = 6) ∧ (¬ hidden → ¬ lost → st = 0) ∧ (hidden → refusal t ∧ t.get SEC_FW_EVENT.SOURCE 0 = 0) ∧ (lost → stray t))
    ∧ (fetches = true → turn → s.takes c 4 x = true → 48 ≤ x.length → x.length ≤ 1980 →
      (reaches → answers (.omciTx c x bytes) s fun t => completes t [.omci t0 onSet n0 bytes] 0 x.length) ∧ (¬ reaches → answers (.omciTx c x bytes) s fun t => completes t [] 6 0))
    ∧ (fetches = true → turn → s.takes c 5 x = true → 2048 ≤ x.length → answers (.rxBuffer c x) s fun t => t.jobs c = s.jobs c ++ [job none] ∧ t.outbox = s.outbox)
    ∧ (s.dmaChannelFor false = none → answers (.rxMessage (.omci tree terminal bytes) at0) s fun t => t.outbox = s.outbox ∧ t.dma = s.dma)
    ∧ (mine false → (s.jobs c).find? waiting = none → answers (.rxMessage (.omci tree terminal bytes) at0) s dropped)
    ∧ (∀ j, mine false → (s.jobs c).find? waiting = some j → answers (.rxMessage (.omci tree terminal bytes) at0) s fun t => filled t j (header false tree terminal bytes))
    ∧ (s.oam = [] → exec (.rxMessage .oam at0) s = .next s)
    ∧ (s.oam = o :: rest → s.dmaChannelFor true = none → answers (.rxMessage .oam at0) s fun t => t.oam = rest ∧ t.outbox = s.outbox ∧ t.dma = s.dma)
    ∧ (s.oam = o :: rest → mine true → (s.jobs c).find? waiting = none → answers (.rxMessage .oam at0) s fun t => t.oam = rest ∧ dropped t)
    ∧ (∀ j, s.oam = o :: rest → mine true → (s.jobs c).find? waiting = some j → answers (.rxMessage .oam at0) s fun t => t.oam = rest ∧ ∃ a b, filled t j (header true a b o.bytes))
    ∧ (fetches = false → exec (.dmaError c (.fetched x)) s = .next s)
    ∧ (fetches = true → turn → answers (.dmaError c (.fetched x)) s fun t => completes t [] 2 0 ∧ t.flag HOST_DMA_STATUS.ERROR c = true)
    ∧ ((∀ j, (s.jobs c)[k]? = some j → j.done ≠ none) → exec (.dmaError c (.inFlight k)) s = .next s)
    ∧ (∀ j, (s.jobs c)[k]? = some j → j.done = none → answers (.dmaError c (.inFlight k)) s fun t => t.flag HOST_DMA_STATUS.ERROR c = true
      ∧ (s.jobs c = [j] → ended t [] j.flags 2 0) ∧ (k ≠ 0 → turn → t.jobs c = doneAt 2 0 k (s.jobs c) ∧ t.outbox = s.outbox))
    ∧ (¬ asks → exec (.bar2Read who off size) s = .next s ∧ exec (.bar2Write who off bytes) s = .next s)
    ∧ (asks → s.bar2Place off = none → answers (.bar2Read who off size) s fun t => answer t (noData size) ∧ unmapped t false)
    ∧ (asks → s.bar2Place off = some (die, slot, k) → shut = true ∨ hiddenRegion (some k) = true → answers (.bar2Read who off size) s fun t => answer t (noData size) ∧ refused t false)
    ∧ (asks → s.bar2Place off = some (die, slot, k) → shut = false → hiddenRegion (some k) = false → answers (.bar2Read who off size) s fun t =>
      answer t (leValue ((List.range size).map fun i => s.devByte die (slot + i)) % 256 ^ size) ∧ t.regs = s.regs ∧ t.dev = s.dev)
    ∧ (asks → who = .host ∨ who = .debug → answers (.bar2Write who off bytes) s fun t => refused t true ∧ t.dev = s.dev)
    ∧ (who ≠ .host → who ≠ .debug → s.bar2Place off = none → answers (.bar2Write who off bytes) s fun t => unmapped t true ∧ t.dev = s.dev)
    ∧ (who ≠ .host → who ≠ .debug → s.bar2Place off = some (die, slot, k) → s.refused who 1 off true = true ∨ k ≠ 4 → answers (.bar2Write who off bytes) s fun t => refused t true ∧ t.dev = s.dev)
    ∧ (who ≠ .host → who ≠ .debug → s.bar2Place off = some (die, slot, k) → s.refused who 1 off true = false → k = 4 → answers (.bar2Write who off bytes) s fun t =>
      (∀ n, n < bytes.length → (t.dev.get ⟨die, 0⟩ []).read (slot + n) = BitVec.ofNat 8 (bytes.getD n 0)) ∧ t.regs = s.regs)

/-- COLD_RESET, PACKAGE_RESET, RESET_PACKAGE, PERST, HOST_INTERFACE_RESET, STARTUP, SUPPLY_SUPERVISION, SUPPLY_FAULT, GOVERNOR_STEP, JUNCTION_THERMAL, DIE_POWER_DOWN and DIE_RESTART
(R390, R391, R392, R393, R394, R400, R402, R404, R405, R406, R51, R63): a package reset leaves every register at reset but LAST_RESET and what debug keeps, and keeps MRAM; a
host-interface reset clears the host's registers, requests and staging and leaves the rest running. Start-up goes on phase by phase. The input is judged; the governor moves the core
supply by 5 mV between 620 mV and 850 mV; a die answers its heat, goes OFF and comes back. -/
def Obligations.ResetsStartUpAndPower : Prop :=
  ∀ (s : State) (cause key ms vin iin pin d cool : Nat) (untrained steps : List (Nat × Nat)) (req : Int) (readings : List Int) (top package : Int) (request : Option Int),
    let kept := s.get SEC_DBG_STATUS.FAILURES 0
    let blank := fun (t : State) => (∀ k, k ∉ [SEC_DBG_STATUS.FAILURES.at 0, SEC_DBG_STATUS.STATE.at 0, PKG_STATUS.LAST_RESET.at 0] → ∀ v, t.regs.get k v = v)
      ∧ t.sects = [] ∧ t.keys = [] ∧ t.fwd = [] ∧ t.dev = [] ∧ t.loader = {} ∧ t.slots = s.slots ∧ t.ident = s.ident ∧ t.pending = s.pending ∧ t.timeValid = false
    let fresh := fun (t : State) (n : Nat) => blank t ∧ t.get PKG_STATUS.LAST_RESET 0 = n % 8 ∧ t.get SEC_DBG_STATUS.FAILURES 0 = kept % 2 ^ SEC_DBG_STATUS.FAILURES.width
      ∧ t.get SEC_DBG_STATUS.STATE 0 = if 16 ≤ kept then 2 else 0
    let records := fun (x t : State) => (∀ e, (x.mramOf e).todo = []) → ∀ e, (x.mramOf e).pages ≠ ({} : MramDie).pages → (t.mramOf e).pages = (x.mramOf e).pages
    let cleared := fun (t : State) => t.get PKG_STATUS.HOST_RESET 0 = 1 ∧ (∀ r ∈ hostRegisters, ∀ f ∈ r.fields, ∀ i, t.get f i = f.reset) ∧ t.dma = [] ∧ t.snap = {} ∧ t.pci = {}
      ∧ (∀ u ∈ t.updates, u.req = none) ∧ t.loader.staging = none ∧ (∀ e, e < s.dies → t.get TWEED_MBOX_STATE.SLOT e = 0 ∧ t.get FWD_RING_CTRL.ENABLE e = 0)
      ∧ t.keys = s.keys ∧ t.fwd = s.fwd ∧ t.queues = s.queues ∧ t.live = s.live ∧ t.netSec = s.netSec ∧ t.timeValid = s.timeValid ∧ t.outbox = s.outbox
    let phase := s.get PKG_STATUS.PHASE 0
    let moves := fun (t : State) (n : Nat) => t.get PKG_STATUS.PHASE 0 = n ∧ changesOnly s t [PKG_STATUS.PHASE.at 0]
    let alarm := 10 * s.get PKG_PWR_CTRL.ALARM_W 0
    let volt := if 11000 < vin then s.supply.voltGood + 1 else 0
    let high := if alarm ≠ 0 ∧ alarm < pin then s.supply.powerHigh + 1 else 0
    let good := if alarm = 0 ∨ pin < alarm then s.supply.powerGood + 1 else 0
    let under := vin < 10800 ∨ s.flag PKG_PWR_STATUS.UNDERVOLT 0 = true ∧ volt < 100
    let overPower := 100 ≤ high ∨ s.flag PKG_PWR_STATUS.OVERPOWER 0 = true ∧ good < 100
    let m := s.lowestSentinel d
    let v := s.get SEG_GOV_STATUS.VCORE_MV d
    let moved := fun (t : State) (n : Int) => t.get SEG_GOV_STATUS.VCORE_MV d = (max 620 (min 850 ((v : Int) + 5 * n))).toNat
      ∧ t.get SEG_GOV_STATUS.STEPS d = if t.get SEG_GOV_STATUS.VCORE_MV d = v then s.get SEG_GOV_STATUS.STEPS d else (s.get SEG_GOV_STATUS.STEPS d + 1) % 2 ^ 32
    let target := s.speedTarget d
    let applied := fun (t : State) (n : Int) => moved t n ∧ t.flag SEG_GOV_STATUS.AT_MAX d = (t.get SEG_GOV_STATUS.VCORE_MV d == 850 && decide (m < target))
    let governs := 1500 ≤ m ∧ s.flag SEG_GOV_CTRL.FIXED d = false
    let missed := min 100 ((s.powerOf d).missed + 1)
    let long := (s.powerOf d).above + 1
    let own : Int := if m < target then 1 else if target + s.get SEG_GOV_CTRL.HYST_MTOK d < m ∧ 10 ≤ long then -1 else 0
    let tripped := fun (t : State) => (t.powerOf d).tripHolds = true ∧ (s.loader.weave ≠ 1 → s.loader.reweave = none → t.get PKG_DIE_CTRL.TRIPPED d = 1 ∧ t.get PKG_DIE_CTRL.TRIP_EVENT d = 1
      ∧ t.unitState (.die d) = 0 ∧ t.isWoven d = false ∧ t.get PKG_DIE_CTRL.OFF_COUNT d = (s.get PKG_DIE_CTRL.OFF_COUNT d + 1) % 2 ^ 32)
    let highest := readings ≠ [] ∧ (∀ r ∈ readings, r ≤ top) ∧ top ∈ readings
    let cold := top ≤ 500 ∧ package ≤ 500
    let shown := fun (t : State) => ∀ n, n < 16 → n < readings.length → t.get SEG_TEMP.NOW (d * 16 + n) = ofSigned 12 (readings.getD n 0) % 2 ^ 12
    let hot := s.flag SEG_GOV_STATUS.HOT d
    let restarts := s.flag PKG_DIE_CTRL.ENABLE d = true ∧ (s.latchOf (.die d) = 2 ∨ s.flag PKG_DIE_CTRL.AUTO_RESTART d = true)
    let off := fun (t : State) => t.unitState (.die d) = 0 ∧ t.isWoven d = false ∧ t.get PKG_DIE_CTRL.OFF_COUNT d = (s.get PKG_DIE_CTRL.OFF_COUNT d + 1) % 2 ^ 32
    let calm := s.loader.weave ≠ 1 ∧ s.loader.reweave = none ∧ s.latchOf (.die d) = 0
    answers .coldReset s (fun t => blank t ∧ t.get PKG_STATUS.LAST_RESET 0 = 0 ∧ t.get SEC_DBG_STATUS.FAILURES 0 = 0 ∧ t.get SEC_DBG_STATUS.STATE 0 = 0 ∧ t.supply.thermtrip = false ∧ records s t)
    ∧ answers (.packageReset cause) s (fun t => fresh t cause ∧ records s t)
    ∧ (key ≠ 0xA5C3 → answers (.resetPackage key) s fun t => t.get PKG_CMD.RESULT 0 = 1 ∧ changesOnly s t [PKG_CMD.RESULT.at 0])
    ∧ (key = 0xA5C3 → s.flag SEC_LOCK.DAMASK 0 = true → answers (.resetPackage key) s fun t => t.get PKG_CMD.RESULT 0 = 2 ∧ t.get SEC_FW_EVENT.SOURCE 0 = 3
      ∧ t.get SEC_FW_EVENT.COUNT 0 = satAdd 28 (s.get SEC_FW_EVENT.COUNT 0) 1 ∧ pendingOnAll t 3848)
    ∧ (key = 0xA5C3 → s.flag SEC_LOCK.DAMASK 0 = false → answers (.resetPackage key) s fun t => fresh t 2 ∧ records s t)
    ∧ answers (.perst false) s (fun t => t.supply.perst = false ∧ t.regs = s.regs)
    ∧ (s.ident.perstScope = true → answers (.perst true) s fun t => fresh t 1 ∧ records s t ∧ t.supply.perst = true ∧ t.heldInReset = true)
    ∧ (s.ident.perstScope = false → answers (.perst true) s fun t => cleared t ∧ t.supply.perst = true)
    ∧ answers .hostInterfaceReset s cleared
    ∧ (s.heldInReset = true → exec (.startup ms untrained) s = .next s)
    ∧ (s.heldInReset = false →
      (phase = 0 → answers (.startup ms untrained) s fun t => t.get PKG_STATUS.PHASE 0 = 1 ∧ ∀ e, e < s.dies → s.flag PKG_DIE_CTRL.ENABLE e = true → t.unitState (.die e) = 1)
      ∧ (phase = 1 → (s.weaveChoice.1 = none → answers (.startup ms untrained) s fun t => t.get PKG_STATUS.PHASE 0 = 7 ∧ t.loader.weave = 0 ∧ t.loader.woven = 0)
        ∧ (∀ x ∈ s.weaveChoice.1, answers (.startup ms untrained) s fun t => t.get PKG_STATUS.PHASE 0 = 2 ∧ t.loader.weave = 2 ∧ t.loader.source = x.1 ∧ t.get DMK_STATUS.ACTIVE_SLOT 0 = x.2.1 % 2
          ∧ t.get DMK_STATUS.WEAVE_STATE 0 = 2))
      ∧ (phase = 2 → if s.loader.weave = 0 ∧ s.get DMK_STATUS.WEAVE_STATE 0 ≠ 0 then answers (.startup ms untrained) s fun t => moves t 3 else exec (.startup ms untrained) s = .next s)
      ∧ (phase = 3 → answers (.startup ms untrained) s fun t => t.get PKG_STATUS.PHASE 0 = 4 ∧ ∀ x ∈ untrained, t.chanState x.1 x.2 = 4)
      ∧ (phase = 4 → if s.linksOn then answers (.startup ms untrained) s fun t => moves t 5 else exec (.startup ms untrained) s = .next s)
      ∧ (phase = 5 → if s.treesStarting then exec (.startup ms untrained) s = .next s else answers (.startup ms untrained) s fun t => t.get PKG_STATUS.PHASE 0 = 6
        ∧ t.get PKG_STATUS.READY_MS 0 = min ms 65535 ∧ t.get PKG_STATUS.UPTIME_S 0 = 0)
      ∧ (phase = 7 → if s.loader.weave ≠ 0 ∨ s.loader.woven ≠ 0 then answers (.startup ms untrained) s fun t => moves t 2 else exec (.startup ms untrained) s = .next s)
      ∧ (phase = 6 ∨ 7 < phase → exec (.startup ms untrained) s = .next s))
    ∧ answers (.supplySupervision vin iin pin) s (fun t => t.get PKG_PWR_STATUS.VIN_MV 0 = vin % 2 ^ 16 ∧ t.get PKG_PWR_STATUS.IIN_CA 0 = iin % 2 ^ 16 ∧ t.get PKG_PWR_STATUS.PIN_DW 0 = pin % 2 ^ 16
      ∧ (t.flag PKG_PWR_STATUS.UNDERVOLT 0 = true ↔ under) ∧ (t.flag PKG_PWR_STATUS.OVERPOWER 0 = true ↔ overPower) ∧ t.supply.voltGood = min volt 100 ∧ t.supply.powerHigh = min high 100 ∧ t.supply.powerGood = min good 100
      ∧ (under ∧ s.flag PKG_PWR_STATUS.UNDERVOLT 0 = false ∨ overPower ∧ s.flag PKG_PWR_STATUS.OVERPOWER 0 = false → t.flag PKG_PWR_STATUS.ALERT_EVENT 0 = true ∧ pendingOnAll t 3888))
    ∧ answers (.supplyFault steps) s (fun t => fresh t 3 ∧ records (steps.foldl State.finishStep s) t)
    ∧ (m < 1500 → answers (.governorStep d request) s fun t => moved t 1 ∧ t.get SEG_GOV_STATUS.EMERGENCY_STEPS d = satAdd 16 (s.get SEG_GOV_STATUS.EMERGENCY_STEPS d) 1 ∧ (t.powerOf d).above = 0)
    ∧ (1500 ≤ m → s.flag SEG_GOV_CTRL.FIXED d = true → answers (.governorStep d request) s fun t => moved t (s.towardFixed d))
    ∧ (governs → answers (.governorStep d (some req)) s fun t => applied t req ∧ (t.powerOf d).missed = 0 ∧ t.get SEG_GOV_STATUS.POLICY_LOST d = 0)
    ∧ (governs → missed < 100 → answers (.governorStep d none) s fun t => applied t 0 ∧ (t.powerOf d).missed = missed)
    ∧ (governs → 100 ≤ missed → answers (.governorStep d none) s fun t => applied t own ∧ t.get SEG_GOV_STATUS.POLICY_LOST d = 1)
    ∧ (readings = [] → exec (.junctionThermal d readings package cool) s = .next s)
    ∧ (highest → 500 < top ∨ 500 < package → answers (.junctionThermal d readings package cool) s fun t => blank t ∧ t.supply.thermtrip = true ∧ t.heldInReset = true)
    ∧ (highest → cold → s.powered d = false → (s.powerOf d).tripHolds = false ∨ 360 ≤ top ∨ cool < 10 → exec (.junctionThermal d readings package cool) s = .next s)
    ∧ (highest → cold → s.powered d = false → (s.powerOf d).tripHolds = true → top < 360 → 10 ≤ cool → answers (.junctionThermal d readings package cool) s fun t => (t.powerOf d).tripHolds = false
      ∧ (restarts → d < s.dies → s.loader.weave = 0 → t.unitState (.die d) = 1) ∧ (¬ restarts → t.unitState (.die d) = s.unitState (.die d)))
    ∧ (highest → cold → s.powered d = true → 440 < top → answers (.junctionThermal d readings package cool) s tripped)
    ∧ (highest → cold → s.powered d = true → 400 < top → top ≤ 440 → hot = false → answers (.junctionThermal d readings package cool) s fun t => shown t ∧ t.flag SEG_GOV_STATUS.HOT d = true
      ∧ t.flag SEG_GOV_STATUS.HOT_EVENT d = true ∧ t.flag IC_SRC.PENDING (srcAt d 2273) = true)
    ∧ (highest → cold → s.powered d = true → top < 380 → answers (.junctionThermal d readings package cool) s fun t => shown t ∧ t.flag SEG_GOV_STATUS.HOT d = false)
    ∧ (highest → cold → s.powered d = true → 380 ≤ top → top ≤ 440 → top ≤ 400 ∨ hot = true → answers (.junctionThermal d readings package cool) s fun t => shown t ∧ t.flag SEG_GOV_STATUS.HOT d = hot)
    ∧ (s.unitState (.die d) = 0 → exec (.diePowerDown d true) s = .next s)
    ∧ (s.unitState (.die d) ≠ 0 → answers (.diePowerDown d true) s tripped)
    ∧ (s.unitState (.die d) ≠ 2 → s.unitState (.die d) ≠ 3 ∨ s.unitsOf d ≠ [] → exec (.diePowerDown d false) s = .next s)
    ∧ (s.unitState (.die d) = 3 → s.unitsOf d = [] → calm → answers (.diePowerDown d false) s off)
    ∧ (s.unitState (.die d) = 2 → calm → answers (.diePowerDown d false) s fun t => t.get PKG_DIE_CTRL.ENABLE d = 0 ∧ (s.unitsOf d = [] → off t) ∧ (t.unitState (.die d) = 3 ∨ off t))
    ∧ (s.unitState (.die d) ≠ 1 ∨ s.loader.weave ≠ 0 ∨ s.loader.woven = 0 → exec (.dieRestart d) s = .next s)
    ∧ (s.unitState (.die d) = 1 → s.loader.weave = 0 → s.loader.woven ≠ 0 → s.latchOf (.die d) = 0 → answers (.dieRestart d) s fun t => t.unitState (.die d) = 2 ∧ t.isWoven d = true ∧ t.latchOf (.die d) = 0)
end

