-- ==== Sys2Proof/Laws/Table.lean ====
section
/-!
SUPPORT. Laws of sparse tables: what a read gives after a change, and that every change keeps keys strictly rising.
-/

namespace Sys2Proof.Machine

/-! ### Order of keys -/

theorem Key.lt_trans {a b c : Key} (h : a.lt b = true) (g : b.lt c = true) : a.lt c = true := by
  simp only [Key.lt, Bool.or_eq_true, Bool.and_eq_true, beq_iff_eq, decide_eq_true_eq] at *
  omega

theorem Key.lt_of_not_lt {a b : Key} (h : ¬ a.lt b = true) (n : b ≠ a) : b.lt a = true := by
  simp only [Key.lt, Bool.or_eq_true, Bool.and_eq_true, beq_iff_eq, decide_eq_true_eq] at *
  have : ¬ (b.n = a.n ∧ b.i = a.i) := fun e => n (by cases a; cases b; simp_all)
  omega

/-! ### Reads -/

theorem Tbl.get_erase_same {α : Type} (t : Tbl α) (k : Key) (d : α) : (t.erase k).get k d = d := by
  induction t with
  | nil => rfl
  | cons e t ih =>
    simp only [Tbl.erase, List.filter_cons] at *
    split
    · rename_i h
      simp only [Tbl.get]
      rw [if_neg (by simpa using h)]
      exact ih
    · exact ih

theorem Tbl.get_filter_other {α : Type} (t : Tbl α) (k : Key) (d : α) (p : Key × α → Bool) (h : ∀ v, p (k, v) = true) :
    Tbl.get (t.filter p) k d = t.get k d := by
  induction t with
  | nil => rfl
  | cons e t ih =>
    obtain ⟨x, v⟩ := e
    simp only [List.filter_cons]
    split
    · simp only [Tbl.get]
      split
      · rfl
      · exact ih
    · rename_i g
      simp only [Tbl.get]
      split
      · rename_i e
        subst e
        exact absurd (h v) g
      · exact ih

theorem Tbl.get_filter_gone {α : Type} (t : Tbl α) (k : Key) (d : α) (p : Key × α → Bool) (h : ∀ v, p (k, v) = false) :
    Tbl.get (t.filter p) k d = d := by
  induction t with
  | nil => rfl
  | cons e t ih =>
    obtain ⟨x, v⟩ := e
    simp only [List.filter_cons]
    split
    · rename_i g
      simp only [Tbl.get]
      split
      · rename_i e
        subst e
        exact absurd g (by simp [h v])
      · exact ih
    · exact ih

theorem Tbl.get_insert_same {α : Type} (k : Key) (v d : α) (t : Tbl α) (h : ∀ e ∈ t, e.1 ≠ k) : Tbl.get (Tbl.insert k v t) k d = v := by
  induction t with
  | nil => simp [Tbl.insert, Tbl.get]
  | cons e t ih =>
    simp only [Tbl.insert]
    split
    · simp [Tbl.get]
    · simp only [Tbl.get]
      rw [if_neg (h e (by simp))]
      exact ih fun x hx => h x (by simp [hx])

theorem Tbl.get_insert_other {α : Type} (k j : Key) (v d : α) (t : Tbl α) (h : j ≠ k) : Tbl.get (Tbl.insert k v t) j d = t.get j d := by
  induction t with
  | nil => simp [Tbl.insert, Tbl.get, h.symm]
  | cons e t ih =>
    simp only [Tbl.insert]
    split
    · simp [Tbl.get, h.symm]
    · simp only [Tbl.get]
      rw [ih]

theorem Tbl.mem_erase_ne {α : Type} (t : Tbl α) (k : Key) : ∀ e ∈ t.erase k, e.1 ≠ k := by
  intro e he
  simp only [Tbl.erase, List.mem_filter, decide_eq_true_eq] at he
  exact he.2

theorem Tbl.get_erase_other {α : Type} (t : Tbl α) (k j : Key) (d : α) (h : j ≠ k) : (t.erase k).get j d = t.get j d :=
  Tbl.get_filter_other t j d _ fun _ => by simpa using h

/-- A read of the key just set gives what was set. -/
@[simp] theorem Tbl.get_set_same {α : Type} [DecidableEq α] (t : Tbl α) (k : Key) (d v : α) : (t.set k d v).get k d = v := by
  unfold Tbl.set
  split
  · rename_i h
    rw [h]
    exact t.get_erase_same k d
  · exact Tbl.get_insert_same k v d _ (t.mem_erase_ne k)

/-- A read of any other key gives what it gave. -/
theorem Tbl.get_set_other {α : Type} [DecidableEq α] (t : Tbl α) (k j : Key) (d c v : α) (h : j ≠ k) : (t.set k d v).get j c = t.get j c := by
  unfold Tbl.set
  split
  · exact t.get_erase_other k j c h
  · rw [Tbl.get_insert_other k j v c _ h]
    exact t.get_erase_other k j c h

/-! ### The canonical form -/

/-- Keys above a bound rise strictly. -/
theorem Tbl.sorted_cons {α : Type} (e : Key × α) (t : Tbl α) :
    Tbl.sorted (e :: t) = true ↔ (∀ x ∈ t, e.1.lt x.1 = true) ∧ t.sorted = true := by
  induction t generalizing e with
  | nil => simp [Tbl.sorted]
  | cons a t ih =>
    simp only [Tbl.sorted, Bool.and_eq_true]
    rw [ih a]
    constructor
    · rintro ⟨h, g, k⟩
      refine ⟨?_, g, k⟩
      intro x hx
      rcases List.mem_cons.1 hx with rfl | hx
      · exact h
      · exact Key.lt_trans h (g x hx)
    · rintro ⟨h, g, k⟩
      exact ⟨h a (by simp), g, k⟩

theorem Tbl.sorted_filter {α : Type} (t : Tbl α) (p : Key × α → Bool) (h : t.sorted = true) : Tbl.sorted (t.filter p) = true := by
  induction t with
  | nil => exact h
  | cons e t ih =>
    rw [Tbl.sorted_cons] at h
    simp only [List.filter_cons]
    split
    · rw [Tbl.sorted_cons]
      exact ⟨fun x hx => h.1 x (List.mem_filter.1 hx).1, ih h.2⟩
    · exact ih h.2

theorem Tbl.mem_insert {α : Type} (k : Key) (v : α) (t : Tbl α) (x : Key × α) (h : x ∈ Tbl.insert k v t) : x = (k, v) ∨ x ∈ t := by
  induction t with
  | nil => simpa [Tbl.insert] using h
  | cons e t ih =>
    simp only [Tbl.insert] at h
    split at h
    · rcases List.mem_cons.1 h with h | h
      · exact .inl h
      · exact .inr h
    · rcases List.mem_cons.1 h with h | h
      · exact .inr (by simp [h])
      · rcases ih h with h | h
        · exact .inl h
        · exact .inr (by simp [h])

theorem Tbl.sorted_insert {α : Type} (k : Key) (v : α) (t : Tbl α) (h : t.sorted = true) (n : ∀ e ∈ t, e.1 ≠ k) :
    Tbl.sorted (Tbl.insert k v t) = true := by
  induction t with
  | nil => rfl
  | cons e t ih =>
    have hs := (Tbl.sorted_cons e t).1 h
    simp only [Tbl.insert]
    split
    · rename_i g
      rw [Tbl.sorted_cons]
      refine ⟨?_, h⟩
      intro x hx
      rcases List.mem_cons.1 hx with rfl | hx
      · exact g
      · exact Key.lt_trans g (hs.1 x hx)
    · rename_i g
      rw [Tbl.sorted_cons]
      refine ⟨?_, ih hs.2 fun x hx => n x (by simp [hx])⟩
      intro x hx
      rcases Tbl.mem_insert k v t x hx with rfl | hx
      · exact Key.lt_of_not_lt g (n e (by simp))
      · exact hs.1 x hx

/-- A change of one key keeps keys strictly rising. -/
theorem Tbl.sorted_set {α : Type} [DecidableEq α] (t : Tbl α) (k : Key) (d v : α) (h : t.sorted = true) : (t.set k d v).sorted = true := by
  unfold Tbl.set
  split
  · exact t.sorted_filter _ h
  · exact Tbl.sorted_insert k v _ (t.sorted_filter _ h) (t.mem_erase_ne k)

theorem Tbl.mem_set {α : Type} [DecidableEq α] (t : Tbl α) (k : Key) (d v : α) (x : Key × α) (h : x ∈ t.set k d v) : x = (k, v) ∨ x ∈ t := by
  unfold Tbl.set at h
  split at h
  · exact .inr (List.mem_filter.1 h).1
  · rcases Tbl.mem_insert k v _ x h with h | h
    · exact .inl h
    · exact .inr (List.mem_filter.1 h).1

/-- What held of every value of a table and holds of the new one holds of every value after a change. -/
theorem Tbl.all_set {α : Type} [DecidableEq α] (t : Tbl α) (k : Key) (d v : α) (p : α → Bool) (h : (t.all fun e => p e.2) = true) (hv : p v = true) :
    ((t.set k d v).all fun e => p e.2) = true := by
  rw [List.all_eq_true] at *
  intro x hx
  rcases Tbl.mem_set t k d v x hx with rfl | hx
  · exact hv
  · exact h x hx

theorem Tbl.all_filter {α : Type} (t : Tbl α) (q : Key × α → Bool) (p : α → Bool) (h : (t.all fun e => p e.2) = true) :
    ((t.filter q).all fun e => p e.2) = true := by
  rw [List.all_eq_true] at *
  exact fun x hx => h x (List.mem_filter.1 hx).1

/-- What holds of every value and of the default holds of a read. -/
theorem Tbl.of_get {α : Type} (t : Tbl α) (k : Key) (d : α) (p : α → Bool) (h : (t.all fun e => p e.2) = true) (hd : p d = true) : p (t.get k d) = true := by
  induction t with
  | nil => exact hd
  | cons e t ih =>
    simp only [List.all_cons, Bool.and_eq_true] at h
    simp only [Tbl.get]
    split
    · exact h.1
    · exact ih h.2

end Sys2Proof.Machine
end

