-- ==== Sys2Proof/Laws/Regs.lean ====
section
/-!
SUPPORT. Fields of registers after an update: what is written reads back cut to its width, every other field reads as before; and what an event of an
interrupt source may change.
-/

namespace Sys2Proof.Machine

/-! ### The table of fields -/

/-- A write of a field leaves every other key of the table as it was. -/
theorem State.regs_put_other (s : State) (f : Field) (i v : Nat) (k : Key) (d : Nat) (h : k ≠ f.at i) :
    (s.put f i v).regs.get k d = s.regs.get k d := Tbl.get_set_other _ _ _ _ _ _ h

/-- A write reads back, cut to the field's width. -/
theorem State.get_put_same (s : State) (f : Field) (i v : Nat) : (s.put f i v).get f i = v % 2 ^ f.width := by
  unfold State.get State.put Field.unlisted
  cases hf : f.perImage
  · simp [Tbl.get_set_same]
  · simp [Tbl.get_set_same]

/-- What the image gives a field does not depend on other fields, but for the two counts of cells that follow from the channels left (R277, R290). -/
theorem State.imageVal_congr {s t : State} (f : Field) (i : Nat) (a : t.ident = s.ident) (b : t.sects = s.sects)
    (h : f.num ≠ TM_BUF_STATUS.BUF_CELLS.num ∧ f.num ≠ FELT_STATUS.REGION_CELLS.num) : t.imageVal f i = s.imageVal f i := by
  unfold State.imageVal State.identVal State.imageFree State.sect
  rw [a, b]
  simp only [h.1, h.2, if_false]

/-- A field depends on its own key, the identity and the image. -/
theorem State.get_congr {s t : State} (f : Field) (i : Nat) (a : t.ident = s.ident) (b : t.sects = s.sects)
    (h : f.num ≠ TM_BUF_STATUS.BUF_CELLS.num ∧ f.num ≠ FELT_STATUS.REGION_CELLS.num)
    (k : ∀ d, t.regs.get (f.at i) d = s.regs.get (f.at i) d) : t.get f i = s.get f i := by
  unfold Field.at at k
  unfold State.get
  rw [k, k, State.imageVal_congr f i a b h]

/-- A field that the image does not set depends on its own key alone. -/
theorem State.get_plain {s t : State} (f : Field) (i : Nat) (h : f.perImage = false)
    (k : ∀ d, t.regs.get (f.at i) d = s.regs.get (f.at i) d) : t.get f i = s.get f i := by
  unfold Field.at at k
  unfold State.get
  simp [h, k]

/-- Another field reads as before, where it is none that the image sets. -/
theorem State.get_put_other (s : State) (f g : Field) (i j v : Nat) (h : g.at j ≠ f.at i) (n : g.perImage = false) :
    (s.put f i v).get g j = s.get g j := State.get_plain g j n fun d => State.regs_put_other s f i v _ d h

/-- Another field reads as before, where it is none of the two counts of cells. -/
theorem State.get_put_image (s : State) (f g : Field) (i j v : Nat) (h : g.at j ≠ f.at i)
    (n : g.num ≠ TM_BUF_STATUS.BUF_CELLS.num ∧ g.num ≠ FELT_STATUS.REGION_CELLS.num) :
    (s.put f i v).get g j = s.get g j := State.get_congr g j rfl rfl n fun d => State.regs_put_other s f i v _ d h

theorem Field.at_ne_of_num {f g : Field} (i j : Nat) (h : g.num ≠ f.num) : g.at j ≠ f.at i := fun e => h (congrArg Key.n e)

theorem Field.at_ne_of_unit (f g : Field) {i j : Nat} (h : j ≠ i) : g.at j ≠ f.at i := fun e => h (congrArg Key.i e)

@[simp] theorem Field.at_eq (f g : Field) (i j : Nat) : (g.at j = f.at i) = (g.num = f.num ∧ j = i) := by
  simp [Field.at]

/-! ### What two states share -/

theorem changesOnly.refl (s : State) (ks : List Key) : changesOnly s s ks := ⟨rfl, fun _ _ _ => rfl⟩

theorem changesOnly.trans {s t u : State} {ks : List Key} (h : changesOnly s t ks) (g : changesOnly t u ks) : changesOnly s u ks := by
  obtain ⟨h1, h2⟩ := h
  obtain ⟨g1, g2⟩ := g
  refine ⟨?_, fun k n d => (g2 k n d).trans (h2 k n d)⟩
  unfold registersOnly at *
  rw [g1, h1]

theorem changesOnly.mono {s t : State} {ks js : List Key} (h : changesOnly s t ks) (g : ∀ k, k ∈ ks → k ∈ js) : changesOnly s t js :=
  ⟨h.1, fun k n d => h.2 k (fun m => n (g k m)) d⟩

theorem changesOnly.put {s t : State} {ks : List Key} (h : changesOnly s t ks) (f : Field) (i v : Nat) (m : f.at i ∈ ks) :
    changesOnly s (t.put f i v) ks :=
  h.trans ⟨rfl, fun k n d => State.regs_put_other t f i v k d fun e => n (e ▸ m)⟩

theorem changesOnly.putFlag {s t : State} {ks : List Key} (h : changesOnly s t ks) (f : Field) (i : Nat) (b : Bool) (m : f.at i ∈ ks) :
    changesOnly s (t.putFlag f i b) ks := h.put f i _ m

theorem changesOnly.addSat {s t : State} {ks : List Key} (h : changesOnly s t ks) (f : Field) (i n : Nat) (m : f.at i ∈ ks) :
    changesOnly s (t.addSat f i n) ks := h.put f i _ m

theorem changesOnly.addWrap {s t : State} {ks : List Key} (h : changesOnly s t ks) (f : Field) (i n : Nat) (m : f.at i ∈ ks) :
    changesOnly s (t.addWrap f i n) ks := h.put f i _ m

theorem changesOnly.putBit {s t : State} {ks : List Key} (h : changesOnly s t ks) (f : Field) (i k : Nat) (m : f.at i ∈ ks) :
    changesOnly s (t.putBit f i k) ks := h.put f i _ m

/-- A field outside those that changed reads as before. -/
theorem changesOnly.get {s t : State} {ks : List Key} (h : changesOnly s t ks) (f : Field) (i : Nat) (m : f.at i ∉ ks)
    (n : f.perImage = false ∨ f.num ≠ TM_BUF_STATUS.BUF_CELLS.num ∧ f.num ≠ FELT_STATUS.REGION_CELLS.num) : t.get f i = s.get f i := by
  cases n with
  | inl n => exact State.get_plain f i n fun d => h.2 _ m d
  | inr n => exact State.get_congr f i (by rw [h.1]) (by rw [h.1]) n fun d => h.2 _ m d

/-! ### Interrupt sources -/

theorem sourceKeys_congr {s t : State} {ks : List Key} (h : changesOnly s t ks) (d src : Nat)
    (m : IC_SRC.GROUP.at (srcAt d src) ∉ ks) : sourceKeys t d src = sourceKeys s d src := by
  unfold sourceKeys
  rw [h.get _ _ m (.inr (by decide))]

theorem group_not_in_sourceKeys (s : State) (d src e n : Nat) : IC_SRC.GROUP.at (srcAt e n) ∉ sourceKeys s d src := by
  have h1 : IC_SRC.GROUP.num ≠ IC_SRC.PENDING.num := by decide
  have h2 : IC_SRC.GROUP.num ≠ IC_GROUP_STATUS.COUNT.num := by decide
  simp [sourceKeys, h1, h2]

/-- An event of a source changes its PENDING and its group's count at most. -/
theorem State.raise_changesOnly (s : State) (d src : Nat) : changesOnly s (s.raise d src) (sourceKeys s d src) := by
  unfold State.raise
  split
  · exact .refl s _
  · have h := (changesOnly.refl s (sourceKeys s d src)).put IC_SRC.PENDING (srcAt d src) 1 (by simp [sourceKeys])
    dsimp only
    split
    · exact h.addSat _ _ _ (by simp [sourceKeys])
    · exact h

/-- An event of a source that is not reserved sets its PENDING (R349). -/
theorem State.raise_pending (s : State) (d src : Nat) (h : sourceReserved src = false) :
    (s.raise d src).flag IC_SRC.PENDING (srcAt d src) = true := by
  have w : 1 % 2 ^ IC_SRC.PENDING.width = 1 := by decide
  have n : IC_SRC.PENDING.num ≠ IC_GROUP_STATUS.COUNT.num := by decide
  unfold State.raise State.flag
  rw [h]
  dsimp only
  simp only [Bool.false_eq_true, if_false]
  split
  · rw [State.addSat, State.get_put_other _ _ _ _ _ _ (Field.at_ne_of_num _ _ n) rfl, State.get_put_same, w]
    rfl
  · rw [State.get_put_same, w]
    rfl

/-- An event of one source leaves another's PENDING as it was. -/
theorem State.raise_pending_other (s : State) (d src i : Nat) (h : i ≠ srcAt d src) :
    (s.raise d src).get IC_SRC.PENDING i = s.get IC_SRC.PENDING i := by
  refine (State.raise_changesOnly s d src).get _ _ ?_ (.inl rfl)
  have n : IC_SRC.PENDING.num ≠ IC_GROUP_STATUS.COUNT.num := by decide
  simp [sourceKeys, h, n]

/-- What a list of dies raises. -/
theorem State.raiseOn_changesOnly (src : Nat) (l : List Nat) (s : State) :
    changesOnly s (l.foldl (fun s d => s.raise d src) s) (l.flatMap fun d => sourceKeys s d src) := by
  induction l generalizing s with
  | nil => exact .refl s _
  | cons d l ih =>
    have h := State.raise_changesOnly s d src
    have e : (fun e => sourceKeys (s.raise d src) e src) = fun e => sourceKeys s e src :=
      funext fun e => sourceKeys_congr h e src (group_not_in_sourceKeys s d src e src)
    have g := ih (s.raise d src)
    rw [e] at g
    exact (h.mono fun k m => List.mem_flatMap.2 ⟨d, List.mem_cons_self .., m⟩).trans
      (g.mono fun k m => by
        obtain ⟨x, hx, hm⟩ := List.mem_flatMap.1 m
        exact List.mem_flatMap.2 ⟨x, List.mem_cons_of_mem _ hx, hm⟩)

/-- A package source changes what its events on every die may change (R348). -/
theorem State.raisePkg_changesOnly (s : State) (src : Nat) : changesOnly s (s.raisePkg src) (packageKeys s src) :=
  State.raiseOn_changesOnly src s.dieList s

theorem State.raiseOn_keeps_pending (src i : Nat) (l : List Nat) (s : State) (h : s.flag IC_SRC.PENDING i = true) :
    (l.foldl (fun s d => s.raise d src) s).flag IC_SRC.PENDING i = true := by
  induction l generalizing s with
  | nil => exact h
  | cons d l ih =>
    refine ih _ ?_
    by_cases e : i = srcAt d src
    · cases hr : sourceReserved src
      · rw [e]
        exact State.raise_pending s d src hr
      · unfold State.raise
        rw [hr]
        exact h
    · unfold State.flag
      rw [State.raise_pending_other s d src i e]
      exact h

theorem State.raiseOn_pending (src : Nat) (l : List Nat) (s : State) (h : sourceReserved src = false) (d : Nat) (m : d ∈ l) :
    (l.foldl (fun s d => s.raise d src) s).flag IC_SRC.PENDING (srcAt d src) = true := by
  induction l generalizing s with
  | nil => cases m
  | cons e l ih =>
    cases List.mem_cons.1 m with
    | inl g =>
      subst g
      exact State.raiseOn_keeps_pending src _ l _ (State.raise_pending s d src h)
    | inr g => exact ih _ g

/-- A package source that is not reserved is pending on every die after its event (R348, R349). -/
theorem State.raisePkg_pending (s : State) (src : Nat) (h : sourceReserved src = false) : pendingOnAll (s.raisePkg src) src := by
  intro d m
  have e : (s.raisePkg src).dies = s.dies := by rw [(State.raisePkg_changesOnly s src).1]; rfl
  rw [e] at m
  exact State.raiseOn_pending src s.dieList s h d (List.mem_range.2 m)

/-- A field that no event of a source touches reads as before. -/
theorem State.get_raisePkg (s : State) (src : Nat) (f : Field) (i : Nat) (h : f.num ≠ IC_SRC.PENDING.num ∧ f.num ≠ IC_GROUP_STATUS.COUNT.num)
    (n : f.perImage = false ∨ f.num ≠ TM_BUF_STATUS.BUF_CELLS.num ∧ f.num ≠ FELT_STATUS.REGION_CELLS.num) :
    (s.raisePkg src).get f i = s.get f i := by
  refine (State.raisePkg_changesOnly s src).get f i ?_ n
  simp [packageKeys, sourceKeys, h.1, h.2]

theorem State.get_raise (s : State) (d src : Nat) (f : Field) (i : Nat) (h : f.num ≠ IC_SRC.PENDING.num ∧ f.num ≠ IC_GROUP_STATUS.COUNT.num)
    (n : f.perImage = false ∨ f.num ≠ TM_BUF_STATUS.BUF_CELLS.num ∧ f.num ≠ FELT_STATUS.REGION_CELLS.num) :
    (s.raise d src).get f i = s.get f i := by
  refine (State.raise_changesOnly s d src).get f i ?_ n
  simp [sourceKeys, h.1, h.2]

end Sys2Proof.Machine
end

