-- ==== Sys2Proof/Laws/State.lean ====
section
/-!
SUPPORT. What each primitive update of State leaves as it was, field by field, so that no proof unfolds a record update.
-/

namespace Sys2Proof.Machine

set_option Elab.async false

variable (s : State)

/-! ### put -/

@[simp] theorem State.put_ident (f : Field) (i v : Nat) : (s.put f i v).ident = s.ident := rfl
@[simp] theorem State.put_live (f : Field) (i v : Nat) : (s.put f i v).live = s.live := rfl
@[simp] theorem State.put_sects (f : Field) (i v : Nat) : (s.put f i v).sects = s.sects := rfl
@[simp] theorem State.put_latches (f : Field) (i v : Nat) : (s.put f i v).latches = s.latches := rfl
@[simp] theorem State.put_chans (f : Field) (i v : Nat) : (s.put f i v).chans = s.chans := rfl
@[simp] theorem State.put_loader (f : Field) (i v : Nat) : (s.put f i v).loader = s.loader := rfl
@[simp] theorem State.put_slots (f : Field) (i v : Nat) : (s.put f i v).slots = s.slots := rfl
@[simp] theorem State.put_slotBad (f : Field) (i v : Nat) : (s.put f i v).slotBad = s.slotBad := rfl
@[simp] theorem State.put_mram (f : Field) (i v : Nat) : (s.put f i v).mram = s.mram := rfl
@[simp] theorem State.put_cores (f : Field) (i v : Nat) : (s.put f i v).cores = s.cores := rfl
@[simp] theorem State.put_ctxStore (f : Field) (i v : Nat) : (s.put f i v).ctxStore = s.ctxStore := rfl
@[simp] theorem State.put_tweed (f : Field) (i v : Nat) : (s.put f i v).tweed = s.tweed := rfl
@[simp] theorem State.put_rotations (f : Field) (i v : Nat) : (s.put f i v).rotations = s.rotations := rfl
@[simp] theorem State.put_stats (f : Field) (i v : Nat) : (s.put f i v).stats = s.stats := rfl
@[simp] theorem State.put_dev (f : Field) (i v : Nat) : (s.put f i v).dev = s.dev := rfl
@[simp] theorem State.put_perf (f : Field) (i v : Nat) : (s.put f i v).perf = s.perf := rfl
@[simp] theorem State.put_channels (f : Field) (i v : Nat) : (s.put f i v).channels = s.channels := rfl
@[simp] theorem State.put_dieStacks (f : Field) (i v : Nat) : (s.put f i v).dieStacks = s.dieStacks := rfl
@[simp] theorem State.put_clock (f : Field) (i v : Nat) : (s.put f i v).clock = s.clock := rfl
@[simp] theorem State.put_pair (f : Field) (i v : Nat) : (s.put f i v).pair = s.pair := rfl
@[simp] theorem State.put_snap (f : Field) (i v : Nat) : (s.put f i v).snap = s.snap := rfl
@[simp] theorem State.put_dma (f : Field) (i v : Nat) : (s.put f i v).dma = s.dma := rfl
@[simp] theorem State.put_pci (f : Field) (i v : Nat) : (s.put f i v).pci = s.pci := rfl
@[simp] theorem State.put_power (f : Field) (i v : Nat) : (s.put f i v).power = s.power := rfl
@[simp] theorem State.put_supply (f : Field) (i v : Nat) : (s.put f i v).supply = s.supply := rfl
@[simp] theorem State.put_bwAcc (f : Field) (i v : Nat) : (s.put f i v).bwAcc = s.bwAcc := rfl
@[simp] theorem State.put_sets (f : Field) (i v : Nat) : (s.put f i v).sets = s.sets := rfl
@[simp] theorem State.put_trees (f : Field) (i v : Nat) : (s.put f i v).trees = s.trees := rfl
@[simp] theorem State.put_terms (f : Field) (i v : Nat) : (s.put f i v).terms = s.terms := rfl
@[simp] theorem State.put_allocs (f : Field) (i v : Nat) : (s.put f i v).allocs = s.allocs := rfl
@[simp] theorem State.put_resv (f : Field) (i v : Nat) : (s.put f i v).resv = s.resv := rfl
@[simp] theorem State.put_rot (f : Field) (i v : Nat) : (s.put f i v).rot = s.rot := rfl
@[simp] theorem State.put_circs (f : Field) (i v : Nat) : (s.put f i v).circs = s.circs := rfl
@[simp] theorem State.put_grps (f : Field) (i v : Nat) : (s.put f i v).grps = s.grps := rfl
@[simp] theorem State.put_chkSeen (f : Field) (i v : Nat) : (s.put f i v).chkSeen = s.chkSeen := rfl
@[simp] theorem State.put_exact (f : Field) (i v : Nat) : (s.put f i v).exact = s.exact := rfl
@[simp] theorem State.put_tern (f : Field) (i v : Nat) : (s.put f i v).tern = s.tern := rfl
@[simp] theorem State.put_fwd (f : Field) (i v : Nat) : (s.put f i v).fwd = s.fwd := rfl
@[simp] theorem State.put_cache (f : Field) (i v : Nat) : (s.put f i v).cache = s.cache := rfl
@[simp] theorem State.put_notes (f : Field) (i v : Nat) : (s.put f i v).notes = s.notes := rfl
@[simp] theorem State.put_updates (f : Field) (i v : Nat) : (s.put f i v).updates = s.updates := rfl
@[simp] theorem State.put_heldUpdates (f : Field) (i v : Nat) : (s.put f i v).heldUpdates = s.heldUpdates := rfl
@[simp] theorem State.put_lastSeq (f : Field) (i v : Nat) : (s.put f i v).lastSeq = s.lastSeq := rfl
@[simp] theorem State.put_seqLocks (f : Field) (i v : Nat) : (s.put f i v).seqLocks = s.seqLocks := rfl
@[simp] theorem State.put_dieLocks (f : Field) (i v : Nat) : (s.put f i v).dieLocks = s.dieLocks := rfl
@[simp] theorem State.put_ageAt (f : Field) (i v : Nat) : (s.put f i v).ageAt = s.ageAt := rfl
@[simp] theorem State.put_touchSent (f : Field) (i v : Nat) : (s.put f i v).touchSent = s.touchSent := rfl
@[simp] theorem State.put_quotaSaid (f : Field) (i v : Nat) : (s.put f i v).quotaSaid = s.quotaSaid := rfl
@[simp] theorem State.put_ringLost (f : Field) (i v : Nat) : (s.put f i v).ringLost = s.ringLost := rfl
@[simp] theorem State.put_pendSince (f : Field) (i v : Nat) : (s.put f i v).pendSince = s.pendSince := rfl
@[simp] theorem State.put_keys (f : Field) (i v : Nat) : (s.put f i v).keys = s.keys := rfl
@[simp] theorem State.put_loadedAt (f : Field) (i v : Nat) : (s.put f i v).loadedAt = s.loadedAt := rfl
@[simp] theorem State.put_roots (f : Field) (i v : Nat) : (s.put f i v).roots = s.roots := rfl
@[simp] theorem State.put_oldBind (f : Field) (i v : Nat) : (s.put f i v).oldBind = s.oldBind := rfl
@[simp] theorem State.put_switches (f : Field) (i v : Nat) : (s.put f i v).switches = s.switches := rfl
@[simp] theorem State.put_xgemIndex (f : Field) (i v : Nat) : (s.put f i v).xgemIndex = s.xgemIndex := rfl
@[simp] theorem State.put_frags (f : Field) (i v : Nat) : (s.put f i v).frags = s.frags := rfl
@[simp] theorem State.put_keyFrame (f : Field) (i v : Nat) : (s.put f i v).keyFrame = s.keyFrame := rfl
@[simp] theorem State.put_labels (f : Field) (i v : Nat) : (s.put f i v).labels = s.labels := rfl
@[simp] theorem State.put_queues (f : Field) (i v : Nat) : (s.put f i v).queues = s.queues := rfl
@[simp] theorem State.put_qstat (f : Field) (i v : Nat) : (s.put f i v).qstat = s.qstat := rfl
@[simp] theorem State.put_offers (f : Field) (i v : Nat) : (s.put f i v).offers = s.offers := rfl
@[simp] theorem State.put_felt (f : Field) (i v : Nat) : (s.put f i v).felt = s.felt := rfl
@[simp] theorem State.put_drain (f : Field) (i v : Nat) : (s.put f i v).drain = s.drain := rfl
@[simp] theorem State.put_inbox (f : Field) (i v : Nat) : (s.put f i v).inbox = s.inbox := rfl
@[simp] theorem State.put_laneOut (f : Field) (i v : Nat) : (s.put f i v).laneOut = s.laneOut := rfl
@[simp] theorem State.put_cellPos (f : Field) (i v : Nat) : (s.put f i v).cellPos = s.cellPos := rfl
@[simp] theorem State.put_credit (f : Field) (i v : Nat) : (s.put f i v).credit = s.credit := rfl
@[simp] theorem State.put_lanes (f : Field) (i v : Nat) : (s.put f i v).lanes = s.lanes := rfl
@[simp] theorem State.put_owed (f : Field) (i v : Nat) : (s.put f i v).owed = s.owed := rfl
@[simp] theorem State.put_rxPart (f : Field) (i v : Nat) : (s.put f i v).rxPart = s.rxPart := rfl
@[simp] theorem State.put_rxReady (f : Field) (i v : Nat) : (s.put f i v).rxReady = s.rxReady := rfl
@[simp] theorem State.put_oam (f : Field) (i v : Nat) : (s.put f i v).oam = s.oam := rfl
@[simp] theorem State.put_replays (f : Field) (i v : Nat) : (s.put f i v).replays = s.replays := rfl
@[simp] theorem State.put_ceWaiting (f : Field) (i v : Nat) : (s.put f i v).ceWaiting = s.ceWaiting := rfl
@[simp] theorem State.put_elim (f : Field) (i v : Nat) : (s.put f i v).elim = s.elim := rfl
@[simp] theorem State.put_stamps (f : Field) (i v : Nat) : (s.put f i v).stamps = s.stamps := rfl
@[simp] theorem State.put_saidAt (f : Field) (i v : Nat) : (s.put f i v).saidAt = s.saidAt := rfl
@[simp] theorem State.put_netSec (f : Field) (i v : Nat) : (s.put f i v).netSec = s.netSec := rfl
@[simp] theorem State.put_netFrac (f : Field) (i v : Nat) : (s.put f i v).netFrac = s.netFrac := rfl
@[simp] theorem State.put_uses (f : Field) (i v : Nat) : (s.put f i v).uses = s.uses := rfl
@[simp] theorem State.put_outbox (f : Field) (i v : Nat) : (s.put f i v).outbox = s.outbox := rfl
@[simp] theorem State.put_pending (f : Field) (i v : Nat) : (s.put f i v).pending = s.pending := rfl

/-! ### putFlag -/

@[simp] theorem State.putFlag_ident (f : Field) (i : Nat) (b : Bool) : (s.putFlag f i b).ident = s.ident := rfl
@[simp] theorem State.putFlag_live (f : Field) (i : Nat) (b : Bool) : (s.putFlag f i b).live = s.live := rfl
@[simp] theorem State.putFlag_sects (f : Field) (i : Nat) (b : Bool) : (s.putFlag f i b).sects = s.sects := rfl
@[simp] theorem State.putFlag_latches (f : Field) (i : Nat) (b : Bool) : (s.putFlag f i b).latches = s.latches := rfl
@[simp] theorem State.putFlag_chans (f : Field) (i : Nat) (b : Bool) : (s.putFlag f i b).chans = s.chans := rfl
@[simp] theorem State.putFlag_loader (f : Field) (i : Nat) (b : Bool) : (s.putFlag f i b).loader = s.loader := rfl
@[simp] theorem State.putFlag_slots (f : Field) (i : Nat) (b : Bool) : (s.putFlag f i b).slots = s.slots := rfl
@[simp] theorem State.putFlag_slotBad (f : Field) (i : Nat) (b : Bool) : (s.putFlag f i b).slotBad = s.slotBad := rfl
@[simp] theorem State.putFlag_mram (f : Field) (i : Nat) (b : Bool) : (s.putFlag f i b).mram = s.mram := rfl
@[simp] theorem State.putFlag_cores (f : Field) (i : Nat) (b : Bool) : (s.putFlag f i b).cores = s.cores := rfl
@[simp] theorem State.putFlag_ctxStore (f : Field) (i : Nat) (b : Bool) : (s.putFlag f i b).ctxStore = s.ctxStore := rfl
@[simp] theorem State.putFlag_tweed (f : Field) (i : Nat) (b : Bool) : (s.putFlag f i b).tweed = s.tweed := rfl
@[simp] theorem State.putFlag_rotations (f : Field) (i : Nat) (b : Bool) : (s.putFlag f i b).rotations = s.rotations := rfl
@[simp] theorem State.putFlag_stats (f : Field) (i : Nat) (b : Bool) : (s.putFlag f i b).stats = s.stats := rfl
@[simp] theorem State.putFlag_dev (f : Field) (i : Nat) (b : Bool) : (s.putFlag f i b).dev = s.dev := rfl
@[simp] theorem State.putFlag_perf (f : Field) (i : Nat) (b : Bool) : (s.putFlag f i b).perf = s.perf := rfl
@[simp] theorem State.putFlag_channels (f : Field) (i : Nat) (b : Bool) : (s.putFlag f i b).channels = s.channels := rfl
@[simp] theorem State.putFlag_dieStacks (f : Field) (i : Nat) (b : Bool) : (s.putFlag f i b).dieStacks = s.dieStacks := rfl
@[simp] theorem State.putFlag_clock (f : Field) (i : Nat) (b : Bool) : (s.putFlag f i b).clock = s.clock := rfl
@[simp] theorem State.putFlag_pair (f : Field) (i : Nat) (b : Bool) : (s.putFlag f i b).pair = s.pair := rfl
@[simp] theorem State.putFlag_snap (f : Field) (i : Nat) (b : Bool) : (s.putFlag f i b).snap = s.snap := rfl
@[simp] theorem State.putFlag_dma (f : Field) (i : Nat) (b : Bool) : (s.putFlag f i b).dma = s.dma := rfl
@[simp] theorem State.putFlag_pci (f : Field) (i : Nat) (b : Bool) : (s.putFlag f i b).pci = s.pci := rfl
@[simp] theorem State.putFlag_power (f : Field) (i : Nat) (b : Bool) : (s.putFlag f i b).power = s.power := rfl
@[simp] theorem State.putFlag_supply (f : Field) (i : Nat) (b : Bool) : (s.putFlag f i b).supply = s.supply := rfl
@[simp] theorem State.putFlag_bwAcc (f : Field) (i : Nat) (b : Bool) : (s.putFlag f i b).bwAcc = s.bwAcc := rfl
@[simp] theorem State.putFlag_sets (f : Field) (i : Nat) (b : Bool) : (s.putFlag f i b).sets = s.sets := rfl
@[simp] theorem State.putFlag_trees (f : Field) (i : Nat) (b : Bool) : (s.putFlag f i b).trees = s.trees := rfl
@[simp] theorem State.putFlag_terms (f : Field) (i : Nat) (b : Bool) : (s.putFlag f i b).terms = s.terms := rfl
@[simp] theorem State.putFlag_allocs (f : Field) (i : Nat) (b : Bool) : (s.putFlag f i b).allocs = s.allocs := rfl
@[simp] theorem State.putFlag_resv (f : Field) (i : Nat) (b : Bool) : (s.putFlag f i b).resv = s.resv := rfl
@[simp] theorem State.putFlag_rot (f : Field) (i : Nat) (b : Bool) : (s.putFlag f i b).rot = s.rot := rfl
@[simp] theorem State.putFlag_circs (f : Field) (i : Nat) (b : Bool) : (s.putFlag f i b).circs = s.circs := rfl
@[simp] theorem State.putFlag_grps (f : Field) (i : Nat) (b : Bool) : (s.putFlag f i b).grps = s.grps := rfl
@[simp] theorem State.putFlag_chkSeen (f : Field) (i : Nat) (b : Bool) : (s.putFlag f i b).chkSeen = s.chkSeen := rfl
@[simp] theorem State.putFlag_exact (f : Field) (i : Nat) (b : Bool) : (s.putFlag f i b).exact = s.exact := rfl
@[simp] theorem State.putFlag_tern (f : Field) (i : Nat) (b : Bool) : (s.putFlag f i b).tern = s.tern := rfl
@[simp] theorem State.putFlag_fwd (f : Field) (i : Nat) (b : Bool) : (s.putFlag f i b).fwd = s.fwd := rfl
@[simp] theorem State.putFlag_cache (f : Field) (i : Nat) (b : Bool) : (s.putFlag f i b).cache = s.cache := rfl
@[simp] theorem State.putFlag_notes (f : Field) (i : Nat) (b : Bool) : (s.putFlag f i b).notes = s.notes := rfl
@[simp] theorem State.putFlag_updates (f : Field) (i : Nat) (b : Bool) : (s.putFlag f i b).updates = s.updates := rfl
@[simp] theorem State.putFlag_heldUpdates (f : Field) (i : Nat) (b : Bool) : (s.putFlag f i b).heldUpdates = s.heldUpdates := rfl
@[simp] theorem State.putFlag_lastSeq (f : Field) (i : Nat) (b : Bool) : (s.putFlag f i b).lastSeq = s.lastSeq := rfl
@[simp] theorem State.putFlag_seqLocks (f : Field) (i : Nat) (b : Bool) : (s.putFlag f i b).seqLocks = s.seqLocks := rfl
@[simp] theorem State.putFlag_dieLocks (f : Field) (i : Nat) (b : Bool) : (s.putFlag f i b).dieLocks = s.dieLocks := rfl
@[simp] theorem State.putFlag_ageAt (f : Field) (i : Nat) (b : Bool) : (s.putFlag f i b).ageAt = s.ageAt := rfl
@[simp] theorem State.putFlag_touchSent (f : Field) (i : Nat) (b : Bool) : (s.putFlag f i b).touchSent = s.touchSent := rfl
@[simp] theorem State.putFlag_quotaSaid (f : Field) (i : Nat) (b : Bool) : (s.putFlag f i b).quotaSaid = s.quotaSaid := rfl
@[simp] theorem State.putFlag_ringLost (f : Field) (i : Nat) (b : Bool) : (s.putFlag f i b).ringLost = s.ringLost := rfl
@[simp] theorem State.putFlag_pendSince (f : Field) (i : Nat) (b : Bool) : (s.putFlag f i b).pendSince = s.pendSince := rfl
@[simp] theorem State.putFlag_keys (f : Field) (i : Nat) (b : Bool) : (s.putFlag f i b).keys = s.keys := rfl
@[simp] theorem State.putFlag_loadedAt (f : Field) (i : Nat) (b : Bool) : (s.putFlag f i b).loadedAt = s.loadedAt := rfl
@[simp] theorem State.putFlag_roots (f : Field) (i : Nat) (b : Bool) : (s.putFlag f i b).roots = s.roots := rfl
@[simp] theorem State.putFlag_oldBind (f : Field) (i : Nat) (b : Bool) : (s.putFlag f i b).oldBind = s.oldBind := rfl
@[simp] theorem State.putFlag_switches (f : Field) (i : Nat) (b : Bool) : (s.putFlag f i b).switches = s.switches := rfl
@[simp] theorem State.putFlag_xgemIndex (f : Field) (i : Nat) (b : Bool) : (s.putFlag f i b).xgemIndex = s.xgemIndex := rfl
@[simp] theorem State.putFlag_frags (f : Field) (i : Nat) (b : Bool) : (s.putFlag f i b).frags = s.frags := rfl
@[simp] theorem State.putFlag_keyFrame (f : Field) (i : Nat) (b : Bool) : (s.putFlag f i b).keyFrame = s.keyFrame := rfl
@[simp] theorem State.putFlag_labels (f : Field) (i : Nat) (b : Bool) : (s.putFlag f i b).labels = s.labels := rfl
@[simp] theorem State.putFlag_queues (f : Field) (i : Nat) (b : Bool) : (s.putFlag f i b).queues = s.queues := rfl
@[simp] theorem State.putFlag_qstat (f : Field) (i : Nat) (b : Bool) : (s.putFlag f i b).qstat = s.qstat := rfl
@[simp] theorem State.putFlag_offers (f : Field) (i : Nat) (b : Bool) : (s.putFlag f i b).offers = s.offers := rfl
@[simp] theorem State.putFlag_felt (f : Field) (i : Nat) (b : Bool) : (s.putFlag f i b).felt = s.felt := rfl
@[simp] theorem State.putFlag_drain (f : Field) (i : Nat) (b : Bool) : (s.putFlag f i b).drain = s.drain := rfl
@[simp] theorem State.putFlag_inbox (f : Field) (i : Nat) (b : Bool) : (s.putFlag f i b).inbox = s.inbox := rfl
@[simp] theorem State.putFlag_laneOut (f : Field) (i : Nat) (b : Bool) : (s.putFlag f i b).laneOut = s.laneOut := rfl
@[simp] theorem State.putFlag_cellPos (f : Field) (i : Nat) (b : Bool) : (s.putFlag f i b).cellPos = s.cellPos := rfl
@[simp] theorem State.putFlag_credit (f : Field) (i : Nat) (b : Bool) : (s.putFlag f i b).credit = s.credit := rfl
@[simp] theorem State.putFlag_lanes (f : Field) (i : Nat) (b : Bool) : (s.putFlag f i b).lanes = s.lanes := rfl
@[simp] theorem State.putFlag_owed (f : Field) (i : Nat) (b : Bool) : (s.putFlag f i b).owed = s.owed := rfl
@[simp] theorem State.putFlag_rxPart (f : Field) (i : Nat) (b : Bool) : (s.putFlag f i b).rxPart = s.rxPart := rfl
@[simp] theorem State.putFlag_rxReady (f : Field) (i : Nat) (b : Bool) : (s.putFlag f i b).rxReady = s.rxReady := rfl
@[simp] theorem State.putFlag_oam (f : Field) (i : Nat) (b : Bool) : (s.putFlag f i b).oam = s.oam := rfl
@[simp] theorem State.putFlag_replays (f : Field) (i : Nat) (b : Bool) : (s.putFlag f i b).replays = s.replays := rfl
@[simp] theorem State.putFlag_ceWaiting (f : Field) (i : Nat) (b : Bool) : (s.putFlag f i b).ceWaiting = s.ceWaiting := rfl
@[simp] theorem State.putFlag_elim (f : Field) (i : Nat) (b : Bool) : (s.putFlag f i b).elim = s.elim := rfl
@[simp] theorem State.putFlag_stamps (f : Field) (i : Nat) (b : Bool) : (s.putFlag f i b).stamps = s.stamps := rfl
@[simp] theorem State.putFlag_saidAt (f : Field) (i : Nat) (b : Bool) : (s.putFlag f i b).saidAt = s.saidAt := rfl
@[simp] theorem State.putFlag_netSec (f : Field) (i : Nat) (b : Bool) : (s.putFlag f i b).netSec = s.netSec := rfl
@[simp] theorem State.putFlag_netFrac (f : Field) (i : Nat) (b : Bool) : (s.putFlag f i b).netFrac = s.netFrac := rfl
@[simp] theorem State.putFlag_uses (f : Field) (i : Nat) (b : Bool) : (s.putFlag f i b).uses = s.uses := rfl
@[simp] theorem State.putFlag_outbox (f : Field) (i : Nat) (b : Bool) : (s.putFlag f i b).outbox = s.outbox := rfl
@[simp] theorem State.putFlag_pending (f : Field) (i : Nat) (b : Bool) : (s.putFlag f i b).pending = s.pending := rfl

/-! ### addSat -/

@[simp] theorem State.addSat_ident (f : Field) (i v : Nat) : (s.addSat f i v).ident = s.ident := rfl
@[simp] theorem State.addSat_live (f : Field) (i v : Nat) : (s.addSat f i v).live = s.live := rfl
@[simp] theorem State.addSat_sects (f : Field) (i v : Nat) : (s.addSat f i v).sects = s.sects := rfl
@[simp] theorem State.addSat_latches (f : Field) (i v : Nat) : (s.addSat f i v).latches = s.latches := rfl
@[simp] theorem State.addSat_chans (f : Field) (i v : Nat) : (s.addSat f i v).chans = s.chans := rfl
@[simp] theorem State.addSat_loader (f : Field) (i v : Nat) : (s.addSat f i v).loader = s.loader := rfl
@[simp] theorem State.addSat_slots (f : Field) (i v : Nat) : (s.addSat f i v).slots = s.slots := rfl
@[simp] theorem State.addSat_slotBad (f : Field) (i v : Nat) : (s.addSat f i v).slotBad = s.slotBad := rfl
@[simp] theorem State.addSat_mram (f : Field) (i v : Nat) : (s.addSat f i v).mram = s.mram := rfl
@[simp] theorem State.addSat_cores (f : Field) (i v : Nat) : (s.addSat f i v).cores = s.cores := rfl
@[simp] theorem State.addSat_ctxStore (f : Field) (i v : Nat) : (s.addSat f i v).ctxStore = s.ctxStore := rfl
@[simp] theorem State.addSat_tweed (f : Field) (i v : Nat) : (s.addSat f i v).tweed = s.tweed := rfl
@[simp] theorem State.addSat_rotations (f : Field) (i v : Nat) : (s.addSat f i v).rotations = s.rotations := rfl
@[simp] theorem State.addSat_stats (f : Field) (i v : Nat) : (s.addSat f i v).stats = s.stats := rfl
@[simp] theorem State.addSat_dev (f : Field) (i v : Nat) : (s.addSat f i v).dev = s.dev := rfl
@[simp] theorem State.addSat_perf (f : Field) (i v : Nat) : (s.addSat f i v).perf = s.perf := rfl
@[simp] theorem State.addSat_channels (f : Field) (i v : Nat) : (s.addSat f i v).channels = s.channels := rfl
@[simp] theorem State.addSat_dieStacks (f : Field) (i v : Nat) : (s.addSat f i v).dieStacks = s.dieStacks := rfl
@[simp] theorem State.addSat_clock (f : Field) (i v : Nat) : (s.addSat f i v).clock = s.clock := rfl
@[simp] theorem State.addSat_pair (f : Field) (i v : Nat) : (s.addSat f i v).pair = s.pair := rfl
@[simp] theorem State.addSat_snap (f : Field) (i v : Nat) : (s.addSat f i v).snap = s.snap := rfl
@[simp] theorem State.addSat_dma (f : Field) (i v : Nat) : (s.addSat f i v).dma = s.dma := rfl
@[simp] theorem State.addSat_pci (f : Field) (i v : Nat) : (s.addSat f i v).pci = s.pci := rfl
@[simp] theorem State.addSat_power (f : Field) (i v : Nat) : (s.addSat f i v).power = s.power := rfl
@[simp] theorem State.addSat_supply (f : Field) (i v : Nat) : (s.addSat f i v).supply = s.supply := rfl
@[simp] theorem State.addSat_bwAcc (f : Field) (i v : Nat) : (s.addSat f i v).bwAcc = s.bwAcc := rfl
@[simp] theorem State.addSat_sets (f : Field) (i v : Nat) : (s.addSat f i v).sets = s.sets := rfl
@[simp] theorem State.addSat_trees (f : Field) (i v : Nat) : (s.addSat f i v).trees = s.trees := rfl
@[simp] theorem State.addSat_terms (f : Field) (i v : Nat) : (s.addSat f i v).terms = s.terms := rfl
@[simp] theorem State.addSat_allocs (f : Field) (i v : Nat) : (s.addSat f i v).allocs = s.allocs := rfl
@[simp] theorem State.addSat_resv (f : Field) (i v : Nat) : (s.addSat f i v).resv = s.resv := rfl
@[simp] theorem State.addSat_rot (f : Field) (i v : Nat) : (s.addSat f i v).rot = s.rot := rfl
@[simp] theorem State.addSat_circs (f : Field) (i v : Nat) : (s.addSat f i v).circs = s.circs := rfl
@[simp] theorem State.addSat_grps (f : Field) (i v : Nat) : (s.addSat f i v).grps = s.grps := rfl
@[simp] theorem State.addSat_chkSeen (f : Field) (i v : Nat) : (s.addSat f i v).chkSeen = s.chkSeen := rfl
@[simp] theorem State.addSat_exact (f : Field) (i v : Nat) : (s.addSat f i v).exact = s.exact := rfl
@[simp] theorem State.addSat_tern (f : Field) (i v : Nat) : (s.addSat f i v).tern = s.tern := rfl
@[simp] theorem State.addSat_fwd (f : Field) (i v : Nat) : (s.addSat f i v).fwd = s.fwd := rfl
@[simp] theorem State.addSat_cache (f : Field) (i v : Nat) : (s.addSat f i v).cache = s.cache := rfl
@[simp] theorem State.addSat_notes (f : Field) (i v : Nat) : (s.addSat f i v).notes = s.notes := rfl
@[simp] theorem State.addSat_updates (f : Field) (i v : Nat) : (s.addSat f i v).updates = s.updates := rfl
@[simp] theorem State.addSat_heldUpdates (f : Field) (i v : Nat) : (s.addSat f i v).heldUpdates = s.heldUpdates := rfl
@[simp] theorem State.addSat_lastSeq (f : Field) (i v : Nat) : (s.addSat f i v).lastSeq = s.lastSeq := rfl
@[simp] theorem State.addSat_seqLocks (f : Field) (i v : Nat) : (s.addSat f i v).seqLocks = s.seqLocks := rfl
@[simp] theorem State.addSat_dieLocks (f : Field) (i v : Nat) : (s.addSat f i v).dieLocks = s.dieLocks := rfl
@[simp] theorem State.addSat_ageAt (f : Field) (i v : Nat) : (s.addSat f i v).ageAt = s.ageAt := rfl
@[simp] theorem State.addSat_touchSent (f : Field) (i v : Nat) : (s.addSat f i v).touchSent = s.touchSent := rfl
@[simp] theorem State.addSat_quotaSaid (f : Field) (i v : Nat) : (s.addSat f i v).quotaSaid = s.quotaSaid := rfl
@[simp] theorem State.addSat_ringLost (f : Field) (i v : Nat) : (s.addSat f i v).ringLost = s.ringLost := rfl
@[simp] theorem State.addSat_pendSince (f : Field) (i v : Nat) : (s.addSat f i v).pendSince = s.pendSince := rfl
@[simp] theorem State.addSat_keys (f : Field) (i v : Nat) : (s.addSat f i v).keys = s.keys := rfl
@[simp] theorem State.addSat_loadedAt (f : Field) (i v : Nat) : (s.addSat f i v).loadedAt = s.loadedAt := rfl
@[simp] theorem State.addSat_roots (f : Field) (i v : Nat) : (s.addSat f i v).roots = s.roots := rfl
@[simp] theorem State.addSat_oldBind (f : Field) (i v : Nat) : (s.addSat f i v).oldBind = s.oldBind := rfl
@[simp] theorem State.addSat_switches (f : Field) (i v : Nat) : (s.addSat f i v).switches = s.switches := rfl
@[simp] theorem State.addSat_xgemIndex (f : Field) (i v : Nat) : (s.addSat f i v).xgemIndex = s.xgemIndex := rfl
@[simp] theorem State.addSat_frags (f : Field) (i v : Nat) : (s.addSat f i v).frags = s.frags := rfl
@[simp] theorem State.addSat_keyFrame (f : Field) (i v : Nat) : (s.addSat f i v).keyFrame = s.keyFrame := rfl
@[simp] theorem State.addSat_labels (f : Field) (i v : Nat) : (s.addSat f i v).labels = s.labels := rfl
@[simp] theorem State.addSat_queues (f : Field) (i v : Nat) : (s.addSat f i v).queues = s.queues := rfl
@[simp] theorem State.addSat_qstat (f : Field) (i v : Nat) : (s.addSat f i v).qstat = s.qstat := rfl
@[simp] theorem State.addSat_offers (f : Field) (i v : Nat) : (s.addSat f i v).offers = s.offers := rfl
@[simp] theorem State.addSat_felt (f : Field) (i v : Nat) : (s.addSat f i v).felt = s.felt := rfl
@[simp] theorem State.addSat_drain (f : Field) (i v : Nat) : (s.addSat f i v).drain = s.drain := rfl
@[simp] theorem State.addSat_inbox (f : Field) (i v : Nat) : (s.addSat f i v).inbox = s.inbox := rfl
@[simp] theorem State.addSat_laneOut (f : Field) (i v : Nat) : (s.addSat f i v).laneOut = s.laneOut := rfl
@[simp] theorem State.addSat_cellPos (f : Field) (i v : Nat) : (s.addSat f i v).cellPos = s.cellPos := rfl
@[simp] theorem State.addSat_credit (f : Field) (i v : Nat) : (s.addSat f i v).credit = s.credit := rfl
@[simp] theorem State.addSat_lanes (f : Field) (i v : Nat) : (s.addSat f i v).lanes = s.lanes := rfl
@[simp] theorem State.addSat_owed (f : Field) (i v : Nat) : (s.addSat f i v).owed = s.owed := rfl
@[simp] theorem State.addSat_rxPart (f : Field) (i v : Nat) : (s.addSat f i v).rxPart = s.rxPart := rfl
@[simp] theorem State.addSat_rxReady (f : Field) (i v : Nat) : (s.addSat f i v).rxReady = s.rxReady := rfl
@[simp] theorem State.addSat_oam (f : Field) (i v : Nat) : (s.addSat f i v).oam = s.oam := rfl
@[simp] theorem State.addSat_replays (f : Field) (i v : Nat) : (s.addSat f i v).replays = s.replays := rfl
@[simp] theorem State.addSat_ceWaiting (f : Field) (i v : Nat) : (s.addSat f i v).ceWaiting = s.ceWaiting := rfl
@[simp] theorem State.addSat_elim (f : Field) (i v : Nat) : (s.addSat f i v).elim = s.elim := rfl
@[simp] theorem State.addSat_stamps (f : Field) (i v : Nat) : (s.addSat f i v).stamps = s.stamps := rfl
@[simp] theorem State.addSat_saidAt (f : Field) (i v : Nat) : (s.addSat f i v).saidAt = s.saidAt := rfl
@[simp] theorem State.addSat_netSec (f : Field) (i v : Nat) : (s.addSat f i v).netSec = s.netSec := rfl
@[simp] theorem State.addSat_netFrac (f : Field) (i v : Nat) : (s.addSat f i v).netFrac = s.netFrac := rfl
@[simp] theorem State.addSat_uses (f : Field) (i v : Nat) : (s.addSat f i v).uses = s.uses := rfl
@[simp] theorem State.addSat_outbox (f : Field) (i v : Nat) : (s.addSat f i v).outbox = s.outbox := rfl
@[simp] theorem State.addSat_pending (f : Field) (i v : Nat) : (s.addSat f i v).pending = s.pending := rfl

/-! ### addWrap -/

@[simp] theorem State.addWrap_ident (f : Field) (i v : Nat) : (s.addWrap f i v).ident = s.ident := rfl
@[simp] theorem State.addWrap_live (f : Field) (i v : Nat) : (s.addWrap f i v).live = s.live := rfl
@[simp] theorem State.addWrap_sects (f : Field) (i v : Nat) : (s.addWrap f i v).sects = s.sects := rfl
@[simp] theorem State.addWrap_latches (f : Field) (i v : Nat) : (s.addWrap f i v).latches = s.latches := rfl
@[simp] theorem State.addWrap_chans (f : Field) (i v : Nat) : (s.addWrap f i v).chans = s.chans := rfl
@[simp] theorem State.addWrap_loader (f : Field) (i v : Nat) : (s.addWrap f i v).loader = s.loader := rfl
@[simp] theorem State.addWrap_slots (f : Field) (i v : Nat) : (s.addWrap f i v).slots = s.slots := rfl
@[simp] theorem State.addWrap_slotBad (f : Field) (i v : Nat) : (s.addWrap f i v).slotBad = s.slotBad := rfl
@[simp] theorem State.addWrap_mram (f : Field) (i v : Nat) : (s.addWrap f i v).mram = s.mram := rfl
@[simp] theorem State.addWrap_cores (f : Field) (i v : Nat) : (s.addWrap f i v).cores = s.cores := rfl
@[simp] theorem State.addWrap_ctxStore (f : Field) (i v : Nat) : (s.addWrap f i v).ctxStore = s.ctxStore := rfl
@[simp] theorem State.addWrap_tweed (f : Field) (i v : Nat) : (s.addWrap f i v).tweed = s.tweed := rfl
@[simp] theorem State.addWrap_rotations (f : Field) (i v : Nat) : (s.addWrap f i v).rotations = s.rotations := rfl
@[simp] theorem State.addWrap_stats (f : Field) (i v : Nat) : (s.addWrap f i v).stats = s.stats := rfl
@[simp] theorem State.addWrap_dev (f : Field) (i v : Nat) : (s.addWrap f i v).dev = s.dev := rfl
@[simp] theorem State.addWrap_perf (f : Field) (i v : Nat) : (s.addWrap f i v).perf = s.perf := rfl
@[simp] theorem State.addWrap_channels (f : Field) (i v : Nat) : (s.addWrap f i v).channels = s.channels := rfl
@[simp] theorem State.addWrap_dieStacks (f : Field) (i v : Nat) : (s.addWrap f i v).dieStacks = s.dieStacks := rfl
@[simp] theorem State.addWrap_clock (f : Field) (i v : Nat) : (s.addWrap f i v).clock = s.clock := rfl
@[simp] theorem State.addWrap_pair (f : Field) (i v : Nat) : (s.addWrap f i v).pair = s.pair := rfl
@[simp] theorem State.addWrap_snap (f : Field) (i v : Nat) : (s.addWrap f i v).snap = s.snap := rfl
@[simp] theorem State.addWrap_dma (f : Field) (i v : Nat) : (s.addWrap f i v).dma = s.dma := rfl
@[simp] theorem State.addWrap_pci (f : Field) (i v : Nat) : (s.addWrap f i v).pci = s.pci := rfl
@[simp] theorem State.addWrap_power (f : Field) (i v : Nat) : (s.addWrap f i v).power = s.power := rfl
@[simp] theorem State.addWrap_supply (f : Field) (i v : Nat) : (s.addWrap f i v).supply = s.supply := rfl
@[simp] theorem State.addWrap_bwAcc (f : Field) (i v : Nat) : (s.addWrap f i v).bwAcc = s.bwAcc := rfl
@[simp] theorem State.addWrap_sets (f : Field) (i v : Nat) : (s.addWrap f i v).sets = s.sets := rfl
@[simp] theorem State.addWrap_trees (f : Field) (i v : Nat) : (s.addWrap f i v).trees = s.trees := rfl
@[simp] theorem State.addWrap_terms (f : Field) (i v : Nat) : (s.addWrap f i v).terms = s.terms := rfl
@[simp] theorem State.addWrap_allocs (f : Field) (i v : Nat) : (s.addWrap f i v).allocs = s.allocs := rfl
@[simp] theorem State.addWrap_resv (f : Field) (i v : Nat) : (s.addWrap f i v).resv = s.resv := rfl
@[simp] theorem State.addWrap_rot (f : Field) (i v : Nat) : (s.addWrap f i v).rot = s.rot := rfl
@[simp] theorem State.addWrap_circs (f : Field) (i v : Nat) : (s.addWrap f i v).circs = s.circs := rfl
@[simp] theorem State.addWrap_grps (f : Field) (i v : Nat) : (s.addWrap f i v).grps = s.grps := rfl
@[simp] theorem State.addWrap_chkSeen (f : Field) (i v : Nat) : (s.addWrap f i v).chkSeen = s.chkSeen := rfl
@[simp] theorem State.addWrap_exact (f : Field) (i v : Nat) : (s.addWrap f i v).exact = s.exact := rfl
@[simp] theorem State.addWrap_tern (f : Field) (i v : Nat) : (s.addWrap f i v).tern = s.tern := rfl
@[simp] theorem State.addWrap_fwd (f : Field) (i v : Nat) : (s.addWrap f i v).fwd = s.fwd := rfl
@[simp] theorem State.addWrap_cache (f : Field) (i v : Nat) : (s.addWrap f i v).cache = s.cache := rfl
@[simp] theorem State.addWrap_notes (f : Field) (i v : Nat) : (s.addWrap f i v).notes = s.notes := rfl
@[simp] theorem State.addWrap_updates (f : Field) (i v : Nat) : (s.addWrap f i v).updates = s.updates := rfl
@[simp] theorem State.addWrap_heldUpdates (f : Field) (i v : Nat) : (s.addWrap f i v).heldUpdates = s.heldUpdates := rfl
@[simp] theorem State.addWrap_lastSeq (f : Field) (i v : Nat) : (s.addWrap f i v).lastSeq = s.lastSeq := rfl
@[simp] theorem State.addWrap_seqLocks (f : Field) (i v : Nat) : (s.addWrap f i v).seqLocks = s.seqLocks := rfl
@[simp] theorem State.addWrap_dieLocks (f : Field) (i v : Nat) : (s.addWrap f i v).dieLocks = s.dieLocks := rfl
@[simp] theorem State.addWrap_ageAt (f : Field) (i v : Nat) : (s.addWrap f i v).ageAt = s.ageAt := rfl
@[simp] theorem State.addWrap_touchSent (f : Field) (i v : Nat) : (s.addWrap f i v).touchSent = s.touchSent := rfl
@[simp] theorem State.addWrap_quotaSaid (f : Field) (i v : Nat) : (s.addWrap f i v).quotaSaid = s.quotaSaid := rfl
@[simp] theorem State.addWrap_ringLost (f : Field) (i v : Nat) : (s.addWrap f i v).ringLost = s.ringLost := rfl
@[simp] theorem State.addWrap_pendSince (f : Field) (i v : Nat) : (s.addWrap f i v).pendSince = s.pendSince := rfl
@[simp] theorem State.addWrap_keys (f : Field) (i v : Nat) : (s.addWrap f i v).keys = s.keys := rfl
@[simp] theorem State.addWrap_loadedAt (f : Field) (i v : Nat) : (s.addWrap f i v).loadedAt = s.loadedAt := rfl
@[simp] theorem State.addWrap_roots (f : Field) (i v : Nat) : (s.addWrap f i v).roots = s.roots := rfl
@[simp] theorem State.addWrap_oldBind (f : Field) (i v : Nat) : (s.addWrap f i v).oldBind = s.oldBind := rfl
@[simp] theorem State.addWrap_switches (f : Field) (i v : Nat) : (s.addWrap f i v).switches = s.switches := rfl
@[simp] theorem State.addWrap_xgemIndex (f : Field) (i v : Nat) : (s.addWrap f i v).xgemIndex = s.xgemIndex := rfl
@[simp] theorem State.addWrap_frags (f : Field) (i v : Nat) : (s.addWrap f i v).frags = s.frags := rfl
@[simp] theorem State.addWrap_keyFrame (f : Field) (i v : Nat) : (s.addWrap f i v).keyFrame = s.keyFrame := rfl
@[simp] theorem State.addWrap_labels (f : Field) (i v : Nat) : (s.addWrap f i v).labels = s.labels := rfl
@[simp] theorem State.addWrap_queues (f : Field) (i v : Nat) : (s.addWrap f i v).queues = s.queues := rfl
@[simp] theorem State.addWrap_qstat (f : Field) (i v : Nat) : (s.addWrap f i v).qstat = s.qstat := rfl
@[simp] theorem State.addWrap_offers (f : Field) (i v : Nat) : (s.addWrap f i v).offers = s.offers := rfl
@[simp] theorem State.addWrap_felt (f : Field) (i v : Nat) : (s.addWrap f i v).felt = s.felt := rfl
@[simp] theorem State.addWrap_drain (f : Field) (i v : Nat) : (s.addWrap f i v).drain = s.drain := rfl
@[simp] theorem State.addWrap_inbox (f : Field) (i v : Nat) : (s.addWrap f i v).inbox = s.inbox := rfl
@[simp] theorem State.addWrap_laneOut (f : Field) (i v : Nat) : (s.addWrap f i v).laneOut = s.laneOut := rfl
@[simp] theorem State.addWrap_cellPos (f : Field) (i v : Nat) : (s.addWrap f i v).cellPos = s.cellPos := rfl
@[simp] theorem State.addWrap_credit (f : Field) (i v : Nat) : (s.addWrap f i v).credit = s.credit := rfl
@[simp] theorem State.addWrap_lanes (f : Field) (i v : Nat) : (s.addWrap f i v).lanes = s.lanes := rfl
@[simp] theorem State.addWrap_owed (f : Field) (i v : Nat) : (s.addWrap f i v).owed = s.owed := rfl
@[simp] theorem State.addWrap_rxPart (f : Field) (i v : Nat) : (s.addWrap f i v).rxPart = s.rxPart := rfl
@[simp] theorem State.addWrap_rxReady (f : Field) (i v : Nat) : (s.addWrap f i v).rxReady = s.rxReady := rfl
@[simp] theorem State.addWrap_oam (f : Field) (i v : Nat) : (s.addWrap f i v).oam = s.oam := rfl
@[simp] theorem State.addWrap_replays (f : Field) (i v : Nat) : (s.addWrap f i v).replays = s.replays := rfl
@[simp] theorem State.addWrap_ceWaiting (f : Field) (i v : Nat) : (s.addWrap f i v).ceWaiting = s.ceWaiting := rfl
@[simp] theorem State.addWrap_elim (f : Field) (i v : Nat) : (s.addWrap f i v).elim = s.elim := rfl
@[simp] theorem State.addWrap_stamps (f : Field) (i v : Nat) : (s.addWrap f i v).stamps = s.stamps := rfl
@[simp] theorem State.addWrap_saidAt (f : Field) (i v : Nat) : (s.addWrap f i v).saidAt = s.saidAt := rfl
@[simp] theorem State.addWrap_netSec (f : Field) (i v : Nat) : (s.addWrap f i v).netSec = s.netSec := rfl
@[simp] theorem State.addWrap_netFrac (f : Field) (i v : Nat) : (s.addWrap f i v).netFrac = s.netFrac := rfl
@[simp] theorem State.addWrap_uses (f : Field) (i v : Nat) : (s.addWrap f i v).uses = s.uses := rfl
@[simp] theorem State.addWrap_outbox (f : Field) (i v : Nat) : (s.addWrap f i v).outbox = s.outbox := rfl
@[simp] theorem State.addWrap_pending (f : Field) (i v : Nat) : (s.addWrap f i v).pending = s.pending := rfl

/-! ### putBit -/

@[simp] theorem State.putBit_ident (f : Field) (i v : Nat) : (s.putBit f i v).ident = s.ident := rfl
@[simp] theorem State.putBit_live (f : Field) (i v : Nat) : (s.putBit f i v).live = s.live := rfl
@[simp] theorem State.putBit_sects (f : Field) (i v : Nat) : (s.putBit f i v).sects = s.sects := rfl
@[simp] theorem State.putBit_latches (f : Field) (i v : Nat) : (s.putBit f i v).latches = s.latches := rfl
@[simp] theorem State.putBit_chans (f : Field) (i v : Nat) : (s.putBit f i v).chans = s.chans := rfl
@[simp] theorem State.putBit_loader (f : Field) (i v : Nat) : (s.putBit f i v).loader = s.loader := rfl
@[simp] theorem State.putBit_slots (f : Field) (i v : Nat) : (s.putBit f i v).slots = s.slots := rfl
@[simp] theorem State.putBit_slotBad (f : Field) (i v : Nat) : (s.putBit f i v).slotBad = s.slotBad := rfl
@[simp] theorem State.putBit_mram (f : Field) (i v : Nat) : (s.putBit f i v).mram = s.mram := rfl
@[simp] theorem State.putBit_cores (f : Field) (i v : Nat) : (s.putBit f i v).cores = s.cores := rfl
@[simp] theorem State.putBit_ctxStore (f : Field) (i v : Nat) : (s.putBit f i v).ctxStore = s.ctxStore := rfl
@[simp] theorem State.putBit_tweed (f : Field) (i v : Nat) : (s.putBit f i v).tweed = s.tweed := rfl
@[simp] theorem State.putBit_rotations (f : Field) (i v : Nat) : (s.putBit f i v).rotations = s.rotations := rfl
@[simp] theorem State.putBit_stats (f : Field) (i v : Nat) : (s.putBit f i v).stats = s.stats := rfl
@[simp] theorem State.putBit_dev (f : Field) (i v : Nat) : (s.putBit f i v).dev = s.dev := rfl
@[simp] theorem State.putBit_perf (f : Field) (i v : Nat) : (s.putBit f i v).perf = s.perf := rfl
@[simp] theorem State.putBit_channels (f : Field) (i v : Nat) : (s.putBit f i v).channels = s.channels := rfl
@[simp] theorem State.putBit_dieStacks (f : Field) (i v : Nat) : (s.putBit f i v).dieStacks = s.dieStacks := rfl
@[simp] theorem State.putBit_clock (f : Field) (i v : Nat) : (s.putBit f i v).clock = s.clock := rfl
@[simp] theorem State.putBit_pair (f : Field) (i v : Nat) : (s.putBit f i v).pair = s.pair := rfl
@[simp] theorem State.putBit_snap (f : Field) (i v : Nat) : (s.putBit f i v).snap = s.snap := rfl
@[simp] theorem State.putBit_dma (f : Field) (i v : Nat) : (s.putBit f i v).dma = s.dma := rfl
@[simp] theorem State.putBit_pci (f : Field) (i v : Nat) : (s.putBit f i v).pci = s.pci := rfl
@[simp] theorem State.putBit_power (f : Field) (i v : Nat) : (s.putBit f i v).power = s.power := rfl
@[simp] theorem State.putBit_supply (f : Field) (i v : Nat) : (s.putBit f i v).supply = s.supply := rfl
@[simp] theorem State.putBit_bwAcc (f : Field) (i v : Nat) : (s.putBit f i v).bwAcc = s.bwAcc := rfl
@[simp] theorem State.putBit_sets (f : Field) (i v : Nat) : (s.putBit f i v).sets = s.sets := rfl
@[simp] theorem State.putBit_trees (f : Field) (i v : Nat) : (s.putBit f i v).trees = s.trees := rfl
@[simp] theorem State.putBit_terms (f : Field) (i v : Nat) : (s.putBit f i v).terms = s.terms := rfl
@[simp] theorem State.putBit_allocs (f : Field) (i v : Nat) : (s.putBit f i v).allocs = s.allocs := rfl
@[simp] theorem State.putBit_resv (f : Field) (i v : Nat) : (s.putBit f i v).resv = s.resv := rfl
@[simp] theorem State.putBit_rot (f : Field) (i v : Nat) : (s.putBit f i v).rot = s.rot := rfl
@[simp] theorem State.putBit_circs (f : Field) (i v : Nat) : (s.putBit f i v).circs = s.circs := rfl
@[simp] theorem State.putBit_grps (f : Field) (i v : Nat) : (s.putBit f i v).grps = s.grps := rfl
@[simp] theorem State.putBit_chkSeen (f : Field) (i v : Nat) : (s.putBit f i v).chkSeen = s.chkSeen := rfl
@[simp] theorem State.putBit_exact (f : Field) (i v : Nat) : (s.putBit f i v).exact = s.exact := rfl
@[simp] theorem State.putBit_tern (f : Field) (i v : Nat) : (s.putBit f i v).tern = s.tern := rfl
@[simp] theorem State.putBit_fwd (f : Field) (i v : Nat) : (s.putBit f i v).fwd = s.fwd := rfl
@[simp] theorem State.putBit_cache (f : Field) (i v : Nat) : (s.putBit f i v).cache = s.cache := rfl
@[simp] theorem State.putBit_notes (f : Field) (i v : Nat) : (s.putBit f i v).notes = s.notes := rfl
@[simp] theorem State.putBit_updates (f : Field) (i v : Nat) : (s.putBit f i v).updates = s.updates := rfl
@[simp] theorem State.putBit_heldUpdates (f : Field) (i v : Nat) : (s.putBit f i v).heldUpdates = s.heldUpdates := rfl
@[simp] theorem State.putBit_lastSeq (f : Field) (i v : Nat) : (s.putBit f i v).lastSeq = s.lastSeq := rfl
@[simp] theorem State.putBit_seqLocks (f : Field) (i v : Nat) : (s.putBit f i v).seqLocks = s.seqLocks := rfl
@[simp] theorem State.putBit_dieLocks (f : Field) (i v : Nat) : (s.putBit f i v).dieLocks = s.dieLocks := rfl
@[simp] theorem State.putBit_ageAt (f : Field) (i v : Nat) : (s.putBit f i v).ageAt = s.ageAt := rfl
@[simp] theorem State.putBit_touchSent (f : Field) (i v : Nat) : (s.putBit f i v).touchSent = s.touchSent := rfl
@[simp] theorem State.putBit_quotaSaid (f : Field) (i v : Nat) : (s.putBit f i v).quotaSaid = s.quotaSaid := rfl
@[simp] theorem State.putBit_ringLost (f : Field) (i v : Nat) : (s.putBit f i v).ringLost = s.ringLost := rfl
@[simp] theorem State.putBit_pendSince (f : Field) (i v : Nat) : (s.putBit f i v).pendSince = s.pendSince := rfl
@[simp] theorem State.putBit_keys (f : Field) (i v : Nat) : (s.putBit f i v).keys = s.keys := rfl
@[simp] theorem State.putBit_loadedAt (f : Field) (i v : Nat) : (s.putBit f i v).loadedAt = s.loadedAt := rfl
@[simp] theorem State.putBit_roots (f : Field) (i v : Nat) : (s.putBit f i v).roots = s.roots := rfl
@[simp] theorem State.putBit_oldBind (f : Field) (i v : Nat) : (s.putBit f i v).oldBind = s.oldBind := rfl
@[simp] theorem State.putBit_switches (f : Field) (i v : Nat) : (s.putBit f i v).switches = s.switches := rfl
@[simp] theorem State.putBit_xgemIndex (f : Field) (i v : Nat) : (s.putBit f i v).xgemIndex = s.xgemIndex := rfl
@[simp] theorem State.putBit_frags (f : Field) (i v : Nat) : (s.putBit f i v).frags = s.frags := rfl
@[simp] theorem State.putBit_keyFrame (f : Field) (i v : Nat) : (s.putBit f i v).keyFrame = s.keyFrame := rfl
@[simp] theorem State.putBit_labels (f : Field) (i v : Nat) : (s.putBit f i v).labels = s.labels := rfl
@[simp] theorem State.putBit_queues (f : Field) (i v : Nat) : (s.putBit f i v).queues = s.queues := rfl
@[simp] theorem State.putBit_qstat (f : Field) (i v : Nat) : (s.putBit f i v).qstat = s.qstat := rfl
@[simp] theorem State.putBit_offers (f : Field) (i v : Nat) : (s.putBit f i v).offers = s.offers := rfl
@[simp] theorem State.putBit_felt (f : Field) (i v : Nat) : (s.putBit f i v).felt = s.felt := rfl
@[simp] theorem State.putBit_drain (f : Field) (i v : Nat) : (s.putBit f i v).drain = s.drain := rfl
@[simp] theorem State.putBit_inbox (f : Field) (i v : Nat) : (s.putBit f i v).inbox = s.inbox := rfl
@[simp] theorem State.putBit_laneOut (f : Field) (i v : Nat) : (s.putBit f i v).laneOut = s.laneOut := rfl
@[simp] theorem State.putBit_cellPos (f : Field) (i v : Nat) : (s.putBit f i v).cellPos = s.cellPos := rfl
@[simp] theorem State.putBit_credit (f : Field) (i v : Nat) : (s.putBit f i v).credit = s.credit := rfl
@[simp] theorem State.putBit_lanes (f : Field) (i v : Nat) : (s.putBit f i v).lanes = s.lanes := rfl
@[simp] theorem State.putBit_owed (f : Field) (i v : Nat) : (s.putBit f i v).owed = s.owed := rfl
@[simp] theorem State.putBit_rxPart (f : Field) (i v : Nat) : (s.putBit f i v).rxPart = s.rxPart := rfl
@[simp] theorem State.putBit_rxReady (f : Field) (i v : Nat) : (s.putBit f i v).rxReady = s.rxReady := rfl
@[simp] theorem State.putBit_oam (f : Field) (i v : Nat) : (s.putBit f i v).oam = s.oam := rfl
@[simp] theorem State.putBit_replays (f : Field) (i v : Nat) : (s.putBit f i v).replays = s.replays := rfl
@[simp] theorem State.putBit_ceWaiting (f : Field) (i v : Nat) : (s.putBit f i v).ceWaiting = s.ceWaiting := rfl
@[simp] theorem State.putBit_elim (f : Field) (i v : Nat) : (s.putBit f i v).elim = s.elim := rfl
@[simp] theorem State.putBit_stamps (f : Field) (i v : Nat) : (s.putBit f i v).stamps = s.stamps := rfl
@[simp] theorem State.putBit_saidAt (f : Field) (i v : Nat) : (s.putBit f i v).saidAt = s.saidAt := rfl
@[simp] theorem State.putBit_netSec (f : Field) (i v : Nat) : (s.putBit f i v).netSec = s.netSec := rfl
@[simp] theorem State.putBit_netFrac (f : Field) (i v : Nat) : (s.putBit f i v).netFrac = s.netFrac := rfl
@[simp] theorem State.putBit_uses (f : Field) (i v : Nat) : (s.putBit f i v).uses = s.uses := rfl
@[simp] theorem State.putBit_outbox (f : Field) (i v : Nat) : (s.putBit f i v).outbox = s.outbox := rfl
@[simp] theorem State.putBit_pending (f : Field) (i v : Nat) : (s.putBit f i v).pending = s.pending := rfl

/-! ### clearField -/

@[simp] theorem State.clearField_ident (f : Field) : (s.clearField f).ident = s.ident := rfl
@[simp] theorem State.clearField_live (f : Field) : (s.clearField f).live = s.live := rfl
@[simp] theorem State.clearField_sects (f : Field) : (s.clearField f).sects = s.sects := rfl
@[simp] theorem State.clearField_latches (f : Field) : (s.clearField f).latches = s.latches := rfl
@[simp] theorem State.clearField_chans (f : Field) : (s.clearField f).chans = s.chans := rfl
@[simp] theorem State.clearField_loader (f : Field) : (s.clearField f).loader = s.loader := rfl
@[simp] theorem State.clearField_slots (f : Field) : (s.clearField f).slots = s.slots := rfl
@[simp] theorem State.clearField_slotBad (f : Field) : (s.clearField f).slotBad = s.slotBad := rfl
@[simp] theorem State.clearField_mram (f : Field) : (s.clearField f).mram = s.mram := rfl
@[simp] theorem State.clearField_cores (f : Field) : (s.clearField f).cores = s.cores := rfl
@[simp] theorem State.clearField_ctxStore (f : Field) : (s.clearField f).ctxStore = s.ctxStore := rfl
@[simp] theorem State.clearField_tweed (f : Field) : (s.clearField f).tweed = s.tweed := rfl
@[simp] theorem State.clearField_rotations (f : Field) : (s.clearField f).rotations = s.rotations := rfl
@[simp] theorem State.clearField_stats (f : Field) : (s.clearField f).stats = s.stats := rfl
@[simp] theorem State.clearField_dev (f : Field) : (s.clearField f).dev = s.dev := rfl
@[simp] theorem State.clearField_perf (f : Field) : (s.clearField f).perf = s.perf := rfl
@[simp] theorem State.clearField_channels (f : Field) : (s.clearField f).channels = s.channels := rfl
@[simp] theorem State.clearField_dieStacks (f : Field) : (s.clearField f).dieStacks = s.dieStacks := rfl
@[simp] theorem State.clearField_clock (f : Field) : (s.clearField f).clock = s.clock := rfl
@[simp] theorem State.clearField_pair (f : Field) : (s.clearField f).pair = s.pair := rfl
@[simp] theorem State.clearField_snap (f : Field) : (s.clearField f).snap = s.snap := rfl
@[simp] theorem State.clearField_dma (f : Field) : (s.clearField f).dma = s.dma := rfl
@[simp] theorem State.clearField_pci (f : Field) : (s.clearField f).pci = s.pci := rfl
@[simp] theorem State.clearField_power (f : Field) : (s.clearField f).power = s.power := rfl
@[simp] theorem State.clearField_supply (f : Field) : (s.clearField f).supply = s.supply := rfl
@[simp] theorem State.clearField_bwAcc (f : Field) : (s.clearField f).bwAcc = s.bwAcc := rfl
@[simp] theorem State.clearField_sets (f : Field) : (s.clearField f).sets = s.sets := rfl
@[simp] theorem State.clearField_trees (f : Field) : (s.clearField f).trees = s.trees := rfl
@[simp] theorem State.clearField_terms (f : Field) : (s.clearField f).terms = s.terms := rfl
@[simp] theorem State.clearField_allocs (f : Field) : (s.clearField f).allocs = s.allocs := rfl
@[simp] theorem State.clearField_resv (f : Field) : (s.clearField f).resv = s.resv := rfl
@[simp] theorem State.clearField_rot (f : Field) : (s.clearField f).rot = s.rot := rfl
@[simp] theorem State.clearField_circs (f : Field) : (s.clearField f).circs = s.circs := rfl
@[simp] theorem State.clearField_grps (f : Field) : (s.clearField f).grps = s.grps := rfl
@[simp] theorem State.clearField_chkSeen (f : Field) : (s.clearField f).chkSeen = s.chkSeen := rfl
@[simp] theorem State.clearField_exact (f : Field) : (s.clearField f).exact = s.exact := rfl
@[simp] theorem State.clearField_tern (f : Field) : (s.clearField f).tern = s.tern := rfl
@[simp] theorem State.clearField_fwd (f : Field) : (s.clearField f).fwd = s.fwd := rfl
@[simp] theorem State.clearField_cache (f : Field) : (s.clearField f).cache = s.cache := rfl
@[simp] theorem State.clearField_notes (f : Field) : (s.clearField f).notes = s.notes := rfl
@[simp] theorem State.clearField_updates (f : Field) : (s.clearField f).updates = s.updates := rfl
@[simp] theorem State.clearField_heldUpdates (f : Field) : (s.clearField f).heldUpdates = s.heldUpdates := rfl
@[simp] theorem State.clearField_lastSeq (f : Field) : (s.clearField f).lastSeq = s.lastSeq := rfl
@[simp] theorem State.clearField_seqLocks (f : Field) : (s.clearField f).seqLocks = s.seqLocks := rfl
@[simp] theorem State.clearField_dieLocks (f : Field) : (s.clearField f).dieLocks = s.dieLocks := rfl
@[simp] theorem State.clearField_ageAt (f : Field) : (s.clearField f).ageAt = s.ageAt := rfl
@[simp] theorem State.clearField_touchSent (f : Field) : (s.clearField f).touchSent = s.touchSent := rfl
@[simp] theorem State.clearField_quotaSaid (f : Field) : (s.clearField f).quotaSaid = s.quotaSaid := rfl
@[simp] theorem State.clearField_ringLost (f : Field) : (s.clearField f).ringLost = s.ringLost := rfl
@[simp] theorem State.clearField_pendSince (f : Field) : (s.clearField f).pendSince = s.pendSince := rfl
@[simp] theorem State.clearField_keys (f : Field) : (s.clearField f).keys = s.keys := rfl
@[simp] theorem State.clearField_loadedAt (f : Field) : (s.clearField f).loadedAt = s.loadedAt := rfl
@[simp] theorem State.clearField_roots (f : Field) : (s.clearField f).roots = s.roots := rfl
@[simp] theorem State.clearField_oldBind (f : Field) : (s.clearField f).oldBind = s.oldBind := rfl
@[simp] theorem State.clearField_switches (f : Field) : (s.clearField f).switches = s.switches := rfl
@[simp] theorem State.clearField_xgemIndex (f : Field) : (s.clearField f).xgemIndex = s.xgemIndex := rfl
@[simp] theorem State.clearField_frags (f : Field) : (s.clearField f).frags = s.frags := rfl
@[simp] theorem State.clearField_keyFrame (f : Field) : (s.clearField f).keyFrame = s.keyFrame := rfl
@[simp] theorem State.clearField_labels (f : Field) : (s.clearField f).labels = s.labels := rfl
@[simp] theorem State.clearField_queues (f : Field) : (s.clearField f).queues = s.queues := rfl
@[simp] theorem State.clearField_qstat (f : Field) : (s.clearField f).qstat = s.qstat := rfl
@[simp] theorem State.clearField_offers (f : Field) : (s.clearField f).offers = s.offers := rfl
@[simp] theorem State.clearField_felt (f : Field) : (s.clearField f).felt = s.felt := rfl
@[simp] theorem State.clearField_drain (f : Field) : (s.clearField f).drain = s.drain := rfl
@[simp] theorem State.clearField_inbox (f : Field) : (s.clearField f).inbox = s.inbox := rfl
@[simp] theorem State.clearField_laneOut (f : Field) : (s.clearField f).laneOut = s.laneOut := rfl
@[simp] theorem State.clearField_cellPos (f : Field) : (s.clearField f).cellPos = s.cellPos := rfl
@[simp] theorem State.clearField_credit (f : Field) : (s.clearField f).credit = s.credit := rfl
@[simp] theorem State.clearField_lanes (f : Field) : (s.clearField f).lanes = s.lanes := rfl
@[simp] theorem State.clearField_owed (f : Field) : (s.clearField f).owed = s.owed := rfl
@[simp] theorem State.clearField_rxPart (f : Field) : (s.clearField f).rxPart = s.rxPart := rfl
@[simp] theorem State.clearField_rxReady (f : Field) : (s.clearField f).rxReady = s.rxReady := rfl
@[simp] theorem State.clearField_oam (f : Field) : (s.clearField f).oam = s.oam := rfl
@[simp] theorem State.clearField_replays (f : Field) : (s.clearField f).replays = s.replays := rfl
@[simp] theorem State.clearField_ceWaiting (f : Field) : (s.clearField f).ceWaiting = s.ceWaiting := rfl
@[simp] theorem State.clearField_elim (f : Field) : (s.clearField f).elim = s.elim := rfl
@[simp] theorem State.clearField_stamps (f : Field) : (s.clearField f).stamps = s.stamps := rfl
@[simp] theorem State.clearField_saidAt (f : Field) : (s.clearField f).saidAt = s.saidAt := rfl
@[simp] theorem State.clearField_netSec (f : Field) : (s.clearField f).netSec = s.netSec := rfl
@[simp] theorem State.clearField_netFrac (f : Field) : (s.clearField f).netFrac = s.netFrac := rfl
@[simp] theorem State.clearField_uses (f : Field) : (s.clearField f).uses = s.uses := rfl
@[simp] theorem State.clearField_outbox (f : Field) : (s.clearField f).outbox = s.outbox := rfl
@[simp] theorem State.clearField_pending (f : Field) : (s.clearField f).pending = s.pending := rfl

/-! ### clearRec -/

@[simp] theorem State.clearRec_ident (fs : List Field) (i : Nat) : (s.clearRec fs i).ident = s.ident := rfl
@[simp] theorem State.clearRec_live (fs : List Field) (i : Nat) : (s.clearRec fs i).live = s.live := rfl
@[simp] theorem State.clearRec_sects (fs : List Field) (i : Nat) : (s.clearRec fs i).sects = s.sects := rfl
@[simp] theorem State.clearRec_latches (fs : List Field) (i : Nat) : (s.clearRec fs i).latches = s.latches := rfl
@[simp] theorem State.clearRec_chans (fs : List Field) (i : Nat) : (s.clearRec fs i).chans = s.chans := rfl
@[simp] theorem State.clearRec_loader (fs : List Field) (i : Nat) : (s.clearRec fs i).loader = s.loader := rfl
@[simp] theorem State.clearRec_slots (fs : List Field) (i : Nat) : (s.clearRec fs i).slots = s.slots := rfl
@[simp] theorem State.clearRec_slotBad (fs : List Field) (i : Nat) : (s.clearRec fs i).slotBad = s.slotBad := rfl
@[simp] theorem State.clearRec_mram (fs : List Field) (i : Nat) : (s.clearRec fs i).mram = s.mram := rfl
@[simp] theorem State.clearRec_cores (fs : List Field) (i : Nat) : (s.clearRec fs i).cores = s.cores := rfl
@[simp] theorem State.clearRec_ctxStore (fs : List Field) (i : Nat) : (s.clearRec fs i).ctxStore = s.ctxStore := rfl
@[simp] theorem State.clearRec_tweed (fs : List Field) (i : Nat) : (s.clearRec fs i).tweed = s.tweed := rfl
@[simp] theorem State.clearRec_rotations (fs : List Field) (i : Nat) : (s.clearRec fs i).rotations = s.rotations := rfl
@[simp] theorem State.clearRec_stats (fs : List Field) (i : Nat) : (s.clearRec fs i).stats = s.stats := rfl
@[simp] theorem State.clearRec_dev (fs : List Field) (i : Nat) : (s.clearRec fs i).dev = s.dev := rfl
@[simp] theorem State.clearRec_perf (fs : List Field) (i : Nat) : (s.clearRec fs i).perf = s.perf := rfl
@[simp] theorem State.clearRec_channels (fs : List Field) (i : Nat) : (s.clearRec fs i).channels = s.channels := rfl
@[simp] theorem State.clearRec_dieStacks (fs : List Field) (i : Nat) : (s.clearRec fs i).dieStacks = s.dieStacks := rfl
@[simp] theorem State.clearRec_clock (fs : List Field) (i : Nat) : (s.clearRec fs i).clock = s.clock := rfl
@[simp] theorem State.clearRec_pair (fs : List Field) (i : Nat) : (s.clearRec fs i).pair = s.pair := rfl
@[simp] theorem State.clearRec_snap (fs : List Field) (i : Nat) : (s.clearRec fs i).snap = s.snap := rfl
@[simp] theorem State.clearRec_dma (fs : List Field) (i : Nat) : (s.clearRec fs i).dma = s.dma := rfl
@[simp] theorem State.clearRec_pci (fs : List Field) (i : Nat) : (s.clearRec fs i).pci = s.pci := rfl
@[simp] theorem State.clearRec_power (fs : List Field) (i : Nat) : (s.clearRec fs i).power = s.power := rfl
@[simp] theorem State.clearRec_supply (fs : List Field) (i : Nat) : (s.clearRec fs i).supply = s.supply := rfl
@[simp] theorem State.clearRec_bwAcc (fs : List Field) (i : Nat) : (s.clearRec fs i).bwAcc = s.bwAcc := rfl
@[simp] theorem State.clearRec_sets (fs : List Field) (i : Nat) : (s.clearRec fs i).sets = s.sets := rfl
@[simp] theorem State.clearRec_trees (fs : List Field) (i : Nat) : (s.clearRec fs i).trees = s.trees := rfl
@[simp] theorem State.clearRec_terms (fs : List Field) (i : Nat) : (s.clearRec fs i).terms = s.terms := rfl
@[simp] theorem State.clearRec_allocs (fs : List Field) (i : Nat) : (s.clearRec fs i).allocs = s.allocs := rfl
@[simp] theorem State.clearRec_resv (fs : List Field) (i : Nat) : (s.clearRec fs i).resv = s.resv := rfl
@[simp] theorem State.clearRec_rot (fs : List Field) (i : Nat) : (s.clearRec fs i).rot = s.rot := rfl
@[simp] theorem State.clearRec_circs (fs : List Field) (i : Nat) : (s.clearRec fs i).circs = s.circs := rfl
@[simp] theorem State.clearRec_grps (fs : List Field) (i : Nat) : (s.clearRec fs i).grps = s.grps := rfl
@[simp] theorem State.clearRec_chkSeen (fs : List Field) (i : Nat) : (s.clearRec fs i).chkSeen = s.chkSeen := rfl
@[simp] theorem State.clearRec_exact (fs : List Field) (i : Nat) : (s.clearRec fs i).exact = s.exact := rfl
@[simp] theorem State.clearRec_tern (fs : List Field) (i : Nat) : (s.clearRec fs i).tern = s.tern := rfl
@[simp] theorem State.clearRec_fwd (fs : List Field) (i : Nat) : (s.clearRec fs i).fwd = s.fwd := rfl
@[simp] theorem State.clearRec_cache (fs : List Field) (i : Nat) : (s.clearRec fs i).cache = s.cache := rfl
@[simp] theorem State.clearRec_notes (fs : List Field) (i : Nat) : (s.clearRec fs i).notes = s.notes := rfl
@[simp] theorem State.clearRec_updates (fs : List Field) (i : Nat) : (s.clearRec fs i).updates = s.updates := rfl
@[simp] theorem State.clearRec_heldUpdates (fs : List Field) (i : Nat) : (s.clearRec fs i).heldUpdates = s.heldUpdates := rfl
@[simp] theorem State.clearRec_lastSeq (fs : List Field) (i : Nat) : (s.clearRec fs i).lastSeq = s.lastSeq := rfl
@[simp] theorem State.clearRec_seqLocks (fs : List Field) (i : Nat) : (s.clearRec fs i).seqLocks = s.seqLocks := rfl
@[simp] theorem State.clearRec_dieLocks (fs : List Field) (i : Nat) : (s.clearRec fs i).dieLocks = s.dieLocks := rfl
@[simp] theorem State.clearRec_ageAt (fs : List Field) (i : Nat) : (s.clearRec fs i).ageAt = s.ageAt := rfl
@[simp] theorem State.clearRec_touchSent (fs : List Field) (i : Nat) : (s.clearRec fs i).touchSent = s.touchSent := rfl
@[simp] theorem State.clearRec_quotaSaid (fs : List Field) (i : Nat) : (s.clearRec fs i).quotaSaid = s.quotaSaid := rfl
@[simp] theorem State.clearRec_ringLost (fs : List Field) (i : Nat) : (s.clearRec fs i).ringLost = s.ringLost := rfl
@[simp] theorem State.clearRec_pendSince (fs : List Field) (i : Nat) : (s.clearRec fs i).pendSince = s.pendSince := rfl
@[simp] theorem State.clearRec_keys (fs : List Field) (i : Nat) : (s.clearRec fs i).keys = s.keys := rfl
@[simp] theorem State.clearRec_loadedAt (fs : List Field) (i : Nat) : (s.clearRec fs i).loadedAt = s.loadedAt := rfl
@[simp] theorem State.clearRec_roots (fs : List Field) (i : Nat) : (s.clearRec fs i).roots = s.roots := rfl
@[simp] theorem State.clearRec_oldBind (fs : List Field) (i : Nat) : (s.clearRec fs i).oldBind = s.oldBind := rfl
@[simp] theorem State.clearRec_switches (fs : List Field) (i : Nat) : (s.clearRec fs i).switches = s.switches := rfl
@[simp] theorem State.clearRec_xgemIndex (fs : List Field) (i : Nat) : (s.clearRec fs i).xgemIndex = s.xgemIndex := rfl
@[simp] theorem State.clearRec_frags (fs : List Field) (i : Nat) : (s.clearRec fs i).frags = s.frags := rfl
@[simp] theorem State.clearRec_keyFrame (fs : List Field) (i : Nat) : (s.clearRec fs i).keyFrame = s.keyFrame := rfl
@[simp] theorem State.clearRec_labels (fs : List Field) (i : Nat) : (s.clearRec fs i).labels = s.labels := rfl
@[simp] theorem State.clearRec_queues (fs : List Field) (i : Nat) : (s.clearRec fs i).queues = s.queues := rfl
@[simp] theorem State.clearRec_qstat (fs : List Field) (i : Nat) : (s.clearRec fs i).qstat = s.qstat := rfl
@[simp] theorem State.clearRec_offers (fs : List Field) (i : Nat) : (s.clearRec fs i).offers = s.offers := rfl
@[simp] theorem State.clearRec_felt (fs : List Field) (i : Nat) : (s.clearRec fs i).felt = s.felt := rfl
@[simp] theorem State.clearRec_drain (fs : List Field) (i : Nat) : (s.clearRec fs i).drain = s.drain := rfl
@[simp] theorem State.clearRec_inbox (fs : List Field) (i : Nat) : (s.clearRec fs i).inbox = s.inbox := rfl
@[simp] theorem State.clearRec_laneOut (fs : List Field) (i : Nat) : (s.clearRec fs i).laneOut = s.laneOut := rfl
@[simp] theorem State.clearRec_cellPos (fs : List Field) (i : Nat) : (s.clearRec fs i).cellPos = s.cellPos := rfl
@[simp] theorem State.clearRec_credit (fs : List Field) (i : Nat) : (s.clearRec fs i).credit = s.credit := rfl
@[simp] theorem State.clearRec_lanes (fs : List Field) (i : Nat) : (s.clearRec fs i).lanes = s.lanes := rfl
@[simp] theorem State.clearRec_owed (fs : List Field) (i : Nat) : (s.clearRec fs i).owed = s.owed := rfl
@[simp] theorem State.clearRec_rxPart (fs : List Field) (i : Nat) : (s.clearRec fs i).rxPart = s.rxPart := rfl
@[simp] theorem State.clearRec_rxReady (fs : List Field) (i : Nat) : (s.clearRec fs i).rxReady = s.rxReady := rfl
@[simp] theorem State.clearRec_oam (fs : List Field) (i : Nat) : (s.clearRec fs i).oam = s.oam := rfl
@[simp] theorem State.clearRec_replays (fs : List Field) (i : Nat) : (s.clearRec fs i).replays = s.replays := rfl
@[simp] theorem State.clearRec_ceWaiting (fs : List Field) (i : Nat) : (s.clearRec fs i).ceWaiting = s.ceWaiting := rfl
@[simp] theorem State.clearRec_elim (fs : List Field) (i : Nat) : (s.clearRec fs i).elim = s.elim := rfl
@[simp] theorem State.clearRec_stamps (fs : List Field) (i : Nat) : (s.clearRec fs i).stamps = s.stamps := rfl
@[simp] theorem State.clearRec_saidAt (fs : List Field) (i : Nat) : (s.clearRec fs i).saidAt = s.saidAt := rfl
@[simp] theorem State.clearRec_netSec (fs : List Field) (i : Nat) : (s.clearRec fs i).netSec = s.netSec := rfl
@[simp] theorem State.clearRec_netFrac (fs : List Field) (i : Nat) : (s.clearRec fs i).netFrac = s.netFrac := rfl
@[simp] theorem State.clearRec_uses (fs : List Field) (i : Nat) : (s.clearRec fs i).uses = s.uses := rfl
@[simp] theorem State.clearRec_outbox (fs : List Field) (i : Nat) : (s.clearRec fs i).outbox = s.outbox := rfl
@[simp] theorem State.clearRec_pending (fs : List Field) (i : Nat) : (s.clearRec fs i).pending = s.pending := rfl

/-! ### bump -/

@[simp] theorem State.bump_ident (f : Field) (i v : Nat) : (s.bump f i v).ident = s.ident := rfl
@[simp] theorem State.bump_regs (f : Field) (i v : Nat) : (s.bump f i v).regs = s.regs := rfl
@[simp] theorem State.bump_live (f : Field) (i v : Nat) : (s.bump f i v).live = s.live.set ⟨f.num, i⟩ 0 (s.liveOf f i + v) := rfl
@[simp] theorem State.bump_sects (f : Field) (i v : Nat) : (s.bump f i v).sects = s.sects := rfl
@[simp] theorem State.bump_latches (f : Field) (i v : Nat) : (s.bump f i v).latches = s.latches := rfl
@[simp] theorem State.bump_chans (f : Field) (i v : Nat) : (s.bump f i v).chans = s.chans := rfl
@[simp] theorem State.bump_loader (f : Field) (i v : Nat) : (s.bump f i v).loader = s.loader := rfl
@[simp] theorem State.bump_slots (f : Field) (i v : Nat) : (s.bump f i v).slots = s.slots := rfl
@[simp] theorem State.bump_slotBad (f : Field) (i v : Nat) : (s.bump f i v).slotBad = s.slotBad := rfl
@[simp] theorem State.bump_mram (f : Field) (i v : Nat) : (s.bump f i v).mram = s.mram := rfl
@[simp] theorem State.bump_cores (f : Field) (i v : Nat) : (s.bump f i v).cores = s.cores := rfl
@[simp] theorem State.bump_ctxStore (f : Field) (i v : Nat) : (s.bump f i v).ctxStore = s.ctxStore := rfl
@[simp] theorem State.bump_tweed (f : Field) (i v : Nat) : (s.bump f i v).tweed = s.tweed := rfl
@[simp] theorem State.bump_rotations (f : Field) (i v : Nat) : (s.bump f i v).rotations = s.rotations := rfl
@[simp] theorem State.bump_stats (f : Field) (i v : Nat) : (s.bump f i v).stats = s.stats := rfl
@[simp] theorem State.bump_dev (f : Field) (i v : Nat) : (s.bump f i v).dev = s.dev := rfl
@[simp] theorem State.bump_perf (f : Field) (i v : Nat) : (s.bump f i v).perf = s.perf := rfl
@[simp] theorem State.bump_channels (f : Field) (i v : Nat) : (s.bump f i v).channels = s.channels := rfl
@[simp] theorem State.bump_dieStacks (f : Field) (i v : Nat) : (s.bump f i v).dieStacks = s.dieStacks := rfl
@[simp] theorem State.bump_clock (f : Field) (i v : Nat) : (s.bump f i v).clock = s.clock := rfl
@[simp] theorem State.bump_pair (f : Field) (i v : Nat) : (s.bump f i v).pair = s.pair := rfl
@[simp] theorem State.bump_snap (f : Field) (i v : Nat) : (s.bump f i v).snap = s.snap := rfl
@[simp] theorem State.bump_dma (f : Field) (i v : Nat) : (s.bump f i v).dma = s.dma := rfl
@[simp] theorem State.bump_pci (f : Field) (i v : Nat) : (s.bump f i v).pci = s.pci := rfl
@[simp] theorem State.bump_power (f : Field) (i v : Nat) : (s.bump f i v).power = s.power := rfl
@[simp] theorem State.bump_supply (f : Field) (i v : Nat) : (s.bump f i v).supply = s.supply := rfl
@[simp] theorem State.bump_bwAcc (f : Field) (i v : Nat) : (s.bump f i v).bwAcc = s.bwAcc := rfl
@[simp] theorem State.bump_sets (f : Field) (i v : Nat) : (s.bump f i v).sets = s.sets := rfl
@[simp] theorem State.bump_trees (f : Field) (i v : Nat) : (s.bump f i v).trees = s.trees := rfl
@[simp] theorem State.bump_terms (f : Field) (i v : Nat) : (s.bump f i v).terms = s.terms := rfl
@[simp] theorem State.bump_allocs (f : Field) (i v : Nat) : (s.bump f i v).allocs = s.allocs := rfl
@[simp] theorem State.bump_resv (f : Field) (i v : Nat) : (s.bump f i v).resv = s.resv := rfl
@[simp] theorem State.bump_rot (f : Field) (i v : Nat) : (s.bump f i v).rot = s.rot := rfl
@[simp] theorem State.bump_circs (f : Field) (i v : Nat) : (s.bump f i v).circs = s.circs := rfl
@[simp] theorem State.bump_grps (f : Field) (i v : Nat) : (s.bump f i v).grps = s.grps := rfl
@[simp] theorem State.bump_chkSeen (f : Field) (i v : Nat) : (s.bump f i v).chkSeen = s.chkSeen := rfl
@[simp] theorem State.bump_exact (f : Field) (i v : Nat) : (s.bump f i v).exact = s.exact := rfl
@[simp] theorem State.bump_tern (f : Field) (i v : Nat) : (s.bump f i v).tern = s.tern := rfl
@[simp] theorem State.bump_fwd (f : Field) (i v : Nat) : (s.bump f i v).fwd = s.fwd := rfl
@[simp] theorem State.bump_cache (f : Field) (i v : Nat) : (s.bump f i v).cache = s.cache := rfl
@[simp] theorem State.bump_notes (f : Field) (i v : Nat) : (s.bump f i v).notes = s.notes := rfl
@[simp] theorem State.bump_updates (f : Field) (i v : Nat) : (s.bump f i v).updates = s.updates := rfl
@[simp] theorem State.bump_heldUpdates (f : Field) (i v : Nat) : (s.bump f i v).heldUpdates = s.heldUpdates := rfl
@[simp] theorem State.bump_lastSeq (f : Field) (i v : Nat) : (s.bump f i v).lastSeq = s.lastSeq := rfl
@[simp] theorem State.bump_seqLocks (f : Field) (i v : Nat) : (s.bump f i v).seqLocks = s.seqLocks := rfl
@[simp] theorem State.bump_dieLocks (f : Field) (i v : Nat) : (s.bump f i v).dieLocks = s.dieLocks := rfl
@[simp] theorem State.bump_ageAt (f : Field) (i v : Nat) : (s.bump f i v).ageAt = s.ageAt := rfl
@[simp] theorem State.bump_touchSent (f : Field) (i v : Nat) : (s.bump f i v).touchSent = s.touchSent := rfl
@[simp] theorem State.bump_quotaSaid (f : Field) (i v : Nat) : (s.bump f i v).quotaSaid = s.quotaSaid := rfl
@[simp] theorem State.bump_ringLost (f : Field) (i v : Nat) : (s.bump f i v).ringLost = s.ringLost := rfl
@[simp] theorem State.bump_pendSince (f : Field) (i v : Nat) : (s.bump f i v).pendSince = s.pendSince := rfl
@[simp] theorem State.bump_keys (f : Field) (i v : Nat) : (s.bump f i v).keys = s.keys := rfl
@[simp] theorem State.bump_loadedAt (f : Field) (i v : Nat) : (s.bump f i v).loadedAt = s.loadedAt := rfl
@[simp] theorem State.bump_roots (f : Field) (i v : Nat) : (s.bump f i v).roots = s.roots := rfl
@[simp] theorem State.bump_oldBind (f : Field) (i v : Nat) : (s.bump f i v).oldBind = s.oldBind := rfl
@[simp] theorem State.bump_switches (f : Field) (i v : Nat) : (s.bump f i v).switches = s.switches := rfl
@[simp] theorem State.bump_xgemIndex (f : Field) (i v : Nat) : (s.bump f i v).xgemIndex = s.xgemIndex := rfl
@[simp] theorem State.bump_frags (f : Field) (i v : Nat) : (s.bump f i v).frags = s.frags := rfl
@[simp] theorem State.bump_keyFrame (f : Field) (i v : Nat) : (s.bump f i v).keyFrame = s.keyFrame := rfl
@[simp] theorem State.bump_labels (f : Field) (i v : Nat) : (s.bump f i v).labels = s.labels := rfl
@[simp] theorem State.bump_queues (f : Field) (i v : Nat) : (s.bump f i v).queues = s.queues := rfl
@[simp] theorem State.bump_qstat (f : Field) (i v : Nat) : (s.bump f i v).qstat = s.qstat := rfl
@[simp] theorem State.bump_offers (f : Field) (i v : Nat) : (s.bump f i v).offers = s.offers := rfl
@[simp] theorem State.bump_felt (f : Field) (i v : Nat) : (s.bump f i v).felt = s.felt := rfl
@[simp] theorem State.bump_drain (f : Field) (i v : Nat) : (s.bump f i v).drain = s.drain := rfl
@[simp] theorem State.bump_inbox (f : Field) (i v : Nat) : (s.bump f i v).inbox = s.inbox := rfl
@[simp] theorem State.bump_laneOut (f : Field) (i v : Nat) : (s.bump f i v).laneOut = s.laneOut := rfl
@[simp] theorem State.bump_cellPos (f : Field) (i v : Nat) : (s.bump f i v).cellPos = s.cellPos := rfl
@[simp] theorem State.bump_credit (f : Field) (i v : Nat) : (s.bump f i v).credit = s.credit := rfl
@[simp] theorem State.bump_lanes (f : Field) (i v : Nat) : (s.bump f i v).lanes = s.lanes := rfl
@[simp] theorem State.bump_owed (f : Field) (i v : Nat) : (s.bump f i v).owed = s.owed := rfl
@[simp] theorem State.bump_rxPart (f : Field) (i v : Nat) : (s.bump f i v).rxPart = s.rxPart := rfl
@[simp] theorem State.bump_rxReady (f : Field) (i v : Nat) : (s.bump f i v).rxReady = s.rxReady := rfl
@[simp] theorem State.bump_oam (f : Field) (i v : Nat) : (s.bump f i v).oam = s.oam := rfl
@[simp] theorem State.bump_replays (f : Field) (i v : Nat) : (s.bump f i v).replays = s.replays := rfl
@[simp] theorem State.bump_ceWaiting (f : Field) (i v : Nat) : (s.bump f i v).ceWaiting = s.ceWaiting := rfl
@[simp] theorem State.bump_elim (f : Field) (i v : Nat) : (s.bump f i v).elim = s.elim := rfl
@[simp] theorem State.bump_stamps (f : Field) (i v : Nat) : (s.bump f i v).stamps = s.stamps := rfl
@[simp] theorem State.bump_saidAt (f : Field) (i v : Nat) : (s.bump f i v).saidAt = s.saidAt := rfl
@[simp] theorem State.bump_netSec (f : Field) (i v : Nat) : (s.bump f i v).netSec = s.netSec := rfl
@[simp] theorem State.bump_netFrac (f : Field) (i v : Nat) : (s.bump f i v).netFrac = s.netFrac := rfl
@[simp] theorem State.bump_uses (f : Field) (i v : Nat) : (s.bump f i v).uses = s.uses := rfl
@[simp] theorem State.bump_outbox (f : Field) (i v : Nat) : (s.bump f i v).outbox = s.outbox := rfl
@[simp] theorem State.bump_pending (f : Field) (i v : Nat) : (s.bump f i v).pending = s.pending := rfl

/-! ### useFree -/

@[simp] theorem State.useFree_ident : (s.useFree).ident = s.ident := rfl
@[simp] theorem State.useFree_regs : (s.useFree).regs = s.regs := rfl
@[simp] theorem State.useFree_live : (s.useFree).live = s.live := rfl
@[simp] theorem State.useFree_sects : (s.useFree).sects = s.sects := rfl
@[simp] theorem State.useFree_latches : (s.useFree).latches = s.latches := rfl
@[simp] theorem State.useFree_chans : (s.useFree).chans = s.chans := rfl
@[simp] theorem State.useFree_loader : (s.useFree).loader = s.loader := rfl
@[simp] theorem State.useFree_slots : (s.useFree).slots = s.slots := rfl
@[simp] theorem State.useFree_slotBad : (s.useFree).slotBad = s.slotBad := rfl
@[simp] theorem State.useFree_mram : (s.useFree).mram = s.mram := rfl
@[simp] theorem State.useFree_cores : (s.useFree).cores = s.cores := rfl
@[simp] theorem State.useFree_ctxStore : (s.useFree).ctxStore = s.ctxStore := rfl
@[simp] theorem State.useFree_tweed : (s.useFree).tweed = s.tweed := rfl
@[simp] theorem State.useFree_rotations : (s.useFree).rotations = s.rotations := rfl
@[simp] theorem State.useFree_stats : (s.useFree).stats = s.stats := rfl
@[simp] theorem State.useFree_dev : (s.useFree).dev = s.dev := rfl
@[simp] theorem State.useFree_perf : (s.useFree).perf = s.perf := rfl
@[simp] theorem State.useFree_channels : (s.useFree).channels = s.channels := rfl
@[simp] theorem State.useFree_dieStacks : (s.useFree).dieStacks = s.dieStacks := rfl
@[simp] theorem State.useFree_clock : (s.useFree).clock = s.clock := rfl
@[simp] theorem State.useFree_pair : (s.useFree).pair = s.pair := rfl
@[simp] theorem State.useFree_snap : (s.useFree).snap = s.snap := rfl
@[simp] theorem State.useFree_dma : (s.useFree).dma = s.dma := rfl
@[simp] theorem State.useFree_pci : (s.useFree).pci = s.pci := rfl
@[simp] theorem State.useFree_power : (s.useFree).power = s.power := rfl
@[simp] theorem State.useFree_supply : (s.useFree).supply = s.supply := rfl
@[simp] theorem State.useFree_bwAcc : (s.useFree).bwAcc = s.bwAcc := rfl
@[simp] theorem State.useFree_sets : (s.useFree).sets = s.sets := rfl
@[simp] theorem State.useFree_trees : (s.useFree).trees = s.trees := rfl
@[simp] theorem State.useFree_terms : (s.useFree).terms = s.terms := rfl
@[simp] theorem State.useFree_allocs : (s.useFree).allocs = s.allocs := rfl
@[simp] theorem State.useFree_resv : (s.useFree).resv = s.resv := rfl
@[simp] theorem State.useFree_rot : (s.useFree).rot = s.rot := rfl
@[simp] theorem State.useFree_circs : (s.useFree).circs = s.circs := rfl
@[simp] theorem State.useFree_grps : (s.useFree).grps = s.grps := rfl
@[simp] theorem State.useFree_chkSeen : (s.useFree).chkSeen = s.chkSeen := rfl
@[simp] theorem State.useFree_exact : (s.useFree).exact = s.exact := rfl
@[simp] theorem State.useFree_tern : (s.useFree).tern = s.tern := rfl
@[simp] theorem State.useFree_fwd : (s.useFree).fwd = s.fwd := rfl
@[simp] theorem State.useFree_cache : (s.useFree).cache = s.cache := rfl
@[simp] theorem State.useFree_notes : (s.useFree).notes = s.notes := rfl
@[simp] theorem State.useFree_updates : (s.useFree).updates = s.updates := rfl
@[simp] theorem State.useFree_heldUpdates : (s.useFree).heldUpdates = s.heldUpdates := rfl
@[simp] theorem State.useFree_lastSeq : (s.useFree).lastSeq = s.lastSeq := rfl
@[simp] theorem State.useFree_seqLocks : (s.useFree).seqLocks = s.seqLocks := rfl
@[simp] theorem State.useFree_dieLocks : (s.useFree).dieLocks = s.dieLocks := rfl
@[simp] theorem State.useFree_ageAt : (s.useFree).ageAt = s.ageAt := rfl
@[simp] theorem State.useFree_touchSent : (s.useFree).touchSent = s.touchSent := rfl
@[simp] theorem State.useFree_quotaSaid : (s.useFree).quotaSaid = s.quotaSaid := rfl
@[simp] theorem State.useFree_ringLost : (s.useFree).ringLost = s.ringLost := rfl
@[simp] theorem State.useFree_pendSince : (s.useFree).pendSince = s.pendSince := rfl
@[simp] theorem State.useFree_keys : (s.useFree).keys = s.keys := rfl
@[simp] theorem State.useFree_loadedAt : (s.useFree).loadedAt = s.loadedAt := rfl
@[simp] theorem State.useFree_roots : (s.useFree).roots = s.roots := rfl
@[simp] theorem State.useFree_oldBind : (s.useFree).oldBind = s.oldBind := rfl
@[simp] theorem State.useFree_switches : (s.useFree).switches = s.switches := rfl
@[simp] theorem State.useFree_xgemIndex : (s.useFree).xgemIndex = s.xgemIndex := rfl
@[simp] theorem State.useFree_frags : (s.useFree).frags = s.frags := rfl
@[simp] theorem State.useFree_keyFrame : (s.useFree).keyFrame = s.keyFrame := rfl
@[simp] theorem State.useFree_labels : (s.useFree).labels = s.labels := rfl
@[simp] theorem State.useFree_queues : (s.useFree).queues = s.queues := rfl
@[simp] theorem State.useFree_qstat : (s.useFree).qstat = s.qstat := rfl
@[simp] theorem State.useFree_offers : (s.useFree).offers = s.offers := rfl
@[simp] theorem State.useFree_felt : (s.useFree).felt = s.felt := rfl
@[simp] theorem State.useFree_drain : (s.useFree).drain = s.drain := rfl
@[simp] theorem State.useFree_inbox : (s.useFree).inbox = s.inbox := rfl
@[simp] theorem State.useFree_laneOut : (s.useFree).laneOut = s.laneOut := rfl
@[simp] theorem State.useFree_cellPos : (s.useFree).cellPos = s.cellPos := rfl
@[simp] theorem State.useFree_credit : (s.useFree).credit = s.credit := rfl
@[simp] theorem State.useFree_lanes : (s.useFree).lanes = s.lanes := rfl
@[simp] theorem State.useFree_owed : (s.useFree).owed = s.owed := rfl
@[simp] theorem State.useFree_rxPart : (s.useFree).rxPart = s.rxPart := rfl
@[simp] theorem State.useFree_rxReady : (s.useFree).rxReady = s.rxReady := rfl
@[simp] theorem State.useFree_oam : (s.useFree).oam = s.oam := rfl
@[simp] theorem State.useFree_replays : (s.useFree).replays = s.replays := rfl
@[simp] theorem State.useFree_ceWaiting : (s.useFree).ceWaiting = s.ceWaiting := rfl
@[simp] theorem State.useFree_elim : (s.useFree).elim = s.elim := rfl
@[simp] theorem State.useFree_stamps : (s.useFree).stamps = s.stamps := rfl
@[simp] theorem State.useFree_saidAt : (s.useFree).saidAt = s.saidAt := rfl
@[simp] theorem State.useFree_netSec : (s.useFree).netSec = s.netSec := rfl
@[simp] theorem State.useFree_netFrac : (s.useFree).netFrac = s.netFrac := rfl
@[simp] theorem State.useFree_uses : (s.useFree).uses = s.uses + 1 := rfl
@[simp] theorem State.useFree_outbox : (s.useFree).outbox = s.outbox := rfl
@[simp] theorem State.useFree_pending : (s.useFree).pending = s.pending := rfl

/-! ### emit -/

@[simp] theorem State.emit_ident (o : Sent) : (s.emit o).ident = s.ident := rfl
@[simp] theorem State.emit_regs (o : Sent) : (s.emit o).regs = s.regs := rfl
@[simp] theorem State.emit_live (o : Sent) : (s.emit o).live = s.live := rfl
@[simp] theorem State.emit_sects (o : Sent) : (s.emit o).sects = s.sects := rfl
@[simp] theorem State.emit_latches (o : Sent) : (s.emit o).latches = s.latches := rfl
@[simp] theorem State.emit_chans (o : Sent) : (s.emit o).chans = s.chans := rfl
@[simp] theorem State.emit_loader (o : Sent) : (s.emit o).loader = s.loader := rfl
@[simp] theorem State.emit_slots (o : Sent) : (s.emit o).slots = s.slots := rfl
@[simp] theorem State.emit_slotBad (o : Sent) : (s.emit o).slotBad = s.slotBad := rfl
@[simp] theorem State.emit_mram (o : Sent) : (s.emit o).mram = s.mram := rfl
@[simp] theorem State.emit_cores (o : Sent) : (s.emit o).cores = s.cores := rfl
@[simp] theorem State.emit_ctxStore (o : Sent) : (s.emit o).ctxStore = s.ctxStore := rfl
@[simp] theorem State.emit_tweed (o : Sent) : (s.emit o).tweed = s.tweed := rfl
@[simp] theorem State.emit_rotations (o : Sent) : (s.emit o).rotations = s.rotations := rfl
@[simp] theorem State.emit_stats (o : Sent) : (s.emit o).stats = s.stats := rfl
@[simp] theorem State.emit_dev (o : Sent) : (s.emit o).dev = s.dev := rfl
@[simp] theorem State.emit_perf (o : Sent) : (s.emit o).perf = s.perf := rfl
@[simp] theorem State.emit_channels (o : Sent) : (s.emit o).channels = s.channels := rfl
@[simp] theorem State.emit_dieStacks (o : Sent) : (s.emit o).dieStacks = s.dieStacks := rfl
@[simp] theorem State.emit_clock (o : Sent) : (s.emit o).clock = s.clock := rfl
@[simp] theorem State.emit_pair (o : Sent) : (s.emit o).pair = s.pair := rfl
@[simp] theorem State.emit_snap (o : Sent) : (s.emit o).snap = s.snap := rfl
@[simp] theorem State.emit_dma (o : Sent) : (s.emit o).dma = s.dma := rfl
@[simp] theorem State.emit_pci (o : Sent) : (s.emit o).pci = s.pci := rfl
@[simp] theorem State.emit_power (o : Sent) : (s.emit o).power = s.power := rfl
@[simp] theorem State.emit_supply (o : Sent) : (s.emit o).supply = s.supply := rfl
@[simp] theorem State.emit_bwAcc (o : Sent) : (s.emit o).bwAcc = s.bwAcc := rfl
@[simp] theorem State.emit_sets (o : Sent) : (s.emit o).sets = s.sets := rfl
@[simp] theorem State.emit_trees (o : Sent) : (s.emit o).trees = s.trees := rfl
@[simp] theorem State.emit_terms (o : Sent) : (s.emit o).terms = s.terms := rfl
@[simp] theorem State.emit_allocs (o : Sent) : (s.emit o).allocs = s.allocs := rfl
@[simp] theorem State.emit_resv (o : Sent) : (s.emit o).resv = s.resv := rfl
@[simp] theorem State.emit_rot (o : Sent) : (s.emit o).rot = s.rot := rfl
@[simp] theorem State.emit_circs (o : Sent) : (s.emit o).circs = s.circs := rfl
@[simp] theorem State.emit_grps (o : Sent) : (s.emit o).grps = s.grps := rfl
@[simp] theorem State.emit_chkSeen (o : Sent) : (s.emit o).chkSeen = s.chkSeen := rfl
@[simp] theorem State.emit_exact (o : Sent) : (s.emit o).exact = s.exact := rfl
@[simp] theorem State.emit_tern (o : Sent) : (s.emit o).tern = s.tern := rfl
@[simp] theorem State.emit_fwd (o : Sent) : (s.emit o).fwd = s.fwd := rfl
@[simp] theorem State.emit_cache (o : Sent) : (s.emit o).cache = s.cache := rfl
@[simp] theorem State.emit_notes (o : Sent) : (s.emit o).notes = s.notes := rfl
@[simp] theorem State.emit_updates (o : Sent) : (s.emit o).updates = s.updates := rfl
@[simp] theorem State.emit_heldUpdates (o : Sent) : (s.emit o).heldUpdates = s.heldUpdates := rfl
@[simp] theorem State.emit_lastSeq (o : Sent) : (s.emit o).lastSeq = s.lastSeq := rfl
@[simp] theorem State.emit_seqLocks (o : Sent) : (s.emit o).seqLocks = s.seqLocks := rfl
@[simp] theorem State.emit_dieLocks (o : Sent) : (s.emit o).dieLocks = s.dieLocks := rfl
@[simp] theorem State.emit_ageAt (o : Sent) : (s.emit o).ageAt = s.ageAt := rfl
@[simp] theorem State.emit_touchSent (o : Sent) : (s.emit o).touchSent = s.touchSent := rfl
@[simp] theorem State.emit_quotaSaid (o : Sent) : (s.emit o).quotaSaid = s.quotaSaid := rfl
@[simp] theorem State.emit_ringLost (o : Sent) : (s.emit o).ringLost = s.ringLost := rfl
@[simp] theorem State.emit_pendSince (o : Sent) : (s.emit o).pendSince = s.pendSince := rfl
@[simp] theorem State.emit_keys (o : Sent) : (s.emit o).keys = s.keys := rfl
@[simp] theorem State.emit_loadedAt (o : Sent) : (s.emit o).loadedAt = s.loadedAt := rfl
@[simp] theorem State.emit_roots (o : Sent) : (s.emit o).roots = s.roots := rfl
@[simp] theorem State.emit_oldBind (o : Sent) : (s.emit o).oldBind = s.oldBind := rfl
@[simp] theorem State.emit_switches (o : Sent) : (s.emit o).switches = s.switches := rfl
@[simp] theorem State.emit_xgemIndex (o : Sent) : (s.emit o).xgemIndex = s.xgemIndex := rfl
@[simp] theorem State.emit_frags (o : Sent) : (s.emit o).frags = s.frags := rfl
@[simp] theorem State.emit_keyFrame (o : Sent) : (s.emit o).keyFrame = s.keyFrame := rfl
@[simp] theorem State.emit_labels (o : Sent) : (s.emit o).labels = s.labels := rfl
@[simp] theorem State.emit_queues (o : Sent) : (s.emit o).queues = s.queues := rfl
@[simp] theorem State.emit_qstat (o : Sent) : (s.emit o).qstat = s.qstat := rfl
@[simp] theorem State.emit_offers (o : Sent) : (s.emit o).offers = s.offers := rfl
@[simp] theorem State.emit_felt (o : Sent) : (s.emit o).felt = s.felt := rfl
@[simp] theorem State.emit_drain (o : Sent) : (s.emit o).drain = s.drain := rfl
@[simp] theorem State.emit_inbox (o : Sent) : (s.emit o).inbox = s.inbox := rfl
@[simp] theorem State.emit_laneOut (o : Sent) : (s.emit o).laneOut = s.laneOut := rfl
@[simp] theorem State.emit_cellPos (o : Sent) : (s.emit o).cellPos = s.cellPos := rfl
@[simp] theorem State.emit_credit (o : Sent) : (s.emit o).credit = s.credit := rfl
@[simp] theorem State.emit_lanes (o : Sent) : (s.emit o).lanes = s.lanes := rfl
@[simp] theorem State.emit_owed (o : Sent) : (s.emit o).owed = s.owed := rfl
@[simp] theorem State.emit_rxPart (o : Sent) : (s.emit o).rxPart = s.rxPart := rfl
@[simp] theorem State.emit_rxReady (o : Sent) : (s.emit o).rxReady = s.rxReady := rfl
@[simp] theorem State.emit_oam (o : Sent) : (s.emit o).oam = s.oam := rfl
@[simp] theorem State.emit_replays (o : Sent) : (s.emit o).replays = s.replays := rfl
@[simp] theorem State.emit_ceWaiting (o : Sent) : (s.emit o).ceWaiting = s.ceWaiting := rfl
@[simp] theorem State.emit_elim (o : Sent) : (s.emit o).elim = s.elim := rfl
@[simp] theorem State.emit_stamps (o : Sent) : (s.emit o).stamps = s.stamps := rfl
@[simp] theorem State.emit_saidAt (o : Sent) : (s.emit o).saidAt = s.saidAt := rfl
@[simp] theorem State.emit_netSec (o : Sent) : (s.emit o).netSec = s.netSec := rfl
@[simp] theorem State.emit_netFrac (o : Sent) : (s.emit o).netFrac = s.netFrac := rfl
@[simp] theorem State.emit_uses (o : Sent) : (s.emit o).uses = s.uses := rfl
@[simp] theorem State.emit_outbox (o : Sent) : (s.emit o).outbox = s.outbox ++ [o] := rfl
@[simp] theorem State.emit_pending (o : Sent) : (s.emit o).pending = s.pending := rfl

/-! ### modSet -/

@[simp] theorem State.modSet_ident (t k : Nat) (g : SetSt → SetSt) : (s.modSet t k g).ident = s.ident := rfl
@[simp] theorem State.modSet_regs (t k : Nat) (g : SetSt → SetSt) : (s.modSet t k g).regs = s.regs := rfl
@[simp] theorem State.modSet_live (t k : Nat) (g : SetSt → SetSt) : (s.modSet t k g).live = s.live := rfl
@[simp] theorem State.modSet_sects (t k : Nat) (g : SetSt → SetSt) : (s.modSet t k g).sects = s.sects := rfl
@[simp] theorem State.modSet_latches (t k : Nat) (g : SetSt → SetSt) : (s.modSet t k g).latches = s.latches := rfl
@[simp] theorem State.modSet_chans (t k : Nat) (g : SetSt → SetSt) : (s.modSet t k g).chans = s.chans := rfl
@[simp] theorem State.modSet_loader (t k : Nat) (g : SetSt → SetSt) : (s.modSet t k g).loader = s.loader := rfl
@[simp] theorem State.modSet_slots (t k : Nat) (g : SetSt → SetSt) : (s.modSet t k g).slots = s.slots := rfl
@[simp] theorem State.modSet_slotBad (t k : Nat) (g : SetSt → SetSt) : (s.modSet t k g).slotBad = s.slotBad := rfl
@[simp] theorem State.modSet_mram (t k : Nat) (g : SetSt → SetSt) : (s.modSet t k g).mram = s.mram := rfl
@[simp] theorem State.modSet_cores (t k : Nat) (g : SetSt → SetSt) : (s.modSet t k g).cores = s.cores := rfl
@[simp] theorem State.modSet_ctxStore (t k : Nat) (g : SetSt → SetSt) : (s.modSet t k g).ctxStore = s.ctxStore := rfl
@[simp] theorem State.modSet_tweed (t k : Nat) (g : SetSt → SetSt) : (s.modSet t k g).tweed = s.tweed := rfl
@[simp] theorem State.modSet_rotations (t k : Nat) (g : SetSt → SetSt) : (s.modSet t k g).rotations = s.rotations := rfl
@[simp] theorem State.modSet_stats (t k : Nat) (g : SetSt → SetSt) : (s.modSet t k g).stats = s.stats := rfl
@[simp] theorem State.modSet_dev (t k : Nat) (g : SetSt → SetSt) : (s.modSet t k g).dev = s.dev := rfl
@[simp] theorem State.modSet_perf (t k : Nat) (g : SetSt → SetSt) : (s.modSet t k g).perf = s.perf := rfl
@[simp] theorem State.modSet_channels (t k : Nat) (g : SetSt → SetSt) : (s.modSet t k g).channels = s.channels := rfl
@[simp] theorem State.modSet_dieStacks (t k : Nat) (g : SetSt → SetSt) : (s.modSet t k g).dieStacks = s.dieStacks := rfl
@[simp] theorem State.modSet_clock (t k : Nat) (g : SetSt → SetSt) : (s.modSet t k g).clock = s.clock := rfl
@[simp] theorem State.modSet_pair (t k : Nat) (g : SetSt → SetSt) : (s.modSet t k g).pair = s.pair := rfl
@[simp] theorem State.modSet_snap (t k : Nat) (g : SetSt → SetSt) : (s.modSet t k g).snap = s.snap := rfl
@[simp] theorem State.modSet_dma (t k : Nat) (g : SetSt → SetSt) : (s.modSet t k g).dma = s.dma := rfl
@[simp] theorem State.modSet_pci (t k : Nat) (g : SetSt → SetSt) : (s.modSet t k g).pci = s.pci := rfl
@[simp] theorem State.modSet_power (t k : Nat) (g : SetSt → SetSt) : (s.modSet t k g).power = s.power := rfl
@[simp] theorem State.modSet_supply (t k : Nat) (g : SetSt → SetSt) : (s.modSet t k g).supply = s.supply := rfl
@[simp] theorem State.modSet_bwAcc (t k : Nat) (g : SetSt → SetSt) : (s.modSet t k g).bwAcc = s.bwAcc := rfl
@[simp] theorem State.modSet_sets (t k : Nat) (g : SetSt → SetSt) : (s.modSet t k g).sets = s.sets.set ⟨t, k⟩ {} (g (s.setOf t k)) := rfl
@[simp] theorem State.modSet_trees (t k : Nat) (g : SetSt → SetSt) : (s.modSet t k g).trees = s.trees := rfl
@[simp] theorem State.modSet_terms (t k : Nat) (g : SetSt → SetSt) : (s.modSet t k g).terms = s.terms := rfl
@[simp] theorem State.modSet_allocs (t k : Nat) (g : SetSt → SetSt) : (s.modSet t k g).allocs = s.allocs := rfl
@[simp] theorem State.modSet_resv (t k : Nat) (g : SetSt → SetSt) : (s.modSet t k g).resv = s.resv := rfl
@[simp] theorem State.modSet_rot (t k : Nat) (g : SetSt → SetSt) : (s.modSet t k g).rot = s.rot := rfl
@[simp] theorem State.modSet_circs (t k : Nat) (g : SetSt → SetSt) : (s.modSet t k g).circs = s.circs := rfl
@[simp] theorem State.modSet_grps (t k : Nat) (g : SetSt → SetSt) : (s.modSet t k g).grps = s.grps := rfl
@[simp] theorem State.modSet_chkSeen (t k : Nat) (g : SetSt → SetSt) : (s.modSet t k g).chkSeen = s.chkSeen := rfl
@[simp] theorem State.modSet_exact (t k : Nat) (g : SetSt → SetSt) : (s.modSet t k g).exact = s.exact := rfl
@[simp] theorem State.modSet_tern (t k : Nat) (g : SetSt → SetSt) : (s.modSet t k g).tern = s.tern := rfl
@[simp] theorem State.modSet_fwd (t k : Nat) (g : SetSt → SetSt) : (s.modSet t k g).fwd = s.fwd := rfl
@[simp] theorem State.modSet_cache (t k : Nat) (g : SetSt → SetSt) : (s.modSet t k g).cache = s.cache := rfl
@[simp] theorem State.modSet_notes (t k : Nat) (g : SetSt → SetSt) : (s.modSet t k g).notes = s.notes := rfl
@[simp] theorem State.modSet_updates (t k : Nat) (g : SetSt → SetSt) : (s.modSet t k g).updates = s.updates := rfl
@[simp] theorem State.modSet_heldUpdates (t k : Nat) (g : SetSt → SetSt) : (s.modSet t k g).heldUpdates = s.heldUpdates := rfl
@[simp] theorem State.modSet_lastSeq (t k : Nat) (g : SetSt → SetSt) : (s.modSet t k g).lastSeq = s.lastSeq := rfl
@[simp] theorem State.modSet_seqLocks (t k : Nat) (g : SetSt → SetSt) : (s.modSet t k g).seqLocks = s.seqLocks := rfl
@[simp] theorem State.modSet_dieLocks (t k : Nat) (g : SetSt → SetSt) : (s.modSet t k g).dieLocks = s.dieLocks := rfl
@[simp] theorem State.modSet_ageAt (t k : Nat) (g : SetSt → SetSt) : (s.modSet t k g).ageAt = s.ageAt := rfl
@[simp] theorem State.modSet_touchSent (t k : Nat) (g : SetSt → SetSt) : (s.modSet t k g).touchSent = s.touchSent := rfl
@[simp] theorem State.modSet_quotaSaid (t k : Nat) (g : SetSt → SetSt) : (s.modSet t k g).quotaSaid = s.quotaSaid := rfl
@[simp] theorem State.modSet_ringLost (t k : Nat) (g : SetSt → SetSt) : (s.modSet t k g).ringLost = s.ringLost := rfl
@[simp] theorem State.modSet_pendSince (t k : Nat) (g : SetSt → SetSt) : (s.modSet t k g).pendSince = s.pendSince := rfl
@[simp] theorem State.modSet_keys (t k : Nat) (g : SetSt → SetSt) : (s.modSet t k g).keys = s.keys := rfl
@[simp] theorem State.modSet_loadedAt (t k : Nat) (g : SetSt → SetSt) : (s.modSet t k g).loadedAt = s.loadedAt := rfl
@[simp] theorem State.modSet_roots (t k : Nat) (g : SetSt → SetSt) : (s.modSet t k g).roots = s.roots := rfl
@[simp] theorem State.modSet_oldBind (t k : Nat) (g : SetSt → SetSt) : (s.modSet t k g).oldBind = s.oldBind := rfl
@[simp] theorem State.modSet_switches (t k : Nat) (g : SetSt → SetSt) : (s.modSet t k g).switches = s.switches := rfl
@[simp] theorem State.modSet_xgemIndex (t k : Nat) (g : SetSt → SetSt) : (s.modSet t k g).xgemIndex = s.xgemIndex := rfl
@[simp] theorem State.modSet_frags (t k : Nat) (g : SetSt → SetSt) : (s.modSet t k g).frags = s.frags := rfl
@[simp] theorem State.modSet_keyFrame (t k : Nat) (g : SetSt → SetSt) : (s.modSet t k g).keyFrame = s.keyFrame := rfl
@[simp] theorem State.modSet_labels (t k : Nat) (g : SetSt → SetSt) : (s.modSet t k g).labels = s.labels := rfl
@[simp] theorem State.modSet_queues (t k : Nat) (g : SetSt → SetSt) : (s.modSet t k g).queues = s.queues := rfl
@[simp] theorem State.modSet_qstat (t k : Nat) (g : SetSt → SetSt) : (s.modSet t k g).qstat = s.qstat := rfl
@[simp] theorem State.modSet_offers (t k : Nat) (g : SetSt → SetSt) : (s.modSet t k g).offers = s.offers := rfl
@[simp] theorem State.modSet_felt (t k : Nat) (g : SetSt → SetSt) : (s.modSet t k g).felt = s.felt := rfl
@[simp] theorem State.modSet_drain (t k : Nat) (g : SetSt → SetSt) : (s.modSet t k g).drain = s.drain := rfl
@[simp] theorem State.modSet_inbox (t k : Nat) (g : SetSt → SetSt) : (s.modSet t k g).inbox = s.inbox := rfl
@[simp] theorem State.modSet_laneOut (t k : Nat) (g : SetSt → SetSt) : (s.modSet t k g).laneOut = s.laneOut := rfl
@[simp] theorem State.modSet_cellPos (t k : Nat) (g : SetSt → SetSt) : (s.modSet t k g).cellPos = s.cellPos := rfl
@[simp] theorem State.modSet_credit (t k : Nat) (g : SetSt → SetSt) : (s.modSet t k g).credit = s.credit := rfl
@[simp] theorem State.modSet_lanes (t k : Nat) (g : SetSt → SetSt) : (s.modSet t k g).lanes = s.lanes := rfl
@[simp] theorem State.modSet_owed (t k : Nat) (g : SetSt → SetSt) : (s.modSet t k g).owed = s.owed := rfl
@[simp] theorem State.modSet_rxPart (t k : Nat) (g : SetSt → SetSt) : (s.modSet t k g).rxPart = s.rxPart := rfl
@[simp] theorem State.modSet_rxReady (t k : Nat) (g : SetSt → SetSt) : (s.modSet t k g).rxReady = s.rxReady := rfl
@[simp] theorem State.modSet_oam (t k : Nat) (g : SetSt → SetSt) : (s.modSet t k g).oam = s.oam := rfl
@[simp] theorem State.modSet_replays (t k : Nat) (g : SetSt → SetSt) : (s.modSet t k g).replays = s.replays := rfl
@[simp] theorem State.modSet_ceWaiting (t k : Nat) (g : SetSt → SetSt) : (s.modSet t k g).ceWaiting = s.ceWaiting := rfl
@[simp] theorem State.modSet_elim (t k : Nat) (g : SetSt → SetSt) : (s.modSet t k g).elim = s.elim := rfl
@[simp] theorem State.modSet_stamps (t k : Nat) (g : SetSt → SetSt) : (s.modSet t k g).stamps = s.stamps := rfl
@[simp] theorem State.modSet_saidAt (t k : Nat) (g : SetSt → SetSt) : (s.modSet t k g).saidAt = s.saidAt := rfl
@[simp] theorem State.modSet_netSec (t k : Nat) (g : SetSt → SetSt) : (s.modSet t k g).netSec = s.netSec := rfl
@[simp] theorem State.modSet_netFrac (t k : Nat) (g : SetSt → SetSt) : (s.modSet t k g).netFrac = s.netFrac := rfl
@[simp] theorem State.modSet_uses (t k : Nat) (g : SetSt → SetSt) : (s.modSet t k g).uses = s.uses := rfl
@[simp] theorem State.modSet_outbox (t k : Nat) (g : SetSt → SetSt) : (s.modSet t k g).outbox = s.outbox := rfl
@[simp] theorem State.modSet_pending (t k : Nat) (g : SetSt → SetSt) : (s.modSet t k g).pending = s.pending := rfl

/-! ### modTree -/

@[simp] theorem State.modTree_ident (t : Nat) (g : TreeSt → TreeSt) : (s.modTree t g).ident = s.ident := rfl
@[simp] theorem State.modTree_regs (t : Nat) (g : TreeSt → TreeSt) : (s.modTree t g).regs = s.regs := rfl
@[simp] theorem State.modTree_live (t : Nat) (g : TreeSt → TreeSt) : (s.modTree t g).live = s.live := rfl
@[simp] theorem State.modTree_sects (t : Nat) (g : TreeSt → TreeSt) : (s.modTree t g).sects = s.sects := rfl
@[simp] theorem State.modTree_latches (t : Nat) (g : TreeSt → TreeSt) : (s.modTree t g).latches = s.latches := rfl
@[simp] theorem State.modTree_chans (t : Nat) (g : TreeSt → TreeSt) : (s.modTree t g).chans = s.chans := rfl
@[simp] theorem State.modTree_loader (t : Nat) (g : TreeSt → TreeSt) : (s.modTree t g).loader = s.loader := rfl
@[simp] theorem State.modTree_slots (t : Nat) (g : TreeSt → TreeSt) : (s.modTree t g).slots = s.slots := rfl
@[simp] theorem State.modTree_slotBad (t : Nat) (g : TreeSt → TreeSt) : (s.modTree t g).slotBad = s.slotBad := rfl
@[simp] theorem State.modTree_mram (t : Nat) (g : TreeSt → TreeSt) : (s.modTree t g).mram = s.mram := rfl
@[simp] theorem State.modTree_cores (t : Nat) (g : TreeSt → TreeSt) : (s.modTree t g).cores = s.cores := rfl
@[simp] theorem State.modTree_ctxStore (t : Nat) (g : TreeSt → TreeSt) : (s.modTree t g).ctxStore = s.ctxStore := rfl
@[simp] theorem State.modTree_tweed (t : Nat) (g : TreeSt → TreeSt) : (s.modTree t g).tweed = s.tweed := rfl
@[simp] theorem State.modTree_rotations (t : Nat) (g : TreeSt → TreeSt) : (s.modTree t g).rotations = s.rotations := rfl
@[simp] theorem State.modTree_stats (t : Nat) (g : TreeSt → TreeSt) : (s.modTree t g).stats = s.stats := rfl
@[simp] theorem State.modTree_dev (t : Nat) (g : TreeSt → TreeSt) : (s.modTree t g).dev = s.dev := rfl
@[simp] theorem State.modTree_perf (t : Nat) (g : TreeSt → TreeSt) : (s.modTree t g).perf = s.perf := rfl
@[simp] theorem State.modTree_channels (t : Nat) (g : TreeSt → TreeSt) : (s.modTree t g).channels = s.channels := rfl
@[simp] theorem State.modTree_dieStacks (t : Nat) (g : TreeSt → TreeSt) : (s.modTree t g).dieStacks = s.dieStacks := rfl
@[simp] theorem State.modTree_clock (t : Nat) (g : TreeSt → TreeSt) : (s.modTree t g).clock = s.clock := rfl
@[simp] theorem State.modTree_pair (t : Nat) (g : TreeSt → TreeSt) : (s.modTree t g).pair = s.pair := rfl
@[simp] theorem State.modTree_snap (t : Nat) (g : TreeSt → TreeSt) : (s.modTree t g).snap = s.snap := rfl
@[simp] theorem State.modTree_dma (t : Nat) (g : TreeSt → TreeSt) : (s.modTree t g).dma = s.dma := rfl
@[simp] theorem State.modTree_pci (t : Nat) (g : TreeSt → TreeSt) : (s.modTree t g).pci = s.pci := rfl
@[simp] theorem State.modTree_power (t : Nat) (g : TreeSt → TreeSt) : (s.modTree t g).power = s.power := rfl
@[simp] theorem State.modTree_supply (t : Nat) (g : TreeSt → TreeSt) : (s.modTree t g).supply = s.supply := rfl
@[simp] theorem State.modTree_bwAcc (t : Nat) (g : TreeSt → TreeSt) : (s.modTree t g).bwAcc = s.bwAcc := rfl
@[simp] theorem State.modTree_sets (t : Nat) (g : TreeSt → TreeSt) : (s.modTree t g).sets = s.sets := rfl
@[simp] theorem State.modTree_trees (t : Nat) (g : TreeSt → TreeSt) : (s.modTree t g).trees = s.trees.set ⟨t, 0⟩ {} (g (s.tree t)) := rfl
@[simp] theorem State.modTree_terms (t : Nat) (g : TreeSt → TreeSt) : (s.modTree t g).terms = s.terms := rfl
@[simp] theorem State.modTree_allocs (t : Nat) (g : TreeSt → TreeSt) : (s.modTree t g).allocs = s.allocs := rfl
@[simp] theorem State.modTree_resv (t : Nat) (g : TreeSt → TreeSt) : (s.modTree t g).resv = s.resv := rfl
@[simp] theorem State.modTree_rot (t : Nat) (g : TreeSt → TreeSt) : (s.modTree t g).rot = s.rot := rfl
@[simp] theorem State.modTree_circs (t : Nat) (g : TreeSt → TreeSt) : (s.modTree t g).circs = s.circs := rfl
@[simp] theorem State.modTree_grps (t : Nat) (g : TreeSt → TreeSt) : (s.modTree t g).grps = s.grps := rfl
@[simp] theorem State.modTree_chkSeen (t : Nat) (g : TreeSt → TreeSt) : (s.modTree t g).chkSeen = s.chkSeen := rfl
@[simp] theorem State.modTree_exact (t : Nat) (g : TreeSt → TreeSt) : (s.modTree t g).exact = s.exact := rfl
@[simp] theorem State.modTree_tern (t : Nat) (g : TreeSt → TreeSt) : (s.modTree t g).tern = s.tern := rfl
@[simp] theorem State.modTree_fwd (t : Nat) (g : TreeSt → TreeSt) : (s.modTree t g).fwd = s.fwd := rfl
@[simp] theorem State.modTree_cache (t : Nat) (g : TreeSt → TreeSt) : (s.modTree t g).cache = s.cache := rfl
@[simp] theorem State.modTree_notes (t : Nat) (g : TreeSt → TreeSt) : (s.modTree t g).notes = s.notes := rfl
@[simp] theorem State.modTree_updates (t : Nat) (g : TreeSt → TreeSt) : (s.modTree t g).updates = s.updates := rfl
@[simp] theorem State.modTree_heldUpdates (t : Nat) (g : TreeSt → TreeSt) : (s.modTree t g).heldUpdates = s.heldUpdates := rfl
@[simp] theorem State.modTree_lastSeq (t : Nat) (g : TreeSt → TreeSt) : (s.modTree t g).lastSeq = s.lastSeq := rfl
@[simp] theorem State.modTree_seqLocks (t : Nat) (g : TreeSt → TreeSt) : (s.modTree t g).seqLocks = s.seqLocks := rfl
@[simp] theorem State.modTree_dieLocks (t : Nat) (g : TreeSt → TreeSt) : (s.modTree t g).dieLocks = s.dieLocks := rfl
@[simp] theorem State.modTree_ageAt (t : Nat) (g : TreeSt → TreeSt) : (s.modTree t g).ageAt = s.ageAt := rfl
@[simp] theorem State.modTree_touchSent (t : Nat) (g : TreeSt → TreeSt) : (s.modTree t g).touchSent = s.touchSent := rfl
@[simp] theorem State.modTree_quotaSaid (t : Nat) (g : TreeSt → TreeSt) : (s.modTree t g).quotaSaid = s.quotaSaid := rfl
@[simp] theorem State.modTree_ringLost (t : Nat) (g : TreeSt → TreeSt) : (s.modTree t g).ringLost = s.ringLost := rfl
@[simp] theorem State.modTree_pendSince (t : Nat) (g : TreeSt → TreeSt) : (s.modTree t g).pendSince = s.pendSince := rfl
@[simp] theorem State.modTree_keys (t : Nat) (g : TreeSt → TreeSt) : (s.modTree t g).keys = s.keys := rfl
@[simp] theorem State.modTree_loadedAt (t : Nat) (g : TreeSt → TreeSt) : (s.modTree t g).loadedAt = s.loadedAt := rfl
@[simp] theorem State.modTree_roots (t : Nat) (g : TreeSt → TreeSt) : (s.modTree t g).roots = s.roots := rfl
@[simp] theorem State.modTree_oldBind (t : Nat) (g : TreeSt → TreeSt) : (s.modTree t g).oldBind = s.oldBind := rfl
@[simp] theorem State.modTree_switches (t : Nat) (g : TreeSt → TreeSt) : (s.modTree t g).switches = s.switches := rfl
@[simp] theorem State.modTree_xgemIndex (t : Nat) (g : TreeSt → TreeSt) : (s.modTree t g).xgemIndex = s.xgemIndex := rfl
@[simp] theorem State.modTree_frags (t : Nat) (g : TreeSt → TreeSt) : (s.modTree t g).frags = s.frags := rfl
@[simp] theorem State.modTree_keyFrame (t : Nat) (g : TreeSt → TreeSt) : (s.modTree t g).keyFrame = s.keyFrame := rfl
@[simp] theorem State.modTree_labels (t : Nat) (g : TreeSt → TreeSt) : (s.modTree t g).labels = s.labels := rfl
@[simp] theorem State.modTree_queues (t : Nat) (g : TreeSt → TreeSt) : (s.modTree t g).queues = s.queues := rfl
@[simp] theorem State.modTree_qstat (t : Nat) (g : TreeSt → TreeSt) : (s.modTree t g).qstat = s.qstat := rfl
@[simp] theorem State.modTree_offers (t : Nat) (g : TreeSt → TreeSt) : (s.modTree t g).offers = s.offers := rfl
@[simp] theorem State.modTree_felt (t : Nat) (g : TreeSt → TreeSt) : (s.modTree t g).felt = s.felt := rfl
@[simp] theorem State.modTree_drain (t : Nat) (g : TreeSt → TreeSt) : (s.modTree t g).drain = s.drain := rfl
@[simp] theorem State.modTree_inbox (t : Nat) (g : TreeSt → TreeSt) : (s.modTree t g).inbox = s.inbox := rfl
@[simp] theorem State.modTree_laneOut (t : Nat) (g : TreeSt → TreeSt) : (s.modTree t g).laneOut = s.laneOut := rfl
@[simp] theorem State.modTree_cellPos (t : Nat) (g : TreeSt → TreeSt) : (s.modTree t g).cellPos = s.cellPos := rfl
@[simp] theorem State.modTree_credit (t : Nat) (g : TreeSt → TreeSt) : (s.modTree t g).credit = s.credit := rfl
@[simp] theorem State.modTree_lanes (t : Nat) (g : TreeSt → TreeSt) : (s.modTree t g).lanes = s.lanes := rfl
@[simp] theorem State.modTree_owed (t : Nat) (g : TreeSt → TreeSt) : (s.modTree t g).owed = s.owed := rfl
@[simp] theorem State.modTree_rxPart (t : Nat) (g : TreeSt → TreeSt) : (s.modTree t g).rxPart = s.rxPart := rfl
@[simp] theorem State.modTree_rxReady (t : Nat) (g : TreeSt → TreeSt) : (s.modTree t g).rxReady = s.rxReady := rfl
@[simp] theorem State.modTree_oam (t : Nat) (g : TreeSt → TreeSt) : (s.modTree t g).oam = s.oam := rfl
@[simp] theorem State.modTree_replays (t : Nat) (g : TreeSt → TreeSt) : (s.modTree t g).replays = s.replays := rfl
@[simp] theorem State.modTree_ceWaiting (t : Nat) (g : TreeSt → TreeSt) : (s.modTree t g).ceWaiting = s.ceWaiting := rfl
@[simp] theorem State.modTree_elim (t : Nat) (g : TreeSt → TreeSt) : (s.modTree t g).elim = s.elim := rfl
@[simp] theorem State.modTree_stamps (t : Nat) (g : TreeSt → TreeSt) : (s.modTree t g).stamps = s.stamps := rfl
@[simp] theorem State.modTree_saidAt (t : Nat) (g : TreeSt → TreeSt) : (s.modTree t g).saidAt = s.saidAt := rfl
@[simp] theorem State.modTree_netSec (t : Nat) (g : TreeSt → TreeSt) : (s.modTree t g).netSec = s.netSec := rfl
@[simp] theorem State.modTree_netFrac (t : Nat) (g : TreeSt → TreeSt) : (s.modTree t g).netFrac = s.netFrac := rfl
@[simp] theorem State.modTree_uses (t : Nat) (g : TreeSt → TreeSt) : (s.modTree t g).uses = s.uses := rfl
@[simp] theorem State.modTree_outbox (t : Nat) (g : TreeSt → TreeSt) : (s.modTree t g).outbox = s.outbox := rfl
@[simp] theorem State.modTree_pending (t : Nat) (g : TreeSt → TreeSt) : (s.modTree t g).pending = s.pending := rfl

/-! ### modTerm -/

@[simp] theorem State.modTerm_ident (t k : Nat) (g : TermSt → TermSt) : (s.modTerm t k g).ident = s.ident := rfl
@[simp] theorem State.modTerm_regs (t k : Nat) (g : TermSt → TermSt) : (s.modTerm t k g).regs = s.regs := rfl
@[simp] theorem State.modTerm_live (t k : Nat) (g : TermSt → TermSt) : (s.modTerm t k g).live = s.live := rfl
@[simp] theorem State.modTerm_sects (t k : Nat) (g : TermSt → TermSt) : (s.modTerm t k g).sects = s.sects := rfl
@[simp] theorem State.modTerm_latches (t k : Nat) (g : TermSt → TermSt) : (s.modTerm t k g).latches = s.latches := rfl
@[simp] theorem State.modTerm_chans (t k : Nat) (g : TermSt → TermSt) : (s.modTerm t k g).chans = s.chans := rfl
@[simp] theorem State.modTerm_loader (t k : Nat) (g : TermSt → TermSt) : (s.modTerm t k g).loader = s.loader := rfl
@[simp] theorem State.modTerm_slots (t k : Nat) (g : TermSt → TermSt) : (s.modTerm t k g).slots = s.slots := rfl
@[simp] theorem State.modTerm_slotBad (t k : Nat) (g : TermSt → TermSt) : (s.modTerm t k g).slotBad = s.slotBad := rfl
@[simp] theorem State.modTerm_mram (t k : Nat) (g : TermSt → TermSt) : (s.modTerm t k g).mram = s.mram := rfl
@[simp] theorem State.modTerm_cores (t k : Nat) (g : TermSt → TermSt) : (s.modTerm t k g).cores = s.cores := rfl
@[simp] theorem State.modTerm_ctxStore (t k : Nat) (g : TermSt → TermSt) : (s.modTerm t k g).ctxStore = s.ctxStore := rfl
@[simp] theorem State.modTerm_tweed (t k : Nat) (g : TermSt → TermSt) : (s.modTerm t k g).tweed = s.tweed := rfl
@[simp] theorem State.modTerm_rotations (t k : Nat) (g : TermSt → TermSt) : (s.modTerm t k g).rotations = s.rotations := rfl
@[simp] theorem State.modTerm_stats (t k : Nat) (g : TermSt → TermSt) : (s.modTerm t k g).stats = s.stats := rfl
@[simp] theorem State.modTerm_dev (t k : Nat) (g : TermSt → TermSt) : (s.modTerm t k g).dev = s.dev := rfl
@[simp] theorem State.modTerm_perf (t k : Nat) (g : TermSt → TermSt) : (s.modTerm t k g).perf = s.perf := rfl
@[simp] theorem State.modTerm_channels (t k : Nat) (g : TermSt → TermSt) : (s.modTerm t k g).channels = s.channels := rfl
@[simp] theorem State.modTerm_dieStacks (t k : Nat) (g : TermSt → TermSt) : (s.modTerm t k g).dieStacks = s.dieStacks := rfl
@[simp] theorem State.modTerm_clock (t k : Nat) (g : TermSt → TermSt) : (s.modTerm t k g).clock = s.clock := rfl
@[simp] theorem State.modTerm_pair (t k : Nat) (g : TermSt → TermSt) : (s.modTerm t k g).pair = s.pair := rfl
@[simp] theorem State.modTerm_snap (t k : Nat) (g : TermSt → TermSt) : (s.modTerm t k g).snap = s.snap := rfl
@[simp] theorem State.modTerm_dma (t k : Nat) (g : TermSt → TermSt) : (s.modTerm t k g).dma = s.dma := rfl
@[simp] theorem State.modTerm_pci (t k : Nat) (g : TermSt → TermSt) : (s.modTerm t k g).pci = s.pci := rfl
@[simp] theorem State.modTerm_power (t k : Nat) (g : TermSt → TermSt) : (s.modTerm t k g).power = s.power := rfl
@[simp] theorem State.modTerm_supply (t k : Nat) (g : TermSt → TermSt) : (s.modTerm t k g).supply = s.supply := rfl
@[simp] theorem State.modTerm_bwAcc (t k : Nat) (g : TermSt → TermSt) : (s.modTerm t k g).bwAcc = s.bwAcc := rfl
@[simp] theorem State.modTerm_sets (t k : Nat) (g : TermSt → TermSt) : (s.modTerm t k g).sets = s.sets := rfl
@[simp] theorem State.modTerm_trees (t k : Nat) (g : TermSt → TermSt) : (s.modTerm t k g).trees = s.trees := rfl
@[simp] theorem State.modTerm_terms (t k : Nat) (g : TermSt → TermSt) : (s.modTerm t k g).terms = s.terms.set ⟨t, k⟩ {} (g (s.term t k)) := rfl
@[simp] theorem State.modTerm_allocs (t k : Nat) (g : TermSt → TermSt) : (s.modTerm t k g).allocs = s.allocs := rfl
@[simp] theorem State.modTerm_resv (t k : Nat) (g : TermSt → TermSt) : (s.modTerm t k g).resv = s.resv := rfl
@[simp] theorem State.modTerm_rot (t k : Nat) (g : TermSt → TermSt) : (s.modTerm t k g).rot = s.rot := rfl
@[simp] theorem State.modTerm_circs (t k : Nat) (g : TermSt → TermSt) : (s.modTerm t k g).circs = s.circs := rfl
@[simp] theorem State.modTerm_grps (t k : Nat) (g : TermSt → TermSt) : (s.modTerm t k g).grps = s.grps := rfl
@[simp] theorem State.modTerm_chkSeen (t k : Nat) (g : TermSt → TermSt) : (s.modTerm t k g).chkSeen = s.chkSeen := rfl
@[simp] theorem State.modTerm_exact (t k : Nat) (g : TermSt → TermSt) : (s.modTerm t k g).exact = s.exact := rfl
@[simp] theorem State.modTerm_tern (t k : Nat) (g : TermSt → TermSt) : (s.modTerm t k g).tern = s.tern := rfl
@[simp] theorem State.modTerm_fwd (t k : Nat) (g : TermSt → TermSt) : (s.modTerm t k g).fwd = s.fwd := rfl
@[simp] theorem State.modTerm_cache (t k : Nat) (g : TermSt → TermSt) : (s.modTerm t k g).cache = s.cache := rfl
@[simp] theorem State.modTerm_notes (t k : Nat) (g : TermSt → TermSt) : (s.modTerm t k g).notes = s.notes := rfl
@[simp] theorem State.modTerm_updates (t k : Nat) (g : TermSt → TermSt) : (s.modTerm t k g).updates = s.updates := rfl
@[simp] theorem State.modTerm_heldUpdates (t k : Nat) (g : TermSt → TermSt) : (s.modTerm t k g).heldUpdates = s.heldUpdates := rfl
@[simp] theorem State.modTerm_lastSeq (t k : Nat) (g : TermSt → TermSt) : (s.modTerm t k g).lastSeq = s.lastSeq := rfl
@[simp] theorem State.modTerm_seqLocks (t k : Nat) (g : TermSt → TermSt) : (s.modTerm t k g).seqLocks = s.seqLocks := rfl
@[simp] theorem State.modTerm_dieLocks (t k : Nat) (g : TermSt → TermSt) : (s.modTerm t k g).dieLocks = s.dieLocks := rfl
@[simp] theorem State.modTerm_ageAt (t k : Nat) (g : TermSt → TermSt) : (s.modTerm t k g).ageAt = s.ageAt := rfl
@[simp] theorem State.modTerm_touchSent (t k : Nat) (g : TermSt → TermSt) : (s.modTerm t k g).touchSent = s.touchSent := rfl
@[simp] theorem State.modTerm_quotaSaid (t k : Nat) (g : TermSt → TermSt) : (s.modTerm t k g).quotaSaid = s.quotaSaid := rfl
@[simp] theorem State.modTerm_ringLost (t k : Nat) (g : TermSt → TermSt) : (s.modTerm t k g).ringLost = s.ringLost := rfl
@[simp] theorem State.modTerm_pendSince (t k : Nat) (g : TermSt → TermSt) : (s.modTerm t k g).pendSince = s.pendSince := rfl
@[simp] theorem State.modTerm_keys (t k : Nat) (g : TermSt → TermSt) : (s.modTerm t k g).keys = s.keys := rfl
@[simp] theorem State.modTerm_loadedAt (t k : Nat) (g : TermSt → TermSt) : (s.modTerm t k g).loadedAt = s.loadedAt := rfl
@[simp] theorem State.modTerm_roots (t k : Nat) (g : TermSt → TermSt) : (s.modTerm t k g).roots = s.roots := rfl
@[simp] theorem State.modTerm_oldBind (t k : Nat) (g : TermSt → TermSt) : (s.modTerm t k g).oldBind = s.oldBind := rfl
@[simp] theorem State.modTerm_switches (t k : Nat) (g : TermSt → TermSt) : (s.modTerm t k g).switches = s.switches := rfl
@[simp] theorem State.modTerm_xgemIndex (t k : Nat) (g : TermSt → TermSt) : (s.modTerm t k g).xgemIndex = s.xgemIndex := rfl
@[simp] theorem State.modTerm_frags (t k : Nat) (g : TermSt → TermSt) : (s.modTerm t k g).frags = s.frags := rfl
@[simp] theorem State.modTerm_keyFrame (t k : Nat) (g : TermSt → TermSt) : (s.modTerm t k g).keyFrame = s.keyFrame := rfl
@[simp] theorem State.modTerm_labels (t k : Nat) (g : TermSt → TermSt) : (s.modTerm t k g).labels = s.labels := rfl
@[simp] theorem State.modTerm_queues (t k : Nat) (g : TermSt → TermSt) : (s.modTerm t k g).queues = s.queues := rfl
@[simp] theorem State.modTerm_qstat (t k : Nat) (g : TermSt → TermSt) : (s.modTerm t k g).qstat = s.qstat := rfl
@[simp] theorem State.modTerm_offers (t k : Nat) (g : TermSt → TermSt) : (s.modTerm t k g).offers = s.offers := rfl
@[simp] theorem State.modTerm_felt (t k : Nat) (g : TermSt → TermSt) : (s.modTerm t k g).felt = s.felt := rfl
@[simp] theorem State.modTerm_drain (t k : Nat) (g : TermSt → TermSt) : (s.modTerm t k g).drain = s.drain := rfl
@[simp] theorem State.modTerm_inbox (t k : Nat) (g : TermSt → TermSt) : (s.modTerm t k g).inbox = s.inbox := rfl
@[simp] theorem State.modTerm_laneOut (t k : Nat) (g : TermSt → TermSt) : (s.modTerm t k g).laneOut = s.laneOut := rfl
@[simp] theorem State.modTerm_cellPos (t k : Nat) (g : TermSt → TermSt) : (s.modTerm t k g).cellPos = s.cellPos := rfl
@[simp] theorem State.modTerm_credit (t k : Nat) (g : TermSt → TermSt) : (s.modTerm t k g).credit = s.credit := rfl
@[simp] theorem State.modTerm_lanes (t k : Nat) (g : TermSt → TermSt) : (s.modTerm t k g).lanes = s.lanes := rfl
@[simp] theorem State.modTerm_owed (t k : Nat) (g : TermSt → TermSt) : (s.modTerm t k g).owed = s.owed := rfl
@[simp] theorem State.modTerm_rxPart (t k : Nat) (g : TermSt → TermSt) : (s.modTerm t k g).rxPart = s.rxPart := rfl
@[simp] theorem State.modTerm_rxReady (t k : Nat) (g : TermSt → TermSt) : (s.modTerm t k g).rxReady = s.rxReady := rfl
@[simp] theorem State.modTerm_oam (t k : Nat) (g : TermSt → TermSt) : (s.modTerm t k g).oam = s.oam := rfl
@[simp] theorem State.modTerm_replays (t k : Nat) (g : TermSt → TermSt) : (s.modTerm t k g).replays = s.replays := rfl
@[simp] theorem State.modTerm_ceWaiting (t k : Nat) (g : TermSt → TermSt) : (s.modTerm t k g).ceWaiting = s.ceWaiting := rfl
@[simp] theorem State.modTerm_elim (t k : Nat) (g : TermSt → TermSt) : (s.modTerm t k g).elim = s.elim := rfl
@[simp] theorem State.modTerm_stamps (t k : Nat) (g : TermSt → TermSt) : (s.modTerm t k g).stamps = s.stamps := rfl
@[simp] theorem State.modTerm_saidAt (t k : Nat) (g : TermSt → TermSt) : (s.modTerm t k g).saidAt = s.saidAt := rfl
@[simp] theorem State.modTerm_netSec (t k : Nat) (g : TermSt → TermSt) : (s.modTerm t k g).netSec = s.netSec := rfl
@[simp] theorem State.modTerm_netFrac (t k : Nat) (g : TermSt → TermSt) : (s.modTerm t k g).netFrac = s.netFrac := rfl
@[simp] theorem State.modTerm_uses (t k : Nat) (g : TermSt → TermSt) : (s.modTerm t k g).uses = s.uses := rfl
@[simp] theorem State.modTerm_outbox (t k : Nat) (g : TermSt → TermSt) : (s.modTerm t k g).outbox = s.outbox := rfl
@[simp] theorem State.modTerm_pending (t k : Nat) (g : TermSt → TermSt) : (s.modTerm t k g).pending = s.pending := rfl

/-! ### modTweed -/

@[simp] theorem State.modTweed_ident (d : Nat) (g : Tweed → Tweed) : (s.modTweed d g).ident = s.ident := rfl
@[simp] theorem State.modTweed_regs (d : Nat) (g : Tweed → Tweed) : (s.modTweed d g).regs = s.regs := rfl
@[simp] theorem State.modTweed_live (d : Nat) (g : Tweed → Tweed) : (s.modTweed d g).live = s.live := rfl
@[simp] theorem State.modTweed_sects (d : Nat) (g : Tweed → Tweed) : (s.modTweed d g).sects = s.sects := rfl
@[simp] theorem State.modTweed_latches (d : Nat) (g : Tweed → Tweed) : (s.modTweed d g).latches = s.latches := rfl
@[simp] theorem State.modTweed_chans (d : Nat) (g : Tweed → Tweed) : (s.modTweed d g).chans = s.chans := rfl
@[simp] theorem State.modTweed_loader (d : Nat) (g : Tweed → Tweed) : (s.modTweed d g).loader = s.loader := rfl
@[simp] theorem State.modTweed_slots (d : Nat) (g : Tweed → Tweed) : (s.modTweed d g).slots = s.slots := rfl
@[simp] theorem State.modTweed_slotBad (d : Nat) (g : Tweed → Tweed) : (s.modTweed d g).slotBad = s.slotBad := rfl
@[simp] theorem State.modTweed_mram (d : Nat) (g : Tweed → Tweed) : (s.modTweed d g).mram = s.mram := rfl
@[simp] theorem State.modTweed_cores (d : Nat) (g : Tweed → Tweed) : (s.modTweed d g).cores = s.cores := rfl
@[simp] theorem State.modTweed_ctxStore (d : Nat) (g : Tweed → Tweed) : (s.modTweed d g).ctxStore = s.ctxStore := rfl
@[simp] theorem State.modTweed_tweed (d : Nat) (g : Tweed → Tweed) : (s.modTweed d g).tweed = s.tweed.set ⟨d, 0⟩ {} (g (s.tweedOf d)) := rfl
@[simp] theorem State.modTweed_rotations (d : Nat) (g : Tweed → Tweed) : (s.modTweed d g).rotations = s.rotations := rfl
@[simp] theorem State.modTweed_stats (d : Nat) (g : Tweed → Tweed) : (s.modTweed d g).stats = s.stats := rfl
@[simp] theorem State.modTweed_dev (d : Nat) (g : Tweed → Tweed) : (s.modTweed d g).dev = s.dev := rfl
@[simp] theorem State.modTweed_perf (d : Nat) (g : Tweed → Tweed) : (s.modTweed d g).perf = s.perf := rfl
@[simp] theorem State.modTweed_channels (d : Nat) (g : Tweed → Tweed) : (s.modTweed d g).channels = s.channels := rfl
@[simp] theorem State.modTweed_dieStacks (d : Nat) (g : Tweed → Tweed) : (s.modTweed d g).dieStacks = s.dieStacks := rfl
@[simp] theorem State.modTweed_clock (d : Nat) (g : Tweed → Tweed) : (s.modTweed d g).clock = s.clock := rfl
@[simp] theorem State.modTweed_pair (d : Nat) (g : Tweed → Tweed) : (s.modTweed d g).pair = s.pair := rfl
@[simp] theorem State.modTweed_snap (d : Nat) (g : Tweed → Tweed) : (s.modTweed d g).snap = s.snap := rfl
@[simp] theorem State.modTweed_dma (d : Nat) (g : Tweed → Tweed) : (s.modTweed d g).dma = s.dma := rfl
@[simp] theorem State.modTweed_pci (d : Nat) (g : Tweed → Tweed) : (s.modTweed d g).pci = s.pci := rfl
@[simp] theorem State.modTweed_power (d : Nat) (g : Tweed → Tweed) : (s.modTweed d g).power = s.power := rfl
@[simp] theorem State.modTweed_supply (d : Nat) (g : Tweed → Tweed) : (s.modTweed d g).supply = s.supply := rfl
@[simp] theorem State.modTweed_bwAcc (d : Nat) (g : Tweed → Tweed) : (s.modTweed d g).bwAcc = s.bwAcc := rfl
@[simp] theorem State.modTweed_sets (d : Nat) (g : Tweed → Tweed) : (s.modTweed d g).sets = s.sets := rfl
@[simp] theorem State.modTweed_trees (d : Nat) (g : Tweed → Tweed) : (s.modTweed d g).trees = s.trees := rfl
@[simp] theorem State.modTweed_terms (d : Nat) (g : Tweed → Tweed) : (s.modTweed d g).terms = s.terms := rfl
@[simp] theorem State.modTweed_allocs (d : Nat) (g : Tweed → Tweed) : (s.modTweed d g).allocs = s.allocs := rfl
@[simp] theorem State.modTweed_resv (d : Nat) (g : Tweed → Tweed) : (s.modTweed d g).resv = s.resv := rfl
@[simp] theorem State.modTweed_rot (d : Nat) (g : Tweed → Tweed) : (s.modTweed d g).rot = s.rot := rfl
@[simp] theorem State.modTweed_circs (d : Nat) (g : Tweed → Tweed) : (s.modTweed d g).circs = s.circs := rfl
@[simp] theorem State.modTweed_grps (d : Nat) (g : Tweed → Tweed) : (s.modTweed d g).grps = s.grps := rfl
@[simp] theorem State.modTweed_chkSeen (d : Nat) (g : Tweed → Tweed) : (s.modTweed d g).chkSeen = s.chkSeen := rfl
@[simp] theorem State.modTweed_exact (d : Nat) (g : Tweed → Tweed) : (s.modTweed d g).exact = s.exact := rfl
@[simp] theorem State.modTweed_tern (d : Nat) (g : Tweed → Tweed) : (s.modTweed d g).tern = s.tern := rfl
@[simp] theorem State.modTweed_fwd (d : Nat) (g : Tweed → Tweed) : (s.modTweed d g).fwd = s.fwd := rfl
@[simp] theorem State.modTweed_cache (d : Nat) (g : Tweed → Tweed) : (s.modTweed d g).cache = s.cache := rfl
@[simp] theorem State.modTweed_notes (d : Nat) (g : Tweed → Tweed) : (s.modTweed d g).notes = s.notes := rfl
@[simp] theorem State.modTweed_updates (d : Nat) (g : Tweed → Tweed) : (s.modTweed d g).updates = s.updates := rfl
@[simp] theorem State.modTweed_heldUpdates (d : Nat) (g : Tweed → Tweed) : (s.modTweed d g).heldUpdates = s.heldUpdates := rfl
@[simp] theorem State.modTweed_lastSeq (d : Nat) (g : Tweed → Tweed) : (s.modTweed d g).lastSeq = s.lastSeq := rfl
@[simp] theorem State.modTweed_seqLocks (d : Nat) (g : Tweed → Tweed) : (s.modTweed d g).seqLocks = s.seqLocks := rfl
@[simp] theorem State.modTweed_dieLocks (d : Nat) (g : Tweed → Tweed) : (s.modTweed d g).dieLocks = s.dieLocks := rfl
@[simp] theorem State.modTweed_ageAt (d : Nat) (g : Tweed → Tweed) : (s.modTweed d g).ageAt = s.ageAt := rfl
@[simp] theorem State.modTweed_touchSent (d : Nat) (g : Tweed → Tweed) : (s.modTweed d g).touchSent = s.touchSent := rfl
@[simp] theorem State.modTweed_quotaSaid (d : Nat) (g : Tweed → Tweed) : (s.modTweed d g).quotaSaid = s.quotaSaid := rfl
@[simp] theorem State.modTweed_ringLost (d : Nat) (g : Tweed → Tweed) : (s.modTweed d g).ringLost = s.ringLost := rfl
@[simp] theorem State.modTweed_pendSince (d : Nat) (g : Tweed → Tweed) : (s.modTweed d g).pendSince = s.pendSince := rfl
@[simp] theorem State.modTweed_keys (d : Nat) (g : Tweed → Tweed) : (s.modTweed d g).keys = s.keys := rfl
@[simp] theorem State.modTweed_loadedAt (d : Nat) (g : Tweed → Tweed) : (s.modTweed d g).loadedAt = s.loadedAt := rfl
@[simp] theorem State.modTweed_roots (d : Nat) (g : Tweed → Tweed) : (s.modTweed d g).roots = s.roots := rfl
@[simp] theorem State.modTweed_oldBind (d : Nat) (g : Tweed → Tweed) : (s.modTweed d g).oldBind = s.oldBind := rfl
@[simp] theorem State.modTweed_switches (d : Nat) (g : Tweed → Tweed) : (s.modTweed d g).switches = s.switches := rfl
@[simp] theorem State.modTweed_xgemIndex (d : Nat) (g : Tweed → Tweed) : (s.modTweed d g).xgemIndex = s.xgemIndex := rfl
@[simp] theorem State.modTweed_frags (d : Nat) (g : Tweed → Tweed) : (s.modTweed d g).frags = s.frags := rfl
@[simp] theorem State.modTweed_keyFrame (d : Nat) (g : Tweed → Tweed) : (s.modTweed d g).keyFrame = s.keyFrame := rfl
@[simp] theorem State.modTweed_labels (d : Nat) (g : Tweed → Tweed) : (s.modTweed d g).labels = s.labels := rfl
@[simp] theorem State.modTweed_queues (d : Nat) (g : Tweed → Tweed) : (s.modTweed d g).queues = s.queues := rfl
@[simp] theorem State.modTweed_qstat (d : Nat) (g : Tweed → Tweed) : (s.modTweed d g).qstat = s.qstat := rfl
@[simp] theorem State.modTweed_offers (d : Nat) (g : Tweed → Tweed) : (s.modTweed d g).offers = s.offers := rfl
@[simp] theorem State.modTweed_felt (d : Nat) (g : Tweed → Tweed) : (s.modTweed d g).felt = s.felt := rfl
@[simp] theorem State.modTweed_drain (d : Nat) (g : Tweed → Tweed) : (s.modTweed d g).drain = s.drain := rfl
@[simp] theorem State.modTweed_inbox (d : Nat) (g : Tweed → Tweed) : (s.modTweed d g).inbox = s.inbox := rfl
@[simp] theorem State.modTweed_laneOut (d : Nat) (g : Tweed → Tweed) : (s.modTweed d g).laneOut = s.laneOut := rfl
@[simp] theorem State.modTweed_cellPos (d : Nat) (g : Tweed → Tweed) : (s.modTweed d g).cellPos = s.cellPos := rfl
@[simp] theorem State.modTweed_credit (d : Nat) (g : Tweed → Tweed) : (s.modTweed d g).credit = s.credit := rfl
@[simp] theorem State.modTweed_lanes (d : Nat) (g : Tweed → Tweed) : (s.modTweed d g).lanes = s.lanes := rfl
@[simp] theorem State.modTweed_owed (d : Nat) (g : Tweed → Tweed) : (s.modTweed d g).owed = s.owed := rfl
@[simp] theorem State.modTweed_rxPart (d : Nat) (g : Tweed → Tweed) : (s.modTweed d g).rxPart = s.rxPart := rfl
@[simp] theorem State.modTweed_rxReady (d : Nat) (g : Tweed → Tweed) : (s.modTweed d g).rxReady = s.rxReady := rfl
@[simp] theorem State.modTweed_oam (d : Nat) (g : Tweed → Tweed) : (s.modTweed d g).oam = s.oam := rfl
@[simp] theorem State.modTweed_replays (d : Nat) (g : Tweed → Tweed) : (s.modTweed d g).replays = s.replays := rfl
@[simp] theorem State.modTweed_ceWaiting (d : Nat) (g : Tweed → Tweed) : (s.modTweed d g).ceWaiting = s.ceWaiting := rfl
@[simp] theorem State.modTweed_elim (d : Nat) (g : Tweed → Tweed) : (s.modTweed d g).elim = s.elim := rfl
@[simp] theorem State.modTweed_stamps (d : Nat) (g : Tweed → Tweed) : (s.modTweed d g).stamps = s.stamps := rfl
@[simp] theorem State.modTweed_saidAt (d : Nat) (g : Tweed → Tweed) : (s.modTweed d g).saidAt = s.saidAt := rfl
@[simp] theorem State.modTweed_netSec (d : Nat) (g : Tweed → Tweed) : (s.modTweed d g).netSec = s.netSec := rfl
@[simp] theorem State.modTweed_netFrac (d : Nat) (g : Tweed → Tweed) : (s.modTweed d g).netFrac = s.netFrac := rfl
@[simp] theorem State.modTweed_uses (d : Nat) (g : Tweed → Tweed) : (s.modTweed d g).uses = s.uses := rfl
@[simp] theorem State.modTweed_outbox (d : Nat) (g : Tweed → Tweed) : (s.modTweed d g).outbox = s.outbox := rfl
@[simp] theorem State.modTweed_pending (d : Nat) (g : Tweed → Tweed) : (s.modTweed d g).pending = s.pending := rfl

/-! ### modCore -/

@[simp] theorem State.modCore_ident (d : Nat) (g : CoreRegs → CoreRegs) : (s.modCore d g).ident = s.ident := rfl
@[simp] theorem State.modCore_regs (d : Nat) (g : CoreRegs → CoreRegs) : (s.modCore d g).regs = s.regs := rfl
@[simp] theorem State.modCore_live (d : Nat) (g : CoreRegs → CoreRegs) : (s.modCore d g).live = s.live := rfl
@[simp] theorem State.modCore_sects (d : Nat) (g : CoreRegs → CoreRegs) : (s.modCore d g).sects = s.sects := rfl
@[simp] theorem State.modCore_latches (d : Nat) (g : CoreRegs → CoreRegs) : (s.modCore d g).latches = s.latches := rfl
@[simp] theorem State.modCore_chans (d : Nat) (g : CoreRegs → CoreRegs) : (s.modCore d g).chans = s.chans := rfl
@[simp] theorem State.modCore_loader (d : Nat) (g : CoreRegs → CoreRegs) : (s.modCore d g).loader = s.loader := rfl
@[simp] theorem State.modCore_slots (d : Nat) (g : CoreRegs → CoreRegs) : (s.modCore d g).slots = s.slots := rfl
@[simp] theorem State.modCore_slotBad (d : Nat) (g : CoreRegs → CoreRegs) : (s.modCore d g).slotBad = s.slotBad := rfl
@[simp] theorem State.modCore_mram (d : Nat) (g : CoreRegs → CoreRegs) : (s.modCore d g).mram = s.mram := rfl
@[simp] theorem State.modCore_cores (d : Nat) (g : CoreRegs → CoreRegs) : (s.modCore d g).cores = s.cores.set ⟨d, 0⟩ {} (g (s.coreOf d)) := rfl
@[simp] theorem State.modCore_ctxStore (d : Nat) (g : CoreRegs → CoreRegs) : (s.modCore d g).ctxStore = s.ctxStore := rfl
@[simp] theorem State.modCore_tweed (d : Nat) (g : CoreRegs → CoreRegs) : (s.modCore d g).tweed = s.tweed := rfl
@[simp] theorem State.modCore_rotations (d : Nat) (g : CoreRegs → CoreRegs) : (s.modCore d g).rotations = s.rotations := rfl
@[simp] theorem State.modCore_stats (d : Nat) (g : CoreRegs → CoreRegs) : (s.modCore d g).stats = s.stats := rfl
@[simp] theorem State.modCore_dev (d : Nat) (g : CoreRegs → CoreRegs) : (s.modCore d g).dev = s.dev := rfl
@[simp] theorem State.modCore_perf (d : Nat) (g : CoreRegs → CoreRegs) : (s.modCore d g).perf = s.perf := rfl
@[simp] theorem State.modCore_channels (d : Nat) (g : CoreRegs → CoreRegs) : (s.modCore d g).channels = s.channels := rfl
@[simp] theorem State.modCore_dieStacks (d : Nat) (g : CoreRegs → CoreRegs) : (s.modCore d g).dieStacks = s.dieStacks := rfl
@[simp] theorem State.modCore_clock (d : Nat) (g : CoreRegs → CoreRegs) : (s.modCore d g).clock = s.clock := rfl
@[simp] theorem State.modCore_pair (d : Nat) (g : CoreRegs → CoreRegs) : (s.modCore d g).pair = s.pair := rfl
@[simp] theorem State.modCore_snap (d : Nat) (g : CoreRegs → CoreRegs) : (s.modCore d g).snap = s.snap := rfl
@[simp] theorem State.modCore_dma (d : Nat) (g : CoreRegs → CoreRegs) : (s.modCore d g).dma = s.dma := rfl
@[simp] theorem State.modCore_pci (d : Nat) (g : CoreRegs → CoreRegs) : (s.modCore d g).pci = s.pci := rfl
@[simp] theorem State.modCore_power (d : Nat) (g : CoreRegs → CoreRegs) : (s.modCore d g).power = s.power := rfl
@[simp] theorem State.modCore_supply (d : Nat) (g : CoreRegs → CoreRegs) : (s.modCore d g).supply = s.supply := rfl
@[simp] theorem State.modCore_bwAcc (d : Nat) (g : CoreRegs → CoreRegs) : (s.modCore d g).bwAcc = s.bwAcc := rfl
@[simp] theorem State.modCore_sets (d : Nat) (g : CoreRegs → CoreRegs) : (s.modCore d g).sets = s.sets := rfl
@[simp] theorem State.modCore_trees (d : Nat) (g : CoreRegs → CoreRegs) : (s.modCore d g).trees = s.trees := rfl
@[simp] theorem State.modCore_terms (d : Nat) (g : CoreRegs → CoreRegs) : (s.modCore d g).terms = s.terms := rfl
@[simp] theorem State.modCore_allocs (d : Nat) (g : CoreRegs → CoreRegs) : (s.modCore d g).allocs = s.allocs := rfl
@[simp] theorem State.modCore_resv (d : Nat) (g : CoreRegs → CoreRegs) : (s.modCore d g).resv = s.resv := rfl
@[simp] theorem State.modCore_rot (d : Nat) (g : CoreRegs → CoreRegs) : (s.modCore d g).rot = s.rot := rfl
@[simp] theorem State.modCore_circs (d : Nat) (g : CoreRegs → CoreRegs) : (s.modCore d g).circs = s.circs := rfl
@[simp] theorem State.modCore_grps (d : Nat) (g : CoreRegs → CoreRegs) : (s.modCore d g).grps = s.grps := rfl
@[simp] theorem State.modCore_chkSeen (d : Nat) (g : CoreRegs → CoreRegs) : (s.modCore d g).chkSeen = s.chkSeen := rfl
@[simp] theorem State.modCore_exact (d : Nat) (g : CoreRegs → CoreRegs) : (s.modCore d g).exact = s.exact := rfl
@[simp] theorem State.modCore_tern (d : Nat) (g : CoreRegs → CoreRegs) : (s.modCore d g).tern = s.tern := rfl
@[simp] theorem State.modCore_fwd (d : Nat) (g : CoreRegs → CoreRegs) : (s.modCore d g).fwd = s.fwd := rfl
@[simp] theorem State.modCore_cache (d : Nat) (g : CoreRegs → CoreRegs) : (s.modCore d g).cache = s.cache := rfl
@[simp] theorem State.modCore_notes (d : Nat) (g : CoreRegs → CoreRegs) : (s.modCore d g).notes = s.notes := rfl
@[simp] theorem State.modCore_updates (d : Nat) (g : CoreRegs → CoreRegs) : (s.modCore d g).updates = s.updates := rfl
@[simp] theorem State.modCore_heldUpdates (d : Nat) (g : CoreRegs → CoreRegs) : (s.modCore d g).heldUpdates = s.heldUpdates := rfl
@[simp] theorem State.modCore_lastSeq (d : Nat) (g : CoreRegs → CoreRegs) : (s.modCore d g).lastSeq = s.lastSeq := rfl
@[simp] theorem State.modCore_seqLocks (d : Nat) (g : CoreRegs → CoreRegs) : (s.modCore d g).seqLocks = s.seqLocks := rfl
@[simp] theorem State.modCore_dieLocks (d : Nat) (g : CoreRegs → CoreRegs) : (s.modCore d g).dieLocks = s.dieLocks := rfl
@[simp] theorem State.modCore_ageAt (d : Nat) (g : CoreRegs → CoreRegs) : (s.modCore d g).ageAt = s.ageAt := rfl
@[simp] theorem State.modCore_touchSent (d : Nat) (g : CoreRegs → CoreRegs) : (s.modCore d g).touchSent = s.touchSent := rfl
@[simp] theorem State.modCore_quotaSaid (d : Nat) (g : CoreRegs → CoreRegs) : (s.modCore d g).quotaSaid = s.quotaSaid := rfl
@[simp] theorem State.modCore_ringLost (d : Nat) (g : CoreRegs → CoreRegs) : (s.modCore d g).ringLost = s.ringLost := rfl
@[simp] theorem State.modCore_pendSince (d : Nat) (g : CoreRegs → CoreRegs) : (s.modCore d g).pendSince = s.pendSince := rfl
@[simp] theorem State.modCore_keys (d : Nat) (g : CoreRegs → CoreRegs) : (s.modCore d g).keys = s.keys := rfl
@[simp] theorem State.modCore_loadedAt (d : Nat) (g : CoreRegs → CoreRegs) : (s.modCore d g).loadedAt = s.loadedAt := rfl
@[simp] theorem State.modCore_roots (d : Nat) (g : CoreRegs → CoreRegs) : (s.modCore d g).roots = s.roots := rfl
@[simp] theorem State.modCore_oldBind (d : Nat) (g : CoreRegs → CoreRegs) : (s.modCore d g).oldBind = s.oldBind := rfl
@[simp] theorem State.modCore_switches (d : Nat) (g : CoreRegs → CoreRegs) : (s.modCore d g).switches = s.switches := rfl
@[simp] theorem State.modCore_xgemIndex (d : Nat) (g : CoreRegs → CoreRegs) : (s.modCore d g).xgemIndex = s.xgemIndex := rfl
@[simp] theorem State.modCore_frags (d : Nat) (g : CoreRegs → CoreRegs) : (s.modCore d g).frags = s.frags := rfl
@[simp] theorem State.modCore_keyFrame (d : Nat) (g : CoreRegs → CoreRegs) : (s.modCore d g).keyFrame = s.keyFrame := rfl
@[simp] theorem State.modCore_labels (d : Nat) (g : CoreRegs → CoreRegs) : (s.modCore d g).labels = s.labels := rfl
@[simp] theorem State.modCore_queues (d : Nat) (g : CoreRegs → CoreRegs) : (s.modCore d g).queues = s.queues := rfl
@[simp] theorem State.modCore_qstat (d : Nat) (g : CoreRegs → CoreRegs) : (s.modCore d g).qstat = s.qstat := rfl
@[simp] theorem State.modCore_offers (d : Nat) (g : CoreRegs → CoreRegs) : (s.modCore d g).offers = s.offers := rfl
@[simp] theorem State.modCore_felt (d : Nat) (g : CoreRegs → CoreRegs) : (s.modCore d g).felt = s.felt := rfl
@[simp] theorem State.modCore_drain (d : Nat) (g : CoreRegs → CoreRegs) : (s.modCore d g).drain = s.drain := rfl
@[simp] theorem State.modCore_inbox (d : Nat) (g : CoreRegs → CoreRegs) : (s.modCore d g).inbox = s.inbox := rfl
@[simp] theorem State.modCore_laneOut (d : Nat) (g : CoreRegs → CoreRegs) : (s.modCore d g).laneOut = s.laneOut := rfl
@[simp] theorem State.modCore_cellPos (d : Nat) (g : CoreRegs → CoreRegs) : (s.modCore d g).cellPos = s.cellPos := rfl
@[simp] theorem State.modCore_credit (d : Nat) (g : CoreRegs → CoreRegs) : (s.modCore d g).credit = s.credit := rfl
@[simp] theorem State.modCore_lanes (d : Nat) (g : CoreRegs → CoreRegs) : (s.modCore d g).lanes = s.lanes := rfl
@[simp] theorem State.modCore_owed (d : Nat) (g : CoreRegs → CoreRegs) : (s.modCore d g).owed = s.owed := rfl
@[simp] theorem State.modCore_rxPart (d : Nat) (g : CoreRegs → CoreRegs) : (s.modCore d g).rxPart = s.rxPart := rfl
@[simp] theorem State.modCore_rxReady (d : Nat) (g : CoreRegs → CoreRegs) : (s.modCore d g).rxReady = s.rxReady := rfl
@[simp] theorem State.modCore_oam (d : Nat) (g : CoreRegs → CoreRegs) : (s.modCore d g).oam = s.oam := rfl
@[simp] theorem State.modCore_replays (d : Nat) (g : CoreRegs → CoreRegs) : (s.modCore d g).replays = s.replays := rfl
@[simp] theorem State.modCore_ceWaiting (d : Nat) (g : CoreRegs → CoreRegs) : (s.modCore d g).ceWaiting = s.ceWaiting := rfl
@[simp] theorem State.modCore_elim (d : Nat) (g : CoreRegs → CoreRegs) : (s.modCore d g).elim = s.elim := rfl
@[simp] theorem State.modCore_stamps (d : Nat) (g : CoreRegs → CoreRegs) : (s.modCore d g).stamps = s.stamps := rfl
@[simp] theorem State.modCore_saidAt (d : Nat) (g : CoreRegs → CoreRegs) : (s.modCore d g).saidAt = s.saidAt := rfl
@[simp] theorem State.modCore_netSec (d : Nat) (g : CoreRegs → CoreRegs) : (s.modCore d g).netSec = s.netSec := rfl
@[simp] theorem State.modCore_netFrac (d : Nat) (g : CoreRegs → CoreRegs) : (s.modCore d g).netFrac = s.netFrac := rfl
@[simp] theorem State.modCore_uses (d : Nat) (g : CoreRegs → CoreRegs) : (s.modCore d g).uses = s.uses := rfl
@[simp] theorem State.modCore_outbox (d : Nat) (g : CoreRegs → CoreRegs) : (s.modCore d g).outbox = s.outbox := rfl
@[simp] theorem State.modCore_pending (d : Nat) (g : CoreRegs → CoreRegs) : (s.modCore d g).pending = s.pending := rfl

/-! ### modPerf -/

@[simp] theorem State.modPerf_ident (d : Nat) (g : Perf → Perf) : (s.modPerf d g).ident = s.ident := rfl
@[simp] theorem State.modPerf_regs (d : Nat) (g : Perf → Perf) : (s.modPerf d g).regs = s.regs := rfl
@[simp] theorem State.modPerf_live (d : Nat) (g : Perf → Perf) : (s.modPerf d g).live = s.live := rfl
@[simp] theorem State.modPerf_sects (d : Nat) (g : Perf → Perf) : (s.modPerf d g).sects = s.sects := rfl
@[simp] theorem State.modPerf_latches (d : Nat) (g : Perf → Perf) : (s.modPerf d g).latches = s.latches := rfl
@[simp] theorem State.modPerf_chans (d : Nat) (g : Perf → Perf) : (s.modPerf d g).chans = s.chans := rfl
@[simp] theorem State.modPerf_loader (d : Nat) (g : Perf → Perf) : (s.modPerf d g).loader = s.loader := rfl
@[simp] theorem State.modPerf_slots (d : Nat) (g : Perf → Perf) : (s.modPerf d g).slots = s.slots := rfl
@[simp] theorem State.modPerf_slotBad (d : Nat) (g : Perf → Perf) : (s.modPerf d g).slotBad = s.slotBad := rfl
@[simp] theorem State.modPerf_mram (d : Nat) (g : Perf → Perf) : (s.modPerf d g).mram = s.mram := rfl
@[simp] theorem State.modPerf_cores (d : Nat) (g : Perf → Perf) : (s.modPerf d g).cores = s.cores := rfl
@[simp] theorem State.modPerf_ctxStore (d : Nat) (g : Perf → Perf) : (s.modPerf d g).ctxStore = s.ctxStore := rfl
@[simp] theorem State.modPerf_tweed (d : Nat) (g : Perf → Perf) : (s.modPerf d g).tweed = s.tweed := rfl
@[simp] theorem State.modPerf_rotations (d : Nat) (g : Perf → Perf) : (s.modPerf d g).rotations = s.rotations := rfl
@[simp] theorem State.modPerf_stats (d : Nat) (g : Perf → Perf) : (s.modPerf d g).stats = s.stats := rfl
@[simp] theorem State.modPerf_dev (d : Nat) (g : Perf → Perf) : (s.modPerf d g).dev = s.dev := rfl
@[simp] theorem State.modPerf_perf (d : Nat) (g : Perf → Perf) : (s.modPerf d g).perf = s.perf.set ⟨d, 0⟩ {} (g (s.perfOf d)) := rfl
@[simp] theorem State.modPerf_channels (d : Nat) (g : Perf → Perf) : (s.modPerf d g).channels = s.channels := rfl
@[simp] theorem State.modPerf_dieStacks (d : Nat) (g : Perf → Perf) : (s.modPerf d g).dieStacks = s.dieStacks := rfl
@[simp] theorem State.modPerf_clock (d : Nat) (g : Perf → Perf) : (s.modPerf d g).clock = s.clock := rfl
@[simp] theorem State.modPerf_pair (d : Nat) (g : Perf → Perf) : (s.modPerf d g).pair = s.pair := rfl
@[simp] theorem State.modPerf_snap (d : Nat) (g : Perf → Perf) : (s.modPerf d g).snap = s.snap := rfl
@[simp] theorem State.modPerf_dma (d : Nat) (g : Perf → Perf) : (s.modPerf d g).dma = s.dma := rfl
@[simp] theorem State.modPerf_pci (d : Nat) (g : Perf → Perf) : (s.modPerf d g).pci = s.pci := rfl
@[simp] theorem State.modPerf_power (d : Nat) (g : Perf → Perf) : (s.modPerf d g).power = s.power := rfl
@[simp] theorem State.modPerf_supply (d : Nat) (g : Perf → Perf) : (s.modPerf d g).supply = s.supply := rfl
@[simp] theorem State.modPerf_bwAcc (d : Nat) (g : Perf → Perf) : (s.modPerf d g).bwAcc = s.bwAcc := rfl
@[simp] theorem State.modPerf_sets (d : Nat) (g : Perf → Perf) : (s.modPerf d g).sets = s.sets := rfl
@[simp] theorem State.modPerf_trees (d : Nat) (g : Perf → Perf) : (s.modPerf d g).trees = s.trees := rfl
@[simp] theorem State.modPerf_terms (d : Nat) (g : Perf → Perf) : (s.modPerf d g).terms = s.terms := rfl
@[simp] theorem State.modPerf_allocs (d : Nat) (g : Perf → Perf) : (s.modPerf d g).allocs = s.allocs := rfl
@[simp] theorem State.modPerf_resv (d : Nat) (g : Perf → Perf) : (s.modPerf d g).resv = s.resv := rfl
@[simp] theorem State.modPerf_rot (d : Nat) (g : Perf → Perf) : (s.modPerf d g).rot = s.rot := rfl
@[simp] theorem State.modPerf_circs (d : Nat) (g : Perf → Perf) : (s.modPerf d g).circs = s.circs := rfl
@[simp] theorem State.modPerf_grps (d : Nat) (g : Perf → Perf) : (s.modPerf d g).grps = s.grps := rfl
@[simp] theorem State.modPerf_chkSeen (d : Nat) (g : Perf → Perf) : (s.modPerf d g).chkSeen = s.chkSeen := rfl
@[simp] theorem State.modPerf_exact (d : Nat) (g : Perf → Perf) : (s.modPerf d g).exact = s.exact := rfl
@[simp] theorem State.modPerf_tern (d : Nat) (g : Perf → Perf) : (s.modPerf d g).tern = s.tern := rfl
@[simp] theorem State.modPerf_fwd (d : Nat) (g : Perf → Perf) : (s.modPerf d g).fwd = s.fwd := rfl
@[simp] theorem State.modPerf_cache (d : Nat) (g : Perf → Perf) : (s.modPerf d g).cache = s.cache := rfl
@[simp] theorem State.modPerf_notes (d : Nat) (g : Perf → Perf) : (s.modPerf d g).notes = s.notes := rfl
@[simp] theorem State.modPerf_updates (d : Nat) (g : Perf → Perf) : (s.modPerf d g).updates = s.updates := rfl
@[simp] theorem State.modPerf_heldUpdates (d : Nat) (g : Perf → Perf) : (s.modPerf d g).heldUpdates = s.heldUpdates := rfl
@[simp] theorem State.modPerf_lastSeq (d : Nat) (g : Perf → Perf) : (s.modPerf d g).lastSeq = s.lastSeq := rfl
@[simp] theorem State.modPerf_seqLocks (d : Nat) (g : Perf → Perf) : (s.modPerf d g).seqLocks = s.seqLocks := rfl
@[simp] theorem State.modPerf_dieLocks (d : Nat) (g : Perf → Perf) : (s.modPerf d g).dieLocks = s.dieLocks := rfl
@[simp] theorem State.modPerf_ageAt (d : Nat) (g : Perf → Perf) : (s.modPerf d g).ageAt = s.ageAt := rfl
@[simp] theorem State.modPerf_touchSent (d : Nat) (g : Perf → Perf) : (s.modPerf d g).touchSent = s.touchSent := rfl
@[simp] theorem State.modPerf_quotaSaid (d : Nat) (g : Perf → Perf) : (s.modPerf d g).quotaSaid = s.quotaSaid := rfl
@[simp] theorem State.modPerf_ringLost (d : Nat) (g : Perf → Perf) : (s.modPerf d g).ringLost = s.ringLost := rfl
@[simp] theorem State.modPerf_pendSince (d : Nat) (g : Perf → Perf) : (s.modPerf d g).pendSince = s.pendSince := rfl
@[simp] theorem State.modPerf_keys (d : Nat) (g : Perf → Perf) : (s.modPerf d g).keys = s.keys := rfl
@[simp] theorem State.modPerf_loadedAt (d : Nat) (g : Perf → Perf) : (s.modPerf d g).loadedAt = s.loadedAt := rfl
@[simp] theorem State.modPerf_roots (d : Nat) (g : Perf → Perf) : (s.modPerf d g).roots = s.roots := rfl
@[simp] theorem State.modPerf_oldBind (d : Nat) (g : Perf → Perf) : (s.modPerf d g).oldBind = s.oldBind := rfl
@[simp] theorem State.modPerf_switches (d : Nat) (g : Perf → Perf) : (s.modPerf d g).switches = s.switches := rfl
@[simp] theorem State.modPerf_xgemIndex (d : Nat) (g : Perf → Perf) : (s.modPerf d g).xgemIndex = s.xgemIndex := rfl
@[simp] theorem State.modPerf_frags (d : Nat) (g : Perf → Perf) : (s.modPerf d g).frags = s.frags := rfl
@[simp] theorem State.modPerf_keyFrame (d : Nat) (g : Perf → Perf) : (s.modPerf d g).keyFrame = s.keyFrame := rfl
@[simp] theorem State.modPerf_labels (d : Nat) (g : Perf → Perf) : (s.modPerf d g).labels = s.labels := rfl
@[simp] theorem State.modPerf_queues (d : Nat) (g : Perf → Perf) : (s.modPerf d g).queues = s.queues := rfl
@[simp] theorem State.modPerf_qstat (d : Nat) (g : Perf → Perf) : (s.modPerf d g).qstat = s.qstat := rfl
@[simp] theorem State.modPerf_offers (d : Nat) (g : Perf → Perf) : (s.modPerf d g).offers = s.offers := rfl
@[simp] theorem State.modPerf_felt (d : Nat) (g : Perf → Perf) : (s.modPerf d g).felt = s.felt := rfl
@[simp] theorem State.modPerf_drain (d : Nat) (g : Perf → Perf) : (s.modPerf d g).drain = s.drain := rfl
@[simp] theorem State.modPerf_inbox (d : Nat) (g : Perf → Perf) : (s.modPerf d g).inbox = s.inbox := rfl
@[simp] theorem State.modPerf_laneOut (d : Nat) (g : Perf → Perf) : (s.modPerf d g).laneOut = s.laneOut := rfl
@[simp] theorem State.modPerf_cellPos (d : Nat) (g : Perf → Perf) : (s.modPerf d g).cellPos = s.cellPos := rfl
@[simp] theorem State.modPerf_credit (d : Nat) (g : Perf → Perf) : (s.modPerf d g).credit = s.credit := rfl
@[simp] theorem State.modPerf_lanes (d : Nat) (g : Perf → Perf) : (s.modPerf d g).lanes = s.lanes := rfl
@[simp] theorem State.modPerf_owed (d : Nat) (g : Perf → Perf) : (s.modPerf d g).owed = s.owed := rfl
@[simp] theorem State.modPerf_rxPart (d : Nat) (g : Perf → Perf) : (s.modPerf d g).rxPart = s.rxPart := rfl
@[simp] theorem State.modPerf_rxReady (d : Nat) (g : Perf → Perf) : (s.modPerf d g).rxReady = s.rxReady := rfl
@[simp] theorem State.modPerf_oam (d : Nat) (g : Perf → Perf) : (s.modPerf d g).oam = s.oam := rfl
@[simp] theorem State.modPerf_replays (d : Nat) (g : Perf → Perf) : (s.modPerf d g).replays = s.replays := rfl
@[simp] theorem State.modPerf_ceWaiting (d : Nat) (g : Perf → Perf) : (s.modPerf d g).ceWaiting = s.ceWaiting := rfl
@[simp] theorem State.modPerf_elim (d : Nat) (g : Perf → Perf) : (s.modPerf d g).elim = s.elim := rfl
@[simp] theorem State.modPerf_stamps (d : Nat) (g : Perf → Perf) : (s.modPerf d g).stamps = s.stamps := rfl
@[simp] theorem State.modPerf_saidAt (d : Nat) (g : Perf → Perf) : (s.modPerf d g).saidAt = s.saidAt := rfl
@[simp] theorem State.modPerf_netSec (d : Nat) (g : Perf → Perf) : (s.modPerf d g).netSec = s.netSec := rfl
@[simp] theorem State.modPerf_netFrac (d : Nat) (g : Perf → Perf) : (s.modPerf d g).netFrac = s.netFrac := rfl
@[simp] theorem State.modPerf_uses (d : Nat) (g : Perf → Perf) : (s.modPerf d g).uses = s.uses := rfl
@[simp] theorem State.modPerf_outbox (d : Nat) (g : Perf → Perf) : (s.modPerf d g).outbox = s.outbox := rfl
@[simp] theorem State.modPerf_pending (d : Nat) (g : Perf → Perf) : (s.modPerf d g).pending = s.pending := rfl

/-! ### modPower -/

@[simp] theorem State.modPower_ident (d : Nat) (g : Power → Power) : (s.modPower d g).ident = s.ident := rfl
@[simp] theorem State.modPower_regs (d : Nat) (g : Power → Power) : (s.modPower d g).regs = s.regs := rfl
@[simp] theorem State.modPower_live (d : Nat) (g : Power → Power) : (s.modPower d g).live = s.live := rfl
@[simp] theorem State.modPower_sects (d : Nat) (g : Power → Power) : (s.modPower d g).sects = s.sects := rfl
@[simp] theorem State.modPower_latches (d : Nat) (g : Power → Power) : (s.modPower d g).latches = s.latches := rfl
@[simp] theorem State.modPower_chans (d : Nat) (g : Power → Power) : (s.modPower d g).chans = s.chans := rfl
@[simp] theorem State.modPower_loader (d : Nat) (g : Power → Power) : (s.modPower d g).loader = s.loader := rfl
@[simp] theorem State.modPower_slots (d : Nat) (g : Power → Power) : (s.modPower d g).slots = s.slots := rfl
@[simp] theorem State.modPower_slotBad (d : Nat) (g : Power → Power) : (s.modPower d g).slotBad = s.slotBad := rfl
@[simp] theorem State.modPower_mram (d : Nat) (g : Power → Power) : (s.modPower d g).mram = s.mram := rfl
@[simp] theorem State.modPower_cores (d : Nat) (g : Power → Power) : (s.modPower d g).cores = s.cores := rfl
@[simp] theorem State.modPower_ctxStore (d : Nat) (g : Power → Power) : (s.modPower d g).ctxStore = s.ctxStore := rfl
@[simp] theorem State.modPower_tweed (d : Nat) (g : Power → Power) : (s.modPower d g).tweed = s.tweed := rfl
@[simp] theorem State.modPower_rotations (d : Nat) (g : Power → Power) : (s.modPower d g).rotations = s.rotations := rfl
@[simp] theorem State.modPower_stats (d : Nat) (g : Power → Power) : (s.modPower d g).stats = s.stats := rfl
@[simp] theorem State.modPower_dev (d : Nat) (g : Power → Power) : (s.modPower d g).dev = s.dev := rfl
@[simp] theorem State.modPower_perf (d : Nat) (g : Power → Power) : (s.modPower d g).perf = s.perf := rfl
@[simp] theorem State.modPower_channels (d : Nat) (g : Power → Power) : (s.modPower d g).channels = s.channels := rfl
@[simp] theorem State.modPower_dieStacks (d : Nat) (g : Power → Power) : (s.modPower d g).dieStacks = s.dieStacks := rfl
@[simp] theorem State.modPower_clock (d : Nat) (g : Power → Power) : (s.modPower d g).clock = s.clock := rfl
@[simp] theorem State.modPower_pair (d : Nat) (g : Power → Power) : (s.modPower d g).pair = s.pair := rfl
@[simp] theorem State.modPower_snap (d : Nat) (g : Power → Power) : (s.modPower d g).snap = s.snap := rfl
@[simp] theorem State.modPower_dma (d : Nat) (g : Power → Power) : (s.modPower d g).dma = s.dma := rfl
@[simp] theorem State.modPower_pci (d : Nat) (g : Power → Power) : (s.modPower d g).pci = s.pci := rfl
@[simp] theorem State.modPower_power (d : Nat) (g : Power → Power) : (s.modPower d g).power = s.power.set ⟨d, 0⟩ {} (g (s.powerOf d)) := rfl
@[simp] theorem State.modPower_supply (d : Nat) (g : Power → Power) : (s.modPower d g).supply = s.supply := rfl
@[simp] theorem State.modPower_bwAcc (d : Nat) (g : Power → Power) : (s.modPower d g).bwAcc = s.bwAcc := rfl
@[simp] theorem State.modPower_sets (d : Nat) (g : Power → Power) : (s.modPower d g).sets = s.sets := rfl
@[simp] theorem State.modPower_trees (d : Nat) (g : Power → Power) : (s.modPower d g).trees = s.trees := rfl
@[simp] theorem State.modPower_terms (d : Nat) (g : Power → Power) : (s.modPower d g).terms = s.terms := rfl
@[simp] theorem State.modPower_allocs (d : Nat) (g : Power → Power) : (s.modPower d g).allocs = s.allocs := rfl
@[simp] theorem State.modPower_resv (d : Nat) (g : Power → Power) : (s.modPower d g).resv = s.resv := rfl
@[simp] theorem State.modPower_rot (d : Nat) (g : Power → Power) : (s.modPower d g).rot = s.rot := rfl
@[simp] theorem State.modPower_circs (d : Nat) (g : Power → Power) : (s.modPower d g).circs = s.circs := rfl
@[simp] theorem State.modPower_grps (d : Nat) (g : Power → Power) : (s.modPower d g).grps = s.grps := rfl
@[simp] theorem State.modPower_chkSeen (d : Nat) (g : Power → Power) : (s.modPower d g).chkSeen = s.chkSeen := rfl
@[simp] theorem State.modPower_exact (d : Nat) (g : Power → Power) : (s.modPower d g).exact = s.exact := rfl
@[simp] theorem State.modPower_tern (d : Nat) (g : Power → Power) : (s.modPower d g).tern = s.tern := rfl
@[simp] theorem State.modPower_fwd (d : Nat) (g : Power → Power) : (s.modPower d g).fwd = s.fwd := rfl
@[simp] theorem State.modPower_cache (d : Nat) (g : Power → Power) : (s.modPower d g).cache = s.cache := rfl
@[simp] theorem State.modPower_notes (d : Nat) (g : Power → Power) : (s.modPower d g).notes = s.notes := rfl
@[simp] theorem State.modPower_updates (d : Nat) (g : Power → Power) : (s.modPower d g).updates = s.updates := rfl
@[simp] theorem State.modPower_heldUpdates (d : Nat) (g : Power → Power) : (s.modPower d g).heldUpdates = s.heldUpdates := rfl
@[simp] theorem State.modPower_lastSeq (d : Nat) (g : Power → Power) : (s.modPower d g).lastSeq = s.lastSeq := rfl
@[simp] theorem State.modPower_seqLocks (d : Nat) (g : Power → Power) : (s.modPower d g).seqLocks = s.seqLocks := rfl
@[simp] theorem State.modPower_dieLocks (d : Nat) (g : Power → Power) : (s.modPower d g).dieLocks = s.dieLocks := rfl
@[simp] theorem State.modPower_ageAt (d : Nat) (g : Power → Power) : (s.modPower d g).ageAt = s.ageAt := rfl
@[simp] theorem State.modPower_touchSent (d : Nat) (g : Power → Power) : (s.modPower d g).touchSent = s.touchSent := rfl
@[simp] theorem State.modPower_quotaSaid (d : Nat) (g : Power → Power) : (s.modPower d g).quotaSaid = s.quotaSaid := rfl
@[simp] theorem State.modPower_ringLost (d : Nat) (g : Power → Power) : (s.modPower d g).ringLost = s.ringLost := rfl
@[simp] theorem State.modPower_pendSince (d : Nat) (g : Power → Power) : (s.modPower d g).pendSince = s.pendSince := rfl
@[simp] theorem State.modPower_keys (d : Nat) (g : Power → Power) : (s.modPower d g).keys = s.keys := rfl
@[simp] theorem State.modPower_loadedAt (d : Nat) (g : Power → Power) : (s.modPower d g).loadedAt = s.loadedAt := rfl
@[simp] theorem State.modPower_roots (d : Nat) (g : Power → Power) : (s.modPower d g).roots = s.roots := rfl
@[simp] theorem State.modPower_oldBind (d : Nat) (g : Power → Power) : (s.modPower d g).oldBind = s.oldBind := rfl
@[simp] theorem State.modPower_switches (d : Nat) (g : Power → Power) : (s.modPower d g).switches = s.switches := rfl
@[simp] theorem State.modPower_xgemIndex (d : Nat) (g : Power → Power) : (s.modPower d g).xgemIndex = s.xgemIndex := rfl
@[simp] theorem State.modPower_frags (d : Nat) (g : Power → Power) : (s.modPower d g).frags = s.frags := rfl
@[simp] theorem State.modPower_keyFrame (d : Nat) (g : Power → Power) : (s.modPower d g).keyFrame = s.keyFrame := rfl
@[simp] theorem State.modPower_labels (d : Nat) (g : Power → Power) : (s.modPower d g).labels = s.labels := rfl
@[simp] theorem State.modPower_queues (d : Nat) (g : Power → Power) : (s.modPower d g).queues = s.queues := rfl
@[simp] theorem State.modPower_qstat (d : Nat) (g : Power → Power) : (s.modPower d g).qstat = s.qstat := rfl
@[simp] theorem State.modPower_offers (d : Nat) (g : Power → Power) : (s.modPower d g).offers = s.offers := rfl
@[simp] theorem State.modPower_felt (d : Nat) (g : Power → Power) : (s.modPower d g).felt = s.felt := rfl
@[simp] theorem State.modPower_drain (d : Nat) (g : Power → Power) : (s.modPower d g).drain = s.drain := rfl
@[simp] theorem State.modPower_inbox (d : Nat) (g : Power → Power) : (s.modPower d g).inbox = s.inbox := rfl
@[simp] theorem State.modPower_laneOut (d : Nat) (g : Power → Power) : (s.modPower d g).laneOut = s.laneOut := rfl
@[simp] theorem State.modPower_cellPos (d : Nat) (g : Power → Power) : (s.modPower d g).cellPos = s.cellPos := rfl
@[simp] theorem State.modPower_credit (d : Nat) (g : Power → Power) : (s.modPower d g).credit = s.credit := rfl
@[simp] theorem State.modPower_lanes (d : Nat) (g : Power → Power) : (s.modPower d g).lanes = s.lanes := rfl
@[simp] theorem State.modPower_owed (d : Nat) (g : Power → Power) : (s.modPower d g).owed = s.owed := rfl
@[simp] theorem State.modPower_rxPart (d : Nat) (g : Power → Power) : (s.modPower d g).rxPart = s.rxPart := rfl
@[simp] theorem State.modPower_rxReady (d : Nat) (g : Power → Power) : (s.modPower d g).rxReady = s.rxReady := rfl
@[simp] theorem State.modPower_oam (d : Nat) (g : Power → Power) : (s.modPower d g).oam = s.oam := rfl
@[simp] theorem State.modPower_replays (d : Nat) (g : Power → Power) : (s.modPower d g).replays = s.replays := rfl
@[simp] theorem State.modPower_ceWaiting (d : Nat) (g : Power → Power) : (s.modPower d g).ceWaiting = s.ceWaiting := rfl
@[simp] theorem State.modPower_elim (d : Nat) (g : Power → Power) : (s.modPower d g).elim = s.elim := rfl
@[simp] theorem State.modPower_stamps (d : Nat) (g : Power → Power) : (s.modPower d g).stamps = s.stamps := rfl
@[simp] theorem State.modPower_saidAt (d : Nat) (g : Power → Power) : (s.modPower d g).saidAt = s.saidAt := rfl
@[simp] theorem State.modPower_netSec (d : Nat) (g : Power → Power) : (s.modPower d g).netSec = s.netSec := rfl
@[simp] theorem State.modPower_netFrac (d : Nat) (g : Power → Power) : (s.modPower d g).netFrac = s.netFrac := rfl
@[simp] theorem State.modPower_uses (d : Nat) (g : Power → Power) : (s.modPower d g).uses = s.uses := rfl
@[simp] theorem State.modPower_outbox (d : Nat) (g : Power → Power) : (s.modPower d g).outbox = s.outbox := rfl
@[simp] theorem State.modPower_pending (d : Nat) (g : Power → Power) : (s.modPower d g).pending = s.pending := rfl

/-! ### modMram -/

@[simp] theorem State.modMram_ident (d : Nat) (g : MramDie → MramDie) : (s.modMram d g).ident = s.ident := rfl
@[simp] theorem State.modMram_regs (d : Nat) (g : MramDie → MramDie) : (s.modMram d g).regs = s.regs := rfl
@[simp] theorem State.modMram_live (d : Nat) (g : MramDie → MramDie) : (s.modMram d g).live = s.live := rfl
@[simp] theorem State.modMram_sects (d : Nat) (g : MramDie → MramDie) : (s.modMram d g).sects = s.sects := rfl
@[simp] theorem State.modMram_latches (d : Nat) (g : MramDie → MramDie) : (s.modMram d g).latches = s.latches := rfl
@[simp] theorem State.modMram_chans (d : Nat) (g : MramDie → MramDie) : (s.modMram d g).chans = s.chans := rfl
@[simp] theorem State.modMram_loader (d : Nat) (g : MramDie → MramDie) : (s.modMram d g).loader = s.loader := rfl
@[simp] theorem State.modMram_slots (d : Nat) (g : MramDie → MramDie) : (s.modMram d g).slots = s.slots := rfl
@[simp] theorem State.modMram_slotBad (d : Nat) (g : MramDie → MramDie) : (s.modMram d g).slotBad = s.slotBad := rfl
@[simp] theorem State.modMram_mram (d : Nat) (g : MramDie → MramDie) : (s.modMram d g).mram = s.mram.set ⟨d, 0⟩ {} (g (s.mramOf d)) := rfl
@[simp] theorem State.modMram_cores (d : Nat) (g : MramDie → MramDie) : (s.modMram d g).cores = s.cores := rfl
@[simp] theorem State.modMram_ctxStore (d : Nat) (g : MramDie → MramDie) : (s.modMram d g).ctxStore = s.ctxStore := rfl
@[simp] theorem State.modMram_tweed (d : Nat) (g : MramDie → MramDie) : (s.modMram d g).tweed = s.tweed := rfl
@[simp] theorem State.modMram_rotations (d : Nat) (g : MramDie → MramDie) : (s.modMram d g).rotations = s.rotations := rfl
@[simp] theorem State.modMram_stats (d : Nat) (g : MramDie → MramDie) : (s.modMram d g).stats = s.stats := rfl
@[simp] theorem State.modMram_dev (d : Nat) (g : MramDie → MramDie) : (s.modMram d g).dev = s.dev := rfl
@[simp] theorem State.modMram_perf (d : Nat) (g : MramDie → MramDie) : (s.modMram d g).perf = s.perf := rfl
@[simp] theorem State.modMram_channels (d : Nat) (g : MramDie → MramDie) : (s.modMram d g).channels = s.channels := rfl
@[simp] theorem State.modMram_dieStacks (d : Nat) (g : MramDie → MramDie) : (s.modMram d g).dieStacks = s.dieStacks := rfl
@[simp] theorem State.modMram_clock (d : Nat) (g : MramDie → MramDie) : (s.modMram d g).clock = s.clock := rfl
@[simp] theorem State.modMram_pair (d : Nat) (g : MramDie → MramDie) : (s.modMram d g).pair = s.pair := rfl
@[simp] theorem State.modMram_snap (d : Nat) (g : MramDie → MramDie) : (s.modMram d g).snap = s.snap := rfl
@[simp] theorem State.modMram_dma (d : Nat) (g : MramDie → MramDie) : (s.modMram d g).dma = s.dma := rfl
@[simp] theorem State.modMram_pci (d : Nat) (g : MramDie → MramDie) : (s.modMram d g).pci = s.pci := rfl
@[simp] theorem State.modMram_power (d : Nat) (g : MramDie → MramDie) : (s.modMram d g).power = s.power := rfl
@[simp] theorem State.modMram_supply (d : Nat) (g : MramDie → MramDie) : (s.modMram d g).supply = s.supply := rfl
@[simp] theorem State.modMram_bwAcc (d : Nat) (g : MramDie → MramDie) : (s.modMram d g).bwAcc = s.bwAcc := rfl
@[simp] theorem State.modMram_sets (d : Nat) (g : MramDie → MramDie) : (s.modMram d g).sets = s.sets := rfl
@[simp] theorem State.modMram_trees (d : Nat) (g : MramDie → MramDie) : (s.modMram d g).trees = s.trees := rfl
@[simp] theorem State.modMram_terms (d : Nat) (g : MramDie → MramDie) : (s.modMram d g).terms = s.terms := rfl
@[simp] theorem State.modMram_allocs (d : Nat) (g : MramDie → MramDie) : (s.modMram d g).allocs = s.allocs := rfl
@[simp] theorem State.modMram_resv (d : Nat) (g : MramDie → MramDie) : (s.modMram d g).resv = s.resv := rfl
@[simp] theorem State.modMram_rot (d : Nat) (g : MramDie → MramDie) : (s.modMram d g).rot = s.rot := rfl
@[simp] theorem State.modMram_circs (d : Nat) (g : MramDie → MramDie) : (s.modMram d g).circs = s.circs := rfl
@[simp] theorem State.modMram_grps (d : Nat) (g : MramDie → MramDie) : (s.modMram d g).grps = s.grps := rfl
@[simp] theorem State.modMram_chkSeen (d : Nat) (g : MramDie → MramDie) : (s.modMram d g).chkSeen = s.chkSeen := rfl
@[simp] theorem State.modMram_exact (d : Nat) (g : MramDie → MramDie) : (s.modMram d g).exact = s.exact := rfl
@[simp] theorem State.modMram_tern (d : Nat) (g : MramDie → MramDie) : (s.modMram d g).tern = s.tern := rfl
@[simp] theorem State.modMram_fwd (d : Nat) (g : MramDie → MramDie) : (s.modMram d g).fwd = s.fwd := rfl
@[simp] theorem State.modMram_cache (d : Nat) (g : MramDie → MramDie) : (s.modMram d g).cache = s.cache := rfl
@[simp] theorem State.modMram_notes (d : Nat) (g : MramDie → MramDie) : (s.modMram d g).notes = s.notes := rfl
@[simp] theorem State.modMram_updates (d : Nat) (g : MramDie → MramDie) : (s.modMram d g).updates = s.updates := rfl
@[simp] theorem State.modMram_heldUpdates (d : Nat) (g : MramDie → MramDie) : (s.modMram d g).heldUpdates = s.heldUpdates := rfl
@[simp] theorem State.modMram_lastSeq (d : Nat) (g : MramDie → MramDie) : (s.modMram d g).lastSeq = s.lastSeq := rfl
@[simp] theorem State.modMram_seqLocks (d : Nat) (g : MramDie → MramDie) : (s.modMram d g).seqLocks = s.seqLocks := rfl
@[simp] theorem State.modMram_dieLocks (d : Nat) (g : MramDie → MramDie) : (s.modMram d g).dieLocks = s.dieLocks := rfl
@[simp] theorem State.modMram_ageAt (d : Nat) (g : MramDie → MramDie) : (s.modMram d g).ageAt = s.ageAt := rfl
@[simp] theorem State.modMram_touchSent (d : Nat) (g : MramDie → MramDie) : (s.modMram d g).touchSent = s.touchSent := rfl
@[simp] theorem State.modMram_quotaSaid (d : Nat) (g : MramDie → MramDie) : (s.modMram d g).quotaSaid = s.quotaSaid := rfl
@[simp] theorem State.modMram_ringLost (d : Nat) (g : MramDie → MramDie) : (s.modMram d g).ringLost = s.ringLost := rfl
@[simp] theorem State.modMram_pendSince (d : Nat) (g : MramDie → MramDie) : (s.modMram d g).pendSince = s.pendSince := rfl
@[simp] theorem State.modMram_keys (d : Nat) (g : MramDie → MramDie) : (s.modMram d g).keys = s.keys := rfl
@[simp] theorem State.modMram_loadedAt (d : Nat) (g : MramDie → MramDie) : (s.modMram d g).loadedAt = s.loadedAt := rfl
@[simp] theorem State.modMram_roots (d : Nat) (g : MramDie → MramDie) : (s.modMram d g).roots = s.roots := rfl
@[simp] theorem State.modMram_oldBind (d : Nat) (g : MramDie → MramDie) : (s.modMram d g).oldBind = s.oldBind := rfl
@[simp] theorem State.modMram_switches (d : Nat) (g : MramDie → MramDie) : (s.modMram d g).switches = s.switches := rfl
@[simp] theorem State.modMram_xgemIndex (d : Nat) (g : MramDie → MramDie) : (s.modMram d g).xgemIndex = s.xgemIndex := rfl
@[simp] theorem State.modMram_frags (d : Nat) (g : MramDie → MramDie) : (s.modMram d g).frags = s.frags := rfl
@[simp] theorem State.modMram_keyFrame (d : Nat) (g : MramDie → MramDie) : (s.modMram d g).keyFrame = s.keyFrame := rfl
@[simp] theorem State.modMram_labels (d : Nat) (g : MramDie → MramDie) : (s.modMram d g).labels = s.labels := rfl
@[simp] theorem State.modMram_queues (d : Nat) (g : MramDie → MramDie) : (s.modMram d g).queues = s.queues := rfl
@[simp] theorem State.modMram_qstat (d : Nat) (g : MramDie → MramDie) : (s.modMram d g).qstat = s.qstat := rfl
@[simp] theorem State.modMram_offers (d : Nat) (g : MramDie → MramDie) : (s.modMram d g).offers = s.offers := rfl
@[simp] theorem State.modMram_felt (d : Nat) (g : MramDie → MramDie) : (s.modMram d g).felt = s.felt := rfl
@[simp] theorem State.modMram_drain (d : Nat) (g : MramDie → MramDie) : (s.modMram d g).drain = s.drain := rfl
@[simp] theorem State.modMram_inbox (d : Nat) (g : MramDie → MramDie) : (s.modMram d g).inbox = s.inbox := rfl
@[simp] theorem State.modMram_laneOut (d : Nat) (g : MramDie → MramDie) : (s.modMram d g).laneOut = s.laneOut := rfl
@[simp] theorem State.modMram_cellPos (d : Nat) (g : MramDie → MramDie) : (s.modMram d g).cellPos = s.cellPos := rfl
@[simp] theorem State.modMram_credit (d : Nat) (g : MramDie → MramDie) : (s.modMram d g).credit = s.credit := rfl
@[simp] theorem State.modMram_lanes (d : Nat) (g : MramDie → MramDie) : (s.modMram d g).lanes = s.lanes := rfl
@[simp] theorem State.modMram_owed (d : Nat) (g : MramDie → MramDie) : (s.modMram d g).owed = s.owed := rfl
@[simp] theorem State.modMram_rxPart (d : Nat) (g : MramDie → MramDie) : (s.modMram d g).rxPart = s.rxPart := rfl
@[simp] theorem State.modMram_rxReady (d : Nat) (g : MramDie → MramDie) : (s.modMram d g).rxReady = s.rxReady := rfl
@[simp] theorem State.modMram_oam (d : Nat) (g : MramDie → MramDie) : (s.modMram d g).oam = s.oam := rfl
@[simp] theorem State.modMram_replays (d : Nat) (g : MramDie → MramDie) : (s.modMram d g).replays = s.replays := rfl
@[simp] theorem State.modMram_ceWaiting (d : Nat) (g : MramDie → MramDie) : (s.modMram d g).ceWaiting = s.ceWaiting := rfl
@[simp] theorem State.modMram_elim (d : Nat) (g : MramDie → MramDie) : (s.modMram d g).elim = s.elim := rfl
@[simp] theorem State.modMram_stamps (d : Nat) (g : MramDie → MramDie) : (s.modMram d g).stamps = s.stamps := rfl
@[simp] theorem State.modMram_saidAt (d : Nat) (g : MramDie → MramDie) : (s.modMram d g).saidAt = s.saidAt := rfl
@[simp] theorem State.modMram_netSec (d : Nat) (g : MramDie → MramDie) : (s.modMram d g).netSec = s.netSec := rfl
@[simp] theorem State.modMram_netFrac (d : Nat) (g : MramDie → MramDie) : (s.modMram d g).netFrac = s.netFrac := rfl
@[simp] theorem State.modMram_uses (d : Nat) (g : MramDie → MramDie) : (s.modMram d g).uses = s.uses := rfl
@[simp] theorem State.modMram_outbox (d : Nat) (g : MramDie → MramDie) : (s.modMram d g).outbox = s.outbox := rfl
@[simp] theorem State.modMram_pending (d : Nat) (g : MramDie → MramDie) : (s.modMram d g).pending = s.pending := rfl

/-! ### modLoader -/

@[simp] theorem State.modLoader_ident (g : Loader → Loader) : (s.modLoader g).ident = s.ident := rfl
@[simp] theorem State.modLoader_regs (g : Loader → Loader) : (s.modLoader g).regs = s.regs := rfl
@[simp] theorem State.modLoader_live (g : Loader → Loader) : (s.modLoader g).live = s.live := rfl
@[simp] theorem State.modLoader_sects (g : Loader → Loader) : (s.modLoader g).sects = s.sects := rfl
@[simp] theorem State.modLoader_latches (g : Loader → Loader) : (s.modLoader g).latches = s.latches := rfl
@[simp] theorem State.modLoader_chans (g : Loader → Loader) : (s.modLoader g).chans = s.chans := rfl
@[simp] theorem State.modLoader_loader (g : Loader → Loader) : (s.modLoader g).loader = g s.loader := rfl
@[simp] theorem State.modLoader_slots (g : Loader → Loader) : (s.modLoader g).slots = s.slots := rfl
@[simp] theorem State.modLoader_slotBad (g : Loader → Loader) : (s.modLoader g).slotBad = s.slotBad := rfl
@[simp] theorem State.modLoader_mram (g : Loader → Loader) : (s.modLoader g).mram = s.mram := rfl
@[simp] theorem State.modLoader_cores (g : Loader → Loader) : (s.modLoader g).cores = s.cores := rfl
@[simp] theorem State.modLoader_ctxStore (g : Loader → Loader) : (s.modLoader g).ctxStore = s.ctxStore := rfl
@[simp] theorem State.modLoader_tweed (g : Loader → Loader) : (s.modLoader g).tweed = s.tweed := rfl
@[simp] theorem State.modLoader_rotations (g : Loader → Loader) : (s.modLoader g).rotations = s.rotations := rfl
@[simp] theorem State.modLoader_stats (g : Loader → Loader) : (s.modLoader g).stats = s.stats := rfl
@[simp] theorem State.modLoader_dev (g : Loader → Loader) : (s.modLoader g).dev = s.dev := rfl
@[simp] theorem State.modLoader_perf (g : Loader → Loader) : (s.modLoader g).perf = s.perf := rfl
@[simp] theorem State.modLoader_channels (g : Loader → Loader) : (s.modLoader g).channels = s.channels := rfl
@[simp] theorem State.modLoader_dieStacks (g : Loader → Loader) : (s.modLoader g).dieStacks = s.dieStacks := rfl
@[simp] theorem State.modLoader_clock (g : Loader → Loader) : (s.modLoader g).clock = s.clock := rfl
@[simp] theorem State.modLoader_pair (g : Loader → Loader) : (s.modLoader g).pair = s.pair := rfl
@[simp] theorem State.modLoader_snap (g : Loader → Loader) : (s.modLoader g).snap = s.snap := rfl
@[simp] theorem State.modLoader_dma (g : Loader → Loader) : (s.modLoader g).dma = s.dma := rfl
@[simp] theorem State.modLoader_pci (g : Loader → Loader) : (s.modLoader g).pci = s.pci := rfl
@[simp] theorem State.modLoader_power (g : Loader → Loader) : (s.modLoader g).power = s.power := rfl
@[simp] theorem State.modLoader_supply (g : Loader → Loader) : (s.modLoader g).supply = s.supply := rfl
@[simp] theorem State.modLoader_bwAcc (g : Loader → Loader) : (s.modLoader g).bwAcc = s.bwAcc := rfl
@[simp] theorem State.modLoader_sets (g : Loader → Loader) : (s.modLoader g).sets = s.sets := rfl
@[simp] theorem State.modLoader_trees (g : Loader → Loader) : (s.modLoader g).trees = s.trees := rfl
@[simp] theorem State.modLoader_terms (g : Loader → Loader) : (s.modLoader g).terms = s.terms := rfl
@[simp] theorem State.modLoader_allocs (g : Loader → Loader) : (s.modLoader g).allocs = s.allocs := rfl
@[simp] theorem State.modLoader_resv (g : Loader → Loader) : (s.modLoader g).resv = s.resv := rfl
@[simp] theorem State.modLoader_rot (g : Loader → Loader) : (s.modLoader g).rot = s.rot := rfl
@[simp] theorem State.modLoader_circs (g : Loader → Loader) : (s.modLoader g).circs = s.circs := rfl
@[simp] theorem State.modLoader_grps (g : Loader → Loader) : (s.modLoader g).grps = s.grps := rfl
@[simp] theorem State.modLoader_chkSeen (g : Loader → Loader) : (s.modLoader g).chkSeen = s.chkSeen := rfl
@[simp] theorem State.modLoader_exact (g : Loader → Loader) : (s.modLoader g).exact = s.exact := rfl
@[simp] theorem State.modLoader_tern (g : Loader → Loader) : (s.modLoader g).tern = s.tern := rfl
@[simp] theorem State.modLoader_fwd (g : Loader → Loader) : (s.modLoader g).fwd = s.fwd := rfl
@[simp] theorem State.modLoader_cache (g : Loader → Loader) : (s.modLoader g).cache = s.cache := rfl
@[simp] theorem State.modLoader_notes (g : Loader → Loader) : (s.modLoader g).notes = s.notes := rfl
@[simp] theorem State.modLoader_updates (g : Loader → Loader) : (s.modLoader g).updates = s.updates := rfl
@[simp] theorem State.modLoader_heldUpdates (g : Loader → Loader) : (s.modLoader g).heldUpdates = s.heldUpdates := rfl
@[simp] theorem State.modLoader_lastSeq (g : Loader → Loader) : (s.modLoader g).lastSeq = s.lastSeq := rfl
@[simp] theorem State.modLoader_seqLocks (g : Loader → Loader) : (s.modLoader g).seqLocks = s.seqLocks := rfl
@[simp] theorem State.modLoader_dieLocks (g : Loader → Loader) : (s.modLoader g).dieLocks = s.dieLocks := rfl
@[simp] theorem State.modLoader_ageAt (g : Loader → Loader) : (s.modLoader g).ageAt = s.ageAt := rfl
@[simp] theorem State.modLoader_touchSent (g : Loader → Loader) : (s.modLoader g).touchSent = s.touchSent := rfl
@[simp] theorem State.modLoader_quotaSaid (g : Loader → Loader) : (s.modLoader g).quotaSaid = s.quotaSaid := rfl
@[simp] theorem State.modLoader_ringLost (g : Loader → Loader) : (s.modLoader g).ringLost = s.ringLost := rfl
@[simp] theorem State.modLoader_pendSince (g : Loader → Loader) : (s.modLoader g).pendSince = s.pendSince := rfl
@[simp] theorem State.modLoader_keys (g : Loader → Loader) : (s.modLoader g).keys = s.keys := rfl
@[simp] theorem State.modLoader_loadedAt (g : Loader → Loader) : (s.modLoader g).loadedAt = s.loadedAt := rfl
@[simp] theorem State.modLoader_roots (g : Loader → Loader) : (s.modLoader g).roots = s.roots := rfl
@[simp] theorem State.modLoader_oldBind (g : Loader → Loader) : (s.modLoader g).oldBind = s.oldBind := rfl
@[simp] theorem State.modLoader_switches (g : Loader → Loader) : (s.modLoader g).switches = s.switches := rfl
@[simp] theorem State.modLoader_xgemIndex (g : Loader → Loader) : (s.modLoader g).xgemIndex = s.xgemIndex := rfl
@[simp] theorem State.modLoader_frags (g : Loader → Loader) : (s.modLoader g).frags = s.frags := rfl
@[simp] theorem State.modLoader_keyFrame (g : Loader → Loader) : (s.modLoader g).keyFrame = s.keyFrame := rfl
@[simp] theorem State.modLoader_labels (g : Loader → Loader) : (s.modLoader g).labels = s.labels := rfl
@[simp] theorem State.modLoader_queues (g : Loader → Loader) : (s.modLoader g).queues = s.queues := rfl
@[simp] theorem State.modLoader_qstat (g : Loader → Loader) : (s.modLoader g).qstat = s.qstat := rfl
@[simp] theorem State.modLoader_offers (g : Loader → Loader) : (s.modLoader g).offers = s.offers := rfl
@[simp] theorem State.modLoader_felt (g : Loader → Loader) : (s.modLoader g).felt = s.felt := rfl
@[simp] theorem State.modLoader_drain (g : Loader → Loader) : (s.modLoader g).drain = s.drain := rfl
@[simp] theorem State.modLoader_inbox (g : Loader → Loader) : (s.modLoader g).inbox = s.inbox := rfl
@[simp] theorem State.modLoader_laneOut (g : Loader → Loader) : (s.modLoader g).laneOut = s.laneOut := rfl
@[simp] theorem State.modLoader_cellPos (g : Loader → Loader) : (s.modLoader g).cellPos = s.cellPos := rfl
@[simp] theorem State.modLoader_credit (g : Loader → Loader) : (s.modLoader g).credit = s.credit := rfl
@[simp] theorem State.modLoader_lanes (g : Loader → Loader) : (s.modLoader g).lanes = s.lanes := rfl
@[simp] theorem State.modLoader_owed (g : Loader → Loader) : (s.modLoader g).owed = s.owed := rfl
@[simp] theorem State.modLoader_rxPart (g : Loader → Loader) : (s.modLoader g).rxPart = s.rxPart := rfl
@[simp] theorem State.modLoader_rxReady (g : Loader → Loader) : (s.modLoader g).rxReady = s.rxReady := rfl
@[simp] theorem State.modLoader_oam (g : Loader → Loader) : (s.modLoader g).oam = s.oam := rfl
@[simp] theorem State.modLoader_replays (g : Loader → Loader) : (s.modLoader g).replays = s.replays := rfl
@[simp] theorem State.modLoader_ceWaiting (g : Loader → Loader) : (s.modLoader g).ceWaiting = s.ceWaiting := rfl
@[simp] theorem State.modLoader_elim (g : Loader → Loader) : (s.modLoader g).elim = s.elim := rfl
@[simp] theorem State.modLoader_stamps (g : Loader → Loader) : (s.modLoader g).stamps = s.stamps := rfl
@[simp] theorem State.modLoader_saidAt (g : Loader → Loader) : (s.modLoader g).saidAt = s.saidAt := rfl
@[simp] theorem State.modLoader_netSec (g : Loader → Loader) : (s.modLoader g).netSec = s.netSec := rfl
@[simp] theorem State.modLoader_netFrac (g : Loader → Loader) : (s.modLoader g).netFrac = s.netFrac := rfl
@[simp] theorem State.modLoader_uses (g : Loader → Loader) : (s.modLoader g).uses = s.uses := rfl
@[simp] theorem State.modLoader_outbox (g : Loader → Loader) : (s.modLoader g).outbox = s.outbox := rfl
@[simp] theorem State.modLoader_pending (g : Loader → Loader) : (s.modLoader g).pending = s.pending := rfl

/-! ### modStat -/

@[simp] theorem State.modStat_ident (d c : Nat) (g : Stat → Stat) : (s.modStat d c g).ident = s.ident := rfl
@[simp] theorem State.modStat_regs (d c : Nat) (g : Stat → Stat) : (s.modStat d c g).regs = s.regs := rfl
@[simp] theorem State.modStat_live (d c : Nat) (g : Stat → Stat) : (s.modStat d c g).live = s.live := rfl
@[simp] theorem State.modStat_sects (d c : Nat) (g : Stat → Stat) : (s.modStat d c g).sects = s.sects := rfl
@[simp] theorem State.modStat_latches (d c : Nat) (g : Stat → Stat) : (s.modStat d c g).latches = s.latches := rfl
@[simp] theorem State.modStat_chans (d c : Nat) (g : Stat → Stat) : (s.modStat d c g).chans = s.chans := rfl
@[simp] theorem State.modStat_loader (d c : Nat) (g : Stat → Stat) : (s.modStat d c g).loader = s.loader := rfl
@[simp] theorem State.modStat_slots (d c : Nat) (g : Stat → Stat) : (s.modStat d c g).slots = s.slots := rfl
@[simp] theorem State.modStat_slotBad (d c : Nat) (g : Stat → Stat) : (s.modStat d c g).slotBad = s.slotBad := rfl
@[simp] theorem State.modStat_mram (d c : Nat) (g : Stat → Stat) : (s.modStat d c g).mram = s.mram := rfl
@[simp] theorem State.modStat_cores (d c : Nat) (g : Stat → Stat) : (s.modStat d c g).cores = s.cores := rfl
@[simp] theorem State.modStat_ctxStore (d c : Nat) (g : Stat → Stat) : (s.modStat d c g).ctxStore = s.ctxStore := rfl
@[simp] theorem State.modStat_tweed (d c : Nat) (g : Stat → Stat) : (s.modStat d c g).tweed = s.tweed := rfl
@[simp] theorem State.modStat_rotations (d c : Nat) (g : Stat → Stat) : (s.modStat d c g).rotations = s.rotations := rfl
@[simp] theorem State.modStat_stats (d c : Nat) (g : Stat → Stat) : (s.modStat d c g).stats = s.stats.set ⟨d, c⟩ {} (g (s.statOf d c)) := rfl
@[simp] theorem State.modStat_dev (d c : Nat) (g : Stat → Stat) : (s.modStat d c g).dev = s.dev := rfl
@[simp] theorem State.modStat_perf (d c : Nat) (g : Stat → Stat) : (s.modStat d c g).perf = s.perf := rfl
@[simp] theorem State.modStat_channels (d c : Nat) (g : Stat → Stat) : (s.modStat d c g).channels = s.channels := rfl
@[simp] theorem State.modStat_dieStacks (d c : Nat) (g : Stat → Stat) : (s.modStat d c g).dieStacks = s.dieStacks := rfl
@[simp] theorem State.modStat_clock (d c : Nat) (g : Stat → Stat) : (s.modStat d c g).clock = s.clock := rfl
@[simp] theorem State.modStat_pair (d c : Nat) (g : Stat → Stat) : (s.modStat d c g).pair = s.pair := rfl
@[simp] theorem State.modStat_snap (d c : Nat) (g : Stat → Stat) : (s.modStat d c g).snap = s.snap := rfl
@[simp] theorem State.modStat_dma (d c : Nat) (g : Stat → Stat) : (s.modStat d c g).dma = s.dma := rfl
@[simp] theorem State.modStat_pci (d c : Nat) (g : Stat → Stat) : (s.modStat d c g).pci = s.pci := rfl
@[simp] theorem State.modStat_power (d c : Nat) (g : Stat → Stat) : (s.modStat d c g).power = s.power := rfl
@[simp] theorem State.modStat_supply (d c : Nat) (g : Stat → Stat) : (s.modStat d c g).supply = s.supply := rfl
@[simp] theorem State.modStat_bwAcc (d c : Nat) (g : Stat → Stat) : (s.modStat d c g).bwAcc = s.bwAcc := rfl
@[simp] theorem State.modStat_sets (d c : Nat) (g : Stat → Stat) : (s.modStat d c g).sets = s.sets := rfl
@[simp] theorem State.modStat_trees (d c : Nat) (g : Stat → Stat) : (s.modStat d c g).trees = s.trees := rfl
@[simp] theorem State.modStat_terms (d c : Nat) (g : Stat → Stat) : (s.modStat d c g).terms = s.terms := rfl
@[simp] theorem State.modStat_allocs (d c : Nat) (g : Stat → Stat) : (s.modStat d c g).allocs = s.allocs := rfl
@[simp] theorem State.modStat_resv (d c : Nat) (g : Stat → Stat) : (s.modStat d c g).resv = s.resv := rfl
@[simp] theorem State.modStat_rot (d c : Nat) (g : Stat → Stat) : (s.modStat d c g).rot = s.rot := rfl
@[simp] theorem State.modStat_circs (d c : Nat) (g : Stat → Stat) : (s.modStat d c g).circs = s.circs := rfl
@[simp] theorem State.modStat_grps (d c : Nat) (g : Stat → Stat) : (s.modStat d c g).grps = s.grps := rfl
@[simp] theorem State.modStat_chkSeen (d c : Nat) (g : Stat → Stat) : (s.modStat d c g).chkSeen = s.chkSeen := rfl
@[simp] theorem State.modStat_exact (d c : Nat) (g : Stat → Stat) : (s.modStat d c g).exact = s.exact := rfl
@[simp] theorem State.modStat_tern (d c : Nat) (g : Stat → Stat) : (s.modStat d c g).tern = s.tern := rfl
@[simp] theorem State.modStat_fwd (d c : Nat) (g : Stat → Stat) : (s.modStat d c g).fwd = s.fwd := rfl
@[simp] theorem State.modStat_cache (d c : Nat) (g : Stat → Stat) : (s.modStat d c g).cache = s.cache := rfl
@[simp] theorem State.modStat_notes (d c : Nat) (g : Stat → Stat) : (s.modStat d c g).notes = s.notes := rfl
@[simp] theorem State.modStat_updates (d c : Nat) (g : Stat → Stat) : (s.modStat d c g).updates = s.updates := rfl
@[simp] theorem State.modStat_heldUpdates (d c : Nat) (g : Stat → Stat) : (s.modStat d c g).heldUpdates = s.heldUpdates := rfl
@[simp] theorem State.modStat_lastSeq (d c : Nat) (g : Stat → Stat) : (s.modStat d c g).lastSeq = s.lastSeq := rfl
@[simp] theorem State.modStat_seqLocks (d c : Nat) (g : Stat → Stat) : (s.modStat d c g).seqLocks = s.seqLocks := rfl
@[simp] theorem State.modStat_dieLocks (d c : Nat) (g : Stat → Stat) : (s.modStat d c g).dieLocks = s.dieLocks := rfl
@[simp] theorem State.modStat_ageAt (d c : Nat) (g : Stat → Stat) : (s.modStat d c g).ageAt = s.ageAt := rfl
@[simp] theorem State.modStat_touchSent (d c : Nat) (g : Stat → Stat) : (s.modStat d c g).touchSent = s.touchSent := rfl
@[simp] theorem State.modStat_quotaSaid (d c : Nat) (g : Stat → Stat) : (s.modStat d c g).quotaSaid = s.quotaSaid := rfl
@[simp] theorem State.modStat_ringLost (d c : Nat) (g : Stat → Stat) : (s.modStat d c g).ringLost = s.ringLost := rfl
@[simp] theorem State.modStat_pendSince (d c : Nat) (g : Stat → Stat) : (s.modStat d c g).pendSince = s.pendSince := rfl
@[simp] theorem State.modStat_keys (d c : Nat) (g : Stat → Stat) : (s.modStat d c g).keys = s.keys := rfl
@[simp] theorem State.modStat_loadedAt (d c : Nat) (g : Stat → Stat) : (s.modStat d c g).loadedAt = s.loadedAt := rfl
@[simp] theorem State.modStat_roots (d c : Nat) (g : Stat → Stat) : (s.modStat d c g).roots = s.roots := rfl
@[simp] theorem State.modStat_oldBind (d c : Nat) (g : Stat → Stat) : (s.modStat d c g).oldBind = s.oldBind := rfl
@[simp] theorem State.modStat_switches (d c : Nat) (g : Stat → Stat) : (s.modStat d c g).switches = s.switches := rfl
@[simp] theorem State.modStat_xgemIndex (d c : Nat) (g : Stat → Stat) : (s.modStat d c g).xgemIndex = s.xgemIndex := rfl
@[simp] theorem State.modStat_frags (d c : Nat) (g : Stat → Stat) : (s.modStat d c g).frags = s.frags := rfl
@[simp] theorem State.modStat_keyFrame (d c : Nat) (g : Stat → Stat) : (s.modStat d c g).keyFrame = s.keyFrame := rfl
@[simp] theorem State.modStat_labels (d c : Nat) (g : Stat → Stat) : (s.modStat d c g).labels = s.labels := rfl
@[simp] theorem State.modStat_queues (d c : Nat) (g : Stat → Stat) : (s.modStat d c g).queues = s.queues := rfl
@[simp] theorem State.modStat_qstat (d c : Nat) (g : Stat → Stat) : (s.modStat d c g).qstat = s.qstat := rfl
@[simp] theorem State.modStat_offers (d c : Nat) (g : Stat → Stat) : (s.modStat d c g).offers = s.offers := rfl
@[simp] theorem State.modStat_felt (d c : Nat) (g : Stat → Stat) : (s.modStat d c g).felt = s.felt := rfl
@[simp] theorem State.modStat_drain (d c : Nat) (g : Stat → Stat) : (s.modStat d c g).drain = s.drain := rfl
@[simp] theorem State.modStat_inbox (d c : Nat) (g : Stat → Stat) : (s.modStat d c g).inbox = s.inbox := rfl
@[simp] theorem State.modStat_laneOut (d c : Nat) (g : Stat → Stat) : (s.modStat d c g).laneOut = s.laneOut := rfl
@[simp] theorem State.modStat_cellPos (d c : Nat) (g : Stat → Stat) : (s.modStat d c g).cellPos = s.cellPos := rfl
@[simp] theorem State.modStat_credit (d c : Nat) (g : Stat → Stat) : (s.modStat d c g).credit = s.credit := rfl
@[simp] theorem State.modStat_lanes (d c : Nat) (g : Stat → Stat) : (s.modStat d c g).lanes = s.lanes := rfl
@[simp] theorem State.modStat_owed (d c : Nat) (g : Stat → Stat) : (s.modStat d c g).owed = s.owed := rfl
@[simp] theorem State.modStat_rxPart (d c : Nat) (g : Stat → Stat) : (s.modStat d c g).rxPart = s.rxPart := rfl
@[simp] theorem State.modStat_rxReady (d c : Nat) (g : Stat → Stat) : (s.modStat d c g).rxReady = s.rxReady := rfl
@[simp] theorem State.modStat_oam (d c : Nat) (g : Stat → Stat) : (s.modStat d c g).oam = s.oam := rfl
@[simp] theorem State.modStat_replays (d c : Nat) (g : Stat → Stat) : (s.modStat d c g).replays = s.replays := rfl
@[simp] theorem State.modStat_ceWaiting (d c : Nat) (g : Stat → Stat) : (s.modStat d c g).ceWaiting = s.ceWaiting := rfl
@[simp] theorem State.modStat_elim (d c : Nat) (g : Stat → Stat) : (s.modStat d c g).elim = s.elim := rfl
@[simp] theorem State.modStat_stamps (d c : Nat) (g : Stat → Stat) : (s.modStat d c g).stamps = s.stamps := rfl
@[simp] theorem State.modStat_saidAt (d c : Nat) (g : Stat → Stat) : (s.modStat d c g).saidAt = s.saidAt := rfl
@[simp] theorem State.modStat_netSec (d c : Nat) (g : Stat → Stat) : (s.modStat d c g).netSec = s.netSec := rfl
@[simp] theorem State.modStat_netFrac (d c : Nat) (g : Stat → Stat) : (s.modStat d c g).netFrac = s.netFrac := rfl
@[simp] theorem State.modStat_uses (d c : Nat) (g : Stat → Stat) : (s.modStat d c g).uses = s.uses := rfl
@[simp] theorem State.modStat_outbox (d c : Nat) (g : Stat → Stat) : (s.modStat d c g).outbox = s.outbox := rfl
@[simp] theorem State.modStat_pending (d c : Nat) (g : Stat → Stat) : (s.modStat d c g).pending = s.pending := rfl

/-! ### emitAll -/

@[simp] theorem State.emitAll_ident (os : List Sent) : (s.emitAll os).ident = s.ident := rfl
@[simp] theorem State.emitAll_regs (os : List Sent) : (s.emitAll os).regs = s.regs := rfl
@[simp] theorem State.emitAll_live (os : List Sent) : (s.emitAll os).live = s.live := rfl
@[simp] theorem State.emitAll_sects (os : List Sent) : (s.emitAll os).sects = s.sects := rfl
@[simp] theorem State.emitAll_latches (os : List Sent) : (s.emitAll os).latches = s.latches := rfl
@[simp] theorem State.emitAll_chans (os : List Sent) : (s.emitAll os).chans = s.chans := rfl
@[simp] theorem State.emitAll_loader (os : List Sent) : (s.emitAll os).loader = s.loader := rfl
@[simp] theorem State.emitAll_slots (os : List Sent) : (s.emitAll os).slots = s.slots := rfl
@[simp] theorem State.emitAll_slotBad (os : List Sent) : (s.emitAll os).slotBad = s.slotBad := rfl
@[simp] theorem State.emitAll_mram (os : List Sent) : (s.emitAll os).mram = s.mram := rfl
@[simp] theorem State.emitAll_cores (os : List Sent) : (s.emitAll os).cores = s.cores := rfl
@[simp] theorem State.emitAll_ctxStore (os : List Sent) : (s.emitAll os).ctxStore = s.ctxStore := rfl
@[simp] theorem State.emitAll_tweed (os : List Sent) : (s.emitAll os).tweed = s.tweed := rfl
@[simp] theorem State.emitAll_rotations (os : List Sent) : (s.emitAll os).rotations = s.rotations := rfl
@[simp] theorem State.emitAll_stats (os : List Sent) : (s.emitAll os).stats = s.stats := rfl
@[simp] theorem State.emitAll_dev (os : List Sent) : (s.emitAll os).dev = s.dev := rfl
@[simp] theorem State.emitAll_perf (os : List Sent) : (s.emitAll os).perf = s.perf := rfl
@[simp] theorem State.emitAll_channels (os : List Sent) : (s.emitAll os).channels = s.channels := rfl
@[simp] theorem State.emitAll_dieStacks (os : List Sent) : (s.emitAll os).dieStacks = s.dieStacks := rfl
@[simp] theorem State.emitAll_clock (os : List Sent) : (s.emitAll os).clock = s.clock := rfl
@[simp] theorem State.emitAll_pair (os : List Sent) : (s.emitAll os).pair = s.pair := rfl
@[simp] theorem State.emitAll_snap (os : List Sent) : (s.emitAll os).snap = s.snap := rfl
@[simp] theorem State.emitAll_dma (os : List Sent) : (s.emitAll os).dma = s.dma := rfl
@[simp] theorem State.emitAll_pci (os : List Sent) : (s.emitAll os).pci = s.pci := rfl
@[simp] theorem State.emitAll_power (os : List Sent) : (s.emitAll os).power = s.power := rfl
@[simp] theorem State.emitAll_supply (os : List Sent) : (s.emitAll os).supply = s.supply := rfl
@[simp] theorem State.emitAll_bwAcc (os : List Sent) : (s.emitAll os).bwAcc = s.bwAcc := rfl
@[simp] theorem State.emitAll_sets (os : List Sent) : (s.emitAll os).sets = s.sets := rfl
@[simp] theorem State.emitAll_trees (os : List Sent) : (s.emitAll os).trees = s.trees := rfl
@[simp] theorem State.emitAll_terms (os : List Sent) : (s.emitAll os).terms = s.terms := rfl
@[simp] theorem State.emitAll_allocs (os : List Sent) : (s.emitAll os).allocs = s.allocs := rfl
@[simp] theorem State.emitAll_resv (os : List Sent) : (s.emitAll os).resv = s.resv := rfl
@[simp] theorem State.emitAll_rot (os : List Sent) : (s.emitAll os).rot = s.rot := rfl
@[simp] theorem State.emitAll_circs (os : List Sent) : (s.emitAll os).circs = s.circs := rfl
@[simp] theorem State.emitAll_grps (os : List Sent) : (s.emitAll os).grps = s.grps := rfl
@[simp] theorem State.emitAll_chkSeen (os : List Sent) : (s.emitAll os).chkSeen = s.chkSeen := rfl
@[simp] theorem State.emitAll_exact (os : List Sent) : (s.emitAll os).exact = s.exact := rfl
@[simp] theorem State.emitAll_tern (os : List Sent) : (s.emitAll os).tern = s.tern := rfl
@[simp] theorem State.emitAll_fwd (os : List Sent) : (s.emitAll os).fwd = s.fwd := rfl
@[simp] theorem State.emitAll_cache (os : List Sent) : (s.emitAll os).cache = s.cache := rfl
@[simp] theorem State.emitAll_notes (os : List Sent) : (s.emitAll os).notes = s.notes := rfl
@[simp] theorem State.emitAll_updates (os : List Sent) : (s.emitAll os).updates = s.updates := rfl
@[simp] theorem State.emitAll_heldUpdates (os : List Sent) : (s.emitAll os).heldUpdates = s.heldUpdates := rfl
@[simp] theorem State.emitAll_lastSeq (os : List Sent) : (s.emitAll os).lastSeq = s.lastSeq := rfl
@[simp] theorem State.emitAll_seqLocks (os : List Sent) : (s.emitAll os).seqLocks = s.seqLocks := rfl
@[simp] theorem State.emitAll_dieLocks (os : List Sent) : (s.emitAll os).dieLocks = s.dieLocks := rfl
@[simp] theorem State.emitAll_ageAt (os : List Sent) : (s.emitAll os).ageAt = s.ageAt := rfl
@[simp] theorem State.emitAll_touchSent (os : List Sent) : (s.emitAll os).touchSent = s.touchSent := rfl
@[simp] theorem State.emitAll_quotaSaid (os : List Sent) : (s.emitAll os).quotaSaid = s.quotaSaid := rfl
@[simp] theorem State.emitAll_ringLost (os : List Sent) : (s.emitAll os).ringLost = s.ringLost := rfl
@[simp] theorem State.emitAll_pendSince (os : List Sent) : (s.emitAll os).pendSince = s.pendSince := rfl
@[simp] theorem State.emitAll_keys (os : List Sent) : (s.emitAll os).keys = s.keys := rfl
@[simp] theorem State.emitAll_loadedAt (os : List Sent) : (s.emitAll os).loadedAt = s.loadedAt := rfl
@[simp] theorem State.emitAll_roots (os : List Sent) : (s.emitAll os).roots = s.roots := rfl
@[simp] theorem State.emitAll_oldBind (os : List Sent) : (s.emitAll os).oldBind = s.oldBind := rfl
@[simp] theorem State.emitAll_switches (os : List Sent) : (s.emitAll os).switches = s.switches := rfl
@[simp] theorem State.emitAll_xgemIndex (os : List Sent) : (s.emitAll os).xgemIndex = s.xgemIndex := rfl
@[simp] theorem State.emitAll_frags (os : List Sent) : (s.emitAll os).frags = s.frags := rfl
@[simp] theorem State.emitAll_keyFrame (os : List Sent) : (s.emitAll os).keyFrame = s.keyFrame := rfl
@[simp] theorem State.emitAll_labels (os : List Sent) : (s.emitAll os).labels = s.labels := rfl
@[simp] theorem State.emitAll_queues (os : List Sent) : (s.emitAll os).queues = s.queues := rfl
@[simp] theorem State.emitAll_qstat (os : List Sent) : (s.emitAll os).qstat = s.qstat := rfl
@[simp] theorem State.emitAll_offers (os : List Sent) : (s.emitAll os).offers = s.offers := rfl
@[simp] theorem State.emitAll_felt (os : List Sent) : (s.emitAll os).felt = s.felt := rfl
@[simp] theorem State.emitAll_drain (os : List Sent) : (s.emitAll os).drain = s.drain := rfl
@[simp] theorem State.emitAll_inbox (os : List Sent) : (s.emitAll os).inbox = s.inbox := rfl
@[simp] theorem State.emitAll_laneOut (os : List Sent) : (s.emitAll os).laneOut = s.laneOut := rfl
@[simp] theorem State.emitAll_cellPos (os : List Sent) : (s.emitAll os).cellPos = s.cellPos := rfl
@[simp] theorem State.emitAll_credit (os : List Sent) : (s.emitAll os).credit = s.credit := rfl
@[simp] theorem State.emitAll_lanes (os : List Sent) : (s.emitAll os).lanes = s.lanes := rfl
@[simp] theorem State.emitAll_owed (os : List Sent) : (s.emitAll os).owed = s.owed := rfl
@[simp] theorem State.emitAll_rxPart (os : List Sent) : (s.emitAll os).rxPart = s.rxPart := rfl
@[simp] theorem State.emitAll_rxReady (os : List Sent) : (s.emitAll os).rxReady = s.rxReady := rfl
@[simp] theorem State.emitAll_oam (os : List Sent) : (s.emitAll os).oam = s.oam := rfl
@[simp] theorem State.emitAll_replays (os : List Sent) : (s.emitAll os).replays = s.replays := rfl
@[simp] theorem State.emitAll_ceWaiting (os : List Sent) : (s.emitAll os).ceWaiting = s.ceWaiting := rfl
@[simp] theorem State.emitAll_elim (os : List Sent) : (s.emitAll os).elim = s.elim := rfl
@[simp] theorem State.emitAll_stamps (os : List Sent) : (s.emitAll os).stamps = s.stamps := rfl
@[simp] theorem State.emitAll_saidAt (os : List Sent) : (s.emitAll os).saidAt = s.saidAt := rfl
@[simp] theorem State.emitAll_netSec (os : List Sent) : (s.emitAll os).netSec = s.netSec := rfl
@[simp] theorem State.emitAll_netFrac (os : List Sent) : (s.emitAll os).netFrac = s.netFrac := rfl
@[simp] theorem State.emitAll_uses (os : List Sent) : (s.emitAll os).uses = s.uses := rfl
@[simp] theorem State.emitAll_outbox (os : List Sent) : (s.emitAll os).outbox = s.outbox ++ os := rfl
@[simp] theorem State.emitAll_pending (os : List Sent) : (s.emitAll os).pending = s.pending := rfl

/-! ### modLane -/

@[simp] theorem State.modLane_ident (l : Nat) (g : LaneSt → LaneSt) : (s.modLane l g).ident = s.ident := rfl
@[simp] theorem State.modLane_regs (l : Nat) (g : LaneSt → LaneSt) : (s.modLane l g).regs = s.regs := rfl
@[simp] theorem State.modLane_live (l : Nat) (g : LaneSt → LaneSt) : (s.modLane l g).live = s.live := rfl
@[simp] theorem State.modLane_sects (l : Nat) (g : LaneSt → LaneSt) : (s.modLane l g).sects = s.sects := rfl
@[simp] theorem State.modLane_latches (l : Nat) (g : LaneSt → LaneSt) : (s.modLane l g).latches = s.latches := rfl
@[simp] theorem State.modLane_chans (l : Nat) (g : LaneSt → LaneSt) : (s.modLane l g).chans = s.chans := rfl
@[simp] theorem State.modLane_loader (l : Nat) (g : LaneSt → LaneSt) : (s.modLane l g).loader = s.loader := rfl
@[simp] theorem State.modLane_slots (l : Nat) (g : LaneSt → LaneSt) : (s.modLane l g).slots = s.slots := rfl
@[simp] theorem State.modLane_slotBad (l : Nat) (g : LaneSt → LaneSt) : (s.modLane l g).slotBad = s.slotBad := rfl
@[simp] theorem State.modLane_mram (l : Nat) (g : LaneSt → LaneSt) : (s.modLane l g).mram = s.mram := rfl
@[simp] theorem State.modLane_cores (l : Nat) (g : LaneSt → LaneSt) : (s.modLane l g).cores = s.cores := rfl
@[simp] theorem State.modLane_ctxStore (l : Nat) (g : LaneSt → LaneSt) : (s.modLane l g).ctxStore = s.ctxStore := rfl
@[simp] theorem State.modLane_tweed (l : Nat) (g : LaneSt → LaneSt) : (s.modLane l g).tweed = s.tweed := rfl
@[simp] theorem State.modLane_rotations (l : Nat) (g : LaneSt → LaneSt) : (s.modLane l g).rotations = s.rotations := rfl
@[simp] theorem State.modLane_stats (l : Nat) (g : LaneSt → LaneSt) : (s.modLane l g).stats = s.stats := rfl
@[simp] theorem State.modLane_dev (l : Nat) (g : LaneSt → LaneSt) : (s.modLane l g).dev = s.dev := rfl
@[simp] theorem State.modLane_perf (l : Nat) (g : LaneSt → LaneSt) : (s.modLane l g).perf = s.perf := rfl
@[simp] theorem State.modLane_channels (l : Nat) (g : LaneSt → LaneSt) : (s.modLane l g).channels = s.channels := rfl
@[simp] theorem State.modLane_dieStacks (l : Nat) (g : LaneSt → LaneSt) : (s.modLane l g).dieStacks = s.dieStacks := rfl
@[simp] theorem State.modLane_clock (l : Nat) (g : LaneSt → LaneSt) : (s.modLane l g).clock = s.clock := rfl
@[simp] theorem State.modLane_pair (l : Nat) (g : LaneSt → LaneSt) : (s.modLane l g).pair = s.pair := rfl
@[simp] theorem State.modLane_snap (l : Nat) (g : LaneSt → LaneSt) : (s.modLane l g).snap = s.snap := rfl
@[simp] theorem State.modLane_dma (l : Nat) (g : LaneSt → LaneSt) : (s.modLane l g).dma = s.dma := rfl
@[simp] theorem State.modLane_pci (l : Nat) (g : LaneSt → LaneSt) : (s.modLane l g).pci = s.pci := rfl
@[simp] theorem State.modLane_power (l : Nat) (g : LaneSt → LaneSt) : (s.modLane l g).power = s.power := rfl
@[simp] theorem State.modLane_supply (l : Nat) (g : LaneSt → LaneSt) : (s.modLane l g).supply = s.supply := rfl
@[simp] theorem State.modLane_bwAcc (l : Nat) (g : LaneSt → LaneSt) : (s.modLane l g).bwAcc = s.bwAcc := rfl
@[simp] theorem State.modLane_sets (l : Nat) (g : LaneSt → LaneSt) : (s.modLane l g).sets = s.sets := rfl
@[simp] theorem State.modLane_trees (l : Nat) (g : LaneSt → LaneSt) : (s.modLane l g).trees = s.trees := rfl
@[simp] theorem State.modLane_terms (l : Nat) (g : LaneSt → LaneSt) : (s.modLane l g).terms = s.terms := rfl
@[simp] theorem State.modLane_allocs (l : Nat) (g : LaneSt → LaneSt) : (s.modLane l g).allocs = s.allocs := rfl
@[simp] theorem State.modLane_resv (l : Nat) (g : LaneSt → LaneSt) : (s.modLane l g).resv = s.resv := rfl
@[simp] theorem State.modLane_rot (l : Nat) (g : LaneSt → LaneSt) : (s.modLane l g).rot = s.rot := rfl
@[simp] theorem State.modLane_circs (l : Nat) (g : LaneSt → LaneSt) : (s.modLane l g).circs = s.circs := rfl
@[simp] theorem State.modLane_grps (l : Nat) (g : LaneSt → LaneSt) : (s.modLane l g).grps = s.grps := rfl
@[simp] theorem State.modLane_chkSeen (l : Nat) (g : LaneSt → LaneSt) : (s.modLane l g).chkSeen = s.chkSeen := rfl
@[simp] theorem State.modLane_exact (l : Nat) (g : LaneSt → LaneSt) : (s.modLane l g).exact = s.exact := rfl
@[simp] theorem State.modLane_tern (l : Nat) (g : LaneSt → LaneSt) : (s.modLane l g).tern = s.tern := rfl
@[simp] theorem State.modLane_fwd (l : Nat) (g : LaneSt → LaneSt) : (s.modLane l g).fwd = s.fwd := rfl
@[simp] theorem State.modLane_cache (l : Nat) (g : LaneSt → LaneSt) : (s.modLane l g).cache = s.cache := rfl
@[simp] theorem State.modLane_notes (l : Nat) (g : LaneSt → LaneSt) : (s.modLane l g).notes = s.notes := rfl
@[simp] theorem State.modLane_updates (l : Nat) (g : LaneSt → LaneSt) : (s.modLane l g).updates = s.updates := rfl
@[simp] theorem State.modLane_heldUpdates (l : Nat) (g : LaneSt → LaneSt) : (s.modLane l g).heldUpdates = s.heldUpdates := rfl
@[simp] theorem State.modLane_lastSeq (l : Nat) (g : LaneSt → LaneSt) : (s.modLane l g).lastSeq = s.lastSeq := rfl
@[simp] theorem State.modLane_seqLocks (l : Nat) (g : LaneSt → LaneSt) : (s.modLane l g).seqLocks = s.seqLocks := rfl
@[simp] theorem State.modLane_dieLocks (l : Nat) (g : LaneSt → LaneSt) : (s.modLane l g).dieLocks = s.dieLocks := rfl
@[simp] theorem State.modLane_ageAt (l : Nat) (g : LaneSt → LaneSt) : (s.modLane l g).ageAt = s.ageAt := rfl
@[simp] theorem State.modLane_touchSent (l : Nat) (g : LaneSt → LaneSt) : (s.modLane l g).touchSent = s.touchSent := rfl
@[simp] theorem State.modLane_quotaSaid (l : Nat) (g : LaneSt → LaneSt) : (s.modLane l g).quotaSaid = s.quotaSaid := rfl
@[simp] theorem State.modLane_ringLost (l : Nat) (g : LaneSt → LaneSt) : (s.modLane l g).ringLost = s.ringLost := rfl
@[simp] theorem State.modLane_pendSince (l : Nat) (g : LaneSt → LaneSt) : (s.modLane l g).pendSince = s.pendSince := rfl
@[simp] theorem State.modLane_keys (l : Nat) (g : LaneSt → LaneSt) : (s.modLane l g).keys = s.keys := rfl
@[simp] theorem State.modLane_loadedAt (l : Nat) (g : LaneSt → LaneSt) : (s.modLane l g).loadedAt = s.loadedAt := rfl
@[simp] theorem State.modLane_roots (l : Nat) (g : LaneSt → LaneSt) : (s.modLane l g).roots = s.roots := rfl
@[simp] theorem State.modLane_oldBind (l : Nat) (g : LaneSt → LaneSt) : (s.modLane l g).oldBind = s.oldBind := rfl
@[simp] theorem State.modLane_switches (l : Nat) (g : LaneSt → LaneSt) : (s.modLane l g).switches = s.switches := rfl
@[simp] theorem State.modLane_xgemIndex (l : Nat) (g : LaneSt → LaneSt) : (s.modLane l g).xgemIndex = s.xgemIndex := rfl
@[simp] theorem State.modLane_frags (l : Nat) (g : LaneSt → LaneSt) : (s.modLane l g).frags = s.frags := rfl
@[simp] theorem State.modLane_keyFrame (l : Nat) (g : LaneSt → LaneSt) : (s.modLane l g).keyFrame = s.keyFrame := rfl
@[simp] theorem State.modLane_labels (l : Nat) (g : LaneSt → LaneSt) : (s.modLane l g).labels = s.labels := rfl
@[simp] theorem State.modLane_queues (l : Nat) (g : LaneSt → LaneSt) : (s.modLane l g).queues = s.queues := rfl
@[simp] theorem State.modLane_qstat (l : Nat) (g : LaneSt → LaneSt) : (s.modLane l g).qstat = s.qstat := rfl
@[simp] theorem State.modLane_offers (l : Nat) (g : LaneSt → LaneSt) : (s.modLane l g).offers = s.offers := rfl
@[simp] theorem State.modLane_felt (l : Nat) (g : LaneSt → LaneSt) : (s.modLane l g).felt = s.felt := rfl
@[simp] theorem State.modLane_drain (l : Nat) (g : LaneSt → LaneSt) : (s.modLane l g).drain = s.drain := rfl
@[simp] theorem State.modLane_inbox (l : Nat) (g : LaneSt → LaneSt) : (s.modLane l g).inbox = s.inbox := rfl
@[simp] theorem State.modLane_laneOut (l : Nat) (g : LaneSt → LaneSt) : (s.modLane l g).laneOut = s.laneOut := rfl
@[simp] theorem State.modLane_cellPos (l : Nat) (g : LaneSt → LaneSt) : (s.modLane l g).cellPos = s.cellPos := rfl
@[simp] theorem State.modLane_credit (l : Nat) (g : LaneSt → LaneSt) : (s.modLane l g).credit = s.credit := rfl
@[simp] theorem State.modLane_lanes (l : Nat) (g : LaneSt → LaneSt) : (s.modLane l g).lanes = s.lanes.set ⟨l, 0⟩ {} (g (s.lane l)) := rfl
@[simp] theorem State.modLane_owed (l : Nat) (g : LaneSt → LaneSt) : (s.modLane l g).owed = s.owed := rfl
@[simp] theorem State.modLane_rxPart (l : Nat) (g : LaneSt → LaneSt) : (s.modLane l g).rxPart = s.rxPart := rfl
@[simp] theorem State.modLane_rxReady (l : Nat) (g : LaneSt → LaneSt) : (s.modLane l g).rxReady = s.rxReady := rfl
@[simp] theorem State.modLane_oam (l : Nat) (g : LaneSt → LaneSt) : (s.modLane l g).oam = s.oam := rfl
@[simp] theorem State.modLane_replays (l : Nat) (g : LaneSt → LaneSt) : (s.modLane l g).replays = s.replays := rfl
@[simp] theorem State.modLane_ceWaiting (l : Nat) (g : LaneSt → LaneSt) : (s.modLane l g).ceWaiting = s.ceWaiting := rfl
@[simp] theorem State.modLane_elim (l : Nat) (g : LaneSt → LaneSt) : (s.modLane l g).elim = s.elim := rfl
@[simp] theorem State.modLane_stamps (l : Nat) (g : LaneSt → LaneSt) : (s.modLane l g).stamps = s.stamps := rfl
@[simp] theorem State.modLane_saidAt (l : Nat) (g : LaneSt → LaneSt) : (s.modLane l g).saidAt = s.saidAt := rfl
@[simp] theorem State.modLane_netSec (l : Nat) (g : LaneSt → LaneSt) : (s.modLane l g).netSec = s.netSec := rfl
@[simp] theorem State.modLane_netFrac (l : Nat) (g : LaneSt → LaneSt) : (s.modLane l g).netFrac = s.netFrac := rfl
@[simp] theorem State.modLane_uses (l : Nat) (g : LaneSt → LaneSt) : (s.modLane l g).uses = s.uses := rfl
@[simp] theorem State.modLane_outbox (l : Nat) (g : LaneSt → LaneSt) : (s.modLane l g).outbox = s.outbox := rfl
@[simp] theorem State.modLane_pending (l : Nat) (g : LaneSt → LaneSt) : (s.modLane l g).pending = s.pending := rfl

/-! ### setTime -/

@[simp] theorem State.setTime_ident (a b : Nat) : (s.setTime a b).ident = s.ident := rfl
@[simp] theorem State.setTime_regs (a b : Nat) : (s.setTime a b).regs = s.regs := rfl
@[simp] theorem State.setTime_live (a b : Nat) : (s.setTime a b).live = s.live := rfl
@[simp] theorem State.setTime_sects (a b : Nat) : (s.setTime a b).sects = s.sects := rfl
@[simp] theorem State.setTime_latches (a b : Nat) : (s.setTime a b).latches = s.latches := rfl
@[simp] theorem State.setTime_chans (a b : Nat) : (s.setTime a b).chans = s.chans := rfl
@[simp] theorem State.setTime_loader (a b : Nat) : (s.setTime a b).loader = s.loader := rfl
@[simp] theorem State.setTime_slots (a b : Nat) : (s.setTime a b).slots = s.slots := rfl
@[simp] theorem State.setTime_slotBad (a b : Nat) : (s.setTime a b).slotBad = s.slotBad := rfl
@[simp] theorem State.setTime_mram (a b : Nat) : (s.setTime a b).mram = s.mram := rfl
@[simp] theorem State.setTime_cores (a b : Nat) : (s.setTime a b).cores = s.cores := rfl
@[simp] theorem State.setTime_ctxStore (a b : Nat) : (s.setTime a b).ctxStore = s.ctxStore := rfl
@[simp] theorem State.setTime_tweed (a b : Nat) : (s.setTime a b).tweed = s.tweed := rfl
@[simp] theorem State.setTime_rotations (a b : Nat) : (s.setTime a b).rotations = s.rotations := rfl
@[simp] theorem State.setTime_stats (a b : Nat) : (s.setTime a b).stats = s.stats := rfl
@[simp] theorem State.setTime_dev (a b : Nat) : (s.setTime a b).dev = s.dev := rfl
@[simp] theorem State.setTime_perf (a b : Nat) : (s.setTime a b).perf = s.perf := rfl
@[simp] theorem State.setTime_channels (a b : Nat) : (s.setTime a b).channels = s.channels := rfl
@[simp] theorem State.setTime_dieStacks (a b : Nat) : (s.setTime a b).dieStacks = s.dieStacks := rfl
@[simp] theorem State.setTime_clock (a b : Nat) : (s.setTime a b).clock = s.clock := rfl
@[simp] theorem State.setTime_pair (a b : Nat) : (s.setTime a b).pair = s.pair := rfl
@[simp] theorem State.setTime_snap (a b : Nat) : (s.setTime a b).snap = s.snap := rfl
@[simp] theorem State.setTime_dma (a b : Nat) : (s.setTime a b).dma = s.dma := rfl
@[simp] theorem State.setTime_pci (a b : Nat) : (s.setTime a b).pci = s.pci := rfl
@[simp] theorem State.setTime_power (a b : Nat) : (s.setTime a b).power = s.power := rfl
@[simp] theorem State.setTime_supply (a b : Nat) : (s.setTime a b).supply = s.supply := rfl
@[simp] theorem State.setTime_bwAcc (a b : Nat) : (s.setTime a b).bwAcc = s.bwAcc := rfl
@[simp] theorem State.setTime_sets (a b : Nat) : (s.setTime a b).sets = s.sets := rfl
@[simp] theorem State.setTime_trees (a b : Nat) : (s.setTime a b).trees = s.trees := rfl
@[simp] theorem State.setTime_terms (a b : Nat) : (s.setTime a b).terms = s.terms := rfl
@[simp] theorem State.setTime_allocs (a b : Nat) : (s.setTime a b).allocs = s.allocs := rfl
@[simp] theorem State.setTime_resv (a b : Nat) : (s.setTime a b).resv = s.resv := rfl
@[simp] theorem State.setTime_rot (a b : Nat) : (s.setTime a b).rot = s.rot := rfl
@[simp] theorem State.setTime_circs (a b : Nat) : (s.setTime a b).circs = s.circs := rfl
@[simp] theorem State.setTime_grps (a b : Nat) : (s.setTime a b).grps = s.grps := rfl
@[simp] theorem State.setTime_chkSeen (a b : Nat) : (s.setTime a b).chkSeen = s.chkSeen := rfl
@[simp] theorem State.setTime_exact (a b : Nat) : (s.setTime a b).exact = s.exact := rfl
@[simp] theorem State.setTime_tern (a b : Nat) : (s.setTime a b).tern = s.tern := rfl
@[simp] theorem State.setTime_fwd (a b : Nat) : (s.setTime a b).fwd = s.fwd := rfl
@[simp] theorem State.setTime_cache (a b : Nat) : (s.setTime a b).cache = s.cache := rfl
@[simp] theorem State.setTime_notes (a b : Nat) : (s.setTime a b).notes = s.notes := rfl
@[simp] theorem State.setTime_updates (a b : Nat) : (s.setTime a b).updates = s.updates := rfl
@[simp] theorem State.setTime_heldUpdates (a b : Nat) : (s.setTime a b).heldUpdates = s.heldUpdates := rfl
@[simp] theorem State.setTime_lastSeq (a b : Nat) : (s.setTime a b).lastSeq = s.lastSeq := rfl
@[simp] theorem State.setTime_seqLocks (a b : Nat) : (s.setTime a b).seqLocks = s.seqLocks := rfl
@[simp] theorem State.setTime_dieLocks (a b : Nat) : (s.setTime a b).dieLocks = s.dieLocks := rfl
@[simp] theorem State.setTime_ageAt (a b : Nat) : (s.setTime a b).ageAt = s.ageAt := rfl
@[simp] theorem State.setTime_touchSent (a b : Nat) : (s.setTime a b).touchSent = s.touchSent := rfl
@[simp] theorem State.setTime_quotaSaid (a b : Nat) : (s.setTime a b).quotaSaid = s.quotaSaid := rfl
@[simp] theorem State.setTime_ringLost (a b : Nat) : (s.setTime a b).ringLost = s.ringLost := rfl
@[simp] theorem State.setTime_pendSince (a b : Nat) : (s.setTime a b).pendSince = s.pendSince := rfl
@[simp] theorem State.setTime_keys (a b : Nat) : (s.setTime a b).keys = s.keys := rfl
@[simp] theorem State.setTime_loadedAt (a b : Nat) : (s.setTime a b).loadedAt = s.loadedAt := rfl
@[simp] theorem State.setTime_roots (a b : Nat) : (s.setTime a b).roots = s.roots := rfl
@[simp] theorem State.setTime_oldBind (a b : Nat) : (s.setTime a b).oldBind = s.oldBind := rfl
@[simp] theorem State.setTime_switches (a b : Nat) : (s.setTime a b).switches = s.switches := rfl
@[simp] theorem State.setTime_xgemIndex (a b : Nat) : (s.setTime a b).xgemIndex = s.xgemIndex := rfl
@[simp] theorem State.setTime_frags (a b : Nat) : (s.setTime a b).frags = s.frags := rfl
@[simp] theorem State.setTime_keyFrame (a b : Nat) : (s.setTime a b).keyFrame = s.keyFrame := rfl
@[simp] theorem State.setTime_labels (a b : Nat) : (s.setTime a b).labels = s.labels := rfl
@[simp] theorem State.setTime_queues (a b : Nat) : (s.setTime a b).queues = s.queues := rfl
@[simp] theorem State.setTime_qstat (a b : Nat) : (s.setTime a b).qstat = s.qstat := rfl
@[simp] theorem State.setTime_offers (a b : Nat) : (s.setTime a b).offers = s.offers := rfl
@[simp] theorem State.setTime_felt (a b : Nat) : (s.setTime a b).felt = s.felt := rfl
@[simp] theorem State.setTime_drain (a b : Nat) : (s.setTime a b).drain = s.drain := rfl
@[simp] theorem State.setTime_inbox (a b : Nat) : (s.setTime a b).inbox = s.inbox := rfl
@[simp] theorem State.setTime_laneOut (a b : Nat) : (s.setTime a b).laneOut = s.laneOut := rfl
@[simp] theorem State.setTime_cellPos (a b : Nat) : (s.setTime a b).cellPos = s.cellPos := rfl
@[simp] theorem State.setTime_credit (a b : Nat) : (s.setTime a b).credit = s.credit := rfl
@[simp] theorem State.setTime_lanes (a b : Nat) : (s.setTime a b).lanes = s.lanes := rfl
@[simp] theorem State.setTime_owed (a b : Nat) : (s.setTime a b).owed = s.owed := rfl
@[simp] theorem State.setTime_rxPart (a b : Nat) : (s.setTime a b).rxPart = s.rxPart := rfl
@[simp] theorem State.setTime_rxReady (a b : Nat) : (s.setTime a b).rxReady = s.rxReady := rfl
@[simp] theorem State.setTime_oam (a b : Nat) : (s.setTime a b).oam = s.oam := rfl
@[simp] theorem State.setTime_replays (a b : Nat) : (s.setTime a b).replays = s.replays := rfl
@[simp] theorem State.setTime_ceWaiting (a b : Nat) : (s.setTime a b).ceWaiting = s.ceWaiting := rfl
@[simp] theorem State.setTime_elim (a b : Nat) : (s.setTime a b).elim = s.elim := rfl
@[simp] theorem State.setTime_stamps (a b : Nat) : (s.setTime a b).stamps = s.stamps := rfl
@[simp] theorem State.setTime_saidAt (a b : Nat) : (s.setTime a b).saidAt = s.saidAt := rfl
@[simp] theorem State.setTime_netSec (a b : Nat) : (s.setTime a b).netSec = a % 2 ^ 48 := rfl
@[simp] theorem State.setTime_netFrac (a b : Nat) : (s.setTime a b).netFrac = b := rfl
@[simp] theorem State.setTime_uses (a b : Nat) : (s.setTime a b).uses = s.uses := rfl
@[simp] theorem State.setTime_outbox (a b : Nat) : (s.setTime a b).outbox = s.outbox := rfl
@[simp] theorem State.setTime_pending (a b : Nat) : (s.setTime a b).pending = s.pending := rfl

/-! ### setLatch -/

@[simp] theorem State.setLatch_ident (u : UnitId) (v : Nat) : (s.setLatch u v).ident = s.ident := rfl
@[simp] theorem State.setLatch_regs (u : UnitId) (v : Nat) : (s.setLatch u v).regs = s.regs := rfl
@[simp] theorem State.setLatch_live (u : UnitId) (v : Nat) : (s.setLatch u v).live = s.live := rfl
@[simp] theorem State.setLatch_sects (u : UnitId) (v : Nat) : (s.setLatch u v).sects = s.sects := rfl
@[simp] theorem State.setLatch_latches (u : UnitId) (v : Nat) : (s.setLatch u v).latches = s.latches.set (unitKey u) 0 v := rfl
@[simp] theorem State.setLatch_chans (u : UnitId) (v : Nat) : (s.setLatch u v).chans = s.chans := rfl
@[simp] theorem State.setLatch_loader (u : UnitId) (v : Nat) : (s.setLatch u v).loader = s.loader := rfl
@[simp] theorem State.setLatch_slots (u : UnitId) (v : Nat) : (s.setLatch u v).slots = s.slots := rfl
@[simp] theorem State.setLatch_slotBad (u : UnitId) (v : Nat) : (s.setLatch u v).slotBad = s.slotBad := rfl
@[simp] theorem State.setLatch_mram (u : UnitId) (v : Nat) : (s.setLatch u v).mram = s.mram := rfl
@[simp] theorem State.setLatch_cores (u : UnitId) (v : Nat) : (s.setLatch u v).cores = s.cores := rfl
@[simp] theorem State.setLatch_ctxStore (u : UnitId) (v : Nat) : (s.setLatch u v).ctxStore = s.ctxStore := rfl
@[simp] theorem State.setLatch_tweed (u : UnitId) (v : Nat) : (s.setLatch u v).tweed = s.tweed := rfl
@[simp] theorem State.setLatch_rotations (u : UnitId) (v : Nat) : (s.setLatch u v).rotations = s.rotations := rfl
@[simp] theorem State.setLatch_stats (u : UnitId) (v : Nat) : (s.setLatch u v).stats = s.stats := rfl
@[simp] theorem State.setLatch_dev (u : UnitId) (v : Nat) : (s.setLatch u v).dev = s.dev := rfl
@[simp] theorem State.setLatch_perf (u : UnitId) (v : Nat) : (s.setLatch u v).perf = s.perf := rfl
@[simp] theorem State.setLatch_channels (u : UnitId) (v : Nat) : (s.setLatch u v).channels = s.channels := rfl
@[simp] theorem State.setLatch_dieStacks (u : UnitId) (v : Nat) : (s.setLatch u v).dieStacks = s.dieStacks := rfl
@[simp] theorem State.setLatch_clock (u : UnitId) (v : Nat) : (s.setLatch u v).clock = s.clock := rfl
@[simp] theorem State.setLatch_pair (u : UnitId) (v : Nat) : (s.setLatch u v).pair = s.pair := rfl
@[simp] theorem State.setLatch_snap (u : UnitId) (v : Nat) : (s.setLatch u v).snap = s.snap := rfl
@[simp] theorem State.setLatch_dma (u : UnitId) (v : Nat) : (s.setLatch u v).dma = s.dma := rfl
@[simp] theorem State.setLatch_pci (u : UnitId) (v : Nat) : (s.setLatch u v).pci = s.pci := rfl
@[simp] theorem State.setLatch_power (u : UnitId) (v : Nat) : (s.setLatch u v).power = s.power := rfl
@[simp] theorem State.setLatch_supply (u : UnitId) (v : Nat) : (s.setLatch u v).supply = s.supply := rfl
@[simp] theorem State.setLatch_bwAcc (u : UnitId) (v : Nat) : (s.setLatch u v).bwAcc = s.bwAcc := rfl
@[simp] theorem State.setLatch_sets (u : UnitId) (v : Nat) : (s.setLatch u v).sets = s.sets := rfl
@[simp] theorem State.setLatch_trees (u : UnitId) (v : Nat) : (s.setLatch u v).trees = s.trees := rfl
@[simp] theorem State.setLatch_terms (u : UnitId) (v : Nat) : (s.setLatch u v).terms = s.terms := rfl
@[simp] theorem State.setLatch_allocs (u : UnitId) (v : Nat) : (s.setLatch u v).allocs = s.allocs := rfl
@[simp] theorem State.setLatch_resv (u : UnitId) (v : Nat) : (s.setLatch u v).resv = s.resv := rfl
@[simp] theorem State.setLatch_rot (u : UnitId) (v : Nat) : (s.setLatch u v).rot = s.rot := rfl
@[simp] theorem State.setLatch_circs (u : UnitId) (v : Nat) : (s.setLatch u v).circs = s.circs := rfl
@[simp] theorem State.setLatch_grps (u : UnitId) (v : Nat) : (s.setLatch u v).grps = s.grps := rfl
@[simp] theorem State.setLatch_chkSeen (u : UnitId) (v : Nat) : (s.setLatch u v).chkSeen = s.chkSeen := rfl
@[simp] theorem State.setLatch_exact (u : UnitId) (v : Nat) : (s.setLatch u v).exact = s.exact := rfl
@[simp] theorem State.setLatch_tern (u : UnitId) (v : Nat) : (s.setLatch u v).tern = s.tern := rfl
@[simp] theorem State.setLatch_fwd (u : UnitId) (v : Nat) : (s.setLatch u v).fwd = s.fwd := rfl
@[simp] theorem State.setLatch_cache (u : UnitId) (v : Nat) : (s.setLatch u v).cache = s.cache := rfl
@[simp] theorem State.setLatch_notes (u : UnitId) (v : Nat) : (s.setLatch u v).notes = s.notes := rfl
@[simp] theorem State.setLatch_updates (u : UnitId) (v : Nat) : (s.setLatch u v).updates = s.updates := rfl
@[simp] theorem State.setLatch_heldUpdates (u : UnitId) (v : Nat) : (s.setLatch u v).heldUpdates = s.heldUpdates := rfl
@[simp] theorem State.setLatch_lastSeq (u : UnitId) (v : Nat) : (s.setLatch u v).lastSeq = s.lastSeq := rfl
@[simp] theorem State.setLatch_seqLocks (u : UnitId) (v : Nat) : (s.setLatch u v).seqLocks = s.seqLocks := rfl
@[simp] theorem State.setLatch_dieLocks (u : UnitId) (v : Nat) : (s.setLatch u v).dieLocks = s.dieLocks := rfl
@[simp] theorem State.setLatch_ageAt (u : UnitId) (v : Nat) : (s.setLatch u v).ageAt = s.ageAt := rfl
@[simp] theorem State.setLatch_touchSent (u : UnitId) (v : Nat) : (s.setLatch u v).touchSent = s.touchSent := rfl
@[simp] theorem State.setLatch_quotaSaid (u : UnitId) (v : Nat) : (s.setLatch u v).quotaSaid = s.quotaSaid := rfl
@[simp] theorem State.setLatch_ringLost (u : UnitId) (v : Nat) : (s.setLatch u v).ringLost = s.ringLost := rfl
@[simp] theorem State.setLatch_pendSince (u : UnitId) (v : Nat) : (s.setLatch u v).pendSince = s.pendSince := rfl
@[simp] theorem State.setLatch_keys (u : UnitId) (v : Nat) : (s.setLatch u v).keys = s.keys := rfl
@[simp] theorem State.setLatch_loadedAt (u : UnitId) (v : Nat) : (s.setLatch u v).loadedAt = s.loadedAt := rfl
@[simp] theorem State.setLatch_roots (u : UnitId) (v : Nat) : (s.setLatch u v).roots = s.roots := rfl
@[simp] theorem State.setLatch_oldBind (u : UnitId) (v : Nat) : (s.setLatch u v).oldBind = s.oldBind := rfl
@[simp] theorem State.setLatch_switches (u : UnitId) (v : Nat) : (s.setLatch u v).switches = s.switches := rfl
@[simp] theorem State.setLatch_xgemIndex (u : UnitId) (v : Nat) : (s.setLatch u v).xgemIndex = s.xgemIndex := rfl
@[simp] theorem State.setLatch_frags (u : UnitId) (v : Nat) : (s.setLatch u v).frags = s.frags := rfl
@[simp] theorem State.setLatch_keyFrame (u : UnitId) (v : Nat) : (s.setLatch u v).keyFrame = s.keyFrame := rfl
@[simp] theorem State.setLatch_labels (u : UnitId) (v : Nat) : (s.setLatch u v).labels = s.labels := rfl
@[simp] theorem State.setLatch_queues (u : UnitId) (v : Nat) : (s.setLatch u v).queues = s.queues := rfl
@[simp] theorem State.setLatch_qstat (u : UnitId) (v : Nat) : (s.setLatch u v).qstat = s.qstat := rfl
@[simp] theorem State.setLatch_offers (u : UnitId) (v : Nat) : (s.setLatch u v).offers = s.offers := rfl
@[simp] theorem State.setLatch_felt (u : UnitId) (v : Nat) : (s.setLatch u v).felt = s.felt := rfl
@[simp] theorem State.setLatch_drain (u : UnitId) (v : Nat) : (s.setLatch u v).drain = s.drain := rfl
@[simp] theorem State.setLatch_inbox (u : UnitId) (v : Nat) : (s.setLatch u v).inbox = s.inbox := rfl
@[simp] theorem State.setLatch_laneOut (u : UnitId) (v : Nat) : (s.setLatch u v).laneOut = s.laneOut := rfl
@[simp] theorem State.setLatch_cellPos (u : UnitId) (v : Nat) : (s.setLatch u v).cellPos = s.cellPos := rfl
@[simp] theorem State.setLatch_credit (u : UnitId) (v : Nat) : (s.setLatch u v).credit = s.credit := rfl
@[simp] theorem State.setLatch_lanes (u : UnitId) (v : Nat) : (s.setLatch u v).lanes = s.lanes := rfl
@[simp] theorem State.setLatch_owed (u : UnitId) (v : Nat) : (s.setLatch u v).owed = s.owed := rfl
@[simp] theorem State.setLatch_rxPart (u : UnitId) (v : Nat) : (s.setLatch u v).rxPart = s.rxPart := rfl
@[simp] theorem State.setLatch_rxReady (u : UnitId) (v : Nat) : (s.setLatch u v).rxReady = s.rxReady := rfl
@[simp] theorem State.setLatch_oam (u : UnitId) (v : Nat) : (s.setLatch u v).oam = s.oam := rfl
@[simp] theorem State.setLatch_replays (u : UnitId) (v : Nat) : (s.setLatch u v).replays = s.replays := rfl
@[simp] theorem State.setLatch_ceWaiting (u : UnitId) (v : Nat) : (s.setLatch u v).ceWaiting = s.ceWaiting := rfl
@[simp] theorem State.setLatch_elim (u : UnitId) (v : Nat) : (s.setLatch u v).elim = s.elim := rfl
@[simp] theorem State.setLatch_stamps (u : UnitId) (v : Nat) : (s.setLatch u v).stamps = s.stamps := rfl
@[simp] theorem State.setLatch_saidAt (u : UnitId) (v : Nat) : (s.setLatch u v).saidAt = s.saidAt := rfl
@[simp] theorem State.setLatch_netSec (u : UnitId) (v : Nat) : (s.setLatch u v).netSec = s.netSec := rfl
@[simp] theorem State.setLatch_netFrac (u : UnitId) (v : Nat) : (s.setLatch u v).netFrac = s.netFrac := rfl
@[simp] theorem State.setLatch_uses (u : UnitId) (v : Nat) : (s.setLatch u v).uses = s.uses := rfl
@[simp] theorem State.setLatch_outbox (u : UnitId) (v : Nat) : (s.setLatch u v).outbox = s.outbox := rfl
@[simp] theorem State.setLatch_pending (u : UnitId) (v : Nat) : (s.setLatch u v).pending = s.pending := rfl

end Sys2Proof.Machine
end

