-- ==== Sys2Proof/Laws/Get.lean ====
section
/-!
SUPPORT. What a field reads as after each primitive update: rewrite rules whose side conditions are closed facts about two field numbers, which `decide`
settles. They hold for fields that the image does not set.
-/

namespace Sys2Proof.Machine

set_option Elab.async false

theorem get_put (s : State) (f : Field) (i v : Nat) : (s.put f i v).get f i = v % 2 ^ f.width := State.get_put_same s f i v

theorem get_put_ne (s : State) {f g : Field} (i j v : Nat) (h : g.num ≠ f.num) (n : g.perImage = false) : (s.put f i v).get g j = s.get g j :=
  State.get_put_other s f g i j v (Field.at_ne_of_num i j h) n

theorem get_put_unit (s : State) (f g : Field) {i j : Nat} (v : Nat) (h : j ≠ i) (n : g.perImage = false) : (s.put f i v).get g j = s.get g j :=
  State.get_put_other s f g i j v (Field.at_ne_of_unit f g h) n

theorem get_putFlag (s : State) (f : Field) (i : Nat) (b : Bool) : (s.putFlag f i b).get f i = ofBool b % 2 ^ f.width := get_put s f i _

theorem get_putFlag_ne (s : State) {f g : Field} (i j : Nat) (b : Bool) (h : g.num ≠ f.num) (n : g.perImage = false) :
    (s.putFlag f i b).get g j = s.get g j := get_put_ne s i j _ h n

theorem get_putFlag_unit (s : State) (f g : Field) {i j : Nat} (b : Bool) (h : j ≠ i) (n : g.perImage = false) :
    (s.putFlag f i b).get g j = s.get g j := get_put_unit s f g _ h n

theorem satAdd_lt (w a b : Nat) : satAdd w a b < 2 ^ w := by
  unfold satAdd maxOf
  have : 0 < 2 ^ w := Nat.two_pow_pos w
  omega

theorem get_addSat (s : State) (f : Field) (i n : Nat) : (s.addSat f i n).get f i = satAdd f.width (s.get f i) n := by
  rw [State.addSat, get_put, Nat.mod_eq_of_lt (satAdd_lt ..)]

theorem get_addSat_ne (s : State) {f g : Field} (i j n : Nat) (h : g.num ≠ f.num) (m : g.perImage = false) : (s.addSat f i n).get g j = s.get g j :=
  get_put_ne s i j _ h m

theorem get_addSat_unit (s : State) (f g : Field) {i j : Nat} (n : Nat) (h : j ≠ i) (m : g.perImage = false) : (s.addSat f i n).get g j = s.get g j :=
  get_put_unit s f g _ h m

theorem get_addWrap (s : State) (f : Field) (i n : Nat) : (s.addWrap f i n).get f i = (s.get f i + n) % 2 ^ f.width := get_put s f i _

theorem get_addWrap_ne (s : State) {f g : Field} (i j n : Nat) (h : g.num ≠ f.num) (m : g.perImage = false) : (s.addWrap f i n).get g j = s.get g j :=
  get_put_ne s i j _ h m

theorem get_addWrap_unit (s : State) (f g : Field) {i j : Nat} (n : Nat) (h : j ≠ i) (m : g.perImage = false) : (s.addWrap f i n).get g j = s.get g j :=
  get_put_unit s f g _ h m

theorem get_putBit (s : State) (f : Field) (i k : Nat) : (s.putBit f i k).get f i = setBit (s.get f i) k % 2 ^ f.width := get_put s f i _

theorem get_putBit_ne (s : State) {f g : Field} (i j k : Nat) (h : g.num ≠ f.num) (m : g.perImage = false) : (s.putBit f i k).get g j = s.get g j :=
  get_put_ne s i j _ h m

theorem get_bump (s : State) (c : Field) (i n : Nat) (g : Field) (j : Nat) : (s.bump c i n).get g j = s.get g j := rfl

theorem get_emit (s : State) (o : Sent) (g : Field) (j : Nat) : (s.emit o).get g j = s.get g j := rfl

theorem get_useFree (s : State) (g : Field) (j : Nat) : s.useFree.get g j = s.get g j := rfl

theorem get_modSet (s : State) (t k : Nat) (f : SetSt → SetSt) (g : Field) (j : Nat) : (s.modSet t k f).get g j = s.get g j := rfl

theorem get_modTree (s : State) (t : Nat) (f : TreeSt → TreeSt) (g : Field) (j : Nat) : (s.modTree t f).get g j = s.get g j := rfl

theorem get_modTerm (s : State) (t k : Nat) (f : TermSt → TermSt) (g : Field) (j : Nat) : (s.modTerm t k f).get g j = s.get g j := rfl

theorem get_modTweed (s : State) (d : Nat) (f : Tweed → Tweed) (g : Field) (j : Nat) : (s.modTweed d f).get g j = s.get g j := rfl

theorem get_modCore (s : State) (d : Nat) (f : CoreRegs → CoreRegs) (g : Field) (j : Nat) : (s.modCore d f).get g j = s.get g j := rfl

theorem get_modPerf (s : State) (d : Nat) (f : Perf → Perf) (g : Field) (j : Nat) : (s.modPerf d f).get g j = s.get g j := rfl

theorem get_modPower (s : State) (d : Nat) (f : Power → Power) (g : Field) (j : Nat) : (s.modPower d f).get g j = s.get g j := rfl

theorem get_modMram (s : State) (d : Nat) (f : MramDie → MramDie) (g : Field) (j : Nat) : (s.modMram d f).get g j = s.get g j := rfl

theorem get_modLoader (s : State) (f : Loader → Loader) (g : Field) (j : Nat) : (s.modLoader f).get g j = s.get g j := rfl

theorem get_modStat (s : State) (d c : Nat) (f : Stat → Stat) (g : Field) (j : Nat) : (s.modStat d c f).get g j = s.get g j := rfl

theorem get_setTime (s : State) (a b : Nat) (g : Field) (j : Nat) : (s.setTime a b).get g j = s.get g j := rfl

theorem get_setLatch (s : State) (u : UnitId) (v : Nat) (g : Field) (j : Nat) : (s.setLatch u v).get g j = s.get g j := rfl

theorem get_raise (s : State) (d src : Nat) {f : Field} (i : Nat) (a : f.num ≠ IC_SRC.PENDING.num) (b : f.num ≠ IC_GROUP_STATUS.COUNT.num)
    (n : f.perImage = false) : (s.raise d src).get f i = s.get f i := State.get_raise s d src f i ⟨a, b⟩ (.inl n)

theorem get_raisePkg (s : State) (src : Nat) {f : Field} (i : Nat) (a : f.num ≠ IC_SRC.PENDING.num) (b : f.num ≠ IC_GROUP_STATUS.COUNT.num)
    (n : f.perImage = false) : (s.raisePkg src).get f i = s.get f i := State.get_raisePkg s src f i ⟨a, b⟩ (.inl n)

theorem get_raiseTree (s : State) (t k : Nat) {f : Field} (i : Nat) (a : f.num ≠ IC_SRC.PENDING.num) (b : f.num ≠ IC_GROUP_STATUS.COUNT.num)
    (n : f.perImage = false) : (s.raiseTree t k).get f i = s.get f i := get_raise s _ _ i a b n

theorem get_event (s : State) (f : Field) (i d src : Nat) (a : f.num ≠ IC_SRC.PENDING.num) (b : f.num ≠ IC_GROUP_STATUS.COUNT.num)
    (n : f.perImage = false) : (s.event f i d src).get f i = 1 % 2 ^ f.width := by
  rw [State.event, get_raise _ _ _ _ a b n, get_put]

theorem get_event_ne (s : State) {f g : Field} (i j d src : Nat) (h : g.num ≠ f.num) (a : g.num ≠ IC_SRC.PENDING.num)
    (b : g.num ≠ IC_GROUP_STATUS.COUNT.num) (n : g.perImage = false) : (s.event f i d src).get g j = s.get g j := by
  rw [State.event, get_raise _ _ _ _ a b n, get_put_ne _ _ _ _ h n]

/-- A change done for each element of a list leaves a field as before if each change does. -/
theorem get_foldl {α : Type} (g : State → α → State) (l : List α) (f : Field) (i : Nat) (h : ∀ s x, (g s x).get f i = s.get f i) (s : State) :
    (l.foldl g s).get f i = s.get f i := by
  induction l generalizing s with
  | nil => rfl
  | cons a l ih => rw [List.foldl_cons, ih, h]

/-! ### Live counts -/

theorem liveOf_bump (s : State) (c : Field) (i n : Nat) : (s.bump c i n).liveOf c i = s.liveOf c i + n := by
  simp [State.liveOf, State.bump]

theorem liveOf_bump_ne (s : State) {c e : Field} (i j n : Nat) (h : e.num ≠ c.num) : (s.bump c i n).liveOf e j = s.liveOf e j := by
  unfold State.liveOf State.bump
  exact Tbl.get_set_other _ _ _ _ _ _ fun x => h (congrArg Key.n x)

theorem liveOf_bump_unit (s : State) (c e : Field) {i j : Nat} (n : Nat) (h : j ≠ i) : (s.bump c i n).liveOf e j = s.liveOf e j := by
  unfold State.liveOf State.bump
  exact Tbl.get_set_other _ _ _ _ _ _ fun x => h (congrArg Key.i x)

/-! ### Pending sources -/

theorem pending_raise (s : State) (d src : Nat) (h : sourceReserved src = false) : (s.raise d src).get IC_SRC.PENDING (srcAt d src) = 1 := by
  have g := State.raise_pending s d src h
  unfold State.flag at g
  exact eq_of_beq g

end Sys2Proof.Machine
end

