-- ==== Sys2Proof/Laws/Raise.lean ====
section
/-!
SUPPORT. An event of an interrupt source changes the table of fields alone: every other field of State reads as before.
-/

namespace Sys2Proof.Machine

set_option Elab.async false

variable (s : State)

theorem State.raise_eq (d src : Nat) : ∃ r, s.raise d src = { s with regs := r } := ⟨_, (State.raise_changesOnly s d src).1⟩

theorem State.raisePkg_eq (src : Nat) : ∃ r, s.raisePkg src = { s with regs := r } := ⟨_, (State.raisePkg_changesOnly s src).1⟩

@[simp] theorem State.raise_ident (d src : Nat) : (s.raise d src).ident = s.ident := by obtain ⟨_, e⟩ := s.raise_eq d src; rw [e]
@[simp] theorem State.raise_live (d src : Nat) : (s.raise d src).live = s.live := by obtain ⟨_, e⟩ := s.raise_eq d src; rw [e]
@[simp] theorem State.raise_sects (d src : Nat) : (s.raise d src).sects = s.sects := by obtain ⟨_, e⟩ := s.raise_eq d src; rw [e]
@[simp] theorem State.raise_latches (d src : Nat) : (s.raise d src).latches = s.latches := by obtain ⟨_, e⟩ := s.raise_eq d src; rw [e]
@[simp] theorem State.raise_chans (d src : Nat) : (s.raise d src).chans = s.chans := by obtain ⟨_, e⟩ := s.raise_eq d src; rw [e]
@[simp] theorem State.raise_loader (d src : Nat) : (s.raise d src).loader = s.loader := by obtain ⟨_, e⟩ := s.raise_eq d src; rw [e]
@[simp] theorem State.raise_slots (d src : Nat) : (s.raise d src).slots = s.slots := by obtain ⟨_, e⟩ := s.raise_eq d src; rw [e]
@[simp] theorem State.raise_slotBad (d src : Nat) : (s.raise d src).slotBad = s.slotBad := by obtain ⟨_, e⟩ := s.raise_eq d src; rw [e]
@[simp] theorem State.raise_mram (d src : Nat) : (s.raise d src).mram = s.mram := by obtain ⟨_, e⟩ := s.raise_eq d src; rw [e]
@[simp] theorem State.raise_cores (d src : Nat) : (s.raise d src).cores = s.cores := by obtain ⟨_, e⟩ := s.raise_eq d src; rw [e]
@[simp] theorem State.raise_ctxStore (d src : Nat) : (s.raise d src).ctxStore = s.ctxStore := by obtain ⟨_, e⟩ := s.raise_eq d src; rw [e]
@[simp] theorem State.raise_tweed (d src : Nat) : (s.raise d src).tweed = s.tweed := by obtain ⟨_, e⟩ := s.raise_eq d src; rw [e]
@[simp] theorem State.raise_rotations (d src : Nat) : (s.raise d src).rotations = s.rotations := by obtain ⟨_, e⟩ := s.raise_eq d src; rw [e]
@[simp] theorem State.raise_stats (d src : Nat) : (s.raise d src).stats = s.stats := by obtain ⟨_, e⟩ := s.raise_eq d src; rw [e]
@[simp] theorem State.raise_dev (d src : Nat) : (s.raise d src).dev = s.dev := by obtain ⟨_, e⟩ := s.raise_eq d src; rw [e]
@[simp] theorem State.raise_perf (d src : Nat) : (s.raise d src).perf = s.perf := by obtain ⟨_, e⟩ := s.raise_eq d src; rw [e]
@[simp] theorem State.raise_channels (d src : Nat) : (s.raise d src).channels = s.channels := by obtain ⟨_, e⟩ := s.raise_eq d src; rw [e]
@[simp] theorem State.raise_dieStacks (d src : Nat) : (s.raise d src).dieStacks = s.dieStacks := by obtain ⟨_, e⟩ := s.raise_eq d src; rw [e]
@[simp] theorem State.raise_clock (d src : Nat) : (s.raise d src).clock = s.clock := by obtain ⟨_, e⟩ := s.raise_eq d src; rw [e]
@[simp] theorem State.raise_pair (d src : Nat) : (s.raise d src).pair = s.pair := by obtain ⟨_, e⟩ := s.raise_eq d src; rw [e]
@[simp] theorem State.raise_snap (d src : Nat) : (s.raise d src).snap = s.snap := by obtain ⟨_, e⟩ := s.raise_eq d src; rw [e]
@[simp] theorem State.raise_dma (d src : Nat) : (s.raise d src).dma = s.dma := by obtain ⟨_, e⟩ := s.raise_eq d src; rw [e]
@[simp] theorem State.raise_pci (d src : Nat) : (s.raise d src).pci = s.pci := by obtain ⟨_, e⟩ := s.raise_eq d src; rw [e]
@[simp] theorem State.raise_power (d src : Nat) : (s.raise d src).power = s.power := by obtain ⟨_, e⟩ := s.raise_eq d src; rw [e]
@[simp] theorem State.raise_supply (d src : Nat) : (s.raise d src).supply = s.supply := by obtain ⟨_, e⟩ := s.raise_eq d src; rw [e]
@[simp] theorem State.raise_bwAcc (d src : Nat) : (s.raise d src).bwAcc = s.bwAcc := by obtain ⟨_, e⟩ := s.raise_eq d src; rw [e]
@[simp] theorem State.raise_sets (d src : Nat) : (s.raise d src).sets = s.sets := by obtain ⟨_, e⟩ := s.raise_eq d src; rw [e]
@[simp] theorem State.raise_trees (d src : Nat) : (s.raise d src).trees = s.trees := by obtain ⟨_, e⟩ := s.raise_eq d src; rw [e]
@[simp] theorem State.raise_terms (d src : Nat) : (s.raise d src).terms = s.terms := by obtain ⟨_, e⟩ := s.raise_eq d src; rw [e]
@[simp] theorem State.raise_allocs (d src : Nat) : (s.raise d src).allocs = s.allocs := by obtain ⟨_, e⟩ := s.raise_eq d src; rw [e]
@[simp] theorem State.raise_resv (d src : Nat) : (s.raise d src).resv = s.resv := by obtain ⟨_, e⟩ := s.raise_eq d src; rw [e]
@[simp] theorem State.raise_rot (d src : Nat) : (s.raise d src).rot = s.rot := by obtain ⟨_, e⟩ := s.raise_eq d src; rw [e]
@[simp] theorem State.raise_circs (d src : Nat) : (s.raise d src).circs = s.circs := by obtain ⟨_, e⟩ := s.raise_eq d src; rw [e]
@[simp] theorem State.raise_grps (d src : Nat) : (s.raise d src).grps = s.grps := by obtain ⟨_, e⟩ := s.raise_eq d src; rw [e]
@[simp] theorem State.raise_chkSeen (d src : Nat) : (s.raise d src).chkSeen = s.chkSeen := by obtain ⟨_, e⟩ := s.raise_eq d src; rw [e]
@[simp] theorem State.raise_exact (d src : Nat) : (s.raise d src).exact = s.exact := by obtain ⟨_, e⟩ := s.raise_eq d src; rw [e]
@[simp] theorem State.raise_tern (d src : Nat) : (s.raise d src).tern = s.tern := by obtain ⟨_, e⟩ := s.raise_eq d src; rw [e]
@[simp] theorem State.raise_fwd (d src : Nat) : (s.raise d src).fwd = s.fwd := by obtain ⟨_, e⟩ := s.raise_eq d src; rw [e]
@[simp] theorem State.raise_cache (d src : Nat) : (s.raise d src).cache = s.cache := by obtain ⟨_, e⟩ := s.raise_eq d src; rw [e]
@[simp] theorem State.raise_notes (d src : Nat) : (s.raise d src).notes = s.notes := by obtain ⟨_, e⟩ := s.raise_eq d src; rw [e]
@[simp] theorem State.raise_updates (d src : Nat) : (s.raise d src).updates = s.updates := by obtain ⟨_, e⟩ := s.raise_eq d src; rw [e]
@[simp] theorem State.raise_heldUpdates (d src : Nat) : (s.raise d src).heldUpdates = s.heldUpdates := by obtain ⟨_, e⟩ := s.raise_eq d src; rw [e]
@[simp] theorem State.raise_lastSeq (d src : Nat) : (s.raise d src).lastSeq = s.lastSeq := by obtain ⟨_, e⟩ := s.raise_eq d src; rw [e]
@[simp] theorem State.raise_seqLocks (d src : Nat) : (s.raise d src).seqLocks = s.seqLocks := by obtain ⟨_, e⟩ := s.raise_eq d src; rw [e]
@[simp] theorem State.raise_dieLocks (d src : Nat) : (s.raise d src).dieLocks = s.dieLocks := by obtain ⟨_, e⟩ := s.raise_eq d src; rw [e]
@[simp] theorem State.raise_ageAt (d src : Nat) : (s.raise d src).ageAt = s.ageAt := by obtain ⟨_, e⟩ := s.raise_eq d src; rw [e]
@[simp] theorem State.raise_touchSent (d src : Nat) : (s.raise d src).touchSent = s.touchSent := by obtain ⟨_, e⟩ := s.raise_eq d src; rw [e]
@[simp] theorem State.raise_quotaSaid (d src : Nat) : (s.raise d src).quotaSaid = s.quotaSaid := by obtain ⟨_, e⟩ := s.raise_eq d src; rw [e]
@[simp] theorem State.raise_ringLost (d src : Nat) : (s.raise d src).ringLost = s.ringLost := by obtain ⟨_, e⟩ := s.raise_eq d src; rw [e]
@[simp] theorem State.raise_pendSince (d src : Nat) : (s.raise d src).pendSince = s.pendSince := by obtain ⟨_, e⟩ := s.raise_eq d src; rw [e]
@[simp] theorem State.raise_keys (d src : Nat) : (s.raise d src).keys = s.keys := by obtain ⟨_, e⟩ := s.raise_eq d src; rw [e]
@[simp] theorem State.raise_loadedAt (d src : Nat) : (s.raise d src).loadedAt = s.loadedAt := by obtain ⟨_, e⟩ := s.raise_eq d src; rw [e]
@[simp] theorem State.raise_roots (d src : Nat) : (s.raise d src).roots = s.roots := by obtain ⟨_, e⟩ := s.raise_eq d src; rw [e]
@[simp] theorem State.raise_oldBind (d src : Nat) : (s.raise d src).oldBind = s.oldBind := by obtain ⟨_, e⟩ := s.raise_eq d src; rw [e]
@[simp] theorem State.raise_switches (d src : Nat) : (s.raise d src).switches = s.switches := by obtain ⟨_, e⟩ := s.raise_eq d src; rw [e]
@[simp] theorem State.raise_xgemIndex (d src : Nat) : (s.raise d src).xgemIndex = s.xgemIndex := by obtain ⟨_, e⟩ := s.raise_eq d src; rw [e]
@[simp] theorem State.raise_frags (d src : Nat) : (s.raise d src).frags = s.frags := by obtain ⟨_, e⟩ := s.raise_eq d src; rw [e]
@[simp] theorem State.raise_keyFrame (d src : Nat) : (s.raise d src).keyFrame = s.keyFrame := by obtain ⟨_, e⟩ := s.raise_eq d src; rw [e]
@[simp] theorem State.raise_labels (d src : Nat) : (s.raise d src).labels = s.labels := by obtain ⟨_, e⟩ := s.raise_eq d src; rw [e]
@[simp] theorem State.raise_queues (d src : Nat) : (s.raise d src).queues = s.queues := by obtain ⟨_, e⟩ := s.raise_eq d src; rw [e]
@[simp] theorem State.raise_qstat (d src : Nat) : (s.raise d src).qstat = s.qstat := by obtain ⟨_, e⟩ := s.raise_eq d src; rw [e]
@[simp] theorem State.raise_offers (d src : Nat) : (s.raise d src).offers = s.offers := by obtain ⟨_, e⟩ := s.raise_eq d src; rw [e]
@[simp] theorem State.raise_felt (d src : Nat) : (s.raise d src).felt = s.felt := by obtain ⟨_, e⟩ := s.raise_eq d src; rw [e]
@[simp] theorem State.raise_drain (d src : Nat) : (s.raise d src).drain = s.drain := by obtain ⟨_, e⟩ := s.raise_eq d src; rw [e]
@[simp] theorem State.raise_inbox (d src : Nat) : (s.raise d src).inbox = s.inbox := by obtain ⟨_, e⟩ := s.raise_eq d src; rw [e]
@[simp] theorem State.raise_laneOut (d src : Nat) : (s.raise d src).laneOut = s.laneOut := by obtain ⟨_, e⟩ := s.raise_eq d src; rw [e]
@[simp] theorem State.raise_cellPos (d src : Nat) : (s.raise d src).cellPos = s.cellPos := by obtain ⟨_, e⟩ := s.raise_eq d src; rw [e]
@[simp] theorem State.raise_credit (d src : Nat) : (s.raise d src).credit = s.credit := by obtain ⟨_, e⟩ := s.raise_eq d src; rw [e]
@[simp] theorem State.raise_lanes (d src : Nat) : (s.raise d src).lanes = s.lanes := by obtain ⟨_, e⟩ := s.raise_eq d src; rw [e]
@[simp] theorem State.raise_owed (d src : Nat) : (s.raise d src).owed = s.owed := by obtain ⟨_, e⟩ := s.raise_eq d src; rw [e]
@[simp] theorem State.raise_rxPart (d src : Nat) : (s.raise d src).rxPart = s.rxPart := by obtain ⟨_, e⟩ := s.raise_eq d src; rw [e]
@[simp] theorem State.raise_rxReady (d src : Nat) : (s.raise d src).rxReady = s.rxReady := by obtain ⟨_, e⟩ := s.raise_eq d src; rw [e]
@[simp] theorem State.raise_oam (d src : Nat) : (s.raise d src).oam = s.oam := by obtain ⟨_, e⟩ := s.raise_eq d src; rw [e]
@[simp] theorem State.raise_replays (d src : Nat) : (s.raise d src).replays = s.replays := by obtain ⟨_, e⟩ := s.raise_eq d src; rw [e]
@[simp] theorem State.raise_ceWaiting (d src : Nat) : (s.raise d src).ceWaiting = s.ceWaiting := by obtain ⟨_, e⟩ := s.raise_eq d src; rw [e]
@[simp] theorem State.raise_elim (d src : Nat) : (s.raise d src).elim = s.elim := by obtain ⟨_, e⟩ := s.raise_eq d src; rw [e]
@[simp] theorem State.raise_stamps (d src : Nat) : (s.raise d src).stamps = s.stamps := by obtain ⟨_, e⟩ := s.raise_eq d src; rw [e]
@[simp] theorem State.raise_saidAt (d src : Nat) : (s.raise d src).saidAt = s.saidAt := by obtain ⟨_, e⟩ := s.raise_eq d src; rw [e]
@[simp] theorem State.raise_netSec (d src : Nat) : (s.raise d src).netSec = s.netSec := by obtain ⟨_, e⟩ := s.raise_eq d src; rw [e]
@[simp] theorem State.raise_netFrac (d src : Nat) : (s.raise d src).netFrac = s.netFrac := by obtain ⟨_, e⟩ := s.raise_eq d src; rw [e]
@[simp] theorem State.raise_uses (d src : Nat) : (s.raise d src).uses = s.uses := by obtain ⟨_, e⟩ := s.raise_eq d src; rw [e]
@[simp] theorem State.raise_outbox (d src : Nat) : (s.raise d src).outbox = s.outbox := by obtain ⟨_, e⟩ := s.raise_eq d src; rw [e]
@[simp] theorem State.raise_queue (d src : Nat) : (s.raise d src).pending = s.pending := by obtain ⟨_, e⟩ := s.raise_eq d src; rw [e]

@[simp] theorem State.raisePkg_ident (src : Nat) : (s.raisePkg src).ident = s.ident := by obtain ⟨_, e⟩ := s.raisePkg_eq src; rw [e]
@[simp] theorem State.raisePkg_live (src : Nat) : (s.raisePkg src).live = s.live := by obtain ⟨_, e⟩ := s.raisePkg_eq src; rw [e]
@[simp] theorem State.raisePkg_sects (src : Nat) : (s.raisePkg src).sects = s.sects := by obtain ⟨_, e⟩ := s.raisePkg_eq src; rw [e]
@[simp] theorem State.raisePkg_latches (src : Nat) : (s.raisePkg src).latches = s.latches := by obtain ⟨_, e⟩ := s.raisePkg_eq src; rw [e]
@[simp] theorem State.raisePkg_chans (src : Nat) : (s.raisePkg src).chans = s.chans := by obtain ⟨_, e⟩ := s.raisePkg_eq src; rw [e]
@[simp] theorem State.raisePkg_loader (src : Nat) : (s.raisePkg src).loader = s.loader := by obtain ⟨_, e⟩ := s.raisePkg_eq src; rw [e]
@[simp] theorem State.raisePkg_slots (src : Nat) : (s.raisePkg src).slots = s.slots := by obtain ⟨_, e⟩ := s.raisePkg_eq src; rw [e]
@[simp] theorem State.raisePkg_slotBad (src : Nat) : (s.raisePkg src).slotBad = s.slotBad := by obtain ⟨_, e⟩ := s.raisePkg_eq src; rw [e]
@[simp] theorem State.raisePkg_mram (src : Nat) : (s.raisePkg src).mram = s.mram := by obtain ⟨_, e⟩ := s.raisePkg_eq src; rw [e]
@[simp] theorem State.raisePkg_cores (src : Nat) : (s.raisePkg src).cores = s.cores := by obtain ⟨_, e⟩ := s.raisePkg_eq src; rw [e]
@[simp] theorem State.raisePkg_ctxStore (src : Nat) : (s.raisePkg src).ctxStore = s.ctxStore := by obtain ⟨_, e⟩ := s.raisePkg_eq src; rw [e]
@[simp] theorem State.raisePkg_tweed (src : Nat) : (s.raisePkg src).tweed = s.tweed := by obtain ⟨_, e⟩ := s.raisePkg_eq src; rw [e]
@[simp] theorem State.raisePkg_rotations (src : Nat) : (s.raisePkg src).rotations = s.rotations := by obtain ⟨_, e⟩ := s.raisePkg_eq src; rw [e]
@[simp] theorem State.raisePkg_stats (src : Nat) : (s.raisePkg src).stats = s.stats := by obtain ⟨_, e⟩ := s.raisePkg_eq src; rw [e]
@[simp] theorem State.raisePkg_dev (src : Nat) : (s.raisePkg src).dev = s.dev := by obtain ⟨_, e⟩ := s.raisePkg_eq src; rw [e]
@[simp] theorem State.raisePkg_perf (src : Nat) : (s.raisePkg src).perf = s.perf := by obtain ⟨_, e⟩ := s.raisePkg_eq src; rw [e]
@[simp] theorem State.raisePkg_channels (src : Nat) : (s.raisePkg src).channels = s.channels := by obtain ⟨_, e⟩ := s.raisePkg_eq src; rw [e]
@[simp] theorem State.raisePkg_dieStacks (src : Nat) : (s.raisePkg src).dieStacks = s.dieStacks := by obtain ⟨_, e⟩ := s.raisePkg_eq src; rw [e]
@[simp] theorem State.raisePkg_clock (src : Nat) : (s.raisePkg src).clock = s.clock := by obtain ⟨_, e⟩ := s.raisePkg_eq src; rw [e]
@[simp] theorem State.raisePkg_pair (src : Nat) : (s.raisePkg src).pair = s.pair := by obtain ⟨_, e⟩ := s.raisePkg_eq src; rw [e]
@[simp] theorem State.raisePkg_snap (src : Nat) : (s.raisePkg src).snap = s.snap := by obtain ⟨_, e⟩ := s.raisePkg_eq src; rw [e]
@[simp] theorem State.raisePkg_dma (src : Nat) : (s.raisePkg src).dma = s.dma := by obtain ⟨_, e⟩ := s.raisePkg_eq src; rw [e]
@[simp] theorem State.raisePkg_pci (src : Nat) : (s.raisePkg src).pci = s.pci := by obtain ⟨_, e⟩ := s.raisePkg_eq src; rw [e]
@[simp] theorem State.raisePkg_power (src : Nat) : (s.raisePkg src).power = s.power := by obtain ⟨_, e⟩ := s.raisePkg_eq src; rw [e]
@[simp] theorem State.raisePkg_supply (src : Nat) : (s.raisePkg src).supply = s.supply := by obtain ⟨_, e⟩ := s.raisePkg_eq src; rw [e]
@[simp] theorem State.raisePkg_bwAcc (src : Nat) : (s.raisePkg src).bwAcc = s.bwAcc := by obtain ⟨_, e⟩ := s.raisePkg_eq src; rw [e]
@[simp] theorem State.raisePkg_sets (src : Nat) : (s.raisePkg src).sets = s.sets := by obtain ⟨_, e⟩ := s.raisePkg_eq src; rw [e]
@[simp] theorem State.raisePkg_trees (src : Nat) : (s.raisePkg src).trees = s.trees := by obtain ⟨_, e⟩ := s.raisePkg_eq src; rw [e]
@[simp] theorem State.raisePkg_terms (src : Nat) : (s.raisePkg src).terms = s.terms := by obtain ⟨_, e⟩ := s.raisePkg_eq src; rw [e]
@[simp] theorem State.raisePkg_allocs (src : Nat) : (s.raisePkg src).allocs = s.allocs := by obtain ⟨_, e⟩ := s.raisePkg_eq src; rw [e]
@[simp] theorem State.raisePkg_resv (src : Nat) : (s.raisePkg src).resv = s.resv := by obtain ⟨_, e⟩ := s.raisePkg_eq src; rw [e]
@[simp] theorem State.raisePkg_rot (src : Nat) : (s.raisePkg src).rot = s.rot := by obtain ⟨_, e⟩ := s.raisePkg_eq src; rw [e]
@[simp] theorem State.raisePkg_circs (src : Nat) : (s.raisePkg src).circs = s.circs := by obtain ⟨_, e⟩ := s.raisePkg_eq src; rw [e]
@[simp] theorem State.raisePkg_grps (src : Nat) : (s.raisePkg src).grps = s.grps := by obtain ⟨_, e⟩ := s.raisePkg_eq src; rw [e]
@[simp] theorem State.raisePkg_chkSeen (src : Nat) : (s.raisePkg src).chkSeen = s.chkSeen := by obtain ⟨_, e⟩ := s.raisePkg_eq src; rw [e]
@[simp] theorem State.raisePkg_exact (src : Nat) : (s.raisePkg src).exact = s.exact := by obtain ⟨_, e⟩ := s.raisePkg_eq src; rw [e]
@[simp] theorem State.raisePkg_tern (src : Nat) : (s.raisePkg src).tern = s.tern := by obtain ⟨_, e⟩ := s.raisePkg_eq src; rw [e]
@[simp] theorem State.raisePkg_fwd (src : Nat) : (s.raisePkg src).fwd = s.fwd := by obtain ⟨_, e⟩ := s.raisePkg_eq src; rw [e]
@[simp] theorem State.raisePkg_cache (src : Nat) : (s.raisePkg src).cache = s.cache := by obtain ⟨_, e⟩ := s.raisePkg_eq src; rw [e]
@[simp] theorem State.raisePkg_notes (src : Nat) : (s.raisePkg src).notes = s.notes := by obtain ⟨_, e⟩ := s.raisePkg_eq src; rw [e]
@[simp] theorem State.raisePkg_updates (src : Nat) : (s.raisePkg src).updates = s.updates := by obtain ⟨_, e⟩ := s.raisePkg_eq src; rw [e]
@[simp] theorem State.raisePkg_heldUpdates (src : Nat) : (s.raisePkg src).heldUpdates = s.heldUpdates := by obtain ⟨_, e⟩ := s.raisePkg_eq src; rw [e]
@[simp] theorem State.raisePkg_lastSeq (src : Nat) : (s.raisePkg src).lastSeq = s.lastSeq := by obtain ⟨_, e⟩ := s.raisePkg_eq src; rw [e]
@[simp] theorem State.raisePkg_seqLocks (src : Nat) : (s.raisePkg src).seqLocks = s.seqLocks := by obtain ⟨_, e⟩ := s.raisePkg_eq src; rw [e]
@[simp] theorem State.raisePkg_dieLocks (src : Nat) : (s.raisePkg src).dieLocks = s.dieLocks := by obtain ⟨_, e⟩ := s.raisePkg_eq src; rw [e]
@[simp] theorem State.raisePkg_ageAt (src : Nat) : (s.raisePkg src).ageAt = s.ageAt := by obtain ⟨_, e⟩ := s.raisePkg_eq src; rw [e]
@[simp] theorem State.raisePkg_touchSent (src : Nat) : (s.raisePkg src).touchSent = s.touchSent := by obtain ⟨_, e⟩ := s.raisePkg_eq src; rw [e]
@[simp] theorem State.raisePkg_quotaSaid (src : Nat) : (s.raisePkg src).quotaSaid = s.quotaSaid := by obtain ⟨_, e⟩ := s.raisePkg_eq src; rw [e]
@[simp] theorem State.raisePkg_ringLost (src : Nat) : (s.raisePkg src).ringLost = s.ringLost := by obtain ⟨_, e⟩ := s.raisePkg_eq src; rw [e]
@[simp] theorem State.raisePkg_pendSince (src : Nat) : (s.raisePkg src).pendSince = s.pendSince := by obtain ⟨_, e⟩ := s.raisePkg_eq src; rw [e]
@[simp] theorem State.raisePkg_keys (src : Nat) : (s.raisePkg src).keys = s.keys := by obtain ⟨_, e⟩ := s.raisePkg_eq src; rw [e]
@[simp] theorem State.raisePkg_loadedAt (src : Nat) : (s.raisePkg src).loadedAt = s.loadedAt := by obtain ⟨_, e⟩ := s.raisePkg_eq src; rw [e]
@[simp] theorem State.raisePkg_roots (src : Nat) : (s.raisePkg src).roots = s.roots := by obtain ⟨_, e⟩ := s.raisePkg_eq src; rw [e]
@[simp] theorem State.raisePkg_oldBind (src : Nat) : (s.raisePkg src).oldBind = s.oldBind := by obtain ⟨_, e⟩ := s.raisePkg_eq src; rw [e]
@[simp] theorem State.raisePkg_switches (src : Nat) : (s.raisePkg src).switches = s.switches := by obtain ⟨_, e⟩ := s.raisePkg_eq src; rw [e]
@[simp] theorem State.raisePkg_xgemIndex (src : Nat) : (s.raisePkg src).xgemIndex = s.xgemIndex := by obtain ⟨_, e⟩ := s.raisePkg_eq src; rw [e]
@[simp] theorem State.raisePkg_frags (src : Nat) : (s.raisePkg src).frags = s.frags := by obtain ⟨_, e⟩ := s.raisePkg_eq src; rw [e]
@[simp] theorem State.raisePkg_keyFrame (src : Nat) : (s.raisePkg src).keyFrame = s.keyFrame := by obtain ⟨_, e⟩ := s.raisePkg_eq src; rw [e]
@[simp] theorem State.raisePkg_labels (src : Nat) : (s.raisePkg src).labels = s.labels := by obtain ⟨_, e⟩ := s.raisePkg_eq src; rw [e]
@[simp] theorem State.raisePkg_queues (src : Nat) : (s.raisePkg src).queues = s.queues := by obtain ⟨_, e⟩ := s.raisePkg_eq src; rw [e]
@[simp] theorem State.raisePkg_qstat (src : Nat) : (s.raisePkg src).qstat = s.qstat := by obtain ⟨_, e⟩ := s.raisePkg_eq src; rw [e]
@[simp] theorem State.raisePkg_offers (src : Nat) : (s.raisePkg src).offers = s.offers := by obtain ⟨_, e⟩ := s.raisePkg_eq src; rw [e]
@[simp] theorem State.raisePkg_felt (src : Nat) : (s.raisePkg src).felt = s.felt := by obtain ⟨_, e⟩ := s.raisePkg_eq src; rw [e]
@[simp] theorem State.raisePkg_drain (src : Nat) : (s.raisePkg src).drain = s.drain := by obtain ⟨_, e⟩ := s.raisePkg_eq src; rw [e]
@[simp] theorem State.raisePkg_inbox (src : Nat) : (s.raisePkg src).inbox = s.inbox := by obtain ⟨_, e⟩ := s.raisePkg_eq src; rw [e]
@[simp] theorem State.raisePkg_laneOut (src : Nat) : (s.raisePkg src).laneOut = s.laneOut := by obtain ⟨_, e⟩ := s.raisePkg_eq src; rw [e]
@[simp] theorem State.raisePkg_cellPos (src : Nat) : (s.raisePkg src).cellPos = s.cellPos := by obtain ⟨_, e⟩ := s.raisePkg_eq src; rw [e]
@[simp] theorem State.raisePkg_credit (src : Nat) : (s.raisePkg src).credit = s.credit := by obtain ⟨_, e⟩ := s.raisePkg_eq src; rw [e]
@[simp] theorem State.raisePkg_lanes (src : Nat) : (s.raisePkg src).lanes = s.lanes := by obtain ⟨_, e⟩ := s.raisePkg_eq src; rw [e]
@[simp] theorem State.raisePkg_owed (src : Nat) : (s.raisePkg src).owed = s.owed := by obtain ⟨_, e⟩ := s.raisePkg_eq src; rw [e]
@[simp] theorem State.raisePkg_rxPart (src : Nat) : (s.raisePkg src).rxPart = s.rxPart := by obtain ⟨_, e⟩ := s.raisePkg_eq src; rw [e]
@[simp] theorem State.raisePkg_rxReady (src : Nat) : (s.raisePkg src).rxReady = s.rxReady := by obtain ⟨_, e⟩ := s.raisePkg_eq src; rw [e]
@[simp] theorem State.raisePkg_oam (src : Nat) : (s.raisePkg src).oam = s.oam := by obtain ⟨_, e⟩ := s.raisePkg_eq src; rw [e]
@[simp] theorem State.raisePkg_replays (src : Nat) : (s.raisePkg src).replays = s.replays := by obtain ⟨_, e⟩ := s.raisePkg_eq src; rw [e]
@[simp] theorem State.raisePkg_ceWaiting (src : Nat) : (s.raisePkg src).ceWaiting = s.ceWaiting := by obtain ⟨_, e⟩ := s.raisePkg_eq src; rw [e]
@[simp] theorem State.raisePkg_elim (src : Nat) : (s.raisePkg src).elim = s.elim := by obtain ⟨_, e⟩ := s.raisePkg_eq src; rw [e]
@[simp] theorem State.raisePkg_stamps (src : Nat) : (s.raisePkg src).stamps = s.stamps := by obtain ⟨_, e⟩ := s.raisePkg_eq src; rw [e]
@[simp] theorem State.raisePkg_saidAt (src : Nat) : (s.raisePkg src).saidAt = s.saidAt := by obtain ⟨_, e⟩ := s.raisePkg_eq src; rw [e]
@[simp] theorem State.raisePkg_netSec (src : Nat) : (s.raisePkg src).netSec = s.netSec := by obtain ⟨_, e⟩ := s.raisePkg_eq src; rw [e]
@[simp] theorem State.raisePkg_netFrac (src : Nat) : (s.raisePkg src).netFrac = s.netFrac := by obtain ⟨_, e⟩ := s.raisePkg_eq src; rw [e]
@[simp] theorem State.raisePkg_uses (src : Nat) : (s.raisePkg src).uses = s.uses := by obtain ⟨_, e⟩ := s.raisePkg_eq src; rw [e]
@[simp] theorem State.raisePkg_outbox (src : Nat) : (s.raisePkg src).outbox = s.outbox := by obtain ⟨_, e⟩ := s.raisePkg_eq src; rw [e]
@[simp] theorem State.raisePkg_queue (src : Nat) : (s.raisePkg src).pending = s.pending := by obtain ⟨_, e⟩ := s.raisePkg_eq src; rw [e]

@[simp] theorem State.raiseTree_ident (t k : Nat) : (s.raiseTree t k).ident = s.ident := s.raise_ident _ _
@[simp] theorem State.raiseTree_live (t k : Nat) : (s.raiseTree t k).live = s.live := s.raise_live _ _
@[simp] theorem State.raiseTree_sects (t k : Nat) : (s.raiseTree t k).sects = s.sects := s.raise_sects _ _
@[simp] theorem State.raiseTree_latches (t k : Nat) : (s.raiseTree t k).latches = s.latches := s.raise_latches _ _
@[simp] theorem State.raiseTree_chans (t k : Nat) : (s.raiseTree t k).chans = s.chans := s.raise_chans _ _
@[simp] theorem State.raiseTree_loader (t k : Nat) : (s.raiseTree t k).loader = s.loader := s.raise_loader _ _
@[simp] theorem State.raiseTree_slots (t k : Nat) : (s.raiseTree t k).slots = s.slots := s.raise_slots _ _
@[simp] theorem State.raiseTree_slotBad (t k : Nat) : (s.raiseTree t k).slotBad = s.slotBad := s.raise_slotBad _ _
@[simp] theorem State.raiseTree_mram (t k : Nat) : (s.raiseTree t k).mram = s.mram := s.raise_mram _ _
@[simp] theorem State.raiseTree_cores (t k : Nat) : (s.raiseTree t k).cores = s.cores := s.raise_cores _ _
@[simp] theorem State.raiseTree_ctxStore (t k : Nat) : (s.raiseTree t k).ctxStore = s.ctxStore := s.raise_ctxStore _ _
@[simp] theorem State.raiseTree_tweed (t k : Nat) : (s.raiseTree t k).tweed = s.tweed := s.raise_tweed _ _
@[simp] theorem State.raiseTree_rotations (t k : Nat) : (s.raiseTree t k).rotations = s.rotations := s.raise_rotations _ _
@[simp] theorem State.raiseTree_stats (t k : Nat) : (s.raiseTree t k).stats = s.stats := s.raise_stats _ _
@[simp] theorem State.raiseTree_dev (t k : Nat) : (s.raiseTree t k).dev = s.dev := s.raise_dev _ _
@[simp] theorem State.raiseTree_perf (t k : Nat) : (s.raiseTree t k).perf = s.perf := s.raise_perf _ _
@[simp] theorem State.raiseTree_channels (t k : Nat) : (s.raiseTree t k).channels = s.channels := s.raise_channels _ _
@[simp] theorem State.raiseTree_dieStacks (t k : Nat) : (s.raiseTree t k).dieStacks = s.dieStacks := s.raise_dieStacks _ _
@[simp] theorem State.raiseTree_clock (t k : Nat) : (s.raiseTree t k).clock = s.clock := s.raise_clock _ _
@[simp] theorem State.raiseTree_pair (t k : Nat) : (s.raiseTree t k).pair = s.pair := s.raise_pair _ _
@[simp] theorem State.raiseTree_snap (t k : Nat) : (s.raiseTree t k).snap = s.snap := s.raise_snap _ _
@[simp] theorem State.raiseTree_dma (t k : Nat) : (s.raiseTree t k).dma = s.dma := s.raise_dma _ _
@[simp] theorem State.raiseTree_pci (t k : Nat) : (s.raiseTree t k).pci = s.pci := s.raise_pci _ _
@[simp] theorem State.raiseTree_power (t k : Nat) : (s.raiseTree t k).power = s.power := s.raise_power _ _
@[simp] theorem State.raiseTree_supply (t k : Nat) : (s.raiseTree t k).supply = s.supply := s.raise_supply _ _
@[simp] theorem State.raiseTree_bwAcc (t k : Nat) : (s.raiseTree t k).bwAcc = s.bwAcc := s.raise_bwAcc _ _
@[simp] theorem State.raiseTree_sets (t k : Nat) : (s.raiseTree t k).sets = s.sets := s.raise_sets _ _
@[simp] theorem State.raiseTree_trees (t k : Nat) : (s.raiseTree t k).trees = s.trees := s.raise_trees _ _
@[simp] theorem State.raiseTree_terms (t k : Nat) : (s.raiseTree t k).terms = s.terms := s.raise_terms _ _
@[simp] theorem State.raiseTree_allocs (t k : Nat) : (s.raiseTree t k).allocs = s.allocs := s.raise_allocs _ _
@[simp] theorem State.raiseTree_resv (t k : Nat) : (s.raiseTree t k).resv = s.resv := s.raise_resv _ _
@[simp] theorem State.raiseTree_rot (t k : Nat) : (s.raiseTree t k).rot = s.rot := s.raise_rot _ _
@[simp] theorem State.raiseTree_circs (t k : Nat) : (s.raiseTree t k).circs = s.circs := s.raise_circs _ _
@[simp] theorem State.raiseTree_grps (t k : Nat) : (s.raiseTree t k).grps = s.grps := s.raise_grps _ _
@[simp] theorem State.raiseTree_chkSeen (t k : Nat) : (s.raiseTree t k).chkSeen = s.chkSeen := s.raise_chkSeen _ _
@[simp] theorem State.raiseTree_exact (t k : Nat) : (s.raiseTree t k).exact = s.exact := s.raise_exact _ _
@[simp] theorem State.raiseTree_tern (t k : Nat) : (s.raiseTree t k).tern = s.tern := s.raise_tern _ _
@[simp] theorem State.raiseTree_fwd (t k : Nat) : (s.raiseTree t k).fwd = s.fwd := s.raise_fwd _ _
@[simp] theorem State.raiseTree_cache (t k : Nat) : (s.raiseTree t k).cache = s.cache := s.raise_cache _ _
@[simp] theorem State.raiseTree_notes (t k : Nat) : (s.raiseTree t k).notes = s.notes := s.raise_notes _ _
@[simp] theorem State.raiseTree_updates (t k : Nat) : (s.raiseTree t k).updates = s.updates := s.raise_updates _ _
@[simp] theorem State.raiseTree_heldUpdates (t k : Nat) : (s.raiseTree t k).heldUpdates = s.heldUpdates := s.raise_heldUpdates _ _
@[simp] theorem State.raiseTree_lastSeq (t k : Nat) : (s.raiseTree t k).lastSeq = s.lastSeq := s.raise_lastSeq _ _
@[simp] theorem State.raiseTree_seqLocks (t k : Nat) : (s.raiseTree t k).seqLocks = s.seqLocks := s.raise_seqLocks _ _
@[simp] theorem State.raiseTree_dieLocks (t k : Nat) : (s.raiseTree t k).dieLocks = s.dieLocks := s.raise_dieLocks _ _
@[simp] theorem State.raiseTree_ageAt (t k : Nat) : (s.raiseTree t k).ageAt = s.ageAt := s.raise_ageAt _ _
@[simp] theorem State.raiseTree_touchSent (t k : Nat) : (s.raiseTree t k).touchSent = s.touchSent := s.raise_touchSent _ _
@[simp] theorem State.raiseTree_quotaSaid (t k : Nat) : (s.raiseTree t k).quotaSaid = s.quotaSaid := s.raise_quotaSaid _ _
@[simp] theorem State.raiseTree_ringLost (t k : Nat) : (s.raiseTree t k).ringLost = s.ringLost := s.raise_ringLost _ _
@[simp] theorem State.raiseTree_pendSince (t k : Nat) : (s.raiseTree t k).pendSince = s.pendSince := s.raise_pendSince _ _
@[simp] theorem State.raiseTree_keys (t k : Nat) : (s.raiseTree t k).keys = s.keys := s.raise_keys _ _
@[simp] theorem State.raiseTree_loadedAt (t k : Nat) : (s.raiseTree t k).loadedAt = s.loadedAt := s.raise_loadedAt _ _
@[simp] theorem State.raiseTree_roots (t k : Nat) : (s.raiseTree t k).roots = s.roots := s.raise_roots _ _
@[simp] theorem State.raiseTree_oldBind (t k : Nat) : (s.raiseTree t k).oldBind = s.oldBind := s.raise_oldBind _ _
@[simp] theorem State.raiseTree_switches (t k : Nat) : (s.raiseTree t k).switches = s.switches := s.raise_switches _ _
@[simp] theorem State.raiseTree_xgemIndex (t k : Nat) : (s.raiseTree t k).xgemIndex = s.xgemIndex := s.raise_xgemIndex _ _
@[simp] theorem State.raiseTree_frags (t k : Nat) : (s.raiseTree t k).frags = s.frags := s.raise_frags _ _
@[simp] theorem State.raiseTree_keyFrame (t k : Nat) : (s.raiseTree t k).keyFrame = s.keyFrame := s.raise_keyFrame _ _
@[simp] theorem State.raiseTree_labels (t k : Nat) : (s.raiseTree t k).labels = s.labels := s.raise_labels _ _
@[simp] theorem State.raiseTree_queues (t k : Nat) : (s.raiseTree t k).queues = s.queues := s.raise_queues _ _
@[simp] theorem State.raiseTree_qstat (t k : Nat) : (s.raiseTree t k).qstat = s.qstat := s.raise_qstat _ _
@[simp] theorem State.raiseTree_offers (t k : Nat) : (s.raiseTree t k).offers = s.offers := s.raise_offers _ _
@[simp] theorem State.raiseTree_felt (t k : Nat) : (s.raiseTree t k).felt = s.felt := s.raise_felt _ _
@[simp] theorem State.raiseTree_drain (t k : Nat) : (s.raiseTree t k).drain = s.drain := s.raise_drain _ _
@[simp] theorem State.raiseTree_inbox (t k : Nat) : (s.raiseTree t k).inbox = s.inbox := s.raise_inbox _ _
@[simp] theorem State.raiseTree_laneOut (t k : Nat) : (s.raiseTree t k).laneOut = s.laneOut := s.raise_laneOut _ _
@[simp] theorem State.raiseTree_cellPos (t k : Nat) : (s.raiseTree t k).cellPos = s.cellPos := s.raise_cellPos _ _
@[simp] theorem State.raiseTree_credit (t k : Nat) : (s.raiseTree t k).credit = s.credit := s.raise_credit _ _
@[simp] theorem State.raiseTree_lanes (t k : Nat) : (s.raiseTree t k).lanes = s.lanes := s.raise_lanes _ _
@[simp] theorem State.raiseTree_owed (t k : Nat) : (s.raiseTree t k).owed = s.owed := s.raise_owed _ _
@[simp] theorem State.raiseTree_rxPart (t k : Nat) : (s.raiseTree t k).rxPart = s.rxPart := s.raise_rxPart _ _
@[simp] theorem State.raiseTree_rxReady (t k : Nat) : (s.raiseTree t k).rxReady = s.rxReady := s.raise_rxReady _ _
@[simp] theorem State.raiseTree_oam (t k : Nat) : (s.raiseTree t k).oam = s.oam := s.raise_oam _ _
@[simp] theorem State.raiseTree_replays (t k : Nat) : (s.raiseTree t k).replays = s.replays := s.raise_replays _ _
@[simp] theorem State.raiseTree_ceWaiting (t k : Nat) : (s.raiseTree t k).ceWaiting = s.ceWaiting := s.raise_ceWaiting _ _
@[simp] theorem State.raiseTree_elim (t k : Nat) : (s.raiseTree t k).elim = s.elim := s.raise_elim _ _
@[simp] theorem State.raiseTree_stamps (t k : Nat) : (s.raiseTree t k).stamps = s.stamps := s.raise_stamps _ _
@[simp] theorem State.raiseTree_saidAt (t k : Nat) : (s.raiseTree t k).saidAt = s.saidAt := s.raise_saidAt _ _
@[simp] theorem State.raiseTree_netSec (t k : Nat) : (s.raiseTree t k).netSec = s.netSec := s.raise_netSec _ _
@[simp] theorem State.raiseTree_netFrac (t k : Nat) : (s.raiseTree t k).netFrac = s.netFrac := s.raise_netFrac _ _
@[simp] theorem State.raiseTree_uses (t k : Nat) : (s.raiseTree t k).uses = s.uses := s.raise_uses _ _
@[simp] theorem State.raiseTree_outbox (t k : Nat) : (s.raiseTree t k).outbox = s.outbox := s.raise_outbox _ _
@[simp] theorem State.raiseTree_queue (t k : Nat) : (s.raiseTree t k).pending = s.pending := s.raise_queue _ _

@[simp] theorem State.event_ident (g : Field) (i d src : Nat) : (s.event g i d src).ident = s.ident := State.raise_ident _ _ _
@[simp] theorem State.event_live (g : Field) (i d src : Nat) : (s.event g i d src).live = s.live := State.raise_live _ _ _
@[simp] theorem State.event_sects (g : Field) (i d src : Nat) : (s.event g i d src).sects = s.sects := State.raise_sects _ _ _
@[simp] theorem State.event_latches (g : Field) (i d src : Nat) : (s.event g i d src).latches = s.latches := State.raise_latches _ _ _
@[simp] theorem State.event_chans (g : Field) (i d src : Nat) : (s.event g i d src).chans = s.chans := State.raise_chans _ _ _
@[simp] theorem State.event_loader (g : Field) (i d src : Nat) : (s.event g i d src).loader = s.loader := State.raise_loader _ _ _
@[simp] theorem State.event_slots (g : Field) (i d src : Nat) : (s.event g i d src).slots = s.slots := State.raise_slots _ _ _
@[simp] theorem State.event_slotBad (g : Field) (i d src : Nat) : (s.event g i d src).slotBad = s.slotBad := State.raise_slotBad _ _ _
@[simp] theorem State.event_mram (g : Field) (i d src : Nat) : (s.event g i d src).mram = s.mram := State.raise_mram _ _ _
@[simp] theorem State.event_cores (g : Field) (i d src : Nat) : (s.event g i d src).cores = s.cores := State.raise_cores _ _ _
@[simp] theorem State.event_ctxStore (g : Field) (i d src : Nat) : (s.event g i d src).ctxStore = s.ctxStore := State.raise_ctxStore _ _ _
@[simp] theorem State.event_tweed (g : Field) (i d src : Nat) : (s.event g i d src).tweed = s.tweed := State.raise_tweed _ _ _
@[simp] theorem State.event_rotations (g : Field) (i d src : Nat) : (s.event g i d src).rotations = s.rotations := State.raise_rotations _ _ _
@[simp] theorem State.event_stats (g : Field) (i d src : Nat) : (s.event g i d src).stats = s.stats := State.raise_stats _ _ _
@[simp] theorem State.event_dev (g : Field) (i d src : Nat) : (s.event g i d src).dev = s.dev := State.raise_dev _ _ _
@[simp] theorem State.event_perf (g : Field) (i d src : Nat) : (s.event g i d src).perf = s.perf := State.raise_perf _ _ _
@[simp] theorem State.event_channels (g : Field) (i d src : Nat) : (s.event g i d src).channels = s.channels := State.raise_channels _ _ _
@[simp] theorem State.event_dieStacks (g : Field) (i d src : Nat) : (s.event g i d src).dieStacks = s.dieStacks := State.raise_dieStacks _ _ _
@[simp] theorem State.event_clock (g : Field) (i d src : Nat) : (s.event g i d src).clock = s.clock := State.raise_clock _ _ _
@[simp] theorem State.event_pair (g : Field) (i d src : Nat) : (s.event g i d src).pair = s.pair := State.raise_pair _ _ _
@[simp] theorem State.event_snap (g : Field) (i d src : Nat) : (s.event g i d src).snap = s.snap := State.raise_snap _ _ _
@[simp] theorem State.event_dma (g : Field) (i d src : Nat) : (s.event g i d src).dma = s.dma := State.raise_dma _ _ _
@[simp] theorem State.event_pci (g : Field) (i d src : Nat) : (s.event g i d src).pci = s.pci := State.raise_pci _ _ _
@[simp] theorem State.event_power (g : Field) (i d src : Nat) : (s.event g i d src).power = s.power := State.raise_power _ _ _
@[simp] theorem State.event_supply (g : Field) (i d src : Nat) : (s.event g i d src).supply = s.supply := State.raise_supply _ _ _
@[simp] theorem State.event_bwAcc (g : Field) (i d src : Nat) : (s.event g i d src).bwAcc = s.bwAcc := State.raise_bwAcc _ _ _
@[simp] theorem State.event_sets (g : Field) (i d src : Nat) : (s.event g i d src).sets = s.sets := State.raise_sets _ _ _
@[simp] theorem State.event_trees (g : Field) (i d src : Nat) : (s.event g i d src).trees = s.trees := State.raise_trees _ _ _
@[simp] theorem State.event_terms (g : Field) (i d src : Nat) : (s.event g i d src).terms = s.terms := State.raise_terms _ _ _
@[simp] theorem State.event_allocs (g : Field) (i d src : Nat) : (s.event g i d src).allocs = s.allocs := State.raise_allocs _ _ _
@[simp] theorem State.event_resv (g : Field) (i d src : Nat) : (s.event g i d src).resv = s.resv := State.raise_resv _ _ _
@[simp] theorem State.event_rot (g : Field) (i d src : Nat) : (s.event g i d src).rot = s.rot := State.raise_rot _ _ _
@[simp] theorem State.event_circs (g : Field) (i d src : Nat) : (s.event g i d src).circs = s.circs := State.raise_circs _ _ _
@[simp] theorem State.event_grps (g : Field) (i d src : Nat) : (s.event g i d src).grps = s.grps := State.raise_grps _ _ _
@[simp] theorem State.event_chkSeen (g : Field) (i d src : Nat) : (s.event g i d src).chkSeen = s.chkSeen := State.raise_chkSeen _ _ _
@[simp] theorem State.event_exact (g : Field) (i d src : Nat) : (s.event g i d src).exact = s.exact := State.raise_exact _ _ _
@[simp] theorem State.event_tern (g : Field) (i d src : Nat) : (s.event g i d src).tern = s.tern := State.raise_tern _ _ _
@[simp] theorem State.event_fwd (g : Field) (i d src : Nat) : (s.event g i d src).fwd = s.fwd := State.raise_fwd _ _ _
@[simp] theorem State.event_cache (g : Field) (i d src : Nat) : (s.event g i d src).cache = s.cache := State.raise_cache _ _ _
@[simp] theorem State.event_notes (g : Field) (i d src : Nat) : (s.event g i d src).notes = s.notes := State.raise_notes _ _ _
@[simp] theorem State.event_updates (g : Field) (i d src : Nat) : (s.event g i d src).updates = s.updates := State.raise_updates _ _ _
@[simp] theorem State.event_heldUpdates (g : Field) (i d src : Nat) : (s.event g i d src).heldUpdates = s.heldUpdates := State.raise_heldUpdates _ _ _
@[simp] theorem State.event_lastSeq (g : Field) (i d src : Nat) : (s.event g i d src).lastSeq = s.lastSeq := State.raise_lastSeq _ _ _
@[simp] theorem State.event_seqLocks (g : Field) (i d src : Nat) : (s.event g i d src).seqLocks = s.seqLocks := State.raise_seqLocks _ _ _
@[simp] theorem State.event_dieLocks (g : Field) (i d src : Nat) : (s.event g i d src).dieLocks = s.dieLocks := State.raise_dieLocks _ _ _
@[simp] theorem State.event_ageAt (g : Field) (i d src : Nat) : (s.event g i d src).ageAt = s.ageAt := State.raise_ageAt _ _ _
@[simp] theorem State.event_touchSent (g : Field) (i d src : Nat) : (s.event g i d src).touchSent = s.touchSent := State.raise_touchSent _ _ _
@[simp] theorem State.event_quotaSaid (g : Field) (i d src : Nat) : (s.event g i d src).quotaSaid = s.quotaSaid := State.raise_quotaSaid _ _ _
@[simp] theorem State.event_ringLost (g : Field) (i d src : Nat) : (s.event g i d src).ringLost = s.ringLost := State.raise_ringLost _ _ _
@[simp] theorem State.event_pendSince (g : Field) (i d src : Nat) : (s.event g i d src).pendSince = s.pendSince := State.raise_pendSince _ _ _
@[simp] theorem State.event_keys (g : Field) (i d src : Nat) : (s.event g i d src).keys = s.keys := State.raise_keys _ _ _
@[simp] theorem State.event_loadedAt (g : Field) (i d src : Nat) : (s.event g i d src).loadedAt = s.loadedAt := State.raise_loadedAt _ _ _
@[simp] theorem State.event_roots (g : Field) (i d src : Nat) : (s.event g i d src).roots = s.roots := State.raise_roots _ _ _
@[simp] theorem State.event_oldBind (g : Field) (i d src : Nat) : (s.event g i d src).oldBind = s.oldBind := State.raise_oldBind _ _ _
@[simp] theorem State.event_switches (g : Field) (i d src : Nat) : (s.event g i d src).switches = s.switches := State.raise_switches _ _ _
@[simp] theorem State.event_xgemIndex (g : Field) (i d src : Nat) : (s.event g i d src).xgemIndex = s.xgemIndex := State.raise_xgemIndex _ _ _
@[simp] theorem State.event_frags (g : Field) (i d src : Nat) : (s.event g i d src).frags = s.frags := State.raise_frags _ _ _
@[simp] theorem State.event_keyFrame (g : Field) (i d src : Nat) : (s.event g i d src).keyFrame = s.keyFrame := State.raise_keyFrame _ _ _
@[simp] theorem State.event_labels (g : Field) (i d src : Nat) : (s.event g i d src).labels = s.labels := State.raise_labels _ _ _
@[simp] theorem State.event_queues (g : Field) (i d src : Nat) : (s.event g i d src).queues = s.queues := State.raise_queues _ _ _
@[simp] theorem State.event_qstat (g : Field) (i d src : Nat) : (s.event g i d src).qstat = s.qstat := State.raise_qstat _ _ _
@[simp] theorem State.event_offers (g : Field) (i d src : Nat) : (s.event g i d src).offers = s.offers := State.raise_offers _ _ _
@[simp] theorem State.event_felt (g : Field) (i d src : Nat) : (s.event g i d src).felt = s.felt := State.raise_felt _ _ _
@[simp] theorem State.event_drain (g : Field) (i d src : Nat) : (s.event g i d src).drain = s.drain := State.raise_drain _ _ _
@[simp] theorem State.event_inbox (g : Field) (i d src : Nat) : (s.event g i d src).inbox = s.inbox := State.raise_inbox _ _ _
@[simp] theorem State.event_laneOut (g : Field) (i d src : Nat) : (s.event g i d src).laneOut = s.laneOut := State.raise_laneOut _ _ _
@[simp] theorem State.event_cellPos (g : Field) (i d src : Nat) : (s.event g i d src).cellPos = s.cellPos := State.raise_cellPos _ _ _
@[simp] theorem State.event_credit (g : Field) (i d src : Nat) : (s.event g i d src).credit = s.credit := State.raise_credit _ _ _
@[simp] theorem State.event_lanes (g : Field) (i d src : Nat) : (s.event g i d src).lanes = s.lanes := State.raise_lanes _ _ _
@[simp] theorem State.event_owed (g : Field) (i d src : Nat) : (s.event g i d src).owed = s.owed := State.raise_owed _ _ _
@[simp] theorem State.event_rxPart (g : Field) (i d src : Nat) : (s.event g i d src).rxPart = s.rxPart := State.raise_rxPart _ _ _
@[simp] theorem State.event_rxReady (g : Field) (i d src : Nat) : (s.event g i d src).rxReady = s.rxReady := State.raise_rxReady _ _ _
@[simp] theorem State.event_oam (g : Field) (i d src : Nat) : (s.event g i d src).oam = s.oam := State.raise_oam _ _ _
@[simp] theorem State.event_replays (g : Field) (i d src : Nat) : (s.event g i d src).replays = s.replays := State.raise_replays _ _ _
@[simp] theorem State.event_ceWaiting (g : Field) (i d src : Nat) : (s.event g i d src).ceWaiting = s.ceWaiting := State.raise_ceWaiting _ _ _
@[simp] theorem State.event_elim (g : Field) (i d src : Nat) : (s.event g i d src).elim = s.elim := State.raise_elim _ _ _
@[simp] theorem State.event_stamps (g : Field) (i d src : Nat) : (s.event g i d src).stamps = s.stamps := State.raise_stamps _ _ _
@[simp] theorem State.event_saidAt (g : Field) (i d src : Nat) : (s.event g i d src).saidAt = s.saidAt := State.raise_saidAt _ _ _
@[simp] theorem State.event_netSec (g : Field) (i d src : Nat) : (s.event g i d src).netSec = s.netSec := State.raise_netSec _ _ _
@[simp] theorem State.event_netFrac (g : Field) (i d src : Nat) : (s.event g i d src).netFrac = s.netFrac := State.raise_netFrac _ _ _
@[simp] theorem State.event_uses (g : Field) (i d src : Nat) : (s.event g i d src).uses = s.uses := State.raise_uses _ _ _
@[simp] theorem State.event_outbox (g : Field) (i d src : Nat) : (s.event g i d src).outbox = s.outbox := State.raise_outbox _ _ _
@[simp] theorem State.event_queue (g : Field) (i d src : Nat) : (s.event g i d src).pending = s.pending := State.raise_queue _ _ _

end Sys2Proof.Machine
end

