-- ==== Sys2Proof/Laws/Chain.lean ====
section
/-!
SUPPORT. How a frame is followed through a chain of updates: each adds a field, an event of a source, or something sent to what has changed so far.
-/

namespace Sys2Proof.Machine

set_option Elab.async false

variable {s t : State} {ks : List Key}

/-- No key of a list is the group of an interrupt source. -/
def noGroup (ks : List Key) : Prop := ∀ k ∈ ks, k.n ≠ IC_SRC.GROUP.num

theorem noGroup_nil : noGroup [] := fun _ h => nomatch h

theorem noGroup_cons {f : Field} {i : Nat} (h : f.num ≠ IC_SRC.GROUP.num) (g : noGroup ks) : noGroup (f.at i :: ks) := by
  intro k m
  rcases List.mem_cons.1 m with rfl | m
  · exact h
  · exact g k m

theorem noGroup_append {js : List Key} (h : noGroup ks) (g : noGroup js) : noGroup (ks ++ js) := by
  intro k m
  rcases List.mem_append.1 m with m | m
  · exact h k m
  · exact g k m

theorem noGroup_source (s : State) (d src : Nat) : noGroup (sourceKeys s d src) :=
  noGroup_cons (by decide) (noGroup_cons (by decide) noGroup_nil)

theorem noGroup_package (s : State) (src : Nat) : noGroup (packageKeys s src) := by
  intro k m
  obtain ⟨d, _, m⟩ := List.mem_flatMap.1 m
  exact noGroup_source s d src k m

theorem changesOnly.group (h : changesOnly s t ks) (g : noGroup ks) (i : Nat) : t.get IC_SRC.GROUP i = s.get IC_SRC.GROUP i :=
  h.get _ _ (fun m => g _ m rfl) (.inr (by decide))

theorem changesOnly.sourceKeys (h : changesOnly s t ks) (g : noGroup ks) (d src : Nat) : sourceKeys t d src = sourceKeys s d src := by
  unfold Machine.sourceKeys
  rw [h.group g]

theorem changesOnly.packageKeys (h : changesOnly s t ks) (g : noGroup ks) (src : Nat) : packageKeys t src = packageKeys s src := by
  unfold Machine.packageKeys
  have e : t.dieList = s.dieList := by rw [h.1]; rfl
  rw [e]
  congr 1
  funext d
  exact h.sourceKeys g d src

theorem changesOnly.raise (h : changesOnly s t ks) (d src : Nat) (g : noGroup ks) (m : ∀ k ∈ Machine.sourceKeys s d src, k ∈ ks) :
    changesOnly s (t.raise d src) ks :=
  h.trans ((State.raise_changesOnly t d src).mono fun k n => m k (h.sourceKeys g d src ▸ n))

theorem changesOnly.raisePkg (h : changesOnly s t ks) (src : Nat) (g : noGroup ks) (m : ∀ k ∈ Machine.packageKeys s src, k ∈ ks) :
    changesOnly s (t.raisePkg src) ks :=
  h.trans ((State.raisePkg_changesOnly t src).mono fun k n => m k (h.packageKeys g src ▸ n))

theorem changesOnly.event (h : changesOnly s t ks) (f : Field) (i d src : Nat) (g : noGroup ks) (n : f.at i ∈ ks)
    (m : ∀ k ∈ Machine.sourceKeys s d src, k ∈ ks) : changesOnly s (t.event f i d src) ks := (h.put f i 1 n).raise d src g m

theorem changesOnly.sends (h : changesOnly s t ks) (o : Sent) : changesAndSends s (t.emit o) ks [o] := by
  refine ⟨?_, h.2⟩
  have e := h.1
  unfold registersOnly at e
  have b : t.outbox = s.outbox := by rw [e]
  unfold State.emit
  rw [b]
  rw [e]

theorem changesOnly.sendsNothing (h : changesOnly s t ks) : changesAndSends s t ks [] := by
  refine ⟨?_, h.2⟩
  rw [List.append_nil]
  exact h.1

/-- A firewall event changes its own fields alone. -/
theorem changesOnly.fwEvent (h : changesOnly s t ks) (off bar : Nat) (write : Bool) (source : Nat) (g : noGroup ks) (m : ∀ k ∈ firewallKeys s, k ∈ ks) :
    changesOnly s (t.fwEvent off bar write source) ks := by
  unfold firewallKeys at m
  have m0 : ∀ k ∈ Machine.packageKeys s 3848, k ∈ ks := fun k n => m k (List.mem_append_right _ n)
  exact ((((((h.put _ _ _ (m _ (by simp))).put _ _ _ (m _ (by simp))).putFlag _ _ _ (m _ (by simp))).put _ _ _ (m _ (by simp))).addSat _ _ _ (m _ (by simp)))).raisePkg 3848 g m0

theorem noGroup_firewall (s : State) : noGroup (firewallKeys s) := by
  unfold firewallKeys
  exact noGroup_append (noGroup_cons (by decide) (noGroup_cons (by decide) (noGroup_cons (by decide) (noGroup_cons (by decide) (noGroup_cons (by decide) noGroup_nil)))))
    (noGroup_package _ _)

theorem fwEvent_changesOnly (s : State) (off bar : Nat) (write : Bool) (source : Nat) : changesOnly s (s.fwEvent off bar write source) (firewallKeys s) :=
  (changesOnly.refl s _).fwEvent off bar write source (noGroup_firewall s) fun _ m => m

theorem fwEvent_event (s : State) (off bar : Nat) (write : Bool) (source : Nat) (h : source < 4) : firewallEvent s (s.fwEvent off bar write source) source := by
  refine ⟨?_, ?_, State.raisePkg_pending _ 3848 (by decide)⟩
  · simp (disch := decide) only [State.fwEvent, get_raisePkg, get_addSat_ne, get_put]
    exact Nat.mod_eq_of_lt h
  · simp (disch := decide) only [State.fwEvent, get_raisePkg, get_addSat, get_put_ne, get_putFlag_ne]
    rfl

theorem pendingOnAll_emit {o : Sent} {src : Nat} (h : pendingOnAll t src) : pendingOnAll (t.emit o) src := h

end Sys2Proof.Machine
end

