-- ==== Sys2Proof/Laws/Exec.lean ====
section
/-!
SUPPORT. The arms of exec as equations, and the two cases of a step.
-/

namespace Sys2Proof.Machine

/-- A step with a command at the front runs exec on the rest of the queue. -/
@[simp] theorem step_cons (s : State) (c : Instr) (rest : List Instr) (h : s.pending = c :: rest) :
    step s = exec c { s with pending := rest } := by
  unfold step
  rw [h]

/-- A step on an empty queue changes nothing. -/
@[simp] theorem step_nil (s : State) (h : s.pending = []) : step s = .next s := by
  unfold step
  rw [h]

@[simp] theorem exec_registerWrite (who off size value during) (s : State) :
    exec (.registerWrite who off size value during) s = execRegisterWrite who off size value during s := rfl
@[simp] theorem exec_unmappedAccess (who off size write) (s : State) :
    exec (.unmappedAccess who off size write) s = execUnmappedAccess who off size write s := rfl
@[simp] theorem exec_shadowRead (who off size) (s : State) : exec (.shadowRead who off size) s = execShadowRead who off size s := rfl
@[simp] theorem exec_timeNowRead (who size) (s : State) : exec (.timeNowRead who size) s = execTimeNowRead who size s := rfl
@[simp] theorem exec_unitEnableRequest (unit on) (s : State) : exec (.unitEnableRequest unit on) s = execUnitEnableRequest unit on s := rfl
@[simp] theorem exec_unitPhaseDone (unit) (s : State) : exec (.unitPhaseDone unit) s = execUnitPhaseDone unit s := rfl
@[simp] theorem exec_secondLatch (sec) (s : State) : exec (.secondLatch sec) s = execSecondLatch sec s := rfl
@[simp] theorem exec_tableUpdateApply (die) (s : State) : exec (.tableUpdateApply die) s = execTableUpdateApply die s := rfl
@[simp] theorem exec_orderStall (die) (s : State) : exec (.orderStall die) s = execOrderStall die s := rfl
@[simp] theorem exec_downstreamFrameStart (tree set at0) (s : State) :
    exec (.downstreamFrameStart tree set at0) s = execDownstreamFrameStart tree set at0 s := rfl
@[simp] theorem exec_lateMap (tree set) (s : State) : exec (.lateMap tree set) s = execLateMap tree set s := rfl
@[simp] theorem exec_ploamRingSample (tree set) (s : State) : exec (.ploamRingSample tree set) s = execPloamRingSample tree set s := rfl
@[simp] theorem exec_dsUnderrun (tree set come) (s : State) : exec (.dsUnderrun tree set come) s = execDsUnderrun tree set come s := rfl
@[simp] theorem exec_stageBegin (slot) (s : State) : exec (.stageBegin slot) s = execStageBegin slot s := rfl
@[simp] theorem exec_stageEnd (s : State) : exec (.stageEnd) s = execStageEnd s := rfl
@[simp] theorem exec_select (slot trial) (s : State) : exec (.select slot trial) s = execSelect slot trial s := rfl
@[simp] theorem exec_confirm (s : State) : exec (.confirm) s = execConfirm s := rfl
@[simp] theorem exec_weave (s : State) : exec (.weave) s = execWeave s := rfl
@[simp] theorem exec_weaveDone (die) (s : State) : exec (.weaveDone die) s = execWeaveDone die s := rfl
@[simp] theorem exec_treeReweave (tree slot) (s : State) : exec (.treeReweave tree slot) s = execTreeReweave tree slot s := rfl
@[simp] theorem exec_reweaveSectionsLoaded (s : State) : exec (.reweaveSectionsLoaded) s = execReweaveSectionsLoaded s := rfl
@[simp] theorem exec_reweaveComplete (s : State) : exec (.reweaveComplete) s = execReweaveComplete s := rfl
@[simp] theorem exec_dmkStageData (offset bytes) (s : State) : exec (.dmkStageData offset bytes) s = execDmkStageData offset bytes s := rfl
@[simp] theorem exec_mramRecordCommit (die) (s : State) : exec (.mramRecordCommit die) s = execMramRecordCommit die s := rfl
@[simp] theorem exec_pageReclaim (die) (s : State) : exec (.pageReclaim die) s = execPageReclaim die s := rfl
@[simp] theorem exec_recordRotation (die) (s : State) : exec (.recordRotation die) s = execRecordRotation die s := rfl
@[simp] theorem exec_secLockSet (mask) (s : State) : exec (.secLockSet mask) s = execSecLockSet mask s := rfl
@[simp] theorem exec_dbgNonceRequest (s : State) : exec (.dbgNonceRequest) s = execDbgNonceRequest s := rfl
@[simp] theorem exec_dbgPasswordAttempt (own elapsed) (s : State) :
    exec (.dbgPasswordAttempt own elapsed) s = execDbgPasswordAttempt own elapsed s := rfl
@[simp] theorem exec_dbgSignedAttempt (own elapsed) (s : State) : exec (.dbgSignedAttempt own elapsed) s = execDbgSignedAttempt own elapsed s := rfl
@[simp] theorem exec_dbgSetPassword (own) (s : State) : exec (.dbgSetPassword own) s = execDbgSetPassword own s := rfl
@[simp] theorem exec_nonceExpiry (s : State) : exec (.nonceExpiry) s = execNonceExpiry s := rfl
@[simp] theorem exec_opticsStart (tree) (s : State) : exec (.opticsStart tree) s = execOpticsStart tree s := rfl
@[simp] theorem exec_opticsLit (tree) (s : State) : exec (.opticsLit tree) s = execOpticsLit tree s := rfl
@[simp] theorem exec_txDarkAtShutdown (tree) (s : State) : exec (.txDarkAtShutdown tree) s = execTxDarkAtShutdown tree s := rfl
@[simp] theorem exec_laserPark (tree) (s : State) : exec (.laserPark tree) s = execLaserPark tree s := rfl
@[simp] theorem exec_txCalibration (tree set) (s : State) : exec (.txCalibration tree set) s = execTxCalibration tree set s := rfl
@[simp] theorem exec_laserAgeingCheck (tree set) (s : State) : exec (.laserAgeingCheck tree set) s = execLaserAgeingCheck tree set s := rfl
@[simp] theorem exec_txMuteSet (tree) (s : State) : exec (.txMuteSet tree) s = execTxMuteSet tree s := rfl
@[simp] theorem exec_txMuteClear (tree) (s : State) : exec (.txMuteClear tree) s = execTxMuteClear tree s := rfl
@[simp] theorem exec_txLol (tree set) (s : State) : exec (.txLol tree set) s = execTxLol tree set s := rfl
@[simp] theorem exec_txRelock (tree set) (s : State) : exec (.txRelock tree set) s = execTxRelock tree set s := rfl
@[simp] theorem exec_contextSwap (tree set) (s : State) : exec (.contextSwap tree set) s = execContextSwap tree set s := rfl
@[simp] theorem exec_burstReceive (tree set burst) (s : State) : exec (.burstReceive tree set burst) s = execBurstReceive tree set burst s := rfl
@[simp] theorem exec_upstreamFrameEnd (tree set samples) (s : State) :
    exec (.upstreamFrameEnd tree set samples) s = execUpstreamFrameEnd tree set samples s := rfl
@[simp] theorem exec_rxLol (tree set) (s : State) : exec (.rxLol tree set) s = execRxLol tree set s := rfl
@[simp] theorem exec_rxLolClear (tree set) (s : State) : exec (.rxLolClear tree set) s = execRxLolClear tree set s := rfl
@[simp] theorem exec_rxTermClear (tree terminal) (s : State) : exec (.rxTermClear tree terminal) s = execRxTermClear tree terminal s := rfl
@[simp] theorem exec_errorInject (unit passed place) (s : State) :
    exec (.errorInject unit passed place) s = execErrorInject unit passed place s := rfl
@[simp] theorem exec_oneShotInject (unit place) (s : State) : exec (.oneShotInject unit place) s = execOneShotInject unit place s := rfl
@[simp] theorem exec_patternCheckerLock (unit terminal good) (s : State) :
    exec (.patternCheckerLock unit terminal good) s = execPatternCheckerLock unit terminal good s := rfl
@[simp] theorem exec_optTxRefresh (tree set power bias wave temp) (s : State) :
    exec (.optTxRefresh tree set power bias wave temp) s = execOptTxRefresh tree set power bias wave temp s := rfl
@[simp] theorem exec_quietWindowOpen (tree set) (s : State) : exec (.quietWindowOpen tree set) s = execQuietWindowOpen tree set s := rfl
@[simp] theorem exec_quietForce (tree) (s : State) : exec (.quietForce tree) s = execQuietForce tree s := rfl
@[simp] theorem exec_serialNumberFound (tree set arrival delay serial) (s : State) :
    exec (.serialNumberFound tree set arrival delay serial) s = execSerialNumberFound tree set arrival delay serial s := rfl
@[simp] theorem exec_rangingGrantResult (tree terminal) (s : State) :
    exec (.rangingGrantResult tree terminal) s = execRangingGrantResult tree terminal s := rfl
@[simp] theorem exec_chiffonParams (tree) (s : State) : exec (.chiffonParams tree) s = execChiffonParams tree s := rfl
@[simp] theorem exec_signatureDetection (tree code lag frames) (s : State) :
    exec (.signatureDetection tree code lag frames) s = execSignatureDetection tree code lag frames s := rfl
@[simp] theorem exec_chiffonInvite (tree place frame) (s : State) :
    exec (.chiffonInvite tree place frame) s = execChiffonInvite tree place frame s := rfl
@[simp] theorem exec_microWindowResult (tree place) (s : State) : exec (.microWindowResult tree place) s = execMicroWindowResult tree place s := rfl
@[simp] theorem exec_admitWaitExpiry (tree terminal) (s : State) :
    exec (.admitWaitExpiry tree terminal) s = execAdmitWaitExpiry tree terminal s := rfl
@[simp] theorem exec_chiffonHold (tree terminal) (s : State) : exec (.chiffonHold tree terminal) s = execChiffonHold tree terminal s := rfl
@[simp] theorem exec_assignOnuId (tree terminal) (s : State) : exec (.assignOnuId tree terminal) s = execAssignOnuId tree terminal s := rfl
@[simp] theorem exec_assignAllocId (tree allocation) (s : State) :
    exec (.assignAllocId tree allocation) s = execAssignAllocId tree allocation s := rfl
@[simp] theorem exec_stepMissed (tree terminal step) (s : State) :
    exec (.stepMissed tree terminal step) s = execStepMissed tree terminal step s := rfl
@[simp] theorem exec_driftCorrection (tree terminal) (s : State) :
    exec (.driftCorrection tree terminal) s = execDriftCorrection tree terminal s := rfl
@[simp] theorem exec_terminalLost (tree terminal) (s : State) : exec (.terminalLost tree terminal) s = execTerminalLost tree terminal s := rfl
@[simp] theorem exec_admitTerminal (tree terminal onuId) (s : State) :
    exec (.admitTerminal tree terminal onuId) s = execAdmit tree terminal onuId s := rfl
@[simp] theorem exec_deny (tree terminal) (s : State) : exec (.deny tree terminal) s = execDeny tree terminal s := rfl
@[simp] theorem exec_rerange (tree terminal) (s : State) : exec (.rerange tree terminal) s = execRerange tree terminal s := rfl
@[simp] theorem exec_deactivate (tree terminal) (s : State) : exec (.deactivate tree terminal) s = execDeactivate tree terminal s := rfl
@[simp] theorem exec_free (tree terminal) (s : State) : exec (.free tree terminal) s = execFree tree terminal s := rfl
@[simp] theorem exec_mapBuild (tree set buildNs flagged) (s : State) :
    exec (.mapBuild tree set buildNs flagged) s = execMapBuild tree set buildNs flagged s := rfl
@[simp] theorem exec_statusReportDecode (tree allocation backlog frame) (s : State) :
    exec (.statusReportDecode tree allocation backlog frame) s = execStatusReportDecode tree allocation backlog frame s := rfl
@[simp] theorem exec_contextRingWrite (tree set) (s : State) : exec (.contextRingWrite tree set) s = execContextRingWrite tree set s := rfl
@[simp] theorem exec_grantAccRead (die target tree index list) (s : State) :
    exec (.grantAccRead die target tree index list) s = execGrantAccRead die target tree index list s := rfl
@[simp] theorem exec_grantAccWrite (die target tree index list) (s : State) :
    exec (.grantAccWrite die target tree index list) s = execGrantAccWrite die target tree index list s := rfl
@[simp] theorem exec_writeReset (die target tree index) (s : State) :
    exec (.writeReset die target tree index) s = execWriteReset die target tree index s := rfl
@[simp] theorem exec_gateBankSwap (die list) (s : State) : exec (.gateBankSwap die list) s = execGateBankSwap die list s := rfl
@[simp] theorem exec_resvMicroWindow (tree set onuId frameLow) (s : State) :
    exec (.resvMicroWindow tree set onuId frameLow) s = execResvMicroWindow tree set onuId frameLow s := rfl
@[simp] theorem exec_resvRangingGrant (tree set onuId frameLow units profile) (s : State) :
    exec (.resvRangingGrant tree set onuId frameLow units profile) s = execResvRangingGrant tree set onuId frameLow units profile s := rfl
@[simp] theorem exec_resvQuietWindow (tree set frameLow) (s : State) :
    exec (.resvQuietWindow tree set frameLow) s = execResvQuietWindow tree set frameLow s := rfl
@[simp] theorem exec_containerBuild (circuit) (s : State) : exec (.containerBuild circuit) s = execContainerBuild circuit s := rfl
@[simp] theorem exec_containerMissing (circuit) (s : State) : exec (.containerMissing circuit) s = execContainerMissing circuit s := rfl
@[simp] theorem exec_cePacketReceive (die) (s : State) : exec (.cePacketReceive die) s = execCePacketReceive die s := rfl
@[simp] theorem exec_containerReceive (circuit) (s : State) : exec (.containerReceive circuit) s = execContainerReceive circuit s := rfl
@[simp] theorem exec_groupRelease (die group) (s : State) : exec (.groupRelease die group) s = execGroupRelease die group s := rfl
@[simp] theorem exec_circAccRead (die group index) (s : State) : exec (.circAccRead die group index) s = execCircAccRead die group index s := rfl
@[simp] theorem exec_circAccWrite (die group index) (s : State) : exec (.circAccWrite die group index) s = execCircAccWrite die group index s := rfl
@[simp] theorem exec_circuitEnable (die index) (s : State) : exec (.circuitEnable die index) s = execCircuitEnable die index s := rfl
@[simp] theorem exec_circuitDisable (die index) (s : State) : exec (.circuitDisable die index) s = execCircuitDisable die index s := rfl
@[simp] theorem exec_fabricFrameReceive (lane bytes sec) (s : State) :
    exec (.fabricFrameReceive lane bytes sec) s = execFabricFrameReceive lane bytes sec s := rfl
@[simp] theorem exec_frameAdmit (die) (s : State) : exec (.frameAdmit die) s = execFrameAdmit die s := rfl
@[simp] theorem exec_queueRelease (die up port) (s : State) : exec (.queueRelease die up port) s = execQueueRelease die up port s := rfl
@[simp] theorem exec_fabricFrameTransmit (lane cls ptp) (s : State) :
    exec (.fabricFrameTransmit lane cls ptp) s = execFabricFrameTransmit lane cls ptp s := rfl
@[simp] theorem exec_feltRelease (die port) (s : State) : exec (.feltRelease die port) s = execFeltRelease die port s := rfl
@[simp] theorem exec_portHoldCause (die port cause) (s : State) : exec (.portHoldCause die port cause) s = execPortHoldCause die port cause s := rfl
@[simp] theorem exec_portResume (die port) (s : State) : exec (.portResume die port) s = execPortResume die port s := rfl
@[simp] theorem exec_portAvailable (die port) (s : State) : exec (.portAvailable die port) s = execPortAvailable die port s := rfl
@[simp] theorem exec_tmSampleWindow (die) (s : State) : exec (.tmSampleWindow die) s = execTmSampleWindow die s := rfl
@[simp] theorem exec_tmAccRead (die target index) (s : State) : exec (.tmAccRead die target index) s = execTmAccRead die target index s := rfl
@[simp] theorem exec_tmAccWrite (die target index) (s : State) : exec (.tmAccWrite die target index) s = execTmAccWrite die target index s := rfl
@[simp] theorem exec_classRuleRead (die ternary index) (s : State) :
    exec (.classRuleRead die ternary index) s = execClassRuleRead die ternary index s := rfl
@[simp] theorem exec_ternaryWrite (die index) (s : State) : exec (.ternaryWrite die index) s = execTernaryWrite die index s := rfl
@[simp] theorem exec_exactInsert (die) (s : State) : exec (.exactInsert die) s = execExactInsert die s := rfl
@[simp] theorem exec_exactReplace (die) (s : State) : exec (.exactReplace die) s = execExactReplace die s := rfl
@[simp] theorem exec_exactDelete (die) (s : State) : exec (.exactDelete die) s = execExactDelete die s := rfl
@[simp] theorem exec_meterRead (die meter) (s : State) : exec (.meterRead die meter) s = execMeterRead die meter s := rfl
@[simp] theorem exec_meterWrite (die meter keep) (s : State) : exec (.meterWrite die meter keep) s = execMeterWrite die meter keep s := rfl
@[simp] theorem exec_tableInsert (chan addr entry expect tied) (s : State) :
    exec (.tableInsert chan addr entry expect tied) s = execTableInsert chan addr entry expect tied s := rfl
@[simp] theorem exec_tableReplace (chan addr entry expect tied) (s : State) :
    exec (.tableReplace chan addr entry expect tied) s = execTableReplace chan addr entry expect tied s := rfl
@[simp] theorem exec_tableDelete (chan addr entry expect tied) (s : State) :
    exec (.tableDelete chan addr entry expect tied) s = execTableDelete chan addr entry expect tied s := rfl
@[simp] theorem exec_tableLock (chan addr bucket second) (s : State) :
    exec (.tableLock chan addr bucket second) s = execTableLock chan addr bucket second s := rfl
@[simp] theorem exec_tableUnlock (chan addr) (s : State) : exec (.tableUnlock chan addr) s = execTableUnlock chan addr s := rfl
@[simp] theorem exec_writeSlot (chan addr bucket slot entry expect) (s : State) :
    exec (.writeSlot chan addr bucket slot entry expect) s = execWriteSlot chan addr bucket slot entry expect s := rfl
@[simp] theorem exec_ageBucket (s : State) : exec (.ageBucket) s = execAgeBucket s := rfl
@[simp] theorem exec_lockExpiry (chan) (s : State) : exec (.lockExpiry chan) s = execLockExpiry chan s := rfl
@[simp] theorem exec_keyLoad (host die assoc index wrapped kek tied) (s : State) :
    exec (.keyLoad host die assoc index wrapped kek tied) s = execKeyLoad host die assoc index wrapped kek tied s := rfl
@[simp] theorem exec_keyErase (host die assoc index tied) (s : State) :
    exec (.keyErase host die assoc index tied) s = execKeyErase host die assoc index tied s := rfl
@[simp] theorem exec_keySwitch (host die localTree linePort tied) (s : State) :
    exec (.keySwitch host die localTree linePort tied) s = execKeySwitch host die localTree linePort tied s := rfl
@[simp] theorem exec_keyRead (host die assoc index tied) (s : State) :
    exec (.keyRead host die assoc index tied) s = execKeyRead host die assoc index tied s := rfl
@[simp] theorem exec_kekLoad (host die kek) (s : State) : exec (.kekLoad host die kek) s = execKekLoad host die kek s := rfl
@[simp] theorem exec_switchCheck (s : State) : exec (.switchCheck) s = execSwitchCheck s := rfl
@[simp] theorem exec_keyExpiry (die slot) (s : State) : exec (.keyExpiry die slot) s = execKeyExpiry die slot s := rfl
@[simp] theorem exec_starvedResume (tree linePort) (s : State) : exec (.starvedResume tree linePort) s = execStarvedResume tree linePort s := rfl
@[simp] theorem exec_lpBindWrite (tree linePort keyPair encrypt txSc) (s : State) :
    exec (.lpBindWrite tree linePort keyPair encrypt txSc) s = execLpBindWrite tree linePort keyPair encrypt txSc s := rfl
@[simp] theorem exec_msecRead (die assoc index) (s : State) : exec (.msecRead die assoc index) s = execMsecRead die assoc index s := rfl
@[simp] theorem exec_msecChannelWrite (die channel) (s : State) : exec (.msecChannelWrite die channel) s = execMsecChannelWrite die channel s := rfl
@[simp] theorem exec_arm (die association) (s : State) : exec (.arm die association) s = execArm die association s := rfl
@[simp] theorem exec_refreshInterval (die channel events) (s : State) :
    exec (.refreshInterval die channel events) s = execRefreshInterval die channel events s := rfl
@[simp] theorem exec_stackTempCrossing (die channel temp) (s : State) :
    exec (.stackTempCrossing die channel temp) s = execStackTempCrossing die channel temp s := rfl
@[simp] theorem exec_stackThermalResponse (die temp) (s : State) :
    exec (.stackThermalResponse die temp) s = execStackThermalResponse die temp s := rfl
@[simp] theorem exec_stackRestart (die cool) (s : State) : exec (.stackRestart die cool) s = execStackRestart die cool s := rfl
@[simp] theorem exec_rowDisturb (die channel bank row requester domain) (s : State) :
    exec (.rowDisturb die channel bank row requester domain) s = execRowDisturb die channel bank row requester domain s := rfl
@[simp] theorem exec_throttleEnd (die requester channel) (s : State) :
    exec (.throttleEnd die requester channel) s = execThrottleEnd die requester channel s := rfl
@[simp] theorem exec_eccCorrect (die offset requester correctable owner) (s : State) :
    exec (.eccCorrect die offset requester correctable owner) s = execEccCorrect die offset requester correctable owner s := rfl
@[simp] theorem exec_patrolScrub (die age) (s : State) : exec (.patrolScrub die age) s = execPatrolScrub die age s := rfl
@[simp] theorem exec_channelRetune (die channel training) (s : State) :
    exec (.channelRetune die channel training) s = execChannelRetune die channel training s := rfl
@[simp] theorem exec_channelRetrain (die channel training lost) (s : State) :
    exec (.channelRetrain die channel training lost) s = execChannelRetrain die channel training lost s := rfl
@[simp] theorem exec_channelRetire (die channel lost) (s : State) :
    exec (.channelRetire die channel lost) s = execChannelRetire die channel lost s := rfl
@[simp] theorem exec_memRetrain (die channel) (s : State) : exec (.memRetrain die channel) s = execMemRetrain die channel s := rfl
@[simp] theorem exec_memRetire (die channel lost) (s : State) : exec (.memRetire die channel lost) s = execMemRetire die channel lost s := rfl
@[simp] theorem exec_memRestart (die cool) (s : State) : exec (.memRestart die cool) s = execMemRestart die cool s := rfl
@[simp] theorem exec_laneOn (lane) (s : State) : exec (.laneOn lane) s = execLaneOn lane s := rfl
@[simp] theorem exec_laneFail (lane los cdrLock) (s : State) : exec (.laneFail lane los cdrLock) s = execLaneFail lane los cdrLock s := rfl
@[simp] theorem exec_commaLock (lane block) (s : State) : exec (.commaLock lane block) s = execCommaLock lane block s := rfl
@[simp] theorem exec_kolkanCellReceive (lane header payload) (s : State) :
    exec (.kolkanCellReceive lane header payload) s = execKolkanCellReceive lane header payload s := rfl
@[simp] theorem exec_controlBlockBad (lane block) (s : State) : exec (.controlBlockBad lane block) s = execControlBlockBad lane block s := rfl
@[simp] theorem exec_flow (lane credits) (s : State) : exec (.flow lane credits) s = execFlow lane credits s := rfl
@[simp] theorem exec_abort (lane cls) (s : State) : exec (.abort lane cls) s = execAbort lane cls s := rfl
@[simp] theorem exec_creditStall (lane cls) (s : State) : exec (.creditStall lane cls) s = execCreditStall lane cls s := rfl
@[simp] theorem exec_status (lane pathOk rxOk) (s : State) : exec (.status lane pathOk rxOk) s = execStatus lane pathOk rxOk s := rfl
@[simp] theorem exec_statusTimeout (lane) (s : State) : exec (.statusTimeout lane) s = execStatusTimeout lane s := rfl
@[simp] theorem exec_statusSend (lane) (s : State) : exec (.statusSend lane) s = execStatusSend lane s := rfl
@[simp] theorem exec_cap (lane block) (s : State) : exec (.cap lane block) s = execCap lane block s := rfl
@[simp] theorem exec_time (lane seq tx rx srcValid master stratum turn) (s : State) :
    exec (.time lane seq tx rx srcValid master stratum turn) s = execTime lane seq tx rx srcValid master stratum turn s := rfl
@[simp] theorem exec_timeEcho (lane seq turn rx) (s : State) : exec (.timeEcho lane seq turn rx) s = execTimeEcho lane seq turn rx s := rfl
@[simp] theorem exec_timeSend (lane tx) (s : State) : exec (.timeSend lane tx) s = execTimeSend lane tx s := rfl
@[simp] theorem exec_flitReplay (die peer ok lost) (s : State) : exec (.flitReplay die peer ok lost) s = execFlitReplay die peer ok lost s := rfl
@[simp] theorem exec_dieLinkIdle (die peer) (s : State) : exec (.dieLinkIdle die peer) s = execDieLinkIdle die peer s := rfl
@[simp] theorem exec_dieLinkWake (die peer) (s : State) : exec (.dieLinkWake die peer) s = execDieLinkWake die peer s := rfl
@[simp] theorem exec_blindFallback (die peer) (s : State) : exec (.blindFallback die peer) s = execBlindFallback die peer s := rfl
@[simp] theorem exec_dieLinkOn (die peer) (s : State) : exec (.dieLinkOn die peer) s = execDieLinkOn die peer s := rfl
@[simp] theorem exec_timeMeasurement (source offset) (s : State) :
    exec (.timeMeasurement source offset) s = execTimeMeasurement source offset s := rfl
@[simp] theorem exec_sourceLost (s : State) : exec (.sourceLost) s = execSourceLost s := rfl
@[simp] theorem exec_timeStep (force) (s : State) : exec (.timeStep force) s = execTimeStep force s := rfl
@[simp] theorem exec_stepApply (s : State) : exec (.stepApply) s = execStepApply s := rfl
@[simp] theorem exec_timeMeasWrite (size value) (s : State) : exec (.timeMeasWrite size value) s = execTimeMeasWrite size value s := rfl
@[simp] theorem exec_ppsEdge (time) (s : State) : exec (.ppsEdge time) s = execPpsEdge time s := rfl
@[simp] theorem exec_todMessage (bytes time) (s : State) : exec (.todMessage bytes time) s = execTodMessage bytes time s := rfl
@[simp] theorem exec_ppsOut (sec) (s : State) : exec (.ppsOut sec) s = execPpsOut sec s := rfl
@[simp] theorem exec_fabTsPop (die) (s : State) : exec (.fabTsPop die) s = execFabTsPop die s := rfl
@[simp] theorem exec_claimLive (s : State) : exec (.claimLive) s = execClaimLive s := rfl
@[simp] theorem exec_claimAbsent (s : State) : exec (.claimAbsent) s = execClaimAbsent s := rfl
@[simp] theorem exec_seize (release) (s : State) : exec (.seize release) s = execSeize release s := rfl
@[simp] theorem exec_settleEnd (s : State) : exec (.settleEnd) s = execSettleEnd s := rfl
@[simp] theorem exec_doubleClaim (s : State) : exec (.doubleClaim) s = execDoubleClaim s := rfl
@[simp] theorem exec_heartbeatSend (tx) (s : State) : exec (.heartbeatSend tx) s = execHeartbeatSend tx s := rfl
@[simp] theorem exec_heartbeat (seq device active t0 echoSeq turn rx) (s : State) :
    exec (.heartbeat seq device active t0 echoSeq turn rx) s = execHeartbeat seq device active t0 echoSeq turn rx s := rfl
@[simp] theorem exec_heartbeatFailure (s : State) : exec (.heartbeatFailure) s = execHeartbeatFailure s := rfl
@[simp] theorem exec_pairHello (digest member pairDevice trees senior device) (s : State) :
    exec (.pairHello digest member pairDevice trees senior device) s = execPairHello digest member pairDevice trees senior device s := rfl
@[simp] theorem exec_pairAccept (s : State) : exec (.pairAccept) s = execPairAccept s := rfl
@[simp] theorem exec_map (tree set frame grants) (s : State) : exec (.map tree set frame grants) s = execMap tree set frame grants s := rfl
@[simp] theorem exec_terminal (records) (s : State) : exec (.terminal records) s = execTerminal records s := rfl
@[simp] theorem exec_circuit (records) (s : State) : exec (.circuit records) s = execCircuit records s := rfl
@[simp] theorem exec_health (received) (s : State) : exec (.health received) s = execHealth received s := rfl
@[simp] theorem exec_autoDegrade (s : State) : exec (.autoDegrade) s = execAutoDegrade s := rfl
@[simp] theorem exec_release (frame) (s : State) : exec (.release frame) s = execRelease frame s := rfl
@[simp] theorem exec_releaseDarken (s : State) : exec (.releaseDarken) s = execReleaseDarken s := rfl
@[simp] theorem exec_calibrate (tree) (s : State) : exec (.calibrate tree) s = execCalibrate tree s := rfl
@[simp] theorem exec_standbyOffsetUpdate (tree) (s : State) : exec (.standbyOffsetUpdate tree) s = execStandbyOffsetUpdate tree s := rfl
@[simp] theorem exec_tweedLoadCheck (die load missed late deferrable) (s : State) :
    exec (.tweedLoadCheck die load missed late deferrable) s = execTweedLoadCheck die load missed late deferrable s := rfl
@[simp] theorem exec_watchdog (die) (s : State) : exec (.watchdog die) s = execWatchdog die s := rfl
@[simp] theorem exec_taskOverrun (die task fault) (s : State) : exec (.taskOverrun die task fault) s = execTaskOverrun die task fault s := rfl
@[simp] theorem exec_doorbell (die slot release) (s : State) : exec (.doorbell die slot release) s = execDoorbell die slot release s := rfl
@[simp] theorem exec_mailboxService (die reply) (s : State) : exec (.mailboxService die reply) s = execMailboxService die reply s := rfl
@[simp] theorem exec_version (die) (s : State) : exec (.version die) s = execVersion die s := rfl
@[simp] theorem exec_rotate (die tied) (s : State) : exec (.rotate die tied) s = execRotate die tied s := rfl
@[simp] theorem exec_rotateCancel (die) (s : State) : exec (.rotateCancel die) s = execRotateCancel die s := rfl
@[simp] theorem exec_extMsg (die reply) (s : State) : exec (.extMsg die reply) s = execExtMsg die reply s := rfl
@[simp] theorem exec_interruptEntry (die firmware late) (s : State) :
    exec (.interruptEntry die firmware late) s = execInterruptEntry die firmware late s := rfl
@[simp] theorem exec_resume (die firmware late) (s : State) : exec (.resume die firmware late) s = execResume die firmware late s := rfl
@[simp] theorem exec_coreWake (die firmware) (s : State) : exec (.coreWake die firmware) s = execCoreWake die firmware s := rfl
@[simp] theorem exec_groupFire (die group) (s : State) : exec (.groupFire die group) s = execGroupFire die group s := rfl
@[simp] theorem exec_swset (die source) (s : State) : exec (.swset die source) s = execSwset die source s := rfl
@[simp] theorem exec_targetWrite (die source host target vector) (s : State) :
    exec (.targetWrite die source host target vector) s = execTargetWrite die source host target vector s := rfl
@[simp] theorem exec_msixDelivery (die) (s : State) : exec (.msixDelivery die) s = execMsixDelivery die s := rfl
@[simp] theorem exec_eoi (die source) (s : State) : exec (.eoi die source) s = execEoi die source s := rfl
@[simp] theorem exec_counterFlush (die counter) (s : State) : exec (.counterFlush die counter) s = execCounterFlush die counter s := rfl
@[simp] theorem exec_perfCntRead (die counter) (s : State) : exec (.perfCntRead die counter) s = execPerfCntRead die counter s := rfl
@[simp] theorem exec_readClear (die counter) (s : State) : exec (.readClear die counter) s = execReadClear die counter s := rfl
@[simp] theorem exec_clear (die counter) (s : State) : exec (.clear die counter) s = execClear die counter s := rfl
@[simp] theorem exec_snapshotArm (s : State) : exec (.snapshotArm) s = execSnapshotArm s := rfl
@[simp] theorem exec_snapshotCancel (s : State) : exec (.snapshotCancel) s = execSnapshotCancel s := rfl
@[simp] theorem exec_snapshotEpoch (s : State) : exec (.snapshotEpoch) s = execSnapshotEpoch s := rfl
@[simp] theorem exec_snapshotDieDone (die copyNs) (s : State) : exec (.snapshotDieDone die copyNs) s = execSnapshotDieDone die copyNs s := rfl
@[simp] theorem exec_traceRecord (die record throttled) (s : State) :
    exec (.traceRecord die record throttled) s = execTraceRecord die record throttled s := rfl
@[simp] theorem exec_bandwidthWindow (die window) (s : State) : exec (.bandwidthWindow die window) s = execBandwidthWindow die window s := rfl
@[simp] theorem exec_sentinelInterval (die readings) (s : State) :
    exec (.sentinelInterval die readings) s = execSentinelInterval die readings s := rfl
@[simp] theorem exec_telemetryRecord (die power skipped) (s : State) :
    exec (.telemetryRecord die power skipped) s = execTelemetryRecord die power skipped s := rfl
@[simp] theorem exec_eventLog (die origin source) (s : State) : exec (.eventLog die origin source) s = execEventLog die origin source s := rfl
@[simp] theorem exec_sramScrub (die uncorrectable) (s : State) : exec (.sramScrub die uncorrectable) s = execSramScrub die uncorrectable s := rfl
@[simp] theorem exec_mramScrub (die flaw) (s : State) : exec (.mramScrub die flaw) s = execMramScrub die flaw s := rfl
@[simp] theorem exec_bgLag (die activity lag) (s : State) : exec (.bgLag die activity lag) s = execBgLag die activity lag s := rfl
@[simp] theorem exec_table (chan desc record tied) (s : State) : exec (.table chan desc record tied) s = execTable chan desc record tied s := rfl
@[simp] theorem exec_stage (chan desc bytes) (s : State) : exec (.stage chan desc bytes) s = execStage chan desc bytes s := rfl
@[simp] theorem exec_devRead (chan desc) (s : State) : exec (.devRead chan desc) s = execDevRead chan desc s := rfl
@[simp] theorem exec_omciTx (chan desc bytes) (s : State) : exec (.omciTx chan desc bytes) s = execOmciTx chan desc bytes s := rfl
@[simp] theorem exec_rxBuffer (chan desc) (s : State) : exec (.rxBuffer chan desc) s = execRxBuffer chan desc s := rfl
@[simp] theorem exec_rxMessage (message at0) (s : State) : exec (.rxMessage message at0) s = execRxMessage message at0 s := rfl
@[simp] theorem exec_dmaError (chan failed) (s : State) : exec (.dmaError chan failed) s = execDmaError chan failed s := rfl
@[simp] theorem exec_bar2Read (who off size) (s : State) : exec (.bar2Read who off size) s = execBar2Read who off size s := rfl
@[simp] theorem exec_bar2Write (who off bytes) (s : State) : exec (.bar2Write who off bytes) s = execBar2Write who off bytes s := rfl
@[simp] theorem exec_coldReset (s : State) : exec (.coldReset) s = execColdReset s := rfl
@[simp] theorem exec_packageReset (cause) (s : State) : exec (.packageReset cause) s = execPackageReset cause s := rfl
@[simp] theorem exec_resetPackage (key) (s : State) : exec (.resetPackage key) s = execResetPackage key s := rfl
@[simp] theorem exec_perst (asserted) (s : State) : exec (.perst asserted) s = execPerst asserted s := rfl
@[simp] theorem exec_hostInterfaceReset (s : State) : exec (.hostInterfaceReset) s = execHostInterfaceReset s := rfl
@[simp] theorem exec_startup (ms untrained) (s : State) : exec (.startup ms untrained) s = execStartup ms untrained s := rfl
@[simp] theorem exec_supplySupervision (vin iin pin) (s : State) :
    exec (.supplySupervision vin iin pin) s = execSupplySupervision vin iin pin s := rfl
@[simp] theorem exec_supplyFault (steps) (s : State) : exec (.supplyFault steps) s = execSupplyFault steps s := rfl
@[simp] theorem exec_governorStep (die request) (s : State) : exec (.governorStep die request) s = execGovernorStep die request s := rfl
@[simp] theorem exec_junctionThermal (die readings package cool) (s : State) :
    exec (.junctionThermal die readings package cool) s = execJunctionThermal die readings package cool s := rfl
@[simp] theorem exec_diePowerDown (die trip) (s : State) : exec (.diePowerDown die trip) s = execDiePowerDown die trip s := rfl
@[simp] theorem exec_dieRestart (die) (s : State) : exec (.dieRestart die) s = execDieRestart die s := rfl
@[simp] theorem exec_muteSuppressionEnd (tree) (s : State) : exec (.muteSuppressionEnd tree) s = execMuteSuppressionEnd tree s := rfl
@[simp] theorem exec_flowSend (lane) (s : State) : exec (.flowSend lane) s = execFlowSend lane s := rfl

end Sys2Proof.Machine
end

