-- ==== Sys2Proof/Laws/Memory.lean ====
section
/-!
SUPPORT. Laws of byte memories: every operation keeps the canonical form, and a read after a write gives what was written there and what it gave
everywhere else.
-/

namespace Sys2Proof.Machine

/-! ### The canonical form -/

theorem Memory.wfFrom_cons (lo : Option Nat) (c : Host.Cell) (m : Memory) :
    Memory.wfFrom lo (c :: m) = true ↔ (∀ l, lo = some l → l < c.1) ∧ c.2 ≠ unlistedByte ∧ Memory.wfFrom (some c.1) m = true := by
  cases lo <;> simp [Memory.wfFrom, and_assoc]

/-- The canonical form, cell by cell: every cell lies above the bound and holds a listed byte, and the rest lies above it. -/
theorem Memory.wfFrom_iff (lo : Option Nat) (m : Memory) :
    Memory.wfFrom lo m = true ↔ (∀ c ∈ m, (∀ l, lo = some l → l < c.1) ∧ c.2 ≠ unlistedByte) ∧ m.Pairwise fun a b => a.1 < b.1 := by
  induction m generalizing lo with
  | nil => simp [Memory.wfFrom]
  | cons c m ih =>
    rw [Memory.wfFrom_cons, ih, List.pairwise_cons]
    constructor
    · rintro ⟨h, n, g, p⟩
      refine ⟨?_, fun b hb => (g b hb).1 c.1 rfl, p⟩
      intro x hx
      rcases List.mem_cons.1 hx with rfl | hx
      · exact ⟨h, n⟩
      · exact ⟨fun l hl => Nat.lt_trans (h l hl) ((g x hx).1 c.1 rfl), (g x hx).2⟩
    · rintro ⟨h, g, p⟩
      refine ⟨(h c (by simp)).1, (h c (by simp)).2, fun x hx => ⟨?_, (h x (by simp [hx])).2⟩, p⟩
      rintro l ⟨⟩
      exact g x hx

theorem Memory.wf_iff (m : Memory) : m.wf = true ↔ (∀ c ∈ m, c.2 ≠ unlistedByte) ∧ m.Pairwise fun a b => a.1 < b.1 := by
  unfold Memory.wf
  rw [Memory.wfFrom_iff]
  simp

/-- One byte written keeps the form. -/
theorem Memory.mem_write (a : Nat) (b : Byte) (m : Memory) (c : Host.Cell) (h : c ∈ m.write a b) : c = (a, b) ∧ b ≠ unlistedByte ∨ c ∈ m := by
  induction m with
  | nil =>
    unfold Memory.write at h
    split at h
    · simp at h
    · rename_i g
      exact .inl ⟨by simpa using h, g⟩
  | cons x m ih =>
    unfold Memory.write at h
    split at h
    · rcases List.mem_cons.1 h with h | h
      · exact .inr (by simp [h])
      · rcases ih h with h | h
        · exact .inl h
        · exact .inr (by simp [h])
    · dsimp only at h
      have keep : ∀ y, y ∈ (if x.1 = a then m else x :: m) → y ∈ x :: m := by
        intro y hy
        split at hy
        · simp [hy]
        · exact hy
      split at h
      · exact .inr (keep c h)
      · rename_i g
        rcases List.mem_cons.1 h with h | h
        · exact .inl ⟨h, g⟩
        · exact .inr (keep c h)

/-- A byte written keeps the canonical form. -/
theorem Memory.write_wf (a : Nat) (b : Byte) (m : Memory) (h : m.wf = true) : (m.write a b).wf = true := by
  rw [Memory.wf_iff] at *
  refine ⟨fun c hc => ?_, ?_⟩
  · rcases Memory.mem_write a b m c hc with ⟨rfl, g⟩ | hc
    · exact g
    · exact h.1 c hc
  · induction m with
    | nil =>
      unfold Memory.write
      split <;> simp
    | cons x m ih =>
      have hx := List.pairwise_cons.1 h.2
      have h' : (∀ c ∈ m, c.2 ≠ unlistedByte) ∧ m.Pairwise fun a b => a.1 < b.1 := ⟨fun c hc => h.1 c (by simp [hc]), hx.2⟩
      unfold Memory.write
      split
      · rename_i g
        rw [List.pairwise_cons]
        refine ⟨fun c hc => ?_, ih h'⟩
        rcases Memory.mem_write a b m c hc with ⟨rfl, _⟩ | hc
        · exact g
        · exact hx.1 c hc
      · rename_i g
        dsimp only
        have rest : (if x.1 = a then m else x :: m).Pairwise fun a b => a.1 < b.1 := by
          split
          · exact hx.2
          · exact h.2
        split
        · exact rest
        · rw [List.pairwise_cons]
          refine ⟨fun c hc => ?_, rest⟩
          split at hc
          · rename_i e
            have := hx.1 c hc
            simp only at *
            omega
          · rename_i e
            rcases List.mem_cons.1 hc with rfl | hc
            · simp only at *
              omega
            · have := hx.1 c hc
              simp only at *
              omega

theorem mem_cellsOf (a : Nat) (bs : List Nat) (c : Host.Cell) (h : c ∈ cellsOf a bs) : a ≤ c.1 ∧ c.1 < a + bs.length ∧ c.2 ≠ unlistedByte := by
  induction bs generalizing a with
  | nil => simp [cellsOf] at h
  | cons b bs ih =>
    unfold cellsOf at h
    split at h
    · have := ih (a + 1) h
      simp only [List.length_cons]
      exact ⟨by omega, by omega, this.2.2⟩
    · rename_i g
      rcases List.mem_cons.1 h with rfl | h
      · simp [g]
      · have := ih (a + 1) h
        simp only [List.length_cons]
        exact ⟨by omega, by omega, this.2.2⟩

theorem cellsOf_rising (a : Nat) (bs : List Nat) : (cellsOf a bs).Pairwise fun x y => x.1 < y.1 := by
  induction bs generalizing a with
  | nil => simp [cellsOf]
  | cons b bs ih =>
    unfold cellsOf
    split
    · exact ih (a + 1)
    · rw [List.pairwise_cons]
      refine ⟨fun c hc => ?_, ih (a + 1)⟩
      have := mem_cellsOf (a + 1) bs c hc
      simp only
      omega

/-- Bytes written keep the canonical form. -/
theorem Memory.writeBytes_wf (m : Memory) (a : Nat) (bs : List Nat) (h : m.wf = true) : (m.writeBytes a bs).wf = true := by
  rw [Memory.wf_iff] at *
  unfold Memory.writeBytes
  constructor
  · intro c hc
    simp only [List.mem_append, List.mem_filter] at hc
    rcases hc with (hc | hc) | hc
    · exact h.1 c hc.1
    · exact (mem_cellsOf a bs c hc).2.2
    · exact h.1 c hc.1
  · rw [List.pairwise_append, List.pairwise_append]
    refine ⟨⟨h.2.filter _, cellsOf_rising a bs, ?_⟩, h.2.filter _, ?_⟩
    · intro x hx y hy
      have hx' := (List.mem_filter.1 hx).2
      have := mem_cellsOf a bs y hy
      simp only [decide_eq_true_eq] at hx'
      omega
    · intro x hx y hy
      have hy' := (List.mem_filter.1 hy).2
      simp only [decide_eq_true_eq] at hy'
      rcases List.mem_append.1 hx with hx | hx
      · have hx' := (List.mem_filter.1 hx).2
        simp only [decide_eq_true_eq] at hx'
        omega
      · have := mem_cellsOf a bs x hx
        omega

/-- The empty memory is canonical. -/
theorem Memory.nil_wf : Memory.wf [] = true := rfl

/-- Dropping cells keeps the canonical form. -/
theorem Memory.filter_wf (m : Memory) (p : Host.Cell → Bool) (h : m.wf = true) : Memory.wf (m.filter p) = true := by
  rw [Memory.wf_iff] at *
  exact ⟨fun c hc => h.1 c (List.mem_filter.1 hc).1, h.2.filter p⟩

/-! ### Reads -/

theorem Memory.read_append (m n : Memory) (a : Nat) (h : ∀ c ∈ m, c.1 ≠ a) : Memory.read (m ++ n) a = Memory.read n a := by
  induction m with
  | nil => rfl
  | cons c m ih =>
    simp only [List.cons_append, Memory.read]
    rw [if_neg (h c (by simp))]
    exact ih fun x hx => h x (by simp [hx])

theorem Memory.read_append_right (m n : Memory) (a : Nat) (h : ∀ c ∈ n, c.1 ≠ a) : Memory.read (m ++ n) a = Memory.read m a := by
  induction m with
  | nil =>
    induction n with
    | nil => rfl
    | cons c n ih =>
      simp only [List.nil_append, Memory.read] at *
      rw [if_neg (h c (by simp))]
      exact ih fun x hx => h x (by simp [hx])
  | cons c m ih =>
    simp only [List.cons_append, Memory.read]
    rw [ih]

theorem Memory.read_filter (m : Memory) (p : Host.Cell → Bool) (a : Nat) (h : ∀ b, p (a, b) = true) : Memory.read (m.filter p) a = Memory.read m a := by
  induction m with
  | nil => rfl
  | cons c m ih =>
    obtain ⟨x, b⟩ := c
    simp only [List.filter_cons]
    split
    · simp only [Memory.read]
      rw [ih]
    · rename_i g
      simp only [Memory.read]
      rw [if_neg (fun e => g (by subst e; exact h b))]
      exact ih

/-- A byte outside the bytes written reads as before. -/
theorem Memory.read_writeBytes_other (m : Memory) (a x : Nat) (bs : List Nat) (h : x < a ∨ a + bs.length ≤ x) :
    (m.writeBytes a bs).read x = m.read x := by
  have cells : ∀ c ∈ cellsOf a bs, c.1 ≠ x := fun c hc => by
    have := mem_cellsOf a bs c hc
    omega
  unfold Memory.writeBytes
  rcases h with h | h
  · rw [Memory.read_append_right _ _ _ (fun c hc => by have := (List.mem_filter.1 hc).2; simp only [decide_eq_true_eq] at this; omega),
      Memory.read_append_right _ _ _ cells, Memory.read_filter _ _ _ (fun _ => by simpa using h)]
  · rw [Memory.read_append _ _ _ (fun c hc => ?_), Memory.read_filter _ _ _ (fun _ => by simpa using h)]
    rcases List.mem_append.1 hc with hc | hc
    · have := (List.mem_filter.1 hc).2
      simp only [decide_eq_true_eq] at this
      omega
    · exact cells c hc

theorem read_cellsOf (a k : Nat) (bs : List Nat) (h : k < bs.length) : Memory.read (cellsOf a bs) (a + k) = BitVec.ofNat 8 (bs.getD k 0) := by
  induction bs generalizing a k with
  | nil => simp at h
  | cons b bs ih =>
    have next : ∀ j, j < bs.length → Memory.read (cellsOf (a + 1) bs) (a + (j + 1)) = BitVec.ofNat 8 (bs.getD j 0) := fun j hj => by
      have := ih (a + 1) j hj
      rwa [show a + 1 + j = a + (j + 1) by omega] at this
    unfold cellsOf
    cases k with
    | zero =>
      split
      · rename_i g
        have none : ∀ c ∈ cellsOf (a + 1) bs, c.1 ≠ a := fun c hc => by
          have := mem_cellsOf (a + 1) bs c hc
          omega
        have e : Memory.read (cellsOf (a + 1) bs) a = unlistedByte := by
          have := Memory.read_append (cellsOf (a + 1) bs) [] a none
          rw [List.append_nil] at this
          rw [this]
          rfl
        simpa using e.trans g.symm
      · simp [Memory.read]
    | succ k =>
      simp only [List.length_cons, Nat.succ_lt_succ_iff] at h
      split
      · simpa using next k h
      · simp only [Memory.read]
        rw [if_neg (by omega)]
        simpa using next k h

/-- A byte among the bytes written reads as what was written. -/
theorem Memory.read_writeBytes_same (m : Memory) (a k : Nat) (bs : List Nat) (h : k < bs.length) :
    (m.writeBytes a bs).read (a + k) = BitVec.ofNat 8 (bs.getD k 0) := by
  unfold Memory.writeBytes
  rw [Memory.read_append_right _ _ _ (fun c hc => by have := (List.mem_filter.1 hc).2; simp only [decide_eq_true_eq] at this; omega),
    Memory.read_append _ _ _ (fun c hc => by have := (List.mem_filter.1 hc).2; simp only [decide_eq_true_eq] at this; omega)]
  exact read_cellsOf a k bs h

end Sys2Proof.Machine
end

