-- ==== Sys2Proof/Laws/Keeps.lean ====
section
/-!
SUPPORT. What every operation of the model keeps, said once: the part's identity and the queue of commands stay, free values are only used up, what has
left the part stays sent, the canonical form stays, and nothing changes but the parts of State and the words of registers and contexts that a set of
bits names. The files `Laws/Keeps<Family>.lean` say of each operation that it keeps these, with the bits it needs.
-/

namespace Sys2Proof.Machine

set_option Elab.async false
set_option linter.all false

/-! ### Sets of what may change, as the bits of a number -/

/-- The bit of a part of State. -/
def Part.bit : Part → Nat
  | .live => 0
  | .sects => 1
  | .latches => 2
  | .chans => 3
  | .loader => 4
  | .slots => 5
  | .slotBad => 6
  | .mram => 7
  | .cores => 8
  | .ctxStore => 9
  | .tweed => 10
  | .rotations => 11
  | .stats => 12
  | .dev => 13
  | .perf => 14
  | .channels => 15
  | .dieStacks => 16
  | .clock => 17
  | .pair => 18
  | .snap => 19
  | .dma => 20
  | .pci => 21
  | .power => 22
  | .supply => 23
  | .bwAcc => 24
  | .sets => 25
  | .trees => 26
  | .terms => 27
  | .allocs => 28
  | .resv => 29
  | .rot => 30
  | .circs => 31
  | .grps => 32
  | .chkSeen => 33
  | .exact => 34
  | .tern => 35
  | .fwd => 36
  | .cache => 37
  | .notes => 38
  | .updates => 39
  | .heldUpdates => 40
  | .lastSeq => 41
  | .seqLocks => 42
  | .dieLocks => 43
  | .touchSent => 44
  | .quotaSaid => 45
  | .ringLost => 46
  | .pendSince => 47
  | .keys => 48
  | .loadedAt => 49
  | .oldBind => 50
  | .switches => 51
  | .xgemIndex => 52
  | .frags => 53
  | .keyFrame => 54
  | .labels => 55
  | .queues => 56
  | .qstat => 57
  | .felt => 58
  | .drain => 59
  | .inbox => 60
  | .laneOut => 61
  | .cellPos => 62
  | .credit => 63
  | .lanes => 64
  | .owed => 65
  | .rxPart => 66
  | .rxReady => 67
  | .oam => 68
  | .replays => 69
  | .ceWaiting => 70
  | .elim => 71
  | .stamps => 72
  | .saidAt => 73
  | .netSec => 74
  | .netFrac => 75
  | .uses => 76
  | .outbox => 77
  | .offers => 78
  | .ageAt => 79
  | .roots => 80

/-- The words of registers and contexts: field numbers without their lowest six bits. -/
def fieldWords : List Nat := [
  0x0, 0x8, 0x18, 0x20, 0x100, 0x108, 0x140, 0x10000, 0x10008, 0x10100, 0x20000, 0x20100, 0x20300, 0x20400, 0x20408, 0x20440, 0x20508, 0x30000,
  0x30008, 0x30010, 0x30018, 0x30020, 0x30028, 0x40000, 0x40008, 0x40010, 0x40018, 0x40020, 0x40100, 0x40300, 0x40400, 0x40440, 0x50008, 0x50100,
  0x51000, 0x51008, 0x51010, 0x51018, 0x54000, 0x58000, 0x58008, 0x60000, 0x60008, 0x60010, 0x1000000, 0x1000008, 0x1000010, 0x1000018, 0x1000100,
  0x1000200, 0x1000300, 0x1000308, 0x1000310, 0x1080000, 0x1080008, 0x1080010, 0x1080018, 0x1080100, 0x1081000, 0x1082000, 0x1082008, 0x1088000,
  0x10c0000, 0x10c0008, 0x10c0010, 0x10c0018, 0x10c0100, 0x10c1000, 0x1100000, 0x1100008, 0x1100010, 0x1100018, 0x1100040, 0x1100100, 0x1100108,
  0x1100110, 0x1100118, 0x1100120, 0x1100200, 0x1100208, 0x1100220, 0x1100280, 0x11002c0, 0x1100300, 0x1100340, 0x1100400, 0x1100408, 0x1100410,
  0x1100418, 0x1100440, 0x1100480, 0x1101000, 0x1102000, 0x1103000, 0x1103008, 0x1110000, 0x1200008, 0x1200010, 0x1200020, 0x1200040, 0x1200080,
  0x1200088, 0x1200100, 0x1200108, 0x1200110, 0x1200118, 0x1200140, 0x1280000, 0x1280008, 0x1280010, 0x1280040, 0x1281000, 0x1283000, 0x1288000,
  0x1300000, 0x1300008, 0x1300040, 0x1300100, 0x1300200, 0x1301000, 0x1380000, 0x1380008, 0x1380010, 0x1380040, 0x1380100, 0x1380200, 0x1380208,
  0x1380300, 0x1380400, 0x1400000, 0x1400008, 0x1400010, 0x1400018, 0x1400100, 0x1408000, 0x1480000, 0x1480008, 0x1480010, 0x1480018, 0x1480040,
  0x1480100, 0x1488000, 0x1500000, 0x1500040, 0x1500100, 0x1500108, 0x1508000, 0x1580000, 0x1580008, 0x1580010, 0x1580040, 0x1580100, 0x1580140,
  0x1580200, 0x1580240, 0x1580300, 0x1580400, 0x1580500, 0x1580600, 0x1588000, 0x1600000, 0x1600008, 0x1600010, 0x1600018, 0x1600020, 0x1600040,
  0x1600100, 0x1600200, 0x1600300, 0x1680000, 0x1680008, 0x1680080, 0x1680800, 0x1680808, 0x1680880, 0x1681000, 0x1681008, 0x1681800, 0x1681808,
  0x1681810, 0x1700000, 0x1700008, 0x1700010, 0x1700018, 0x1700020, 0x1700028, 0x1700030, 0x1700040, 0x1700048, 0x1700050, 0x1700080, 0x1700100,
  0x1701000, 0x1701008, 0x10000000, 0x10000001, 0x10000002, 0x10000004, 0x10000005, 0x10000006, 0x10000007, 0x10001000, 0x10001001, 0x10001002,
  0x10001003, 0x10001004, 0x10002000, 0x10003000, 0x10004000, 0x10004001, 0x10004002, 0x10004003, 0x10004004, 0x10004005, 0x10004006, 0x10005000,
  0x10005001, 0x10005002, 0x10005004, 0x10006000, 0x10006001, 0x10006002, 0x10006003, 0x10007000, 0x10007001, 0x10007002, 0x10007003, 0x10007004,
  0x10007005, 0x10007006, 0x10008000, 0x10008001, 0x10008002, 0x10008003, 0x10008004, 0x10008005, 0x10009000, 0x10009001, 0x10009002, 0x10009003,
  0x1000a005, 0x1000a006, 0x1000a007, 0x1000b000, 0x1000b001, 0x1000c000, 0x1000c001, 0x1000c002, 0x1000c003, 0x1000c005, 0x1000c006]

/-- The bit of the word that a field number lies in. -/
def wordBit (n : Nat) : Nat := 100 + fieldWords.idxOf (n / 64)

/-- Set inclusion carries over. -/
theorem sub_trans {G F R : Nat} (h : G ||| F = F) (hR : F ||| R = R) : G ||| R = R := by
  rw [← hR, ← Nat.or_assoc, h]

/-- A member of a set is one of a larger set. -/
theorem bit_of {M R i : Nat} (h : M.testBit i = true) (hR : M ||| R = R) : R.testBit i = true := by
  rw [← hR, Nat.testBit_or, h, Bool.true_or]

theorem bit_absurd {M R i : Nat} {p : Prop} (h : M.testBit i = true) (hR : M ||| R = R) (n : R.testBit i = false) : p := by
  rw [bit_of h hR] at n
  cases n

/-- The same for the fields of a list. -/
theorem bits_of {M R : Nat} {fs : List Field} {f : Field} (m : f ∈ fs) (h : (fs.all fun f => M.testBit (wordBit f.num)) = true)
    (hR : M ||| R = R) : R.testBit (wordBit f.num) = true := bit_of (List.all_eq_true.1 h f m) hR

/-- What is left without a die meets what all met. -/
theorem all_notOf {α : Type} (d : Nat) (t : Tbl α) (p : α → Bool) (h : (t.all fun e => p e.2) = true) :
    ((notOf d t).all fun e => p e.2) = true := Tbl.all_filter _ _ _ h

/-! ### The relation -/

/-- From `s` to `t` nothing changed that no operation may change, and nothing outside the set `R`. -/
structure Keeps (R : Nat) (s t : State) : Prop where
  ident : t.ident = s.ident
  pending : t.pending = s.pending
  uses : s.uses ≤ t.uses
  sent : s.outbox <+: t.outbox
  canonical : s.canonical = true → t.canonical = true
  parts : ∀ p : Part, R.testBit p.bit = false → t.part p = s.part p
  regs : ∀ k : Key, R.testBit (wordBit k.n) = false → ∀ d, t.regs.get k d = s.regs.get k d

/-- The outcome is a next state, which keeps what `s` holds. -/
def ResultKeeps (R : Nat) (s : State) (r : Result) : Prop := ∃ t, r = .next t ∧ Keeps R s t

theorem Keeps.refl {R : Nat} (s : State) : Keeps R s s :=
  ⟨rfl, rfl, Nat.le_refl _, List.prefix_rfl, id, fun _ _ => rfl, fun _ _ _ => rfl⟩

theorem Keeps.trans {R : Nat} {s t u : State} (h : Keeps R s t) (g : Keeps R t u) : Keeps R s u :=
  ⟨g.ident.trans h.ident, g.pending.trans h.pending, Nat.le_trans h.uses g.uses, h.sent.trans g.sent, fun c => g.canonical (h.canonical c),
    fun p n => (g.parts p n).trans (h.parts p n), fun k n d => (g.regs k n d).trans (h.regs k n d)⟩

theorem ResultKeeps.next {R : Nat} {s t : State} (h : Keeps R s t) : ResultKeeps R s (.next t) := ⟨t, rfl, h⟩

/-- The canonical form depends on five fields. -/
theorem State.canonical_congr {s t : State} (a : t.regs = s.regs) (b : t.live = s.live) (c : t.dev = s.dev) (d : t.slots = s.slots)
    (e : t.loader.staged = s.loader.staged) : t.canonical = s.canonical := by
  unfold State.canonical
  rw [a, b, c, d, e]

/-- The parts of the canonical form. -/
theorem State.canonical_iff (s : State) :
    s.canonical = true ↔ s.regs.sorted = true ∧ s.live.sorted = true ∧ (s.dev.all fun e => e.2.wf) = true ∧ (s.slots.all fun e => e.2.wf) = true
      ∧ s.loader.staged.wf = true := by
  simp [State.canonical, and_assoc]

/-- A change that keeps the part's identity, the queue, the free values and what was sent, and each part of the canonical form. -/
theorem Keeps.step {R : Nat} {s₀ s t : State} (h : Keeps R s₀ s) (a : t.ident = s.ident) (b : t.pending = s.pending) (c : t.uses = s.uses)
    (d : t.outbox = s.outbox) (e : s.regs.sorted = true → t.regs.sorted = true) (f : s.live.sorted = true → t.live.sorted = true)
    (g : (s.dev.all fun e => e.2.wf) = true → (t.dev.all fun e => e.2.wf) = true)
    (i : (s.slots.all fun e => e.2.wf) = true → (t.slots.all fun e => e.2.wf) = true)
    (j : s.loader.staged.wf = true → t.loader.staged.wf = true)
    (r : ∀ k : Key, R.testBit (wordBit k.n) = false → ∀ d, t.regs.get k d = s.regs.get k d)
    (p : ∀ p : Part, R.testBit p.bit = false → t.part p = s.part p) : Keeps R s₀ t := by
  refine ⟨a.trans h.ident, b.trans h.pending, c ▸ h.uses, d ▸ h.sent, fun k => ?_, fun q n => (p q n).trans (h.parts q n),
    fun k n d => (r k n d).trans (h.regs k n d)⟩
  rw [State.canonical_iff] at *
  obtain ⟨k1, k2, k3, k4, k5⟩ := (State.canonical_iff s).1 (h.canonical ((State.canonical_iff s₀).2 k))
  exact ⟨e k1, f k2, g k3, i k4, j k5⟩

/-- A record update that leaves the part's identity, the queue, the free values and what was sent as they are. -/
theorem Keeps.change {R : Nat} {s₀ s : State} {regs live sects latches chans loader slots slotBad mram cores ctxStore tweed rotations stats dev perf channels dieStacks clock pair snap dma pci
    power supply bwAcc sets trees terms allocs resv rot circs grps chkSeen exact tern fwd cache notes updates heldUpdates lastSeq seqLocks dieLocks
    ageAt touchSent quotaSaid ringLost pendSince keys loadedAt roots oldBind switches xgemIndex frags keyFrame labels queues qstat offers felt drain
    inbox laneOut cellPos credit lanes owed rxPart rxReady oam replays ceWaiting elim stamps saidAt netSec netFrac}
    (h : Keeps R s₀ s) (e : s.regs.sorted = true → regs.sorted = true) (f : s.live.sorted = true → live.sorted = true)
    (g : (s.dev.all fun e => e.2.wf) = true → (dev.all fun e => e.2.wf) = true)
    (i : (s.slots.all fun e => e.2.wf) = true → (slots.all fun e => e.2.wf) = true)
    (j : s.loader.staged.wf = true → loader.staged.wf = true)
    (r : ∀ k : Key, R.testBit (wordBit k.n) = false → ∀ d, regs.get k d = s.regs.get k d)
    (p : ∀ p : Part, R.testBit p.bit = false →
      (State.mk s.ident regs live sects latches chans loader slots slotBad mram cores ctxStore tweed rotations stats dev perf channels dieStacks clock pair snap dma
        pci power supply bwAcc sets trees terms allocs resv rot circs grps chkSeen exact tern fwd cache notes updates heldUpdates lastSeq seqLocks
        dieLocks ageAt touchSent quotaSaid ringLost pendSince keys loadedAt roots oldBind switches xgemIndex frags keyFrame labels queues qstat
        offers felt drain inbox laneOut cellPos credit lanes owed rxPart rxReady oam replays ceWaiting elim stamps saidAt netSec netFrac s.uses s.outbox s.pending).part p = s.part p) :
    Keeps R s₀ (State.mk s.ident regs live sects latches chans loader slots slotBad mram cores ctxStore tweed rotations stats dev perf channels dieStacks clock pair snap dma
      pci power supply bwAcc sets trees terms allocs resv rot circs grps chkSeen exact tern fwd cache notes updates heldUpdates lastSeq seqLocks
      dieLocks ageAt touchSent quotaSaid ringLost pendSince keys loadedAt roots oldBind switches xgemIndex frags keyFrame labels queues qstat offers
      felt drain inbox laneOut cellPos credit lanes owed rxPart rxReady oam replays ceWaiting elim stamps saidAt netSec netFrac s.uses s.outbox s.pending) :=
  h.step rfl rfl rfl rfl e f g i j r p

/-! ### One part set -/

theorem Keeps.set_sects {R : Nat} {s₀ s : State} {x : Tbl (List Nat)} (h : Keeps R s₀ s) (b : R.testBit 1 = true) :
    Keeps R s₀ { s with sects := x } :=
  h.change id id id id id (fun _ _ _ => rfl) fun p hp => by cases p <;> first | rfl | (cases b.symm.trans hp)

theorem Keeps.set_latches {R : Nat} {s₀ s : State} {x : Tbl Nat} (h : Keeps R s₀ s) (b : R.testBit 2 = true) :
    Keeps R s₀ { s with latches := x } :=
  h.change id id id id id (fun _ _ _ => rfl) fun p hp => by cases p <;> first | rfl | (cases b.symm.trans hp)

theorem Keeps.set_chans {R : Nat} {s₀ s : State} {x : Tbl Nat} (h : Keeps R s₀ s) (b : R.testBit 3 = true) :
    Keeps R s₀ { s with chans := x } :=
  h.change id id id id id (fun _ _ _ => rfl) fun p hp => by cases p <;> first | rfl | (cases b.symm.trans hp)

theorem Keeps.set_slotBad {R : Nat} {s₀ s : State} {x : Tbl Nat} (h : Keeps R s₀ s) (b : R.testBit 6 = true) :
    Keeps R s₀ { s with slotBad := x } :=
  h.change id id id id id (fun _ _ _ => rfl) fun p hp => by cases p <;> first | rfl | (cases b.symm.trans hp)

theorem Keeps.set_mram {R : Nat} {s₀ s : State} {x : Tbl MramDie} (h : Keeps R s₀ s) (b : R.testBit 7 = true) :
    Keeps R s₀ { s with mram := x } :=
  h.change id id id id id (fun _ _ _ => rfl) fun p hp => by cases p <;> first | rfl | (cases b.symm.trans hp)

theorem Keeps.set_cores {R : Nat} {s₀ s : State} {x : Tbl CoreRegs} (h : Keeps R s₀ s) (b : R.testBit 8 = true) :
    Keeps R s₀ { s with cores := x } :=
  h.change id id id id id (fun _ _ _ => rfl) fun p hp => by cases p <;> first | rfl | (cases b.symm.trans hp)

theorem Keeps.set_ctxStore {R : Nat} {s₀ s : State} {x : Tbl (List Saved)} (h : Keeps R s₀ s) (b : R.testBit 9 = true) :
    Keeps R s₀ { s with ctxStore := x } :=
  h.change id id id id id (fun _ _ _ => rfl) fun p hp => by cases p <;> first | rfl | (cases b.symm.trans hp)

theorem Keeps.set_tweed {R : Nat} {s₀ s : State} {x : Tbl Tweed} (h : Keeps R s₀ s) (b : R.testBit 10 = true) :
    Keeps R s₀ { s with tweed := x } :=
  h.change id id id id id (fun _ _ _ => rfl) fun p hp => by cases p <;> first | rfl | (cases b.symm.trans hp)

theorem Keeps.set_rotations {R : Nat} {s₀ s : State} {x : List Rotation} (h : Keeps R s₀ s) (b : R.testBit 11 = true) :
    Keeps R s₀ { s with rotations := x } :=
  h.change id id id id id (fun _ _ _ => rfl) fun p hp => by cases p <;> first | rfl | (cases b.symm.trans hp)

theorem Keeps.set_stats {R : Nat} {s₀ s : State} {x : Tbl Stat} (h : Keeps R s₀ s) (b : R.testBit 12 = true) :
    Keeps R s₀ { s with stats := x } :=
  h.change id id id id id (fun _ _ _ => rfl) fun p hp => by cases p <;> first | rfl | (cases b.symm.trans hp)

theorem Keeps.set_perf {R : Nat} {s₀ s : State} {x : Tbl Perf} (h : Keeps R s₀ s) (b : R.testBit 14 = true) :
    Keeps R s₀ { s with perf := x } :=
  h.change id id id id id (fun _ _ _ => rfl) fun p hp => by cases p <;> first | rfl | (cases b.symm.trans hp)

theorem Keeps.set_channels {R : Nat} {s₀ s : State} {x : Tbl ChanSt} (h : Keeps R s₀ s) (b : R.testBit 15 = true) :
    Keeps R s₀ { s with channels := x } :=
  h.change id id id id id (fun _ _ _ => rfl) fun p hp => by cases p <;> first | rfl | (cases b.symm.trans hp)

theorem Keeps.set_dieStacks {R : Nat} {s₀ s : State} {x : Tbl StackSt} (h : Keeps R s₀ s) (b : R.testBit 16 = true) :
    Keeps R s₀ { s with dieStacks := x } :=
  h.change id id id id id (fun _ _ _ => rfl) fun p hp => by cases p <;> first | rfl | (cases b.symm.trans hp)

theorem Keeps.set_clock {R : Nat} {s₀ s : State} {x : Clock} (h : Keeps R s₀ s) (b : R.testBit 17 = true) :
    Keeps R s₀ { s with clock := x } :=
  h.change id id id id id (fun _ _ _ => rfl) fun p hp => by cases p <;> first | rfl | (cases b.symm.trans hp)

theorem Keeps.set_pair {R : Nat} {s₀ s : State} {x : Pair} (h : Keeps R s₀ s) (b : R.testBit 18 = true) :
    Keeps R s₀ { s with pair := x } :=
  h.change id id id id id (fun _ _ _ => rfl) fun p hp => by cases p <;> first | rfl | (cases b.symm.trans hp)

theorem Keeps.set_snap {R : Nat} {s₀ s : State} {x : Snap} (h : Keeps R s₀ s) (b : R.testBit 19 = true) :
    Keeps R s₀ { s with snap := x } :=
  h.change id id id id id (fun _ _ _ => rfl) fun p hp => by cases p <;> first | rfl | (cases b.symm.trans hp)

theorem Keeps.set_dma {R : Nat} {s₀ s : State} {x : Tbl (List DmaJob)} (h : Keeps R s₀ s) (b : R.testBit 20 = true) :
    Keeps R s₀ { s with dma := x } :=
  h.change id id id id id (fun _ _ _ => rfl) fun p hp => by cases p <;> first | rfl | (cases b.symm.trans hp)

theorem Keeps.set_pci {R : Nat} {s₀ s : State} {x : Pci} (h : Keeps R s₀ s) (b : R.testBit 21 = true) :
    Keeps R s₀ { s with pci := x } :=
  h.change id id id id id (fun _ _ _ => rfl) fun p hp => by cases p <;> first | rfl | (cases b.symm.trans hp)

theorem Keeps.set_power {R : Nat} {s₀ s : State} {x : Tbl Power} (h : Keeps R s₀ s) (b : R.testBit 22 = true) :
    Keeps R s₀ { s with power := x } :=
  h.change id id id id id (fun _ _ _ => rfl) fun p hp => by cases p <;> first | rfl | (cases b.symm.trans hp)

theorem Keeps.set_supply {R : Nat} {s₀ s : State} {x : Supply} (h : Keeps R s₀ s) (b : R.testBit 23 = true) :
    Keeps R s₀ { s with supply := x } :=
  h.change id id id id id (fun _ _ _ => rfl) fun p hp => by cases p <;> first | rfl | (cases b.symm.trans hp)

theorem Keeps.set_bwAcc {R : Nat} {s₀ s : State} {x : Tbl Nat} (h : Keeps R s₀ s) (b : R.testBit 24 = true) :
    Keeps R s₀ { s with bwAcc := x } :=
  h.change id id id id id (fun _ _ _ => rfl) fun p hp => by cases p <;> first | rfl | (cases b.symm.trans hp)

theorem Keeps.set_sets {R : Nat} {s₀ s : State} {x : Tbl SetSt} (h : Keeps R s₀ s) (b : R.testBit 25 = true) :
    Keeps R s₀ { s with sets := x } :=
  h.change id id id id id (fun _ _ _ => rfl) fun p hp => by cases p <;> first | rfl | (cases b.symm.trans hp)

theorem Keeps.set_trees {R : Nat} {s₀ s : State} {x : Tbl TreeSt} (h : Keeps R s₀ s) (b : R.testBit 26 = true) :
    Keeps R s₀ { s with trees := x } :=
  h.change id id id id id (fun _ _ _ => rfl) fun p hp => by cases p <;> first | rfl | (cases b.symm.trans hp)

theorem Keeps.set_terms {R : Nat} {s₀ s : State} {x : Tbl TermSt} (h : Keeps R s₀ s) (b : R.testBit 27 = true) :
    Keeps R s₀ { s with terms := x } :=
  h.change id id id id id (fun _ _ _ => rfl) fun p hp => by cases p <;> first | rfl | (cases b.symm.trans hp)

theorem Keeps.set_allocs {R : Nat} {s₀ s : State} {x : Tbl AllocSt} (h : Keeps R s₀ s) (b : R.testBit 28 = true) :
    Keeps R s₀ { s with allocs := x } :=
  h.change id id id id id (fun _ _ _ => rfl) fun p hp => by cases p <;> first | rfl | (cases b.symm.trans hp)

theorem Keeps.set_resv {R : Nat} {s₀ s : State} {x : Tbl (List Resv)} (h : Keeps R s₀ s) (b : R.testBit 29 = true) :
    Keeps R s₀ { s with resv := x } :=
  h.change id id id id id (fun _ _ _ => rfl) fun p hp => by cases p <;> first | rfl | (cases b.symm.trans hp)

theorem Keeps.set_rot {R : Nat} {s₀ s : State} {x : Tbl Nat} (h : Keeps R s₀ s) (b : R.testBit 30 = true) :
    Keeps R s₀ { s with rot := x } :=
  h.change id id id id id (fun _ _ _ => rfl) fun p hp => by cases p <;> first | rfl | (cases b.symm.trans hp)

theorem Keeps.set_circs {R : Nat} {s₀ s : State} {x : Tbl CircSt} (h : Keeps R s₀ s) (b : R.testBit 31 = true) :
    Keeps R s₀ { s with circs := x } :=
  h.change id id id id id (fun _ _ _ => rfl) fun p hp => by cases p <;> first | rfl | (cases b.symm.trans hp)

theorem Keeps.set_grps {R : Nat} {s₀ s : State} {x : Tbl GrpSt} (h : Keeps R s₀ s) (b : R.testBit 32 = true) :
    Keeps R s₀ { s with grps := x } :=
  h.change id id id id id (fun _ _ _ => rfl) fun p hp => by cases p <;> first | rfl | (cases b.symm.trans hp)

theorem Keeps.set_chkSeen {R : Nat} {s₀ s : State} {x : Tbl (List Bool)} (h : Keeps R s₀ s) (b : R.testBit 33 = true) :
    Keeps R s₀ { s with chkSeen := x } :=
  h.change id id id id id (fun _ _ _ => rfl) fun p hp => by cases p <;> first | rfl | (cases b.symm.trans hp)

theorem Keeps.set_exact {R : Nat} {s₀ s : State} {x : Tbl (Option ExactRule)} (h : Keeps R s₀ s) (b : R.testBit 34 = true) :
    Keeps R s₀ { s with exact := x } :=
  h.change id id id id id (fun _ _ _ => rfl) fun p hp => by cases p <;> first | rfl | (cases b.symm.trans hp)

theorem Keeps.set_tern {R : Nat} {s₀ s : State} {x : Tbl (Option TernRule)} (h : Keeps R s₀ s) (b : R.testBit 35 = true) :
    Keeps R s₀ { s with tern := x } :=
  h.change id id id id id (fun _ _ _ => rfl) fun p hp => by cases p <;> first | rfl | (cases b.symm.trans hp)

theorem Keeps.set_fwd {R : Nat} {s₀ s : State} {x : Tbl FwdEntry} (h : Keeps R s₀ s) (b : R.testBit 36 = true) :
    Keeps R s₀ { s with fwd := x } :=
  h.change id id id id id (fun _ _ _ => rfl) fun p hp => by cases p <;> first | rfl | (cases b.symm.trans hp)

theorem Keeps.set_cache {R : Nat} {s₀ s : State} {x : Tbl (List Nat)} (h : Keeps R s₀ s) (b : R.testBit 37 = true) :
    Keeps R s₀ { s with cache := x } :=
  h.change id id id id id (fun _ _ _ => rfl) fun p hp => by cases p <;> first | rfl | (cases b.symm.trans hp)

theorem Keeps.set_notes {R : Nat} {s₀ s : State} {x : Tbl Nat} (h : Keeps R s₀ s) (b : R.testBit 38 = true) :
    Keeps R s₀ { s with notes := x } :=
  h.change id id id id id (fun _ _ _ => rfl) fun p hp => by cases p <;> first | rfl | (cases b.symm.trans hp)

theorem Keeps.set_updates {R : Nat} {s₀ s : State} {x : List Update} (h : Keeps R s₀ s) (b : R.testBit 39 = true) :
    Keeps R s₀ { s with updates := x } :=
  h.change id id id id id (fun _ _ _ => rfl) fun p hp => by cases p <;> first | rfl | (cases b.symm.trans hp)

theorem Keeps.set_heldUpdates {R : Nat} {s₀ s : State} {x : List Update} (h : Keeps R s₀ s) (b : R.testBit 40 = true) :
    Keeps R s₀ { s with heldUpdates := x } :=
  h.change id id id id id (fun _ _ _ => rfl) fun p hp => by cases p <;> first | rfl | (cases b.symm.trans hp)

theorem Keeps.set_lastSeq {R : Nat} {s₀ s : State} {x : Nat} (h : Keeps R s₀ s) (b : R.testBit 41 = true) :
    Keeps R s₀ { s with lastSeq := x } :=
  h.change id id id id id (fun _ _ _ => rfl) fun p hp => by cases p <;> first | rfl | (cases b.symm.trans hp)

theorem Keeps.set_seqLocks {R : Nat} {s₀ s : State} {x : List TableLock} (h : Keeps R s₀ s) (b : R.testBit 42 = true) :
    Keeps R s₀ { s with seqLocks := x } :=
  h.change id id id id id (fun _ _ _ => rfl) fun p hp => by cases p <;> first | rfl | (cases b.symm.trans hp)

theorem Keeps.set_dieLocks {R : Nat} {s₀ s : State} {x : Tbl (List TableLock)} (h : Keeps R s₀ s) (b : R.testBit 43 = true) :
    Keeps R s₀ { s with dieLocks := x } :=
  h.change id id id id id (fun _ _ _ => rfl) fun p hp => by cases p <;> first | rfl | (cases b.symm.trans hp)

theorem Keeps.set_touchSent {R : Nat} {s₀ s : State} {x : List Key} (h : Keeps R s₀ s) (b : R.testBit 44 = true) :
    Keeps R s₀ { s with touchSent := x } :=
  h.change id id id id id (fun _ _ _ => rfl) fun p hp => by cases p <;> first | rfl | (cases b.symm.trans hp)

theorem Keeps.set_quotaSaid {R : Nat} {s₀ s : State} {x : Tbl Nat} (h : Keeps R s₀ s) (b : R.testBit 45 = true) :
    Keeps R s₀ { s with quotaSaid := x } :=
  h.change id id id id id (fun _ _ _ => rfl) fun p hp => by cases p <;> first | rfl | (cases b.symm.trans hp)

theorem Keeps.set_ringLost {R : Nat} {s₀ s : State} {x : Nat} (h : Keeps R s₀ s) (b : R.testBit 46 = true) :
    Keeps R s₀ { s with ringLost := x } :=
  h.change id id id id id (fun _ _ _ => rfl) fun p hp => by cases p <;> first | rfl | (cases b.symm.trans hp)

theorem Keeps.set_pendSince {R : Nat} {s₀ s : State} {x : Tbl Nat} (h : Keeps R s₀ s) (b : R.testBit 47 = true) :
    Keeps R s₀ { s with pendSince := x } :=
  h.change id id id id id (fun _ _ _ => rfl) fun p hp => by cases p <;> first | rfl | (cases b.symm.trans hp)

theorem Keeps.set_keys {R : Nat} {s₀ s : State} {x : Tbl (Option Nat)} (h : Keeps R s₀ s) (b : R.testBit 48 = true) :
    Keeps R s₀ { s with keys := x } :=
  h.change id id id id id (fun _ _ _ => rfl) fun p hp => by cases p <;> first | rfl | (cases b.symm.trans hp)

theorem Keeps.set_loadedAt {R : Nat} {s₀ s : State} {x : Tbl Nat} (h : Keeps R s₀ s) (b : R.testBit 49 = true) :
    Keeps R s₀ { s with loadedAt := x } :=
  h.change id id id id id (fun _ _ _ => rfl) fun p hp => by cases p <;> first | rfl | (cases b.symm.trans hp)

theorem Keeps.set_oldBind {R : Nat} {s₀ s : State} {x : Tbl (Option BindWrite)} (h : Keeps R s₀ s) (b : R.testBit 50 = true) :
    Keeps R s₀ { s with oldBind := x } :=
  h.change id id id id id (fun _ _ _ => rfl) fun p hp => by cases p <;> first | rfl | (cases b.symm.trans hp)

theorem Keeps.set_switches {R : Nat} {s₀ s : State} {x : List KeySwitch} (h : Keeps R s₀ s) (b : R.testBit 51 = true) :
    Keeps R s₀ { s with switches := x } :=
  h.change id id id id id (fun _ _ _ => rfl) fun p hp => by cases p <;> first | rfl | (cases b.symm.trans hp)

theorem Keeps.set_xgemIndex {R : Nat} {s₀ s : State} {x : Tbl Nat} (h : Keeps R s₀ s) (b : R.testBit 52 = true) :
    Keeps R s₀ { s with xgemIndex := x } :=
  h.change id id id id id (fun _ _ _ => rfl) fun p hp => by cases p <;> first | rfl | (cases b.symm.trans hp)

theorem Keeps.set_frags {R : Nat} {s₀ s : State} {x : Tbl (Option (List Nat × Bool))} (h : Keeps R s₀ s) (b : R.testBit 53 = true) :
    Keeps R s₀ { s with frags := x } :=
  h.change id id id id id (fun _ _ _ => rfl) fun p hp => by cases p <;> first | rfl | (cases b.symm.trans hp)

theorem Keeps.set_keyFrame {R : Nat} {s₀ s : State} {x : Tbl Nat} (h : Keeps R s₀ s) (b : R.testBit 54 = true) :
    Keeps R s₀ { s with keyFrame := x } :=
  h.change id id id id id (fun _ _ _ => rfl) fun p hp => by cases p <;> first | rfl | (cases b.symm.trans hp)

theorem Keeps.set_labels {R : Nat} {s₀ s : State} {x : Tbl Nat} (h : Keeps R s₀ s) (b : R.testBit 55 = true) :
    Keeps R s₀ { s with labels := x } :=
  h.change id id id id id (fun _ _ _ => rfl) fun p hp => by cases p <;> first | rfl | (cases b.symm.trans hp)

theorem Keeps.set_queues {R : Nat} {s₀ s : State} {x : Tbl (List Frame)} (h : Keeps R s₀ s) (b : R.testBit 56 = true) :
    Keeps R s₀ { s with queues := x } :=
  h.change id id id id id (fun _ _ _ => rfl) fun p hp => by cases p <;> first | rfl | (cases b.symm.trans hp)

theorem Keeps.set_qstat {R : Nat} {s₀ s : State} {x : Tbl QueueSt} (h : Keeps R s₀ s) (b : R.testBit 57 = true) :
    Keeps R s₀ { s with qstat := x } :=
  h.change id id id id id (fun _ _ _ => rfl) fun p hp => by cases p <;> first | rfl | (cases b.symm.trans hp)

theorem Keeps.set_felt {R : Nat} {s₀ s : State} {x : Tbl (List Frame)} (h : Keeps R s₀ s) (b : R.testBit 58 = true) :
    Keeps R s₀ { s with felt := x } :=
  h.change id id id id id (fun _ _ _ => rfl) fun p hp => by cases p <;> first | rfl | (cases b.symm.trans hp)

theorem Keeps.set_drain {R : Nat} {s₀ s : State} {x : Tbl DrainSt} (h : Keeps R s₀ s) (b : R.testBit 59 = true) :
    Keeps R s₀ { s with drain := x } :=
  h.change id id id id id (fun _ _ _ => rfl) fun p hp => by cases p <;> first | rfl | (cases b.symm.trans hp)

theorem Keeps.set_inbox {R : Nat} {s₀ s : State} {x : Tbl (List Frame)} (h : Keeps R s₀ s) (b : R.testBit 60 = true) :
    Keeps R s₀ { s with inbox := x } :=
  h.change id id id id id (fun _ _ _ => rfl) fun p hp => by cases p <;> first | rfl | (cases b.symm.trans hp)

theorem Keeps.set_laneOut {R : Nat} {s₀ s : State} {x : Tbl (List Frame)} (h : Keeps R s₀ s) (b : R.testBit 61 = true) :
    Keeps R s₀ { s with laneOut := x } :=
  h.change id id id id id (fun _ _ _ => rfl) fun p hp => by cases p <;> first | rfl | (cases b.symm.trans hp)

theorem Keeps.set_cellPos {R : Nat} {s₀ s : State} {x : Tbl Nat} (h : Keeps R s₀ s) (b : R.testBit 62 = true) :
    Keeps R s₀ { s with cellPos := x } :=
  h.change id id id id id (fun _ _ _ => rfl) fun p hp => by cases p <;> first | rfl | (cases b.symm.trans hp)

theorem Keeps.set_credit {R : Nat} {s₀ s : State} {x : Tbl Nat} (h : Keeps R s₀ s) (b : R.testBit 63 = true) :
    Keeps R s₀ { s with credit := x } :=
  h.change id id id id id (fun _ _ _ => rfl) fun p hp => by cases p <;> first | rfl | (cases b.symm.trans hp)

theorem Keeps.set_lanes {R : Nat} {s₀ s : State} {x : Tbl LaneSt} (h : Keeps R s₀ s) (b : R.testBit 64 = true) :
    Keeps R s₀ { s with lanes := x } :=
  h.change id id id id id (fun _ _ _ => rfl) fun p hp => by cases p <;> first | rfl | (cases b.symm.trans hp)

theorem Keeps.set_owed {R : Nat} {s₀ s : State} {x : Tbl Nat} (h : Keeps R s₀ s) (b : R.testBit 65 = true) :
    Keeps R s₀ { s with owed := x } :=
  h.change id id id id id (fun _ _ _ => rfl) fun p hp => by cases p <;> first | rfl | (cases b.symm.trans hp)

theorem Keeps.set_rxPart {R : Nat} {s₀ s : State} {x : Tbl (Option RxPart)} (h : Keeps R s₀ s) (b : R.testBit 66 = true) :
    Keeps R s₀ { s with rxPart := x } :=
  h.change id id id id id (fun _ _ _ => rfl) fun p hp => by cases p <;> first | rfl | (cases b.symm.trans hp)

theorem Keeps.set_rxReady {R : Nat} {s₀ s : State} {x : Tbl (List RxReady)} (h : Keeps R s₀ s) (b : R.testBit 67 = true) :
    Keeps R s₀ { s with rxReady := x } :=
  h.change id id id id id (fun _ _ _ => rfl) fun p hp => by cases p <;> first | rfl | (cases b.symm.trans hp)

theorem Keeps.set_oam {R : Nat} {s₀ s : State} {x : List OamMsg} (h : Keeps R s₀ s) (b : R.testBit 68 = true) :
    Keeps R s₀ { s with oam := x } :=
  h.change id id id id id (fun _ _ _ => rfl) fun p hp => by cases p <;> first | rfl | (cases b.symm.trans hp)

theorem Keeps.set_replays {R : Nat} {s₀ s : State} {x : Tbl Nat} (h : Keeps R s₀ s) (b : R.testBit 69 = true) :
    Keeps R s₀ { s with replays := x } :=
  h.change id id id id id (fun _ _ _ => rfl) fun p hp => by cases p <;> first | rfl | (cases b.symm.trans hp)

theorem Keeps.set_ceWaiting {R : Nat} {s₀ s : State} {x : Tbl (List CePkt)} (h : Keeps R s₀ s) (b : R.testBit 70 = true) :
    Keeps R s₀ { s with ceWaiting := x } :=
  h.change id id id id id (fun _ _ _ => rfl) fun p hp => by cases p <;> first | rfl | (cases b.symm.trans hp)

theorem Keeps.set_elim {R : Nat} {s₀ s : State} {x : Tbl (List ElimEnt)} (h : Keeps R s₀ s) (b : R.testBit 71 = true) :
    Keeps R s₀ { s with elim := x } :=
  h.change id id id id id (fun _ _ _ => rfl) fun p hp => by cases p <;> first | rfl | (cases b.symm.trans hp)

theorem Keeps.set_stamps {R : Nat} {s₀ s : State} {x : Tbl (List TxStamp)} (h : Keeps R s₀ s) (b : R.testBit 72 = true) :
    Keeps R s₀ { s with stamps := x } :=
  h.change id id id id id (fun _ _ _ => rfl) fun p hp => by cases p <;> first | rfl | (cases b.symm.trans hp)

theorem Keeps.set_saidAt {R : Nat} {s₀ s : State} {x : Tbl Nat} (h : Keeps R s₀ s) (b : R.testBit 73 = true) :
    Keeps R s₀ { s with saidAt := x } :=
  h.change id id id id id (fun _ _ _ => rfl) fun p hp => by cases p <;> first | rfl | (cases b.symm.trans hp)

theorem Keeps.set_netSec {R : Nat} {s₀ s : State} {x : Nat} (h : Keeps R s₀ s) (b : R.testBit 74 = true) :
    Keeps R s₀ { s with netSec := x } :=
  h.change id id id id id (fun _ _ _ => rfl) fun p hp => by cases p <;> first | rfl | (cases b.symm.trans hp)

theorem Keeps.set_netFrac {R : Nat} {s₀ s : State} {x : Nat} (h : Keeps R s₀ s) (b : R.testBit 75 = true) :
    Keeps R s₀ { s with netFrac := x } :=
  h.change id id id id id (fun _ _ _ => rfl) fun p hp => by cases p <;> first | rfl | (cases b.symm.trans hp)

theorem Keeps.set_offers {R : Nat} {s₀ s : State} {x : Tbl (Option (Nat × Nat))} (h : Keeps R s₀ s) (b : R.testBit 78 = true) :
    Keeps R s₀ { s with offers := x } :=
  h.change id id id id id (fun _ _ _ => rfl) fun p hp => by cases p <;> first | rfl | (cases b.symm.trans hp)

theorem Keeps.set_ageAt {R : Nat} {s₀ s : State} {x : Nat} (h : Keeps R s₀ s) (b : R.testBit 79 = true) :
    Keeps R s₀ { s with ageAt := x } :=
  h.change id id id id id (fun _ _ _ => rfl) fun p hp => by cases p <;> first | rfl | (cases b.symm.trans hp)

theorem Keeps.set_roots {R : Nat} {s₀ s : State} {x : Tbl Nat} (h : Keeps R s₀ s) (b : R.testBit 80 = true) :
    Keeps R s₀ { s with roots := x } :=
  h.change id id id id id (fun _ _ _ => rfl) fun p hp => by cases p <;> first | rfl | (cases b.symm.trans hp)

/-- A change done for each element of a list. -/
theorem Keeps.foldl {R : Nat} {α : Type} {s₀ s : State} {f : State → α → State} {l : List α} (h : Keeps R s₀ s)
    (hf : ∀ s x, Keeps R s₀ s → Keeps R s₀ (f s x)) : Keeps R s₀ (l.foldl f s) := by
  induction l generalizing s with
  | nil => exact h
  | cons a l ih => exact ih (hf _ _ h)

/-- The same where the change may need that the element is of the list. -/
theorem Keeps.foldl_mem {R : Nat} {α : Type} {s₀ s : State} {f : State → α → State} {l : List α} (h : Keeps R s₀ s)
    (hf : ∀ s, ∀ x ∈ l, Keeps R s₀ s → Keeps R s₀ (f s x)) : Keeps R s₀ (l.foldl f s) := by
  induction l generalizing s with
  | nil => exact h
  | cons a l ih => exact ih (hf _ _ (List.mem_cons_self ..) h) fun s x m k => hf s x (List.mem_cons_of_mem _ m) k

/-- The same for a pair whose second part is the state. -/
theorem Keeps.foldl_snd {R : Nat} {α β : Type} {s₀ : State} {f : β × State → α → β × State} {l : List α} {a : β × State} (h : Keeps R s₀ a.2)
    (hf : ∀ a x, Keeps R s₀ a.2 → Keeps R s₀ (f a x).2) : Keeps R s₀ (l.foldl f a).2 := by
  induction l generalizing a with
  | nil => exact h
  | cons x l ih => exact ih (hf _ _ h)

/-- The same for a pair whose first part is the state. -/
theorem Keeps.foldl_fst {R : Nat} {α β : Type} {s₀ : State} {f : State × β → α → State × β} {l : List α} {a : State × β} (h : Keeps R s₀ a.1)
    (hf : ∀ a x, Keeps R s₀ a.1 → Keeps R s₀ (f a x).1) : Keeps R s₀ (l.foldl f a).1 := by
  induction l generalizing a with
  | nil => exact h
  | cons x l ih => exact ih (hf _ _ h)

/-- The same for a map being built. -/
theorem Keeps.foldl_build {R : Nat} {α : Type} {s₀ : State} {f : Build → α → Build} {l : List α} {b : Build} (h : Keeps R s₀ b.st)
    (hf : ∀ b x, Keeps R s₀ b.st → Keeps R s₀ (f b x).st) : Keeps R s₀ (l.foldl f b).st := by
  induction l generalizing b with
  | nil => exact h
  | cons x l ih => exact ih (hf _ _ h)

/-- A change done for each element of a list, from its end. -/
theorem Keeps.foldr {R : Nat} {α : Type} {s₀ s : State} {f : α → State → State} {l : List α} (h : Keeps R s₀ s)
    (hf : ∀ x s, Keeps R s₀ s → Keeps R s₀ (f x s)) : Keeps R s₀ (l.foldr f s) := by
  induction l with
  | nil => exact h
  | cons a l ih => exact hf _ _ ih

/-! ### Changes of the table of fields -/

/-- A write of one field leaves the keys of other words as they were. -/
theorem regs_set_other {R n i c v : Nat} {t : Tbl Nat} (h : R.testBit (wordBit n) = true) (k : Key) (m : R.testBit (wordBit k.n) = false)
    (d : Nat) : (t.set ⟨n, i⟩ c v).get k d = t.get k d := by
  refine Tbl.get_set_other _ _ _ _ _ _ fun e => ?_
  rw [e, h] at m
  cases m

/-- A filter that only takes keys of words of the set away leaves the others as they were. -/
theorem regs_filter_other {R : Nat} {t : Tbl Nat} {p : Key × Nat → Bool} (h : ∀ e : Key × Nat, R.testBit (wordBit e.1.n) = false → p e = true)
    (k : Key) (m : R.testBit (wordBit k.n) = false) (d : Nat) : Tbl.get (t.filter p) k d = t.get k d :=
  Tbl.get_filter_other t k d p fun v => h (k, v) m

/-- Where no field of a list has the number of a key, a search of the list finds none. -/
theorem any_num_of {M R : Nat} {fs : List Field} {n : Nat} (h : (fs.all fun f => M.testBit (wordBit f.num)) = true) (hR : M ||| R = R)
    (m : R.testBit (wordBit n) = false) : (fs.any fun f => f.num == n) = false := by
  rw [List.any_eq_false]
  intro f hf e
  have g := bits_of hf h hR
  rw [eq_of_beq e, m] at g
  cases g

/-- A key outside the set is none of a field in it. -/
theorem num_ne_of {M R n f : Nat} (h : M.testBit (wordBit f) = true) (hR : M ||| R = R) (m : R.testBit (wordBit n) = false) :
    (n == f) = false := by
  refine beq_false_of_ne fun e => ?_
  rw [e, bit_of h hR] at m
  cases m

/-- The set of every word. -/
theorem bit_all {R : Nat} (hR : 0xfffffffffffffffffffffffffffffffffffffffffffffffffffffffffffffffffffffffffff0000000000000000000000000 ||| R = R) (n : Nat) :
    R.testBit (wordBit n) = true := by
  have h : fieldWords.idxOf (n / 64) ≤ fieldWords.length := List.idxOf_le_length
  have l : fieldWords.length ≤ 299 := by decide +kernel
  have e : ∀ i < 300, Nat.testBit 0xfffffffffffffffffffffffffffffffffffffffffffffffffffffffffffffffffffffffffff0000000000000000000000000 (100 + i) = true := by
    decide +kernel
  exact bit_of (e _ (Nat.lt_of_le_of_lt h (Nat.lt_succ_of_le l))) hR

/-- The whole table may change under the set of every word. -/
theorem regs_all {R : Nat} {p : Prop} (hR : 0xfffffffffffffffffffffffffffffffffffffffffffffffffffffffffffffffffffffffffff0000000000000000000000000 ||| R = R)
    (k : Key) (m : R.testBit (wordBit k.n) = false) : p := by
  rw [bit_all hR] at m
  cases m

/-- The fields of a list lie in the set. -/
theorem all_bits_of {M R : Nat} {fs : List Field} (h : (fs.all fun f => M.testBit (wordBit f.num)) = true) (hR : M ||| R = R) :
    (fs.all fun f => R.testBit (wordBit f.num)) = true := List.all_eq_true.2 fun _ m => bits_of m h hR

/-- The same for the registers of a list. -/
theorem desc_bits_of {M R : Nat} {rs : List RegDesc} {r : RegDesc} (m : r ∈ rs)
    (h : (rs.all fun r => r.fields.all fun f => M.testBit (wordBit f.num)) = true) (hR : M ||| R = R) :
    (r.fields.all fun f => R.testBit (wordBit f.num)) = true := all_bits_of (List.all_eq_true.1 h r m) hR

end Sys2Proof.Machine
end

