-- ==== Sys2Proof/Laws/KeepsOps.lean ====
section
/-!
SUPPORT. Every operation of Machine/Ops.lean keeps what `Keeps` names.
-/

namespace Sys2Proof.Machine

set_option Elab.async false
set_option linter.all false

theorem State.put_keeps {R : Nat} {s₀ s : State} (f : Field) (i v : Nat) (_hR : 0x0 ||| R = R) (hf : R.testBit (wordBit f.num) = true)
    (h : Keeps R s₀ s) : Keeps R s₀ (s.put f i v) :=
  h.step rfl rfl rfl rfl (fun g => Tbl.sorted_set _ _ _ _ g) id id id id (fun k m d => regs_set_other hf k m d)
    (by intro p _; cases p <;> rfl)

theorem State.putFlag_keeps {R : Nat} {s₀ : State} {s : State} (f : Field) (i : Nat) (b : Bool)
    (hR : 0x0 ||| R = R) (hf : R.testBit (wordBit f.num) = true)
    (hk : Keeps R s₀ s) : Keeps R s₀ (State.putFlag f i b s) := by
  unfold State.putFlag
  try dsimp only
  with_reducible
    repeat' first
      | assumption | exact sub_trans (by decide +kernel) hR | exact bit_of (by decide +kernel) hR | apply State.put_keeps | split | intro _
      | dsimp only

theorem State.addSat_keeps {R : Nat} {s₀ : State} {s : State} (f : Field) (i n : Nat)
    (hR : 0x0 ||| R = R) (hf : R.testBit (wordBit f.num) = true)
    (hk : Keeps R s₀ s) : Keeps R s₀ (State.addSat f i n s) := by
  unfold State.addSat
  try dsimp only
  with_reducible
    repeat' first
      | assumption | exact sub_trans (by decide +kernel) hR | exact bit_of (by decide +kernel) hR | apply State.put_keeps | split | intro _
      | dsimp only

theorem State.addWrap_keeps {R : Nat} {s₀ : State} {s : State} (f : Field) (i n : Nat)
    (hR : 0x0 ||| R = R) (hf : R.testBit (wordBit f.num) = true)
    (hk : Keeps R s₀ s) : Keeps R s₀ (State.addWrap f i n s) := by
  unfold State.addWrap
  try dsimp only
  with_reducible
    repeat' first
      | assumption | exact sub_trans (by decide +kernel) hR | exact bit_of (by decide +kernel) hR | apply State.put_keeps | split | intro _
      | dsimp only

theorem State.putBit_keeps {R : Nat} {s₀ : State} {s : State} (f : Field) (i k : Nat)
    (hR : 0x0 ||| R = R) (hf : R.testBit (wordBit f.num) = true)
    (hk : Keeps R s₀ s) : Keeps R s₀ (State.putBit f i k s) := by
  unfold State.putBit
  try dsimp only
  with_reducible
    repeat' first
      | assumption | exact sub_trans (by decide +kernel) hR | exact bit_of (by decide +kernel) hR | apply State.put_keeps | split | intro _
      | dsimp only

theorem State.clearField_keeps {R : Nat} {s₀ s : State} (f : Field) (_hR : 0x0 ||| R = R) (hf : R.testBit (wordBit f.num) = true)
    (h : Keeps R s₀ s) : Keeps R s₀ (s.clearField f) :=
  h.step rfl rfl rfl rfl (fun g => Tbl.sorted_filter _ _ g) id id id id
    (regs_filter_other fun e m => by
      refine decide_eq_true fun q => ?_
      rw [q, hf] at m
      cases m)
    (by intro p _; cases p <;> rfl)

theorem State.clearRec_keeps {R : Nat} {s₀ s : State} (fs : List Field) (i : Nat) (_hR : 0x0 ||| R = R)
    (hf : (fs.all fun f => R.testBit (wordBit f.num)) = true) (h : Keeps R s₀ s) : Keeps R s₀ (s.clearRec fs i) :=
  h.step rfl rfl rfl rfl (fun g => Tbl.sorted_filter _ _ g) id id id id
    (regs_filter_other fun e m => by
      rw [any_num_of hf (Nat.or_self R) m, Bool.and_false]
      rfl)
    (by intro p _; cases p <;> rfl)

theorem State.unpackRec_keeps {R : Nat} {s₀ : State} {s : State} (fs : List Field) (i v : Nat)
    (hR : 0x0 ||| R = R) (hf : (fs.all fun f => R.testBit (wordBit f.num)) = true)
    (hk : Keeps R s₀ s) : Keeps R s₀ (State.unpackRec fs i v s) := by
  unfold State.unpackRec
  try dsimp only
  with_reducible
    repeat' first
      | assumption | exact sub_trans (by decide +kernel) hR | exact bit_of (by decide +kernel) hR
      | exact bits_of (by assumption) (by decide +kernel) hR | exact desc_bits_of (by assumption) (by decide +kernel) hR
      | exact bits_of (by assumption) (by assumption) (Nat.or_self _) | apply State.put_keeps | apply Keeps.foldl_mem | apply Keeps.foldl_snd
      | apply Keeps.foldl_fst | apply Keeps.foldl_build | split | intro _ | dsimp only

theorem State.bump_keeps {R : Nat} {s₀ s : State} (c : Field) (i n : Nat) (hR : 0x1 ||| R = R)
    (h : Keeps R s₀ s) : Keeps R s₀ (s.bump c i n) :=
  h.step rfl rfl rfl rfl id (fun g => Tbl.sorted_set _ _ _ _ g) id id id (fun _ _ _ => rfl)
    (by intro p hp; cases p <;> first | rfl | exact bit_absurd (by decide +kernel) hR hp)

theorem State.useFree_keeps {R : Nat} {s₀ s : State} (hR : 0x10000000000000000000 ||| R = R) (h : Keeps R s₀ s) : Keeps R s₀ s.useFree :=
  ⟨h.ident, h.pending, Nat.le_succ_of_le h.uses, h.sent, h.canonical,
    fun p hp => by rw [← h.parts p hp]; cases p <;> first | rfl | exact bit_absurd (by decide +kernel) hR hp, h.regs⟩

theorem State.emit_keeps {R : Nat} {s₀ s : State} (o : Sent) (hR : 0x20000000000000000000 ||| R = R) (h : Keeps R s₀ s) : Keeps R s₀ (s.emit o) :=
  ⟨h.ident, h.pending, h.uses, h.sent.trans (List.prefix_append _ _), h.canonical,
    fun p hp => by rw [← h.parts p hp]; cases p <;> first | rfl | exact bit_absurd (by decide +kernel) hR hp, h.regs⟩

theorem State.emitAll_keeps {R : Nat} {s₀ s : State} (os : List Sent) (hR : 0x20000000000000000000 ||| R = R) (h : Keeps R s₀ s) : Keeps R s₀ (s.emitAll os) :=
  ⟨h.ident, h.pending, h.uses, h.sent.trans (List.prefix_append _ _), h.canonical,
    fun p hp => by rw [← h.parts p hp]; cases p <;> first | rfl | exact bit_absurd (by decide +kernel) hR hp, h.regs⟩

theorem State.modLane_keeps {R : Nat} {s₀ : State} {s : State} (l : Nat) (f : LaneSt → LaneSt)
    (hR : 0x10000000000000000 ||| R = R)
    (hk : Keeps R s₀ s) : Keeps R s₀ (State.modLane l f s) := by
  unfold State.modLane
  try dsimp only
  with_reducible
    repeat' first
      | assumption | exact sub_trans (by decide +kernel) hR | exact bit_of (by decide +kernel) hR | exact id | exact fun _ => rfl
      | exact fun _ _ _ => rfl | split | (with_unfolding_all (intro p hp; cases p <;> first | rfl | exact bit_absurd (by decide +kernel) hR hp))
      | intro _ | dsimp only | apply Keeps.set_lanes | apply Keeps.change

theorem State.onLane_keeps {R : Nat} {s₀ : State} {s : State} (l : Nat) (o : Sent) (blocks : List (Bool × Nat))
    (hR : 0x20010000000000000000 ||| R = R)
    (hk : Keeps R s₀ s) : Keeps R s₀ (State.onLane l o blocks s) := by
  unfold State.onLane
  try dsimp only
  with_reducible
    repeat' first
      | assumption | exact sub_trans (by decide +kernel) hR | apply State.emit_keeps | apply State.emitAll_keeps | apply State.modLane_keeps | split
      | intro _ | dsimp only

theorem State.sendControl_keeps {R : Nat} {s₀ : State} {s : State} (l v : Nat)
    (hR : 0x20010000000000000000 ||| R = R)
    (hk : Keeps R s₀ s) : Keeps R s₀ (State.sendControl l v s) := by
  unfold State.sendControl
  try dsimp only
  with_reducible repeat' first | assumption | exact sub_trans (by decide +kernel) hR | apply State.onLane_keeps | split | intro _ | dsimp only

theorem State.raise_keeps {R : Nat} {s₀ : State} {s : State} (d src : Nat)
    (hR : 0x30000000000000000000000000000000000000000 ||| R = R)
    (hk : Keeps R s₀ s) : Keeps R s₀ (State.raise d src s) := by
  unfold State.raise
  try dsimp only
  with_reducible
    repeat' first
      | assumption | exact sub_trans (by decide +kernel) hR | exact bit_of (by decide +kernel) hR | apply State.put_keeps | apply State.addSat_keeps
      | split | intro _ | dsimp only

theorem State.raisePkg_keeps {R : Nat} {s₀ : State} {s : State} (src : Nat)
    (hR : 0x30000000000000000000000000000000000000000 ||| R = R)
    (hk : Keeps R s₀ s) : Keeps R s₀ (State.raisePkg src s) := by
  unfold State.raisePkg
  try dsimp only
  with_reducible
    repeat' first
      | assumption | exact sub_trans (by decide +kernel) hR | apply State.raise_keeps | apply Keeps.foldl | apply Keeps.foldl_snd
      | apply Keeps.foldl_fst | apply Keeps.foldl_build | split | intro _ | dsimp only

theorem State.raiseTree_keeps {R : Nat} {s₀ : State} {s : State} (tree k : Nat)
    (hR : 0x30000000000000000000000000000000000000000 ||| R = R)
    (hk : Keeps R s₀ s) : Keeps R s₀ (State.raiseTree tree k s) := by
  unfold State.raiseTree
  try dsimp only
  with_reducible repeat' first | assumption | exact sub_trans (by decide +kernel) hR | apply State.raise_keeps | split | intro _ | dsimp only

theorem State.fwEvent_keeps {R : Nat} {s₀ : State} {s : State} (off bar : Nat) (write : Bool) (source : Nat)
    (hR : 0x30000000000010000000000000000000000000000 ||| R = R)
    (hk : Keeps R s₀ s) : Keeps R s₀ (State.fwEvent off bar write source s) := by
  unfold State.fwEvent
  try dsimp only
  with_reducible
    repeat' first
      | assumption | exact sub_trans (by decide +kernel) hR | exact bit_of (by decide +kernel) hR | apply State.put_keeps | apply State.putFlag_keeps
      | apply State.addSat_keeps | apply State.raisePkg_keeps | split | intro _ | dsimp only

theorem State.unmapped_keeps {R : Nat} {s₀ : State} {s : State} (off bar : Nat) (write : Bool)
    (hR : 0x30000001000000000000000000000000000000000 ||| R = R)
    (hk : Keeps R s₀ s) : Keeps R s₀ (State.unmapped off bar write s) := by
  unfold State.unmapped
  try dsimp only
  with_reducible
    repeat' first
      | assumption | exact sub_trans (by decide +kernel) hR | exact bit_of (by decide +kernel) hR | apply State.put_keeps | apply State.putFlag_keeps
      | apply State.addSat_keeps | apply State.raisePkg_keeps | split | intro _ | dsimp only

theorem State.modSet_keeps {R : Nat} {s₀ : State} {s : State} (tree k : Nat) (f : SetSt → SetSt)
    (hR : 0x2000000 ||| R = R)
    (hk : Keeps R s₀ s) : Keeps R s₀ (State.modSet tree k f s) := by
  unfold State.modSet
  try dsimp only
  with_reducible
    repeat' first
      | assumption | exact sub_trans (by decide +kernel) hR | exact bit_of (by decide +kernel) hR | exact id | exact fun _ => rfl
      | exact fun _ _ _ => rfl | split | (with_unfolding_all (intro p hp; cases p <;> first | rfl | exact bit_absurd (by decide +kernel) hR hp))
      | intro _ | dsimp only | apply Keeps.set_sets | apply Keeps.change

theorem State.modTree_keeps {R : Nat} {s₀ : State} {s : State} (t : Nat) (f : TreeSt → TreeSt)
    (hR : 0x4000000 ||| R = R)
    (hk : Keeps R s₀ s) : Keeps R s₀ (State.modTree t f s) := by
  unfold State.modTree
  try dsimp only
  with_reducible
    repeat' first
      | assumption | exact sub_trans (by decide +kernel) hR | exact bit_of (by decide +kernel) hR | exact id | exact fun _ => rfl
      | exact fun _ _ _ => rfl | split | (with_unfolding_all (intro p hp; cases p <;> first | rfl | exact bit_absurd (by decide +kernel) hR hp))
      | intro _ | dsimp only | apply Keeps.set_trees | apply Keeps.change

theorem State.modTerm_keeps {R : Nat} {s₀ : State} {s : State} (t n : Nat) (f : TermSt → TermSt)
    (hR : 0x8000000 ||| R = R)
    (hk : Keeps R s₀ s) : Keeps R s₀ (State.modTerm t n f s) := by
  unfold State.modTerm
  try dsimp only
  with_reducible
    repeat' first
      | assumption | exact sub_trans (by decide +kernel) hR | exact bit_of (by decide +kernel) hR | exact id | exact fun _ => rfl
      | exact fun _ _ _ => rfl | split | (with_unfolding_all (intro p hp; cases p <;> first | rfl | exact bit_absurd (by decide +kernel) hR hp))
      | intro _ | dsimp only | apply Keeps.set_terms | apply Keeps.change

theorem State.modTweed_keeps {R : Nat} {s₀ : State} {s : State} (d : Nat) (f : Tweed → Tweed)
    (hR : 0x400 ||| R = R)
    (hk : Keeps R s₀ s) : Keeps R s₀ (State.modTweed d f s) := by
  unfold State.modTweed
  try dsimp only
  with_reducible
    repeat' first
      | assumption | exact sub_trans (by decide +kernel) hR | exact bit_of (by decide +kernel) hR | exact id | exact fun _ => rfl
      | exact fun _ _ _ => rfl | split | (with_unfolding_all (intro p hp; cases p <;> first | rfl | exact bit_absurd (by decide +kernel) hR hp))
      | intro _ | dsimp only | apply Keeps.set_tweed | apply Keeps.change

theorem State.modCore_keeps {R : Nat} {s₀ : State} {s : State} (d : Nat) (f : CoreRegs → CoreRegs)
    (hR : 0x100 ||| R = R)
    (hk : Keeps R s₀ s) : Keeps R s₀ (State.modCore d f s) := by
  unfold State.modCore
  try dsimp only
  with_reducible
    repeat' first
      | assumption | exact sub_trans (by decide +kernel) hR | exact bit_of (by decide +kernel) hR | exact id | exact fun _ => rfl
      | exact fun _ _ _ => rfl | split | (with_unfolding_all (intro p hp; cases p <;> first | rfl | exact bit_absurd (by decide +kernel) hR hp))
      | intro _ | dsimp only | apply Keeps.set_cores | apply Keeps.change

theorem State.modPerf_keeps {R : Nat} {s₀ : State} {s : State} (d : Nat) (f : Perf → Perf)
    (hR : 0x4000 ||| R = R)
    (hk : Keeps R s₀ s) : Keeps R s₀ (State.modPerf d f s) := by
  unfold State.modPerf
  try dsimp only
  with_reducible
    repeat' first
      | assumption | exact sub_trans (by decide +kernel) hR | exact bit_of (by decide +kernel) hR | exact id | exact fun _ => rfl
      | exact fun _ _ _ => rfl | split | (with_unfolding_all (intro p hp; cases p <;> first | rfl | exact bit_absurd (by decide +kernel) hR hp))
      | intro _ | dsimp only | apply Keeps.set_perf | apply Keeps.change

theorem State.modPower_keeps {R : Nat} {s₀ : State} {s : State} (d : Nat) (f : Power → Power)
    (hR : 0x400000 ||| R = R)
    (hk : Keeps R s₀ s) : Keeps R s₀ (State.modPower d f s) := by
  unfold State.modPower
  try dsimp only
  with_reducible
    repeat' first
      | assumption | exact sub_trans (by decide +kernel) hR | exact bit_of (by decide +kernel) hR | exact id | exact fun _ => rfl
      | exact fun _ _ _ => rfl | split | (with_unfolding_all (intro p hp; cases p <;> first | rfl | exact bit_absurd (by decide +kernel) hR hp))
      | intro _ | dsimp only | apply Keeps.set_power | apply Keeps.change

theorem State.modMram_keeps {R : Nat} {s₀ : State} {s : State} (d : Nat) (f : MramDie → MramDie)
    (hR : 0x80 ||| R = R)
    (hk : Keeps R s₀ s) : Keeps R s₀ (State.modMram d f s) := by
  unfold State.modMram
  try dsimp only
  with_reducible
    repeat' first
      | assumption | exact sub_trans (by decide +kernel) hR | exact bit_of (by decide +kernel) hR | exact id | exact fun _ => rfl
      | exact fun _ _ _ => rfl | split | (with_unfolding_all (intro p hp; cases p <;> first | rfl | exact bit_absurd (by decide +kernel) hR hp))
      | intro _ | dsimp only | apply Keeps.set_mram | apply Keeps.change

theorem State.modLoader_keeps {R : Nat} {s₀ s : State} (f : Loader → Loader) (hR : 0x10 ||| R = R)
    (hf : ∀ l, l.staged.wf = true → (f l).staged.wf = true) (h : Keeps R s₀ s) : Keeps R s₀ (s.modLoader f) :=
  h.step rfl rfl rfl rfl id id id id (hf _) (fun _ _ _ => rfl)
    (by intro p hp; cases p <;> first | rfl | exact bit_absurd (by decide +kernel) hR hp)

theorem State.modStat_keeps {R : Nat} {s₀ : State} {s : State} (d c : Nat) (f : Stat → Stat)
    (hR : 0x1000 ||| R = R)
    (hk : Keeps R s₀ s) : Keeps R s₀ (State.modStat d c f s) := by
  unfold State.modStat
  try dsimp only
  with_reducible
    repeat' first
      | assumption | exact sub_trans (by decide +kernel) hR | exact bit_of (by decide +kernel) hR | exact id | exact fun _ => rfl
      | exact fun _ _ _ => rfl | split | (with_unfolding_all (intro p hp; cases p <;> first | rfl | exact bit_absurd (by decide +kernel) hR hp))
      | intro _ | dsimp only | apply Keeps.set_stats | apply Keeps.change

theorem State.setTime_keeps {R : Nat} {s₀ : State} {s : State} (sec frac : Nat)
    (hR : 0xc000000000000000000 ||| R = R)
    (hk : Keeps R s₀ s) : Keeps R s₀ (State.setTime sec frac s) := by
  unfold State.setTime
  try dsimp only
  with_reducible
    repeat' first
      | assumption | exact sub_trans (by decide +kernel) hR | exact bit_of (by decide +kernel) hR | exact id | exact fun _ => rfl
      | exact fun _ _ _ => rfl | split | (with_unfolding_all (intro p hp; cases p <;> first | rfl | exact bit_absurd (by decide +kernel) hR hp))
      | intro _ | dsimp only | apply Keeps.set_netSec | apply Keeps.set_netFrac | apply Keeps.change

theorem State.setUnit_keeps {R : Nat} {s₀ : State} {s : State} (u : UnitId) (v : Nat)
    (hR : 0x240000000000000000000000000030000000000002400000000000000000000000008 ||| R = R)
    (hk : Keeps R s₀ s) : Keeps R s₀ (State.setUnit u v s) := by
  unfold State.setUnit
  try dsimp only
  with_reducible
    repeat' first
      | assumption | exact sub_trans (by decide +kernel) hR | exact bit_of (by decide +kernel) hR | apply State.put_keeps
      | apply State.raiseTree_keeps | exact id | exact fun _ => rfl | exact fun _ _ _ => rfl | split
      | (with_unfolding_all (intro p hp; cases p <;> first | rfl | exact bit_absurd (by decide +kernel) hR hp)) | intro _ | dsimp only
      | apply Keeps.set_chans | apply Keeps.change

theorem State.setLatch_keeps {R : Nat} {s₀ : State} {s : State} (u : UnitId) (v : Nat)
    (hR : 0x4 ||| R = R)
    (hk : Keeps R s₀ s) : Keeps R s₀ (State.setLatch u v s) := by
  unfold State.setLatch
  try dsimp only
  with_reducible
    repeat' first
      | assumption | exact sub_trans (by decide +kernel) hR | exact bit_of (by decide +kernel) hR | exact id | exact fun _ => rfl
      | exact fun _ _ _ => rfl | split | (with_unfolding_all (intro p hp; cases p <;> first | rfl | exact bit_absurd (by decide +kernel) hR hp))
      | intro _ | dsimp only | apply Keeps.set_latches | apply Keeps.change

end Sys2Proof.Machine
end

