-- ==== Sys2Proof/Laws/KeepsCells.lean ====
section
/-!
SUPPORT. Every operation of Machine/Cells.lean keeps what `Keeps` names.
-/

namespace Sys2Proof.Machine

set_option Elab.async false
set_option linter.all false

theorem State.drawRoot_keeps {R : Nat} {s₀ : State} {s : State} (d : Nat)
    (hR : 0x110000000000000000000 ||| R = R)
    (hk : Keeps R s₀ s) : Keeps R s₀ (State.drawRoot d s) := by
  unfold State.drawRoot
  try dsimp only
  with_reducible
    repeat' first
      | assumption | exact sub_trans (by decide +kernel) hR | exact bit_of (by decide +kernel) hR | apply State.useFree_keeps | exact id
      | exact fun _ => rfl | exact fun _ _ _ => rfl | split
      | (with_unfolding_all (intro p hp; cases p <;> first | rfl | exact bit_absurd (by decide +kernel) hR hp)) | intro _ | dsimp only
      | apply Keeps.set_roots | apply Keeps.change

end Sys2Proof.Machine
end

