-- ==== Sys2Proof/Laws/KeepsStats.lean ====
section
/-!
SUPPORT. Every operation of Machine/Stats.lean keeps what `Keeps` names.
-/

namespace Sys2Proof.Machine

set_option Elab.async false
set_option linter.all false

theorem State.devWrite_keeps {R : Nat} {s₀ s : State} (d off : Nat) (bs : List Nat) (hR : 0x2000 ||| R = R) (h : Keeps R s₀ s) :
    Keeps R s₀ (s.devWrite d off bs) :=
  h.step rfl rfl rfl rfl id id
    (fun g => Tbl.all_set _ _ _ _ _ g (Memory.writeBytes_wf _ _ _ (Tbl.of_get _ _ _ _ g rfl))) id id (fun _ _ _ => rfl)
    (by intro p hp; cases p <;> first | rfl | exact bit_absurd (by decide +kernel) hR hp)

theorem State.snapCopy_keeps {R : Nat} {s₀ : State} {s : State} (d c : Nat) (lost : Bool)
    (hR : 0x3000 ||| R = R)
    (hk : Keeps R s₀ s) : Keeps R s₀ (State.snapCopy d c lost s) := by
  unfold State.snapCopy
  try dsimp only
  with_reducible
    repeat' first
      | assumption | exact sub_trans (by decide +kernel) hR | apply State.modStat_keeps | apply State.devWrite_keeps | split | intro _ | dsimp only

theorem State.snapBefore_keeps {R : Nat} {s₀ : State} {s : State} (d c : Nat)
    (hR : 0x3000 ||| R = R)
    (hk : Keeps R s₀ s) : Keeps R s₀ (State.snapBefore d c s) := by
  unfold State.snapBefore
  try dsimp only
  with_reducible repeat' first | assumption | exact sub_trans (by decide +kernel) hR | apply State.snapCopy_keeps | split | intro _ | dsimp only

theorem State.snapEnd_keeps {R : Nat} {s₀ : State} {s : State}
    (hR : 0x30000800000000000000000000000000000000000 ||| R = R)
    (hk : Keeps R s₀ s) : Keeps R s₀ (State.snapEnd s) := by
  unfold State.snapEnd
  try dsimp only
  with_reducible
    repeat' first
      | assumption | exact sub_trans (by decide +kernel) hR | exact bit_of (by decide +kernel) hR | apply State.put_keeps | apply State.raisePkg_keeps
      | split | intro _ | dsimp only

theorem State.snapMissing_keeps {R : Nat} {s₀ : State} {s : State} (d : Nat)
    (hR : 0x30000800000000000000000000000000000004000 ||| R = R)
    (hk : Keeps R s₀ s) : Keeps R s₀ (State.snapMissing d s) := by
  unfold State.snapMissing
  try dsimp only
  with_reducible
    repeat' first
      | assumption | exact sub_trans (by decide +kernel) hR | exact bit_of (by decide +kernel) hR | apply State.putBit_keeps
      | apply State.modPerf_keeps | apply State.snapEnd_keeps | split | intro _ | dsimp only

theorem State.cancelSnapshot_keeps {R : Nat} {s₀ : State} {s : State}
    (hR : 0x800000000000000000000000000000004000 ||| R = R)
    (hk : Keeps R s₀ s) : Keeps R s₀ (State.cancelSnapshot s) := by
  unfold State.cancelSnapshot
  try dsimp only
  with_reducible
    repeat' first
      | assumption | exact sub_trans (by decide +kernel) hR | exact bit_of (by decide +kernel) hR | apply State.put_keeps | apply State.modPerf_keeps
      | apply Keeps.foldl | apply Keeps.foldl_snd | apply Keeps.foldl_fst | apply Keeps.foldl_build | split | intro _ | dsimp only

theorem State.count_keeps {R : Nat} {s₀ : State} {s : State} (d c n : Nat)
    (hR : 0x3000 ||| R = R)
    (hk : Keeps R s₀ s) : Keeps R s₀ (State.count d c n s) := by
  unfold State.count
  try dsimp only
  with_reducible
    repeat' first
      | assumption | exact sub_trans (by decide +kernel) hR | apply State.modStat_keeps | apply State.snapBefore_keeps | split | intro _ | dsimp only

theorem State.countQueue_keeps {R : Nat} {s₀ : State} {s : State} (d : Nat) (up : Bool) (q k n : Nat)
    (hR : 0x3000 ||| R = R)
    (hk : Keeps R s₀ s) : Keeps R s₀ (State.countQueue d up q k n s) := by
  unfold State.countQueue
  try dsimp only
  with_reducible repeat' first | assumption | exact sub_trans (by decide +kernel) hR | apply State.count_keeps | split | intro _ | dsimp only

theorem State.passBytes_keeps {R : Nat} {s₀ : State} {s : State} (d p n : Nat)
    (hR : 0x1000000 ||| R = R)
    (hk : Keeps R s₀ s) : Keeps R s₀ (State.passBytes d p n s) := by
  unfold State.passBytes
  try dsimp only
  with_reducible
    repeat' first
      | assumption | exact sub_trans (by decide +kernel) hR | exact bit_of (by decide +kernel) hR | exact id | exact fun _ => rfl
      | exact fun _ _ _ => rfl | split | (with_unfolding_all (intro p hp; cases p <;> first | rfl | exact bit_absurd (by decide +kernel) hR hp))
      | intro _ | dsimp only | apply Keeps.set_bwAcc | apply Keeps.change

end Sys2Proof.Machine
end

