-- ==== Sys2Proof/Laws/KeepsSeparation.lean ====
section
/-!
SUPPORT. Every operation of Machine/Separation.lean keeps what `Keeps` names.
-/

namespace Sys2Proof.Machine

set_option Elab.async false
set_option linter.all false

theorem State.event_keeps {R : Nat} {s₀ : State} {s : State} (f : Field) (i d src : Nat)
    (hR : 0x30000000000000000000000000000000000000000 ||| R = R) (hf : R.testBit (wordBit f.num) = true)
    (hk : Keeps R s₀ s) : Keeps R s₀ (State.event f i d src s) := by
  unfold State.event
  try dsimp only
  with_reducible
    repeat' first
      | assumption | exact sub_trans (by decide +kernel) hR | exact bit_of (by decide +kernel) hR | apply State.put_keeps | apply State.raise_keeps
      | split | intro _ | dsimp only

theorem State.ciphEvent_keeps {R : Nat} {s₀ : State} {s : State} (f : Field) (d : Nat)
    (hR : 0x30000000000000000000000000000000000000000 ||| R = R) (hf : R.testBit (wordBit f.num) = true)
    (hk : Keeps R s₀ s) : Keeps R s₀ (State.ciphEvent f d s) := by
  unfold State.ciphEvent
  try dsimp only
  with_reducible
    repeat' first
      | assumption | exact sub_trans (by decide +kernel) hR | exact bit_of (by decide +kernel) hR | apply State.event_keeps | split | intro _
      | dsimp only

theorem State.separation_keeps {R : Nat} {s₀ : State} {s : State} (d k fd rd tree lp res : Nat)
    (hR : 0x10100000000000000000000030000000000000000000000000000000000000001 ||| R = R)
    (hk : Keeps R s₀ s) : Keeps R s₀ (State.separation d k fd rd tree lp res s) := by
  unfold State.separation
  try dsimp only
  with_reducible
    repeat' first
      | assumption | exact sub_trans (by decide +kernel) hR | exact bit_of (by decide +kernel) hR | apply State.put_keeps | apply State.bump_keeps
      | apply State.ciphEvent_keeps | split | intro _ | dsimp only

theorem State.sepFrame_keeps {R : Nat} {s₀ : State} {s : State} (d k : Nat) (f : Frame) (rd res : Nat)
    (hR : 0x10100000000000000000000030000000000000000000000000000000000000001 ||| R = R)
    (hk : Keeps R s₀ s) : Keeps R s₀ (State.sepFrame d k f rd res s) := by
  unfold State.sepFrame
  try dsimp only
  with_reducible repeat' first | assumption | exact sub_trans (by decide +kernel) hR | apply State.separation_keeps | split | intro _ | dsimp only

theorem State.putWords_keeps {R : Nat} {s₀ : State} {s : State} (f : Field) (i n v : Nat)
    (hR : 0x0 ||| R = R) (hf : R.testBit (wordBit f.num) = true)
    (hk : Keeps R s₀ s) : Keeps R s₀ (State.putWords f i n v s) := by
  unfold State.putWords
  try dsimp only
  with_reducible
    repeat' first
      | assumption | exact sub_trans (by decide +kernel) hR | exact bit_of (by decide +kernel) hR | apply State.put_keeps | apply Keeps.foldl
      | apply Keeps.foldl_snd | apply Keeps.foldl_fst | apply Keeps.foldl_build | split | intro _ | dsimp only

end Sys2Proof.Machine
end

