-- ==== Sys2Proof/Laws/KeepsDefects.lean ====
section
/-!
SUPPORT. Every operation of Machine/Defects.lean keeps what `Keeps` names.
-/

namespace Sys2Proof.Machine

set_option Elab.async false
set_option linter.all false

theorem State.emitTree_keeps {R : Nat} {s₀ : State} {s : State} (t k : Nat) (o : Sent)
    (hR : 0x20000000000000000000 ||| R = R)
    (hk : Keeps R s₀ s) : Keeps R s₀ (State.emitTree t k o s) := by
  unfold State.emitTree
  try dsimp only
  with_reducible
    repeat' first
      | assumption | exact sub_trans (by decide +kernel) hR | (unfold txState; split <;> exact bit_of (by decide +kernel) hR) | apply State.emit_keeps
      | split | intro _ | dsimp only

theorem State.setSeen_keeps {R : Nat} {s₀ : State} {s : State} (u : PatUnit) (v : List Bool)
    (hR : 0x200000000 ||| R = R)
    (hk : Keeps R s₀ s) : Keeps R s₀ (State.setSeen u v s) := by
  unfold State.setSeen
  try dsimp only
  with_reducible
    repeat' first
      | assumption | exact sub_trans (by decide +kernel) hR | exact bit_of (by decide +kernel) hR | exact id | exact fun _ => rfl
      | exact fun _ _ _ => rfl | split | (with_unfolding_all (intro p hp; cases p <;> first | rfl | exact bit_absurd (by decide +kernel) hR hp))
      | intro _ | dsimp only | apply Keeps.set_chkSeen | apply Keeps.change

theorem State.declareTree_keeps {R : Nat} {s₀ : State} {s : State} (t : Nat) (f : Field) (bit : Nat) (raw now : Bool)
    (hR : 0x2000030000000000000000000000000000000000000000 ||| R = R) (hf : R.testBit (wordBit f.num) = true)
    (hk : Keeps R s₀ s) : Keeps R s₀ (State.declareTree t f bit raw now s) := by
  unfold State.declareTree
  try dsimp only
  with_reducible
    repeat' first
      | assumption | exact sub_trans (by decide +kernel) hR | exact bit_of (by decide +kernel) hR | apply State.put_keeps | apply State.putBit_keeps
      | apply State.raiseTree_keeps | split | intro _ | dsimp only

theorem State.modCirc_keeps {R : Nat} {s₀ : State} {s : State} (c : Nat) (f : CircSt → CircSt)
    (hR : 0x80000000 ||| R = R)
    (hk : Keeps R s₀ s) : Keeps R s₀ (State.modCirc c f s) := by
  unfold State.modCirc
  try dsimp only
  with_reducible
    repeat' first
      | assumption | exact sub_trans (by decide +kernel) hR | exact bit_of (by decide +kernel) hR | exact id | exact fun _ => rfl
      | exact fun _ _ _ => rfl | split | (with_unfolding_all (intro p hp; cases p <;> first | rfl | exact bit_absurd (by decide +kernel) hR hp))
      | intro _ | dsimp only | apply Keeps.set_circs | apply Keeps.change

theorem State.modGrp_keeps {R : Nat} {s₀ : State} {s : State} (u : Nat) (f : GrpSt → GrpSt)
    (hR : 0x100000000 ||| R = R)
    (hk : Keeps R s₀ s) : Keeps R s₀ (State.modGrp u f s) := by
  unfold State.modGrp
  try dsimp only
  with_reducible
    repeat' first
      | assumption | exact sub_trans (by decide +kernel) hR | exact bit_of (by decide +kernel) hR | exact id | exact fun _ => rfl
      | exact fun _ _ _ => rfl | split | (with_unfolding_all (intro p hp; cases p <;> first | rfl | exact bit_absurd (by decide +kernel) hR hp))
      | intro _ | dsimp only | apply Keeps.set_grps | apply Keeps.change

theorem State.circCnt_keeps {R : Nat} {s₀ : State} {s : State} (c k n : Nat)
    (hR : 0x1 ||| R = R)
    (hk : Keeps R s₀ s) : Keeps R s₀ (State.circCnt c k n s) := by
  unfold State.circCnt
  try dsimp only
  with_reducible repeat' first | assumption | exact sub_trans (by decide +kernel) hR | apply State.bump_keeps | split | intro _ | dsimp only

theorem State.setRun_keeps {R : Nat} {s₀ : State} {s : State} (c v : Nat)
    (hR : 0x2000000000000000000000000080000000000000000000000000000000000000000000000000000 ||| R = R)
    (hk : Keeps R s₀ s) : Keeps R s₀ (State.setRun c v s) := by
  unfold State.setRun
  try dsimp only
  with_reducible
    repeat' first
      | assumption | exact sub_trans (by decide +kernel) hR | exact bit_of (by decide +kernel) hR | apply State.put_keeps | split | intro _
      | dsimp only

theorem State.circRaw_keeps {R : Nat} {s₀ : State} {s : State} (c bit : Nat) (b : Bool)
    (hR : 0x80000000000000000000000000000000000000000000000000000 ||| R = R)
    (hk : Keeps R s₀ s) : Keeps R s₀ (State.circRaw c bit b s) := by
  unfold State.circRaw
  try dsimp only
  with_reducible
    repeat' first
      | assumption | exact sub_trans (by decide +kernel) hR | exact bit_of (by decide +kernel) hR | apply State.put_keeps | split | intro _
      | dsimp only

theorem State.judgeLone_keeps {R : Nat} {s₀ : State} {s : State} (c : Nat)
    (hR : 0x80000000000030000000000000000000000000000000000000000 ||| R = R)
    (hk : Keeps R s₀ s) : Keeps R s₀ (State.judgeLone c s) := by
  unfold State.judgeLone
  extract_lets v0 v1 v2 v3 v4 v5 v6
  have hv5 : Keeps R s₀ v5 := by
    unfold v5
    with_reducible
      repeat' first
        | assumption | exact sub_trans (by decide +kernel) hR | exact bit_of (by decide +kernel) hR | apply State.put_keeps
        | apply State.putFlag_keeps | apply State.putBit_keeps | apply State.raise_keeps | apply Keeps.foldl | apply Keeps.foldl_snd
        | apply Keeps.foldl_fst | apply Keeps.foldl_build | split | intro _ | dsimp only
  have hv6 : Keeps R s₀ v6 := by
    unfold v6
    with_reducible
      repeat' first
        | assumption | exact sub_trans (by decide +kernel) hR | exact bit_of (by decide +kernel) hR | apply State.put_keeps
        | apply State.putFlag_keeps | apply State.putBit_keeps | apply State.raise_keeps | apply Keeps.foldl | apply Keeps.foldl_snd
        | apply Keeps.foldl_fst | apply Keeps.foldl_build | split | intro _ | dsimp only
  try dsimp only
  with_reducible
    repeat' first
      | assumption | exact sub_trans (by decide +kernel) hR | exact bit_of (by decide +kernel) hR | apply State.put_keeps | apply State.putFlag_keeps
      | apply State.putBit_keeps | apply State.raise_keeps | apply Keeps.foldl | apply Keeps.foldl_snd | apply Keeps.foldl_fst
      | apply Keeps.foldl_build | split | intro _ | dsimp only

theorem State.judgeGroup_keeps {R : Nat} {s₀ : State} {s : State} (u : Nat)
    (hR : 0x100000000000030000000000000000000000000000000000000000 ||| R = R)
    (hk : Keeps R s₀ s) : Keeps R s₀ (State.judgeGroup u s) := by
  unfold State.judgeGroup
  extract_lets v0 v1 v2 v3 v4 v5 v6
  have hv5 : Keeps R s₀ v5 := by
    unfold v5
    with_reducible
      repeat' first
        | assumption | exact sub_trans (by decide +kernel) hR | exact bit_of (by decide +kernel) hR | apply State.put_keeps | apply State.putBit_keeps
        | apply State.raise_keeps | apply Keeps.foldl | apply Keeps.foldl_snd | apply Keeps.foldl_fst | apply Keeps.foldl_build | split | intro _
        | dsimp only
  have hv6 : Keeps R s₀ v6 := by
    unfold v6
    with_reducible
      repeat' first
        | assumption | exact sub_trans (by decide +kernel) hR | exact bit_of (by decide +kernel) hR | apply State.put_keeps | apply State.putBit_keeps
        | apply State.raise_keeps | apply Keeps.foldl | apply Keeps.foldl_snd | apply Keeps.foldl_fst | apply Keeps.foldl_build | split | intro _
        | dsimp only
  try dsimp only
  with_reducible
    repeat' first
      | assumption | exact sub_trans (by decide +kernel) hR | exact bit_of (by decide +kernel) hR | apply State.put_keeps | apply State.putBit_keeps
      | apply State.raise_keeps | apply Keeps.foldl | apply Keeps.foldl_snd | apply Keeps.foldl_fst | apply Keeps.foldl_build | split | intro _
      | dsimp only

theorem State.judgeCircuit_keeps {R : Nat} {s₀ : State} {s : State} (c : Nat)
    (hR : 0x180000000000030000000000000000000000000000000000000000 ||| R = R)
    (hk : Keeps R s₀ s) : Keeps R s₀ (State.judgeCircuit c s) := by
  unfold State.judgeCircuit
  try dsimp only
  with_reducible
    repeat' first
      | assumption | exact sub_trans (by decide +kernel) hR | apply State.judgeLone_keeps | apply State.judgeGroup_keeps | split | intro _
      | dsimp only

theorem State.judgeCircuits_keeps {R : Nat} {s₀ : State} {s : State} (t n : Nat)
    (hR : 0x180000000000030000000000000000000000000000000000000000 ||| R = R)
    (hk : Keeps R s₀ s) : Keeps R s₀ (State.judgeCircuits t n s) := by
  unfold State.judgeCircuits
  try dsimp only
  with_reducible
    repeat' first
      | assumption | exact sub_trans (by decide +kernel) hR | apply State.judgeCircuit_keeps | apply Keeps.foldl | apply Keeps.foldl_snd
      | apply Keeps.foldl_fst | apply Keeps.foldl_build | split | intro _ | dsimp only

theorem State.declareTerm_keeps {R : Nat} {s₀ : State} {acc : State × Bool} (t i : Nat) (free : Bool → Bool) (d : Field × Nat)
    (hR : 0x1000000030000000000000000000000000000000000000000 ||| R = R) (hf : R.testBit (wordBit d.1.num) = true) (h : Keeps R s₀ acc.1) :
    Keeps R s₀ (State.declareTerm t i free d acc).1 := by
  unfold State.declareTerm
  obtain ⟨s, higher⟩ := acc
  dsimp only at *
  repeat' first
    | with_reducible assumption
    | with_reducible exact sub_trans (by decide +kernel) hR
    | with_reducible exact bit_of (by decide +kernel) hR
    | with_reducible apply State.put_keeps
    | with_reducible apply State.putBit_keeps
    | with_reducible apply State.raiseTree_keeps
    | split

theorem State.judgeTerm_keeps {R : Nat} {s₀ s : State} (t n : Nat) (hR : 0x180001000000030000000000000000000000000000000000000000 ||| R = R) (h : Keeps R s₀ s) :
    Keeps R s₀ (State.judgeTerm t n s) := by
  unfold State.judgeTerm
  apply State.judgeCircuits_keeps _ _ (sub_trans (by decide +kernel) hR)
  suffices ∀ (ds : List (Field × Nat)), (ds.all fun d => R.testBit (wordBit d.1.num)) = true → ∀ (acc : State × Bool), Keeps R s₀ acc.1 →
      Keeps R s₀ (ds.foldl (fun acc d => State.declareTerm t (termAt t n) (s.termJudged t n) d acc) acc).1 by
    refine this termDefects ?_ (s, false) h
    simp only [termDefects, List.all_cons, List.all_nil, Bool.and_true, Bool.and_eq_true]
    refine ⟨?_, ?_, ?_, ?_, ?_⟩ <;> exact bit_of (by decide +kernel) hR
  intro ds
  induction ds with
  | nil => exact fun _ _ k => k
  | cons d ds ih =>
    intro m acc k
    rw [List.all_cons, Bool.and_eq_true] at m
    exact ih m.2 _ (State.declareTerm_keeps t _ _ d (sub_trans (by decide +kernel) hR) m.1 k)

theorem State.judgeTree_keeps {R : Nat} {s₀ : State} {s : State} (t : Nat)
    (hR : 0x180001002000030000000000000000000000000000000000000000 ||| R = R)
    (hk : Keeps R s₀ s) : Keeps R s₀ (State.judgeTree t s) := by
  unfold State.judgeTree
  extract_lets v0 v1 v2 v3 v4 v5 v6 v7 v8
  have hv8 : Keeps R s₀ v8 := by
    unfold v8
    with_reducible
      repeat' first
        | assumption | exact sub_trans (by decide +kernel) hR | exact bit_of (by decide +kernel) hR
        | (unfold losField; split <;> exact bit_of (by decide +kernel) hR) | apply State.declareTree_keeps | apply State.judgeTerm_keeps
        | apply Keeps.foldl | apply Keeps.foldl_snd | apply Keeps.foldl_fst | apply Keeps.foldl_build | split | intro _ | dsimp only
  try dsimp only
  with_reducible
    repeat' first
      | assumption | exact sub_trans (by decide +kernel) hR | exact bit_of (by decide +kernel) hR
      | (unfold losField; split <;> exact bit_of (by decide +kernel) hR) | apply State.declareTree_keeps | apply State.judgeTerm_keeps
      | apply Keeps.foldl | apply Keeps.foldl_snd | apply Keeps.foldl_fst | apply Keeps.foldl_build | split | intro _ | dsimp only

theorem State.setRaw_keeps {R : Nat} {s₀ : State} {s : State} (i bit : Nat) (b : Bool)
    (hR : 0x1000000000000000000000000000000000000000000000000 ||| R = R)
    (hk : Keeps R s₀ s) : Keeps R s₀ (State.setRaw i bit b s) := by
  unfold State.setRaw
  try dsimp only
  with_reducible
    repeat' first
      | assumption | exact sub_trans (by decide +kernel) hR | exact bit_of (by decide +kernel) hR | apply State.put_keeps | split | intro _
      | dsimp only

theorem State.setOperation_keeps {R : Nat} {s₀ : State} {s : State} (t n : Nat) (on : Bool)
    (hR : 0x180001000000030000000000000000000000000000000008000000 ||| R = R)
    (hk : Keeps R s₀ s) : Keeps R s₀ (State.setOperation t n on s) := by
  unfold State.setOperation
  try dsimp only
  with_reducible
    repeat' first
      | assumption | exact sub_trans (by decide +kernel) hR | exact bit_of (by decide +kernel) hR | apply State.put_keeps | apply State.modTerm_keeps
      | apply State.judgeCircuits_keeps | split | intro _ | dsimp only

end Sys2Proof.Machine
end

