-- ==== Sys2Proof/Laws/KeepsCipher.lean ====
section
/-!
SUPPORT. Every operation of Machine/Cipher.lean keeps what `Keeps` names.
-/

namespace Sys2Proof.Machine

set_option Elab.async false
set_option linter.all false

theorem State.ciphCnt_keeps {R : Nat} {s₀ : State} {s : State} (d k : Nat)
    (hR : 0x1 ||| R = R)
    (hk : Keeps R s₀ s) : Keeps R s₀ (State.ciphCnt d k s) := by
  unfold State.ciphCnt
  try dsimp only
  with_reducible repeat' first | assumption | exact sub_trans (by decide +kernel) hR | apply State.bump_keeps | split | intro _ | dsimp only

theorem State.activate_keeps {R : Nat} {s₀ : State} {s : State} (slot frame : Nat)
    (hR : 0x30000000000000000000000000000000000000000000000000000000000000000000000000000000000000 ||| R = R)
    (hk : Keeps R s₀ s) : Keeps R s₀ (State.activate slot frame s) := by
  unfold State.activate
  try dsimp only
  with_reducible
    repeat' first
      | assumption | exact sub_trans (by decide +kernel) hR | exact bit_of (by decide +kernel) hR | apply State.put_keeps | split | intro _
      | dsimp only

theorem State.toggleSlot_keeps {R : Nat} {s₀ : State} {s : State} (t p frame : Nat)
    (hR : 0x30000000000000000000080000000000000000000000000000000000000000000000000000000000000000 ||| R = R)
    (hk : Keeps R s₀ s) : Keeps R s₀ (State.toggleSlot t p frame s) := by
  unfold State.toggleSlot
  extract_lets v0 v1 v2
  have hv1 : Keeps R s₀ v1 := by
    unfold v1
    with_reducible
      repeat' first
        | assumption | exact sub_trans (by decide +kernel) hR | exact bit_of (by decide +kernel) hR | apply State.put_keeps
        | apply State.activate_keeps | split | intro _ | dsimp only
  try dsimp only
  with_reducible
    repeat' first
      | assumption | exact sub_trans (by decide +kernel) hR | exact bit_of (by decide +kernel) hR | apply State.put_keeps | apply State.activate_keeps
      | split | intro _ | dsimp only

theorem State.setMbox_keeps {R : Nat} {s₀ : State} {s : State} (d i v : Nat)
    (hR : 0x100000000000000000000000000000000000000000 ||| R = R)
    (hk : Keeps R s₀ s) : Keeps R s₀ (State.setMbox d i v s) := by
  unfold State.setMbox
  try dsimp only
  with_reducible
    repeat' first
      | assumption | exact sub_trans (by decide +kernel) hR | exact bit_of (by decide +kernel) hR | apply State.put_keeps | split | intro _
      | dsimp only

theorem State.mboxReply_keeps {R : Nat} {s₀ : State} {s : State} (d i result : Nat)
    (hR : 0x930000000000000000000000000000000000000000 ||| R = R)
    (hk : Keeps R s₀ s) : Keeps R s₀ (State.mboxReply d i result s) := by
  unfold State.mboxReply
  try dsimp only
  with_reducible
    repeat' first
      | assumption | exact sub_trans (by decide +kernel) hR | exact bit_of (by decide +kernel) hR | apply State.put_keeps | apply State.raise_keeps
      | apply State.setMbox_keeps | split | intro _ | dsimp only

theorem State.endRotations_keeps {R : Nat} {s₀ : State} {s : State} (ends : Rotation → Bool) (result : Nat)
    (hR : 0x930000000000000000000000000000000000000800 ||| R = R)
    (hk : Keeps R s₀ s) : Keeps R s₀ (State.endRotations ends result s) := by
  unfold State.endRotations
  try dsimp only
  with_reducible
    repeat' first
      | assumption | exact sub_trans (by decide +kernel) hR | exact bit_of (by decide +kernel) hR | apply State.mboxReply_keeps | exact id
      | exact fun _ => rfl | exact fun _ _ _ => rfl | apply Keeps.foldl | apply Keeps.foldl_snd | apply Keeps.foldl_fst | apply Keeps.foldl_build
      | split | (with_unfolding_all (intro p hp; cases p <;> first | rfl | exact bit_absurd (by decide +kernel) hR hp)) | intro _ | dsimp only
      | apply Keeps.set_rotations | apply Keeps.change

theorem State.runSwitch_keeps {R : Nat} {s₀ : State} {s : State} (t frame : Nat) (w : KeySwitch)
    (hR : 0x30000000000000000000080000000000000000000000000000000000000000000000000000000000000000 ||| R = R)
    (hk : Keeps R s₀ s) : Keeps R s₀ (State.runSwitch t frame s w) := by
  unfold State.runSwitch
  try dsimp only
  with_reducible
    repeat' first
      | assumption | exact sub_trans (by decide +kernel) hR | apply State.toggleSlot_keeps | apply Keeps.foldl | apply Keeps.foldl_snd
      | apply Keeps.foldl_fst | apply Keeps.foldl_build | split | intro _ | dsimp only

theorem State.keyBoundary_keeps {R : Nat} {s₀ : State} {s : State} (t frame : Nat)
    (hR : 0x3000000000000000000008000000000000000000000093000000000000000000000000000c000000000800 ||| R = R)
    (hk : Keeps R s₀ s) : Keeps R s₀ (State.keyBoundary t frame s) := by
  unfold State.keyBoundary
  extract_lets v0 v1 v2 v3 v4 v5
  have hv0 : Keeps R s₀ v0 := by
    unfold v0
    with_reducible
      repeat' first
        | assumption | exact sub_trans (by decide +kernel) hR | exact bit_of (by decide +kernel) hR | apply State.activate_keeps
        | apply State.endRotations_keeps | apply State.runSwitch_keeps | exact id | exact fun _ => rfl | exact fun _ _ _ => rfl | apply Keeps.foldl
        | apply Keeps.foldl_snd | apply Keeps.foldl_fst | apply Keeps.foldl_build | split
        | (with_unfolding_all (intro p hp; cases p <;> first | rfl | exact bit_absurd (by decide +kernel) hR hp)) | intro _ | dsimp only
        | apply Keeps.set_oldBind | apply Keeps.set_switches | apply Keeps.change
  have hv2 : Keeps R s₀ v2 := by
    unfold v2
    with_reducible
      repeat' first
        | assumption | exact sub_trans (by decide +kernel) hR | exact bit_of (by decide +kernel) hR | apply State.activate_keeps
        | apply State.endRotations_keeps | apply State.runSwitch_keeps | exact id | exact fun _ => rfl | exact fun _ _ _ => rfl | apply Keeps.foldl
        | apply Keeps.foldl_snd | apply Keeps.foldl_fst | apply Keeps.foldl_build | split
        | (with_unfolding_all (intro p hp; cases p <;> first | rfl | exact bit_absurd (by decide +kernel) hR hp)) | intro _ | dsimp only
        | apply Keeps.set_oldBind | apply Keeps.set_switches | apply Keeps.change
  have hv4 : Keeps R s₀ v4 := by
    unfold v4
    with_reducible
      repeat' first
        | assumption | exact sub_trans (by decide +kernel) hR | exact bit_of (by decide +kernel) hR | apply State.activate_keeps
        | apply State.endRotations_keeps | apply State.runSwitch_keeps | exact id | exact fun _ => rfl | exact fun _ _ _ => rfl | apply Keeps.foldl
        | apply Keeps.foldl_snd | apply Keeps.foldl_fst | apply Keeps.foldl_build | split
        | (with_unfolding_all (intro p hp; cases p <;> first | rfl | exact bit_absurd (by decide +kernel) hR hp)) | intro _ | dsimp only
        | apply Keeps.set_oldBind | apply Keeps.set_switches | apply Keeps.change
  try dsimp only
  with_reducible
    repeat' first
      | assumption | exact sub_trans (by decide +kernel) hR | exact bit_of (by decide +kernel) hR | apply State.activate_keeps
      | apply State.endRotations_keeps | apply State.runSwitch_keeps | exact id | exact fun _ => rfl | exact fun _ _ _ => rfl | apply Keeps.foldl
      | apply Keeps.foldl_snd | apply Keeps.foldl_fst | apply Keeps.foldl_build | split
      | (with_unfolding_all (intro p hp; cases p <;> first | rfl | exact bit_absurd (by decide +kernel) hR hp)) | intro _ | dsimp only
      | apply Keeps.set_oldBind | apply Keeps.set_switches | apply Keeps.change

theorem State.countStarved_keeps {R : Nat} {s₀ : State} {s : State} (t k : Nat)
    (hR : 0x1 ||| R = R)
    (hk : Keeps R s₀ s) : Keeps R s₀ (State.countStarved t k s) := by
  unfold State.countStarved
  try dsimp only
  with_reducible repeat' first | assumption | exact sub_trans (by decide +kernel) hR | apply State.bump_keeps | split | intro _ | dsimp only

theorem State.keyDone_keeps {R : Nat} {s₀ : State} {s : State} (host : Bool) (d r : Nat)
    (hR : 0xa00000000000000000000000000000000000000000000000000000000000000 ||| R = R)
    (hk : Keeps R s₀ s) : Keeps R s₀ (State.keyDone host d r s) := by
  unfold State.keyDone
  try dsimp only
  with_reducible
    repeat' first
      | assumption | exact sub_trans (by decide +kernel) hR | exact bit_of (by decide +kernel) hR | apply State.put_keeps | split | intro _
      | dsimp only

theorem State.keyGate_keeps {R : Nat} {s₀ s : State} (host : Bool) (d : Nat) (tied : Bool) {run : State → State} (hR : 0xa00000000000000000000000000000000000000000000000000000000000000 ||| R = R)
    (h : Keeps R s₀ s) (hr : ∀ x, Keeps R s₀ x → Keeps R s₀ (run x)) : Keeps R s₀ (State.keyGate host d tied s run) := by
  unfold State.keyGate
  repeat' first
    | with_reducible assumption
    | with_reducible exact sub_trans (by decide +kernel) hR
    | with_reducible exact bit_of (by decide +kernel) hR
    | with_reducible apply State.put_keeps
    | with_reducible apply State.keyDone_keeps
    | with_reducible exact hr _ h
    | split

theorem State.unwrapFailed_keeps {R : Nat} {s₀ : State} {s : State} (host : Bool) (d : Nat)
    (hR : 0xb00000000000000000000030000000000000000000000000000000000000001 ||| R = R)
    (hk : Keeps R s₀ s) : Keeps R s₀ (State.unwrapFailed host d s) := by
  unfold State.unwrapFailed
  try dsimp only
  with_reducible
    repeat' first
      | assumption | exact sub_trans (by decide +kernel) hR | exact bit_of (by decide +kernel) hR | apply State.ciphEvent_keeps
      | apply State.ciphCnt_keeps | apply State.keyDone_keeps | split | intro _ | dsimp only

theorem State.loadSlot_keeps {R : Nat} {s₀ : State} {s : State} (host : Bool) (d k : Nat) (wrapped : Bool) (kek : Nat)
    (hR : 0x10000000000000000000000b00000000000000000000030000000000000000000000000003000000000001 ||| R = R)
    (hk : Keeps R s₀ s) : Keeps R s₀ (State.loadSlot host d k wrapped kek s) := by
  unfold State.loadSlot
  try dsimp only
  with_reducible
    repeat' first
      | assumption | exact sub_trans (by decide +kernel) hR | exact bit_of (by decide +kernel) hR | apply State.put_keeps | apply State.keyDone_keeps
      | apply State.unwrapFailed_keeps | exact id | exact fun _ => rfl | exact fun _ _ _ => rfl | split
      | (with_unfolding_all (intro p hp; cases p <;> first | rfl | exact bit_absurd (by decide +kernel) hR hp)) | intro _ | dsimp only
      | apply Keeps.set_keys | apply Keeps.set_loadedAt | apply Keeps.change

theorem State.askRecord_keeps {R : Nat} {s₀ : State} {s : State} (d type key : Nat) (payload : List Nat)
    (hR : 0x80 ||| R = R)
    (hk : Keeps R s₀ s) : Keeps R s₀ (State.askRecord d type key payload s) := by
  unfold State.askRecord
  try dsimp only
  with_reducible repeat' first | assumption | exact sub_trans (by decide +kernel) hR | apply State.modMram_keeps | split | intro _ | dsimp only

theorem State.supersede_keeps {R : Nat} {s₀ : State} {s : State} (host : Bool) (d a : Nat)
    (hR : 0xa00000000000000000000000000000000000000000000000000000000000000 ||| R = R)
    (hk : Keeps R s₀ s) : Keeps R s₀ (State.supersede host d a s) := by
  unfold State.supersede
  try dsimp only
  with_reducible repeat' first | assumption | exact sub_trans (by decide +kernel) hR | apply State.keyDone_keeps | split | intro _ | dsimp only

theorem State.loadSa_keeps {R : Nat} {s₀ : State} {s : State} (host : Bool) (d a : Nat) (wrapped : Bool) (kek : Nat)
    (hR : 0x1f00000000000000000000000b00000000000000000000030000000000000000000000000003000000000081 ||| R = R)
    (hk : Keeps R s₀ s) : Keeps R s₀ (State.loadSa host d a wrapped kek s) := by
  unfold State.loadSa
  try dsimp only
  with_reducible
    repeat' first
      | assumption | exact sub_trans (by decide +kernel) hR | exact bit_of (by decide +kernel) hR | apply State.put_keeps | apply State.keyDone_keeps
      | apply State.unwrapFailed_keeps | apply State.askRecord_keeps | apply State.supersede_keeps | exact id | exact fun _ => rfl
      | exact fun _ _ _ => rfl | split | (with_unfolding_all (intro p hp; cases p <;> first | rfl | exact bit_absurd (by decide +kernel) hR hp))
      | intro _ | dsimp only | apply Keeps.set_keys | apply Keeps.set_loadedAt | apply Keeps.change

theorem execKeyLoad_keeps {R : Nat} {s₀ : State} {s : State} (host : Bool) (d : Nat) (assoc : Bool) (index : Nat) (wrapped : Bool) (kek : Nat) (tied : Bool)
    (hR : 0x1f10000000000000000000000b00000000000000000000030000000000010000000000000003000000000081 ||| R = R)
    (hk : Keeps R s₀ s) : ResultKeeps R s₀ (execKeyLoad host d assoc index wrapped kek tied s) := by
  unfold execKeyLoad
  try dsimp only
  with_reducible
    repeat' first
      | assumption | exact sub_trans (by decide +kernel) hR | apply State.fwEvent_keeps | apply State.keyDone_keeps | apply State.keyGate_keeps
      | apply State.loadSlot_keeps | apply State.loadSa_keeps | apply ResultKeeps.next | split | intro _ | dsimp only

theorem execKeyErase_keeps {R : Nat} {s₀ : State} {s : State} (host : Bool) (d : Nat) (assoc : Bool) (index : Nat) (tied : Bool)
    (hR : 0x210000000000000000000000a00000000000000000000000000000000000000000000000001000000000000 ||| R = R)
    (hk : Keeps R s₀ s) : ResultKeeps R s₀ (execKeyErase host d assoc index tied s) := by
  unfold execKeyErase
  try dsimp only
  with_reducible
    repeat' first
      | assumption | exact sub_trans (by decide +kernel) hR | exact bit_of (by decide +kernel) hR | apply State.put_keeps | apply State.keyDone_keeps
      | apply State.keyGate_keeps | apply State.supersede_keeps | apply ResultKeeps.next | exact id | exact fun _ => rfl | exact fun _ _ _ => rfl
      | split | (with_unfolding_all (intro p hp; cases p <;> first | rfl | exact bit_absurd (by decide +kernel) hR hp)) | intro _ | dsimp only
      | apply Keeps.set_keys | apply Keeps.change

theorem execKeySwitch_keeps {R : Nat} {s₀ : State} {s : State} (host : Bool) (d t p : Nat) (tied : Bool)
    (hR : 0xa00000000000000000000000000000000000000000000000008000000000000 ||| R = R)
    (hk : Keeps R s₀ s) : ResultKeeps R s₀ (execKeySwitch host d t p tied s) := by
  unfold execKeySwitch
  try dsimp only
  with_reducible
    repeat' first
      | assumption | exact sub_trans (by decide +kernel) hR | exact bit_of (by decide +kernel) hR | apply State.keyDone_keeps
      | apply State.keyGate_keeps | apply ResultKeeps.next | exact id | exact fun _ => rfl | exact fun _ _ _ => rfl | split
      | (with_unfolding_all (intro p hp; cases p <;> first | rfl | exact bit_absurd (by decide +kernel) hR hp)) | intro _ | dsimp only
      | apply Keeps.set_switches | apply Keeps.change

theorem execKeyRead_keeps {R : Nat} {s₀ : State} {s : State} (host : Bool) (d : Nat) (assoc : Bool) (index : Nat) (tied : Bool)
    (hR : 0x20000000000000000000001e00000000000000000000000000000000000000000000000000000000000000 ||| R = R)
    (hk : Keeps R s₀ s) : ResultKeeps R s₀ (execKeyRead host d assoc index tied s) := by
  unfold execKeyRead
  try dsimp only
  with_reducible
    repeat' first
      | assumption | exact sub_trans (by decide +kernel) hR | exact bit_of (by decide +kernel) hR
      | (unfold keyData; split <;> exact bit_of (by decide +kernel) hR) | apply State.put_keeps | apply State.putWords_keeps
      | apply State.keyDone_keeps | apply State.keyGate_keeps | apply ResultKeeps.next | split | intro _ | dsimp only

theorem execKekLoad_keeps {R : Nat} {s₀ : State} {s : State} (host : Bool) (d k : Nat)
    (hR : 0xa00000000000000000000030000000000010000000000000001000000000000 ||| R = R)
    (hk : Keeps R s₀ s) : ResultKeeps R s₀ (execKekLoad host d k s) := by
  unfold execKekLoad
  try dsimp only
  with_reducible
    repeat' first
      | assumption | exact sub_trans (by decide +kernel) hR | exact bit_of (by decide +kernel) hR | apply State.fwEvent_keeps
      | apply State.keyDone_keeps | apply State.keyGate_keeps | apply ResultKeeps.next | exact id | exact fun _ => rfl | exact fun _ _ _ => rfl
      | split | (with_unfolding_all (intro p hp; cases p <;> first | rfl | exact bit_absurd (by decide +kernel) hR hp)) | intro _ | dsimp only
      | apply Keeps.set_keys | apply Keeps.change

theorem execSwitchCheck_keeps {R : Nat} {s₀ : State} {s : State}
    (hR : 0xb00000000000000000000930000000000000000000010000008000000000801 ||| R = R)
    (hk : Keeps R s₀ s) : ResultKeeps R s₀ (execSwitchCheck s) := by
  unfold execSwitchCheck
  extract_lets v0 v1 v2 v3
  have hv3 : Keeps R s₀ v3 := by
    unfold v3
    with_reducible
      repeat' first
        | assumption | exact sub_trans (by decide +kernel) hR | exact bit_of (by decide +kernel) hR | apply State.put_keeps
        | apply State.useFree_keeps | apply State.ciphEvent_keeps | apply State.ciphCnt_keeps | apply State.endRotations_keeps
        | apply State.keyDone_keeps | apply ResultKeeps.next | exact id | exact fun _ => rfl | exact fun _ _ _ => rfl | apply Keeps.foldl
        | apply Keeps.foldl_snd | apply Keeps.foldl_fst | apply Keeps.foldl_build | split
        | (with_unfolding_all (intro p hp; cases p <;> first | rfl | exact bit_absurd (by decide +kernel) hR hp)) | intro _ | dsimp only
        | apply Keeps.set_switches | apply Keeps.change
  try dsimp only
  with_reducible
    repeat' first
      | assumption | exact sub_trans (by decide +kernel) hR | exact bit_of (by decide +kernel) hR | apply State.put_keeps | apply State.useFree_keeps
      | apply State.ciphEvent_keeps | apply State.ciphCnt_keeps | apply State.endRotations_keeps | apply State.keyDone_keeps | apply ResultKeeps.next
      | exact id | exact fun _ => rfl | exact fun _ _ _ => rfl | apply Keeps.foldl | apply Keeps.foldl_snd | apply Keeps.foldl_fst
      | apply Keeps.foldl_build | split | (with_unfolding_all (intro p hp; cases p <;> first | rfl | exact bit_absurd (by decide +kernel) hR hp))
      | intro _ | dsimp only | apply Keeps.set_switches | apply Keeps.change

theorem State.expireUser_keeps {R : Nat} {s₀ : State} {s : State} (frame : Nat) (m : Nat × Nat)
    (hR : 0x30000000000000000000080100000000000000000000030000000000000000000000000008000000000001 ||| R = R)
    (hk : Keeps R s₀ s) : Keeps R s₀ (State.expireUser frame m s) := by
  unfold State.expireUser
  try dsimp only
  with_reducible
    repeat' first
      | assumption | exact sub_trans (by decide +kernel) hR | exact bit_of (by decide +kernel) hR | apply State.put_keeps
      | apply State.ciphEvent_keeps | apply State.ciphCnt_keeps | apply State.toggleSlot_keeps | exact id | exact fun _ => rfl
      | exact fun _ _ _ => rfl | split | (with_unfolding_all (intro p hp; cases p <;> first | rfl | exact bit_absurd (by decide +kernel) hR hp))
      | intro _ | dsimp only | apply Keeps.set_switches | apply Keeps.change

theorem execKeyExpiry_keeps {R : Nat} {s₀ : State} {s : State} (d k : Nat)
    (hR : 0x30000000000000000000080100000000000000000000030000000000000000000000000008000000000001 ||| R = R)
    (hk : Keeps R s₀ s) : ResultKeeps R s₀ (execKeyExpiry d k s) := by
  unfold execKeyExpiry
  try dsimp only
  with_reducible
    repeat' first
      | assumption | exact sub_trans (by decide +kernel) hR | exact bit_of (by decide +kernel) hR | apply State.put_keeps
      | apply State.expireUser_keeps | apply ResultKeeps.next | apply Keeps.foldl | apply Keeps.foldl_snd | apply Keeps.foldl_fst
      | apply Keeps.foldl_build | split | intro _ | dsimp only

theorem execStarvedResume_keeps {R : Nat} {s₀ : State} {s : State} (t p : Nat)
    (hR : 0x30000000000000000000080000000000000000000000000000000000000000000000000000000000000000 ||| R = R)
    (hk : Keeps R s₀ s) : ResultKeeps R s₀ (execStarvedResume t p s) := by
  unfold execStarvedResume
  try dsimp only
  with_reducible
    repeat' first
      | assumption | exact sub_trans (by decide +kernel) hR | exact bit_of (by decide +kernel) hR | apply State.put_keeps
      | apply State.toggleSlot_keeps | apply ResultKeeps.next | split | intro _ | dsimp only

theorem execLpBindWrite_keeps {R : Nat} {s₀ : State} {s : State} (t p pair : Nat) (encrypt : Bool) (txSc : Nat)
    (hR : 0x80000000000000000000000030000000000010000000000000004000000000000 ||| R = R)
    (hk : Keeps R s₀ s) : ResultKeeps R s₀ (execLpBindWrite t p pair encrypt txSc s) := by
  unfold execLpBindWrite
  try dsimp only
  with_reducible
    repeat' first
      | assumption | exact sub_trans (by decide +kernel) hR | exact bit_of (by decide +kernel) hR | apply State.put_keeps | apply State.putFlag_keeps
      | apply State.fwEvent_keeps | apply ResultKeeps.next | exact id | exact fun _ => rfl | exact fun _ _ _ => rfl | split
      | (with_unfolding_all (intro p hp; cases p <;> first | rfl | exact bit_absurd (by decide +kernel) hR hp)) | intro _ | dsimp only
      | apply Keeps.set_oldBind | apply Keeps.change

theorem State.msecDone_keeps {R : Nat} {s₀ : State} {s : State} (d r : Nat)
    (hR : 0x2000000000000000000000000000000000000000000000000000000000000000 ||| R = R)
    (hk : Keeps R s₀ s) : Keeps R s₀ (State.msecDone d r s) := by
  unfold State.msecDone
  try dsimp only
  with_reducible
    repeat' first
      | assumption | exact sub_trans (by decide +kernel) hR | exact bit_of (by decide +kernel) hR | apply State.put_keeps | split | intro _
      | dsimp only

theorem execMsecRead_keeps {R : Nat} {s₀ : State} {s : State} (d : Nat) (assoc : Bool) (index : Nat)
    (hR : 0x6000000000000000000000000000000000000000000000000000000000000000 ||| R = R)
    (hk : Keeps R s₀ s) : ResultKeeps R s₀ (execMsecRead d assoc index s) := by
  unfold execMsecRead
  try dsimp only
  with_reducible
    repeat' first
      | assumption | exact sub_trans (by decide +kernel) hR | exact bit_of (by decide +kernel) hR | apply State.putWords_keeps
      | apply State.msecDone_keeps | apply ResultKeeps.next | split | intro _ | dsimp only

theorem execMsecChannelWrite_keeps {R : Nat} {s₀ : State} {s : State} (d c : Nat)
    (hR : 0x180000000000000000000002000000000000000000000000000000000000000000000000000000000000000 ||| R = R)
    (hk : Keeps R s₀ s) : ResultKeeps R s₀ (execMsecChannelWrite d c s) := by
  unfold execMsecChannelWrite
  try dsimp only
  with_reducible
    repeat' first
      | assumption | exact sub_trans (by decide +kernel) hR | exact bit_of (by decide +kernel) hR | apply State.put_keeps | apply State.putFlag_keeps
      | apply State.msecDone_keeps | apply ResultKeeps.next | split | intro _ | dsimp only

theorem State.moveArmed_keeps {R : Nat} {s₀ : State} {s : State} (d c : Nat)
    (hR : 0x100000000000000000000000000000000000000000000000000000000000000000000000000000000000000 ||| R = R)
    (hk : Keeps R s₀ s) : Keeps R s₀ (State.moveArmed d c s) := by
  unfold State.moveArmed
  try dsimp only
  with_reducible
    repeat' first
      | assumption | exact sub_trans (by decide +kernel) hR | exact bit_of (by decide +kernel) hR | apply State.put_keeps | split | intro _
      | dsimp only

theorem execArm_keeps {R : Nat} {s₀ : State} {s : State} (d a : Nat)
    (hR : 0x100000000000000000000002000000000000000000000000000000000000000000000000000000000000000 ||| R = R)
    (hk : Keeps R s₀ s) : ResultKeeps R s₀ (execArm d a s) := by
  unfold execArm
  try dsimp only
  with_reducible
    repeat' first
      | assumption | exact sub_trans (by decide +kernel) hR | exact bit_of (by decide +kernel) hR | apply State.put_keeps | apply State.msecDone_keeps
      | apply State.moveArmed_keeps | apply ResultKeeps.next | split | intro _ | dsimp only

theorem State.pnAfter_keeps {R : Nat} {s₀ : State} {s : State} (d a pn : Nat)
    (hR : 0x200000000000000000000000100000000000000000000030000000000000000000000000000000000000080 ||| R = R)
    (hk : Keeps R s₀ s) : Keeps R s₀ (State.pnAfter d a pn s) := by
  unfold State.pnAfter
  extract_lets v0 v1 v2 v3 v4 v5 v6
  have hv2 : Keeps R s₀ v2 := by
    unfold v2
    with_reducible
      repeat' first
        | assumption | exact sub_trans (by decide +kernel) hR | exact bit_of (by decide +kernel) hR | apply State.put_keeps
        | apply State.ciphEvent_keeps | apply State.askRecord_keeps | split | intro _ | dsimp only
  have hv3 : Keeps R s₀ v3 := by
    unfold v3
    with_reducible
      repeat' first
        | assumption | exact sub_trans (by decide +kernel) hR | exact bit_of (by decide +kernel) hR | apply State.put_keeps
        | apply State.ciphEvent_keeps | apply State.askRecord_keeps | split | intro _ | dsimp only
  try dsimp only
  with_reducible
    repeat' first
      | assumption | exact sub_trans (by decide +kernel) hR | exact bit_of (by decide +kernel) hR | apply State.put_keeps
      | apply State.ciphEvent_keeps | apply State.askRecord_keeps | split | intro _ | dsimp only

theorem State.takePn_keeps {R : Nat} {s₀ : State} {s : State} (d c : Nat)
    (hR : 0x700000000000000000000000100000000000000000000030000000000000000000000000000000000000081 ||| R = R)
    (hk : Keeps R s₀ s) : Keeps R s₀ (State.takePn d c s).2 := by
  unfold State.takePn
  extract_lets v0 v1 v2 v3
  have hv1 : Keeps R s₀ v1 := by
    unfold v1
    with_reducible
      repeat' first
        | assumption | exact sub_trans (by decide +kernel) hR | exact bit_of (by decide +kernel) hR | apply State.put_keeps
        | apply State.ciphEvent_keeps | apply State.ciphCnt_keeps | apply State.moveArmed_keeps | apply State.pnAfter_keeps | split | intro _
        | dsimp only
  try dsimp only
  with_reducible
    repeat' first
      | assumption | exact sub_trans (by decide +kernel) hR | exact bit_of (by decide +kernel) hR | apply State.put_keeps
      | apply State.ciphEvent_keeps | apply State.ciphCnt_keeps | apply State.moveArmed_keeps | apply State.pnAfter_keeps | split | intro _
      | dsimp only

theorem State.takePn_keeps_pair {R : Nat} {s₀ : State} {s s' : State} {r : PnTake} {d c : Nat}
    (hR : 0x700000000000000000000000100000000000000000000030000000000000000000000000000000000000081 ||| R = R) (heq : State.takePn d c s = (r, s'))
    (hk : Keeps R s₀ s) : Keeps R s₀ s' := by
  have := State.takePn_keeps d c hR hk
  rwa [heq] at this

theorem State.nextIndex_keeps {R : Nat} {s₀ : State} {s : State} (t p : Nat) (up : Bool)
    (hR : 0x10000000000000 ||| R = R)
    (hk : Keeps R s₀ s) : Keeps R s₀ (State.nextIndex t p up s).2 := by
  unfold State.nextIndex
  try dsimp only
  with_reducible
    repeat' first
      | assumption | exact sub_trans (by decide +kernel) hR | exact bit_of (by decide +kernel) hR | exact id | exact fun _ => rfl
      | exact fun _ _ _ => rfl | split | (with_unfolding_all (intro p hp; cases p <;> first | rfl | exact bit_absurd (by decide +kernel) hR hp))
      | intro _ | dsimp only | apply Keeps.set_xgemIndex | apply Keeps.change

theorem State.nextIndex_keeps_pair {R : Nat} {s₀ : State} {s s' : State} {r : Nat} {t p : Nat} {up : Bool}
    (hR : 0x10000000000000 ||| R = R) (heq : State.nextIndex t p up s = (r, s'))
    (hk : Keeps R s₀ s) : Keeps R s₀ s' := by
  have := State.nextIndex_keeps t p up hR hk
  rwa [heq] at this

theorem State.putXgem_keeps {R : Nat} {s₀ : State} {s : State} (t k p ki iv n : Nat) (lf : Bool) (data : List Nat)
    (hR : 0x20000000000002000000 ||| R = R)
    (hk : Keeps R s₀ s) : Keeps R s₀ (State.putXgem t k p ki iv n lf data s) := by
  unfold State.putXgem
  try dsimp only
  with_reducible
    repeat' first
      | assumption | exact sub_trans (by decide +kernel) hR | apply State.modSet_keeps | apply State.emitTree_keeps | split | intro _ | dsimp only

theorem State.sendPiece_keeps {R : Nat} {s₀ : State} {s : State} (f : Frame) (lf : Bool) (piece : List Nat)
    (hR : 0x10100000000000000000000030000000000000000000020000010000002000001 ||| R = R)
    (hk : Keeps R s₀ s) : Keeps R s₀ (State.sendPiece f lf piece s) := by
  unfold State.sendPiece
  try dsimp only
  with_reducible
    repeat' first
      | assumption | exact sub_trans (by decide +kernel) hR | apply State.sepFrame_keeps | apply State.ciphCnt_keeps | apply State.nextIndex_keeps
      | refine State.nextIndex_keeps_pair ?_ (by assumption) ?_ | apply State.putXgem_keeps | split | intro _ | dsimp only

theorem State.sendBytes_keeps {R : Nat} {s₀ : State} {s : State} (f : Frame) (ends : Bool) (x2 : Nat) (x3 : List Nat)
    (hR : 0x10100000000000000000000030000000000000000000020000010000002000001 ||| R = R)
    (hk : Keeps R s₀ s) : Keeps R s₀ (State.sendBytes f ends x2 x3 s) := by
  induction x2 generalizing s x3 with
  | zero =>
    unfold State.sendBytes
    try dsimp only
    with_reducible repeat' first | assumption | exact sub_trans (by decide +kernel) hR | apply State.sendPiece_keeps | split | intro _ | dsimp only
  | succ n ih =>
    unfold State.sendBytes
    try dsimp only
    with_reducible
      repeat' first
        | assumption | exact sub_trans (by decide +kernel) hR | apply ih | apply State.sendPiece_keeps | split | intro _ | dsimp only

theorem State.sendRest_keeps {R : Nat} {s₀ : State} {s : State} (f : Frame) (b : List Nat)
    (hR : 0x10100000000000000000000030000000000000000000020000010000002000001 ||| R = R)
    (hk : Keeps R s₀ s) : Keeps R s₀ (State.sendRest f b s) := by
  unfold State.sendRest
  try dsimp only
  with_reducible repeat' first | assumption | exact sub_trans (by decide +kernel) hR | apply State.sendBytes_keeps | split | intro _ | dsimp only

theorem State.endSending_keeps {R : Nat} {s₀ : State} {s : State} (t k : Nat)
    (hR : 0x10100000000000000000000030000000000000000000020000010000002000001 ||| R = R)
    (hk : Keeps R s₀ s) : Keeps R s₀ (State.endSending t k s) := by
  unfold State.endSending
  try dsimp only
  with_reducible
    repeat' first
      | assumption | exact sub_trans (by decide +kernel) hR | apply State.modSet_keeps | apply State.sendRest_keeps | split | intro _ | dsimp only

theorem State.treeSend_keeps {R : Nat} {s₀ : State} {s : State} (cut : Bool) (f : Frame)
    (hR : 0x10100000000000000000000030000000000000000000020000010000002000001 ||| R = R)
    (hk : Keeps R s₀ s) : Keeps R s₀ (State.treeSend cut f s) := by
  unfold State.treeSend
  try dsimp only
  with_reducible
    repeat' first
      | assumption | exact sub_trans (by decide +kernel) hR | apply State.modSet_keeps | apply State.sendRest_keeps | apply State.endSending_keeps
      | split | intro _ | dsimp only

theorem State.cutSending_keeps {R : Nat} {s₀ : State} {s : State} (t k come : Nat)
    (hR : 0x10100000000000000000000030000000000000000000020000010000002000001 ||| R = R)
    (hk : Keeps R s₀ s) : Keeps R s₀ (State.cutSending t k come s) := by
  unfold State.cutSending
  try dsimp only
  with_reducible
    repeat' first
      | assumption | exact sub_trans (by decide +kernel) hR | apply State.modSet_keeps | apply State.sendBytes_keeps | apply State.endSending_keeps
      | split | intro _ | dsimp only

end Sys2Proof.Machine
end

