-- ==== Sys2Proof/Laws/KeepsMram.lean ====
section
/-!
SUPPORT. Every operation of Machine/Mram.lean keeps what `Keeps` names.
-/

namespace Sys2Proof.Machine

set_option Elab.async false
set_option linter.all false

theorem State.markCommitted_keeps {R : Nat} {s₀ : State} {s : State} (d : Nat) (r : MRec)
    (hR : 0xa00000000000000000000000a00000000000000000000000000000000000000000000000000000000000000 ||| R = R)
    (hk : Keeps R s₀ s) : Keeps R s₀ (State.markCommitted d r s) := by
  unfold State.markCommitted
  try dsimp only
  with_reducible
    repeat' first
      | assumption | exact sub_trans (by decide +kernel) hR | exact bit_of (by decide +kernel) hR | apply State.put_keeps | apply State.keyDone_keeps
      | split | intro _ | dsimp only

theorem State.judgeReserve_keeps {R : Nat} {s₀ : State} {s : State} (d : Nat)
    (hR : 0x30000000000000000000000000000000000000080 ||| R = R)
    (hk : Keeps R s₀ s) : Keeps R s₀ (State.judgeReserve d s) := by
  unfold State.judgeReserve
  extract_lets v0 v1 v2
  have hv2 : Keeps R s₀ v2 := by
    unfold v2
    with_reducible
      repeat' first
        | assumption | exact sub_trans (by decide +kernel) hR | apply State.raise_keeps | apply State.modMram_keeps | split | intro _ | dsimp only
  try dsimp only
  with_reducible
    repeat' first
      | assumption | exact sub_trans (by decide +kernel) hR | apply State.raise_keeps | apply State.modMram_keeps | split | intro _ | dsimp only

theorem State.perfCnt_keeps {R : Nat} {s₀ : State} {s : State} (d k n : Nat)
    (hR : 0x1 ||| R = R)
    (hk : Keeps R s₀ s) : Keeps R s₀ (State.perfCnt d k n s) := by
  unfold State.perfCnt
  try dsimp only
  with_reducible repeat' first | assumption | exact sub_trans (by decide +kernel) hR | apply State.bump_keeps | split | intro _ | dsimp only

theorem State.writeRecord_keeps {R : Nat} {s₀ : State} {s : State} (d type key : Nat) (payload : List Nat)
    (hR : 0xa00000000000000000000000a00000000000000000000030000000000000000000000000000000000000081 ||| R = R)
    (hk : Keeps R s₀ s) : Keeps R s₀ (State.writeRecord d type key payload s) := by
  unfold State.writeRecord
  try dsimp only
  with_reducible
    repeat' first
      | assumption | exact sub_trans (by decide +kernel) hR | apply State.modMram_keeps | apply State.markCommitted_keeps
      | apply State.judgeReserve_keeps | apply State.perfCnt_keeps | split | intro _ | dsimp only

theorem State.writeAll_keeps {R : Nat} {s₀ : State} {s : State} (type key : Nat) (payload : List Nat)
    (hR : 0xa00000000000000000000000a00000000000000000000030000000000000000000000000000000000000081 ||| R = R)
    (hk : Keeps R s₀ s) : Keeps R s₀ (State.writeAll type key payload s) := by
  unfold State.writeAll
  try dsimp only
  with_reducible
    repeat' first
      | assumption | exact sub_trans (by decide +kernel) hR | apply State.writeRecord_keeps | apply Keeps.foldl | apply Keeps.foldl_snd
      | apply Keeps.foldl_fst | apply Keeps.foldl_build | split | intro _ | dsimp only

theorem execMramRecordCommit_keeps {R : Nat} {s₀ : State} {s : State} (d : Nat)
    (hR : 0xa00000000000000000000000a00000000000000000000030000000000000000000000000000000000000081 ||| R = R)
    (hk : Keeps R s₀ s) : ResultKeeps R s₀ (execMramRecordCommit d s) := by
  unfold execMramRecordCommit
  try dsimp only
  with_reducible
    repeat' first
      | assumption | exact sub_trans (by decide +kernel) hR | apply State.modMram_keeps | apply State.writeRecord_keeps | apply ResultKeeps.next
      | split | intro _ | dsimp only

theorem State.writeWaiting_keeps {R : Nat} {s₀ : State} {s : State} (d : Nat) (x1 : List MRec)
    (hR : 0xa00000000000000000000000a00000000000000000000000000000000000000000000000000000000000080 ||| R = R)
    (hk : Keeps R s₀ s) : Keeps R s₀ (State.writeWaiting d x1 s) := by
  induction x1 generalizing s with
  | nil =>
    unfold State.writeWaiting
    try dsimp only
    with_reducible
      repeat' first
        | assumption | exact sub_trans (by decide +kernel) hR | apply State.modMram_keeps | apply State.markCommitted_keeps | split | intro _
        | dsimp only
  | cons a l ih =>
    unfold State.writeWaiting
    try dsimp only
    with_reducible
      repeat' first
        | assumption | exact sub_trans (by decide +kernel) hR | apply ih | apply State.modMram_keeps | apply State.markCommitted_keeps | split
        | intro _ | dsimp only

theorem State.reclaimFor_keeps {R : Nat} {s₀ : State} {s : State} (d x1 : Nat)
    (hR : 0xa00000000000000000000000a00000000000000000000000000000000000000000000000000000000000080 ||| R = R)
    (hk : Keeps R s₀ s) : Keeps R s₀ (State.reclaimFor d x1 s) := by
  induction x1 generalizing s with
  | zero =>
    unfold State.reclaimFor
    try dsimp only
    with_reducible
      repeat' first
        | assumption | exact sub_trans (by decide +kernel) hR | apply State.modMram_keeps | apply State.writeWaiting_keeps | split | intro _
        | dsimp only
  | succ n ih =>
    unfold State.reclaimFor
    try dsimp only
    with_reducible
      repeat' first
        | assumption | exact sub_trans (by decide +kernel) hR | apply ih | apply State.modMram_keeps | apply State.writeWaiting_keeps | split
        | intro _ | dsimp only

theorem execPageReclaim_keeps {R : Nat} {s₀ : State} {s : State} (d : Nat)
    (hR : 0xa00000000000000000000000a00000000000000000000030000000000000000000000000000000000000080 ||| R = R)
    (hk : Keeps R s₀ s) : ResultKeeps R s₀ (execPageReclaim d s) := by
  unfold execPageReclaim
  try dsimp only
  with_reducible
    repeat' first
      | assumption | exact sub_trans (by decide +kernel) hR | apply State.judgeReserve_keeps | apply State.reclaimFor_keeps | apply ResultKeeps.next
      | split | intro _ | dsimp only

theorem execRecordRotation_keeps {R : Nat} {s₀ : State} {s : State} (d : Nat)
    (hR : 0x30000000000000000000000000000000000000080 ||| R = R)
    (hk : Keeps R s₀ s) : ResultKeeps R s₀ (execRecordRotation d s) := by
  unfold execRecordRotation
  try dsimp only
  with_reducible
    repeat' first
      | assumption | exact sub_trans (by decide +kernel) hR | apply State.modMram_keeps | apply State.judgeReserve_keeps | apply ResultKeeps.next
      | split | intro _ | dsimp only

theorem State.tearRecord_keeps {R : Nat} {s₀ : State} {s : State} (d : Nat)
    (hR : 0x10000000000000000080 ||| R = R)
    (hk : Keeps R s₀ s) : Keeps R s₀ (State.tearRecord s d) := by
  unfold State.tearRecord
  try dsimp only
  with_reducible
    repeat' first
      | assumption | exact sub_trans (by decide +kernel) hR | apply State.useFree_keeps | apply State.modMram_keeps | split | intro _ | dsimp only

theorem State.scanRecords_keeps {R : Nat} {s₀ : State} {s : State}
    (hR : 0x30000000000000800000000000000000000000080 ||| R = R)
    (hk : Keeps R s₀ s) : Keeps R s₀ (State.scanRecords s) := by
  unfold State.scanRecords
  try dsimp only
  with_reducible
    repeat' first
      | assumption | exact sub_trans (by decide +kernel) hR | exact bit_of (by decide +kernel) hR | apply State.addSat_keeps
      | apply State.raisePkg_keeps | apply State.modMram_keeps | apply Keeps.foldl | apply Keeps.foldl_snd | apply Keeps.foldl_fst
      | apply Keeps.foldl_build | split | intro _ | dsimp only

theorem execEventLog_keeps {R : Nat} {s₀ : State} {s : State} (d die src : Nat)
    (hR : 0xa00000000000000000000000a00000000000000000000030000000000000000000000000000000000000491 ||| R = R)
    (hk : Keeps R s₀ s) : ResultKeeps R s₀ (execEventLog d die src s) := by
  unfold execEventLog
  try dsimp only
  with_reducible
    repeat' first
      | assumption | exact sub_trans (by decide +kernel) hR | apply State.bump_keeps | apply State.modTweed_keeps | apply State.modLoader_keeps
      | apply State.perfCnt_keeps | apply State.writeRecord_keeps | apply ResultKeeps.next | exact fun _ hl => hl | split | intro _ | dsimp only

end Sys2Proof.Machine
end

