-- ==== Sys2Proof/Laws/KeepsParse.lean ====
section
/-!
SUPPORT. Every operation of Machine/Parse.lean keeps what `Keeps` names.
-/

namespace Sys2Proof.Machine

set_option Elab.async false
set_option linter.all false

theorem State.parseCnt_keeps {R : Nat} {s₀ : State} {s : State} (d k : Nat)
    (hR : 0x1 ||| R = R)
    (hk : Keeps R s₀ s) : Keeps R s₀ (State.parseCnt d k s) := by
  unfold State.parseCnt
  try dsimp only
  with_reducible repeat' first | assumption | exact sub_trans (by decide +kernel) hR | apply State.bump_keeps | split | intro _ | dsimp only

theorem State.recordParse_keeps {R : Nat} {s₀ : State} {s : State} (d : Nat) (up : Bool) (profile tree lane : Nat) (p : Parsed)
    (hR : 0x800000000000000000000000000000000000000000000000000001 ||| R = R)
    (hk : Keeps R s₀ s) : Keeps R s₀ (State.recordParse d up profile tree lane p s) := by
  unfold State.recordParse
  try dsimp only
  with_reducible
    repeat' first
      | assumption | exact sub_trans (by decide +kernel) hR | exact bit_of (by decide +kernel) hR | apply State.put_keeps | apply State.putFlag_keeps
      | apply State.parseCnt_keeps | split | intro _ | dsimp only

theorem State.parseFrame_keeps {R : Nat} {s₀ : State} {s : State} (d profile : Nat) (f : Frame)
    (hR : 0x800000000000000000000000000000000000000000000000000001 ||| R = R)
    (hk : Keeps R s₀ s) : Keeps R s₀ (State.parseFrame d profile f s).2 := by
  unfold State.parseFrame
  extract_lets v0 v1 v2
  have hv1 : Keeps R s₀ v1 := by
    unfold v1
    with_reducible
      repeat' first
        | assumption | exact sub_trans (by decide +kernel) hR | apply State.parseCnt_keeps | apply State.recordParse_keeps | split | intro _
        | dsimp only
  try dsimp only
  with_reducible
    repeat' first
      | assumption | exact sub_trans (by decide +kernel) hR | apply State.parseCnt_keeps | apply State.recordParse_keeps | split | intro _
      | dsimp only

theorem State.parseFrame_keeps_pair {R : Nat} {s₀ : State} {s s' : State} {r : Option Frame} {d profile : Nat} {f : Frame}
    (hR : 0x800000000000000000000000000000000000000000000000000001 ||| R = R) (heq : State.parseFrame d profile f s = (r, s'))
    (hk : Keeps R s₀ s) : Keeps R s₀ s' := by
  have := State.parseFrame_keeps d profile f hR hk
  rwa [heq] at this

end Sys2Proof.Machine
end

