-- ==== Sys2Proof/Laws/KeepsClassify.lean ====
section
/-!
SUPPORT. Every operation of Machine/Classify.lean keeps what `Keeps` names.
-/

namespace Sys2Proof.Machine

set_option Elab.async false
set_option linter.all false

theorem State.exactSet_keeps {R : Nat} {s₀ : State} {s : State} (d slot : Nat) (r : Option ExactRule)
    (hR : 0x400000000 ||| R = R)
    (hk : Keeps R s₀ s) : Keeps R s₀ (State.exactSet d slot r s) := by
  unfold State.exactSet
  try dsimp only
  with_reducible
    repeat' first
      | assumption | exact sub_trans (by decide +kernel) hR | exact bit_of (by decide +kernel) hR | exact id | exact fun _ => rfl
      | exact fun _ _ _ => rfl | split | (with_unfolding_all (intro p hp; cases p <;> first | rfl | exact bit_absurd (by decide +kernel) hR hp))
      | intro _ | dsimp only | apply Keeps.set_exact | apply Keeps.change

theorem State.classDone_keeps {R : Nat} {s₀ : State} {s : State} (d r : Nat)
    (hR : 0x20000000000000000000000000000000000000000000000000000000 ||| R = R)
    (hk : Keeps R s₀ s) : Keeps R s₀ (State.classDone d r s) := by
  unfold State.classDone
  try dsimp only
  with_reducible
    repeat' first
      | assumption | exact sub_trans (by decide +kernel) hR | exact bit_of (by decide +kernel) hR | apply State.put_keeps | split | intro _
      | dsimp only

theorem State.showAction_keeps {R : Nat} {s₀ : State} {s : State} (d : Nat) (a : RuleAction)
    (hR : 0x80000000000000000000000000000000000000000000000000000000 ||| R = R)
    (hk : Keeps R s₀ s) : Keeps R s₀ (State.showAction d a s) := by
  unfold State.showAction
  try dsimp only
  with_reducible
    repeat' first
      | assumption | exact sub_trans (by decide +kernel) hR | exact bit_of (by decide +kernel) hR | apply State.putWords_keeps | split | intro _
      | dsimp only

theorem execClassRuleReadExact_keeps {R : Nat} {s₀ : State} {s : State} (d : Nat)
    (hR : 0xa0000000000000000000000000000000000000000000000000000000 ||| R = R)
    (hk : Keeps R s₀ s) : Keeps R s₀ (execClassRuleReadExact d s) := by
  unfold execClassRuleReadExact
  try dsimp only
  with_reducible
    repeat' first
      | assumption | exact sub_trans (by decide +kernel) hR | apply State.classDone_keeps | apply State.showAction_keeps | split | intro _
      | dsimp only

theorem execClassRuleRead_keeps {R : Nat} {s₀ : State} {s : State} (d : Nat) (ternary : Bool) (index : Nat)
    (hR : 0xa0000000000000000000000000000000000000000000000000000000 ||| R = R)
    (hk : Keeps R s₀ s) : ResultKeeps R s₀ (execClassRuleRead d ternary index s) := by
  unfold execClassRuleRead
  try dsimp only
  with_reducible
    repeat' first
      | assumption | exact sub_trans (by decide +kernel) hR | exact bit_of (by decide +kernel) hR | apply State.putWords_keeps
      | apply State.classDone_keeps | apply State.showAction_keeps | apply execClassRuleReadExact_keeps | apply ResultKeeps.next | split | intro _
      | dsimp only

theorem execTernaryWrite_keeps {R : Nat} {s₀ : State} {s : State} (d index : Nat)
    (hR : 0x20000000000000000000000000000000000000000000000800000000 ||| R = R)
    (hk : Keeps R s₀ s) : ResultKeeps R s₀ (execTernaryWrite d index s) := by
  unfold execTernaryWrite
  try dsimp only
  with_reducible
    repeat' first
      | assumption | exact sub_trans (by decide +kernel) hR | exact bit_of (by decide +kernel) hR | apply State.classDone_keeps
      | apply ResultKeeps.next | exact id | exact fun _ => rfl | exact fun _ _ _ => rfl | split
      | (with_unfolding_all (intro p hp; cases p <;> first | rfl | exact bit_absurd (by decide +kernel) hR hp)) | intro _ | dsimp only
      | apply Keeps.set_tern | apply Keeps.change

theorem execExactInsert_keeps {R : Nat} {s₀ : State} {s : State} (d : Nat)
    (hR : 0x60000000000000000000000000000000000000000000000400000000 ||| R = R)
    (hk : Keeps R s₀ s) : ResultKeeps R s₀ (execExactInsert d s) := by
  unfold execExactInsert
  try dsimp only
  with_reducible
    repeat' first
      | assumption | exact sub_trans (by decide +kernel) hR | exact bit_of (by decide +kernel) hR | apply State.put_keeps | apply State.addSat_keeps
      | apply State.exactSet_keeps | apply State.classDone_keeps | apply ResultKeeps.next | split | intro _ | dsimp only

theorem execExactReplace_keeps {R : Nat} {s₀ : State} {s : State} (d : Nat)
    (hR : 0x20000000000000000000000000000000000000000000000400000000 ||| R = R)
    (hk : Keeps R s₀ s) : ResultKeeps R s₀ (execExactReplace d s) := by
  unfold execExactReplace
  try dsimp only
  with_reducible
    repeat' first
      | assumption | exact sub_trans (by decide +kernel) hR | apply State.exactSet_keeps | apply State.classDone_keeps | apply ResultKeeps.next
      | split | intro _ | dsimp only

theorem execExactDelete_keeps {R : Nat} {s₀ : State} {s : State} (d : Nat)
    (hR : 0x60000000000000000000000000000000000000000000000400000000 ||| R = R)
    (hk : Keeps R s₀ s) : ResultKeeps R s₀ (execExactDelete d s) := by
  unfold execExactDelete
  try dsimp only
  with_reducible
    repeat' first
      | assumption | exact sub_trans (by decide +kernel) hR | exact bit_of (by decide +kernel) hR | apply State.put_keeps | apply State.exactSet_keeps
      | apply State.classDone_keeps | apply ResultKeeps.next | split | intro _ | dsimp only

theorem State.meterDone_keeps {R : Nat} {s₀ : State} {s : State} (d r : Nat)
    (hR : 0x200000000000000000000000000000000000000000000000000000000 ||| R = R)
    (hk : Keeps R s₀ s) : Keeps R s₀ (State.meterDone d r s) := by
  unfold State.meterDone
  try dsimp only
  with_reducible
    repeat' first
      | assumption | exact sub_trans (by decide +kernel) hR | exact bit_of (by decide +kernel) hR | apply State.put_keeps | split | intro _
      | dsimp only

theorem execMeterRead_keeps {R : Nat} {s₀ : State} {s : State} (d m : Nat)
    (hR : 0x600000000000000000000000000000000000000000000000000000000 ||| R = R)
    (hk : Keeps R s₀ s) : ResultKeeps R s₀ (execMeterRead d m s) := by
  unfold execMeterRead
  try dsimp only
  with_reducible
    repeat' first
      | assumption | exact sub_trans (by decide +kernel) hR | exact bit_of (by decide +kernel) hR | apply State.putWords_keeps
      | apply State.meterDone_keeps | apply ResultKeeps.next | split | intro _ | dsimp only

theorem execMeterWrite_keeps {R : Nat} {s₀ : State} {s : State} (d m : Nat) (keep : Bool)
    (hR : 0x780000000000000000000000200000000000000000000000000000000000000000000000000000000 ||| R = R)
    (hk : Keeps R s₀ s) : ResultKeeps R s₀ (execMeterWrite d m keep s) := by
  unfold execMeterWrite
  try dsimp only
  with_reducible
    repeat' first
      | assumption | exact sub_trans (by decide +kernel) hR | exact bit_of (by decide +kernel) hR | exact all_bits_of (by decide +kernel) hR
      | apply State.put_keeps | apply State.unpackRec_keeps | apply State.meterDone_keeps | apply ResultKeeps.next | split | intro _ | dsimp only

theorem State.police_keeps {R : Nat} {s₀ : State} {s : State} (i len c : Nat)
    (hR : 0x600000000000000000000000000000000000000000000000000000000000000000000000000000000 ||| R = R)
    (hk : Keeps R s₀ s) : Keeps R s₀ (State.police i len c s).2 := by
  unfold State.police
  try dsimp only
  with_reducible
    repeat' first
      | assumption | exact sub_trans (by decide +kernel) hR | exact bit_of (by decide +kernel) hR | apply State.put_keeps | split | intro _
      | dsimp only

theorem State.police_keeps_pair {R : Nat} {s₀ : State} {s s' : State} {r : Nat} {i len c : Nat}
    (hR : 0x600000000000000000000000000000000000000000000000000000000000000000000000000000000 ||| R = R) (heq : State.police i len c s = (r, s'))
    (hk : Keeps R s₀ s) : Keeps R s₀ s' := by
  have := State.police_keeps i len c hR hk
  rwa [heq] at this

theorem State.policeSecond_keeps {R : Nat} {s₀ : State} {s : State} (i len c : Nat)
    (hR : 0x700000000000000000000000000000000000000000000000000000000000000000000000000000000 ||| R = R)
    (hk : Keeps R s₀ s) : Keeps R s₀ (State.policeSecond i len c s).2 := by
  unfold State.policeSecond
  try dsimp only
  with_reducible
    repeat' first
      | assumption | exact sub_trans (by decide +kernel) hR | exact bit_of (by decide +kernel) hR | apply State.put_keeps | apply State.police_keeps
      | refine State.police_keeps_pair ?_ (by assumption) ?_ | split | intro _ | dsimp only

theorem State.policeSecond_keeps_pair {R : Nat} {s₀ : State} {s s' : State} {r : Nat} {i len c : Nat}
    (hR : 0x700000000000000000000000000000000000000000000000000000000000000000000000000000000 ||| R = R) (heq : State.policeSecond i len c s = (r, s'))
    (hk : Keeps R s₀ s) : Keeps R s₀ s' := by
  have := State.policeSecond_keeps i len c hR hk
  rwa [heq] at this

theorem State.classCnt_keeps {R : Nat} {s₀ : State} {s : State} (d k : Nat)
    (hR : 0x1 ||| R = R)
    (hk : Keeps R s₀ s) : Keeps R s₀ (State.classCnt d k s) := by
  unfold State.classCnt
  try dsimp only
  with_reducible repeat' first | assumption | exact sub_trans (by decide +kernel) hR | apply State.bump_keeps | split | intro _ | dsimp only

theorem State.ternMatch_keeps {R : Nat} {s₀ : State} {s : State} (d : Nat) (f : Frame) (key : BitVec 640)
    (hR : 0x10100000000000000000000030000000000000000000000000000000000000001 ||| R = R)
    (hk : Keeps R s₀ s) : Keeps R s₀ (State.ternMatch d f key s).2 := by
  unfold State.ternMatch
  try dsimp only
  with_reducible
    repeat' first
      | assumption | exact sub_trans (by decide +kernel) hR | exact bit_of (by decide +kernel) hR | apply State.sepFrame_keeps | exact id
      | exact fun _ => rfl | exact fun _ _ _ => rfl | apply Keeps.foldl | apply Keeps.foldl_snd | apply Keeps.foldl_fst | apply Keeps.foldl_build
      | split | (with_unfolding_all (intro p hp; cases p <;> first | rfl | exact bit_absurd (by decide +kernel) hR hp)) | intro _ | dsimp only
      | apply Keeps.change

theorem State.ternMatch_keeps_pair {R : Nat} {s₀ : State} {s s' : State} {r : TernHit} {d : Nat} {f : Frame} {key : BitVec 640}
    (hR : 0x10100000000000000000000030000000000000000000000000000000000000001 ||| R = R) (heq : State.ternMatch d f key s = (r, s'))
    (hk : Keeps R s₀ s) : Keeps R s₀ s' := by
  have := State.ternMatch_keeps d f key hR hk
  rwa [heq] at this

theorem State.ruleCount_keeps {R : Nat} {s₀ : State} {s : State} (d : Nat) (f : Frame) (a : RuleAction)
    (hR : 0x10100000000000000000000030000000000000000000000000000000000003001 ||| R = R)
    (hk : Keeps R s₀ s) : Keeps R s₀ (State.ruleCount d f a s).2 := by
  unfold State.ruleCount
  try dsimp only
  with_reducible
    repeat' first
      | assumption | exact sub_trans (by decide +kernel) hR | apply State.count_keeps | apply State.sepFrame_keeps | split | intro _ | dsimp only

theorem State.ruleCount_keeps_pair {R : Nat} {s₀ : State} {s s' : State} {r : Bool} {d : Nat} {f : Frame} {a : RuleAction}
    (hR : 0x10100000000000000000000030000000000000000000000000000000000003001 ||| R = R) (heq : State.ruleCount d f a s = (r, s'))
    (hk : Keeps R s₀ s) : Keeps R s₀ s' := by
  have := State.ruleCount_keeps d f a hR hk
  rwa [heq] at this

theorem State.ruleMeter_keeps {R : Nat} {s₀ : State} {s : State} (d : Nat) (f : Frame) (a : RuleAction) (second : Bool) (c : Nat)
    (hR : 0x700000000000000010100000000000000000000030000000000000000000000000000000000000001 ||| R = R)
    (hk : Keeps R s₀ s) : Keeps R s₀ (State.ruleMeter d f a second c s).2 := by
  unfold State.ruleMeter
  try dsimp only
  with_reducible
    repeat' first
      | assumption | exact sub_trans (by decide +kernel) hR | apply State.sepFrame_keeps | apply State.police_keeps
      | refine State.police_keeps_pair ?_ (by assumption) ?_ | apply State.policeSecond_keeps
      | refine State.policeSecond_keeps_pair ?_ (by assumption) ?_ | split | intro _ | dsimp only

theorem State.ruleMeter_keeps_pair {R : Nat} {s₀ : State} {s s' : State} {r : Option (Nat × Bool)} {d : Nat} {f : Frame} {a : RuleAction} {second : Bool} {c : Nat}
    (hR : 0x700000000000000010100000000000000000000030000000000000000000000000000000000000001 ||| R = R) (heq : State.ruleMeter d f a second c s = (r, s'))
    (hk : Keeps R s₀ s) : Keeps R s₀ s' := by
  have := State.ruleMeter_keeps d f a second c hR hk
  rwa [heq] at this

theorem State.runMeters_keeps {R : Nat} {s₀ : State} {s : State} (d : Nat) (f : Frame) (first second : Option RuleAction)
    (hR : 0x700000000000000010100000000000000000000030000000000000000000000000000000000000001 ||| R = R)
    (hk : Keeps R s₀ s) : Keeps R s₀ (State.runMeters d f first second s).2 := by
  unfold State.runMeters
  try dsimp only
  with_reducible
    repeat' first
      | assumption | exact sub_trans (by decide +kernel) hR | apply State.classCnt_keeps | apply State.ruleMeter_keeps
      | refine State.ruleMeter_keeps_pair ?_ (by assumption) ?_ | split | intro _ | dsimp only

theorem State.runMeters_keeps_pair {R : Nat} {s₀ : State} {s s' : State} {r : Option Frame} {d : Nat} {f : Frame} {first second : Option RuleAction}
    (hR : 0x700000000000000010100000000000000000000030000000000000000000000000000000000000001 ||| R = R) (heq : State.runMeters d f first second s = (r, s'))
    (hk : Keeps R s₀ s) : Keeps R s₀ s' := by
  have := State.runMeters_keeps d f first second hR hk
  rwa [heq] at this

theorem State.classDefault_keeps {R : Nat} {s₀ : State} {s : State} (d : Nat) (f : Frame)
    (hR : 0x1 ||| R = R)
    (hk : Keeps R s₀ s) : Keeps R s₀ (State.classDefault d f s).2 := by
  unfold State.classDefault
  extract_lets v0 v1 v2
  have hv0 : Keeps R s₀ v0 := by
    unfold v0
    with_reducible
      repeat' first
        | assumption | exact sub_trans (by decide +kernel) hR | apply State.bump_keeps | apply State.classCnt_keeps | split | intro _ | dsimp only
  try dsimp only
  with_reducible
    repeat' first
      | assumption | exact sub_trans (by decide +kernel) hR | apply State.bump_keeps | apply State.classCnt_keeps | split | intro _ | dsimp only

theorem State.classDefault_keeps_pair {R : Nat} {s₀ : State} {s s' : State} {r : Option Frame} {d : Nat} {f : Frame}
    (hR : 0x1 ||| R = R) (heq : State.classDefault d f s = (r, s'))
    (hk : Keeps R s₀ s) : Keeps R s₀ s' := by
  have := State.classDefault_keeps d f hR hk
  rwa [heq] at this

theorem State.classify_keeps {R : Nat} {s₀ : State} {s : State} (d profile : Nat) (f : Frame)
    (hR : 0x700000000000000010100000000000000000000030000000000000000000000000000000000003001 ||| R = R)
    (hk : Keeps R s₀ s) : Keeps R s₀ (State.classify d profile f s).2 := by
  unfold State.classify
  try dsimp only
  with_reducible
    repeat' first
      | assumption | exact sub_trans (by decide +kernel) hR | apply State.classCnt_keeps | apply State.ternMatch_keeps
      | refine State.ternMatch_keeps_pair ?_ (by assumption) ?_ | apply State.ruleCount_keeps
      | refine State.ruleCount_keeps_pair ?_ (by assumption) ?_ | apply State.runMeters_keeps
      | refine State.runMeters_keeps_pair ?_ (by assumption) ?_ | apply State.classDefault_keeps
      | refine State.classDefault_keeps_pair ?_ (by assumption) ?_ | split | intro _ | dsimp only

theorem State.classify_keeps_pair {R : Nat} {s₀ : State} {s s' : State} {r : Option Frame} {d profile : Nat} {f : Frame}
    (hR : 0x700000000000000010100000000000000000000030000000000000000000000000000000000003001 ||| R = R) (heq : State.classify d profile f s = (r, s'))
    (hk : Keeps R s₀ s) : Keeps R s₀ s' := by
  have := State.classify_keeps d profile f hR hk
  rwa [heq] at this

end Sys2Proof.Machine
end

