-- ==== Sys2Proof/Laws/KeepsDmaRing.lean ====
section
/-!
SUPPORT. Every operation of Machine/DmaRing.lean keeps what `Keeps` names.
-/

namespace Sys2Proof.Machine

set_option Elab.async false
set_option linter.all false

theorem State.putPba_keeps {R : Nat} {s₀ : State} {s : State} (v : Nat) (on : Bool)
    (hR : 0x40000000000000000000000000000000000 ||| R = R)
    (hk : Keeps R s₀ s) : Keeps R s₀ (State.putPba v on s) := by
  unfold State.putPba
  try dsimp only
  with_reducible
    repeat' first
      | assumption | exact sub_trans (by decide +kernel) hR | exact bit_of (by decide +kernel) hR | apply State.put_keeps | split | intro _
      | dsimp only

theorem State.sendVector_keeps {R : Nat} {s₀ : State} {s : State} (v : Nat)
    (hR : 0x40000000000000020000000000000000000 ||| R = R)
    (hk : Keeps R s₀ s) : Keeps R s₀ (State.sendVector v s) := by
  unfold State.sendVector
  try dsimp only
  with_reducible
    repeat' first
      | assumption | exact sub_trans (by decide +kernel) hR | apply State.emit_keeps | apply State.putPba_keeps | split | intro _ | dsimp only

theorem State.setJobs_keeps {R : Nat} {s₀ : State} {s : State} (c : Nat) (js : List DmaJob)
    (hR : 0x100000 ||| R = R)
    (hk : Keeps R s₀ s) : Keeps R s₀ (State.setJobs c js s) := by
  unfold State.setJobs
  try dsimp only
  with_reducible
    repeat' first
      | assumption | exact sub_trans (by decide +kernel) hR | exact bit_of (by decide +kernel) hR | exact id | exact fun _ => rfl
      | exact fun _ _ _ => rfl | split | (with_unfolding_all (intro p hp; cases p <;> first | rfl | exact bit_absurd (by decide +kernel) hR hp))
      | intro _ | dsimp only | apply Keeps.set_dma | apply Keeps.change

theorem State.completeJob_keeps {R : Nat} {s₀ : State} {s : State} (c : Nat) (j : DmaJob) (status n : Nat)
    (hR : 0x70000000000000020000000000000000000 ||| R = R)
    (hk : Keeps R s₀ s) : Keeps R s₀ (State.completeJob c j status n s) := by
  unfold State.completeJob
  extract_lets v0 v1 v2
  have hv2 : Keeps R s₀ v2 := by
    unfold v2
    with_reducible
      repeat' first
        | assumption | exact sub_trans (by decide +kernel) hR | exact bit_of (by decide +kernel) hR | apply State.put_keeps
        | apply State.addWrap_keeps | apply State.emit_keeps | apply State.sendVector_keeps | split | intro _ | dsimp only
  try dsimp only
  with_reducible
    repeat' first
      | assumption | exact sub_trans (by decide +kernel) hR | exact bit_of (by decide +kernel) hR | apply State.put_keeps | apply State.addWrap_keeps
      | apply State.emit_keeps | apply State.sendVector_keeps | split | intro _ | dsimp only

theorem State.dmaFlush_keeps {R : Nat} {s₀ : State} {s : State} (c : Nat) (x1 : List DmaJob)
    (hR : 0x70000000000000020000000000000100000 ||| R = R)
    (hk : Keeps R s₀ s) : Keeps R s₀ (State.dmaFlush c x1 s) := by
  induction x1 generalizing s with
  | nil =>
    unfold State.dmaFlush
    try dsimp only
    with_reducible
      repeat' first
        | assumption | exact sub_trans (by decide +kernel) hR | apply State.setJobs_keeps | apply State.completeJob_keeps | split | intro _
        | dsimp only
  | cons a l ih =>
    unfold State.dmaFlush
    try dsimp only
    with_reducible
      repeat' first
        | assumption | exact sub_trans (by decide +kernel) hR | apply ih | apply State.setJobs_keeps | apply State.completeJob_keeps | split | intro _
        | dsimp only

theorem State.dmaDone_keeps {R : Nat} {s₀ : State} {s : State} (c : Nat) (mine : DmaJob → Bool) (st n : Nat)
    (hR : 0x70000000000000020000000000000100000 ||| R = R)
    (hk : Keeps R s₀ s) : Keeps R s₀ (State.dmaDone c mine st n s) := by
  unfold State.dmaDone
  try dsimp only
  with_reducible repeat' first | assumption | exact sub_trans (by decide +kernel) hR | apply State.dmaFlush_keeps | split | intro _ | dsimp only

end Sys2Proof.Machine
end

