-- ==== Sys2Proof/Laws/KeepsForward.lean ====
section
/-!
SUPPORT. Every operation of Machine/Forward.lean keeps what `Keeps` names.
-/

namespace Sys2Proof.Machine

set_option Elab.async false
set_option linter.all false

theorem State.putEntry_keeps {R : Nat} {s₀ : State} {s : State} (d i : Nat) (e : FwdEntry)
    (hR : 0x1000000000 ||| R = R)
    (hk : Keeps R s₀ s) : Keeps R s₀ (State.putEntry d i e s) := by
  unfold State.putEntry
  try dsimp only
  with_reducible
    repeat' first
      | assumption | exact sub_trans (by decide +kernel) hR | exact bit_of (by decide +kernel) hR | exact id | exact fun _ => rfl
      | exact fun _ _ _ => rfl | split | (with_unfolding_all (intro p hp; cases p <;> first | rfl | exact bit_absurd (by decide +kernel) hR hp))
      | intro _ | dsimp only | apply Keeps.set_fwd | apply Keeps.change

theorem State.putCopy_keeps {R : Nat} {s₀ : State} {s : State} (d : Nat) (c : Copy)
    (hR : 0x1000000000 ||| R = R)
    (hk : Keeps R s₀ s) : Keeps R s₀ (State.putCopy d c s) := by
  unfold State.putCopy
  try dsimp only
  with_reducible
    repeat' first
      | assumption | exact sub_trans (by decide +kernel) hR | apply State.putEntry_keeps | apply Keeps.foldr | split | intro _ | dsimp only

theorem State.cacheRead_keeps {R : Nat} {s₀ : State} {s : State} (d b : Nat)
    (hR : 0x2000000000 ||| R = R)
    (hk : Keeps R s₀ s) : Keeps R s₀ (State.cacheRead d b s).2 := by
  unfold State.cacheRead
  try dsimp only
  with_reducible
    repeat' first
      | assumption | exact sub_trans (by decide +kernel) hR | exact bit_of (by decide +kernel) hR | exact id | exact fun _ => rfl
      | exact fun _ _ _ => rfl | split | (with_unfolding_all (intro p hp; cases p <;> first | rfl | exact bit_absurd (by decide +kernel) hR hp))
      | intro _ | dsimp only | apply Keeps.set_cache | apply Keeps.change

theorem State.cacheRead_keeps_pair {R : Nat} {s₀ : State} {s s' : State} {r : Bool} {d b : Nat}
    (hR : 0x2000000000 ||| R = R) (heq : State.cacheRead d b s = (r, s'))
    (hk : Keeps R s₀ s) : Keeps R s₀ s' := by
  have := State.cacheRead_keeps d b hR hk
  rwa [heq] at this

theorem State.note_keeps {R : Nat} {s₀ : State} {s : State} (code unit : Nat)
    (hR : 0x4000000000 ||| R = R)
    (hk : Keeps R s₀ s) : Keeps R s₀ (State.note code unit s) := by
  unfold State.note
  try dsimp only
  with_reducible
    repeat' first
      | assumption | exact sub_trans (by decide +kernel) hR | exact bit_of (by decide +kernel) hR | exact id | exact fun _ => rfl
      | exact fun _ _ _ => rfl | split | (with_unfolding_all (intro p hp; cases p <;> first | rfl | exact bit_absurd (by decide +kernel) hR hp))
      | intro _ | dsimp only | apply Keeps.set_notes | apply Keeps.change

theorem State.repairBucket_keeps {R : Nat} {s₀ : State} {s : State} (d b : Nat)
    (hR : 0x4000000000000000030000000000000000000000000000005000000020 ||| R = R)
    (hk : Keeps R s₀ s) : Keeps R s₀ (State.repairBucket d b s).2 := by
  unfold State.repairBucket
  try dsimp only
  with_reducible
    repeat' first
      | assumption | exact sub_trans (by decide +kernel) hR | exact bit_of (by decide +kernel) hR | apply State.event_keeps
      | apply State.putEntry_keeps | apply State.note_keeps | exact id | exact fun _ => rfl | exact fun _ _ _ => rfl | apply Keeps.foldl
      | apply Keeps.foldl_snd | apply Keeps.foldl_fst | apply Keeps.foldl_build | split
      | (with_unfolding_all (intro p hp; cases p <;> first | rfl | exact bit_absurd (by decide +kernel) hR hp)) | intro _ | dsimp only
      | apply Keeps.change

theorem State.repairBucket_keeps_pair {R : Nat} {s₀ : State} {s s' : State} {r : Bool} {d b : Nat}
    (hR : 0x4000000000000000030000000000000000000000000000005000000020 ||| R = R) (heq : State.repairBucket d b s = (r, s'))
    (hk : Keeps R s₀ s) : Keeps R s₀ s' := by
  have := State.repairBucket_keeps d b hR hk
  rwa [heq] at this

theorem State.lookup_keeps {R : Nat} {s₀ : State} {s : State} (d : Nat) (e : FwdEntry)
    (hR : 0x4000000000000000030000000000000000000000000000007000000021 ||| R = R)
    (hk : Keeps R s₀ s) : Keeps R s₀ (State.lookup d e s).2 := by
  unfold State.lookup
  try dsimp only
  with_reducible
    repeat' first
      | assumption | exact sub_trans (by decide +kernel) hR | apply State.bump_keeps | apply State.cacheRead_keeps
      | refine State.cacheRead_keeps_pair ?_ (by assumption) ?_ | apply State.repairBucket_keeps
      | refine State.repairBucket_keeps_pair ?_ (by assumption) ?_ | split | intro _ | dsimp only

theorem State.lookup_keeps_pair {R : Nat} {s₀ : State} {s s' : State} {r : Option FwdEntry} {d : Nat} {e : FwdEntry}
    (hR : 0x4000000000000000030000000000000000000000000000007000000021 ||| R = R) (heq : State.lookup d e s = (r, s'))
    (hk : Keeps R s₀ s) : Keeps R s₀ s' := by
  have := State.lookup_keeps d e hR hk
  rwa [heq] at this

theorem State.sequence_keeps {R : Nat} {s₀ : State} {s : State} (die : Nat) (op : UpdateOp) (req : Option UpdateReq)
    (hR : 0x78000000000 ||| R = R)
    (hk : Keeps R s₀ s) : Keeps R s₀ (State.sequence die op req s) := by
  unfold State.sequence
  try dsimp only
  with_reducible
    repeat' first
      | assumption | exact sub_trans (by decide +kernel) hR | exact bit_of (by decide +kernel) hR | exact id | exact fun _ => rfl
      | exact fun _ _ _ => rfl | split | (with_unfolding_all (intro p hp; cases p <;> first | rfl | exact bit_absurd (by decide +kernel) hR hp))
      | intro _ | dsimp only | apply Keeps.set_updates | apply Keeps.set_heldUpdates | apply Keeps.set_lastSeq | apply Keeps.set_seqLocks
      | apply Keeps.change

theorem State.releaseHeld_keeps {R : Nat} {s₀ : State} {s : State}
    (hR : 0x78000000000 ||| R = R)
    (hk : Keeps R s₀ s) : Keeps R s₀ (State.releaseHeld s) := by
  unfold State.releaseHeld
  try dsimp only
  with_reducible
    repeat' first
      | assumption | exact sub_trans (by decide +kernel) hR | exact bit_of (by decide +kernel) hR | apply State.sequence_keeps | exact id
      | exact fun _ => rfl | exact fun _ _ _ => rfl | apply Keeps.foldl | apply Keeps.foldl_snd | apply Keeps.foldl_fst | apply Keeps.foldl_build
      | split | (with_unfolding_all (intro p hp; cases p <;> first | rfl | exact bit_absurd (by decide +kernel) hR hp)) | intro _ | dsimp only
      | apply Keeps.set_heldUpdates | apply Keeps.change

theorem State.learnEvent_keeps {R : Nat} {s₀ : State} {s : State} (d seq kind : Nat) (e : FwdEntry) (oldTree oldLp timeS timeNs : Nat)
    (hR : 0x10000000000000000030000000000000000000020000000400000000000 ||| R = R)
    (hk : Keeps R s₀ s) : Keeps R s₀ (State.learnEvent d seq kind e oldTree oldLp timeS timeNs s) := by
  unfold State.learnEvent
  try dsimp only
  with_reducible
    repeat' first
      | assumption | exact sub_trans (by decide +kernel) hR | exact bit_of (by decide +kernel) hR | apply State.put_keeps | apply State.emit_keeps
      | apply State.raise_keeps | apply State.event_keeps | exact id | exact fun _ => rfl | exact fun _ _ _ => rfl | split
      | (with_unfolding_all (intro p hp; cases p <;> first | rfl | exact bit_absurd (by decide +kernel) hR hp)) | intro _ | dsimp only
      | apply Keeps.set_ringLost | apply Keeps.change

theorem State.fwdCnt_keeps {R : Nat} {s₀ : State} {s : State} (d k : Nat)
    (hR : 0x1 ||| R = R)
    (hk : Keeps R s₀ s) : Keeps R s₀ (State.fwdCnt d k s) := by
  unfold State.fwdCnt
  try dsimp only
  with_reducible repeat' first | assumption | exact sub_trans (by decide +kernel) hR | apply State.bump_keeps | split | intro _ | dsimp only

theorem State.domainCount_keeps {R : Nat} {s₀ : State} {s : State} (d dom : Nat) (up : Bool)
    (hR : 0x40000000000000000000000000000000000000000000000000000000000 ||| R = R)
    (hk : Keeps R s₀ s) : Keeps R s₀ (State.domainCount d dom up s) := by
  unfold State.domainCount
  try dsimp only
  with_reducible
    repeat' first
      | assumption | exact sub_trans (by decide +kernel) hR | exact bit_of (by decide +kernel) hR | apply State.put_keeps | split | intro _
      | dsimp only

theorem State.removeEntry_keeps {R : Nat} {s₀ : State} {s : State} (d i : Nat)
    (hR : 0x40000000000000000000000000000000000000000000000001000000000 ||| R = R)
    (hk : Keeps R s₀ s) : Keeps R s₀ (State.removeEntry d i s) := by
  unfold State.removeEntry
  extract_lets v0 v1
  have hv1 : Keeps R s₀ v1 := by
    unfold v1
    with_reducible
      repeat' first
        | assumption | exact sub_trans (by decide +kernel) hR | apply State.putEntry_keeps | apply State.domainCount_keeps | split | intro _
        | dsimp only
  try dsimp only
  with_reducible
    repeat' first
      | assumption | exact sub_trans (by decide +kernel) hR | apply State.putEntry_keeps | apply State.domainCount_keeps | split | intro _
      | dsimp only

theorem State.quotaFull_keeps {R : Nat} {s₀ : State} {s : State} (d seq : Nat) (e : FwdEntry)
    (hR : 0x10000000000000000030000000000000000000020000000600000000001 ||| R = R)
    (hk : Keeps R s₀ s) : Keeps R s₀ (State.quotaFull d seq e s) := by
  unfold State.quotaFull
  try dsimp only
  with_reducible
    repeat' first
      | assumption | exact sub_trans (by decide +kernel) hR | exact bit_of (by decide +kernel) hR | apply State.raise_keeps
      | apply State.learnEvent_keeps | apply State.fwdCnt_keeps | exact id | exact fun _ => rfl | exact fun _ _ _ => rfl | split
      | (with_unfolding_all (intro p hp; cases p <;> first | rfl | exact bit_absurd (by decide +kernel) hR hp)) | intro _ | dsimp only
      | apply Keeps.set_quotaSaid | apply Keeps.change

theorem State.moveEntry_keeps {R : Nat} {s₀ : State} {s : State} (d i : Nat) (u : Update) (e : FwdEntry)
    (hR : 0x10000000000000000030000000000000000000020000000421000000001 ||| R = R)
    (hk : Keeps R s₀ s) : Keeps R s₀ (State.moveEntry d i u e s) := by
  unfold State.moveEntry
  extract_lets v0 v1
  have hv1 : Keeps R s₀ v1 := by
    unfold v1
    with_reducible
      repeat' first
        | assumption | exact sub_trans (by decide +kernel) hR | apply State.putEntry_keeps | apply State.learnEvent_keeps | apply State.fwdCnt_keeps
        | split | intro _ | dsimp only
  try dsimp only
  with_reducible
    repeat' first
      | assumption | exact sub_trans (by decide +kernel) hR | apply State.putEntry_keeps | apply State.learnEvent_keeps | apply State.fwdCnt_keeps
      | split | intro _ | dsimp only

theorem State.applyLearn_keeps {R : Nat} {s₀ : State} {s : State} (d : Nat) (u : Update) (e : FwdEntry)
    (hR : 0x50000000000000000030000000000000000000020000000621000000001 ||| R = R)
    (hk : Keeps R s₀ s) : Keeps R s₀ (State.applyLearn d u e s) := by
  unfold State.applyLearn
  try dsimp only
  with_reducible
    repeat' first
      | assumption | exact sub_trans (by decide +kernel) hR | apply State.putEntry_keeps | apply State.putCopy_keeps | apply State.learnEvent_keeps
      | apply State.fwdCnt_keeps | apply State.domainCount_keeps | apply State.removeEntry_keeps | apply State.quotaFull_keeps
      | apply State.moveEntry_keeps | split | intro _ | dsimp only

theorem State.applyMove_keeps {R : Nat} {s₀ : State} {s : State} (d : Nat) (u : Update) (e : FwdEntry)
    (hR : 0x10000000000000000030000000000000000000020000000421000000001 ||| R = R)
    (hk : Keeps R s₀ s) : Keeps R s₀ (State.applyMove d u e s) := by
  unfold State.applyMove
  try dsimp only
  with_reducible repeat' first | assumption | exact sub_trans (by decide +kernel) hR | apply State.moveEntry_keeps | split | intro _ | dsimp only

theorem State.applyAge_keeps {R : Nat} {s₀ : State} {s : State} (d : Nat) (u : Update) (b : Nat)
    (hR : 0x50000000000000000030000000000000000000020000000521000000001 ||| R = R)
    (hk : Keeps R s₀ s) : Keeps R s₀ (State.applyAge d u b s) := by
  unfold State.applyAge
  try dsimp only
  with_reducible
    repeat' first
      | assumption | exact sub_trans (by decide +kernel) hR | exact bit_of (by decide +kernel) hR | apply State.putEntry_keeps
      | apply State.learnEvent_keeps | apply State.fwdCnt_keeps | apply State.removeEntry_keeps | exact id | exact fun _ => rfl
      | exact fun _ _ _ => rfl | apply Keeps.foldl | apply Keeps.foldl_snd | apply Keeps.foldl_fst | apply Keeps.foldl_build | split
      | (with_unfolding_all (intro p hp; cases p <;> first | rfl | exact bit_absurd (by decide +kernel) hR hp)) | intro _ | dsimp only
      | apply Keeps.set_lastSeq | apply Keeps.set_touchSent | apply Keeps.change

theorem State.applyInsert_keeps {R : Nat} {s₀ : State} {s : State} (d : Nat) (u : Update) (e : FwdEntry) (expect : Option Nat)
    (hR : 0x21000000000 ||| R = R)
    (hk : Keeps R s₀ s) : Keeps R s₀ (State.applyInsert d u e expect s).2 := by
  unfold State.applyInsert
  try dsimp only
  with_reducible repeat' first | assumption | exact sub_trans (by decide +kernel) hR | apply State.putCopy_keeps | split | intro _ | dsimp only

theorem State.applyInsert_keeps_pair {R : Nat} {s₀ : State} {s s' : State} {r : Nat} {d : Nat} {u : Update} {e : FwdEntry} {expect : Option Nat}
    (hR : 0x21000000000 ||| R = R) (heq : State.applyInsert d u e expect s = (r, s'))
    (hk : Keeps R s₀ s) : Keeps R s₀ s' := by
  have := State.applyInsert_keeps d u e expect hR hk
  rwa [heq] at this

theorem State.applyReplace_keeps {R : Nat} {s₀ : State} {s : State} (d : Nat) (u : Update) (e : FwdEntry) (expect : Option Nat)
    (hR : 0x40000000000000000000000000000000000000000000000021000000000 ||| R = R)
    (hk : Keeps R s₀ s) : Keeps R s₀ (State.applyReplace d u e expect s).2 := by
  unfold State.applyReplace
  try dsimp only
  with_reducible
    repeat' first
      | assumption | exact sub_trans (by decide +kernel) hR | apply State.putEntry_keeps | apply State.domainCount_keeps | split | intro _
      | dsimp only

theorem State.applyReplace_keeps_pair {R : Nat} {s₀ : State} {s s' : State} {r : Nat} {d : Nat} {u : Update} {e : FwdEntry} {expect : Option Nat}
    (hR : 0x40000000000000000000000000000000000000000000000021000000000 ||| R = R) (heq : State.applyReplace d u e expect s = (r, s'))
    (hk : Keeps R s₀ s) : Keeps R s₀ s' := by
  have := State.applyReplace_keeps d u e expect hR hk
  rwa [heq] at this

theorem State.applyDelete_keeps {R : Nat} {s₀ : State} {s : State} (d : Nat) (e : FwdEntry) (expect : Option Nat)
    (hR : 0x40000000000000000000000000000000000000000000000001000000000 ||| R = R)
    (hk : Keeps R s₀ s) : Keeps R s₀ (State.applyDelete d e expect s).2 := by
  unfold State.applyDelete
  try dsimp only
  with_reducible repeat' first | assumption | exact sub_trans (by decide +kernel) hR | apply State.removeEntry_keeps | split | intro _ | dsimp only

theorem State.applyDelete_keeps_pair {R : Nat} {s₀ : State} {s s' : State} {r : Nat} {d : Nat} {e : FwdEntry} {expect : Option Nat}
    (hR : 0x40000000000000000000000000000000000000000000000001000000000 ||| R = R) (heq : State.applyDelete d e expect s = (r, s'))
    (hk : Keeps R s₀ s) : Keeps R s₀ s' := by
  have := State.applyDelete_keeps d e expect hR hk
  rwa [heq] at this

theorem State.applyWriteSlot_keeps {R : Nat} {s₀ : State} {s : State} (d : Nat) (u : Update) (b slot : Nat) (e : FwdEntry) (expect : Option Nat)
    (hR : 0x40000000000000000000000000000000000000000000000021000000000 ||| R = R)
    (hk : Keeps R s₀ s) : Keeps R s₀ (State.applyWriteSlot d u b slot e expect s).2 := by
  unfold State.applyWriteSlot
  try dsimp only
  with_reducible
    repeat' first
      | assumption | exact sub_trans (by decide +kernel) hR | apply State.putEntry_keeps | apply State.removeEntry_keeps | split | intro _
      | dsimp only

theorem State.applyWriteSlot_keeps_pair {R : Nat} {s₀ : State} {s s' : State} {r : Nat} {d : Nat} {u : Update} {b slot : Nat} {e : FwdEntry} {expect : Option Nat}
    (hR : 0x40000000000000000000000000000000000000000000000021000000000 ||| R = R) (heq : State.applyWriteSlot d u b slot e expect s = (r, s'))
    (hk : Keeps R s₀ s) : Keeps R s₀ s' := by
  have := State.applyWriteSlot_keeps d u b slot e expect hR hk
  rwa [heq] at this

theorem State.applyOp_keeps {R : Nat} {s₀ : State} {s : State} (d : Nat) (u : Update)
    (hR : 0xfffffffffffffffffffffffffffffffffffffffffffffffffffffffffffffffffffffffffff00000200000807a1000000001 ||| R = R)
    (hk : Keeps R s₀ s) : Keeps R s₀ (State.applyOp d u s).2 := by
  unfold State.applyOp
  try dsimp only
  with_reducible
    repeat' first
      | assumption | exact sub_trans (by decide +kernel) hR | exact bit_of (by decide +kernel) hR
      | exact bits_of (by assumption) (by decide +kernel) hR | exact desc_bits_of (by assumption) (by decide +kernel) hR
      | exact bits_of (by assumption) (by assumption) (Nat.or_self _) | exact bit_all (sub_trans (by decide +kernel) hR) _
      | exact List.all_eq_true.2 fun _ _ => bit_all (sub_trans (by decide +kernel) hR) _ | apply State.put_keeps | apply State.putEntry_keeps
      | apply State.applyLearn_keeps | apply State.applyMove_keeps | apply State.applyAge_keeps | apply State.applyInsert_keeps
      | refine State.applyInsert_keeps_pair ?_ (by assumption) ?_ | apply State.applyReplace_keeps
      | refine State.applyReplace_keeps_pair ?_ (by assumption) ?_ | apply State.applyDelete_keeps
      | refine State.applyDelete_keeps_pair ?_ (by assumption) ?_ | apply State.applyWriteSlot_keeps
      | refine State.applyWriteSlot_keeps_pair ?_ (by assumption) ?_ | exact id | exact fun _ => rfl | exact fun _ _ _ => rfl | apply Keeps.foldl_mem
      | apply Keeps.foldl_snd | apply Keeps.foldl_fst | apply Keeps.foldl_build | split
      | (with_unfolding_all (intro p hp; cases p <;> first | rfl | exact bit_absurd (by decide +kernel) hR hp)) | intro _ | dsimp only
      | apply Keeps.set_lastSeq | apply Keeps.set_dieLocks | apply Keeps.set_labels | apply Keeps.change

theorem State.applyOp_keeps_pair {R : Nat} {s₀ : State} {s s' : State} {r : Nat} {d : Nat} {u : Update}
    (hR : 0xfffffffffffffffffffffffffffffffffffffffffffffffffffffffffffffffffffffffffff00000200000807a1000000001 ||| R = R) (heq : State.applyOp d u s = (r, s'))
    (hk : Keeps R s₀ s) : Keeps R s₀ s' := by
  have := State.applyOp_keeps d u hR hk
  rwa [heq] at this

theorem State.completeRequest_keeps {R : Nat} {s₀ : State} {s : State} (r : UpdateReq) (status : Nat) (seq : Option Nat)
    (hR : 0x70000000000000020000000000000100001 ||| R = R)
    (hk : Keeps R s₀ s) : Keeps R s₀ (State.completeRequest r status seq s) := by
  unfold State.completeRequest
  try dsimp only
  with_reducible
    repeat' first
      | assumption | exact sub_trans (by decide +kernel) hR | apply State.emit_keeps | apply State.dmaDone_keeps | apply State.fwdCnt_keeps | split
      | intro _ | dsimp only

theorem State.retireUpdates_keeps {R : Nat} {s₀ : State} {s : State}
    (hR : 0x70000000000000020000000008000100001 ||| R = R)
    (hk : Keeps R s₀ s) : Keeps R s₀ (State.retireUpdates s) := by
  unfold State.retireUpdates
  extract_lets v0 v1
  have hv1 : Keeps R s₀ v1 := by
    unfold v1
    with_reducible
      repeat' first
        | assumption | exact sub_trans (by decide +kernel) hR | exact bit_of (by decide +kernel) hR | apply State.completeRequest_keeps | exact id
        | exact fun _ => rfl | exact fun _ _ _ => rfl | apply Keeps.foldl | apply Keeps.foldl_snd | apply Keeps.foldl_fst | apply Keeps.foldl_build
        | split | (with_unfolding_all (intro p hp; cases p <;> first | rfl | exact bit_absurd (by decide +kernel) hR hp)) | intro _ | dsimp only
        | apply Keeps.set_updates | apply Keeps.change
  try dsimp only
  with_reducible
    repeat' first
      | assumption | exact sub_trans (by decide +kernel) hR | exact bit_of (by decide +kernel) hR | apply State.completeRequest_keeps | exact id
      | exact fun _ => rfl | exact fun _ _ _ => rfl | apply Keeps.foldl | apply Keeps.foldl_snd | apply Keeps.foldl_fst | apply Keeps.foldl_build
      | split | (with_unfolding_all (intro p hp; cases p <;> first | rfl | exact bit_absurd (by decide +kernel) hR hp)) | intro _ | dsimp only
      | apply Keeps.set_updates | apply Keeps.change

theorem State.stall_keeps {R : Nat} {s₀ : State} {s : State} (d : Nat)
    (hR : 0x30008070000000000000020000000008000100001 ||| R = R)
    (hk : Keeps R s₀ s) : Keeps R s₀ (State.stall d s) := by
  unfold State.stall
  extract_lets v0 v1 v2
  have hv2 : Keeps R s₀ v2 := by
    unfold v2
    with_reducible
      repeat' first
        | assumption | exact sub_trans (by decide +kernel) hR | exact bit_of (by decide +kernel) hR | apply State.addWrap_keeps
        | apply State.event_keeps | apply State.completeRequest_keeps | exact id | exact fun _ => rfl | exact fun _ _ _ => rfl | apply Keeps.foldl
        | apply Keeps.foldl_snd | apply Keeps.foldl_fst | apply Keeps.foldl_build | split
        | (with_unfolding_all (intro p hp; cases p <;> first | rfl | exact bit_absurd (by decide +kernel) hR hp)) | intro _ | dsimp only
        | apply Keeps.set_updates | apply Keeps.change
  try dsimp only
  with_reducible
    repeat' first
      | assumption | exact sub_trans (by decide +kernel) hR | exact bit_of (by decide +kernel) hR | apply State.addWrap_keeps
      | apply State.event_keeps | apply State.completeRequest_keeps | exact id | exact fun _ => rfl | exact fun _ _ _ => rfl | apply Keeps.foldl
      | apply Keeps.foldl_snd | apply Keeps.foldl_fst | apply Keeps.foldl_build | split
      | (with_unfolding_all (intro p hp; cases p <;> first | rfl | exact bit_absurd (by decide +kernel) hR hp)) | intro _ | dsimp only
      | apply Keeps.set_updates | apply Keeps.change

theorem execTableUpdateApply_keeps {R : Nat} {s₀ : State} {s : State} (d : Nat)
    (hR : 0xfffffffffffffffffffffffffffffffffffffffffffffffffffffffffffffffffffffffffff00000200000807ad000100021 ||| R = R)
    (hk : Keeps R s₀ s) : ResultKeeps R s₀ (execTableUpdateApply d s) := by
  unfold execTableUpdateApply
  try dsimp only
  with_reducible
    repeat' first
      | assumption | exact sub_trans (by decide +kernel) hR | exact bit_of (by decide +kernel) hR | exact bit_all (sub_trans (by decide +kernel) hR) _
      | exact List.all_eq_true.2 fun _ _ => bit_all (sub_trans (by decide +kernel) hR) _ | apply State.put_keeps | apply State.repairBucket_keeps
      | refine State.repairBucket_keeps_pair ?_ (by assumption) ?_ | apply State.applyOp_keeps | refine State.applyOp_keeps_pair ?_ (by assumption) ?_
      | apply State.retireUpdates_keeps | apply State.stall_keeps | apply ResultKeeps.next | exact id | exact fun _ => rfl | exact fun _ _ _ => rfl
      | apply Keeps.foldl | apply Keeps.foldl_snd | apply Keeps.foldl_fst | apply Keeps.foldl_build | split
      | (with_unfolding_all (intro p hp; cases p <;> first | rfl | exact bit_absurd (by decide +kernel) hR hp)) | intro _ | dsimp only
      | apply Keeps.set_updates | apply Keeps.change

theorem execOrderStall_keeps {R : Nat} {s₀ : State} {s : State} (d : Nat)
    (hR : 0x30008070000000000000020000000008000100001 ||| R = R)
    (hk : Keeps R s₀ s) : ResultKeeps R s₀ (execOrderStall d s) := by
  unfold execOrderStall
  try dsimp only
  with_reducible
    repeat' first
      | assumption | exact sub_trans (by decide +kernel) hR | apply State.stall_keeps | apply ResultKeeps.next | split | intro _ | dsimp only

theorem execAgeBucket_keeps {R : Nat} {s₀ : State} {s : State}
    (hR : 0x80000000078000000000 ||| R = R)
    (hk : Keeps R s₀ s) : ResultKeeps R s₀ (execAgeBucket s) := by
  unfold execAgeBucket
  try dsimp only
  with_reducible
    repeat' first
      | assumption | exact sub_trans (by decide +kernel) hR | exact bit_of (by decide +kernel) hR | apply State.sequence_keeps
      | apply ResultKeeps.next | exact id | exact fun _ => rfl | exact fun _ _ _ => rfl | split
      | (with_unfolding_all (intro p hp; cases p <;> first | rfl | exact bit_absurd (by decide +kernel) hR hp)) | intro _ | dsimp only
      | apply Keeps.set_ageAt | apply Keeps.change

theorem State.queueLearn_keeps {R : Nat} {s₀ : State} {s : State} (d : Nat) (op : UpdateOp)
    (hR : 0x78000000001 ||| R = R)
    (hk : Keeps R s₀ s) : Keeps R s₀ (State.queueLearn d op s) := by
  unfold State.queueLearn
  try dsimp only
  with_reducible
    repeat' first
      | assumption | exact sub_trans (by decide +kernel) hR | apply State.sequence_keeps | apply State.fwdCnt_keeps | split | intro _ | dsimp only

theorem State.sourceLearn_keeps {R : Nat} {s₀ : State} {s : State} (d : Nat) (f : Frame) (bridge : Nat)
    (hR : 0x1400000000000000003000000000000000000003000000077f000000021 ||| R = R)
    (hk : Keeps R s₀ s) : Keeps R s₀ (State.sourceLearn d f bridge s) := by
  unfold State.sourceLearn
  try dsimp only
  with_reducible
    repeat' first
      | assumption | exact sub_trans (by decide +kernel) hR | exact bit_of (by decide +kernel) hR | apply State.useFree_keeps
      | apply State.lookup_keeps | refine State.lookup_keeps_pair ?_ (by assumption) ?_ | apply State.fwdCnt_keeps | apply State.quotaFull_keeps
      | apply State.queueLearn_keeps | exact id | exact fun _ => rfl | exact fun _ _ _ => rfl | split
      | (with_unfolding_all (intro p hp; cases p <;> first | rfl | exact bit_absurd (by decide +kernel) hR hp)) | intro _ | dsimp only
      | apply Keeps.set_touchSent | apply Keeps.change

theorem State.refuse_keeps {R : Nat} {s₀ : State} {s : State} (chan addr status : Nat)
    (hR : 0x70000000000000020000000000000100001 ||| R = R)
    (hk : Keeps R s₀ s) : Keeps R s₀ (State.refuse chan addr status s) := by
  unfold State.refuse
  try dsimp only
  with_reducible
    repeat' first
      | assumption | exact sub_trans (by decide +kernel) hR | apply State.completeRequest_keeps | split | intro _ | dsimp only

theorem State.entryRequest_keeps {R : Nat} {s₀ : State} {s : State} (chan addr : Nat) (valid tied : Bool) (op : UpdateOp)
    (hR : 0x70000000000000020000000078000100001 ||| R = R)
    (hk : Keeps R s₀ s) : Keeps R s₀ (State.entryRequest chan addr valid tied op s) := by
  unfold State.entryRequest
  try dsimp only
  with_reducible
    repeat' first
      | assumption | exact sub_trans (by decide +kernel) hR | apply State.sequence_keeps | apply State.refuse_keeps | split | intro _ | dsimp only

theorem execTableInsert_keeps {R : Nat} {s₀ : State} {s : State} (chan addr : Nat) (e : FwdEntry) (expect : Option Nat) (tied : Bool)
    (hR : 0x70000000000000020000000078000100001 ||| R = R)
    (hk : Keeps R s₀ s) : ResultKeeps R s₀ (execTableInsert chan addr e expect tied s) := by
  unfold execTableInsert
  try dsimp only
  with_reducible
    repeat' first
      | assumption | exact sub_trans (by decide +kernel) hR | apply State.entryRequest_keeps | apply ResultKeeps.next | split | intro _ | dsimp only

theorem execTableReplace_keeps {R : Nat} {s₀ : State} {s : State} (chan addr : Nat) (e : FwdEntry) (expect : Option Nat) (tied : Bool)
    (hR : 0x70000000000000020000000078000100001 ||| R = R)
    (hk : Keeps R s₀ s) : ResultKeeps R s₀ (execTableReplace chan addr e expect tied s) := by
  unfold execTableReplace
  try dsimp only
  with_reducible
    repeat' first
      | assumption | exact sub_trans (by decide +kernel) hR | apply State.entryRequest_keeps | apply ResultKeeps.next | split | intro _ | dsimp only

theorem execTableDelete_keeps {R : Nat} {s₀ : State} {s : State} (chan addr : Nat) (e : FwdEntry) (expect : Option Nat) (tied : Bool)
    (hR : 0x70000000000000020000000078000100001 ||| R = R)
    (hk : Keeps R s₀ s) : ResultKeeps R s₀ (execTableDelete chan addr e expect tied s) := by
  unfold execTableDelete
  try dsimp only
  with_reducible
    repeat' first
      | assumption | exact sub_trans (by decide +kernel) hR | apply State.entryRequest_keeps | apply ResultKeeps.next | split | intro _ | dsimp only

theorem execTableLock_keeps {R : Nat} {s₀ : State} {s : State} (chan addr b1 : Nat) (b2 : Option Nat)
    (hR : 0x70000000000000020000000078000100001 ||| R = R)
    (hk : Keeps R s₀ s) : ResultKeeps R s₀ (execTableLock chan addr b1 b2 s) := by
  unfold execTableLock
  try dsimp only
  with_reducible
    repeat' first
      | assumption | exact sub_trans (by decide +kernel) hR | apply State.sequence_keeps | apply State.refuse_keeps | apply ResultKeeps.next | split
      | intro _ | dsimp only

theorem execTableUnlock_keeps {R : Nat} {s₀ : State} {s : State} (chan addr : Nat)
    (hR : 0x70000000000000020000000078000100001 ||| R = R)
    (hk : Keeps R s₀ s) : ResultKeeps R s₀ (execTableUnlock chan addr s) := by
  unfold execTableUnlock
  try dsimp only
  with_reducible
    repeat' first
      | assumption | exact sub_trans (by decide +kernel) hR | apply State.sequence_keeps | apply State.releaseHeld_keeps | apply State.refuse_keeps
      | apply ResultKeeps.next | split | intro _ | dsimp only

theorem execWriteSlot_keeps {R : Nat} {s₀ : State} {s : State} (chan addr b slot : Nat) (e : FwdEntry) (expect : Option Nat)
    (hR : 0x70000000000000020000000078000100001 ||| R = R)
    (hk : Keeps R s₀ s) : ResultKeeps R s₀ (execWriteSlot chan addr b slot e expect s) := by
  unfold execWriteSlot
  try dsimp only
  with_reducible
    repeat' first
      | assumption | exact sub_trans (by decide +kernel) hR | apply State.sequence_keeps | apply State.refuse_keeps | apply ResultKeeps.next | split
      | intro _ | dsimp only

theorem execLockExpiry_keeps {R : Nat} {s₀ : State} {s : State} (chan : Nat)
    (hR : 0x78000000001 ||| R = R)
    (hk : Keeps R s₀ s) : ResultKeeps R s₀ (execLockExpiry chan s) := by
  unfold execLockExpiry
  try dsimp only
  with_reducible
    repeat' first
      | assumption | exact sub_trans (by decide +kernel) hR | apply State.sequence_keeps | apply State.releaseHeld_keeps | apply State.fwdCnt_keeps
      | apply ResultKeeps.next | apply Keeps.foldl | apply Keeps.foldl_snd | apply Keeps.foldl_fst | apply Keeps.foldl_build | split | intro _
      | dsimp only

end Sys2Proof.Machine
end

