-- ==== Sys2Proof/Laws/KeepsHierarchy.lean ====
section
/-!
SUPPORT. Every operation of Machine/Hierarchy.lean keeps what `Keeps` names.
-/

namespace Sys2Proof.Machine

set_option Elab.async false
set_option linter.all false

theorem State.setQueue_keeps {R : Nat} {s₀ : State} {s : State} (d : Nat) (up : Bool) (q : Nat) (fs : List Frame)
    (hR : 0x100000000000000 ||| R = R)
    (hk : Keeps R s₀ s) : Keeps R s₀ (State.setQueue d up q fs s) := by
  unfold State.setQueue
  try dsimp only
  with_reducible
    repeat' first
      | assumption | exact sub_trans (by decide +kernel) hR | exact bit_of (by decide +kernel) hR | exact id | exact fun _ => rfl
      | exact fun _ _ _ => rfl | split | (with_unfolding_all (intro p hp; cases p <;> first | rfl | exact bit_absurd (by decide +kernel) hR hp))
      | intro _ | dsimp only | apply Keeps.set_queues | apply Keeps.change

theorem State.modQstat_keeps {R : Nat} {s₀ : State} {s : State} (d : Nat) (up : Bool) (q : Nat) (f : QueueSt → QueueSt)
    (hR : 0x200000000000000 ||| R = R)
    (hk : Keeps R s₀ s) : Keeps R s₀ (State.modQstat d up q f s) := by
  unfold State.modQstat
  try dsimp only
  with_reducible
    repeat' first
      | assumption | exact sub_trans (by decide +kernel) hR | exact bit_of (by decide +kernel) hR | exact id | exact fun _ => rfl
      | exact fun _ _ _ => rfl | split | (with_unfolding_all (intro p hp; cases p <;> first | rfl | exact bit_absurd (by decide +kernel) hR hp))
      | intro _ | dsimp only | apply Keeps.set_qstat | apply Keeps.change

theorem State.charge_keeps {R : Nat} {s₀ : State} {s : State} (h : Shaper) (len : Nat) (h1 : R.testBit (wordBit h.tokens.num) = true)
    (h2 : R.testBit (wordBit h.last.num) = true) (hk : Keeps R s₀ s) : Keeps R s₀ (State.charge h len s) := by
  unfold State.charge
  split
  · exact hk
  · exact State.put_keeps _ _ _ (Nat.zero_or _) h2 (State.put_keeps _ _ _ (Nat.zero_or _) h1 hk)

theorem State.charge_queue_keeps {R : Nat} {s₀ : State} {s : State} (i len : Nat) (hR : 0x10000000000000000000000000000000000000000000000000000000000000000000000000000000000 ||| R = R) (hk : Keeps R s₀ s) :
    Keeps R s₀ (State.charge (queueShaper i) len s) :=
  State.charge_keeps _ _ (bit_of (i := wordBit QUEUE.TOKENS.num) (by decide +kernel) hR)
    (bit_of (i := wordBit QUEUE.LAST.num) (by decide +kernel) hR) hk

theorem State.charge_node_keeps {R : Nat} {s₀ : State} {s : State} (i len : Nat) (hR : 0x400000000000000000000000000000000000000000000000000000000000000000000000000000000000 ||| R = R) (hk : Keeps R s₀ s) :
    Keeps R s₀ (State.charge (nodeShaper i) len s) :=
  State.charge_keeps _ _ (bit_of (i := wordBit NODE.TOKENS.num) (by decide +kernel) hR)
    (bit_of (i := wordBit NODE.LAST.num) (by decide +kernel) hR) hk

theorem State.offerQueue_keeps {R : Nat} {s₀ : State} {s : State} (d : Nat) (up : Bool) (q len : Nat) (before : Bool)
    (hR : 0x20000000000000000000000000000000000000000000000000000000000000000000000000000000000 ||| R = R)
    (hk : Keeps R s₀ s) : Keeps R s₀ (State.offerQueue d up q len before s) := by
  unfold State.offerQueue
  try dsimp only
  with_reducible
    repeat' first
      | assumption | exact sub_trans (by decide +kernel) hR | exact bit_of (by decide +kernel) hR | apply State.put_keeps | split | intro _
      | dsimp only

theorem State.offerNode_keeps {R : Nat} {s₀ : State} {s : State} (d : Nat) (up : Bool) (n len : Nat) (before : Bool)
    (hR : 0x800000000000000000000000000000000000000000000000000000000000000000000000000000000000 ||| R = R)
    (hk : Keeps R s₀ s) : Keeps R s₀ (State.offerNode d up n len before s) := by
  unfold State.offerNode
  try dsimp only
  with_reducible
    repeat' first
      | assumption | exact sub_trans (by decide +kernel) hR | exact bit_of (by decide +kernel) hR | apply State.put_keeps | split | intro _
      | dsimp only

theorem State.newHead_keeps {R : Nat} {s₀ : State} {s : State} (d : Nat) (up : Bool) (q : Nat) (before : Bool)
    (hR : 0x20000000000000000000000000000000000000000000000000000000000000000000200000000000000 ||| R = R)
    (hk : Keeps R s₀ s) : Keeps R s₀ (State.newHead d up q before s) := by
  unfold State.newHead
  extract_lets v0 v1
  have hv1 : Keeps R s₀ v1 := by
    unfold v1
    with_reducible
      repeat' first
        | assumption | exact sub_trans (by decide +kernel) hR | apply State.modQstat_keeps | apply State.offerQueue_keeps | split | intro _
        | dsimp only
  try dsimp only
  with_reducible
    repeat' first
      | assumption | exact sub_trans (by decide +kernel) hR | apply State.modQstat_keeps | apply State.offerQueue_keeps | split | intro _ | dsimp only

theorem State.reofferNode_keeps {R : Nat} {s₀ : State} {s : State} (d : Nat) (up : Bool) (n : Nat)
    (hR : 0x800000000000000000000000000000000000000000000000000000000000000040000000000000000000 ||| R = R)
    (hk : Keeps R s₀ s) : Keeps R s₀ (State.reofferNode d up s n) := by
  unfold State.reofferNode
  try dsimp only
  with_reducible
    repeat' first
      | assumption | exact sub_trans (by decide +kernel) hR | exact bit_of (by decide +kernel) hR | apply State.offerNode_keeps | exact id
      | exact fun _ => rfl | exact fun _ _ _ => rfl | split
      | (with_unfolding_all (intro p hp; cases p <;> first | rfl | exact bit_absurd (by decide +kernel) hR hp)) | intro _ | dsimp only
      | apply Keeps.set_offers | apply Keeps.change

theorem State.reoffer_keeps {R : Nat} {s₀ : State} {s : State} (d : Nat) (up : Bool) (port : Nat)
    (hR : 0x800000000000000000000000000000000000000000000000000000000000000040000000000000000000 ||| R = R)
    (hk : Keeps R s₀ s) : Keeps R s₀ (State.reoffer d up port s) := by
  unfold State.reoffer
  try dsimp only
  with_reducible
    repeat' first
      | assumption | exact sub_trans (by decide +kernel) hR | apply State.reofferNode_keeps | apply Keeps.foldl | apply Keeps.foldl_snd
      | apply Keeps.foldl_fst | apply Keeps.foldl_build | split | intro _ | dsimp only

theorem State.reofferQueue_keeps {R : Nat} {s₀ : State} {s : State} (d : Nat) (up : Bool) (q : Nat)
    (hR : 0x800000000000000000000000000000000000000000000000000000000000000040000000000000000000 ||| R = R)
    (hk : Keeps R s₀ s) : Keeps R s₀ (State.reofferQueue d up q s) := by
  unfold State.reofferQueue
  try dsimp only
  with_reducible repeat' first | assumption | exact sub_trans (by decide +kernel) hR | apply State.reoffer_keeps | split | intro _ | dsimp only

theorem State.moveVt_keeps {R : Nat} {s₀ : State} {s : State} (d : Nat) (up : Bool) (q : Nat)
    (hR : 0x800000000000000000000000000000000000000000000000000000000000000000000000000000000000 ||| R = R)
    (hk : Keeps R s₀ s) : Keeps R s₀ (State.moveVt d up q s) := by
  unfold State.moveVt
  extract_lets v0 v1 v2
  have hv2 : Keeps R s₀ v2 := by
    unfold v2
    with_reducible
      repeat' first
        | assumption | exact sub_trans (by decide +kernel) hR | exact bit_of (by decide +kernel) hR | apply State.put_keeps | apply Keeps.foldl
        | apply Keeps.foldl_snd | apply Keeps.foldl_fst | apply Keeps.foldl_build | split | intro _ | dsimp only
  try dsimp only
  with_reducible
    repeat' first
      | assumption | exact sub_trans (by decide +kernel) hR | exact bit_of (by decide +kernel) hR | apply State.put_keeps | apply Keeps.foldl
      | apply Keeps.foldl_snd | apply Keeps.foldl_fst | apply Keeps.foldl_build | split | intro _ | dsimp only

theorem State.tmDone_keeps {R : Nat} {s₀ : State} {s : State} (d r : Nat)
    (hR : 0x80000000000000000000000000000000000000000000000000000000000 ||| R = R)
    (hk : Keeps R s₀ s) : Keeps R s₀ (State.tmDone d r s) := by
  unfold State.tmDone
  try dsimp only
  with_reducible
    repeat' first
      | assumption | exact sub_trans (by decide +kernel) hR | exact bit_of (by decide +kernel) hR | apply State.put_keeps | split | intro _
      | dsimp only

theorem execTmAccRead_keeps {R : Nat} {s₀ : State} {s : State} (d target index : Nat)
    (hR : 0x880000000000000000000000000000000000000000000000000000000000 ||| R = R)
    (hk : Keeps R s₀ s) : ResultKeeps R s₀ (execTmAccRead d target index s) := by
  unfold execTmAccRead
  try dsimp only
  with_reducible
    repeat' first
      | assumption | exact sub_trans (by decide +kernel) hR | exact bit_of (by decide +kernel) hR | apply State.putWords_keeps
      | apply State.tmDone_keeps | apply ResultKeeps.next | split | intro _ | dsimp only

theorem execTmAccWrite_keeps {R : Nat} {s₀ : State} {s : State} (d target index : Nat)
    (hR : 0xfff800000000000000000000080000000000000000000000000000000000000000000000000000000000 ||| R = R)
    (hk : Keeps R s₀ s) : ResultKeeps R s₀ (execTmAccWrite d target index s) := by
  unfold execTmAccWrite
  try dsimp only
  with_reducible
    repeat' first
      | assumption | exact sub_trans (by decide +kernel) hR | exact bit_of (by decide +kernel) hR | exact all_bits_of (by decide +kernel) hR
      | apply State.unpackRec_keeps | apply State.tmDone_keeps | apply ResultKeeps.next | split | intro _ | dsimp only

end Sys2Proof.Machine
end

