-- ==== Sys2Proof/Laws/KeepsIngress.lean ====
section
/-!
SUPPORT. Every operation of Machine/Ingress.lean keeps what `Keeps` names.
-/

namespace Sys2Proof.Machine

set_option Elab.async false
set_option linter.all false

theorem State.laneCnt_keeps {R : Nat} {s₀ : State} {s : State} (l k n : Nat)
    (hR : 0x1 ||| R = R)
    (hk : Keeps R s₀ s) : Keeps R s₀ (State.laneCnt l k n s) := by
  unfold State.laneCnt
  try dsimp only
  with_reducible repeat' first | assumption | exact sub_trans (by decide +kernel) hR | apply State.bump_keeps | split | intro _ | dsimp only

theorem State.linkCnt_keeps {R : Nat} {s₀ : State} {s : State} (d e k n : Nat)
    (hR : 0x1 ||| R = R)
    (hk : Keeps R s₀ s) : Keeps R s₀ (State.linkCnt d e k n s) := by
  unfold State.linkCnt
  try dsimp only
  with_reducible repeat' first | assumption | exact sub_trans (by decide +kernel) hR | apply State.bump_keeps | split | intro _ | dsimp only

theorem State.crossBytes_keeps {R : Nat} {s₀ : State} {s : State} (d e n : Nat)
    (hR : 0x1000001 ||| R = R)
    (hk : Keeps R s₀ s) : Keeps R s₀ (State.crossBytes d e n s) := by
  unfold State.crossBytes
  try dsimp only
  with_reducible
    repeat' first
      | assumption | exact sub_trans (by decide +kernel) hR | apply State.passBytes_keeps | apply State.linkCnt_keeps | split | intro _ | dsimp only

theorem State.peerCnt_keeps {R : Nat} {s₀ : State} {s : State} (k n : Nat)
    (hR : 0x1 ||| R = R)
    (hk : Keeps R s₀ s) : Keeps R s₀ (State.peerCnt k n s) := by
  unfold State.peerCnt
  try dsimp only
  with_reducible repeat' first | assumption | exact sub_trans (by decide +kernel) hR | apply State.bump_keeps | split | intro _ | dsimp only

theorem State.macsecJudge_keeps {R : Nat} {s₀ : State} {s : State} (d i a : Nat) (t : SecTag)
    (hR : 0x6400000000000000000000000100000000000000000000030000000000000000000000000000000000000001 ||| R = R)
    (hk : Keeps R s₀ s) : Keeps R s₀ (State.macsecJudge d i a t s).2 := by
  unfold State.macsecJudge
  try dsimp only
  with_reducible
    repeat' first
      | assumption | exact sub_trans (by decide +kernel) hR | exact bit_of (by decide +kernel) hR | apply State.put_keeps | apply State.addSat_keeps
      | apply State.ciphEvent_keeps | apply State.ciphCnt_keeps | split | intro _ | dsimp only

theorem State.macsecJudge_keeps_pair {R : Nat} {s₀ : State} {s s' : State} {r : Option Entered} {d i a : Nat} {t : SecTag}
    (hR : 0x6400000000000000000000000100000000000000000000030000000000000000000000000000000000000001 ||| R = R) (heq : State.macsecJudge d i a t s = (r, s'))
    (hk : Keeps R s₀ s) : Keeps R s₀ s' := by
  have := State.macsecJudge_keeps d i a t hR hk
  rwa [heq] at this

theorem State.macsecIn_keeps {R : Nat} {s₀ : State} {s : State} (lane : Nat) (sec : Option SecTag)
    (hR : 0x6400000000000000000000010100000000000000000000030000000000000000000000000000000000000001 ||| R = R)
    (hk : Keeps R s₀ s) : Keeps R s₀ (State.macsecIn lane sec s).2 := by
  unfold State.macsecIn
  try dsimp only
  with_reducible
    repeat' first
      | assumption | exact sub_trans (by decide +kernel) hR | apply State.separation_keeps | apply State.ciphCnt_keeps | apply State.macsecJudge_keeps
      | refine State.macsecJudge_keeps_pair ?_ (by assumption) ?_ | split | intro _ | dsimp only

theorem State.macsecIn_keeps_pair {R : Nat} {s₀ : State} {s s' : State} {r : Option Entered} {lane : Nat} {sec : Option SecTag}
    (hR : 0x6400000000000000000000010100000000000000000000030000000000000000000000000000000000000001 ||| R = R) (heq : State.macsecIn lane sec s = (r, s'))
    (hk : Keeps R s₀ s) : Keeps R s₀ s' := by
  have := State.macsecIn_keeps lane sec hR hk
  rwa [heq] at this

theorem State.circuitIn_keeps {R : Nat} {s₀ : State} {s : State} (d domain : Nat) (b : List Nat)
    (hR : 0x20000000000000000000000000000000000400000000000000001 ||| R = R)
    (hk : Keeps R s₀ s) : Keeps R s₀ (State.circuitIn d domain b s) := by
  unfold State.circuitIn
  try dsimp only
  with_reducible
    repeat' first
      | assumption | exact sub_trans (by decide +kernel) hR | exact bit_of (by decide +kernel) hR | apply State.addSat_keeps
      | apply State.parseCnt_keeps | exact id | exact fun _ => rfl | exact fun _ _ _ => rfl | split
      | (with_unfolding_all (intro p hp; cases p <;> first | rfl | exact bit_absurd (by decide +kernel) hR hp)) | intro _ | dsimp only
      | apply Keeps.set_ceWaiting | apply Keeps.change

theorem State.deliver_keeps {R : Nat} {s₀ : State} {s : State} (d : Nat) (f : Frame) (m : Nat × Nat)
    (hR : 0x1000000001000001 ||| R = R)
    (hk : Keeps R s₀ s) : Keeps R s₀ (State.deliver d f m s) := by
  unfold State.deliver
  try dsimp only
  with_reducible
    repeat' first
      | assumption | exact sub_trans (by decide +kernel) hR | exact bit_of (by decide +kernel) hR | apply State.linkCnt_keeps
      | apply State.crossBytes_keeps | apply State.peerCnt_keeps | exact id | exact fun _ => rfl | exact fun _ _ _ => rfl | split
      | (with_unfolding_all (intro p hp; cases p <;> first | rfl | exact bit_absurd (by decide +kernel) hR hp)) | intro _ | dsimp only
      | apply Keeps.set_inbox | apply Keeps.change

theorem State.forward_keeps {R : Nat} {s₀ : State} {s : State} (d lane ingress : Nat) (f : Frame)
    (hR : 0x4000000000000000030000000000000000000000001000007001000021 ||| R = R)
    (hk : Keeps R s₀ s) : Keeps R s₀ (State.forward d lane ingress f s) := by
  unfold State.forward
  try dsimp only
  with_reducible
    repeat' first
      | assumption | exact sub_trans (by decide +kernel) hR | apply State.lookup_keeps | refine State.lookup_keeps_pair ?_ (by assumption) ?_
      | apply State.fwdCnt_keeps | apply State.deliver_keeps | apply Keeps.foldl | apply Keeps.foldl_snd | apply Keeps.foldl_fst
      | apply Keeps.foldl_build | split | intro _ | dsimp only

theorem State.enter_keeps {R : Nat} {s₀ : State} {s : State} (lane profile : Nat) (e : Entered) (b : List Nat)
    (hR : 0x4000820000000000030000000000000000000000401000007001000021 ||| R = R)
    (hk : Keeps R s₀ s) : Keeps R s₀ (State.enter lane profile e b s) := by
  unfold State.enter
  try dsimp only
  with_reducible
    repeat' first
      | assumption | exact sub_trans (by decide +kernel) hR | apply State.parseFrame_keeps | refine State.parseFrame_keeps_pair ?_ (by assumption) ?_
      | apply State.circuitIn_keeps | apply State.forward_keeps | split | intro _ | dsimp only

theorem State.ethernetIn_keeps {R : Nat} {s₀ : State} {s : State} (lane : Nat) (b : List Nat) (sec : Option SecTag)
    (hR : 0x6400000000000000000000010100004000820000000000030000000000000000000000401000007001000021 ||| R = R)
    (hk : Keeps R s₀ s) : Keeps R s₀ (State.ethernetIn lane b sec s) := by
  unfold State.ethernetIn
  try dsimp only
  with_reducible
    repeat' first
      | assumption | exact sub_trans (by decide +kernel) hR | apply State.passBytes_keeps | apply State.laneCnt_keeps | apply State.macsecIn_keeps
      | refine State.macsecIn_keeps_pair ?_ (by assumption) ?_ | apply State.enter_keeps | split | intro _ | dsimp only

theorem State.kolkanIn_keeps {R : Nat} {s₀ : State} {s : State} (lane : Nat)
    (hR : 0x4000820000000000030000000000000000000000481000007001000021 ||| R = R)
    (hk : Keeps R s₀ s) : Keeps R s₀ (State.kolkanIn lane s) := by
  unfold State.kolkanIn
  try dsimp only
  with_reducible
    repeat' first
      | assumption | exact sub_trans (by decide +kernel) hR | exact bit_of (by decide +kernel) hR | apply State.passBytes_keeps
      | apply State.circuitIn_keeps | apply State.enter_keeps | exact id | exact fun _ => rfl | exact fun _ _ _ => rfl | split
      | (with_unfolding_all (intro p hp; cases p <;> first | rfl | exact bit_absurd (by decide +kernel) hR hp)) | intro _ | dsimp only
      | apply Keeps.set_rxReady | apply Keeps.change

theorem execFabricFrameReceive_keeps {R : Nat} {s₀ : State} {s : State} (lane : Nat) (b : List Nat) (sec : Option SecTag)
    (hR : 0x6400000000000000000000010100004000820000000000030000000000000000000000481000007001000021 ||| R = R)
    (hk : Keeps R s₀ s) : ResultKeeps R s₀ (execFabricFrameReceive lane b sec s) := by
  unfold execFabricFrameReceive
  try dsimp only
  with_reducible
    repeat' first
      | assumption | exact sub_trans (by decide +kernel) hR | apply State.ethernetIn_keeps | apply State.kolkanIn_keeps | apply ResultKeeps.next
      | split | intro _ | dsimp only

theorem State.eliminate_keeps {R : Nat} {s₀ : State} {s : State} (d : Nat) (t : SeqTag)
    (hR : 0x800000000000000001 ||| R = R)
    (hk : Keeps R s₀ s) : Keeps R s₀ (State.eliminate d t s).2 := by
  unfold State.eliminate
  try dsimp only
  with_reducible
    repeat' first
      | assumption | exact sub_trans (by decide +kernel) hR | exact bit_of (by decide +kernel) hR | apply State.peerCnt_keeps | exact id
      | exact fun _ => rfl | exact fun _ _ _ => rfl | split
      | (with_unfolding_all (intro p hp; cases p <;> first | rfl | exact bit_absurd (by decide +kernel) hR hp)) | intro _ | dsimp only
      | apply Keeps.set_elim | apply Keeps.change

theorem State.eliminate_keeps_pair {R : Nat} {s₀ : State} {s s' : State} {r : Bool} {d : Nat} {t : SeqTag}
    (hR : 0x800000000000000001 ||| R = R) (heq : State.eliminate d t s = (r, s'))
    (hk : Keeps R s₀ s) : Keeps R s₀ s' := by
  have := State.eliminate_keeps d t hR hk
  rwa [heq] at this

theorem State.dropQueued_keeps {R : Nat} {s₀ : State} {s : State} (d : Nat) (up : Bool) (q len : Nat)
    (hR : 0x3000 ||| R = R)
    (hk : Keeps R s₀ s) : Keeps R s₀ (State.dropQueued d up q len s) := by
  unfold State.dropQueued
  try dsimp only
  with_reducible repeat' first | assumption | exact sub_trans (by decide +kernel) hR | apply State.countQueue_keeps | split | intro _ | dsimp only

theorem State.tmCnt_keeps {R : Nat} {s₀ : State} {s : State} (d k : Nat)
    (hR : 0x1 ||| R = R)
    (hk : Keeps R s₀ s) : Keeps R s₀ (State.tmCnt d k s) := by
  unfold State.tmCnt
  try dsimp only
  with_reducible repeat' first | assumption | exact sub_trans (by decide +kernel) hR | apply State.bump_keeps | split | intro _ | dsimp only

theorem State.oncePerSecond_keeps {R : Nat} {s₀ : State} {s : State} (code unit : Nat)
    (hR : 0x2000000000000000000 ||| R = R)
    (hk : Keeps R s₀ s) : Keeps R s₀ (State.oncePerSecond code unit s).2 := by
  unfold State.oncePerSecond
  try dsimp only
  with_reducible
    repeat' first
      | assumption | exact sub_trans (by decide +kernel) hR | exact bit_of (by decide +kernel) hR | exact id | exact fun _ => rfl
      | exact fun _ _ _ => rfl | split | (with_unfolding_all (intro p hp; cases p <;> first | rfl | exact bit_absurd (by decide +kernel) hR hp))
      | intro _ | dsimp only | apply Keeps.set_saidAt | apply Keeps.change

theorem State.oncePerSecond_keeps_pair {R : Nat} {s₀ : State} {s s' : State} {r : Bool} {code unit : Nat}
    (hR : 0x2000000000000000000 ||| R = R) (heq : State.oncePerSecond code unit s = (r, s'))
    (hk : Keeps R s₀ s) : Keeps R s₀ s' := by
  have := State.oncePerSecond_keeps code unit hR hk
  rwa [heq] at this

theorem State.raiseOnce_keeps {R : Nat} {s₀ : State} {s : State} (code unit d src : Nat)
    (hR : 0x30000000000000000000002000000000000000000 ||| R = R)
    (hk : Keeps R s₀ s) : Keeps R s₀ (State.raiseOnce code unit d src s) := by
  unfold State.raiseOnce
  try dsimp only
  with_reducible
    repeat' first
      | assumption | exact sub_trans (by decide +kernel) hR | apply State.raise_keeps | apply State.oncePerSecond_keeps
      | refine State.oncePerSecond_keeps_pair ?_ (by assumption) ?_ | split | intro _ | dsimp only

theorem State.popQueue_keeps {R : Nat} {s₀ : State} {s : State} (d : Nat) (up : Bool) (q : Nat)
    (hR : 0x28000000000000000000002100000000000000000000000000000000000000000000100000000000000 ||| R = R)
    (hk : Keeps R s₀ s) : Keeps R s₀ (State.popQueue d up q s).2 := by
  unfold State.popQueue
  try dsimp only
  with_reducible
    repeat' first
      | assumption | exact sub_trans (by decide +kernel) hR | exact bit_of (by decide +kernel) hR | apply State.put_keeps | apply State.setQueue_keeps
      | split | intro _ | dsimp only

theorem State.popQueue_keeps_pair {R : Nat} {s₀ : State} {s s' : State} {r : Option Frame} {d : Nat} {up : Bool} {q : Nat}
    (hR : 0x28000000000000000000002100000000000000000000000000000000000000000000100000000000000 ||| R = R) (heq : State.popQueue d up q s = (r, s'))
    (hk : Keeps R s₀ s) : Keeps R s₀ s' := by
  have := State.popQueue_keeps d up q hR hk
  rwa [heq] at this

theorem State.memCnt_keeps {R : Nat} {s₀ : State} {s : State} (d k n : Nat)
    (hR : 0x1 ||| R = R)
    (hk : Keeps R s₀ s) : Keeps R s₀ (State.memCnt d k n s) := by
  unfold State.memCnt
  try dsimp only
  with_reducible repeat' first | assumption | exact sub_trans (by decide +kernel) hR | apply State.bump_keeps | split | intro _ | dsimp only

theorem State.headBad_keeps_pair {R : Nat} {s₀ t : State} {s : State} {d : Nat} {up : Bool} {q : Nat} {f : State → State}
    (hR : 0x1 ||| R = R) (e : s.headBad d up q = some f) (h : Keeps R s₀ t) : Keeps R s₀ (f t) := by
  unfold State.headBad at e
  repeat' first
    | (cases e; fail)
    | split at e
  all_goals cases e
  all_goals first
    | exact State.memCnt_keeps _ _ _ (sub_trans (by decide +kernel) hR) h
    | exact State.tmCnt_keeps _ _ (sub_trans (by decide +kernel) hR) h

theorem State.cleanHead_keeps {R : Nat} {s₀ : State} {s : State} (d : Nat) (up : Bool) (q x3 : Nat)
    (hR : 0x28000000000000000000002100000000000000000000000000000000000000000000300000000003001 ||| R = R)
    (hk : Keeps R s₀ s) : Keeps R s₀ (State.cleanHead d up q x3 s) := by
  induction x3 generalizing s with
  | zero =>
    unfold State.cleanHead
    try dsimp only
    with_reducible
      repeat' first
        | assumption | exact sub_trans (by decide +kernel) hR | apply State.newHead_keeps | apply State.dropQueued_keeps | apply State.popQueue_keeps
        | refine State.popQueue_keeps_pair ?_ (by assumption) ?_ | refine State.headBad_keeps_pair ?_ (by assumption) ?_ | split | intro _
        | dsimp only
  | succ n ih =>
    unfold State.cleanHead
    try dsimp only
    with_reducible
      repeat' first
        | assumption | exact sub_trans (by decide +kernel) hR | apply ih | apply State.newHead_keeps | apply State.dropQueued_keeps
        | apply State.popQueue_keeps | refine State.popQueue_keeps_pair ?_ (by assumption) ?_ | refine State.headBad_keeps_pair ?_ (by assumption) ?_
        | split | intro _ | dsimp only

theorem State.append_keeps {R : Nat} {s₀ : State} {s : State} (d : Nat) (up : Bool) (q n : Nat) (express : Bool) (f : Frame)
    (hR : 0x828000000000000000000002100000000000000000000000000000000000000050000300000000003001 ||| R = R)
    (hk : Keeps R s₀ s) : Keeps R s₀ (State.append d up q n express f s) := by
  unfold State.append
  extract_lets v0 v1 v2 v3 v4 v5 v6 v7 v8
  have hv4 : Keeps R s₀ v4 := by
    unfold v4
    with_reducible
      repeat' first
        | assumption | exact sub_trans (by decide +kernel) hR | exact bit_of (by decide +kernel) hR | apply State.put_keeps
        | apply State.useFree_keeps | apply State.countQueue_keeps | apply State.setQueue_keeps | apply State.modQstat_keeps
        | apply State.newHead_keeps | apply State.reofferQueue_keeps | apply State.tmCnt_keeps | apply State.cleanHead_keeps | split | intro _
        | dsimp only
  have hv5 : Keeps R s₀ v5 := by
    unfold v5
    with_reducible
      repeat' first
        | assumption | exact sub_trans (by decide +kernel) hR | exact bit_of (by decide +kernel) hR | apply State.put_keeps
        | apply State.useFree_keeps | apply State.countQueue_keeps | apply State.setQueue_keeps | apply State.modQstat_keeps
        | apply State.newHead_keeps | apply State.reofferQueue_keeps | apply State.tmCnt_keeps | apply State.cleanHead_keeps | split | intro _
        | dsimp only
  have hv6 : Keeps R s₀ v6 := by
    unfold v6
    with_reducible
      repeat' first
        | assumption | exact sub_trans (by decide +kernel) hR | exact bit_of (by decide +kernel) hR | apply State.put_keeps
        | apply State.useFree_keeps | apply State.countQueue_keeps | apply State.setQueue_keeps | apply State.modQstat_keeps
        | apply State.newHead_keeps | apply State.reofferQueue_keeps | apply State.tmCnt_keeps | apply State.cleanHead_keeps | split | intro _
        | dsimp only
  have hv7 : Keeps R s₀ v7 := by
    unfold v7
    with_reducible
      repeat' first
        | assumption | exact sub_trans (by decide +kernel) hR | exact bit_of (by decide +kernel) hR | apply State.put_keeps
        | apply State.useFree_keeps | apply State.countQueue_keeps | apply State.setQueue_keeps | apply State.modQstat_keeps
        | apply State.newHead_keeps | apply State.reofferQueue_keeps | apply State.tmCnt_keeps | apply State.cleanHead_keeps | split | intro _
        | dsimp only
  have hv8 : Keeps R s₀ v8 := by
    unfold v8
    with_reducible
      repeat' first
        | assumption | exact sub_trans (by decide +kernel) hR | exact bit_of (by decide +kernel) hR | apply State.put_keeps
        | apply State.useFree_keeps | apply State.countQueue_keeps | apply State.setQueue_keeps | apply State.modQstat_keeps
        | apply State.newHead_keeps | apply State.reofferQueue_keeps | apply State.tmCnt_keeps | apply State.cleanHead_keeps | split | intro _
        | dsimp only
  try dsimp only
  with_reducible
    repeat' first
      | assumption | exact sub_trans (by decide +kernel) hR | exact bit_of (by decide +kernel) hR | apply State.put_keeps | apply State.useFree_keeps
      | apply State.countQueue_keeps | apply State.setQueue_keeps | apply State.modQstat_keeps | apply State.newHead_keeps
      | apply State.reofferQueue_keeps | apply State.tmCnt_keeps | apply State.cleanHead_keeps | split | intro _ | dsimp only

theorem State.admitFrame_keeps {R : Nat} {s₀ : State} {s : State} (d : Nat) (f : Frame)
    (hR : 0x828000000000000000010102100000000000000000030000000000000000000052000300000000003001 ||| R = R)
    (hk : Keeps R s₀ s) : Keeps R s₀ (State.admitFrame d f s) := by
  unfold State.admitFrame
  try dsimp only
  with_reducible
    repeat' first
      | assumption | exact sub_trans (by decide +kernel) hR | apply State.sepFrame_keeps | apply State.dropQueued_keeps | apply State.tmCnt_keeps
      | apply State.raiseOnce_keeps | apply State.append_keeps | split | intro _ | dsimp only

theorem State.classifyAdmit_keeps {R : Nat} {s₀ : State} {s : State} (d : Nat) (f : Frame)
    (hR : 0x828700000000000000010102100000000000000000030000000000000000000052000300000000003001 ||| R = R)
    (hk : Keeps R s₀ s) : Keeps R s₀ (State.classifyAdmit d f s) := by
  unfold State.classifyAdmit
  try dsimp only
  with_reducible
    repeat' first
      | assumption | exact sub_trans (by decide +kernel) hR | apply State.classify_keeps | refine State.classify_keeps_pair ?_ (by assumption) ?_
      | apply State.dropQueued_keeps | apply State.tmCnt_keeps | apply State.admitFrame_keeps | split | intro _ | dsimp only

theorem State.admitUp_keeps {R : Nat} {s₀ : State} {s : State} (d : Nat) (f : Frame)
    (hR : 0x82870000000000000001010211400080000000000003000000000000000000007200030077f000003021 ||| R = R)
    (hk : Keeps R s₀ s) : Keeps R s₀ (State.admitUp d f s) := by
  unfold State.admitUp
  try dsimp only
  with_reducible
    repeat' first
      | assumption | exact sub_trans (by decide +kernel) hR | apply State.parseFrame_keeps | refine State.parseFrame_keeps_pair ?_ (by assumption) ?_
      | apply State.sourceLearn_keeps | apply State.classifyAdmit_keeps | split | intro _ | dsimp only

theorem State.admitDown_keeps {R : Nat} {s₀ : State} {s : State} (d : Nat) (f : Frame)
    (hR : 0x828700000000000000010102100000000000000000030000000000000000000052800300000000003001 ||| R = R)
    (hk : Keeps R s₀ s) : Keeps R s₀ (State.admitDown d f s) := by
  unfold State.admitDown
  try dsimp only
  with_reducible
    repeat' first
      | assumption | exact sub_trans (by decide +kernel) hR | apply State.eliminate_keeps | refine State.eliminate_keeps_pair ?_ (by assumption) ?_
      | apply State.classifyAdmit_keeps | split | intro _ | dsimp only

theorem execFrameAdmit_keeps {R : Nat} {s₀ : State} {s : State} (d : Nat)
    (hR : 0x82870000000000000001010211400080000000000003000000000000000000007280130077f000003021 ||| R = R)
    (hk : Keeps R s₀ s) : ResultKeeps R s₀ (execFrameAdmit d s) := by
  unfold execFrameAdmit
  try dsimp only
  with_reducible
    repeat' first
      | assumption | exact sub_trans (by decide +kernel) hR | exact bit_of (by decide +kernel) hR | apply State.admitUp_keeps
      | apply State.admitDown_keeps | apply ResultKeeps.next | exact id | exact fun _ => rfl | exact fun _ _ _ => rfl | split
      | (with_unfolding_all (intro p hp; cases p <;> first | rfl | exact bit_absurd (by decide +kernel) hR hp)) | intro _ | dsimp only
      | apply Keeps.set_inbox | apply Keeps.change

end Sys2Proof.Machine
end

