-- ==== Sys2Proof/Laws/KeepsTraffic.lean ====
section
/-!
SUPPORT. Every operation of Machine/Traffic.lean keeps what `Keeps` names.
-/

namespace Sys2Proof.Machine

set_option Elab.async false
set_option linter.all false

theorem State.cleanPort_keeps {R : Nat} {s₀ : State} {s : State} (d : Nat) (up : Bool) (port : Nat)
    (hR : 0x28000000000000000000002100000000000000000000000000000000000000000000300000000003001 ||| R = R)
    (hk : Keeps R s₀ s) : Keeps R s₀ (State.cleanPort d up port s) := by
  unfold State.cleanPort
  try dsimp only
  with_reducible
    repeat' first
      | assumption | exact sub_trans (by decide +kernel) hR | apply State.cleanHead_keeps | apply Keeps.foldl | apply Keeps.foldl_snd
      | apply Keeps.foldl_fst | apply Keeps.foldl_build | split | intro _ | dsimp only

theorem State.noteGates_keeps {R : Nat} {s₀ : State} {s : State} (d port : Nat)
    (hR : 0x200000000000001 ||| R = R)
    (hk : Keeps R s₀ s) : Keeps R s₀ (State.noteGates d port s) := by
  unfold State.noteGates
  try dsimp only
  with_reducible
    repeat' first
      | assumption | exact sub_trans (by decide +kernel) hR | apply State.modQstat_keeps | apply State.tmCnt_keeps | apply Keeps.foldl
      | apply Keeps.foldl_snd | apply Keeps.foldl_fst | apply Keeps.foldl_build | split | intro _ | dsimp only

theorem State.settleWait_keeps {R : Nat} {s₀ : State} {s : State} (d q : Nat)
    (hR : 0x200000000000000 ||| R = R)
    (hk : Keeps R s₀ s) : Keeps R s₀ (State.settleWait d q s) := by
  unfold State.settleWait
  try dsimp only
  with_reducible repeat' first | assumption | exact sub_trans (by decide +kernel) hR | apply State.modQstat_keeps | split | intro _ | dsimp only

theorem State.sampleRelease_keeps {R : Nat} {s₀ : State} {s : State} (d : Nat) (up : Bool) (q : Nat) (f : Frame) (wait : Nat)
    (hR : 0x200000000000000 ||| R = R)
    (hk : Keeps R s₀ s) : Keeps R s₀ (State.sampleRelease d up q f wait s) := by
  unfold State.sampleRelease
  try dsimp only
  with_reducible repeat' first | assumption | exact sub_trans (by decide +kernel) hR | apply State.modQstat_keeps | split | intro _ | dsimp only

theorem State.feltCnt_keeps {R : Nat} {s₀ : State} {s : State} (d k n : Nat)
    (hR : 0x1 ||| R = R)
    (hk : Keeps R s₀ s) : Keeps R s₀ (State.feltCnt d k n s) := by
  unfold State.feltCnt
  try dsimp only
  with_reducible repeat' first | assumption | exact sub_trans (by decide +kernel) hR | apply State.bump_keeps | split | intro _ | dsimp only

theorem State.toLane_keeps {R : Nat} {s₀ : State} {s : State} (d p : Nat) (f : Frame)
    (hR : 0x2000000001000001 ||| R = R)
    (hk : Keeps R s₀ s) : Keeps R s₀ (State.toLane d p f s) := by
  unfold State.toLane
  try dsimp only
  with_reducible
    repeat' first
      | assumption | exact sub_trans (by decide +kernel) hR | exact bit_of (by decide +kernel) hR | apply State.crossBytes_keeps | exact id
      | exact fun _ => rfl | exact fun _ _ _ => rfl | split
      | (with_unfolding_all (intro p hp; cases p <;> first | rfl | exact bit_absurd (by decide +kernel) hR hp)) | intro _ | dsimp only
      | apply Keeps.set_laneOut | apply Keeps.change

theorem State.feltAppend_keeps {R : Nat} {s₀ : State} {s : State} (d p : Nat) (f : Frame)
    (hR : 0x10164000000000000000000030000000000000000000012000400000000003001 ||| R = R)
    (hk : Keeps R s₀ s) : Keeps R s₀ (State.feltAppend d p f s) := by
  unfold State.feltAppend
  try dsimp only
  with_reducible
    repeat' first
      | assumption | exact sub_trans (by decide +kernel) hR | exact bit_of (by decide +kernel) hR | apply State.put_keeps | apply State.useFree_keeps
      | apply State.event_keeps | apply State.sepFrame_keeps | apply State.dropQueued_keeps | apply State.raiseOnce_keeps | apply State.feltCnt_keeps
      | exact id | exact fun _ => rfl | exact fun _ _ _ => rfl | split
      | (with_unfolding_all (intro p hp; cases p <;> first | rfl | exact bit_absurd (by decide +kernel) hR hp)) | intro _ | dsimp only
      | apply Keeps.set_felt | apply Keeps.change

theorem State.setDrain_keeps {R : Nat} {s₀ : State} {s : State} (d p : Nat) (x : DrainSt)
    (hR : 0x800000000000000 ||| R = R)
    (hk : Keeps R s₀ s) : Keeps R s₀ (State.setDrain d p x s) := by
  unfold State.setDrain
  try dsimp only
  with_reducible
    repeat' first
      | assumption | exact sub_trans (by decide +kernel) hR | exact bit_of (by decide +kernel) hR | exact id | exact fun _ => rfl
      | exact fun _ _ _ => rfl | split | (with_unfolding_all (intro p hp; cases p <;> first | rfl | exact bit_absurd (by decide +kernel) hR hp))
      | intro _ | dsimp only | apply Keeps.set_drain | apply Keeps.change

theorem State.outCharge_keeps {R : Nat} {s₀ : State} {s : State} (d p len : Nat)
    (hR : 0x800000000000000 ||| R = R)
    (hk : Keeps R s₀ s) : Keeps R s₀ (State.outCharge d p len s) := by
  unfold State.outCharge
  try dsimp only
  with_reducible
    repeat' first
      | assumption | exact sub_trans (by decide +kernel) hR | exact bit_of (by decide +kernel) hR | apply State.setDrain_keeps | exact id
      | exact fun _ => rfl | exact fun _ _ _ => rfl | split
      | (with_unfolding_all (intro p hp; cases p <;> first | rfl | exact bit_absurd (by decide +kernel) hR hp)) | intro _ | dsimp only
      | apply Keeps.change

theorem State.toPort_keeps {R : Nat} {s₀ : State} {s : State} (d p : Nat) (hold queued : Bool) (f : Frame)
    (hR : 0x10164000000000000000000030000000000000000000012002c00000001003001 ||| R = R)
    (hk : Keeps R s₀ s) : Keeps R s₀ (State.toPort d p hold queued f s) := by
  unfold State.toPort
  try dsimp only
  with_reducible
    repeat' first
      | assumption | exact sub_trans (by decide +kernel) hR | apply State.dropQueued_keeps | apply State.feltCnt_keeps | apply State.toLane_keeps
      | apply State.feltAppend_keeps | apply State.outCharge_keeps | split | intro _ | dsimp only

theorem execQueueRelease_keeps {R : Nat} {s₀ : State} {s : State} (d : Nat) (up : Bool) (port : Nat)
    (hR : 0xc38000000000000000010166100000000000000000030000000000000000000072002f10000003003001 ||| R = R)
    (hk : Keeps R s₀ s) : ResultKeeps R s₀ (execQueueRelease d up port s) := by
  unfold execQueueRelease
  extract_lets v0 v1
  have hv0 : Keeps R s₀ v0 := by
    unfold v0
    with_reducible
      repeat' first
        | assumption | exact sub_trans (by decide +kernel) hR | apply State.passBytes_keeps | apply State.sepFrame_keeps | apply State.treeSend_keeps
        | apply State.charge_queue_keeps | apply State.charge_node_keeps | apply State.newHead_keeps | apply State.reoffer_keeps
        | apply State.moveVt_keeps | apply State.dropQueued_keeps | apply State.popQueue_keeps
        | refine State.popQueue_keeps_pair ?_ (by assumption) ?_ | apply State.cleanHead_keeps | apply State.cleanPort_keeps
        | apply State.noteGates_keeps | apply State.sampleRelease_keeps | apply State.toPort_keeps | apply ResultKeeps.next | apply Keeps.foldl
        | apply Keeps.foldl_snd | apply Keeps.foldl_fst | apply Keeps.foldl_build | split | intro _ | dsimp only
  have hv1 : Keeps R s₀ v1 := by
    unfold v1
    with_reducible
      repeat' first
        | assumption | exact sub_trans (by decide +kernel) hR | apply State.passBytes_keeps | apply State.sepFrame_keeps | apply State.treeSend_keeps
        | apply State.charge_queue_keeps | apply State.charge_node_keeps | apply State.newHead_keeps | apply State.reoffer_keeps
        | apply State.moveVt_keeps | apply State.dropQueued_keeps | apply State.popQueue_keeps
        | refine State.popQueue_keeps_pair ?_ (by assumption) ?_ | apply State.cleanHead_keeps | apply State.cleanPort_keeps
        | apply State.noteGates_keeps | apply State.sampleRelease_keeps | apply State.toPort_keeps | apply ResultKeeps.next | apply Keeps.foldl
        | apply Keeps.foldl_snd | apply Keeps.foldl_fst | apply Keeps.foldl_build | split | intro _ | dsimp only
  try dsimp only
  with_reducible
    repeat' first
      | assumption | exact sub_trans (by decide +kernel) hR | apply State.passBytes_keeps | apply State.sepFrame_keeps | apply State.treeSend_keeps
      | apply State.charge_queue_keeps | apply State.charge_node_keeps | apply State.newHead_keeps | apply State.reoffer_keeps
      | apply State.moveVt_keeps | apply State.dropQueued_keeps | apply State.popQueue_keeps | refine State.popQueue_keeps_pair ?_ (by assumption) ?_
      | apply State.cleanHead_keeps | apply State.cleanPort_keeps | apply State.noteGates_keeps | apply State.sampleRelease_keeps
      | apply State.toPort_keeps | apply ResultKeeps.next | apply Keeps.foldl | apply Keeps.foldl_snd | apply Keeps.foldl_fst
      | apply Keeps.foldl_build | split | intro _ | dsimp only

theorem State.popFelt_keeps {R : Nat} {s₀ : State} {s : State} (d p : Nat) (f : Frame) (rest : List Frame)
    (hR : 0x64000000000000000000000000000000000000000000000400000000000000 ||| R = R)
    (hk : Keeps R s₀ s) : Keeps R s₀ (State.popFelt d p f rest s) := by
  unfold State.popFelt
  try dsimp only
  with_reducible
    repeat' first
      | assumption | exact sub_trans (by decide +kernel) hR | exact bit_of (by decide +kernel) hR | apply State.put_keeps | exact id
      | exact fun _ => rfl | exact fun _ _ _ => rfl | split
      | (with_unfolding_all (intro p hp; cases p <;> first | rfl | exact bit_absurd (by decide +kernel) hR hp)) | intro _ | dsimp only
      | apply Keeps.set_felt | apply Keeps.change

theorem State.cleanFelt_keeps {R : Nat} {s₀ : State} {s : State} (d p x2 : Nat)
    (hR : 0x64000000000000000000000000000000000000000000000400000000003001 ||| R = R)
    (hk : Keeps R s₀ s) : Keeps R s₀ (State.cleanFelt d p x2 s) := by
  induction x2 generalizing s with
  | zero =>
    unfold State.cleanFelt
    try dsimp only
    with_reducible
      repeat' first
        | assumption | exact sub_trans (by decide +kernel) hR | apply State.dropQueued_keeps | apply State.feltCnt_keeps | apply State.popFelt_keeps
        | split | intro _ | dsimp only
  | succ n ih =>
    unfold State.cleanFelt
    try dsimp only
    with_reducible
      repeat' first
        | assumption | exact sub_trans (by decide +kernel) hR | apply ih | apply State.dropQueued_keeps | apply State.feltCnt_keeps
        | apply State.popFelt_keeps | split | intro _ | dsimp only

theorem execFeltRelease_keeps {R : Nat} {s₀ : State} {s : State} (d p : Nat)
    (hR : 0x64000000000000000000000000000000000000000000002c00000001003001 ||| R = R)
    (hk : Keeps R s₀ s) : ResultKeeps R s₀ (execFeltRelease d p s) := by
  unfold execFeltRelease
  try dsimp only
  with_reducible
    repeat' first
      | assumption | exact sub_trans (by decide +kernel) hR | exact bit_of (by decide +kernel) hR | apply State.feltCnt_keeps
      | apply State.toLane_keeps | apply State.setDrain_keeps | apply State.outCharge_keeps | apply State.popFelt_keeps | apply State.cleanFelt_keeps
      | apply ResultKeeps.next | exact id | exact fun _ => rfl | exact fun _ _ _ => rfl | split
      | (with_unfolding_all (intro p hp; cases p <;> first | rfl | exact bit_absurd (by decide +kernel) hR hp)) | intro _ | dsimp only
      | apply Keeps.change

theorem State.portState_keeps {R : Nat} {s₀ : State} {s : State} (d p st : Nat)
    (hR : 0x20000000000000000000030000000000000000000000000000000000000000 ||| R = R)
    (hk : Keeps R s₀ s) : Keeps R s₀ (State.portState d p st s) := by
  unfold State.portState
  try dsimp only
  with_reducible
    repeat' first
      | assumption | exact sub_trans (by decide +kernel) hR | exact bit_of (by decide +kernel) hR | apply State.put_keeps | apply State.raise_keeps
      | split | intro _ | dsimp only

theorem State.portCause_keeps {R : Nat} {s₀ : State} {s : State} (d p cause : Nat)
    (hR : 0x20000000000000000000030000000000000000000000000000000000000000 ||| R = R)
    (hk : Keeps R s₀ s) : Keeps R s₀ (State.portCause d p cause s) := by
  unfold State.portCause
  extract_lets v0 v1
  have hv1 : Keeps R s₀ v1 := by
    unfold v1
    with_reducible
      repeat' first
        | assumption | exact sub_trans (by decide +kernel) hR | exact bit_of (by decide +kernel) hR | apply State.addSat_keeps
        | apply State.putBit_keeps | apply State.portState_keeps | split | intro _ | dsimp only
  try dsimp only
  with_reducible
    repeat' first
      | assumption | exact sub_trans (by decide +kernel) hR | exact bit_of (by decide +kernel) hR | apply State.addSat_keeps
      | apply State.putBit_keeps | apply State.portState_keeps | split | intro _ | dsimp only

theorem State.portClear_keeps {R : Nat} {s₀ : State} {s : State} (d p cause : Nat)
    (hR : 0x20000000000000000000000000000000000000000000000000000000000000 ||| R = R)
    (hk : Keeps R s₀ s) : Keeps R s₀ (State.portClear d p cause s) := by
  unfold State.portClear
  try dsimp only
  with_reducible
    repeat' first
      | assumption | exact sub_trans (by decide +kernel) hR | exact bit_of (by decide +kernel) hR | apply State.put_keeps | split | intro _
      | dsimp only

theorem State.laneCause_keeps {R : Nat} {s₀ : State} {s : State} (lane cause : Nat) (on : Bool)
    (hR : 0x20000000000000000000030000000000000000000000000000000000000000 ||| R = R)
    (hk : Keeps R s₀ s) : Keeps R s₀ (State.laneCause lane cause on s) := by
  unfold State.laneCause
  try dsimp only
  with_reducible
    repeat' first
      | assumption | exact sub_trans (by decide +kernel) hR | apply State.portCause_keeps | apply State.portClear_keeps | apply Keeps.foldl
      | apply Keeps.foldl_snd | apply Keeps.foldl_fst | apply Keeps.foldl_build | split | intro _ | dsimp only

theorem execPortHoldCause_keeps {R : Nat} {s₀ : State} {s : State} (d p cause : Nat)
    (hR : 0x20000000000000000000030000000000000000000000000000000000000000 ||| R = R)
    (hk : Keeps R s₀ s) : ResultKeeps R s₀ (execPortHoldCause d p cause s) := by
  unfold execPortHoldCause
  try dsimp only
  with_reducible
    repeat' first
      | assumption | exact sub_trans (by decide +kernel) hR | apply State.portCause_keeps | apply ResultKeeps.next | split | intro _ | dsimp only

theorem execPortResume_keeps {R : Nat} {s₀ : State} {s : State} (d p : Nat)
    (hR : 0x20000000000000000000030000000000000000000000000800000000000000 ||| R = R)
    (hk : Keeps R s₀ s) : ResultKeeps R s₀ (execPortResume d p s) := by
  unfold execPortResume
  try dsimp only
  with_reducible
    repeat' first
      | assumption | exact sub_trans (by decide +kernel) hR | apply State.setDrain_keeps | apply State.portState_keeps | apply ResultKeeps.next
      | split | intro _ | dsimp only

theorem execPortAvailable_keeps {R : Nat} {s₀ : State} {s : State} (d p : Nat)
    (hR : 0x20000000000000000000030000000000000000000000000000000000000000 ||| R = R)
    (hk : Keeps R s₀ s) : ResultKeeps R s₀ (execPortAvailable d p s) := by
  unfold execPortAvailable
  try dsimp only
  with_reducible
    repeat' first
      | assumption | exact sub_trans (by decide +kernel) hR | apply State.portState_keeps | apply ResultKeeps.next | split | intro _ | dsimp only

theorem State.restartSamples_keeps {R : Nat} {s₀ : State} {s : State} (d : Nat)
    (hR : 0x200000000000000 ||| R = R)
    (hk : Keeps R s₀ s) : Keeps R s₀ (State.restartSamples d s) := by
  unfold State.restartSamples
  try dsimp only
  with_reducible
    repeat' first
      | assumption | exact sub_trans (by decide +kernel) hR | exact bit_of (by decide +kernel) hR | exact id | exact fun _ => rfl
      | exact fun _ _ _ => rfl | apply Keeps.foldl | apply Keeps.foldl_snd | apply Keeps.foldl_fst | apply Keeps.foldl_build | split
      | (with_unfolding_all (intro p hp; cases p <;> first | rfl | exact bit_absurd (by decide +kernel) hR hp)) | intro _ | dsimp only
      | apply Keeps.set_qstat | apply Keeps.change

theorem execTmSampleWindow_keeps {R : Nat} {s₀ : State} {s : State} (d : Nat)
    (hR : 0x200000000000000000030000000000000000000000000200000000002000 ||| R = R)
    (hk : Keeps R s₀ s) : ResultKeeps R s₀ (execTmSampleWindow d s) := by
  unfold execTmSampleWindow
  try dsimp only
  with_reducible
    repeat' first
      | assumption | exact sub_trans (by decide +kernel) hR | exact bit_of (by decide +kernel) hR | apply State.put_keeps | apply State.raise_keeps
      | apply State.devWrite_keeps | apply State.restartSamples_keeps | apply ResultKeeps.next | split | intro _ | dsimp only

theorem State.leaveHold_keeps {R : Nat} {s₀ : State} {s : State} (lane d : Nat) (f : Frame)
    (hR : 0x6000000000000000 ||| R = R)
    (hk : Keeps R s₀ s) : Keeps R s₀ (State.leaveHold lane d f s) := by
  unfold State.leaveHold
  try dsimp only
  with_reducible
    repeat' first
      | assumption | exact sub_trans (by decide +kernel) hR | exact bit_of (by decide +kernel) hR | exact id | exact fun _ => rfl
      | exact fun _ _ _ => rfl | split | (with_unfolding_all (intro p hp; cases p <;> first | rfl | exact bit_absurd (by decide +kernel) hR hp))
      | intro _ | dsimp only | apply Keeps.set_laneOut | apply Keeps.set_cellPos | apply Keeps.change

theorem State.showStamp_keeps {R : Nat} {s₀ : State} {s : State} (d : Nat)
    (hR : 0x6000000000000000000000000000000000000000000000000000000000000000000000 ||| R = R)
    (hk : Keeps R s₀ s) : Keeps R s₀ (State.showStamp d s) := by
  unfold State.showStamp
  try dsimp only
  with_reducible
    repeat' first
      | assumption | exact sub_trans (by decide +kernel) hR | exact bit_of (by decide +kernel) hR | apply State.put_keeps | split | intro _
      | dsimp only

theorem State.stampOut_keeps {R : Nat} {s₀ : State} {s : State} (lane : Nat) (ptp : Option PtpMsg)
    (hR : 0x6000000000000000000000000000000000000000000000000001000000000000000000 ||| R = R)
    (hk : Keeps R s₀ s) : Keeps R s₀ (State.stampOut lane ptp s) := by
  unfold State.stampOut
  try dsimp only
  with_reducible
    repeat' first
      | assumption | exact sub_trans (by decide +kernel) hR | exact bit_of (by decide +kernel) hR | apply State.put_keeps
      | apply State.showStamp_keeps | exact id | exact fun _ => rfl | exact fun _ _ _ => rfl | split
      | (with_unfolding_all (intro p hp; cases p <;> first | rfl | exact bit_absurd (by decide +kernel) hR hp)) | intro _ | dsimp only
      | apply Keeps.set_stamps | apply Keeps.change

theorem State.sendEthernet_keeps {R : Nat} {s₀ : State} {s : State} (lane d : Nat) (f g : Frame) (ptp : Option PtpMsg)
    (hR : 0x700000000000000006000010100000000000000000000030000000000000000000021006000000001000081 ||| R = R)
    (hk : Keeps R s₀ s) : Keeps R s₀ (State.sendEthernet lane d f g ptp s) := by
  unfold State.sendEthernet
  try dsimp only
  with_reducible
    repeat' first
      | assumption | exact sub_trans (by decide +kernel) hR | apply State.emit_keeps | apply State.passBytes_keeps | apply State.separation_keeps
      | apply State.ciphCnt_keeps | apply State.takePn_keeps | refine State.takePn_keeps_pair ?_ (by assumption) ?_ | apply State.laneCnt_keeps
      | apply State.leaveHold_keeps | apply State.stampOut_keeps | split | intro _ | dsimp only

theorem State.sendCells_keeps {R : Nat} {s₀ : State} {s : State} (lane : Nat) (f : Frame) (x2 x3 : Nat)
    (hR : 0x20018000000000000000 ||| R = R)
    (hk : Keeps R s₀ s) : Keeps R s₀ (State.sendCells lane f x2 x3 s).2 := by
  induction x2 generalizing s x3 with
  | zero =>
    unfold State.sendCells
    try dsimp only
    with_reducible
      repeat' first
        | assumption | exact sub_trans (by decide +kernel) hR | exact bit_of (by decide +kernel) hR | apply State.onLane_keeps | exact id
        | exact fun _ => rfl | exact fun _ _ _ => rfl | split
        | (with_unfolding_all (intro p hp; cases p <;> first | rfl | exact bit_absurd (by decide +kernel) hR hp)) | intro _ | dsimp only
        | apply Keeps.set_credit | apply Keeps.change
  | succ n ih =>
    unfold State.sendCells
    try dsimp only
    with_reducible
      repeat' first
        | assumption | exact sub_trans (by decide +kernel) hR | exact bit_of (by decide +kernel) hR | apply ih | apply State.onLane_keeps | exact id
        | exact fun _ => rfl | exact fun _ _ _ => rfl | split
        | (with_unfolding_all (intro p hp; cases p <;> first | rfl | exact bit_absurd (by decide +kernel) hR hp)) | intro _ | dsimp only
        | apply Keeps.set_credit | apply Keeps.change

theorem State.sendCells_keeps_pair {R : Nat} {s₀ : State} {s s' : State} {r : Nat} {lane : Nat} {f : Frame} {x2 x3 : Nat}
    (hR : 0x20018000000000000000 ||| R = R) (heq : State.sendCells lane f x2 x3 s = (r, s'))
    (hk : Keeps R s₀ s) : Keeps R s₀ s' := by
  have := State.sendCells_keeps lane f x2 x3 hR hk
  rwa [heq] at this

theorem State.sendKolkan_keeps {R : Nat} {s₀ : State} {s : State} (lane d : Nat) (f g : Frame)
    (hR : 0x2001e000000001000001 ||| R = R)
    (hk : Keeps R s₀ s) : Keeps R s₀ (State.sendKolkan lane d f g s) := by
  unfold State.sendKolkan
  try dsimp only
  with_reducible
    repeat' first
      | assumption | exact sub_trans (by decide +kernel) hR | exact bit_of (by decide +kernel) hR | apply State.passBytes_keeps
      | apply State.laneCnt_keeps | apply State.leaveHold_keeps | apply State.sendCells_keeps
      | refine State.sendCells_keeps_pair ?_ (by assumption) ?_ | exact id | exact fun _ => rfl | exact fun _ _ _ => rfl | split
      | (with_unfolding_all (intro p hp; cases p <;> first | rfl | exact bit_absurd (by decide +kernel) hR hp)) | intro _ | dsimp only
      | apply Keeps.set_cellPos | apply Keeps.change

theorem execFabricFrameTransmit_keeps {R : Nat} {s₀ : State} {s : State} (lane tc : Nat) (ptp : Option PtpMsg)
    (hR : 0x70000000000000000600001010000000000000000000003000000000000000000002101e000000001000081 ||| R = R)
    (hk : Keeps R s₀ s) : ResultKeeps R s₀ (execFabricFrameTransmit lane tc ptp s) := by
  unfold execFabricFrameTransmit
  try dsimp only
  with_reducible
    repeat' first
      | assumption | exact sub_trans (by decide +kernel) hR | apply State.peerCnt_keeps | apply State.leaveHold_keeps | apply State.sendEthernet_keeps
      | apply State.sendKolkan_keeps | apply ResultKeeps.next | split | intro _ | dsimp only

end Sys2Proof.Machine
end

