-- ==== Sys2Proof/Laws/KeepsLanes.lean ====
section
/-!
SUPPORT. Every operation of Machine/Lanes.lean keeps what `Keeps` names.
-/

namespace Sys2Proof.Machine

set_option Elab.async false
set_option linter.all false

theorem State.raiseLane_keeps {R : Nat} {s₀ : State} {s : State} (l k : Nat)
    (hR : 0x30000000000000000000000000000000000000000 ||| R = R)
    (hk : Keeps R s₀ s) : Keeps R s₀ (State.raiseLane l k s) := by
  unfold State.raiseLane
  try dsimp only
  with_reducible repeat' first | assumption | exact sub_trans (by decide +kernel) hR | apply State.raise_keeps | split | intro _ | dsimp only

theorem State.showSource_keeps {R : Nat} {s₀ : State} {s : State}
    (hR : 0x40000000000000000000000000000000000004000000000000000000000000000000 ||| R = R)
    (hk : Keeps R s₀ s) : Keeps R s₀ (State.showSource s) := by
  unfold State.showSource
  extract_lets v0 v1
  have hv1 : Keeps R s₀ v1 := by
    unfold v1
    with_reducible
      repeat' first
        | assumption | exact sub_trans (by decide +kernel) hR | exact bit_of (by decide +kernel) hR | apply State.put_keeps
        | apply State.putFlag_keeps | apply Keeps.foldl | apply Keeps.foldl_snd | apply Keeps.foldl_fst | apply Keeps.foldl_build | split | intro _
        | dsimp only
  try dsimp only
  with_reducible
    repeat' first
      | assumption | exact sub_trans (by decide +kernel) hR | exact bit_of (by decide +kernel) hR | apply State.put_keeps | apply State.putFlag_keeps
      | apply Keeps.foldl | apply Keeps.foldl_snd | apply Keeps.foldl_fst | apply Keeps.foldl_build | split | intro _ | dsimp only

theorem State.forgetCells_keeps {R : Nat} {s₀ : State} {s : State} (l : Nat)
    (hR : 0x7c000000000000000 ||| R = R)
    (hk : Keeps R s₀ s) : Keeps R s₀ (State.forgetCells l s) := by
  unfold State.forgetCells
  try dsimp only
  with_reducible
    repeat' first
      | assumption | exact sub_trans (by decide +kernel) hR | exact bit_of (by decide +kernel) hR | apply State.modLane_keeps | exact id
      | exact fun _ => rfl | exact fun _ _ _ => rfl | apply Keeps.foldl | apply Keeps.foldl_snd | apply Keeps.foldl_fst | apply Keeps.foldl_build
      | split | (with_unfolding_all (intro p hp; cases p <;> first | rfl | exact bit_absurd (by decide +kernel) hR hp)) | intro _ | dsimp only
      | apply Keeps.set_cellPos | apply Keeps.set_credit | apply Keeps.set_owed | apply Keeps.set_rxPart | apply Keeps.change

theorem State.laneLeftOn_keeps {R : Nat} {s₀ : State} {s : State} (l : Nat)
    (hR : 0x4000002000000000000000000003000000001400000000000007c000000000000001 ||| R = R)
    (hk : Keeps R s₀ s) : Keeps R s₀ (State.laneLeftOn l s) := by
  unfold State.laneLeftOn
  extract_lets v0 v1
  have hv0 : Keeps R s₀ v0 := by
    unfold v0
    with_reducible
      repeat' first
        | assumption | exact sub_trans (by decide +kernel) hR | exact bit_of (by decide +kernel) hR | apply State.put_keeps
        | apply State.laneCnt_keeps | apply State.laneCause_keeps | apply State.showSource_keeps | apply State.forgetCells_keeps | split | intro _
        | dsimp only
  have hv1 : Keeps R s₀ v1 := by
    unfold v1
    with_reducible
      repeat' first
        | assumption | exact sub_trans (by decide +kernel) hR | exact bit_of (by decide +kernel) hR | apply State.put_keeps
        | apply State.laneCnt_keeps | apply State.laneCause_keeps | apply State.showSource_keeps | apply State.forgetCells_keeps | split | intro _
        | dsimp only
  try dsimp only
  with_reducible
    repeat' first
      | assumption | exact sub_trans (by decide +kernel) hR | exact bit_of (by decide +kernel) hR | apply State.put_keeps | apply State.laneCnt_keeps
      | apply State.laneCause_keeps | apply State.showSource_keeps | apply State.forgetCells_keeps | split | intro _ | dsimp only

theorem State.laneTo_keeps {R : Nat} {s₀ : State} {s : State} (l st : Nat)
    (hR : 0x4000002000000000000000000003000000001400000000000007c000000000000001 ||| R = R)
    (hk : Keeps R s₀ s) : Keeps R s₀ (State.laneTo l st s) := by
  unfold State.laneTo
  extract_lets v0 v1 v2
  have hv1 : Keeps R s₀ v1 := by
    unfold v1
    with_reducible
      repeat' first
        | assumption | exact sub_trans (by decide +kernel) hR | exact bit_of (by decide +kernel) hR | apply State.put_keeps
        | apply State.modLane_keeps | apply State.laneLeftOn_keeps | split | intro _ | dsimp only
  have hv2 : Keeps R s₀ v2 := by
    unfold v2
    with_reducible
      repeat' first
        | assumption | exact sub_trans (by decide +kernel) hR | exact bit_of (by decide +kernel) hR | apply State.put_keeps
        | apply State.modLane_keeps | apply State.laneLeftOn_keeps | split | intro _ | dsimp only
  try dsimp only
  with_reducible
    repeat' first
      | assumption | exact sub_trans (by decide +kernel) hR | exact bit_of (by decide +kernel) hR | apply State.put_keeps | apply State.modLane_keeps
      | apply State.laneLeftOn_keeps | split | intro _ | dsimp only

theorem State.laneUp_keeps {R : Nat} {s₀ : State} {s : State} (l : Nat)
    (hR : 0x40000020000000000000000000030000000004000000000000008000000000000000 ||| R = R)
    (hk : Keeps R s₀ s) : Keeps R s₀ (State.laneUp l s) := by
  unfold State.laneUp
  extract_lets v0 v1 v2
  have hv1 : Keeps R s₀ v1 := by
    unfold v1
    with_reducible
      repeat' first
        | assumption | exact sub_trans (by decide +kernel) hR | exact bit_of (by decide +kernel) hR | apply State.put_keeps
        | apply State.laneCause_keeps | apply State.showSource_keeps | exact id | exact fun _ => rfl | exact fun _ _ _ => rfl | apply Keeps.foldl
        | apply Keeps.foldl_snd | apply Keeps.foldl_fst | apply Keeps.foldl_build | split
        | (with_unfolding_all (intro p hp; cases p <;> first | rfl | exact bit_absurd (by decide +kernel) hR hp)) | intro _ | dsimp only
        | apply Keeps.set_credit | apply Keeps.change
  have hv2 : Keeps R s₀ v2 := by
    unfold v2
    with_reducible
      repeat' first
        | assumption | exact sub_trans (by decide +kernel) hR | exact bit_of (by decide +kernel) hR | apply State.put_keeps
        | apply State.laneCause_keeps | apply State.showSource_keeps | exact id | exact fun _ => rfl | exact fun _ _ _ => rfl | apply Keeps.foldl
        | apply Keeps.foldl_snd | apply Keeps.foldl_fst | apply Keeps.foldl_build | split
        | (with_unfolding_all (intro p hp; cases p <;> first | rfl | exact bit_absurd (by decide +kernel) hR hp)) | intro _ | dsimp only
        | apply Keeps.set_credit | apply Keeps.change
  try dsimp only
  with_reducible
    repeat' first
      | assumption | exact sub_trans (by decide +kernel) hR | exact bit_of (by decide +kernel) hR | apply State.put_keeps
      | apply State.laneCause_keeps | apply State.showSource_keeps | exact id | exact fun _ => rfl | exact fun _ _ _ => rfl | apply Keeps.foldl
      | apply Keeps.foldl_snd | apply Keeps.foldl_fst | apply Keeps.foldl_build | split
      | (with_unfolding_all (intro p hp; cases p <;> first | rfl | exact bit_absurd (by decide +kernel) hR hp)) | intro _ | dsimp only
      | apply Keeps.set_credit | apply Keeps.change

theorem State.laneFail_keeps {R : Nat} {s₀ : State} {s : State} (l : Nat)
    (hR : 0x4000002000000000000000000003000000001400000000000007c000000000000001 ||| R = R)
    (hk : Keeps R s₀ s) : Keeps R s₀ (State.laneFail l s) := by
  unfold State.laneFail
  try dsimp only
  with_reducible
    repeat' first
      | assumption | exact sub_trans (by decide +kernel) hR | exact bit_of (by decide +kernel) hR | apply State.put_keeps
      | apply State.raiseLane_keeps | apply State.laneTo_keeps | split | intro _ | dsimp only

theorem execLaneFail_keeps {R : Nat} {s₀ : State} {s : State} (lane : Nat) (los cdrLock : Bool)
    (hR : 0x4000002000000000000000000003000000001400000000000007c000000000000001 ||| R = R)
    (hk : Keeps R s₀ s) : ResultKeeps R s₀ (execLaneFail lane los cdrLock s) := by
  unfold execLaneFail
  try dsimp only
  with_reducible
    repeat' first
      | assumption | exact sub_trans (by decide +kernel) hR | exact bit_of (by decide +kernel) hR | apply State.putFlag_keeps
      | apply State.laneFail_keeps | apply ResultKeeps.next | split | intro _ | dsimp only

theorem State.sendCap_keeps {R : Nat} {s₀ : State} {s : State} (l : Nat)
    (hR : 0x20010000000000000000 ||| R = R)
    (hk : Keeps R s₀ s) : Keeps R s₀ (State.sendCap l s) := by
  unfold State.sendCap
  try dsimp only
  with_reducible repeat' first | assumption | exact sub_trans (by decide +kernel) hR | apply State.sendControl_keeps | split | intro _ | dsimp only

theorem execCommaLock_keeps {R : Nat} {s₀ : State} {s : State} (lane : Nat) (block : List Bool)
    (hR : 0x4000002000000000000000000003000000001400000000002007c000000000000001 ||| R = R)
    (hk : Keeps R s₀ s) : ResultKeeps R s₀ (execCommaLock lane block s) := by
  unfold execCommaLock
  try dsimp only
  with_reducible
    repeat' first
      | assumption | exact sub_trans (by decide +kernel) hR | exact bit_of (by decide +kernel) hR | apply State.put_keeps | apply State.modLane_keeps
      | apply State.laneCnt_keeps | apply State.laneFail_keeps | apply State.sendCap_keeps | apply ResultKeeps.next | split | intro _ | dsimp only

theorem State.endPart_keeps {R : Nat} {s₀ : State} {s : State} (l c : Nat)
    (hR : 0x40000000000000001 ||| R = R)
    (hk : Keeps R s₀ s) : Keeps R s₀ (State.endPart l c s) := by
  unfold State.endPart
  try dsimp only
  with_reducible
    repeat' first
      | assumption | exact sub_trans (by decide +kernel) hR | exact bit_of (by decide +kernel) hR | apply State.laneCnt_keeps | exact id
      | exact fun _ => rfl | exact fun _ _ _ => rfl | split
      | (with_unfolding_all (intro p hp; cases p <;> first | rfl | exact bit_absurd (by decide +kernel) hR hp)) | intro _ | dsimp only
      | apply Keeps.set_rxPart | apply Keeps.change

theorem State.endParts_keeps {R : Nat} {s₀ : State} {s : State} (l : Nat) (cs : List Nat)
    (hR : 0x40000000000000001 ||| R = R)
    (hk : Keeps R s₀ s) : Keeps R s₀ (State.endParts l cs s) := by
  unfold State.endParts
  try dsimp only
  with_reducible
    repeat' first
      | assumption | exact sub_trans (by decide +kernel) hR | apply State.endPart_keeps | apply Keeps.foldl | apply Keeps.foldl_snd
      | apply Keeps.foldl_fst | apply Keeps.foldl_build | split | intro _ | dsimp only

theorem State.completePart_keeps {R : Nat} {s₀ : State} {s : State} (l src : Nat) (p : RxPart)
    (hR : 0x180000000000000001 ||| R = R)
    (hk : Keeps R s₀ s) : Keeps R s₀ (State.completePart l src p s) := by
  unfold State.completePart
  try dsimp only
  with_reducible
    repeat' first
      | assumption | exact sub_trans (by decide +kernel) hR | exact bit_of (by decide +kernel) hR | apply State.laneCnt_keeps | exact id
      | exact fun _ => rfl | exact fun _ _ _ => rfl | split
      | (with_unfolding_all (intro p hp; cases p <;> first | rfl | exact bit_absurd (by decide +kernel) hR hp)) | intro _ | dsimp only
      | apply Keeps.set_rxReady | apply Keeps.set_oam | apply Keeps.change

theorem State.joinCell_keeps {R : Nat} {s₀ : State} {s : State} (l h : Nat) (payload : List Nat)
    (hR : 0x1c0000000000000001 ||| R = R)
    (hk : Keeps R s₀ s) : Keeps R s₀ (State.joinCell l h payload s) := by
  unfold State.joinCell
  extract_lets v0 v1 v2
  have hv2 : Keeps R s₀ v2 := by
    unfold v2
    with_reducible
      repeat' first
        | assumption | exact sub_trans (by decide +kernel) hR | exact bit_of (by decide +kernel) hR | apply State.endPart_keeps
        | apply State.completePart_keeps | exact id | exact fun _ => rfl | exact fun _ _ _ => rfl | split
        | (with_unfolding_all (intro p hp; cases p <;> first | rfl | exact bit_absurd (by decide +kernel) hR hp)) | intro _ | dsimp only
        | apply Keeps.set_rxPart | apply Keeps.change
  try dsimp only
  with_reducible
    repeat' first
      | assumption | exact sub_trans (by decide +kernel) hR | exact bit_of (by decide +kernel) hR | apply State.endPart_keeps
      | apply State.completePart_keeps | exact id | exact fun _ => rfl | exact fun _ _ _ => rfl | split
      | (with_unfolding_all (intro p hp; cases p <;> first | rfl | exact bit_absurd (by decide +kernel) hR hp)) | intro _ | dsimp only
      | apply Keeps.set_rxPart | apply Keeps.change

theorem State.badBlock_keeps {R : Nat} {s₀ : State} {s : State} (lane : Nat) (b : BadBlock)
    (hR : 0x40000000000000001 ||| R = R)
    (hk : Keeps R s₀ s) : Keeps R s₀ (State.badBlock lane b s) := by
  unfold State.badBlock
  try dsimp only
  with_reducible
    repeat' first
      | assumption | exact sub_trans (by decide +kernel) hR | apply State.laneCnt_keeps | apply State.peerCnt_keeps | apply State.endParts_keeps
      | split | intro _ | dsimp only

theorem execControlBlockBad_keeps {R : Nat} {s₀ : State} {s : State} (lane : Nat) (b : BadBlock)
    (hR : 0x40000000000000001 ||| R = R)
    (hk : Keeps R s₀ s) : ResultKeeps R s₀ (execControlBlockBad lane b s) := by
  unfold execControlBlockBad
  try dsimp only
  with_reducible
    repeat' first
      | assumption | exact sub_trans (by decide +kernel) hR | apply State.badBlock_keeps | apply ResultKeeps.next | split | intro _ | dsimp only

theorem execKolkanCellReceive_keeps {R : Nat} {s₀ : State} {s : State} (lane h : Nat) (payload : List Nat)
    (hR : 0x1e0000000000000001 ||| R = R)
    (hk : Keeps R s₀ s) : ResultKeeps R s₀ (execKolkanCellReceive lane h payload s) := by
  unfold execKolkanCellReceive
  try dsimp only
  with_reducible
    repeat' first
      | assumption | exact sub_trans (by decide +kernel) hR | exact bit_of (by decide +kernel) hR | apply State.laneCnt_keeps
      | apply State.joinCell_keeps | apply execControlBlockBad_keeps | apply ResultKeeps.next | exact id | exact fun _ => rfl | exact fun _ _ _ => rfl
      | split | (with_unfolding_all (intro p hp; cases p <;> first | rfl | exact bit_absurd (by decide +kernel) hR hp)) | intro _ | dsimp only
      | apply Keeps.set_owed | apply Keeps.change

theorem execAbort_keeps {R : Nat} {s₀ : State} {s : State} (lane tc : Nat)
    (hR : 0x40000000000000001 ||| R = R)
    (hk : Keeps R s₀ s) : ResultKeeps R s₀ (execAbort lane tc s) := by
  unfold execAbort
  try dsimp only
  with_reducible
    repeat' first
      | assumption | exact sub_trans (by decide +kernel) hR | apply State.endPart_keeps | apply ResultKeeps.next | split | intro _ | dsimp only

theorem execFlow_keeps {R : Nat} {s₀ : State} {s : State} (lane : Nat) (inc : List Nat)
    (hR : 0x18000000000000000 ||| R = R)
    (hk : Keeps R s₀ s) : ResultKeeps R s₀ (execFlow lane inc s) := by
  unfold execFlow
  try dsimp only
  with_reducible
    repeat' first
      | assumption | exact sub_trans (by decide +kernel) hR | exact bit_of (by decide +kernel) hR | apply State.modLane_keeps | apply ResultKeeps.next
      | exact id | exact fun _ => rfl | exact fun _ _ _ => rfl | apply Keeps.foldl | apply Keeps.foldl_snd | apply Keeps.foldl_fst
      | apply Keeps.foldl_build | split | (with_unfolding_all (intro p hp; cases p <;> first | rfl | exact bit_absurd (by decide +kernel) hR hp))
      | intro _ | dsimp only | apply Keeps.set_credit | apply Keeps.change

theorem execCreditStall_keeps {R : Nat} {s₀ : State} {s : State} (lane tc : Nat)
    (hR : 0x10000000000000001 ||| R = R)
    (hk : Keeps R s₀ s) : ResultKeeps R s₀ (execCreditStall lane tc s) := by
  unfold execCreditStall
  try dsimp only
  with_reducible
    repeat' first
      | assumption | exact sub_trans (by decide +kernel) hR | apply State.modLane_keeps | apply State.laneCnt_keeps | apply ResultKeeps.next | split
      | intro _ | dsimp only

theorem execFlowSend_keeps {R : Nat} {s₀ : State} {s : State} (lane : Nat)
    (hR : 0x20030000000000000000 ||| R = R)
    (hk : Keeps R s₀ s) : ResultKeeps R s₀ (execFlowSend lane s) := by
  unfold execFlowSend
  try dsimp only
  with_reducible
    repeat' first
      | assumption | exact sub_trans (by decide +kernel) hR | exact bit_of (by decide +kernel) hR | apply State.sendControl_keeps
      | apply ResultKeeps.next | exact id | exact fun _ => rfl | exact fun _ _ _ => rfl | apply Keeps.foldl | apply Keeps.foldl_snd
      | apply Keeps.foldl_fst | apply Keeps.foldl_build | split
      | (with_unfolding_all (intro p hp; cases p <;> first | rfl | exact bit_absurd (by decide +kernel) hR hp)) | intro _ | dsimp only
      | apply Keeps.set_owed | apply Keeps.change

theorem State.declarePath_keeps {R : Nat} {s₀ : State} {s : State} (l : Nat) (loss : Bool)
    (hR : 0x40000020000000000000000000030000000000000000000000000000000000000000 ||| R = R)
    (hk : Keeps R s₀ s) : Keeps R s₀ (State.declarePath l loss s) := by
  unfold State.declarePath
  try dsimp only
  with_reducible
    repeat' first
      | assumption | exact sub_trans (by decide +kernel) hR | exact bit_of (by decide +kernel) hR | apply State.putFlag_keeps
      | apply State.laneCause_keeps | apply State.raiseLane_keeps | split | intro _ | dsimp only

theorem execStatus_keeps {R : Nat} {s₀ : State} {s : State} (lane : Nat) (pathOk rxOk : Bool)
    (hR : 0x40000020000000000000000000030000000000000000000000010000000000000000 ||| R = R)
    (hk : Keeps R s₀ s) : ResultKeeps R s₀ (execStatus lane pathOk rxOk s) := by
  unfold execStatus
  try dsimp only
  with_reducible
    repeat' first
      | assumption | exact sub_trans (by decide +kernel) hR | apply State.modLane_keeps | apply State.declarePath_keeps | apply ResultKeeps.next
      | split | intro _ | dsimp only

theorem execStatusTimeout_keeps {R : Nat} {s₀ : State} {s : State} (lane : Nat)
    (hR : 0x40000020000000000000000000030000000000000000000000010000000000000000 ||| R = R)
    (hk : Keeps R s₀ s) : ResultKeeps R s₀ (execStatusTimeout lane s) := by
  unfold execStatusTimeout
  try dsimp only
  with_reducible
    repeat' first
      | assumption | exact sub_trans (by decide +kernel) hR | apply State.modLane_keeps | apply State.declarePath_keeps | apply ResultKeeps.next
      | split | intro _ | dsimp only

theorem execStatusSend_keeps {R : Nat} {s₀ : State} {s : State} (lane : Nat)
    (hR : 0x20010000000000000000 ||| R = R)
    (hk : Keeps R s₀ s) : ResultKeeps R s₀ (execStatusSend lane s) := by
  unfold execStatusSend
  try dsimp only
  with_reducible
    repeat' first
      | assumption | exact sub_trans (by decide +kernel) hR | apply State.sendControl_keeps | apply ResultKeeps.next | split | intro _ | dsimp only

theorem State.putLink_keeps {R : Nat} {s₀ : State} {s : State} (f : Field) (d e v : Nat)
    (hR : 0x0 ||| R = R) (hf : R.testBit (wordBit f.num) = true)
    (hk : Keeps R s₀ s) : Keeps R s₀ (State.putLink f d e v s) := by
  unfold State.putLink
  try dsimp only
  with_reducible
    repeat' first
      | assumption | exact sub_trans (by decide +kernel) hR | exact bit_of (by decide +kernel) hR | apply State.put_keeps | split | intro _
      | dsimp only

theorem State.linkCause_keeps {R : Nat} {s₀ : State} {s : State} (d e : Nat) (on : Bool)
    (hR : 0x20000000000000000000030000000000000000000000000000000000000000 ||| R = R)
    (hk : Keeps R s₀ s) : Keeps R s₀ (State.linkCause d e on s) := by
  unfold State.linkCause
  try dsimp only
  with_reducible
    repeat' first
      | assumption | exact sub_trans (by decide +kernel) hR | apply State.portCause_keeps | apply State.portClear_keeps | apply Keeps.foldl
      | apply Keeps.foldl_snd | apply Keeps.foldl_fst | apply Keeps.foldl_build | split | intro _ | dsimp only

theorem State.linkTo_keeps {R : Nat} {s₀ : State} {s : State} (d e st : Nat)
    (hR : 0x200000020000000000000000000030000000000000000000000000000000000000001 ||| R = R)
    (hk : Keeps R s₀ s) : Keeps R s₀ (State.linkTo d e st s) := by
  unfold State.linkTo
  extract_lets v0 v1 v2
  have hv1 : Keeps R s₀ v1 := by
    unfold v1
    with_reducible
      repeat' first
        | assumption | exact sub_trans (by decide +kernel) hR | exact bit_of (by decide +kernel) hR | apply State.linkCnt_keeps
        | apply State.putLink_keeps | apply State.linkCause_keeps | split | intro _ | dsimp only
  have hv2 : Keeps R s₀ v2 := by
    unfold v2
    with_reducible
      repeat' first
        | assumption | exact sub_trans (by decide +kernel) hR | exact bit_of (by decide +kernel) hR | apply State.linkCnt_keeps
        | apply State.putLink_keeps | apply State.linkCause_keeps | split | intro _ | dsimp only
  try dsimp only
  with_reducible
    repeat' first
      | assumption | exact sub_trans (by decide +kernel) hR | exact bit_of (by decide +kernel) hR | apply State.linkCnt_keeps
      | apply State.putLink_keeps | apply State.linkCause_keeps | split | intro _ | dsimp only

theorem execFlitReplay_keeps {R : Nat} {s₀ : State} {s : State} (d e : Nat) (ok : Bool) (lost : Nat)
    (hR : 0x200000020000000000000000000030000000000000000000000200000000000000001 ||| R = R)
    (hk : Keeps R s₀ s) : ResultKeeps R s₀ (execFlitReplay d e ok lost s) := by
  unfold execFlitReplay
  try dsimp only
  with_reducible
    repeat' first
      | assumption | exact sub_trans (by decide +kernel) hR | exact bit_of (by decide +kernel) hR | apply State.raise_keeps
      | apply State.linkCnt_keeps | apply State.putLink_keeps | apply State.linkTo_keeps | apply ResultKeeps.next | exact id | exact fun _ => rfl
      | exact fun _ _ _ => rfl | split | (with_unfolding_all (intro p hp; cases p <;> first | rfl | exact bit_absurd (by decide +kernel) hR hp))
      | intro _ | dsimp only | apply Keeps.set_replays | apply Keeps.change

theorem execDieLinkIdle_keeps {R : Nat} {s₀ : State} {s : State} (d e : Nat)
    (hR : 0x200000000000000000000000000000000000000000000000000000000000000000001 ||| R = R)
    (hk : Keeps R s₀ s) : ResultKeeps R s₀ (execDieLinkIdle d e s) := by
  unfold execDieLinkIdle
  try dsimp only
  with_reducible
    repeat' first
      | assumption | exact sub_trans (by decide +kernel) hR | exact bit_of (by decide +kernel) hR | apply State.linkCnt_keeps
      | apply State.putLink_keeps | apply ResultKeeps.next | split | intro _ | dsimp only

theorem execDieLinkWake_keeps {R : Nat} {s₀ : State} {s : State} (d e : Nat)
    (hR : 0x200000000000000000000000000000000000000000000000000000000000000000000 ||| R = R)
    (hk : Keeps R s₀ s) : ResultKeeps R s₀ (execDieLinkWake d e s) := by
  unfold execDieLinkWake
  try dsimp only
  with_reducible
    repeat' first
      | assumption | exact sub_trans (by decide +kernel) hR | exact bit_of (by decide +kernel) hR | apply State.putLink_keeps | apply ResultKeeps.next
      | split | intro _ | dsimp only

theorem execBlindFallback_keeps {R : Nat} {s₀ : State} {s : State} (d e : Nat)
    (hR : 0x200000000000000000000000000000000000000000000000000000000000000000001 ||| R = R)
    (hk : Keeps R s₀ s) : ResultKeeps R s₀ (execBlindFallback d e s) := by
  unfold execBlindFallback
  try dsimp only
  with_reducible
    repeat' first
      | assumption | exact sub_trans (by decide +kernel) hR | exact bit_of (by decide +kernel) hR | apply State.linkCnt_keeps
      | apply State.putLink_keeps | apply ResultKeeps.next | split | intro _ | dsimp only

end Sys2Proof.Machine
end

