-- ==== Sys2Proof/Laws/KeepsOptics.lean ====
section
/-!
SUPPORT. Every operation of Machine/Optics.lean keeps what `Keeps` names.
-/

namespace Sys2Proof.Machine

set_option Elab.async false
set_option linter.all false

theorem State.light_keeps {R : Nat} {s₀ : State} {s : State} (t k : Nat)
    (hR : 0x2000000000000000000000000000000000000000000 ||| R = R)
    (hk : Keeps R s₀ s) : Keeps R s₀ (State.light t k s) := by
  unfold State.light
  try dsimp only
  with_reducible
    repeat' first
      | assumption | exact sub_trans (by decide +kernel) hR | exact bit_of (by decide +kernel) hR
      | (unfold txState; split <;> exact bit_of (by decide +kernel) hR) | apply State.put_keeps | split | intro _ | dsimp only

theorem State.darken_keeps {R : Nat} {s₀ : State} {s : State} (t : Nat)
    (hR : 0x2000000000000000000000000000000000000000000 ||| R = R)
    (hk : Keeps R s₀ s) : Keeps R s₀ (State.darken t s) := by
  unfold State.darken
  try dsimp only
  with_reducible
    repeat' first
      | assumption | exact sub_trans (by decide +kernel) hR | exact bit_of (by decide +kernel) hR
      | (unfold txState; split <;> exact bit_of (by decide +kernel) hR) | apply State.put_keeps | split | intro _ | dsimp only

theorem State.opticsStart_keeps {R : Nat} {s₀ : State} {s : State} (t : Nat)
    (hR : 0x2000000000000000000000000000000000004000000 ||| R = R)
    (hk : Keeps R s₀ s) : Keeps R s₀ (State.opticsStart t s) := by
  unfold State.opticsStart
  try dsimp only
  with_reducible
    repeat' first
      | assumption | exact sub_trans (by decide +kernel) hR | exact bit_of (by decide +kernel) hR
      | (unfold txState; split <;> exact bit_of (by decide +kernel) hR) | apply State.put_keeps | apply State.modTree_keeps | apply Keeps.foldl
      | apply Keeps.foldl_snd | apply Keeps.foldl_fst | apply Keeps.foldl_build | split | intro _ | dsimp only

theorem execOpticsStart_keeps {R : Nat} {s₀ : State} {s : State} (t : Nat)
    (hR : 0x2000000000000000000000000000000000004000000 ||| R = R)
    (hk : Keeps R s₀ s) : ResultKeeps R s₀ (execOpticsStart t s) := by
  unfold execOpticsStart
  try dsimp only
  with_reducible
    repeat' first
      | assumption | exact sub_trans (by decide +kernel) hR | apply State.opticsStart_keeps | apply ResultKeeps.next | split | intro _ | dsimp only

theorem State.askClaim_keeps {R : Nat} {s₀ : State} {s : State}
    (hR : 0x30000000010000000000000000000000000000000 ||| R = R)
    (hk : Keeps R s₀ s) : Keeps R s₀ (State.askClaim s) := by
  unfold State.askClaim
  try dsimp only
  with_reducible
    repeat' first
      | assumption | exact sub_trans (by decide +kernel) hR | exact bit_of (by decide +kernel) hR | apply State.put_keeps | apply State.raisePkg_keeps
      | split | intro _ | dsimp only

theorem State.opticsLit_keeps {R : Nat} {s₀ : State} {s : State} (t : Nat)
    (hR : 0x2030000000010000000000000000000000000000000 ||| R = R)
    (hk : Keeps R s₀ s) : Keeps R s₀ (State.opticsLit t s) := by
  unfold State.opticsLit
  try dsimp only
  with_reducible
    repeat' first
      | assumption | exact sub_trans (by decide +kernel) hR | exact bit_of (by decide +kernel) hR
      | (unfold lockedField; split <;> exact bit_of (by decide +kernel) hR) | apply State.put_keeps | apply State.light_keeps
      | apply State.askClaim_keeps | apply Keeps.foldl | apply Keeps.foldl_snd | apply Keeps.foldl_fst | apply Keeps.foldl_build | split | intro _
      | dsimp only

theorem execLaserPark_keeps {R : Nat} {s₀ : State} {s : State} (t : Nat)
    (hR : 0x2000000000000000000000000000000000000000000 ||| R = R)
    (hk : Keeps R s₀ s) : ResultKeeps R s₀ (execLaserPark t s) := by
  unfold execLaserPark
  try dsimp only
  with_reducible
    repeat' first
      | assumption | exact sub_trans (by decide +kernel) hR | exact bit_of (by decide +kernel) hR
      | (unfold lockedField; split <;> exact bit_of (by decide +kernel) hR) | apply State.put_keeps | apply ResultKeeps.next | split | intro _
      | dsimp only

theorem execTxCalibration_keeps {R : Nat} {s₀ : State} {s : State} (t k : Nat)
    (hR : 0x1a030000000000000000000000000000000004000000 ||| R = R)
    (hk : Keeps R s₀ s) : ResultKeeps R s₀ (execTxCalibration t k s) := by
  unfold execTxCalibration
  try dsimp only
  with_reducible
    repeat' first
      | assumption | exact sub_trans (by decide +kernel) hR | exact bit_of (by decide +kernel) hR
      | (unfold txState; split <;> exact bit_of (by decide +kernel) hR) | apply State.put_keeps | apply State.addSat_keeps
      | apply State.raiseTree_keeps | apply State.modTree_keeps | apply ResultKeeps.next | split | intro _ | dsimp only

theorem execLaserAgeingCheck_keeps {R : Nat} {s₀ : State} {s : State} (t k : Nat)
    (hR : 0x12030000000000000000000000000000000000000000 ||| R = R)
    (hk : Keeps R s₀ s) : ResultKeeps R s₀ (execLaserAgeingCheck t k s) := by
  unfold execLaserAgeingCheck
  extract_lets v0 v1
  have hv1 : Keeps R s₀ v1 := by
    unfold v1
    with_reducible
      repeat' first
        | assumption | exact sub_trans (by decide +kernel) hR | exact bit_of (by decide +kernel) hR | apply State.put_keeps
        | apply State.raiseTree_keeps | apply ResultKeeps.next | split | intro _ | dsimp only
  try dsimp only
  with_reducible
    repeat' first
      | assumption | exact sub_trans (by decide +kernel) hR | exact bit_of (by decide +kernel) hR | apply State.put_keeps
      | apply State.raiseTree_keeps | apply ResultKeeps.next | split | intro _ | dsimp only

theorem execTxMuteSet_keeps {R : Nat} {s₀ : State} {s : State} (t : Nat)
    (hR : 0x180001002003030000000000000000000000000000000000000000 ||| R = R)
    (hk : Keeps R s₀ s) : ResultKeeps R s₀ (execTxMuteSet t s) := by
  unfold execTxMuteSet
  extract_lets v0 v1
  have hv0 : Keeps R s₀ v0 := by
    unfold v0
    with_reducible
      repeat' first
        | assumption | exact sub_trans (by decide +kernel) hR | exact bit_of (by decide +kernel) hR
        | (unfold txState; split <;> exact bit_of (by decide +kernel) hR) | apply State.put_keeps | apply State.judgeTree_keeps
        | apply ResultKeeps.next | apply Keeps.foldl | apply Keeps.foldl_snd | apply Keeps.foldl_fst | apply Keeps.foldl_build | split | intro _
        | dsimp only
  have hv1 : Keeps R s₀ v1 := by
    unfold v1
    with_reducible
      repeat' first
        | assumption | exact sub_trans (by decide +kernel) hR | exact bit_of (by decide +kernel) hR
        | (unfold txState; split <;> exact bit_of (by decide +kernel) hR) | apply State.put_keeps | apply State.judgeTree_keeps
        | apply ResultKeeps.next | apply Keeps.foldl | apply Keeps.foldl_snd | apply Keeps.foldl_fst | apply Keeps.foldl_build | split | intro _
        | dsimp only
  try dsimp only
  with_reducible
    repeat' first
      | assumption | exact sub_trans (by decide +kernel) hR | exact bit_of (by decide +kernel) hR
      | (unfold txState; split <;> exact bit_of (by decide +kernel) hR) | apply State.put_keeps | apply State.judgeTree_keeps | apply ResultKeeps.next
      | apply Keeps.foldl | apply Keeps.foldl_snd | apply Keeps.foldl_fst | apply Keeps.foldl_build | split | intro _ | dsimp only

theorem execTxMuteClear_keeps {R : Nat} {s₀ : State} {s : State} (t : Nat)
    (hR : 0x180001002003030000000000000000000000000000000004000000 ||| R = R)
    (hk : Keeps R s₀ s) : ResultKeeps R s₀ (execTxMuteClear t s) := by
  unfold execTxMuteClear
  extract_lets v0 v1 v2
  have hv1 : Keeps R s₀ v1 := by
    unfold v1
    with_reducible
      repeat' first
        | assumption | exact sub_trans (by decide +kernel) hR | exact bit_of (by decide +kernel) hR
        | (unfold txState; split <;> exact bit_of (by decide +kernel) hR) | apply State.put_keeps | apply State.modTree_keeps
        | apply State.judgeTree_keeps | apply State.light_keeps | apply ResultKeeps.next | apply Keeps.foldl | apply Keeps.foldl_snd
        | apply Keeps.foldl_fst | apply Keeps.foldl_build | split | intro _ | dsimp only
  have hv2 : Keeps R s₀ v2 := by
    unfold v2
    with_reducible
      repeat' first
        | assumption | exact sub_trans (by decide +kernel) hR | exact bit_of (by decide +kernel) hR
        | (unfold txState; split <;> exact bit_of (by decide +kernel) hR) | apply State.put_keeps | apply State.modTree_keeps
        | apply State.judgeTree_keeps | apply State.light_keeps | apply ResultKeeps.next | apply Keeps.foldl | apply Keeps.foldl_snd
        | apply Keeps.foldl_fst | apply Keeps.foldl_build | split | intro _ | dsimp only
  try dsimp only
  with_reducible
    repeat' first
      | assumption | exact sub_trans (by decide +kernel) hR | exact bit_of (by decide +kernel) hR
      | (unfold txState; split <;> exact bit_of (by decide +kernel) hR) | apply State.put_keeps | apply State.modTree_keeps
      | apply State.judgeTree_keeps | apply State.light_keeps | apply ResultKeeps.next | apply Keeps.foldl | apply Keeps.foldl_snd
      | apply Keeps.foldl_fst | apply Keeps.foldl_build | split | intro _ | dsimp only

theorem execMuteSuppressionEnd_keeps {R : Nat} {s₀ : State} {s : State} (t : Nat)
    (hR : 0x180001002000030000000000000000000000000000000004000000 ||| R = R)
    (hk : Keeps R s₀ s) : ResultKeeps R s₀ (execMuteSuppressionEnd t s) := by
  unfold execMuteSuppressionEnd
  try dsimp only
  with_reducible
    repeat' first
      | assumption | exact sub_trans (by decide +kernel) hR | apply State.modTree_keeps | apply State.judgeTree_keeps | apply ResultKeeps.next | split
      | intro _ | dsimp only

theorem State.showTxLol_keeps {R : Nat} {s₀ : State} {s : State} (t : Nat)
    (hR : 0x2000000000000000000000000000000000000000000 ||| R = R)
    (hk : Keeps R s₀ s) : Keeps R s₀ (State.showTxLol t s) := by
  unfold State.showTxLol
  try dsimp only
  with_reducible
    repeat' first
      | assumption | exact sub_trans (by decide +kernel) hR | exact bit_of (by decide +kernel) hR | apply State.putFlag_keeps | split | intro _
      | dsimp only

theorem execTxLol_keeps {R : Nat} {s₀ : State} {s : State} (t k : Nat)
    (hR : 0xa030000000000000000000000000000000002000000 ||| R = R)
    (hk : Keeps R s₀ s) : ResultKeeps R s₀ (execTxLol t k s) := by
  unfold execTxLol
  extract_lets v0 v1
  have hv0 : Keeps R s₀ v0 := by
    unfold v0
    with_reducible
      repeat' first
        | assumption | exact sub_trans (by decide +kernel) hR | exact bit_of (by decide +kernel) hR
        | (unfold txState; split <;> exact bit_of (by decide +kernel) hR) | apply State.put_keeps | apply State.addSat_keeps
        | apply State.raiseTree_keeps | apply State.modSet_keeps | apply State.showTxLol_keeps | apply ResultKeeps.next | split | intro _ | dsimp only
  have hv1 : Keeps R s₀ v1 := by
    unfold v1
    with_reducible
      repeat' first
        | assumption | exact sub_trans (by decide +kernel) hR | exact bit_of (by decide +kernel) hR
        | (unfold txState; split <;> exact bit_of (by decide +kernel) hR) | apply State.put_keeps | apply State.addSat_keeps
        | apply State.raiseTree_keeps | apply State.modSet_keeps | apply State.showTxLol_keeps | apply ResultKeeps.next | split | intro _ | dsimp only
  try dsimp only
  with_reducible
    repeat' first
      | assumption | exact sub_trans (by decide +kernel) hR | exact bit_of (by decide +kernel) hR
      | (unfold txState; split <;> exact bit_of (by decide +kernel) hR) | apply State.put_keeps | apply State.addSat_keeps
      | apply State.raiseTree_keeps | apply State.modSet_keeps | apply State.showTxLol_keeps | apply ResultKeeps.next | split | intro _ | dsimp only

theorem execTxRelock_keeps {R : Nat} {s₀ : State} {s : State} (t k : Nat)
    (hR : 0x2000000000000000000000000000000000002000000 ||| R = R)
    (hk : Keeps R s₀ s) : ResultKeeps R s₀ (execTxRelock t k s) := by
  unfold execTxRelock
  extract_lets v0 v1
  have hv0 : Keeps R s₀ v0 := by
    unfold v0
    with_reducible
      repeat' first
        | assumption | exact sub_trans (by decide +kernel) hR | (unfold lockedField; split <;> exact bit_of (by decide +kernel) hR)
        | apply State.modSet_keeps | apply State.light_keeps | apply State.showTxLol_keeps | apply ResultKeeps.next | split | intro _ | dsimp only
  try dsimp only
  with_reducible
    repeat' first
      | assumption | exact sub_trans (by decide +kernel) hR | (unfold lockedField; split <;> exact bit_of (by decide +kernel) hR)
      | apply State.modSet_keeps | apply State.light_keeps | apply State.showTxLol_keeps | apply ResultKeeps.next | split | intro _ | dsimp only

theorem State.lostByPart_keeps {R : Nat} {s₀ : State} {s : State} (t : Nat)
    (hR : 0x1 ||| R = R)
    (hk : Keeps R s₀ s) : Keeps R s₀ (State.lostByPart t s) := by
  unfold State.lostByPart
  try dsimp only
  with_reducible repeat' first | assumption | exact sub_trans (by decide +kernel) hR | apply State.bump_keeps | split | intro _ | dsimp only

theorem State.contextError_keeps {R : Nat} {s₀ : State} {s : State} (t : Nat)
    (hR : 0x6030000000000000000000000000000000000000001 ||| R = R)
    (hk : Keeps R s₀ s) : Keeps R s₀ (State.contextError t s) := by
  unfold State.contextError
  try dsimp only
  with_reducible
    repeat' first
      | assumption | exact sub_trans (by decide +kernel) hR | exact bit_of (by decide +kernel) hR | apply State.put_keeps | apply State.addSat_keeps
      | apply State.raiseTree_keeps | apply State.lostByPart_keeps | split | intro _ | dsimp only

theorem State.loadShadow_keeps {R : Nat} {s₀ : State} {s : State} (t k : Nat)
    (hR : 0x2000000 ||| R = R)
    (hk : Keeps R s₀ s) : Keeps R s₀ (State.loadShadow t k s) := by
  unfold State.loadShadow
  try dsimp only
  with_reducible repeat' first | assumption | exact sub_trans (by decide +kernel) hR | apply State.modSet_keeps | split | intro _ | dsimp only

theorem State.swapTo_keeps {R : Nat} {s₀ : State} {s : State} (t k : Nat) (l : Loaded)
    (hR : 0x6030000000000000000000000000000000002000001 ||| R = R)
    (hk : Keeps R s₀ s) : Keeps R s₀ (State.swapTo t k l s) := by
  unfold State.swapTo
  try dsimp only
  with_reducible
    repeat' first
      | assumption | exact sub_trans (by decide +kernel) hR | apply State.modSet_keeps | apply State.contextError_keeps | split | intro _ | dsimp only

theorem execContextSwap_keeps {R : Nat} {s₀ : State} {s : State} (t k : Nat)
    (hR : 0x6030000000000000000000000000000000002000001 ||| R = R)
    (hk : Keeps R s₀ s) : ResultKeeps R s₀ (execContextSwap t k s) := by
  unfold execContextSwap
  try dsimp only
  with_reducible
    repeat' first
      | assumption | exact sub_trans (by decide +kernel) hR | apply State.modSet_keeps | apply State.contextError_keeps | apply State.loadShadow_keeps
      | apply State.swapTo_keeps | apply ResultKeeps.next | split | intro _ | dsimp only

theorem State.dropContexts_keeps {R : Nat} {s₀ : State} {s : State} (t k n : Nat)
    (hR : 0x2000000 ||| R = R)
    (hk : Keeps R s₀ s) : Keeps R s₀ (State.dropContexts t k n s) := by
  unfold State.dropContexts
  try dsimp only
  with_reducible repeat' first | assumption | exact sub_trans (by decide +kernel) hR | apply State.modSet_keeps | split | intro _ | dsimp only

theorem execContextRingWrite_keeps {R : Nat} {s₀ : State} {s : State} (t k : Nat)
    (hR : 0x2000000 ||| R = R)
    (hk : Keeps R s₀ s) : ResultKeeps R s₀ (execContextRingWrite t k s) := by
  unfold execContextRingWrite
  try dsimp only
  with_reducible
    repeat' first
      | assumption | exact sub_trans (by decide +kernel) hR | apply State.modSet_keeps | apply ResultKeeps.next | split | intro _ | dsimp only

theorem State.losFrameEnd_keeps {R : Nat} {s₀ : State} {s : State} (t k : Nat)
    (hR : 0x6000000000000000000000000000000000002000000 ||| R = R)
    (hk : Keeps R s₀ s) : Keeps R s₀ (State.losFrameEnd t k s) := by
  unfold State.losFrameEnd
  extract_lets v0 v1 v2 v3 v4 v5 v6
  have hv5 : Keeps R s₀ v5 := by
    unfold v5
    with_reducible
      repeat' first
        | assumption | exact sub_trans (by decide +kernel) hR | exact bit_of (by decide +kernel) hR
        | (unfold losField; split <;> exact bit_of (by decide +kernel) hR) | apply State.putFlag_keeps | apply State.addSat_keeps
        | apply State.modSet_keeps | split | intro _ | dsimp only
  have hv6 : Keeps R s₀ v6 := by
    unfold v6
    with_reducible
      repeat' first
        | assumption | exact sub_trans (by decide +kernel) hR | exact bit_of (by decide +kernel) hR
        | (unfold losField; split <;> exact bit_of (by decide +kernel) hR) | apply State.putFlag_keeps | apply State.addSat_keeps
        | apply State.modSet_keeps | split | intro _ | dsimp only
  try dsimp only
  with_reducible
    repeat' first
      | assumption | exact sub_trans (by decide +kernel) hR | exact bit_of (by decide +kernel) hR
      | (unfold losField; split <;> exact bit_of (by decide +kernel) hR) | apply State.putFlag_keeps | apply State.addSat_keeps
      | apply State.modSet_keeps | split | intro _ | dsimp only

theorem State.showRxLol_keeps {R : Nat} {s₀ : State} {s : State} (t : Nat)
    (hR : 0x2000000000000000000000000000000000000000000 ||| R = R)
    (hk : Keeps R s₀ s) : Keeps R s₀ (State.showRxLol t s) := by
  unfold State.showRxLol
  try dsimp only
  with_reducible
    repeat' first
      | assumption | exact sub_trans (by decide +kernel) hR | exact bit_of (by decide +kernel) hR | apply State.putFlag_keeps | split | intro _
      | dsimp only

theorem execRxLol_keeps {R : Nat} {s₀ : State} {s : State} (t k : Nat)
    (hR : 0x180001002006030000000000000000000000000000000002000000 ||| R = R)
    (hk : Keeps R s₀ s) : ResultKeeps R s₀ (execRxLol t k s) := by
  unfold execRxLol
  extract_lets v0 v1 v2
  have hv1 : Keeps R s₀ v1 := by
    unfold v1
    with_reducible
      repeat' first
        | assumption | exact sub_trans (by decide +kernel) hR | exact bit_of (by decide +kernel) hR | apply State.addSat_keeps
        | apply State.modSet_keeps | apply State.judgeTree_keeps | apply State.showRxLol_keeps | apply ResultKeeps.next | split | intro _ | dsimp only
  have hv2 : Keeps R s₀ v2 := by
    unfold v2
    with_reducible
      repeat' first
        | assumption | exact sub_trans (by decide +kernel) hR | exact bit_of (by decide +kernel) hR | apply State.addSat_keeps
        | apply State.modSet_keeps | apply State.judgeTree_keeps | apply State.showRxLol_keeps | apply ResultKeeps.next | split | intro _ | dsimp only
  try dsimp only
  with_reducible
    repeat' first
      | assumption | exact sub_trans (by decide +kernel) hR | exact bit_of (by decide +kernel) hR | apply State.addSat_keeps
      | apply State.modSet_keeps | apply State.judgeTree_keeps | apply State.showRxLol_keeps | apply ResultKeeps.next | split | intro _ | dsimp only

theorem execRxLolClear_keeps {R : Nat} {s₀ : State} {s : State} (t k : Nat)
    (hR : 0x180001002002030000000000000000000000000000000002000000 ||| R = R)
    (hk : Keeps R s₀ s) : ResultKeeps R s₀ (execRxLolClear t k s) := by
  unfold execRxLolClear
  try dsimp only
  with_reducible
    repeat' first
      | assumption | exact sub_trans (by decide +kernel) hR | apply State.modSet_keeps | apply State.judgeTree_keeps | apply State.showRxLol_keeps
      | apply ResultKeeps.next | split | intro _ | dsimp only

theorem execRxTermClear_keeps {R : Nat} {s₀ : State} {s : State} (t n : Nat)
    (hR : 0x800000000000000000000000000000000000000000000000 ||| R = R)
    (hk : Keeps R s₀ s) : ResultKeeps R s₀ (execRxTermClear t n s) := by
  unfold execRxTermClear
  try dsimp only
  with_reducible
    repeat' first
      | assumption | exact sub_trans (by decide +kernel) hR | exact bit_of (by decide +kernel) hR | exact all_bits_of (by decide +kernel) hR
      | apply State.clearRec_keeps | apply ResultKeeps.next | split | intro _ | dsimp only

theorem State.inject_keeps {R : Nat} {s₀ : State} {s : State} (u : PatUnit) (place : Nat)
    (hR : 0x200000000000000000000000030000000000006000000 ||| R = R)
    (hk : Keeps R s₀ s) : Keeps R s₀ (State.inject u place s) := by
  unfold State.inject
  try dsimp only
  with_reducible
    repeat' first
      | assumption | exact sub_trans (by decide +kernel) hR | exact bit_of (by decide +kernel) hR | apply State.addWrap_keeps
      | apply State.useFree_keeps | apply State.emit_keeps | apply State.modSet_keeps | apply State.modTree_keeps | split | intro _ | dsimp only

theorem execErrorInject_keeps {R : Nat} {s₀ : State} {s : State} (u : PatUnit) (passed place : Nat)
    (hR : 0x200000000000000000000000030000000000006000000 ||| R = R)
    (hk : Keeps R s₀ s) : ResultKeeps R s₀ (execErrorInject u passed place s) := by
  unfold execErrorInject
  try dsimp only
  with_reducible
    repeat' first
      | assumption | exact sub_trans (by decide +kernel) hR | apply State.inject_keeps | apply ResultKeeps.next | split | intro _ | dsimp only

theorem execOneShotInject_keeps {R : Nat} {s₀ : State} {s : State} (u : PatUnit) (place : Nat)
    (hR : 0x200000000000000000000000030000000000006000000 ||| R = R)
    (hk : Keeps R s₀ s) : ResultKeeps R s₀ (execOneShotInject u place s) := by
  unfold execOneShotInject
  try dsimp only
  with_reducible
    repeat' first
      | assumption | exact sub_trans (by decide +kernel) hR | apply State.inject_keeps | apply ResultKeeps.next | split | intro _ | dsimp only

theorem State.checkBit_keeps {R : Nat} {s₀ : State} {s : State} (u : PatUnit) (ok : Bool) (hR : 0x10000000000000000000000000c0000000000000000000000000000000000200000000 ||| R = R)
    (hk : Keeps R s₀ s) : Keeps R s₀ (State.checkBit u s ok) := by
  cases u <;>
  · unfold State.checkBit patCheck
    dsimp only
    with_reducible
      repeat' first
        | assumption | exact sub_trans (by decide +kernel) hR | exact bit_of (by decide +kernel) hR | apply State.put_keeps
        | apply State.addSat_keeps | apply State.addWrap_keeps | apply State.setSeen_keeps | split

theorem execPatternCheckerLock_keeps {R : Nat} {s₀ : State} {s : State} (u : PatUnit) (terminal : Option Nat) (good : List Bool)
    (hR : 0x10000000000000000000000000c0000000000000000000000000000000000204000000 ||| R = R)
    (hk : Keeps R s₀ s) : ResultKeeps R s₀ (execPatternCheckerLock u terminal good s) := by
  unfold execPatternCheckerLock
  try dsimp only
  with_reducible
    repeat' first
      | assumption | exact sub_trans (by decide +kernel) hR | apply State.modTree_keeps | apply State.checkBit_keeps | apply ResultKeeps.next
      | apply Keeps.foldl | apply Keeps.foldl_snd | apply Keeps.foldl_fst | apply Keeps.foldl_build | split | intro _ | dsimp only

theorem execOptTxRefresh_keeps {R : Nat} {s₀ : State} {s : State} (t k power bias wave temp : Nat)
    (hR : 0x10000000000000000000000000000000000000000000 ||| R = R)
    (hk : Keeps R s₀ s) : ResultKeeps R s₀ (execOptTxRefresh t k power bias wave temp s) := by
  unfold execOptTxRefresh
  try dsimp only
  with_reducible
    repeat' first
      | assumption | exact sub_trans (by decide +kernel) hR | exact bit_of (by decide +kernel) hR | apply State.put_keeps | apply ResultKeeps.next
      | split | intro _ | dsimp only

end Sys2Proof.Machine
end

