-- ==== Sys2Proof/Laws/KeepsGrant.lean ====
section
/-!
SUPPORT. Every operation of Machine/Grant.lean keeps what `Keeps` names.
-/

namespace Sys2Proof.Machine

set_option Elab.async false
set_option linter.all false

theorem State.modAlloc_keeps {R : Nat} {s₀ : State} {s : State} (t a : Nat) (f : AllocSt → AllocSt)
    (hR : 0x10000000 ||| R = R)
    (hk : Keeps R s₀ s) : Keeps R s₀ (State.modAlloc t a f s) := by
  unfold State.modAlloc
  try dsimp only
  with_reducible
    repeat' first
      | assumption | exact sub_trans (by decide +kernel) hR | exact bit_of (by decide +kernel) hR | exact id | exact fun _ => rfl
      | exact fun _ _ _ => rfl | split | (with_unfolding_all (intro p hp; cases p <;> first | rfl | exact bit_absurd (by decide +kernel) hR hp))
      | intro _ | dsimp only | apply Keeps.set_allocs | apply Keeps.change

theorem State.grantCnt_keeps {R : Nat} {s₀ : State} {s : State} (t k n : Nat)
    (hR : 0x1 ||| R = R)
    (hk : Keeps R s₀ s) : Keeps R s₀ (State.grantCnt t k n s) := by
  unfold State.grantCnt
  try dsimp only
  with_reducible repeat' first | assumption | exact sub_trans (by decide +kernel) hR | apply State.bump_keeps | split | intro _ | dsimp only

theorem State.judgeBooking_keeps {R : Nat} {s₀ : State} {s : State} (t : Nat)
    (hR : 0x800000000030000000000000000000000000000000000000000 ||| R = R)
    (hk : Keeps R s₀ s) : Keeps R s₀ (State.judgeBooking t s) := by
  unfold State.judgeBooking
  try dsimp only
  with_reducible
    repeat' first
      | assumption | exact sub_trans (by decide +kernel) hR | exact bit_of (by decide +kernel) hR
      | (unfold overbookedField; split <;> exact bit_of (by decide +kernel) hR) | apply State.putFlag_keeps | apply State.raise_keeps
      | apply Keeps.foldl | apply Keeps.foldl_snd | apply Keeps.foldl_fst | apply Keeps.foldl_build | split | intro _ | dsimp only

theorem State.noteAssignment_keeps {R : Nat} {s₀ : State} {s : State} (t a : Nat)
    (hR : 0x10000000 ||| R = R)
    (hk : Keeps R s₀ s) : Keeps R s₀ (State.noteAssignment t a s) := by
  unfold State.noteAssignment
  try dsimp only
  with_reducible
    repeat' first
      | assumption | exact sub_trans (by decide +kernel) hR | apply State.modAlloc_keeps | (show Keeps _ _ _; rw [id_eq]) | split | intro _
      | dsimp only

theorem State.writeAlloc_keeps {R : Nat} {s₀ : State} {s : State} (t a v : Nat) (reset : Bool)
    (hR : 0x1fc0000000000000000000000800000000030000000000000000000000000000000010000000 ||| R = R)
    (hk : Keeps R s₀ s) : Keeps R s₀ (State.writeAlloc t a v reset s).2 := by
  unfold State.writeAlloc
  try dsimp only
  with_reducible
    repeat' first
      | assumption | exact sub_trans (by decide +kernel) hR | exact bit_of (by decide +kernel) hR | exact all_bits_of (by decide +kernel) hR
      | apply State.clearRec_keeps | apply State.unpackRec_keeps | apply State.modAlloc_keeps | apply State.judgeBooking_keeps
      | apply State.noteAssignment_keeps | split | intro _ | dsimp only

theorem State.writeAlloc_keeps_pair {R : Nat} {s₀ : State} {s s' : State} {r : Nat} {t a v : Nat} {reset : Bool}
    (hR : 0x1fc0000000000000000000000800000000030000000000000000000000000000000010000000 ||| R = R) (heq : State.writeAlloc t a v reset s = (r, s'))
    (hk : Keeps R s₀ s) : Keeps R s₀ s' := by
  have := State.writeAlloc_keeps t a v reset hR hk
  rwa [heq] at this

theorem State.writeHeader_keeps {R : Nat} {s₀ : State} {s : State} (d g v : Nat)
    (hR : 0x3e000000000000000000000000000000000000000000000000000000000000000800000000000 ||| R = R)
    (hk : Keeps R s₀ s) : Keeps R s₀ (State.writeHeader d g v s).2 := by
  unfold State.writeHeader
  try dsimp only
  with_reducible
    repeat' first
      | assumption | exact sub_trans (by decide +kernel) hR | exact bit_of (by decide +kernel) hR | exact all_bits_of (by decide +kernel) hR
      | apply State.unpackRec_keeps | exact id | exact fun _ => rfl | exact fun _ _ _ => rfl | split
      | (with_unfolding_all (intro p hp; cases p <;> first | rfl | exact bit_absurd (by decide +kernel) hR hp)) | intro _ | dsimp only
      | apply Keeps.set_pendSince | apply Keeps.change

theorem State.writeHeader_keeps_pair {R : Nat} {s₀ : State} {s s' : State} {r : Nat} {d g v : Nat}
    (hR : 0x3e000000000000000000000000000000000000000000000000000000000000000800000000000 ||| R = R) (heq : State.writeHeader d g v s = (r, s'))
    (hk : Keeps R s₀ s) : Keeps R s₀ s' := by
  have := State.writeHeader_keeps d g v hR hk
  rwa [heq] at this

theorem State.writeEntry_keeps {R : Nat} {s₀ : State} {s : State} (d g e : Nat) (admin : Bool) (v : Nat)
    (hR : 0xc0000000000000000000000000000000000000000000000000000000000000000000000000000 ||| R = R)
    (hk : Keeps R s₀ s) : Keeps R s₀ (State.writeEntry d g e admin v s).2 := by
  unfold State.writeEntry
  try dsimp only
  with_reducible
    repeat' first
      | assumption | exact sub_trans (by decide +kernel) hR | exact bit_of (by decide +kernel) hR | exact all_bits_of (by decide +kernel) hR
      | apply State.unpackRec_keeps | split | intro _ | dsimp only

theorem State.writeEntry_keeps_pair {R : Nat} {s₀ : State} {s s' : State} {r : Nat} {d g e : Nat} {admin : Bool} {v : Nat}
    (hR : 0xc0000000000000000000000000000000000000000000000000000000000000000000000000000 ||| R = R) (heq : State.writeEntry d g e admin v s = (r, s'))
    (hk : Keeps R s₀ s) : Keeps R s₀ s' := by
  have := State.writeEntry_keeps d g e admin v hR hk
  rwa [heq] at this

theorem State.grantDone_keeps {R : Nat} {s₀ : State} {s : State} (d r : Nat)
    (hR : 0x40000000000000000000000000000000000000000000000000 ||| R = R)
    (hk : Keeps R s₀ s) : Keeps R s₀ (State.grantDone d r s) := by
  unfold State.grantDone
  try dsimp only
  with_reducible
    repeat' first
      | assumption | exact sub_trans (by decide +kernel) hR | exact bit_of (by decide +kernel) hR | apply State.put_keeps | split | intro _
      | dsimp only

theorem execGrantAccRead_keeps {R : Nat} {s₀ : State} {s : State} (d target tree index list : Nat)
    (hR : 0xc0000000000000000000000000000000000000000000000000 ||| R = R)
    (hk : Keeps R s₀ s) : ResultKeeps R s₀ (execGrantAccRead d target tree index list s) := by
  unfold execGrantAccRead
  try dsimp only
  with_reducible
    repeat' first
      | assumption | exact sub_trans (by decide +kernel) hR | exact bit_of (by decide +kernel) hR | apply State.putWords_keeps
      | apply State.grantDone_keeps | apply ResultKeeps.next | split | intro _ | dsimp only

theorem State.hostAlloc_keeps {R : Nat} {s₀ : State} {s : State} (t a v : Nat) (reset : Bool)
    (hR : 0x1fc0000000000000000000000800000000030000000000000000000000000000000010000000 ||| R = R)
    (hk : Keeps R s₀ s) : Keeps R s₀ (State.hostAlloc t a v reset s).2 := by
  unfold State.hostAlloc
  try dsimp only
  with_reducible
    repeat' first
      | assumption | exact sub_trans (by decide +kernel) hR | apply State.writeAlloc_keeps | refine State.writeAlloc_keeps_pair ?_ (by assumption) ?_
      | split | intro _ | dsimp only

theorem State.hostAlloc_keeps_pair {R : Nat} {s₀ : State} {s s' : State} {r : Nat} {t a v : Nat} {reset : Bool}
    (hR : 0x1fc0000000000000000000000800000000030000000000000000000000000000000010000000 ||| R = R) (heq : State.hostAlloc t a v reset s = (r, s'))
    (hk : Keeps R s₀ s) : Keeps R s₀ s' := by
  have := State.hostAlloc_keeps t a v reset hR hk
  rwa [heq] at this

theorem State.grantWrite_keeps {R : Nat} {s₀ : State} {s : State} (d target tree index list v : Nat)
    (hR : 0xfffc0000000000000000000000800000000030000000000000000000000000000800010000000 ||| R = R)
    (hk : Keeps R s₀ s) : Keeps R s₀ (State.grantWrite d target tree index list v s).2 := by
  unfold State.grantWrite
  try dsimp only
  with_reducible
    repeat' first
      | assumption | exact sub_trans (by decide +kernel) hR | apply State.writeHeader_keeps
      | refine State.writeHeader_keeps_pair ?_ (by assumption) ?_ | apply State.writeEntry_keeps
      | refine State.writeEntry_keeps_pair ?_ (by assumption) ?_ | apply State.hostAlloc_keeps
      | refine State.hostAlloc_keeps_pair ?_ (by assumption) ?_ | split | intro _ | dsimp only

theorem State.grantWrite_keeps_pair {R : Nat} {s₀ : State} {s s' : State} {r : Nat} {d target tree index list v : Nat}
    (hR : 0xfffc0000000000000000000000800000000030000000000000000000000000000800010000000 ||| R = R) (heq : State.grantWrite d target tree index list v s = (r, s'))
    (hk : Keeps R s₀ s) : Keeps R s₀ s' := by
  have := State.grantWrite_keeps d target tree index list v hR hk
  rwa [heq] at this

theorem execGrantAccWrite_keeps {R : Nat} {s₀ : State} {s : State} (d target tree index list : Nat)
    (hR : 0xfffc0000000000000000000000840000000030000000000000000000000000000800010000000 ||| R = R)
    (hk : Keeps R s₀ s) : ResultKeeps R s₀ (execGrantAccWrite d target tree index list s) := by
  unfold execGrantAccWrite
  try dsimp only
  with_reducible
    repeat' first
      | assumption | exact sub_trans (by decide +kernel) hR | apply State.grantDone_keeps | apply State.grantWrite_keeps
      | refine State.grantWrite_keeps_pair ?_ (by assumption) ?_ | apply ResultKeeps.next | split | intro _ | dsimp only

theorem execWriteReset_keeps {R : Nat} {s₀ : State} {s : State} (d target tree index : Nat)
    (hR : 0x1fc0000000000000000000000840000000030000000000000000000000000000000010000000 ||| R = R)
    (hk : Keeps R s₀ s) : ResultKeeps R s₀ (execWriteReset d target tree index s) := by
  unfold execWriteReset
  try dsimp only
  with_reducible
    repeat' first
      | assumption | exact sub_trans (by decide +kernel) hR | apply State.grantDone_keeps | apply State.hostAlloc_keeps
      | refine State.hostAlloc_keeps_pair ?_ (by assumption) ?_ | apply ResultKeeps.next | split | intro _ | dsimp only

theorem State.predFold_keeps {R : Nat} {s₀ : State} {s : State} (t a : Nat)
    (hR : 0x400000000000000000000000000000000000000000000000000000000000000000010000000 ||| R = R)
    (hk : Keeps R s₀ s) : Keeps R s₀ (State.predFold t a s) := by
  unfold State.predFold
  try dsimp only
  with_reducible
    repeat' first
      | assumption | exact sub_trans (by decide +kernel) hR | exact bit_of (by decide +kernel) hR | apply State.put_keeps | apply State.modAlloc_keeps
      | split | intro _ | dsimp only

theorem State.predFolds_keeps {R : Nat} {s₀ : State} {s : State} (t a x2 : Nat)
    (hR : 0x400000000000000000000000000000000000000000000000000000000000000000010000000 ||| R = R)
    (hk : Keeps R s₀ s) : Keeps R s₀ (State.predFolds t a x2 s) := by
  induction x2 generalizing s with
  | zero =>
    unfold State.predFolds
    try dsimp only
    with_reducible repeat' first | assumption | exact sub_trans (by decide +kernel) hR | apply State.predFold_keeps | split | intro _ | dsimp only
  | succ n ih =>
    unfold State.predFolds
    try dsimp only
    with_reducible
      repeat' first
        | assumption | exact sub_trans (by decide +kernel) hR | apply ih | apply State.predFold_keeps | split | intro _ | dsimp only

theorem State.predPeriodic_keeps {R : Nat} {s₀ : State} {s : State} (t a r r' : Nat) (arrived : Int)
    (hR : 0x400000000000000000000000000000000000000000000000000000000000000000010000000 ||| R = R)
    (hk : Keeps R s₀ s) : Keeps R s₀ (State.predPeriodic t a r r' arrived s) := by
  unfold State.predPeriodic
  extract_lets v0 v1 v2 v3
  have hv2 : Keeps R s₀ v2 := by
    unfold v2
    with_reducible
      repeat' first
        | assumption | exact sub_trans (by decide +kernel) hR | apply State.modAlloc_keeps | apply State.predFold_keeps | apply State.predFolds_keeps
        | split | intro _ | dsimp only
  have hv3 : Keeps R s₀ v3 := by
    unfold v3
    with_reducible
      repeat' first
        | assumption | exact sub_trans (by decide +kernel) hR | apply State.modAlloc_keeps | apply State.predFold_keeps | apply State.predFolds_keeps
        | split | intro _ | dsimp only
  try dsimp only
  with_reducible
    repeat' first
      | assumption | exact sub_trans (by decide +kernel) hR | apply State.modAlloc_keeps | apply State.predFold_keeps | apply State.predFolds_keeps
      | split | intro _ | dsimp only

theorem execStatusReportDecode_keeps {R : Nat} {s₀ : State} {s : State} (t a backlog r' : Nat)
    (hR : 0xe00000000000000000000000000000000000000000000000000000000000000000010000000 ||| R = R)
    (hk : Keeps R s₀ s) : ResultKeeps R s₀ (execStatusReportDecode t a backlog r' s) := by
  unfold execStatusReportDecode
  try dsimp only
  with_reducible
    repeat' first
      | assumption | exact sub_trans (by decide +kernel) hR | exact bit_of (by decide +kernel) hR | apply State.put_keeps | apply State.modAlloc_keeps
      | apply State.predPeriodic_keeps | apply ResultKeeps.next | split | intro _ | dsimp only

theorem State.judgeIdle_keeps {R : Nat} {s₀ : State} {s : State} (t a frame units idle : Nat)
    (hR : 0x800000000000000000000000000000000000000000000000000000000000000000010000001 ||| R = R)
    (hk : Keeps R s₀ s) : Keeps R s₀ (State.judgeIdle t a frame units idle s) := by
  unfold State.judgeIdle
  extract_lets v0 v1
  have hv1 : Keeps R s₀ v1 := by
    unfold v1
    with_reducible
      repeat' first
        | assumption | exact sub_trans (by decide +kernel) hR | exact bit_of (by decide +kernel) hR | apply State.put_keeps | apply State.addSat_keeps
        | apply State.modAlloc_keeps | apply State.grantCnt_keeps | split | intro _ | dsimp only
  try dsimp only
  with_reducible
    repeat' first
      | assumption | exact sub_trans (by decide +kernel) hR | exact bit_of (by decide +kernel) hR | apply State.put_keeps | apply State.addSat_keeps
      | apply State.modAlloc_keeps | apply State.grantCnt_keeps | split | intro _ | dsimp only

theorem State.setResv_keeps {R : Nat} {s₀ : State} {s : State} (t k : Nat) (rs : List Resv)
    (hR : 0x20000000 ||| R = R)
    (hk : Keeps R s₀ s) : Keeps R s₀ (State.setResv t k rs s) := by
  unfold State.setResv
  try dsimp only
  with_reducible
    repeat' first
      | assumption | exact sub_trans (by decide +kernel) hR | exact bit_of (by decide +kernel) hR | exact id | exact fun _ => rfl
      | exact fun _ _ _ => rfl | split | (with_unfolding_all (intro p hp; cases p <;> first | rfl | exact bit_absurd (by decide +kernel) hR hp))
      | intro _ | dsimp only | apply Keeps.set_resv | apply Keeps.change

theorem State.reserve_keeps {R : Nat} {s₀ : State} {s : State} (t k frameLow : Nat) (r : Nat → Resv)
    (hR : 0x200000000000000000000000000000000000000000020000000 ||| R = R)
    (hk : Keeps R s₀ s) : Keeps R s₀ (State.reserve t k frameLow r s) := by
  unfold State.reserve
  extract_lets v0 v1 v2 v3 v4 v5
  have hv5 : Keeps R s₀ v5 := by
    unfold v5
    with_reducible
      repeat' first
        | assumption | exact sub_trans (by decide +kernel) hR | exact bit_of (by decide +kernel) hR | apply State.put_keeps
        | apply State.setResv_keeps | split | intro _ | dsimp only
  try dsimp only
  with_reducible
    repeat' first
      | assumption | exact sub_trans (by decide +kernel) hR | exact bit_of (by decide +kernel) hR | apply State.put_keeps | apply State.setResv_keeps
      | split | intro _ | dsimp only

theorem execResvMicroWindow_keeps {R : Nat} {s₀ : State} {s : State} (t k onuId frameLow : Nat)
    (hR : 0x200000000000000000000000000000000000000000020000000 ||| R = R)
    (hk : Keeps R s₀ s) : ResultKeeps R s₀ (execResvMicroWindow t k onuId frameLow s) := by
  unfold execResvMicroWindow
  try dsimp only
  with_reducible
    repeat' first
      | assumption | exact sub_trans (by decide +kernel) hR | apply State.reserve_keeps | apply ResultKeeps.next | split | intro _ | dsimp only

theorem execResvRangingGrant_keeps {R : Nat} {s₀ : State} {s : State} (t k onuId frameLow units profile : Nat)
    (hR : 0x200000000000000000000000000000000000000000020000000 ||| R = R)
    (hk : Keeps R s₀ s) : ResultKeeps R s₀ (execResvRangingGrant t k onuId frameLow units profile s) := by
  unfold execResvRangingGrant
  try dsimp only
  with_reducible
    repeat' first
      | assumption | exact sub_trans (by decide +kernel) hR | exact bit_of (by decide +kernel) hR | apply State.put_keeps | apply State.reserve_keeps
      | apply ResultKeeps.next | split | intro _ | dsimp only

theorem execResvQuietWindow_keeps {R : Nat} {s₀ : State} {s : State} (t k frameLow : Nat)
    (hR : 0x200000000000000000000000000000000000000000020000000 ||| R = R)
    (hk : Keeps R s₀ s) : ResultKeeps R s₀ (execResvQuietWindow t k frameLow s) := by
  unfold execResvQuietWindow
  try dsimp only
  with_reducible
    repeat' first
      | assumption | exact sub_trans (by decide +kernel) hR | apply State.reserve_keeps | apply ResultKeeps.next | split | intro _ | dsimp only

theorem State.reachNs_keeps {R : Nat} {s₀ : State} {s : State} (ns : Nat)
    (hR : 0xc000000000000000000 ||| R = R)
    (hk : Keeps R s₀ s) : Keeps R s₀ (State.reachNs ns s) := by
  unfold State.reachNs
  try dsimp only
  with_reducible repeat' first | assumption | exact sub_trans (by decide +kernel) hR | apply State.setTime_keeps | split | intro _ | dsimp only

theorem State.swapEntry_keeps {R : Nat} {s₀ : State} {s : State} (l e : Nat)
    (hR : 0xc0000000000000000000000000000000000000000000000000000000000000000000000000000 ||| R = R)
    (hk : Keeps R s₀ s) : Keeps R s₀ (State.swapEntry l s e) := by
  unfold State.swapEntry
  try dsimp only
  with_reducible
    repeat' first
      | assumption | exact sub_trans (by decide +kernel) hR | exact bit_of (by decide +kernel) hR | apply State.put_keeps | split | intro _
      | dsimp only

end Sys2Proof.Machine
end

