-- ==== Sys2Proof/Laws/KeepsPeerSend.lean ====
section
/-!
SUPPORT. Every operation of Machine/PeerSend.lean keeps what `Keeps` names.
-/

namespace Sys2Proof.Machine

set_option Elab.async false
set_option linter.all false

theorem State.modPair_keeps {R : Nat} {s₀ : State} {s : State} (f : Pair → Pair)
    (hR : 0x40000 ||| R = R)
    (hk : Keeps R s₀ s) : Keeps R s₀ (State.modPair f s) := by
  unfold State.modPair
  try dsimp only
  with_reducible
    repeat' first
      | assumption | exact sub_trans (by decide +kernel) hR | exact bit_of (by decide +kernel) hR | exact id | exact fun _ => rfl
      | exact fun _ _ _ => rfl | split | (with_unfolding_all (intro p hp; cases p <;> first | rfl | exact bit_absurd (by decide +kernel) hR hp))
      | intro _ | dsimp only | apply Keeps.set_pair | apply Keeps.change

theorem State.sendPeer_keeps {R : Nat} {s₀ : State} {s : State} (kind arg : Nat) (data : List Nat)
    (hR : 0x20010000000000040000 ||| R = R)
    (hk : Keeps R s₀ s) : Keeps R s₀ (State.sendPeer kind arg data s) := by
  unfold State.sendPeer
  try dsimp only
  with_reducible
    repeat' first
      | assumption | exact sub_trans (by decide +kernel) hR | apply State.onLane_keeps | apply State.modPair_keeps | split | intro _ | dsimp only

theorem State.sendRecords_keeps {R : Nat} {s₀ : State} {s : State} (kind n x2 : Nat) (x3 : List (List Nat))
    (hR : 0x20010000000000040000 ||| R = R)
    (hk : Keeps R s₀ s) : Keeps R s₀ (State.sendRecords kind n x2 x3 s) := by
  induction x2 generalizing s x3 with
  | zero =>
    unfold State.sendRecords
    try dsimp only
    with_reducible repeat' first | assumption | exact sub_trans (by decide +kernel) hR | apply State.sendPeer_keeps | split | intro _ | dsimp only
  | succ n ih =>
    unfold State.sendRecords
    try dsimp only
    with_reducible
      repeat' first
        | assumption | exact sub_trans (by decide +kernel) hR | apply ih | apply State.sendPeer_keeps | split | intro _ | dsimp only

theorem State.tellTerminals_keeps {R : Nat} {s₀ : State} {s : State} (old : State) (t : Nat)
    (hR : 0x20010000000000040000 ||| R = R)
    (hk : Keeps R s₀ s) : Keeps R s₀ (State.tellTerminals s old t) := by
  unfold State.tellTerminals
  try dsimp only
  with_reducible repeat' first | assumption | exact sub_trans (by decide +kernel) hR | apply State.sendRecords_keeps | split | intro _ | dsimp only

theorem tellRanging_keeps {R : Nat} {s₀ : State} (t : Nat) (old : State) {r : Result} (hR : 0x20010000000000040000 ||| R = R) (h : ResultKeeps R s₀ r) :
    ResultKeeps R s₀ (tellRanging t old r) := by
  obtain ⟨u, rfl, k⟩ := h
  exact ResultKeeps.next (State.tellTerminals_keeps old t (sub_trans (by decide +kernel) hR) k)

theorem rangingStep_keeps {R : Nat} {s₀ : State} (t : Nat) {old : State} {r : Result} (hR : 0x20010000000000040000 ||| R = R) (k : Keeps R s₀ old)
    (h : ResultKeeps R s₀ r) : ResultKeeps R s₀ (rangingStep t old r) := by
  unfold rangingStep
  split
  · exact ResultKeeps.next k
  · exact tellRanging_keeps t old (sub_trans (by decide +kernel) hR) h

end Sys2Proof.Machine
end

