-- ==== Sys2Proof/Laws/KeepsMapBuild.lean ====
section
/-!
SUPPORT. Every operation of Machine/MapBuild.lean keeps what `Keeps` names.
-/

namespace Sys2Proof.Machine

set_option Elab.async false
set_option linter.all false

theorem Build.on_keeps {R : Nat} {s₀ : State} {b : Build} {f : State → State} (_hR : 0x0 ||| R = R) (hk : Keeps R s₀ b.st)
    (hf : ∀ x, Keeps R s₀ x → Keeps R s₀ (f x)) : Keeps R s₀ (b.on f).st := hf _ hk

theorem Build.leave_keeps {R : Nat} {s₀ : State} {b : Build} (t a : Nat) (demand : Bool)
    (hR : 0x1 ||| R = R)
    (hk : Keeps R s₀ b.st) : Keeps R s₀ (Build.leave b t a demand).st := by
  unfold Build.leave
  try dsimp only
  with_reducible repeat' first | assumption | exact sub_trans (by decide +kernel) hR | apply State.grantCnt_keeps | split | intro _ | dsimp only

theorem State.granted_keeps {R : Nat} {s₀ : State} {s : State} (t a m n : Nat)
    (hR : 0x1800000000000000000000000000000000000000000000000000000000000000000010000001 ||| R = R)
    (hk : Keeps R s₀ s) : Keeps R s₀ (State.granted t a m n s) := by
  unfold State.granted
  try dsimp only
  with_reducible
    repeat' first
      | assumption | exact sub_trans (by decide +kernel) hR | exact bit_of (by decide +kernel) hR | apply State.put_keeps | apply State.modAlloc_keeps
      | apply State.grantCnt_keeps | split | intro _ | dsimp only

theorem Build.putChunks_keeps {R : Nat} {s₀ : State} {b : Build} (t a m : Nat) (kind : GrantKind) (chunks : List (Nat × Nat))
    (hR : 0x1800000000000000000000000000000000000000000000000000000000000000000010000001 ||| R = R)
    (hk : Keeps R s₀ b.st) : Keeps R s₀ (Build.putChunks b t a m kind chunks).st := by
  unfold Build.putChunks
  try dsimp only
  with_reducible
    repeat' first
      | assumption | exact sub_trans (by decide +kernel) hR | exact bit_of (by decide +kernel) hR | apply State.granted_keeps | exact id
      | exact fun _ => rfl | exact fun _ _ _ => rfl | apply Keeps.foldl | apply Keeps.foldl_snd | apply Keeps.foldl_fst | apply Keeps.foldl_build
      | split | (with_unfolding_all (intro p hp; cases p <;> first | rfl | exact bit_absurd (by decide +kernel) hR hp)) | intro _ | dsimp only
      | apply Keeps.change

theorem Build.place_keeps {R : Nat} {s₀ : State} {b : Build} (t k a m n lo : Nat)
    (hR : 0x1800000000000000000000000000000000000000000000000000000000000000000010000001 ||| R = R)
    (hk : Keeps R s₀ b.st) : Keeps R s₀ (Build.place b t k a m n lo).2.st := by
  unfold Build.place
  extract_lets v0 v1 v2
  have hv0 : Keeps R s₀ v0 := by
    unfold v0
    with_reducible
      repeat' first
        | assumption | exact sub_trans (by decide +kernel) hR | apply State.granted_keeps | apply Build.putChunks_keeps | split | intro _ | dsimp only
  try dsimp only
  with_reducible
    repeat' first
      | assumption | exact sub_trans (by decide +kernel) hR | apply State.granted_keeps | apply Build.putChunks_keeps | split | intro _ | dsimp only

theorem Build.place_keeps_pair {R : Nat} {s₀ : State} {b b' : Build} {r : Nat} {t k a m n lo : Nat}
    (hR : 0x1800000000000000000000000000000000000000000000000000000000000000000010000001 ||| R = R) (heq : Build.place b t k a m n lo = (r, b'))
    (hk : Keeps R s₀ b.st) : Keeps R s₀ b'.st := by
  have := Build.place_keeps t k a m n lo hR hk
  rwa [heq] at this

theorem State.served_keeps {R : Nat} {s₀ : State} {s : State} (t k cls a : Nat)
    (hR : 0x40000000 ||| R = R)
    (hk : Keeps R s₀ s) : Keeps R s₀ (State.served t k cls a s) := by
  unfold State.served
  try dsimp only
  with_reducible
    repeat' first
      | assumption | exact sub_trans (by decide +kernel) hR | exact bit_of (by decide +kernel) hR | exact id | exact fun _ => rfl
      | exact fun _ _ _ => rfl | split | (with_unfolding_all (intro p hp; cases p <;> first | rfl | exact bit_absurd (by decide +kernel) hR hp))
      | intro _ | dsimp only | apply Keeps.set_rot | apply Keeps.change

theorem State.noRoom_keeps {R : Nat} {s₀ : State} {s : State} (t m : Nat)
    (hR : 0x200000000030000000000000000000000000000000000000001 ||| R = R)
    (hk : Keeps R s₀ s) : Keeps R s₀ (State.noRoom t m s) := by
  unfold State.noRoom
  try dsimp only
  with_reducible
    repeat' first
      | assumption | exact sub_trans (by decide +kernel) hR | exact bit_of (by decide +kernel) hR | apply State.put_keeps | apply State.raise_keeps
      | apply State.grantCnt_keeps | split | intro _ | dsimp only

theorem Build.placeQuiet_keeps {R : Nat} {s₀ : State} {b : Build} (t k m : Nat) (r : Resv)
    (hR : 0x200000000030000000000000000000000000000000020000001 ||| R = R)
    (hk : Keeps R s₀ b.st) : Keeps R s₀ (Build.placeQuiet b t k m r).st := by
  unfold Build.placeQuiet
  try dsimp only
  with_reducible
    repeat' first
      | assumption | exact sub_trans (by decide +kernel) hR | apply State.bump_keeps | apply State.grantCnt_keeps | apply State.setResv_keeps
      | apply Build.on_keeps | apply State.noRoom_keeps | split | intro _ | dsimp only

theorem Build.placeSilent_keeps {R : Nat} {s₀ : State} {b : Build} (r : Resv)
    (hR : 0x0 ||| R = R)
    (hk : Keeps R s₀ b.st) : Keeps R s₀ (Build.placeSilent b r).st := by
  unfold Build.placeSilent
  try dsimp only
  with_reducible repeat' first | assumption | exact sub_trans (by decide +kernel) hR | split | intro _ | dsimp only

theorem Build.placeResv_keeps {R : Nat} {s₀ : State} {b : Build} (t k m : Nat) (r : Resv)
    (hR : 0x200000000030000000000000000000000000000000000000001 ||| R = R)
    (hk : Keeps R s₀ b.st) : Keeps R s₀ (Build.placeResv b t k m r).st := by
  unfold Build.placeResv
  try dsimp only
  with_reducible
    repeat' first
      | assumption | exact sub_trans (by decide +kernel) hR | apply State.grantCnt_keeps | apply Build.on_keeps | apply State.noRoom_keeps | split
      | intro _ | dsimp only

theorem Build.placeWindow_keeps {R : Nat} {s₀ : State} {b : Build} (t k m : Nat) (w : Nat × Nat × Nat)
    (hR : 0x1800000000000000000000000000000000000000000000000000000000000000000010000001 ||| R = R)
    (hk : Keeps R s₀ b.st) : Keeps R s₀ (Build.placeWindow b t k m w).st := by
  unfold Build.placeWindow
  extract_lets v0 v1 v2 v3
  have hv1 : Keeps R s₀ v1 := by
    unfold v1
    with_reducible
      repeat' first
        | assumption | exact sub_trans (by decide +kernel) hR | apply State.grantCnt_keeps | apply Build.on_keeps | apply Build.leave_keeps
        | apply Build.putChunks_keeps | split | intro _ | dsimp only
  try dsimp only
  with_reducible
    repeat' first
      | assumption | exact sub_trans (by decide +kernel) hR | apply State.grantCnt_keeps | apply Build.on_keeps | apply Build.leave_keeps
      | apply Build.putChunks_keeps | split | intro _ | dsimp only

theorem State.setCredit_keeps {R : Nat} {s₀ : State} {s : State} (i : Nat) (c : Int)
    (hR : 0x200000000000000000000000000000000000000000000000000000000000000000000000000 ||| R = R)
    (hk : Keeps R s₀ s) : Keeps R s₀ (State.setCredit i c s) := by
  unfold State.setCredit
  try dsimp only
  with_reducible
    repeat' first
      | assumption | exact sub_trans (by decide +kernel) hR | exact bit_of (by decide +kernel) hR | apply State.put_keeps | split | intro _
      | dsimp only

theorem State.settle_keeps {R : Nat} {s₀ : State} {s : State} (t i due placed : Nat)
    (hR : 0xa00000000000000000000000000000000000000000000000000000000000000000000000001 ||| R = R)
    (hk : Keeps R s₀ s) : Keeps R s₀ (State.settle t i due placed s) := by
  unfold State.settle
  try dsimp only
  with_reducible
    repeat' first
      | assumption | exact sub_trans (by decide +kernel) hR | exact bit_of (by decide +kernel) hR | apply State.putFlag_keeps
      | apply State.grantCnt_keeps | apply State.setCredit_keeps | split | intro _ | dsimp only

theorem Build.placeFixed_keeps {R : Nat} {s₀ : State} {b : Build} (t k m a : Nat)
    (hR : 0x1a00000000000000000000000000000000000000000000000000000000000000000010000001 ||| R = R)
    (hk : Keeps R s₀ b.st) : Keeps R s₀ (Build.placeFixed t k m b a).st := by
  unfold Build.placeFixed
  try dsimp only
  with_reducible
    repeat' first
      | assumption | exact sub_trans (by decide +kernel) hR | apply Build.on_keeps | apply Build.leave_keeps | apply Build.place_keeps
      | refine Build.place_keeps_pair ?_ (by assumption) ?_ | apply State.setCredit_keeps | apply State.settle_keeps | split | intro _ | dsimp only

theorem Build.placeAssured_keeps {R : Nat} {s₀ : State} {b : Build} (t k m a : Nat)
    (hR : 0x1a00000000000000000000000000000000000000000000000000000000000000000050000001 ||| R = R)
    (hk : Keeps R s₀ b.st) : Keeps R s₀ (Build.placeAssured t k m b a).st := by
  unfold Build.placeAssured
  try dsimp only
  with_reducible
    repeat' first
      | assumption | exact sub_trans (by decide +kernel) hR | apply Build.on_keeps | apply Build.leave_keeps | apply Build.place_keeps
      | refine Build.place_keeps_pair ?_ (by assumption) ?_ | apply State.served_keeps | apply State.setCredit_keeps | apply State.settle_keeps
      | split | intro _ | dsimp only

theorem Build.share_keeps {R : Nat} {s₀ : State} {b : Build} (t k m cls : Nat) (x4 : List Nat)
    (hR : 0x1800000000000000000000000000000000000000000000000000000000000000000050000001 ||| R = R)
    (hk : Keeps R s₀ b.st) : Keeps R s₀ (Build.share t k m cls x4 b).st := by
  induction x4 generalizing b with
  | nil =>
    unfold Build.share
    try dsimp only
    with_reducible
      repeat' first
        | assumption | exact sub_trans (by decide +kernel) hR | apply Build.on_keeps | apply Build.leave_keeps | apply Build.place_keeps
        | refine Build.place_keeps_pair ?_ (by assumption) ?_ | apply State.served_keeps | split | intro _ | dsimp only
  | cons a l ih =>
    unfold Build.share
    try dsimp only
    with_reducible
      repeat' first
        | assumption | exact sub_trans (by decide +kernel) hR | apply ih | apply Build.on_keeps | apply Build.leave_keeps | apply Build.place_keeps
        | refine Build.place_keeps_pair ?_ (by assumption) ?_ | apply State.served_keeps | split | intro _ | dsimp only

theorem Build.shareClass_keeps {R : Nat} {s₀ : State} {b : Build} (t k m cls : Nat)
    (hR : 0x1800000000000000000000000000000000000000000000000000000000000000000050000001 ||| R = R)
    (hk : Keeps R s₀ b.st) : Keeps R s₀ (Build.shareClass b t k m cls).st := by
  unfold Build.shareClass
  try dsimp only
  with_reducible repeat' first | assumption | exact sub_trans (by decide +kernel) hR | apply Build.share_keeps | split | intro _ | dsimp only

theorem State.passes_keeps {R : Nat} {s₀ : State} {s : State} (t k m : Nat)
    (hR : 0x1a00000000000000000000000200000000030000000000000000000000000000000070000001 ||| R = R)
    (hk : Keeps R s₀ s) : Keeps R s₀ (State.passes t k m s).st := by
  unfold State.passes
  try dsimp only
  with_reducible
    repeat' first
      | assumption | exact sub_trans (by decide +kernel) hR | apply State.setResv_keeps | apply Build.placeQuiet_keeps | apply Build.placeSilent_keeps
      | apply Build.placeResv_keeps | apply Build.placeWindow_keeps | apply Build.placeFixed_keeps | apply Build.placeAssured_keeps
      | apply Build.shareClass_keeps | apply Keeps.foldl | apply Keeps.foldl_snd | apply Keeps.foldl_fst | apply Keeps.foldl_build | split | intro _
      | dsimp only

theorem markPloam_keeps {R : Nat} {s₀ : State} {s : State} (t m : Nat) (flagged : List Nat) (x3 : List Occ)
    (hR : 0x8000000 ||| R = R)
    (hk : Keeps R s₀ s) : Keeps R s₀ (markPloam t m flagged x3 s).2 := by
  induction x3 generalizing s with
  | nil =>
    unfold markPloam
    try dsimp only
    with_reducible repeat' first | assumption | exact sub_trans (by decide +kernel) hR | apply State.modTerm_keeps | split | intro _ | dsimp only
  | cons a l ih =>
    unfold markPloam
    try dsimp only
    with_reducible
      repeat' first
        | assumption | exact sub_trans (by decide +kernel) hR | apply ih | apply State.modTerm_keeps | split | intro _ | dsimp only

theorem markPloam_keeps_pair {R : Nat} {s₀ : State} {s s' : State} {r : List Occ} {t m : Nat} {flagged : List Nat} {x3 : List Occ}
    (hR : 0x8000000 ||| R = R) (heq : markPloam t m flagged x3 s = (r, s'))
    (hk : Keeps R s₀ s) : Keeps R s₀ s' := by
  have := markPloam_keeps t m flagged x3 hR hk
  rwa [heq] at this

theorem State.showMap_keeps {R : Nat} {s₀ : State} {s : State} (t k structs unused : Nat)
    (hR : 0x800000000000000000000000000000000000000000000000000 ||| R = R)
    (hk : Keeps R s₀ s) : Keeps R s₀ (State.showMap t k structs unused s) := by
  unfold State.showMap
  try dsimp only
  with_reducible
    repeat' first
      | assumption | exact sub_trans (by decide +kernel) hR | exact bit_of (by decide +kernel) hR | apply State.put_keeps | split | intro _
      | dsimp only

theorem Build.finish_keeps {R : Nat} {s₀ : State} {b : Build} (t k m buildNs : Nat) (flagged : List Nat)
    (hR : 0x81000000003000000000000000000000000000000000a002001 ||| R = R)
    (hk : Keeps R s₀ b.st) : Keeps R s₀ (Build.finish b t k m buildNs flagged) := by
  unfold Build.finish
  try dsimp only
  with_reducible
    repeat' first
      | assumption | exact sub_trans (by decide +kernel) hR | exact bit_of (by decide +kernel) hR | apply State.put_keeps | apply State.addSat_keeps
      | apply State.raise_keeps | apply State.modSet_keeps | apply State.devWrite_keeps | apply State.grantCnt_keeps | apply markPloam_keeps
      | refine markPloam_keeps_pair ?_ (by assumption) ?_ | apply State.showMap_keeps | split | intro _ | dsimp only

theorem State.rebuildBad_keeps {R : Nat} {s₀ : State} {s : State} (t : Nat) (as : List Nat)
    (hR : 0x1fc0000000000000000000000000000000030000000000000000000000000000000010000001 ||| R = R)
    (hk : Keeps R s₀ s) : Keeps R s₀ (State.rebuildBad t as s) := by
  unfold State.rebuildBad
  try dsimp only
  with_reducible
    repeat' first
      | assumption | exact sub_trans (by decide +kernel) hR | exact bit_of (by decide +kernel) hR | exact all_bits_of (by decide +kernel) hR
      | apply State.clearRec_keeps | apply State.raise_keeps | apply State.modAlloc_keeps | apply State.grantCnt_keeps | apply Keeps.foldl
      | apply Keeps.foldl_snd | apply Keeps.foldl_fst | apply Keeps.foldl_build | split | intro _ | dsimp only

theorem State.returnGrant_keeps {R : Nat} {s₀ : State} {s : State} (t n : Nat) (g : Grant)
    (hR : 0xa00000000000000000000000000000000000000000000000000000000000000000010000000 ||| R = R)
    (hk : Keeps R s₀ s) : Keeps R s₀ (State.returnGrant t n s g) := by
  unfold State.returnGrant
  try dsimp only
  with_reducible
    repeat' first
      | assumption | exact sub_trans (by decide +kernel) hR | exact bit_of (by decide +kernel) hR | apply State.put_keeps | apply State.modAlloc_keeps
      | apply State.setCredit_keeps | split | intro _ | dsimp only

theorem State.sendMap_keeps {R : Nat} {s₀ : State} {s : State} (t k : Nat) (x : Map)
    (hR : 0x20010000000000040000 ||| R = R)
    (hk : Keeps R s₀ s) : Keeps R s₀ (State.sendMap t k x s) := by
  unfold State.sendMap
  try dsimp only
  with_reducible repeat' first | assumption | exact sub_trans (by decide +kernel) hR | apply State.sendPeer_keeps | split | intro _ | dsimp only

theorem State.undoMap_keeps {R : Nat} {s₀ : State} {s : State} (t : Nat) (x : Map)
    (hR : 0xa00000000000000000000000000000000000000000000000000000000000000000010000000 ||| R = R)
    (hk : Keeps R s₀ s) : Keeps R s₀ (State.undoMap t x s) := by
  unfold State.undoMap
  try dsimp only
  with_reducible
    repeat' first
      | assumption | exact sub_trans (by decide +kernel) hR | exact bit_of (by decide +kernel) hR | apply State.put_keeps | apply State.modAlloc_keeps
      | apply State.setCredit_keeps | apply Keeps.foldl | apply Keeps.foldl_snd | apply Keeps.foldl_fst | apply Keeps.foldl_build | split | intro _
      | dsimp only

theorem State.pairMap_keeps {R : Nat} {s₀ : State} {s : State} (t k m : Nat)
    (hR : 0xa00000000000000000000000000000000000000000000000000000020010000000012040001 ||| R = R)
    (hk : Keeps R s₀ s) : Keeps R s₀ (State.pairMap t k m s) := by
  unfold State.pairMap
  try dsimp only
  with_reducible
    repeat' first
      | assumption | exact sub_trans (by decide +kernel) hR | apply State.modSet_keeps | apply State.peerCnt_keeps | apply State.sendMap_keeps
      | apply State.undoMap_keeps | split | intro _ | dsimp only

theorem execMapBuild_keeps {R : Nat} {s₀ : State} {s : State} (t k buildNs : Nat) (flagged : List Nat)
    (hR : 0x1fc0000000000000000000000a1000000003000000000000000000002001000000007a042001 ||| R = R)
    (hk : Keeps R s₀ s) : ResultKeeps R s₀ (execMapBuild t k buildNs flagged s) := by
  unfold execMapBuild
  try dsimp only
  with_reducible
    repeat' first
      | assumption | exact sub_trans (by decide +kernel) hR | apply State.passes_keeps | apply Build.finish_keeps | apply State.rebuildBad_keeps
      | apply State.pairMap_keeps | apply ResultKeeps.next | split | intro _ | dsimp only

theorem execGateBankSwap_keeps {R : Nat} {s₀ : State} {s : State} (d g : Nat)
    (hR : 0x8280000e800000000000000210000000000000000000000000000000000000004c000300000000003001 ||| R = R)
    (hk : Keeps R s₀ s) : ResultKeeps R s₀ (execGateBankSwap d g s) := by
  unfold execGateBankSwap
  try dsimp only
  with_reducible
    repeat' first
      | assumption | exact sub_trans (by decide +kernel) hR | exact bit_of (by decide +kernel) hR | apply State.put_keeps
      | apply State.reofferQueue_keeps | apply State.cleanHead_keeps | apply State.settleWait_keeps | apply State.reachNs_keeps
      | apply State.swapEntry_keeps | apply ResultKeeps.next | apply Keeps.foldl | apply Keeps.foldl_snd | apply Keeps.foldl_fst
      | apply Keeps.foldl_build | split | intro _ | dsimp only

end Sys2Proof.Machine
end

