-- ==== Sys2Proof/Laws/KeepsRanging.lean ====
section
/-!
SUPPORT. Every operation of Machine/Ranging.lean keeps what `Keeps` names.
-/

namespace Sys2Proof.Machine

set_option Elab.async false
set_option linter.all false

theorem State.rngCnt_keeps {R : Nat} {s₀ : State} {s : State} (t k n : Nat)
    (hR : 0x1 ||| R = R)
    (hk : Keeps R s₀ s) : Keeps R s₀ (State.rngCnt t k n s) := by
  unfold State.rngCnt
  try dsimp only
  with_reducible repeat' first | assumption | exact sub_trans (by decide +kernel) hR | apply State.bump_keeps | split | intro _ | dsimp only

theorem State.ploamPush_keeps {R : Nat} {s₀ : State} {s : State} (t k : Nat) (m : Ploam)
    (hR : 0x2000000 ||| R = R)
    (hk : Keeps R s₀ s) : Keeps R s₀ (State.ploamPush t k m s) := by
  unfold State.ploamPush
  try dsimp only
  with_reducible repeat' first | assumption | exact sub_trans (by decide +kernel) hR | apply State.modSet_keeps | split | intro _ | dsimp only

theorem State.setRtd_keeps {R : Nat} {s₀ : State} {s : State} (t n rtd : Nat)
    (hR : 0x2000000000000000000000000000000000000000008000000 ||| R = R)
    (hk : Keeps R s₀ s) : Keeps R s₀ (State.setRtd t n rtd s) := by
  unfold State.setRtd
  try dsimp only
  with_reducible
    repeat' first
      | assumption | exact sub_trans (by decide +kernel) hR | exact bit_of (by decide +kernel) hR | apply State.put_keeps | apply State.modTerm_keeps
      | split | intro _ | dsimp only

theorem State.freeTerm_keeps {R : Nat} {s₀ : State} {s : State} (t n : Nat)
    (hR : 0x180007000000030000000000000000000000000000000008000000 ||| R = R)
    (hk : Keeps R s₀ s) : Keeps R s₀ (State.freeTerm t n s) := by
  unfold State.freeTerm
  try dsimp only
  with_reducible
    repeat' first
      | assumption | exact sub_trans (by decide +kernel) hR | exact bit_of (by decide +kernel) hR | exact all_bits_of (by decide +kernel) hR
      | apply State.clearRec_keeps | apply State.modTerm_keeps | apply State.setOperation_keeps | split | intro _ | dsimp only

theorem State.dropAssignments_keeps {R : Nat} {s₀ : State} {s : State} (t n : Nat)
    (hR : 0x10000000 ||| R = R)
    (hk : Keeps R s₀ s) : Keeps R s₀ (State.dropAssignments t n s) := by
  unfold State.dropAssignments
  try dsimp only
  with_reducible
    repeat' first
      | assumption | exact sub_trans (by decide +kernel) hR | apply State.modAlloc_keeps | apply Keeps.foldl | apply Keeps.foldl_snd
      | apply Keeps.foldl_fst | apply Keeps.foldl_build | split | intro _ | dsimp only

theorem State.loseTerm_keeps {R : Nat} {s₀ : State} {s : State} (t n : Nat)
    (hR : 0x18000300000003000000000000000000000000000000001a000000 ||| R = R)
    (hk : Keeps R s₀ s) : Keeps R s₀ (State.loseTerm t n s) := by
  unfold State.loseTerm
  extract_lets v0 v1 v2
  have hv2 : Keeps R s₀ v2 := by
    unfold v2
    with_reducible
      repeat' first
        | assumption | exact sub_trans (by decide +kernel) hR | exact bit_of (by decide +kernel) hR | apply State.put_keeps | apply State.modSet_keeps
        | apply State.modTerm_keeps | apply State.setOperation_keeps | apply State.dropAssignments_keeps | (show Keeps _ _ _; rw [id_eq]) | split
        | intro _ | dsimp only
  try dsimp only
  with_reducible
    repeat' first
      | assumption | exact sub_trans (by decide +kernel) hR | exact bit_of (by decide +kernel) hR | apply State.put_keeps | apply State.modSet_keeps
      | apply State.modTerm_keeps | apply State.setOperation_keeps | apply State.dropAssignments_keeps | (show Keeps _ _ _; rw [id_eq]) | split
      | intro _ | dsimp only

theorem State.rangeGrant_keeps {R : Nat} {s₀ : State} {s : State} (t n : Nat)
    (hR : 0x200000000000000000000000000000000000000000020000000 ||| R = R)
    (hk : Keeps R s₀ s) : Keeps R s₀ (State.rangeGrant t n s) := by
  unfold State.rangeGrant
  try dsimp only
  with_reducible repeat' first | assumption | exact sub_trans (by decide +kernel) hR | apply State.reserve_keeps | split | intro _ | dsimp only

theorem State.rangeAgain_keeps {R : Nat} {s₀ : State} {s : State} (t n : Nat)
    (hR : 0x18020300000003000000000000000000000000000000002a000000 ||| R = R)
    (hk : Keeps R s₀ s) : Keeps R s₀ (State.rangeAgain t n s) := by
  unfold State.rangeAgain
  try dsimp only
  with_reducible
    repeat' first
      | assumption | exact sub_trans (by decide +kernel) hR | exact bit_of (by decide +kernel) hR | apply State.put_keeps | apply State.modSet_keeps
      | apply State.modTerm_keeps | apply State.setOperation_keeps | apply State.rangeGrant_keeps | (show Keeps _ _ _; rw [id_eq]) | split | intro _
      | dsimp only

theorem State.sendDeactivate_keeps {R : Nat} {s₀ : State} {s : State} (t n : Nat)
    (hR : 0x2000000 ||| R = R)
    (hk : Keeps R s₀ s) : Keeps R s₀ (State.sendDeactivate t n s) := by
  unfold State.sendDeactivate
  try dsimp only
  with_reducible repeat' first | assumption | exact sub_trans (by decide +kernel) hR | apply State.ploamPush_keeps | split | intro _ | dsimp only

theorem State.stepMade_keeps {R : Nat} {s₀ : State} {s : State} (t n : Nat) (step : RngStep)
    (hR : 0x8000000 ||| R = R)
    (hk : Keeps R s₀ s) : Keeps R s₀ (State.stepMade t n step s) := by
  unfold State.stepMade
  try dsimp only
  with_reducible repeat' first | assumption | exact sub_trans (by decide +kernel) hR | apply State.modTerm_keeps | split | intro _ | dsimp only

theorem State.enterOperation_keeps {R : Nat} {s₀ : State} {s : State} (t n : Nat)
    (hR : 0x180003000000030000000000000000000000000000000018000001 ||| R = R)
    (hk : Keeps R s₀ s) : Keeps R s₀ (State.enterOperation t n s) := by
  unfold State.enterOperation
  extract_lets v0 v1
  have hv0 : Keeps R s₀ v0 := by
    unfold v0
    with_reducible
      repeat' first
        | assumption | exact sub_trans (by decide +kernel) hR | exact bit_of (by decide +kernel) hR | apply State.put_keeps
        | apply State.modTerm_keeps | apply State.setOperation_keeps | apply State.modAlloc_keeps | apply State.rngCnt_keeps | apply Keeps.foldl
        | apply Keeps.foldl_snd | apply Keeps.foldl_fst | apply Keeps.foldl_build | split | intro _ | dsimp only
  try dsimp only
  with_reducible
    repeat' first
      | assumption | exact sub_trans (by decide +kernel) hR | exact bit_of (by decide +kernel) hR | apply State.put_keeps | apply State.modTerm_keeps
      | apply State.setOperation_keeps | apply State.modAlloc_keeps | apply State.rngCnt_keeps | apply Keeps.foldl | apply Keeps.foldl_snd
      | apply Keeps.foldl_fst | apply Keeps.foldl_build | split | intro _ | dsimp only

theorem State.sendPreAssigned_keeps {R : Nat} {s₀ : State} {s : State} (t k : Nat)
    (hR : 0x2000000 ||| R = R)
    (hk : Keeps R s₀ s) : Keeps R s₀ (State.sendPreAssigned t k s) := by
  unfold State.sendPreAssigned
  try dsimp only
  with_reducible repeat' first | assumption | exact sub_trans (by decide +kernel) hR | apply State.ploamPush_keeps | split | intro _ | dsimp only

theorem State.askQuiet_keeps {R : Nat} {s₀ : State} {s : State} (t : Nat) (forced : Bool) (k : Nat)
    (hR : 0x22000000 ||| R = R)
    (hk : Keeps R s₀ s) : Keeps R s₀ (State.askQuiet t forced k s) := by
  unfold State.askQuiet
  try dsimp only
  with_reducible
    repeat' first
      | assumption | exact sub_trans (by decide +kernel) hR | exact bit_of (by decide +kernel) hR | apply State.setResv_keeps
      | apply State.sendPreAssigned_keeps | exact id | exact fun _ => rfl | exact fun _ _ _ => rfl | split
      | (with_unfolding_all (intro p hp; cases p <;> first | rfl | exact bit_absurd (by decide +kernel) hR hp)) | intro _ | dsimp only
      | apply Keeps.change

theorem execQuietWindowOpen_keeps {R : Nat} {s₀ : State} {s : State} (t k : Nat)
    (hR : 0x100000000000000000000000000020010000000022040001 ||| R = R)
    (hk : Keeps R s₀ s) : ResultKeeps R s₀ (execQuietWindowOpen t k s) := by
  unfold execQuietWindowOpen
  try dsimp only
  with_reducible
    repeat' first
      | assumption | exact sub_trans (by decide +kernel) hR | exact bit_of (by decide +kernel) hR | apply State.put_keeps | apply rangingStep_keeps
      | apply State.rngCnt_keeps | apply State.askQuiet_keeps | apply ResultKeeps.next | split | intro _ | dsimp only

theorem execQuietForce_keeps {R : Nat} {s₀ : State} {s : State} (t : Nat)
    (hR : 0x20010000000022040000 ||| R = R)
    (hk : Keeps R s₀ s) : ResultKeeps R s₀ (execQuietForce t s) := by
  unfold execQuietForce
  try dsimp only
  with_reducible
    repeat' first
      | assumption | exact sub_trans (by decide +kernel) hR | apply rangingStep_keeps | apply State.askQuiet_keeps | apply ResultKeeps.next
      | apply Keeps.foldl | apply Keeps.foldl_snd | apply Keeps.foldl_fst | apply Keeps.foldl_build | split | intro _ | dsimp only

theorem State.moveTerm_keeps {R : Nat} {s₀ : State} {s : State} (t n m : Nat)
    (hR : 0x180007000000030000000000000000000000000000000008000000 ||| R = R)
    (hk : Keeps R s₀ s) : Keeps R s₀ (State.moveTerm t n m s) := by
  unfold State.moveTerm
  try dsimp only
  with_reducible
    repeat' first
      | assumption | exact sub_trans (by decide +kernel) hR | exact bit_of (by decide +kernel) hR
      | exact bits_of (by assumption) (by decide +kernel) hR | exact desc_bits_of (by assumption) (by decide +kernel) hR
      | exact bits_of (by assumption) (by assumption) (Nat.or_self _) | apply State.put_keeps | apply State.modTerm_keeps | apply State.freeTerm_keeps
      | apply Keeps.foldl_mem | apply Keeps.foldl_snd | apply Keeps.foldl_fst | apply Keeps.foldl_build | split | intro _ | dsimp only

theorem State.admitTerm_keeps {R : Nat} {s₀ : State} {s : State} (t n id : Nat)
    (hR : 0x2000000000000000000000000000000000000000008000000 ||| R = R)
    (hk : Keeps R s₀ s) : Keeps R s₀ (State.admitTerm t n id s) := by
  unfold State.admitTerm
  try dsimp only
  with_reducible
    repeat' first
      | assumption | exact sub_trans (by decide +kernel) hR | exact bit_of (by decide +kernel) hR | apply State.put_keeps | apply State.modTerm_keeps
      | (show Keeps _ _ _; rw [id_eq]) | split | intro _ | dsimp only

theorem State.admission_keeps {R : Nat} {s₀ : State} {s : State} (t n : Nat)
    (hR : 0x18000710000003000000000000000000000000000000000a000000 ||| R = R)
    (hk : Keeps R s₀ s) : Keeps R s₀ (State.admission t n s) := by
  unfold State.admission
  try dsimp only
  with_reducible
    repeat' first
      | assumption | exact sub_trans (by decide +kernel) hR | exact bit_of (by decide +kernel) hR | apply State.put_keeps
      | apply State.raiseTree_keeps | apply State.freeTerm_keeps | apply State.sendDeactivate_keeps | apply State.moveTerm_keeps
      | apply State.admitTerm_keeps | (show Keeps _ _ _; rw [id_eq]) | split | intro _ | dsimp only

theorem State.serialFound_keeps {R : Nat} {s₀ : State} {s : State} (t n k method rtd sn : Nat)
    (hR : 0x18000710000003000000000000000000000000000000000a000001 ||| R = R)
    (hk : Keeps R s₀ s) : Keeps R s₀ (State.serialFound t n k method rtd sn s) := by
  unfold State.serialFound
  try dsimp only
  with_reducible
    repeat' first
      | assumption | exact sub_trans (by decide +kernel) hR | exact bit_of (by decide +kernel) hR | apply State.put_keeps
      | apply State.raiseTree_keeps | apply State.modTerm_keeps | apply State.rngCnt_keeps | apply State.setRtd_keeps | apply State.admission_keeps
      | split | intro _ | dsimp only

theorem execSerialNumberFound_keeps {R : Nat} {s₀ : State} {s : State} (t k : Nat) (arrival : Int) (delay sn : Nat)
    (hR : 0x18000710000003000000000000000000002001000000000a040001 ||| R = R)
    (hk : Keeps R s₀ s) : ResultKeeps R s₀ (execSerialNumberFound t k arrival delay sn s) := by
  unfold execSerialNumberFound
  try dsimp only
  with_reducible
    repeat' first
      | assumption | exact sub_trans (by decide +kernel) hR | apply rangingStep_keeps | apply State.serialFound_keeps | apply ResultKeeps.next | split
      | intro _ | dsimp only

theorem execChiffonParams_keeps {R : Nat} {s₀ : State} {s : State} (t : Nat)
    (hR : 0x20010000000006040000 ||| R = R)
    (hk : Keeps R s₀ s) : ResultKeeps R s₀ (execChiffonParams t s) := by
  unfold execChiffonParams
  try dsimp only
  with_reducible
    repeat' first
      | assumption | exact sub_trans (by decide +kernel) hR | apply State.modTree_keeps | apply rangingStep_keeps | apply State.ploamPush_keeps
      | apply State.sendPreAssigned_keeps | apply ResultKeeps.next | split | intro _ | dsimp only

theorem State.showPending_keeps {R : Nat} {s₀ : State} {s : State} (t : Nat)
    (hR : 0x100000000000000000000000000000000000000000000000 ||| R = R)
    (hk : Keeps R s₀ s) : Keeps R s₀ (State.showPending t s) := by
  unfold State.showPending
  try dsimp only
  with_reducible
    repeat' first
      | assumption | exact sub_trans (by decide +kernel) hR | exact bit_of (by decide +kernel) hR | apply State.put_keeps | split | intro _
      | dsimp only

theorem State.detection_keeps {R : Nat} {s₀ : State} {s : State} (t code : Nat) (arrival : Int) (z frames train : Nat)
    (hR : 0x230000003000000000000000000000000000000000c000001 ||| R = R)
    (hk : Keeps R s₀ s) : Keeps R s₀ (State.detection t code arrival z frames train s) := by
  unfold State.detection
  try dsimp only
  with_reducible
    repeat' first
      | assumption | exact sub_trans (by decide +kernel) hR | exact bit_of (by decide +kernel) hR | apply State.put_keeps
      | apply State.raiseTree_keeps | apply State.modTree_keeps | apply State.modTerm_keeps | apply State.rngCnt_keeps | apply State.showPending_keeps
      | split | intro _ | dsimp only

theorem execSignatureDetection_keeps {R : Nat} {s₀ : State} {s : State} (t code : Nat) (lag : Int) (frames : Nat)
    (hR : 0x230000003000000000000000000002001000000000c040001 ||| R = R)
    (hk : Keeps R s₀ s) : ResultKeeps R s₀ (execSignatureDetection t code lag frames s) := by
  unfold execSignatureDetection
  try dsimp only
  with_reducible
    repeat' first
      | assumption | exact sub_trans (by decide +kernel) hR | apply rangingStep_keeps | apply State.detection_keeps | apply ResultKeeps.next | split
      | intro _ | dsimp only

theorem execChiffonInvite_keeps {R : Nat} {s₀ : State} {s : State} (t i m : Nat)
    (hR : 0x20200000000000000000000000000002001000000002a040001 ||| R = R)
    (hk : Keeps R s₀ s) : ResultKeeps R s₀ (execChiffonInvite t i m s) := by
  unfold execChiffonInvite
  try dsimp only
  with_reducible
    repeat' first
      | assumption | exact sub_trans (by decide +kernel) hR | exact bit_of (by decide +kernel) hR | apply State.put_keeps | apply State.modTerm_keeps
      | apply State.reserve_keeps | apply rangingStep_keeps | apply State.rngCnt_keeps | apply State.ploamPush_keeps | apply State.stepMade_keeps
      | apply ResultKeeps.next | split | intro _ | dsimp only

theorem State.dropDetection_keeps {R : Nat} {s₀ : State} {s : State} (t i : Nat)
    (hR : 0x300000000000000000000000000000000000000000000000 ||| R = R)
    (hk : Keeps R s₀ s) : Keeps R s₀ (State.dropDetection t i s) := by
  unfold State.dropDetection
  try dsimp only
  with_reducible
    repeat' first
      | assumption | exact sub_trans (by decide +kernel) hR | exact bit_of (by decide +kernel) hR | apply State.put_keeps
      | apply State.showPending_keeps | split | intro _ | dsimp only

theorem State.takeRange_keeps {R : Nat} {s₀ : State} {s : State} (t k n : Nat)
    (hR : 0x2000000 ||| R = R)
    (hk : Keeps R s₀ s) : Keeps R s₀ (State.takeRange t k n s).2 := by
  unfold State.takeRange
  try dsimp only
  with_reducible repeat' first | assumption | exact sub_trans (by decide +kernel) hR | apply State.modSet_keeps | split | intro _ | dsimp only

theorem State.takeRange_keeps_pair {R : Nat} {s₀ : State} {s s' : State} {r : RangeResult} {t k n : Nat}
    (hR : 0x2000000 ||| R = R) (heq : State.takeRange t k n s = (r, s'))
    (hk : Keeps R s₀ s) : Keeps R s₀ s' := by
  have := State.takeRange_keeps t k n hR hk
  rwa [heq] at this

theorem execMicroWindowResult_keeps {R : Nat} {s₀ : State} {s : State} (t i : Nat)
    (hR : 0x18000730000003000000000000000000002001000000000a040001 ||| R = R)
    (hk : Keeps R s₀ s) : ResultKeeps R s₀ (execMicroWindowResult t i s) := by
  unfold execMicroWindowResult
  try dsimp only
  with_reducible
    repeat' first
      | assumption | exact sub_trans (by decide +kernel) hR | exact bit_of (by decide +kernel) hR | apply State.put_keeps | apply rangingStep_keeps
      | apply State.rngCnt_keeps | apply State.freeTerm_keeps | apply State.serialFound_keeps | apply State.dropDetection_keeps
      | apply State.takeRange_keeps | refine State.takeRange_keeps_pair ?_ (by assumption) ?_ | apply ResultKeeps.next | split | intro _ | dsimp only

theorem execAdmitWaitExpiry_keeps {R : Nat} {s₀ : State} {s : State} (t n : Nat)
    (hR : 0x18000700000003000000000000000000002001000000000a040000 ||| R = R)
    (hk : Keeps R s₀ s) : ResultKeeps R s₀ (execAdmitWaitExpiry t n s) := by
  unfold execAdmitWaitExpiry
  try dsimp only
  with_reducible
    repeat' first
      | assumption | exact sub_trans (by decide +kernel) hR | apply State.raiseTree_keeps | apply rangingStep_keeps | apply State.freeTerm_keeps
      | apply State.sendDeactivate_keeps | apply ResultKeeps.next | split | intro _ | dsimp only

theorem execChiffonHold_keeps {R : Nat} {s₀ : State} {s : State} (t n : Nat)
    (hR : 0x2001000000000a040000 ||| R = R)
    (hk : Keeps R s₀ s) : ResultKeeps R s₀ (execChiffonHold t n s) := by
  unfold execChiffonHold
  try dsimp only
  with_reducible
    repeat' first
      | assumption | exact sub_trans (by decide +kernel) hR | apply rangingStep_keeps | apply State.ploamPush_keeps | apply State.stepMade_keeps
      | apply ResultKeeps.next | split | intro _ | dsimp only

theorem execAssignOnuId_keeps {R : Nat} {s₀ : State} {s : State} (t n : Nat)
    (hR : 0x20000000000000000000000000000002001000000002a040000 ||| R = R)
    (hk : Keeps R s₀ s) : ResultKeeps R s₀ (execAssignOnuId t n s) := by
  unfold execAssignOnuId
  try dsimp only
  with_reducible
    repeat' first
      | assumption | exact sub_trans (by decide +kernel) hR | apply State.modTerm_keeps | apply rangingStep_keeps | apply State.ploamPush_keeps
      | apply State.rangeGrant_keeps | apply State.stepMade_keeps | apply ResultKeeps.next | (show Keeps _ _ _; rw [id_eq]) | split | intro _
      | dsimp only

theorem execRangingGrantResult_keeps {R : Nat} {s₀ : State} {s : State} (t n : Nat)
    (hR : 0x18020700000003000000000000000000002001000000002a040000 ||| R = R)
    (hk : Keeps R s₀ s) : ResultKeeps R s₀ (execRangingGrantResult t n s) := by
  unfold execRangingGrantResult
  try dsimp only
  with_reducible
    repeat' first
      | assumption | exact sub_trans (by decide +kernel) hR | apply State.modTerm_keeps | apply rangingStep_keeps | apply State.ploamPush_keeps
      | apply State.setRtd_keeps | apply State.freeTerm_keeps | apply State.rangeGrant_keeps | apply State.takeRange_keeps
      | refine State.takeRange_keeps_pair ?_ (by assumption) ?_ | apply ResultKeeps.next | split | intro _ | dsimp only

theorem execAssignAllocId_keeps {R : Nat} {s₀ : State} {s : State} (t a : Nat)
    (hR : 0x2001000000001a040000 ||| R = R)
    (hk : Keeps R s₀ s) : ResultKeeps R s₀ (execAssignAllocId t a s) := by
  unfold execAssignAllocId
  try dsimp only
  with_reducible
    repeat' first
      | assumption | exact sub_trans (by decide +kernel) hR | apply State.modAlloc_keeps | apply rangingStep_keeps | apply State.ploamPush_keeps
      | apply State.stepMade_keeps | apply ResultKeeps.next | (show Keeps _ _ _; rw [id_eq]) | split | intro _ | dsimp only

theorem State.corrected_keeps {R : Nat} {s₀ : State} {s : State} (t m n : Nat)
    (hR : 0x2000000000000000000000000000000000000000008000001 ||| R = R)
    (hk : Keeps R s₀ s) : Keeps R s₀ (State.corrected t m n s) := by
  unfold State.corrected
  try dsimp only
  with_reducible
    repeat' first
      | assumption | exact sub_trans (by decide +kernel) hR | apply State.modTerm_keeps | apply State.rngCnt_keeps | apply State.setRtd_keeps | split
      | intro _ | dsimp only

theorem State.ploamSent_keeps {R : Nat} {s₀ : State} {s : State} (t k : Nat) (m : Ploam)
    (hR : 0x180003000000030000000000000000000000000000000018000001 ||| R = R)
    (hk : Keeps R s₀ s) : Keeps R s₀ (State.ploamSent t k m s) := by
  unfold State.ploamSent
  try dsimp only
  with_reducible
    repeat' first
      | assumption | exact sub_trans (by decide +kernel) hR | apply State.modAlloc_keeps | apply State.enterOperation_keeps
      | apply State.corrected_keeps | (show Keeps _ _ _; rw [id_eq]) | apply Keeps.foldl | apply Keeps.foldl_snd | apply Keeps.foldl_fst
      | apply Keeps.foldl_build | split | intro _ | dsimp only

theorem State.abandonStep_keeps {R : Nat} {s₀ : State} {s : State} (t n : Nat) (step : RngStep)
    (hR : 0x18000730000003000000000000000000000000000000001a000000 ||| R = R)
    (hk : Keeps R s₀ s) : Keeps R s₀ (State.abandonStep t n step s) := by
  unfold State.abandonStep
  try dsimp only
  with_reducible
    repeat' first
      | assumption | exact sub_trans (by decide +kernel) hR | apply State.raiseTree_keeps | apply State.modTerm_keeps | apply State.freeTerm_keeps
      | apply State.dropAssignments_keeps | apply State.loseTerm_keeps | apply State.stepMade_keeps | apply State.dropDetection_keeps | split
      | intro _ | dsimp only

theorem execStepMissed_keeps {R : Nat} {s₀ : State} {s : State} (t : Nat) (terminal : Option Nat) (step : RngStep)
    (hR : 0x18000730000003000000000000000000002001000000001e040001 ||| R = R)
    (hk : Keeps R s₀ s) : ResultKeeps R s₀ (execStepMissed t terminal step s) := by
  unfold execStepMissed
  try dsimp only
  with_reducible
    repeat' first
      | assumption | exact sub_trans (by decide +kernel) hR | apply State.raiseTree_keeps | apply State.modTree_keeps | apply State.modTerm_keeps
      | apply rangingStep_keeps | apply State.rngCnt_keeps | apply State.stepMade_keeps | apply State.abandonStep_keeps | apply ResultKeeps.next
      | split | intro _ | dsimp only

theorem State.noteDrift_keeps {R : Nat} {s₀ : State} {s : State} (t n frame rate : Nat) (drift : Int)
    (hR : 0x8000000 ||| R = R)
    (hk : Keeps R s₀ s) : Keeps R s₀ (State.noteDrift t n frame rate drift s) := by
  unfold State.noteDrift
  try dsimp only
  with_reducible repeat' first | assumption | exact sub_trans (by decide +kernel) hR | apply State.modTerm_keeps | split | intro _ | dsimp only

theorem execDriftCorrection_keeps {R : Nat} {s₀ : State} {s : State} (t n : Nat)
    (hR : 0x2001000000000a040000 ||| R = R)
    (hk : Keeps R s₀ s) : ResultKeeps R s₀ (execDriftCorrection t n s) := by
  unfold execDriftCorrection
  try dsimp only
  with_reducible
    repeat' first
      | assumption | exact sub_trans (by decide +kernel) hR | apply State.modTerm_keeps | apply rangingStep_keeps | apply State.ploamPush_keeps
      | apply State.stepMade_keeps | apply ResultKeeps.next | split | intro _ | dsimp only

theorem execTerminalLost_keeps {R : Nat} {s₀ : State} {s : State} (t n : Nat)
    (hR : 0x18000300000003000000000000000000002001000000001a040000 ||| R = R)
    (hk : Keeps R s₀ s) : ResultKeeps R s₀ (execTerminalLost t n s) := by
  unfold execTerminalLost
  try dsimp only
  with_reducible
    repeat' first
      | assumption | exact sub_trans (by decide +kernel) hR | apply State.raiseTree_keeps | apply rangingStep_keeps | apply State.loseTerm_keeps
      | apply ResultKeeps.next | split | intro _ | dsimp only

theorem State.rogueBurst_keeps {R : Nat} {s₀ : State} {s : State} (t m : Nat)
    (hR : 0x18020310000003000000000000000000000000000000003a000000 ||| R = R)
    (hk : Keeps R s₀ s) : Keeps R s₀ (State.rogueBurst t m s) := by
  unfold State.rogueBurst
  try dsimp only
  with_reducible
    repeat' first
      | assumption | exact sub_trans (by decide +kernel) hR | exact bit_of (by decide +kernel) hR | apply State.put_keeps
      | apply State.raiseTree_keeps | apply State.modTerm_keeps | apply State.loseTerm_keeps | apply State.rangeAgain_keeps
      | apply State.sendDeactivate_keeps | split | intro _ | dsimp only

theorem State.rngResult_keeps {R : Nat} {s₀ : State} {s : State} (t r : Nat)
    (hR : 0x100000000000000000000000000000000000000000000000 ||| R = R)
    (hk : Keeps R s₀ s) : Keeps R s₀ (State.rngResult t r s) := by
  unfold State.rngResult
  try dsimp only
  with_reducible
    repeat' first
      | assumption | exact sub_trans (by decide +kernel) hR | exact bit_of (by decide +kernel) hR | apply State.put_keeps | split | intro _
      | dsimp only

theorem hostStep_keeps {R : Nat} {s₀ : State} (t : Nat) {s : State} {r : Result} (hR : 0x100000000000000000000000000020010000000000040000 ||| R = R) (k : Keeps R s₀ s)
    (h : ResultKeeps R s₀ r) : ResultKeeps R s₀ (hostStep t s r) := by
  unfold hostStep
  split
  · exact ResultKeeps.next (State.rngResult_keeps t 1 (sub_trans (by decide +kernel) hR) k)
  · exact tellRanging_keeps t s (sub_trans (by decide +kernel) hR) h

theorem execAdmit_keeps {R : Nat} {s₀ : State} {s : State} (t n id : Nat)
    (hR : 0x2100000000000000000000000000020010000000008040000 ||| R = R)
    (hk : Keeps R s₀ s) : ResultKeeps R s₀ (execAdmit t n id s) := by
  unfold execAdmit
  try dsimp only
  with_reducible
    repeat' first
      | assumption | exact sub_trans (by decide +kernel) hR | apply State.admitTerm_keeps | apply State.rngResult_keeps | apply hostStep_keeps
      | apply ResultKeeps.next | (show Keeps _ _ _; rw [id_eq]) | split | intro _ | dsimp only

theorem execDeny_keeps {R : Nat} {s₀ : State} {s : State} (t n : Nat)
    (hR : 0x18000710000003000000000000000000002001000000000a040000 ||| R = R)
    (hk : Keeps R s₀ s) : ResultKeeps R s₀ (execDeny t n s) := by
  unfold execDeny
  try dsimp only
  with_reducible
    repeat' first
      | assumption | exact sub_trans (by decide +kernel) hR | apply State.freeTerm_keeps | apply State.sendDeactivate_keeps
      | apply State.rngResult_keeps | apply hostStep_keeps | apply ResultKeeps.next | split | intro _ | dsimp only

theorem execRerange_keeps {R : Nat} {s₀ : State} {s : State} (t n : Nat)
    (hR : 0x18020310000003000000000000000000002001000000002a040000 ||| R = R)
    (hk : Keeps R s₀ s) : ResultKeeps R s₀ (execRerange t n s) := by
  unfold execRerange
  try dsimp only
  with_reducible
    repeat' first
      | assumption | exact sub_trans (by decide +kernel) hR | apply State.rangeAgain_keeps | apply State.rngResult_keeps | apply hostStep_keeps
      | apply ResultKeeps.next | split | intro _ | dsimp only

theorem execDeactivate_keeps {R : Nat} {s₀ : State} {s : State} (t n : Nat)
    (hR : 0x18000730000003000000000000000000002001000000001a040000 ||| R = R)
    (hk : Keeps R s₀ s) : ResultKeeps R s₀ (execDeactivate t n s) := by
  unfold execDeactivate
  try dsimp only
  with_reducible
    repeat' first
      | assumption | exact sub_trans (by decide +kernel) hR | apply State.freeTerm_keeps | apply State.loseTerm_keeps
      | apply State.sendDeactivate_keeps | apply State.dropDetection_keeps | apply State.rngResult_keeps | apply hostStep_keeps
      | apply ResultKeeps.next | split | intro _ | dsimp only

theorem execFree_keeps {R : Nat} {s₀ : State} {s : State} (t n : Nat)
    (hR : 0x180007100000030000000000000000000020010000000008040000 ||| R = R)
    (hk : Keeps R s₀ s) : ResultKeeps R s₀ (execFree t n s) := by
  unfold execFree
  try dsimp only
  with_reducible
    repeat' first
      | assumption | exact sub_trans (by decide +kernel) hR | apply State.freeTerm_keeps | apply State.rngResult_keeps | apply hostStep_keeps
      | apply ResultKeeps.next | split | intro _ | dsimp only

end Sys2Proof.Machine
end

