-- ==== Sys2Proof/Laws/KeepsCircuits.lean ====
section
/-!
SUPPORT. Every operation of Machine/Circuits.lean keeps what `Keeps` names.
-/

namespace Sys2Proof.Machine

set_option Elab.async false
set_option linter.all false

theorem State.putContainer_keeps {R : Nat} {s₀ : State} {s : State} (lead c n m k : Nat) (j : Just) (cf : Bool) (bs : List Bool)
    (hR : 0x2000001 ||| R = R)
    (hk : Keeps R s₀ s) : Keeps R s₀ (State.putContainer lead c n m k j cf bs s) := by
  unfold State.putContainer
  try dsimp only
  with_reducible
    repeat' first
      | assumption | exact sub_trans (by decide +kernel) hR | apply State.modSet_keeps | apply State.circCnt_keeps | split | intro _ | dsimp only

theorem State.putContainers_keeps {R : Nat} {s₀ : State} {s : State} (lead n : Nat) (j : Just) (cf : Bool) (bs : List Bool)
    (hR : 0x2000001 ||| R = R)
    (hk : Keeps R s₀ s) : Keeps R s₀ (State.putContainers lead n j cf bs s) := by
  unfold State.putContainers
  try dsimp only
  with_reducible
    repeat' first
      | assumption | exact sub_trans (by decide +kernel) hR | apply State.putContainer_keeps | apply Keeps.foldl | apply Keeps.foldl_snd
      | apply Keeps.foldl_fst | apply Keeps.foldl_build | split | intro _ | dsimp only

theorem State.runAll_keeps {R : Nat} {s₀ : State} {s : State} (lead v : Nat)
    (hR : 0x2000000000000000000000000080000000000000000000000000000000000000000000000000000 ||| R = R)
    (hk : Keeps R s₀ s) : Keeps R s₀ (State.runAll lead v s) := by
  unfold State.runAll
  try dsimp only
  with_reducible
    repeat' first
      | assumption | exact sub_trans (by decide +kernel) hR | apply State.setRun_keeps | apply Keeps.foldl | apply Keeps.foldl_snd
      | apply Keeps.foldl_fst | apply Keeps.foldl_build | split | intro _ | dsimp only

theorem execContainerBuild_keeps {R : Nat} {s₀ : State} {s : State} (c : Nat)
    (hR : 0x3000000000000000000000000180000000000030000000000000000000000000000000082000001 ||| R = R)
    (hk : Keeps R s₀ s) : ResultKeeps R s₀ (execContainerBuild c s) := by
  unfold execContainerBuild
  try dsimp only
  with_reducible
    repeat' first
      | assumption | exact sub_trans (by decide +kernel) hR | exact bit_of (by decide +kernel) hR | apply State.put_keeps | apply State.modCirc_keeps
      | apply State.circCnt_keeps | apply State.circRaw_keeps | apply State.judgeCircuit_keeps | apply State.putContainers_keeps
      | apply State.runAll_keeps | apply ResultKeeps.next | split | intro _ | dsimp only

theorem execContainerMissing_keeps {R : Nat} {s₀ : State} {s : State} (c : Nat)
    (hR : 0x2000001 ||| R = R)
    (hk : Keeps R s₀ s) : ResultKeeps R s₀ (execContainerMissing c s) := by
  unfold execContainerMissing
  try dsimp only
  with_reducible
    repeat' first
      | assumption | exact sub_trans (by decide +kernel) hR | apply State.circCnt_keeps | apply State.putContainer_keeps | apply ResultKeeps.next
      | split | intro _ | dsimp only

theorem State.playIn_keeps {R : Nat} {s₀ : State} {s : State} (c : Nat) (p : CePkt)
    (hR : 0x3000000000000000000000000080000000000000000000000000000000000000000000080000001 ||| R = R)
    (hk : Keeps R s₀ s) : Keeps R s₀ (State.playIn c p s) := by
  unfold State.playIn
  try dsimp only
  with_reducible
    repeat' first
      | assumption | exact sub_trans (by decide +kernel) hR | exact bit_of (by decide +kernel) hR | apply State.put_keeps | apply State.modCirc_keeps
      | apply State.circCnt_keeps | apply State.circRaw_keeps | apply State.runAll_keeps | split | intro _ | dsimp only

theorem execCePacketReceive_keeps {R : Nat} {s₀ : State} {s : State} (d : Nat)
    (hR : 0x3000000000000010100000000180000000000030000000000000000000000400000000080000001 ||| R = R)
    (hk : Keeps R s₀ s) : ResultKeeps R s₀ (execCePacketReceive d s) := by
  unfold execCePacketReceive
  try dsimp only
  with_reducible
    repeat' first
      | assumption | exact sub_trans (by decide +kernel) hR | exact bit_of (by decide +kernel) hR | apply State.separation_keeps
      | apply State.judgeCircuit_keeps | apply State.playIn_keeps | apply ResultKeeps.next | exact id | exact fun _ => rfl | exact fun _ _ _ => rfl
      | split | (with_unfolding_all (intro p hp; cases p <;> first | rfl | exact bit_absurd (by decide +kernel) hR hp)) | intro _ | dsimp only
      | apply Keeps.set_ceWaiting | apply Keeps.change

theorem State.cePacketOut_keeps {R : Nat} {s₀ : State} {s : State} (c frame seq : Nat) (payload : List Nat)
    (hR : 0x10164000000000000000000030000000000000000000012002c00000081003001 ||| R = R)
    (hk : Keeps R s₀ s) : Keeps R s₀ (State.cePacketOut c frame seq payload s) := by
  unfold State.cePacketOut
  try dsimp only
  with_reducible
    repeat' first
      | assumption | exact sub_trans (by decide +kernel) hR | apply State.modCirc_keeps | apply State.circCnt_keeps | apply State.toPort_keeps | split
      | intro _ | dsimp only

theorem State.assemble_keeps {R : Nat} {s₀ : State} {s : State} (c : Nat) (g : FrameIn) (x2 x3 : Nat) (x4 : List Bool)
    (hR : 0x6000000000000010164000000000000000000030000000000000000000012002c00000081003001 ||| R = R)
    (hk : Keeps R s₀ s) : Keeps R s₀ (State.assemble c g x2 x3 x4 s) := by
  induction x2 generalizing s x3 x4 with
  | zero =>
    unfold State.assemble
    try dsimp only
    with_reducible
      repeat' first
        | assumption | exact sub_trans (by decide +kernel) hR | exact bit_of (by decide +kernel) hR | apply State.put_keeps
        | apply State.modCirc_keeps | apply State.cePacketOut_keeps | split | intro _ | dsimp only
  | succ n ih =>
    unfold State.assemble
    try dsimp only
    with_reducible
      repeat' first
        | assumption | exact sub_trans (by decide +kernel) hR | exact bit_of (by decide +kernel) hR | apply ih | apply State.put_keeps
        | apply State.modCirc_keeps | apply State.cePacketOut_keeps | split | intro _ | dsimp only

theorem State.assembleAll_keeps {R : Nat} {s₀ : State} {s : State} (c : Nat) (g : FrameIn) (bs : List Bool)
    (hR : 0x6000000000000010164000000000000000000030000000000000000000012002c00000081003001 ||| R = R)
    (hk : Keeps R s₀ s) : Keeps R s₀ (State.assembleAll c g bs s) := by
  unfold State.assembleAll
  try dsimp only
  with_reducible repeat' first | assumption | exact sub_trans (by decide +kernel) hR | apply State.assemble_keeps | split | intro _ | dsimp only

theorem State.demap_keeps {R : Nat} {s₀ s : State} (c header : Nat) (data : List Nat) (hR : 0x80000000000000000000000000000000000000000000080000001 ||| R = R) (hk : Keeps R s₀ s) :
    Keeps R s₀ (State.demap c header data s).2 := by
  unfold State.demap
  split
  split
  extract_lets _ _ _ _ _ _ _ s1 x s2 s3
  have h1 : Keeps R s₀ s1 := by
    unfold s1
    with_reducible
      repeat' first
        | assumption | exact sub_trans (by decide +kernel) hR | exact bit_of (by decide +kernel) hR
        | apply State.put_keeps | apply State.modCirc_keeps | apply State.circCnt_keeps
  have h2 : Keeps R s₀ s2 := by
    unfold s2
    with_reducible
      repeat' first
        | assumption | exact sub_trans (by decide +kernel) hR | exact bit_of (by decide +kernel) hR | apply State.circRaw_keeps | split
  show Keeps R s₀ s3
  unfold s3
  with_reducible
    repeat' first
      | assumption | exact sub_trans (by decide +kernel) hR | exact bit_of (by decide +kernel) hR | apply State.circRaw_keeps | split

theorem State.demap_keeps_pair {R : Nat} {s₀ s s' : State} {r : Demapped} {c header : Nat} {data : List Nat} (hR : 0x80000000000000000000000000000000000000000000080000001 ||| R = R)
    (heq : State.demap c header data s = (r, s')) (hk : Keeps R s₀ s) : Keeps R s₀ s' := by
  have := State.demap_keeps c header data hR hk
  rwa [heq] at this

theorem State.fillOnes_keeps {R : Nat} {s₀ : State} {s : State} (c frame x2 : Nat)
    (hR : 0x6000000000000010164000000000000000000030000000000000000000012002c00000081003001 ||| R = R)
    (hk : Keeps R s₀ s) : Keeps R s₀ (State.fillOnes c frame x2 s) := by
  induction x2 generalizing s with
  | zero =>
    unfold State.fillOnes
    try dsimp only
    with_reducible
      repeat' first
        | assumption | exact sub_trans (by decide +kernel) hR | exact bit_of (by decide +kernel) hR | apply State.put_keeps
        | apply State.circCnt_keeps | apply State.assembleAll_keeps | split | intro _ | dsimp only
  | succ n ih =>
    unfold State.fillOnes
    try dsimp only
    with_reducible
      repeat' first
        | assumption | exact sub_trans (by decide +kernel) hR | exact bit_of (by decide +kernel) hR | apply ih | apply State.put_keeps
        | apply State.circCnt_keeps | apply State.assembleAll_keeps | split | intro _ | dsimp only

theorem State.singleIn_keeps {R : Nat} {s₀ : State} {s : State} (c frame : Nat) (m : Demapped)
    (hR : 0x6000000000000010164000000000000000000030000000000000000000012002c00000081003001 ||| R = R)
    (hk : Keeps R s₀ s) : Keeps R s₀ (State.singleIn c frame m s) := by
  unfold State.singleIn
  try dsimp only
  with_reducible
    repeat' first
      | assumption | exact sub_trans (by decide +kernel) hR | exact bit_of (by decide +kernel) hR | apply State.put_keeps | apply State.modCirc_keeps
      | apply State.circCnt_keeps | apply State.assembleAll_keeps | apply State.fillOnes_keeps | split | intro _ | dsimp only

theorem State.memberIn_keeps {R : Nat} {s₀ : State} {s : State} (c frame : Nat) (m : Demapped)
    (hR : 0x42000000000000000000000000000000000000000000000000000000000010000000000101000001 ||| R = R)
    (hk : Keeps R s₀ s) : Keeps R s₀ (State.memberIn c frame m s) := by
  unfold State.memberIn
  extract_lets v0 v1 v2 v3
  have hv1 : Keeps R s₀ v1 := by
    unfold v1
    with_reducible
      repeat' first
        | assumption | exact sub_trans (by decide +kernel) hR | exact bit_of (by decide +kernel) hR | apply State.put_keeps
        | apply State.useFree_keeps | apply State.modGrp_keeps | apply State.circCnt_keeps | apply State.crossBytes_keeps | split | intro _
        | dsimp only
  have hv3 : Keeps R s₀ v3 := by
    unfold v3
    with_reducible
      repeat' first
        | assumption | exact sub_trans (by decide +kernel) hR | exact bit_of (by decide +kernel) hR | apply State.put_keeps
        | apply State.useFree_keeps | apply State.modGrp_keeps | apply State.circCnt_keeps | apply State.crossBytes_keeps | split | intro _
        | dsimp only
  try dsimp only
  with_reducible
    repeat' first
      | assumption | exact sub_trans (by decide +kernel) hR | exact bit_of (by decide +kernel) hR | apply State.put_keeps | apply State.useFree_keeps
      | apply State.modGrp_keeps | apply State.circCnt_keeps | apply State.crossBytes_keeps | split | intro _ | dsimp only

theorem execContainerReceive_keeps {R : Nat} {s₀ : State} {s : State} (c : Nat)
    (hR : 0x46000000000000010164000000180000000000030000000000000000000012002c00000181003001 ||| R = R)
    (hk : Keeps R s₀ s) : ResultKeeps R s₀ (execContainerReceive c s) := by
  unfold execContainerReceive
  try dsimp only
  with_reducible
    repeat' first
      | assumption | exact sub_trans (by decide +kernel) hR | apply State.passBytes_keeps | apply State.modCirc_keeps | apply State.judgeCircuit_keeps
      | apply State.demap_keeps | refine State.demap_keeps_pair ?_ (by assumption) ?_ | apply State.singleIn_keeps | apply State.memberIn_keeps
      | apply ResultKeeps.next | apply Keeps.foldl | apply Keeps.foldl_snd | apply Keeps.foldl_fst | apply Keeps.foldl_build | split | intro _
      | dsimp only

theorem State.releaseFrame_keeps {R : Nat} {s₀ : State} {s : State} (u : Nat) (g : GroupFrame)
    (hR : 0x46000000000000010164000000100000000000030000000000000000000012002c00000181003001 ||| R = R)
    (hk : Keeps R s₀ s) : Keeps R s₀ (State.releaseFrame u g s) := by
  unfold State.releaseFrame
  extract_lets v0 v1 v2 v3 v4 v5 v6 v7 v8 v9 v10 v11 v12 v13
  have hv8 : Keeps R s₀ v8 := by
    unfold v8
    with_reducible
      repeat' first
        | assumption | exact sub_trans (by decide +kernel) hR | exact bit_of (by decide +kernel) hR | apply State.put_keeps | apply State.modGrp_keeps
        | apply State.circCnt_keeps | apply State.judgeGroup_keeps | apply State.assembleAll_keeps | apply Keeps.foldl | apply Keeps.foldl_snd
        | apply Keeps.foldl_fst | apply Keeps.foldl_build | split | intro _ | dsimp only
  have hv10 : Keeps R s₀ v10 := by
    unfold v10
    with_reducible
      repeat' first
        | assumption | exact sub_trans (by decide +kernel) hR | exact bit_of (by decide +kernel) hR | apply State.put_keeps | apply State.modGrp_keeps
        | apply State.circCnt_keeps | apply State.judgeGroup_keeps | apply State.assembleAll_keeps | apply Keeps.foldl | apply Keeps.foldl_snd
        | apply Keeps.foldl_fst | apply Keeps.foldl_build | split | intro _ | dsimp only
  have hv11 : Keeps R s₀ v11 := by
    unfold v11
    with_reducible
      repeat' first
        | assumption | exact sub_trans (by decide +kernel) hR | exact bit_of (by decide +kernel) hR | apply State.put_keeps | apply State.modGrp_keeps
        | apply State.circCnt_keeps | apply State.judgeGroup_keeps | apply State.assembleAll_keeps | apply Keeps.foldl | apply Keeps.foldl_snd
        | apply Keeps.foldl_fst | apply Keeps.foldl_build | split | intro _ | dsimp only
  try dsimp only
  with_reducible
    repeat' first
      | assumption | exact sub_trans (by decide +kernel) hR | exact bit_of (by decide +kernel) hR | apply State.put_keeps | apply State.modGrp_keeps
      | apply State.circCnt_keeps | apply State.judgeGroup_keeps | apply State.assembleAll_keeps | apply Keeps.foldl | apply Keeps.foldl_snd
      | apply Keeps.foldl_fst | apply Keeps.foldl_build | split | intro _ | dsimp only

theorem State.releaseEmpty_keeps {R : Nat} {s₀ : State} {s : State} (u frame x2 : Nat)
    (hR : 0x46000000000000010164000000100000000000030000000000000000000012002c00000181003001 ||| R = R)
    (hk : Keeps R s₀ s) : Keeps R s₀ (State.releaseEmpty u frame x2 s) := by
  induction x2 generalizing s with
  | zero =>
    unfold State.releaseEmpty
    try dsimp only
    with_reducible repeat' first | assumption | exact sub_trans (by decide +kernel) hR | apply State.releaseFrame_keeps | split | intro _ | dsimp only
  | succ n ih =>
    unfold State.releaseEmpty
    try dsimp only
    with_reducible
      repeat' first
        | assumption | exact sub_trans (by decide +kernel) hR | apply ih | apply State.releaseFrame_keeps | split | intro _ | dsimp only

theorem execGroupRelease_keeps {R : Nat} {s₀ : State} {s : State} (d g : Nat)
    (hR : 0x46000000000000010164000000100000000000030000000000000000000012002c00000181003001 ||| R = R)
    (hk : Keeps R s₀ s) : ResultKeeps R s₀ (execGroupRelease d g s) := by
  unfold execGroupRelease
  try dsimp only
  with_reducible
    repeat' first
      | assumption | exact sub_trans (by decide +kernel) hR | apply State.modGrp_keeps | apply State.releaseFrame_keeps
      | apply State.releaseEmpty_keeps | apply ResultKeeps.next | split | intro _ | dsimp only

theorem State.circuitsFrameEnd_keeps {R : Nat} {s₀ s : State} (t k frame : Nat) (hR : 0x6000000000000010164000000180000000000030000000000000000000012002c00000081003001 ||| R = R) (hk : Keeps R s₀ s) :
    Keeps R s₀ (State.circuitsFrameEnd t k frame s) := by
  unfold State.circuitsFrameEnd
  refine Keeps.foldl hk ?_
  intro s c h
  extract_lets got v1 miss good v2 was v3 v4
  have h1 : Keeps R s₀ v1 := State.modCirc_keeps _ _ (sub_trans (by decide +kernel) hR) h
  have h2 : Keeps R s₀ v2 := by
    unfold v2
    with_reducible repeat' first | assumption | exact sub_trans (by decide +kernel) hR | exact bit_of (by decide +kernel) hR | apply State.put_keeps
  have h3 : Keeps R s₀ v3 := by
    unfold v3
    with_reducible repeat' first | assumption | exact sub_trans (by decide +kernel) hR | exact bit_of (by decide +kernel) hR | apply State.circRaw_keeps | split
  have h4 : Keeps R s₀ v4 := by
    unfold v4
    with_reducible repeat' first | assumption | exact sub_trans (by decide +kernel) hR | exact bit_of (by decide +kernel) hR | apply State.fillOnes_keeps | split
  exact State.judgeCircuit_keeps _ (sub_trans (by decide +kernel) hR) h4

theorem State.sendCircuits_keeps {R : Nat} {s₀ : State} {s : State} (t k : Nat)
    (hR : 0x20010000000000040000 ||| R = R)
    (hk : Keeps R s₀ s) : Keeps R s₀ (State.sendCircuits t k s) := by
  unfold State.sendCircuits
  try dsimp only
  with_reducible repeat' first | assumption | exact sub_trans (by decide +kernel) hR | apply State.sendRecords_keeps | split | intro _ | dsimp only

theorem State.circDone_keeps {R : Nat} {s₀ : State} {s : State} (d r : Nat)
    (hR : 0x10000000000000000000000000000000000000000000000000000 ||| R = R)
    (hk : Keeps R s₀ s) : Keeps R s₀ (State.circDone d r s) := by
  unfold State.circDone
  try dsimp only
  with_reducible
    repeat' first
      | assumption | exact sub_trans (by decide +kernel) hR | exact bit_of (by decide +kernel) hR | apply State.put_keeps | split | intro _
      | dsimp only

theorem execCircAccRead_keeps {R : Nat} {s₀ : State} {s : State} (d : Nat) (group : Bool) (index : Nat)
    (hR : 0x50000000000000000000000000000000000000000000000000000 ||| R = R)
    (hk : Keeps R s₀ s) : ResultKeeps R s₀ (execCircAccRead d group index s) := by
  unfold execCircAccRead
  try dsimp only
  with_reducible
    repeat' first
      | assumption | exact sub_trans (by decide +kernel) hR | exact bit_of (by decide +kernel) hR | apply State.putWords_keeps
      | apply State.circDone_keeps | apply ResultKeeps.next | split | intro _ | dsimp only

theorem execCircAccWrite_keeps {R : Nat} {s₀ : State} {s : State} (d : Nat) (group : Bool) (index : Nat)
    (hR : 0x7ff00000000000000000000000010000000000000000000000000000000000000800000080000000 ||| R = R)
    (hk : Keeps R s₀ s) : ResultKeeps R s₀ (execCircAccWrite d group index s) := by
  unfold execCircAccWrite
  try dsimp only
  with_reducible
    repeat' first
      | assumption | exact sub_trans (by decide +kernel) hR | exact bit_of (by decide +kernel) hR | exact all_bits_of (by decide +kernel) hR
      | apply State.unpackRec_keeps | apply State.modCirc_keeps | apply State.circDone_keeps | apply ResultKeeps.next | split | intro _ | dsimp only

theorem State.circAlloc_keeps {R : Nat} {s₀ s : State} (c cls : Nat) (hR : 0x1fc0000000000000000000000800000000030000000000000000000000000000000010000000 ||| R = R) (hk : Keeps R s₀ s) :
    Keeps R s₀ (State.circAlloc c cls s).2 := by
  unfold State.circAlloc
  extract_lets
  exact State.writeAlloc_keeps _ _ _ _ (sub_trans (by decide +kernel) hR) hk

theorem State.circAlloc_keeps_pair {R : Nat} {s₀ s s' : State} {r c cls : Nat} (hR : 0x1fc0000000000000000000000800000000030000000000000000000000000000000010000000 ||| R = R)
    (heq : State.circAlloc c cls s = (r, s')) (hk : Keeps R s₀ s) : Keeps R s₀ s' := by
  have := State.circAlloc_keeps c cls hR hk
  rwa [heq] at this

theorem execCircuitEnable_keeps {R : Nat} {s₀ s : State} (d index : Nat) (hR : 0x7f01fc0000000000000000000090800000000030000000000000000000000000000078090000000 ||| R = R) (hk : Keeps R s₀ s) :
    ResultKeeps R s₀ (execCircuitEnable d index s) := by
  unfold execCircuitEnable
  extract_lets c isLead label
  split
  · exact ResultKeeps.next (State.circDone_keeps d 3 (sub_trans (by decide +kernel) hR) hk)
  split
  · exact ResultKeeps.next (State.circDone_keeps d 2 (sub_trans (by decide +kernel) hR) hk)
  split
  · exact ResultKeeps.next (State.circDone_keeps d 5 (sub_trans (by decide +kernel) hR) hk)
  split
  · exact ResultKeeps.next (State.circDone_keeps d 3 (sub_trans (by decide +kernel) hR) hk)
  split
  · exact ResultKeeps.next (State.circDone_keeps d 4 (sub_trans (by decide +kernel) hR) hk)
  split
  rename_i heq
  have h := State.circAlloc_keeps_pair (sub_trans (by decide +kernel) hR) heq hk
  dsimp only
  with_reducible
    repeat' first
      | assumption | exact sub_trans (by decide +kernel) hR | exact bit_of (by decide +kernel) hR | exact all_bits_of (by decide +kernel) hR
      | apply State.clearRec_keeps | apply State.sequence_keeps | apply State.modCirc_keeps | apply State.setRun_keeps
      | apply State.circDone_keeps | apply ResultKeeps.next | split

theorem State.disableCircuit_keeps {R : Nat} {s₀ s : State} (c : Nat) (hR : 0x3001fc0000000000000000000180800000000030000000000000000000000000800078090000000 ||| R = R) (hk : Keeps R s₀ s) :
    Keeps R s₀ (State.disableCircuit c s) := by
  unfold State.disableCircuit
  extract_lets isLead label last v2 v3 v4
  have h2 : Keeps R s₀ v2 := State.circAlloc_keeps c 0 (sub_trans (by decide +kernel) hR) hk
  have h3 : Keeps R s₀ v3 := by
    unfold v3
    with_reducible
      repeat' first
        | assumption | exact sub_trans (by decide +kernel) hR | exact bit_of (by decide +kernel) hR | exact all_bits_of (by decide +kernel) hR
        | apply State.put_keeps | apply State.clearRec_keeps | apply State.modCirc_keeps | apply State.setRun_keeps
  have h4 : Keeps R s₀ v4 := by
    unfold v4
    clear_value v3
    with_reducible repeat' first | assumption | exact sub_trans (by decide +kernel) hR | apply State.judgeGroup_keeps | split
  clear_value v4
  with_reducible repeat' first | assumption | exact sub_trans (by decide +kernel) hR | exact bit_of (by decide +kernel) hR | apply State.sequence_keeps | split

theorem execCircuitDisable_keeps {R : Nat} {s₀ : State} {s : State} (d index : Nat)
    (hR : 0x3001fc0000000000000000000190800000000030000000000000000000000000800078090000000 ||| R = R)
    (hk : Keeps R s₀ s) : ResultKeeps R s₀ (execCircuitDisable d index s) := by
  unfold execCircuitDisable
  try dsimp only
  with_reducible
    repeat' first
      | assumption | exact sub_trans (by decide +kernel) hR | apply State.circDone_keeps | apply State.disableCircuit_keeps | apply ResultKeeps.next
      | split | intro _ | dsimp only

theorem State.circuitsResume_keeps {R : Nat} {s₀ : State} {s : State} (t : Nat)
    (hR : 0x3001fc0000000000000000000190800000000030000000000000000000000000800078090000000 ||| R = R)
    (hk : Keeps R s₀ s) : Keeps R s₀ (State.circuitsResume t s) := by
  unfold State.circuitsResume
  try dsimp only
  with_reducible
    repeat' first
      | assumption | exact sub_trans (by decide +kernel) hR | apply State.circDone_keeps | apply State.disableCircuit_keeps | apply Keeps.foldl
      | apply Keeps.foldl_snd | apply Keeps.foldl_fst | apply Keeps.foldl_build | split | intro _ | dsimp only

end Sys2Proof.Machine
end

