-- ==== Sys2Proof/Laws/KeepsFraming.lean ====
section
/-!
SUPPORT. Every operation of Machine/Framing.lean keeps what `Keeps` names.
-/

namespace Sys2Proof.Machine

set_option Elab.async false
set_option linter.all false

theorem State.framing_keeps {R : Nat} {s₀ : State} {s : State} (f : Field) (t : Nat)
    (hR : 0x30000000000000000000000000000000000000000 ||| R = R) (hf : R.testBit (wordBit f.num) = true)
    (hk : Keeps R s₀ s) : Keeps R s₀ (State.framing f t s) := by
  unfold State.framing
  try dsimp only
  with_reducible
    repeat' first
      | assumption | exact sub_trans (by decide +kernel) hR | exact bit_of (by decide +kernel) hR | apply State.put_keeps
      | apply State.raiseTree_keeps | split | intro _ | dsimp only

theorem State.speedFault_keeps {R : Nat} {s₀ : State} {s : State} (d : Nat)
    (hR : 0x30080000000000000000000000000000000000000 ||| R = R)
    (hk : Keeps R s₀ s) : Keeps R s₀ (State.speedFault d s) := by
  unfold State.speedFault
  try dsimp only
  with_reducible
    repeat' first
      | assumption | exact sub_trans (by decide +kernel) hR | exact bit_of (by decide +kernel) hR | apply State.put_keeps | apply State.raise_keeps
      | split | intro _ | dsimp only

theorem State.treeCnt_keeps {R : Nat} {s₀ : State} {s : State} (t k n : Nat)
    (hR : 0x1 ||| R = R)
    (hk : Keeps R s₀ s) : Keeps R s₀ (State.treeCnt t k n s) := by
  unfold State.treeCnt
  try dsimp only
  with_reducible repeat' first | assumption | exact sub_trans (by decide +kernel) hR | apply State.bump_keeps | split | intro _ | dsimp only

theorem State.closeFrame_keeps {R : Nat} {s₀ : State} {s : State} (t k : Nat)
    (hR : 0x20000000000002000000 ||| R = R)
    (hk : Keeps R s₀ s) : Keeps R s₀ (State.closeFrame t k s) := by
  unfold State.closeFrame
  try dsimp only
  with_reducible
    repeat' first
      | assumption | exact sub_trans (by decide +kernel) hR | apply State.modSet_keeps | apply State.emitTree_keeps | split | intro _ | dsimp only

theorem State.openFrame_keeps {R : Nat} {s₀ : State} {s : State} (t k n : Nat) (structs : List Nat) (ploam : List Ploam) (stamp : Option Nat)
    (hR : 0x2000000 ||| R = R)
    (hk : Keeps R s₀ s) : Keeps R s₀ (State.openFrame t k n structs ploam stamp s) := by
  unfold State.openFrame
  try dsimp only
  with_reducible repeat' first | assumption | exact sub_trans (by decide +kernel) hR | apply State.modSet_keeps | split | intro _ | dsimp only

theorem State.testFrame_keeps {R : Nat} {s₀ : State} {s : State} (t k n : Nat)
    (hR : 0x20000000000006000000 ||| R = R)
    (hk : Keeps R s₀ s) : Keeps R s₀ (State.testFrame t k n s) := by
  unfold State.testFrame
  try dsimp only
  with_reducible
    repeat' first
      | assumption | exact sub_trans (by decide +kernel) hR | exact bit_of (by decide +kernel) hR | apply State.modSet_keeps
      | apply State.modTree_keeps | apply State.emitTree_keeps | exact id | exact fun _ => rfl | exact fun _ _ _ => rfl | split
      | (with_unfolding_all (intro p hp; cases p <;> first | rfl | exact bit_absurd (by decide +kernel) hR hp)) | intro _ | dsimp only
      | apply Keeps.change

theorem State.sendContainer_keeps {R : Nat} {s₀ : State} {s : State} (t k : Nat) (o : CircOut)
    (hR : 0x10100000000000000000000030000000000000000000020000010000003000001 ||| R = R)
    (hk : Keeps R s₀ s) : Keeps R s₀ (State.sendContainer t k s o) := by
  unfold State.sendContainer
  extract_lets v0 v1
  have hv1 : Keeps R s₀ v1 := by
    unfold v1
    with_reducible
      repeat' first
        | assumption | exact sub_trans (by decide +kernel) hR | (unfold txState; split <;> exact bit_of (by decide +kernel) hR)
        | apply State.passBytes_keeps | apply State.circCnt_keeps | apply State.sendRest_keeps | split | intro _ | dsimp only
  try dsimp only
  with_reducible
    repeat' first
      | assumption | exact sub_trans (by decide +kernel) hR | (unfold txState; split <;> exact bit_of (by decide +kernel) hR)
      | apply State.passBytes_keeps | apply State.circCnt_keeps | apply State.sendRest_keeps | split | intro _ | dsimp only

theorem State.sendContainers_keeps {R : Nat} {s₀ : State} {s : State} (t k n : Nat)
    (hR : 0x10100000000000000000000030000000000000000000020000010000003000001 ||| R = R)
    (hk : Keeps R s₀ s) : Keeps R s₀ (State.sendContainers t k n s) := by
  unfold State.sendContainers
  extract_lets v0 v1 v2 v3
  have hv2 : Keeps R s₀ v2 := by
    unfold v2
    with_reducible
      repeat' first
        | assumption | exact sub_trans (by decide +kernel) hR | apply State.modSet_keeps | apply State.sendContainer_keeps | apply Keeps.foldl
        | apply Keeps.foldl_snd | apply Keeps.foldl_fst | apply Keeps.foldl_build | split | intro _ | dsimp only
  have hv3 : Keeps R s₀ v3 := by
    unfold v3
    with_reducible
      repeat' first
        | assumption | exact sub_trans (by decide +kernel) hR | apply State.modSet_keeps | apply State.sendContainer_keeps | apply Keeps.foldl
        | apply Keeps.foldl_snd | apply Keeps.foldl_fst | apply Keeps.foldl_build | split | intro _ | dsimp only
  try dsimp only
  with_reducible
    repeat' first
      | assumption | exact sub_trans (by decide +kernel) hR | apply State.modSet_keeps | apply State.sendContainer_keeps | apply Keeps.foldl
      | apply Keeps.foldl_snd | apply Keeps.foldl_fst | apply Keeps.foldl_build | split | intro _ | dsimp only

theorem State.keysAt_keeps {R : Nat} {s₀ : State} {s : State} (t n : Nat)
    (hR : 0x3000000000000000000008000000000000000000000093000000000000000000000000004c000000000800 ||| R = R)
    (hk : Keeps R s₀ s) : Keeps R s₀ (State.keysAt t n s) := by
  unfold State.keysAt
  try dsimp only
  with_reducible
    repeat' first
      | assumption | exact sub_trans (by decide +kernel) hR | exact bit_of (by decide +kernel) hR | apply State.keyBoundary_keeps | exact id
      | exact fun _ => rfl | exact fun _ _ _ => rfl | split
      | (with_unfolding_all (intro p hp; cases p <;> first | rfl | exact bit_absurd (by decide +kernel) hR hp)) | intro _ | dsimp only
      | apply Keeps.set_keyFrame | apply Keeps.change

theorem State.restartIndex_keeps {R : Nat} {s₀ : State} {s : State} (t k : Nat) (up : Bool)
    (hR : 0x10000000000000 ||| R = R)
    (hk : Keeps R s₀ s) : Keeps R s₀ (State.restartIndex t k up s) := by
  unfold State.restartIndex
  try dsimp only
  with_reducible
    repeat' first
      | assumption | exact sub_trans (by decide +kernel) hR | exact bit_of (by decide +kernel) hR | exact id | exact fun _ => rfl
      | exact fun _ _ _ => rfl | split | (with_unfolding_all (intro p hp; cases p <;> first | rfl | exact bit_absurd (by decide +kernel) hR hp))
      | intro _ | dsimp only | apply Keeps.set_xgemIndex | apply Keeps.change

theorem State.countFrame_keeps {R : Nat} {s₀ : State} {s : State} (t k n : Nat)
    (hR : 0x2000000 ||| R = R)
    (hk : Keeps R s₀ s) : Keeps R s₀ (State.countFrame t k n s) := by
  unfold State.countFrame
  try dsimp only
  with_reducible repeat' first | assumption | exact sub_trans (by decide +kernel) hR | apply State.modSet_keeps | split | intro _ | dsimp only

theorem State.sendFrame_keeps {R : Nat} {s₀ : State} {s : State} (t k n : Nat)
    (hR : 0x3000000000000000000009010000000018000300000093000000000000000000002000005c00001b000801 ||| R = R)
    (hk : Keeps R s₀ s) : Keeps R s₀ (State.sendFrame t k n s) := by
  unfold State.sendFrame
  extract_lets v0 v1 v2 v3 v4 v5 v6 v7
  have hv0 : Keeps R s₀ v0 := by
    unfold v0
    with_reducible
      repeat' first
        | assumption | exact sub_trans (by decide +kernel) hR | (unfold txState; split <;> exact bit_of (by decide +kernel) hR)
        | apply State.modSet_keeps | apply State.emitTree_keeps | apply State.countStarved_keeps | apply State.endSending_keeps
        | apply State.ploamSent_keeps | apply State.treeCnt_keeps | apply State.closeFrame_keeps | apply State.openFrame_keeps
        | apply State.sendContainers_keeps | apply State.keysAt_keeps | apply State.restartIndex_keeps | apply State.countFrame_keeps
        | apply Keeps.foldl | apply Keeps.foldl_snd | apply Keeps.foldl_fst | apply Keeps.foldl_build | split | intro _ | dsimp only
  have hv3 : Keeps R s₀ v3 := by
    unfold v3
    with_reducible
      repeat' first
        | assumption | exact sub_trans (by decide +kernel) hR | (unfold txState; split <;> exact bit_of (by decide +kernel) hR)
        | apply State.modSet_keeps | apply State.emitTree_keeps | apply State.countStarved_keeps | apply State.endSending_keeps
        | apply State.ploamSent_keeps | apply State.treeCnt_keeps | apply State.closeFrame_keeps | apply State.openFrame_keeps
        | apply State.sendContainers_keeps | apply State.keysAt_keeps | apply State.restartIndex_keeps | apply State.countFrame_keeps
        | apply Keeps.foldl | apply Keeps.foldl_snd | apply Keeps.foldl_fst | apply Keeps.foldl_build | split | intro _ | dsimp only
  have hv4 : Keeps R s₀ v4 := by
    unfold v4
    with_reducible
      repeat' first
        | assumption | exact sub_trans (by decide +kernel) hR | (unfold txState; split <;> exact bit_of (by decide +kernel) hR)
        | apply State.modSet_keeps | apply State.emitTree_keeps | apply State.countStarved_keeps | apply State.endSending_keeps
        | apply State.ploamSent_keeps | apply State.treeCnt_keeps | apply State.closeFrame_keeps | apply State.openFrame_keeps
        | apply State.sendContainers_keeps | apply State.keysAt_keeps | apply State.restartIndex_keeps | apply State.countFrame_keeps
        | apply Keeps.foldl | apply Keeps.foldl_snd | apply Keeps.foldl_fst | apply Keeps.foldl_build | split | intro _ | dsimp only
  have hv7 : Keeps R s₀ v7 := by
    unfold v7
    with_reducible
      repeat' first
        | assumption | exact sub_trans (by decide +kernel) hR | (unfold txState; split <;> exact bit_of (by decide +kernel) hR)
        | apply State.modSet_keeps | apply State.emitTree_keeps | apply State.countStarved_keeps | apply State.endSending_keeps
        | apply State.ploamSent_keeps | apply State.treeCnt_keeps | apply State.closeFrame_keeps | apply State.openFrame_keeps
        | apply State.sendContainers_keeps | apply State.keysAt_keeps | apply State.restartIndex_keeps | apply State.countFrame_keeps
        | apply Keeps.foldl | apply Keeps.foldl_snd | apply Keeps.foldl_fst | apply Keeps.foldl_build | split | intro _ | dsimp only
  try dsimp only
  with_reducible
    repeat' first
      | assumption | exact sub_trans (by decide +kernel) hR | (unfold txState; split <;> exact bit_of (by decide +kernel) hR)
      | apply State.modSet_keeps | apply State.emitTree_keeps | apply State.countStarved_keeps | apply State.endSending_keeps
      | apply State.ploamSent_keeps | apply State.treeCnt_keeps | apply State.closeFrame_keeps | apply State.openFrame_keeps
      | apply State.sendContainers_keeps | apply State.keysAt_keeps | apply State.restartIndex_keeps | apply State.countFrame_keeps
      | apply Keeps.foldl | apply Keeps.foldl_snd | apply Keeps.foldl_fst | apply Keeps.foldl_build | split | intro _ | dsimp only

theorem State.shadowUsed_keeps {R : Nat} {s₀ : State} {s : State} (t k n : Nat)
    (hR : 0x40001 ||| R = R)
    (hk : Keeps R s₀ s) : Keeps R s₀ (State.shadowUsed t k n s) := by
  unfold State.shadowUsed
  try dsimp only
  with_reducible
    repeat' first
      | assumption | exact sub_trans (by decide +kernel) hR | apply State.peerCnt_keeps | apply State.modPair_keeps | split | intro _ | dsimp only

theorem execDownstreamFrameStart_keeps {R : Nat} {s₀ : State} {s : State} (t k : Nat) (at0 : NetTime)
    (hR : 0x3000000000000000000009010000000018000300000093000000000000000000002c01005c00001f040801 ||| R = R)
    (hk : Keeps R s₀ s) : ResultKeeps R s₀ (execDownstreamFrameStart t k at0 s) := by
  unfold execDownstreamFrameStart
  try dsimp only
  with_reducible
    repeat' first
      | assumption | exact sub_trans (by decide +kernel) hR | apply State.setTime_keeps | apply tellRanging_keeps | apply State.testFrame_keeps
      | apply State.sendFrame_keeps | apply State.shadowUsed_keeps | apply ResultKeeps.next | split | intro _ | dsimp only

theorem execTxDarkAtShutdown_keeps {R : Nat} {s₀ : State} {s : State} (t : Nat)
    (hR : 0x2000000000000000000000020000000000006000000 ||| R = R)
    (hk : Keeps R s₀ s) : ResultKeeps R s₀ (execTxDarkAtShutdown t s) := by
  unfold execTxDarkAtShutdown
  try dsimp only
  with_reducible
    repeat' first
      | assumption | exact sub_trans (by decide +kernel) hR | apply State.modTree_keeps | apply State.darken_keeps | apply State.closeFrame_keeps
      | apply ResultKeeps.next | split | intro _ | dsimp only

theorem execPloamRingSample_keeps {R : Nat} {s₀ : State} {s : State} (t k : Nat)
    (hR : 0x2000000 ||| R = R)
    (hk : Keeps R s₀ s) : ResultKeeps R s₀ (execPloamRingSample t k s) := by
  unfold execPloamRingSample
  try dsimp only
  with_reducible
    repeat' first
      | assumption | exact sub_trans (by decide +kernel) hR | apply State.modSet_keeps | apply ResultKeeps.next | split | intro _ | dsimp only

theorem State.emptyMap_keeps {R : Nat} {s₀ : State} {s : State} (t k n : Nat)
    (hR : 0xa00000000000000000000000000000000000000000000000000000000000000000012000000 ||| R = R)
    (hk : Keeps R s₀ s) : Keeps R s₀ (State.emptyMap t k n s) := by
  unfold State.emptyMap
  extract_lets v0 v1 v2 v3
  have hv2 : Keeps R s₀ v2 := by
    unfold v2
    with_reducible
      repeat' first
        | assumption | exact sub_trans (by decide +kernel) hR | apply State.modSet_keeps | apply State.dropContexts_keeps
        | apply State.returnGrant_keeps | apply Keeps.foldl | apply Keeps.foldl_snd | apply Keeps.foldl_fst | apply Keeps.foldl_build | split
        | intro _ | dsimp only
  have hv3 : Keeps R s₀ v3 := by
    unfold v3
    with_reducible
      repeat' first
        | assumption | exact sub_trans (by decide +kernel) hR | apply State.modSet_keeps | apply State.dropContexts_keeps
        | apply State.returnGrant_keeps | apply Keeps.foldl | apply Keeps.foldl_snd | apply Keeps.foldl_fst | apply Keeps.foldl_build | split
        | intro _ | dsimp only
  try dsimp only
  with_reducible
    repeat' first
      | assumption | exact sub_trans (by decide +kernel) hR | apply State.modSet_keeps | apply State.dropContexts_keeps
      | apply State.returnGrant_keeps | apply Keeps.foldl | apply Keeps.foldl_snd | apply Keeps.foldl_fst | apply Keeps.foldl_build | split | intro _
      | dsimp only

theorem execLateMap_keeps {R : Nat} {s₀ : State} {s : State} (t k : Nat)
    (hR : 0xa00000000000000000000000000000800030000000000000000000000000000000012002001 ||| R = R)
    (hk : Keeps R s₀ s) : ResultKeeps R s₀ (execLateMap t k s) := by
  unfold execLateMap
  extract_lets v0 v1 v2 v3
  have hv1 : Keeps R s₀ v1 := by
    unfold v1
    with_reducible
      repeat' first
        | assumption | exact sub_trans (by decide +kernel) hR | exact bit_of (by decide +kernel) hR | apply State.devWrite_keeps
        | apply State.grantCnt_keeps | apply State.framing_keeps | apply State.treeCnt_keeps | apply State.emptyMap_keeps | apply ResultKeeps.next
        | split | intro _ | dsimp only
  try dsimp only
  with_reducible
    repeat' first
      | assumption | exact sub_trans (by decide +kernel) hR | exact bit_of (by decide +kernel) hR | apply State.devWrite_keeps
      | apply State.grantCnt_keeps | apply State.framing_keeps | apply State.treeCnt_keeps | apply State.emptyMap_keeps | apply ResultKeeps.next
      | split | intro _ | dsimp only

theorem execDsUnderrun_keeps {R : Nat} {s₀ : State} {s : State} (t k come : Nat)
    (hR : 0x10100000000000000000800030080000000000000000020000010000002000001 ||| R = R)
    (hk : Keeps R s₀ s) : ResultKeeps R s₀ (execDsUnderrun t k come s) := by
  unfold execDsUnderrun
  try dsimp only
  with_reducible
    repeat' first
      | assumption | exact sub_trans (by decide +kernel) hR | exact bit_of (by decide +kernel) hR | apply State.cutSending_keeps
      | apply State.framing_keeps | apply State.speedFault_keeps | apply State.treeCnt_keeps | apply ResultKeeps.next | split | intro _ | dsimp only

end Sys2Proof.Machine
end

