-- ==== Sys2Proof/Laws/KeepsBursts.lean ====
section
/-!
SUPPORT. Every operation of Machine/Bursts.lean keeps what `Keeps` names.
-/

namespace Sys2Proof.Machine

set_option Elab.async false
set_option linter.all false

theorem State.measure_keeps {R : Nat} {s₀ : State} {s : State} (t : Nat) (c : BurstCtx) (b : Burst)
    (hR : 0x4000000000000000000000000000000000000000000 ||| R = R)
    (hk : Keeps R s₀ s) : Keeps R s₀ (State.measure t c b s) := by
  unfold State.measure
  try dsimp only
  with_reducible
    repeat' first
      | assumption | exact sub_trans (by decide +kernel) hR | exact bit_of (by decide +kernel) hR | apply State.addSat_keeps | split | intro _
      | dsimp only

theorem State.learn_keeps {R : Nat} {s₀ : State} {s : State} (t n : Nat) (c : BurstCtx) (b : Burst)
    (hR : 0x800000000000000000000000000010000000000000000000 ||| R = R)
    (hk : Keeps R s₀ s) : Keeps R s₀ (State.learn t n c b s) := by
  have hb : ∀ xs : List Nat, ∀ e ∈ (taughtFields c).zip xs, R.testBit (wordBit e.1.num) = true := by
    have h : ([TREE_RX_TERM.TH_LOW, TREE_RX_TERM.TH_MID, TREE_RX_TERM.TH_HIGH].all fun f => R.testBit (wordBit f.num)) = true :=
      all_bits_of (by decide +kernel) hR
    rw [List.all_eq_true] at h
    intro xs e he
    refine h e.1 ?_
    have m := (List.of_mem_zip (show (e.1, e.2) ∈ (taughtFields c).zip xs from he)).1
    unfold taughtFields at m
    split at m
    · exact m
    · rw [List.mem_singleton.1 m]
      simp
  unfold State.learn
  extract_lets v0 v1 v2 v3 v4
  have hv3 : Keeps R s₀ v3 := by
    unfold v3
    with_reducible
      repeat' first
        | assumption | exact sub_trans (by decide +kernel) hR | exact hb _ _ (by assumption) | exact bit_of (by decide +kernel) hR
        | exact bits_of (by assumption) (by decide +kernel) hR | exact desc_bits_of (by assumption) (by decide +kernel) hR
        | exact bits_of (by assumption) (by assumption) (Nat.or_self _) | apply State.put_keeps | apply State.useFree_keeps | apply Keeps.foldl_mem
        | apply Keeps.foldl_snd | apply Keeps.foldl_fst | apply Keeps.foldl_build | split | intro _ | dsimp only
  have hv4 : Keeps R s₀ v4 := by
    unfold v4
    with_reducible
      repeat' first
        | assumption | exact sub_trans (by decide +kernel) hR | exact hb _ _ (by assumption) | exact bit_of (by decide +kernel) hR
        | exact bits_of (by assumption) (by decide +kernel) hR | exact desc_bits_of (by assumption) (by decide +kernel) hR
        | exact bits_of (by assumption) (by assumption) (Nat.or_self _) | apply State.put_keeps | apply State.useFree_keeps | apply Keeps.foldl_mem
        | apply Keeps.foldl_snd | apply Keeps.foldl_fst | apply Keeps.foldl_build | split | intro _ | dsimp only
  try dsimp only
  with_reducible
    repeat' first
      | assumption | exact sub_trans (by decide +kernel) hR | exact hb _ _ (by assumption) | exact bit_of (by decide +kernel) hR
      | exact bits_of (by assumption) (by decide +kernel) hR | exact desc_bits_of (by assumption) (by decide +kernel) hR
      | exact bits_of (by assumption) (by assumption) (Nat.or_self _) | apply State.put_keeps | apply State.useFree_keeps | apply Keeps.foldl_mem
      | apply Keeps.foldl_snd | apply Keeps.foldl_fst | apply Keeps.foldl_build | split | intro _ | dsimp only

theorem State.noteRange_keeps {R : Nat} {s₀ : State} {s : State} (t k : Nat) (c : BurstCtx) (r : RangeResult)
    (hR : 0x2000000 ||| R = R)
    (hk : Keeps R s₀ s) : Keeps R s₀ (State.noteRange t k c r s) := by
  unfold State.noteRange
  try dsimp only
  with_reducible repeat' first | assumption | exact sub_trans (by decide +kernel) hR | apply State.modSet_keeps | split | intro _ | dsimp only

theorem State.noteSpan_keeps {R : Nat} {s₀ : State} {s : State} (t k : Nat) (l : Loaded) (b : Burst)
    (hR : 0x2000000 ||| R = R)
    (hk : Keeps R s₀ s) : Keeps R s₀ (State.noteSpan t k l b s) := by
  unfold State.noteSpan
  try dsimp only
  with_reducible repeat' first | assumption | exact sub_trans (by decide +kernel) hR | apply State.modSet_keeps | split | intro _ | dsimp only

theorem State.noteResidual_keeps {R : Nat} {s₀ : State} {s : State} (t : Nat) (samples : List Nat)
    (hR : 0x100000000000000000000000000000000000000002000000 ||| R = R)
    (hk : Keeps R s₀ s) : Keeps R s₀ (State.noteResidual t samples s) := by
  unfold State.noteResidual
  try dsimp only
  with_reducible
    repeat' first
      | assumption | exact sub_trans (by decide +kernel) hR | exact bit_of (by decide +kernel) hR | apply State.put_keeps | apply State.modSet_keeps
      | (show Keeps _ _ _; rw [id_eq]) | split | intro _ | dsimp only

theorem State.termCnt_keeps {R : Nat} {s₀ : State} {s : State} (t n k v : Nat)
    (hR : 0x1 ||| R = R)
    (hk : Keeps R s₀ s) : Keeps R s₀ (State.termCnt t n k v s) := by
  unfold State.termCnt
  try dsimp only
  with_reducible repeat' first | assumption | exact sub_trans (by decide +kernel) hR | apply State.bump_keeps | split | intro _ | dsimp only

theorem State.stepRun_keeps {R : Nat} {s₀ : State} {s : State} (f : Field) (i : Nat)
    (hR : 0x0 ||| R = R) (hf : R.testBit (wordBit f.num) = true)
    (hk : Keeps R s₀ s) : Keeps R s₀ (State.stepRun f i s) := by
  unfold State.stepRun
  try dsimp only
  with_reducible
    repeat' first
      | assumption | exact sub_trans (by decide +kernel) hR | exact bit_of (by decide +kernel) hR | apply State.addSat_keeps | split | intro _
      | dsimp only

theorem State.runLost_keeps {R : Nat} {s₀ : State} {s : State} (t n : Nat)
    (hR : 0x1000000000000000000000000000000000000000008000000 ||| R = R)
    (hk : Keeps R s₀ s) : Keeps R s₀ (State.runLost t n s) := by
  unfold State.runLost
  extract_lets v0 v1
  have hv1 : Keeps R s₀ v1 := by
    unfold v1
    with_reducible
      repeat' first
        | assumption | exact sub_trans (by decide +kernel) hR | exact bit_of (by decide +kernel) hR | apply State.modTerm_keeps
        | apply State.setRaw_keeps | apply State.stepRun_keeps | split | intro _ | dsimp only
  try dsimp only
  with_reducible
    repeat' first
      | assumption | exact sub_trans (by decide +kernel) hR | exact bit_of (by decide +kernel) hR | apply State.modTerm_keeps
      | apply State.setRaw_keeps | apply State.stepRun_keeps | split | intro _ | dsimp only

theorem State.runHeard_keeps {R : Nat} {s₀ : State} {s : State} (t n : Nat)
    (hR : 0x1000000000000000000000000000000000000000008000000 ||| R = R)
    (hk : Keeps R s₀ s) : Keeps R s₀ (State.runHeard t n s) := by
  unfold State.runHeard
  extract_lets v0 v1 v2
  have hv2 : Keeps R s₀ v2 := by
    unfold v2
    with_reducible
      repeat' first
        | assumption | exact sub_trans (by decide +kernel) hR | exact bit_of (by decide +kernel) hR | apply State.put_keeps
        | apply State.modTerm_keeps | apply State.setRaw_keeps | split | intro _ | dsimp only
  try dsimp only
  with_reducible
    repeat' first
      | assumption | exact sub_trans (by decide +kernel) hR | exact bit_of (by decide +kernel) hR | apply State.put_keeps | apply State.modTerm_keeps
      | apply State.setRaw_keeps | split | intro _ | dsimp only

theorem State.runBad_keeps {R : Nat} {s₀ : State} {s : State} (t n : Nat)
    (hR : 0x1000000000000000000000000000000000000000008000000 ||| R = R)
    (hk : Keeps R s₀ s) : Keeps R s₀ (State.runBad t n s) := by
  unfold State.runBad
  extract_lets v0 v1
  have hv1 : Keeps R s₀ v1 := by
    unfold v1
    with_reducible
      repeat' first
        | assumption | exact sub_trans (by decide +kernel) hR | exact bit_of (by decide +kernel) hR | apply State.modTerm_keeps
        | apply State.setRaw_keeps | apply State.stepRun_keeps | apply State.runHeard_keeps | split | intro _ | dsimp only
  try dsimp only
  with_reducible
    repeat' first
      | assumption | exact sub_trans (by decide +kernel) hR | exact bit_of (by decide +kernel) hR | apply State.modTerm_keeps
      | apply State.setRaw_keeps | apply State.stepRun_keeps | apply State.runHeard_keeps | split | intro _ | dsimp only

theorem State.runDrift_keeps {R : Nat} {s₀ : State} {s : State} (t n : Nat) (drift : Int)
    (hR : 0x1000000000000000000000000000000000000000008000000 ||| R = R)
    (hk : Keeps R s₀ s) : Keeps R s₀ (State.runDrift t n drift s) := by
  unfold State.runDrift
  extract_lets v0 v1 v2 v3 v4
  have hv4 : Keeps R s₀ v4 := by
    unfold v4
    with_reducible
      repeat' first
        | assumption | exact sub_trans (by decide +kernel) hR | apply State.modTerm_keeps | apply State.setRaw_keeps | split | intro _ | dsimp only
  try dsimp only
  with_reducible
    repeat' first
      | assumption | exact sub_trans (by decide +kernel) hR | apply State.modTerm_keeps | apply State.setRaw_keeps | split | intro _ | dsimp only

theorem State.runValid_keeps {R : Nat} {s₀ : State} {s : State} (t n : Nat) (drift : Int)
    (hR : 0x1000000000000000000000000000000000000000008000000 ||| R = R)
    (hk : Keeps R s₀ s) : Keeps R s₀ (State.runValid t n drift s) := by
  unfold State.runValid
  extract_lets v0 v1 v2 v3
  have hv2 : Keeps R s₀ v2 := by
    unfold v2
    with_reducible
      repeat' first
        | assumption | exact sub_trans (by decide +kernel) hR | exact bit_of (by decide +kernel) hR | apply State.put_keeps
        | apply State.modTerm_keeps | apply State.setRaw_keeps | apply State.runHeard_keeps | apply State.runDrift_keeps | split | intro _
        | dsimp only
  have hv3 : Keeps R s₀ v3 := by
    unfold v3
    with_reducible
      repeat' first
        | assumption | exact sub_trans (by decide +kernel) hR | exact bit_of (by decide +kernel) hR | apply State.put_keeps
        | apply State.modTerm_keeps | apply State.setRaw_keeps | apply State.runHeard_keeps | apply State.runDrift_keeps | split | intro _
        | dsimp only
  try dsimp only
  with_reducible
    repeat' first
      | assumption | exact sub_trans (by decide +kernel) hR | exact bit_of (by decide +kernel) hR | apply State.put_keeps | apply State.modTerm_keeps
      | apply State.setRaw_keeps | apply State.runHeard_keeps | apply State.runDrift_keeps | split | intro _ | dsimp only

theorem State.countCodewords_keeps {R : Nat} {s₀ : State} {s : State} (t k : Nat) (c : BurstCtx) (b : Burst)
    (hR : 0x1 ||| R = R)
    (hk : Keeps R s₀ s) : Keeps R s₀ (State.countCodewords t k c b s) := by
  unfold State.countCodewords
  try dsimp only
  with_reducible repeat' first | assumption | exact sub_trans (by decide +kernel) hR | apply State.termCnt_keeps | split | intro _ | dsimp only

theorem State.setOffset_keeps {R : Nat} {s₀ : State} {s : State} (t : Nat) (v : Int)
    (hR : 0x100000000000000000000000000000000 ||| R = R)
    (hk : Keeps R s₀ s) : Keeps R s₀ (State.setOffset t v s) := by
  unfold State.setOffset
  try dsimp only
  with_reducible
    repeat' first
      | assumption | exact sub_trans (by decide +kernel) hR | exact bit_of (by decide +kernel) hR | apply State.put_keeps | split | intro _
      | dsimp only

theorem State.endCalibration_keeps {R : Nat} {s₀ : State} {s : State} (t : Nat) (vs : List Int)
    (hR : 0x120000000000000000000000004000000 ||| R = R)
    (hk : Keeps R s₀ s) : Keeps R s₀ (State.endCalibration t vs s) := by
  unfold State.endCalibration
  extract_lets v0 v1
  have hv0 : Keeps R s₀ v0 := by
    unfold v0
    with_reducible
      repeat' first
        | assumption | exact sub_trans (by decide +kernel) hR | exact bit_of (by decide +kernel) hR | apply State.put_keeps
        | apply State.modTree_keeps | apply State.setOffset_keeps | split | intro _ | dsimp only
  try dsimp only
  with_reducible
    repeat' first
      | assumption | exact sub_trans (by decide +kernel) hR | exact bit_of (by decide +kernel) hR | apply State.put_keeps | apply State.modTree_keeps
      | apply State.setOffset_keeps | split | intro _ | dsimp only

theorem State.pairDrift_keeps {R : Nat} {s₀ : State} {s : State} (t : Nat) (drift : Int)
    (hR : 0x120000000000000000000000004000000 ||| R = R)
    (hk : Keeps R s₀ s) : Keeps R s₀ (State.pairDrift t drift s) := by
  unfold State.pairDrift
  try dsimp only
  with_reducible
    repeat' first
      | assumption | exact sub_trans (by decide +kernel) hR | apply State.modTree_keeps | apply State.endCalibration_keeps | split | intro _
      | dsimp only

theorem State.treeTag_keeps {R : Nat} {s₀ : State} {s : State} (t k slot : Nat) (x : UpXgem)
    (hR : 0x40000000000000000000000100000000000000000000030000000000000000000000000000000000000001 ||| R = R)
    (hk : Keeps R s₀ s) : Keeps R s₀ (State.treeTag t k slot x s).2 := by
  unfold State.treeTag
  try dsimp only
  with_reducible
    repeat' first
      | assumption | exact sub_trans (by decide +kernel) hR | exact bit_of (by decide +kernel) hR | apply State.put_keeps | apply State.addSat_keeps
      | apply State.ciphEvent_keeps | apply State.ciphCnt_keeps | split | intro _ | dsimp only

theorem State.treeTag_keeps_pair {R : Nat} {s₀ : State} {s s' : State} {r : Opened} {t k slot : Nat} {x : UpXgem}
    (hR : 0x40000000000000000000000100000000000000000000030000000000000000000000000000000000000001 ||| R = R) (heq : State.treeTag t k slot x s = (r, s'))
    (hk : Keeps R s₀ s) : Keeps R s₀ s' := by
  have := State.treeTag_keeps t k slot x hR hk
  rwa [heq] at this

theorem State.openSlot_keeps {R : Nat} {s₀ : State} {s : State} (t k p frame slot : Nat) (x : UpXgem)
    (hR : 0x40000000000000000000010100000000000000000000030000000000000000000000000000000000000001 ||| R = R)
    (hk : Keeps R s₀ s) : Keeps R s₀ (State.openSlot t k p frame slot x s).2 := by
  unfold State.openSlot
  try dsimp only
  with_reducible
    repeat' first
      | assumption | exact sub_trans (by decide +kernel) hR | apply State.separation_keeps | apply State.ciphCnt_keeps | apply State.treeTag_keeps
      | refine State.treeTag_keeps_pair ?_ (by assumption) ?_ | split | intro _ | dsimp only

theorem State.openSlot_keeps_pair {R : Nat} {s₀ : State} {s s' : State} {r : Opened} {t k p frame slot : Nat} {x : UpXgem}
    (hR : 0x40000000000000000000010100000000000000000000030000000000000000000000000000000000000001 ||| R = R) (heq : State.openSlot t k p frame slot x s = (r, s'))
    (hk : Keeps R s₀ s) : Keeps R s₀ s' := by
  have := State.openSlot_keeps t k p frame slot x hR hk
  rwa [heq] at this

theorem State.openXgem_keeps {R : Nat} {s₀ : State} {s : State} (t k p : Nat) (c : BurstCtx) (x : UpXgem)
    (hR : 0x40000000000000000000010100000000000000000000030000000000000000000000000010000000000001 ||| R = R)
    (hk : Keeps R s₀ s) : Keeps R s₀ (State.openXgem t k p c x s).2 := by
  unfold State.openXgem
  try dsimp only
  with_reducible
    repeat' first
      | assumption | exact sub_trans (by decide +kernel) hR | apply State.separation_keeps | apply State.ciphCnt_keeps | apply State.nextIndex_keeps
      | refine State.nextIndex_keeps_pair ?_ (by assumption) ?_ | apply State.openSlot_keeps | refine State.openSlot_keeps_pair ?_ (by assumption) ?_
      | split | intro _ | dsimp only

theorem State.openXgem_keeps_pair {R : Nat} {s₀ : State} {s s' : State} {r : Opened} {t k p : Nat} {c : BurstCtx} {x : UpXgem}
    (hR : 0x40000000000000000000010100000000000000000000030000000000000000000000000010000000000001 ||| R = R) (heq : State.openXgem t k p c x s = (r, s'))
    (hk : Keeps R s₀ s) : Keeps R s₀ s' := by
  have := State.openXgem_keeps t k p c x hR hk
  rwa [heq] at this

theorem State.frameUp_keeps {R : Nat} {s₀ : State} {s : State} (t k p pos : Nat) (c : BurstCtx) (marked : Bool) (b : List Nat)
    (hR : 0x1000000001000000 ||| R = R)
    (hk : Keeps R s₀ s) : Keeps R s₀ (State.frameUp t k p pos c marked b s) := by
  unfold State.frameUp
  try dsimp only
  with_reducible
    repeat' first
      | assumption | exact sub_trans (by decide +kernel) hR | exact bit_of (by decide +kernel) hR | apply State.passBytes_keeps | exact id
      | exact fun _ => rfl | exact fun _ _ _ => rfl | split
      | (with_unfolding_all (intro p hp; cases p <;> first | rfl | exact bit_absurd (by decide +kernel) hR hp)) | intro _ | dsimp only
      | apply Keeps.set_inbox | apply Keeps.change

theorem State.containerUp_keeps {R : Nat} {s₀ : State} {s : State} (t p frame : Nat) (marked : Bool) (b : List Nat)
    (hR : 0x80000000 ||| R = R)
    (hk : Keeps R s₀ s) : Keeps R s₀ (State.containerUp t p frame marked b s) := by
  unfold State.containerUp
  try dsimp only
  with_reducible repeat' first | assumption | exact sub_trans (by decide +kernel) hR | apply State.modCirc_keeps | split | intro _ | dsimp only

theorem State.takeXgem_keeps {R : Nat} {s₀ : State} {s : State} (t k : Nat) (c : BurstCtx) (unsure : Bool) (pos : Nat) (x : UpXgem)
    (hR : 0x40000000000000000000010100000000000000000000030000000000000000000000001030000081000001 ||| R = R)
    (hk : Keeps R s₀ s) : Keeps R s₀ (State.takeXgem t k c unsure pos x s) := by
  unfold State.takeXgem
  try dsimp only
  with_reducible
    repeat' first
      | assumption | exact sub_trans (by decide +kernel) hR | exact bit_of (by decide +kernel) hR | apply State.peerCnt_keeps
      | apply State.openXgem_keeps | refine State.openXgem_keeps_pair ?_ (by assumption) ?_ | apply State.frameUp_keeps
      | apply State.containerUp_keeps | exact id | exact fun _ => rfl | exact fun _ _ _ => rfl | split
      | (with_unfolding_all (intro p hp; cases p <;> first | rfl | exact bit_absurd (by decide +kernel) hR hp)) | intro _ | dsimp only
      | apply Keeps.set_frags | apply Keeps.change

theorem State.takeItems_keeps {R : Nat} {s₀ : State} {s : State} (t k : Nat) (c : BurstCtx) (b : Burst) (x4 x5 : Nat) (x6 : List UpXgem)
    (hR : 0x40000000000000000000010100000000000000000000030080000000000000000000001030000085000001 ||| R = R)
    (hk : Keeps R s₀ s) : Keeps R s₀ (State.takeItems t k c b x4 x5 x6 s) := by
  induction x6 generalizing s x4 x5 with
  | nil =>
    unfold State.takeItems
    try dsimp only
    with_reducible
      repeat' first
        | assumption | exact sub_trans (by decide +kernel) hR | apply State.modTree_keeps | apply State.speedFault_keeps | apply State.termCnt_keeps
        | apply State.takeXgem_keeps | split | intro _ | dsimp only
  | cons a l ih =>
    unfold State.takeItems
    try dsimp only
    with_reducible
      repeat' first
        | assumption | exact sub_trans (by decide +kernel) hR | apply ih | apply State.modTree_keeps | apply State.speedFault_keeps
        | apply State.termCnt_keeps | apply State.takeXgem_keeps | split | intro _ | dsimp only

theorem State.takePloam_keeps {R : Nat} {s₀ : State} {s : State} (t k : Nat) (ms : List Ploam)
    (hR : 0x30000000000000000000000000000000002000000 ||| R = R)
    (hk : Keeps R s₀ s) : Keeps R s₀ (State.takePloam t k ms s) := by
  unfold State.takePloam
  try dsimp only
  with_reducible
    repeat' first
      | assumption | exact sub_trans (by decide +kernel) hR | apply State.raiseTree_keeps | apply State.modSet_keeps | split | intro _ | dsimp only

theorem State.burstValid_keeps {R : Nat} {s₀ : State} {s : State} (t k : Nat) (c : BurstCtx) (b : Burst) (drift : Int)
    (hR : 0x4000000000080000000001010000000000000100000003008000012000000000000000103000009f000001 ||| R = R)
    (hk : Keeps R s₀ s) : Keeps R s₀ (State.burstValid t k c b drift s) := by
  unfold State.burstValid
  extract_lets v0 v1 v2 v3
  have hv1 : Keeps R s₀ v1 := by
    unfold v1
    with_reducible
      repeat' first
        | assumption | exact sub_trans (by decide +kernel) hR | apply State.judgeIdle_keeps | apply State.noteDrift_keeps | apply State.termCnt_keeps
        | apply State.runValid_keeps | apply State.countCodewords_keeps | apply State.pairDrift_keeps | apply State.takeItems_keeps
        | apply State.takePloam_keeps | apply Keeps.foldl | apply Keeps.foldl_snd | apply Keeps.foldl_fst | apply Keeps.foldl_build | split | intro _
        | dsimp only
  have hv2 : Keeps R s₀ v2 := by
    unfold v2
    with_reducible
      repeat' first
        | assumption | exact sub_trans (by decide +kernel) hR | apply State.judgeIdle_keeps | apply State.noteDrift_keeps | apply State.termCnt_keeps
        | apply State.runValid_keeps | apply State.countCodewords_keeps | apply State.pairDrift_keeps | apply State.takeItems_keeps
        | apply State.takePloam_keeps | apply Keeps.foldl | apply Keeps.foldl_snd | apply Keeps.foldl_fst | apply Keeps.foldl_build | split | intro _
        | dsimp only
  have hv3 : Keeps R s₀ v3 := by
    unfold v3
    with_reducible
      repeat' first
        | assumption | exact sub_trans (by decide +kernel) hR | apply State.judgeIdle_keeps | apply State.noteDrift_keeps | apply State.termCnt_keeps
        | apply State.runValid_keeps | apply State.countCodewords_keeps | apply State.pairDrift_keeps | apply State.takeItems_keeps
        | apply State.takePloam_keeps | apply Keeps.foldl | apply Keeps.foldl_snd | apply Keeps.foldl_fst | apply Keeps.foldl_build | split | intro _
        | dsimp only
  try dsimp only
  with_reducible
    repeat' first
      | assumption | exact sub_trans (by decide +kernel) hR | apply State.judgeIdle_keeps | apply State.noteDrift_keeps | apply State.termCnt_keeps
      | apply State.runValid_keeps | apply State.countCodewords_keeps | apply State.pairDrift_keeps | apply State.takeItems_keeps
      | apply State.takePloam_keeps | apply Keeps.foldl | apply Keeps.foldl_snd | apply Keeps.foldl_fst | apply Keeps.foldl_build | split | intro _
      | dsimp only

theorem State.burstMisdirected_keeps {R : Nat} {s₀ : State} {s : State} (t n : Nat) (m : Option Nat)
    (hR : 0x18020310080003000000000000000000000000000000003a000001 ||| R = R)
    (hk : Keeps R s₀ s) : Keeps R s₀ (State.burstMisdirected t n m s) := by
  unfold State.burstMisdirected
  try dsimp only
  with_reducible
    repeat' first
      | assumption | exact sub_trans (by decide +kernel) hR | exact bit_of (by decide +kernel) hR | apply State.put_keeps
      | apply State.rogueBurst_keeps | apply State.framing_keeps | apply State.treeCnt_keeps | apply State.termCnt_keeps | apply State.runBad_keeps
      | split | intro _ | dsimp only

theorem State.countedGrant_keeps {R : Nat} {s₀ : State} {s : State} (t k : Nat) (l : Loaded) (b : Burst)
    (hR : 0x400000000008000000000101000000001802039008000300800001200000000000100010300000bf000001 ||| R = R)
    (hk : Keeps R s₀ s) : Keeps R s₀ (State.countedGrant t k l b s) := by
  unfold State.countedGrant
  extract_lets v0 v1 v2 v3
  have hv2 : Keeps R s₀ v2 := by
    unfold v2
    with_reducible
      repeat' first
        | assumption | exact sub_trans (by decide +kernel) hR | apply State.modSet_keeps | apply State.judgeTerm_keeps | apply State.treeCnt_keeps
        | apply State.learn_keeps | apply State.termCnt_keeps | apply State.runLost_keeps | apply State.runBad_keeps | apply State.burstValid_keeps
        | apply State.burstMisdirected_keeps | split | intro _ | dsimp only
  have hv3 : Keeps R s₀ v3 := by
    unfold v3
    with_reducible
      repeat' first
        | assumption | exact sub_trans (by decide +kernel) hR | apply State.modSet_keeps | apply State.judgeTerm_keeps | apply State.treeCnt_keeps
        | apply State.learn_keeps | apply State.termCnt_keeps | apply State.runLost_keeps | apply State.runBad_keeps | apply State.burstValid_keeps
        | apply State.burstMisdirected_keeps | split | intro _ | dsimp only
  try dsimp only
  with_reducible
    repeat' first
      | assumption | exact sub_trans (by decide +kernel) hR | apply State.modSet_keeps | apply State.judgeTerm_keeps | apply State.treeCnt_keeps
      | apply State.learn_keeps | apply State.termCnt_keeps | apply State.runLost_keeps | apply State.runBad_keeps | apply State.burstValid_keeps
      | apply State.burstMisdirected_keeps | split | intro _ | dsimp only

theorem execBurstReceive_keeps {R : Nat} {s₀ : State} {s : State} (t k : Nat) (b : Burst)
    (hR : 0x400000000008000000000101000000001802039008040300800001200000000000300110300000bf040001 ||| R = R)
    (hk : Keeps R s₀ s) : ResultKeeps R s₀ (execBurstReceive t k b s) := by
  unfold execBurstReceive
  try dsimp only
  with_reducible
    repeat' first
      | assumption | exact sub_trans (by decide +kernel) hR | apply State.modSet_keeps | apply State.lostByPart_keeps | apply tellRanging_keeps
      | apply State.measure_keeps | apply State.learn_keeps | apply State.noteRange_keeps | apply State.noteSpan_keeps
      | apply State.countedGrant_keeps | apply ResultKeeps.next | split | intro _ | dsimp only

theorem execUpstreamFrameEnd_keeps {R : Nat} {s₀ : State} {s : State} (t k : Nat) (samples : List Nat)
    (hR : 0x6000000000000010164000000180001102006030000000000000000000032012c10000083043001 ||| R = R)
    (hk : Keeps R s₀ s) : ResultKeeps R s₀ (execUpstreamFrameEnd t k samples s) := by
  unfold execUpstreamFrameEnd
  extract_lets v0 v1
  have hv1 : Keeps R s₀ v1 := by
    unfold v1
    with_reducible
      repeat' first
        | assumption | exact sub_trans (by decide +kernel) hR | apply State.modSet_keeps | apply State.judgeTree_keeps | apply State.losFrameEnd_keeps
        | apply State.circuitsFrameEnd_keeps | apply State.sendCircuits_keeps | apply State.restartIndex_keeps | apply State.noteResidual_keeps
        | apply ResultKeeps.next | split | intro _ | dsimp only
  try dsimp only
  with_reducible
    repeat' first
      | assumption | exact sub_trans (by decide +kernel) hR | apply State.modSet_keeps | apply State.judgeTree_keeps | apply State.losFrameEnd_keeps
      | apply State.circuitsFrameEnd_keeps | apply State.sendCircuits_keeps | apply State.restartIndex_keeps | apply State.noteResidual_keeps
      | apply ResultKeeps.next | split | intro _ | dsimp only

end Sys2Proof.Machine
end

