-- ==== Sys2Proof/Laws/KeepsClear.lean ====
section
/-!
SUPPORT. Every operation of Machine/Clear.lean keeps what `Keeps` names.
-/

namespace Sys2Proof.Machine

set_option Elab.async false
set_option linter.all false

theorem State.loadImageValues_keeps {R : Nat} {s₀ : State} {s : State}
    (hR : 0xfffffffffffffffffffffffffffffffffffffffffffffffffffffffffffffffffffffffffff0000000000000000000000000 ||| R = R)
    (hk : Keeps R s₀ s) : Keeps R s₀ (State.loadImageValues s) := by
  unfold State.loadImageValues
  try dsimp only
  with_reducible
    repeat' first
      | assumption | exact sub_trans (by decide +kernel) hR | exact bit_of (by decide +kernel) hR | exact bit_all (sub_trans (by decide +kernel) hR) _
      | exact List.all_eq_true.2 fun _ _ => bit_all (sub_trans (by decide +kernel) hR) _ | exact id | exact fun g => Tbl.sorted_filter _ _ g
      | exact fun k m _ => regs_all (sub_trans (by decide +kernel) hR) k m | exact fun _ => rfl | exact fun _ _ _ => rfl | split
      | (with_unfolding_all (intro p hp; cases p <;> first | rfl | exact bit_absurd (by decide +kernel) hR hp)) | intro _ | dsimp only
      | apply Keeps.change

theorem State.clearFields_keeps {R : Nat} {s₀ : State} {s : State} (fs : List Field)
    (hR : 0x0 ||| R = R) (hf : (fs.all fun f => R.testBit (wordBit f.num)) = true)
    (hk : Keeps R s₀ s) : Keeps R s₀ (State.clearFields fs s) := by
  unfold State.clearFields
  try dsimp only
  with_reducible
    repeat' first
      | assumption | exact sub_trans (by decide +kernel) hR | exact bit_of (by decide +kernel) hR
      | exact bits_of (by assumption) (by decide +kernel) hR | exact desc_bits_of (by assumption) (by decide +kernel) hR
      | exact bits_of (by assumption) (by assumption) (Nat.or_self _) | apply State.clearField_keeps | apply Keeps.foldl_mem | apply Keeps.foldl_snd
      | apply Keeps.foldl_fst | apply Keeps.foldl_build | split | intro _ | dsimp only

theorem State.clearTraffic_keeps {R : Nat} {s₀ : State} {s : State}
    (hR : 0x280000000000000000000661000000000000000000000000000000000000000404c3f20000000000000 ||| R = R)
    (hk : Keeps R s₀ s) : Keeps R s₀ (State.clearTraffic s) := by
  unfold State.clearTraffic
  try dsimp only
  with_reducible
    repeat' first
      | assumption | exact sub_trans (by decide +kernel) hR | exact bit_of (by decide +kernel) hR | exact all_bits_of (by decide +kernel) hR
      | apply State.clearFields_keeps | exact id | exact fun _ => rfl | exact fun _ _ _ => rfl | split
      | (with_unfolding_all (intro p hp; cases p <;> first | rfl | exact bit_absurd (by decide +kernel) hR hp)) | intro _ | dsimp only
      | apply Keeps.set_frags | apply Keeps.set_queues | apply Keeps.set_qstat | apply Keeps.set_felt | apply Keeps.set_drain | apply Keeps.set_inbox
      | apply Keeps.set_laneOut | apply Keeps.set_rxPart | apply Keeps.set_rxReady | apply Keeps.set_ceWaiting | apply Keeps.set_offers
      | apply Keeps.change

theorem State.clearInterrupts_keeps {R : Nat} {s₀ : State} {s : State}
    (hR : 0x30000000000000000000000000000000000000000 ||| R = R)
    (hk : Keeps R s₀ s) : Keeps R s₀ (State.clearInterrupts s) := by
  unfold State.clearInterrupts
  try dsimp only
  with_reducible
    repeat' first
      | assumption | exact sub_trans (by decide +kernel) hR | exact bit_of (by decide +kernel) hR | exact all_bits_of (by decide +kernel) hR
      | exact bits_of (by assumption) (by decide +kernel) hR | exact desc_bits_of (by assumption) (by decide +kernel) hR
      | exact bits_of (by assumption) (by assumption) (Nat.or_self _) | apply State.clearFields_keeps | split | intro _ | dsimp only

theorem State.clearWeave_keeps {R : Nat} {s₀ : State} {s : State}
    (hR : 0xfffffffffffffffffffffffffffffffffffffffffffffffffffffffffffffffffffffffffff00001c04c3f2f103181003000 ||| R = R)
    (hk : Keeps R s₀ s) : Keeps R s₀ (State.clearWeave s) := by
  unfold State.clearWeave
  extract_lets v0 v1
  have hv0 : Keeps R s₀ v0 := by
    unfold v0
    with_reducible
      repeat' first
        | assumption | exact sub_trans (by decide +kernel) hR | exact bit_of (by decide +kernel) hR | exact all_bits_of (by decide +kernel) hR
        | exact bit_all (sub_trans (by decide +kernel) hR) _ | exact List.all_eq_true.2 fun _ _ => bit_all (sub_trans (by decide +kernel) hR) _
        | apply State.clearFields_keeps | apply State.clearTraffic_keeps | apply State.clearInterrupts_keeps | exact id
        | exact fun g => Tbl.all_filter _ _ _ g | exact fun _ => rfl | exact fun _ _ _ => rfl | exact fun _ => List.all_nil | split
        | (with_unfolding_all (intro p hp; cases p <;> first | rfl | exact bit_absurd (by decide +kernel) hR hp)) | intro _ | dsimp only
        | apply Keeps.set_stats | apply Keeps.set_bwAcc | apply Keeps.set_circs | apply Keeps.set_grps | apply Keeps.set_fwd | apply Keeps.set_cache
        | apply Keeps.set_touchSent | apply Keeps.set_keys | apply Keeps.set_loadedAt | apply Keeps.set_oldBind | apply Keeps.set_switches
        | apply Keeps.set_ageAt | apply Keeps.set_roots | apply Keeps.change
  have hv1 : Keeps R s₀ v1 := by
    unfold v1
    with_reducible
      repeat' first
        | assumption | exact sub_trans (by decide +kernel) hR | exact bit_of (by decide +kernel) hR | exact all_bits_of (by decide +kernel) hR
        | exact bit_all (sub_trans (by decide +kernel) hR) _ | exact List.all_eq_true.2 fun _ _ => bit_all (sub_trans (by decide +kernel) hR) _
        | apply State.clearFields_keeps | apply State.clearTraffic_keeps | apply State.clearInterrupts_keeps | exact id
        | exact fun g => Tbl.all_filter _ _ _ g | exact fun _ => rfl | exact fun _ _ _ => rfl | exact fun _ => List.all_nil | split
        | (with_unfolding_all (intro p hp; cases p <;> first | rfl | exact bit_absurd (by decide +kernel) hR hp)) | intro _ | dsimp only
        | apply Keeps.set_stats | apply Keeps.set_bwAcc | apply Keeps.set_circs | apply Keeps.set_grps | apply Keeps.set_fwd | apply Keeps.set_cache
        | apply Keeps.set_touchSent | apply Keeps.set_keys | apply Keeps.set_loadedAt | apply Keeps.set_oldBind | apply Keeps.set_switches
        | apply Keeps.set_ageAt | apply Keeps.set_roots | apply Keeps.change
  try dsimp only
  with_reducible
    repeat' first
      | assumption | exact sub_trans (by decide +kernel) hR | exact bit_of (by decide +kernel) hR | exact all_bits_of (by decide +kernel) hR
      | exact bit_all (sub_trans (by decide +kernel) hR) _ | exact List.all_eq_true.2 fun _ _ => bit_all (sub_trans (by decide +kernel) hR) _
      | apply State.clearFields_keeps | apply State.clearTraffic_keeps | apply State.clearInterrupts_keeps | exact id
      | exact fun g => Tbl.all_filter _ _ _ g | exact fun _ => rfl | exact fun _ _ _ => rfl | exact fun _ => List.all_nil | split
      | (with_unfolding_all (intro p hp; cases p <;> first | rfl | exact bit_absurd (by decide +kernel) hR hp)) | intro _ | dsimp only
      | apply Keeps.set_stats | apply Keeps.set_bwAcc | apply Keeps.set_circs | apply Keeps.set_grps | apply Keeps.set_fwd | apply Keeps.set_cache
      | apply Keeps.set_touchSent | apply Keeps.set_keys | apply Keeps.set_loadedAt | apply Keeps.set_oldBind | apply Keeps.set_switches
      | apply Keeps.set_ageAt | apply Keeps.set_roots | apply Keeps.change

theorem State.clearDie_keeps {R : Nat} {s₀ s : State} (d : Nat) (hR : 0xfffffffffffffffffffffffffffffffffffffffffffffffffffffffffffffffffffffffffff0000141efffbf383fff41ff0b ||| R = R) (hk : Keeps R s₀ s) : Keeps R s₀ (State.clearDie d s) :=
  hk.step rfl rfl rfl rfl (fun g => Tbl.sorted_filter _ _ g) (fun g => Tbl.sorted_filter _ _ g) (fun g => Tbl.all_filter _ _ _ g) id id
    (fun k m _ => regs_all (sub_trans (by decide +kernel) hR) k m)
    (by intro p hp; cases p <;> first | rfl | exact bit_absurd (by decide +kernel) hR hp)

theorem State.afterReset_keeps {R : Nat} {s₀ s : State} (hR : 0xffffffffffffffffffffffffffffffffffffffffffffffffffffffffffffffffffffffffffffffffffffffffffffffffffff ||| R = R) (hk : Keeps R s₀ s) : Keeps R s₀ (State.afterReset s) := by
  unfold State.afterReset
  extract_lets torn failures kept
  have ht : Keeps R s₀ torn := Keeps.foldl hk fun s d h => State.tearRecord_keeps d (sub_trans (by decide +kernel) hR) h
  have h : Keeps R s₀ kept := ht.step rfl rfl rfl rfl (fun _ => rfl) (fun _ => rfl) (fun _ => rfl) id (fun _ => rfl)
    (fun k m _ => regs_all (sub_trans (by decide +kernel) hR) k m) (by intro p hp; cases p <;> first | rfl | exact bit_absurd (by decide +kernel) hR hp)
  exact State.put_keeps _ _ _ (sub_trans (by decide +kernel) hR) (bit_all (sub_trans (by decide +kernel) hR) _)
    (State.put_keeps _ _ _ (sub_trans (by decide +kernel) hR) (bit_all (sub_trans (by decide +kernel) hR) _) h)

end Sys2Proof.Machine
end

