-- ==== Sys2Proof/Laws/KeepsUnits.lean ====
section
/-!
SUPPORT. Every operation of Machine/Units.lean keeps what `Keeps` names.
-/

namespace Sys2Proof.Machine

set_option Elab.async false
set_option linter.all false

theorem State.uncell_keeps {R : Nat} {s₀ : State} {s : State} (d : Nat) (up : Bool) (q : Nat) (f : Frame)
    (hR : 0x28000000000000000000002100000000000000000000000000000000000000000000000000000000000 ||| R = R)
    (hk : Keeps R s₀ s) : Keeps R s₀ (State.uncell d up q f s) := by
  unfold State.uncell
  extract_lets v0 v1 v2
  have hv2 : Keeps R s₀ v2 := by
    unfold v2
    with_reducible
      repeat' first
        | assumption | exact sub_trans (by decide +kernel) hR | exact bit_of (by decide +kernel) hR | apply State.put_keeps | split | intro _
        | dsimp only
  try dsimp only
  with_reducible
    repeat' first
      | assumption | exact sub_trans (by decide +kernel) hR | exact bit_of (by decide +kernel) hR | apply State.put_keeps | split | intro _
      | dsimp only

theorem State.dropFrom_keeps {R : Nat} {s₀ : State} {s : State} (d : Nat) (up : Bool) (bad : Frame → Bool) (q : Nat)
    (hR : 0x828000000000000000000002100000000000000000000000000000000000000040000300000000003000 ||| R = R)
    (hk : Keeps R s₀ s) : Keeps R s₀ (State.dropFrom d up bad s q) := by
  unfold State.dropFrom
  try dsimp only
  with_reducible
    repeat' first
      | assumption | exact sub_trans (by decide +kernel) hR | apply State.setQueue_keeps | apply State.newHead_keeps | apply State.reofferQueue_keeps
      | apply State.dropQueued_keeps | apply State.uncell_keeps | apply Keeps.foldl | apply Keeps.foldl_snd | apply Keeps.foldl_fst
      | apply Keeps.foldl_build | split | intro _ | dsimp only

theorem State.flushTree_keeps {R : Nat} {s₀ : State} {s : State} (t : Nat)
    (hR : 0x828000000000000000000002100000000000000000000000000000000000000040000300000000003000 ||| R = R)
    (hk : Keeps R s₀ s) : Keeps R s₀ (State.flushTree t s) := by
  unfold State.flushTree
  try dsimp only
  with_reducible
    repeat' first
      | assumption | exact sub_trans (by decide +kernel) hR | apply State.dropFrom_keeps | apply Keeps.foldl | apply Keeps.foldl_snd
      | apply Keeps.foldl_fst | apply Keeps.foldl_build | split | intro _ | dsimp only

theorem State.treeStart_keeps {R : Nat} {s₀ : State} {s : State} (t : Nat)
    (hR : 0x240000000000000000000000000030000000000002400000000000000000004000008 ||| R = R)
    (hk : Keeps R s₀ s) : Keeps R s₀ (State.treeStart t s) := by
  unfold State.treeStart
  try dsimp only
  with_reducible
    repeat' first
      | assumption | exact sub_trans (by decide +kernel) hR | apply State.modTree_keeps | apply State.setUnit_keeps | split | intro _ | dsimp only

theorem State.treeShut_keeps {R : Nat} {s₀ : State} {s : State} (t : Nat)
    (hR : 0x240000000000000000000000000030000000000002400000000000000000000000008 ||| R = R)
    (hk : Keeps R s₀ s) : Keeps R s₀ (State.treeShut t s) := by
  unfold State.treeShut
  try dsimp only
  with_reducible repeat' first | assumption | exact sub_trans (by decide +kernel) hR | apply State.setUnit_keeps | split | intro _ | dsimp only

theorem State.releaseClaim_keeps {R : Nat} {s₀ : State} {s : State}
    (hR : 0x10000000000000000000000000000000 ||| R = R)
    (hk : Keeps R s₀ s) : Keeps R s₀ (State.releaseClaim s) := by
  unfold State.releaseClaim
  try dsimp only
  with_reducible
    repeat' first
      | assumption | exact sub_trans (by decide +kernel) hR | exact bit_of (by decide +kernel) hR
      | (unfold txState; split <;> exact bit_of (by decide +kernel) hR) | apply State.put_keeps | split | intro _ | dsimp only

theorem State.dropTree_keeps {R : Nat} {s₀ : State} {s : State} (t : Nat)
    (hR : 0x1fc0000000000000000000000000000000000000000000000000000000000020000078000000 ||| R = R)
    (hk : Keeps R s₀ s) : Keeps R s₀ (State.dropTree t s) := by
  unfold State.dropTree
  try dsimp only
  with_reducible
    repeat' first
      | assumption | exact sub_trans (by decide +kernel) hR | exact bit_of (by decide +kernel) hR | exact id | exact fun g => Tbl.sorted_filter _ _ g
      | exact regs_filter_other fun e m => (by (try dsimp only); rw [any_num_of (by decide +kernel) hR m, Bool.and_false, Bool.not_false])
      | exact fun _ => rfl | exact fun _ _ _ => rfl | split
      | (with_unfolding_all (intro p hp; cases p <;> first | rfl | exact bit_absurd (by decide +kernel) hR hp)) | intro _ | dsimp only
      | apply Keeps.set_terms | apply Keeps.set_allocs | apply Keeps.set_resv | apply Keeps.set_rot | apply Keeps.set_frags | apply Keeps.change

theorem State.treeOff_keeps {R : Nat} {s₀ : State} {s : State} (t : Nat)
    (hR : 0x1fc000024000000000000018000730200203000000003000240000000000002000007e000008 ||| R = R)
    (hk : Keeps R s₀ s) : Keeps R s₀ (State.treeOff t s) := by
  unfold State.treeOff
  extract_lets v0 v1 v2 v3 v4 v5
  have hv0 : Keeps R s₀ v0 := by
    unfold v0
    with_reducible
      repeat' first
        | assumption | exact sub_trans (by decide +kernel) hR | exact bit_of (by decide +kernel) hR | exact all_bits_of (by decide +kernel) hR
        | exact bits_of (by assumption) (by decide +kernel) hR | exact desc_bits_of (by assumption) (by decide +kernel) hR
        | exact bits_of (by assumption) (by assumption) (Nat.or_self _) | apply State.put_keeps | apply State.clearRec_keeps
        | apply State.modSet_keeps | apply State.modTree_keeps | apply State.setUnit_keeps | apply State.darken_keeps | apply State.freeTerm_keeps
        | apply State.showPending_keeps | apply State.releaseClaim_keeps | apply State.dropTree_keeps | apply Keeps.foldl_mem | apply Keeps.foldl_snd
        | apply Keeps.foldl_fst | apply Keeps.foldl_build | split | intro _ | dsimp only
  have hv1 : Keeps R s₀ v1 := by
    unfold v1
    with_reducible
      repeat' first
        | assumption | exact sub_trans (by decide +kernel) hR | exact bit_of (by decide +kernel) hR | exact all_bits_of (by decide +kernel) hR
        | exact bits_of (by assumption) (by decide +kernel) hR | exact desc_bits_of (by assumption) (by decide +kernel) hR
        | exact bits_of (by assumption) (by assumption) (Nat.or_self _) | apply State.put_keeps | apply State.clearRec_keeps
        | apply State.modSet_keeps | apply State.modTree_keeps | apply State.setUnit_keeps | apply State.darken_keeps | apply State.freeTerm_keeps
        | apply State.showPending_keeps | apply State.releaseClaim_keeps | apply State.dropTree_keeps | apply Keeps.foldl_mem | apply Keeps.foldl_snd
        | apply Keeps.foldl_fst | apply Keeps.foldl_build | split | intro _ | dsimp only
  have hv2 : Keeps R s₀ v2 := by
    unfold v2
    with_reducible
      repeat' first
        | assumption | exact sub_trans (by decide +kernel) hR | exact bit_of (by decide +kernel) hR | exact all_bits_of (by decide +kernel) hR
        | exact bits_of (by assumption) (by decide +kernel) hR | exact desc_bits_of (by assumption) (by decide +kernel) hR
        | exact bits_of (by assumption) (by assumption) (Nat.or_self _) | apply State.put_keeps | apply State.clearRec_keeps
        | apply State.modSet_keeps | apply State.modTree_keeps | apply State.setUnit_keeps | apply State.darken_keeps | apply State.freeTerm_keeps
        | apply State.showPending_keeps | apply State.releaseClaim_keeps | apply State.dropTree_keeps | apply Keeps.foldl_mem | apply Keeps.foldl_snd
        | apply Keeps.foldl_fst | apply Keeps.foldl_build | split | intro _ | dsimp only
  have hv3 : Keeps R s₀ v3 := by
    unfold v3
    with_reducible
      repeat' first
        | assumption | exact sub_trans (by decide +kernel) hR | exact bit_of (by decide +kernel) hR | exact all_bits_of (by decide +kernel) hR
        | exact bits_of (by assumption) (by decide +kernel) hR | exact desc_bits_of (by assumption) (by decide +kernel) hR
        | exact bits_of (by assumption) (by assumption) (Nat.or_self _) | apply State.put_keeps | apply State.clearRec_keeps
        | apply State.modSet_keeps | apply State.modTree_keeps | apply State.setUnit_keeps | apply State.darken_keeps | apply State.freeTerm_keeps
        | apply State.showPending_keeps | apply State.releaseClaim_keeps | apply State.dropTree_keeps | apply Keeps.foldl_mem | apply Keeps.foldl_snd
        | apply Keeps.foldl_fst | apply Keeps.foldl_build | split | intro _ | dsimp only
  have hv4 : Keeps R s₀ v4 := by
    unfold v4
    with_reducible
      repeat' first
        | assumption | exact sub_trans (by decide +kernel) hR | exact bit_of (by decide +kernel) hR | exact all_bits_of (by decide +kernel) hR
        | exact bits_of (by assumption) (by decide +kernel) hR | exact desc_bits_of (by assumption) (by decide +kernel) hR
        | exact bits_of (by assumption) (by assumption) (Nat.or_self _) | apply State.put_keeps | apply State.clearRec_keeps
        | apply State.modSet_keeps | apply State.modTree_keeps | apply State.setUnit_keeps | apply State.darken_keeps | apply State.freeTerm_keeps
        | apply State.showPending_keeps | apply State.releaseClaim_keeps | apply State.dropTree_keeps | apply Keeps.foldl_mem | apply Keeps.foldl_snd
        | apply Keeps.foldl_fst | apply Keeps.foldl_build | split | intro _ | dsimp only
  have hv5 : Keeps R s₀ v5 := by
    unfold v5
    with_reducible
      repeat' first
        | assumption | exact sub_trans (by decide +kernel) hR | exact bit_of (by decide +kernel) hR | exact all_bits_of (by decide +kernel) hR
        | exact bits_of (by assumption) (by decide +kernel) hR | exact desc_bits_of (by assumption) (by decide +kernel) hR
        | exact bits_of (by assumption) (by assumption) (Nat.or_self _) | apply State.put_keeps | apply State.clearRec_keeps
        | apply State.modSet_keeps | apply State.modTree_keeps | apply State.setUnit_keeps | apply State.darken_keeps | apply State.freeTerm_keeps
        | apply State.showPending_keeps | apply State.releaseClaim_keeps | apply State.dropTree_keeps | apply Keeps.foldl_mem | apply Keeps.foldl_snd
        | apply Keeps.foldl_fst | apply Keeps.foldl_build | split | intro _ | dsimp only
  try dsimp only
  with_reducible
    repeat' first
      | assumption | exact sub_trans (by decide +kernel) hR | exact bit_of (by decide +kernel) hR | exact all_bits_of (by decide +kernel) hR
      | exact bits_of (by assumption) (by decide +kernel) hR | exact desc_bits_of (by assumption) (by decide +kernel) hR
      | exact bits_of (by assumption) (by assumption) (Nat.or_self _) | apply State.put_keeps | apply State.clearRec_keeps | apply State.modSet_keeps
      | apply State.modTree_keeps | apply State.setUnit_keeps | apply State.darken_keeps | apply State.freeTerm_keeps | apply State.showPending_keeps
      | apply State.releaseClaim_keeps | apply State.dropTree_keeps | apply Keeps.foldl_mem | apply Keeps.foldl_snd | apply Keeps.foldl_fst
      | apply Keeps.foldl_build | split | intro _ | dsimp only

theorem State.treeOn_keeps {R : Nat} {s₀ : State} {s : State} (t : Nat)
    (hR : 0x3001fc0000240000000000000190801002002030000000010002400000000000800078090000008 ||| R = R)
    (hk : Keeps R s₀ s) : Keeps R s₀ (State.treeOn t s) := by
  unfold State.treeOn
  try dsimp only
  with_reducible
    repeat' first
      | assumption | exact sub_trans (by decide +kernel) hR | apply State.setUnit_keeps | apply State.judgeTree_keeps | apply State.opticsLit_keeps
      | apply State.circuitsResume_keeps | split | intro _ | dsimp only

theorem State.startUnit_keeps {R : Nat} {s₀ : State} {s : State} (u : UnitId)
    (hR : 0x24000002000000000000000000003000000001400240000000007c000000004000009 ||| R = R)
    (hk : Keeps R s₀ s) : Keeps R s₀ (State.startUnit u s) := by
  unfold State.startUnit
  try dsimp only
  with_reducible
    repeat' first
      | assumption | exact sub_trans (by decide +kernel) hR | exact bit_of (by decide +kernel) hR | apply State.put_keeps | apply State.setUnit_keeps
      | apply State.laneTo_keeps | apply State.linkTo_keeps | apply State.treeStart_keeps | split | intro _ | dsimp only

theorem State.shutUnit_keeps {R : Nat} {s₀ : State} {s : State} (u : UnitId)
    (hR : 0x24000002000000000000000000003000000001400240000000007c000000000000009 ||| R = R)
    (hk : Keeps R s₀ s) : Keeps R s₀ (State.shutUnit u s) := by
  unfold State.shutUnit
  try dsimp only
  with_reducible
    repeat' first
      | assumption | exact sub_trans (by decide +kernel) hR | apply State.setUnit_keeps | apply State.laneTo_keeps | apply State.linkTo_keeps
      | apply State.treeShut_keeps | split | intro _ | dsimp only

theorem State.showLatched_keeps {R : Nat} {s₀ : State} {s : State} (t : Nat)
    (hR : 0x2000000000000000000000000000 ||| R = R)
    (hk : Keeps R s₀ s) : Keeps R s₀ (State.showLatched t s) := by
  unfold State.showLatched
  try dsimp only
  with_reducible
    repeat' first
      | assumption | exact sub_trans (by decide +kernel) hR | exact bit_of (by decide +kernel) hR | apply State.putFlag_keeps | split | intro _
      | dsimp only

theorem State.requestUnit_keeps {R : Nat} {s₀ : State} {s : State} (u : UnitId) (on : Bool)
    (hR : 0x24000002000000000000000000003000000001400240000000007c00000000400000d ||| R = R)
    (hk : Keeps R s₀ s) : Keeps R s₀ (State.requestUnit u on s) := by
  unfold State.requestUnit
  try dsimp only
  with_reducible
    repeat' first
      | assumption | exact sub_trans (by decide +kernel) hR | apply State.setLatch_keeps | apply State.startUnit_keeps | apply State.shutUnit_keeps
      | apply State.showLatched_keeps | split | intro _ | dsimp only

theorem State.putEnable_keeps {R : Nat} {s₀ : State} {s : State} (u : UnitId) (on : Bool)
    (hR : 0x120000000000000000000000000000000000000000400000000000000000000000000 ||| R = R)
    (hk : Keeps R s₀ s) : Keeps R s₀ (State.putEnable u on s) := by
  unfold State.putEnable
  try dsimp only
  with_reducible
    repeat' first
      | assumption | exact sub_trans (by decide +kernel) hR | exact bit_of (by decide +kernel) hR | apply State.putFlag_keeps | split | intro _
      | dsimp only

theorem State.shutDieUnits_keeps {R : Nat} {s₀ : State} {s : State} (d : Nat)
    (hR : 0x24000002000000000000000000003000000001400240000000007c00000000400000d ||| R = R)
    (hk : Keeps R s₀ s) : Keeps R s₀ (State.shutDieUnits d s) := by
  unfold State.shutDieUnits
  try dsimp only
  with_reducible
    repeat' first
      | assumption | exact sub_trans (by decide +kernel) hR | apply State.requestUnit_keeps | apply Keeps.foldl | apply Keeps.foldl_snd
      | apply Keeps.foldl_fst | apply Keeps.foldl_build | split | intro _ | dsimp only

theorem State.requestDie_keeps {R : Nat} {s₀ : State} {s : State} (d : Nat) (on : Bool)
    (hR : 0x24000002000000000000000000003000000001400240000000007c00000000400000d ||| R = R)
    (hk : Keeps R s₀ s) : Keeps R s₀ (State.requestDie d on s) := by
  unfold State.requestDie
  try dsimp only
  with_reducible
    repeat' first
      | assumption | exact sub_trans (by decide +kernel) hR | apply State.setLatch_keeps | apply State.requestUnit_keeps
      | apply State.shutDieUnits_keeps | split | intro _ | dsimp only

theorem State.forgetRestart_keeps {R : Nat} {s₀ : State} {s : State} (u : UnitId)
    (hR : 0x10000000004030000 ||| R = R)
    (hk : Keeps R s₀ s) : Keeps R s₀ (State.forgetRestart u s) := by
  unfold State.forgetRestart
  try dsimp only
  with_reducible
    repeat' first
      | assumption | exact sub_trans (by decide +kernel) hR | exact bit_of (by decide +kernel) hR | exact id | exact fun _ => rfl
      | exact fun _ _ _ => rfl | split | (with_unfolding_all (intro p hp; cases p <;> first | rfl | exact bit_absurd (by decide +kernel) hR hp))
      | intro _ | dsimp only | apply Keeps.set_dieStacks | apply Keeps.set_clock | apply Keeps.set_trees | apply Keeps.set_lanes | apply Keeps.change

theorem execUnitEnableRequest_keeps {R : Nat} {s₀ : State} {s : State} (u : UnitId) (on : Bool)
    (hR : 0x36000002000000000000000000003000000001400240000000007c00000000403000d ||| R = R)
    (hk : Keeps R s₀ s) : ResultKeeps R s₀ (execUnitEnableRequest u on s) := by
  unfold execUnitEnableRequest
  extract_lets v0 v1
  have hv0 : Keeps R s₀ v0 := by
    unfold v0
    with_reducible
      repeat' first
        | assumption | exact sub_trans (by decide +kernel) hR | apply State.requestUnit_keeps | apply State.putEnable_keeps
        | apply State.requestDie_keeps | apply State.forgetRestart_keeps | apply ResultKeeps.next | split | intro _ | dsimp only
  have hv1 : Keeps R s₀ v1 := by
    unfold v1
    with_reducible
      repeat' first
        | assumption | exact sub_trans (by decide +kernel) hR | apply State.requestUnit_keeps | apply State.putEnable_keeps
        | apply State.requestDie_keeps | apply State.forgetRestart_keeps | apply ResultKeeps.next | split | intro _ | dsimp only
  try dsimp only
  with_reducible
    repeat' first
      | assumption | exact sub_trans (by decide +kernel) hR | apply State.requestUnit_keeps | apply State.putEnable_keeps
      | apply State.requestDie_keeps | apply State.forgetRestart_keeps | apply ResultKeeps.next | split | intro _ | dsimp only

end Sys2Proof.Machine
end

