-- ==== Sys2Proof/Laws/KeepsWeave.lean ====
section
/-!
SUPPORT. Every operation of Machine/Weave.lean keeps what `Keeps` names.
-/

namespace Sys2Proof.Machine

set_option Elab.async false
set_option linter.all false

theorem State.spreadSelection_keeps {R : Nat} {s₀ : State} {s : State}
    (hR : 0xa00000000000000000000000a00000000000000000000030000000000000000000000000000000000000081 ||| R = R)
    (hk : Keeps R s₀ s) : Keeps R s₀ (State.spreadSelection s) := by
  unfold State.spreadSelection
  try dsimp only
  with_reducible
    repeat' first
      | assumption | exact sub_trans (by decide +kernel) hR | apply State.writeRecord_keeps | apply Keeps.foldl | apply Keeps.foldl_snd
      | apply Keeps.foldl_fst | apply Keeps.foldl_build | split | intro _ | dsimp only

theorem State.writeSelect_keeps {R : Nat} {s₀ : State} {s : State} (epoch slot : Nat) (trial : Bool) (b : Memory)
    (hR : 0xa00000000000000000000000a00000000000000000000030000000000000000000000000000000000000081 ||| R = R)
    (hk : Keeps R s₀ s) : Keeps R s₀ (State.writeSelect epoch slot trial b s) := by
  unfold State.writeSelect
  try dsimp only
  with_reducible repeat' first | assumption | exact sub_trans (by decide +kernel) hR | apply State.writeAll_keeps | split | intro _ | dsimp only

theorem State.dmkResult_keeps {R : Nat} {s₀ : State} {s : State} (c : Nat)
    (hR : 0x800000000000000000000000000 ||| R = R)
    (hk : Keeps R s₀ s) : Keeps R s₀ (State.dmkResult c s) := by
  unfold State.dmkResult
  try dsimp only
  with_reducible
    repeat' first
      | assumption | exact sub_trans (by decide +kernel) hR | exact bit_of (by decide +kernel) hR | apply State.put_keeps | split | intro _
      | dsimp only

theorem State.dmkDone_keeps {R : Nat} {s₀ : State} {s : State} (c : Nat)
    (hR : 0x30000000000000800000000000000000000000000 ||| R = R)
    (hk : Keeps R s₀ s) : Keeps R s₀ (State.dmkDone c s) := by
  unfold State.dmkDone
  try dsimp only
  with_reducible
    repeat' first
      | assumption | exact sub_trans (by decide +kernel) hR | apply State.raisePkg_keeps | apply State.dmkResult_keeps | split | intro _ | dsimp only

theorem State.dmkRefused_keeps {R : Nat} {s₀ : State} {s : State}
    (hR : 0x30000000000000800000010000000000000000000 ||| R = R)
    (hk : Keeps R s₀ s) : Keeps R s₀ (State.dmkRefused s) := by
  unfold State.dmkRefused
  try dsimp only
  with_reducible
    repeat' first
      | assumption | exact sub_trans (by decide +kernel) hR | apply State.useFree_keeps | apply State.dmkDone_keeps | split | intro _ | dsimp only

theorem State.dmkLocked_keeps {R : Nat} {s₀ : State} {s : State}
    (hR : 0x30000000000010800000000000000000000000000 ||| R = R)
    (hk : Keeps R s₀ s) : Keeps R s₀ (State.dmkLocked s) := by
  unfold State.dmkLocked
  try dsimp only
  with_reducible
    repeat' first
      | assumption | exact sub_trans (by decide +kernel) hR | apply State.fwEvent_keeps | apply State.dmkDone_keeps | split | intro _ | dsimp only

theorem State.weaveState_keeps {R : Nat} {s₀ : State} {s : State} (v : Nat)
    (hR : 0x800000000000000000000000000 ||| R = R)
    (hk : Keeps R s₀ s) : Keeps R s₀ (State.weaveState v s) := by
  unfold State.weaveState
  try dsimp only
  with_reducible
    repeat' first
      | assumption | exact sub_trans (by decide +kernel) hR | exact bit_of (by decide +kernel) hR | apply State.put_keeps | split | intro _
      | dsimp only

theorem State.tweedStart_keeps {R : Nat} {s₀ : State} {s : State} (d : Nat)
    (hR : 0x80800000000000000000000000000000000000700 ||| R = R)
    (hk : Keeps R s₀ s) : Keeps R s₀ (State.tweedStart d s) := by
  unfold State.tweedStart
  extract_lets v0 v1 v2
  have hv2 : Keeps R s₀ v2 := by
    unfold v2
    with_reducible
      repeat' first
        | assumption | exact sub_trans (by decide +kernel) hR | exact bit_of (by decide +kernel) hR | exact all_bits_of (by decide +kernel) hR
        | apply State.put_keeps | apply State.clearRec_keeps | apply State.modTweed_keeps | exact id | exact fun _ => rfl | exact fun _ _ _ => rfl
        | split | (with_unfolding_all (intro p hp; cases p <;> first | rfl | exact bit_absurd (by decide +kernel) hR hp)) | intro _ | dsimp only
        | apply Keeps.set_cores | apply Keeps.set_ctxStore | apply Keeps.change
  try dsimp only
  with_reducible
    repeat' first
      | assumption | exact sub_trans (by decide +kernel) hR | exact bit_of (by decide +kernel) hR | exact all_bits_of (by decide +kernel) hR
      | apply State.put_keeps | apply State.clearRec_keeps | apply State.modTweed_keeps | exact id | exact fun _ => rfl | exact fun _ _ _ => rfl
      | split | (with_unfolding_all (intro p hp; cases p <;> first | rfl | exact bit_absurd (by decide +kernel) hR hp)) | intro _ | dsimp only
      | apply Keeps.set_cores | apply Keeps.set_ctxStore | apply Keeps.change

theorem State.weaveSect_keeps {R : Nat} {s₀ : State} {s : State} (type unit : Nat) (b : List Nat)
    (hR : 0x2 ||| R = R)
    (hk : Keeps R s₀ s) : Keeps R s₀ (State.weaveSect type unit b s) := by
  unfold State.weaveSect
  try dsimp only
  with_reducible
    repeat' first
      | assumption | exact sub_trans (by decide +kernel) hR | exact bit_of (by decide +kernel) hR | exact id | exact fun _ => rfl
      | exact fun _ _ _ => rfl | split | (with_unfolding_all (intro p hp; cases p <;> first | rfl | exact bit_absurd (by decide +kernel) hR hp))
      | intro _ | dsimp only | apply Keeps.set_sects | apply Keeps.change

theorem State.setLineMode_keeps {R : Nat} {s₀ : State} {s : State} (t : Nat)
    (hR : 0x800000002030001000000002000000000000000000000000000 ||| R = R)
    (hk : Keeps R s₀ s) : Keeps R s₀ (State.setLineMode t s) := by
  unfold State.setLineMode
  try dsimp only
  with_reducible
    repeat' first
      | assumption | exact sub_trans (by decide +kernel) hR | exact bit_of (by decide +kernel) hR | apply State.put_keeps
      | apply State.judgeBooking_keeps | split | intro _ | dsimp only

theorem State.weaveTree_keeps {R : Nat} {s₀ : State} {s : State} (b : Memory) (t : Nat)
    (hR : 0x800000002030001000000002000000000000000000000000002 ||| R = R)
    (hk : Keeps R s₀ s) : Keeps R s₀ (State.weaveTree b t s) := by
  unfold State.weaveTree
  try dsimp only
  with_reducible
    repeat' first
      | assumption | exact sub_trans (by decide +kernel) hR | apply State.weaveSect_keeps | apply State.setLineMode_keeps | apply Keeps.foldl
      | apply Keeps.foldl_snd | apply Keeps.foldl_fst | apply Keeps.foldl_build | split | intro _ | dsimp only

theorem State.holdFor_keeps {R : Nat} {s₀ : State} {s : State} (d l : Nat)
    (hR : 0x20000000000000000000030000000000000000000000000000000000000000 ||| R = R)
    (hk : Keeps R s₀ s) : Keeps R s₀ (State.holdFor d l s) := by
  unfold State.holdFor
  try dsimp only
  with_reducible
    repeat' first
      | assumption | exact sub_trans (by decide +kernel) hR | apply State.portCause_keeps | apply State.laneCause_keeps | split | intro _ | dsimp only

theorem State.weaveDie_keeps {R : Nat} {s₀ : State} {s : State} (b : Memory) (d : Nat)
    (hR : 0x200000000008000000020b0801000000002000000110000000000000000702 ||| R = R)
    (hk : Keeps R s₀ s) : Keeps R s₀ (State.weaveDie b d s) := by
  unfold State.weaveDie
  extract_lets v0 v1 v2 v3 v4 v5
  have hv0 : Keeps R s₀ v0 := by
    unfold v0
    with_reducible
      repeat' first
        | assumption | exact sub_trans (by decide +kernel) hR | apply State.drawRoot_keeps | apply State.linkCause_keeps
        | apply State.tweedStart_keeps | apply State.weaveSect_keeps | apply State.weaveTree_keeps | apply State.holdFor_keeps | apply Keeps.foldl
        | apply Keeps.foldl_snd | apply Keeps.foldl_fst | apply Keeps.foldl_build | split | intro _ | dsimp only
  have hv2 : Keeps R s₀ v2 := by
    unfold v2
    with_reducible
      repeat' first
        | assumption | exact sub_trans (by decide +kernel) hR | apply State.drawRoot_keeps | apply State.linkCause_keeps
        | apply State.tweedStart_keeps | apply State.weaveSect_keeps | apply State.weaveTree_keeps | apply State.holdFor_keeps | apply Keeps.foldl
        | apply Keeps.foldl_snd | apply Keeps.foldl_fst | apply Keeps.foldl_build | split | intro _ | dsimp only
  have hv3 : Keeps R s₀ v3 := by
    unfold v3
    with_reducible
      repeat' first
        | assumption | exact sub_trans (by decide +kernel) hR | apply State.drawRoot_keeps | apply State.linkCause_keeps
        | apply State.tweedStart_keeps | apply State.weaveSect_keeps | apply State.weaveTree_keeps | apply State.holdFor_keeps | apply Keeps.foldl
        | apply Keeps.foldl_snd | apply Keeps.foldl_fst | apply Keeps.foldl_build | split | intro _ | dsimp only
  have hv4 : Keeps R s₀ v4 := by
    unfold v4
    with_reducible
      repeat' first
        | assumption | exact sub_trans (by decide +kernel) hR | apply State.drawRoot_keeps | apply State.linkCause_keeps
        | apply State.tweedStart_keeps | apply State.weaveSect_keeps | apply State.weaveTree_keeps | apply State.holdFor_keeps | apply Keeps.foldl
        | apply Keeps.foldl_snd | apply Keeps.foldl_fst | apply Keeps.foldl_build | split | intro _ | dsimp only
  have hv5 : Keeps R s₀ v5 := by
    unfold v5
    with_reducible
      repeat' first
        | assumption | exact sub_trans (by decide +kernel) hR | apply State.drawRoot_keeps | apply State.linkCause_keeps
        | apply State.tweedStart_keeps | apply State.weaveSect_keeps | apply State.weaveTree_keeps | apply State.holdFor_keeps | apply Keeps.foldl
        | apply Keeps.foldl_snd | apply Keeps.foldl_fst | apply Keeps.foldl_build | split | intro _ | dsimp only
  try dsimp only
  with_reducible
    repeat' first
      | assumption | exact sub_trans (by decide +kernel) hR | apply State.drawRoot_keeps | apply State.linkCause_keeps | apply State.tweedStart_keeps
      | apply State.weaveSect_keeps | apply State.weaveTree_keeps | apply State.holdFor_keeps | apply Keeps.foldl | apply Keeps.foldl_snd
      | apply Keeps.foldl_fst | apply Keeps.foldl_build | split | intro _ | dsimp only

theorem State.beginWeave_keeps {R : Nat} {s₀ : State} {s : State}
    (hR : 0xfffffffffffffffffffffffffffffffffffffffffffffffffffffffffffffffffffffffffff00001c04c3f2f103181007093 ||| R = R)
    (hk : Keeps R s₀ s) : Keeps R s₀ (State.beginWeave s) := by
  unfold State.beginWeave
  try dsimp only
  with_reducible
    repeat' first
      | assumption | exact sub_trans (by decide +kernel) hR | exact bit_of (by decide +kernel) hR | exact bit_all (sub_trans (by decide +kernel) hR) _
      | exact List.all_eq_true.2 fun _ _ => bit_all (sub_trans (by decide +kernel) hR) _ | apply State.put_keeps | apply State.putFlag_keeps
      | apply State.modLoader_keeps | apply State.cancelSnapshot_keeps | apply State.loadImageValues_keeps | apply State.clearWeave_keeps
      | apply State.writeSelect_keeps | apply State.dmkResult_keeps | apply State.dmkDone_keeps | apply State.weaveState_keeps | exact fun _ hl => hl
      | exact id | exact fun _ => rfl | exact fun _ _ _ => rfl | split
      | (with_unfolding_all (intro p hp; cases p <;> first | rfl | exact bit_absurd (by decide +kernel) hR hp)) | intro _ | dsimp only
      | apply Keeps.set_sects | apply Keeps.change

theorem State.weaveIfOff_keeps {R : Nat} {s₀ : State} {s : State}
    (hR : 0xfffffffffffffffffffffffffffffffffffffffffffffffffffffffffffffffffffffffffff00001c04c3f2f103181007093 ||| R = R)
    (hk : Keeps R s₀ s) : Keeps R s₀ (State.weaveIfOff s) := by
  unfold State.weaveIfOff
  try dsimp only
  with_reducible
    repeat' first
      | assumption | exact sub_trans (by decide +kernel) hR | exact bit_all (sub_trans (by decide +kernel) hR) _
      | exact List.all_eq_true.2 fun _ _ => bit_all (sub_trans (by decide +kernel) hR) _ | apply State.beginWeave_keeps | split | intro _ | dsimp only

theorem State.startWeave_keeps {R : Nat} {s₀ : State} {s : State}
    (hR : 0xfffffffffffffffffffffffffffffffffffffffffffffffffffffffffffffffffffffffffff00001c04fff2f10318500709f ||| R = R)
    (hk : Keeps R s₀ s) : Keeps R s₀ (State.startWeave s) := by
  unfold State.startWeave
  try dsimp only
  with_reducible
    repeat' first
      | assumption | exact sub_trans (by decide +kernel) hR | exact bit_all (sub_trans (by decide +kernel) hR) _
      | exact List.all_eq_true.2 fun _ _ => bit_all (sub_trans (by decide +kernel) hR) _ | apply State.modLoader_keeps
      | apply State.shutDieUnits_keeps | apply State.weaveIfOff_keeps | exact fun _ hl => hl | apply Keeps.foldl | apply Keeps.foldl_snd
      | apply Keeps.foldl_fst | apply Keeps.foldl_build | split | intro _ | dsimp only

theorem State.enableDie_keeps {R : Nat} {s₀ : State} {s : State} (d : Nat)
    (hR : 0x36000002000000000000000000003000000001400240000000007c00000000400000d ||| R = R)
    (hk : Keeps R s₀ s) : Keeps R s₀ (State.enableDie d s) := by
  unfold State.enableDie
  extract_lets v0 v1 v2
  have hv1 : Keeps R s₀ v1 := by
    unfold v1
    with_reducible
      repeat' first
        | assumption | exact sub_trans (by decide +kernel) hR | apply State.requestUnit_keeps | apply State.putEnable_keeps | apply Keeps.foldl
        | apply Keeps.foldl_snd | apply Keeps.foldl_fst | apply Keeps.foldl_build | split | intro _ | dsimp only
  have hv2 : Keeps R s₀ v2 := by
    unfold v2
    with_reducible
      repeat' first
        | assumption | exact sub_trans (by decide +kernel) hR | apply State.requestUnit_keeps | apply State.putEnable_keeps | apply Keeps.foldl
        | apply Keeps.foldl_snd | apply Keeps.foldl_fst | apply Keeps.foldl_build | split | intro _ | dsimp only
  try dsimp only
  with_reducible
    repeat' first
      | assumption | exact sub_trans (by decide +kernel) hR | apply State.requestUnit_keeps | apply State.putEnable_keeps | apply Keeps.foldl
      | apply Keeps.foldl_snd | apply Keeps.foldl_fst | apply Keeps.foldl_build | split | intro _ | dsimp only

theorem State.endWeave_keeps {R : Nat} {s₀ : State} {s : State}
    (hR : 0x360000020000000000000000000030000000014002c0000000007c00000000400001d ||| R = R)
    (hk : Keeps R s₀ s) : Keeps R s₀ (State.endWeave s) := by
  unfold State.endWeave
  extract_lets v0 v1 v2 v3 v4
  have hv2 : Keeps R s₀ v2 := by
    unfold v2
    with_reducible
      repeat' first
        | assumption | exact sub_trans (by decide +kernel) hR | exact bit_of (by decide +kernel) hR | apply State.put_keeps
        | apply State.raisePkg_keeps | apply State.modLoader_keeps | apply State.dmkResult_keeps | apply State.weaveState_keeps
        | apply State.enableDie_keeps | exact fun _ hl => hl | apply Keeps.foldl | apply Keeps.foldl_snd | apply Keeps.foldl_fst
        | apply Keeps.foldl_build | split | intro _ | dsimp only
  clear_value v2
  have hv3 : Keeps R s₀ v3 := by
    unfold v3
    with_reducible
      repeat' first
        | assumption | exact sub_trans (by decide +kernel) hR | exact bit_of (by decide +kernel) hR | apply State.put_keeps
        | apply State.raisePkg_keeps | apply State.modLoader_keeps | apply State.dmkResult_keeps | apply State.weaveState_keeps
        | apply State.enableDie_keeps | exact fun _ hl => hl | apply Keeps.foldl | apply Keeps.foldl_snd | apply Keeps.foldl_fst
        | apply Keeps.foldl_build | split | intro _ | dsimp only
  clear_value v3
  have hv4 : Keeps R s₀ v4 := by
    unfold v4
    with_reducible
      repeat' first
        | assumption | exact sub_trans (by decide +kernel) hR | exact bit_of (by decide +kernel) hR | apply State.put_keeps
        | apply State.raisePkg_keeps | apply State.modLoader_keeps | apply State.dmkResult_keeps | apply State.weaveState_keeps
        | apply State.enableDie_keeps | exact fun _ hl => hl | apply Keeps.foldl | apply Keeps.foldl_snd | apply Keeps.foldl_fst
        | apply Keeps.foldl_build | split | intro _ | dsimp only
  clear_value v4
  try dsimp only
  with_reducible
    repeat' first
      | assumption | exact sub_trans (by decide +kernel) hR | exact bit_of (by decide +kernel) hR | apply State.put_keeps | apply State.raisePkg_keeps
      | apply State.modLoader_keeps | apply State.dmkResult_keeps | apply State.weaveState_keeps | apply State.enableDie_keeps | exact fun _ hl => hl
      | apply Keeps.foldl | apply Keeps.foldl_snd | apply Keeps.foldl_fst | apply Keeps.foldl_build | split | intro _ | dsimp only

theorem State.actLatch_keeps {R : Nat} {s₀ : State} {s : State} (u : UnitId)
    (hR : 0x24000002000000000000000000003000000001400240000000007c00000000400000d ||| R = R)
    (hk : Keeps R s₀ s) : Keeps R s₀ (State.actLatch u s) := by
  unfold State.actLatch
  extract_lets v0 v1
  have hv1 : Keeps R s₀ v1 := by
    unfold v1
    with_reducible
      repeat' first
        | assumption | exact sub_trans (by decide +kernel) hR | apply State.setLatch_keeps | apply State.requestUnit_keeps
        | apply State.requestDie_keeps | split | intro _ | dsimp only
  try dsimp only
  with_reducible
    repeat' first
      | assumption | exact sub_trans (by decide +kernel) hR | apply State.setLatch_keeps | apply State.requestUnit_keeps
      | apply State.requestDie_keeps | split | intro _ | dsimp only

theorem execWeaveDone_keeps {R : Nat} {s₀ : State} {s : State} (d : Nat)
    (hR : 0x3600000200000000008000000020b0801000014002c0000011007c00000000400071f ||| R = R)
    (hk : Keeps R s₀ s) : ResultKeeps R s₀ (execWeaveDone d s) := by
  unfold execWeaveDone
  try dsimp only
  with_reducible
    repeat' first
      | assumption | exact sub_trans (by decide +kernel) hR | apply State.modLoader_keeps | apply State.setUnit_keeps | apply State.weaveDie_keeps
      | apply State.endWeave_keeps | apply State.actLatch_keeps | apply ResultKeeps.next | exact fun _ hl => hl | split | intro _ | dsimp only

theorem State.runReweave_keeps {R : Nat} {s₀ : State} {s : State} (t : Nat)
    (hR : 0x828000000000000240000002100000000000000000030000000000002c00000040000300000000003018 ||| R = R)
    (hk : Keeps R s₀ s) : Keeps R s₀ (State.runReweave t s) := by
  unfold State.runReweave
  try dsimp only
  with_reducible
    repeat' first
      | assumption | exact sub_trans (by decide +kernel) hR | exact bit_of (by decide +kernel) hR | apply State.put_keeps
      | apply State.modLoader_keeps | apply State.flushTree_keeps | apply State.treeShut_keeps | apply State.weaveState_keeps | exact fun _ hl => hl
      | split | intro _ | dsimp only

theorem State.startReweave_keeps {R : Nat} {s₀ : State} {s : State} (t slot : Nat)
    (hR : 0x828000000000000240000002100000000000000000030000000000002c00000050000300000000003018 ||| R = R)
    (hk : Keeps R s₀ s) : Keeps R s₀ (State.startReweave t slot s) := by
  unfold State.startReweave
  try dsimp only
  with_reducible
    repeat' first
      | assumption | exact sub_trans (by decide +kernel) hR | apply State.modLoader_keeps | apply State.dmkResult_keeps | apply State.dmkDone_keeps
      | apply State.dmkRefused_keeps | apply State.weaveState_keeps | apply State.runReweave_keeps | exact fun _ hl => hl | split | intro _
      | dsimp only

theorem State.dropTreeValues_keeps {R : Nat} {s₀ : State} {s : State} (t : Nat)
    (hR : 0xf00000000000000000008000000000000000000000000000000000000000000000000000c000000000000 ||| R = R)
    (hk : Keeps R s₀ s) : Keeps R s₀ (State.dropTreeValues t s) := by
  unfold State.dropTreeValues
  try dsimp only
  with_reducible
    repeat' first
      | assumption | exact sub_trans (by decide +kernel) hR | exact bit_of (by decide +kernel) hR | exact id | exact fun g => Tbl.sorted_filter _ _ g
      | exact regs_filter_other fun e m => (by (try dsimp only); rw [any_num_of (by decide +kernel) hR m, Bool.and_false, Bool.not_false])
      | exact fun _ => rfl | exact fun _ _ _ => rfl | split
      | (with_unfolding_all (intro p hp; cases p <;> first | rfl | exact bit_absurd (by decide +kernel) hR hp)) | intro _ | dsimp only
      | apply Keeps.set_oldBind | apply Keeps.set_switches | apply Keeps.change

theorem State.selectReweave_keeps {R : Nat} {s₀ : State} {s : State} (r : Reweave)
    (hR : 0xa00000000000000000000000a00000000000000000000030000000000002800000000000000000000000081 ||| R = R)
    (hk : Keeps R s₀ s) : Keeps R s₀ (State.selectReweave r s) := by
  unfold State.selectReweave
  try dsimp only
  with_reducible
    repeat' first
      | assumption | exact sub_trans (by decide +kernel) hR | exact bit_of (by decide +kernel) hR | apply State.put_keeps | apply State.addWrap_keeps
      | apply State.writeSelect_keeps | apply State.weaveState_keeps | split | intro _ | dsimp only

theorem State.latchedNext_keeps {R : Nat} {s₀ : State} {s : State} (t : Nat) (next : Option Nat)
    (hR : 0x828000000000000240000002100000000000000000030000000000002c00000050000300000000003018 ||| R = R)
    (hk : Keeps R s₀ s) : Keeps R s₀ (State.latchedNext t next s) := by
  unfold State.latchedNext
  try dsimp only
  with_reducible
    repeat' first
      | assumption | exact sub_trans (by decide +kernel) hR | apply State.dmkDone_keeps | apply State.startReweave_keeps | split | intro _
      | dsimp only

theorem State.latchedWeaveNext_keeps {R : Nat} {s₀ : State} {s : State} (weave : Bool)
    (hR : 0xfffffffffffffffffffffffffffffffffffffffffffffffffffffffffffffffffffffffffff00001c04fff2f10318500709f ||| R = R)
    (hk : Keeps R s₀ s) : Keeps R s₀ (State.latchedWeaveNext weave s) := by
  unfold State.latchedWeaveNext
  try dsimp only
  with_reducible
    repeat' first
      | assumption | exact sub_trans (by decide +kernel) hR | exact bit_all (sub_trans (by decide +kernel) hR) _
      | exact List.all_eq_true.2 fun _ _ => bit_all (sub_trans (by decide +kernel) hR) _ | apply State.modLoader_keeps | apply State.dmkDone_keeps
      | apply State.startWeave_keeps | exact fun _ hl => hl | split | intro _ | dsimp only

theorem State.finishReweave_keeps {R : Nat} {s₀ : State} {s : State} (r : Reweave)
    (hR : 0xfffffffffffffffffffffffffffffffffffffffffffffffffffffffffffffffffffffffffff00001d04fff2f10318500709f ||| R = R)
    (hk : Keeps R s₀ s) : Keeps R s₀ (State.finishReweave r s) := by
  unfold State.finishReweave
  extract_lets v0 v1 v2 v3 v4 v5
  have hv0 : Keeps R s₀ v0 := by
    unfold v0
    with_reducible
      repeat' first
        | assumption | exact sub_trans (by decide +kernel) hR | exact bit_all (sub_trans (by decide +kernel) hR) _
        | exact List.all_eq_true.2 fun _ _ => bit_all (sub_trans (by decide +kernel) hR) _ | apply State.modLoader_keeps
        | apply State.showLatched_keeps | apply State.dmkDone_keeps | apply State.actLatch_keeps | apply State.selectReweave_keeps
        | apply State.latchedNext_keeps | apply State.latchedWeaveNext_keeps | exact fun _ hl => hl | split | intro _ | dsimp only
  clear_value v0
  have hv3 : Keeps R s₀ v3 := by
    unfold v3
    with_reducible
      repeat' first
        | assumption | exact sub_trans (by decide +kernel) hR | exact bit_all (sub_trans (by decide +kernel) hR) _
        | exact List.all_eq_true.2 fun _ _ => bit_all (sub_trans (by decide +kernel) hR) _ | apply State.modLoader_keeps
        | apply State.showLatched_keeps | apply State.dmkDone_keeps | apply State.actLatch_keeps | apply State.selectReweave_keeps
        | apply State.latchedNext_keeps | apply State.latchedWeaveNext_keeps | exact fun _ hl => hl | split | intro _ | dsimp only
  clear_value v3
  have hv4 : Keeps R s₀ v4 := by
    unfold v4
    with_reducible
      repeat' first
        | assumption | exact sub_trans (by decide +kernel) hR | exact bit_all (sub_trans (by decide +kernel) hR) _
        | exact List.all_eq_true.2 fun _ _ => bit_all (sub_trans (by decide +kernel) hR) _ | apply State.modLoader_keeps
        | apply State.showLatched_keeps | apply State.dmkDone_keeps | apply State.actLatch_keeps | apply State.selectReweave_keeps
        | apply State.latchedNext_keeps | apply State.latchedWeaveNext_keeps | exact fun _ hl => hl | split | intro _ | dsimp only
  clear_value v4
  have hv5 : Keeps R s₀ v5 := by
    unfold v5
    with_reducible
      repeat' first
        | assumption | exact sub_trans (by decide +kernel) hR | exact bit_all (sub_trans (by decide +kernel) hR) _
        | exact List.all_eq_true.2 fun _ _ => bit_all (sub_trans (by decide +kernel) hR) _ | apply State.modLoader_keeps
        | apply State.showLatched_keeps | apply State.dmkDone_keeps | apply State.actLatch_keeps | apply State.selectReweave_keeps
        | apply State.latchedNext_keeps | apply State.latchedWeaveNext_keeps | exact fun _ hl => hl | split | intro _ | dsimp only
  clear_value v5
  try dsimp only
  with_reducible
    repeat' first
      | assumption | exact sub_trans (by decide +kernel) hR | exact bit_all (sub_trans (by decide +kernel) hR) _
      | exact List.all_eq_true.2 fun _ _ => bit_all (sub_trans (by decide +kernel) hR) _ | apply State.modLoader_keeps | apply State.showLatched_keeps
      | apply State.dmkDone_keeps | apply State.actLatch_keeps | apply State.selectReweave_keeps | apply State.latchedNext_keeps
      | apply State.latchedWeaveNext_keeps | exact fun _ hl => hl | split | intro _ | dsimp only

theorem State.refuseReweave_keeps {R : Nat} {s₀ : State} {s : State} (t : Nat)
    (hR : 0x240000020000000000000000000030000000014002c0000000007c00000000400001d ||| R = R)
    (hk : Keeps R s₀ s) : Keeps R s₀ (State.refuseReweave t s) := by
  unfold State.refuseReweave
  try dsimp only
  with_reducible
    repeat' first
      | assumption | exact sub_trans (by decide +kernel) hR | apply State.modLoader_keeps | apply State.showLatched_keeps | apply State.dmkDone_keeps
      | apply State.weaveState_keeps | apply State.actLatch_keeps | exact fun _ hl => hl | split | intro _ | dsimp only

theorem State.treeSettled_keeps {R : Nat} {s₀ : State} {s : State} (t : Nat)
    (hR : 0xfffffffffffffffffffffffffffffffffffffffffffffffffffffffffffffffffffffffffff00001d04fff2f10318500709f ||| R = R)
    (hk : Keeps R s₀ s) : Keeps R s₀ (State.treeSettled t s) := by
  unfold State.treeSettled
  try dsimp only
  with_reducible
    repeat' first
      | assumption | exact sub_trans (by decide +kernel) hR | exact bit_all (sub_trans (by decide +kernel) hR) _
      | exact List.all_eq_true.2 fun _ _ => bit_all (sub_trans (by decide +kernel) hR) _ | apply State.showLatched_keeps | apply State.actLatch_keeps
      | apply State.runReweave_keeps | apply State.finishReweave_keeps | apply State.refuseReweave_keeps | split | intro _ | dsimp only

theorem State.dropReweave_keeps {R : Nat} {s₀ : State} {s : State} (t : Nat)
    (hR : 0xfffffffffffffffffffffffffffffffffffffffffffffffffffffffffffffffffffffffffff00001c04fff2f10318500709f ||| R = R)
    (hk : Keeps R s₀ s) : Keeps R s₀ (State.dropReweave t s) := by
  unfold State.dropReweave
  try dsimp only
  with_reducible
    repeat' first
      | assumption | exact sub_trans (by decide +kernel) hR | exact bit_of (by decide +kernel) hR | exact bit_all (sub_trans (by decide +kernel) hR) _
      | exact List.all_eq_true.2 fun _ _ => bit_all (sub_trans (by decide +kernel) hR) _ | apply State.put_keeps | apply State.modLoader_keeps
      | apply State.showLatched_keeps | apply State.weaveState_keeps | apply State.startWeave_keeps | exact fun _ hl => hl | split | intro _
      | dsimp only

theorem execReweaveSectionsLoaded_keeps {R : Nat} {s₀ : State} {s : State}
    (hR : 0xfffffffffffffffffffffffffffffffffffffffffffffffffffffffffffffffffffffffffff00001d04fff2f10318500709f ||| R = R)
    (hk : Keeps R s₀ s) : ResultKeeps R s₀ (execReweaveSectionsLoaded s) := by
  unfold execReweaveSectionsLoaded
  try dsimp only
  with_reducible
    repeat' first
      | assumption | exact sub_trans (by decide +kernel) hR | exact bit_all (sub_trans (by decide +kernel) hR) _
      | exact List.all_eq_true.2 fun _ _ => bit_all (sub_trans (by decide +kernel) hR) _ | apply State.opticsStart_keeps | apply State.treeStart_keeps
      | apply State.weaveTree_keeps | apply State.dropTreeValues_keeps | apply State.finishReweave_keeps | apply ResultKeeps.next | split | intro _
      | dsimp only

theorem State.treeStarted_keeps {R : Nat} {s₀ : State} {s : State} (t : Nat)
    (hR : 0xfffffffffffffffffffffffffffffffffffffffffffffffffffffffffffffffffffffffffff00001d04fff2f17b19500709f ||| R = R)
    (hk : Keeps R s₀ s) : Keeps R s₀ (State.treeStarted t s) := by
  unfold State.treeStarted
  try dsimp only
  with_reducible
    repeat' first
      | assumption | exact sub_trans (by decide +kernel) hR | exact bit_all (sub_trans (by decide +kernel) hR) _
      | exact List.all_eq_true.2 fun _ _ => bit_all (sub_trans (by decide +kernel) hR) _ | apply State.treeOn_keeps | apply State.weaveIfOff_keeps
      | apply State.treeSettled_keeps | split | intro _ | dsimp only

theorem execReweaveComplete_keeps {R : Nat} {s₀ : State} {s : State}
    (hR : 0xfffffffffffffffffffffffffffffffffffffffffffffffffffffffffffffffffffffffffff00001d04fff2f17b19500709f ||| R = R)
    (hk : Keeps R s₀ s) : ResultKeeps R s₀ (execReweaveComplete s) := by
  unfold execReweaveComplete
  try dsimp only
  with_reducible
    repeat' first
      | assumption | exact sub_trans (by decide +kernel) hR | exact bit_all (sub_trans (by decide +kernel) hR) _
      | exact List.all_eq_true.2 fun _ _ => bit_all (sub_trans (by decide +kernel) hR) _ | apply State.treeStarted_keeps | apply ResultKeeps.next
      | split | intro _ | dsimp only

theorem execOpticsLit_keeps {R : Nat} {s₀ : State} {s : State} (t : Nat)
    (hR : 0xfffffffffffffffffffffffffffffffffffffffffffffffffffffffffffffffffffffffffff00001d04fff2f17b19500709f ||| R = R)
    (hk : Keeps R s₀ s) : ResultKeeps R s₀ (execOpticsLit t s) := by
  unfold execOpticsLit
  try dsimp only
  with_reducible
    repeat' first
      | assumption | exact sub_trans (by decide +kernel) hR | exact bit_all (sub_trans (by decide +kernel) hR) _
      | exact List.all_eq_true.2 fun _ _ => bit_all (sub_trans (by decide +kernel) hR) _ | apply State.treeStarted_keeps | apply ResultKeeps.next
      | split | intro _ | dsimp only

theorem State.linkUp_keeps {R : Nat} {s₀ : State} {s : State} (d e : Nat)
    (hR : 0x200000020000000000000000000030000000000000000000000000000000000000000 ||| R = R)
    (hk : Keeps R s₀ s) : Keeps R s₀ (State.linkUp d e s) := by
  unfold State.linkUp
  try dsimp only
  with_reducible
    repeat' first
      | assumption | exact sub_trans (by decide +kernel) hR | exact bit_of (by decide +kernel) hR | apply State.putLink_keeps
      | apply State.linkCause_keeps | split | intro _ | dsimp only

theorem execLaneOn_keeps {R : Nat} {s₀ : State} {s : State} (lane : Nat)
    (hR : 0x24000002000000000000000000003000000001400240000000007c00000000400000d ||| R = R)
    (hk : Keeps R s₀ s) : ResultKeeps R s₀ (execLaneOn lane s) := by
  unfold execLaneOn
  try dsimp only
  with_reducible
    repeat' first
      | assumption | exact sub_trans (by decide +kernel) hR | apply State.laneUp_keeps | apply State.actLatch_keeps | apply ResultKeeps.next | split
      | intro _ | dsimp only

theorem execCap_keeps {R : Nat} {s₀ : State} {s : State} (lane : Nat) (c : Cap)
    (hR : 0x24000002000000000000000000003000000001400240000002007c00000000400000d ||| R = R)
    (hk : Keeps R s₀ s) : ResultKeeps R s₀ (execCap lane c s) := by
  unfold execCap
  try dsimp only
  with_reducible
    repeat' first
      | assumption | exact sub_trans (by decide +kernel) hR | exact bit_of (by decide +kernel) hR | apply State.put_keeps | apply State.modLane_keeps
      | apply State.raiseLane_keeps | apply State.laneUp_keeps | apply State.sendCap_keeps | apply State.actLatch_keeps | apply ResultKeeps.next
      | split | intro _ | dsimp only

theorem execDieLinkOn_keeps {R : Nat} {s₀ : State} {s : State} (d e : Nat)
    (hR : 0x24000002000000000000000000003000000001400240000000007c00000000400000d ||| R = R)
    (hk : Keeps R s₀ s) : ResultKeeps R s₀ (execDieLinkOn d e s) := by
  unfold execDieLinkOn
  try dsimp only
  with_reducible
    repeat' first
      | assumption | exact sub_trans (by decide +kernel) hR | apply State.actLatch_keeps | apply State.linkUp_keeps | apply ResultKeeps.next | split
      | intro _ | dsimp only

theorem State.endPhase_keeps {R : Nat} {s₀ : State} {s : State} (u : UnitId)
    (hR : 0x24000002000000000000000000003000000001400240000000007c00000000400000d ||| R = R)
    (hk : Keeps R s₀ s) : Keeps R s₀ (State.endPhase u s) := by
  unfold State.endPhase
  try dsimp only
  with_reducible
    repeat' first
      | assumption | exact sub_trans (by decide +kernel) hR | apply State.setUnit_keeps | apply State.laneTo_keeps | apply State.laneUp_keeps
      | apply State.linkTo_keeps | apply State.actLatch_keeps | apply State.linkUp_keeps | split | intro _ | dsimp only

theorem State.powerDown_keeps {R : Nat} {s₀ : State} {s : State} (d : Nat)
    (hR : 0xfffffffffffffffffffffffffffffffffffffffffffffffffffffffffffffffffffffffffff00001f1efffbf38bfff51ff9f ||| R = R)
    (hk : Keeps R s₀ s) : Keeps R s₀ (State.powerDown d s) := by
  unfold State.powerDown
  extract_lets v0 v1 v2 v3 v4 v5 v6
  have hv1 : Keeps R s₀ v1 := by
    unfold v1
    with_reducible
      repeat' first
        | assumption | exact sub_trans (by decide +kernel) hR | exact bit_of (by decide +kernel) hR
        | exact bit_all (sub_trans (by decide +kernel) hR) _ | exact List.all_eq_true.2 fun _ _ => bit_all (sub_trans (by decide +kernel) hR) _
        | apply State.put_keeps | apply State.addWrap_keeps | apply State.modMram_keeps | apply State.modLoader_keeps | apply State.setUnit_keeps
        | apply State.snapMissing_keeps | apply State.tearRecord_keeps | apply State.retireUpdates_keeps | apply State.laneCause_keeps
        | apply State.showSource_keeps | apply State.laneTo_keeps | apply State.linkTo_keeps | apply State.clearDie_keeps
        | apply State.releaseClaim_keeps | apply State.dropReweave_keeps | exact fun _ hl => hl | exact id | exact fun _ => rfl
        | exact fun _ _ _ => rfl | apply Keeps.foldl | apply Keeps.foldl_snd | apply Keeps.foldl_fst | apply Keeps.foldl_build | split
        | (with_unfolding_all (intro p hp; cases p <;> first | rfl | exact bit_absurd (by decide +kernel) hR hp)) | intro _ | dsimp only
        | apply Keeps.set_latches | apply Keeps.set_trees | apply Keeps.change
  have hv2 : Keeps R s₀ v2 := by
    unfold v2
    with_reducible
      repeat' first
        | assumption | exact sub_trans (by decide +kernel) hR | exact bit_of (by decide +kernel) hR
        | exact bit_all (sub_trans (by decide +kernel) hR) _ | exact List.all_eq_true.2 fun _ _ => bit_all (sub_trans (by decide +kernel) hR) _
        | apply State.put_keeps | apply State.addWrap_keeps | apply State.modMram_keeps | apply State.modLoader_keeps | apply State.setUnit_keeps
        | apply State.snapMissing_keeps | apply State.tearRecord_keeps | apply State.retireUpdates_keeps | apply State.laneCause_keeps
        | apply State.showSource_keeps | apply State.laneTo_keeps | apply State.linkTo_keeps | apply State.clearDie_keeps
        | apply State.releaseClaim_keeps | apply State.dropReweave_keeps | exact fun _ hl => hl | exact id | exact fun _ => rfl
        | exact fun _ _ _ => rfl | apply Keeps.foldl | apply Keeps.foldl_snd | apply Keeps.foldl_fst | apply Keeps.foldl_build | split
        | (with_unfolding_all (intro p hp; cases p <;> first | rfl | exact bit_absurd (by decide +kernel) hR hp)) | intro _ | dsimp only
        | apply Keeps.set_latches | apply Keeps.set_trees | apply Keeps.change
  have hv3 : Keeps R s₀ v3 := by
    unfold v3
    with_reducible
      repeat' first
        | assumption | exact sub_trans (by decide +kernel) hR | exact bit_of (by decide +kernel) hR
        | exact bit_all (sub_trans (by decide +kernel) hR) _ | exact List.all_eq_true.2 fun _ _ => bit_all (sub_trans (by decide +kernel) hR) _
        | apply State.put_keeps | apply State.addWrap_keeps | apply State.modMram_keeps | apply State.modLoader_keeps | apply State.setUnit_keeps
        | apply State.snapMissing_keeps | apply State.tearRecord_keeps | apply State.retireUpdates_keeps | apply State.laneCause_keeps
        | apply State.showSource_keeps | apply State.laneTo_keeps | apply State.linkTo_keeps | apply State.clearDie_keeps
        | apply State.releaseClaim_keeps | apply State.dropReweave_keeps | exact fun _ hl => hl | exact id | exact fun _ => rfl
        | exact fun _ _ _ => rfl | apply Keeps.foldl | apply Keeps.foldl_snd | apply Keeps.foldl_fst | apply Keeps.foldl_build | split
        | (with_unfolding_all (intro p hp; cases p <;> first | rfl | exact bit_absurd (by decide +kernel) hR hp)) | intro _ | dsimp only
        | apply Keeps.set_latches | apply Keeps.set_trees | apply Keeps.change
  have hv4 : Keeps R s₀ v4 := by
    unfold v4
    with_reducible
      repeat' first
        | assumption | exact sub_trans (by decide +kernel) hR | exact bit_of (by decide +kernel) hR
        | exact bit_all (sub_trans (by decide +kernel) hR) _ | exact List.all_eq_true.2 fun _ _ => bit_all (sub_trans (by decide +kernel) hR) _
        | apply State.put_keeps | apply State.addWrap_keeps | apply State.modMram_keeps | apply State.modLoader_keeps | apply State.setUnit_keeps
        | apply State.snapMissing_keeps | apply State.tearRecord_keeps | apply State.retireUpdates_keeps | apply State.laneCause_keeps
        | apply State.showSource_keeps | apply State.laneTo_keeps | apply State.linkTo_keeps | apply State.clearDie_keeps
        | apply State.releaseClaim_keeps | apply State.dropReweave_keeps | exact fun _ hl => hl | exact id | exact fun _ => rfl
        | exact fun _ _ _ => rfl | apply Keeps.foldl | apply Keeps.foldl_snd | apply Keeps.foldl_fst | apply Keeps.foldl_build | split
        | (with_unfolding_all (intro p hp; cases p <;> first | rfl | exact bit_absurd (by decide +kernel) hR hp)) | intro _ | dsimp only
        | apply Keeps.set_latches | apply Keeps.set_trees | apply Keeps.change
  have hv5 : Keeps R s₀ v5 := by
    unfold v5
    with_reducible
      repeat' first
        | assumption | exact sub_trans (by decide +kernel) hR | exact bit_of (by decide +kernel) hR
        | exact bit_all (sub_trans (by decide +kernel) hR) _ | exact List.all_eq_true.2 fun _ _ => bit_all (sub_trans (by decide +kernel) hR) _
        | apply State.put_keeps | apply State.addWrap_keeps | apply State.modMram_keeps | apply State.modLoader_keeps | apply State.setUnit_keeps
        | apply State.snapMissing_keeps | apply State.tearRecord_keeps | apply State.retireUpdates_keeps | apply State.laneCause_keeps
        | apply State.showSource_keeps | apply State.laneTo_keeps | apply State.linkTo_keeps | apply State.clearDie_keeps
        | apply State.releaseClaim_keeps | apply State.dropReweave_keeps | exact fun _ hl => hl | exact id | exact fun _ => rfl
        | exact fun _ _ _ => rfl | apply Keeps.foldl | apply Keeps.foldl_snd | apply Keeps.foldl_fst | apply Keeps.foldl_build | split
        | (with_unfolding_all (intro p hp; cases p <;> first | rfl | exact bit_absurd (by decide +kernel) hR hp)) | intro _ | dsimp only
        | apply Keeps.set_latches | apply Keeps.set_trees | apply Keeps.change
  have hv6 : Keeps R s₀ v6 := by
    unfold v6
    with_reducible
      repeat' first
        | assumption | exact sub_trans (by decide +kernel) hR | exact bit_of (by decide +kernel) hR
        | exact bit_all (sub_trans (by decide +kernel) hR) _ | exact List.all_eq_true.2 fun _ _ => bit_all (sub_trans (by decide +kernel) hR) _
        | apply State.put_keeps | apply State.addWrap_keeps | apply State.modMram_keeps | apply State.modLoader_keeps | apply State.setUnit_keeps
        | apply State.snapMissing_keeps | apply State.tearRecord_keeps | apply State.retireUpdates_keeps | apply State.laneCause_keeps
        | apply State.showSource_keeps | apply State.laneTo_keeps | apply State.linkTo_keeps | apply State.clearDie_keeps
        | apply State.releaseClaim_keeps | apply State.dropReweave_keeps | exact fun _ hl => hl | exact id | exact fun _ => rfl
        | exact fun _ _ _ => rfl | apply Keeps.foldl | apply Keeps.foldl_snd | apply Keeps.foldl_fst | apply Keeps.foldl_build | split
        | (with_unfolding_all (intro p hp; cases p <;> first | rfl | exact bit_absurd (by decide +kernel) hR hp)) | intro _ | dsimp only
        | apply Keeps.set_latches | apply Keeps.set_trees | apply Keeps.change
  try dsimp only
  with_reducible
    repeat' first
      | assumption | exact sub_trans (by decide +kernel) hR | exact bit_of (by decide +kernel) hR | exact bit_all (sub_trans (by decide +kernel) hR) _
      | exact List.all_eq_true.2 fun _ _ => bit_all (sub_trans (by decide +kernel) hR) _ | apply State.put_keeps | apply State.addWrap_keeps
      | apply State.modMram_keeps | apply State.modLoader_keeps | apply State.setUnit_keeps | apply State.snapMissing_keeps
      | apply State.tearRecord_keeps | apply State.retireUpdates_keeps | apply State.laneCause_keeps | apply State.showSource_keeps
      | apply State.laneTo_keeps | apply State.linkTo_keeps | apply State.clearDie_keeps | apply State.releaseClaim_keeps
      | apply State.dropReweave_keeps | exact fun _ hl => hl | exact id | exact fun _ => rfl | exact fun _ _ _ => rfl | apply Keeps.foldl
      | apply Keeps.foldl_snd | apply Keeps.foldl_fst | apply Keeps.foldl_build | split
      | (with_unfolding_all (intro p hp; cases p <;> first | rfl | exact bit_absurd (by decide +kernel) hR hp)) | intro _ | dsimp only
      | apply Keeps.set_latches | apply Keeps.set_trees | apply Keeps.change

theorem State.dieOffIfClear_keeps {R : Nat} {s₀ : State} {s : State} (d : Nat)
    (hR : 0xfffffffffffffffffffffffffffffffffffffffffffffffffffffffffffffffffffffffffff00001f1efffbf38bfff51ff9f ||| R = R)
    (hk : Keeps R s₀ s) : Keeps R s₀ (State.dieOffIfClear d s) := by
  unfold State.dieOffIfClear
  try dsimp only
  with_reducible
    repeat' first
      | assumption | exact sub_trans (by decide +kernel) hR | exact bit_all (sub_trans (by decide +kernel) hR) _
      | exact List.all_eq_true.2 fun _ _ => bit_all (sub_trans (by decide +kernel) hR) _ | apply State.weaveIfOff_keeps | apply State.actLatch_keeps
      | apply State.powerDown_keeps | split | intro _ | dsimp only

theorem execUnitPhaseDone_keeps {R : Nat} {s₀ : State} {s : State} (u : UnitId)
    (hR : 0xfffffffffffffffffffffffffffffffffffffffffffffffffffffffffffffffffffffffffff00001f1efffbf3fbfff51ff9f ||| R = R)
    (hk : Keeps R s₀ s) : ResultKeeps R s₀ (execUnitPhaseDone u s) := by
  unfold execUnitPhaseDone
  try dsimp only
  with_reducible
    repeat' first
      | assumption | exact sub_trans (by decide +kernel) hR | exact bit_all (sub_trans (by decide +kernel) hR) _
      | exact List.all_eq_true.2 fun _ _ => bit_all (sub_trans (by decide +kernel) hR) _ | apply State.setUnit_keeps | apply State.treeOff_keeps
      | apply State.weaveIfOff_keeps | apply State.actLatch_keeps | apply State.treeSettled_keeps | apply State.treeStarted_keeps
      | apply State.endPhase_keeps | apply State.dieOffIfClear_keeps | apply ResultKeeps.next | split | intro _ | dsimp only

theorem execStageBegin_keeps {R : Nat} {s₀ s : State} (slot : Nat) (hR : 0x30000000000010800000000000000000000000010 ||| R = R) (hk : Keeps R s₀ s) : ResultKeeps R s₀ (execStageBegin slot s) := by
  unfold execStageBegin
  with_reducible repeat' first
    | assumption | exact sub_trans (by decide +kernel) hR | exact bit_of (by decide +kernel) hR | apply State.dmkLocked_keeps | apply State.dmkDone_keeps | apply State.weaveState_keeps | apply State.modLoader_keeps
    | apply ResultKeeps.next | exact fun _ _ => rfl | split
  all_goals exact fun _ _ => rfl

theorem State.restState_keeps {R : Nat} {s₀ : State} {s : State}
    (hR : 0x800000000000000000000000000 ||| R = R)
    (hk : Keeps R s₀ s) : Keeps R s₀ (State.restState s) := by
  unfold State.restState
  try dsimp only
  with_reducible repeat' first | assumption | exact sub_trans (by decide +kernel) hR | apply State.weaveState_keeps | split | intro _ | dsimp only

theorem State.writeSlot_keeps {R : Nat} {s₀ s : State} (slot : Nat) (b : Memory) (hR : 0x60 ||| R = R)
    (hb : s₀.canonical = true → b.wf = true) (hk : Keeps R s₀ s) : Keeps R s₀ (s.writeSlot slot b) := by
  refine Keeps.foldl hk fun s d hk => ⟨hk.ident, hk.pending, hk.uses, hk.sent, fun k => ?_, fun p hp => ?_, hk.regs⟩
  · obtain ⟨k1, k2, k3, k4, k5⟩ := (State.canonical_iff s).1 (hk.canonical k)
    exact (State.canonical_iff _).2 ⟨k1, k2, k3, Tbl.all_set _ _ _ _ _ k4 (hb k), k5⟩
  · rw [← hk.parts p hp]
    cases p <;> first | rfl | exact bit_absurd (by decide +kernel) hR hp

theorem execStageEnd_keeps {R : Nat} {s₀ s : State} (hR : 0x30000000000010800000010000000000000000070 ||| R = R) (hk : Keeps R s₀ s) : ResultKeeps R s₀ (execStageEnd s) := by
  have hb : s₀.canonical = true → s.loader.staged.wf = true := fun k => ((State.canonical_iff s).1 (hk.canonical k)).2.2.2.2
  unfold execStageEnd
  with_reducible repeat' first
    | assumption | exact sub_trans (by decide +kernel) hR | exact bit_of (by decide +kernel) hR | apply State.dmkLocked_keeps | apply State.dmkDone_keeps | apply State.dmkRefused_keeps | apply State.restState_keeps
    | apply State.modLoader_keeps | apply State.writeSlot_keeps | apply ResultKeeps.next | exact fun _ _ => rfl | split
  all_goals exact fun _ _ => rfl

theorem execDmkStageData_keeps {R : Nat} {s₀ s : State} (offset : Nat) (bytes : List Nat) (hR : 0x10 ||| R = R) (hk : Keeps R s₀ s) :
    ResultKeeps R s₀ (execDmkStageData offset bytes s) := by
  unfold execDmkStageData
  split
  · exact .next (State.modLoader_keeps _ (sub_trans (by decide +kernel) hR) (fun _ h => Memory.writeBytes_wf _ _ _ h) hk)
  · exact .next hk

theorem execSelect_keeps {R : Nat} {s₀ : State} {s : State} (slot : Nat) (trial : Bool)
    (hR : 0xa00000000000000000000000a00000000000000000000030000000000010800000010000000000000000081 ||| R = R)
    (hk : Keeps R s₀ s) : ResultKeeps R s₀ (execSelect slot trial s) := by
  unfold execSelect
  try dsimp only
  with_reducible
    repeat' first
      | assumption | exact sub_trans (by decide +kernel) hR | apply State.writeSelect_keeps | apply State.dmkDone_keeps | apply State.dmkRefused_keeps
      | apply State.dmkLocked_keeps | apply ResultKeeps.next | split | intro _ | dsimp only

theorem execConfirm_keeps {R : Nat} {s₀ : State} {s : State}
    (hR : 0xa00000000000000000000000a00000000000000000000030000000000010800000010000000000000000081 ||| R = R)
    (hk : Keeps R s₀ s) : ResultKeeps R s₀ (execConfirm s) := by
  unfold execConfirm
  try dsimp only
  with_reducible
    repeat' first
      | assumption | exact sub_trans (by decide +kernel) hR | exact bit_of (by decide +kernel) hR | apply State.put_keeps | apply State.writeAll_keeps
      | apply State.writeSelect_keeps | apply State.dmkDone_keeps | apply State.dmkRefused_keeps | apply State.dmkLocked_keeps
      | apply ResultKeeps.next | split | intro _ | dsimp only

theorem execWeave_keeps {R : Nat} {s₀ : State} {s : State}
    (hR : 0xfffffffffffffffffffffffffffffffffffffffffffffffffffffffffffffffffffffffffff00001c04fff2f10318500709f ||| R = R)
    (hk : Keeps R s₀ s) : ResultKeeps R s₀ (execWeave s) := by
  unfold execWeave
  try dsimp only
  with_reducible
    repeat' first
      | assumption | exact sub_trans (by decide +kernel) hR | exact bit_all (sub_trans (by decide +kernel) hR) _
      | exact List.all_eq_true.2 fun _ _ => bit_all (sub_trans (by decide +kernel) hR) _ | apply State.modLoader_keeps | apply State.showLatched_keeps
      | apply State.dmkResult_keeps | apply State.dmkDone_keeps | apply State.dmkLocked_keeps | apply State.startWeave_keeps | apply ResultKeeps.next
      | exact fun _ hl => hl | split | intro _ | dsimp only

theorem execTreeReweave_keeps {R : Nat} {s₀ : State} {s : State} (t slot : Nat)
    (hR : 0x828000000000000240000002100000000000000000030000000000012c00000050000300000000003018 ||| R = R)
    (hk : Keeps R s₀ s) : ResultKeeps R s₀ (execTreeReweave t slot s) := by
  unfold execTreeReweave
  try dsimp only
  with_reducible
    repeat' first
      | assumption | exact sub_trans (by decide +kernel) hR | apply State.modLoader_keeps | apply State.showLatched_keeps
      | apply State.dmkResult_keeps | apply State.dmkDone_keeps | apply State.dmkLocked_keeps | apply State.startReweave_keeps
      | apply ResultKeeps.next | exact fun _ hl => hl | split | intro _ | dsimp only

end Sys2Proof.Machine
end

