-- ==== Sys2Proof/Laws/KeepsTime.lean ====
section
/-!
SUPPORT. Every operation of Machine/Time.lean keeps what `Keeps` names.
-/

namespace Sys2Proof.Machine

set_option Elab.async false
set_option linter.all false

theorem State.modClock_keeps {R : Nat} {s₀ : State} {s : State} (f : Clock → Clock)
    (hR : 0x20000 ||| R = R)
    (hk : Keeps R s₀ s) : Keeps R s₀ (State.modClock f s) := by
  unfold State.modClock
  try dsimp only
  with_reducible
    repeat' first
      | assumption | exact sub_trans (by decide +kernel) hR | exact bit_of (by decide +kernel) hR | exact id | exact fun _ => rfl
      | exact fun _ _ _ => rfl | split | (with_unfolding_all (intro p hp; cases p <;> first | rfl | exact bit_absurd (by decide +kernel) hR hp))
      | intro _ | dsimp only | apply Keeps.set_clock | apply Keeps.change

theorem State.moveTime_keeps {R : Nat} {s₀ : State} {s : State} (amount : Int)
    (hR : 0xc000000000000000000 ||| R = R)
    (hk : Keeps R s₀ s) : Keeps R s₀ (State.moveTime amount s) := by
  unfold State.moveTime
  try dsimp only
  with_reducible repeat' first | assumption | exact sub_trans (by decide +kernel) hR | apply State.setTime_keeps | split | intro _ | dsimp only

theorem State.applyStep_keeps {R : Nat} {s₀ : State} {s : State} (amount : Int)
    (hR : 0x4000000000000000000000000000000000000400000000000c010000000002020000 ||| R = R)
    (hk : Keeps R s₀ s) : Keeps R s₀ (State.applyStep amount s) := by
  unfold State.applyStep
  extract_lets v0 v1
  have hv0 : Keeps R s₀ v0 := by
    unfold v0
    with_reducible
      repeat' first
        | assumption | exact sub_trans (by decide +kernel) hR | exact bit_of (by decide +kernel) hR | apply State.put_keeps
        | apply State.modLane_keeps | apply State.modSet_keeps | apply State.showSource_keeps | apply State.modClock_keeps
        | apply State.moveTime_keeps | apply Keeps.foldl | apply Keeps.foldl_snd | apply Keeps.foldl_fst | apply Keeps.foldl_build | split | intro _
        | dsimp only
  have hv1 : Keeps R s₀ v1 := by
    unfold v1
    with_reducible
      repeat' first
        | assumption | exact sub_trans (by decide +kernel) hR | exact bit_of (by decide +kernel) hR | apply State.put_keeps
        | apply State.modLane_keeps | apply State.modSet_keeps | apply State.showSource_keeps | apply State.modClock_keeps
        | apply State.moveTime_keeps | apply Keeps.foldl | apply Keeps.foldl_snd | apply Keeps.foldl_fst | apply Keeps.foldl_build | split | intro _
        | dsimp only
  try dsimp only
  with_reducible
    repeat' first
      | assumption | exact sub_trans (by decide +kernel) hR | exact bit_of (by decide +kernel) hR | apply State.put_keeps | apply State.modLane_keeps
      | apply State.modSet_keeps | apply State.showSource_keeps | apply State.modClock_keeps | apply State.moveTime_keeps | apply Keeps.foldl
      | apply Keeps.foldl_snd | apply Keeps.foldl_fst | apply Keeps.foldl_build | split | intro _ | dsimp only

theorem State.askStep_keeps {R : Nat} {s₀ : State} {s : State} (amount : Int) (acquires : Bool)
    (hR : 0x24000002000000000000000000003000000001420240000000c07c00000000602000d ||| R = R)
    (hk : Keeps R s₀ s) : Keeps R s₀ (State.askStep amount acquires s) := by
  unfold State.askStep
  try dsimp only
  with_reducible
    repeat' first
      | assumption | exact sub_trans (by decide +kernel) hR | exact bit_of (by decide +kernel) hR | apply State.put_keeps
      | apply State.requestUnit_keeps | apply State.modClock_keeps | apply State.applyStep_keeps | apply Keeps.foldl | apply Keeps.foldl_snd
      | apply Keeps.foldl_fst | apply Keeps.foldl_build | split | intro _ | dsimp only

theorem execTimeStep_keeps {R : Nat} {s₀ : State} {s : State} (force : Bool)
    (hR : 0x24000002000000000000000000003000000001421240000000c07c00000000602000d ||| R = R)
    (hk : Keeps R s₀ s) : ResultKeeps R s₀ (execTimeStep force s) := by
  unfold execTimeStep
  try dsimp only
  with_reducible
    repeat' first
      | assumption | exact sub_trans (by decide +kernel) hR | apply State.fwEvent_keeps | apply State.askStep_keeps | apply ResultKeeps.next | split
      | intro _ | dsimp only

theorem execStepApply_keeps {R : Nat} {s₀ : State} {s : State}
    (hR : 0x24000002000000000000000000003000000001420240000000c07c00000000602000d ||| R = R)
    (hk : Keeps R s₀ s) : ResultKeeps R s₀ (execStepApply s) := by
  unfold execStepApply
  try dsimp only
  with_reducible
    repeat' first
      | assumption | exact sub_trans (by decide +kernel) hR | exact bit_of (by decide +kernel) hR | apply State.put_keeps
      | apply State.requestUnit_keeps | apply State.modClock_keeps | apply State.applyStep_keeps | apply ResultKeeps.next | apply Keeps.foldl
      | apply Keeps.foldl_snd | apply Keeps.foldl_fst | apply Keeps.foldl_build | split | intro _ | dsimp only

theorem State.showOffset_keeps {R : Nat} {s₀ : State} {s : State} (est : Int)
    (hR : 0x4000000000010000000000000000000 ||| R = R)
    (hk : Keeps R s₀ s) : Keeps R s₀ (State.showOffset est s) := by
  unfold State.showOffset
  try dsimp only
  with_reducible
    repeat' first
      | assumption | exact sub_trans (by decide +kernel) hR | exact bit_of (by decide +kernel) hR | apply State.put_keeps | apply State.putFlag_keeps
      | apply State.useFree_keeps | split | intro _ | dsimp only

theorem State.judgeStep_keeps {R : Nat} {s₀ : State} {s : State} (est : Int)
    (hR : 0x30000000004000000000000000000000000000000 ||| R = R)
    (hk : Keeps R s₀ s) : Keeps R s₀ (State.judgeStep est s) := by
  unfold State.judgeStep
  try dsimp only
  with_reducible
    repeat' first
      | assumption | exact sub_trans (by decide +kernel) hR | exact bit_of (by decide +kernel) hR | apply State.put_keeps | apply State.raisePkg_keeps
      | split | intro _ | dsimp only

theorem State.measured_keeps {R : Nat} {s₀ : State} {s : State} (source : Nat) (offset : Int)
    (hR : 0x24000002000000000000000000003000000001420240000001c07c00000000602000d ||| R = R)
    (hk : Keeps R s₀ s) : Keeps R s₀ (State.measured source offset s) := by
  unfold State.measured
  try dsimp only
  with_reducible
    repeat' first
      | assumption | exact sub_trans (by decide +kernel) hR | exact bit_of (by decide +kernel) hR | apply State.put_keeps
      | apply State.showSource_keeps | apply State.modClock_keeps | apply State.askStep_keeps | apply State.showOffset_keeps
      | apply State.judgeStep_keeps | split | intro _ | dsimp only

theorem execTimeMeasurement_keeps {R : Nat} {s₀ : State} {s : State} (source : Nat) (offset : Int)
    (hR : 0x24000002000000000000000000003000000001420240000001c07c00000000602000d ||| R = R)
    (hk : Keeps R s₀ s) : ResultKeeps R s₀ (execTimeMeasurement source offset s) := by
  unfold execTimeMeasurement
  try dsimp only
  with_reducible
    repeat' first
      | assumption | exact sub_trans (by decide +kernel) hR | apply State.measured_keeps | apply ResultKeeps.next | split | intro _ | dsimp only

theorem execSourceLost_keeps {R : Nat} {s₀ : State} {s : State}
    (hR : 0x40000000000000000000000000030000000004000000000000000000000000020000 ||| R = R)
    (hk : Keeps R s₀ s) : ResultKeeps R s₀ (execSourceLost s) := by
  unfold execSourceLost
  try dsimp only
  with_reducible
    repeat' first
      | assumption | exact sub_trans (by decide +kernel) hR | exact bit_of (by decide +kernel) hR | apply State.put_keeps | apply State.raisePkg_keeps
      | apply State.showSource_keeps | apply State.modClock_keeps | apply ResultKeeps.next | split | intro _ | dsimp only

theorem execTimeMeasWrite_keeps {R : Nat} {s₀ : State} {s : State} (size : Nat) (value : Word)
    (hR : 0x24000002000000000000000000003000000001421240000001c07c00000000602000d ||| R = R)
    (hk : Keeps R s₀ s) : ResultKeeps R s₀ (execTimeMeasWrite size value s) := by
  unfold execTimeMeasWrite
  try dsimp only
  with_reducible
    repeat' first
      | assumption | exact sub_trans (by decide +kernel) hR | apply State.fwEvent_keeps | apply State.measured_keeps | apply ResultKeeps.next | split
      | intro _ | dsimp only

theorem execTime_keeps {R : Nat} {s₀ : State} {s : State} (lane seq : Nat) (tx rx : NetTime) (srcValid master : Bool) (stratum turn : Nat)
    (hR : 0x24000002000000000000000000003000000001420240000003c07c00000000602000d ||| R = R)
    (hk : Keeps R s₀ s) : ResultKeeps R s₀ (execTime lane seq tx rx srcValid master stratum turn s) := by
  unfold execTime
  try dsimp only
  with_reducible
    repeat' first
      | assumption | exact sub_trans (by decide +kernel) hR | exact bit_of (by decide +kernel) hR | apply State.put_keeps | apply State.modLane_keeps
      | apply State.sendControl_keeps | apply State.setTime_keeps | apply State.showSource_keeps | apply State.measured_keeps | apply ResultKeeps.next
      | split | intro _ | dsimp only

theorem execTimeEcho_keeps {R : Nat} {s₀ : State} {s : State} (lane seq turn : Nat) (rx : NetTime)
    (hR : 0xc010000000000000000 ||| R = R)
    (hk : Keeps R s₀ s) : ResultKeeps R s₀ (execTimeEcho lane seq turn rx s) := by
  unfold execTimeEcho
  try dsimp only
  with_reducible
    repeat' first
      | assumption | exact sub_trans (by decide +kernel) hR | apply State.modLane_keeps | apply State.setTime_keeps | apply ResultKeeps.next | split
      | intro _ | dsimp only

theorem execTimeSend_keeps {R : Nat} {s₀ : State} {s : State} (lane : Nat) (tx : NetTime)
    (hR : 0x2c010000000000000000 ||| R = R)
    (hk : Keeps R s₀ s) : ResultKeeps R s₀ (execTimeSend lane tx s) := by
  unfold execTimeSend
  try dsimp only
  with_reducible
    repeat' first
      | assumption | exact sub_trans (by decide +kernel) hR | apply State.modLane_keeps | apply State.sendControl_keeps | apply State.setTime_keeps
      | apply ResultKeeps.next | split | intro _ | dsimp only

theorem execPpsEdge_keeps {R : Nat} {s₀ : State} {s : State} (time : NetTime)
    (hR : 0xc000000000000020000 ||| R = R)
    (hk : Keeps R s₀ s) : ResultKeeps R s₀ (execPpsEdge time s) := by
  unfold execPpsEdge
  try dsimp only
  with_reducible
    repeat' first
      | assumption | exact sub_trans (by decide +kernel) hR | apply State.setTime_keeps | apply State.modClock_keeps | apply ResultKeeps.next | split
      | intro _ | dsimp only

theorem execTodMessage_keeps {R : Nat} {s₀ : State} {s : State} (bytes : List Nat) (time : NetTime)
    (hR : 0x24000002000000000000000000003000000001420240000001c07c00000000602000d ||| R = R)
    (hk : Keeps R s₀ s) : ResultKeeps R s₀ (execTodMessage bytes time s) := by
  unfold execTodMessage
  try dsimp only
  with_reducible
    repeat' first
      | assumption | exact sub_trans (by decide +kernel) hR | apply State.setTime_keeps | apply State.modClock_keeps | apply State.measured_keeps
      | apply ResultKeeps.next | split | intro _ | dsimp only

theorem execPpsOut_keeps {R : Nat} {s₀ : State} {s : State} (sec : Nat)
    (hR : 0x2c000000000000000000 ||| R = R)
    (hk : Keeps R s₀ s) : ResultKeeps R s₀ (execPpsOut sec s) := by
  unfold execPpsOut
  extract_lets v0 v1
  have hv0 : Keeps R s₀ v0 := by
    unfold v0
    with_reducible
      repeat' first
        | assumption | exact sub_trans (by decide +kernel) hR | apply State.emit_keeps | apply State.setTime_keeps | apply ResultKeeps.next | split
        | intro _ | dsimp only
  have hv1 : Keeps R s₀ v1 := by
    unfold v1
    with_reducible
      repeat' first
        | assumption | exact sub_trans (by decide +kernel) hR | apply State.emit_keeps | apply State.setTime_keeps | apply ResultKeeps.next | split
        | intro _ | dsimp only
  try dsimp only
  with_reducible
    repeat' first
      | assumption | exact sub_trans (by decide +kernel) hR | apply State.emit_keeps | apply State.setTime_keeps | apply ResultKeeps.next | split
      | intro _ | dsimp only

theorem execFabTsPop_keeps {R : Nat} {s₀ : State} {s : State} (d : Nat)
    (hR : 0x6000000000000000000000000000000000000000000000000001000000000000000000 ||| R = R)
    (hk : Keeps R s₀ s) : ResultKeeps R s₀ (execFabTsPop d s) := by
  unfold execFabTsPop
  try dsimp only
  with_reducible
    repeat' first
      | assumption | exact sub_trans (by decide +kernel) hR | exact bit_of (by decide +kernel) hR | apply State.showStamp_keeps
      | apply ResultKeeps.next | exact id | exact fun _ => rfl | exact fun _ _ _ => rfl | split
      | (with_unfolding_all (intro p hp; cases p <;> first | rfl | exact bit_absurd (by decide +kernel) hR hp)) | intro _ | dsimp only
      | apply Keeps.set_stamps | apply Keeps.change

end Sys2Proof.Machine
end

