-- ==== Sys2Proof/Laws/KeepsPair.lean ====
section
/-!
SUPPORT. Every operation of Machine/Pair.lean keeps what `Keeps` names.
-/

namespace Sys2Proof.Machine

set_option Elab.async false
set_option linter.all false

theorem State.setRole_keeps {R : Nat} {s₀ : State} {s : State} (r : Nat)
    (hR : 0x10000000000000000000000000000000 ||| R = R)
    (hk : Keeps R s₀ s) : Keeps R s₀ (State.setRole r s) := by
  unfold State.setRole
  try dsimp only
  with_reducible
    repeat' first
      | assumption | exact sub_trans (by decide +kernel) hR | exact bit_of (by decide +kernel) hR | apply State.put_keeps | split | intro _
      | dsimp only

theorem State.darkenGated_keeps {R : Nat} {s₀ : State} {s : State}
    (hR : 0x2000000000000000000000000000000000000000000 ||| R = R)
    (hk : Keeps R s₀ s) : Keeps R s₀ (State.darkenGated s) := by
  unfold State.darkenGated
  try dsimp only
  with_reducible
    repeat' first
      | assumption | exact sub_trans (by decide +kernel) hR | apply State.darken_keeps | apply Keeps.foldl | apply Keeps.foldl_snd
      | apply Keeps.foldl_fst | apply Keeps.foldl_build | split | intro _ | dsimp only

theorem State.relight_keeps {R : Nat} {s₀ : State} {s : State} (t : Nat)
    (hR : 0x2000000000000000000000000000000000000000000 ||| R = R)
    (hk : Keeps R s₀ s) : Keeps R s₀ (State.relight t s) := by
  unfold State.relight
  try dsimp only
  with_reducible
    repeat' first
      | assumption | exact sub_trans (by decide +kernel) hR | apply State.light_keeps | apply Keeps.foldl | apply Keeps.foldl_snd
      | apply Keeps.foldl_fst | apply Keeps.foldl_build | split | intro _ | dsimp only

theorem State.relightGated_keeps {R : Nat} {s₀ : State} {s : State}
    (hR : 0x2000000000000000000000000000000000000000000 ||| R = R)
    (hk : Keeps R s₀ s) : Keeps R s₀ (State.relightGated s) := by
  unfold State.relightGated
  try dsimp only
  with_reducible
    repeat' first
      | assumption | exact sub_trans (by decide +kernel) hR | apply State.relight_keeps | apply Keeps.foldl | apply Keeps.foldl_snd
      | apply Keeps.foldl_fst | apply Keeps.foldl_build | split | intro _ | dsimp only

theorem execClaimLive_keeps {R : Nat} {s₀ : State} {s : State}
    (hR : 0x2030000000010000000000000000000000000040000 ||| R = R)
    (hk : Keeps R s₀ s) : ResultKeeps R s₀ (execClaimLive s) := by
  unfold execClaimLive
  try dsimp only
  with_reducible
    repeat' first
      | assumption | exact sub_trans (by decide +kernel) hR | exact bit_of (by decide +kernel) hR | apply State.put_keeps | apply State.raisePkg_keeps
      | apply State.modPair_keeps | apply State.setRole_keeps | apply State.darkenGated_keeps | apply ResultKeeps.next | split | intro _ | dsimp only

theorem execClaimAbsent_keeps {R : Nat} {s₀ : State} {s : State}
    (hR : 0x2030000000010000000000000000000000000000000 ||| R = R)
    (hk : Keeps R s₀ s) : ResultKeeps R s₀ (execClaimAbsent s) := by
  unfold execClaimAbsent
  extract_lets v0 v1
  have hv0 : Keeps R s₀ v0 := by
    unfold v0
    with_reducible
      repeat' first
        | assumption | exact sub_trans (by decide +kernel) hR | exact bit_of (by decide +kernel) hR | apply State.put_keeps
        | apply State.askClaim_keeps | apply State.relightGated_keeps | apply ResultKeeps.next | split | intro _ | dsimp only
  have hv1 : Keeps R s₀ v1 := by
    unfold v1
    with_reducible
      repeat' first
        | assumption | exact sub_trans (by decide +kernel) hR | exact bit_of (by decide +kernel) hR | apply State.put_keeps
        | apply State.askClaim_keeps | apply State.relightGated_keeps | apply ResultKeeps.next | split | intro _ | dsimp only
  try dsimp only
  with_reducible
    repeat' first
      | assumption | exact sub_trans (by decide +kernel) hR | exact bit_of (by decide +kernel) hR | apply State.put_keeps | apply State.askClaim_keeps
      | apply State.relightGated_keeps | apply ResultKeeps.next | split | intro _ | dsimp only

theorem State.seize_keeps {R : Nat} {s₀ : State} {s : State}
    (hR : 0x10000000000000000000000000040000 ||| R = R)
    (hk : Keeps R s₀ s) : Keeps R s₀ (State.seize s) := by
  unfold State.seize
  try dsimp only
  with_reducible
    repeat' first
      | assumption | exact sub_trans (by decide +kernel) hR | exact bit_of (by decide +kernel) hR | apply State.put_keeps | apply State.modPair_keeps
      | split | intro _ | dsimp only

theorem State.emptyFrame_keeps {R : Nat} {s₀ : State} {s : State} (f : Nat)
    (hR : 0xa00000000000000000000000000000000000000000000000000000000000000000012000000 ||| R = R)
    (hk : Keeps R s₀ s) : Keeps R s₀ (State.emptyFrame f s) := by
  unfold State.emptyFrame
  try dsimp only
  with_reducible
    repeat' first
      | assumption | exact sub_trans (by decide +kernel) hR | apply State.emptyMap_keeps | apply Keeps.foldl | apply Keeps.foldl_snd
      | apply Keeps.foldl_fst | apply Keeps.foldl_build | split | intro _ | dsimp only

theorem execSeize_keeps {R : Nat} {s₀ : State} {s : State} (release : Option Nat)
    (hR : 0xa00000000000000000000000000000000030000000010000000000000000000000012040001 ||| R = R)
    (hk : Keeps R s₀ s) : ResultKeeps R s₀ (execSeize release s) := by
  unfold execSeize
  try dsimp only
  with_reducible
    repeat' first
      | assumption | exact sub_trans (by decide +kernel) hR | exact bit_of (by decide +kernel) hR | apply State.put_keeps | apply State.raisePkg_keeps
      | apply State.peerCnt_keeps | apply State.seize_keeps | apply State.emptyFrame_keeps | apply ResultKeeps.next | split | intro _ | dsimp only

theorem State.resendKept_keeps {R : Nat} {s₀ : State} {s : State}
    (hR : 0x10164000000000000000000030000000000000000000012002c00000081003001 ||| R = R)
    (hk : Keeps R s₀ s) : Keeps R s₀ (State.resendKept s) := by
  unfold State.resendKept
  try dsimp only
  with_reducible
    repeat' first
      | assumption | exact sub_trans (by decide +kernel) hR | apply State.modCirc_keeps | apply State.cePacketOut_keeps | apply Keeps.foldl
      | apply Keeps.foldl_snd | apply Keeps.foldl_fst | apply Keeps.foldl_build | split | intro _ | dsimp only

theorem State.dropCalibration_keeps {R : Nat} {s₀ : State} {s : State}
    (hR : 0x20000000000000000000000004000000 ||| R = R)
    (hk : Keeps R s₀ s) : Keeps R s₀ (State.dropCalibration s) := by
  unfold State.dropCalibration
  try dsimp only
  with_reducible
    repeat' first
      | assumption | exact sub_trans (by decide +kernel) hR | exact bit_of (by decide +kernel) hR | apply State.put_keeps | apply State.modTree_keeps
      | apply Keeps.foldl | apply Keeps.foldl_snd | apply Keeps.foldl_fst | apply Keeps.foldl_build | split | intro _ | dsimp only

theorem State.becomeActive_keeps {R : Nat} {s₀ : State} {s : State}
    (hR : 0x10164000000000000000002030000000030000000000012002c00000085043001 ||| R = R)
    (hk : Keeps R s₀ s) : Keeps R s₀ (State.becomeActive s) := by
  unfold State.becomeActive
  extract_lets v0 v1 v2
  have hv1 : Keeps R s₀ v1 := by
    unfold v1
    with_reducible
      repeat' first
        | assumption | exact sub_trans (by decide +kernel) hR | exact bit_of (by decide +kernel) hR | apply State.put_keeps
        | apply State.raisePkg_keeps | apply State.peerCnt_keeps | apply State.modPair_keeps | apply State.setRole_keeps
        | apply State.relightGated_keeps | apply State.resendKept_keeps | apply State.dropCalibration_keeps | split | intro _ | dsimp only
  have hv2 : Keeps R s₀ v2 := by
    unfold v2
    with_reducible
      repeat' first
        | assumption | exact sub_trans (by decide +kernel) hR | exact bit_of (by decide +kernel) hR | apply State.put_keeps
        | apply State.raisePkg_keeps | apply State.peerCnt_keeps | apply State.modPair_keeps | apply State.setRole_keeps
        | apply State.relightGated_keeps | apply State.resendKept_keeps | apply State.dropCalibration_keeps | split | intro _ | dsimp only
  try dsimp only
  with_reducible
    repeat' first
      | assumption | exact sub_trans (by decide +kernel) hR | exact bit_of (by decide +kernel) hR | apply State.put_keeps | apply State.raisePkg_keeps
      | apply State.peerCnt_keeps | apply State.modPair_keeps | apply State.setRole_keeps | apply State.relightGated_keeps
      | apply State.resendKept_keeps | apply State.dropCalibration_keeps | split | intro _ | dsimp only

theorem execSettleEnd_keeps {R : Nat} {s₀ : State} {s : State}
    (hR : 0x10164000000000000000002030000000030000000000012002c00000085043001 ||| R = R)
    (hk : Keeps R s₀ s) : ResultKeeps R s₀ (execSettleEnd s) := by
  unfold execSettleEnd
  try dsimp only
  with_reducible
    repeat' first
      | assumption | exact sub_trans (by decide +kernel) hR | exact bit_of (by decide +kernel) hR | apply State.put_keeps | apply State.modPair_keeps
      | apply State.setRole_keeps | apply State.becomeActive_keeps | apply ResultKeeps.next | split | intro _ | dsimp only

theorem execDoubleClaim_keeps {R : Nat} {s₀ : State} {s : State}
    (hR : 0x2000000000010000000000000000000000000040000 ||| R = R)
    (hk : Keeps R s₀ s) : ResultKeeps R s₀ (execDoubleClaim s) := by
  unfold execDoubleClaim
  try dsimp only
  with_reducible
    repeat' first
      | assumption | exact sub_trans (by decide +kernel) hR | exact bit_of (by decide +kernel) hR | apply State.put_keeps | apply State.modPair_keeps
      | apply State.setRole_keeps | apply State.darkenGated_keeps | apply ResultKeeps.next | split | intro _ | dsimp only

theorem State.setPairing_keeps {R : Nat} {s₀ : State} {s : State} (on : Bool)
    (hR : 0x2030000000038000000000020010000000004040000 ||| R = R)
    (hk : Keeps R s₀ s) : Keeps R s₀ (State.setPairing on s) := by
  unfold State.setPairing
  try dsimp only
  with_reducible
    repeat' first
      | assumption | exact sub_trans (by decide +kernel) hR | exact bit_of (by decide +kernel) hR | apply State.put_keeps | apply State.darken_keeps
      | apply State.askClaim_keeps | apply State.modPair_keeps | apply State.sendPeer_keeps | apply State.setRole_keeps | apply State.relight_keeps
      | apply State.relightGated_keeps | apply State.dropCalibration_keeps | apply Keeps.foldl | apply Keeps.foldl_snd | apply Keeps.foldl_fst
      | apply Keeps.foldl_build | split | intro _ | dsimp only

theorem execHeartbeatSend_keeps {R : Nat} {s₀ : State} {s : State} (tx : NetTime)
    (hR : 0x2c010000000000040000 ||| R = R)
    (hk : Keeps R s₀ s) : ResultKeeps R s₀ (execHeartbeatSend tx s) := by
  unfold execHeartbeatSend
  try dsimp only
  with_reducible
    repeat' first
      | assumption | exact sub_trans (by decide +kernel) hR | apply State.setTime_keeps | apply State.modPair_keeps | apply State.sendPeer_keeps
      | apply ResultKeeps.next | split | intro _ | dsimp only

theorem State.showTau_keeps {R : Nat} {s₀ : State} {s : State}
    (hR : 0x40000000000000000000000000000000 ||| R = R)
    (hk : Keeps R s₀ s) : Keeps R s₀ (State.showTau s) := by
  unfold State.showTau
  try dsimp only
  with_reducible
    repeat' first
      | assumption | exact sub_trans (by decide +kernel) hR | exact bit_of (by decide +kernel) hR | apply State.put_keeps | split | intro _
      | dsimp only

theorem State.noteTau_keeps {R : Nat} {s₀ : State} {s : State} (echoSeq turn t0 t2 : Nat)
    (hR : 0x40000000000000000000000000040000 ||| R = R)
    (hk : Keeps R s₀ s) : Keeps R s₀ (State.noteTau echoSeq turn t0 t2 s) := by
  unfold State.noteTau
  try dsimp only
  with_reducible
    repeat' first
      | assumption | exact sub_trans (by decide +kernel) hR | apply State.modPair_keeps | apply State.showTau_keeps | split | intro _ | dsimp only

theorem State.becomeStandby_keeps {R : Nat} {s₀ : State} {s : State}
    (hR : 0x110000000000000000000000004040000 ||| R = R)
    (hk : Keeps R s₀ s) : Keeps R s₀ (State.becomeStandby s) := by
  unfold State.becomeStandby
  try dsimp only
  with_reducible
    repeat' first
      | assumption | exact sub_trans (by decide +kernel) hR | exact bit_of (by decide +kernel) hR | apply State.put_keeps | apply State.modTree_keeps
      | apply State.modPair_keeps | apply State.setRole_keeps | apply Keeps.foldl | apply Keeps.foldl_snd | apply Keeps.foldl_fst
      | apply Keeps.foldl_build | split | intro _ | dsimp only

theorem State.takeRole_keeps {R : Nat} {s₀ : State} {s : State} (partnerActive : Bool)
    (hR : 0x10164000000000000000002030000000130000000000012002c00000085043001 ||| R = R)
    (hk : Keeps R s₀ s) : Keeps R s₀ (State.takeRole partnerActive s) := by
  unfold State.takeRole
  try dsimp only
  with_reducible
    repeat' first
      | assumption | exact sub_trans (by decide +kernel) hR | apply State.becomeActive_keeps | apply State.becomeStandby_keeps | split | intro _
      | dsimp only

theorem execHeartbeat_keeps {R : Nat} {s₀ : State} {s : State} (seq device : Nat) (active : Bool) (t0 echoSeq turn : Nat) (rx : NetTime)
    (hR : 0x1016400000000000000000203000000017000000000001e002c00000085043001 ||| R = R)
    (hk : Keeps R s₀ s) : ResultKeeps R s₀ (execHeartbeat seq device active t0 echoSeq turn rx s) := by
  unfold execHeartbeat
  try dsimp only
  with_reducible
    repeat' first
      | assumption | exact sub_trans (by decide +kernel) hR | exact bit_of (by decide +kernel) hR | apply State.put_keeps | apply State.setTime_keeps
      | apply State.peerCnt_keeps | apply State.modPair_keeps | apply State.noteTau_keeps | apply State.takeRole_keeps | apply ResultKeeps.next
      | split | intro _ | dsimp only

theorem execHeartbeatFailure_keeps {R : Nat} {s₀ : State} {s : State}
    (hR : 0x10000000000000000000000000000000 ||| R = R)
    (hk : Keeps R s₀ s) : ResultKeeps R s₀ (execHeartbeatFailure s) := by
  unfold execHeartbeatFailure
  try dsimp only
  with_reducible
    repeat' first
      | assumption | exact sub_trans (by decide +kernel) hR | exact bit_of (by decide +kernel) hR | apply State.put_keeps | apply ResultKeeps.next
      | split | intro _ | dsimp only

theorem execPairHello_keeps {R : Nat} {s₀ : State} {s : State} (digest member pairDevice : Nat) (trees : List Nat) (senior : Bool) (device : Nat)
    (hR : 0x30000000010000000000020010000000000040000 ||| R = R)
    (hk : Keeps R s₀ s) : ResultKeeps R s₀ (execPairHello digest member pairDevice trees senior device s) := by
  unfold execPairHello
  try dsimp only
  with_reducible
    repeat' first
      | assumption | exact sub_trans (by decide +kernel) hR | exact bit_of (by decide +kernel) hR | apply State.put_keeps | apply State.raisePkg_keeps
      | apply State.modPair_keeps | apply State.sendPeer_keeps | apply ResultKeeps.next | split | intro _ | dsimp only

theorem execPairAccept_keeps {R : Nat} {s₀ : State} {s : State}
    (hR : 0x10164000000000000000002030000000130000000000012002c00000085043001 ||| R = R)
    (hk : Keeps R s₀ s) : ResultKeeps R s₀ (execPairAccept s) := by
  unfold execPairAccept
  try dsimp only
  with_reducible
    repeat' first
      | assumption | exact sub_trans (by decide +kernel) hR | apply State.modPair_keeps | apply State.takeRole_keeps | apply ResultKeeps.next | split
      | intro _ | dsimp only

theorem State.useMap_keeps {R : Nat} {s₀ : State} {s : State} (t m : Nat) (gs : List Grant)
    (hR : 0x1a00000000000000000000000000000000000000000000000000000000000000000010000001 ||| R = R)
    (hk : Keeps R s₀ s) : Keeps R s₀ (State.useMap t m gs s) := by
  unfold State.useMap
  try dsimp only
  with_reducible
    repeat' first
      | assumption | exact sub_trans (by decide +kernel) hR | apply State.granted_keeps | apply State.setCredit_keeps | apply Keeps.foldl
      | apply Keeps.foldl_snd | apply Keeps.foldl_fst | apply Keeps.foldl_build | split | intro _ | dsimp only

theorem execMap_keeps {R : Nat} {s₀ : State} {s : State} (t k m : Nat) (grants : List Grant)
    (hR : 0x1a00000000000000000000000000000000000000000000000000000000000000000012040001 ||| R = R)
    (hk : Keeps R s₀ s) : ResultKeeps R s₀ (execMap t k m grants s) := by
  unfold execMap
  try dsimp only
  with_reducible
    repeat' first
      | assumption | exact sub_trans (by decide +kernel) hR | apply State.modSet_keeps | apply State.peerCnt_keeps | apply State.dropContexts_keeps
      | apply State.modPair_keeps | apply State.undoMap_keeps | apply State.useMap_keeps | apply ResultKeeps.next | split | intro _ | dsimp only

theorem State.recordTerm_keeps {R : Nat} {s₀ : State} {s : State} (r : TermRecord)
    (hR : 0x180007000000030000000000000000000000000000000008000000 ||| R = R)
    (hk : Keeps R s₀ s) : Keeps R s₀ (State.recordTerm s r) := by
  unfold State.recordTerm
  try dsimp only
  with_reducible
    repeat' first
      | assumption | exact sub_trans (by decide +kernel) hR | exact bit_of (by decide +kernel) hR | apply State.put_keeps
      | apply State.setOperation_keeps | apply State.freeTerm_keeps | split | intro _ | dsimp only

theorem execTerminal_keeps {R : Nat} {s₀ : State} {s : State} (records : List TermRecord)
    (hR : 0x180007000000030000000000000000000000000000000008000000 ||| R = R)
    (hk : Keeps R s₀ s) : ResultKeeps R s₀ (execTerminal records s) := by
  unfold execTerminal
  try dsimp only
  with_reducible
    repeat' first
      | assumption | exact sub_trans (by decide +kernel) hR | apply State.recordTerm_keeps | apply ResultKeeps.next | apply Keeps.foldl
      | apply Keeps.foldl_snd | apply Keeps.foldl_fst | apply Keeps.foldl_build | split | intro _ | dsimp only

theorem State.alignPacket_keeps {R : Nat} {s₀ : State} {s : State} (r : CircRecord)
    (hR : 0x6000000000000000000000000000000000000000000000000000000000000000000000080000000 ||| R = R)
    (hk : Keeps R s₀ s) : Keeps R s₀ (State.alignPacket s r) := by
  unfold State.alignPacket
  try dsimp only
  with_reducible
    repeat' first
      | assumption | exact sub_trans (by decide +kernel) hR | exact bit_of (by decide +kernel) hR | apply State.put_keeps | apply State.modCirc_keeps
      | split | intro _ | dsimp only

theorem execCircuit_keeps {R : Nat} {s₀ : State} {s : State} (records : List CircRecord)
    (hR : 0x6000000000000000000000000000000000000000000000000000000000000000000000080000000 ||| R = R)
    (hk : Keeps R s₀ s) : ResultKeeps R s₀ (execCircuit records s) := by
  unfold execCircuit
  try dsimp only
  with_reducible
    repeat' first
      | assumption | exact sub_trans (by decide +kernel) hR | apply State.alignPacket_keeps | apply ResultKeeps.next | apply Keeps.foldl
      | apply Keeps.foldl_snd | apply Keeps.foldl_fst | apply Keeps.foldl_build | split | intro _ | dsimp only

theorem execHealth_keeps {R : Nat} {s₀ : State} {s : State} (received : Option (List Nat))
    (hR : 0xc00000000000020010000000000040001 ||| R = R)
    (hk : Keeps R s₀ s) : ResultKeeps R s₀ (execHealth received s) := by
  unfold execHealth
  try dsimp only
  with_reducible
    repeat' first
      | assumption | exact sub_trans (by decide +kernel) hR | exact bit_of (by decide +kernel) hR | apply State.putWords_keeps
      | apply State.peerCnt_keeps | apply State.modPair_keeps | apply State.sendPeer_keeps | apply ResultKeeps.next | split | intro _ | dsimp only

theorem State.acceptRelease_keeps {R : Nat} {s₀ : State} {s : State} (f : Nat)
    (hR : 0x20000000000020010000000000040000 ||| R = R)
    (hk : Keeps R s₀ s) : Keeps R s₀ (State.acceptRelease f s) := by
  unfold State.acceptRelease
  try dsimp only
  with_reducible
    repeat' first
      | assumption | exact sub_trans (by decide +kernel) hR | exact bit_of (by decide +kernel) hR | apply State.put_keeps | apply State.modPair_keeps
      | apply State.sendPeer_keeps | split | intro _ | dsimp only

theorem execAutoDegrade_keeps {R : Nat} {s₀ : State} {s : State}
    (hR : 0x20000000000020010000000000040000 ||| R = R)
    (hk : Keeps R s₀ s) : ResultKeeps R s₀ (execAutoDegrade s) := by
  unfold execAutoDegrade
  try dsimp only
  with_reducible
    repeat' first
      | assumption | exact sub_trans (by decide +kernel) hR | apply State.modPair_keeps | apply State.acceptRelease_keeps | apply ResultKeeps.next
      | split | intro _ | dsimp only

theorem execRelease_keeps {R : Nat} {s₀ : State} {s : State} (f : Nat)
    (hR : 0x20000000000020010000000000040000 ||| R = R)
    (hk : Keeps R s₀ s) : ResultKeeps R s₀ (execRelease f s) := by
  unfold execRelease
  try dsimp only
  with_reducible
    repeat' first
      | assumption | exact sub_trans (by decide +kernel) hR | exact bit_of (by decide +kernel) hR | apply State.put_keeps
      | apply State.acceptRelease_keeps | apply ResultKeeps.next | split | intro _ | dsimp only

theorem execReleaseDarken_keeps {R : Nat} {s₀ : State} {s : State}
    (hR : 0xa00000000000000000000000000000002000000000030000000000000000000000012040000 ||| R = R)
    (hk : Keeps R s₀ s) : ResultKeeps R s₀ (execReleaseDarken s) := by
  unfold execReleaseDarken
  try dsimp only
  with_reducible
    repeat' first
      | assumption | exact sub_trans (by decide +kernel) hR | exact bit_of (by decide +kernel) hR | apply State.put_keeps | apply State.modPair_keeps
      | apply State.setRole_keeps | apply State.darkenGated_keeps | apply State.emptyFrame_keeps | apply ResultKeeps.next | split | intro _
      | dsimp only

theorem execCalibrate_keeps {R : Nat} {s₀ : State} {s : State} (t : Nat)
    (hR : 0x20000000000000000000000004000000 ||| R = R)
    (hk : Keeps R s₀ s) : ResultKeeps R s₀ (execCalibrate t s) := by
  unfold execCalibrate
  try dsimp only
  with_reducible
    repeat' first
      | assumption | exact sub_trans (by decide +kernel) hR | exact bit_of (by decide +kernel) hR | apply State.put_keeps | apply State.modTree_keeps
      | apply ResultKeeps.next | split | intro _ | dsimp only

theorem execStandbyOffsetUpdate_keeps {R : Nat} {s₀ : State} {s : State} (t : Nat)
    (hR : 0x100000000000000000000000004000000 ||| R = R)
    (hk : Keeps R s₀ s) : ResultKeeps R s₀ (execStandbyOffsetUpdate t s) := by
  unfold execStandbyOffsetUpdate
  extract_lets v0 v1
  have hv1 : Keeps R s₀ v1 := by
    unfold v1
    with_reducible
      repeat' first
        | assumption | exact sub_trans (by decide +kernel) hR | apply State.modTree_keeps | apply State.setOffset_keeps | apply ResultKeeps.next
        | split | intro _ | dsimp only
  try dsimp only
  with_reducible
    repeat' first
      | assumption | exact sub_trans (by decide +kernel) hR | apply State.modTree_keeps | apply State.setOffset_keeps | apply ResultKeeps.next | split
      | intro _ | dsimp only

theorem State.pairSecond_keeps {R : Nat} {s₀ : State} {s : State}
    (hR : 0x40000000000000000000000000040000 ||| R = R)
    (hk : Keeps R s₀ s) : Keeps R s₀ (State.pairSecond s) := by
  unfold State.pairSecond
  extract_lets v0 v1
  have hv1 : Keeps R s₀ v1 := by
    unfold v1
    with_reducible
      repeat' first
        | assumption | exact sub_trans (by decide +kernel) hR | exact bit_of (by decide +kernel) hR | apply State.put_keeps
        | apply State.modPair_keeps | split | intro _ | dsimp only
  try dsimp only
  with_reducible
    repeat' first
      | assumption | exact sub_trans (by decide +kernel) hR | exact bit_of (by decide +kernel) hR | apply State.put_keeps | apply State.modPair_keeps
      | split | intro _ | dsimp only

end Sys2Proof.Machine
end

