-- ==== Sys2Proof/Laws/KeepsTweed.lean ====
section
/-!
SUPPORT. Every operation of Machine/Tweed.lean keeps what `Keeps` names.
-/

namespace Sys2Proof.Machine

set_option Elab.async false
set_option linter.all false

theorem State.tweedCnt_keeps {R : Nat} {s₀ : State} {s : State} (d k n : Nat)
    (hR : 0x1 ||| R = R)
    (hk : Keeps R s₀ s) : Keeps R s₀ (State.tweedCnt d k n s) := by
  unfold State.tweedCnt
  try dsimp only
  with_reducible repeat' first | assumption | exact sub_trans (by decide +kernel) hR | apply State.bump_keeps | split | intro _ | dsimp only

theorem State.rotate_keeps {R : Nat} {s₀ : State} {s : State} (tied : Bool) (r : Rotation)
    (hR : 0x10000000000000000000001b0000000000000000000093000000000000000000001000000b000000000801 ||| R = R)
    (hk : Keeps R s₀ s) : Keeps R s₀ (State.rotate tied s r) := by
  unfold State.rotate
  try dsimp only
  with_reducible
    repeat' first
      | assumption | exact sub_trans (by decide +kernel) hR | exact bit_of (by decide +kernel) hR | apply State.useFree_keeps
      | apply State.putWords_keeps | apply State.endRotations_keeps | apply State.loadSlot_keeps | exact id | exact fun _ => rfl
      | exact fun _ _ _ => rfl | split | (with_unfolding_all (intro p hp; cases p <;> first | rfl | exact bit_absurd (by decide +kernel) hR hp))
      | intro _ | dsimp only | apply Keeps.set_rotations | apply Keeps.set_switches | apply Keeps.change

theorem State.deadlineWork_keeps {R : Nat} {s₀ : State} {s : State} (d : Nat)
    (hR : 0x10000000000000000000001b0000000000000000000093000000000000000000001000000b000000000801 ||| R = R)
    (hk : Keeps R s₀ s) : Keeps R s₀ (State.deadlineWork d s) := by
  unfold State.deadlineWork
  try dsimp only
  with_reducible
    repeat' first
      | assumption | exact sub_trans (by decide +kernel) hR | apply State.rotate_keeps | apply Keeps.foldl | apply Keeps.foldl_snd
      | apply Keeps.foldl_fst | apply Keeps.foldl_build | split | intro _ | dsimp only

theorem execTweedLoadCheck_keeps {R : Nat} {s₀ : State} {s : State} (d load missed late deferrable : Nat)
    (hR : 0x10000000000000000000001b000000000000000000009b000000000000000000001000000b000000000c01 ||| R = R)
    (hk : Keeps R s₀ s) : ResultKeeps R s₀ (execTweedLoadCheck d load missed late deferrable s) := by
  unfold execTweedLoadCheck
  try dsimp only
  with_reducible
    repeat' first
      | assumption | exact sub_trans (by decide +kernel) hR | exact bit_of (by decide +kernel) hR | apply State.put_keeps | apply State.putFlag_keeps
      | apply State.raise_keeps | apply State.modTweed_keeps | apply State.tweedCnt_keeps | apply State.deadlineWork_keeps | apply ResultKeeps.next
      | split | intro _ | dsimp only

theorem State.watchdogRestart_keeps {R : Nat} {s₀ : State} {s : State} (d : Nat)
    (hR : 0xb0800000000000000000000000000000000000701 ||| R = R)
    (hk : Keeps R s₀ s) : Keeps R s₀ (State.watchdogRestart d s) := by
  unfold State.watchdogRestart
  try dsimp only
  with_reducible
    repeat' first
      | assumption | exact sub_trans (by decide +kernel) hR | exact bit_of (by decide +kernel) hR | apply State.put_keeps | apply State.raise_keeps
      | apply State.tweedStart_keeps | apply State.tweedCnt_keeps | split | intro _ | dsimp only

theorem execWatchdog_keeps {R : Nat} {s₀ : State} {s : State} (d : Nat)
    (hR : 0xb0800000000000000000000000000000000000701 ||| R = R)
    (hk : Keeps R s₀ s) : ResultKeeps R s₀ (execWatchdog d s) := by
  unfold execWatchdog
  try dsimp only
  with_reducible
    repeat' first
      | assumption | exact sub_trans (by decide +kernel) hR | apply State.watchdogRestart_keeps | apply ResultKeeps.next | split | intro _
      | dsimp only

theorem State.stopTask_keeps {R : Nat} {s₀ : State} {s : State} (d n : Nat)
    (hR : 0xb0000000000000000000000000000000000000000 ||| R = R)
    (hk : Keeps R s₀ s) : Keeps R s₀ (State.stopTask d n s) := by
  unfold State.stopTask
  try dsimp only
  with_reducible
    repeat' first
      | assumption | exact sub_trans (by decide +kernel) hR | exact bit_of (by decide +kernel) hR | apply State.put_keeps | apply State.raise_keeps
      | split | intro _ | dsimp only

theorem execTaskOverrun_keeps {R : Nat} {s₀ : State} {s : State} (d n : Nat) (fault : Bool)
    (hR : 0xb0000000000000000000000000000000000000401 ||| R = R)
    (hk : Keeps R s₀ s) : ResultKeeps R s₀ (execTaskOverrun d n fault s) := by
  unfold execTaskOverrun
  try dsimp only
  with_reducible
    repeat' first
      | assumption | exact sub_trans (by decide +kernel) hR | apply State.modTweed_keeps | apply State.tweedCnt_keeps | apply State.stopTask_keeps
      | apply ResultKeeps.next | split | intro _ | dsimp only

theorem execDoorbell_keeps {R : Nat} {s₀ : State} {s : State} (d i : Nat) (release : Bool)
    (hR : 0x130000000000000000000000000000000000000401 ||| R = R)
    (hk : Keeps R s₀ s) : ResultKeeps R s₀ (execDoorbell d i release s) := by
  unfold execDoorbell
  try dsimp only
  with_reducible
    repeat' first
      | assumption | exact sub_trans (by decide +kernel) hR | apply State.raise_keeps | apply State.modTweed_keeps | apply State.setMbox_keeps
      | apply State.tweedCnt_keeps | apply ResultKeeps.next | split | intro _ | dsimp only

theorem State.mboxPayload_keeps {R : Nat} {s₀ : State} {s : State} (d i : Nat) (bytes : List Nat)
    (hR : 0x800000000000000000000000000000000000000000 ||| R = R)
    (hk : Keeps R s₀ s) : Keeps R s₀ (State.mboxPayload d i bytes s) := by
  unfold State.mboxPayload
  extract_lets v0 v1 v2
  have hv2 : Keeps R s₀ v2 := by
    unfold v2
    with_reducible
      repeat' first
        | assumption | exact sub_trans (by decide +kernel) hR | exact bit_of (by decide +kernel) hR | apply State.put_keeps | apply Keeps.foldl
        | apply Keeps.foldl_snd | apply Keeps.foldl_fst | apply Keeps.foldl_build | split | intro _ | dsimp only
  try dsimp only
  with_reducible
    repeat' first
      | assumption | exact sub_trans (by decide +kernel) hR | exact bit_of (by decide +kernel) hR | apply State.put_keeps | apply Keeps.foldl
      | apply Keeps.foldl_snd | apply Keeps.foldl_fst | apply Keeps.foldl_build | split | intro _ | dsimp only

theorem State.serveVersion_keeps {R : Nat} {s₀ : State} {s : State} (d i : Nat)
    (hR : 0x930000000000000000000000000000000000000000 ||| R = R)
    (hk : Keeps R s₀ s) : Keeps R s₀ (State.serveVersion d i s) := by
  unfold State.serveVersion
  try dsimp only
  with_reducible
    repeat' first
      | assumption | exact sub_trans (by decide +kernel) hR | apply State.mboxReply_keeps | apply State.mboxPayload_keeps | split | intro _
      | dsimp only

theorem State.serveRotate_keeps {R : Nat} {s₀ : State} {s : State} (tied : Bool) (d i : Nat)
    (hR : 0x10000000000000000000001b0000000000000000000093000000000000000000001000000b000000000801 ||| R = R)
    (hk : Keeps R s₀ s) : Keeps R s₀ (State.serveRotate tied d i s) := by
  unfold State.serveRotate
  try dsimp only
  with_reducible
    repeat' first
      | assumption | exact sub_trans (by decide +kernel) hR | exact bit_of (by decide +kernel) hR | apply State.setMbox_keeps
      | apply State.mboxReply_keeps | apply State.rotate_keeps | exact id | exact fun _ => rfl | exact fun _ _ _ => rfl | split
      | (with_unfolding_all (intro p hp; cases p <;> first | rfl | exact bit_absurd (by decide +kernel) hR hp)) | intro _ | dsimp only
      | apply Keeps.set_rotations | apply Keeps.change

theorem State.serveCancel_keeps {R : Nat} {s₀ : State} {s : State} (d i : Nat)
    (hR : 0x10000000000000000000000a00000000000000000000930000000000000000000010000001000000000800 ||| R = R)
    (hk : Keeps R s₀ s) : Keeps R s₀ (State.serveCancel d i s) := by
  unfold State.serveCancel
  try dsimp only
  with_reducible
    repeat' first
      | assumption | exact sub_trans (by decide +kernel) hR | exact bit_of (by decide +kernel) hR | apply State.put_keeps | apply State.useFree_keeps
      | apply State.mboxReply_keeps | apply State.endRotations_keeps | apply State.keyDone_keeps | exact id | exact fun _ => rfl
      | exact fun _ _ _ => rfl | split | (with_unfolding_all (intro p hp; cases p <;> first | rfl | exact bit_absurd (by decide +kernel) hR hp))
      | intro _ | dsimp only | apply Keeps.set_keys | apply Keeps.change

theorem State.serveTask_keeps {R : Nat} {s₀ : State} {s : State} (reply : List Nat) (d i : Nat)
    (hR : 0x930000000000000000000000000000000000000000 ||| R = R)
    (hk : Keeps R s₀ s) : Keeps R s₀ (State.serveTask reply d i s) := by
  unfold State.serveTask
  try dsimp only
  with_reducible
    repeat' first
      | assumption | exact sub_trans (by decide +kernel) hR | apply State.mboxReply_keeps | apply State.mboxPayload_keeps | split | intro _
      | dsimp only

theorem State.serve_keeps {R : Nat} {s₀ : State} {s : State} (tied : Bool) (reply : List Nat) (d i : Nat)
    (hR : 0x10000000000000000000001b0000000000000000000093000000000000000000001000000b000000000801 ||| R = R)
    (hk : Keeps R s₀ s) : Keeps R s₀ (State.serve tied reply d i s) := by
  unfold State.serve
  try dsimp only
  with_reducible
    repeat' first
      | assumption | exact sub_trans (by decide +kernel) hR | apply State.mboxReply_keeps | apply State.serveVersion_keeps
      | apply State.serveRotate_keeps | apply State.serveCancel_keeps | apply State.serveTask_keeps | split | intro _ | dsimp only

theorem State.takePosted_keeps {R : Nat} {s₀ : State} {s : State} (takes : Nat → Bool) (tied : Bool) (reply : List Nat) (d : Nat)
    (hR : 0x10000000000000000000001b0000000000000000000093000000000000000000001000000b000000000c01 ||| R = R)
    (hk : Keeps R s₀ s) : Keeps R s₀ (State.takePosted takes tied reply d s) := by
  unfold State.takePosted
  try dsimp only
  with_reducible
    repeat' first
      | assumption | exact sub_trans (by decide +kernel) hR | apply State.modTweed_keeps | apply State.setMbox_keeps | apply State.serve_keeps | split
      | intro _ | dsimp only

theorem execMailboxService_keeps {R : Nat} {s₀ : State} {s : State} (d : Nat) (reply : List Nat)
    (hR : 0x10000000000000000000001b0000000000000000000093000000000000000000001000000b000000000c01 ||| R = R)
    (hk : Keeps R s₀ s) : ResultKeeps R s₀ (execMailboxService d reply s) := by
  unfold execMailboxService
  try dsimp only
  with_reducible
    repeat' first
      | assumption | exact sub_trans (by decide +kernel) hR | apply State.takePosted_keeps | apply ResultKeeps.next | split | intro _ | dsimp only

theorem execVersion_keeps {R : Nat} {s₀ : State} {s : State} (d : Nat)
    (hR : 0x10000000000000000000001b0000000000000000000093000000000000000000001000000b000000000c01 ||| R = R)
    (hk : Keeps R s₀ s) : ResultKeeps R s₀ (execVersion d s) := by
  unfold execVersion
  try dsimp only
  with_reducible
    repeat' first
      | assumption | exact sub_trans (by decide +kernel) hR | apply State.takePosted_keeps | apply ResultKeeps.next | split | intro _ | dsimp only

theorem execRotate_keeps {R : Nat} {s₀ : State} {s : State} (d : Nat) (tied : Bool)
    (hR : 0x10000000000000000000001b0000000000000000000093000000000000000000001000000b000000000c01 ||| R = R)
    (hk : Keeps R s₀ s) : ResultKeeps R s₀ (execRotate d tied s) := by
  unfold execRotate
  try dsimp only
  with_reducible
    repeat' first
      | assumption | exact sub_trans (by decide +kernel) hR | apply State.takePosted_keeps | apply ResultKeeps.next | split | intro _ | dsimp only

theorem execRotateCancel_keeps {R : Nat} {s₀ : State} {s : State} (d : Nat)
    (hR : 0x10000000000000000000001b0000000000000000000093000000000000000000001000000b000000000c01 ||| R = R)
    (hk : Keeps R s₀ s) : ResultKeeps R s₀ (execRotateCancel d s) := by
  unfold execRotateCancel
  try dsimp only
  with_reducible
    repeat' first
      | assumption | exact sub_trans (by decide +kernel) hR | apply State.takePosted_keeps | apply ResultKeeps.next | split | intro _ | dsimp only

theorem execExtMsg_keeps {R : Nat} {s₀ : State} {s : State} (d : Nat) (reply : List Nat)
    (hR : 0x10000000000000000000001b0000000000000000000093000000000000000000001000000b000000000c01 ||| R = R)
    (hk : Keeps R s₀ s) : ResultKeeps R s₀ (execExtMsg d reply s) := by
  unfold execExtMsg
  try dsimp only
  with_reducible
    repeat' first
      | assumption | exact sub_trans (by decide +kernel) hR | apply State.takePosted_keeps | apply ResultKeeps.next | split | intro _ | dsimp only

end Sys2Proof.Machine
end

