-- ==== Sys2Proof/Laws/KeepsInterrupts.lean ====
section
/-!
SUPPORT. Every operation of Machine/Interrupts.lean keeps what `Keeps` names.
-/

namespace Sys2Proof.Machine

set_option Elab.async false
set_option linter.all false

theorem State.icCnt_keeps {R : Nat} {s₀ : State} {s : State} (d k n : Nat)
    (hR : 0x1 ||| R = R)
    (hk : Keeps R s₀ s) : Keeps R s₀ (State.icCnt d k n s) := by
  unfold State.icCnt
  try dsimp only
  with_reducible repeat' first | assumption | exact sub_trans (by decide +kernel) hR | apply State.bump_keeps | split | intro _ | dsimp only

theorem State.clearPending_keeps {R : Nat} {s₀ : State} {s : State} (d src : Nat)
    (hR : 0x20000000000000000000000000000000000000000 ||| R = R)
    (hk : Keeps R s₀ s) : Keeps R s₀ (State.clearPending d src s) := by
  unfold State.clearPending
  try dsimp only
  with_reducible
    repeat' first
      | assumption | exact sub_trans (by decide +kernel) hR | exact bit_of (by decide +kernel) hR | apply State.putFlag_keeps | split | intro _
      | dsimp only

theorem State.countRedirects_keeps {R : Nat} {s₀ : State} {s : State} (x : Due)
    (hR : 0x1 ||| R = R)
    (hk : Keeps R s₀ s) : Keeps R s₀ (State.countRedirects x s) := by
  unfold State.countRedirects
  try dsimp only
  with_reducible repeat' first | assumption | exact sub_trans (by decide +kernel) hR | apply State.icCnt_keeps | split | intro _ | dsimp only

theorem State.takeDue_keeps {R : Nat} {s₀ : State} {s : State} (x : Due)
    (hR : 0x30000000000000000000000000000000000000000 ||| R = R)
    (hk : Keeps R s₀ s) : Keeps R s₀ (State.takeDue x s) := by
  unfold State.takeDue
  try dsimp only
  with_reducible
    repeat' first
      | assumption | exact sub_trans (by decide +kernel) hR | exact bit_of (by decide +kernel) hR | apply State.put_keeps | split | intro _
      | dsimp only

theorem State.displace_keeps {R : Nat} {s₀ : State} {s : State} (x : Due)
    (hR : 0x30000000000000000000000000000000000000000 ||| R = R)
    (hk : Keeps R s₀ s) : Keeps R s₀ (State.displace x s) := by
  unfold State.displace
  try dsimp only
  with_reducible
    repeat' first
      | assumption | exact sub_trans (by decide +kernel) hR | exact bit_of (by decide +kernel) hR | apply State.put_keeps | split | intro _
      | dsimp only

theorem State.finish_keeps {R : Nat} {s₀ : State} {s : State} (d n : Nat)
    (hR : 0x30000000000000000000000000000000000000000 ||| R = R)
    (hk : Keeps R s₀ s) : Keeps R s₀ (State.finish d n s) := by
  unfold State.finish
  try dsimp only
  with_reducible
    repeat' first
      | assumption | exact sub_trans (by decide +kernel) hR | exact bit_of (by decide +kernel) hR | apply State.put_keeps | split | intro _
      | dsimp only

theorem State.enterHandler_keeps {R : Nat} {s₀ : State} {s : State} (d : Nat) (x : Due)
    (hR : 0x800000000000000000000000000000000000501 ||| R = R)
    (hk : Keeps R s₀ s) : Keeps R s₀ (State.enterHandler d x s) := by
  unfold State.enterHandler
  try dsimp only
  with_reducible
    repeat' first
      | assumption | exact sub_trans (by decide +kernel) hR | exact bit_of (by decide +kernel) hR | apply State.put_keeps | apply State.modTweed_keeps
      | apply State.modCore_keeps | apply State.icCnt_keeps | apply State.countRedirects_keeps | split | intro _ | dsimp only

theorem State.firmwareAt_keeps {R : Nat} {s₀ : State} {s : State} (d : Nat) (f : FwState)
    (hR : 0x800000000000000000000000000000000000100 ||| R = R)
    (hk : Keeps R s₀ s) : Keeps R s₀ (State.firmwareAt d f s) := by
  unfold State.firmwareAt
  try dsimp only
  with_reducible
    repeat' first
      | assumption | exact sub_trans (by decide +kernel) hR | exact bit_of (by decide +kernel) hR | apply State.put_keeps | apply State.putFlag_keeps
      | apply State.modCore_keeps | split | intro _ | dsimp only

theorem State.wake_keeps {R : Nat} {s₀ : State} {s : State} (d : Nat)
    (hR : 0x80800000000000000000000000000000000000001 ||| R = R)
    (hk : Keeps R s₀ s) : Keeps R s₀ (State.wake d s) := by
  unfold State.wake
  try dsimp only
  with_reducible
    repeat' first
      | assumption | exact sub_trans (by decide +kernel) hR | exact bit_of (by decide +kernel) hR | apply State.put_keeps | apply State.icCnt_keeps
      | split | intro _ | dsimp only

theorem State.raiseAll_keeps {R : Nat} {s₀ : State} {s : State} (events : List (Nat × Nat))
    (hR : 0x30000000000000000000000000000000000000000 ||| R = R)
    (hk : Keeps R s₀ s) : Keeps R s₀ (State.raiseAll events s) := by
  unfold State.raiseAll
  try dsimp only
  with_reducible
    repeat' first
      | assumption | exact sub_trans (by decide +kernel) hR | apply State.raise_keeps | apply Keeps.foldl | apply Keeps.foldl_snd
      | apply Keeps.foldl_fst | apply Keeps.foldl_build | split | intro _ | dsimp only

theorem execInterruptEntry_keeps {R : Nat} {s₀ : State} {s : State} (d : Nat) (f : FwState) (late : List (Nat × Nat))
    (hR : 0xb0800000000000000000000000000000000000701 ||| R = R)
    (hk : Keeps R s₀ s) : ResultKeeps R s₀ (execInterruptEntry d f late s) := by
  unfold execInterruptEntry
  try dsimp only
  with_reducible
    repeat' first
      | assumption | exact sub_trans (by decide +kernel) hR | exact bit_of (by decide +kernel) hR | apply State.put_keeps | apply State.icCnt_keeps
      | apply State.takeDue_keeps | apply State.displace_keeps | apply State.enterHandler_keeps | apply State.firmwareAt_keeps
      | apply State.wake_keeps | apply State.raiseAll_keeps | apply ResultKeeps.next | exact id | exact fun _ => rfl | exact fun _ _ _ => rfl | split
      | (with_unfolding_all (intro p hp; cases p <;> first | rfl | exact bit_absurd (by decide +kernel) hR hp)) | intro _ | dsimp only
      | apply Keeps.set_ctxStore | apply Keeps.change

theorem execResume_keeps {R : Nat} {s₀ : State} {s : State} (d : Nat) (f : FwState) (late : List (Nat × Nat))
    (hR : 0x30800000000000000000000000000000000000701 ||| R = R)
    (hk : Keeps R s₀ s) : ResultKeeps R s₀ (execResume d f late s) := by
  unfold execResume
  try dsimp only
  with_reducible
    repeat' first
      | assumption | exact sub_trans (by decide +kernel) hR | exact bit_of (by decide +kernel) hR | apply State.put_keeps | apply State.modTweed_keeps
      | apply State.modCore_keeps | apply State.icCnt_keeps | apply State.takeDue_keeps | apply State.finish_keeps | apply State.enterHandler_keeps
      | apply State.firmwareAt_keeps | apply State.raiseAll_keeps | apply ResultKeeps.next | exact id | exact fun _ => rfl | exact fun _ _ _ => rfl
      | split | (with_unfolding_all (intro p hp; cases p <;> first | rfl | exact bit_absurd (by decide +kernel) hR hp)) | intro _ | dsimp only
      | apply Keeps.set_ctxStore | apply Keeps.change

theorem execCoreWake_keeps {R : Nat} {s₀ : State} {s : State} (d : Nat) (f : FwState)
    (hR : 0x80800000000000000000000000000000000000101 ||| R = R)
    (hk : Keeps R s₀ s) : ResultKeeps R s₀ (execCoreWake d f s) := by
  unfold execCoreWake
  try dsimp only
  with_reducible
    repeat' first
      | assumption | exact sub_trans (by decide +kernel) hR | exact bit_of (by decide +kernel) hR | apply State.put_keeps
      | apply State.firmwareAt_keeps | apply State.wake_keeps | apply ResultKeeps.next | split | intro _ | dsimp only

theorem execGroupFire_keeps {R : Nat} {s₀ : State} {s : State} (d g : Nat)
    (hR : 0x10000000000000000000000000000000000000001 ||| R = R)
    (hk : Keeps R s₀ s) : ResultKeeps R s₀ (execGroupFire d g s) := by
  unfold execGroupFire
  try dsimp only
  with_reducible
    repeat' first
      | assumption | exact sub_trans (by decide +kernel) hR | exact bit_of (by decide +kernel) hR | apply State.put_keeps | apply State.icCnt_keeps
      | apply ResultKeeps.next | split | intro _ | dsimp only

theorem execSwset_keeps {R : Nat} {s₀ : State} {s : State} (d src : Nat)
    (hR : 0x30000000000000000000000000000000000000000 ||| R = R)
    (hk : Keeps R s₀ s) : ResultKeeps R s₀ (execSwset d src s) := by
  unfold execSwset
  try dsimp only
  with_reducible
    repeat' first
      | assumption | exact sub_trans (by decide +kernel) hR | apply State.raise_keeps | apply ResultKeeps.next | split | intro _ | dsimp only

theorem execTargetWrite_keeps {R : Nat} {s₀ : State} {s : State} (d num : Nat) (host : Bool) (die vector : Nat)
    (hR : 0x28000000000000000000000000000000000000000 ||| R = R)
    (hk : Keeps R s₀ s) : ResultKeeps R s₀ (execTargetWrite d num host die vector s) := by
  unfold execTargetWrite
  try dsimp only
  with_reducible
    repeat' first
      | assumption | exact sub_trans (by decide +kernel) hR | exact bit_of (by decide +kernel) hR | apply State.put_keeps | apply State.putFlag_keeps
      | apply ResultKeeps.next | split | intro _ | dsimp only

theorem State.deliverHost_keeps {R : Nat} {s₀ : State} {s : State} (x : Due) (v : Nat)
    (hR : 0x30000040000000000000020000000000000000001 ||| R = R)
    (hk : Keeps R s₀ s) : Keeps R s₀ (State.deliverHost x v s) := by
  unfold State.deliverHost
  try dsimp only
  with_reducible
    repeat' first
      | assumption | exact sub_trans (by decide +kernel) hR | apply State.sendVector_keeps | apply State.icCnt_keeps | apply State.clearPending_keeps
      | apply State.countRedirects_keeps | apply State.takeDue_keeps | split | intro _ | dsimp only

theorem execMsixDelivery_keeps {R : Nat} {s₀ : State} {s : State} (d : Nat)
    (hR : 0x30000040000000000000020000000000000000001 ||| R = R)
    (hk : Keeps R s₀ s) : ResultKeeps R s₀ (execMsixDelivery d s) := by
  unfold execMsixDelivery
  extract_lets v0 v1 v2
  have hv2 : Keeps R s₀ v2 := by
    unfold v2
    with_reducible
      repeat' first
        | assumption | exact sub_trans (by decide +kernel) hR | apply State.putPba_keeps | apply State.deliverHost_keeps | apply ResultKeeps.next
        | apply Keeps.foldl | apply Keeps.foldl_snd | apply Keeps.foldl_fst | apply Keeps.foldl_build | split | intro _ | dsimp only
  try dsimp only
  with_reducible
    repeat' first
      | assumption | exact sub_trans (by decide +kernel) hR | apply State.putPba_keeps | apply State.deliverHost_keeps | apply ResultKeeps.next
      | apply Keeps.foldl | apply Keeps.foldl_snd | apply Keeps.foldl_fst | apply Keeps.foldl_build | split | intro _ | dsimp only

theorem execEoi_keeps {R : Nat} {s₀ : State} {s : State} (d num : Nat)
    (hR : 0x30000040000000000000020000000000000000001 ||| R = R)
    (hk : Keeps R s₀ s) : ResultKeeps R s₀ (execEoi d num s) := by
  unfold execEoi
  try dsimp only
  with_reducible
    repeat' first
      | assumption | exact sub_trans (by decide +kernel) hR | apply State.putPba_keeps | apply State.icCnt_keeps | apply State.finish_keeps
      | apply State.deliverHost_keeps | apply ResultKeeps.next | split | intro _ | dsimp only

theorem State.unmaskVector_keeps {R : Nat} {s₀ : State} {s : State} (v : Nat)
    (hR : 0x30000040000000000000020000000000000000001 ||| R = R)
    (hk : Keeps R s₀ s) : Keeps R s₀ (State.unmaskVector v s) := by
  unfold State.unmaskVector
  try dsimp only
  with_reducible
    repeat' first
      | assumption | exact sub_trans (by decide +kernel) hR | apply State.sendVector_keeps | apply State.deliverHost_keeps | split | intro _
      | dsimp only

end Sys2Proof.Machine
end

