-- ==== Sys2Proof/Laws/KeepsChannel.lean ====
section
/-!
SUPPORT. Every operation of Machine/Channel.lean keeps what `Keeps` names.
-/

namespace Sys2Proof.Machine

set_option Elab.async false
set_option linter.all false

theorem State.modChan_keeps {R : Nat} {s₀ : State} {s : State} (d c : Nat) (f : ChanSt → ChanSt)
    (hR : 0x8000 ||| R = R)
    (hk : Keeps R s₀ s) : Keeps R s₀ (State.modChan d c f s) := by
  unfold State.modChan
  try dsimp only
  with_reducible
    repeat' first
      | assumption | exact sub_trans (by decide +kernel) hR | exact bit_of (by decide +kernel) hR | exact id | exact fun _ => rfl
      | exact fun _ _ _ => rfl | split | (with_unfolding_all (intro p hp; cases p <;> first | rfl | exact bit_absurd (by decide +kernel) hR hp))
      | intro _ | dsimp only | apply Keeps.set_channels | apply Keeps.change

theorem State.modStack_keeps {R : Nat} {s₀ : State} {s : State} (d : Nat) (f : StackSt → StackSt)
    (hR : 0x10000 ||| R = R)
    (hk : Keeps R s₀ s) : Keeps R s₀ (State.modStack d f s) := by
  unfold State.modStack
  try dsimp only
  with_reducible
    repeat' first
      | assumption | exact sub_trans (by decide +kernel) hR | exact bit_of (by decide +kernel) hR | exact id | exact fun _ => rfl
      | exact fun _ _ _ => rfl | split | (with_unfolding_all (intro p hp; cases p <;> first | rfl | exact bit_absurd (by decide +kernel) hR hp))
      | intro _ | dsimp only | apply Keeps.set_dieStacks | apply Keeps.change

theorem State.setChan_keeps {R : Nat} {s₀ : State} {s : State} (d c st : Nat)
    (hR : 0x4200000000000000000000000000000000000000000000000000000000000000000 ||| R = R)
    (hk : Keeps R s₀ s) : Keeps R s₀ (State.setChan d c st s) := by
  unfold State.setChan
  try dsimp only
  with_reducible
    repeat' first
      | assumption | exact sub_trans (by decide +kernel) hR | exact bit_of (by decide +kernel) hR | apply State.put_keeps | split | intro _
      | dsimp only

theorem State.memEvent_keeps {R : Nat} {s₀ : State} {s : State} (d : Nat) (f : Field) (src : Nat)
    (hR : 0x30000000000000000000000000000000000000000 ||| R = R) (hf : R.testBit (wordBit f.num) = true)
    (hk : Keeps R s₀ s) : Keeps R s₀ (State.memEvent d f src s) := by
  unfold State.memEvent
  try dsimp only
  with_reducible
    repeat' first
      | assumption | exact sub_trans (by decide +kernel) hR | exact bit_of (by decide +kernel) hR | apply State.put_keeps | apply State.raise_keeps
      | split | intro _ | dsimp only

theorem State.queued_keeps {R : Nat} {s₀ : State} {s : State} (d c : Nat) (x : ChanSt)
    (hR : 0x4000000000000000000000000000000000000000000000000000000000000008001 ||| R = R)
    (hk : Keeps R s₀ s) : Keeps R s₀ (State.queued d c x s) := by
  unfold State.queued
  extract_lets v0 v1
  have hv1 : Keeps R s₀ v1 := by
    unfold v1
    with_reducible
      repeat' first
        | assumption | exact sub_trans (by decide +kernel) hR | exact bit_of (by decide +kernel) hR | apply State.put_keeps | apply State.memCnt_keeps
        | apply State.modChan_keeps | split | intro _ | dsimp only
  try dsimp only
  with_reducible
    repeat' first
      | assumption | exact sub_trans (by decide +kernel) hR | exact bit_of (by decide +kernel) hR | apply State.put_keeps | apply State.memCnt_keeps
      | apply State.modChan_keeps | split | intro _ | dsimp only

theorem State.memRequest_keeps {R : Nat} {s₀ : State} {s : State} (d c : Nat) (r : MemReq)
    (hR : 0x4000000000000000000000000000000000000000000000000000000000000008001 ||| R = R)
    (hk : Keeps R s₀ s) : Keeps R s₀ (State.memRequest d c r s) := by
  unfold State.memRequest
  try dsimp only
  with_reducible
    repeat' first
      | assumption | exact sub_trans (by decide +kernel) hR | apply State.memCnt_keeps | apply State.queued_keeps | split | intro _ | dsimp only

theorem State.showThrottle_keeps {R : Nat} {s₀ : State} {s : State} (d q : Nat)
    (hR : 0x8000000000000000000000000000000000000000000000000000000000000000000 ||| R = R)
    (hk : Keeps R s₀ s) : Keeps R s₀ (State.showThrottle d q s) := by
  unfold State.showThrottle
  try dsimp only
  with_reducible
    repeat' first
      | assumption | exact sub_trans (by decide +kernel) hR | exact bit_of (by decide +kernel) hR | apply State.putFlag_keeps | split | intro _
      | dsimp only

theorem State.activateRow_keeps {R : Nat} {s₀ : State} {s : State} (d c : Nat) (r : MemReq)
    (hR : 0x8200000000000000000000000030000000000000000000002000000000000008001 ||| R = R)
    (hk : Keeps R s₀ s) : Keeps R s₀ (State.activateRow d c r s) := by
  unfold State.activateRow
  try dsimp only
  with_reducible
    repeat' first
      | assumption | exact sub_trans (by decide +kernel) hR | exact bit_of (by decide +kernel) hR | apply State.put_keeps | apply State.addSat_keeps
      | apply State.raiseOnce_keeps | apply State.memCnt_keeps | apply State.modChan_keeps | apply State.showThrottle_keeps | split | intro _
      | dsimp only

theorem State.access_keeps {R : Nat} {s₀ : State} {s : State} (d c : Nat) (r : MemReq)
    (hR : 0x8200000000000000000000000030000000000000000000002000000000000008001 ||| R = R)
    (hk : Keeps R s₀ s) : Keeps R s₀ (State.access d c r s) := by
  unfold State.access
  try dsimp only
  with_reducible
    repeat' first
      | assumption | exact sub_trans (by decide +kernel) hR | apply State.memCnt_keeps | apply State.modChan_keeps | apply State.activateRow_keeps
      | split | intro _ | dsimp only

theorem State.scrubRead_keeps {R : Nat} {s₀ : State} {s : State} (d c : Nat)
    (hR : 0x1000000000000000000000000000000000000000000000000000000000000008001 ||| R = R)
    (hk : Keeps R s₀ s) : Keeps R s₀ (State.scrubRead d c s) := by
  unfold State.scrubRead
  extract_lets v0 v1 v2
  have hv0 : Keeps R s₀ v0 := by
    unfold v0
    with_reducible
      repeat' first
        | assumption | exact sub_trans (by decide +kernel) hR | exact bit_of (by decide +kernel) hR | apply State.put_keeps | apply State.memCnt_keeps
        | apply State.modChan_keeps | split | intro _ | dsimp only
  try dsimp only
  with_reducible
    repeat' first
      | assumption | exact sub_trans (by decide +kernel) hR | exact bit_of (by decide +kernel) hR | apply State.put_keeps | apply State.memCnt_keeps
      | apply State.modChan_keeps | split | intro _ | dsimp only

theorem State.serveReq_keeps {R : Nat} {s₀ : State} {s : State} (d c : Nat) (r : MemReq)
    (hR : 0xd200000000000000000000000030000000000000000000002000000000000008001 ||| R = R)
    (hk : Keeps R s₀ s) : Keeps R s₀ (State.serveReq d c r s) := by
  unfold State.serveReq
  extract_lets v0 v1 v2
  have hv2 : Keeps R s₀ v2 := by
    unfold v2
    with_reducible
      repeat' first
        | assumption | exact sub_trans (by decide +kernel) hR | apply State.queued_keeps | apply State.access_keeps | apply State.scrubRead_keeps
        | split | intro _ | dsimp only
  try dsimp only
  with_reducible
    repeat' first
      | assumption | exact sub_trans (by decide +kernel) hR | apply State.queued_keeps | apply State.access_keeps | apply State.scrubRead_keeps
      | split | intro _ | dsimp only

theorem State.serveSlot_keeps {R : Nat} {s₀ : State} {s : State} (d c now x3 : Nat)
    (hR : 0xd200000000000000000000000030000000000000000000002000000000000008001 ||| R = R)
    (hk : Keeps R s₀ s) : Keeps R s₀ (State.serveSlot d c now x3 s) := by
  induction x3 generalizing s with
  | zero =>
    unfold State.serveSlot
    try dsimp only
    with_reducible
      repeat' first
        | assumption | exact sub_trans (by decide +kernel) hR | apply State.memCnt_keeps | apply State.modChan_keeps | apply State.serveReq_keeps
        | split | intro _ | dsimp only
  | succ n ih =>
    unfold State.serveSlot
    try dsimp only
    with_reducible
      repeat' first
        | assumption | exact sub_trans (by decide +kernel) hR | apply ih | apply State.memCnt_keeps | apply State.modChan_keeps
        | apply State.serveReq_keeps | split | intro _ | dsimp only

theorem State.trainStart_keeps {R : Nat} {s₀ : State} {s : State} (d c st : Nat)
    (hR : 0x4200000000000000000000000000000000000000000000000000000000000000000 ||| R = R)
    (hk : Keeps R s₀ s) : Keeps R s₀ (State.trainStart d c st s) := by
  unfold State.trainStart
  try dsimp only
  with_reducible
    repeat' first
      | assumption | exact sub_trans (by decide +kernel) hR | exact bit_of (by decide +kernel) hR | apply State.addWrap_keeps
      | apply State.setChan_keeps | split | intro _ | dsimp only

theorem State.refresh_keeps {R : Nat} {s₀ : State} {s : State} (d c : Nat)
    (hR : 0x4200000000000000000000000000000000000000000000000000000000000008001 ||| R = R)
    (hk : Keeps R s₀ s) : Keeps R s₀ (State.refresh d c s) := by
  unfold State.refresh
  extract_lets v0 v1 v2 v3
  have hv3 : Keeps R s₀ v3 := by
    unfold v3
    with_reducible
      repeat' first
        | assumption | exact sub_trans (by decide +kernel) hR | exact bit_of (by decide +kernel) hR | apply State.put_keeps | apply State.memCnt_keeps
        | apply State.modChan_keeps | apply State.setChan_keeps | apply State.trainStart_keeps | exact id | exact fun _ => rfl
        | exact fun _ _ _ => rfl | split | (with_unfolding_all (intro p hp; cases p <;> first | rfl | exact bit_absurd (by decide +kernel) hR hp))
        | intro _ | dsimp only | apply Keeps.change
  try dsimp only
  with_reducible
    repeat' first
      | assumption | exact sub_trans (by decide +kernel) hR | exact bit_of (by decide +kernel) hR | apply State.put_keeps | apply State.memCnt_keeps
      | apply State.modChan_keeps | apply State.setChan_keeps | apply State.trainStart_keeps | exact id | exact fun _ => rfl | exact fun _ _ _ => rfl
      | split | (with_unfolding_all (intro p hp; cases p <;> first | rfl | exact bit_absurd (by decide +kernel) hR hp)) | intro _ | dsimp only
      | apply Keeps.change

theorem State.judgeDebt_keeps {R : Nat} {s₀ : State} {s : State} (d c : Nat)
    (hR : 0x4200000000000000000000000030000000000000000000000000000000000000001 ||| R = R)
    (hk : Keeps R s₀ s) : Keeps R s₀ (State.judgeDebt d c s) := by
  unfold State.judgeDebt
  try dsimp only
  with_reducible
    repeat' first
      | assumption | exact sub_trans (by decide +kernel) hR | exact bit_of (by decide +kernel) hR | apply State.memCnt_keeps
      | apply State.setChan_keeps | apply State.memEvent_keeps | split | intro _ | dsimp only

theorem State.setDebt_keeps {R : Nat} {s₀ : State} {s : State} (d c v : Nat)
    (hR : 0x4200000000000000000000000030000000000000000000000000000000000000001 ||| R = R)
    (hk : Keeps R s₀ s) : Keeps R s₀ (State.setDebt d c v s) := by
  unfold State.setDebt
  try dsimp only
  with_reducible
    repeat' first
      | assumption | exact sub_trans (by decide +kernel) hR | exact bit_of (by decide +kernel) hR | apply State.put_keeps
      | apply State.judgeDebt_keeps | split | intro _ | dsimp only

theorem State.chanSlot_keeps {R : Nat} {s₀ : State} {s : State} (d c now : Nat)
    (hR : 0xd200000000000000000000000030000000000000000000002000000000000008001 ||| R = R)
    (hk : Keeps R s₀ s) : Keeps R s₀ (State.chanSlot d c now s) := by
  unfold State.chanSlot
  try dsimp only
  with_reducible
    repeat' first
      | assumption | exact sub_trans (by decide +kernel) hR | apply State.modChan_keeps | apply State.serveSlot_keeps | apply State.refresh_keeps
      | split | intro _ | dsimp only

theorem State.chanEvent_keeps {R : Nat} {s₀ : State} {s : State} (d c : Nat) (e : ChanEvent)
    (hR : 0xd200000000000000000000000030000000000000000000002000000000000008001 ||| R = R)
    (hk : Keeps R s₀ s) : Keeps R s₀ (State.chanEvent d c s e) := by
  unfold State.chanEvent
  try dsimp only
  with_reducible
    repeat' first
      | assumption | exact sub_trans (by decide +kernel) hR | apply State.memRequest_keeps | apply State.chanSlot_keeps | split | intro _ | dsimp only

theorem execRefreshInterval_keeps {R : Nat} {s₀ : State} {s : State} (d c : Nat) (events : List ChanEvent)
    (hR : 0xd200000000000000000000000030000000000000000000002000000000000008001 ||| R = R)
    (hk : Keeps R s₀ s) : ResultKeeps R s₀ (execRefreshInterval d c events s) := by
  unfold execRefreshInterval
  try dsimp only
  with_reducible
    repeat' first
      | assumption | exact sub_trans (by decide +kernel) hR | apply State.setDebt_keeps | apply State.chanEvent_keeps | apply ResultKeeps.next
      | apply Keeps.foldl | apply Keeps.foldl_snd | apply Keeps.foldl_fst | apply Keeps.foldl_build | split | intro _ | dsimp only

end Sys2Proof.Machine
end

