-- ==== Sys2Proof/Laws/KeepsStack.lean ====
section
/-!
SUPPORT. Every operation of Machine/Stack.lean keeps what `Keeps` names.
-/

namespace Sys2Proof.Machine

set_option Elab.async false
set_option linter.all false

theorem State.showMaxTemp_keeps {R : Nat} {s₀ : State} {s : State} (d : Nat)
    (hR : 0x200000000000000000000000000000000000000000000000000000000000000000 ||| R = R)
    (hk : Keeps R s₀ s) : Keeps R s₀ (State.showMaxTemp d s) := by
  unfold State.showMaxTemp
  try dsimp only
  with_reducible
    repeat' first
      | assumption | exact sub_trans (by decide +kernel) hR | exact bit_of (by decide +kernel) hR | apply State.put_keeps | apply Keeps.foldl
      | apply Keeps.foldl_snd | apply Keeps.foldl_fst | apply Keeps.foldl_build | split | intro _ | dsimp only

theorem execStackTempCrossing_keeps {R : Nat} {s₀ : State} {s : State} (d c temp : Nat)
    (hR : 0x4200000000000000000000000030000000000000000000000000000000000000001 ||| R = R)
    (hk : Keeps R s₀ s) : ResultKeeps R s₀ (execStackTempCrossing d c temp s) := by
  unfold execStackTempCrossing
  extract_lets v0 v1
  have hv1 : Keeps R s₀ v1 := by
    unfold v1
    with_reducible
      repeat' first
        | assumption | exact sub_trans (by decide +kernel) hR | exact bit_of (by decide +kernel) hR | apply State.put_keeps
        | apply State.setDebt_keeps | apply State.showMaxTemp_keeps | apply ResultKeeps.next | split | intro _ | dsimp only
  try dsimp only
  with_reducible
    repeat' first
      | assumption | exact sub_trans (by decide +kernel) hR | exact bit_of (by decide +kernel) hR | apply State.put_keeps | apply State.setDebt_keeps
      | apply State.showMaxTemp_keeps | apply ResultKeeps.next | split | intro _ | dsimp only

theorem State.loseStack_keeps {R : Nat} {s₀ : State} {s : State} (d : Nat)
    (hR : 0x828000000000000000000066140000000000000000000000000000000000000040000700003100003000 ||| R = R)
    (hk : Keeps R s₀ s) : Keeps R s₀ (State.loseStack d s) := by
  unfold State.loseStack
  extract_lets v0 v1 v2
  have hv1 : Keeps R s₀ v1 := by
    unfold v1
    with_reducible
      repeat' first
        | assumption | exact sub_trans (by decide +kernel) hR | exact bit_of (by decide +kernel) hR | apply State.put_keeps
        | apply State.setQueue_keeps | apply State.newHead_keeps | apply State.reofferQueue_keeps | apply State.uncell_keeps | exact id
        | exact fun g => Tbl.sorted_filter _ _ g
        | exact regs_filter_other fun e m => (by (try dsimp only); rw [num_ne_of (f := FELT_DOMAIN.USED.num) (by decide +kernel) hR m, num_ne_of (f := FWD_DOMAIN.COUNT.num) (by decide +kernel) hR m, num_ne_of (f := FELT_PORT_STATUS.CELLS.num) (by decide +kernel) hR m, Bool.false_or, Bool.false_and, Bool.false_and, Bool.not_false, Bool.and_true])
        | exact fun g => Tbl.all_filter _ _ _ g | exact fun g => all_notOf _ _ _ g | exact fun _ => rfl | exact fun _ _ _ => rfl | apply Keeps.foldl
        | apply Keeps.foldl_snd | apply Keeps.foldl_fst | apply Keeps.foldl_build | split
        | (with_unfolding_all (intro p hp; cases p <;> first | rfl | exact bit_absurd (by decide +kernel) hR hp)) | intro _ | dsimp only
        | apply Keeps.set_stats | apply Keeps.set_grps | apply Keeps.set_fwd | apply Keeps.set_cache | apply Keeps.set_felt | apply Keeps.change
  have hv2 : Keeps R s₀ v2 := by
    unfold v2
    with_reducible
      repeat' first
        | assumption | exact sub_trans (by decide +kernel) hR | exact bit_of (by decide +kernel) hR | apply State.put_keeps
        | apply State.setQueue_keeps | apply State.newHead_keeps | apply State.reofferQueue_keeps | apply State.uncell_keeps | exact id
        | exact fun g => Tbl.sorted_filter _ _ g
        | exact regs_filter_other fun e m => (by (try dsimp only); rw [num_ne_of (f := FELT_DOMAIN.USED.num) (by decide +kernel) hR m, num_ne_of (f := FWD_DOMAIN.COUNT.num) (by decide +kernel) hR m, num_ne_of (f := FELT_PORT_STATUS.CELLS.num) (by decide +kernel) hR m, Bool.false_or, Bool.false_and, Bool.false_and, Bool.not_false, Bool.and_true])
        | exact fun g => Tbl.all_filter _ _ _ g | exact fun g => all_notOf _ _ _ g | exact fun _ => rfl | exact fun _ _ _ => rfl | apply Keeps.foldl
        | apply Keeps.foldl_snd | apply Keeps.foldl_fst | apply Keeps.foldl_build | split
        | (with_unfolding_all (intro p hp; cases p <;> first | rfl | exact bit_absurd (by decide +kernel) hR hp)) | intro _ | dsimp only
        | apply Keeps.set_stats | apply Keeps.set_grps | apply Keeps.set_fwd | apply Keeps.set_cache | apply Keeps.set_felt | apply Keeps.change
  try dsimp only
  with_reducible
    repeat' first
      | assumption | exact sub_trans (by decide +kernel) hR | exact bit_of (by decide +kernel) hR | apply State.put_keeps | apply State.setQueue_keeps
      | apply State.newHead_keeps | apply State.reofferQueue_keeps | apply State.uncell_keeps | exact id | exact fun g => Tbl.sorted_filter _ _ g
      | exact regs_filter_other fun e m => (by (try dsimp only); rw [num_ne_of (f := FELT_DOMAIN.USED.num) (by decide +kernel) hR m, num_ne_of (f := FWD_DOMAIN.COUNT.num) (by decide +kernel) hR m, num_ne_of (f := FELT_PORT_STATUS.CELLS.num) (by decide +kernel) hR m, Bool.false_or, Bool.false_and, Bool.false_and, Bool.not_false, Bool.and_true])
      | exact fun g => Tbl.all_filter _ _ _ g | exact fun g => all_notOf _ _ _ g | exact fun _ => rfl | exact fun _ _ _ => rfl | apply Keeps.foldl
      | apply Keeps.foldl_snd | apply Keeps.foldl_fst | apply Keeps.foldl_build | split
      | (with_unfolding_all (intro p hp; cases p <;> first | rfl | exact bit_absurd (by decide +kernel) hR hp)) | intro _ | dsimp only
      | apply Keeps.set_stats | apply Keeps.set_grps | apply Keeps.set_fwd | apply Keeps.set_cache | apply Keeps.set_felt | apply Keeps.change

theorem State.copyUnits_keeps {R : Nat} {s₀ : State} {s : State} (per e d : Nat) (fs : List Field)
    (hR : 0x0 ||| R = R) (hf : (fs.all fun f => R.testBit (wordBit f.num)) = true)
    (hk : Keeps R s₀ s) : Keeps R s₀ (State.copyUnits per e d fs s) := by
  have srt : ∀ (l : List (Key × Nat)) (t : Tbl Nat), t.sorted = true →
      Tbl.sorted (l.foldr (fun x r => Tbl.set r ⟨x.1.n, d * per + x.1.i % per⟩ 0 x.2) t) = true := by
    intro l t h
    induction l with
    | nil => exact h
    | cons x l ih => exact Tbl.sorted_set _ _ _ _ ih
  have get : ∀ (l : List (Key × Nat)) (t : Tbl Nat) (k : Key), (∀ x ∈ l, (fs.any fun f => f.num == x.1.n) = true) →
      R.testBit (wordBit k.n) = false → ∀ c, Tbl.get (l.foldr (fun x r => Tbl.set r ⟨x.1.n, d * per + x.1.i % per⟩ 0 x.2) t) k c = t.get k c := by
    intro l t k h m c
    induction l with
    | nil => rfl
    | cons x l ih =>
      rw [List.foldr_cons, Tbl.get_set_other _ _ _ _ _ _ ?_, ih fun y hy => h y (List.mem_cons_of_mem _ hy)]
      intro e
      have a := any_num_of hf (Nat.or_self R) m
      rw [e] at a
      exact absurd (h x (List.mem_cons_self ..)) (by rw [a]; decide)
  refine hk.step rfl rfl rfl rfl (fun g => srt _ _ (Tbl.sorted_filter _ _ g)) id id id id (fun k m c => ?_)
    (by intro p hp; cases p <;> rfl)
  refine (get _ _ k (fun x hx => (Bool.and_eq_true_iff.1 (List.mem_filter.1 hx).2).1) m c).trans ?_
  exact regs_filter_other (fun x m => by dsimp only; rw [any_num_of hf (Nat.or_self R) m, Bool.false_and, Bool.not_false]) k m c

theorem State.copyForwarding_keeps {R : Nat} {s₀ : State} {s : State} (d : Nat)
    (hR : 0x42000000000000000000004070000000000000020000080089000100001 ||| R = R)
    (hk : Keeps R s₀ s) : Keeps R s₀ (State.copyForwarding d s) := by
  unfold State.copyForwarding
  try dsimp only
  with_reducible
    repeat' first
      | assumption | exact sub_trans (by decide +kernel) hR | exact bit_of (by decide +kernel) hR | exact all_bits_of (by decide +kernel) hR
      | apply State.put_keeps | apply State.putEntry_keeps | apply State.retireUpdates_keeps | apply State.copyUnits_keeps | exact id
      | exact fun _ => rfl | exact fun _ _ _ => rfl | apply Keeps.foldr | split
      | (with_unfolding_all (intro p hp; cases p <;> first | rfl | exact bit_absurd (by decide +kernel) hR hp)) | intro _ | dsimp only
      | apply Keeps.set_fwd | apply Keeps.set_updates | apply Keeps.set_dieLocks | apply Keeps.set_labels | apply Keeps.change

theorem State.suppressTrees_keeps {R : Nat} {s₀ : State} {s : State} (d : Nat) (on : Bool)
    (hR : 0x180001002000030000000000000000000000000000000000000000 ||| R = R)
    (hk : Keeps R s₀ s) : Keeps R s₀ (State.suppressTrees d on s) := by
  unfold State.suppressTrees
  try dsimp only
  with_reducible
    repeat' first
      | assumption | exact sub_trans (by decide +kernel) hR | exact bit_of (by decide +kernel) hR | apply State.putFlag_keeps
      | apply State.judgeTree_keeps | apply Keeps.foldl | apply Keeps.foldl_snd | apply Keeps.foldl_fst | apply Keeps.foldl_build | split | intro _
      | dsimp only

theorem State.cutTree_keeps {R : Nat} {s₀ : State} {s : State} (t : Nat)
    (hR : 0xfffffffffffffffffffffffffffffffffffffffffffffffffffffffffffffffffffffffffff00001c04fff2f1031ff00709f ||| R = R)
    (hk : Keeps R s₀ s) : Keeps R s₀ (State.cutTree t s) := by
  unfold State.cutTree
  try dsimp only
  with_reducible
    repeat' first
      | assumption | exact sub_trans (by decide +kernel) hR | exact bit_all (sub_trans (by decide +kernel) hR) _
      | exact List.all_eq_true.2 fun _ _ => bit_all (sub_trans (by decide +kernel) hR) _ | apply State.setLatch_keeps | apply State.treeOff_keeps
      | apply State.dropReweave_keeps | split | intro _ | dsimp only

theorem State.stackShutdown_keeps {R : Nat} {s₀ : State} {s : State} (d : Nat)
    (hR : 0xfffffffffffffffffffffffffffffffffffffffffffffffffffffffffffffffffffffffffff00001c04fff2f1031ff01f09f ||| R = R)
    (hk : Keeps R s₀ s) : Keeps R s₀ (State.stackShutdown d s) := by
  unfold State.stackShutdown
  extract_lets v0 v1 v2 v3 v4 v5 v6
  have hv2 : Keeps R s₀ v2 := by
    unfold v2
    with_reducible
      repeat' first
        | assumption | exact sub_trans (by decide +kernel) hR | exact bit_of (by decide +kernel) hR
        | exact bit_all (sub_trans (by decide +kernel) hR) _ | exact List.all_eq_true.2 fun _ _ => bit_all (sub_trans (by decide +kernel) hR) _
        | apply State.put_keeps | apply State.setLatch_keeps | apply State.snapMissing_keeps | apply State.laneTo_keeps | apply State.weaveIfOff_keeps
        | apply State.modChan_keeps | apply State.modStack_keeps | apply State.setChan_keeps | apply State.loseStack_keeps
        | apply State.suppressTrees_keeps | apply State.cutTree_keeps | apply Keeps.foldl | apply Keeps.foldl_snd | apply Keeps.foldl_fst
        | apply Keeps.foldl_build | split | intro _ | dsimp only
  have hv3 : Keeps R s₀ v3 := by
    unfold v3
    with_reducible
      repeat' first
        | assumption | exact sub_trans (by decide +kernel) hR | exact bit_of (by decide +kernel) hR
        | exact bit_all (sub_trans (by decide +kernel) hR) _ | exact List.all_eq_true.2 fun _ _ => bit_all (sub_trans (by decide +kernel) hR) _
        | apply State.put_keeps | apply State.setLatch_keeps | apply State.snapMissing_keeps | apply State.laneTo_keeps | apply State.weaveIfOff_keeps
        | apply State.modChan_keeps | apply State.modStack_keeps | apply State.setChan_keeps | apply State.loseStack_keeps
        | apply State.suppressTrees_keeps | apply State.cutTree_keeps | apply Keeps.foldl | apply Keeps.foldl_snd | apply Keeps.foldl_fst
        | apply Keeps.foldl_build | split | intro _ | dsimp only
  have hv4 : Keeps R s₀ v4 := by
    unfold v4
    with_reducible
      repeat' first
        | assumption | exact sub_trans (by decide +kernel) hR | exact bit_of (by decide +kernel) hR
        | exact bit_all (sub_trans (by decide +kernel) hR) _ | exact List.all_eq_true.2 fun _ _ => bit_all (sub_trans (by decide +kernel) hR) _
        | apply State.put_keeps | apply State.setLatch_keeps | apply State.snapMissing_keeps | apply State.laneTo_keeps | apply State.weaveIfOff_keeps
        | apply State.modChan_keeps | apply State.modStack_keeps | apply State.setChan_keeps | apply State.loseStack_keeps
        | apply State.suppressTrees_keeps | apply State.cutTree_keeps | apply Keeps.foldl | apply Keeps.foldl_snd | apply Keeps.foldl_fst
        | apply Keeps.foldl_build | split | intro _ | dsimp only
  have hv5 : Keeps R s₀ v5 := by
    unfold v5
    with_reducible
      repeat' first
        | assumption | exact sub_trans (by decide +kernel) hR | exact bit_of (by decide +kernel) hR
        | exact bit_all (sub_trans (by decide +kernel) hR) _ | exact List.all_eq_true.2 fun _ _ => bit_all (sub_trans (by decide +kernel) hR) _
        | apply State.put_keeps | apply State.setLatch_keeps | apply State.snapMissing_keeps | apply State.laneTo_keeps | apply State.weaveIfOff_keeps
        | apply State.modChan_keeps | apply State.modStack_keeps | apply State.setChan_keeps | apply State.loseStack_keeps
        | apply State.suppressTrees_keeps | apply State.cutTree_keeps | apply Keeps.foldl | apply Keeps.foldl_snd | apply Keeps.foldl_fst
        | apply Keeps.foldl_build | split | intro _ | dsimp only
  have hv6 : Keeps R s₀ v6 := by
    unfold v6
    with_reducible
      repeat' first
        | assumption | exact sub_trans (by decide +kernel) hR | exact bit_of (by decide +kernel) hR
        | exact bit_all (sub_trans (by decide +kernel) hR) _ | exact List.all_eq_true.2 fun _ _ => bit_all (sub_trans (by decide +kernel) hR) _
        | apply State.put_keeps | apply State.setLatch_keeps | apply State.snapMissing_keeps | apply State.laneTo_keeps | apply State.weaveIfOff_keeps
        | apply State.modChan_keeps | apply State.modStack_keeps | apply State.setChan_keeps | apply State.loseStack_keeps
        | apply State.suppressTrees_keeps | apply State.cutTree_keeps | apply Keeps.foldl | apply Keeps.foldl_snd | apply Keeps.foldl_fst
        | apply Keeps.foldl_build | split | intro _ | dsimp only
  try dsimp only
  with_reducible
    repeat' first
      | assumption | exact sub_trans (by decide +kernel) hR | exact bit_of (by decide +kernel) hR | exact bit_all (sub_trans (by decide +kernel) hR) _
      | exact List.all_eq_true.2 fun _ _ => bit_all (sub_trans (by decide +kernel) hR) _ | apply State.put_keeps | apply State.setLatch_keeps
      | apply State.snapMissing_keeps | apply State.laneTo_keeps | apply State.weaveIfOff_keeps | apply State.modChan_keeps
      | apply State.modStack_keeps | apply State.setChan_keeps | apply State.loseStack_keeps | apply State.suppressTrees_keeps
      | apply State.cutTree_keeps | apply Keeps.foldl | apply Keeps.foldl_snd | apply Keeps.foldl_fst | apply Keeps.foldl_build | split | intro _
      | dsimp only

theorem execStackThermalResponse_keeps {R : Nat} {s₀ : State} {s : State} (d temp : Nat)
    (hR : 0xfffffffffffffffffffffffffffffffffffffffffffffffffffffffffffffffffffffffffff00001c04fff2f1031ff01f09f ||| R = R)
    (hk : Keeps R s₀ s) : ResultKeeps R s₀ (execStackThermalResponse d temp s) := by
  unfold execStackThermalResponse
  extract_lets v0 v1
  have hv0 : Keeps R s₀ v0 := by
    unfold v0
    with_reducible
      repeat' first
        | assumption | exact sub_trans (by decide +kernel) hR | exact bit_of (by decide +kernel) hR
        | exact bit_all (sub_trans (by decide +kernel) hR) _ | exact List.all_eq_true.2 fun _ _ => bit_all (sub_trans (by decide +kernel) hR) _
        | apply State.put_keeps | apply State.raise_keeps | apply State.memEvent_keeps | apply State.stackShutdown_keeps | apply ResultKeeps.next
        | split | intro _ | dsimp only
  have hv1 : Keeps R s₀ v1 := by
    unfold v1
    with_reducible
      repeat' first
        | assumption | exact sub_trans (by decide +kernel) hR | exact bit_of (by decide +kernel) hR
        | exact bit_all (sub_trans (by decide +kernel) hR) _ | exact List.all_eq_true.2 fun _ _ => bit_all (sub_trans (by decide +kernel) hR) _
        | apply State.put_keeps | apply State.raise_keeps | apply State.memEvent_keeps | apply State.stackShutdown_keeps | apply ResultKeeps.next
        | split | intro _ | dsimp only
  try dsimp only
  with_reducible
    repeat' first
      | assumption | exact sub_trans (by decide +kernel) hR | exact bit_of (by decide +kernel) hR | exact bit_all (sub_trans (by decide +kernel) hR) _
      | exact List.all_eq_true.2 fun _ _ => bit_all (sub_trans (by decide +kernel) hR) _ | apply State.put_keeps | apply State.raise_keeps
      | apply State.memEvent_keeps | apply State.stackShutdown_keeps | apply ResultKeeps.next | split | intro _ | dsimp only

theorem State.stackRestart_keeps {R : Nat} {s₀ : State} {s : State} (d : Nat)
    (hR : 0x24420002004200018000100200003000407001400240000002007c08008900411000d ||| R = R)
    (hk : Keeps R s₀ s) : Keeps R s₀ (State.stackRestart d s) := by
  unfold State.stackRestart
  extract_lets v0 v1 v2 v3 v4
  have hv1 : Keeps R s₀ v1 := by
    unfold v1
    with_reducible
      repeat' first
        | assumption | exact sub_trans (by decide +kernel) hR | exact bit_of (by decide +kernel) hR | apply State.put_keeps | apply State.raise_keeps
        | apply State.requestUnit_keeps | apply State.modStack_keeps | apply State.setChan_keeps | apply State.copyForwarding_keeps
        | apply State.suppressTrees_keeps | apply Keeps.foldl | apply Keeps.foldl_snd | apply Keeps.foldl_fst | apply Keeps.foldl_build | split
        | intro _ | dsimp only
  have hv2 : Keeps R s₀ v2 := by
    unfold v2
    with_reducible
      repeat' first
        | assumption | exact sub_trans (by decide +kernel) hR | exact bit_of (by decide +kernel) hR | apply State.put_keeps | apply State.raise_keeps
        | apply State.requestUnit_keeps | apply State.modStack_keeps | apply State.setChan_keeps | apply State.copyForwarding_keeps
        | apply State.suppressTrees_keeps | apply Keeps.foldl | apply Keeps.foldl_snd | apply Keeps.foldl_fst | apply Keeps.foldl_build | split
        | intro _ | dsimp only
  have hv3 : Keeps R s₀ v3 := by
    unfold v3
    with_reducible
      repeat' first
        | assumption | exact sub_trans (by decide +kernel) hR | exact bit_of (by decide +kernel) hR | apply State.put_keeps | apply State.raise_keeps
        | apply State.requestUnit_keeps | apply State.modStack_keeps | apply State.setChan_keeps | apply State.copyForwarding_keeps
        | apply State.suppressTrees_keeps | apply Keeps.foldl | apply Keeps.foldl_snd | apply Keeps.foldl_fst | apply Keeps.foldl_build | split
        | intro _ | dsimp only
  have hv4 : Keeps R s₀ v4 := by
    unfold v4
    with_reducible
      repeat' first
        | assumption | exact sub_trans (by decide +kernel) hR | exact bit_of (by decide +kernel) hR | apply State.put_keeps | apply State.raise_keeps
        | apply State.requestUnit_keeps | apply State.modStack_keeps | apply State.setChan_keeps | apply State.copyForwarding_keeps
        | apply State.suppressTrees_keeps | apply Keeps.foldl | apply Keeps.foldl_snd | apply Keeps.foldl_fst | apply Keeps.foldl_build | split
        | intro _ | dsimp only
  try dsimp only
  with_reducible
    repeat' first
      | assumption | exact sub_trans (by decide +kernel) hR | exact bit_of (by decide +kernel) hR | apply State.put_keeps | apply State.raise_keeps
      | apply State.requestUnit_keeps | apply State.modStack_keeps | apply State.setChan_keeps | apply State.copyForwarding_keeps
      | apply State.suppressTrees_keeps | apply Keeps.foldl | apply Keeps.foldl_snd | apply Keeps.foldl_fst | apply Keeps.foldl_build | split
      | intro _ | dsimp only

theorem execStackRestart_keeps {R : Nat} {s₀ : State} {s : State} (d cool : Nat)
    (hR : 0x24420002004200018000100200003000407001400240000002007c08008900411000d ||| R = R)
    (hk : Keeps R s₀ s) : ResultKeeps R s₀ (execStackRestart d cool s) := by
  unfold execStackRestart
  try dsimp only
  with_reducible
    repeat' first
      | assumption | exact sub_trans (by decide +kernel) hR | apply State.stackRestart_keeps | apply ResultKeeps.next | split | intro _ | dsimp only

theorem State.memDone_keeps {R : Nat} {s₀ : State} {s : State} (d result : Nat)
    (hR : 0x400000000000000000000000000000000000000000000000000000000000000000 ||| R = R)
    (hk : Keeps R s₀ s) : Keeps R s₀ (State.memDone d result s) := by
  unfold State.memDone
  try dsimp only
  with_reducible
    repeat' first
      | assumption | exact sub_trans (by decide +kernel) hR | exact bit_of (by decide +kernel) hR | apply State.put_keeps | split | intro _
      | dsimp only

theorem execMemRestart_keeps {R : Nat} {s₀ : State} {s : State} (d cool : Nat)
    (hR : 0x24460002004200018000100200003000407001400240000002007c08008900411000d ||| R = R)
    (hk : Keeps R s₀ s) : ResultKeeps R s₀ (execMemRestart d cool s) := by
  unfold execMemRestart
  try dsimp only
  with_reducible
    repeat' first
      | assumption | exact sub_trans (by decide +kernel) hR | apply State.stackRestart_keeps | apply State.memDone_keeps | apply ResultKeeps.next
      | split | intro _ | dsimp only

theorem execRowDisturb_keeps {R : Nat} {s₀ : State} {s : State} (d c bank row q dom : Nat)
    (hR : 0x8200000000000000000000000030000000000000000000002000000000000008001 ||| R = R)
    (hk : Keeps R s₀ s) : ResultKeeps R s₀ (execRowDisturb d c bank row q dom s) := by
  unfold execRowDisturb
  try dsimp only
  with_reducible
    repeat' first
      | assumption | exact sub_trans (by decide +kernel) hR | apply State.access_keeps | apply ResultKeeps.next | split | intro _ | dsimp only

theorem execThrottleEnd_keeps {R : Nat} {s₀ : State} {s : State} (d q c : Nat)
    (hR : 0x8000000000000000000000000000000000000000000000000000000000000008000 ||| R = R)
    (hk : Keeps R s₀ s) : ResultKeeps R s₀ (execThrottleEnd d q c s) := by
  unfold execThrottleEnd
  try dsimp only
  with_reducible
    repeat' first
      | assumption | exact sub_trans (by decide +kernel) hR | apply State.modChan_keeps | apply State.showThrottle_keeps | apply ResultKeeps.next
      | split | intro _ | dsimp only

theorem State.damageBucket_keeps {R : Nat} {s₀ : State} {s : State} (d b v : Nat)
    (hR : 0x1000000000 ||| R = R)
    (hk : Keeps R s₀ s) : Keeps R s₀ (State.damageBucket d b v s) := by
  unfold State.damageBucket
  try dsimp only
  with_reducible
    repeat' first
      | assumption | exact sub_trans (by decide +kernel) hR | exact bit_of (by decide +kernel) hR | apply State.putEntry_keeps | exact id
      | exact fun _ => rfl | exact fun _ _ _ => rfl | apply Keeps.foldl | apply Keeps.foldl_snd | apply Keeps.foldl_fst | apply Keeps.foldl_build
      | split | (with_unfolding_all (intro p hp; cases p <;> first | rfl | exact bit_absurd (by decide +kernel) hR hp)) | intro _ | dsimp only
      | apply Keeps.change

theorem State.loseCell_keeps {R : Nat} {s₀ : State} {s : State} (d v : Nat) (o : CellOwner)
    (hR : 0x500000100002001 ||| R = R)
    (hk : Keeps R s₀ s) : Keeps R s₀ (State.loseCell d v o s) := by
  unfold State.loseCell
  try dsimp only
  with_reducible
    repeat' first
      | assumption | exact sub_trans (by decide +kernel) hR | exact bit_of (by decide +kernel) hR | apply State.modGrp_keeps
      | apply State.setQueue_keeps | apply State.memCnt_keeps | exact id | exact fun g => Tbl.all_filter _ _ _ g
      | exact fun g => Tbl.all_set _ _ _ _ _ g (Memory.writeBytes_wf _ _ _ (Tbl.of_get _ _ _ _ g rfl)) | exact fun _ => rfl | exact fun _ _ _ => rfl
      | split | (with_unfolding_all (intro p hp; cases p <;> first | rfl | exact bit_absurd (by decide +kernel) hR hp)) | intro _ | dsimp only
      | apply Keeps.set_felt | apply Keeps.change

theorem State.eccLast_keeps {R : Nat} {s₀ : State} {s : State} (d off q : Nat)
    (hR : 0x800000000000000000000000000000000000000000000000000000000000000000 ||| R = R)
    (hk : Keeps R s₀ s) : Keeps R s₀ (State.eccLast d off q s) := by
  unfold State.eccLast
  try dsimp only
  with_reducible
    repeat' first
      | assumption | exact sub_trans (by decide +kernel) hR | exact bit_of (by decide +kernel) hR | apply State.put_keeps | split | intro _
      | dsimp only

theorem execEccCorrect_keeps {R : Nat} {s₀ : State} {s : State} (d off q : Nat) (correctable : Bool) (owner : CellOwner)
    (hR : 0x480000000400000000000000003000000000000000000000000050000510000a021 ||| R = R)
    (hk : Keeps R s₀ s) : ResultKeeps R s₀ (execEccCorrect d off q correctable owner s) := by
  unfold execEccCorrect
  try dsimp only
  with_reducible
    repeat' first
      | assumption | exact sub_trans (by decide +kernel) hR | apply State.repairBucket_keeps
      | refine State.repairBucket_keeps_pair ?_ (by assumption) ?_ | apply State.memCnt_keeps | apply State.memRequest_keeps
      | apply State.damageBucket_keeps | apply State.loseCell_keeps | apply State.eccLast_keeps | apply ResultKeeps.next | split | intro _
      | dsimp only

theorem execPatrolScrub_keeps {R : Nat} {s₀ : State} {s : State} (d age : Nat)
    (hR : 0x5200000000000000000000000030000000000000000000000000000000000008001 ||| R = R)
    (hk : Keeps R s₀ s) : ResultKeeps R s₀ (execPatrolScrub d age s) := by
  unfold execPatrolScrub
  extract_lets v0 v1 v2 v3
  have hv2 : Keeps R s₀ v2 := by
    unfold v2
    with_reducible
      repeat' first
        | assumption | exact sub_trans (by decide +kernel) hR | exact bit_of (by decide +kernel) hR | apply State.put_keeps
        | apply State.memEvent_keeps | apply State.memRequest_keeps | apply ResultKeeps.next | apply Keeps.foldl | apply Keeps.foldl_snd
        | apply Keeps.foldl_fst | apply Keeps.foldl_build | split | intro _ | dsimp only
  have hv3 : Keeps R s₀ v3 := by
    unfold v3
    with_reducible
      repeat' first
        | assumption | exact sub_trans (by decide +kernel) hR | exact bit_of (by decide +kernel) hR | apply State.put_keeps
        | apply State.memEvent_keeps | apply State.memRequest_keeps | apply ResultKeeps.next | apply Keeps.foldl | apply Keeps.foldl_snd
        | apply Keeps.foldl_fst | apply Keeps.foldl_build | split | intro _ | dsimp only
  try dsimp only
  with_reducible
    repeat' first
      | assumption | exact sub_trans (by decide +kernel) hR | exact bit_of (by decide +kernel) hR | apply State.put_keeps | apply State.memEvent_keeps
      | apply State.memRequest_keeps | apply ResultKeeps.next | apply Keeps.foldl | apply Keeps.foldl_snd | apply Keeps.foldl_fst
      | apply Keeps.foldl_build | split | intro _ | dsimp only

theorem State.failReads_keeps {R : Nat} {s₀ : State} {s : State} (d c : Nat)
    (hR : 0x800000000000000000000000000000000000000000000000000000000000000001 ||| R = R)
    (hk : Keeps R s₀ s) : Keeps R s₀ (State.failReads d c s) := by
  unfold State.failReads
  try dsimp only
  with_reducible
    repeat' first
      | assumption | exact sub_trans (by decide +kernel) hR | apply State.memCnt_keeps | apply State.eccLast_keeps | apply Keeps.foldl
      | apply Keeps.foldl_snd | apply Keeps.foldl_fst | apply Keeps.foldl_build | split | intro _ | dsimp only

theorem State.retire_keeps {R : Nat} {s₀ : State} {s : State} (d c : Nat) (lost : List CellOwner)
    (hR : 0x4a0000000000000000000000003000000000000000000000000050000110000a001 ||| R = R)
    (hk : Keeps R s₀ s) : Keeps R s₀ (State.retire d c lost s) := by
  unfold State.retire
  try dsimp only
  with_reducible
    repeat' first
      | assumption | exact sub_trans (by decide +kernel) hR | exact bit_of (by decide +kernel) hR | apply State.put_keeps | apply State.putBit_keeps
      | apply State.putEntry_keeps | apply State.modChan_keeps | apply State.setChan_keeps | apply State.memEvent_keeps
      | apply State.damageBucket_keeps | apply State.loseCell_keeps | apply State.failReads_keeps | apply Keeps.foldl | apply Keeps.foldl_snd
      | apply Keeps.foldl_fst | apply Keeps.foldl_build | split | intro _ | dsimp only

theorem State.trainEnd_keeps {R : Nat} {s₀ : State} {s : State} (d c margin : Nat)
    (hR : 0x4200000000000000000000000030000000000000000000000000000000000000001 ||| R = R)
    (hk : Keeps R s₀ s) : Keeps R s₀ (State.trainEnd d c margin s) := by
  unfold State.trainEnd
  try dsimp only
  with_reducible
    repeat' first
      | assumption | exact sub_trans (by decide +kernel) hR | exact bit_of (by decide +kernel) hR | apply State.put_keeps | apply State.setChan_keeps
      | apply State.judgeDebt_keeps | split | intro _ | dsimp only

theorem execChannelRetune_keeps {R : Nat} {s₀ : State} {s : State} (d c : Nat) (t : Training)
    (hR : 0x4200000000000000000000000030000000000000000000000000000000000008001 ||| R = R)
    (hk : Keeps R s₀ s) : ResultKeeps R s₀ (execChannelRetune d c t s) := by
  unfold execChannelRetune
  try dsimp only
  with_reducible
    repeat' first
      | assumption | exact sub_trans (by decide +kernel) hR | exact bit_of (by decide +kernel) hR | apply State.put_keeps | apply State.memCnt_keeps
      | apply State.modChan_keeps | apply State.trainStart_keeps | apply State.trainEnd_keeps | apply ResultKeeps.next | split | intro _ | dsimp only

theorem State.hostTrained_keeps {R : Nat} {s₀ : State} {s : State} (d c result : Nat)
    (hR : 0x400000000000000000000000000000000000000000000000000000000000008000 ||| R = R)
    (hk : Keeps R s₀ s) : Keeps R s₀ (State.hostTrained d c result s) := by
  unfold State.hostTrained
  try dsimp only
  with_reducible
    repeat' first
      | assumption | exact sub_trans (by decide +kernel) hR | apply State.modChan_keeps | apply State.memDone_keeps | split | intro _ | dsimp only

theorem execChannelRetrain_keeps {R : Nat} {s₀ : State} {s : State} (d c : Nat) (t : Training) (lost : List CellOwner)
    (hR : 0x4e0000000000000000000000003000000000000000000000000050000110000a001 ||| R = R)
    (hk : Keeps R s₀ s) : ResultKeeps R s₀ (execChannelRetrain d c t lost s) := by
  unfold execChannelRetrain
  try dsimp only
  with_reducible
    repeat' first
      | assumption | exact sub_trans (by decide +kernel) hR | apply State.trainStart_keeps | apply State.retire_keeps | apply State.trainEnd_keeps
      | apply State.hostTrained_keeps | apply ResultKeeps.next | split | intro _ | dsimp only

theorem execChannelRetire_keeps {R : Nat} {s₀ : State} {s : State} (d c : Nat) (lost : List CellOwner)
    (hR : 0x4a0000000000000000000000003000000000000000000000000050000110000a001 ||| R = R)
    (hk : Keeps R s₀ s) : ResultKeeps R s₀ (execChannelRetire d c lost s) := by
  unfold execChannelRetire
  try dsimp only
  with_reducible
    repeat' first
      | assumption | exact sub_trans (by decide +kernel) hR | apply State.retire_keeps | apply ResultKeeps.next | split | intro _ | dsimp only

theorem execMemRetrain_keeps {R : Nat} {s₀ : State} {s : State} (d c : Nat)
    (hR : 0x4600000000000000000000000000000000000000000000000000000000000008000 ||| R = R)
    (hk : Keeps R s₀ s) : ResultKeeps R s₀ (execMemRetrain d c s) := by
  unfold execMemRetrain
  try dsimp only
  with_reducible
    repeat' first
      | assumption | exact sub_trans (by decide +kernel) hR | exact bit_of (by decide +kernel) hR | apply State.put_keeps | apply State.modChan_keeps
      | apply State.trainStart_keeps | apply State.memDone_keeps | apply ResultKeeps.next | split | intro _ | dsimp only

theorem execMemRetire_keeps {R : Nat} {s₀ : State} {s : State} (d c : Nat) (lost : List CellOwner)
    (hR : 0x4e0000000000000000000000003000000000000000000000000050000110000a001 ||| R = R)
    (hk : Keeps R s₀ s) : ResultKeeps R s₀ (execMemRetire d c lost s) := by
  unfold execMemRetire
  try dsimp only
  with_reducible
    repeat' first
      | assumption | exact sub_trans (by decide +kernel) hR | apply State.memDone_keeps | apply State.retire_keeps | apply ResultKeeps.next | split
      | intro _ | dsimp only

end Sys2Proof.Machine
end

