-- ==== Sys2Proof/Laws/KeepsPerf.lean ====
section
/-!
SUPPORT. Every operation of Machine/Perf.lean keeps what `Keeps` names.
-/

namespace Sys2Proof.Machine

set_option Elab.async false
set_option linter.all false

theorem State.statDram_keeps {R : Nat} {s₀ : State} {s : State} (d c v : Nat)
    (hR : 0x2000 ||| R = R)
    (hk : Keeps R s₀ s) : Keeps R s₀ (State.statDram d c v s) := by
  unfold State.statDram
  try dsimp only
  with_reducible repeat' first | assumption | exact sub_trans (by decide +kernel) hR | apply State.devWrite_keeps | split | intro _ | dsimp only

theorem execCounterFlush_keeps {R : Nat} {s₀ : State} {s : State} (d c : Nat)
    (hR : 0x3001 ||| R = R)
    (hk : Keeps R s₀ s) : ResultKeeps R s₀ (execCounterFlush d c s) := by
  unfold execCounterFlush
  try dsimp only
  with_reducible
    repeat' first
      | assumption | exact sub_trans (by decide +kernel) hR | apply State.modStat_keeps | apply State.perfCnt_keeps | apply State.statDram_keeps
      | apply ResultKeeps.next | split | intro _ | dsimp only

theorem State.cntDone_keeps {R : Nat} {s₀ : State} {s : State} (d r : Nat)
    (hR : 0x10000000000000000000000000000000000000000000000000000000000000000000000 ||| R = R)
    (hk : Keeps R s₀ s) : Keeps R s₀ (State.cntDone d r s) := by
  unfold State.cntDone
  try dsimp only
  with_reducible
    repeat' first
      | assumption | exact sub_trans (by decide +kernel) hR | exact bit_of (by decide +kernel) hR | apply State.put_keeps | split | intro _
      | dsimp only

theorem State.cntClear_keeps {R : Nat} {s₀ : State} {s : State} (d c : Nat)
    (hR : 0x3000 ||| R = R)
    (hk : Keeps R s₀ s) : Keeps R s₀ (State.cntClear d c s) := by
  unfold State.cntClear
  try dsimp only
  with_reducible
    repeat' first
      | assumption | exact sub_trans (by decide +kernel) hR | apply State.modStat_keeps | apply State.snapBefore_keeps | apply State.statDram_keeps
      | split | intro _ | dsimp only

theorem execPerfCntRead_keeps {R : Nat} {s₀ : State} {s : State} (d c : Nat)
    (hR : 0x30000000000000000000000000000000000000000000000000000000000000000000000 ||| R = R)
    (hk : Keeps R s₀ s) : ResultKeeps R s₀ (execPerfCntRead d c s) := by
  unfold execPerfCntRead
  try dsimp only
  with_reducible
    repeat' first
      | assumption | exact sub_trans (by decide +kernel) hR | exact bit_of (by decide +kernel) hR | apply State.put_keeps | apply State.cntDone_keeps
      | apply ResultKeeps.next | split | intro _ | dsimp only

theorem execReadClear_keeps {R : Nat} {s₀ : State} {s : State} (d c : Nat)
    (hR : 0x30000000000000000000000000000000000000000000000000000000000000000003000 ||| R = R)
    (hk : Keeps R s₀ s) : ResultKeeps R s₀ (execReadClear d c s) := by
  unfold execReadClear
  try dsimp only
  with_reducible
    repeat' first
      | assumption | exact sub_trans (by decide +kernel) hR | exact bit_of (by decide +kernel) hR | apply State.put_keeps | apply State.cntDone_keeps
      | apply State.cntClear_keeps | apply ResultKeeps.next | split | intro _ | dsimp only

theorem execClear_keeps {R : Nat} {s₀ : State} {s : State} (d c : Nat)
    (hR : 0x10000000000000000000000000000000000000000000000000000000000000000003000 ||| R = R)
    (hk : Keeps R s₀ s) : ResultKeeps R s₀ (execClear d c s) := by
  unfold execClear
  try dsimp only
  with_reducible
    repeat' first
      | assumption | exact sub_trans (by decide +kernel) hR | apply State.cntDone_keeps | apply State.cntClear_keeps | apply ResultKeeps.next | split
      | intro _ | dsimp only

theorem State.snapResult_keeps {R : Nat} {s₀ : State} {s : State} (r : Nat)
    (hR : 0x800000000000000000000000000000000000 ||| R = R)
    (hk : Keeps R s₀ s) : Keeps R s₀ (State.snapResult r s) := by
  unfold State.snapResult
  try dsimp only
  with_reducible
    repeat' first
      | assumption | exact sub_trans (by decide +kernel) hR | exact bit_of (by decide +kernel) hR | apply State.put_keeps | split | intro _
      | dsimp only

theorem execSnapshotArm_keeps {R : Nat} {s₀ : State} {s : State}
    (hR : 0x800000000000000000000000000000080000 ||| R = R)
    (hk : Keeps R s₀ s) : ResultKeeps R s₀ (execSnapshotArm s) := by
  unfold execSnapshotArm
  try dsimp only
  with_reducible
    repeat' first
      | assumption | exact sub_trans (by decide +kernel) hR | exact bit_of (by decide +kernel) hR | apply State.put_keeps | apply State.addWrap_keeps
      | apply State.snapResult_keeps | apply ResultKeeps.next | exact id | exact fun _ => rfl | exact fun _ _ _ => rfl | split
      | (with_unfolding_all (intro p hp; cases p <;> first | rfl | exact bit_absurd (by decide +kernel) hR hp)) | intro _ | dsimp only
      | apply Keeps.set_snap | apply Keeps.change

theorem execSnapshotCancel_keeps {R : Nat} {s₀ : State} {s : State}
    (hR : 0x800000000000000000000000000000000000 ||| R = R)
    (hk : Keeps R s₀ s) : ResultKeeps R s₀ (execSnapshotCancel s) := by
  unfold execSnapshotCancel
  try dsimp only
  with_reducible
    repeat' first
      | assumption | exact sub_trans (by decide +kernel) hR | exact bit_of (by decide +kernel) hR | apply State.put_keeps | apply ResultKeeps.next
      | split | intro _ | dsimp only

theorem State.snapBegin_keeps {R : Nat} {s₀ : State} {s : State} (d : Nat)
    (hR : 0x7000 ||| R = R)
    (hk : Keeps R s₀ s) : Keeps R s₀ (State.snapBegin d s) := by
  unfold State.snapBegin
  extract_lets v0 v1
  have hv0 : Keeps R s₀ v0 := by
    unfold v0
    with_reducible
      repeat' first
        | assumption | exact sub_trans (by decide +kernel) hR | exact bit_of (by decide +kernel) hR | apply State.modPerf_keeps
        | apply State.devWrite_keeps | exact id | exact fun _ => rfl | exact fun _ _ _ => rfl | split
        | (with_unfolding_all (intro p hp; cases p <;> first | rfl | exact bit_absurd (by decide +kernel) hR hp)) | intro _ | dsimp only
        | apply Keeps.set_stats | apply Keeps.change
  try dsimp only
  with_reducible
    repeat' first
      | assumption | exact sub_trans (by decide +kernel) hR | exact bit_of (by decide +kernel) hR | apply State.modPerf_keeps
      | apply State.devWrite_keeps | exact id | exact fun _ => rfl | exact fun _ _ _ => rfl | split
      | (with_unfolding_all (intro p hp; cases p <;> first | rfl | exact bit_absurd (by decide +kernel) hR hp)) | intro _ | dsimp only
      | apply Keeps.set_stats | apply Keeps.change

theorem execSnapshotEpoch_keeps {R : Nat} {s₀ : State} {s : State}
    (hR : 0x3000080000000000000000c000000000000007000 ||| R = R)
    (hk : Keeps R s₀ s) : ResultKeeps R s₀ (execSnapshotEpoch s) := by
  unfold execSnapshotEpoch
  try dsimp only
  with_reducible
    repeat' first
      | assumption | exact sub_trans (by decide +kernel) hR | exact bit_of (by decide +kernel) hR | apply State.put_keeps | apply State.putBit_keeps
      | apply State.snapEnd_keeps | apply State.reachNs_keeps | apply State.snapBegin_keeps | apply ResultKeeps.next | apply Keeps.foldl
      | apply Keeps.foldl_snd | apply Keeps.foldl_fst | apply Keeps.foldl_build | split | intro _ | dsimp only

theorem execSnapshotDieDone_keeps {R : Nat} {s₀ : State} {s : State} (d copyNs : Nat)
    (hR : 0x30000800000000000000000000000000000006000 ||| R = R)
    (hk : Keeps R s₀ s) : ResultKeeps R s₀ (execSnapshotDieDone d copyNs s) := by
  unfold execSnapshotDieDone
  try dsimp only
  with_reducible
    repeat' first
      | assumption | exact sub_trans (by decide +kernel) hR | exact bit_of (by decide +kernel) hR | apply State.putBit_keeps
      | apply State.modPerf_keeps | apply State.devWrite_keeps | apply State.snapEnd_keeps | apply ResultKeeps.next | apply Keeps.foldl
      | apply Keeps.foldl_snd | apply Keeps.foldl_fst | apply Keeps.foldl_build | split | intro _ | dsimp only

theorem State.traceLost_keeps {R : Nat} {s₀ : State} {s : State} (d : Nat)
    (hR : 0x200000000000000000000000000000030000000000000000000000000000000000004001 ||| R = R)
    (hk : Keeps R s₀ s) : Keeps R s₀ (State.traceLost d s) := by
  unfold State.traceLost
  try dsimp only
  with_reducible
    repeat' first
      | assumption | exact sub_trans (by decide +kernel) hR | exact bit_of (by decide +kernel) hR | apply State.put_keeps | apply State.raise_keeps
      | apply State.modPerf_keeps | apply State.perfCnt_keeps | split | intro _ | dsimp only

theorem execTraceRecord_keeps {R : Nat} {s₀ : State} {s : State} (d : Nat) (r : TraceRec) (throttled : Nat)
    (hR : 0x200000000000000000000000000000030000000000000000000000000000000000006001 ||| R = R)
    (hk : Keeps R s₀ s) : ResultKeeps R s₀ (execTraceRecord d r throttled s) := by
  unfold execTraceRecord
  extract_lets v0 v1 v2 v3
  have hv1 : Keeps R s₀ v1 := by
    unfold v1
    with_reducible
      repeat' first
        | assumption | exact sub_trans (by decide +kernel) hR | exact bit_of (by decide +kernel) hR | apply State.put_keeps | apply State.raise_keeps
        | apply State.modPerf_keeps | apply State.devWrite_keeps | apply State.perfCnt_keeps | apply State.traceLost_keeps | apply ResultKeeps.next
        | split | intro _ | dsimp only
  try dsimp only
  with_reducible
    repeat' first
      | assumption | exact sub_trans (by decide +kernel) hR | exact bit_of (by decide +kernel) hR | apply State.put_keeps | apply State.raise_keeps
      | apply State.modPerf_keeps | apply State.devWrite_keeps | apply State.perfCnt_keeps | apply State.traceLost_keeps | apply ResultKeeps.next
      | split | intro _ | dsimp only

theorem State.closePort_keeps {R : Nat} {s₀ : State} {s : State} (d w p : Nat)
    (hR : 0x30000000000000000000000000000000000000000000000000000000000000000001000000 ||| R = R)
    (hk : Keeps R s₀ s) : Keeps R s₀ (State.closePort d w s p) := by
  unfold State.closePort
  try dsimp only
  with_reducible
    repeat' first
      | assumption | exact sub_trans (by decide +kernel) hR | exact bit_of (by decide +kernel) hR | apply State.put_keeps | exact id
      | exact fun _ => rfl | exact fun _ _ _ => rfl | split
      | (with_unfolding_all (intro p hp; cases p <;> first | rfl | exact bit_absurd (by decide +kernel) hR hp)) | intro _ | dsimp only
      | apply Keeps.set_bwAcc | apply Keeps.change

theorem execBandwidthWindow_keeps {R : Nat} {s₀ : State} {s : State} (d k : Nat)
    (hR : 0x3080000000000000000000000000000003000000000000000000000c000000000001000000 ||| R = R)
    (hk : Keeps R s₀ s) : ResultKeeps R s₀ (execBandwidthWindow d k s) := by
  unfold execBandwidthWindow
  try dsimp only
  with_reducible
    repeat' first
      | assumption | exact sub_trans (by decide +kernel) hR | exact bit_of (by decide +kernel) hR | apply State.put_keeps | apply State.raise_keeps
      | apply State.reachNs_keeps | apply State.closePort_keeps | apply ResultKeeps.next | apply Keeps.foldl | apply Keeps.foldl_snd
      | apply Keeps.foldl_fst | apply Keeps.foldl_build | split | intro _ | dsimp only

theorem State.sentinel_keeps {R : Nat} {s₀ : State} {s : State} (d : Nat) (x : Nat × Nat)
    (hR : 0x10000000000000000000000000000000004000 ||| R = R)
    (hk : Keeps R s₀ s) : Keeps R s₀ (State.sentinel d s x) := by
  unfold State.sentinel
  extract_lets v0 v1 v2
  have hv2 : Keeps R s₀ v2 := by
    unfold v2
    with_reducible
      repeat' first
        | assumption | exact sub_trans (by decide +kernel) hR | exact bit_of (by decide +kernel) hR | apply State.put_keeps | apply State.addSat_keeps
        | apply State.modPerf_keeps | split | intro _ | dsimp only
  try dsimp only
  with_reducible
    repeat' first
      | assumption | exact sub_trans (by decide +kernel) hR | exact bit_of (by decide +kernel) hR | apply State.put_keeps | apply State.addSat_keeps
      | apply State.modPerf_keeps | split | intro _ | dsimp only

theorem execSentinelInterval_keeps {R : Nat} {s₀ : State} {s : State} (d : Nat) (readings : List Nat)
    (hR : 0x30090000000000000000000000000000000004000 ||| R = R)
    (hk : Keeps R s₀ s) : ResultKeeps R s₀ (execSentinelInterval d readings s) := by
  unfold execSentinelInterval
  extract_lets v0 v1
  have hv1 : Keeps R s₀ v1 := by
    unfold v1
    with_reducible
      repeat' first
        | assumption | exact sub_trans (by decide +kernel) hR | apply State.modPerf_keeps | apply State.speedFault_keeps | apply State.sentinel_keeps
        | apply ResultKeeps.next | apply Keeps.foldl | apply Keeps.foldl_snd | apply Keeps.foldl_fst | apply Keeps.foldl_build | split | intro _
        | dsimp only
  try dsimp only
  with_reducible
    repeat' first
      | assumption | exact sub_trans (by decide +kernel) hR | apply State.modPerf_keeps | apply State.speedFault_keeps | apply State.sentinel_keeps
      | apply ResultKeeps.next | apply Keeps.foldl | apply Keeps.foldl_snd | apply Keeps.foldl_fst | apply Keeps.foldl_build | split | intro _
      | dsimp only

theorem State.putPower_keeps {R : Nat} {s₀ : State} {s : State} (d : Nat) (p : List Nat)
    (hR : 0x100000000000000000000000000000000000000 ||| R = R)
    (hk : Keeps R s₀ s) : Keeps R s₀ (State.putPower d p s) := by
  unfold State.putPower
  try dsimp only
  with_reducible
    repeat' first
      | assumption | exact sub_trans (by decide +kernel) hR | exact bit_of (by decide +kernel) hR | apply State.put_keeps | split | intro _
      | dsimp only

theorem execTelemetryRecord_keeps {R : Nat} {s₀ : State} {s : State} (d : Nat) (power : List Nat) (skipped : Bool)
    (hR : 0x2000000000000000000000000000000030100000000000000000000000000000000006001 ||| R = R)
    (hk : Keeps R s₀ s) : ResultKeeps R s₀ (execTelemetryRecord d power skipped s) := by
  unfold execTelemetryRecord
  try dsimp only
  with_reducible
    repeat' first
      | assumption | exact sub_trans (by decide +kernel) hR | exact bit_of (by decide +kernel) hR | apply State.put_keeps | apply State.raise_keeps
      | apply State.modPerf_keeps | apply State.devWrite_keeps | apply State.perfCnt_keeps | apply State.putPower_keeps | apply ResultKeeps.next
      | split | intro _ | dsimp only

theorem State.deltaLost_keeps {R : Nat} {s₀ : State} {s : State} (d c : Nat)
    (hR : 0x30000000000000000000000000000000000007001 ||| R = R)
    (hk : Keeps R s₀ s) : Keeps R s₀ (State.deltaLost d c s) := by
  unfold State.deltaLost
  extract_lets v0 v1
  have hv1 : Keeps R s₀ v1 := by
    unfold v1
    with_reducible
      repeat' first
        | assumption | exact sub_trans (by decide +kernel) hR | apply State.raise_keeps | apply State.modPerf_keeps | apply State.modStat_keeps
        | apply State.snapCopy_keeps | apply State.perfCnt_keeps | split | intro _ | dsimp only
  try dsimp only
  with_reducible
    repeat' first
      | assumption | exact sub_trans (by decide +kernel) hR | apply State.raise_keeps | apply State.modPerf_keeps | apply State.modStat_keeps
      | apply State.snapCopy_keeps | apply State.perfCnt_keeps | split | intro _ | dsimp only

theorem State.sramLost_keeps {R : Nat} {s₀ : State} {s : State} (d : Nat) (o : SramOwner)
    (hR : 0x210081603001fc00000000000000000001908008000000b0800000000000000000000000d0107a192007701 ||| R = R)
    (hk : Keeps R s₀ s) : Keeps R s₀ (State.sramLost d o s) := by
  unfold State.sramLost
  try dsimp only
  with_reducible
    repeat' first
      | assumption | exact sub_trans (by decide +kernel) hR | exact bit_of (by decide +kernel) hR | exact all_bits_of (by decide +kernel) hR
      | apply State.put_keeps | apply State.clearRec_keeps | apply State.modSet_keeps | apply State.modAlloc_keeps | apply State.circDone_keeps
      | apply State.disableCircuit_keeps | apply State.watchdogRestart_keeps | apply State.loseCell_keeps | apply State.deltaLost_keeps | exact id
      | exact fun _ => rfl | exact fun _ _ _ => rfl | split
      | (with_unfolding_all (intro p hp; cases p <;> first | rfl | exact bit_absurd (by decide +kernel) hR hp)) | intro _ | dsimp only
      | apply Keeps.set_cache | apply Keeps.set_keys | apply Keeps.change

theorem execSramScrub_keeps {R : Nat} {s₀ : State} {s : State} (d : Nat) (uncorrectable : Option SramOwner)
    (hR : 0x210081603001fc00000000000000000001908008000000b0800000000000000000000000d0107a192007701 ||| R = R)
    (hk : Keeps R s₀ s) : ResultKeeps R s₀ (execSramScrub d uncorrectable s) := by
  unfold execSramScrub
  try dsimp only
  with_reducible
    repeat' first
      | assumption | exact sub_trans (by decide +kernel) hR | apply State.raise_keeps | apply State.perfCnt_keeps | apply State.sramLost_keeps
      | apply ResultKeeps.next | split | intro _ | dsimp only

theorem execMramScrub_keeps {R : Nat} {s₀ : State} {s : State} (d : Nat) (flaw : MramFlaw)
    (hR : 0x300000000000008000000100000000000000000c1 ||| R = R)
    (hk : Keeps R s₀ s) : ResultKeeps R s₀ (execMramScrub d flaw s) := by
  unfold execMramScrub
  try dsimp only
  with_reducible
    repeat' first
      | assumption | exact sub_trans (by decide +kernel) hR | exact bit_of (by decide +kernel) hR | apply State.addSat_keeps
      | apply State.useFree_keeps | apply State.raisePkg_keeps | apply State.modMram_keeps | apply State.perfCnt_keeps | apply ResultKeeps.next
      | exact id | exact fun _ => rfl | exact fun _ _ _ => rfl | split
      | (with_unfolding_all (intro p hp; cases p <;> first | rfl | exact bit_absurd (by decide +kernel) hR hp)) | intro _ | dsimp only
      | apply Keeps.set_slotBad | apply Keeps.change

theorem execBgLag_keeps {R : Nat} {s₀ : State} {s : State} (d i lag : Nat)
    (hR : 0x4000000000000000000000000000000030000000000000000000000000000000000000000 ||| R = R)
    (hk : Keeps R s₀ s) : ResultKeeps R s₀ (execBgLag d i lag s) := by
  unfold execBgLag
  extract_lets v0 v1 v2
  have hv2 : Keeps R s₀ v2 := by
    unfold v2
    with_reducible
      repeat' first
        | assumption | exact sub_trans (by decide +kernel) hR | exact bit_of (by decide +kernel) hR | apply State.put_keeps | apply State.raise_keeps
        | apply ResultKeeps.next | split | intro _ | dsimp only
  try dsimp only
  with_reducible
    repeat' first
      | assumption | exact sub_trans (by decide +kernel) hR | exact bit_of (by decide +kernel) hR | apply State.put_keeps | apply State.raise_keeps
      | apply ResultKeeps.next | split | intro _ | dsimp only

end Sys2Proof.Machine
end

