-- ==== Sys2Proof/Laws/KeepsBus.lean ====
section
/-!
SUPPORT. Every operation of Machine/Bus.lean keeps what `Keeps` names.
-/

namespace Sys2Proof.Machine

set_option Elab.async false
set_option linter.all false

theorem State.fwRefuse_keeps {R : Nat} {s₀ : State} {s : State} (who : Requester) (bar off : Nat) (write : Bool)
    (hR : 0x30000000000010000000000000000000000000000 ||| R = R)
    (hk : Keeps R s₀ s) : Keeps R s₀ (State.fwRefuse who bar off write s) := by
  unfold State.fwRefuse
  try dsimp only
  with_reducible repeat' first | assumption | exact sub_trans (by decide +kernel) hR | apply State.fwEvent_keeps | split | intro _ | dsimp only

theorem State.faultTask_keeps {R : Nat} {s₀ : State} {s : State} (who : Requester)
    (hR : 0xb0000000000000000000000000000000000000000 ||| R = R)
    (hk : Keeps R s₀ s) : Keeps R s₀ (State.faultTask who s) := by
  unfold State.faultTask
  try dsimp only
  with_reducible repeat' first | assumption | exact sub_trans (by decide +kernel) hR | apply State.stopTask_keeps | split | intro _ | dsimp only

theorem State.readEffect_keeps {R : Nat} {s₀ : State} {s : State} (r : RegDesc) (k : Nat)
    (hR : 0xfffffffffffffffffffffffffffffffffffffffffffffffffffffffffffffffffffffffffff0000000000000000000000000 ||| R = R)
    (hk : Keeps R s₀ s) : Keeps R s₀ (State.readEffect r k s) := by
  unfold State.readEffect
  try dsimp only
  with_reducible
    repeat' first
      | assumption | exact sub_trans (by decide +kernel) hR | exact bit_of (by decide +kernel) hR
      | exact bits_of (by assumption) (by decide +kernel) hR | exact desc_bits_of (by assumption) (by decide +kernel) hR
      | exact bits_of (by assumption) (by assumption) (Nat.or_self _) | exact bit_all (sub_trans (by decide +kernel) hR) _
      | exact List.all_eq_true.2 fun _ _ => bit_all (sub_trans (by decide +kernel) hR) _ | apply State.put_keeps | apply Keeps.foldl_mem
      | apply Keeps.foldl_snd | apply Keeps.foldl_fst | apply Keeps.foldl_build | split | intro _ | dsimp only

theorem State.answer_keeps {R : Nat} {s₀ : State} {s : State} (size v : Nat)
    (hR : 0x20000000000000000000 ||| R = R)
    (hk : Keeps R s₀ s) : Keeps R s₀ (State.answer size v s) := by
  unfold State.answer
  try dsimp only
  with_reducible repeat' first | assumption | exact sub_trans (by decide +kernel) hR | apply State.emit_keeps | split | intro _ | dsimp only

theorem State.turnedAway_keeps_pair {R : Nat} {s₀ s s' : State} {who : Requester} {r : RegDesc} {off : Nat} {write : Bool}
    (hR : 0xb0000000000010000000000000000000000000000 ||| R = R) (e : s.turnedAway who r off write = some s') (h : Keeps R s₀ s) : Keeps R s₀ s' := by
  unfold State.turnedAway at e
  extract_lets v at e
  clear_value v
  split at e
  · cases e
    exact State.faultTask_keeps who (sub_trans (by decide +kernel) hR) h
  · split at e
    · cases e
      exact State.fwRefuse_keeps who 0 off write (sub_trans (by decide +kernel) hR) h
    · cases e

theorem State.busRead_keeps {R : Nat} {s₀ : State} {s : State} (who : Requester) (off size : Nat)
    (hR : 0xfffffffffffffffffffffffffffffffffffffffffffffffffffffffffffffffffffffffffff0000020000000000000000000 ||| R = R)
    (hk : Keeps R s₀ s) : Keeps R s₀ (State.busRead who off size s) := by
  unfold State.busRead
  try dsimp only
  with_reducible
    repeat' first
      | assumption | exact sub_trans (by decide +kernel) hR | exact bit_all (sub_trans (by decide +kernel) hR) _
      | exact List.all_eq_true.2 fun _ _ => bit_all (sub_trans (by decide +kernel) hR) _ | apply State.unmapped_keeps | apply State.readEffect_keeps
      | apply State.answer_keeps | refine State.turnedAway_keeps_pair ?_ (by assumption) ?_ | split | intro _ | dsimp only

theorem execUnmappedAccess_keeps {R : Nat} {s₀ : State} {s : State} (who : Requester) (off size : Nat) (write : Bool)
    (hR : 0x30000001000000000000020000000000000000000 ||| R = R)
    (hk : Keeps R s₀ s) : ResultKeeps R s₀ (execUnmappedAccess who off size write s) := by
  unfold execUnmappedAccess
  try dsimp only
  with_reducible
    repeat' first
      | assumption | exact sub_trans (by decide +kernel) hR | apply State.unmapped_keeps | apply State.answer_keeps | apply ResultKeeps.next | split
      | intro _ | dsimp only

theorem execShadowRead_keeps {R : Nat} {s₀ : State} {s : State} (who : Requester) (off size : Nat)
    (hR : 0xfffffffffffffffffffffffffffffffffffffffffffffffffffffffffffffffffffffffffff0000020000000000000000000 ||| R = R)
    (hk : Keeps R s₀ s) : ResultKeeps R s₀ (execShadowRead who off size s) := by
  unfold execShadowRead
  try dsimp only
  with_reducible
    repeat' first
      | assumption | exact sub_trans (by decide +kernel) hR | exact bit_all (sub_trans (by decide +kernel) hR) _
      | exact List.all_eq_true.2 fun _ _ => bit_all (sub_trans (by decide +kernel) hR) _ | apply State.busRead_keeps | apply ResultKeeps.next | split
      | intro _ | dsimp only

theorem execTimeNowRead_keeps {R : Nat} {s₀ : State} {s : State} (who : Requester) (size : Nat)
    (hR : 0xfffffffffffffffffffffffffffffffffffffffffffffffffffffffffffffffffffffffffff0000020000000000000000000 ||| R = R)
    (hk : Keeps R s₀ s) : ResultKeeps R s₀ (execTimeNowRead who size s) := by
  unfold execTimeNowRead
  try dsimp only
  with_reducible
    repeat' first
      | assumption | exact sub_trans (by decide +kernel) hR | exact bit_all (sub_trans (by decide +kernel) hR) _
      | exact List.all_eq_true.2 fun _ _ => bit_all (sub_trans (by decide +kernel) hR) _ | apply State.busRead_keeps | apply ResultKeeps.next | split
      | intro _ | dsimp only

end Sys2Proof.Machine
end

