-- ==== Sys2Proof/Laws/KeepsHost.lean ====
section
/-!
SUPPORT. Every operation of Machine/Host.lean keeps what `Keeps` names.
-/

namespace Sys2Proof.Machine

set_option Elab.async false
set_option linter.all false

theorem State.post_keeps {R : Nat} {s₀ : State} {s : State} (c : Nat) (x : DmaDesc) (done : Option (Nat × Nat))
    (hR : 0x70000000000000020000000000000100000 ||| R = R)
    (hk : Keeps R s₀ s) : Keeps R s₀ (State.post c x done s) := by
  unfold State.post
  try dsimp only
  with_reducible repeat' first | assumption | exact sub_trans (by decide +kernel) hR | apply State.dmaFlush_keeps | split | intro _ | dsimp only

theorem State.badLength_keeps {R : Nat} {s₀ : State} {s : State} (c : Nat) (x : DmaDesc)
    (hR : 0x70000000000000030000000000000100000 ||| R = R)
    (hk : Keeps R s₀ s) : Keeps R s₀ (State.badLength c x s) := by
  unfold State.badLength
  try dsimp only
  with_reducible
    repeat' first
      | assumption | exact sub_trans (by decide +kernel) hR | apply State.useFree_keeps | apply State.post_keeps | split | intro _ | dsimp only

theorem State.fetch_keeps {R : Nat} {s₀ s : State} (c kind : Nat) (x : DmaDesc) (fits : Bool) {act : State → State} (hR : 0x70000000000000030000000000000100000 ||| R = R)
    (h : Keeps R s₀ s) (ha : ∀ y, Keeps R s₀ y → Keeps R s₀ (act y)) : Keeps R s₀ (s.fetch c kind x fits act) := by
  unfold State.fetch
  repeat' first
    | with_reducible assumption
    | with_reducible exact sub_trans (by decide +kernel) hR
    | with_reducible apply State.post_keeps
    | with_reducible apply State.badLength_keeps
    | with_reducible exact ha _ h
    | split

theorem State.request_keeps {R : Nat} {s₀ : State} {s : State} (c addr : Nat) (r : List Nat) (tied : Bool)
    (hR : 0x70000000000000020000000078000100001 ||| R = R)
    (hk : Keeps R s₀ s) : ResultKeeps R s₀ (State.request c addr r tied s) := by
  unfold State.request
  try dsimp only
  with_reducible
    repeat' first
      | assumption | exact sub_trans (by decide +kernel) hR | apply State.refuse_keeps | apply execTableInsert_keeps | apply execTableReplace_keeps
      | apply execTableDelete_keeps | apply execTableLock_keeps | apply execTableUnlock_keeps | apply execWriteSlot_keeps | apply ResultKeeps.next
      | split | intro _ | dsimp only

theorem execTable_keeps {R : Nat} {s₀ : State} {s : State} (c : Nat) (x : DmaDesc) (record : List Nat) (tied : Bool)
    (hR : 0x70000000000000030000000078000100001 ||| R = R)
    (hk : Keeps R s₀ s) : ResultKeeps R s₀ (execTable c x record tied s) := by
  unfold execTable
  try dsimp only
  with_reducible
    repeat' first
      | assumption | exact sub_trans (by decide +kernel) hR | apply State.post_keeps | apply State.fetch_keeps | apply State.request_keeps
      | apply ResultKeeps.next | (show Keeps _ _ _; rw [id_eq]) | split | intro _ | dsimp only

theorem execStage_keeps {R : Nat} {s₀ : State} {s : State} (c : Nat) (x : DmaDesc) (bytes : List Nat)
    (hR : 0x70000000000000030000000000000100010 ||| R = R)
    (hk : Keeps R s₀ s) : ResultKeeps R s₀ (execStage c x bytes s) := by
  unfold execStage
  try dsimp only
  with_reducible
    repeat' first
      | assumption | exact sub_trans (by decide +kernel) hR | apply State.modLoader_keeps | apply State.post_keeps | apply State.fetch_keeps
      | apply ResultKeeps.next | exact fun _ hl => hl | exact Memory.writeBytes_wf _ _ _ (by assumption) | split | intro _ | dsimp only

theorem execDevRead_keeps {R : Nat} {s₀ : State} {s : State} (c : Nat) (x : DmaDesc)
    (hR : 0x30000071000010000000030000000000000100000 ||| R = R)
    (hk : Keeps R s₀ s) : ResultKeeps R s₀ (execDevRead c x s) := by
  unfold execDevRead
  try dsimp only
  with_reducible
    repeat' first
      | assumption | exact sub_trans (by decide +kernel) hR | apply State.useFree_keeps | apply State.emit_keeps | apply State.fwEvent_keeps
      | apply State.unmapped_keeps | apply State.post_keeps | apply State.fetch_keeps | apply ResultKeeps.next | split | intro _ | dsimp only

theorem execOmciTx_keeps {R : Nat} {s₀ : State} {s : State} (c : Nat) (x : DmaDesc) (bytes : List Nat)
    (hR : 0x70000000000000030000000000000100000 ||| R = R)
    (hk : Keeps R s₀ s) : ResultKeeps R s₀ (execOmciTx c x bytes s) := by
  unfold execOmciTx
  try dsimp only
  with_reducible
    repeat' first
      | assumption | exact sub_trans (by decide +kernel) hR | apply State.emit_keeps | apply State.post_keeps | apply State.fetch_keeps
      | apply ResultKeeps.next | split | intro _ | dsimp only

theorem execRxBuffer_keeps {R : Nat} {s₀ : State} {s : State} (c : Nat) (x : DmaDesc)
    (hR : 0x70000000000000030000000000000100000 ||| R = R)
    (hk : Keeps R s₀ s) : ResultKeeps R s₀ (execRxBuffer c x s) := by
  unfold execRxBuffer
  try dsimp only
  with_reducible
    repeat' first
      | assumption | exact sub_trans (by decide +kernel) hR | apply State.post_keeps | apply State.fetch_keeps | apply ResultKeeps.next | split
      | intro _ | dsimp only

theorem State.fillBuffer_keeps {R : Nat} {s₀ : State} {s : State} (oam : Bool) (tree terminal : Nat) (bytes : List Nat) (at0 : NetTime)
    (hR : 0x70000000000000020000000000000100000 ||| R = R)
    (hk : Keeps R s₀ s) : Keeps R s₀ (State.fillBuffer oam tree terminal bytes at0 s) := by
  unfold State.fillBuffer
  try dsimp only
  with_reducible
    repeat' first
      | assumption | exact sub_trans (by decide +kernel) hR | exact bit_of (by decide +kernel) hR | apply State.addSat_keeps | apply State.emit_keeps
      | apply State.dmaDone_keeps | split | intro _ | dsimp only

theorem execRxMessage_keeps {R : Nat} {s₀ : State} {s : State} (m : RxMessage) (at0 : NetTime)
    (hR : 0x30000070000000000000030100000000000100000 ||| R = R)
    (hk : Keeps R s₀ s) : ResultKeeps R s₀ (execRxMessage m at0 s) := by
  unfold execRxMessage
  try dsimp only
  with_reducible
    repeat' first
      | assumption | exact sub_trans (by decide +kernel) hR | exact bit_of (by decide +kernel) hR | apply State.useFree_keeps
      | apply State.raiseTree_keeps | apply State.fillBuffer_keeps | apply ResultKeeps.next | exact id | exact fun _ => rfl | exact fun _ _ _ => rfl
      | split | (with_unfolding_all (intro p hp; cases p <;> first | rfl | exact bit_absurd (by decide +kernel) hR hp)) | intro _ | dsimp only
      | apply Keeps.set_oam | apply Keeps.change

theorem State.forgetRequest_keeps {R : Nat} {s₀ : State} {s : State} (c addr : Nat)
    (hR : 0x18000000000 ||| R = R)
    (hk : Keeps R s₀ s) : Keeps R s₀ (State.forgetRequest c addr s) := by
  unfold State.forgetRequest
  try dsimp only
  with_reducible
    repeat' first
      | assumption | exact sub_trans (by decide +kernel) hR | exact bit_of (by decide +kernel) hR | exact id | exact fun _ => rfl
      | exact fun _ _ _ => rfl | split | (with_unfolding_all (intro p hp; cases p <;> first | rfl | exact bit_absurd (by decide +kernel) hR hp))
      | intro _ | dsimp only | apply Keeps.set_updates | apply Keeps.set_heldUpdates | apply Keeps.change

theorem execDmaError_keeps {R : Nat} {s₀ : State} {s : State} (c : Nat) (f : DmaFail)
    (hR : 0x70000000000000020000000018000100000 ||| R = R)
    (hk : Keeps R s₀ s) : ResultKeeps R s₀ (execDmaError c f s) := by
  unfold execDmaError
  try dsimp only
  with_reducible
    repeat' first
      | assumption | exact sub_trans (by decide +kernel) hR | exact bit_of (by decide +kernel) hR | apply State.put_keeps | apply State.dmaFlush_keeps
      | apply State.post_keeps | apply State.forgetRequest_keeps | apply ResultKeeps.next | split | intro _ | dsimp only

theorem execBar2Read_keeps {R : Nat} {s₀ : State} {s : State} (who : Requester) (off size : Nat)
    (hR : 0x30000001000010000000030000000000000000000 ||| R = R)
    (hk : Keeps R s₀ s) : ResultKeeps R s₀ (execBar2Read who off size s) := by
  unfold execBar2Read
  try dsimp only
  with_reducible
    repeat' first
      | assumption | exact sub_trans (by decide +kernel) hR | apply State.useFree_keeps | apply State.unmapped_keeps | apply State.fwRefuse_keeps
      | apply State.answer_keeps | apply ResultKeeps.next | split | intro _ | dsimp only

theorem State.taskWrite_keeps {R : Nat} {s₀ : State} {s : State} (who : Requester) (off : Nat) (bytes : List Nat)
    (hR : 0x30000001000010000000000000000000000002000 ||| R = R)
    (hk : Keeps R s₀ s) : Keeps R s₀ (State.taskWrite who off bytes s) := by
  unfold State.taskWrite
  try dsimp only
  with_reducible
    repeat' first
      | assumption | exact sub_trans (by decide +kernel) hR | apply State.unmapped_keeps | apply State.devWrite_keeps | apply State.fwRefuse_keeps
      | split | intro _ | dsimp only

theorem execBar2Write_keeps {R : Nat} {s₀ : State} {s : State} (who : Requester) (off : Nat) (bytes : List Nat)
    (hR : 0x30000001000010000000000000000000000002000 ||| R = R)
    (hk : Keeps R s₀ s) : ResultKeeps R s₀ (execBar2Write who off bytes s) := by
  unfold execBar2Write
  try dsimp only
  with_reducible
    repeat' first
      | assumption | exact sub_trans (by decide +kernel) hR | apply State.fwRefuse_keeps | apply State.taskWrite_keeps | apply ResultKeeps.next
      | split | intro _ | dsimp only

end Sys2Proof.Machine
end

