-- ==== Sys2Proof/Laws/KeepsReset.lean ====
section
/-!
SUPPORT. Every operation of Machine/Reset.lean keeps what `Keeps` names.
-/

namespace Sys2Proof.Machine

set_option Elab.async false
set_option linter.all false

theorem State.packageReset_keeps {R : Nat} {s₀ : State} {s : State} (cause : Nat)
    (hR : 0xffffffffffffffffffffffffffffffffffffffffffffffffffffffffffffffffffffffffffffffffffffffffffffffffffff ||| R = R)
    (hk : Keeps R s₀ s) : Keeps R s₀ (State.packageReset cause s) := by
  unfold State.packageReset
  try dsimp only
  with_reducible
    repeat' first
      | assumption | exact sub_trans (by decide +kernel) hR | exact bit_of (by decide +kernel) hR | exact bit_all (sub_trans (by decide +kernel) hR) _
      | exact List.all_eq_true.2 fun _ _ => bit_all (sub_trans (by decide +kernel) hR) _ | apply State.put_keeps | apply State.afterReset_keeps
      | split | intro _ | dsimp only

theorem execColdReset_keeps {R : Nat} {s₀ : State} {s : State}
    (hR : 0xffffffffffffffffffffffffffffffffffffffffffffffffffffffffffffffffffffffffffffffffffffffffffffffffffff ||| R = R)
    (hk : Keeps R s₀ s) : ResultKeeps R s₀ (execColdReset s) := by
  unfold execColdReset
  try dsimp only
  with_reducible
    repeat' first
      | assumption | exact sub_trans (by decide +kernel) hR | exact bit_of (by decide +kernel) hR | exact bit_all (sub_trans (by decide +kernel) hR) _
      | exact List.all_eq_true.2 fun _ _ => bit_all (sub_trans (by decide +kernel) hR) _ | apply State.put_keeps | apply State.packageReset_keeps
      | apply ResultKeeps.next | exact id | exact fun _ => rfl | exact fun _ _ _ => rfl | split
      | (with_unfolding_all (intro p hp; cases p <;> first | rfl | exact bit_absurd (by decide +kernel) hR hp)) | intro _ | dsimp only
      | apply Keeps.set_supply | apply Keeps.change

theorem execPackageReset_keeps {R : Nat} {s₀ : State} {s : State} (cause : Nat)
    (hR : 0xffffffffffffffffffffffffffffffffffffffffffffffffffffffffffffffffffffffffffffffffffffffffffffffffffff ||| R = R)
    (hk : Keeps R s₀ s) : ResultKeeps R s₀ (execPackageReset cause s) := by
  unfold execPackageReset
  try dsimp only
  with_reducible
    repeat' first
      | assumption | exact sub_trans (by decide +kernel) hR | exact bit_all (sub_trans (by decide +kernel) hR) _
      | exact List.all_eq_true.2 fun _ _ => bit_all (sub_trans (by decide +kernel) hR) _ | apply State.packageReset_keeps | apply ResultKeeps.next
      | split | intro _ | dsimp only

theorem execResetPackage_keeps {R : Nat} {s₀ : State} {s : State} (key : Nat)
    (hR : 0xffffffffffffffffffffffffffffffffffffffffffffffffffffffffffffffffffffffffffffffffffffffffffffffffffff ||| R = R)
    (hk : Keeps R s₀ s) : ResultKeeps R s₀ (execResetPackage key s) := by
  unfold execResetPackage
  try dsimp only
  with_reducible
    repeat' first
      | assumption | exact sub_trans (by decide +kernel) hR | exact bit_of (by decide +kernel) hR | exact bit_all (sub_trans (by decide +kernel) hR) _
      | exact List.all_eq_true.2 fun _ _ => bit_all (sub_trans (by decide +kernel) hR) _ | apply State.put_keeps | apply State.fwEvent_keeps
      | apply State.packageReset_keeps | apply ResultKeeps.next | split | intro _ | dsimp only

theorem State.dropRequests_keeps {R : Nat} {s₀ : State} {s : State}
    (hR : 0x78000000000 ||| R = R)
    (hk : Keeps R s₀ s) : Keeps R s₀ (State.dropRequests s) := by
  unfold State.dropRequests
  try dsimp only
  with_reducible
    repeat' first
      | assumption | exact sub_trans (by decide +kernel) hR | exact bit_of (by decide +kernel) hR | apply State.sequence_keeps
      | apply State.releaseHeld_keeps | exact id | exact fun _ => rfl | exact fun _ _ _ => rfl | apply Keeps.foldl | apply Keeps.foldl_snd
      | apply Keeps.foldl_fst | apply Keeps.foldl_build | split
      | (with_unfolding_all (intro p hp; cases p <;> first | rfl | exact bit_absurd (by decide +kernel) hR hp)) | intro _ | dsimp only
      | apply Keeps.set_updates | apply Keeps.set_heldUpdates | apply Keeps.change

theorem State.dropStaging_keeps {R : Nat} {s₀ : State} {s : State}
    (hR : 0x800000000000000000000000010 ||| R = R)
    (hk : Keeps R s₀ s) : Keeps R s₀ (State.dropStaging s) := by
  unfold State.dropStaging
  try dsimp only
  with_reducible
    repeat' first
      | assumption | exact sub_trans (by decide +kernel) hR | apply State.modLoader_keeps | apply State.restState_keeps | exact fun _ hl => hl
      | exact Memory.nil_wf | split | intro _ | dsimp only

theorem State.dropMailboxes_keeps {R : Nat} {s₀ : State} {s : State}
    (hR : 0x10000000000000000100000000000000000000000000000000000004c00 ||| R = R)
    (hk : Keeps R s₀ s) : Keeps R s₀ (State.dropMailboxes s) := by
  unfold State.dropMailboxes
  try dsimp only
  with_reducible
    repeat' first
      | assumption | exact sub_trans (by decide +kernel) hR | exact bit_of (by decide +kernel) hR | apply State.put_keeps | apply State.modTweed_keeps
      | apply State.modPerf_keeps | exact id | exact fun _ => rfl | exact fun _ _ _ => rfl | apply Keeps.foldl | apply Keeps.foldl_snd
      | apply Keeps.foldl_fst | apply Keeps.foldl_build | split
      | (with_unfolding_all (intro p hp; cases p <;> first | rfl | exact bit_absurd (by decide +kernel) hR hp)) | intro _ | dsimp only
      | apply Keeps.set_rotations | apply Keeps.change

theorem State.hostReset_keeps {R : Nat} {s₀ : State} {s : State}
    (hR : 0x10000000000000000100000fbe000000840000000000000078000384c10 ||| R = R)
    (hk : Keeps R s₀ s) : Keeps R s₀ (State.hostReset s) := by
  unfold State.hostReset
  try dsimp only
  with_reducible
    repeat' first
      | assumption | exact sub_trans (by decide +kernel) hR | exact bit_of (by decide +kernel) hR | exact all_bits_of (by decide +kernel) hR
      | exact bits_of (by assumption) (by decide +kernel) hR | exact desc_bits_of (by assumption) (by decide +kernel) hR
      | exact bits_of (by assumption) (by assumption) (Nat.or_self _) | apply State.put_keeps | apply State.clearFields_keeps
      | apply State.dropRequests_keeps | apply State.dropStaging_keeps | apply State.dropMailboxes_keeps | exact id | exact fun _ => rfl
      | exact fun _ _ _ => rfl | apply Keeps.foldl_mem | apply Keeps.foldl_snd | apply Keeps.foldl_fst | apply Keeps.foldl_build | split
      | (with_unfolding_all (intro p hp; cases p <;> first | rfl | exact bit_absurd (by decide +kernel) hR hp)) | intro _ | dsimp only
      | apply Keeps.set_snap | apply Keeps.set_dma | apply Keeps.set_pci | apply Keeps.change

theorem execHostInterfaceReset_keeps {R : Nat} {s₀ : State} {s : State}
    (hR : 0x10000000000000000100000fbe000000840000000000000078000384c10 ||| R = R)
    (hk : Keeps R s₀ s) : ResultKeeps R s₀ (execHostInterfaceReset s) := by
  unfold execHostInterfaceReset
  try dsimp only
  with_reducible
    repeat' first
      | assumption | exact sub_trans (by decide +kernel) hR | apply State.hostReset_keeps | apply ResultKeeps.next | split | intro _ | dsimp only

theorem execPerst_keeps {R : Nat} {s₀ : State} {s : State} (asserted : Bool)
    (hR : 0xffffffffffffffffffffffffffffffffffffffffffffffffffffffffffffffffffffffffffffffffffffffffffffffffffff ||| R = R)
    (hk : Keeps R s₀ s) : ResultKeeps R s₀ (execPerst asserted s) := by
  unfold execPerst
  try dsimp only
  with_reducible
    repeat' first
      | assumption | exact sub_trans (by decide +kernel) hR | exact bit_of (by decide +kernel) hR | exact bit_all (sub_trans (by decide +kernel) hR) _
      | exact List.all_eq_true.2 fun _ _ => bit_all (sub_trans (by decide +kernel) hR) _ | apply State.packageReset_keeps
      | apply State.hostReset_keeps | apply ResultKeeps.next | exact id | exact fun _ => rfl | exact fun _ _ _ => rfl | split
      | (with_unfolding_all (intro p hp; cases p <;> first | rfl | exact bit_absurd (by decide +kernel) hR hp)) | intro _ | dsimp only
      | apply Keeps.set_supply | apply Keeps.change

theorem State.phase_keeps {R : Nat} {s₀ : State} {s : State} (v : Nat)
    (hR : 0x40000000000000000000000000 ||| R = R)
    (hk : Keeps R s₀ s) : Keeps R s₀ (State.phase v s) := by
  unfold State.phase
  try dsimp only
  with_reducible
    repeat' first
      | assumption | exact sub_trans (by decide +kernel) hR | exact bit_of (by decide +kernel) hR | apply State.put_keeps | split | intro _
      | dsimp only

theorem State.startLoading_keeps {R : Nat} {s₀ : State} {s : State}
    (hR : 0xa00000000000000000240000a00000000000000000000030000000000002c40000000000000000000000089 ||| R = R)
    (hk : Keeps R s₀ s) : Keeps R s₀ (State.startLoading s) := by
  unfold State.startLoading
  try dsimp only
  with_reducible
    repeat' first
      | assumption | exact sub_trans (by decide +kernel) hR | apply State.setUnit_keeps | apply State.scanRecords_keeps
      | apply State.spreadSelection_keeps | apply State.phase_keeps | apply Keeps.foldl | apply Keeps.foldl_snd | apply Keeps.foldl_fst
      | apply Keeps.foldl_build | split | intro _ | dsimp only

theorem State.startWeaving_keeps {R : Nat} {s₀ : State} {s : State}
    (hR : 0xfffffffffffffffffffffffffffffffffffffffffffffffffffffffffffffffffffffffffff00001c04c3f2f103181007093 ||| R = R)
    (hk : Keeps R s₀ s) : Keeps R s₀ (State.startWeaving s) := by
  unfold State.startWeaving
  try dsimp only
  with_reducible
    repeat' first
      | assumption | exact sub_trans (by decide +kernel) hR | exact bit_all (sub_trans (by decide +kernel) hR) _
      | exact List.all_eq_true.2 fun _ _ => bit_all (sub_trans (by decide +kernel) hR) _ | apply State.beginWeave_keeps | apply State.phase_keeps
      | split | intro _ | dsimp only

theorem execStartup_keeps {R : Nat} {s₀ : State} {s : State} (ms : Nat) (untrained : List (Nat × Nat))
    (hR : 0xfffffffffffffffffffffffffffffffffffffffffffffffffffffffffffffffffffffffffff00001c04c3f2f10318100f09b ||| R = R)
    (hk : Keeps R s₀ s) : ResultKeeps R s₀ (execStartup ms untrained s) := by
  unfold execStartup
  try dsimp only
  with_reducible
    repeat' first
      | assumption | exact sub_trans (by decide +kernel) hR | exact bit_of (by decide +kernel) hR | exact bit_all (sub_trans (by decide +kernel) hR) _
      | exact List.all_eq_true.2 fun _ _ => bit_all (sub_trans (by decide +kernel) hR) _ | apply State.put_keeps | apply State.retire_keeps
      | apply State.phase_keeps | apply State.startLoading_keeps | apply State.startWeaving_keeps | apply ResultKeeps.next | apply Keeps.foldl
      | apply Keeps.foldl_snd | apply Keeps.foldl_fst | apply Keeps.foldl_build | split | intro _ | dsimp only

end Sys2Proof.Machine
end

