-- ==== Sys2Proof/Laws/KeepsPower.lean ====
section
/-!
SUPPORT. Every operation of Machine/Power.lean keeps what `Keeps` names.
-/

namespace Sys2Proof.Machine

set_option Elab.async false
set_option linter.all false

theorem State.inputState_keeps {R : Nat} {s₀ : State} {s : State} (f : Field) (on : Bool)
    (hR : 0x30000000000000100000000000000000000000000 ||| R = R) (hf : R.testBit (wordBit f.num) = true)
    (hk : Keeps R s₀ s) : Keeps R s₀ (State.inputState f on s) := by
  unfold State.inputState
  extract_lets v0 v1
  have hv1 : Keeps R s₀ v1 := by
    unfold v1
    with_reducible
      repeat' first
        | assumption | exact sub_trans (by decide +kernel) hR | exact bit_of (by decide +kernel) hR | apply State.put_keeps
        | apply State.putFlag_keeps | apply State.raisePkg_keeps | split | intro _ | dsimp only
  try dsimp only
  with_reducible
    repeat' first
      | assumption | exact sub_trans (by decide +kernel) hR | exact bit_of (by decide +kernel) hR | apply State.put_keeps | apply State.putFlag_keeps
      | apply State.raisePkg_keeps | split | intro _ | dsimp only

theorem execSupplySupervision_keeps {R : Nat} {s₀ : State} {s : State} (vin iin pin : Nat)
    (hR : 0x30000000000000100000000000000000000800000 ||| R = R)
    (hk : Keeps R s₀ s) : ResultKeeps R s₀ (execSupplySupervision vin iin pin s) := by
  unfold execSupplySupervision
  try dsimp only
  with_reducible
    repeat' first
      | assumption | exact sub_trans (by decide +kernel) hR | exact bit_of (by decide +kernel) hR | apply State.put_keeps
      | apply State.inputState_keeps | apply ResultKeeps.next | exact id | exact fun _ => rfl | exact fun _ _ _ => rfl | split
      | (with_unfolding_all (intro p hp; cases p <;> first | rfl | exact bit_absurd (by decide +kernel) hR hp)) | intro _ | dsimp only
      | apply Keeps.set_supply | apply Keeps.change

theorem State.finishStep_keeps {R : Nat} {s₀ : State} {s : State} (x : Nat × Nat)
    (hR : 0xa00000000000000000000000a00000000000000000000030000000000000000000000000000000000000081 ||| R = R)
    (hk : Keeps R s₀ s) : Keeps R s₀ (State.finishStep s x) := by
  unfold State.finishStep
  try dsimp only
  with_reducible
    repeat' first
      | assumption | exact sub_trans (by decide +kernel) hR | apply State.modMram_keeps | apply State.writeRecord_keeps | split | intro _ | dsimp only

theorem execSupplyFault_keeps {R : Nat} {s₀ : State} {s : State} (steps : List (Nat × Nat))
    (hR : 0xffffffffffffffffffffffffffffffffffffffffffffffffffffffffffffffffffffffffffffffffffffffffffffffffffff ||| R = R)
    (hk : Keeps R s₀ s) : ResultKeeps R s₀ (execSupplyFault steps s) := by
  unfold execSupplyFault
  try dsimp only
  with_reducible
    repeat' first
      | assumption | exact sub_trans (by decide +kernel) hR | exact bit_all (sub_trans (by decide +kernel) hR) _
      | exact List.all_eq_true.2 fun _ _ => bit_all (sub_trans (by decide +kernel) hR) _ | apply State.packageReset_keeps
      | apply State.finishStep_keeps | apply ResultKeeps.next | apply Keeps.foldl | apply Keeps.foldl_snd | apply Keeps.foldl_fst
      | apply Keeps.foldl_build | split | intro _ | dsimp only

theorem State.moveCore_keeps {R : Nat} {s₀ : State} {s : State} (d : Nat) (req : Int)
    (hR : 0x80000000000000000000000000000000000000 ||| R = R)
    (hk : Keeps R s₀ s) : Keeps R s₀ (State.moveCore d req s) := by
  unfold State.moveCore
  try dsimp only
  with_reducible
    repeat' first
      | assumption | exact sub_trans (by decide +kernel) hR | exact bit_of (by decide +kernel) hR | apply State.put_keeps | apply State.addWrap_keeps
      | split | intro _ | dsimp only

theorem State.ownPolicy_keeps {R : Nat} {s₀ : State} {s : State} (d m : Nat)
    (hR : 0x400000 ||| R = R)
    (hk : Keeps R s₀ s) : Keeps R s₀ (State.ownPolicy d m s).2 := by
  unfold State.ownPolicy
  try dsimp only
  with_reducible repeat' first | assumption | exact sub_trans (by decide +kernel) hR | apply State.modPower_keeps | split | intro _ | dsimp only

theorem State.ownPolicy_keeps_pair {R : Nat} {s₀ : State} {s s' : State} {r : Int} {d m : Nat}
    (hR : 0x400000 ||| R = R) (heq : State.ownPolicy d m s = (r, s'))
    (hk : Keeps R s₀ s) : Keeps R s₀ s' := by
  have := State.ownPolicy_keeps d m hR hk
  rwa [heq] at this

theorem State.stepCore_keeps {R : Nat} {s₀ : State} {s : State} (d m : Nat) (req : Int)
    (hR : 0x80000000000000000000000000000000000000 ||| R = R)
    (hk : Keeps R s₀ s) : Keeps R s₀ (State.stepCore d m req s) := by
  unfold State.stepCore
  try dsimp only
  with_reducible
    repeat' first
      | assumption | exact sub_trans (by decide +kernel) hR | exact bit_of (by decide +kernel) hR | apply State.putFlag_keeps
      | apply State.moveCore_keeps | split | intro _ | dsimp only

theorem execGovernorStep_keeps {R : Nat} {s₀ : State} {s : State} (d : Nat) (req : Option Int)
    (hR : 0x80000000000000000000000000000000400000 ||| R = R)
    (hk : Keeps R s₀ s) : ResultKeeps R s₀ (execGovernorStep d req s) := by
  unfold execGovernorStep
  try dsimp only
  with_reducible
    repeat' first
      | assumption | exact sub_trans (by decide +kernel) hR | exact bit_of (by decide +kernel) hR | apply State.put_keeps | apply State.addSat_keeps
      | apply State.modPower_keeps | apply State.moveCore_keeps | apply State.ownPolicy_keeps
      | refine State.ownPolicy_keeps_pair ?_ (by assumption) ?_ | apply State.stepCore_keeps | apply ResultKeeps.next | split | intro _ | dsimp only

theorem State.tripDie_keeps {R : Nat} {s₀ : State} {s : State} (d : Nat)
    (hR : 0xfffffffffffffffffffffffffffffffffffffffffffffffffffffffffffffffffffffffffff00001f1efffbf38bfff51ff9f ||| R = R)
    (hk : Keeps R s₀ s) : Keeps R s₀ (State.tripDie d s) := by
  unfold State.tripDie
  try dsimp only
  with_reducible
    repeat' first
      | assumption | exact sub_trans (by decide +kernel) hR | exact bit_of (by decide +kernel) hR | exact bit_all (sub_trans (by decide +kernel) hR) _
      | exact List.all_eq_true.2 fun _ _ => bit_all (sub_trans (by decide +kernel) hR) _ | apply State.put_keeps | apply State.raise_keeps
      | apply State.modPower_keeps | apply State.setLatch_keeps | apply State.weaveIfOff_keeps | apply State.powerDown_keeps | split | intro _
      | dsimp only

theorem State.thermtrip_keeps {R : Nat} {s₀ : State} {s : State}
    (hR : 0xffffffffffffffffffffffffffffffffffffffffffffffffffffffffffffffffffffffffffffffffffffffffffffffffffff ||| R = R)
    (hk : Keeps R s₀ s) : Keeps R s₀ (State.thermtrip s) := by
  unfold State.thermtrip
  try dsimp only
  with_reducible
    repeat' first
      | assumption | exact sub_trans (by decide +kernel) hR | exact bit_of (by decide +kernel) hR | exact bit_all (sub_trans (by decide +kernel) hR) _
      | exact List.all_eq_true.2 fun _ _ => bit_all (sub_trans (by decide +kernel) hR) _ | apply State.afterReset_keeps | exact id
      | exact fun _ => rfl | exact fun _ _ _ => rfl | split
      | (with_unfolding_all (intro p hp; cases p <;> first | rfl | exact bit_absurd (by decide +kernel) hR hp)) | intro _ | dsimp only
      | apply Keeps.set_supply | apply Keeps.change

theorem State.putTemps_keeps {R : Nat} {s₀ : State} {s : State} (d : Nat) (readings : List Int)
    (hR : 0x20000000000000000000000000000000000000 ||| R = R)
    (hk : Keeps R s₀ s) : Keeps R s₀ (State.putTemps d readings s) := by
  unfold State.putTemps
  try dsimp only
  with_reducible
    repeat' first
      | assumption | exact sub_trans (by decide +kernel) hR | exact bit_of (by decide +kernel) hR | apply State.put_keeps | apply Keeps.foldl
      | apply Keeps.foldl_snd | apply Keeps.foldl_fst | apply Keeps.foldl_build | split | intro _ | dsimp only

theorem State.tripOver_keeps {R : Nat} {s₀ : State} {s : State} (d : Nat)
    (hR : 0x24000002000000000000000000003000000001400240000000007c00000000440000d ||| R = R)
    (hk : Keeps R s₀ s) : Keeps R s₀ (State.tripOver d s) := by
  unfold State.tripOver
  extract_lets v0 v1
  have hv1 : Keeps R s₀ v1 := by
    unfold v1
    with_reducible
      repeat' first
        | assumption | exact sub_trans (by decide +kernel) hR | apply State.modPower_keeps | apply State.setLatch_keeps | apply State.requestDie_keeps
        | split | intro _ | dsimp only
  try dsimp only
  with_reducible
    repeat' first
      | assumption | exact sub_trans (by decide +kernel) hR | apply State.modPower_keeps | apply State.setLatch_keeps | apply State.requestDie_keeps
      | split | intro _ | dsimp only

theorem execJunctionThermal_keeps {R : Nat} {s₀ : State} {s : State} (d : Nat) (readings : List Int) (package : Int) (cool : Nat)
    (hR : 0xffffffffffffffffffffffffffffffffffffffffffffffffffffffffffffffffffffffffffffffffffffffffffffffffffff ||| R = R)
    (hk : Keeps R s₀ s) : ResultKeeps R s₀ (execJunctionThermal d readings package cool s) := by
  unfold execJunctionThermal
  try dsimp only
  with_reducible
    repeat' first
      | assumption | exact sub_trans (by decide +kernel) hR | exact bit_of (by decide +kernel) hR | exact bit_all (sub_trans (by decide +kernel) hR) _
      | exact List.all_eq_true.2 fun _ _ => bit_all (sub_trans (by decide +kernel) hR) _ | apply State.put_keeps | apply State.raise_keeps
      | apply State.tripDie_keeps | apply State.thermtrip_keeps | apply State.putTemps_keeps | apply State.tripOver_keeps | apply ResultKeeps.next
      | apply Keeps.foldl | apply Keeps.foldl_snd | apply Keeps.foldl_fst | apply Keeps.foldl_build | split | intro _ | dsimp only

theorem execDiePowerDown_keeps {R : Nat} {s₀ : State} {s : State} (d : Nat) (trip : Bool)
    (hR : 0xfffffffffffffffffffffffffffffffffffffffffffffffffffffffffffffffffffffffffff00001f1efffbf38bfff51ff9f ||| R = R)
    (hk : Keeps R s₀ s) : ResultKeeps R s₀ (execDiePowerDown d trip s) := by
  unfold execDiePowerDown
  try dsimp only
  with_reducible
    repeat' first
      | assumption | exact sub_trans (by decide +kernel) hR | exact bit_all (sub_trans (by decide +kernel) hR) _
      | exact List.all_eq_true.2 fun _ _ => bit_all (sub_trans (by decide +kernel) hR) _ | apply State.putEnable_keeps | apply State.requestDie_keeps
      | apply State.dieOffIfClear_keeps | apply State.tripDie_keeps | apply ResultKeeps.next | split | intro _ | dsimp only

theorem execDieRestart_keeps {R : Nat} {s₀ : State} {s : State} (d : Nat)
    (hR : 0x3600000200420001808010020020b080507001400240000013007c08008900410071f ||| R = R)
    (hk : Keeps R s₀ s) : ResultKeeps R s₀ (execDieRestart d s) := by
  unfold execDieRestart
  try dsimp only
  with_reducible
    repeat' first
      | assumption | exact sub_trans (by decide +kernel) hR | apply State.modLoader_keeps | apply State.setUnit_keeps | apply State.weaveDie_keeps
      | apply State.enableDie_keeps | apply State.actLatch_keeps | apply State.copyForwarding_keeps | apply State.suppressTrees_keeps
      | apply ResultKeeps.next | exact fun _ hl => hl | split | intro _ | dsimp only

end Sys2Proof.Machine
end

