-- ==== Sys2Proof/Laws/KeepsDebug.lean ====
section
/-!
SUPPORT. Every operation of Machine/Debug.lean keeps what `Keeps` names.
-/

namespace Sys2Proof.Machine

set_option Elab.async false
set_option linter.all false

theorem execSecLockSet_keeps {R : Nat} {s₀ : State} {s : State} (mask : Nat)
    (hR : 0x24000000000000000000000000000 ||| R = R)
    (hk : Keeps R s₀ s) : ResultKeeps R s₀ (execSecLockSet mask s) := by
  unfold execSecLockSet
  try dsimp only
  with_reducible
    repeat' first
      | assumption | exact sub_trans (by decide +kernel) hR | exact bit_of (by decide +kernel) hR
      | exact bits_of (by assumption) (by decide +kernel) hR | exact desc_bits_of (by assumption) (by decide +kernel) hR
      | exact bits_of (by assumption) (by assumption) (Nat.or_self _) | apply State.put_keeps | apply ResultKeeps.next | apply Keeps.foldl_mem
      | apply Keeps.foldl_snd | apply Keeps.foldl_fst | apply Keeps.foldl_build | split | intro _ | dsimp only

theorem State.dbgResult_keeps {R : Nat} {s₀ : State} {s : State} (r : Nat)
    (hR : 0x20000000000000000000000000000 ||| R = R)
    (hk : Keeps R s₀ s) : Keeps R s₀ (State.dbgResult r s) := by
  unfold State.dbgResult
  try dsimp only
  with_reducible
    repeat' first
      | assumption | exact sub_trans (by decide +kernel) hR | exact bit_of (by decide +kernel) hR | apply State.put_keeps | split | intro _
      | dsimp only

theorem State.dbgOpen_keeps {R : Nat} {s₀ : State} {s : State}
    (hR : 0x20000000010000000000000000000 ||| R = R)
    (hk : Keeps R s₀ s) : Keeps R s₀ (State.dbgOpen s) := by
  unfold State.dbgOpen
  try dsimp only
  with_reducible
    repeat' first
      | assumption | exact sub_trans (by decide +kernel) hR | apply State.useFree_keeps | apply State.dbgResult_keeps | split | intro _ | dsimp only

theorem State.dbgTurned_keeps {R : Nat} {s₀ : State} {s : State} (r : Nat) (bus : Bool)
    (hR : 0x30000000000030000000000000000000000000000 ||| R = R)
    (hk : Keeps R s₀ s) : Keeps R s₀ (State.dbgTurned r bus s) := by
  unfold State.dbgTurned
  try dsimp only
  with_reducible
    repeat' first
      | assumption | exact sub_trans (by decide +kernel) hR | apply State.fwEvent_keeps | apply State.dbgResult_keeps | split | intro _ | dsimp only

theorem State.dbgAttempt_keeps {R : Nat} {s₀ : State} {s : State} (ok : Bool)
    (hR : 0x30000000000020000000000000000000000000000 ||| R = R)
    (hk : Keeps R s₀ s) : Keeps R s₀ (State.dbgAttempt ok s) := by
  unfold State.dbgAttempt
  try dsimp only
  with_reducible
    repeat' first
      | assumption | exact sub_trans (by decide +kernel) hR | exact bit_of (by decide +kernel) hR | apply State.put_keeps | apply State.addSat_keeps
      | apply State.raisePkg_keeps | apply State.dbgResult_keeps | split | intro _ | dsimp only

theorem execDbgNonceRequest_keeps {R : Nat} {s₀ : State} {s : State}
    (hR : 0x30000000000070000000010000000000000000000 ||| R = R)
    (hk : Keeps R s₀ s) : ResultKeeps R s₀ (execDbgNonceRequest s) := by
  unfold execDbgNonceRequest
  try dsimp only
  with_reducible
    repeat' first
      | assumption | exact sub_trans (by decide +kernel) hR | exact bit_of (by decide +kernel) hR | apply State.put_keeps | apply State.dbgOpen_keeps
      | apply State.dbgTurned_keeps | apply ResultKeeps.next | apply Keeps.foldl | apply Keeps.foldl_snd | apply Keeps.foldl_fst
      | apply Keeps.foldl_build | split | intro _ | dsimp only

theorem execDbgPasswordAttempt_keeps {R : Nat} {s₀ : State} {s : State} (own : Option (List Nat)) (elapsed : Nat)
    (hR : 0x30000000000030000000000000000000000000000 ||| R = R)
    (hk : Keeps R s₀ s) : ResultKeeps R s₀ (execDbgPasswordAttempt own elapsed s) := by
  unfold execDbgPasswordAttempt
  try dsimp only
  with_reducible
    repeat' first
      | assumption | exact sub_trans (by decide +kernel) hR | exact bit_of (by decide +kernel) hR | apply State.put_keeps
      | apply State.dbgResult_keeps | apply State.dbgTurned_keeps | apply State.dbgAttempt_keeps | apply ResultKeeps.next | split | intro _
      | dsimp only

theorem execDbgSignedAttempt_keeps {R : Nat} {s₀ : State} {s : State} (own : Option (List Nat)) (elapsed : Nat)
    (hR : 0x30000000000030000000000000000000000000000 ||| R = R)
    (hk : Keeps R s₀ s) : ResultKeeps R s₀ (execDbgSignedAttempt own elapsed s) := by
  unfold execDbgSignedAttempt
  try dsimp only
  with_reducible
    repeat' first
      | assumption | exact sub_trans (by decide +kernel) hR | exact bit_of (by decide +kernel) hR | apply State.put_keeps
      | apply State.dbgResult_keeps | apply State.dbgTurned_keeps | apply State.dbgAttempt_keeps | apply ResultKeeps.next | split | intro _
      | dsimp only

theorem execDbgSetPassword_keeps {R : Nat} {s₀ : State} {s : State} (own : Option (List Nat))
    (hR : 0xa00000000000000000000000a00000000000000000000030000000000030000000010000000000000000081 ||| R = R)
    (hk : Keeps R s₀ s) : ResultKeeps R s₀ (execDbgSetPassword own s) := by
  unfold execDbgSetPassword
  try dsimp only
  with_reducible
    repeat' first
      | assumption | exact sub_trans (by decide +kernel) hR | apply State.useFree_keeps | apply State.raisePkg_keeps | apply State.writeAll_keeps
      | apply State.dbgResult_keeps | apply State.dbgOpen_keeps | apply State.dbgTurned_keeps | apply ResultKeeps.next | split | intro _ | dsimp only

theorem execNonceExpiry_keeps {R : Nat} {s₀ : State} {s : State}
    (hR : 0x20000000000000000000000000000 ||| R = R)
    (hk : Keeps R s₀ s) : ResultKeeps R s₀ (execNonceExpiry s) := by
  unfold execNonceExpiry
  try dsimp only
  with_reducible
    repeat' first
      | assumption | exact sub_trans (by decide +kernel) hR | exact bit_of (by decide +kernel) hR | apply State.put_keeps | apply ResultKeeps.next
      | split | intro _ | dsimp only

end Sys2Proof.Machine
end

