-- ==== Sys2Proof/Laws/KeepsLatch.lean ====
section
/-!
SUPPORT. Every operation of Machine/Latch.lean keeps what `Keeps` names.
-/

namespace Sys2Proof.Machine

set_option Elab.async false
set_option linter.all false

theorem State.setCriterion_keeps {R : Nat} {s₀ : State} {s : State} (i bit : Nat) (on off : Bool)
    (hR : 0x1000000000000000000000000000000000000000000000000 ||| R = R)
    (hk : Keeps R s₀ s) : Keeps R s₀ (State.setCriterion i bit on off s) := by
  unfold State.setCriterion
  try dsimp only
  with_reducible repeat' first | assumption | exact sub_trans (by decide +kernel) hR | apply State.setRaw_keeps | split | intro _ | dsimp only

theorem State.judgeSignal_keeps {R : Nat} {s₀ : State} {s : State} (t n : Nat)
    (hR : 0x180001000000030000000000000000000000000000000000000000 ||| R = R)
    (hk : Keeps R s₀ s) : Keeps R s₀ (State.judgeSignal t s n) := by
  unfold State.judgeSignal
  try dsimp only
  with_reducible
    repeat' first
      | assumption | exact sub_trans (by decide +kernel) hR | apply State.judgeTerm_keeps | apply State.setCriterion_keeps | split | intro _
      | dsimp only

theorem Tbl.sorted_foldl_set {α β : Type} [DecidableEq α] (d : α) (k : β → Key) (v : Tbl α → β → α) (l : List β) (t : Tbl α)
    (h : t.sorted = true) : Tbl.sorted (l.foldl (fun t e => t.set (k e) d (v t e)) t) = true := by
  induction l generalizing t with
  | nil => exact h
  | cons a l ih => exact ih _ (Tbl.sorted_set _ _ _ _ h)

theorem State.latchCounts_keeps {R : Nat} {s₀ : State} {s : State} (hR : 0xfffffffffffffffffffffffffffffffffffffffffffffffffffffffffffffffffffffffffff0000000000000000000000001 ||| R = R) (hk : Keeps R s₀ s) :
    Keeps R s₀ (State.latchCounts s) :=
  hk.step rfl rfl rfl rfl (Tbl.sorted_foldl_set 0 _ _ _ _) (fun _ => rfl) id id id (fun k m _ => regs_all (sub_trans (by decide +kernel) hR) k m)
    (by intro p hp; cases p <;> first | rfl | exact bit_absurd (by decide +kernel) hR hp)

theorem State.latchTree_keeps {R : Nat} {s₀ : State} {s : State} (t : Nat)
    (hR : 0x180001008000030000000000000000000000000000000000000000 ||| R = R)
    (hk : Keeps R s₀ s) : Keeps R s₀ (State.latchTree s t) := by
  unfold State.latchTree
  try dsimp only
  with_reducible
    repeat' first
      | assumption | exact sub_trans (by decide +kernel) hR | exact bit_of (by decide +kernel) hR | apply State.put_keeps | apply State.putFlag_keeps
      | apply State.judgeSignal_keeps | apply Keeps.foldl | apply Keeps.foldl_snd | apply Keeps.foldl_fst | apply Keeps.foldl_build | split | intro _
      | dsimp only

theorem State.dieSecond_keeps {R : Nat} {s₀ : State} {s : State} (d : Nat)
    (hR : 0x30000000000000000000000000000000000000400 ||| R = R)
    (hk : Keeps R s₀ s) : Keeps R s₀ (State.dieSecond s d) := by
  unfold State.dieSecond
  try dsimp only
  with_reducible
    repeat' first
      | assumption | exact sub_trans (by decide +kernel) hR | apply State.raise_keeps | apply State.modTweed_keeps | split | intro _ | dsimp only

theorem execSecondLatch_keeps {R : Nat} {s₀ : State} {s : State} (sec : Nat)
    (hR : 0xfffffffffffffffffffffffffffffffffffffffffffffffffffffffffffffffffffffffffff000000c000000000000040411 ||| R = R)
    (hk : Keeps R s₀ s) : ResultKeeps R s₀ (execSecondLatch sec s) := by
  unfold execSecondLatch
  extract_lets v0 v1 v2 v3 v4
  have hv0 : Keeps R s₀ v0 := by
    unfold v0
    with_reducible
      repeat' first
        | assumption | exact sub_trans (by decide +kernel) hR | exact bit_of (by decide +kernel) hR
        | exact bit_all (sub_trans (by decide +kernel) hR) _ | exact List.all_eq_true.2 fun _ _ => bit_all (sub_trans (by decide +kernel) hR) _
        | apply State.addWrap_keeps | apply State.modLoader_keeps | apply State.reachNs_keeps | apply State.pairSecond_keeps
        | apply State.latchCounts_keeps | apply State.latchTree_keeps | apply State.dieSecond_keeps | apply ResultKeeps.next | exact fun _ hl => hl
        | apply Keeps.foldl | apply Keeps.foldl_snd | apply Keeps.foldl_fst | apply Keeps.foldl_build | split | intro _ | dsimp only
  have hv2 : Keeps R s₀ v2 := by
    unfold v2
    with_reducible
      repeat' first
        | assumption | exact sub_trans (by decide +kernel) hR | exact bit_of (by decide +kernel) hR
        | exact bit_all (sub_trans (by decide +kernel) hR) _ | exact List.all_eq_true.2 fun _ _ => bit_all (sub_trans (by decide +kernel) hR) _
        | apply State.addWrap_keeps | apply State.modLoader_keeps | apply State.reachNs_keeps | apply State.pairSecond_keeps
        | apply State.latchCounts_keeps | apply State.latchTree_keeps | apply State.dieSecond_keeps | apply ResultKeeps.next | exact fun _ hl => hl
        | apply Keeps.foldl | apply Keeps.foldl_snd | apply Keeps.foldl_fst | apply Keeps.foldl_build | split | intro _ | dsimp only
  have hv3 : Keeps R s₀ v3 := by
    unfold v3
    with_reducible
      repeat' first
        | assumption | exact sub_trans (by decide +kernel) hR | exact bit_of (by decide +kernel) hR
        | exact bit_all (sub_trans (by decide +kernel) hR) _ | exact List.all_eq_true.2 fun _ _ => bit_all (sub_trans (by decide +kernel) hR) _
        | apply State.addWrap_keeps | apply State.modLoader_keeps | apply State.reachNs_keeps | apply State.pairSecond_keeps
        | apply State.latchCounts_keeps | apply State.latchTree_keeps | apply State.dieSecond_keeps | apply ResultKeeps.next | exact fun _ hl => hl
        | apply Keeps.foldl | apply Keeps.foldl_snd | apply Keeps.foldl_fst | apply Keeps.foldl_build | split | intro _ | dsimp only
  have hv4 : Keeps R s₀ v4 := by
    unfold v4
    with_reducible
      repeat' first
        | assumption | exact sub_trans (by decide +kernel) hR | exact bit_of (by decide +kernel) hR
        | exact bit_all (sub_trans (by decide +kernel) hR) _ | exact List.all_eq_true.2 fun _ _ => bit_all (sub_trans (by decide +kernel) hR) _
        | apply State.addWrap_keeps | apply State.modLoader_keeps | apply State.reachNs_keeps | apply State.pairSecond_keeps
        | apply State.latchCounts_keeps | apply State.latchTree_keeps | apply State.dieSecond_keeps | apply ResultKeeps.next | exact fun _ hl => hl
        | apply Keeps.foldl | apply Keeps.foldl_snd | apply Keeps.foldl_fst | apply Keeps.foldl_build | split | intro _ | dsimp only
  try dsimp only
  with_reducible
    repeat' first
      | assumption | exact sub_trans (by decide +kernel) hR | exact bit_of (by decide +kernel) hR | exact bit_all (sub_trans (by decide +kernel) hR) _
      | exact List.all_eq_true.2 fun _ _ => bit_all (sub_trans (by decide +kernel) hR) _ | apply State.addWrap_keeps | apply State.modLoader_keeps
      | apply State.reachNs_keeps | apply State.pairSecond_keeps | apply State.latchCounts_keeps | apply State.latchTree_keeps
      | apply State.dieSecond_keeps | apply ResultKeeps.next | exact fun _ hl => hl | apply Keeps.foldl | apply Keeps.foldl_snd
      | apply Keeps.foldl_fst | apply Keeps.foldl_build | split | intro _ | dsimp only

end Sys2Proof.Machine
end

