-- ==== Sys2Proof/Laws/KeepsWrite.lean ====
section
/-!
SUPPORT. Every operation of Machine/Write.lean keeps what `Keeps` names.
-/

namespace Sys2Proof.Machine

set_option Elab.async false
set_option linter.all false

theorem State.judgePair_keeps {R : Nat} {s₀ : State} {s : State} (r : RegDesc) (k : Nat)
    (hR : 0x20000040000000000000000000000000000000000000000 ||| R = R)
    (hk : Keeps R s₀ s) : Keeps R s₀ (State.judgePair r k s) := by
  unfold State.judgePair
  try dsimp only
  with_reducible
    repeat' first
      | assumption | exact sub_trans (by decide +kernel) hR | exact bit_of (by decide +kernel) hR | apply State.put_keeps | split | intro _
      | dsimp only

theorem State.writeField_keeps {R : Nat} {s₀ : State} {s : State} (k : Nat) (w : Wr) (f : Field)
    (hR : 0xfffffffffffffffffffffffffffffffffffffffffffffffffffffffffffffffffffffffffff0000000000000000000000000 ||| R = R)
    (hk : Keeps R s₀ s) : Keeps R s₀ (State.writeField k w s f) := by
  unfold State.writeField
  try dsimp only
  with_reducible
    repeat' first
      | assumption | exact sub_trans (by decide +kernel) hR | exact bit_of (by decide +kernel) hR | exact bit_all (sub_trans (by decide +kernel) hR) _
      | exact List.all_eq_true.2 fun _ _ => bit_all (sub_trans (by decide +kernel) hR) _
      | (unfold lockOver; split <;> exact bit_of (by decide +kernel) hR) | apply State.put_keeps | split | intro _ | dsimp only

theorem State.writeOnset_keeps {R : Nat} {s₀ : State} {s : State} (k : Nat) (w : Wr) (old : State) (f : Field)
    (hR : 0xfffffffffffffffffffffffffffffffffffffffffffffffffffffffffffffffffffffffffff0000000000000000000000000 ||| R = R)
    (hk : Keeps R s₀ s) : Keeps R s₀ (State.writeOnset k w old s f) := by
  unfold State.writeOnset
  try dsimp only
  with_reducible
    repeat' first
      | assumption | exact sub_trans (by decide +kernel) hR | exact bit_of (by decide +kernel) hR | exact bit_all (sub_trans (by decide +kernel) hR) _
      | exact List.all_eq_true.2 fun _ _ => bit_all (sub_trans (by decide +kernel) hR) _ | apply State.put_keeps | split | intro _ | dsimp only

theorem State.writeFields_keeps {R : Nat} {s₀ : State} {s : State} (r : RegDesc) (k : Nat) (w : Wr)
    (hR : 0xfffffffffffffffffffffffffffffffffffffffffffffffffffffffffffffffffffffffffff0000000000000000000000000 ||| R = R)
    (hk : Keeps R s₀ s) : Keeps R s₀ (State.writeFields r k w s) := by
  unfold State.writeFields
  try dsimp only
  with_reducible
    repeat' first
      | assumption | exact sub_trans (by decide +kernel) hR | exact bit_of (by decide +kernel) hR
      | exact bits_of (by assumption) (by decide +kernel) hR | exact desc_bits_of (by assumption) (by decide +kernel) hR
      | exact bits_of (by assumption) (by assumption) (Nat.or_self _) | exact bit_all (sub_trans (by decide +kernel) hR) _
      | exact List.all_eq_true.2 fun _ _ => bit_all (sub_trans (by decide +kernel) hR) _ | apply State.judgePair_keeps | apply State.writeField_keeps
      | apply State.writeOnset_keeps | apply Keeps.foldl_mem | apply Keeps.foldl_snd | apply Keeps.foldl_fst | apply Keeps.foldl_build | split
      | intro _ | dsimp only

theorem nextOr_keeps {R : Nat} {s₀ s : State} {r : Result} (_hR : 0x0 ||| R = R) (_h : Keeps R s₀ s) (hr : ResultKeeps R s₀ r) :
    Keeps R s₀ (nextOr s r) := by
  obtain ⟨t, rfl, k⟩ := hr
  exact k

theorem ResultKeeps.ite {R : Nat} {s : State} {c : Prop} [Decidable c] {a b : Result} (ha : ResultKeeps R s a) (hb : ResultKeeps R s b) :
    ResultKeeps R s (if c then a else b) := by
  split
  · exact ha
  · exact hb

theorem State.actPackage_keeps {R : Nat} {s₀ : State} {s : State} (who : Requester) (r : RegDesc) (k : Nat) (w : Wr) (was : State)
    (hR : 0xffffffffffffffffffffffffffffffffffffffffffffffffffffffffffffffffffffffffffffffffffffffffffffffffffff ||| R = R) (hw : Keeps R s₀ was) (hk : Keeps R s₀ s) : ResultKeeps R s₀ (State.actPackage who r k w was s) := by
  unfold State.actPackage
  with_reducible
    repeat' first
      | assumption | exact sub_trans (by decide +kernel) hR | apply ResultKeeps.ite | apply State.showSource_keeps
      | apply execUnitEnableRequest_keeps | apply execStageBegin_keeps
      | apply execStageEnd_keeps | apply execSelect_keeps | apply execConfirm_keeps | apply execWeave_keeps | apply execTreeReweave_keeps
      | apply State.modClock_keeps | apply execTimeStep_keeps | apply execTimeMeasWrite_keeps | apply State.setPairing_keeps
      | apply execRelease_keeps | apply execCalibrate_keeps | apply State.unmaskVector_keeps | apply execSnapshotArm_keeps
      | apply execSnapshotCancel_keeps | apply State.fwRefuse_keeps | apply execResetPackage_keeps | apply execSecLockSet_keeps
      | apply execDbgNonceRequest_keeps | apply execDbgPasswordAttempt_keeps | apply execDbgSignedAttempt_keeps
      | apply execDbgSetPassword_keeps | apply ResultKeeps.next | split | intro _

theorem State.actCore_keeps {R : Nat} {s₀ : State} {s : State} (r : RegDesc) (k : Nat) (w : Wr) (was : State)
    (hR : 0x130000040000000000000020000000000000000401 ||| R = R)
    (hw : Keeps R s₀ was) (hk : Keeps R s₀ s) : ResultKeeps R s₀ (State.actCore r k w was s) := by
  unfold State.actCore
  try dsimp only
  with_reducible
    repeat' first
      | assumption | exact sub_trans (by decide +kernel) hR | apply State.tweedCnt_keeps | apply execDoorbell_keeps | apply State.clearPending_keeps
      | apply execSwset_keeps | apply execEoi_keeps | apply ResultKeeps.next | split | intro _ | dsimp only

theorem State.actTree_keeps {R : Nat} {s₀ : State} {s : State} (r : RegDesc) (k : Nat) (w : Wr) (was : State)
    (hR : 0x180207b022c303000000000000000000003001000000003e040000 ||| R = R)
    (_hw : Keeps R s₀ was) (hk : Keeps R s₀ s) : ResultKeeps R s₀ (State.actTree r k w was s) := by
  unfold State.actTree
  try dsimp only
  with_reducible
    repeat' first
      | assumption | exact sub_trans (by decide +kernel) hR | exact bit_of (by decide +kernel) hR | apply State.put_keeps | apply State.modTree_keeps
      | apply execTxMuteSet_keeps | apply execTxMuteClear_keeps | apply execRxTermClear_keeps | apply execOneShotInject_keeps
      | apply execQuietForce_keeps | apply execAdmit_keeps | apply execDeny_keeps | apply execRerange_keeps | apply execDeactivate_keeps
      | apply execFree_keeps | apply ResultKeeps.next | split | intro _ | dsimp only

theorem State.actGrant_keeps {R : Nat} {s₀ : State} {s : State} (r : RegDesc) (k : Nat) (w : Wr)
    (hR : 0x7fffffc00000000000000000001d0ac00000000300000000000000000000000008008780b0000000 ||| R = R)
    (hk : Keeps R s₀ s) : ResultKeeps R s₀ (State.actGrant r k w s) := by
  unfold State.actGrant
  try dsimp only
  with_reducible
    repeat' first
      | assumption | exact sub_trans (by decide +kernel) hR | apply State.judgeBooking_keeps | apply execGrantAccRead_keeps
      | apply execGrantAccWrite_keeps | apply execWriteReset_keeps | apply execResvMicroWindow_keeps | apply execResvRangingGrant_keeps
      | apply execResvQuietWindow_keeps | apply execCircAccRead_keeps | apply execCircAccWrite_keeps | apply execCircuitEnable_keeps
      | apply execCircuitDisable_keeps | apply ResultKeeps.next | split | intro _ | dsimp only

theorem State.sequenceCtrl_keeps {R : Nat} {s₀ : State} {s : State} (r : RegDesc) (k : Nat) (w : Wr)
    (hR : 0x78000000000 ||| R = R)
    (hk : Keeps R s₀ s) : Keeps R s₀ (State.sequenceCtrl r k w s) := by
  unfold State.sequenceCtrl
  try dsimp only
  with_reducible repeat' first | assumption | exact sub_trans (by decide +kernel) hR | apply State.sequence_keeps | split | intro _ | dsimp only

theorem State.actQueue_keeps {R : Nat} {s₀ : State} {s : State} (r : RegDesc) (k : Nat) (w : Wr) (was : State)
    (hR : 0xffff800000000000000000208806e0000000000000030000000000000000000000000200078c00000000 ||| R = R)
    (_hw : Keeps R s₀ was) (hk : Keeps R s₀ s) : ResultKeeps R s₀ (State.actQueue r k w was s) := by
  unfold State.actQueue
  try dsimp only
  with_reducible
    repeat' first
      | assumption | exact sub_trans (by decide +kernel) hR | apply execClassRuleRead_keeps | apply execTernaryWrite_keeps
      | apply execExactInsert_keeps | apply execExactReplace_keeps | apply execExactDelete_keeps | apply execMeterRead_keeps
      | apply execMeterWrite_keeps | apply execTmAccRead_keeps | apply execTmAccWrite_keeps | apply State.portCause_keeps
      | apply State.portClear_keeps | apply State.restartSamples_keeps | apply State.sequenceCtrl_keeps | apply ResultKeeps.next | split | intro _
      | dsimp only

theorem State.keyCommand_keeps {R : Nat} {s₀ : State} {s : State} (host : Bool) (d : Nat) (w : Wr)
    (hR : 0x1f30000000000000000000001f0000000000000000000003000000000001000000000000000b000000000081 ||| R = R)
    (hk : Keeps R s₀ s) : ResultKeeps R s₀ (State.keyCommand host d w s) := by
  unfold State.keyCommand
  try dsimp only
  with_reducible
    repeat' first
      | assumption | exact sub_trans (by decide +kernel) hR | apply execKeyLoad_keeps | apply execKeyErase_keeps | apply execKeySwitch_keeps
      | apply execKeyRead_keeps | apply execKekLoad_keeps | apply ResultKeeps.next | split | intro _ | dsimp only

theorem State.actCipher_keeps {R : Nat} {s₀ : State} {s : State} (r : RegDesc) (k : Nat) (w : Wr) (was : State)
    (hR : 0x1fb0000000000000000000087f0000000000000000000003000000000001000000000000000f000000000081 ||| R = R)
    (_hw : Keeps R s₀ was) (hk : Keeps R s₀ s) : ResultKeeps R s₀ (State.actCipher r k w was s) := by
  unfold State.actCipher
  try dsimp only
  with_reducible
    repeat' first
      | assumption | exact sub_trans (by decide +kernel) hR | apply execLpBindWrite_keeps | apply State.msecDone_keeps | apply execMsecRead_keeps
      | apply execMsecChannelWrite_keeps | apply execArm_keeps | apply State.keyCommand_keeps | apply ResultKeeps.next | split | intro _ | dsimp only

theorem State.actFabric_keeps {R : Nat} {s₀ : State} {s : State} (r : RegDesc) (k : Nat) (w : Wr)
    (hR : 0x20036364e0002004200018000100220003000407001400240000003107c58008910613b00d ||| R = R)
    (hk : Keeps R s₀ s) : ResultKeeps R s₀ (State.actFabric r k w s) := by
  unfold State.actFabric
  try dsimp only
  with_reducible
    repeat' first
      | assumption | exact sub_trans (by decide +kernel) hR | exact bit_of (by decide +kernel) hR | apply State.put_keeps
      | apply State.showSource_keeps | apply State.linkTo_keeps | apply execOneShotInject_keeps | apply execUnitEnableRequest_keeps
      | apply execFabTsPop_keeps | apply execMemRestart_keeps | apply execMemRetrain_keeps | apply execMemRetire_keeps | apply execPerfCntRead_keeps
      | apply execReadClear_keeps | apply execClear_keeps | apply ResultKeeps.next | apply Keeps.foldl | apply Keeps.foldl_snd | apply Keeps.foldl_fst
      | apply Keeps.foldl_build | split | intro _ | dsimp only

theorem State.act_keeps {R : Nat} {s₀ : State} {s : State} (who : Requester) (r : RegDesc) (k : Nat) (w : Wr) (was : State)
    (hR : 0xffffffffffffffffffffffffffffffffffffffffffffffffffffffffffffffffffffffffffffffffffffffffffffffffffff ||| R = R)
    (hw : Keeps R s₀ was) (hk : Keeps R s₀ s) : Keeps R s₀ (State.act who r k w was s) := by
  unfold State.act
  extract_lets v0 v1 v2 v3 v4 v5
  have hv0 : Keeps R s₀ v0 := by
    unfold v0
    with_reducible
      repeat' first
        | assumption | exact sub_trans (by decide +kernel) hR | exact bit_all (sub_trans (by decide +kernel) hR) _
        | exact List.all_eq_true.2 fun _ _ => bit_all (sub_trans (by decide +kernel) hR) _ | apply nextOr_keeps | apply State.actPackage_keeps
        | apply State.actCore_keeps | apply State.actTree_keeps | apply State.actGrant_keeps | apply State.actQueue_keeps
        | apply State.actCipher_keeps | apply State.actFabric_keeps | split | intro _ | dsimp only
  have hv1 : Keeps R s₀ v1 := by
    unfold v1
    with_reducible
      repeat' first
        | assumption | exact sub_trans (by decide +kernel) hR | exact bit_all (sub_trans (by decide +kernel) hR) _
        | exact List.all_eq_true.2 fun _ _ => bit_all (sub_trans (by decide +kernel) hR) _ | apply nextOr_keeps | apply State.actPackage_keeps
        | apply State.actCore_keeps | apply State.actTree_keeps | apply State.actGrant_keeps | apply State.actQueue_keeps
        | apply State.actCipher_keeps | apply State.actFabric_keeps | split | intro _ | dsimp only
  have hv2 : Keeps R s₀ v2 := by
    unfold v2
    with_reducible
      repeat' first
        | assumption | exact sub_trans (by decide +kernel) hR | exact bit_all (sub_trans (by decide +kernel) hR) _
        | exact List.all_eq_true.2 fun _ _ => bit_all (sub_trans (by decide +kernel) hR) _ | apply nextOr_keeps | apply State.actPackage_keeps
        | apply State.actCore_keeps | apply State.actTree_keeps | apply State.actGrant_keeps | apply State.actQueue_keeps
        | apply State.actCipher_keeps | apply State.actFabric_keeps | split | intro _ | dsimp only
  have hv3 : Keeps R s₀ v3 := by
    unfold v3
    with_reducible
      repeat' first
        | assumption | exact sub_trans (by decide +kernel) hR | exact bit_all (sub_trans (by decide +kernel) hR) _
        | exact List.all_eq_true.2 fun _ _ => bit_all (sub_trans (by decide +kernel) hR) _ | apply nextOr_keeps | apply State.actPackage_keeps
        | apply State.actCore_keeps | apply State.actTree_keeps | apply State.actGrant_keeps | apply State.actQueue_keeps
        | apply State.actCipher_keeps | apply State.actFabric_keeps | split | intro _ | dsimp only
  have hv4 : Keeps R s₀ v4 := by
    unfold v4
    with_reducible
      repeat' first
        | assumption | exact sub_trans (by decide +kernel) hR | exact bit_all (sub_trans (by decide +kernel) hR) _
        | exact List.all_eq_true.2 fun _ _ => bit_all (sub_trans (by decide +kernel) hR) _ | apply nextOr_keeps | apply State.actPackage_keeps
        | apply State.actCore_keeps | apply State.actTree_keeps | apply State.actGrant_keeps | apply State.actQueue_keeps
        | apply State.actCipher_keeps | apply State.actFabric_keeps | split | intro _ | dsimp only
  have hv5 : Keeps R s₀ v5 := by
    unfold v5
    with_reducible
      repeat' first
        | assumption | exact sub_trans (by decide +kernel) hR | exact bit_all (sub_trans (by decide +kernel) hR) _
        | exact List.all_eq_true.2 fun _ _ => bit_all (sub_trans (by decide +kernel) hR) _ | apply nextOr_keeps | apply State.actPackage_keeps
        | apply State.actCore_keeps | apply State.actTree_keeps | apply State.actGrant_keeps | apply State.actQueue_keeps
        | apply State.actCipher_keeps | apply State.actFabric_keeps | split | intro _ | dsimp only
  try dsimp only
  with_reducible
    repeat' first
      | assumption | exact sub_trans (by decide +kernel) hR | exact bit_all (sub_trans (by decide +kernel) hR) _
      | exact List.all_eq_true.2 fun _ _ => bit_all (sub_trans (by decide +kernel) hR) _ | apply nextOr_keeps | apply State.actPackage_keeps
      | apply State.actCore_keeps | apply State.actTree_keeps | apply State.actGrant_keeps | apply State.actQueue_keeps | apply State.actCipher_keeps
      | apply State.actFabric_keeps | split | intro _ | dsimp only

theorem State.writeReg_keeps {R : Nat} {s₀ : State} {s : State} (who : Requester) (r : RegDesc) (k off : Nat) (w : Wr) (during : Bool)
    (hR : 0xffffffffffffffffffffffffffffffffffffffffffffffffffffffffffffffffffffffffffffffffffffffffffffffffffff ||| R = R)
    (hk : Keeps R s₀ s) : Keeps R s₀ (State.writeReg who r k off w during s) := by
  unfold State.writeReg
  extract_lets v0 v1 v2
  have hv1 : Keeps R s₀ v1 := by
    unfold v1
    with_reducible
      repeat' first
        | assumption | exact sub_trans (by decide +kernel) hR | exact bit_of (by decide +kernel) hR
        | exact bits_of (by assumption) (by decide +kernel) hR | exact desc_bits_of (by assumption) (by decide +kernel) hR
        | exact bits_of (by assumption) (by assumption) (Nat.or_self _) | exact bit_all (sub_trans (by decide +kernel) hR) _
        | exact List.all_eq_true.2 fun _ _ => bit_all (sub_trans (by decide +kernel) hR) _ | apply State.put_keeps | apply State.fwEvent_keeps
        | apply State.writeFields_keeps | apply State.act_keeps | split | intro _ | dsimp only
  have hv2 : Keeps R s₀ v2 := by
    unfold v2
    with_reducible
      repeat' first
        | assumption | exact sub_trans (by decide +kernel) hR | exact bit_of (by decide +kernel) hR
        | exact bits_of (by assumption) (by decide +kernel) hR | exact desc_bits_of (by assumption) (by decide +kernel) hR
        | exact bits_of (by assumption) (by assumption) (Nat.or_self _) | exact bit_all (sub_trans (by decide +kernel) hR) _
        | exact List.all_eq_true.2 fun _ _ => bit_all (sub_trans (by decide +kernel) hR) _ | apply State.put_keeps | apply State.fwEvent_keeps
        | apply State.writeFields_keeps | apply State.act_keeps | split | intro _ | dsimp only
  try dsimp only
  with_reducible
    repeat' first
      | assumption | exact sub_trans (by decide +kernel) hR | exact bit_of (by decide +kernel) hR
      | exact bits_of (by assumption) (by decide +kernel) hR | exact desc_bits_of (by assumption) (by decide +kernel) hR
      | exact bits_of (by assumption) (by assumption) (Nat.or_self _) | exact bit_all (sub_trans (by decide +kernel) hR) _
      | exact List.all_eq_true.2 fun _ _ => bit_all (sub_trans (by decide +kernel) hR) _ | apply State.put_keeps | apply State.fwEvent_keeps
      | apply State.writeFields_keeps | apply State.act_keeps | split | intro _ | dsimp only

theorem State.busWrite_keeps {R : Nat} {s₀ : State} {s : State} (who : Requester) (off size : Nat) (value : Word) (during : Bool)
    (hR : 0xffffffffffffffffffffffffffffffffffffffffffffffffffffffffffffffffffffffffffffffffffffffffffffffffffff ||| R = R)
    (hk : Keeps R s₀ s) : Keeps R s₀ (State.busWrite who off size value during s) := by
  unfold State.busWrite
  try dsimp only
  with_reducible
    repeat' first
      | assumption | exact sub_trans (by decide +kernel) hR | exact bit_all (sub_trans (by decide +kernel) hR) _
      | exact List.all_eq_true.2 fun _ _ => bit_all (sub_trans (by decide +kernel) hR) _ | apply State.fwEvent_keeps | apply State.unmapped_keeps
      | refine State.turnedAway_keeps_pair ?_ (by assumption) ?_ | apply State.writeReg_keeps | split | intro _ | dsimp only

theorem execRegisterWrite_keeps {R : Nat} {s₀ : State} {s : State} (who : Requester) (off size : Nat) (value : Word) (during : Bool)
    (hR : 0xffffffffffffffffffffffffffffffffffffffffffffffffffffffffffffffffffffffffffffffffffffffffffffffffffff ||| R = R)
    (hk : Keeps R s₀ s) : ResultKeeps R s₀ (execRegisterWrite who off size value during s) := by
  unfold execRegisterWrite
  try dsimp only
  with_reducible
    repeat' first
      | assumption | exact sub_trans (by decide +kernel) hR | exact bit_all (sub_trans (by decide +kernel) hR) _
      | exact List.all_eq_true.2 fun _ _ => bit_all (sub_trans (by decide +kernel) hR) _ | apply State.busWrite_keeps | apply ResultKeeps.next | split
      | intro _ | dsimp only

end Sys2Proof.Machine
end

