-- ==== Sys2Proof/Laws/KeepsStep.lean ====
section
/-!
SUPPORT. What exec keeps, command by command: the set of what it may change, and that `mayChange` names all of it.
-/

namespace Sys2Proof.Machine

set_option Elab.async false
set_option linter.all false

/-- What a command may change, as the bits of a number. -/
def touchMask : Instr → Nat
  | .registerWrite .. => 0xffffffffffffffffffffffffffffffffffffffffffffffffffffffffffffffffffffffffffffffffffffffffffffffffffff
  | .unmappedAccess .. => 0x30000001000000000000020000000000000000000
  | .shadowRead .. => 0xfffffffffffffffffffffffffffffffffffffffffffffffffffffffffffffffffffffffffff0000020000000000000000000
  | .timeNowRead .. => 0xfffffffffffffffffffffffffffffffffffffffffffffffffffffffffffffffffffffffffff0000020000000000000000000
  | .unitEnableRequest .. => 0x36000002000000000000000000003000000001400240000000007c00000000403000d
  | .unitPhaseDone .. => 0xfffffffffffffffffffffffffffffffffffffffffffffffffffffffffffffffffffffffffff00001f1efffbf3fbfff51ff9f
  | .secondLatch .. => 0xfffffffffffffffffffffffffffffffffffffffffffffffffffffffffffffffffffffffffff000000c000000000000040411
  | .tableUpdateApply .. => 0xfffffffffffffffffffffffffffffffffffffffffffffffffffffffffffffffffffffffffff00000200000807ad000100021
  | .orderStall .. => 0x30008070000000000000020000000008000100001
  | .downstreamFrameStart .. => 0x3000000000000000000009010000000018000300000093000000000000000000002c01005c00001f040801
  | .lateMap .. => 0xa00000000000000000000000000000800030000000000000000000000000000000012002001
  | .ploamRingSample .. => 0x2000000
  | .dsUnderrun .. => 0x10100000000000000000800030080000000000000000020000010000002000001
  | .stageBegin .. => 0x30000000000010800000000000000000000000010
  | .stageEnd => 0x30000000000010800000010000000000000000070
  | .select .. => 0xa00000000000000000000000a00000000000000000000030000000000010800000010000000000000000081
  | .confirm => 0xa00000000000000000000000a00000000000000000000030000000000010800000010000000000000000081
  | .weave => 0xfffffffffffffffffffffffffffffffffffffffffffffffffffffffffffffffffffffffffff00001c04fff2f10318500709f
  | .weaveDone .. => 0x3600000200000000008000000020b0801000014002c0000011007c00000000400071f
  | .treeReweave .. => 0x828000000000000240000002100000000000000000030000000000012c00000050000300000000003018
  | .reweaveSectionsLoaded => 0xfffffffffffffffffffffffffffffffffffffffffffffffffffffffffffffffffffffffffff00001d04fff2f10318500709f
  | .reweaveComplete => 0xfffffffffffffffffffffffffffffffffffffffffffffffffffffffffffffffffffffffffff00001d04fff2f17b19500709f
  | .dmkStageData .. => 0x10
  | .mramRecordCommit .. => 0xa00000000000000000000000a00000000000000000000030000000000000000000000000000000000000081
  | .pageReclaim .. => 0xa00000000000000000000000a00000000000000000000030000000000000000000000000000000000000080
  | .recordRotation .. => 0x30000000000000000000000000000000000000080
  | .secLockSet .. => 0x24000000000000000000000000000
  | .dbgNonceRequest => 0x30000000000070000000010000000000000000000
  | .dbgPasswordAttempt .. => 0x30000000000030000000000000000000000000000
  | .dbgSignedAttempt .. => 0x30000000000030000000000000000000000000000
  | .dbgSetPassword .. => 0xa00000000000000000000000a00000000000000000000030000000000030000000010000000000000000081
  | .nonceExpiry => 0x20000000000000000000000000000
  | .opticsStart .. => 0x2000000000000000000000000000000000004000000
  | .opticsLit .. => 0xfffffffffffffffffffffffffffffffffffffffffffffffffffffffffffffffffffffffffff00001d04fff2f17b19500709f
  | .txDarkAtShutdown .. => 0x2000000000000000000000020000000000006000000
  | .laserPark .. => 0x2000000000000000000000000000000000000000000
  | .txCalibration .. => 0x1a030000000000000000000000000000000004000000
  | .laserAgeingCheck .. => 0x12030000000000000000000000000000000000000000
  | .txMuteSet .. => 0x180001002003030000000000000000000000000000000000000000
  | .txMuteClear .. => 0x180001002003030000000000000000000000000000000004000000
  | .txLol .. => 0xa030000000000000000000000000000000002000000
  | .txRelock .. => 0x2000000000000000000000000000000000002000000
  | .contextSwap .. => 0x6030000000000000000000000000000000002000001
  | .burstReceive .. => 0x400000000008000000000101000000001802039008040300800001200000000000300110300000bf040001
  | .upstreamFrameEnd .. => 0x6000000000000010164000000180001102006030000000000000000000032012c10000083043001
  | .rxLol .. => 0x180001002006030000000000000000000000000000000002000000
  | .rxLolClear .. => 0x180001002002030000000000000000000000000000000002000000
  | .rxTermClear .. => 0x800000000000000000000000000000000000000000000000
  | .errorInject .. => 0x200000000000000000000000030000000000006000000
  | .oneShotInject .. => 0x200000000000000000000000030000000000006000000
  | .patternCheckerLock .. => 0x10000000000000000000000000c0000000000000000000000000000000000204000000
  | .optTxRefresh .. => 0x10000000000000000000000000000000000000000000
  | .quietWindowOpen .. => 0x100000000000000000000000000020010000000022040001
  | .quietForce .. => 0x20010000000022040000
  | .serialNumberFound .. => 0x18000710000003000000000000000000002001000000000a040001
  | .rangingGrantResult .. => 0x18020700000003000000000000000000002001000000002a040000
  | .chiffonParams .. => 0x20010000000006040000
  | .signatureDetection .. => 0x230000003000000000000000000002001000000000c040001
  | .chiffonInvite .. => 0x20200000000000000000000000000002001000000002a040001
  | .microWindowResult .. => 0x18000730000003000000000000000000002001000000000a040001
  | .admitWaitExpiry .. => 0x18000700000003000000000000000000002001000000000a040000
  | .chiffonHold .. => 0x2001000000000a040000
  | .assignOnuId .. => 0x20000000000000000000000000000002001000000002a040000
  | .assignAllocId .. => 0x2001000000001a040000
  | .stepMissed .. => 0x18000730000003000000000000000000002001000000001e040001
  | .driftCorrection .. => 0x2001000000000a040000
  | .terminalLost .. => 0x18000300000003000000000000000000002001000000001a040000
  | .admitTerminal .. => 0x2100000000000000000000000000020010000000008040000
  | .deny .. => 0x18000710000003000000000000000000002001000000000a040000
  | .rerange .. => 0x18020310000003000000000000000000002001000000002a040000
  | .deactivate .. => 0x18000730000003000000000000000000002001000000001a040000
  | .free .. => 0x180007100000030000000000000000000020010000000008040000
  | .mapBuild .. => 0x1fc0000000000000000000000a1000000003000000000000000000002001000000007a042001
  | .statusReportDecode .. => 0xe00000000000000000000000000000000000000000000000000000000000000000010000000
  | .contextRingWrite .. => 0x2000000
  | .grantAccRead .. => 0xc0000000000000000000000000000000000000000000000000
  | .grantAccWrite .. => 0xfffc0000000000000000000000840000000030000000000000000000000000000800010000000
  | .writeReset .. => 0x1fc0000000000000000000000840000000030000000000000000000000000000000010000000
  | .gateBankSwap .. => 0x8280000e800000000000000210000000000000000000000000000000000000004c000300000000003001
  | .resvMicroWindow .. => 0x200000000000000000000000000000000000000000020000000
  | .resvRangingGrant .. => 0x200000000000000000000000000000000000000000020000000
  | .resvQuietWindow .. => 0x200000000000000000000000000000000000000000020000000
  | .containerBuild .. => 0x3000000000000000000000000180000000000030000000000000000000000000000000082000001
  | .containerMissing .. => 0x2000001
  | .cePacketReceive .. => 0x3000000000000010100000000180000000000030000000000000000000000400000000080000001
  | .containerReceive .. => 0x46000000000000010164000000180000000000030000000000000000000012002c00000181003001
  | .groupRelease .. => 0x46000000000000010164000000100000000000030000000000000000000012002c00000181003001
  | .circAccRead .. => 0x50000000000000000000000000000000000000000000000000000
  | .circAccWrite .. => 0x7ff00000000000000000000000010000000000000000000000000000000000000800000080000000
  | .circuitEnable .. => 0x7f01fc0000000000000000000090800000000030000000000000000000000000000078090000000
  | .circuitDisable .. => 0x3001fc0000000000000000000190800000000030000000000000000000000000800078090000000
  | .fabricFrameReceive .. => 0x6400000000000000000000010100004000820000000000030000000000000000000000481000007001000021
  | .frameAdmit .. => 0x82870000000000000001010211400080000000000003000000000000000000007280130077f000003021
  | .queueRelease .. => 0xc38000000000000000010166100000000000000000030000000000000000000072002f10000003003001
  | .fabricFrameTransmit .. => 0x70000000000000000600001010000000000000000000003000000000000000000002101e000000001000081
  | .feltRelease .. => 0x64000000000000000000000000000000000000000000002c00000001003001
  | .portHoldCause .. => 0x20000000000000000000030000000000000000000000000000000000000000
  | .portResume .. => 0x20000000000000000000030000000000000000000000000800000000000000
  | .portAvailable .. => 0x20000000000000000000030000000000000000000000000000000000000000
  | .tmSampleWindow .. => 0x200000000000000000030000000000000000000000000200000000002000
  | .tmAccRead .. => 0x880000000000000000000000000000000000000000000000000000000000
  | .tmAccWrite .. => 0xfff800000000000000000000080000000000000000000000000000000000000000000000000000000000
  | .classRuleRead .. => 0xa0000000000000000000000000000000000000000000000000000000
  | .ternaryWrite .. => 0x20000000000000000000000000000000000000000000000800000000
  | .exactInsert .. => 0x60000000000000000000000000000000000000000000000400000000
  | .exactReplace .. => 0x20000000000000000000000000000000000000000000000400000000
  | .exactDelete .. => 0x60000000000000000000000000000000000000000000000400000000
  | .meterRead .. => 0x600000000000000000000000000000000000000000000000000000000
  | .meterWrite .. => 0x780000000000000000000000200000000000000000000000000000000000000000000000000000000
  | .tableInsert .. => 0x70000000000000020000000078000100001
  | .tableReplace .. => 0x70000000000000020000000078000100001
  | .tableDelete .. => 0x70000000000000020000000078000100001
  | .tableLock .. => 0x70000000000000020000000078000100001
  | .tableUnlock .. => 0x70000000000000020000000078000100001
  | .writeSlot .. => 0x70000000000000020000000078000100001
  | .ageBucket => 0x80000000078000000000
  | .lockExpiry .. => 0x78000000001
  | .keyLoad .. => 0x1f10000000000000000000000b00000000000000000000030000000000010000000000000003000000000081
  | .keyErase .. => 0x210000000000000000000000a00000000000000000000000000000000000000000000000001000000000000
  | .keySwitch .. => 0xa00000000000000000000000000000000000000000000000008000000000000
  | .keyRead .. => 0x20000000000000000000001e00000000000000000000000000000000000000000000000000000000000000
  | .kekLoad .. => 0xa00000000000000000000030000000000010000000000000001000000000000
  | .switchCheck => 0xb00000000000000000000930000000000000000000010000008000000000801
  | .keyExpiry .. => 0x30000000000000000000080100000000000000000000030000000000000000000000000008000000000001
  | .starvedResume .. => 0x30000000000000000000080000000000000000000000000000000000000000000000000000000000000000
  | .lpBindWrite .. => 0x80000000000000000000000030000000000010000000000000004000000000000
  | .msecRead .. => 0x6000000000000000000000000000000000000000000000000000000000000000
  | .msecChannelWrite .. => 0x180000000000000000000002000000000000000000000000000000000000000000000000000000000000000
  | .arm .. => 0x100000000000000000000002000000000000000000000000000000000000000000000000000000000000000
  | .refreshInterval .. => 0xd200000000000000000000000030000000000000000000002000000000000008001
  | .stackTempCrossing .. => 0x4200000000000000000000000030000000000000000000000000000000000000001
  | .stackThermalResponse .. => 0xfffffffffffffffffffffffffffffffffffffffffffffffffffffffffffffffffffffffffff00001c04fff2f1031ff01f09f
  | .stackRestart .. => 0x24420002004200018000100200003000407001400240000002007c08008900411000d
  | .rowDisturb .. => 0x8200000000000000000000000030000000000000000000002000000000000008001
  | .throttleEnd .. => 0x8000000000000000000000000000000000000000000000000000000000000008000
  | .eccCorrect .. => 0x480000000400000000000000003000000000000000000000000050000510000a021
  | .patrolScrub .. => 0x5200000000000000000000000030000000000000000000000000000000000008001
  | .channelRetune .. => 0x4200000000000000000000000030000000000000000000000000000000000008001
  | .channelRetrain .. => 0x4e0000000000000000000000003000000000000000000000000050000110000a001
  | .channelRetire .. => 0x4a0000000000000000000000003000000000000000000000000050000110000a001
  | .memRetrain .. => 0x4600000000000000000000000000000000000000000000000000000000000008000
  | .memRetire .. => 0x4e0000000000000000000000003000000000000000000000000050000110000a001
  | .memRestart .. => 0x24460002004200018000100200003000407001400240000002007c08008900411000d
  | .laneOn .. => 0x24000002000000000000000000003000000001400240000000007c00000000400000d
  | .laneFail .. => 0x4000002000000000000000000003000000001400000000000007c000000000000001
  | .commaLock .. => 0x4000002000000000000000000003000000001400000000002007c000000000000001
  | .kolkanCellReceive .. => 0x1e0000000000000001
  | .controlBlockBad .. => 0x40000000000000001
  | .flow .. => 0x18000000000000000
  | .abort .. => 0x40000000000000001
  | .creditStall .. => 0x10000000000000001
  | .status .. => 0x40000020000000000000000000030000000000000000000000010000000000000000
  | .statusTimeout .. => 0x40000020000000000000000000030000000000000000000000010000000000000000
  | .statusSend .. => 0x20010000000000000000
  | .cap .. => 0x24000002000000000000000000003000000001400240000002007c00000000400000d
  | .time .. => 0x24000002000000000000000000003000000001420240000003c07c00000000602000d
  | .timeEcho .. => 0xc010000000000000000
  | .timeSend .. => 0x2c010000000000000000
  | .flitReplay .. => 0x200000020000000000000000000030000000000000000000000200000000000000001
  | .dieLinkIdle .. => 0x200000000000000000000000000000000000000000000000000000000000000000001
  | .dieLinkWake .. => 0x200000000000000000000000000000000000000000000000000000000000000000000
  | .blindFallback .. => 0x200000000000000000000000000000000000000000000000000000000000000000001
  | .dieLinkOn .. => 0x24000002000000000000000000003000000001400240000000007c00000000400000d
  | .timeMeasurement .. => 0x24000002000000000000000000003000000001420240000001c07c00000000602000d
  | .sourceLost => 0x40000000000000000000000000030000000004000000000000000000000000020000
  | .timeStep .. => 0x24000002000000000000000000003000000001421240000000c07c00000000602000d
  | .stepApply => 0x24000002000000000000000000003000000001420240000000c07c00000000602000d
  | .timeMeasWrite .. => 0x24000002000000000000000000003000000001421240000001c07c00000000602000d
  | .ppsEdge .. => 0xc000000000000020000
  | .todMessage .. => 0x24000002000000000000000000003000000001420240000001c07c00000000602000d
  | .ppsOut .. => 0x2c000000000000000000
  | .fabTsPop .. => 0x6000000000000000000000000000000000000000000000000001000000000000000000
  | .claimLive => 0x2030000000010000000000000000000000000040000
  | .claimAbsent => 0x2030000000010000000000000000000000000000000
  | .seize .. => 0xa00000000000000000000000000000000030000000010000000000000000000000012040001
  | .settleEnd => 0x10164000000000000000002030000000030000000000012002c00000085043001
  | .doubleClaim => 0x2000000000010000000000000000000000000040000
  | .heartbeatSend .. => 0x2c010000000000040000
  | .heartbeat .. => 0x1016400000000000000000203000000017000000000001e002c00000085043001
  | .heartbeatFailure => 0x10000000000000000000000000000000
  | .pairHello .. => 0x30000000010000000000020010000000000040000
  | .pairAccept => 0x10164000000000000000002030000000130000000000012002c00000085043001
  | .map .. => 0x1a00000000000000000000000000000000000000000000000000000000000000000012040001
  | .terminal .. => 0x180007000000030000000000000000000000000000000008000000
  | .circuit .. => 0x6000000000000000000000000000000000000000000000000000000000000000000000080000000
  | .health .. => 0xc00000000000020010000000000040001
  | .autoDegrade => 0x20000000000020010000000000040000
  | .release .. => 0x20000000000020010000000000040000
  | .releaseDarken => 0xa00000000000000000000000000000002000000000030000000000000000000000012040000
  | .calibrate .. => 0x20000000000000000000000004000000
  | .standbyOffsetUpdate .. => 0x100000000000000000000000004000000
  | .tweedLoadCheck .. => 0x10000000000000000000001b000000000000000000009b000000000000000000001000000b000000000c01
  | .watchdog .. => 0xb0800000000000000000000000000000000000701
  | .taskOverrun .. => 0xb0000000000000000000000000000000000000401
  | .doorbell .. => 0x130000000000000000000000000000000000000401
  | .mailboxService .. => 0x10000000000000000000001b0000000000000000000093000000000000000000001000000b000000000c01
  | .version .. => 0x10000000000000000000001b0000000000000000000093000000000000000000001000000b000000000c01
  | .rotate .. => 0x10000000000000000000001b0000000000000000000093000000000000000000001000000b000000000c01
  | .rotateCancel .. => 0x10000000000000000000001b0000000000000000000093000000000000000000001000000b000000000c01
  | .extMsg .. => 0x10000000000000000000001b0000000000000000000093000000000000000000001000000b000000000c01
  | .interruptEntry .. => 0xb0800000000000000000000000000000000000701
  | .resume .. => 0x30800000000000000000000000000000000000701
  | .coreWake .. => 0x80800000000000000000000000000000000000101
  | .groupFire .. => 0x10000000000000000000000000000000000000001
  | .swset .. => 0x30000000000000000000000000000000000000000
  | .targetWrite .. => 0x28000000000000000000000000000000000000000
  | .msixDelivery .. => 0x30000040000000000000020000000000000000001
  | .eoi .. => 0x30000040000000000000020000000000000000001
  | .counterFlush .. => 0x3001
  | .perfCntRead .. => 0x30000000000000000000000000000000000000000000000000000000000000000000000
  | .readClear .. => 0x30000000000000000000000000000000000000000000000000000000000000000003000
  | .clear .. => 0x10000000000000000000000000000000000000000000000000000000000000000003000
  | .snapshotArm => 0x800000000000000000000000000000080000
  | .snapshotCancel => 0x800000000000000000000000000000000000
  | .snapshotEpoch => 0x3000080000000000000000c000000000000007000
  | .snapshotDieDone .. => 0x30000800000000000000000000000000000006000
  | .traceRecord .. => 0x200000000000000000000000000000030000000000000000000000000000000000006001
  | .bandwidthWindow .. => 0x3080000000000000000000000000000003000000000000000000000c000000000001000000
  | .sentinelInterval .. => 0x30090000000000000000000000000000000004000
  | .telemetryRecord .. => 0x2000000000000000000000000000000030100000000000000000000000000000000006001
  | .eventLog .. => 0xa00000000000000000000000a00000000000000000000030000000000000000000000000000000000000491
  | .sramScrub .. => 0x210081603001fc00000000000000000001908008000000b0800000000000000000000000d0107a192007701
  | .mramScrub .. => 0x300000000000008000000100000000000000000c1
  | .bgLag .. => 0x4000000000000000000000000000000030000000000000000000000000000000000000000
  | .table .. => 0x70000000000000030000000078000100001
  | .stage .. => 0x70000000000000030000000000000100010
  | .devRead .. => 0x30000071000010000000030000000000000100000
  | .omciTx .. => 0x70000000000000030000000000000100000
  | .rxBuffer .. => 0x70000000000000030000000000000100000
  | .rxMessage .. => 0x30000070000000000000030100000000000100000
  | .dmaError .. => 0x70000000000000020000000018000100000
  | .bar2Read .. => 0x30000001000010000000030000000000000000000
  | .bar2Write .. => 0x30000001000010000000000000000000000002000
  | .coldReset => 0xffffffffffffffffffffffffffffffffffffffffffffffffffffffffffffffffffffffffffffffffffffffffffffffffffff
  | .packageReset .. => 0xffffffffffffffffffffffffffffffffffffffffffffffffffffffffffffffffffffffffffffffffffffffffffffffffffff
  | .resetPackage .. => 0xffffffffffffffffffffffffffffffffffffffffffffffffffffffffffffffffffffffffffffffffffffffffffffffffffff
  | .perst .. => 0xffffffffffffffffffffffffffffffffffffffffffffffffffffffffffffffffffffffffffffffffffffffffffffffffffff
  | .hostInterfaceReset => 0x10000000000000000100000fbe000000840000000000000078000384c10
  | .startup .. => 0xfffffffffffffffffffffffffffffffffffffffffffffffffffffffffffffffffffffffffff00001c04c3f2f10318100f09b
  | .supplySupervision .. => 0x30000000000000100000000000000000000800000
  | .supplyFault .. => 0xffffffffffffffffffffffffffffffffffffffffffffffffffffffffffffffffffffffffffffffffffffffffffffffffffff
  | .governorStep .. => 0x80000000000000000000000000000000400000
  | .junctionThermal .. => 0xffffffffffffffffffffffffffffffffffffffffffffffffffffffffffffffffffffffffffffffffffffffffffffffffffff
  | .diePowerDown .. => 0xfffffffffffffffffffffffffffffffffffffffffffffffffffffffffffffffffffffffffff00001f1efffbf38bfff51ff9f
  | .dieRestart .. => 0x3600000200420001808010020020b080507001400240000013007c08008900410071f
  | .muteSuppressionEnd .. => 0x180001002000030000000000000000000000000000000004000000
  | .flowSend .. => 0x20030000000000000000

theorem keeps_registerWrite (who off size value during) (s : State) : ResultKeeps (touchMask (.registerWrite who off size value during)) s (exec (.registerWrite who off size value during) s) := by
  rw [exec_registerWrite]
  exact execRegisterWrite_keeps who off size value during (Nat.or_self _) (.refl s)

theorem keeps_unmappedAccess (who off size write) (s : State) : ResultKeeps (touchMask (.unmappedAccess who off size write)) s (exec (.unmappedAccess who off size write) s) := by
  rw [exec_unmappedAccess]
  exact execUnmappedAccess_keeps who off size write (Nat.or_self _) (.refl s)

theorem keeps_shadowRead (who off size) (s : State) : ResultKeeps (touchMask (.shadowRead who off size)) s (exec (.shadowRead who off size) s) := by
  rw [exec_shadowRead]
  exact execShadowRead_keeps who off size (Nat.or_self _) (.refl s)

theorem keeps_timeNowRead (who size) (s : State) : ResultKeeps (touchMask (.timeNowRead who size)) s (exec (.timeNowRead who size) s) := by
  rw [exec_timeNowRead]
  exact execTimeNowRead_keeps who size (Nat.or_self _) (.refl s)

theorem keeps_unitEnableRequest (unit on) (s : State) : ResultKeeps (touchMask (.unitEnableRequest unit on)) s (exec (.unitEnableRequest unit on) s) := by
  rw [exec_unitEnableRequest]
  exact execUnitEnableRequest_keeps unit on (Nat.or_self _) (.refl s)

theorem keeps_unitPhaseDone (unit) (s : State) : ResultKeeps (touchMask (.unitPhaseDone unit)) s (exec (.unitPhaseDone unit) s) := by
  rw [exec_unitPhaseDone]
  exact execUnitPhaseDone_keeps unit (Nat.or_self _) (.refl s)

theorem keeps_secondLatch (sec) (s : State) : ResultKeeps (touchMask (.secondLatch sec)) s (exec (.secondLatch sec) s) := by
  rw [exec_secondLatch]
  exact execSecondLatch_keeps sec (Nat.or_self _) (.refl s)

theorem keeps_tableUpdateApply (die) (s : State) : ResultKeeps (touchMask (.tableUpdateApply die)) s (exec (.tableUpdateApply die) s) := by
  rw [exec_tableUpdateApply]
  exact execTableUpdateApply_keeps die (Nat.or_self _) (.refl s)

theorem keeps_orderStall (die) (s : State) : ResultKeeps (touchMask (.orderStall die)) s (exec (.orderStall die) s) := by
  rw [exec_orderStall]
  exact execOrderStall_keeps die (Nat.or_self _) (.refl s)

theorem keeps_downstreamFrameStart (tree set at0) (s : State) : ResultKeeps (touchMask (.downstreamFrameStart tree set at0)) s (exec (.downstreamFrameStart tree set at0) s) := by
  rw [exec_downstreamFrameStart]
  exact execDownstreamFrameStart_keeps tree set at0 (Nat.or_self _) (.refl s)

theorem keeps_lateMap (tree set) (s : State) : ResultKeeps (touchMask (.lateMap tree set)) s (exec (.lateMap tree set) s) := by
  rw [exec_lateMap]
  exact execLateMap_keeps tree set (Nat.or_self _) (.refl s)

theorem keeps_ploamRingSample (tree set) (s : State) : ResultKeeps (touchMask (.ploamRingSample tree set)) s (exec (.ploamRingSample tree set) s) := by
  rw [exec_ploamRingSample]
  exact execPloamRingSample_keeps tree set (Nat.or_self _) (.refl s)

theorem keeps_dsUnderrun (tree set come) (s : State) : ResultKeeps (touchMask (.dsUnderrun tree set come)) s (exec (.dsUnderrun tree set come) s) := by
  rw [exec_dsUnderrun]
  exact execDsUnderrun_keeps tree set come (Nat.or_self _) (.refl s)

theorem keeps_stageBegin (slot) (s : State) : ResultKeeps (touchMask (.stageBegin slot)) s (exec (.stageBegin slot) s) := by
  rw [exec_stageBegin]
  exact execStageBegin_keeps slot (Nat.or_self _) (.refl s)

theorem keeps_stageEnd (s : State) : ResultKeeps (touchMask (.stageEnd)) s (exec (.stageEnd) s) := by
  rw [exec_stageEnd]
  exact execStageEnd_keeps (Nat.or_self _) (.refl s)

theorem keeps_select (slot trial) (s : State) : ResultKeeps (touchMask (.select slot trial)) s (exec (.select slot trial) s) := by
  rw [exec_select]
  exact execSelect_keeps slot trial (Nat.or_self _) (.refl s)

theorem keeps_confirm (s : State) : ResultKeeps (touchMask (.confirm)) s (exec (.confirm) s) := by
  rw [exec_confirm]
  exact execConfirm_keeps (Nat.or_self _) (.refl s)

theorem keeps_weave (s : State) : ResultKeeps (touchMask (.weave)) s (exec (.weave) s) := by
  rw [exec_weave]
  exact execWeave_keeps (Nat.or_self _) (.refl s)

theorem keeps_weaveDone (die) (s : State) : ResultKeeps (touchMask (.weaveDone die)) s (exec (.weaveDone die) s) := by
  rw [exec_weaveDone]
  exact execWeaveDone_keeps die (Nat.or_self _) (.refl s)

theorem keeps_treeReweave (tree slot) (s : State) : ResultKeeps (touchMask (.treeReweave tree slot)) s (exec (.treeReweave tree slot) s) := by
  rw [exec_treeReweave]
  exact execTreeReweave_keeps tree slot (Nat.or_self _) (.refl s)

theorem keeps_reweaveSectionsLoaded (s : State) : ResultKeeps (touchMask (.reweaveSectionsLoaded)) s (exec (.reweaveSectionsLoaded) s) := by
  rw [exec_reweaveSectionsLoaded]
  exact execReweaveSectionsLoaded_keeps (Nat.or_self _) (.refl s)

theorem keeps_reweaveComplete (s : State) : ResultKeeps (touchMask (.reweaveComplete)) s (exec (.reweaveComplete) s) := by
  rw [exec_reweaveComplete]
  exact execReweaveComplete_keeps (Nat.or_self _) (.refl s)

theorem keeps_dmkStageData (offset bytes) (s : State) : ResultKeeps (touchMask (.dmkStageData offset bytes)) s (exec (.dmkStageData offset bytes) s) := by
  rw [exec_dmkStageData]
  exact execDmkStageData_keeps offset bytes (Nat.or_self _) (.refl s)

theorem keeps_mramRecordCommit (die) (s : State) : ResultKeeps (touchMask (.mramRecordCommit die)) s (exec (.mramRecordCommit die) s) := by
  rw [exec_mramRecordCommit]
  exact execMramRecordCommit_keeps die (Nat.or_self _) (.refl s)

theorem keeps_pageReclaim (die) (s : State) : ResultKeeps (touchMask (.pageReclaim die)) s (exec (.pageReclaim die) s) := by
  rw [exec_pageReclaim]
  exact execPageReclaim_keeps die (Nat.or_self _) (.refl s)

theorem keeps_recordRotation (die) (s : State) : ResultKeeps (touchMask (.recordRotation die)) s (exec (.recordRotation die) s) := by
  rw [exec_recordRotation]
  exact execRecordRotation_keeps die (Nat.or_self _) (.refl s)

theorem keeps_secLockSet (mask) (s : State) : ResultKeeps (touchMask (.secLockSet mask)) s (exec (.secLockSet mask) s) := by
  rw [exec_secLockSet]
  exact execSecLockSet_keeps mask (Nat.or_self _) (.refl s)

theorem keeps_dbgNonceRequest (s : State) : ResultKeeps (touchMask (.dbgNonceRequest)) s (exec (.dbgNonceRequest) s) := by
  rw [exec_dbgNonceRequest]
  exact execDbgNonceRequest_keeps (Nat.or_self _) (.refl s)

theorem keeps_dbgPasswordAttempt (own elapsed) (s : State) : ResultKeeps (touchMask (.dbgPasswordAttempt own elapsed)) s (exec (.dbgPasswordAttempt own elapsed) s) := by
  rw [exec_dbgPasswordAttempt]
  exact execDbgPasswordAttempt_keeps own elapsed (Nat.or_self _) (.refl s)

theorem keeps_dbgSignedAttempt (own elapsed) (s : State) : ResultKeeps (touchMask (.dbgSignedAttempt own elapsed)) s (exec (.dbgSignedAttempt own elapsed) s) := by
  rw [exec_dbgSignedAttempt]
  exact execDbgSignedAttempt_keeps own elapsed (Nat.or_self _) (.refl s)

theorem keeps_dbgSetPassword (own) (s : State) : ResultKeeps (touchMask (.dbgSetPassword own)) s (exec (.dbgSetPassword own) s) := by
  rw [exec_dbgSetPassword]
  exact execDbgSetPassword_keeps own (Nat.or_self _) (.refl s)

theorem keeps_nonceExpiry (s : State) : ResultKeeps (touchMask (.nonceExpiry)) s (exec (.nonceExpiry) s) := by
  rw [exec_nonceExpiry]
  exact execNonceExpiry_keeps (Nat.or_self _) (.refl s)

theorem keeps_opticsStart (tree) (s : State) : ResultKeeps (touchMask (.opticsStart tree)) s (exec (.opticsStart tree) s) := by
  rw [exec_opticsStart]
  exact execOpticsStart_keeps tree (Nat.or_self _) (.refl s)

theorem keeps_opticsLit (tree) (s : State) : ResultKeeps (touchMask (.opticsLit tree)) s (exec (.opticsLit tree) s) := by
  rw [exec_opticsLit]
  exact execOpticsLit_keeps tree (Nat.or_self _) (.refl s)

theorem keeps_txDarkAtShutdown (tree) (s : State) : ResultKeeps (touchMask (.txDarkAtShutdown tree)) s (exec (.txDarkAtShutdown tree) s) := by
  rw [exec_txDarkAtShutdown]
  exact execTxDarkAtShutdown_keeps tree (Nat.or_self _) (.refl s)

theorem keeps_laserPark (tree) (s : State) : ResultKeeps (touchMask (.laserPark tree)) s (exec (.laserPark tree) s) := by
  rw [exec_laserPark]
  exact execLaserPark_keeps tree (Nat.or_self _) (.refl s)

theorem keeps_txCalibration (tree set) (s : State) : ResultKeeps (touchMask (.txCalibration tree set)) s (exec (.txCalibration tree set) s) := by
  rw [exec_txCalibration]
  exact execTxCalibration_keeps tree set (Nat.or_self _) (.refl s)

theorem keeps_laserAgeingCheck (tree set) (s : State) : ResultKeeps (touchMask (.laserAgeingCheck tree set)) s (exec (.laserAgeingCheck tree set) s) := by
  rw [exec_laserAgeingCheck]
  exact execLaserAgeingCheck_keeps tree set (Nat.or_self _) (.refl s)

theorem keeps_txMuteSet (tree) (s : State) : ResultKeeps (touchMask (.txMuteSet tree)) s (exec (.txMuteSet tree) s) := by
  rw [exec_txMuteSet]
  exact execTxMuteSet_keeps tree (Nat.or_self _) (.refl s)

theorem keeps_txMuteClear (tree) (s : State) : ResultKeeps (touchMask (.txMuteClear tree)) s (exec (.txMuteClear tree) s) := by
  rw [exec_txMuteClear]
  exact execTxMuteClear_keeps tree (Nat.or_self _) (.refl s)

theorem keeps_txLol (tree set) (s : State) : ResultKeeps (touchMask (.txLol tree set)) s (exec (.txLol tree set) s) := by
  rw [exec_txLol]
  exact execTxLol_keeps tree set (Nat.or_self _) (.refl s)

theorem keeps_txRelock (tree set) (s : State) : ResultKeeps (touchMask (.txRelock tree set)) s (exec (.txRelock tree set) s) := by
  rw [exec_txRelock]
  exact execTxRelock_keeps tree set (Nat.or_self _) (.refl s)

theorem keeps_contextSwap (tree set) (s : State) : ResultKeeps (touchMask (.contextSwap tree set)) s (exec (.contextSwap tree set) s) := by
  rw [exec_contextSwap]
  exact execContextSwap_keeps tree set (Nat.or_self _) (.refl s)

theorem keeps_burstReceive (tree set burst) (s : State) : ResultKeeps (touchMask (.burstReceive tree set burst)) s (exec (.burstReceive tree set burst) s) := by
  rw [exec_burstReceive]
  exact execBurstReceive_keeps tree set burst (Nat.or_self _) (.refl s)

theorem keeps_upstreamFrameEnd (tree set samples) (s : State) : ResultKeeps (touchMask (.upstreamFrameEnd tree set samples)) s (exec (.upstreamFrameEnd tree set samples) s) := by
  rw [exec_upstreamFrameEnd]
  exact execUpstreamFrameEnd_keeps tree set samples (Nat.or_self _) (.refl s)

theorem keeps_rxLol (tree set) (s : State) : ResultKeeps (touchMask (.rxLol tree set)) s (exec (.rxLol tree set) s) := by
  rw [exec_rxLol]
  exact execRxLol_keeps tree set (Nat.or_self _) (.refl s)

theorem keeps_rxLolClear (tree set) (s : State) : ResultKeeps (touchMask (.rxLolClear tree set)) s (exec (.rxLolClear tree set) s) := by
  rw [exec_rxLolClear]
  exact execRxLolClear_keeps tree set (Nat.or_self _) (.refl s)

theorem keeps_rxTermClear (tree terminal) (s : State) : ResultKeeps (touchMask (.rxTermClear tree terminal)) s (exec (.rxTermClear tree terminal) s) := by
  rw [exec_rxTermClear]
  exact execRxTermClear_keeps tree terminal (Nat.or_self _) (.refl s)

theorem keeps_errorInject (unit passed place) (s : State) : ResultKeeps (touchMask (.errorInject unit passed place)) s (exec (.errorInject unit passed place) s) := by
  rw [exec_errorInject]
  exact execErrorInject_keeps unit passed place (Nat.or_self _) (.refl s)

theorem keeps_oneShotInject (unit place) (s : State) : ResultKeeps (touchMask (.oneShotInject unit place)) s (exec (.oneShotInject unit place) s) := by
  rw [exec_oneShotInject]
  exact execOneShotInject_keeps unit place (Nat.or_self _) (.refl s)

theorem keeps_patternCheckerLock (unit terminal good) (s : State) : ResultKeeps (touchMask (.patternCheckerLock unit terminal good)) s (exec (.patternCheckerLock unit terminal good) s) := by
  rw [exec_patternCheckerLock]
  exact execPatternCheckerLock_keeps unit terminal good (Nat.or_self _) (.refl s)

theorem keeps_optTxRefresh (tree set power bias wave temp) (s : State) : ResultKeeps (touchMask (.optTxRefresh tree set power bias wave temp)) s (exec (.optTxRefresh tree set power bias wave temp) s) := by
  rw [exec_optTxRefresh]
  exact execOptTxRefresh_keeps tree set power bias wave temp (Nat.or_self _) (.refl s)

theorem keeps_quietWindowOpen (tree set) (s : State) : ResultKeeps (touchMask (.quietWindowOpen tree set)) s (exec (.quietWindowOpen tree set) s) := by
  rw [exec_quietWindowOpen]
  exact execQuietWindowOpen_keeps tree set (Nat.or_self _) (.refl s)

theorem keeps_quietForce (tree) (s : State) : ResultKeeps (touchMask (.quietForce tree)) s (exec (.quietForce tree) s) := by
  rw [exec_quietForce]
  exact execQuietForce_keeps tree (Nat.or_self _) (.refl s)

theorem keeps_serialNumberFound (tree set arrival delay serial) (s : State) : ResultKeeps (touchMask (.serialNumberFound tree set arrival delay serial)) s (exec (.serialNumberFound tree set arrival delay serial) s) := by
  rw [exec_serialNumberFound]
  exact execSerialNumberFound_keeps tree set arrival delay serial (Nat.or_self _) (.refl s)

theorem keeps_rangingGrantResult (tree terminal) (s : State) : ResultKeeps (touchMask (.rangingGrantResult tree terminal)) s (exec (.rangingGrantResult tree terminal) s) := by
  rw [exec_rangingGrantResult]
  exact execRangingGrantResult_keeps tree terminal (Nat.or_self _) (.refl s)

theorem keeps_chiffonParams (tree) (s : State) : ResultKeeps (touchMask (.chiffonParams tree)) s (exec (.chiffonParams tree) s) := by
  rw [exec_chiffonParams]
  exact execChiffonParams_keeps tree (Nat.or_self _) (.refl s)

theorem keeps_signatureDetection (tree code lag frames) (s : State) : ResultKeeps (touchMask (.signatureDetection tree code lag frames)) s (exec (.signatureDetection tree code lag frames) s) := by
  rw [exec_signatureDetection]
  exact execSignatureDetection_keeps tree code lag frames (Nat.or_self _) (.refl s)

theorem keeps_chiffonInvite (tree place frame) (s : State) : ResultKeeps (touchMask (.chiffonInvite tree place frame)) s (exec (.chiffonInvite tree place frame) s) := by
  rw [exec_chiffonInvite]
  exact execChiffonInvite_keeps tree place frame (Nat.or_self _) (.refl s)

theorem keeps_microWindowResult (tree place) (s : State) : ResultKeeps (touchMask (.microWindowResult tree place)) s (exec (.microWindowResult tree place) s) := by
  rw [exec_microWindowResult]
  exact execMicroWindowResult_keeps tree place (Nat.or_self _) (.refl s)

theorem keeps_admitWaitExpiry (tree terminal) (s : State) : ResultKeeps (touchMask (.admitWaitExpiry tree terminal)) s (exec (.admitWaitExpiry tree terminal) s) := by
  rw [exec_admitWaitExpiry]
  exact execAdmitWaitExpiry_keeps tree terminal (Nat.or_self _) (.refl s)

theorem keeps_chiffonHold (tree terminal) (s : State) : ResultKeeps (touchMask (.chiffonHold tree terminal)) s (exec (.chiffonHold tree terminal) s) := by
  rw [exec_chiffonHold]
  exact execChiffonHold_keeps tree terminal (Nat.or_self _) (.refl s)

theorem keeps_assignOnuId (tree terminal) (s : State) : ResultKeeps (touchMask (.assignOnuId tree terminal)) s (exec (.assignOnuId tree terminal) s) := by
  rw [exec_assignOnuId]
  exact execAssignOnuId_keeps tree terminal (Nat.or_self _) (.refl s)

theorem keeps_assignAllocId (tree allocation) (s : State) : ResultKeeps (touchMask (.assignAllocId tree allocation)) s (exec (.assignAllocId tree allocation) s) := by
  rw [exec_assignAllocId]
  exact execAssignAllocId_keeps tree allocation (Nat.or_self _) (.refl s)

theorem keeps_stepMissed (tree terminal step) (s : State) : ResultKeeps (touchMask (.stepMissed tree terminal step)) s (exec (.stepMissed tree terminal step) s) := by
  rw [exec_stepMissed]
  exact execStepMissed_keeps tree terminal step (Nat.or_self _) (.refl s)

theorem keeps_driftCorrection (tree terminal) (s : State) : ResultKeeps (touchMask (.driftCorrection tree terminal)) s (exec (.driftCorrection tree terminal) s) := by
  rw [exec_driftCorrection]
  exact execDriftCorrection_keeps tree terminal (Nat.or_self _) (.refl s)

theorem keeps_terminalLost (tree terminal) (s : State) : ResultKeeps (touchMask (.terminalLost tree terminal)) s (exec (.terminalLost tree terminal) s) := by
  rw [exec_terminalLost]
  exact execTerminalLost_keeps tree terminal (Nat.or_self _) (.refl s)

theorem keeps_admitTerminal (tree terminal onuId) (s : State) : ResultKeeps (touchMask (.admitTerminal tree terminal onuId)) s (exec (.admitTerminal tree terminal onuId) s) := by
  rw [exec_admitTerminal]
  exact execAdmit_keeps tree terminal onuId (Nat.or_self _) (.refl s)

theorem keeps_deny (tree terminal) (s : State) : ResultKeeps (touchMask (.deny tree terminal)) s (exec (.deny tree terminal) s) := by
  rw [exec_deny]
  exact execDeny_keeps tree terminal (Nat.or_self _) (.refl s)

theorem keeps_rerange (tree terminal) (s : State) : ResultKeeps (touchMask (.rerange tree terminal)) s (exec (.rerange tree terminal) s) := by
  rw [exec_rerange]
  exact execRerange_keeps tree terminal (Nat.or_self _) (.refl s)

theorem keeps_deactivate (tree terminal) (s : State) : ResultKeeps (touchMask (.deactivate tree terminal)) s (exec (.deactivate tree terminal) s) := by
  rw [exec_deactivate]
  exact execDeactivate_keeps tree terminal (Nat.or_self _) (.refl s)

theorem keeps_free (tree terminal) (s : State) : ResultKeeps (touchMask (.free tree terminal)) s (exec (.free tree terminal) s) := by
  rw [exec_free]
  exact execFree_keeps tree terminal (Nat.or_self _) (.refl s)

theorem keeps_mapBuild (tree set buildNs flagged) (s : State) : ResultKeeps (touchMask (.mapBuild tree set buildNs flagged)) s (exec (.mapBuild tree set buildNs flagged) s) := by
  rw [exec_mapBuild]
  exact execMapBuild_keeps tree set buildNs flagged (Nat.or_self _) (.refl s)

theorem keeps_statusReportDecode (tree allocation backlog frame) (s : State) : ResultKeeps (touchMask (.statusReportDecode tree allocation backlog frame)) s (exec (.statusReportDecode tree allocation backlog frame) s) := by
  rw [exec_statusReportDecode]
  exact execStatusReportDecode_keeps tree allocation backlog frame (Nat.or_self _) (.refl s)

theorem keeps_contextRingWrite (tree set) (s : State) : ResultKeeps (touchMask (.contextRingWrite tree set)) s (exec (.contextRingWrite tree set) s) := by
  rw [exec_contextRingWrite]
  exact execContextRingWrite_keeps tree set (Nat.or_self _) (.refl s)

theorem keeps_grantAccRead (die target tree index list) (s : State) : ResultKeeps (touchMask (.grantAccRead die target tree index list)) s (exec (.grantAccRead die target tree index list) s) := by
  rw [exec_grantAccRead]
  exact execGrantAccRead_keeps die target tree index list (Nat.or_self _) (.refl s)

theorem keeps_grantAccWrite (die target tree index list) (s : State) : ResultKeeps (touchMask (.grantAccWrite die target tree index list)) s (exec (.grantAccWrite die target tree index list) s) := by
  rw [exec_grantAccWrite]
  exact execGrantAccWrite_keeps die target tree index list (Nat.or_self _) (.refl s)

theorem keeps_writeReset (die target tree index) (s : State) : ResultKeeps (touchMask (.writeReset die target tree index)) s (exec (.writeReset die target tree index) s) := by
  rw [exec_writeReset]
  exact execWriteReset_keeps die target tree index (Nat.or_self _) (.refl s)

theorem keeps_gateBankSwap (die list) (s : State) : ResultKeeps (touchMask (.gateBankSwap die list)) s (exec (.gateBankSwap die list) s) := by
  rw [exec_gateBankSwap]
  exact execGateBankSwap_keeps die list (Nat.or_self _) (.refl s)

theorem keeps_resvMicroWindow (tree set onuId frameLow) (s : State) : ResultKeeps (touchMask (.resvMicroWindow tree set onuId frameLow)) s (exec (.resvMicroWindow tree set onuId frameLow) s) := by
  rw [exec_resvMicroWindow]
  exact execResvMicroWindow_keeps tree set onuId frameLow (Nat.or_self _) (.refl s)

theorem keeps_resvRangingGrant (tree set onuId frameLow units profile) (s : State) : ResultKeeps (touchMask (.resvRangingGrant tree set onuId frameLow units profile)) s (exec (.resvRangingGrant tree set onuId frameLow units profile) s) := by
  rw [exec_resvRangingGrant]
  exact execResvRangingGrant_keeps tree set onuId frameLow units profile (Nat.or_self _) (.refl s)

theorem keeps_resvQuietWindow (tree set frameLow) (s : State) : ResultKeeps (touchMask (.resvQuietWindow tree set frameLow)) s (exec (.resvQuietWindow tree set frameLow) s) := by
  rw [exec_resvQuietWindow]
  exact execResvQuietWindow_keeps tree set frameLow (Nat.or_self _) (.refl s)

theorem keeps_containerBuild (circuit) (s : State) : ResultKeeps (touchMask (.containerBuild circuit)) s (exec (.containerBuild circuit) s) := by
  rw [exec_containerBuild]
  exact execContainerBuild_keeps circuit (Nat.or_self _) (.refl s)

theorem keeps_containerMissing (circuit) (s : State) : ResultKeeps (touchMask (.containerMissing circuit)) s (exec (.containerMissing circuit) s) := by
  rw [exec_containerMissing]
  exact execContainerMissing_keeps circuit (Nat.or_self _) (.refl s)

theorem keeps_cePacketReceive (die) (s : State) : ResultKeeps (touchMask (.cePacketReceive die)) s (exec (.cePacketReceive die) s) := by
  rw [exec_cePacketReceive]
  exact execCePacketReceive_keeps die (Nat.or_self _) (.refl s)

theorem keeps_containerReceive (circuit) (s : State) : ResultKeeps (touchMask (.containerReceive circuit)) s (exec (.containerReceive circuit) s) := by
  rw [exec_containerReceive]
  exact execContainerReceive_keeps circuit (Nat.or_self _) (.refl s)

theorem keeps_groupRelease (die group) (s : State) : ResultKeeps (touchMask (.groupRelease die group)) s (exec (.groupRelease die group) s) := by
  rw [exec_groupRelease]
  exact execGroupRelease_keeps die group (Nat.or_self _) (.refl s)

theorem keeps_circAccRead (die group index) (s : State) : ResultKeeps (touchMask (.circAccRead die group index)) s (exec (.circAccRead die group index) s) := by
  rw [exec_circAccRead]
  exact execCircAccRead_keeps die group index (Nat.or_self _) (.refl s)

theorem keeps_circAccWrite (die group index) (s : State) : ResultKeeps (touchMask (.circAccWrite die group index)) s (exec (.circAccWrite die group index) s) := by
  rw [exec_circAccWrite]
  exact execCircAccWrite_keeps die group index (Nat.or_self _) (.refl s)

theorem keeps_circuitEnable (die index) (s : State) : ResultKeeps (touchMask (.circuitEnable die index)) s (exec (.circuitEnable die index) s) := by
  rw [exec_circuitEnable]
  exact execCircuitEnable_keeps die index (Nat.or_self _) (.refl s)

theorem keeps_circuitDisable (die index) (s : State) : ResultKeeps (touchMask (.circuitDisable die index)) s (exec (.circuitDisable die index) s) := by
  rw [exec_circuitDisable]
  exact execCircuitDisable_keeps die index (Nat.or_self _) (.refl s)

theorem keeps_fabricFrameReceive (lane bytes sec) (s : State) : ResultKeeps (touchMask (.fabricFrameReceive lane bytes sec)) s (exec (.fabricFrameReceive lane bytes sec) s) := by
  rw [exec_fabricFrameReceive]
  exact execFabricFrameReceive_keeps lane bytes sec (Nat.or_self _) (.refl s)

theorem keeps_frameAdmit (die) (s : State) : ResultKeeps (touchMask (.frameAdmit die)) s (exec (.frameAdmit die) s) := by
  rw [exec_frameAdmit]
  exact execFrameAdmit_keeps die (Nat.or_self _) (.refl s)

theorem keeps_queueRelease (die up port) (s : State) : ResultKeeps (touchMask (.queueRelease die up port)) s (exec (.queueRelease die up port) s) := by
  rw [exec_queueRelease]
  exact execQueueRelease_keeps die up port (Nat.or_self _) (.refl s)

theorem keeps_fabricFrameTransmit (lane cls ptp) (s : State) : ResultKeeps (touchMask (.fabricFrameTransmit lane cls ptp)) s (exec (.fabricFrameTransmit lane cls ptp) s) := by
  rw [exec_fabricFrameTransmit]
  exact execFabricFrameTransmit_keeps lane cls ptp (Nat.or_self _) (.refl s)

theorem keeps_feltRelease (die port) (s : State) : ResultKeeps (touchMask (.feltRelease die port)) s (exec (.feltRelease die port) s) := by
  rw [exec_feltRelease]
  exact execFeltRelease_keeps die port (Nat.or_self _) (.refl s)

theorem keeps_portHoldCause (die port cause) (s : State) : ResultKeeps (touchMask (.portHoldCause die port cause)) s (exec (.portHoldCause die port cause) s) := by
  rw [exec_portHoldCause]
  exact execPortHoldCause_keeps die port cause (Nat.or_self _) (.refl s)

theorem keeps_portResume (die port) (s : State) : ResultKeeps (touchMask (.portResume die port)) s (exec (.portResume die port) s) := by
  rw [exec_portResume]
  exact execPortResume_keeps die port (Nat.or_self _) (.refl s)

theorem keeps_portAvailable (die port) (s : State) : ResultKeeps (touchMask (.portAvailable die port)) s (exec (.portAvailable die port) s) := by
  rw [exec_portAvailable]
  exact execPortAvailable_keeps die port (Nat.or_self _) (.refl s)

theorem keeps_tmSampleWindow (die) (s : State) : ResultKeeps (touchMask (.tmSampleWindow die)) s (exec (.tmSampleWindow die) s) := by
  rw [exec_tmSampleWindow]
  exact execTmSampleWindow_keeps die (Nat.or_self _) (.refl s)

theorem keeps_tmAccRead (die target index) (s : State) : ResultKeeps (touchMask (.tmAccRead die target index)) s (exec (.tmAccRead die target index) s) := by
  rw [exec_tmAccRead]
  exact execTmAccRead_keeps die target index (Nat.or_self _) (.refl s)

theorem keeps_tmAccWrite (die target index) (s : State) : ResultKeeps (touchMask (.tmAccWrite die target index)) s (exec (.tmAccWrite die target index) s) := by
  rw [exec_tmAccWrite]
  exact execTmAccWrite_keeps die target index (Nat.or_self _) (.refl s)

theorem keeps_classRuleRead (die ternary index) (s : State) : ResultKeeps (touchMask (.classRuleRead die ternary index)) s (exec (.classRuleRead die ternary index) s) := by
  rw [exec_classRuleRead]
  exact execClassRuleRead_keeps die ternary index (Nat.or_self _) (.refl s)

theorem keeps_ternaryWrite (die index) (s : State) : ResultKeeps (touchMask (.ternaryWrite die index)) s (exec (.ternaryWrite die index) s) := by
  rw [exec_ternaryWrite]
  exact execTernaryWrite_keeps die index (Nat.or_self _) (.refl s)

theorem keeps_exactInsert (die) (s : State) : ResultKeeps (touchMask (.exactInsert die)) s (exec (.exactInsert die) s) := by
  rw [exec_exactInsert]
  exact execExactInsert_keeps die (Nat.or_self _) (.refl s)

theorem keeps_exactReplace (die) (s : State) : ResultKeeps (touchMask (.exactReplace die)) s (exec (.exactReplace die) s) := by
  rw [exec_exactReplace]
  exact execExactReplace_keeps die (Nat.or_self _) (.refl s)

theorem keeps_exactDelete (die) (s : State) : ResultKeeps (touchMask (.exactDelete die)) s (exec (.exactDelete die) s) := by
  rw [exec_exactDelete]
  exact execExactDelete_keeps die (Nat.or_self _) (.refl s)

theorem keeps_meterRead (die meter) (s : State) : ResultKeeps (touchMask (.meterRead die meter)) s (exec (.meterRead die meter) s) := by
  rw [exec_meterRead]
  exact execMeterRead_keeps die meter (Nat.or_self _) (.refl s)

theorem keeps_meterWrite (die meter keep) (s : State) : ResultKeeps (touchMask (.meterWrite die meter keep)) s (exec (.meterWrite die meter keep) s) := by
  rw [exec_meterWrite]
  exact execMeterWrite_keeps die meter keep (Nat.or_self _) (.refl s)

theorem keeps_tableInsert (chan addr entry expect tied) (s : State) : ResultKeeps (touchMask (.tableInsert chan addr entry expect tied)) s (exec (.tableInsert chan addr entry expect tied) s) := by
  rw [exec_tableInsert]
  exact execTableInsert_keeps chan addr entry expect tied (Nat.or_self _) (.refl s)

theorem keeps_tableReplace (chan addr entry expect tied) (s : State) : ResultKeeps (touchMask (.tableReplace chan addr entry expect tied)) s (exec (.tableReplace chan addr entry expect tied) s) := by
  rw [exec_tableReplace]
  exact execTableReplace_keeps chan addr entry expect tied (Nat.or_self _) (.refl s)

theorem keeps_tableDelete (chan addr entry expect tied) (s : State) : ResultKeeps (touchMask (.tableDelete chan addr entry expect tied)) s (exec (.tableDelete chan addr entry expect tied) s) := by
  rw [exec_tableDelete]
  exact execTableDelete_keeps chan addr entry expect tied (Nat.or_self _) (.refl s)

theorem keeps_tableLock (chan addr bucket second) (s : State) : ResultKeeps (touchMask (.tableLock chan addr bucket second)) s (exec (.tableLock chan addr bucket second) s) := by
  rw [exec_tableLock]
  exact execTableLock_keeps chan addr bucket second (Nat.or_self _) (.refl s)

theorem keeps_tableUnlock (chan addr) (s : State) : ResultKeeps (touchMask (.tableUnlock chan addr)) s (exec (.tableUnlock chan addr) s) := by
  rw [exec_tableUnlock]
  exact execTableUnlock_keeps chan addr (Nat.or_self _) (.refl s)

theorem keeps_writeSlot (chan addr bucket slot entry expect) (s : State) : ResultKeeps (touchMask (.writeSlot chan addr bucket slot entry expect)) s (exec (.writeSlot chan addr bucket slot entry expect) s) := by
  rw [exec_writeSlot]
  exact execWriteSlot_keeps chan addr bucket slot entry expect (Nat.or_self _) (.refl s)

theorem keeps_ageBucket (s : State) : ResultKeeps (touchMask (.ageBucket)) s (exec (.ageBucket) s) := by
  rw [exec_ageBucket]
  exact execAgeBucket_keeps (Nat.or_self _) (.refl s)

theorem keeps_lockExpiry (chan) (s : State) : ResultKeeps (touchMask (.lockExpiry chan)) s (exec (.lockExpiry chan) s) := by
  rw [exec_lockExpiry]
  exact execLockExpiry_keeps chan (Nat.or_self _) (.refl s)

theorem keeps_keyLoad (host die assoc index wrapped kek tied) (s : State) : ResultKeeps (touchMask (.keyLoad host die assoc index wrapped kek tied)) s (exec (.keyLoad host die assoc index wrapped kek tied) s) := by
  rw [exec_keyLoad]
  exact execKeyLoad_keeps host die assoc index wrapped kek tied (Nat.or_self _) (.refl s)

theorem keeps_keyErase (host die assoc index tied) (s : State) : ResultKeeps (touchMask (.keyErase host die assoc index tied)) s (exec (.keyErase host die assoc index tied) s) := by
  rw [exec_keyErase]
  exact execKeyErase_keeps host die assoc index tied (Nat.or_self _) (.refl s)

theorem keeps_keySwitch (host die localTree linePort tied) (s : State) : ResultKeeps (touchMask (.keySwitch host die localTree linePort tied)) s (exec (.keySwitch host die localTree linePort tied) s) := by
  rw [exec_keySwitch]
  exact execKeySwitch_keeps host die localTree linePort tied (Nat.or_self _) (.refl s)

theorem keeps_keyRead (host die assoc index tied) (s : State) : ResultKeeps (touchMask (.keyRead host die assoc index tied)) s (exec (.keyRead host die assoc index tied) s) := by
  rw [exec_keyRead]
  exact execKeyRead_keeps host die assoc index tied (Nat.or_self _) (.refl s)

theorem keeps_kekLoad (host die kek) (s : State) : ResultKeeps (touchMask (.kekLoad host die kek)) s (exec (.kekLoad host die kek) s) := by
  rw [exec_kekLoad]
  exact execKekLoad_keeps host die kek (Nat.or_self _) (.refl s)

theorem keeps_switchCheck (s : State) : ResultKeeps (touchMask (.switchCheck)) s (exec (.switchCheck) s) := by
  rw [exec_switchCheck]
  exact execSwitchCheck_keeps (Nat.or_self _) (.refl s)

theorem keeps_keyExpiry (die slot) (s : State) : ResultKeeps (touchMask (.keyExpiry die slot)) s (exec (.keyExpiry die slot) s) := by
  rw [exec_keyExpiry]
  exact execKeyExpiry_keeps die slot (Nat.or_self _) (.refl s)

theorem keeps_starvedResume (tree linePort) (s : State) : ResultKeeps (touchMask (.starvedResume tree linePort)) s (exec (.starvedResume tree linePort) s) := by
  rw [exec_starvedResume]
  exact execStarvedResume_keeps tree linePort (Nat.or_self _) (.refl s)

theorem keeps_lpBindWrite (tree linePort keyPair encrypt txSc) (s : State) : ResultKeeps (touchMask (.lpBindWrite tree linePort keyPair encrypt txSc)) s (exec (.lpBindWrite tree linePort keyPair encrypt txSc) s) := by
  rw [exec_lpBindWrite]
  exact execLpBindWrite_keeps tree linePort keyPair encrypt txSc (Nat.or_self _) (.refl s)

theorem keeps_msecRead (die assoc index) (s : State) : ResultKeeps (touchMask (.msecRead die assoc index)) s (exec (.msecRead die assoc index) s) := by
  rw [exec_msecRead]
  exact execMsecRead_keeps die assoc index (Nat.or_self _) (.refl s)

theorem keeps_msecChannelWrite (die channel) (s : State) : ResultKeeps (touchMask (.msecChannelWrite die channel)) s (exec (.msecChannelWrite die channel) s) := by
  rw [exec_msecChannelWrite]
  exact execMsecChannelWrite_keeps die channel (Nat.or_self _) (.refl s)

theorem keeps_arm (die association) (s : State) : ResultKeeps (touchMask (.arm die association)) s (exec (.arm die association) s) := by
  rw [exec_arm]
  exact execArm_keeps die association (Nat.or_self _) (.refl s)

theorem keeps_refreshInterval (die channel events) (s : State) : ResultKeeps (touchMask (.refreshInterval die channel events)) s (exec (.refreshInterval die channel events) s) := by
  rw [exec_refreshInterval]
  exact execRefreshInterval_keeps die channel events (Nat.or_self _) (.refl s)

theorem keeps_stackTempCrossing (die channel temp) (s : State) : ResultKeeps (touchMask (.stackTempCrossing die channel temp)) s (exec (.stackTempCrossing die channel temp) s) := by
  rw [exec_stackTempCrossing]
  exact execStackTempCrossing_keeps die channel temp (Nat.or_self _) (.refl s)

theorem keeps_stackThermalResponse (die temp) (s : State) : ResultKeeps (touchMask (.stackThermalResponse die temp)) s (exec (.stackThermalResponse die temp) s) := by
  rw [exec_stackThermalResponse]
  exact execStackThermalResponse_keeps die temp (Nat.or_self _) (.refl s)

theorem keeps_stackRestart (die cool) (s : State) : ResultKeeps (touchMask (.stackRestart die cool)) s (exec (.stackRestart die cool) s) := by
  rw [exec_stackRestart]
  exact execStackRestart_keeps die cool (Nat.or_self _) (.refl s)

theorem keeps_rowDisturb (die channel bank row requester domain) (s : State) : ResultKeeps (touchMask (.rowDisturb die channel bank row requester domain)) s (exec (.rowDisturb die channel bank row requester domain) s) := by
  rw [exec_rowDisturb]
  exact execRowDisturb_keeps die channel bank row requester domain (Nat.or_self _) (.refl s)

theorem keeps_throttleEnd (die requester channel) (s : State) : ResultKeeps (touchMask (.throttleEnd die requester channel)) s (exec (.throttleEnd die requester channel) s) := by
  rw [exec_throttleEnd]
  exact execThrottleEnd_keeps die requester channel (Nat.or_self _) (.refl s)

theorem keeps_eccCorrect (die offset requester correctable owner) (s : State) : ResultKeeps (touchMask (.eccCorrect die offset requester correctable owner)) s (exec (.eccCorrect die offset requester correctable owner) s) := by
  rw [exec_eccCorrect]
  exact execEccCorrect_keeps die offset requester correctable owner (Nat.or_self _) (.refl s)

theorem keeps_patrolScrub (die age) (s : State) : ResultKeeps (touchMask (.patrolScrub die age)) s (exec (.patrolScrub die age) s) := by
  rw [exec_patrolScrub]
  exact execPatrolScrub_keeps die age (Nat.or_self _) (.refl s)

theorem keeps_channelRetune (die channel training) (s : State) : ResultKeeps (touchMask (.channelRetune die channel training)) s (exec (.channelRetune die channel training) s) := by
  rw [exec_channelRetune]
  exact execChannelRetune_keeps die channel training (Nat.or_self _) (.refl s)

theorem keeps_channelRetrain (die channel training lost) (s : State) : ResultKeeps (touchMask (.channelRetrain die channel training lost)) s (exec (.channelRetrain die channel training lost) s) := by
  rw [exec_channelRetrain]
  exact execChannelRetrain_keeps die channel training lost (Nat.or_self _) (.refl s)

theorem keeps_channelRetire (die channel lost) (s : State) : ResultKeeps (touchMask (.channelRetire die channel lost)) s (exec (.channelRetire die channel lost) s) := by
  rw [exec_channelRetire]
  exact execChannelRetire_keeps die channel lost (Nat.or_self _) (.refl s)

theorem keeps_memRetrain (die channel) (s : State) : ResultKeeps (touchMask (.memRetrain die channel)) s (exec (.memRetrain die channel) s) := by
  rw [exec_memRetrain]
  exact execMemRetrain_keeps die channel (Nat.or_self _) (.refl s)

theorem keeps_memRetire (die channel lost) (s : State) : ResultKeeps (touchMask (.memRetire die channel lost)) s (exec (.memRetire die channel lost) s) := by
  rw [exec_memRetire]
  exact execMemRetire_keeps die channel lost (Nat.or_self _) (.refl s)

theorem keeps_memRestart (die cool) (s : State) : ResultKeeps (touchMask (.memRestart die cool)) s (exec (.memRestart die cool) s) := by
  rw [exec_memRestart]
  exact execMemRestart_keeps die cool (Nat.or_self _) (.refl s)

theorem keeps_laneOn (lane) (s : State) : ResultKeeps (touchMask (.laneOn lane)) s (exec (.laneOn lane) s) := by
  rw [exec_laneOn]
  exact execLaneOn_keeps lane (Nat.or_self _) (.refl s)

theorem keeps_laneFail (lane los cdrLock) (s : State) : ResultKeeps (touchMask (.laneFail lane los cdrLock)) s (exec (.laneFail lane los cdrLock) s) := by
  rw [exec_laneFail]
  exact execLaneFail_keeps lane los cdrLock (Nat.or_self _) (.refl s)

theorem keeps_commaLock (lane block) (s : State) : ResultKeeps (touchMask (.commaLock lane block)) s (exec (.commaLock lane block) s) := by
  rw [exec_commaLock]
  exact execCommaLock_keeps lane block (Nat.or_self _) (.refl s)

theorem keeps_kolkanCellReceive (lane header payload) (s : State) : ResultKeeps (touchMask (.kolkanCellReceive lane header payload)) s (exec (.kolkanCellReceive lane header payload) s) := by
  rw [exec_kolkanCellReceive]
  exact execKolkanCellReceive_keeps lane header payload (Nat.or_self _) (.refl s)

theorem keeps_controlBlockBad (lane block) (s : State) : ResultKeeps (touchMask (.controlBlockBad lane block)) s (exec (.controlBlockBad lane block) s) := by
  rw [exec_controlBlockBad]
  exact execControlBlockBad_keeps lane block (Nat.or_self _) (.refl s)

theorem keeps_flow (lane credits) (s : State) : ResultKeeps (touchMask (.flow lane credits)) s (exec (.flow lane credits) s) := by
  rw [exec_flow]
  exact execFlow_keeps lane credits (Nat.or_self _) (.refl s)

theorem keeps_abort (lane cls) (s : State) : ResultKeeps (touchMask (.abort lane cls)) s (exec (.abort lane cls) s) := by
  rw [exec_abort]
  exact execAbort_keeps lane cls (Nat.or_self _) (.refl s)

theorem keeps_creditStall (lane cls) (s : State) : ResultKeeps (touchMask (.creditStall lane cls)) s (exec (.creditStall lane cls) s) := by
  rw [exec_creditStall]
  exact execCreditStall_keeps lane cls (Nat.or_self _) (.refl s)

theorem keeps_status (lane pathOk rxOk) (s : State) : ResultKeeps (touchMask (.status lane pathOk rxOk)) s (exec (.status lane pathOk rxOk) s) := by
  rw [exec_status]
  exact execStatus_keeps lane pathOk rxOk (Nat.or_self _) (.refl s)

theorem keeps_statusTimeout (lane) (s : State) : ResultKeeps (touchMask (.statusTimeout lane)) s (exec (.statusTimeout lane) s) := by
  rw [exec_statusTimeout]
  exact execStatusTimeout_keeps lane (Nat.or_self _) (.refl s)

theorem keeps_statusSend (lane) (s : State) : ResultKeeps (touchMask (.statusSend lane)) s (exec (.statusSend lane) s) := by
  rw [exec_statusSend]
  exact execStatusSend_keeps lane (Nat.or_self _) (.refl s)

theorem keeps_cap (lane block) (s : State) : ResultKeeps (touchMask (.cap lane block)) s (exec (.cap lane block) s) := by
  rw [exec_cap]
  exact execCap_keeps lane block (Nat.or_self _) (.refl s)

theorem keeps_time (lane seq tx rx srcValid master stratum turn) (s : State) : ResultKeeps (touchMask (.time lane seq tx rx srcValid master stratum turn)) s (exec (.time lane seq tx rx srcValid master stratum turn) s) := by
  rw [exec_time]
  exact execTime_keeps lane seq tx rx srcValid master stratum turn (Nat.or_self _) (.refl s)

theorem keeps_timeEcho (lane seq turn rx) (s : State) : ResultKeeps (touchMask (.timeEcho lane seq turn rx)) s (exec (.timeEcho lane seq turn rx) s) := by
  rw [exec_timeEcho]
  exact execTimeEcho_keeps lane seq turn rx (Nat.or_self _) (.refl s)

theorem keeps_timeSend (lane tx) (s : State) : ResultKeeps (touchMask (.timeSend lane tx)) s (exec (.timeSend lane tx) s) := by
  rw [exec_timeSend]
  exact execTimeSend_keeps lane tx (Nat.or_self _) (.refl s)

theorem keeps_flitReplay (die peer ok lost) (s : State) : ResultKeeps (touchMask (.flitReplay die peer ok lost)) s (exec (.flitReplay die peer ok lost) s) := by
  rw [exec_flitReplay]
  exact execFlitReplay_keeps die peer ok lost (Nat.or_self _) (.refl s)

theorem keeps_dieLinkIdle (die peer) (s : State) : ResultKeeps (touchMask (.dieLinkIdle die peer)) s (exec (.dieLinkIdle die peer) s) := by
  rw [exec_dieLinkIdle]
  exact execDieLinkIdle_keeps die peer (Nat.or_self _) (.refl s)

theorem keeps_dieLinkWake (die peer) (s : State) : ResultKeeps (touchMask (.dieLinkWake die peer)) s (exec (.dieLinkWake die peer) s) := by
  rw [exec_dieLinkWake]
  exact execDieLinkWake_keeps die peer (Nat.or_self _) (.refl s)

theorem keeps_blindFallback (die peer) (s : State) : ResultKeeps (touchMask (.blindFallback die peer)) s (exec (.blindFallback die peer) s) := by
  rw [exec_blindFallback]
  exact execBlindFallback_keeps die peer (Nat.or_self _) (.refl s)

theorem keeps_dieLinkOn (die peer) (s : State) : ResultKeeps (touchMask (.dieLinkOn die peer)) s (exec (.dieLinkOn die peer) s) := by
  rw [exec_dieLinkOn]
  exact execDieLinkOn_keeps die peer (Nat.or_self _) (.refl s)

theorem keeps_timeMeasurement (source offset) (s : State) : ResultKeeps (touchMask (.timeMeasurement source offset)) s (exec (.timeMeasurement source offset) s) := by
  rw [exec_timeMeasurement]
  exact execTimeMeasurement_keeps source offset (Nat.or_self _) (.refl s)

theorem keeps_sourceLost (s : State) : ResultKeeps (touchMask (.sourceLost)) s (exec (.sourceLost) s) := by
  rw [exec_sourceLost]
  exact execSourceLost_keeps (Nat.or_self _) (.refl s)

theorem keeps_timeStep (force) (s : State) : ResultKeeps (touchMask (.timeStep force)) s (exec (.timeStep force) s) := by
  rw [exec_timeStep]
  exact execTimeStep_keeps force (Nat.or_self _) (.refl s)

theorem keeps_stepApply (s : State) : ResultKeeps (touchMask (.stepApply)) s (exec (.stepApply) s) := by
  rw [exec_stepApply]
  exact execStepApply_keeps (Nat.or_self _) (.refl s)

theorem keeps_timeMeasWrite (size value) (s : State) : ResultKeeps (touchMask (.timeMeasWrite size value)) s (exec (.timeMeasWrite size value) s) := by
  rw [exec_timeMeasWrite]
  exact execTimeMeasWrite_keeps size value (Nat.or_self _) (.refl s)

theorem keeps_ppsEdge (time) (s : State) : ResultKeeps (touchMask (.ppsEdge time)) s (exec (.ppsEdge time) s) := by
  rw [exec_ppsEdge]
  exact execPpsEdge_keeps time (Nat.or_self _) (.refl s)

theorem keeps_todMessage (bytes time) (s : State) : ResultKeeps (touchMask (.todMessage bytes time)) s (exec (.todMessage bytes time) s) := by
  rw [exec_todMessage]
  exact execTodMessage_keeps bytes time (Nat.or_self _) (.refl s)

theorem keeps_ppsOut (sec) (s : State) : ResultKeeps (touchMask (.ppsOut sec)) s (exec (.ppsOut sec) s) := by
  rw [exec_ppsOut]
  exact execPpsOut_keeps sec (Nat.or_self _) (.refl s)

theorem keeps_fabTsPop (die) (s : State) : ResultKeeps (touchMask (.fabTsPop die)) s (exec (.fabTsPop die) s) := by
  rw [exec_fabTsPop]
  exact execFabTsPop_keeps die (Nat.or_self _) (.refl s)

theorem keeps_claimLive (s : State) : ResultKeeps (touchMask (.claimLive)) s (exec (.claimLive) s) := by
  rw [exec_claimLive]
  exact execClaimLive_keeps (Nat.or_self _) (.refl s)

theorem keeps_claimAbsent (s : State) : ResultKeeps (touchMask (.claimAbsent)) s (exec (.claimAbsent) s) := by
  rw [exec_claimAbsent]
  exact execClaimAbsent_keeps (Nat.or_self _) (.refl s)

theorem keeps_seize (release) (s : State) : ResultKeeps (touchMask (.seize release)) s (exec (.seize release) s) := by
  rw [exec_seize]
  exact execSeize_keeps release (Nat.or_self _) (.refl s)

theorem keeps_settleEnd (s : State) : ResultKeeps (touchMask (.settleEnd)) s (exec (.settleEnd) s) := by
  rw [exec_settleEnd]
  exact execSettleEnd_keeps (Nat.or_self _) (.refl s)

theorem keeps_doubleClaim (s : State) : ResultKeeps (touchMask (.doubleClaim)) s (exec (.doubleClaim) s) := by
  rw [exec_doubleClaim]
  exact execDoubleClaim_keeps (Nat.or_self _) (.refl s)

theorem keeps_heartbeatSend (tx) (s : State) : ResultKeeps (touchMask (.heartbeatSend tx)) s (exec (.heartbeatSend tx) s) := by
  rw [exec_heartbeatSend]
  exact execHeartbeatSend_keeps tx (Nat.or_self _) (.refl s)

theorem keeps_heartbeat (seq device active t0 echoSeq turn rx) (s : State) : ResultKeeps (touchMask (.heartbeat seq device active t0 echoSeq turn rx)) s (exec (.heartbeat seq device active t0 echoSeq turn rx) s) := by
  rw [exec_heartbeat]
  exact execHeartbeat_keeps seq device active t0 echoSeq turn rx (Nat.or_self _) (.refl s)

theorem keeps_heartbeatFailure (s : State) : ResultKeeps (touchMask (.heartbeatFailure)) s (exec (.heartbeatFailure) s) := by
  rw [exec_heartbeatFailure]
  exact execHeartbeatFailure_keeps (Nat.or_self _) (.refl s)

theorem keeps_pairHello (digest member pairDevice trees senior device) (s : State) : ResultKeeps (touchMask (.pairHello digest member pairDevice trees senior device)) s (exec (.pairHello digest member pairDevice trees senior device) s) := by
  rw [exec_pairHello]
  exact execPairHello_keeps digest member pairDevice trees senior device (Nat.or_self _) (.refl s)

theorem keeps_pairAccept (s : State) : ResultKeeps (touchMask (.pairAccept)) s (exec (.pairAccept) s) := by
  rw [exec_pairAccept]
  exact execPairAccept_keeps (Nat.or_self _) (.refl s)

theorem keeps_map (tree set frame grants) (s : State) : ResultKeeps (touchMask (.map tree set frame grants)) s (exec (.map tree set frame grants) s) := by
  rw [exec_map]
  exact execMap_keeps tree set frame grants (Nat.or_self _) (.refl s)

theorem keeps_terminal (records) (s : State) : ResultKeeps (touchMask (.terminal records)) s (exec (.terminal records) s) := by
  rw [exec_terminal]
  exact execTerminal_keeps records (Nat.or_self _) (.refl s)

theorem keeps_circuit (records) (s : State) : ResultKeeps (touchMask (.circuit records)) s (exec (.circuit records) s) := by
  rw [exec_circuit]
  exact execCircuit_keeps records (Nat.or_self _) (.refl s)

theorem keeps_health (received) (s : State) : ResultKeeps (touchMask (.health received)) s (exec (.health received) s) := by
  rw [exec_health]
  exact execHealth_keeps received (Nat.or_self _) (.refl s)

theorem keeps_autoDegrade (s : State) : ResultKeeps (touchMask (.autoDegrade)) s (exec (.autoDegrade) s) := by
  rw [exec_autoDegrade]
  exact execAutoDegrade_keeps (Nat.or_self _) (.refl s)

theorem keeps_release (frame) (s : State) : ResultKeeps (touchMask (.release frame)) s (exec (.release frame) s) := by
  rw [exec_release]
  exact execRelease_keeps frame (Nat.or_self _) (.refl s)

theorem keeps_releaseDarken (s : State) : ResultKeeps (touchMask (.releaseDarken)) s (exec (.releaseDarken) s) := by
  rw [exec_releaseDarken]
  exact execReleaseDarken_keeps (Nat.or_self _) (.refl s)

theorem keeps_calibrate (tree) (s : State) : ResultKeeps (touchMask (.calibrate tree)) s (exec (.calibrate tree) s) := by
  rw [exec_calibrate]
  exact execCalibrate_keeps tree (Nat.or_self _) (.refl s)

theorem keeps_standbyOffsetUpdate (tree) (s : State) : ResultKeeps (touchMask (.standbyOffsetUpdate tree)) s (exec (.standbyOffsetUpdate tree) s) := by
  rw [exec_standbyOffsetUpdate]
  exact execStandbyOffsetUpdate_keeps tree (Nat.or_self _) (.refl s)

theorem keeps_tweedLoadCheck (die load missed late deferrable) (s : State) : ResultKeeps (touchMask (.tweedLoadCheck die load missed late deferrable)) s (exec (.tweedLoadCheck die load missed late deferrable) s) := by
  rw [exec_tweedLoadCheck]
  exact execTweedLoadCheck_keeps die load missed late deferrable (Nat.or_self _) (.refl s)

theorem keeps_watchdog (die) (s : State) : ResultKeeps (touchMask (.watchdog die)) s (exec (.watchdog die) s) := by
  rw [exec_watchdog]
  exact execWatchdog_keeps die (Nat.or_self _) (.refl s)

theorem keeps_taskOverrun (die task fault) (s : State) : ResultKeeps (touchMask (.taskOverrun die task fault)) s (exec (.taskOverrun die task fault) s) := by
  rw [exec_taskOverrun]
  exact execTaskOverrun_keeps die task fault (Nat.or_self _) (.refl s)

theorem keeps_doorbell (die slot release) (s : State) : ResultKeeps (touchMask (.doorbell die slot release)) s (exec (.doorbell die slot release) s) := by
  rw [exec_doorbell]
  exact execDoorbell_keeps die slot release (Nat.or_self _) (.refl s)

theorem keeps_mailboxService (die reply) (s : State) : ResultKeeps (touchMask (.mailboxService die reply)) s (exec (.mailboxService die reply) s) := by
  rw [exec_mailboxService]
  exact execMailboxService_keeps die reply (Nat.or_self _) (.refl s)

theorem keeps_version (die) (s : State) : ResultKeeps (touchMask (.version die)) s (exec (.version die) s) := by
  rw [exec_version]
  exact execVersion_keeps die (Nat.or_self _) (.refl s)

theorem keeps_rotate (die tied) (s : State) : ResultKeeps (touchMask (.rotate die tied)) s (exec (.rotate die tied) s) := by
  rw [exec_rotate]
  exact execRotate_keeps die tied (Nat.or_self _) (.refl s)

theorem keeps_rotateCancel (die) (s : State) : ResultKeeps (touchMask (.rotateCancel die)) s (exec (.rotateCancel die) s) := by
  rw [exec_rotateCancel]
  exact execRotateCancel_keeps die (Nat.or_self _) (.refl s)

theorem keeps_extMsg (die reply) (s : State) : ResultKeeps (touchMask (.extMsg die reply)) s (exec (.extMsg die reply) s) := by
  rw [exec_extMsg]
  exact execExtMsg_keeps die reply (Nat.or_self _) (.refl s)

theorem keeps_interruptEntry (die firmware late) (s : State) : ResultKeeps (touchMask (.interruptEntry die firmware late)) s (exec (.interruptEntry die firmware late) s) := by
  rw [exec_interruptEntry]
  exact execInterruptEntry_keeps die firmware late (Nat.or_self _) (.refl s)

theorem keeps_resume (die firmware late) (s : State) : ResultKeeps (touchMask (.resume die firmware late)) s (exec (.resume die firmware late) s) := by
  rw [exec_resume]
  exact execResume_keeps die firmware late (Nat.or_self _) (.refl s)

theorem keeps_coreWake (die firmware) (s : State) : ResultKeeps (touchMask (.coreWake die firmware)) s (exec (.coreWake die firmware) s) := by
  rw [exec_coreWake]
  exact execCoreWake_keeps die firmware (Nat.or_self _) (.refl s)

theorem keeps_groupFire (die group) (s : State) : ResultKeeps (touchMask (.groupFire die group)) s (exec (.groupFire die group) s) := by
  rw [exec_groupFire]
  exact execGroupFire_keeps die group (Nat.or_self _) (.refl s)

theorem keeps_swset (die source) (s : State) : ResultKeeps (touchMask (.swset die source)) s (exec (.swset die source) s) := by
  rw [exec_swset]
  exact execSwset_keeps die source (Nat.or_self _) (.refl s)

theorem keeps_targetWrite (die source host target vector) (s : State) : ResultKeeps (touchMask (.targetWrite die source host target vector)) s (exec (.targetWrite die source host target vector) s) := by
  rw [exec_targetWrite]
  exact execTargetWrite_keeps die source host target vector (Nat.or_self _) (.refl s)

theorem keeps_msixDelivery (die) (s : State) : ResultKeeps (touchMask (.msixDelivery die)) s (exec (.msixDelivery die) s) := by
  rw [exec_msixDelivery]
  exact execMsixDelivery_keeps die (Nat.or_self _) (.refl s)

theorem keeps_eoi (die source) (s : State) : ResultKeeps (touchMask (.eoi die source)) s (exec (.eoi die source) s) := by
  rw [exec_eoi]
  exact execEoi_keeps die source (Nat.or_self _) (.refl s)

theorem keeps_counterFlush (die counter) (s : State) : ResultKeeps (touchMask (.counterFlush die counter)) s (exec (.counterFlush die counter) s) := by
  rw [exec_counterFlush]
  exact execCounterFlush_keeps die counter (Nat.or_self _) (.refl s)

theorem keeps_perfCntRead (die counter) (s : State) : ResultKeeps (touchMask (.perfCntRead die counter)) s (exec (.perfCntRead die counter) s) := by
  rw [exec_perfCntRead]
  exact execPerfCntRead_keeps die counter (Nat.or_self _) (.refl s)

theorem keeps_readClear (die counter) (s : State) : ResultKeeps (touchMask (.readClear die counter)) s (exec (.readClear die counter) s) := by
  rw [exec_readClear]
  exact execReadClear_keeps die counter (Nat.or_self _) (.refl s)

theorem keeps_clear (die counter) (s : State) : ResultKeeps (touchMask (.clear die counter)) s (exec (.clear die counter) s) := by
  rw [exec_clear]
  exact execClear_keeps die counter (Nat.or_self _) (.refl s)

theorem keeps_snapshotArm (s : State) : ResultKeeps (touchMask (.snapshotArm)) s (exec (.snapshotArm) s) := by
  rw [exec_snapshotArm]
  exact execSnapshotArm_keeps (Nat.or_self _) (.refl s)

theorem keeps_snapshotCancel (s : State) : ResultKeeps (touchMask (.snapshotCancel)) s (exec (.snapshotCancel) s) := by
  rw [exec_snapshotCancel]
  exact execSnapshotCancel_keeps (Nat.or_self _) (.refl s)

theorem keeps_snapshotEpoch (s : State) : ResultKeeps (touchMask (.snapshotEpoch)) s (exec (.snapshotEpoch) s) := by
  rw [exec_snapshotEpoch]
  exact execSnapshotEpoch_keeps (Nat.or_self _) (.refl s)

theorem keeps_snapshotDieDone (die copyNs) (s : State) : ResultKeeps (touchMask (.snapshotDieDone die copyNs)) s (exec (.snapshotDieDone die copyNs) s) := by
  rw [exec_snapshotDieDone]
  exact execSnapshotDieDone_keeps die copyNs (Nat.or_self _) (.refl s)

theorem keeps_traceRecord (die record throttled) (s : State) : ResultKeeps (touchMask (.traceRecord die record throttled)) s (exec (.traceRecord die record throttled) s) := by
  rw [exec_traceRecord]
  exact execTraceRecord_keeps die record throttled (Nat.or_self _) (.refl s)

theorem keeps_bandwidthWindow (die window) (s : State) : ResultKeeps (touchMask (.bandwidthWindow die window)) s (exec (.bandwidthWindow die window) s) := by
  rw [exec_bandwidthWindow]
  exact execBandwidthWindow_keeps die window (Nat.or_self _) (.refl s)

theorem keeps_sentinelInterval (die readings) (s : State) : ResultKeeps (touchMask (.sentinelInterval die readings)) s (exec (.sentinelInterval die readings) s) := by
  rw [exec_sentinelInterval]
  exact execSentinelInterval_keeps die readings (Nat.or_self _) (.refl s)

theorem keeps_telemetryRecord (die power skipped) (s : State) : ResultKeeps (touchMask (.telemetryRecord die power skipped)) s (exec (.telemetryRecord die power skipped) s) := by
  rw [exec_telemetryRecord]
  exact execTelemetryRecord_keeps die power skipped (Nat.or_self _) (.refl s)

theorem keeps_eventLog (die origin source) (s : State) : ResultKeeps (touchMask (.eventLog die origin source)) s (exec (.eventLog die origin source) s) := by
  rw [exec_eventLog]
  exact execEventLog_keeps die origin source (Nat.or_self _) (.refl s)

theorem keeps_sramScrub (die uncorrectable) (s : State) : ResultKeeps (touchMask (.sramScrub die uncorrectable)) s (exec (.sramScrub die uncorrectable) s) := by
  rw [exec_sramScrub]
  exact execSramScrub_keeps die uncorrectable (Nat.or_self _) (.refl s)

theorem keeps_mramScrub (die flaw) (s : State) : ResultKeeps (touchMask (.mramScrub die flaw)) s (exec (.mramScrub die flaw) s) := by
  rw [exec_mramScrub]
  exact execMramScrub_keeps die flaw (Nat.or_self _) (.refl s)

theorem keeps_bgLag (die activity lag) (s : State) : ResultKeeps (touchMask (.bgLag die activity lag)) s (exec (.bgLag die activity lag) s) := by
  rw [exec_bgLag]
  exact execBgLag_keeps die activity lag (Nat.or_self _) (.refl s)

theorem keeps_table (chan desc record tied) (s : State) : ResultKeeps (touchMask (.table chan desc record tied)) s (exec (.table chan desc record tied) s) := by
  rw [exec_table]
  exact execTable_keeps chan desc record tied (Nat.or_self _) (.refl s)

theorem keeps_stage (chan desc bytes) (s : State) : ResultKeeps (touchMask (.stage chan desc bytes)) s (exec (.stage chan desc bytes) s) := by
  rw [exec_stage]
  exact execStage_keeps chan desc bytes (Nat.or_self _) (.refl s)

theorem keeps_devRead (chan desc) (s : State) : ResultKeeps (touchMask (.devRead chan desc)) s (exec (.devRead chan desc) s) := by
  rw [exec_devRead]
  exact execDevRead_keeps chan desc (Nat.or_self _) (.refl s)

theorem keeps_omciTx (chan desc bytes) (s : State) : ResultKeeps (touchMask (.omciTx chan desc bytes)) s (exec (.omciTx chan desc bytes) s) := by
  rw [exec_omciTx]
  exact execOmciTx_keeps chan desc bytes (Nat.or_self _) (.refl s)

theorem keeps_rxBuffer (chan desc) (s : State) : ResultKeeps (touchMask (.rxBuffer chan desc)) s (exec (.rxBuffer chan desc) s) := by
  rw [exec_rxBuffer]
  exact execRxBuffer_keeps chan desc (Nat.or_self _) (.refl s)

theorem keeps_rxMessage (message at0) (s : State) : ResultKeeps (touchMask (.rxMessage message at0)) s (exec (.rxMessage message at0) s) := by
  rw [exec_rxMessage]
  exact execRxMessage_keeps message at0 (Nat.or_self _) (.refl s)

theorem keeps_dmaError (chan failed) (s : State) : ResultKeeps (touchMask (.dmaError chan failed)) s (exec (.dmaError chan failed) s) := by
  rw [exec_dmaError]
  exact execDmaError_keeps chan failed (Nat.or_self _) (.refl s)

theorem keeps_bar2Read (who off size) (s : State) : ResultKeeps (touchMask (.bar2Read who off size)) s (exec (.bar2Read who off size) s) := by
  rw [exec_bar2Read]
  exact execBar2Read_keeps who off size (Nat.or_self _) (.refl s)

theorem keeps_bar2Write (who off bytes) (s : State) : ResultKeeps (touchMask (.bar2Write who off bytes)) s (exec (.bar2Write who off bytes) s) := by
  rw [exec_bar2Write]
  exact execBar2Write_keeps who off bytes (Nat.or_self _) (.refl s)

theorem keeps_coldReset (s : State) : ResultKeeps (touchMask (.coldReset)) s (exec (.coldReset) s) := by
  rw [exec_coldReset]
  exact execColdReset_keeps (Nat.or_self _) (.refl s)

theorem keeps_packageReset (cause) (s : State) : ResultKeeps (touchMask (.packageReset cause)) s (exec (.packageReset cause) s) := by
  rw [exec_packageReset]
  exact execPackageReset_keeps cause (Nat.or_self _) (.refl s)

theorem keeps_resetPackage (key) (s : State) : ResultKeeps (touchMask (.resetPackage key)) s (exec (.resetPackage key) s) := by
  rw [exec_resetPackage]
  exact execResetPackage_keeps key (Nat.or_self _) (.refl s)

theorem keeps_perst (asserted) (s : State) : ResultKeeps (touchMask (.perst asserted)) s (exec (.perst asserted) s) := by
  rw [exec_perst]
  exact execPerst_keeps asserted (Nat.or_self _) (.refl s)

theorem keeps_hostInterfaceReset (s : State) : ResultKeeps (touchMask (.hostInterfaceReset)) s (exec (.hostInterfaceReset) s) := by
  rw [exec_hostInterfaceReset]
  exact execHostInterfaceReset_keeps (Nat.or_self _) (.refl s)

theorem keeps_startup (ms untrained) (s : State) : ResultKeeps (touchMask (.startup ms untrained)) s (exec (.startup ms untrained) s) := by
  rw [exec_startup]
  exact execStartup_keeps ms untrained (Nat.or_self _) (.refl s)

theorem keeps_supplySupervision (vin iin pin) (s : State) : ResultKeeps (touchMask (.supplySupervision vin iin pin)) s (exec (.supplySupervision vin iin pin) s) := by
  rw [exec_supplySupervision]
  exact execSupplySupervision_keeps vin iin pin (Nat.or_self _) (.refl s)

theorem keeps_supplyFault (steps) (s : State) : ResultKeeps (touchMask (.supplyFault steps)) s (exec (.supplyFault steps) s) := by
  rw [exec_supplyFault]
  exact execSupplyFault_keeps steps (Nat.or_self _) (.refl s)

theorem keeps_governorStep (die request) (s : State) : ResultKeeps (touchMask (.governorStep die request)) s (exec (.governorStep die request) s) := by
  rw [exec_governorStep]
  exact execGovernorStep_keeps die request (Nat.or_self _) (.refl s)

theorem keeps_junctionThermal (die readings package cool) (s : State) : ResultKeeps (touchMask (.junctionThermal die readings package cool)) s (exec (.junctionThermal die readings package cool) s) := by
  rw [exec_junctionThermal]
  exact execJunctionThermal_keeps die readings package cool (Nat.or_self _) (.refl s)

theorem keeps_diePowerDown (die trip) (s : State) : ResultKeeps (touchMask (.diePowerDown die trip)) s (exec (.diePowerDown die trip) s) := by
  rw [exec_diePowerDown]
  exact execDiePowerDown_keeps die trip (Nat.or_self _) (.refl s)

theorem keeps_dieRestart (die) (s : State) : ResultKeeps (touchMask (.dieRestart die)) s (exec (.dieRestart die) s) := by
  rw [exec_dieRestart]
  exact execDieRestart_keeps die (Nat.or_self _) (.refl s)

theorem keeps_muteSuppressionEnd (tree) (s : State) : ResultKeeps (touchMask (.muteSuppressionEnd tree)) s (exec (.muteSuppressionEnd tree) s) := by
  rw [exec_muteSuppressionEnd]
  exact execMuteSuppressionEnd_keeps tree (Nat.or_self _) (.refl s)

theorem keeps_flowSend (lane) (s : State) : ResultKeeps (touchMask (.flowSend lane)) s (exec (.flowSend lane) s) := by
  rw [exec_flowSend]
  exact execFlowSend_keeps lane (Nat.or_self _) (.refl s)

/-- Every command goes on; none changes the part's identity, the queue or what has left the part, none breaks the canonical form, and none changes what its set does not
name. -/
theorem exec_keeps (c : Instr) (s : State) : ResultKeeps (touchMask c) s (exec c s) := by
  cases c with
  | registerWrite who off size value during => exact keeps_registerWrite who off size value during s
  | unmappedAccess who off size write => exact keeps_unmappedAccess who off size write s
  | shadowRead who off size => exact keeps_shadowRead who off size s
  | timeNowRead who size => exact keeps_timeNowRead who size s
  | unitEnableRequest unit on => exact keeps_unitEnableRequest unit on s
  | unitPhaseDone unit => exact keeps_unitPhaseDone unit s
  | secondLatch sec => exact keeps_secondLatch sec s
  | tableUpdateApply die => exact keeps_tableUpdateApply die s
  | orderStall die => exact keeps_orderStall die s
  | downstreamFrameStart tree set at0 => exact keeps_downstreamFrameStart tree set at0 s
  | lateMap tree set => exact keeps_lateMap tree set s
  | ploamRingSample tree set => exact keeps_ploamRingSample tree set s
  | dsUnderrun tree set come => exact keeps_dsUnderrun tree set come s
  | stageBegin slot => exact keeps_stageBegin slot s
  | stageEnd => exact keeps_stageEnd s
  | select slot trial => exact keeps_select slot trial s
  | confirm => exact keeps_confirm s
  | weave => exact keeps_weave s
  | weaveDone die => exact keeps_weaveDone die s
  | treeReweave tree slot => exact keeps_treeReweave tree slot s
  | reweaveSectionsLoaded => exact keeps_reweaveSectionsLoaded s
  | reweaveComplete => exact keeps_reweaveComplete s
  | dmkStageData offset bytes => exact keeps_dmkStageData offset bytes s
  | mramRecordCommit die => exact keeps_mramRecordCommit die s
  | pageReclaim die => exact keeps_pageReclaim die s
  | recordRotation die => exact keeps_recordRotation die s
  | secLockSet mask => exact keeps_secLockSet mask s
  | dbgNonceRequest => exact keeps_dbgNonceRequest s
  | dbgPasswordAttempt own elapsed => exact keeps_dbgPasswordAttempt own elapsed s
  | dbgSignedAttempt own elapsed => exact keeps_dbgSignedAttempt own elapsed s
  | dbgSetPassword own => exact keeps_dbgSetPassword own s
  | nonceExpiry => exact keeps_nonceExpiry s
  | opticsStart tree => exact keeps_opticsStart tree s
  | opticsLit tree => exact keeps_opticsLit tree s
  | txDarkAtShutdown tree => exact keeps_txDarkAtShutdown tree s
  | laserPark tree => exact keeps_laserPark tree s
  | txCalibration tree set => exact keeps_txCalibration tree set s
  | laserAgeingCheck tree set => exact keeps_laserAgeingCheck tree set s
  | txMuteSet tree => exact keeps_txMuteSet tree s
  | txMuteClear tree => exact keeps_txMuteClear tree s
  | txLol tree set => exact keeps_txLol tree set s
  | txRelock tree set => exact keeps_txRelock tree set s
  | contextSwap tree set => exact keeps_contextSwap tree set s
  | burstReceive tree set burst => exact keeps_burstReceive tree set burst s
  | upstreamFrameEnd tree set samples => exact keeps_upstreamFrameEnd tree set samples s
  | rxLol tree set => exact keeps_rxLol tree set s
  | rxLolClear tree set => exact keeps_rxLolClear tree set s
  | rxTermClear tree terminal => exact keeps_rxTermClear tree terminal s
  | errorInject unit passed place => exact keeps_errorInject unit passed place s
  | oneShotInject unit place => exact keeps_oneShotInject unit place s
  | patternCheckerLock unit terminal good => exact keeps_patternCheckerLock unit terminal good s
  | optTxRefresh tree set power bias wave temp => exact keeps_optTxRefresh tree set power bias wave temp s
  | quietWindowOpen tree set => exact keeps_quietWindowOpen tree set s
  | quietForce tree => exact keeps_quietForce tree s
  | serialNumberFound tree set arrival delay serial => exact keeps_serialNumberFound tree set arrival delay serial s
  | rangingGrantResult tree terminal => exact keeps_rangingGrantResult tree terminal s
  | chiffonParams tree => exact keeps_chiffonParams tree s
  | signatureDetection tree code lag frames => exact keeps_signatureDetection tree code lag frames s
  | chiffonInvite tree place frame => exact keeps_chiffonInvite tree place frame s
  | microWindowResult tree place => exact keeps_microWindowResult tree place s
  | admitWaitExpiry tree terminal => exact keeps_admitWaitExpiry tree terminal s
  | chiffonHold tree terminal => exact keeps_chiffonHold tree terminal s
  | assignOnuId tree terminal => exact keeps_assignOnuId tree terminal s
  | assignAllocId tree allocation => exact keeps_assignAllocId tree allocation s
  | stepMissed tree terminal step => exact keeps_stepMissed tree terminal step s
  | driftCorrection tree terminal => exact keeps_driftCorrection tree terminal s
  | terminalLost tree terminal => exact keeps_terminalLost tree terminal s
  | admitTerminal tree terminal onuId => exact keeps_admitTerminal tree terminal onuId s
  | deny tree terminal => exact keeps_deny tree terminal s
  | rerange tree terminal => exact keeps_rerange tree terminal s
  | deactivate tree terminal => exact keeps_deactivate tree terminal s
  | free tree terminal => exact keeps_free tree terminal s
  | mapBuild tree set buildNs flagged => exact keeps_mapBuild tree set buildNs flagged s
  | statusReportDecode tree allocation backlog frame => exact keeps_statusReportDecode tree allocation backlog frame s
  | contextRingWrite tree set => exact keeps_contextRingWrite tree set s
  | grantAccRead die target tree index list => exact keeps_grantAccRead die target tree index list s
  | grantAccWrite die target tree index list => exact keeps_grantAccWrite die target tree index list s
  | writeReset die target tree index => exact keeps_writeReset die target tree index s
  | gateBankSwap die list => exact keeps_gateBankSwap die list s
  | resvMicroWindow tree set onuId frameLow => exact keeps_resvMicroWindow tree set onuId frameLow s
  | resvRangingGrant tree set onuId frameLow units profile => exact keeps_resvRangingGrant tree set onuId frameLow units profile s
  | resvQuietWindow tree set frameLow => exact keeps_resvQuietWindow tree set frameLow s
  | containerBuild circuit => exact keeps_containerBuild circuit s
  | containerMissing circuit => exact keeps_containerMissing circuit s
  | cePacketReceive die => exact keeps_cePacketReceive die s
  | containerReceive circuit => exact keeps_containerReceive circuit s
  | groupRelease die group => exact keeps_groupRelease die group s
  | circAccRead die group index => exact keeps_circAccRead die group index s
  | circAccWrite die group index => exact keeps_circAccWrite die group index s
  | circuitEnable die index => exact keeps_circuitEnable die index s
  | circuitDisable die index => exact keeps_circuitDisable die index s
  | fabricFrameReceive lane bytes sec => exact keeps_fabricFrameReceive lane bytes sec s
  | frameAdmit die => exact keeps_frameAdmit die s
  | queueRelease die up port => exact keeps_queueRelease die up port s
  | fabricFrameTransmit lane cls ptp => exact keeps_fabricFrameTransmit lane cls ptp s
  | feltRelease die port => exact keeps_feltRelease die port s
  | portHoldCause die port cause => exact keeps_portHoldCause die port cause s
  | portResume die port => exact keeps_portResume die port s
  | portAvailable die port => exact keeps_portAvailable die port s
  | tmSampleWindow die => exact keeps_tmSampleWindow die s
  | tmAccRead die target index => exact keeps_tmAccRead die target index s
  | tmAccWrite die target index => exact keeps_tmAccWrite die target index s
  | classRuleRead die ternary index => exact keeps_classRuleRead die ternary index s
  | ternaryWrite die index => exact keeps_ternaryWrite die index s
  | exactInsert die => exact keeps_exactInsert die s
  | exactReplace die => exact keeps_exactReplace die s
  | exactDelete die => exact keeps_exactDelete die s
  | meterRead die meter => exact keeps_meterRead die meter s
  | meterWrite die meter keep => exact keeps_meterWrite die meter keep s
  | tableInsert chan addr entry expect tied => exact keeps_tableInsert chan addr entry expect tied s
  | tableReplace chan addr entry expect tied => exact keeps_tableReplace chan addr entry expect tied s
  | tableDelete chan addr entry expect tied => exact keeps_tableDelete chan addr entry expect tied s
  | tableLock chan addr bucket second => exact keeps_tableLock chan addr bucket second s
  | tableUnlock chan addr => exact keeps_tableUnlock chan addr s
  | writeSlot chan addr bucket slot entry expect => exact keeps_writeSlot chan addr bucket slot entry expect s
  | ageBucket => exact keeps_ageBucket s
  | lockExpiry chan => exact keeps_lockExpiry chan s
  | keyLoad host die assoc index wrapped kek tied => exact keeps_keyLoad host die assoc index wrapped kek tied s
  | keyErase host die assoc index tied => exact keeps_keyErase host die assoc index tied s
  | keySwitch host die localTree linePort tied => exact keeps_keySwitch host die localTree linePort tied s
  | keyRead host die assoc index tied => exact keeps_keyRead host die assoc index tied s
  | kekLoad host die kek => exact keeps_kekLoad host die kek s
  | switchCheck => exact keeps_switchCheck s
  | keyExpiry die slot => exact keeps_keyExpiry die slot s
  | starvedResume tree linePort => exact keeps_starvedResume tree linePort s
  | lpBindWrite tree linePort keyPair encrypt txSc => exact keeps_lpBindWrite tree linePort keyPair encrypt txSc s
  | msecRead die assoc index => exact keeps_msecRead die assoc index s
  | msecChannelWrite die channel => exact keeps_msecChannelWrite die channel s
  | arm die association => exact keeps_arm die association s
  | refreshInterval die channel events => exact keeps_refreshInterval die channel events s
  | stackTempCrossing die channel temp => exact keeps_stackTempCrossing die channel temp s
  | stackThermalResponse die temp => exact keeps_stackThermalResponse die temp s
  | stackRestart die cool => exact keeps_stackRestart die cool s
  | rowDisturb die channel bank row requester domain => exact keeps_rowDisturb die channel bank row requester domain s
  | throttleEnd die requester channel => exact keeps_throttleEnd die requester channel s
  | eccCorrect die offset requester correctable owner => exact keeps_eccCorrect die offset requester correctable owner s
  | patrolScrub die age => exact keeps_patrolScrub die age s
  | channelRetune die channel training => exact keeps_channelRetune die channel training s
  | channelRetrain die channel training lost => exact keeps_channelRetrain die channel training lost s
  | channelRetire die channel lost => exact keeps_channelRetire die channel lost s
  | memRetrain die channel => exact keeps_memRetrain die channel s
  | memRetire die channel lost => exact keeps_memRetire die channel lost s
  | memRestart die cool => exact keeps_memRestart die cool s
  | laneOn lane => exact keeps_laneOn lane s
  | laneFail lane los cdrLock => exact keeps_laneFail lane los cdrLock s
  | commaLock lane block => exact keeps_commaLock lane block s
  | kolkanCellReceive lane header payload => exact keeps_kolkanCellReceive lane header payload s
  | controlBlockBad lane block => exact keeps_controlBlockBad lane block s
  | flow lane credits => exact keeps_flow lane credits s
  | abort lane cls => exact keeps_abort lane cls s
  | creditStall lane cls => exact keeps_creditStall lane cls s
  | status lane pathOk rxOk => exact keeps_status lane pathOk rxOk s
  | statusTimeout lane => exact keeps_statusTimeout lane s
  | statusSend lane => exact keeps_statusSend lane s
  | cap lane block => exact keeps_cap lane block s
  | time lane seq tx rx srcValid master stratum turn => exact keeps_time lane seq tx rx srcValid master stratum turn s
  | timeEcho lane seq turn rx => exact keeps_timeEcho lane seq turn rx s
  | timeSend lane tx => exact keeps_timeSend lane tx s
  | flitReplay die peer ok lost => exact keeps_flitReplay die peer ok lost s
  | dieLinkIdle die peer => exact keeps_dieLinkIdle die peer s
  | dieLinkWake die peer => exact keeps_dieLinkWake die peer s
  | blindFallback die peer => exact keeps_blindFallback die peer s
  | dieLinkOn die peer => exact keeps_dieLinkOn die peer s
  | timeMeasurement source offset => exact keeps_timeMeasurement source offset s
  | sourceLost => exact keeps_sourceLost s
  | timeStep force => exact keeps_timeStep force s
  | stepApply => exact keeps_stepApply s
  | timeMeasWrite size value => exact keeps_timeMeasWrite size value s
  | ppsEdge time => exact keeps_ppsEdge time s
  | todMessage bytes time => exact keeps_todMessage bytes time s
  | ppsOut sec => exact keeps_ppsOut sec s
  | fabTsPop die => exact keeps_fabTsPop die s
  | claimLive => exact keeps_claimLive s
  | claimAbsent => exact keeps_claimAbsent s
  | seize release => exact keeps_seize release s
  | settleEnd => exact keeps_settleEnd s
  | doubleClaim => exact keeps_doubleClaim s
  | heartbeatSend tx => exact keeps_heartbeatSend tx s
  | heartbeat seq device active t0 echoSeq turn rx => exact keeps_heartbeat seq device active t0 echoSeq turn rx s
  | heartbeatFailure => exact keeps_heartbeatFailure s
  | pairHello digest member pairDevice trees senior device => exact keeps_pairHello digest member pairDevice trees senior device s
  | pairAccept => exact keeps_pairAccept s
  | map tree set frame grants => exact keeps_map tree set frame grants s
  | terminal records => exact keeps_terminal records s
  | circuit records => exact keeps_circuit records s
  | health received => exact keeps_health received s
  | autoDegrade => exact keeps_autoDegrade s
  | release frame => exact keeps_release frame s
  | releaseDarken => exact keeps_releaseDarken s
  | calibrate tree => exact keeps_calibrate tree s
  | standbyOffsetUpdate tree => exact keeps_standbyOffsetUpdate tree s
  | tweedLoadCheck die load missed late deferrable => exact keeps_tweedLoadCheck die load missed late deferrable s
  | watchdog die => exact keeps_watchdog die s
  | taskOverrun die task fault => exact keeps_taskOverrun die task fault s
  | doorbell die slot release => exact keeps_doorbell die slot release s
  | mailboxService die reply => exact keeps_mailboxService die reply s
  | version die => exact keeps_version die s
  | rotate die tied => exact keeps_rotate die tied s
  | rotateCancel die => exact keeps_rotateCancel die s
  | extMsg die reply => exact keeps_extMsg die reply s
  | interruptEntry die firmware late => exact keeps_interruptEntry die firmware late s
  | resume die firmware late => exact keeps_resume die firmware late s
  | coreWake die firmware => exact keeps_coreWake die firmware s
  | groupFire die group => exact keeps_groupFire die group s
  | swset die source => exact keeps_swset die source s
  | targetWrite die source host target vector => exact keeps_targetWrite die source host target vector s
  | msixDelivery die => exact keeps_msixDelivery die s
  | eoi die source => exact keeps_eoi die source s
  | counterFlush die counter => exact keeps_counterFlush die counter s
  | perfCntRead die counter => exact keeps_perfCntRead die counter s
  | readClear die counter => exact keeps_readClear die counter s
  | clear die counter => exact keeps_clear die counter s
  | snapshotArm => exact keeps_snapshotArm s
  | snapshotCancel => exact keeps_snapshotCancel s
  | snapshotEpoch => exact keeps_snapshotEpoch s
  | snapshotDieDone die copyNs => exact keeps_snapshotDieDone die copyNs s
  | traceRecord die record throttled => exact keeps_traceRecord die record throttled s
  | bandwidthWindow die window => exact keeps_bandwidthWindow die window s
  | sentinelInterval die readings => exact keeps_sentinelInterval die readings s
  | telemetryRecord die power skipped => exact keeps_telemetryRecord die power skipped s
  | eventLog die origin source => exact keeps_eventLog die origin source s
  | sramScrub die uncorrectable => exact keeps_sramScrub die uncorrectable s
  | mramScrub die flaw => exact keeps_mramScrub die flaw s
  | bgLag die activity lag => exact keeps_bgLag die activity lag s
  | table chan desc record tied => exact keeps_table chan desc record tied s
  | stage chan desc bytes => exact keeps_stage chan desc bytes s
  | devRead chan desc => exact keeps_devRead chan desc s
  | omciTx chan desc bytes => exact keeps_omciTx chan desc bytes s
  | rxBuffer chan desc => exact keeps_rxBuffer chan desc s
  | rxMessage message at0 => exact keeps_rxMessage message at0 s
  | dmaError chan failed => exact keeps_dmaError chan failed s
  | bar2Read who off size => exact keeps_bar2Read who off size s
  | bar2Write who off bytes => exact keeps_bar2Write who off bytes s
  | coldReset => exact keeps_coldReset s
  | packageReset cause => exact keeps_packageReset cause s
  | resetPackage key => exact keeps_resetPackage key s
  | perst asserted => exact keeps_perst asserted s
  | hostInterfaceReset => exact keeps_hostInterfaceReset s
  | startup ms untrained => exact keeps_startup ms untrained s
  | supplySupervision vin iin pin => exact keeps_supplySupervision vin iin pin s
  | supplyFault steps => exact keeps_supplyFault steps s
  | governorStep die request => exact keeps_governorStep die request s
  | junctionThermal die readings package cool => exact keeps_junctionThermal die readings package cool s
  | diePowerDown die trip => exact keeps_diePowerDown die trip s
  | dieRestart die => exact keeps_dieRestart die s
  | muteSuppressionEnd tree => exact keeps_muteSuppressionEnd tree s
  | flowSend lane => exact keeps_flowSend lane s

/-- A next state of exec. -/
theorem exec_next_keeps {c : Instr} {s t : State} (h : exec c s = .next t) : Keeps (touchMask c) s t := by
  obtain ⟨u, e, k⟩ := exec_keeps c s
  rw [h] at e
  cases e
  exact k

/-- Every command goes on. -/
theorem exec_goes_on (c : Instr) (s : State) : ∃ t, exec c s = .next t := by
  obtain ⟨t, e, _⟩ := exec_keeps c s
  exact ⟨t, e⟩

/-- A set of bits names no word and no part that the two lists leave out. -/
def within (m : Nat) (e : Option (List Field) × List Part) : Bool :=
  (match e.1 with
    | none => true
    | some fs => !m.testBit 351 && (List.range 251).all fun i =>
        !m.testBit (100 + i) || fs.any fun f => fieldWords[i]? == some (f.num / 64))
    && everyPart.all fun p => !m.testBit p.bit || e.2.contains p

theorem within_registerWrite (who off size value during) : within (touchMask (.registerWrite who off size value during)) (mayChange (.registerWrite who off size value during)) = true := by
  conv in touchMask _ => whnf
  conv in mayChange _ => whnf
  decide +kernel

theorem within_unmappedAccess (who off size write) : within (touchMask (.unmappedAccess who off size write)) (mayChange (.unmappedAccess who off size write)) = true := by
  conv in touchMask _ => whnf
  conv in mayChange _ => whnf
  decide +kernel

theorem within_shadowRead (who off size) : within (touchMask (.shadowRead who off size)) (mayChange (.shadowRead who off size)) = true := by
  conv in touchMask _ => whnf
  conv in mayChange _ => whnf
  decide +kernel

theorem within_timeNowRead (who size) : within (touchMask (.timeNowRead who size)) (mayChange (.timeNowRead who size)) = true := by
  conv in touchMask _ => whnf
  conv in mayChange _ => whnf
  decide +kernel

theorem within_unitEnableRequest (unit on) : within (touchMask (.unitEnableRequest unit on)) (mayChange (.unitEnableRequest unit on)) = true := by
  conv in touchMask _ => whnf
  conv in mayChange _ => whnf
  decide +kernel

theorem within_unitPhaseDone (unit) : within (touchMask (.unitPhaseDone unit)) (mayChange (.unitPhaseDone unit)) = true := by
  conv in touchMask _ => whnf
  conv in mayChange _ => whnf
  decide +kernel

theorem within_secondLatch (sec) : within (touchMask (.secondLatch sec)) (mayChange (.secondLatch sec)) = true := by
  conv in touchMask _ => whnf
  conv in mayChange _ => whnf
  decide +kernel

theorem within_tableUpdateApply (die) : within (touchMask (.tableUpdateApply die)) (mayChange (.tableUpdateApply die)) = true := by
  conv in touchMask _ => whnf
  conv in mayChange _ => whnf
  decide +kernel

theorem within_orderStall (die) : within (touchMask (.orderStall die)) (mayChange (.orderStall die)) = true := by
  conv in touchMask _ => whnf
  conv in mayChange _ => whnf
  decide +kernel

theorem within_downstreamFrameStart (tree set at0) : within (touchMask (.downstreamFrameStart tree set at0)) (mayChange (.downstreamFrameStart tree set at0)) = true := by
  conv in touchMask _ => whnf
  conv in mayChange _ => whnf
  decide +kernel

theorem within_lateMap (tree set) : within (touchMask (.lateMap tree set)) (mayChange (.lateMap tree set)) = true := by
  conv in touchMask _ => whnf
  conv in mayChange _ => whnf
  decide +kernel

theorem within_ploamRingSample (tree set) : within (touchMask (.ploamRingSample tree set)) (mayChange (.ploamRingSample tree set)) = true := by
  conv in touchMask _ => whnf
  conv in mayChange _ => whnf
  decide +kernel

theorem within_dsUnderrun (tree set come) : within (touchMask (.dsUnderrun tree set come)) (mayChange (.dsUnderrun tree set come)) = true := by
  conv in touchMask _ => whnf
  conv in mayChange _ => whnf
  decide +kernel

theorem within_stageBegin (slot) : within (touchMask (.stageBegin slot)) (mayChange (.stageBegin slot)) = true := by
  conv in touchMask _ => whnf
  conv in mayChange _ => whnf
  decide +kernel

theorem within_stageEnd : within (touchMask (.stageEnd)) (mayChange (.stageEnd)) = true := by
  conv in touchMask _ => whnf
  conv in mayChange _ => whnf
  decide +kernel

theorem within_select (slot trial) : within (touchMask (.select slot trial)) (mayChange (.select slot trial)) = true := by
  conv in touchMask _ => whnf
  conv in mayChange _ => whnf
  decide +kernel

theorem within_confirm : within (touchMask (.confirm)) (mayChange (.confirm)) = true := by
  conv in touchMask _ => whnf
  conv in mayChange _ => whnf
  decide +kernel

theorem within_weave : within (touchMask (.weave)) (mayChange (.weave)) = true := by
  conv in touchMask _ => whnf
  conv in mayChange _ => whnf
  decide +kernel

theorem within_weaveDone (die) : within (touchMask (.weaveDone die)) (mayChange (.weaveDone die)) = true := by
  conv in touchMask _ => whnf
  conv in mayChange _ => whnf
  decide +kernel

theorem within_treeReweave (tree slot) : within (touchMask (.treeReweave tree slot)) (mayChange (.treeReweave tree slot)) = true := by
  conv in touchMask _ => whnf
  conv in mayChange _ => whnf
  decide +kernel

theorem within_reweaveSectionsLoaded : within (touchMask (.reweaveSectionsLoaded)) (mayChange (.reweaveSectionsLoaded)) = true := by
  conv in touchMask _ => whnf
  conv in mayChange _ => whnf
  decide +kernel

theorem within_reweaveComplete : within (touchMask (.reweaveComplete)) (mayChange (.reweaveComplete)) = true := by
  conv in touchMask _ => whnf
  conv in mayChange _ => whnf
  decide +kernel

theorem within_dmkStageData (offset bytes) : within (touchMask (.dmkStageData offset bytes)) (mayChange (.dmkStageData offset bytes)) = true := by
  conv in touchMask _ => whnf
  conv in mayChange _ => whnf
  decide +kernel

theorem within_mramRecordCommit (die) : within (touchMask (.mramRecordCommit die)) (mayChange (.mramRecordCommit die)) = true := by
  conv in touchMask _ => whnf
  conv in mayChange _ => whnf
  decide +kernel

theorem within_pageReclaim (die) : within (touchMask (.pageReclaim die)) (mayChange (.pageReclaim die)) = true := by
  conv in touchMask _ => whnf
  conv in mayChange _ => whnf
  decide +kernel

theorem within_recordRotation (die) : within (touchMask (.recordRotation die)) (mayChange (.recordRotation die)) = true := by
  conv in touchMask _ => whnf
  conv in mayChange _ => whnf
  decide +kernel

theorem within_secLockSet (mask) : within (touchMask (.secLockSet mask)) (mayChange (.secLockSet mask)) = true := by
  conv in touchMask _ => whnf
  conv in mayChange _ => whnf
  decide +kernel

theorem within_dbgNonceRequest : within (touchMask (.dbgNonceRequest)) (mayChange (.dbgNonceRequest)) = true := by
  conv in touchMask _ => whnf
  conv in mayChange _ => whnf
  decide +kernel

theorem within_dbgPasswordAttempt (own elapsed) : within (touchMask (.dbgPasswordAttempt own elapsed)) (mayChange (.dbgPasswordAttempt own elapsed)) = true := by
  conv in touchMask _ => whnf
  conv in mayChange _ => whnf
  decide +kernel

theorem within_dbgSignedAttempt (own elapsed) : within (touchMask (.dbgSignedAttempt own elapsed)) (mayChange (.dbgSignedAttempt own elapsed)) = true := by
  conv in touchMask _ => whnf
  conv in mayChange _ => whnf
  decide +kernel

theorem within_dbgSetPassword (own) : within (touchMask (.dbgSetPassword own)) (mayChange (.dbgSetPassword own)) = true := by
  conv in touchMask _ => whnf
  conv in mayChange _ => whnf
  decide +kernel

theorem within_nonceExpiry : within (touchMask (.nonceExpiry)) (mayChange (.nonceExpiry)) = true := by
  conv in touchMask _ => whnf
  conv in mayChange _ => whnf
  decide +kernel

theorem within_opticsStart (tree) : within (touchMask (.opticsStart tree)) (mayChange (.opticsStart tree)) = true := by
  conv in touchMask _ => whnf
  conv in mayChange _ => whnf
  decide +kernel

theorem within_opticsLit (tree) : within (touchMask (.opticsLit tree)) (mayChange (.opticsLit tree)) = true := by
  conv in touchMask _ => whnf
  conv in mayChange _ => whnf
  decide +kernel

theorem within_txDarkAtShutdown (tree) : within (touchMask (.txDarkAtShutdown tree)) (mayChange (.txDarkAtShutdown tree)) = true := by
  conv in touchMask _ => whnf
  conv in mayChange _ => whnf
  decide +kernel

theorem within_laserPark (tree) : within (touchMask (.laserPark tree)) (mayChange (.laserPark tree)) = true := by
  conv in touchMask _ => whnf
  conv in mayChange _ => whnf
  decide +kernel

theorem within_txCalibration (tree set) : within (touchMask (.txCalibration tree set)) (mayChange (.txCalibration tree set)) = true := by
  conv in touchMask _ => whnf
  conv in mayChange _ => whnf
  decide +kernel

theorem within_laserAgeingCheck (tree set) : within (touchMask (.laserAgeingCheck tree set)) (mayChange (.laserAgeingCheck tree set)) = true := by
  conv in touchMask _ => whnf
  conv in mayChange _ => whnf
  decide +kernel

theorem within_txMuteSet (tree) : within (touchMask (.txMuteSet tree)) (mayChange (.txMuteSet tree)) = true := by
  conv in touchMask _ => whnf
  conv in mayChange _ => whnf
  decide +kernel

theorem within_txMuteClear (tree) : within (touchMask (.txMuteClear tree)) (mayChange (.txMuteClear tree)) = true := by
  conv in touchMask _ => whnf
  conv in mayChange _ => whnf
  decide +kernel

theorem within_txLol (tree set) : within (touchMask (.txLol tree set)) (mayChange (.txLol tree set)) = true := by
  conv in touchMask _ => whnf
  conv in mayChange _ => whnf
  decide +kernel

theorem within_txRelock (tree set) : within (touchMask (.txRelock tree set)) (mayChange (.txRelock tree set)) = true := by
  conv in touchMask _ => whnf
  conv in mayChange _ => whnf
  decide +kernel

theorem within_contextSwap (tree set) : within (touchMask (.contextSwap tree set)) (mayChange (.contextSwap tree set)) = true := by
  conv in touchMask _ => whnf
  conv in mayChange _ => whnf
  decide +kernel

theorem within_burstReceive (tree set burst) : within (touchMask (.burstReceive tree set burst)) (mayChange (.burstReceive tree set burst)) = true := by
  conv in touchMask _ => whnf
  conv in mayChange _ => whnf
  decide +kernel

theorem within_upstreamFrameEnd (tree set samples) : within (touchMask (.upstreamFrameEnd tree set samples)) (mayChange (.upstreamFrameEnd tree set samples)) = true := by
  conv in touchMask _ => whnf
  conv in mayChange _ => whnf
  decide +kernel

theorem within_rxLol (tree set) : within (touchMask (.rxLol tree set)) (mayChange (.rxLol tree set)) = true := by
  conv in touchMask _ => whnf
  conv in mayChange _ => whnf
  decide +kernel

theorem within_rxLolClear (tree set) : within (touchMask (.rxLolClear tree set)) (mayChange (.rxLolClear tree set)) = true := by
  conv in touchMask _ => whnf
  conv in mayChange _ => whnf
  decide +kernel

theorem within_rxTermClear (tree terminal) : within (touchMask (.rxTermClear tree terminal)) (mayChange (.rxTermClear tree terminal)) = true := by
  conv in touchMask _ => whnf
  conv in mayChange _ => whnf
  decide +kernel

theorem within_errorInject (unit passed place) : within (touchMask (.errorInject unit passed place)) (mayChange (.errorInject unit passed place)) = true := by
  conv in touchMask _ => whnf
  conv in mayChange _ => whnf
  decide +kernel

theorem within_oneShotInject (unit place) : within (touchMask (.oneShotInject unit place)) (mayChange (.oneShotInject unit place)) = true := by
  conv in touchMask _ => whnf
  conv in mayChange _ => whnf
  decide +kernel

theorem within_patternCheckerLock (unit terminal good) : within (touchMask (.patternCheckerLock unit terminal good)) (mayChange (.patternCheckerLock unit terminal good)) = true := by
  conv in touchMask _ => whnf
  conv in mayChange _ => whnf
  decide +kernel

theorem within_optTxRefresh (tree set power bias wave temp) : within (touchMask (.optTxRefresh tree set power bias wave temp)) (mayChange (.optTxRefresh tree set power bias wave temp)) = true := by
  conv in touchMask _ => whnf
  conv in mayChange _ => whnf
  decide +kernel

theorem within_quietWindowOpen (tree set) : within (touchMask (.quietWindowOpen tree set)) (mayChange (.quietWindowOpen tree set)) = true := by
  conv in touchMask _ => whnf
  conv in mayChange _ => whnf
  decide +kernel

theorem within_quietForce (tree) : within (touchMask (.quietForce tree)) (mayChange (.quietForce tree)) = true := by
  conv in touchMask _ => whnf
  conv in mayChange _ => whnf
  decide +kernel

theorem within_serialNumberFound (tree set arrival delay serial) : within (touchMask (.serialNumberFound tree set arrival delay serial)) (mayChange (.serialNumberFound tree set arrival delay serial)) = true := by
  conv in touchMask _ => whnf
  conv in mayChange _ => whnf
  decide +kernel

theorem within_rangingGrantResult (tree terminal) : within (touchMask (.rangingGrantResult tree terminal)) (mayChange (.rangingGrantResult tree terminal)) = true := by
  conv in touchMask _ => whnf
  conv in mayChange _ => whnf
  decide +kernel

theorem within_chiffonParams (tree) : within (touchMask (.chiffonParams tree)) (mayChange (.chiffonParams tree)) = true := by
  conv in touchMask _ => whnf
  conv in mayChange _ => whnf
  decide +kernel

theorem within_signatureDetection (tree code lag frames) : within (touchMask (.signatureDetection tree code lag frames)) (mayChange (.signatureDetection tree code lag frames)) = true := by
  conv in touchMask _ => whnf
  conv in mayChange _ => whnf
  decide +kernel

theorem within_chiffonInvite (tree place frame) : within (touchMask (.chiffonInvite tree place frame)) (mayChange (.chiffonInvite tree place frame)) = true := by
  conv in touchMask _ => whnf
  conv in mayChange _ => whnf
  decide +kernel

theorem within_microWindowResult (tree place) : within (touchMask (.microWindowResult tree place)) (mayChange (.microWindowResult tree place)) = true := by
  conv in touchMask _ => whnf
  conv in mayChange _ => whnf
  decide +kernel

theorem within_admitWaitExpiry (tree terminal) : within (touchMask (.admitWaitExpiry tree terminal)) (mayChange (.admitWaitExpiry tree terminal)) = true := by
  conv in touchMask _ => whnf
  conv in mayChange _ => whnf
  decide +kernel

theorem within_chiffonHold (tree terminal) : within (touchMask (.chiffonHold tree terminal)) (mayChange (.chiffonHold tree terminal)) = true := by
  conv in touchMask _ => whnf
  conv in mayChange _ => whnf
  decide +kernel

theorem within_assignOnuId (tree terminal) : within (touchMask (.assignOnuId tree terminal)) (mayChange (.assignOnuId tree terminal)) = true := by
  conv in touchMask _ => whnf
  conv in mayChange _ => whnf
  decide +kernel

theorem within_assignAllocId (tree allocation) : within (touchMask (.assignAllocId tree allocation)) (mayChange (.assignAllocId tree allocation)) = true := by
  conv in touchMask _ => whnf
  conv in mayChange _ => whnf
  decide +kernel

theorem within_stepMissed (tree terminal step) : within (touchMask (.stepMissed tree terminal step)) (mayChange (.stepMissed tree terminal step)) = true := by
  conv in touchMask _ => whnf
  conv in mayChange _ => whnf
  decide +kernel

theorem within_driftCorrection (tree terminal) : within (touchMask (.driftCorrection tree terminal)) (mayChange (.driftCorrection tree terminal)) = true := by
  conv in touchMask _ => whnf
  conv in mayChange _ => whnf
  decide +kernel

theorem within_terminalLost (tree terminal) : within (touchMask (.terminalLost tree terminal)) (mayChange (.terminalLost tree terminal)) = true := by
  conv in touchMask _ => whnf
  conv in mayChange _ => whnf
  decide +kernel

theorem within_admitTerminal (tree terminal onuId) : within (touchMask (.admitTerminal tree terminal onuId)) (mayChange (.admitTerminal tree terminal onuId)) = true := by
  conv in touchMask _ => whnf
  conv in mayChange _ => whnf
  decide +kernel

theorem within_deny (tree terminal) : within (touchMask (.deny tree terminal)) (mayChange (.deny tree terminal)) = true := by
  conv in touchMask _ => whnf
  conv in mayChange _ => whnf
  decide +kernel

theorem within_rerange (tree terminal) : within (touchMask (.rerange tree terminal)) (mayChange (.rerange tree terminal)) = true := by
  conv in touchMask _ => whnf
  conv in mayChange _ => whnf
  decide +kernel

theorem within_deactivate (tree terminal) : within (touchMask (.deactivate tree terminal)) (mayChange (.deactivate tree terminal)) = true := by
  conv in touchMask _ => whnf
  conv in mayChange _ => whnf
  decide +kernel

theorem within_free (tree terminal) : within (touchMask (.free tree terminal)) (mayChange (.free tree terminal)) = true := by
  conv in touchMask _ => whnf
  conv in mayChange _ => whnf
  decide +kernel

theorem within_mapBuild (tree set buildNs flagged) : within (touchMask (.mapBuild tree set buildNs flagged)) (mayChange (.mapBuild tree set buildNs flagged)) = true := by
  conv in touchMask _ => whnf
  conv in mayChange _ => whnf
  decide +kernel

theorem within_statusReportDecode (tree allocation backlog frame) : within (touchMask (.statusReportDecode tree allocation backlog frame)) (mayChange (.statusReportDecode tree allocation backlog frame)) = true := by
  conv in touchMask _ => whnf
  conv in mayChange _ => whnf
  decide +kernel

theorem within_contextRingWrite (tree set) : within (touchMask (.contextRingWrite tree set)) (mayChange (.contextRingWrite tree set)) = true := by
  conv in touchMask _ => whnf
  conv in mayChange _ => whnf
  decide +kernel

theorem within_grantAccRead (die target tree index list) : within (touchMask (.grantAccRead die target tree index list)) (mayChange (.grantAccRead die target tree index list)) = true := by
  conv in touchMask _ => whnf
  conv in mayChange _ => whnf
  decide +kernel

theorem within_grantAccWrite (die target tree index list) : within (touchMask (.grantAccWrite die target tree index list)) (mayChange (.grantAccWrite die target tree index list)) = true := by
  conv in touchMask _ => whnf
  conv in mayChange _ => whnf
  decide +kernel

theorem within_writeReset (die target tree index) : within (touchMask (.writeReset die target tree index)) (mayChange (.writeReset die target tree index)) = true := by
  conv in touchMask _ => whnf
  conv in mayChange _ => whnf
  decide +kernel

theorem within_gateBankSwap (die list) : within (touchMask (.gateBankSwap die list)) (mayChange (.gateBankSwap die list)) = true := by
  conv in touchMask _ => whnf
  conv in mayChange _ => whnf
  decide +kernel

theorem within_resvMicroWindow (tree set onuId frameLow) : within (touchMask (.resvMicroWindow tree set onuId frameLow)) (mayChange (.resvMicroWindow tree set onuId frameLow)) = true := by
  conv in touchMask _ => whnf
  conv in mayChange _ => whnf
  decide +kernel

theorem within_resvRangingGrant (tree set onuId frameLow units profile) : within (touchMask (.resvRangingGrant tree set onuId frameLow units profile)) (mayChange (.resvRangingGrant tree set onuId frameLow units profile)) = true := by
  conv in touchMask _ => whnf
  conv in mayChange _ => whnf
  decide +kernel

theorem within_resvQuietWindow (tree set frameLow) : within (touchMask (.resvQuietWindow tree set frameLow)) (mayChange (.resvQuietWindow tree set frameLow)) = true := by
  conv in touchMask _ => whnf
  conv in mayChange _ => whnf
  decide +kernel

theorem within_containerBuild (circuit) : within (touchMask (.containerBuild circuit)) (mayChange (.containerBuild circuit)) = true := by
  conv in touchMask _ => whnf
  conv in mayChange _ => whnf
  decide +kernel

theorem within_containerMissing (circuit) : within (touchMask (.containerMissing circuit)) (mayChange (.containerMissing circuit)) = true := by
  conv in touchMask _ => whnf
  conv in mayChange _ => whnf
  decide +kernel

theorem within_cePacketReceive (die) : within (touchMask (.cePacketReceive die)) (mayChange (.cePacketReceive die)) = true := by
  conv in touchMask _ => whnf
  conv in mayChange _ => whnf
  decide +kernel

theorem within_containerReceive (circuit) : within (touchMask (.containerReceive circuit)) (mayChange (.containerReceive circuit)) = true := by
  conv in touchMask _ => whnf
  conv in mayChange _ => whnf
  decide +kernel

theorem within_groupRelease (die group) : within (touchMask (.groupRelease die group)) (mayChange (.groupRelease die group)) = true := by
  conv in touchMask _ => whnf
  conv in mayChange _ => whnf
  decide +kernel

theorem within_circAccRead (die group index) : within (touchMask (.circAccRead die group index)) (mayChange (.circAccRead die group index)) = true := by
  conv in touchMask _ => whnf
  conv in mayChange _ => whnf
  decide +kernel

theorem within_circAccWrite (die group index) : within (touchMask (.circAccWrite die group index)) (mayChange (.circAccWrite die group index)) = true := by
  conv in touchMask _ => whnf
  conv in mayChange _ => whnf
  decide +kernel

theorem within_circuitEnable (die index) : within (touchMask (.circuitEnable die index)) (mayChange (.circuitEnable die index)) = true := by
  conv in touchMask _ => whnf
  conv in mayChange _ => whnf
  decide +kernel

theorem within_circuitDisable (die index) : within (touchMask (.circuitDisable die index)) (mayChange (.circuitDisable die index)) = true := by
  conv in touchMask _ => whnf
  conv in mayChange _ => whnf
  decide +kernel

theorem within_fabricFrameReceive (lane bytes sec) : within (touchMask (.fabricFrameReceive lane bytes sec)) (mayChange (.fabricFrameReceive lane bytes sec)) = true := by
  conv in touchMask _ => whnf
  conv in mayChange _ => whnf
  decide +kernel

theorem within_frameAdmit (die) : within (touchMask (.frameAdmit die)) (mayChange (.frameAdmit die)) = true := by
  conv in touchMask _ => whnf
  conv in mayChange _ => whnf
  decide +kernel

theorem within_queueRelease (die up port) : within (touchMask (.queueRelease die up port)) (mayChange (.queueRelease die up port)) = true := by
  conv in touchMask _ => whnf
  conv in mayChange _ => whnf
  decide +kernel

theorem within_fabricFrameTransmit (lane cls ptp) : within (touchMask (.fabricFrameTransmit lane cls ptp)) (mayChange (.fabricFrameTransmit lane cls ptp)) = true := by
  conv in touchMask _ => whnf
  conv in mayChange _ => whnf
  decide +kernel

theorem within_feltRelease (die port) : within (touchMask (.feltRelease die port)) (mayChange (.feltRelease die port)) = true := by
  conv in touchMask _ => whnf
  conv in mayChange _ => whnf
  decide +kernel

theorem within_portHoldCause (die port cause) : within (touchMask (.portHoldCause die port cause)) (mayChange (.portHoldCause die port cause)) = true := by
  conv in touchMask _ => whnf
  conv in mayChange _ => whnf
  decide +kernel

theorem within_portResume (die port) : within (touchMask (.portResume die port)) (mayChange (.portResume die port)) = true := by
  conv in touchMask _ => whnf
  conv in mayChange _ => whnf
  decide +kernel

theorem within_portAvailable (die port) : within (touchMask (.portAvailable die port)) (mayChange (.portAvailable die port)) = true := by
  conv in touchMask _ => whnf
  conv in mayChange _ => whnf
  decide +kernel

theorem within_tmSampleWindow (die) : within (touchMask (.tmSampleWindow die)) (mayChange (.tmSampleWindow die)) = true := by
  conv in touchMask _ => whnf
  conv in mayChange _ => whnf
  decide +kernel

theorem within_tmAccRead (die target index) : within (touchMask (.tmAccRead die target index)) (mayChange (.tmAccRead die target index)) = true := by
  conv in touchMask _ => whnf
  conv in mayChange _ => whnf
  decide +kernel

theorem within_tmAccWrite (die target index) : within (touchMask (.tmAccWrite die target index)) (mayChange (.tmAccWrite die target index)) = true := by
  conv in touchMask _ => whnf
  conv in mayChange _ => whnf
  decide +kernel

theorem within_classRuleRead (die ternary index) : within (touchMask (.classRuleRead die ternary index)) (mayChange (.classRuleRead die ternary index)) = true := by
  conv in touchMask _ => whnf
  conv in mayChange _ => whnf
  decide +kernel

theorem within_ternaryWrite (die index) : within (touchMask (.ternaryWrite die index)) (mayChange (.ternaryWrite die index)) = true := by
  conv in touchMask _ => whnf
  conv in mayChange _ => whnf
  decide +kernel

theorem within_exactInsert (die) : within (touchMask (.exactInsert die)) (mayChange (.exactInsert die)) = true := by
  conv in touchMask _ => whnf
  conv in mayChange _ => whnf
  decide +kernel

theorem within_exactReplace (die) : within (touchMask (.exactReplace die)) (mayChange (.exactReplace die)) = true := by
  conv in touchMask _ => whnf
  conv in mayChange _ => whnf
  decide +kernel

theorem within_exactDelete (die) : within (touchMask (.exactDelete die)) (mayChange (.exactDelete die)) = true := by
  conv in touchMask _ => whnf
  conv in mayChange _ => whnf
  decide +kernel

theorem within_meterRead (die meter) : within (touchMask (.meterRead die meter)) (mayChange (.meterRead die meter)) = true := by
  conv in touchMask _ => whnf
  conv in mayChange _ => whnf
  decide +kernel

theorem within_meterWrite (die meter keep) : within (touchMask (.meterWrite die meter keep)) (mayChange (.meterWrite die meter keep)) = true := by
  conv in touchMask _ => whnf
  conv in mayChange _ => whnf
  decide +kernel

theorem within_tableInsert (chan addr entry expect tied) : within (touchMask (.tableInsert chan addr entry expect tied)) (mayChange (.tableInsert chan addr entry expect tied)) = true := by
  conv in touchMask _ => whnf
  conv in mayChange _ => whnf
  decide +kernel

theorem within_tableReplace (chan addr entry expect tied) : within (touchMask (.tableReplace chan addr entry expect tied)) (mayChange (.tableReplace chan addr entry expect tied)) = true := by
  conv in touchMask _ => whnf
  conv in mayChange _ => whnf
  decide +kernel

theorem within_tableDelete (chan addr entry expect tied) : within (touchMask (.tableDelete chan addr entry expect tied)) (mayChange (.tableDelete chan addr entry expect tied)) = true := by
  conv in touchMask _ => whnf
  conv in mayChange _ => whnf
  decide +kernel

theorem within_tableLock (chan addr bucket second) : within (touchMask (.tableLock chan addr bucket second)) (mayChange (.tableLock chan addr bucket second)) = true := by
  conv in touchMask _ => whnf
  conv in mayChange _ => whnf
  decide +kernel

theorem within_tableUnlock (chan addr) : within (touchMask (.tableUnlock chan addr)) (mayChange (.tableUnlock chan addr)) = true := by
  conv in touchMask _ => whnf
  conv in mayChange _ => whnf
  decide +kernel

theorem within_writeSlot (chan addr bucket slot entry expect) : within (touchMask (.writeSlot chan addr bucket slot entry expect)) (mayChange (.writeSlot chan addr bucket slot entry expect)) = true := by
  conv in touchMask _ => whnf
  conv in mayChange _ => whnf
  decide +kernel

theorem within_ageBucket : within (touchMask (.ageBucket)) (mayChange (.ageBucket)) = true := by
  conv in touchMask _ => whnf
  conv in mayChange _ => whnf
  decide +kernel

theorem within_lockExpiry (chan) : within (touchMask (.lockExpiry chan)) (mayChange (.lockExpiry chan)) = true := by
  conv in touchMask _ => whnf
  conv in mayChange _ => whnf
  decide +kernel

theorem within_keyLoad (host die assoc index wrapped kek tied) : within (touchMask (.keyLoad host die assoc index wrapped kek tied)) (mayChange (.keyLoad host die assoc index wrapped kek tied)) = true := by
  conv in touchMask _ => whnf
  conv in mayChange _ => whnf
  decide +kernel

theorem within_keyErase (host die assoc index tied) : within (touchMask (.keyErase host die assoc index tied)) (mayChange (.keyErase host die assoc index tied)) = true := by
  conv in touchMask _ => whnf
  conv in mayChange _ => whnf
  decide +kernel

theorem within_keySwitch (host die localTree linePort tied) : within (touchMask (.keySwitch host die localTree linePort tied)) (mayChange (.keySwitch host die localTree linePort tied)) = true := by
  conv in touchMask _ => whnf
  conv in mayChange _ => whnf
  decide +kernel

theorem within_keyRead (host die assoc index tied) : within (touchMask (.keyRead host die assoc index tied)) (mayChange (.keyRead host die assoc index tied)) = true := by
  conv in touchMask _ => whnf
  conv in mayChange _ => whnf
  decide +kernel

theorem within_kekLoad (host die kek) : within (touchMask (.kekLoad host die kek)) (mayChange (.kekLoad host die kek)) = true := by
  conv in touchMask _ => whnf
  conv in mayChange _ => whnf
  decide +kernel

theorem within_switchCheck : within (touchMask (.switchCheck)) (mayChange (.switchCheck)) = true := by
  conv in touchMask _ => whnf
  conv in mayChange _ => whnf
  decide +kernel

theorem within_keyExpiry (die slot) : within (touchMask (.keyExpiry die slot)) (mayChange (.keyExpiry die slot)) = true := by
  conv in touchMask _ => whnf
  conv in mayChange _ => whnf
  decide +kernel

theorem within_starvedResume (tree linePort) : within (touchMask (.starvedResume tree linePort)) (mayChange (.starvedResume tree linePort)) = true := by
  conv in touchMask _ => whnf
  conv in mayChange _ => whnf
  decide +kernel

theorem within_lpBindWrite (tree linePort keyPair encrypt txSc) : within (touchMask (.lpBindWrite tree linePort keyPair encrypt txSc)) (mayChange (.lpBindWrite tree linePort keyPair encrypt txSc)) = true := by
  conv in touchMask _ => whnf
  conv in mayChange _ => whnf
  decide +kernel

theorem within_msecRead (die assoc index) : within (touchMask (.msecRead die assoc index)) (mayChange (.msecRead die assoc index)) = true := by
  conv in touchMask _ => whnf
  conv in mayChange _ => whnf
  decide +kernel

theorem within_msecChannelWrite (die channel) : within (touchMask (.msecChannelWrite die channel)) (mayChange (.msecChannelWrite die channel)) = true := by
  conv in touchMask _ => whnf
  conv in mayChange _ => whnf
  decide +kernel

theorem within_arm (die association) : within (touchMask (.arm die association)) (mayChange (.arm die association)) = true := by
  conv in touchMask _ => whnf
  conv in mayChange _ => whnf
  decide +kernel

theorem within_refreshInterval (die channel events) : within (touchMask (.refreshInterval die channel events)) (mayChange (.refreshInterval die channel events)) = true := by
  conv in touchMask _ => whnf
  conv in mayChange _ => whnf
  decide +kernel

theorem within_stackTempCrossing (die channel temp) : within (touchMask (.stackTempCrossing die channel temp)) (mayChange (.stackTempCrossing die channel temp)) = true := by
  conv in touchMask _ => whnf
  conv in mayChange _ => whnf
  decide +kernel

theorem within_stackThermalResponse (die temp) : within (touchMask (.stackThermalResponse die temp)) (mayChange (.stackThermalResponse die temp)) = true := by
  conv in touchMask _ => whnf
  conv in mayChange _ => whnf
  decide +kernel

theorem within_stackRestart (die cool) : within (touchMask (.stackRestart die cool)) (mayChange (.stackRestart die cool)) = true := by
  conv in touchMask _ => whnf
  conv in mayChange _ => whnf
  decide +kernel

theorem within_rowDisturb (die channel bank row requester domain) : within (touchMask (.rowDisturb die channel bank row requester domain)) (mayChange (.rowDisturb die channel bank row requester domain)) = true := by
  conv in touchMask _ => whnf
  conv in mayChange _ => whnf
  decide +kernel

theorem within_throttleEnd (die requester channel) : within (touchMask (.throttleEnd die requester channel)) (mayChange (.throttleEnd die requester channel)) = true := by
  conv in touchMask _ => whnf
  conv in mayChange _ => whnf
  decide +kernel

theorem within_eccCorrect (die offset requester correctable owner) : within (touchMask (.eccCorrect die offset requester correctable owner)) (mayChange (.eccCorrect die offset requester correctable owner)) = true := by
  conv in touchMask _ => whnf
  conv in mayChange _ => whnf
  decide +kernel

theorem within_patrolScrub (die age) : within (touchMask (.patrolScrub die age)) (mayChange (.patrolScrub die age)) = true := by
  conv in touchMask _ => whnf
  conv in mayChange _ => whnf
  decide +kernel

theorem within_channelRetune (die channel training) : within (touchMask (.channelRetune die channel training)) (mayChange (.channelRetune die channel training)) = true := by
  conv in touchMask _ => whnf
  conv in mayChange _ => whnf
  decide +kernel

theorem within_channelRetrain (die channel training lost) : within (touchMask (.channelRetrain die channel training lost)) (mayChange (.channelRetrain die channel training lost)) = true := by
  conv in touchMask _ => whnf
  conv in mayChange _ => whnf
  decide +kernel

theorem within_channelRetire (die channel lost) : within (touchMask (.channelRetire die channel lost)) (mayChange (.channelRetire die channel lost)) = true := by
  conv in touchMask _ => whnf
  conv in mayChange _ => whnf
  decide +kernel

theorem within_memRetrain (die channel) : within (touchMask (.memRetrain die channel)) (mayChange (.memRetrain die channel)) = true := by
  conv in touchMask _ => whnf
  conv in mayChange _ => whnf
  decide +kernel

theorem within_memRetire (die channel lost) : within (touchMask (.memRetire die channel lost)) (mayChange (.memRetire die channel lost)) = true := by
  conv in touchMask _ => whnf
  conv in mayChange _ => whnf
  decide +kernel

theorem within_memRestart (die cool) : within (touchMask (.memRestart die cool)) (mayChange (.memRestart die cool)) = true := by
  conv in touchMask _ => whnf
  conv in mayChange _ => whnf
  decide +kernel

theorem within_laneOn (lane) : within (touchMask (.laneOn lane)) (mayChange (.laneOn lane)) = true := by
  conv in touchMask _ => whnf
  conv in mayChange _ => whnf
  decide +kernel

theorem within_laneFail (lane los cdrLock) : within (touchMask (.laneFail lane los cdrLock)) (mayChange (.laneFail lane los cdrLock)) = true := by
  conv in touchMask _ => whnf
  conv in mayChange _ => whnf
  decide +kernel

theorem within_commaLock (lane block) : within (touchMask (.commaLock lane block)) (mayChange (.commaLock lane block)) = true := by
  conv in touchMask _ => whnf
  conv in mayChange _ => whnf
  decide +kernel

theorem within_kolkanCellReceive (lane header payload) : within (touchMask (.kolkanCellReceive lane header payload)) (mayChange (.kolkanCellReceive lane header payload)) = true := by
  conv in touchMask _ => whnf
  conv in mayChange _ => whnf
  decide +kernel

theorem within_controlBlockBad (lane block) : within (touchMask (.controlBlockBad lane block)) (mayChange (.controlBlockBad lane block)) = true := by
  conv in touchMask _ => whnf
  conv in mayChange _ => whnf
  decide +kernel

theorem within_flow (lane credits) : within (touchMask (.flow lane credits)) (mayChange (.flow lane credits)) = true := by
  conv in touchMask _ => whnf
  conv in mayChange _ => whnf
  decide +kernel

theorem within_abort (lane cls) : within (touchMask (.abort lane cls)) (mayChange (.abort lane cls)) = true := by
  conv in touchMask _ => whnf
  conv in mayChange _ => whnf
  decide +kernel

theorem within_creditStall (lane cls) : within (touchMask (.creditStall lane cls)) (mayChange (.creditStall lane cls)) = true := by
  conv in touchMask _ => whnf
  conv in mayChange _ => whnf
  decide +kernel

theorem within_status (lane pathOk rxOk) : within (touchMask (.status lane pathOk rxOk)) (mayChange (.status lane pathOk rxOk)) = true := by
  conv in touchMask _ => whnf
  conv in mayChange _ => whnf
  decide +kernel

theorem within_statusTimeout (lane) : within (touchMask (.statusTimeout lane)) (mayChange (.statusTimeout lane)) = true := by
  conv in touchMask _ => whnf
  conv in mayChange _ => whnf
  decide +kernel

theorem within_statusSend (lane) : within (touchMask (.statusSend lane)) (mayChange (.statusSend lane)) = true := by
  conv in touchMask _ => whnf
  conv in mayChange _ => whnf
  decide +kernel

theorem within_cap (lane block) : within (touchMask (.cap lane block)) (mayChange (.cap lane block)) = true := by
  conv in touchMask _ => whnf
  conv in mayChange _ => whnf
  decide +kernel

theorem within_time (lane seq tx rx srcValid master stratum turn) : within (touchMask (.time lane seq tx rx srcValid master stratum turn)) (mayChange (.time lane seq tx rx srcValid master stratum turn)) = true := by
  conv in touchMask _ => whnf
  conv in mayChange _ => whnf
  decide +kernel

theorem within_timeEcho (lane seq turn rx) : within (touchMask (.timeEcho lane seq turn rx)) (mayChange (.timeEcho lane seq turn rx)) = true := by
  conv in touchMask _ => whnf
  conv in mayChange _ => whnf
  decide +kernel

theorem within_timeSend (lane tx) : within (touchMask (.timeSend lane tx)) (mayChange (.timeSend lane tx)) = true := by
  conv in touchMask _ => whnf
  conv in mayChange _ => whnf
  decide +kernel

theorem within_flitReplay (die peer ok lost) : within (touchMask (.flitReplay die peer ok lost)) (mayChange (.flitReplay die peer ok lost)) = true := by
  conv in touchMask _ => whnf
  conv in mayChange _ => whnf
  decide +kernel

theorem within_dieLinkIdle (die peer) : within (touchMask (.dieLinkIdle die peer)) (mayChange (.dieLinkIdle die peer)) = true := by
  conv in touchMask _ => whnf
  conv in mayChange _ => whnf
  decide +kernel

theorem within_dieLinkWake (die peer) : within (touchMask (.dieLinkWake die peer)) (mayChange (.dieLinkWake die peer)) = true := by
  conv in touchMask _ => whnf
  conv in mayChange _ => whnf
  decide +kernel

theorem within_blindFallback (die peer) : within (touchMask (.blindFallback die peer)) (mayChange (.blindFallback die peer)) = true := by
  conv in touchMask _ => whnf
  conv in mayChange _ => whnf
  decide +kernel

theorem within_dieLinkOn (die peer) : within (touchMask (.dieLinkOn die peer)) (mayChange (.dieLinkOn die peer)) = true := by
  conv in touchMask _ => whnf
  conv in mayChange _ => whnf
  decide +kernel

theorem within_timeMeasurement (source offset) : within (touchMask (.timeMeasurement source offset)) (mayChange (.timeMeasurement source offset)) = true := by
  conv in touchMask _ => whnf
  conv in mayChange _ => whnf
  decide +kernel

theorem within_sourceLost : within (touchMask (.sourceLost)) (mayChange (.sourceLost)) = true := by
  conv in touchMask _ => whnf
  conv in mayChange _ => whnf
  decide +kernel

theorem within_timeStep (force) : within (touchMask (.timeStep force)) (mayChange (.timeStep force)) = true := by
  conv in touchMask _ => whnf
  conv in mayChange _ => whnf
  decide +kernel

theorem within_stepApply : within (touchMask (.stepApply)) (mayChange (.stepApply)) = true := by
  conv in touchMask _ => whnf
  conv in mayChange _ => whnf
  decide +kernel

theorem within_timeMeasWrite (size value) : within (touchMask (.timeMeasWrite size value)) (mayChange (.timeMeasWrite size value)) = true := by
  conv in touchMask _ => whnf
  conv in mayChange _ => whnf
  decide +kernel

theorem within_ppsEdge (time) : within (touchMask (.ppsEdge time)) (mayChange (.ppsEdge time)) = true := by
  conv in touchMask _ => whnf
  conv in mayChange _ => whnf
  decide +kernel

theorem within_todMessage (bytes time) : within (touchMask (.todMessage bytes time)) (mayChange (.todMessage bytes time)) = true := by
  conv in touchMask _ => whnf
  conv in mayChange _ => whnf
  decide +kernel

theorem within_ppsOut (sec) : within (touchMask (.ppsOut sec)) (mayChange (.ppsOut sec)) = true := by
  conv in touchMask _ => whnf
  conv in mayChange _ => whnf
  decide +kernel

theorem within_fabTsPop (die) : within (touchMask (.fabTsPop die)) (mayChange (.fabTsPop die)) = true := by
  conv in touchMask _ => whnf
  conv in mayChange _ => whnf
  decide +kernel

theorem within_claimLive : within (touchMask (.claimLive)) (mayChange (.claimLive)) = true := by
  conv in touchMask _ => whnf
  conv in mayChange _ => whnf
  decide +kernel

theorem within_claimAbsent : within (touchMask (.claimAbsent)) (mayChange (.claimAbsent)) = true := by
  conv in touchMask _ => whnf
  conv in mayChange _ => whnf
  decide +kernel

theorem within_seize (release) : within (touchMask (.seize release)) (mayChange (.seize release)) = true := by
  conv in touchMask _ => whnf
  conv in mayChange _ => whnf
  decide +kernel

theorem within_settleEnd : within (touchMask (.settleEnd)) (mayChange (.settleEnd)) = true := by
  conv in touchMask _ => whnf
  conv in mayChange _ => whnf
  decide +kernel

theorem within_doubleClaim : within (touchMask (.doubleClaim)) (mayChange (.doubleClaim)) = true := by
  conv in touchMask _ => whnf
  conv in mayChange _ => whnf
  decide +kernel

theorem within_heartbeatSend (tx) : within (touchMask (.heartbeatSend tx)) (mayChange (.heartbeatSend tx)) = true := by
  conv in touchMask _ => whnf
  conv in mayChange _ => whnf
  decide +kernel

theorem within_heartbeat (seq device active t0 echoSeq turn rx) : within (touchMask (.heartbeat seq device active t0 echoSeq turn rx)) (mayChange (.heartbeat seq device active t0 echoSeq turn rx)) = true := by
  conv in touchMask _ => whnf
  conv in mayChange _ => whnf
  decide +kernel

theorem within_heartbeatFailure : within (touchMask (.heartbeatFailure)) (mayChange (.heartbeatFailure)) = true := by
  conv in touchMask _ => whnf
  conv in mayChange _ => whnf
  decide +kernel

theorem within_pairHello (digest member pairDevice trees senior device) : within (touchMask (.pairHello digest member pairDevice trees senior device)) (mayChange (.pairHello digest member pairDevice trees senior device)) = true := by
  conv in touchMask _ => whnf
  conv in mayChange _ => whnf
  decide +kernel

theorem within_pairAccept : within (touchMask (.pairAccept)) (mayChange (.pairAccept)) = true := by
  conv in touchMask _ => whnf
  conv in mayChange _ => whnf
  decide +kernel

theorem within_map (tree set frame grants) : within (touchMask (.map tree set frame grants)) (mayChange (.map tree set frame grants)) = true := by
  conv in touchMask _ => whnf
  conv in mayChange _ => whnf
  decide +kernel

theorem within_terminal (records) : within (touchMask (.terminal records)) (mayChange (.terminal records)) = true := by
  conv in touchMask _ => whnf
  conv in mayChange _ => whnf
  decide +kernel

theorem within_circuit (records) : within (touchMask (.circuit records)) (mayChange (.circuit records)) = true := by
  conv in touchMask _ => whnf
  conv in mayChange _ => whnf
  decide +kernel

theorem within_health (received) : within (touchMask (.health received)) (mayChange (.health received)) = true := by
  conv in touchMask _ => whnf
  conv in mayChange _ => whnf
  decide +kernel

theorem within_autoDegrade : within (touchMask (.autoDegrade)) (mayChange (.autoDegrade)) = true := by
  conv in touchMask _ => whnf
  conv in mayChange _ => whnf
  decide +kernel

theorem within_release (frame) : within (touchMask (.release frame)) (mayChange (.release frame)) = true := by
  conv in touchMask _ => whnf
  conv in mayChange _ => whnf
  decide +kernel

theorem within_releaseDarken : within (touchMask (.releaseDarken)) (mayChange (.releaseDarken)) = true := by
  conv in touchMask _ => whnf
  conv in mayChange _ => whnf
  decide +kernel

theorem within_calibrate (tree) : within (touchMask (.calibrate tree)) (mayChange (.calibrate tree)) = true := by
  conv in touchMask _ => whnf
  conv in mayChange _ => whnf
  decide +kernel

theorem within_standbyOffsetUpdate (tree) : within (touchMask (.standbyOffsetUpdate tree)) (mayChange (.standbyOffsetUpdate tree)) = true := by
  conv in touchMask _ => whnf
  conv in mayChange _ => whnf
  decide +kernel

theorem within_tweedLoadCheck (die load missed late deferrable) : within (touchMask (.tweedLoadCheck die load missed late deferrable)) (mayChange (.tweedLoadCheck die load missed late deferrable)) = true := by
  conv in touchMask _ => whnf
  conv in mayChange _ => whnf
  decide +kernel

theorem within_watchdog (die) : within (touchMask (.watchdog die)) (mayChange (.watchdog die)) = true := by
  conv in touchMask _ => whnf
  conv in mayChange _ => whnf
  decide +kernel

theorem within_taskOverrun (die task fault) : within (touchMask (.taskOverrun die task fault)) (mayChange (.taskOverrun die task fault)) = true := by
  conv in touchMask _ => whnf
  conv in mayChange _ => whnf
  decide +kernel

theorem within_doorbell (die slot release) : within (touchMask (.doorbell die slot release)) (mayChange (.doorbell die slot release)) = true := by
  conv in touchMask _ => whnf
  conv in mayChange _ => whnf
  decide +kernel

theorem within_mailboxService (die reply) : within (touchMask (.mailboxService die reply)) (mayChange (.mailboxService die reply)) = true := by
  conv in touchMask _ => whnf
  conv in mayChange _ => whnf
  decide +kernel

theorem within_version (die) : within (touchMask (.version die)) (mayChange (.version die)) = true := by
  conv in touchMask _ => whnf
  conv in mayChange _ => whnf
  decide +kernel

theorem within_rotate (die tied) : within (touchMask (.rotate die tied)) (mayChange (.rotate die tied)) = true := by
  conv in touchMask _ => whnf
  conv in mayChange _ => whnf
  decide +kernel

theorem within_rotateCancel (die) : within (touchMask (.rotateCancel die)) (mayChange (.rotateCancel die)) = true := by
  conv in touchMask _ => whnf
  conv in mayChange _ => whnf
  decide +kernel

theorem within_extMsg (die reply) : within (touchMask (.extMsg die reply)) (mayChange (.extMsg die reply)) = true := by
  conv in touchMask _ => whnf
  conv in mayChange _ => whnf
  decide +kernel

theorem within_interruptEntry (die firmware late) : within (touchMask (.interruptEntry die firmware late)) (mayChange (.interruptEntry die firmware late)) = true := by
  conv in touchMask _ => whnf
  conv in mayChange _ => whnf
  decide +kernel

theorem within_resume (die firmware late) : within (touchMask (.resume die firmware late)) (mayChange (.resume die firmware late)) = true := by
  conv in touchMask _ => whnf
  conv in mayChange _ => whnf
  decide +kernel

theorem within_coreWake (die firmware) : within (touchMask (.coreWake die firmware)) (mayChange (.coreWake die firmware)) = true := by
  conv in touchMask _ => whnf
  conv in mayChange _ => whnf
  decide +kernel

theorem within_groupFire (die group) : within (touchMask (.groupFire die group)) (mayChange (.groupFire die group)) = true := by
  conv in touchMask _ => whnf
  conv in mayChange _ => whnf
  decide +kernel

theorem within_swset (die source) : within (touchMask (.swset die source)) (mayChange (.swset die source)) = true := by
  conv in touchMask _ => whnf
  conv in mayChange _ => whnf
  decide +kernel

theorem within_targetWrite (die source host target vector) : within (touchMask (.targetWrite die source host target vector)) (mayChange (.targetWrite die source host target vector)) = true := by
  conv in touchMask _ => whnf
  conv in mayChange _ => whnf
  decide +kernel

theorem within_msixDelivery (die) : within (touchMask (.msixDelivery die)) (mayChange (.msixDelivery die)) = true := by
  conv in touchMask _ => whnf
  conv in mayChange _ => whnf
  decide +kernel

theorem within_eoi (die source) : within (touchMask (.eoi die source)) (mayChange (.eoi die source)) = true := by
  conv in touchMask _ => whnf
  conv in mayChange _ => whnf
  decide +kernel

theorem within_counterFlush (die counter) : within (touchMask (.counterFlush die counter)) (mayChange (.counterFlush die counter)) = true := by
  conv in touchMask _ => whnf
  conv in mayChange _ => whnf
  decide +kernel

theorem within_perfCntRead (die counter) : within (touchMask (.perfCntRead die counter)) (mayChange (.perfCntRead die counter)) = true := by
  conv in touchMask _ => whnf
  conv in mayChange _ => whnf
  decide +kernel

theorem within_readClear (die counter) : within (touchMask (.readClear die counter)) (mayChange (.readClear die counter)) = true := by
  conv in touchMask _ => whnf
  conv in mayChange _ => whnf
  decide +kernel

theorem within_clear (die counter) : within (touchMask (.clear die counter)) (mayChange (.clear die counter)) = true := by
  conv in touchMask _ => whnf
  conv in mayChange _ => whnf
  decide +kernel

theorem within_snapshotArm : within (touchMask (.snapshotArm)) (mayChange (.snapshotArm)) = true := by
  conv in touchMask _ => whnf
  conv in mayChange _ => whnf
  decide +kernel

theorem within_snapshotCancel : within (touchMask (.snapshotCancel)) (mayChange (.snapshotCancel)) = true := by
  conv in touchMask _ => whnf
  conv in mayChange _ => whnf
  decide +kernel

theorem within_snapshotEpoch : within (touchMask (.snapshotEpoch)) (mayChange (.snapshotEpoch)) = true := by
  conv in touchMask _ => whnf
  conv in mayChange _ => whnf
  decide +kernel

theorem within_snapshotDieDone (die copyNs) : within (touchMask (.snapshotDieDone die copyNs)) (mayChange (.snapshotDieDone die copyNs)) = true := by
  conv in touchMask _ => whnf
  conv in mayChange _ => whnf
  decide +kernel

theorem within_traceRecord (die record throttled) : within (touchMask (.traceRecord die record throttled)) (mayChange (.traceRecord die record throttled)) = true := by
  conv in touchMask _ => whnf
  conv in mayChange _ => whnf
  decide +kernel

theorem within_bandwidthWindow (die window) : within (touchMask (.bandwidthWindow die window)) (mayChange (.bandwidthWindow die window)) = true := by
  conv in touchMask _ => whnf
  conv in mayChange _ => whnf
  decide +kernel

theorem within_sentinelInterval (die readings) : within (touchMask (.sentinelInterval die readings)) (mayChange (.sentinelInterval die readings)) = true := by
  conv in touchMask _ => whnf
  conv in mayChange _ => whnf
  decide +kernel

theorem within_telemetryRecord (die power skipped) : within (touchMask (.telemetryRecord die power skipped)) (mayChange (.telemetryRecord die power skipped)) = true := by
  conv in touchMask _ => whnf
  conv in mayChange _ => whnf
  decide +kernel

theorem within_eventLog (die origin source) : within (touchMask (.eventLog die origin source)) (mayChange (.eventLog die origin source)) = true := by
  conv in touchMask _ => whnf
  conv in mayChange _ => whnf
  decide +kernel

theorem within_sramScrub (die uncorrectable) : within (touchMask (.sramScrub die uncorrectable)) (mayChange (.sramScrub die uncorrectable)) = true := by
  conv in touchMask _ => whnf
  conv in mayChange _ => whnf
  decide +kernel

theorem within_mramScrub (die flaw) : within (touchMask (.mramScrub die flaw)) (mayChange (.mramScrub die flaw)) = true := by
  conv in touchMask _ => whnf
  conv in mayChange _ => whnf
  decide +kernel

theorem within_bgLag (die activity lag) : within (touchMask (.bgLag die activity lag)) (mayChange (.bgLag die activity lag)) = true := by
  conv in touchMask _ => whnf
  conv in mayChange _ => whnf
  decide +kernel

theorem within_table (chan desc record tied) : within (touchMask (.table chan desc record tied)) (mayChange (.table chan desc record tied)) = true := by
  conv in touchMask _ => whnf
  conv in mayChange _ => whnf
  decide +kernel

theorem within_stage (chan desc bytes) : within (touchMask (.stage chan desc bytes)) (mayChange (.stage chan desc bytes)) = true := by
  conv in touchMask _ => whnf
  conv in mayChange _ => whnf
  decide +kernel

theorem within_devRead (chan desc) : within (touchMask (.devRead chan desc)) (mayChange (.devRead chan desc)) = true := by
  conv in touchMask _ => whnf
  conv in mayChange _ => whnf
  decide +kernel

theorem within_omciTx (chan desc bytes) : within (touchMask (.omciTx chan desc bytes)) (mayChange (.omciTx chan desc bytes)) = true := by
  conv in touchMask _ => whnf
  conv in mayChange _ => whnf
  decide +kernel

theorem within_rxBuffer (chan desc) : within (touchMask (.rxBuffer chan desc)) (mayChange (.rxBuffer chan desc)) = true := by
  conv in touchMask _ => whnf
  conv in mayChange _ => whnf
  decide +kernel

theorem within_rxMessage (message at0) : within (touchMask (.rxMessage message at0)) (mayChange (.rxMessage message at0)) = true := by
  conv in touchMask _ => whnf
  conv in mayChange _ => whnf
  decide +kernel

theorem within_dmaError (chan failed) : within (touchMask (.dmaError chan failed)) (mayChange (.dmaError chan failed)) = true := by
  conv in touchMask _ => whnf
  conv in mayChange _ => whnf
  decide +kernel

theorem within_bar2Read (who off size) : within (touchMask (.bar2Read who off size)) (mayChange (.bar2Read who off size)) = true := by
  conv in touchMask _ => whnf
  conv in mayChange _ => whnf
  decide +kernel

theorem within_bar2Write (who off bytes) : within (touchMask (.bar2Write who off bytes)) (mayChange (.bar2Write who off bytes)) = true := by
  conv in touchMask _ => whnf
  conv in mayChange _ => whnf
  decide +kernel

theorem within_coldReset : within (touchMask (.coldReset)) (mayChange (.coldReset)) = true := by
  conv in touchMask _ => whnf
  conv in mayChange _ => whnf
  decide +kernel

theorem within_packageReset (cause) : within (touchMask (.packageReset cause)) (mayChange (.packageReset cause)) = true := by
  conv in touchMask _ => whnf
  conv in mayChange _ => whnf
  decide +kernel

theorem within_resetPackage (key) : within (touchMask (.resetPackage key)) (mayChange (.resetPackage key)) = true := by
  conv in touchMask _ => whnf
  conv in mayChange _ => whnf
  decide +kernel

theorem within_perst (asserted) : within (touchMask (.perst asserted)) (mayChange (.perst asserted)) = true := by
  conv in touchMask _ => whnf
  conv in mayChange _ => whnf
  decide +kernel

theorem within_hostInterfaceReset : within (touchMask (.hostInterfaceReset)) (mayChange (.hostInterfaceReset)) = true := by
  conv in touchMask _ => whnf
  conv in mayChange _ => whnf
  decide +kernel

theorem within_startup (ms untrained) : within (touchMask (.startup ms untrained)) (mayChange (.startup ms untrained)) = true := by
  conv in touchMask _ => whnf
  conv in mayChange _ => whnf
  decide +kernel

theorem within_supplySupervision (vin iin pin) : within (touchMask (.supplySupervision vin iin pin)) (mayChange (.supplySupervision vin iin pin)) = true := by
  conv in touchMask _ => whnf
  conv in mayChange _ => whnf
  decide +kernel

theorem within_supplyFault (steps) : within (touchMask (.supplyFault steps)) (mayChange (.supplyFault steps)) = true := by
  conv in touchMask _ => whnf
  conv in mayChange _ => whnf
  decide +kernel

theorem within_governorStep (die request) : within (touchMask (.governorStep die request)) (mayChange (.governorStep die request)) = true := by
  conv in touchMask _ => whnf
  conv in mayChange _ => whnf
  decide +kernel

theorem within_junctionThermal (die readings package cool) : within (touchMask (.junctionThermal die readings package cool)) (mayChange (.junctionThermal die readings package cool)) = true := by
  conv in touchMask _ => whnf
  conv in mayChange _ => whnf
  decide +kernel

theorem within_diePowerDown (die trip) : within (touchMask (.diePowerDown die trip)) (mayChange (.diePowerDown die trip)) = true := by
  conv in touchMask _ => whnf
  conv in mayChange _ => whnf
  decide +kernel

theorem within_dieRestart (die) : within (touchMask (.dieRestart die)) (mayChange (.dieRestart die)) = true := by
  conv in touchMask _ => whnf
  conv in mayChange _ => whnf
  decide +kernel

theorem within_muteSuppressionEnd (tree) : within (touchMask (.muteSuppressionEnd tree)) (mayChange (.muteSuppressionEnd tree)) = true := by
  conv in touchMask _ => whnf
  conv in mayChange _ => whnf
  decide +kernel

theorem within_flowSend (lane) : within (touchMask (.flowSend lane)) (mayChange (.flowSend lane)) = true := by
  conv in touchMask _ => whnf
  conv in mayChange _ => whnf
  decide +kernel

/-- `mayChange` names everything that a command's set holds. -/
theorem touchMask_within (c : Instr) : within (touchMask c) (mayChange c) = true := by
  cases c with
  | registerWrite who off size value during => exact within_registerWrite who off size value during
  | unmappedAccess who off size write => exact within_unmappedAccess who off size write
  | shadowRead who off size => exact within_shadowRead who off size
  | timeNowRead who size => exact within_timeNowRead who size
  | unitEnableRequest unit on => exact within_unitEnableRequest unit on
  | unitPhaseDone unit => exact within_unitPhaseDone unit
  | secondLatch sec => exact within_secondLatch sec
  | tableUpdateApply die => exact within_tableUpdateApply die
  | orderStall die => exact within_orderStall die
  | downstreamFrameStart tree set at0 => exact within_downstreamFrameStart tree set at0
  | lateMap tree set => exact within_lateMap tree set
  | ploamRingSample tree set => exact within_ploamRingSample tree set
  | dsUnderrun tree set come => exact within_dsUnderrun tree set come
  | stageBegin slot => exact within_stageBegin slot
  | stageEnd => exact within_stageEnd
  | select slot trial => exact within_select slot trial
  | confirm => exact within_confirm
  | weave => exact within_weave
  | weaveDone die => exact within_weaveDone die
  | treeReweave tree slot => exact within_treeReweave tree slot
  | reweaveSectionsLoaded => exact within_reweaveSectionsLoaded
  | reweaveComplete => exact within_reweaveComplete
  | dmkStageData offset bytes => exact within_dmkStageData offset bytes
  | mramRecordCommit die => exact within_mramRecordCommit die
  | pageReclaim die => exact within_pageReclaim die
  | recordRotation die => exact within_recordRotation die
  | secLockSet mask => exact within_secLockSet mask
  | dbgNonceRequest => exact within_dbgNonceRequest
  | dbgPasswordAttempt own elapsed => exact within_dbgPasswordAttempt own elapsed
  | dbgSignedAttempt own elapsed => exact within_dbgSignedAttempt own elapsed
  | dbgSetPassword own => exact within_dbgSetPassword own
  | nonceExpiry => exact within_nonceExpiry
  | opticsStart tree => exact within_opticsStart tree
  | opticsLit tree => exact within_opticsLit tree
  | txDarkAtShutdown tree => exact within_txDarkAtShutdown tree
  | laserPark tree => exact within_laserPark tree
  | txCalibration tree set => exact within_txCalibration tree set
  | laserAgeingCheck tree set => exact within_laserAgeingCheck tree set
  | txMuteSet tree => exact within_txMuteSet tree
  | txMuteClear tree => exact within_txMuteClear tree
  | txLol tree set => exact within_txLol tree set
  | txRelock tree set => exact within_txRelock tree set
  | contextSwap tree set => exact within_contextSwap tree set
  | burstReceive tree set burst => exact within_burstReceive tree set burst
  | upstreamFrameEnd tree set samples => exact within_upstreamFrameEnd tree set samples
  | rxLol tree set => exact within_rxLol tree set
  | rxLolClear tree set => exact within_rxLolClear tree set
  | rxTermClear tree terminal => exact within_rxTermClear tree terminal
  | errorInject unit passed place => exact within_errorInject unit passed place
  | oneShotInject unit place => exact within_oneShotInject unit place
  | patternCheckerLock unit terminal good => exact within_patternCheckerLock unit terminal good
  | optTxRefresh tree set power bias wave temp => exact within_optTxRefresh tree set power bias wave temp
  | quietWindowOpen tree set => exact within_quietWindowOpen tree set
  | quietForce tree => exact within_quietForce tree
  | serialNumberFound tree set arrival delay serial => exact within_serialNumberFound tree set arrival delay serial
  | rangingGrantResult tree terminal => exact within_rangingGrantResult tree terminal
  | chiffonParams tree => exact within_chiffonParams tree
  | signatureDetection tree code lag frames => exact within_signatureDetection tree code lag frames
  | chiffonInvite tree place frame => exact within_chiffonInvite tree place frame
  | microWindowResult tree place => exact within_microWindowResult tree place
  | admitWaitExpiry tree terminal => exact within_admitWaitExpiry tree terminal
  | chiffonHold tree terminal => exact within_chiffonHold tree terminal
  | assignOnuId tree terminal => exact within_assignOnuId tree terminal
  | assignAllocId tree allocation => exact within_assignAllocId tree allocation
  | stepMissed tree terminal step => exact within_stepMissed tree terminal step
  | driftCorrection tree terminal => exact within_driftCorrection tree terminal
  | terminalLost tree terminal => exact within_terminalLost tree terminal
  | admitTerminal tree terminal onuId => exact within_admitTerminal tree terminal onuId
  | deny tree terminal => exact within_deny tree terminal
  | rerange tree terminal => exact within_rerange tree terminal
  | deactivate tree terminal => exact within_deactivate tree terminal
  | free tree terminal => exact within_free tree terminal
  | mapBuild tree set buildNs flagged => exact within_mapBuild tree set buildNs flagged
  | statusReportDecode tree allocation backlog frame => exact within_statusReportDecode tree allocation backlog frame
  | contextRingWrite tree set => exact within_contextRingWrite tree set
  | grantAccRead die target tree index list => exact within_grantAccRead die target tree index list
  | grantAccWrite die target tree index list => exact within_grantAccWrite die target tree index list
  | writeReset die target tree index => exact within_writeReset die target tree index
  | gateBankSwap die list => exact within_gateBankSwap die list
  | resvMicroWindow tree set onuId frameLow => exact within_resvMicroWindow tree set onuId frameLow
  | resvRangingGrant tree set onuId frameLow units profile => exact within_resvRangingGrant tree set onuId frameLow units profile
  | resvQuietWindow tree set frameLow => exact within_resvQuietWindow tree set frameLow
  | containerBuild circuit => exact within_containerBuild circuit
  | containerMissing circuit => exact within_containerMissing circuit
  | cePacketReceive die => exact within_cePacketReceive die
  | containerReceive circuit => exact within_containerReceive circuit
  | groupRelease die group => exact within_groupRelease die group
  | circAccRead die group index => exact within_circAccRead die group index
  | circAccWrite die group index => exact within_circAccWrite die group index
  | circuitEnable die index => exact within_circuitEnable die index
  | circuitDisable die index => exact within_circuitDisable die index
  | fabricFrameReceive lane bytes sec => exact within_fabricFrameReceive lane bytes sec
  | frameAdmit die => exact within_frameAdmit die
  | queueRelease die up port => exact within_queueRelease die up port
  | fabricFrameTransmit lane cls ptp => exact within_fabricFrameTransmit lane cls ptp
  | feltRelease die port => exact within_feltRelease die port
  | portHoldCause die port cause => exact within_portHoldCause die port cause
  | portResume die port => exact within_portResume die port
  | portAvailable die port => exact within_portAvailable die port
  | tmSampleWindow die => exact within_tmSampleWindow die
  | tmAccRead die target index => exact within_tmAccRead die target index
  | tmAccWrite die target index => exact within_tmAccWrite die target index
  | classRuleRead die ternary index => exact within_classRuleRead die ternary index
  | ternaryWrite die index => exact within_ternaryWrite die index
  | exactInsert die => exact within_exactInsert die
  | exactReplace die => exact within_exactReplace die
  | exactDelete die => exact within_exactDelete die
  | meterRead die meter => exact within_meterRead die meter
  | meterWrite die meter keep => exact within_meterWrite die meter keep
  | tableInsert chan addr entry expect tied => exact within_tableInsert chan addr entry expect tied
  | tableReplace chan addr entry expect tied => exact within_tableReplace chan addr entry expect tied
  | tableDelete chan addr entry expect tied => exact within_tableDelete chan addr entry expect tied
  | tableLock chan addr bucket second => exact within_tableLock chan addr bucket second
  | tableUnlock chan addr => exact within_tableUnlock chan addr
  | writeSlot chan addr bucket slot entry expect => exact within_writeSlot chan addr bucket slot entry expect
  | ageBucket => exact within_ageBucket
  | lockExpiry chan => exact within_lockExpiry chan
  | keyLoad host die assoc index wrapped kek tied => exact within_keyLoad host die assoc index wrapped kek tied
  | keyErase host die assoc index tied => exact within_keyErase host die assoc index tied
  | keySwitch host die localTree linePort tied => exact within_keySwitch host die localTree linePort tied
  | keyRead host die assoc index tied => exact within_keyRead host die assoc index tied
  | kekLoad host die kek => exact within_kekLoad host die kek
  | switchCheck => exact within_switchCheck
  | keyExpiry die slot => exact within_keyExpiry die slot
  | starvedResume tree linePort => exact within_starvedResume tree linePort
  | lpBindWrite tree linePort keyPair encrypt txSc => exact within_lpBindWrite tree linePort keyPair encrypt txSc
  | msecRead die assoc index => exact within_msecRead die assoc index
  | msecChannelWrite die channel => exact within_msecChannelWrite die channel
  | arm die association => exact within_arm die association
  | refreshInterval die channel events => exact within_refreshInterval die channel events
  | stackTempCrossing die channel temp => exact within_stackTempCrossing die channel temp
  | stackThermalResponse die temp => exact within_stackThermalResponse die temp
  | stackRestart die cool => exact within_stackRestart die cool
  | rowDisturb die channel bank row requester domain => exact within_rowDisturb die channel bank row requester domain
  | throttleEnd die requester channel => exact within_throttleEnd die requester channel
  | eccCorrect die offset requester correctable owner => exact within_eccCorrect die offset requester correctable owner
  | patrolScrub die age => exact within_patrolScrub die age
  | channelRetune die channel training => exact within_channelRetune die channel training
  | channelRetrain die channel training lost => exact within_channelRetrain die channel training lost
  | channelRetire die channel lost => exact within_channelRetire die channel lost
  | memRetrain die channel => exact within_memRetrain die channel
  | memRetire die channel lost => exact within_memRetire die channel lost
  | memRestart die cool => exact within_memRestart die cool
  | laneOn lane => exact within_laneOn lane
  | laneFail lane los cdrLock => exact within_laneFail lane los cdrLock
  | commaLock lane block => exact within_commaLock lane block
  | kolkanCellReceive lane header payload => exact within_kolkanCellReceive lane header payload
  | controlBlockBad lane block => exact within_controlBlockBad lane block
  | flow lane credits => exact within_flow lane credits
  | abort lane cls => exact within_abort lane cls
  | creditStall lane cls => exact within_creditStall lane cls
  | status lane pathOk rxOk => exact within_status lane pathOk rxOk
  | statusTimeout lane => exact within_statusTimeout lane
  | statusSend lane => exact within_statusSend lane
  | cap lane block => exact within_cap lane block
  | time lane seq tx rx srcValid master stratum turn => exact within_time lane seq tx rx srcValid master stratum turn
  | timeEcho lane seq turn rx => exact within_timeEcho lane seq turn rx
  | timeSend lane tx => exact within_timeSend lane tx
  | flitReplay die peer ok lost => exact within_flitReplay die peer ok lost
  | dieLinkIdle die peer => exact within_dieLinkIdle die peer
  | dieLinkWake die peer => exact within_dieLinkWake die peer
  | blindFallback die peer => exact within_blindFallback die peer
  | dieLinkOn die peer => exact within_dieLinkOn die peer
  | timeMeasurement source offset => exact within_timeMeasurement source offset
  | sourceLost => exact within_sourceLost
  | timeStep force => exact within_timeStep force
  | stepApply => exact within_stepApply
  | timeMeasWrite size value => exact within_timeMeasWrite size value
  | ppsEdge time => exact within_ppsEdge time
  | todMessage bytes time => exact within_todMessage bytes time
  | ppsOut sec => exact within_ppsOut sec
  | fabTsPop die => exact within_fabTsPop die
  | claimLive => exact within_claimLive
  | claimAbsent => exact within_claimAbsent
  | seize release => exact within_seize release
  | settleEnd => exact within_settleEnd
  | doubleClaim => exact within_doubleClaim
  | heartbeatSend tx => exact within_heartbeatSend tx
  | heartbeat seq device active t0 echoSeq turn rx => exact within_heartbeat seq device active t0 echoSeq turn rx
  | heartbeatFailure => exact within_heartbeatFailure
  | pairHello digest member pairDevice trees senior device => exact within_pairHello digest member pairDevice trees senior device
  | pairAccept => exact within_pairAccept
  | map tree set frame grants => exact within_map tree set frame grants
  | terminal records => exact within_terminal records
  | circuit records => exact within_circuit records
  | health received => exact within_health received
  | autoDegrade => exact within_autoDegrade
  | release frame => exact within_release frame
  | releaseDarken => exact within_releaseDarken
  | calibrate tree => exact within_calibrate tree
  | standbyOffsetUpdate tree => exact within_standbyOffsetUpdate tree
  | tweedLoadCheck die load missed late deferrable => exact within_tweedLoadCheck die load missed late deferrable
  | watchdog die => exact within_watchdog die
  | taskOverrun die task fault => exact within_taskOverrun die task fault
  | doorbell die slot release => exact within_doorbell die slot release
  | mailboxService die reply => exact within_mailboxService die reply
  | version die => exact within_version die
  | rotate die tied => exact within_rotate die tied
  | rotateCancel die => exact within_rotateCancel die
  | extMsg die reply => exact within_extMsg die reply
  | interruptEntry die firmware late => exact within_interruptEntry die firmware late
  | resume die firmware late => exact within_resume die firmware late
  | coreWake die firmware => exact within_coreWake die firmware
  | groupFire die group => exact within_groupFire die group
  | swset die source => exact within_swset die source
  | targetWrite die source host target vector => exact within_targetWrite die source host target vector
  | msixDelivery die => exact within_msixDelivery die
  | eoi die source => exact within_eoi die source
  | counterFlush die counter => exact within_counterFlush die counter
  | perfCntRead die counter => exact within_perfCntRead die counter
  | readClear die counter => exact within_readClear die counter
  | clear die counter => exact within_clear die counter
  | snapshotArm => exact within_snapshotArm
  | snapshotCancel => exact within_snapshotCancel
  | snapshotEpoch => exact within_snapshotEpoch
  | snapshotDieDone die copyNs => exact within_snapshotDieDone die copyNs
  | traceRecord die record throttled => exact within_traceRecord die record throttled
  | bandwidthWindow die window => exact within_bandwidthWindow die window
  | sentinelInterval die readings => exact within_sentinelInterval die readings
  | telemetryRecord die power skipped => exact within_telemetryRecord die power skipped
  | eventLog die origin source => exact within_eventLog die origin source
  | sramScrub die uncorrectable => exact within_sramScrub die uncorrectable
  | mramScrub die flaw => exact within_mramScrub die flaw
  | bgLag die activity lag => exact within_bgLag die activity lag
  | table chan desc record tied => exact within_table chan desc record tied
  | stage chan desc bytes => exact within_stage chan desc bytes
  | devRead chan desc => exact within_devRead chan desc
  | omciTx chan desc bytes => exact within_omciTx chan desc bytes
  | rxBuffer chan desc => exact within_rxBuffer chan desc
  | rxMessage message at0 => exact within_rxMessage message at0
  | dmaError chan failed => exact within_dmaError chan failed
  | bar2Read who off size => exact within_bar2Read who off size
  | bar2Write who off bytes => exact within_bar2Write who off bytes
  | coldReset => exact within_coldReset
  | packageReset cause => exact within_packageReset cause
  | resetPackage key => exact within_resetPackage key
  | perst asserted => exact within_perst asserted
  | hostInterfaceReset => exact within_hostInterfaceReset
  | startup ms untrained => exact within_startup ms untrained
  | supplySupervision vin iin pin => exact within_supplySupervision vin iin pin
  | supplyFault steps => exact within_supplyFault steps
  | governorStep die request => exact within_governorStep die request
  | junctionThermal die readings package cool => exact within_junctionThermal die readings package cool
  | diePowerDown die trip => exact within_diePowerDown die trip
  | dieRestart die => exact within_dieRestart die
  | muteSuppressionEnd tree => exact within_muteSuppressionEnd tree
  | flowSend lane => exact within_flowSend lane

end Sys2Proof.Machine
end

