-- ==== Sys2Proof/Laws/KeepsGet.lean ====
section
/-!
SUPPORT. What `Keeps` says of one field or one part of State.
-/

namespace Sys2Proof.Machine

set_option Elab.async false

variable {R : Nat} {s t : State}

/-- A field outside the set reads as before, where it is none that the image sets. -/
theorem Keeps.get (h : Keeps R s t) (f : Field) (i : Nat) (m : R.testBit (wordBit f.num) = false) (n : f.perImage = false) :
    t.get f i = s.get f i := State.get_plain f i n fun d => h.regs (f.at i) m d

/-- A field outside the set reads as before, where the woven sections do not change. -/
theorem Keeps.get_image (h : Keeps R s t) (f : Field) (i : Nat) (m : R.testBit (wordBit f.num) = false) (p : R.testBit Part.sects.bit = false)
    (n : f.num ≠ TM_BUF_STATUS.BUF_CELLS.num ∧ f.num ≠ FELT_STATUS.REGION_CELLS.num) : t.get f i = s.get f i :=
  State.get_congr f i h.ident (by have e := congrArg State.sects (h.parts .sects p); exact e) n fun d => h.regs (f.at i) m d

theorem Keeps.eq_live (h : Keeps R s t) (m : R.testBit Part.live.bit = false) : t.live = s.live := by
  have e := congrArg State.live (h.parts .live m)
  exact e
theorem Keeps.eq_sects (h : Keeps R s t) (m : R.testBit Part.sects.bit = false) : t.sects = s.sects := by
  have e := congrArg State.sects (h.parts .sects m)
  exact e
theorem Keeps.eq_latches (h : Keeps R s t) (m : R.testBit Part.latches.bit = false) : t.latches = s.latches := by
  have e := congrArg State.latches (h.parts .latches m)
  exact e
theorem Keeps.eq_chans (h : Keeps R s t) (m : R.testBit Part.chans.bit = false) : t.chans = s.chans := by
  have e := congrArg State.chans (h.parts .chans m)
  exact e
theorem Keeps.eq_loader (h : Keeps R s t) (m : R.testBit Part.loader.bit = false) : t.loader = s.loader := by
  have e := congrArg State.loader (h.parts .loader m)
  exact e
theorem Keeps.eq_slots (h : Keeps R s t) (m : R.testBit Part.slots.bit = false) : t.slots = s.slots := by
  have e := congrArg State.slots (h.parts .slots m)
  exact e
theorem Keeps.eq_slotBad (h : Keeps R s t) (m : R.testBit Part.slotBad.bit = false) : t.slotBad = s.slotBad := by
  have e := congrArg State.slotBad (h.parts .slotBad m)
  exact e
theorem Keeps.eq_mram (h : Keeps R s t) (m : R.testBit Part.mram.bit = false) : t.mram = s.mram := by
  have e := congrArg State.mram (h.parts .mram m)
  exact e
theorem Keeps.eq_cores (h : Keeps R s t) (m : R.testBit Part.cores.bit = false) : t.cores = s.cores := by
  have e := congrArg State.cores (h.parts .cores m)
  exact e
theorem Keeps.eq_ctxStore (h : Keeps R s t) (m : R.testBit Part.ctxStore.bit = false) : t.ctxStore = s.ctxStore := by
  have e := congrArg State.ctxStore (h.parts .ctxStore m)
  exact e
theorem Keeps.eq_tweed (h : Keeps R s t) (m : R.testBit Part.tweed.bit = false) : t.tweed = s.tweed := by
  have e := congrArg State.tweed (h.parts .tweed m)
  exact e
theorem Keeps.eq_rotations (h : Keeps R s t) (m : R.testBit Part.rotations.bit = false) : t.rotations = s.rotations := by
  have e := congrArg State.rotations (h.parts .rotations m)
  exact e
theorem Keeps.eq_stats (h : Keeps R s t) (m : R.testBit Part.stats.bit = false) : t.stats = s.stats := by
  have e := congrArg State.stats (h.parts .stats m)
  exact e
theorem Keeps.eq_dev (h : Keeps R s t) (m : R.testBit Part.dev.bit = false) : t.dev = s.dev := by
  have e := congrArg State.dev (h.parts .dev m)
  exact e
theorem Keeps.eq_perf (h : Keeps R s t) (m : R.testBit Part.perf.bit = false) : t.perf = s.perf := by
  have e := congrArg State.perf (h.parts .perf m)
  exact e
theorem Keeps.eq_channels (h : Keeps R s t) (m : R.testBit Part.channels.bit = false) : t.channels = s.channels := by
  have e := congrArg State.channels (h.parts .channels m)
  exact e
theorem Keeps.eq_dieStacks (h : Keeps R s t) (m : R.testBit Part.dieStacks.bit = false) : t.dieStacks = s.dieStacks := by
  have e := congrArg State.dieStacks (h.parts .dieStacks m)
  exact e
theorem Keeps.eq_clock (h : Keeps R s t) (m : R.testBit Part.clock.bit = false) : t.clock = s.clock := by
  have e := congrArg State.clock (h.parts .clock m)
  exact e
theorem Keeps.eq_pair (h : Keeps R s t) (m : R.testBit Part.pair.bit = false) : t.pair = s.pair := by
  have e := congrArg State.pair (h.parts .pair m)
  exact e
theorem Keeps.eq_snap (h : Keeps R s t) (m : R.testBit Part.snap.bit = false) : t.snap = s.snap := by
  have e := congrArg State.snap (h.parts .snap m)
  exact e
theorem Keeps.eq_dma (h : Keeps R s t) (m : R.testBit Part.dma.bit = false) : t.dma = s.dma := by
  have e := congrArg State.dma (h.parts .dma m)
  exact e
theorem Keeps.eq_pci (h : Keeps R s t) (m : R.testBit Part.pci.bit = false) : t.pci = s.pci := by
  have e := congrArg State.pci (h.parts .pci m)
  exact e
theorem Keeps.eq_power (h : Keeps R s t) (m : R.testBit Part.power.bit = false) : t.power = s.power := by
  have e := congrArg State.power (h.parts .power m)
  exact e
theorem Keeps.eq_supply (h : Keeps R s t) (m : R.testBit Part.supply.bit = false) : t.supply = s.supply := by
  have e := congrArg State.supply (h.parts .supply m)
  exact e
theorem Keeps.eq_bwAcc (h : Keeps R s t) (m : R.testBit Part.bwAcc.bit = false) : t.bwAcc = s.bwAcc := by
  have e := congrArg State.bwAcc (h.parts .bwAcc m)
  exact e
theorem Keeps.eq_sets (h : Keeps R s t) (m : R.testBit Part.sets.bit = false) : t.sets = s.sets := by
  have e := congrArg State.sets (h.parts .sets m)
  exact e
theorem Keeps.eq_trees (h : Keeps R s t) (m : R.testBit Part.trees.bit = false) : t.trees = s.trees := by
  have e := congrArg State.trees (h.parts .trees m)
  exact e
theorem Keeps.eq_terms (h : Keeps R s t) (m : R.testBit Part.terms.bit = false) : t.terms = s.terms := by
  have e := congrArg State.terms (h.parts .terms m)
  exact e
theorem Keeps.eq_allocs (h : Keeps R s t) (m : R.testBit Part.allocs.bit = false) : t.allocs = s.allocs := by
  have e := congrArg State.allocs (h.parts .allocs m)
  exact e
theorem Keeps.eq_resv (h : Keeps R s t) (m : R.testBit Part.resv.bit = false) : t.resv = s.resv := by
  have e := congrArg State.resv (h.parts .resv m)
  exact e
theorem Keeps.eq_rot (h : Keeps R s t) (m : R.testBit Part.rot.bit = false) : t.rot = s.rot := by
  have e := congrArg State.rot (h.parts .rot m)
  exact e
theorem Keeps.eq_circs (h : Keeps R s t) (m : R.testBit Part.circs.bit = false) : t.circs = s.circs := by
  have e := congrArg State.circs (h.parts .circs m)
  exact e
theorem Keeps.eq_grps (h : Keeps R s t) (m : R.testBit Part.grps.bit = false) : t.grps = s.grps := by
  have e := congrArg State.grps (h.parts .grps m)
  exact e
theorem Keeps.eq_chkSeen (h : Keeps R s t) (m : R.testBit Part.chkSeen.bit = false) : t.chkSeen = s.chkSeen := by
  have e := congrArg State.chkSeen (h.parts .chkSeen m)
  exact e
theorem Keeps.eq_exact (h : Keeps R s t) (m : R.testBit Part.exact.bit = false) : t.exact = s.exact := by
  have e := congrArg State.exact (h.parts .exact m)
  exact e
theorem Keeps.eq_tern (h : Keeps R s t) (m : R.testBit Part.tern.bit = false) : t.tern = s.tern := by
  have e := congrArg State.tern (h.parts .tern m)
  exact e
theorem Keeps.eq_fwd (h : Keeps R s t) (m : R.testBit Part.fwd.bit = false) : t.fwd = s.fwd := by
  have e := congrArg State.fwd (h.parts .fwd m)
  exact e
theorem Keeps.eq_cache (h : Keeps R s t) (m : R.testBit Part.cache.bit = false) : t.cache = s.cache := by
  have e := congrArg State.cache (h.parts .cache m)
  exact e
theorem Keeps.eq_notes (h : Keeps R s t) (m : R.testBit Part.notes.bit = false) : t.notes = s.notes := by
  have e := congrArg State.notes (h.parts .notes m)
  exact e
theorem Keeps.eq_updates (h : Keeps R s t) (m : R.testBit Part.updates.bit = false) : t.updates = s.updates := by
  have e := congrArg State.updates (h.parts .updates m)
  exact e
theorem Keeps.eq_heldUpdates (h : Keeps R s t) (m : R.testBit Part.heldUpdates.bit = false) : t.heldUpdates = s.heldUpdates := by
  have e := congrArg State.heldUpdates (h.parts .heldUpdates m)
  exact e
theorem Keeps.eq_lastSeq (h : Keeps R s t) (m : R.testBit Part.lastSeq.bit = false) : t.lastSeq = s.lastSeq := by
  have e := congrArg State.lastSeq (h.parts .lastSeq m)
  exact e
theorem Keeps.eq_seqLocks (h : Keeps R s t) (m : R.testBit Part.seqLocks.bit = false) : t.seqLocks = s.seqLocks := by
  have e := congrArg State.seqLocks (h.parts .seqLocks m)
  exact e
theorem Keeps.eq_dieLocks (h : Keeps R s t) (m : R.testBit Part.dieLocks.bit = false) : t.dieLocks = s.dieLocks := by
  have e := congrArg State.dieLocks (h.parts .dieLocks m)
  exact e
theorem Keeps.eq_touchSent (h : Keeps R s t) (m : R.testBit Part.touchSent.bit = false) : t.touchSent = s.touchSent := by
  have e := congrArg State.touchSent (h.parts .touchSent m)
  exact e
theorem Keeps.eq_quotaSaid (h : Keeps R s t) (m : R.testBit Part.quotaSaid.bit = false) : t.quotaSaid = s.quotaSaid := by
  have e := congrArg State.quotaSaid (h.parts .quotaSaid m)
  exact e
theorem Keeps.eq_ringLost (h : Keeps R s t) (m : R.testBit Part.ringLost.bit = false) : t.ringLost = s.ringLost := by
  have e := congrArg State.ringLost (h.parts .ringLost m)
  exact e
theorem Keeps.eq_pendSince (h : Keeps R s t) (m : R.testBit Part.pendSince.bit = false) : t.pendSince = s.pendSince := by
  have e := congrArg State.pendSince (h.parts .pendSince m)
  exact e
theorem Keeps.eq_keys (h : Keeps R s t) (m : R.testBit Part.keys.bit = false) : t.keys = s.keys := by
  have e := congrArg State.keys (h.parts .keys m)
  exact e
theorem Keeps.eq_loadedAt (h : Keeps R s t) (m : R.testBit Part.loadedAt.bit = false) : t.loadedAt = s.loadedAt := by
  have e := congrArg State.loadedAt (h.parts .loadedAt m)
  exact e
theorem Keeps.eq_oldBind (h : Keeps R s t) (m : R.testBit Part.oldBind.bit = false) : t.oldBind = s.oldBind := by
  have e := congrArg State.oldBind (h.parts .oldBind m)
  exact e
theorem Keeps.eq_switches (h : Keeps R s t) (m : R.testBit Part.switches.bit = false) : t.switches = s.switches := by
  have e := congrArg State.switches (h.parts .switches m)
  exact e
theorem Keeps.eq_xgemIndex (h : Keeps R s t) (m : R.testBit Part.xgemIndex.bit = false) : t.xgemIndex = s.xgemIndex := by
  have e := congrArg State.xgemIndex (h.parts .xgemIndex m)
  exact e
theorem Keeps.eq_frags (h : Keeps R s t) (m : R.testBit Part.frags.bit = false) : t.frags = s.frags := by
  have e := congrArg State.frags (h.parts .frags m)
  exact e
theorem Keeps.eq_keyFrame (h : Keeps R s t) (m : R.testBit Part.keyFrame.bit = false) : t.keyFrame = s.keyFrame := by
  have e := congrArg State.keyFrame (h.parts .keyFrame m)
  exact e
theorem Keeps.eq_labels (h : Keeps R s t) (m : R.testBit Part.labels.bit = false) : t.labels = s.labels := by
  have e := congrArg State.labels (h.parts .labels m)
  exact e
theorem Keeps.eq_queues (h : Keeps R s t) (m : R.testBit Part.queues.bit = false) : t.queues = s.queues := by
  have e := congrArg State.queues (h.parts .queues m)
  exact e
theorem Keeps.eq_qstat (h : Keeps R s t) (m : R.testBit Part.qstat.bit = false) : t.qstat = s.qstat := by
  have e := congrArg State.qstat (h.parts .qstat m)
  exact e
theorem Keeps.eq_felt (h : Keeps R s t) (m : R.testBit Part.felt.bit = false) : t.felt = s.felt := by
  have e := congrArg State.felt (h.parts .felt m)
  exact e
theorem Keeps.eq_drain (h : Keeps R s t) (m : R.testBit Part.drain.bit = false) : t.drain = s.drain := by
  have e := congrArg State.drain (h.parts .drain m)
  exact e
theorem Keeps.eq_inbox (h : Keeps R s t) (m : R.testBit Part.inbox.bit = false) : t.inbox = s.inbox := by
  have e := congrArg State.inbox (h.parts .inbox m)
  exact e
theorem Keeps.eq_laneOut (h : Keeps R s t) (m : R.testBit Part.laneOut.bit = false) : t.laneOut = s.laneOut := by
  have e := congrArg State.laneOut (h.parts .laneOut m)
  exact e
theorem Keeps.eq_cellPos (h : Keeps R s t) (m : R.testBit Part.cellPos.bit = false) : t.cellPos = s.cellPos := by
  have e := congrArg State.cellPos (h.parts .cellPos m)
  exact e
theorem Keeps.eq_credit (h : Keeps R s t) (m : R.testBit Part.credit.bit = false) : t.credit = s.credit := by
  have e := congrArg State.credit (h.parts .credit m)
  exact e
theorem Keeps.eq_lanes (h : Keeps R s t) (m : R.testBit Part.lanes.bit = false) : t.lanes = s.lanes := by
  have e := congrArg State.lanes (h.parts .lanes m)
  exact e
theorem Keeps.eq_owed (h : Keeps R s t) (m : R.testBit Part.owed.bit = false) : t.owed = s.owed := by
  have e := congrArg State.owed (h.parts .owed m)
  exact e
theorem Keeps.eq_rxPart (h : Keeps R s t) (m : R.testBit Part.rxPart.bit = false) : t.rxPart = s.rxPart := by
  have e := congrArg State.rxPart (h.parts .rxPart m)
  exact e
theorem Keeps.eq_rxReady (h : Keeps R s t) (m : R.testBit Part.rxReady.bit = false) : t.rxReady = s.rxReady := by
  have e := congrArg State.rxReady (h.parts .rxReady m)
  exact e
theorem Keeps.eq_oam (h : Keeps R s t) (m : R.testBit Part.oam.bit = false) : t.oam = s.oam := by
  have e := congrArg State.oam (h.parts .oam m)
  exact e
theorem Keeps.eq_replays (h : Keeps R s t) (m : R.testBit Part.replays.bit = false) : t.replays = s.replays := by
  have e := congrArg State.replays (h.parts .replays m)
  exact e
theorem Keeps.eq_ceWaiting (h : Keeps R s t) (m : R.testBit Part.ceWaiting.bit = false) : t.ceWaiting = s.ceWaiting := by
  have e := congrArg State.ceWaiting (h.parts .ceWaiting m)
  exact e
theorem Keeps.eq_elim (h : Keeps R s t) (m : R.testBit Part.elim.bit = false) : t.elim = s.elim := by
  have e := congrArg State.elim (h.parts .elim m)
  exact e
theorem Keeps.eq_stamps (h : Keeps R s t) (m : R.testBit Part.stamps.bit = false) : t.stamps = s.stamps := by
  have e := congrArg State.stamps (h.parts .stamps m)
  exact e
theorem Keeps.eq_saidAt (h : Keeps R s t) (m : R.testBit Part.saidAt.bit = false) : t.saidAt = s.saidAt := by
  have e := congrArg State.saidAt (h.parts .saidAt m)
  exact e
theorem Keeps.eq_netSec (h : Keeps R s t) (m : R.testBit Part.netSec.bit = false) : t.netSec = s.netSec := by
  have e := congrArg State.netSec (h.parts .netSec m)
  exact e
theorem Keeps.eq_netFrac (h : Keeps R s t) (m : R.testBit Part.netFrac.bit = false) : t.netFrac = s.netFrac := by
  have e := congrArg State.netFrac (h.parts .netFrac m)
  exact e
theorem Keeps.eq_uses (h : Keeps R s t) (m : R.testBit Part.uses.bit = false) : t.uses = s.uses := by
  have e := congrArg State.uses (h.parts .uses m)
  exact e
theorem Keeps.eq_outbox (h : Keeps R s t) (m : R.testBit Part.outbox.bit = false) : t.outbox = s.outbox := by
  have e := congrArg State.outbox (h.parts .outbox m)
  exact e
theorem Keeps.eq_offers (h : Keeps R s t) (m : R.testBit Part.offers.bit = false) : t.offers = s.offers := by
  have e := congrArg State.offers (h.parts .offers m)
  exact e
theorem Keeps.eq_ageAt (h : Keeps R s t) (m : R.testBit Part.ageAt.bit = false) : t.ageAt = s.ageAt := by
  have e := congrArg State.ageAt (h.parts .ageAt m)
  exact e
theorem Keeps.eq_roots (h : Keeps R s t) (m : R.testBit Part.roots.bit = false) : t.roots = s.roots := by
  have e := congrArg State.roots (h.parts .roots m)
  exact e

end Sys2Proof.Machine
end

