-- ==== Sys2Proof/Laws/PerInstr.lean ====
section
/-!
SUPPORT. Statements made constructor by constructor. Family `Members`: a command that a member can meet, every larger member can meet as well, since the
units of a member are the first ones of every larger one (Table 0.1).
-/

namespace Sys2Proof.Laws

theorem and_up {a b x y : Bool} (h : a = true → x = true) (g : b = true → y = true) (e : (a && b) = true) : (x && y) = true := by
  rw [Bool.and_eq_true] at *
  exact ⟨h e.1, g e.2⟩

theorem below_up {x m n : Nat} (h : m ≤ n) (e : decide (x < m) = true) : decide (x < n) = true :=
  decide_eq_true (Nat.lt_of_lt_of_le (of_decide_eq_true e) h)

theorem scaled_up {x k m n : Nat} (h : m ≤ n) (e : decide (x < k * m) = true) : decide (x < k * n) = true := below_up (Nat.mul_le_mul_left k h) e

theorem all_up {α : Type} {f g : α → Bool} (l : List α) (h : ∀ x, f x = true → g x = true) (e : l.all f = true) : l.all g = true :=
  List.all_eq_true.2 fun x m => h x (List.all_eq_true.1 e x m)

variable {m n : Nat} (h : m ≤ n)
include h

theorem okTree_up (t : Nat) : okTree m t = true → okTree n t = true := scaled_up h

theorem okSet_up (t k : Nat) : okSet m t k = true → okSet n t k = true := and_up (okTree_up h t) id

theorem okTerm_up (t k : Nat) : okTerm m t k = true → okTerm n t k = true := and_up (okTree_up h t) id

theorem okLane_up (l : Nat) : okLane m l = true → okLane n l = true := scaled_up h

theorem okClass_up (l c : Nat) : okClass m l c = true → okClass n l c = true := and_up (okLane_up h l) id

theorem okLink_up (d e : Nat) : okLink m d e = true → okLink n d e = true := and_up (and_up (below_up h) (below_up h)) id

theorem okChannel_up (d c : Nat) : okChannel m d c = true → okChannel n d c = true := and_up (below_up h) id

theorem okPort_up (d p : Nat) : okPort m d p = true → okPort n d p = true := and_up (below_up h) (scaled_up h)

theorem okSource_up (d k : Nat) : okSource m d k = true → okSource n d k = true := and_up (below_up h) id

theorem okUnit_up (u : UnitId) : okUnit m u = true → okUnit n u = true := by
  cases u with
  | tree t => exact okTree_up h t
  | lane l => exact okLane_up h l
  | dieLink k => exact okLink_up h _ _
  | channel c => exact scaled_up h
  | die d => exact below_up h

theorem okPat_up (u : PatUnit) : okPat m u = true → okPat n u = true := by
  cases u with
  | tree t => exact okTree_up h t
  | fab d k => exact and_up (below_up h) id

theorem okWho_up (who : Requester) : okWho m who = true → okWho n who = true := by
  cases who with
  | host => exact id
  | task d k => exact and_up (below_up h) id
  | tweed d => exact below_up h
  | debug => exact id

theorem okEvents_up (es : List (Nat × Nat)) : okEvents m es = true → okEvents n es = true := all_up es fun x => okSource_up h x.1 x.2

omit h

/-- A command that a member can meet, every larger member can meet. -/
def Members.Statement (c : Instr) : Prop := ∀ small large : Nat, small ≤ large → c.wellFormed small = true → c.wellFormed large = true

theorem Members.registerWrite (who off size value during) : Members.Statement (.registerWrite who off size value during) := fun _ _ h => and_up (and_up (and_up (okWho_up h _) id) id) id

theorem Members.unmappedAccess (who off size write) : Members.Statement (.unmappedAccess who off size write) := fun _ _ h => and_up (and_up (okWho_up h _) id) id

theorem Members.shadowRead (who off size) : Members.Statement (.shadowRead who off size) := fun _ _ h => and_up (and_up (okWho_up h _) id) id

theorem Members.timeNowRead (who size) : Members.Statement (.timeNowRead who size) := fun _ _ h => and_up (okWho_up h _) id

theorem Members.unitEnableRequest (unit on) : Members.Statement (.unitEnableRequest unit on) := fun _ _ h => okUnit_up h _

theorem Members.unitPhaseDone (unit) : Members.Statement (.unitPhaseDone unit) := fun _ _ h => okUnit_up h _

theorem Members.secondLatch (sec) : Members.Statement (.secondLatch sec) := fun _ _ _ => id

theorem Members.tableUpdateApply (die) : Members.Statement (.tableUpdateApply die) := fun _ _ h => below_up h

theorem Members.orderStall (die) : Members.Statement (.orderStall die) := fun _ _ h => below_up h

theorem Members.downstreamFrameStart (tree set at0) : Members.Statement (.downstreamFrameStart tree set at0) := fun _ _ h => and_up (okSet_up h _ _) id

theorem Members.lateMap (tree set) : Members.Statement (.lateMap tree set) := fun _ _ h => okSet_up h _ _

theorem Members.ploamRingSample (tree set) : Members.Statement (.ploamRingSample tree set) := fun _ _ h => okSet_up h _ _

theorem Members.dsUnderrun (tree set come) : Members.Statement (.dsUnderrun tree set come) := fun _ _ h => okSet_up h _ _

theorem Members.stageBegin (slot) : Members.Statement (.stageBegin slot) := fun _ _ _ => id

theorem Members.stageEnd : Members.Statement (.stageEnd) := fun _ _ _ => id

theorem Members.select (slot trial) : Members.Statement (.select slot trial) := fun _ _ _ => id

theorem Members.confirm : Members.Statement (.confirm) := fun _ _ _ => id

theorem Members.weave : Members.Statement (.weave) := fun _ _ _ => id

theorem Members.weaveDone (die) : Members.Statement (.weaveDone die) := fun _ _ h => below_up h

theorem Members.treeReweave (tree slot) : Members.Statement (.treeReweave tree slot) := fun _ _ _ => id

theorem Members.reweaveSectionsLoaded : Members.Statement (.reweaveSectionsLoaded) := fun _ _ _ => id

theorem Members.reweaveComplete : Members.Statement (.reweaveComplete) := fun _ _ _ => id

theorem Members.dmkStageData (offset bytes) : Members.Statement (.dmkStageData offset bytes) := fun _ _ _ => id

theorem Members.mramRecordCommit (die) : Members.Statement (.mramRecordCommit die) := fun _ _ h => below_up h

theorem Members.pageReclaim (die) : Members.Statement (.pageReclaim die) := fun _ _ h => below_up h

theorem Members.recordRotation (die) : Members.Statement (.recordRotation die) := fun _ _ h => below_up h

theorem Members.secLockSet (mask) : Members.Statement (.secLockSet mask) := fun _ _ _ => id

theorem Members.dbgNonceRequest : Members.Statement (.dbgNonceRequest) := fun _ _ _ => id

theorem Members.dbgPasswordAttempt (own elapsed) : Members.Statement (.dbgPasswordAttempt own elapsed) := fun _ _ _ => id

theorem Members.dbgSignedAttempt (own elapsed) : Members.Statement (.dbgSignedAttempt own elapsed) := fun _ _ _ => id

theorem Members.dbgSetPassword (own) : Members.Statement (.dbgSetPassword own) := fun _ _ _ => id

theorem Members.nonceExpiry : Members.Statement (.nonceExpiry) := fun _ _ _ => id

theorem Members.opticsStart (tree) : Members.Statement (.opticsStart tree) := fun _ _ h => okTree_up h _

theorem Members.opticsLit (tree) : Members.Statement (.opticsLit tree) := fun _ _ h => okTree_up h _

theorem Members.txDarkAtShutdown (tree) : Members.Statement (.txDarkAtShutdown tree) := fun _ _ h => okTree_up h _

theorem Members.laserPark (tree) : Members.Statement (.laserPark tree) := fun _ _ h => okTree_up h _

theorem Members.txCalibration (tree set) : Members.Statement (.txCalibration tree set) := fun _ _ h => okSet_up h _ _

theorem Members.laserAgeingCheck (tree set) : Members.Statement (.laserAgeingCheck tree set) := fun _ _ h => okSet_up h _ _

theorem Members.txMuteSet (tree) : Members.Statement (.txMuteSet tree) := fun _ _ h => okTree_up h _

theorem Members.txMuteClear (tree) : Members.Statement (.txMuteClear tree) := fun _ _ h => okTree_up h _

theorem Members.txLol (tree set) : Members.Statement (.txLol tree set) := fun _ _ h => okSet_up h _ _

theorem Members.txRelock (tree set) : Members.Statement (.txRelock tree set) := fun _ _ h => okSet_up h _ _

theorem Members.contextSwap (tree set) : Members.Statement (.contextSwap tree set) := fun _ _ h => okSet_up h _ _

theorem Members.burstReceive (tree set burst) : Members.Statement (.burstReceive tree set burst) := fun _ _ h => and_up (okSet_up h _ _) id

theorem Members.upstreamFrameEnd (tree set samples) : Members.Statement (.upstreamFrameEnd tree set samples) := fun _ _ h => and_up (okSet_up h _ _) id

theorem Members.rxLol (tree set) : Members.Statement (.rxLol tree set) := fun _ _ h => okSet_up h _ _

theorem Members.rxLolClear (tree set) : Members.Statement (.rxLolClear tree set) := fun _ _ h => okSet_up h _ _

theorem Members.rxTermClear (tree terminal) : Members.Statement (.rxTermClear tree terminal) := fun _ _ h => okTerm_up h _ _

theorem Members.errorInject (unit passed place) : Members.Statement (.errorInject unit passed place) := fun _ _ h => okPat_up h _

theorem Members.oneShotInject (unit place) : Members.Statement (.oneShotInject unit place) := fun _ _ h => okPat_up h _

theorem Members.patternCheckerLock (unit terminal good) : Members.Statement (.patternCheckerLock unit terminal good) := fun _ _ h => and_up (okPat_up h _) id

theorem Members.optTxRefresh (tree set power bias wave temp) : Members.Statement (.optTxRefresh tree set power bias wave temp) := fun _ _ h => okSet_up h _ _

theorem Members.quietWindowOpen (tree set) : Members.Statement (.quietWindowOpen tree set) := fun _ _ h => okSet_up h _ _

theorem Members.quietForce (tree) : Members.Statement (.quietForce tree) := fun _ _ h => okTree_up h _

theorem Members.serialNumberFound (tree set arrival delay serial) : Members.Statement (.serialNumberFound tree set arrival delay serial) := fun _ _ h => and_up (okSet_up h _ _) id

theorem Members.rangingGrantResult (tree terminal) : Members.Statement (.rangingGrantResult tree terminal) := fun _ _ h => okTerm_up h _ _

theorem Members.chiffonParams (tree) : Members.Statement (.chiffonParams tree) := fun _ _ h => okTree_up h _

theorem Members.signatureDetection (tree code lag frames) : Members.Statement (.signatureDetection tree code lag frames) := fun _ _ h => and_up (okTree_up h _) id

theorem Members.chiffonInvite (tree place frame) : Members.Statement (.chiffonInvite tree place frame) := fun _ _ h => and_up (and_up (okTree_up h _) id) id

theorem Members.microWindowResult (tree place) : Members.Statement (.microWindowResult tree place) := fun _ _ h => and_up (okTree_up h _) id

theorem Members.admitWaitExpiry (tree terminal) : Members.Statement (.admitWaitExpiry tree terminal) := fun _ _ h => okTerm_up h _ _

theorem Members.chiffonHold (tree terminal) : Members.Statement (.chiffonHold tree terminal) := fun _ _ h => okTerm_up h _ _

theorem Members.assignOnuId (tree terminal) : Members.Statement (.assignOnuId tree terminal) := fun _ _ h => okTerm_up h _ _

theorem Members.assignAllocId (tree allocation) : Members.Statement (.assignAllocId tree allocation) := fun _ _ h => and_up (okTree_up h _) id

theorem Members.stepMissed (tree terminal step) : Members.Statement (.stepMissed tree terminal step) := fun _ _ h => and_up (okTree_up h _) id

theorem Members.driftCorrection (tree terminal) : Members.Statement (.driftCorrection tree terminal) := fun _ _ h => okTerm_up h _ _

theorem Members.terminalLost (tree terminal) : Members.Statement (.terminalLost tree terminal) := fun _ _ h => okTerm_up h _ _

theorem Members.admitTerminal (tree terminal onuId) : Members.Statement (.admitTerminal tree terminal onuId) := fun _ _ h => and_up (okTerm_up h _ _) id

theorem Members.deny (tree terminal) : Members.Statement (.deny tree terminal) := fun _ _ h => okTerm_up h _ _

theorem Members.rerange (tree terminal) : Members.Statement (.rerange tree terminal) := fun _ _ h => okTerm_up h _ _

theorem Members.deactivate (tree terminal) : Members.Statement (.deactivate tree terminal) := fun _ _ h => okTerm_up h _ _

theorem Members.free (tree terminal) : Members.Statement (.free tree terminal) := fun _ _ h => okTerm_up h _ _

theorem Members.mapBuild (tree set buildNs flagged) : Members.Statement (.mapBuild tree set buildNs flagged) := fun _ _ h => and_up (okSet_up h _ _) id

theorem Members.statusReportDecode (tree allocation backlog frame) : Members.Statement (.statusReportDecode tree allocation backlog frame) := fun _ _ h => and_up (and_up (and_up (okTree_up h _) id) id) id

theorem Members.contextRingWrite (tree set) : Members.Statement (.contextRingWrite tree set) := fun _ _ h => okSet_up h _ _

theorem Members.grantAccRead (die target tree index list) : Members.Statement (.grantAccRead die target tree index list) := fun _ _ h => and_up (and_up (and_up (and_up (below_up h) id) id) id) id

theorem Members.grantAccWrite (die target tree index list) : Members.Statement (.grantAccWrite die target tree index list) := fun _ _ h => and_up (and_up (and_up (and_up (below_up h) id) id) id) id

theorem Members.writeReset (die target tree index) : Members.Statement (.writeReset die target tree index) := fun _ _ h => and_up (and_up (and_up (below_up h) id) id) id

theorem Members.gateBankSwap (die list) : Members.Statement (.gateBankSwap die list) := fun _ _ h => and_up (below_up h) id

theorem Members.resvMicroWindow (tree set onuId frameLow) : Members.Statement (.resvMicroWindow tree set onuId frameLow) := fun _ _ h => and_up (and_up (okSet_up h _ _) id) id

theorem Members.resvRangingGrant (tree set onuId frameLow units profile) : Members.Statement (.resvRangingGrant tree set onuId frameLow units profile) := fun _ _ h => and_up (and_up (and_up (and_up (okSet_up h _ _) id) id) id) id

theorem Members.resvQuietWindow (tree set frameLow) : Members.Statement (.resvQuietWindow tree set frameLow) := fun _ _ h => and_up (okSet_up h _ _) id

theorem Members.containerBuild (circuit) : Members.Statement (.containerBuild circuit) := fun _ _ h => scaled_up h

theorem Members.containerMissing (circuit) : Members.Statement (.containerMissing circuit) := fun _ _ h => scaled_up h

theorem Members.cePacketReceive (die) : Members.Statement (.cePacketReceive die) := fun _ _ h => below_up h

theorem Members.containerReceive (circuit) : Members.Statement (.containerReceive circuit) := fun _ _ h => scaled_up h

theorem Members.groupRelease (die group) : Members.Statement (.groupRelease die group) := fun _ _ h => and_up (below_up h) id

theorem Members.circAccRead (die group index) : Members.Statement (.circAccRead die group index) := fun _ _ h => and_up (below_up h) id

theorem Members.circAccWrite (die group index) : Members.Statement (.circAccWrite die group index) := fun _ _ h => and_up (below_up h) id

theorem Members.circuitEnable (die index) : Members.Statement (.circuitEnable die index) := fun _ _ h => and_up (below_up h) id

theorem Members.circuitDisable (die index) : Members.Statement (.circuitDisable die index) := fun _ _ h => and_up (below_up h) id

theorem Members.fabricFrameReceive (lane bytes sec) : Members.Statement (.fabricFrameReceive lane bytes sec) := fun _ _ h => and_up (and_up (okLane_up h _) id) id

theorem Members.frameAdmit (die) : Members.Statement (.frameAdmit die) := fun _ _ h => below_up h

theorem Members.queueRelease (die up port) : Members.Statement (.queueRelease die up port) := by
  refine fun a b h => and_up (below_up h) ?_
  cases up
  · exact id
  · exact scaled_up h

theorem Members.fabricFrameTransmit (lane cls ptp) : Members.Statement (.fabricFrameTransmit lane cls ptp) := fun _ _ h => okClass_up h _ _

theorem Members.feltRelease (die port) : Members.Statement (.feltRelease die port) := fun _ _ h => okPort_up h _ _

theorem Members.portHoldCause (die port cause) : Members.Statement (.portHoldCause die port cause) := fun _ _ h => and_up (okPort_up h _ _) id

theorem Members.portResume (die port) : Members.Statement (.portResume die port) := fun _ _ h => okPort_up h _ _

theorem Members.portAvailable (die port) : Members.Statement (.portAvailable die port) := fun _ _ h => okPort_up h _ _

theorem Members.tmSampleWindow (die) : Members.Statement (.tmSampleWindow die) := fun _ _ h => below_up h

theorem Members.tmAccRead (die target index) : Members.Statement (.tmAccRead die target index) := fun _ _ h => and_up (and_up (below_up h) id) id

theorem Members.tmAccWrite (die target index) : Members.Statement (.tmAccWrite die target index) := fun _ _ h => and_up (and_up (below_up h) id) id

theorem Members.classRuleRead (die ternary index) : Members.Statement (.classRuleRead die ternary index) := fun _ _ h => and_up (below_up h) id

theorem Members.ternaryWrite (die index) : Members.Statement (.ternaryWrite die index) := fun _ _ h => and_up (below_up h) id

theorem Members.exactInsert (die) : Members.Statement (.exactInsert die) := fun _ _ h => below_up h

theorem Members.exactReplace (die) : Members.Statement (.exactReplace die) := fun _ _ h => below_up h

theorem Members.exactDelete (die) : Members.Statement (.exactDelete die) := fun _ _ h => below_up h

theorem Members.meterRead (die meter) : Members.Statement (.meterRead die meter) := fun _ _ h => and_up (below_up h) id

theorem Members.meterWrite (die meter keep) : Members.Statement (.meterWrite die meter keep) := fun _ _ h => and_up (below_up h) id

theorem Members.tableInsert (chan addr entry expect tied) : Members.Statement (.tableInsert chan addr entry expect tied) := fun _ _ _ => id

theorem Members.tableReplace (chan addr entry expect tied) : Members.Statement (.tableReplace chan addr entry expect tied) := fun _ _ _ => id

theorem Members.tableDelete (chan addr entry expect tied) : Members.Statement (.tableDelete chan addr entry expect tied) := fun _ _ _ => id

theorem Members.tableLock (chan addr bucket second) : Members.Statement (.tableLock chan addr bucket second) := fun _ _ _ => id

theorem Members.tableUnlock (chan addr) : Members.Statement (.tableUnlock chan addr) := fun _ _ _ => id

theorem Members.writeSlot (chan addr bucket slot entry expect) : Members.Statement (.writeSlot chan addr bucket slot entry expect) := fun _ _ _ => id

theorem Members.ageBucket : Members.Statement (.ageBucket) := fun _ _ _ => id

theorem Members.lockExpiry (chan) : Members.Statement (.lockExpiry chan) := fun _ _ _ => id

theorem Members.keyLoad (host die assoc index wrapped kek tied) : Members.Statement (.keyLoad host die assoc index wrapped kek tied) := fun _ _ h => and_up (and_up (below_up h) id) id

theorem Members.keyErase (host die assoc index tied) : Members.Statement (.keyErase host die assoc index tied) := fun _ _ h => and_up (below_up h) id

theorem Members.keySwitch (host die localTree linePort tied) : Members.Statement (.keySwitch host die localTree linePort tied) := fun _ _ h => and_up (and_up (below_up h) id) id

theorem Members.keyRead (host die assoc index tied) : Members.Statement (.keyRead host die assoc index tied) := fun _ _ h => and_up (below_up h) id

theorem Members.kekLoad (host die kek) : Members.Statement (.kekLoad host die kek) := fun _ _ h => and_up (below_up h) id

theorem Members.switchCheck : Members.Statement (.switchCheck) := fun _ _ _ => id

theorem Members.keyExpiry (die slot) : Members.Statement (.keyExpiry die slot) := fun _ _ h => and_up (below_up h) id

theorem Members.starvedResume (tree linePort) : Members.Statement (.starvedResume tree linePort) := fun _ _ h => and_up (okTree_up h _) id

theorem Members.lpBindWrite (tree linePort keyPair encrypt txSc) : Members.Statement (.lpBindWrite tree linePort keyPair encrypt txSc) := fun _ _ h => and_up (and_up (and_up (okTree_up h _) id) id) id

theorem Members.msecRead (die assoc index) : Members.Statement (.msecRead die assoc index) := fun _ _ h => and_up (below_up h) id

theorem Members.msecChannelWrite (die channel) : Members.Statement (.msecChannelWrite die channel) := fun _ _ h => and_up (below_up h) id

theorem Members.arm (die association) : Members.Statement (.arm die association) := fun _ _ h => and_up (below_up h) id

theorem Members.refreshInterval (die channel events) : Members.Statement (.refreshInterval die channel events) := fun _ _ h => and_up (okChannel_up h _ _) id

theorem Members.stackTempCrossing (die channel temp) : Members.Statement (.stackTempCrossing die channel temp) := fun _ _ h => and_up (okChannel_up h _ _) id

theorem Members.stackThermalResponse (die temp) : Members.Statement (.stackThermalResponse die temp) := fun _ _ h => and_up (below_up h) id

theorem Members.stackRestart (die cool) : Members.Statement (.stackRestart die cool) := fun _ _ h => below_up h

theorem Members.rowDisturb (die channel bank row requester domain) : Members.Statement (.rowDisturb die channel bank row requester domain) := fun _ _ h => and_up (and_up (and_up (and_up (okChannel_up h _ _) id) id) id) id

theorem Members.throttleEnd (die requester channel) : Members.Statement (.throttleEnd die requester channel) := fun _ _ h => and_up (okChannel_up h _ _) id

theorem Members.eccCorrect (die offset requester correctable owner) : Members.Statement (.eccCorrect die offset requester correctable owner) := fun _ _ h => and_up (and_up (below_up h) id) id

theorem Members.patrolScrub (die age) : Members.Statement (.patrolScrub die age) := fun _ _ h => below_up h

theorem Members.channelRetune (die channel training) : Members.Statement (.channelRetune die channel training) := fun _ _ h => okChannel_up h _ _

theorem Members.channelRetrain (die channel training lost) : Members.Statement (.channelRetrain die channel training lost) := fun _ _ h => okChannel_up h _ _

theorem Members.channelRetire (die channel lost) : Members.Statement (.channelRetire die channel lost) := fun _ _ h => okChannel_up h _ _

theorem Members.memRetrain (die channel) : Members.Statement (.memRetrain die channel) := fun _ _ h => okChannel_up h _ _

theorem Members.memRetire (die channel lost) : Members.Statement (.memRetire die channel lost) := fun _ _ h => okChannel_up h _ _

theorem Members.memRestart (die cool) : Members.Statement (.memRestart die cool) := fun _ _ h => below_up h

theorem Members.laneOn (lane) : Members.Statement (.laneOn lane) := fun _ _ h => okLane_up h _

theorem Members.laneFail (lane los cdrLock) : Members.Statement (.laneFail lane los cdrLock) := fun _ _ h => okLane_up h _

theorem Members.commaLock (lane block) : Members.Statement (.commaLock lane block) := fun _ _ h => and_up (okLane_up h _) id

theorem Members.kolkanCellReceive (lane header payload) : Members.Statement (.kolkanCellReceive lane header payload) := fun _ _ h => and_up (and_up (okLane_up h _) id) id

theorem Members.controlBlockBad (lane block) : Members.Statement (.controlBlockBad lane block) := fun _ _ h => and_up (okLane_up h _) id

theorem Members.flow (lane credits) : Members.Statement (.flow lane credits) := fun _ _ h => and_up (and_up (okLane_up h _) id) id

theorem Members.abort (lane cls) : Members.Statement (.abort lane cls) := fun _ _ h => okClass_up h _ _

theorem Members.creditStall (lane cls) : Members.Statement (.creditStall lane cls) := fun _ _ h => okClass_up h _ _

theorem Members.status (lane pathOk rxOk) : Members.Statement (.status lane pathOk rxOk) := fun _ _ h => okLane_up h _

theorem Members.statusTimeout (lane) : Members.Statement (.statusTimeout lane) := fun _ _ h => okLane_up h _

theorem Members.statusSend (lane) : Members.Statement (.statusSend lane) := fun _ _ h => okLane_up h _

theorem Members.cap (lane block) : Members.Statement (.cap lane block) := fun _ _ h => and_up (and_up (okLane_up h _) id) id

theorem Members.time (lane seq tx rx srcValid master stratum turn) : Members.Statement (.time lane seq tx rx srcValid master stratum turn) := fun _ _ h => and_up (and_up (and_up (and_up (and_up (okLane_up h _) id) id) id) id) id

theorem Members.timeEcho (lane seq turn rx) : Members.Statement (.timeEcho lane seq turn rx) := fun _ _ h => and_up (and_up (and_up (okLane_up h _) id) id) id

theorem Members.timeSend (lane tx) : Members.Statement (.timeSend lane tx) := fun _ _ h => and_up (okLane_up h _) id

theorem Members.flitReplay (die peer ok lost) : Members.Statement (.flitReplay die peer ok lost) := fun _ _ h => okLink_up h _ _

theorem Members.dieLinkIdle (die peer) : Members.Statement (.dieLinkIdle die peer) := fun _ _ h => okLink_up h _ _

theorem Members.dieLinkWake (die peer) : Members.Statement (.dieLinkWake die peer) := fun _ _ h => okLink_up h _ _

theorem Members.blindFallback (die peer) : Members.Statement (.blindFallback die peer) := fun _ _ h => okLink_up h _ _

theorem Members.dieLinkOn (die peer) : Members.Statement (.dieLinkOn die peer) := fun _ _ h => okLink_up h _ _

theorem Members.timeMeasurement (source offset) : Members.Statement (.timeMeasurement source offset) := fun _ _ _ => id

theorem Members.sourceLost : Members.Statement (.sourceLost) := fun _ _ _ => id

theorem Members.timeStep (force) : Members.Statement (.timeStep force) := fun _ _ _ => id

theorem Members.stepApply : Members.Statement (.stepApply) := fun _ _ _ => id

theorem Members.timeMeasWrite (size value) : Members.Statement (.timeMeasWrite size value) := fun _ _ _ => id

theorem Members.ppsEdge (time) : Members.Statement (.ppsEdge time) := fun _ _ _ => id

theorem Members.todMessage (bytes time) : Members.Statement (.todMessage bytes time) := fun _ _ _ => id

theorem Members.ppsOut (sec) : Members.Statement (.ppsOut sec) := fun _ _ _ => id

theorem Members.fabTsPop (die) : Members.Statement (.fabTsPop die) := fun _ _ h => below_up h

theorem Members.claimLive : Members.Statement (.claimLive) := fun _ _ _ => id

theorem Members.claimAbsent : Members.Statement (.claimAbsent) := fun _ _ _ => id

theorem Members.seize (release) : Members.Statement (.seize release) := fun _ _ _ => id

theorem Members.settleEnd : Members.Statement (.settleEnd) := fun _ _ _ => id

theorem Members.doubleClaim : Members.Statement (.doubleClaim) := fun _ _ _ => id

theorem Members.heartbeatSend (tx) : Members.Statement (.heartbeatSend tx) := fun _ _ _ => id

theorem Members.heartbeat (seq device active t0 echoSeq turn rx) : Members.Statement (.heartbeat seq device active t0 echoSeq turn rx) := fun _ _ _ => id

theorem Members.heartbeatFailure : Members.Statement (.heartbeatFailure) := fun _ _ _ => id

theorem Members.pairHello (digest member pairDevice trees senior device) : Members.Statement (.pairHello digest member pairDevice trees senior device) := fun _ _ _ => id

theorem Members.pairAccept : Members.Statement (.pairAccept) := fun _ _ _ => id

theorem Members.map (tree set frame grants) : Members.Statement (.map tree set frame grants) := fun _ _ h => and_up (okSet_up h _ _) id

theorem Members.terminal (records) : Members.Statement (.terminal records) := by
  intro a b h
  repeat' first
    | exact id | exact below_up h | exact scaled_up h | exact okTree_up h _ | exact okTerm_up h _ _ | exact okChannel_up h _ _ | apply and_up
    | (apply all_up; intro _)

theorem Members.circuit (records) : Members.Statement (.circuit records) := by
  intro a b h
  repeat' first
    | exact id | exact below_up h | exact scaled_up h | exact okTree_up h _ | exact okTerm_up h _ _ | exact okChannel_up h _ _ | apply and_up
    | (apply all_up; intro _)

theorem Members.health (received) : Members.Statement (.health received) := fun _ _ _ => id

theorem Members.autoDegrade : Members.Statement (.autoDegrade) := fun _ _ _ => id

theorem Members.release (frame) : Members.Statement (.release frame) := fun _ _ _ => id

theorem Members.releaseDarken : Members.Statement (.releaseDarken) := fun _ _ _ => id

theorem Members.calibrate (tree) : Members.Statement (.calibrate tree) := fun _ _ _ => id

theorem Members.standbyOffsetUpdate (tree) : Members.Statement (.standbyOffsetUpdate tree) := fun _ _ h => okTree_up h _

theorem Members.tweedLoadCheck (die load missed late deferrable) : Members.Statement (.tweedLoadCheck die load missed late deferrable) := fun _ _ h => and_up (below_up h) id

theorem Members.watchdog (die) : Members.Statement (.watchdog die) := fun _ _ h => below_up h

theorem Members.taskOverrun (die task fault) : Members.Statement (.taskOverrun die task fault) := fun _ _ h => and_up (below_up h) id

theorem Members.doorbell (die slot release) : Members.Statement (.doorbell die slot release) := fun _ _ h => and_up (below_up h) id

theorem Members.mailboxService (die reply) : Members.Statement (.mailboxService die reply) := fun _ _ h => and_up (and_up (below_up h) id) id

theorem Members.version (die) : Members.Statement (.version die) := fun _ _ h => below_up h

theorem Members.rotate (die tied) : Members.Statement (.rotate die tied) := fun _ _ h => below_up h

theorem Members.rotateCancel (die) : Members.Statement (.rotateCancel die) := fun _ _ h => below_up h

theorem Members.extMsg (die reply) : Members.Statement (.extMsg die reply) := fun _ _ h => and_up (and_up (below_up h) id) id

theorem Members.interruptEntry (die firmware late) : Members.Statement (.interruptEntry die firmware late) := fun _ _ h => and_up (and_up (below_up h) id) (okEvents_up h _)

theorem Members.resume (die firmware late) : Members.Statement (.resume die firmware late) := fun _ _ h => and_up (and_up (below_up h) id) (okEvents_up h _)

theorem Members.coreWake (die firmware) : Members.Statement (.coreWake die firmware) := fun _ _ h => and_up (below_up h) id

theorem Members.groupFire (die group) : Members.Statement (.groupFire die group) := fun _ _ h => and_up (below_up h) id

theorem Members.swset (die source) : Members.Statement (.swset die source) := fun _ _ h => and_up (below_up h) id

theorem Members.targetWrite (die source host target vector) : Members.Statement (.targetWrite die source host target vector) := fun _ _ h => and_up (and_up (okSource_up h _ _) id) id

theorem Members.msixDelivery (die) : Members.Statement (.msixDelivery die) := fun _ _ h => below_up h

theorem Members.eoi (die source) : Members.Statement (.eoi die source) := fun _ _ h => and_up (below_up h) id

theorem Members.counterFlush (die counter) : Members.Statement (.counterFlush die counter) := fun _ _ h => and_up (below_up h) id

theorem Members.perfCntRead (die counter) : Members.Statement (.perfCntRead die counter) := fun _ _ h => and_up (below_up h) id

theorem Members.readClear (die counter) : Members.Statement (.readClear die counter) := fun _ _ h => and_up (below_up h) id

theorem Members.clear (die counter) : Members.Statement (.clear die counter) := fun _ _ h => and_up (below_up h) id

theorem Members.snapshotArm : Members.Statement (.snapshotArm) := fun _ _ _ => id

theorem Members.snapshotCancel : Members.Statement (.snapshotCancel) := fun _ _ _ => id

theorem Members.snapshotEpoch : Members.Statement (.snapshotEpoch) := fun _ _ _ => id

theorem Members.snapshotDieDone (die copyNs) : Members.Statement (.snapshotDieDone die copyNs) := fun _ _ h => below_up h

theorem Members.traceRecord (die record throttled) : Members.Statement (.traceRecord die record throttled) := fun _ _ h => and_up (below_up h) id

theorem Members.bandwidthWindow (die window) : Members.Statement (.bandwidthWindow die window) := fun _ _ h => below_up h

theorem Members.sentinelInterval (die readings) : Members.Statement (.sentinelInterval die readings) := fun _ _ h => and_up (below_up h) id

theorem Members.telemetryRecord (die power skipped) : Members.Statement (.telemetryRecord die power skipped) := fun _ _ h => and_up (below_up h) id

theorem Members.eventLog (die origin source) : Members.Statement (.eventLog die origin source) := fun _ _ h => and_up (below_up h) (okSource_up h _ _)

theorem Members.sramScrub (die uncorrectable) : Members.Statement (.sramScrub die uncorrectable) := fun _ _ h => below_up h

theorem Members.mramScrub (die flaw) : Members.Statement (.mramScrub die flaw) := fun _ _ h => below_up h

theorem Members.bgLag (die activity lag) : Members.Statement (.bgLag die activity lag) := fun _ _ h => and_up (below_up h) id

theorem Members.table (chan desc record tied) : Members.Statement (.table chan desc record tied) := fun _ _ _ => id

theorem Members.stage (chan desc bytes) : Members.Statement (.stage chan desc bytes) := fun _ _ _ => id

theorem Members.devRead (chan desc) : Members.Statement (.devRead chan desc) := fun _ _ _ => id

theorem Members.omciTx (chan desc bytes) : Members.Statement (.omciTx chan desc bytes) := fun _ _ _ => id

theorem Members.rxBuffer (chan desc) : Members.Statement (.rxBuffer chan desc) := fun _ _ _ => id

theorem Members.rxMessage (message at0) : Members.Statement (.rxMessage message at0) := by
  intro a b h
  cases message with
  | omci t n bs => exact and_up id (and_up (okTerm_up h t n) id)
  | oam => exact id

theorem Members.dmaError (chan failed) : Members.Statement (.dmaError chan failed) := fun _ _ _ => id

theorem Members.bar2Read (who off size) : Members.Statement (.bar2Read who off size) := fun _ _ h => and_up (and_up (okWho_up h _) id) id

theorem Members.bar2Write (who off bytes) : Members.Statement (.bar2Write who off bytes) := fun _ _ h => and_up (and_up (okWho_up h _) id) id

theorem Members.coldReset : Members.Statement (.coldReset) := fun _ _ _ => id

theorem Members.packageReset (cause) : Members.Statement (.packageReset cause) := fun _ _ _ => id

theorem Members.resetPackage (key) : Members.Statement (.resetPackage key) := fun _ _ _ => id

theorem Members.perst (asserted) : Members.Statement (.perst asserted) := fun _ _ _ => id

theorem Members.hostInterfaceReset : Members.Statement (.hostInterfaceReset) := fun _ _ _ => id

theorem Members.startup (ms untrained) : Members.Statement (.startup ms untrained) := by
  intro a b h
  repeat' first
    | exact id | exact below_up h | exact scaled_up h | exact okTree_up h _ | exact okTerm_up h _ _ | exact okChannel_up h _ _ | apply and_up
    | (apply all_up; intro _)

theorem Members.supplySupervision (vin iin pin) : Members.Statement (.supplySupervision vin iin pin) := fun _ _ _ => id

theorem Members.supplyFault (steps) : Members.Statement (.supplyFault steps) := by
  intro a b h
  repeat' first
    | exact id | exact below_up h | exact scaled_up h | exact okTree_up h _ | exact okTerm_up h _ _ | exact okChannel_up h _ _ | apply and_up
    | (apply all_up; intro _)

theorem Members.governorStep (die request) : Members.Statement (.governorStep die request) := fun _ _ h => below_up h

theorem Members.junctionThermal (die readings package cool) : Members.Statement (.junctionThermal die readings package cool) := fun _ _ h => and_up (below_up h) id

theorem Members.diePowerDown (die trip) : Members.Statement (.diePowerDown die trip) := fun _ _ h => below_up h

theorem Members.dieRestart (die) : Members.Statement (.dieRestart die) := fun _ _ h => below_up h

theorem Members.muteSuppressionEnd (tree) : Members.Statement (.muteSuppressionEnd tree) := fun _ _ h => okTree_up h _

theorem Members.flowSend (lane) : Members.Statement (.flowSend lane) := fun _ _ h => okLane_up h _

end Sys2Proof.Laws
end

