-- ==== Sys2Proof/Tests/Slice0.lean ====
section
/-!
SUPPORT. Tests of the model: ill-formed commands that the check refuses, worked values of the spec, and for every statement with premises a state and
operands that meet them.
-/

set_option Elab.async false
set_option maxRecDepth 100000

namespace Sys2Proof.Machine

/-! ### Helpers -/

/-- Fields set one after another, from a state. -/
def State.puts (s : State) (fs : List (Field × Nat × Nat)) : State := fs.foldl (fun s f => s.put f.1 f.2.1 f.2.2) s

/-- Fields set one after another, from reset. -/
def fresh (fs : List (Field × Nat × Nat)) : State := State.reset.puts fs

/-- A command made; the state as it is where it stops. -/
def ran (c : Instr) (s : State) : State :=
  match exec c s with
  | .next t => t
  | _ => s

/-- Die 0 has power and is woven; tree 0 runs Twill on its 50G-class set. -/
def wovenDie : State :=
  { fresh [(PKG_DIE_CTRL.STATE, 0, 2), (DMK_TREE_STATE.LINE_MODE, 0, 1), (TREE_OPT_STATUS.VARIANT, 0, 1)] with loader := { woven := 1 } }

/-- The same with tree 0 in a state of Table 1.9. -/
def treeIn (v : Nat) : State := wovenDie.put DMK_TREE_STATE.STATE 0 v

/-- An access that selects a register. -/
def selects (s : State) (off size : Nat) (r : RegDesc) (k : Nat) : Bool :=
  match s.reach off size with
  | .reg r' k' => r'.base == r.base && r'.die == r.die && k' == k
  | _ => false

/-! ### Ill-formed commands -/

theorem test_ill_formed_units : Instr.wellFormed 4 (.opticsStart 32) = false ∧ Instr.wellFormed 4 (.lateMap 0 2) = false
    ∧ Instr.wellFormed 4 (.free 0 256) = false ∧ Instr.wellFormed 4 (.laneOn 16) = false ∧ Instr.wellFormed 4 (.creditStall 0 8) = false
    ∧ Instr.wellFormed 4 (.dieLinkOn 1 1) = false ∧ Instr.wellFormed 4 (.dieLinkOn 0 4) = false ∧ Instr.wellFormed 4 (.memRetrain 0 16) = false
    ∧ Instr.wellFormed 4 (.feltRelease 0 16) = false ∧ Instr.wellFormed 4 (.eventLog 0 0 4352) = false ∧ Instr.wellFormed 4 (.watchdog 4) = false
    ∧ Instr.wellFormed 4 (.unitPhaseDone (.channel 65536)) = false ∧ Instr.wellFormed 4 (.oneShotInject (.fab 0 68) 0) = false := by decide +kernel

theorem test_ill_formed_values : Instr.wellFormed 4 (.dmkStageData 12582912 [0]) = false ∧ Instr.wellFormed 4 (.dmkStageData 0 [256]) = false
    ∧ Instr.wellFormed 4 (.secLockSet 32) = false ∧ Instr.wellFormed 4 (.upstreamFrameEnd 0 0 [4096]) = false
    ∧ Instr.wellFormed 4 (.downstreamFrameStart 0 0 ⟨2 ^ 48, 0⟩) = false ∧ Instr.wellFormed 4 (.admitTerminal 0 0 1024) = false
    ∧ Instr.wellFormed 4 (.writeSlot 16 0 0 0 {} none) = false ∧ Instr.wellFormed 4 (.writeSlot 0 0 262144 0 {} none) = false
    ∧ Instr.wellFormed 4 (.tableInsert 0 0 { type := 4 } none false) = false ∧ Instr.wellFormed 4 (.commaLock 0 []) = false
    ∧ Instr.wellFormed 4 (.refreshInterval 0 0 [.arrives ⟨false, 32, 0, 0, 0, 1, 0, 0, 0⟩]) = false
    ∧ Instr.wellFormed 4 (.controlBlockBad 0 (.header [8])) = false ∧ Instr.wellFormed 4 (.registerWrite .host 0x20508 8 1) = false
    ∧ Instr.wellFormed 4 (.unmappedAccess (.task 0 8) 0 8 false) = false ∧ Instr.wellFormed 4 (.timeNowRead .host 2) = false := by decide +kernel

theorem test_well_formed : Instr.wellFormed 4 (.opticsStart 31) = true ∧ Instr.wellFormed 4 (.laneOn 15) = true ∧ Instr.wellFormed 2 (.laneOn 8) = false := by
  decide +kernel

/-! ### Worked values of the spec -/

/-- R70: the bits 10 11 00 01 leave as +3, +3, -1, -3. -/
theorem test_r70_levels : fourLevels [true, false, true, true, false, false, false, true] = [3, 3, -1, -3] := by decide +kernel

/-- R98: delimiter 0 begins with these levels. -/
theorem test_r98_delimiter : ((delimiterSymbols 0).map levelOf).take 7 = [1, 3, -1, 1, -1, -3, 1] := by decide +kernel

/-- Chapter 3, worked example: 64 samples whose means are 512, 1,380, 2,270 and 3,100. -/
theorem test_ch3_thresholds :
    let ms : List LevelSum := [⟨16 * 512, 16⟩, ⟨16 * 1380, 16⟩, ⟨16 * 2270, 16⟩, ⟨16 * 3100, 16⟩]
    levelsAccepted ms = true ∧ levelThresholds ms = [946, 1825, 2685] ∧ levelRlm ms = some 246 := by decide +kernel

/-- Chapter 4, worked example: the count 4 three symbols late stands, with a window of 16 and the limit 6. -/
theorem test_ch4_search : search 16 6 [(-90, 0), (-3, 7), (3, 4), (4, 9), (10, 5), (12, 2)] = some 3 := by decide +kernel

/-- R117: 246.88 µs of a quiet window at the reset value of QW_DIFF_KM, in whole symbols. -/
theorem test_r117_quiet : State.reset.quietSymbols 0 = 6143165 := by decide +kernel

/-- Chapter 5, worked example: 189.2739 µs are 4,709,740 symbols, and DISTANCE reads 937. -/
theorem test_ch5_distance : distanceOf 4709740 = 937 ∧ State.reset.eqdPre 0 = 16236288 := by decide +kernel

/-- Chapter 1, worked example: frame 0x057A_88B4 begins 102,500,000 ns into second 1,912,345,678. -/
theorem test_ch1_frame : (State.reset.setTime 1912345678 (102500000 * 65536)).frameNow 5 = 0x057A88B4 := by decide +kernel

/-- Chapter 11, worked example: the IV of the fourth XGEM frame of line port 640. -/
theorem test_ch11_iv : twillIv 0x057A88B4 false 5 640 3 = 0x057A88B40A50000000030000 := by decide +kernel

/-- Chapter 13, worked example: bits [127:16] of the first cell of Ashgrove Mills' frame. -/
theorem test_ch13_cell :
    ((fresh [(PKG_IDENT.DEVICE_ID, 0, 37), (FAB_LANE_CTRL.UP_DEST, 12, 1027)]).cellHeader 12
      { tree := 5, terminal := 58, domain := 114, service := 0xA32, tc := 6 } true false 240) / 2 ^ 16 = 0x780B3C20182507209453A00A3200 := by decide +kernel

/-- Chapter 14, worked example: a median drift of 4,691 symbols. -/
theorem test_ch14_offsets :
    ((State.reset.setOffset 5 9382).get PEER_TREE.RX_OFFSET 5, toSigned 24 ((State.reset.setOffset 5 9382).get PEER_TREE.DS_OFFSET_PS 5)) = (9382, -188521) := by
  decide +kernel

/-- CRC-32C of the nine digits, the check value of that code (log entry 8). -/
theorem test_crc32c : crc32c [0x31, 0x32, 0x33, 0x34, 0x35, 0x36, 0x37, 0x38, 0x39] = 0xE3069283 := by decide +kernel

/-- The last 27 symbols of a codeword whose other symbols are zero. -/
def shortWord : List Nat := [1, 2, 1023] ++ rsCheck [1, 2, 1023]

/-- R296: a codeword has no syndromes. -/
theorem test_r296_codeword : (syndromes shortWord).all (fun v => v == 0) = true := by decide +kernel

/-- R296: two wrong symbols give a locator of degree 2. -/
theorem test_r296_locates : (locatorOf (syndromes (shortWord.mapIdx fun i v => if i = 3 || i = 20 then v ^^^ (i + 1) else v))).length = 2 := by decide +kernel

/-! ### States that meet the premises of the statements, one theorem for each -/

theorem witness_IdleOnAnEmptyQueue : State.reset.pending = [] := rfl

theorem witness_StepTakesTheFrontAndKeepsThePart : goesOn (step { State.reset with pending := [.stageEnd, .confirm] }) = true := by decide +kernel

theorem witness_StepKeepsTheCanonicalForm : ({ State.reset with pending := [.dmkStageData 0 [1]] } : State).canonical = true
    ∧ goesOn (step { State.reset with pending := [.dmkStageData 0 [1]] }) = true := by decide +kernel

theorem witness_SentStaysSentAndFreeValuesAreFresh :
    goesOn (step { State.reset with pending := [.timeNowRead .host 8], outbox := [.readData 4 0] }) = true := by decide +kernel

theorem witness_CommandChangesOnlyWhatItNames :
    goesOn (exec (.rxLol 0 0) State.reset) = true ∧ (mayChange (.rxLol 0 0)).1.isSome = true := by decide +kernel

theorem witness_UnmappedAccessReadsOnesAndIsCounted : State.reset.mayAsk .host = true ∧ 0x5000000 % 8 = 0
    ∧ 0x5000000 < 2 ^ 28 ∧ State.reset.dies ≤ 0x5000000 / 0x1000000 - 1 ∧ (decodeReg 0xFFFFF8).isNone = true ∧ (decodeReg 0x1FFFFF8).isNone = true
    ∧ ((decodeReg (PKG_DIE_CTRL.desc.base + 56)).any fun r => r.1.base == PKG_DIE_CTRL.desc.base && r.2 == 7) = true ∧ State.reset.dies ≤ 7
    ∧ ({ State.reset with loader := { woven := 1 } } : State).isWoven (0x1FFFFF8 / 0x1000000 - 1) = true := by decide +kernel

theorem witness_ReadSideEffectsOnlyOnEightByteReads : State.reset.mayAsk .host = true
    ∧ (State.reset.turnedAway .host TIME_NOW_LO.desc TIME_NOW_LO.desc.base false).isNone = true
    ∧ selects State.reset TIME_NOW_LO.desc.base 8 TIME_NOW_LO.desc 0 = true ∧ selects State.reset TIME_NOW_LO.desc.base 4 TIME_NOW_LO.desc 0 = true := by
  decide +kernel

theorem witness_TimeNowReadLatchesTheSeconds : (fresh [(SEC_DBG_STATUS.STATE, 0, 1)]).mayAsk .debug = true
    ∧ (fresh [(SEC_DBG_STATUS.STATE, 0, 1)]).refused .debug 0 TIME_NOW_LO.desc.base false = false := by decide +kernel

theorem witness_FirewallRuleIsWrittenUntilLocked : State.reset.flag SEC_LOCK.FIREWALL 0 = false ∧ (fresh [(SEC_LOCK.FIREWALL, 0, 1)]).flag SEC_LOCK.FIREWALL 0 = true
    ∧ (∃ f ∈ SEC_FW_RULE.desc.fields, bits (2 ^ 64 - 1) f.lsb f.width ≠ (fresh [(SEC_LOCK.FIREWALL, 0, 1)]).get f 63)
    ∧ ∀ f ∈ SEC_FW_RULE.desc.fields, (fresh [(SEC_LOCK.FIREWALL, 0, 1)]).get f 63 < 2 ^ f.width := by decide +kernel

theorem witness_UnitRequestActsOrIsLatched : wovenDie.takesRequests (.channel 0) = true ∧ wovenDie.unitState (.channel 0) = 0
    ∧ wovenDie.mayStart (.channel 0) = true ∧ (State.reset.setUnit (.channel 0) 1).unitState (.channel 0) = 1
    ∧ (State.reset.setUnit (.lane 3) 3).takesRequests (.lane 3) = true ∧ (State.reset.setUnit (.lane 3) 3).unitState (.lane 3) = 3
    ∧ (State.reset.setUnit (.tree 31) 2).takesRequests (.tree 31) = true ∧ (State.reset.setUnit (.tree 31) 2).unitState (.tree 31) = 2 := by decide +kernel

theorem witness_PhaseEndActsOnTheLatchedRequest : linkOrChannel (.dieLink 1) = true ∧ linkOrChannel (.channel 0) = true ∧ State.reset.loader.weave = 0
    ∧ (State.reset.setUnit (.channel 0) 1).unitState (.channel 0) = 1 ∧ ((State.reset.setUnit (.channel 0) 3).setLatch (.channel 0) 2).latchOf (.channel 0) = 2
    ∧ ((State.reset.setUnit (.channel 0) 3).setLatch (.channel 0) 2).unitState (.channel 0) = 3 := by decide +kernel

theorem witness_SecondLatchMovesLiveCountsIntoShadows : State.reset.canonical = true ∧ State.reset.get PEER_CNT.COUNT 0 < 2 ^ 64
    ∧ wovenDie.canonical = true ∧ wovenDie.diePresent 0 = true := by decide +kernel

/-- An entry that a request may carry. -/
def goodEntry : FwdEntry := { type := 2, key := 1 }

/-- An update of a request of channel 0, with the number that a die applies next after reset. -/
def firstUpdate : Update := ⟨1, 0, .insert goodEntry none, some ⟨0, 0⟩, 0, 0, 0, 0, false⟩

/-- A lock of a channel on the first home bucket of the entry. -/
def lockedBy (chan : Nat) : State := { State.reset with seqLocks := [⟨chan, [goodEntry.homes.1]⟩] }

theorem witness_TableUpdatesTakeTheNextSequenceNumber : State.reset.seqLocks = [] ∧ entryValid goodEntry = true ∧ goodEntry.keyOk = true
    ∧ (∃ l ∈ (lockedBy 0).seqLocks, l.chan = 0 ∧ goodEntry.homes.1 ∈ l.buckets) ∧ (∀ l ∈ (lockedBy 0).seqLocks, ¬ l.chan ≠ 0)
    ∧ (∃ l ∈ (lockedBy 1).seqLocks, l.chan ≠ 0 ∧ goodEntry.homes.1 ∈ l.buckets)
    ∧ ∀ l ∈ (lockedBy 0).seqLocks, ({ lockedBy 0 with ageAt := 262143 } : State).ageAt ∉ l.buckets := by decide +kernel

theorem witness_UnusableTableRequestsCompleteWithoutAnUpdate : entryValid { type := 2, key := 2 ^ 64 + 1 } = false ∧ entryValid { type := 3 } = false
    ∧ ({ type := 3 } : FwdEntry).keyOk = false ∧ entryValid goodEntry = true ∧ State.reset.seqLocks = [] := by decide +kernel

theorem witness_TableLocksAreGivenHeldAndReleased : State.reset.lockOf 0 = none ∧ State.reset.lockWaits 0 = false ∧ State.reset.seqLocks = []
    ∧ (lockedBy 0).lockOf 0 ≠ none ∧ (lockedBy 0).heldUpdates = [] ∧ (lockedBy 0).seqLocks = [⟨0, [goodEntry.homes.1]⟩]
    ∧ entryValid goodEntry = true
    ∧ ({ State.reset with heldUpdates := [⟨0, 0, .lock 0 5 none, some ⟨0, 0⟩, 0, 0, 0, 0, false⟩] } : State).lockWaits 0 = true := by decide +kernel

theorem witness_DieAppliesUpdatesInOrder :
    let s := { wovenDie with updates := [firstUpdate] }
    s.updates.find? (fun x => x.seq == (s.get SEG_ORDER_APPLIED.SEQ 0 + 1) % 2 ^ 48) = some firstUpdate ∧ s.dependsDamaged 0 firstUpdate = false
      ∧ s.diePresent 1 = false ∧ (s.put PKG_DIE_CTRL.STATE 1 2).diePresent 1 = true ∧ bitAt firstUpdate.applied 1 = false ∧ firstUpdate.timedOut = false
      ∧ firstUpdate.req = some ⟨0, 0⟩ := by decide +kernel

theorem witness_StalledUpdateReportsTimeout :
    let s := { wovenDie with updates := [firstUpdate] }
    firstUpdate ∈ s.updates ∧ firstUpdate.seq = (s.get SEG_ORDER_APPLIED.SEQ 0 + 1) % 2 ^ 48 ∧ firstUpdate.timedOut = false := by decide +kernel

theorem witness_TreeOpticsStartLightAndGoDark : (treeIn 1).get DMK_TREE_STATE.STATE 0 = 1 ∧ (treeIn 1).liveSets 0 = [0] ∧ (treeIn 1).loader.reweave = none
    ∧ (treeIn 1).loader.weave = 0 ∧ (treeIn 1).latchOf (.tree 0) = 0 ∧ (treeIn 1).flag PEER_CTRL.ENABLE 0 = false ∧ (treeIn 1).flag PEER_STATUS.CLAIM_IN 0 = false
    ∧ ((treeIn 1).put PEER_STATUS.CLAIM_IN 0 1).flag PEER_STATUS.CLAIM_IN 0 = true ∧ (treeIn 3).get DMK_TREE_STATE.STATE 0 = 3
    ∧ (treeIn 0).get DMK_TREE_STATE.STATE 0 = 0 ∧ (treeIn 0).flag DMK_TREE_STATE.REWEAVE 0 = false := by decide +kernel

theorem witness_MuteDarkensRelightsAndSuppresses :
    let s := (treeIn 2).puts [(TREE_DEF_TERM.OPERATION, 255, 1), (TREE_DEF_TERM.RAW, 255, 1)]
    s.get DMK_TREE_STATE.STATE 0 = 2 ∧ s.flag TREE_DEF_STATUS.SUPPRESSED_ABOVE 0 = false ∧ s.flag TREE_OPT_CTRL.TX_MUTE 0 = false
      ∧ s.flag TREE_OPT_STATUS.LOS_FIFTY 0 = false ∧ s.flag TREE_OPT_STATUS.LOS_XGS 0 = false ∧ (s.setOf 0 0).rxLol = false ∧ (s.setOf 0 1).rxLol = false
      ∧ s.flag TREE_DEF_TERM.OPERATION (termAt 0 255) = true ∧ bitAt (s.get TREE_DEF_TERM.RAW (termAt 0 255)) 0 = true := by decide +kernel

theorem witness_TransmitterIsCalibratedAgedAndRelocked :
    let u := (treeIn 2).modTree 0 fun x => { x with txShut := false }
    let s := u.puts [(TREE_OPT_STATUS.TX_STATE_FIFTY, 0, 2), (TREE_OPT_STATUS.LOCKED_FIFTY, 0, 1), (PEER_STATUS.CLAIM_OUT, 0, 1)]
    s.standbyFor 0 = false ∧ s.flag TREE_OPT_CTRL.CAL_FREEZE 0 = false ∧ (s.setOf 0 0).txLol = false ∧ s.get (txState 0) 0 = 2
      ∧ (s.put TREE_OPT_CTRL.CAL_FREEZE 0 1).flag TREE_OPT_CTRL.CAL_FREEZE 0 = true ∧ (s.put TREE_OPT_CTRL.CAL_FREEZE 0 1).get (txState 0) 0 ≠ 3
      ∧ (s.put TREE_OPT_STATUS.TX_STATE_FIFTY 0 3).get (txState 0) 0 = 3 ∧ s.flag (lockedField 0) 0 = true ∧ (s.tree 0).txShut = false
      ∧ s.get DMK_TREE_STATE.STATE 0 = 2 ∧ s.claimOk 0 = true ∧ s.flag TREE_OPT_CTRL.TX_MUTE 0 = false := by decide +kernel

/-- A context of frame 0 for terminal 17, delimiter 0, as the part acquires it. -/
def goodCtx : BurstCtx :=
  { start := 4000, frame := 0, grantIndex := 37, terminal := 17, fec := true, statusReport := false, ploam := false, ranging := false, noLearn := false,
    allocation := 0, rate := 0, gain := 0, preamble := 256, window := 4, length := 1856, initTh := [1000, 2000, 3000], eq := [] }

/-- The context with its own settings. -/
def goodLoaded : Loaded := ⟨goodCtx, 0, [1000, 2000, 3000]⟩

/-- Samples of symbols, in the middle between two thresholds. -/
def samplesOf (ps : List Nat) : List Nat := ps.map fun p => 1000 * p + 500

/-- A burst stamp of the context. -/
def goodStamp : Nat :=
  let body := 17 * 2 ^ 40 + 37 * 2 ^ 15
  body * 2 ^ 16 + crc16 48 body

/-- A burst of the context that comes three symbols late; a window of 4 lies before the due place. -/
def burstOf (stamp : Nat) : Burst :=
  let d := delimiterSymbols 0
  { samples := samplesOf (List.replicate 7 0 ++ d ++ precode (d.getLastD 0) (grayIndices (wordBits 64 stamp))) }

/-- A set of tree 0 changed. -/
def withSet (s : State) (f : SetSt → SetSt) : State := s.modSet 0 0 f

theorem witness_BurstContextsAreTakenInOrder :
    let s := withSet (treeIn 2) fun x => { x with shadow := some goodLoaded, ring := [goodCtx] }
    (s.setOf 0 0).shadow = some goodLoaded ∧ s.contextGood 0 0 goodCtx = true
      ∧ (withSet (treeIn 2) fun x => { x with shadow := some { goodLoaded with ctx := { goodCtx with checkOk := false } } }).contextGood 0 0
          { goodCtx with checkOk := false } = false
      ∧ ((treeIn 2).setOf 0 0).shadow = none ∧ ((treeIn 2).setOf 0 0).ring = []
      ∧ ((withSet (treeIn 2) fun x => { x with kept := [goodCtx], ring := List.replicate 1535 goodCtx }).setOf 0 0).ring.length < 1536
      ∧ 1536 ≤ ((withSet (treeIn 2) fun x => { x with kept := [goodCtx], ring := List.replicate 1536 goodCtx }).setOf 0 0).ring.length
      ∧ ((withSet (treeIn 2) fun x => { x with kept := [goodCtx] }).setOf 0 0).kept = [goodCtx] ∧ ((treeIn 2).setOf 0 0).kept = [] := by decide +kernel

theorem witness_BurstOutcomesAreCounted :
    let s := withSet (treeIn 2) fun x => { x with active := some goodLoaded }
    (s.setOf 0 0).active = some goodLoaded ∧ (s.setOf 0 0).rxLol = false ∧ goodCtx.ranging = false ∧ ((withSet s fun x => { x with rxLol := true }).setOf 0 0).rxLol = true
      ∧ s.outcome 0 0 goodLoaded {} = .lost ∧ s.outcome 0 0 goodLoaded (burstOf (goodStamp + 1)) = .stampFail
      ∧ s.outcome 0 0 goodLoaded (burstOf goodStamp) = .valid 3 ∧ (burstOf goodStamp).idle = [] := by decide +kernel

theorem witness_UpstreamFrameStepsLossOfSignal :
    let s := withSet (treeIn 2) fun x => { x with counted := true, darkRun := 3 }
    let y := withSet ((treeIn 2).put TREE_OPT_STATUS.LOS_FIFTY 0 1) fun x => { x with counted := true, lit := true, litRun := 1 }
    (s.setOf 0 0).counted = true ∧ (s.setOf 0 0).lit = false ∧ (s.setOf 0 0).darkRun = 3 ∧ s.flag (losField 0) 0 = false
      ∧ (y.setOf 0 0).counted = true ∧ (y.setOf 0 0).lit = true ∧ (y.setOf 0 0).litRun = 1 ∧ y.flag (losField 0) 0 = true := by decide +kernel

theorem witness_ErrorsAreInjectedAndChecked :
    let s := ((treeIn 2).puts [(TREE_INJ_CTRL.IN_SERVICE, 0, 1), (TREE_INJ_CTRL.ENABLE, 0, 1), (FAB_PAT_CTRL.INJ_ENABLE, 67, 1)])
    let y := (treeIn 0).modTree 0 (fun x => { x with test := true }) |>.puts [(TREE_PAT_CTRL.CHK_PATTERN, 0, 1)]
    (treeIn 0).inService 0 = false ∧ s.inService 0 = true ∧ s.flag TREE_INJ_CTRL.IN_SERVICE 0 = true ∧ s.flag TREE_INJ_CTRL.ENABLE 0 = true
      ∧ s.injectInterval 0 ≤ 2 ^ 20 ∧ 2 ^ 20 - 1 < s.injectInterval 0 ∧ (treeIn 2).flag TREE_INJ_CTRL.IN_SERVICE 0 = false
      ∧ s.flag FAB_PAT_CTRL.INJ_ENABLE (0 * 68 + 67) = true ∧ s.fabInterval 0 67 ≤ 2 ^ 40
      ∧ (treeIn 2).get TREE_PAT_CTRL.CHK_PATTERN 0 = 0 ∧ y.get TREE_PAT_CTRL.CHK_PATTERN 0 ≠ 0 ∧ y.flag TREE_PAT_STATUS.CHK_LOCK 0 = false
      ∧ (y.seenBits (.tree 0)).length = 0 ∧ y.checkedBits 0 none (List.replicate 64 true) = List.replicate 64 true ∧ y.checkedBits 0 none [false] = [false]
      ∧ (y.put TREE_PAT_STATUS.CHK_LOCK 0 1).flag TREE_PAT_STATUS.CHK_LOCK 0 = true := by decide +kernel

theorem witness_DownstreamFramesAreSentOnTheirBoundary :
    let s := (treeIn 2).put TREE_OPT_STATUS.TX_STATE_FIFTY 0 2
    let y := ((treeIn 2).put PEER_STATUS.ROLE 0 3).modTree 0 fun x => { x with shared := true }
    y.standbyFor 0 = true ∧ s.standbyFor 0 = false ∧ (s.setOf 0 0).sampled.length ≤ 4 ∧ 0 ∈ s.liveSets 0 ∧ s.get DMK_TREE_STATE.STATE 0 ≠ 0
      ∧ (s.tree 0).test = false ∧ s.get (txState 0) 0 = 2 ∧ (s.setOf 0 0).sending = none ∧ s.twill 0 0 = true := by decide +kernel

theorem witness_StagingWritesTheSlotOnEveryDie :
    let y : State := { wovenDie with loader := { woven := 1, staging := some 1 } }
    wovenDie.flag SEC_LOCK.DAMASK 0 = false ∧ wovenDie.loaderBusy = false ∧ wovenDie.loader.reweave = none ∧ 1 ≠ wovenDie.get DMK_STATUS.ACTIVE_SLOT 0
      ∧ y.flag SEC_LOCK.DAMASK 0 = false ∧ y.loader.staging = some 1 ∧ 12582911 + [7].length ≤ 12582912 ∧ y.powered 0 = true
      ∧ (wovenDie.put SEC_LOCK.DAMASK 0 1).flag SEC_LOCK.DAMASK 0 = true := by decide +kernel

theorem witness_SelectionAndFullWeave :
    let s : State := { wovenDie with loader := { woven := 1, checked := 2 } }
    let w : State := { wovenDie with loader := { weave := 2 } }
    s.flag SEC_LOCK.DAMASK 0 = false ∧ s.loaderBusy = false ∧ s.loader.reweave = none ∧ bitAt s.loader.checked 1 = true ∧ s.powered 0 = true
      ∧ (s.mramOf 0).writePage < (s.mramOf 0).pages.length ∧ 96 ≤ (s.mramOf 0).room (s.mramOf 0).writePage
      ∧ (s.put DMK_STATUS.TRIAL 0 1).flag DMK_STATUS.TRIAL 0 = true ∧ (∀ e, e < s.dies → s.unitsOf e = [])
      ∧ w.loader.weave = 2 ∧ w.powered 0 = true ∧ w.isWoven 0 = false ∧ w.latchOf (.die 0) = 0
      ∧ (∀ e, e < w.dies → e ≠ 0 → w.powered e = false) ∧ (w.put PKG_DIE_CTRL.STATE 1 2).powered 1 = true ∧ (w.put PKG_DIE_CTRL.STATE 1 2).isWoven 1 = false := by
  decide +kernel

/-- Whether an image passes rests on signature functions without a body (log entry 5); of one that passes, WEAVE finds its slot. -/
theorem witness_SelectionAndFullWeave_choice (b : Memory) (h : (wovenDie.checkImage b none = 0)) :
    ({ wovenDie with slots := [(⟨0, 0⟩, b)] } : State).weaveChoice = (some (0, 0, false), 0) := by
  have c : ({ wovenDie with slots := [(⟨0, 0⟩, b)] } : State).copyCheck 0 0 none = 0 := h
  have p : ({ wovenDie with slots := [(⟨0, 0⟩, b)] } : State).poweredDies = [0] := by
    have : wovenDie.poweredDies = [0] := by decide +kernel
    exact this
  have q : ({ wovenDie with slots := [(⟨0, 0⟩, b)] } : State).selection = none := by
    have : wovenDie.selection = none := by decide +kernel
    exact this
  unfold State.weaveChoice
  rw [q]
  have e : ({ wovenDie with slots := [(⟨0, 0⟩, b)] } : State).slotCheck 0 none = (some 0, 0) := by
    unfold State.slotCheck
    rw [p]
    simp [c]
  simp [e]

theorem witness_TreeReweaveRunsAndCompletes :
    let y : State := { wovenDie with loader := { woven := 1, reweave := some ⟨0, 1, 0, true⟩ } }
    wovenDie.flag SEC_LOCK.DAMASK 0 = false ∧ wovenDie.loaderBusy = false ∧ wovenDie.loader.reweave = none ∧ wovenDie.get DMK_TREE_STATE.STATE 0 = 0
      ∧ wovenDie.reweaveCheck 0 1 = some (0, 1) ∧ 0 = wovenDie.get DMK_STATUS.ACTIVE_SLOT 0
      ∧ y.loader.reweave = some ⟨0, 1, 0, true⟩ ∧ y.get DMK_TREE_STATE.STATE 0 = 0 ∧ (y.put DMK_TREE_STATE.STATE 0 1).get DMK_TREE_STATE.STATE 0 = 1
      ∧ y.loader.latchedReweave = none ∧ y.loader.latchedWeave = false ∧ y.latchOf (.tree 0) = 0 := by decide +kernel

/-- A sound record of a type, number 0. -/
def soundRecord (type seq : Nat) (payload : List Nat) : MRec :=
  let r : MRec := { type := type, key := 0, seq := seq, time := 0, payload := payload }
  let r := { r with crc := crc32c r.body }
  { r with commit := r.commitWord }

theorem witness_RecordsAreCommittedAndCopiedForward :
    let r := soundRecord 0x30 1 [1, 2, 3]
    let m1 : MramDie := { todo := [r] }
    let m2 : MramDie := { pages := List.replicate 12 [r] ++ List.replicate 4 [], age := [11, 0] }
    let m3 : MramDie := { pages := List.replicate 15 [r] ++ [[]], waiting := [r] }
    let s1 : State := { wovenDie with mram := [(⟨0, 0⟩, m1)] }
    m1.pages.length = 16 ∧ m1.writePage < 16 ∧ m1.dest < 16 ∧ m1.todo = [r] ∧ s1.recordRefused 0 r.type r.key r.payload.length = false
      ∧ 32 + (r.payload.length + 7) / 8 * 8 ≤ m1.room m1.writePage
      ∧ m2.pages.length = 16 ∧ m2.free.length ≤ 4 ∧ (m2.age.filter fun a => a != m2.writePage && a != m2.dest) = [11]
      ∧ m3.pages.length = 16 ∧ m3.free = [] ∧ m3.waiting = [r] ∧ (MramDie.write r (m3.reclaim m3.stalest)).2 = true := by decide +kernel

theorem witness_DebugPortOpensAndShuts :
    let s : State := { wovenDie with mram := [(⟨0, 0⟩, { pages := [soundRecord 0x30 1 (List.replicate 64 7)] :: List.replicate 15 [] })] }
    let y := s.puts [(SEC_DBG_STATUS.WAIT_MS, 0, 10000), (SEC_DBG_STATUS.NONCE_VALID, 0, 1), (SEC_DBG_STATUS.STATE, 0, 1)]
    (s.put SEC_LOCK.DEBUG 0 1).flag SEC_LOCK.DEBUG 0 = true ∧ s.flag SEC_LOCK.DEBUG 0 = false ∧ s.get SEC_DBG_STATUS.STATE 0 ≠ 2
      ∧ 9999 < y.get SEC_DBG_STATUS.WAIT_MS 0 ∧ y.get SEC_DBG_STATUS.WAIT_MS 0 ≤ 10000 ∧ s.passwordRecord = some (soundRecord 0x30 1 (List.replicate 64 7))
      ∧ y.flag SEC_DBG_STATUS.NONCE_VALID 0 = true ∧ y.get SEC_DBG_STATUS.STATE 0 = 1 ∧ (y.credential (some [1]) 4).any (fun b => b != 0) = true
      ∧ y.flag SEC_LOCK.DEBUG 0 = false ∧ y.powered 0 = true ∧ 96 ≤ (y.mramOf 0).room (y.mramOf 0).writePage := by decide +kernel

/-- Tree 0 ON with terminal 5 in a state of Table 5.2. -/
def termIn (v : Nat) : State := (treeIn 2).put TREE_RNG_TERM.STATE 5 v

theorem witness_QuietWindowsFindTerminals :
    let s := treeIn 2
    let g := (s.puts [(ALLOC.CLASS, 7, 5), (ALLOC.TERMINAL, 7, 5), (TREE_RNG_TERM.STATE, 5, 4)])
    let r := ((termIn 3).modTerm 0 5 fun x => { x with rangingDue := true })
    s.standbyFor 0 = false ∧ s.get DMK_TREE_STATE.STATE 0 = 2 ∧ 0 ∈ s.liveSets 0 ∧ (s.put TREE_RNG_CTRL.QUIET_EN 0 1).flag TREE_RNG_CTRL.QUIET_EN 0 = true
      ∧ s.gatedActive 0 0 = false ∧ g.gatedActive 0 0 = true ∧ s.freeIndex 0 = some 0 ∧ s.serialHeld 0 0 (2 ^ 64 - 1) [1, 2] = none
      ∧ s.serialHeld 0 0 (2 ^ 64 - 1) [3, 4] = none ∧ s.lostHeld 0 0 0 (2 ^ 64 - 1) = none
      ∧ (s.put TREE_RNG_CTRL.AUTO_ADMIT 0 0).flag TREE_RNG_CTRL.AUTO_ADMIT 0 = false
      ∧ ((List.range 256).foldl (fun s n => s.put TREE_RNG_TERM.STATE n 1) s).freeIndex 0 = none
      ∧ r.rngState 0 5 = 3 ∧ (r.term 0 5).rangingDue = true
      ∧ ((withSet r fun x => { x with ranged := [(5, .found (-1) none)] }).takeRange 0 0 5).1 = .found (-1) none ∧ (r.takeRange 0 0 5).1 = .lostByPart
      ∧ (r.term 0 5).attempts + 1 ≤ r.get TREE_RNG_CTRL.RETRY_MAX 0
      ∧ r.get TREE_RNG_CTRL.RETRY_MAX 0 < (({ r with terms := [] }.modTerm 0 5 fun x => { x with rangingDue := true, attempts := 15 }).term 0 5).attempts + 1
      ∧ s.twill 0 0 = true := by decide +kernel

theorem witness_ChiffonDiscoversTerminals :
    let s := (treeIn 2).puts [(TREE_RNG_CTRL.CHIFFON_EN, 0, 1), (TREE_RNG_CTRL.AUTO_ADMIT, 0, 0)]
    let p := (s.puts [(TREE_RNG_DETECT.VALID, 3, 1), (TREE_RNG_DETECT.TERMINAL, 3, 5)])
    let w := (termIn 2).put TREE_RNG_TERM.METHOD 5 1
    s.standbyFor 0 = false ∧ s.twill 0 0 = true ∧ s.get DMK_TREE_STATE.STATE 0 = 2 ∧ s.flag TREE_RNG_CTRL.CHIFFON_EN 0 = true
      ∧ bitAt (s.get TREE_RNG_CHF.CODE_MASK 0) 15 = true ∧ s.inSpan 0 (16 * 0) = true
      ∧ (∀ q, q < 4 → s.flag TREE_RNG_DETECT.VALID (detectAt 0 q) = false) ∧ (s.tree 0).blocked = [] ∧ s.freeIndex 0 = some 0 ∧ s.slotTaken 0 0 = false
      ∧ s.correlated 0 15 0 1 = none
      ∧ p.flag TREE_RNG_DETECT.VALID (detectAt 0 3) = true ∧ 5 = p.get TREE_RNG_DETECT.TERMINAL (detectAt 0 3)
      ∧ wrapSub 32 3 (p.leavesIn 0 0 ⟨.chiffonInvite, 0x3FF, [], false⟩) = 2 ∧ 0 ∈ p.liveSets 0 ∧ wrapSub 16 3 (p.frame % 2 ^ 16) = 3
      ∧ p.resvOf 0 0 = [] ∧ wrapSub 32 2 (p.leavesIn 0 0 ⟨.chiffonInvite, 0x3FF, [], false⟩) < 2
      ∧ ((withSet p fun x => { x with ranged := [(5, .found (-1) (some 9))] }).takeRange 0 0 5).1 = .found (-1) (some 9)
      ∧ p.serialHeld 0 5 9 [3, 4] = none ∧ p.lostHeld 0 5 0 9 = none ∧ p.flag TREE_RNG_CTRL.AUTO_ADMIT 0 = false
      ∧ (p.takeRange 0 0 5).1 = .lostByPart ∧ p.get TREE_RNG_DETECT.ATTEMPT (detectAt 0 3) = 0
      ∧ (p.put TREE_RNG_DETECT.ATTEMPT 3 1).get TREE_RNG_DETECT.ATTEMPT (detectAt 0 3) ≠ 0
      ∧ w.rngState 0 5 = 2 ∧ w.get TREE_RNG_TERM.METHOD (termAt 0 5) = 1
      ∧ 0 + 1 < w.get TREE_RNG_CTRL.RETRY_MAX 0 ∧ ((w.term 0 5).misses.find? fun e => e.1 == .chiffonHold) = none
      ∧ w.get TREE_RNG_CTRL.RETRY_MAX 0 ≤ 14 + 1 ∧ (termIn 3).rngState 0 5 = 3
      ∧ (((w.modTerm 0 5 fun x => { x with misses := [(.chiffonHold, 14)] }).term 0 5).misses.find? fun e => e.1 == .chiffonHold) = some (.chiffonHold, 14) := by
  decide +kernel

/-- A frame in which nothing was heard, and a threshold of 0: every code is reached. -/
def heardNothing : State :=
  withSet ((treeIn 2).puts [(TREE_RNG_CTRL.CHIFFON_EN, 0, 1), (TREE_RNG_CTRL.Z_TH, 0, 0)]) fun x => { x with chips := [List.replicate 16382 {}] }

theorem heard_nothing (code : List Bool) (lag : Int) : signatureSquare code [List.replicate 16382 {}] [0] lag = 0 := by
  have h : (([0].flatMap fun a => ([List.replicate 16382 {}] : List (List HalfChip)).getD a []).filter fun x => 0 < x.v) = [] := by decide +kernel
  unfold signatureSquare
  dsimp only
  rw [h]
  unfold statSquare
  rw [if_pos]
  have : ((([] : List HalfChip).map fun x => x.h * x.h).sum / (([] : List HalfChip).length : Rat)) ≤ 0 := by decide +kernel
  simp only [this, decide_true, Bool.or_true, Bool.true_or]

theorem witness_ChiffonDiscoversTerminals_detection : ∃ z arrival train, heardNothing.correlated 0 15 0 1 = some (z, arrival, train) := by
  have a : framesHeard (heardNothing.setOf 0 0).chips 0 1 = [0] := by decide +kernel
  have b : (heardNothing.setOf 0 0).chips = [List.replicate 16382 {}] := by decide +kernel
  have c : heardNothing.get TREE_RNG_CTRL.Z_TH 0 = 0 := by decide +kernel
  unfold State.correlated
  dsimp only
  rw [a, b, c]
  simp only [heard_nothing]
  rw [if_pos (by decide +kernel)]
  exact ⟨_, _, _, rfl⟩

theorem witness_TerminalsAreActivatedAndReleased :
    let k := ((termIn 3).modTerm 0 5 fun x => { x with assignDue := true })
    let a := (treeIn 2).modAlloc 0 7 fun x => { x with deallocDue := some (5, 300) }
    let b := (treeIn 2).modAlloc 0 7 fun x => { x with assignDue := true }
    let f := (termIn 4).modTerm 0 5 fun x => { x with drifts := List.replicate 16 15 }
    (termIn 3).standbyFor 0 = false ∧ k.rngState 0 5 = 3 ∧ (k.term 0 5).assignDue = true ∧ (a.alloc 0 7).deallocDue = some (5, 300)
      ∧ (b.alloc 0 7).deallocDue = none ∧ (b.alloc 0 7).assignDue = true ∧ f.rngState 0 5 = 4 ∧ (f.term 0 5).fix = none
      ∧ 16 * f.get TREE_RNG_CTRL.DRIFT_STEP 0 ≤ (f.term 0 5).drifts.sum.natAbs
      ∧ ((termIn 4).put TREE_DEF_TERM.LOB 5 1).flag TREE_DEF_TERM.LOB (termAt 0 5) = true ∧ (termIn 2).rngState 0 5 = 2
      ∧ (termIn 2).onuIdTaken 0 0 5 1015 = false ∧ 1015 < 1016 ∧ (termIn 4).rngState 0 5 = 4 ∧ (termIn 5).rngState 0 5 = 5 ∧ (termIn 1).rngState 0 5 = 1
      ∧ (termIn 0).rngState 0 5 = 0 ∧ (termIn 3).rngState 0 5 ≠ 2 := by decide +kernel

/-- A number put into the data words of an access window. -/
def State.window (s : State) (f : Field) (i n v : Nat) : State := s.puts ((List.range n).map fun k => (f, i + k, bits v (64 * k) 64))

/-- The number that spells these values of fields. -/
def spell (fs : List (Field × Nat)) : Nat := (fs.map fun e => e.2 * 2 ^ e.1.lsb).sum

/-- A circuit context for tree 0, line port 640 and allocation 4: D_BASE 3 with J 1. -/
def goodCirc : Nat :=
  spell [(CIRC.D_BASE, 4000), (CIRC.JUST_EXP, 0), (CIRC.PAYLOAD_BYTES, 1024), (CIRC.JITTER_FRAMES, 2), (CIRC.AVG_EXP, 0), (CIRC.SLOTS, 20), (CIRC.ALLOCATION, 4),
    (CIRC.LINE_PORT, 640)]

/-- Circuit 0 with that context, and its line port bound. -/
def circuitReady : State :=
  ((treeIn 2).puts [(LPORT.VALID, 640, 1), (LPORT.KIND, 640, 2), (LPORT.TERMINAL, 640, 5), (LPORT.DOMAIN, 640, 9)]).puts
    ((CIRC.fields.filter fun f => f.lsb < 256).map fun f => (f, 0, f.ofBits goodCirc))

theorem witness_AccessWindowsShowContexts : 127 < 128 ∧ targetSize 0 - 1 < targetSize 0 ∧ targetNode 0 = false ∧ targetSize 1 - 1 < targetSize 1 ∧ targetSize 0 ≤ targetSize 0
    ∧ (targetNode 1 = true ∨ targetNode 2 = true) ∧ (fresh [(CIPH_KEY_CMD.DONE, 0, 1)]).get CIPH_KEY_CMD.DONE 0 = 1
    ∧ (fresh [(CIPH_TW_CMD.DONE, 0, 1)]).get CIPH_TW_CMD.DONE 0 = 1 ∧ 32767 < 32768 ∧ 8191 < 8192 := by decide +kernel

theorem witness_AccessWindowsWriteContexts :
    let a := wovenDie.window GRANT_ACC_DATA.DATA 0 8 (spell [(ALLOC.CLASS, 2), (ALLOC.MAX_GRANT, 12149), (ALLOC.RATE, 2560)])
    let b := a.put GRANT_TREE_CTRL.BOOK_LIMIT 0 0
    let w := State.reset.window GRANT_ACC_DATA.DATA 0 8 (spell [(ALLOC.CLASS, 6)])
    let h := State.reset.window GRANT_ACC_DATA.DATA 0 8 (spell [(GATEHDR.CYCLE_NS, 10000), (GATEHDR.LENGTH, 1), (GATEHDR.ADMIN_LENGTH, 1024)])
    let e := State.reset.window GRANT_ACC_DATA.DATA 0 8 (10 ^ 9 * 2 ^ 32)
    a.allocValid 0 (a.grantData 0) = true ∧ a.heldByCircuit 0 7 = false ∧ a.overLimit 0 0 2560 = false ∧ b.allocValid 0 (b.grantData 0) = true
      ∧ b.bookedSum 0 0 = 0 ∧ b.overLimit 0 0 2560 = true ∧ w.allocValid 0 (w.grantData 0) = false
      ∧ (circuitReady.puts [(CIRC.RUN_STATE, 0, 2)]).heldByCircuit 0 4 = true ∧ headerValid (h.grantData 0) = true ∧ h.listUsed 0 0 = false
      ∧ h.flag GATEHDR.PENDING (listAt 0 0) = false ∧ reservedClear GATEOP.fields 0 64 (e.grantData 0) = true ∧ bits (e.grantData 0) 32 32 = 10 ^ 9
      ∧ e.listUsed 0 0 = false := by decide +kernel

theorem witness_AccessWindowsWriteContexts_rest :
    let c := State.reset.window CIRC_ACC_DATA.DATA 0 8 goodCirc
    let g := State.reset.window CIRC_ACC_DATA.DATA 0 8 (spell [(CGRP.MEMBERS, 8), (CGRP.DELAY_MAX, 8)])
    let q := State.reset.window TM_ACC_DATA.DATA 0 8 (2 ^ 112)
    let n := State.reset.window TM_ACC_DATA.DATA 0 8 (4096 * 2 ^ 80)
    let m := State.reset.window CLASS_METER_DATA.DATA 0 4 (1600000000 + 1600000000 * 2 ^ 32)
    (circuitReady.put CIRC.RUN_STATE 0 2).circOn 0 = true ∧ c.circOn 0 = false ∧ circValid (c.circData 0) = true ∧ c.agrees 0 (c.circData 0) = true
      ∧ State.reset.circOn 0 = false ∧ circValid (State.reset.circData 0) = false ∧ groupValid (g.circData 0) = true ∧ g.members 127 = []
      ∧ q.queueWriteOk 0 false 0 (q.tmData 0) = true
      ∧ n.nodeWriteOk 0 (targetUp 2) 0 (n.tmData 0) = true ∧ State.reset.nodeWriteOk 0 (targetUp 2) 0 (State.reset.tmData 0) = false
      ∧ meterValid (m.words CLASS_METER_DATA.DATA (0 * 4) 4) = true ∧ (fresh [(MSC.UNBOUND, 16383, 0)]).flag MSC.UNBOUND 16383 = false
      ∧ State.reset.flag MSA.VALID 32766 = false ∧ State.reset.flag MSA.VALID 32767 = false
      ∧ bits (State.reset.words CIPH_MSEC_DATA.DATA 0 2) 72 5 / 4 = 0 ∧ State.reset.flag MSC.UNBOUND 0 = true := by decide +kernel

theorem witness_GrantEngineBuildsAndReserves :
    let s := treeIn 2
    let r : Resv := { frame := 64, kind := .microWindow, onuId := 1, units := 11, profile := 0 }
    let g := fresh [(GATEHDR.PENDING, 127, 1)]
    0 ∈ s.liveSets 0 ∧ 1 ∉ s.liveSets 0 ∧ s.get DMK_TREE_STATE.STATE 0 = 2 ∧ (s.tree 0).test = false ∧ (s.setOf 0 0).maps = []
      ∧ wrapSub 16 3 (s.frame % 2 ^ 16) = 3 ∧ wrapSub 16 64 (s.frame % 2 ^ 16) = 64 ∧ wrapSub 16 65 (s.frame % 2 ^ 16) = 65 ∧ wrapSub 16 32767 (s.frame % 2 ^ 16) < 2 ^ 15
      ∧ 2 ^ 15 ≤ wrapSub 16 32768 (s.frame % 2 ^ 16) ∧ wrapSub 16 2 (s.frame % 2 ^ 16) < 3 ∧ s.resvOf 0 0 = []
      ∧ 8 ≤ ((({ s with resv := [(⟨0, 0⟩, List.replicate 8 r)] } : State).resvOf 0 0).filter fun x => x.frame == 64 && x.silent == 0).length
      ∧ g.flag GATEHDR.PENDING (listAt 0 127) = true ∧ State.reset.flag GATEHDR.PENDING (listAt 0 127) = false
      ∧ ((s.modAlloc 0 7 fun x => { x with reported := true }).alloc 0 7).reported = true ∧ 2 ^ 31 ≤ wrapSub 32 (2 ^ 31) (s.get ALLOC.REPORT_FRAME (allocAt 0 7))
      ∧ (s.alloc 0 7).reported = false := by decide +kernel

/-- A container of circuit 0 with GSEQ `g`, nothing to vote on. -/
def boxOf (g : Nat) : List Nat := containerBytes (containerHeader 1 0 0 false false g) 4000 1 1 (List.replicate 4001 true)

theorem witness_CircuitsCarryTheirClients :
    let s := circuitReady.put CIRC.RUN_STATE 0 2
    let full := s.modCirc 0 fun x => { x with playout := List.replicate 8002 true }
    let p : CePkt := { circuit := 0, domain := 9, localFail := false, remoteFail := false, seq := 0, ts := 0, payload := List.replicate 1024 7 }
    let packet : State := { s with ceWaiting := [(⟨0, 0⟩, [p])] }
    let other : State := { s with ceWaiting := [(⟨0, 0⟩, [{ p with domain := 8 }])] }
    let box := s.modCirc 0 fun x => { x with boxes := [(1, boxOf 65535)] }
    let idle := circuitReady.modCirc 0 fun x => { x with boxes := [(1, boxOf 65535)] }
    let y : GroupFrame := { gseq := 65535, first := 1, parts := [{ member := 0, frame := 1, data := [], cf := false, rf := false }] }
    let g := ((fresh [(CGRP.MEMBERS, 127, 1), (CGRP.GSEQ_RELEASE, 127, 65535)]).modGrp 127 fun x => { x with held := [y] })
    s.flag CIRC.GROUPED 0 = false ∧ s.get DMK_TREE_STATE.STATE (s.circTree 0) = 2 ∧ s.get CIRC.RUN_STATE 0 = 2 ∧ (s.circ 0).playout.length = 0
      ∧ s.delivered 0 1 = false ∧ 0 < s.dBase 0 ∧ (full.circ 0).playout.length = 8002 ∧ full.get CIRC.JITTER_FRAMES 0 * (full.dBase 0 + full.just 0) = 8002
      ∧ s.circOn 0 = true ∧ packet.ceWaiting.get ⟨0, 0⟩ [] = [p] ∧ packet.get LPORT.DOMAIN (packet.circPort 0) = 9 ∧ packet.circOn 0 = true
      ∧ wrapSub 16 0 (packet.get CIRC.SEQ_RX 0) = 0 ∧ other.get LPORT.DOMAIN (other.circPort 0) ≠ 8 ∧ (s.circ 0).boxes = []
      ∧ (box.circ 0).boxes = [(1, boxOf 65535)] ∧ (box.circ 0).synced = false ∧ (boxOf 65535).length = box.containerLength 0
      ∧ idle.circOn 0 = false ∧ idle.draining 0 1 = false ∧ (g.grp (groupAt 0 127)).held = [y] ∧ g.get CGRP.GSEQ_RELEASE (groupAt 0 127) = y.gseq
      ∧ (g.members (groupAt 0 127)).length = 1 ∧ (y.parts.any fun p => p.member == 0) = true := by decide +kernel

theorem witness_CircuitsAreEnabledAndDisabled :
    let s := circuitReady.put ALLOC.MAX_GRANT 4 20
    (circuitReady.put CIRC.RUN_STATE 0 1).circOn 0 = true ∧ State.reset.circOn 0 = false ∧ circValid (State.reset.packRec CIRC.fields 0 % 2 ^ 256) = false
      ∧ s.circOn 0 = false ∧ circValid (s.packRec CIRC.fields 0 % 2 ^ 256) = true ∧ s.memberFits 0 = true ∧ s.bound 0 = true ∧ s.enabledCircuits = [] ∧ (s.circAlloc 0 1).1 = 0 := by decide +kernel

/-- How many bytes a container takes in XGEM frames rests on a constant without a body (log entry 14). -/
theorem witness_CircuitsAreEnabledAndDisabled_fit (h : Config.xgemBytes 0 false 509 ≤ 777600) : (circuitReady.put ALLOC.MAX_GRANT 4 20).noFit 0 = false := by
  have a : (circuitReady.put ALLOC.MAX_GRANT 4 20).circSet 0 = 0 := by decide +kernel
  have b : ((circuitReady.put ALLOC.MAX_GRANT 4 20).binding ((circuitReady.put ALLOC.MAX_GRANT 4 20).circTree 0) ((circuitReady.put ALLOC.MAX_GRANT 4 20).get CIRC.LINE_PORT 0)).encrypt = false := by
    decide +kernel
  have c : (circuitReady.put ALLOC.MAX_GRANT 4 20).containerLength 0 = 509 := by decide +kernel
  have d : (circuitReady.put ALLOC.MAX_GRANT 4 20).enabledCircuits = [] := by decide +kernel
  have e : (circuitReady.put ALLOC.MAX_GRANT 4 20).containerXgem 0 = Config.xgemBytes 0 false 509 := by
    unfold State.containerXgem
    rw [a, b, c]
  unfold State.noFit
  dsimp only
  rw [d]
  simp [e]
  omega

/-- A frame of 64 bytes, classified. -/
def smallFrame : Frame := { bytes := List.replicate 64 1, length := 64 }

/-- Upstream queue 0 of die 0 below port node 3, with one frame in it. -/
def oneWaits : State :=
  { ((treeIn 2).puts [(QUEUE.ENABLE, queueAt 0 true 0, 1), (QUEUE.PARENT, queueAt 0 true 0, 3), (NODE.PORT, nodeAt 0 true 3, 1), (NODE.PORT_ID, nodeAt 0 true 3, 3),
      (NODE.ENABLE, nodeAt 0 true 3, 1), (QUEUE.CELLS, queueAt 0 true 0, 1), (QUEUE.FRAMES, queueAt 0 true 0, 1)]) with
    queues := [(⟨1, 0⟩, [{ smallFrame with up := true, cells := 1 }])] }

theorem witness_FramesEnterAndLeaveTheFabric :
    let s := fresh [(FAB_LANE_STATUS.MODE, 15, 1), (FAB_LANE_STATUS.STATE, 15, 2), (CIPH_LANE.REQUIRE, 15, 0)]
    let k := fresh [(FAB_LANE_STATUS.MODE, 15, 3), (FAB_LANE_STATUS.STATE, 15, 2)]
    let r : RxReady := { bytes := [0, 0, 0, 5], domain := 9, circuit := true }
    let kr : State := { k with rxReady := [(⟨15, 0⟩, [r])], labels := [(⟨3, 5⟩, 1)] }
    State.reset.laneOn (State.reset.laneUnit 15) = false ∧ s.laneUnit 15 = 15 ∧ s.laneOn 15 = true ∧ s.get FAB_LANE_STATUS.MODE 15 = 1 ∧ s.flag CIPH_LANE.REQUIRE 15 = false
      ∧ (List.replicate 64 0).length = 64 ∧ beAt (List.replicate 64 0) 12 2 ≠ 0x8808 ∧ k.laneUnit 15 = 15 ∧ kr.laneOn 15 = true ∧ kr.get FAB_LANE_STATUS.MODE 15 = 3
      ∧ kr.rxReady.get ⟨15, 0⟩ [] = [r] ∧ r.circuit = true ∧ kr.labels.get ⟨15 / 4, beAt r.bytes 0 4 % 2 ^ 20⟩ 0 = 0 + 1 := by decide +kernel

theorem witness_FramesEnterAndLeaveTheFabric_admit :
    let s := ((treeIn 2).puts [(QUEUE.ENABLE, 5, 1), (QUEUE.MAX_CELLS, 5, 100), (TM_DOMAIN.BUF_QUOTA, 0, 100), (TM_BUF_STATUS.BUF_CELLS, 0, 100),
      (LPORT.DS_QUEUE, 0, 5), (LPORT.DS_COUNT, 0, 1)])
    let w : State := { s with inbox := [(⟨0, 0⟩, [smallFrame])] }
    let y := (w.classify 0 0 smallFrame).2
    w.inbox.get ⟨0, 0⟩ [] = [smallFrame] ∧ smallFrame.up = false ∧ smallFrame.tag = none ∧ (w.classify 0 0 smallFrame).1 = some smallFrame
      ∧ y.get DMK_TREE_STATE.STATE 0 ≠ 3 ∧ y.queueFor smallFrame = 5 ∧ smallFrame.marked = false ∧ y.flag QUEUE.ENABLE 5 = true ∧ smallFrame.domain = y.get QUEUE.DOMAIN 5
      ∧ y.get QUEUE.CELLS 5 + 1 ≤ y.colourLimit 5 0 ∧ y.get TM_DOMAIN.BUF_USED 0 + 1 ≤ y.get TM_DOMAIN.BUF_QUOTA 0
      ∧ y.get TM_BUF_STATUS.BUF_USED 0 + 1 ≤ y.get TM_BUF_STATUS.BUF_CELLS 0 ∧ y.queueOf 0 false 5 = []
      ∧ ({ y with queues := [(⟨0, 5⟩, [smallFrame])] } : State).queueOf 0 false 5 ≠ [] := by decide +kernel

theorem witness_FramesEnterAndLeaveTheFabric_transmit :
    let f := { smallFrame with up := true }
    let s := (fresh [(FAB_LANE_STATUS.MODE, 15, 1), (FAB_LANE_STATUS.STATE, 15, 2), (MSC.UNBOUND, scAt 3 0, 0), (MSC.LANE, scAt 3 0, 15), (MSC.VALID, scAt 3 0, 1),
      (MSC.TRANSMIT, scAt 3 0, 1), (MSA.VALID, saAt 3 0, 1), (MSA.PN, saAt 3 0, 1), (MSA.MARK, saAt 3 0, 100)])
    let w : State := { s with laneOut := [(⟨15, 7⟩, [f])] }
    w.laneOn 15 = true ∧ w.get FAB_LANE_STATUS.MODE 15 = 1 ∧ w.nextForLane 15 none = some (7, f) ∧ f.tag = none ∧ (w.binding 0 0).txSc = 0
      ∧ w.flag MSC.UNBOUND (scAt 3 0) = false ∧ w.get MSC.DOMAIN (scAt 3 0) = f.domain ∧ w.get MSC.LANE (scAt 3 0) = 15 ∧ w.flag MSC.VALID (scAt 3 0) = true
      ∧ w.flag MSC.TRANSMIT (scAt 3 0) = true ∧ (w.takePn 3 0).1 = .sent 1 0 := by decide +kernel

theorem witness_PortsReleaseHoldAndResume :
    let w := (oneWaits.cleanPort 0 true 3).reoffer 0 true 3
    let held := fresh [(FELT_PORT_STATUS.STATE, 31, 1)]
    let x : State := { (fresh [(FELT_PORT_STATUS.STATE, 31, 2), (FELT_PORT_CTRL.DRAIN_KBPS, 31, 0)]) with felt := [(⟨0, 31⟩, [smallFrame])] }
    w.select 0 true 3 = some 0 ∧ (w.popQueue 0 true 0).1.isSome = true ∧ (w.popQueue 0 true 0).1.all (fun f => !f.dram) = true
      ∧ oneWaits.get FELT_PORT_STATUS.STATE (portAt 0 3) = 0
      ∧ ((State.reset.cleanPort 0 true 3).reoffer 0 true 3).select 0 true 3 = none ∧ State.reset.get FELT_PORT_STATUS.STATE (portAt 0 31) ≠ 2
      ∧ x.get FELT_PORT_STATUS.STATE (portAt 0 31) = 2 ∧ x.feltOf 0 31 = [smallFrame] ∧ smallFrame.damage = 0 ∧ x.get FELT_PORT_CTRL.DRAIN_KBPS (portAt 0 31) = 0
      ∧ x.outAllows 0 31 = true ∧ FELT_PORT_STATUS.CAUSE.width - 1 < FELT_PORT_STATUS.CAUSE.width ∧ held.get FELT_PORT_STATUS.STATE (portAt 0 31) = 1
      ∧ held.get FELT_PORT_STATUS.CAUSE (portAt 0 31) = 0 ∧ (x.put FELT_PORT_STATUS.STATE 31 2).feltOf 0 30 = []
      ∧ (fresh [(FELT_PORT_STATUS.STATE, 31, 2)]).feltOf 0 31 = [] ∧ (fresh [(FELT_PORT_STATUS.STATE, 31, 2)]).get FELT_PORT_STATUS.STATE (portAt 0 31) = 2
      ∧ State.reset.flag TM_SAMPLE_CTRL.ENABLE 0 = false ∧ (fresh [(TM_SAMPLE_CTRL.ENABLE, 0, 1)]).flag TM_SAMPLE_CTRL.ENABLE 0 = true := by decide +kernel

/-- The key of the classifier data after reset, in a slot where it belongs. -/
def oneRule : State :=
  let key := State.reset.dataKey 0
  match State.reset.exactPlace 0 key with
  | some i => { State.reset with exact := [(⟨0, i⟩, some ⟨key, State.reset.exactAction 0⟩)], tern := [(⟨0, 4095⟩, some ⟨0, 0, {}⟩)] }
  | none => State.reset

theorem witness_ClassifierRulesAreKept :
    let s := State.reset
    let wrong := s.window CLASS_ACC_DATA.DATA 0 22 (2 ^ 1408 - 1)
    let tern := s.window CLASS_ACC_DATA.DATA 0 22 (spell [] + 2 ^ 1280 * ({ anyDomain := true } : RuleAction).toBits)
    let full : State := { s with exact := ((bucketSlots (exactBuckets (s.dataKey 0)).1 ++ bucketSlots (exactBuckets (s.dataKey 0)).2).eraseDups.map fun i =>
      (⟨0, i⟩, some ⟨[1], s.exactAction 0⟩)) }
    actionClear (wrong.dataAction 0) = false ∧ actionClear (s.dataAction 0) = true ∧ (oneRule.exactFind 0 (oneRule.dataKey 0)).isSome = true
      ∧ s.exactFind 0 (s.dataKey 0) = none ∧ (s.exactPlace 0 (s.dataKey 0)).isSome = true ∧ full.exactFind 0 (full.dataKey 0) = none
      ∧ full.exactPlace 0 (full.dataKey 0) = none ∧ actionClear (oneRule.dataAction 0) = true ∧ (oneRule.exactAt 0 ((oneRule.exactFind 0 (oneRule.dataKey 0)).getD 0)).isSome = true
      ∧ actionClear (tern.dataAction 0) = true ∧ ternaryForm (tern.classData 0 % 2 ^ 640) (bits (tern.classData 0) 640 640) (RuleAction.ofBits (tern.dataAction 0)) = true
      ∧ ternaryForm (s.classData 0 % 2 ^ 640) (bits (s.classData 0) 640 640) (RuleAction.ofBits (s.dataAction 0)) = false
      ∧ oneRule.tern.get ⟨0, 4095⟩ none = some ⟨0, 0, {}⟩ := by decide +kernel

/-- Network time valid at frame 0, and a line port of die 0 that transmits under slot 0, its partner slot 1 LOADED. -/
def keyed : State :=
  { ((treeIn 2).puts [(TIME_STATUS.VALID, 0, 1), (CIPH_KEY_CMD.DONE, 0, 1), (LPORT.VALID, 1, 1), (CIPH_LP_BIND.ENCRYPT, 1, 1), (KEYSLOT.UNBOUND, 0, 0), (KEYSLOT.UNBOUND, 1, 0),
      (KEYSLOT.STATE, 0, 2), (KEYSLOT.STATE, 1, 1), (KEYSLOT.LIMIT, 0, 0), (KEYSLOT.FIRST_FRAME, 0, 0)]) with sects := [(⟨0x0102, 0⟩, leBytes 4 2)] }

theorem witness_KeysAreLoadedSwitchedAndBound :
    let s := keyed
    let busy := s.put CIPH_KEY_CMD.DONE 0 0
    let lock := s.put SEC_LOCK.KEYS 0 1
    let load := s.window CIPH_KEY_DATA.DATA 0 12 (5 + 2 ^ 320 + 8000 * 2 ^ 352)
    let sw := fun n => s.window CIPH_KEY_DATA.DATA 0 12 n
    busy.get CIPH_KEY_CMD.DONE 0 = 0 ∧ s.get CIPH_KEY_CMD.DONE 0 = 1 ∧ lock.flag SEC_LOCK.KEYS 0 = true ∧ s.flag SEC_LOCK.KEYS 0 = false
      ∧ bits (load.keyBytes true 0) 320 8 = 1 ∧ bits (load.keyBytes true 0) 352 32 = 8000 ∧ bits (load.keyBytes true 0) 128 192 = 0
      ∧ bits (load.keyBytes true 0) 328 24 = 0 ∧ bits (load.keyBytes true 0) 384 384 = 0 ∧ load.flag KEYSLOT.UNBOUND 0 = false
      ∧ (sw (s.frame + 2)).checkFrame ((sw (s.frame + 2)).keyBytes true 0 % 2 ^ 32) = .ok ∧ s.checkFrame (s.keyBytes true 0 % 2 ^ 32) = .late
      ∧ (sw (s.frame + 80001)).checkFrame ((sw (s.frame + 80001)).keyBytes true 0 % 2 ^ 32) = .far := by decide +kernel

theorem witness_KeysAreLoadedSwitchedAndBound_expiry :
    let s := keyed
    let bare := s.put KEYSLOT.STATE 1 0
    s.get KEYSLOT.STATE 0 = 2 ∧ wrapAdd 32 (s.get KEYSLOT.FIRST_FRAME 0) (s.get KEYSLOT.LIMIT 0) = s.frame ∧ s.slotUsers 0 = [(0, 1)]
      ∧ (s.put KEYSLOT.STATE 0 3).switchReady 0 1 = true ∧ (bare.put KEYSLOT.STATE 0 3).switchReady 0 1 = false
      ∧ (s.put CIPH_LP_BIND.ENCRYPT 1 0).slotUsers 0 = [] ∧ s.switchKept s.frame (0, 1) = false
      ∧ ({ s with switches := [⟨0, 1, s.frame, true, true, []⟩] } : State).switchKept s.frame (0, 1) = true
      ∧ ({ (s.put CIPH_TW_CMD.DONE 0 0) with loadedAt := [(⟨1, 0⟩, 1)] } : State).loadWaits false 0 (saAt 0 0) = true := by decide +kernel

/-- Table 11.7: a SecTAG with SCB = 1, or with E = 0, is dropped and counted as NO_SC (k = 5). -/
theorem test_sectag_options :
    let s := keyed.macsecIn 0 (some ⟨0, none, 1, true, true, .ok⟩)
    let u := s.2.macsecIn 0 (some ⟨0, none, 1, false, false, .ok⟩)
    s.1 = none ∧ u.1 = none ∧ u.2.liveOf CIPH_CNT.COUNT 5 = 2 := by decide +kernel

/-- R268: the commit of a mark record ends the LOAD of its own association and no other. -/
theorem test_mark_ends_its_load :
    let s : State := { (keyed.put CIPH_KEY_CMD.DONE 0 0) with loadedAt := [(⟨1, 1⟩, 8)] }
    (s.markCommitted 0 { type := 0x0010, key := 6, seq := 0, time := 0, payload := [] }).get CIPH_KEY_CMD.DONE 0 = 0
      ∧ (s.markCommitted 0 { type := 0x0010, key := 7, seq := 0, time := 0, payload := [] }).get CIPH_KEY_CMD.DONE 0 = 1 := by decide +kernel

/-- Table 11.12: at one frame an expiry and a SWITCH are one switch; R261: without the SWITCH and with no slot ready the line port starves. -/
theorem test_expiry_and_switch :
    let s := keyed.put KEYSLOT.STATE 1 0
    let kept : State := { s with switches := [⟨0, 1, s.frame, true, true, []⟩] }
    (kept.expireUser s.frame (0, 1)).flag CIPH_LP_BIND.STARVED 1 = false ∧ (s.expireUser s.frame (0, 1)).flag CIPH_LP_BIND.STARVED 1 = true := by decide +kernel

theorem witness_KeysAreLoadedSwitchedAndBound_binding :
    let s := keyed
    let lock := s.put SEC_LOCK.KEYS 0 1
    let since : State := { (s.put CIPH_LP_BIND.STARVED 1 1) with loadedAt := [(⟨0, 1⟩, 1)], netSec := 1 }
    let ready := s.puts [(MSA.VALID, 0, 1), (MSC.TRANSMIT, 0, 1), (MSC.TX_SA, 0, 1)]
    since.flag CIPH_LP_BIND.STARVED 1 = true ∧ since.switchReady 0 1 = true ∧ 0 < since.loadedAt.get ⟨0, since.otherSlot 0 1⟩ 0
      ∧ since.loadedAt.get ⟨0, since.otherSlot 0 1⟩ 0 - 1 + 125000 ≤ since.nowNs
      ∧ lock.get CIPH_LP_BIND.KEY_PAIR 1 = 0 ∧ lock.flag CIPH_LP_BIND.ENCRYPT 1 = true ∧ lock.get CIPH_LP_BIND.TX_SC 1 = 0
      ∧ s.flag KEYSLOT.UNBOUND (slotAt 0 0) = false ∧ s.get KEYSLOT.DOMAIN (slotAt 0 1) = s.get LPORT.DOMAIN 1 ∧ s.flag KEYSLOT.UNBOUND (slotAt 0 2) = true
      ∧ (s.put MSC.UNBOUND 0 0).flag MSC.UNBOUND (scAt 0 0) = false ∧ (s.put MSC.DOMAIN 0 7).get MSC.DOMAIN (scAt 0 0) ≠ s.get LPORT.DOMAIN 1
      ∧ s.flag MSA.VALID (saAt 0 0) = false ∧ ready.flag MSA.VALID (saAt 0 0) = true ∧ ready.flag MSC.TRANSMIT (scAt 0 0) = true ∧ ready.get MSC.TX_SA (scAt 0 0) ≠ 0 % 2
      ∧ ready.flag MSA.EXHAUSTED (saAt 0 (otherSa 0)) = false ∧ (ready.put MSA.EXHAUSTED 1 1).flag MSA.EXHAUSTED (saAt 0 (otherSa 0)) = true := by decide +kernel

/-- Channel 15 of die 0 in a state of Table 12.15. -/
def chanIn (v : Nat) : State := fresh [(MEM_CH_STATUS.STATE, 15, v)]

/-- A read of word 0. -/
def readWord : MemReq := { write := false, bank := 0, row := 0, cell := 0, word := 0, requester := 12, domain := 0, came := 0 }

/-- The channel with other contents. -/
def chanWith (v : Nat) (c : ChanSt) : State := { chanIn v with channels := [(⟨15, 0⟩, c)] }

theorem witness_StackRefreshHeatAndDisturbance :
    let w : MemReq := { readWord with write := true }
    let live := chanIn 0
    let forced := (chanWith 3 { retuneDue := true }).put MEM_CH_STATUS.REF_DEBT 15 9
    let hot := fresh [(MEM_STATUS.SHUTDOWN, 0, 1), (MEM_CTRL.AUTO_RESTART, 0, 1)]
    (chanIn 4).chanLive 0 15 = false ∧ live.chanLive 0 15 = true ∧ forced.chanState 0 15 = 3 ∧ forced.get MEM_CH_STATUS.REF_DEBT (chanAt 0 15) = 9
      ∧ (forced.chan 0 15).retuneDue = true ∧ ((chanWith 3 {}).chan 0 15).retuneDue = false ∧ (live.chan 0 15).writes = []
      ∧ ((chanWith 0 { writes := [w] }).chan 0 15).writes = [w] ∧ sameWord w readWord = true ∧ ((chanWith 0 { writes := List.replicate 47 w }).chan 0 15).writes.length = 47
      ∧ live.flag MEM_CH_STATUS.HOT_INTERVAL (chanAt 0 15) = false ∧ State.reset.flag MEM_STATUS.THROTTLED 0 = false ∧ State.reset.flag MEM_STATUS.SHUTDOWN 0 = false
      ∧ State.reset.loader.weave ≠ 1 ∧ State.reset.loader.reweave = none ∧ hot.flag MEM_STATUS.SHUTDOWN 0 = true ∧ hot.flag MEM_CTRL.AUTO_RESTART 0 = true
      ∧ (live.chan 0 15).acts.get ⟨31, 262143⟩ 0 + 1 < live.get MEM_CTRL.DISTURB_TH 0 ∧ ((live.chan 0 15).banks.get ⟨31, 0⟩ {}).isOpen = false
      ∧ ((chanWith 0 { banks := [(⟨31, 0⟩, { isOpen := true, row := some 5 })] }).chan 0 15).banks.get ⟨31, 0⟩ {} = { isOpen := true, row := some 5 }
      ∧ live.get MEM_CTRL.DISTURB_TH 0 ≤ ((chanWith 0 { acts := [(⟨31, 5⟩, live.get MEM_CTRL.DISTURB_TH 0 - 1)] }).chan 0 15).acts.get ⟨31, 5⟩ 0 + 1 := by decide +kernel

theorem witness_StackErrorsScrubAndTraining :
    let y := chanWith 0 { reads := [readWord] }
    (∀ v, v < 6 → (chanIn v).chanState 0 15 = v) ∧ ((chanIn 0).chan 0 15).writes = [] ∧ ((chanIn 0).chan 0 15).reads = []
      ∧ (y.chan 0 15).reads = [readWord] ∧ readWord.requester = 12 ∧ (chanIn 4).chanLive 0 15 = false ∧ (chanIn 3).chanLive 0 15 = true
      ∧ ((chanWith 2 { byHost := true }).chan 0 15).byHost = true ∧ (chanIn 0).get MEM_CH_STATUS.REF_DEBT (chanAt 0 15) ≤ 8
      ∧ sameWord { readWord with write := true } { readWord with write := true, came := 7 } = true := by decide +kernel

/-- Package lane 15 in a mode (Table 13.1) and a state of Table 13.2. -/
def laneIn (mode state : Nat) (c : LaneSt) : State :=
  { (fresh [(FAB_LANE_STATUS.MODE, 15, mode), (FAB_LANE_STATUS.STATE, 15, state), (FAB_LANE_STATUS.ALIGN, 15, 1), (PKG_IDENT.DEVICE_ID, 0, 37)]) with lanes := [(⟨15, 0⟩, c)] }

/-- The partner's CAP block. -/
def goodCap : Cap := { device := 1023, lane := 31, version := 1, seen := true, credits := List.replicate 8 256 }

/-- The comma. -/
def commaBits : List Bool := [false, false] ++ wordBits 128 0xC3A596F00F695A3CE71824DB7E81B42D

/-- Bits that a block differs from the comma in. -/
def commaMisses (b : List Bool) : Nat := ((b.zip commaBits).filter fun e => e.1 != e.2).length

theorem witness_LanesComeUpAndFall :
    let k := laneIn 3 1 { cap := some goodCap, seen := true, partnerSeen := true }
    let on := laneIn 3 2 {}
    let off := fun (c : LaneSt) => (laneIn 3 1 c).put FAB_LANE_STATUS.ALIGN 15 0
    State.reset.get FAB_LANE_STATUS.STATE 15 ≠ 1 ∧ k.laneUnit 15 = 15 ∧ k.get FAB_LANE_STATUS.STATE 15 = 1 ∧ k.laneMode 15 = 3 ∧ k.kolkanCoded 15 = true ∧ k.capDone 15 = true
      ∧ (k.lane 15).cap = some goodCap ∧ k.latchOf (.lane 15) = 0 ∧ on.laneOn 15 = true ∧ k.laneOn 15 = false
      ∧ (off {}).flag FAB_LANE_STATUS.ALIGN 15 = false ∧ ((off { commas := 2 }).lane 15).commas = 2 ∧ ((off { commas := 1 }).lane 15).commas ≠ 2
      ∧ commaBits.length = 130 ∧ commaMisses (commaBits.mapIdx fun i b => b != (i < 4)) = 4 ∧ commaMisses (commaBits.mapIdx fun i b => b != (i < 5)) = 5
      ∧ on.flag FAB_LANE_STATUS.ALIGN 15 = true ∧ ((laneIn 3 2 { missing := 3 }).lane 15).missing = 3 ∧ (laneIn 1 2 {}).laneMode 15 ≠ 3 ∧ (laneIn 4 2 {}).laneMode 15 = 4
      ∧ ((laneIn 3 1 {}).lane 15).cap ≠ some goodCap ∧ ((laneIn 3 1 {}).lane 15).seen = false
      ∧ ((laneIn 3 1 { cap := some goodCap, capRun := 2 }).lane 15).capRun = 2 ∧ ¬ (goodCap.version ≠ 1 ∨ goodCap.device < 1024 ∧ goodCap.device = k.get PKG_IDENT.DEVICE_ID 0)
      ∧ 37 = k.get PKG_IDENT.DEVICE_ID 0 ∧ ((laneIn 3 2 { pathBad := 1 }).lane 15).pathBad = 1 ∧ ((laneIn 3 2 { pathGood := 1 }).lane 15).pathGood = 1
      ∧ (laneIn 1 2 {}).laneMode ((laneIn 1 2 {}).laneUnit 15) = 1 := by decide +kernel

/-- The header of a cell of class 7 for a device, with SOF and EOF as given, sound. -/
def cellFor (device kind sof eof : Nat) : Nat :=
  let b := 0x78 * 2 ^ 104 + kind * 2 ^ 100 + sof * 2 ^ 99 + eof * 2 ^ 98 + 7 * 2 ^ 95 + 240 * 2 ^ 86 + device * 2 ^ 75
  b * 2 ^ 16 + crc16 112 b

theorem witness_CellsAndCreditsMove :
    let s := laneIn 3 2 {}
    let part : State := { s with rxPart := [(⟨15, 7⟩, some ⟨[1], 9, 0⟩)], owed := [(⟨15, 7⟩, 3)] }
    let wait : State := { s with laneOut := [(⟨15, 7⟩, [{ smallFrame with tc := 7 }])], credit := [(⟨15, 0⟩, 4095)] }
    let c := cellFor 37 0 1 0
    let sound := fun h => crc16 112 (h / 2 ^ 16 % 2 ^ 112) = h % 2 ^ 16
    s.laneMode 15 = 3 ∧ s.laneOn 15 = true ∧ State.reset.laneMode 15 ≠ 3 ∧ sound c ∧ sound (cellFor 38 0 1 0) ∧ bits (cellFor 38 0 1 0) 91 11 ≠ s.get PKG_IDENT.DEVICE_ID 0
      ∧ bits c 91 11 = s.get PKG_IDENT.DEVICE_ID 0 ∧ bits c 116 4 < 3 ∧ bits c 111 3 = 7 ∧ bitAt c 115 = true ∧ bitAt c 114 = false
      ∧ sound (cellFor 37 1 1 1) ∧ bits (cellFor 37 1 1 1) 116 4 < 2 ∧ bitAt (cellFor 37 1 1 1) 114 = true
      ∧ sound (cellFor 37 0 0 0) ∧ bitAt (cellFor 37 0 0 0) 115 = false ∧ part.rxPart.get ⟨15, 7⟩ none = some ⟨[1], 9, 0⟩ ∧ s.rxPart.get ⟨15, 7⟩ none = none
      ∧ ¬ sound (c + 1) ∧ s.flag FAB_LANE_STATUS.ALIGN 15 = true ∧ bits (c + 1) 120 8 = 0x78 ∧ ¬ sound 1 ∧ bits 1 120 8 ≠ 0x78
      ∧ sound (0x11 * 2 ^ 120 + crc16 112 (0x11 * 2 ^ 104)) ∧ bits (0x11 * 2 ^ 120 + crc16 112 (0x11 * 2 ^ 104)) 120 8 ∉ [0x1E, 0x2D, 0x2E, 0x3C, 0x4B, 0x55, 0x5A, 0x66, 0x78]
      ∧ (laneIn 4 1 {}).laneMode 15 = 4 ∧ s.laneOn 15 = true ∧ State.reset.laneOn 15 = false ∧ min 4095 (part.owed.get ⟨15, 7⟩ 0) = 3
      ∧ wait.credit.get ⟨15, 7⟩ 0 = 0 ∧ (wait.nextForLane 15 (some 7)).isSome = true ∧ 7 ∉ (wait.lane 15).stalled ∧ wait.credit.get ⟨15, 0⟩ 0 ≠ 0 := by decide +kernel

/-- R296: a received word is corrected or given up. -/
theorem witness_CellsAndCreditsMove_codeword (w : List Nat) : rsCorrect w = none ∨ ∃ n v, rsCorrect w = some (n, v) := by
  cases h : rsCorrect w with
  | none => exact .inl rfl
  | some r => exact .inr ⟨r.1, r.2, rfl⟩

theorem witness_DieLinksReplayIdleAndStart :
    let s := fresh [(FAB_DL_STATUS.STATE, linkAt 0 1, 2), (FAB_DL_STATUS.STATE, linkAt 1 0, 2)]
    let y := fresh [(FAB_DL_STATUS.STATE, linkAt 0 1, 1), (FAB_DL_STATUS.BLIND, linkAt 0 1, 1)]
    s.linked 0 1 = true ∧ State.reset.linked 0 1 = false ∧ s.replays.get ⟨0, 1⟩ 0 < 7 ∧ ({ s with replays := [(⟨0, 1⟩, 7)] } : State).replays.get ⟨0, 1⟩ 0 = 7
      ∧ (s.put FAB_DL_CTRL.IDLE_NS (linkAt 0 1) 100).get FAB_DL_CTRL.IDLE_NS (linkAt 0 1) ≠ 0 ∧ s.flag FAB_DL_STATUS.IDLE (linkAt 0 1) = false
      ∧ (s.put FAB_DL_CTRL.IDLE_NS (linkAt 0 1) 0).get FAB_DL_CTRL.IDLE_NS (linkAt 0 1) = 0
      ∧ y.get FAB_DL_STATUS.STATE (linkAt 0 1) = 1 ∧ y.flag FAB_DL_STATUS.BLIND (linkAt 0 1) = true ∧ y.latchOf (.dieLink (linkAt 0 1)) = 0
      ∧ s.get FAB_DL_STATUS.STATE (linkAt 0 1) ≠ 1 := by decide +kernel

theorem witness_TimeIsMeasuredSteppedAndCarried :
    let s := fresh [(TIME_CTRL.SOURCE, 0, 2), (TIME_STATUS.VALID, 0, 1)]
    let p := s.put TIME_CTRL.STEP_PENDING 0 1
    let due : State := { p with clock := { step := some ⟨5, false, []⟩ } }
    let edged : State := { s with clock := { edge := some 0 } }
    let body := [0x54, 0x44] ++ beBytes 6 1 ++ [1, 0, 0]
    let lane := (laneIn 3 2 { timeSent := [(255, 0)] }).put FAB_LANE_CTRL.TIME_EN 15 1
    let send := (treeIn 2).put TIME_CTRL.STEP_PENDING 0 0
    s.get TIME_CTRL.SOURCE 0 = 2 ∧ s.timeValid = true ∧ s.get TIME_CTRL.SOURCE 0 ≠ 3 ∧ (s.put TIME_STATUS.VALID 0 0).timeValid = false
      ∧ s.flag TIME_CTRL.STEP_PENDING 0 = false ∧ s.noTreeSends = true ∧ s.flag TIME_STATUS.HOLDOVER 0 = false
      ∧ (s.put TIME_STATUS.HOLDOVER 0 1).flag TIME_STATUS.HOLDOVER 0 = true ∧ (s.put SEC_LOCK.TIME 0 1).flag SEC_LOCK.TIME 0 = true ∧ s.flag SEC_LOCK.TIME 0 = false
      ∧ p.flag TIME_CTRL.STEP_PENDING 0 = true ∧ send.noTreeSends = false ∧ send.flag SEC_LOCK.TIME 0 = false ∧ send.flag TIME_CTRL.STEP_PENDING 0 = false
      ∧ s.clock.step = none ∧ due.clock.step = some ⟨5, false, []⟩ ∧ due.noTreeSends = true ∧ edged.clock.edge = some 0
      ∧ (body ++ [todCrc body]).length = 12 ∧ byteAt (body ++ [todCrc body]) 11 = todCrc (body ++ [todCrc body])
      ∧ 0 + 10 * 10 ^ 6 * 2 ^ 16 ≤ timeUnits ⟨0, 10 * 10 ^ 6 * 2 ^ 16⟩ ∧ timeUnits ⟨0, 10 * 10 ^ 6 * 2 ^ 16⟩ ≤ 0 + 900 * 10 ^ 6 * 2 ^ 16
      ∧ ¬ (timeUnits ⟨0, 900 * 10 ^ 6 * 2 ^ 16 + 1⟩ ≤ 0 + 900 * 10 ^ 6 * 2 ^ 16) ∧ State.reset.timeLane 15 = false ∧ lane.timeLane 15 = true ∧ (lane.lane 15).delay = none
      ∧ (lane.lane 15).timeSent.find? (fun e => e.1 == 255) = some (255, 0) ∧ (lane.lane 15).timeSent.find? (fun e => e.1 == 0) = none := by decide +kernel

/-- A pair under way: tree 0 is protected and lit, the part's role as given. -/
def pairIn (role : Nat) (p : Pair) : State :=
  { ((treeIn 2).puts [(PEER_CTRL.ENABLE, 0, 1), (PEER_STATUS.ROLE, 0, role), (TIME_STATUS.VALID, 0, 1)]).modTree 0 (fun x => { x with shared := true, txShut := false }) with pair := p }

theorem witness_ClaimGatesTheLightOfAPair :
    let s := pairIn 2 {}
    let y := (pairIn 3 { settling := true }).puts [(PEER_STATUS.CLAIM_IN, 0, 1), (PEER_STATUS.SENIOR, 0, 0)]
    let fail := s.put PEER_STATUS.HB_FAIL 0 1
    let both := s.puts [(PEER_STATUS.CLAIM_OUT, 0, 1), (PEER_STATUS.CLAIM_IN, 0, 1), (PEER_STATUS.SENIOR, 0, 0)]
    let alone := wovenDie.put PEER_CTRL.ENABLE 0 0
    s.dies = 4 ∧ 0 < 8 * s.dies ∧ s.claimGated 0 = true ∧ s.get DMK_TREE_STATE.STATE 0 = 2 ∧ (s.tree 0).txShut = false ∧ s.liveSets 0 = [0]
      ∧ y.pair.settling = true ∧ y.flag PEER_STATUS.SENIOR 0 = false ∧ y.flag PEER_STATUS.CLAIM_IN 0 = true ∧ s.role ≠ 3 ∧ s.blocks = true
      ∧ alone.flag PEER_CTRL.ENABLE 0 = false ∧ (alone.put DMK_TREE_STATE.STATE 31 1).blocks = true
      ∧ s.flag PEER_CTRL.ENABLE 0 = true ∧ s.flag PEER_STATUS.CLAIM_OUT 0 = false ∧ s.flag PEER_STATUS.CLAIM_IN 0 = false ∧ s.mayNotSeize = false
      ∧ fail.flag PEER_STATUS.HB_FAIL 0 = true ∧ s.flag PEER_STATUS.HB_FAIL 0 = false ∧ s.pair.last = none ∧ both.flag PEER_STATUS.CLAIM_OUT 0 = true
      ∧ s.pair.settling = false ∧ (pairIn 3 { settling := true }).flag PEER_STATUS.CLAIM_IN 0 = false ∧ both.holdsClaim = true ∧ s.holdsClaim = false
      ∧ (pairIn 3 {}).role ≠ 2 ∧ s.role = 2 ∧ (pairIn 2 { release := some 9 }).pair.release = some 9 ∧ s.pair.release = none
      ∧ (s.put TIME_STATUS.VALID 0 0).timeValid = false ∧ s.timeValid = true ∧ wrapSub 32 (s.frame + 7) s.frame < 8 ∧ wrapSub 32 (s.frame + 8) s.frame = 8
      ∧ wrapSub 32 (s.frame + 80000) s.frame = 80000 ∧ wrapSub 32 (s.frame + 80001) s.frame = 80001 ∧ 2 ^ 31 ≤ wrapSub 32 (s.frame + 2 ^ 31) s.frame := by decide +kernel

theorem witness_ClaimGatesTheLightOfAPair_degrade :
    let s := ((pairIn 2 { degrade := 7999, healthAt := some 0 }).puts [(PEER_CTRL.AUTO_DEGRADE, 0, 1), (PEER_HEALTH_PARTNER.DATA, 0, 7 * 2 ^ 40 + 8 * 2 ^ 48)])
    s.role = 2 ∧ s.flag PEER_CTRL.AUTO_DEGRADE 0 = true ∧ s.partnerBetter = true ∧ s.pair.degrade = 7999 ∧ s.pair.release = none
      ∧ ({ s with pair := { s.pair with degrade := 7998 } } : State).pair.degrade < 7999 ∧ (s.put PEER_CTRL.AUTO_DEGRADE 0 0).flag PEER_CTRL.AUTO_DEGRADE 0 = false
      ∧ (pairIn 2 {}).partnerBetter = false := by decide +kernel

theorem witness_PairsFormAndStandbysFollow :
    let lane := fun (s : State) => s.puts [(FAB_LANE_STATUS.MODE, 15, 4), (FAB_LANE_STATUS.STATE, 15, 2)]
    let s := lane (pairIn 3 { sent := [(9, 5)] })
    let one := (lane (pairIn 1 { agreed := true })).puts [(PEER_STATUS.CLAIM_IN, 0, 1)]
    s.flag PEER_CTRL.ENABLE 0 = true ∧ s.peerLane = some 15 ∧ (pairIn 3 {}).peerLane = none ∧ State.reset.flag PEER_CTRL.ENABLE 0 = false
      ∧ s.pair.sent.find? (fun e => e.1 == 9) = some (9, 5) ∧ s.pair.sent.find? (fun e => e.1 == 8) = none ∧ s.pair.tauHeld = false
      ∧ one.role = 1 ∧ one.pair.agreed = true ∧ one.pair.formed = false ∧ s.standbyFor 0 = true ∧ 0 ∈ s.liveSets 0 ∧ (pairIn 2 {}).standbyFor 0 = false
      ∧ wrapSub 32 2 (s.setOf 0 0).dsFrame = 2 ∧ wrapSub 32 (2 ^ 31 - 1) (s.setOf 0 0).dsFrame < 2 ^ 31 ∧ wrapSub 32 1 (s.setOf 0 0).dsFrame < 2
      ∧ 2 ^ 31 ≤ wrapSub 32 (2 ^ 31) (s.setOf 0 0).dsFrame ∧ s.circTree 0 = 0 ∧ pktPlace [(7, 0, 0)] 100 7 100 = some 100 ∧ pktPlace [(7, 0, 0)] 100 7 101 = none
      ∧ s.sharedTrees = [0] ∧ (s.tree 0).calib = none ∧ ((s.modTree 0 fun x => { x with calib := some [] }).tree 0).calib = some []
      ∧ (List.replicate 60 0 ++ leBytes 4 (crc32c (List.replicate 60 0))).length = 64 := by decide +kernel

theorem witness_PairsFormAndStandbysFollow_health : crc32c ((List.replicate 60 0 ++ leBytes 4 (crc32c (List.replicate 60 0))).take 60)
    = leAt (List.replicate 60 0 ++ leBytes 4 (crc32c (List.replicate 60 0))) 60 4 ∧ crc32c ((List.replicate 64 0).take 60) ≠ leAt (List.replicate 64 0) 60 4 := by decide +kernel

/-- A hello that says what the part itself says matches, its sender being the other of the two; another digest does not. -/
theorem witness_PairsFormAndStandbysFollow_hello (s : State) (senior : Bool) (h : senior = !s.flag PEER_STATUS.SENIOR 0) :
    s.pairMatches s.pairDigest s.ident.member.code (s.get PEER_CTRL.PAIR_DEVICE 0) s.sharedTrees senior (s.get PEER_CTRL.PAIR_DEVICE 0) = true
      ∧ s.pairMatches (s.pairDigest + 1) s.ident.member.code (s.get PEER_CTRL.PAIR_DEVICE 0) s.sharedTrees senior (s.get PEER_CTRL.PAIR_DEVICE 0) = false := by
  subst h
  constructor
  · simp [State.pairMatches]
  · simp [State.pairMatches]

/-- The core of die 0 runs, and slot 0 of its mailbox is posted with these words. -/
def posted (ws : List Nat) : State :=
  { ((keyed.puts [(TWEED_STATUS.STATE, 0, 1), (TWEED_STATUS.TASKS_RUNNING, 0, 128), (CIPH_TW_CMD.DONE, 0, 1), (TWEED_MBOX_STATE.SLOT, 0, 1)]).puts
      (ws.mapIdx fun k w => (TWEED_MBOX.DATA, k, w))) with tweed := [(⟨0, 0⟩, { posted := [0] })] }

theorem witness_TweedServesItsLoadAndMailbox :
    let s := posted [1]
    let y := fresh [(TWEED_MBOX_STATE.SLOT, 0, 3 * 16 ^ 15)]
    let busy := (posted [1]).put TWEED_STATUS.OVERLOAD 0 1
    State.reset.tweedRuns 0 = false ∧ s.tweedRuns 0 = true ∧ s.rotations = [] ∧ bitAt (s.get TWEED_STATUS.TASKS_RUNNING 0) 7 = true
      ∧ bitAt (s.get TWEED_STATUS.TASKS_RUNNING 0) 6 = false ∧ y.mbox 0 15 = 3 ∧ y.mbox 0 14 = 0 ∧ s.mbox 0 0 = 1 ∧ s.mbox 0 0 ≠ 4
      ∧ busy.flag TWEED_STATUS.OVERLOAD 0 = true ∧ s.flag TWEED_STATUS.OVERLOAD 0 = false ∧ (s.tweedOf 0).posted = [0] ∧ (State.reset.tweedOf 0).posted = []
      ∧ s.mboxOp 0 0 = 1 ∧ (posted [2]).mboxOp 0 0 = 2 ∧ (posted [3]).mboxOp 0 0 = 3 ∧ (posted [128]).mboxOp 0 0 = 128 ∧ (posted [135]).mboxOp 0 0 = 135
      ∧ (posted [136]).mboxOp 0 0 = 136 ∧ (posted [0]).mboxOp 0 0 = 0 ∧ bits (s.get TWEED_MBOX.DATA (mboxAt 0 0 0)) 40 24 = 0
      ∧ bits ((posted [1 + 2 ^ 63]).get TWEED_MBOX.DATA (mboxAt 0 0 0)) 40 24 ≠ 0 := by decide +kernel

theorem witness_TweedServesItsLoadAndMailbox_rotate :
    let s := posted [2, 1 * 2 ^ 16, 2 * 2 ^ 32]
    let port := s.mboxPort 0 0
    port = some (0, 1) ∧ s.get TWEED_MBOX.DATA (mboxAt 0 0 1) / 2 ^ 32 < 4 ∧ s.checkFrame (bits (s.get TWEED_MBOX.DATA (mboxAt 0 0 2)) 32 32) = .ok
      ∧ (posted [2, 1 * 2 ^ 16, 1 * 2 ^ 32]).checkFrame 1 = .late ∧ (posted [2, 1 * 2 ^ 16, 80001 * 2 ^ 32]).checkFrame 80001 = .far
      ∧ (posted [2, 2 * 2 ^ 16]).mboxPort 0 0 = none ∧ 4 ≤ (posted [2, 1 * 2 ^ 16 + 4 * 2 ^ 32]).get TWEED_MBOX.DATA (mboxAt 0 0 1) / 2 ^ 32
      ∧ (s.put CIPH_TW_CMD.DONE 0 0).get CIPH_TW_CMD.DONE 0 = 0
      ∧ ({ (posted [3, 1 * 2 ^ 16]) with rotations := [⟨1, 0, 1, 1, 9, 0, 8000, 0, true, false⟩] } : State).rotations.find? (fun r => r.tree == 0 && r.linePort == 1)
          = some ⟨1, 0, 1, 1, 9, 0, 8000, 0, true, false⟩ := by decide +kernel

/-- A core that runs, with source 646 pending for it and source 643 for the host's vector 3. -/
def delivers : State :=
  wovenDie.puts [(TWEED_STATUS.STATE, 0, 1), (IC_CORE_STATUS.RUNNING, 0, 64), (IC_SRC.PENDING, 646, 1), (IC_SRC.ENABLE, 646, 1), (IC_SRC.PRIORITY, 646, 5), (IC_SRC.HOST, 646, 0),
    (IC_SRC.IN_GROUP, 646, 0), (IC_SRC.PENDING, 643, 1), (IC_SRC.ENABLE, 643, 1), (IC_SRC.PRIORITY, 643, 4), (IC_SRC.HOST, 643, 1), (IC_SRC.VECTOR, 643, 3),
    (IC_SRC.IN_GROUP, 643, 0), (HOST_MSIX_CTRL.MASK, 3, 0)]

theorem witness_DeliveriesReachCoreAndHost :
    let s := delivers
    let group := (fresh [(IC_GROUP_STATUS.COUNT, 255, 1), (IC_GROUP.COUNT_TH, 255, 1)])
    let ctx : State := { s with ctxStore := [(⟨0, 0⟩, [{}])] }
    let act := s.puts [(IC_SRC.ACTIVE, 643, 1), (IC_SRC.PENDING, 646, 0)]
    s.tweedRuns 0 = true ∧ State.reset.tweedRuns 0 = false ∧ bestDue (s.due.filter fun y => s.forCore 0 y && y.prio < s.get IC_CORE_STATUS.RUNNING 0 && y.prio < 64) = some ⟨5, 646, 0⟩
      ∧ bestDue (s.due.filter fun y => s.forCore 0 y && y.prio < s.get IC_CORE_STATUS.RUNNING 0 && y.prio < 5) = none
      ∧ s.ctxStore.get ⟨0, 0⟩ [] = [] ∧ ctx.ctxStore.get ⟨0, 0⟩ [] = [{}] ∧ s.anyFor 0 = true ∧ State.reset.anyFor 0 = false
      ∧ 0 < group.get IC_GROUP_STATUS.COUNT (grpAt 0 255) ∧ max 1 (group.get IC_GROUP.COUNT_TH (grpAt 0 255)) ≤ group.get IC_GROUP_STATUS.COUNT (grpAt 0 255)
      ∧ sourceReserved 9 = true ∧ sourceReserved 8 = false ∧ sourceReserved 3888 = false ∧ sourceReserved 3889 = true
      ∧ s.pci.d3hot = false ∧ ({ s with pci := { s.pci with d3hot := true } } : State).pci.d3hot = true
      ∧ bestDue ((s.dueHost 0).filter fun y => !((s.vectorOf y).any fun v => s.flag HOST_MSIX_CTRL.MASK v)) = some ⟨4, 643, 0⟩
      ∧ bestDue (((s.put HOST_MSIX_CTRL.MASK 3 1).dueHost 0).filter fun y => !(((s.put HOST_MSIX_CTRL.MASK 3 1).vectorOf y).any fun v => (s.put HOST_MSIX_CTRL.MASK 3 1).flag HOST_MSIX_CTRL.MASK v)) = none
      ∧ s.flag IC_SRC.ACTIVE (srcAt 0 643) = false ∧ act.flag IC_SRC.ACTIVE (srcAt 0 643) = true ∧ act.flag IC_SRC.PENDING (srcAt 0 643) = true
      ∧ act.flag IC_SRC.ENABLE (srcAt 0 643) = true ∧ act.flag IC_SRC.IN_GROUP (srcAt 0 643) = false ∧ act.flag IC_SRC.HOST (srcAt 0 643) = true
      ∧ act.flag HOST_MSIX_CTRL.MASK (act.get IC_SRC.VECTOR (srcAt 0 643)) = false
      ∧ (fresh [(IC_SRC.ACTIVE, 643, 1), (IC_SRC.KIND, 643, 0)]).flag IC_SRC.KIND 643 = false
      ∧ (∀ e ∈ (fresh [(IC_SRC.ACTIVE, 643, 1), (IC_SRC.KIND, 643, 0)]).regs, e.1 ≠ IC_SRC.PENDING.at 643) := by decide +kernel

theorem witness_MeasurementIsKept :
    let s : State := { wovenDie with stats := [(⟨0, 2097151⟩, { dram := 3, delta := 4 })] }
    let t := s.put TIME_STATUS.VALID 0 1
    let at0 := fun (n : Nat) => t.puts [(SNAP_TIME_S.SECONDS, 0, n / 10 ^ 9), (SNAP_TIME_NS.NS, 0, n % 10 ^ 9)]
    let copying : State := { wovenDie with perf := [(⟨0, 0⟩, { copying := true })] }
    let ring := s.puts [(PERF_TRACE_CTRL.ENABLE_DS, 0, 1), (PERF_TRACE_CTRL.FILTER, 0, 1), (PERF_TRACE_CTRL.DOMAIN, 0, 7)]
    (s.statOf 0 2097151).delta ≠ 0 ∧ (s.statOf 0 0).delta = 0 ∧ s.timeValid = false ∧ t.timeValid = true
      ∧ (at0 (t.nowNs + 999999)).get SNAP_TIME_NS.NS 0 = t.nowNs + 999999 ∧ (at0 (t.nowNs + 10000000001)).get SNAP_TIME_S.SECONDS 0 * 10 ^ 9 + (at0 (t.nowNs + 10000000001)).get SNAP_TIME_NS.NS 0 = t.nowNs + 10000000001
      ∧ (∀ v, v < 4 → (t.put SNAP_CTRL.STATE 0 v).get SNAP_CTRL.STATE 0 = v) ∧ (s.diePresent 0 && !s.flag MEM_STATUS.SHUTDOWN 0) = true
      ∧ (s.diePresent 1 && !s.flag MEM_STATUS.SHUTDOWN 1) = false ∧ (copying.perfOf 0).copying = true ∧ (copying.perfOf 1).copying = false
      ∧ ring.flag PERF_TRACE_CTRL.FILTER 0 = true ∧ 8 ≠ ring.get PERF_TRACE_CTRL.DOMAIN 0 ∧ 7 = ring.get PERF_TRACE_CTRL.DOMAIN 0
      ∧ (ring.get PERF_TRACE_RING.PROD 0 + 1) % 2 ^ (ring.get PERF_TRACE_CTRL.SIZE_EXP 0 + 10) ≠ ring.get PERF_TRACE_RING.CONS 0
      ∧ ((ring.put PERF_TRACE_RING.CONS 0 1).get PERF_TRACE_RING.PROD 0 + 1) % 2 ^ (ring.get PERF_TRACE_CTRL.SIZE_EXP 0 + 10) = (ring.put PERF_TRACE_RING.CONS 0 1).get PERF_TRACE_RING.CONS 0
      ∧ (s.put PERF_BW_CTRL.ENABLE 0 1).flag PERF_BW_CTRL.ENABLE 0 = true ∧ (s.put PERF_BW_CTRL.ENABLE 0 0).flag PERF_BW_CTRL.ENABLE 0 = false := by decide +kernel

theorem witness_MeasurementIsKept_records :
    let s := wovenDie.put TWEED_STATUS.STATE 0 1
    let high := s.put TWEED_STATUS.OVERLOAD 0 1
    let c := (circuitReady.put CIRC.RUN_STATE 0 2)
    wovenDie.tweedRuns 0 = false ∧ s.tweedRuns 0 = true ∧ high.flag TWEED_STATUS.OVERLOAD 0 = true ∧ s.flag TWEED_STATUS.OVERLOAD 0 = false
      ∧ loaderLogs 3848 = true ∧ loaderLogs 2216 = false ∧ tweedLogs 2216 = true ∧ tweedLogs 0 = false ∧ loaderLogs 0 = false ∧ s.loader.fwLogged = false
      ∧ ({ s with loader := { s.loader with fwLogged := true } } : State).loader.fwLogged = true ∧ s.recordRefused 0 0x0020 0 32 = false
      ∧ (s.mramOf 0).writePage < (s.mramOf 0).pages.length ∧ 64 ≤ (s.mramOf 0).room (s.mramOf 0).writePage ∧ (s.tweedOf 0).logged < 64
      ∧ (({ s with tweed := [(⟨0, 0⟩, { logged := 64 })] } : State).tweedOf 0).logged = 64 ∧ c.circOn (circAt 0 0) = true ∧ s.circOn (circAt 0 0) = false
      ∧ lagLimit 0 < lagLimit 0 + 1 ∧ s.get PERF_LAG.LAG 0 ≤ lagLimit 0 := by decide +kernel

/-- Channel `c` of the host's DMA enabled, its ring of 16 with two descriptors written. -/
def dmaOn (c : Nat) (receive : Bool) : State :=
  wovenDie.puts [(HOST_DMA_CTRL.ENABLE, c, 1), (HOST_DMA_CTRL.DIRECTION, c, ofBool receive), (HOST_DMA_CTRL.RX_OMCI, c, 1), (HOST_DMA_CTRL.RX_OAM, c, 1),
    (HOST_DMA_CTRL.SIZE_EXP, c, 0), (HOST_DMA_PTR.TAIL, c, 2), (MEM_REGION.BASE, 2, 0), (MEM_REGION.STRIPES, 2, 1), (MEM_REGION.STRIPES, 4, 1), (MEM_REGION.BASE, 4, 1),
    (HOST_BAR2_WIN.VALID, 15, 1)]

/-- A descriptor of a KIND. -/
def descOf (kind length : Nat) : DmaDesc := { kind := kind, flags := 1, arg := 0, length := length, hostAddr := 4096, devAddr := 0 }

/-- The record of a request. -/
def recordOf (kind type : Nat) : List Nat := [kind] ++ List.replicate 31 0 ++ [type] ++ List.replicate 63 0

theorem witness_DescriptorsCompleteAndBar2Answers :
    let s := dmaOn 0 false
    let r := dmaOn 15 true
    let w := fun (j : DmaJob) => ({ r with dma := [(⟨15, 0⟩, [j])] } : State)
    let stage : State := { s with loader := { woven := 1, staging := some 1 } }
    s.mayFetch 0 1 = true ∧ State.reset.mayFetch 0 1 = false ∧ s.jobs 0 = [] ∧ r.mayFetch 15 3 = true ∧ r.takes 15 5 (descOf 5 2048) = true
      ∧ (∀ k, k < 5 → s.takes 0 k (descOf k 8) = true) ∧ s.takes 0 5 (descOf 5 2048) = false ∧ s.takes 0 1 (descOf 9 96) = false
      ∧ (∀ k, k < 7 → requestBad (recordOf k 1) = (k == 0)) ∧ flagsClear (leAt (recordOf 1 2) 32 64) = true ∧ flagsClear (leAt (recordOf 1 32) 32 64) = false
      ∧ requestBad (recordOf 7 1) = true ∧ s.flag SEC_LOCK.DAMASK 0 = false ∧ (s.put SEC_LOCK.DAMASK 0 1).flag SEC_LOCK.DAMASK 0 = true ∧ s.loader.staging = none
      ∧ stage.loader.staging ≠ none ∧ s.regionOf 0 0 = some 2 ∧ s.regionOf 0 32768 = some 4 ∧ s.regionOf 0 65536 = none ∧ hiddenRegion (some 2) = false
      ∧ hiddenRegion (some 4) = false ∧ hiddenRegion (some 5) = true ∧ (termIn 4).inOperation 0 5 = true ∧ (termIn 3).inOperation 0 5 = false
      ∧ s.dmaChannelFor false = none ∧ r.dmaChannelFor false = some 15 ∧ r.dmaChannelFor true = some 15 ∧ (r.jobs 15).find? (fun j => j.kind == 5 && j.done.isNone) = none
      ∧ ((w ⟨5, 1, 4096, 2048, none⟩).jobs 15).find? (fun j => j.kind == 5 && j.done.isNone) = some ⟨5, 1, 4096, 2048, none⟩
      ∧ ((w ⟨5, 1, 4096, 2048, none⟩).jobs 15)[0]? = some ⟨5, 1, 4096, 2048, none⟩ ∧ s.oam = []
      ∧ s.mayAsk (.task 0 0) = true ∧ s.mayAsk .debug = false ∧ s.bar2Place 0 = none ∧ s.bar2Place (15 * 2 ^ 28) = some (0, 0, 2) ∧ s.bar2Place (15 * 2 ^ 28 + 32768) = some (0, 32768, 4)
      ∧ s.bar2Place (15 * 2 ^ 28 + 65536) = none ∧ s.refused .host 1 0 false = false
      ∧ (∀ a, a < 3 → ∃ b, b < 2 ∧ s.refused (.task 0 0) 1 (a * 4096) true = (b == 1)) := by decide +kernel

theorem witness_ResetsStartUpAndPower :
    let s := State.reset
    let phase := fun (n : Nat) => s.put PKG_STATUS.PHASE 0 n
    let weaving : State := { (phase 7) with loader := { weave := 1 } }
    let done : State := { (phase 2).put DMK_STATUS.WEAVE_STATE 0 3 with loader := { woven := 1 } }
    let apart := (phase 4).puts [(PKG_DIE_CTRL.STATE, 0, 2), (PKG_DIE_CTRL.STATE, 1, 2)]
    let quick := s.puts ((List.range 8).map fun i => (SEG_SENTINEL.LAST, i, 1600))
    let late : State := { quick with power := [(⟨0, 0⟩, { missed := 99 })] }
    s.flag SEC_LOCK.DAMASK 0 = false ∧ (s.put SEC_LOCK.DAMASK 0 1).flag SEC_LOCK.DAMASK 0 = true ∧ s.heldInReset = false
      ∧ ({ s with supply := { thermtrip := true } } : State).heldInReset = true ∧ ({ s with ident := { s.ident with perstScope := true } } : State).ident.perstScope = true
      ∧ (∀ n, n < 8 → (phase n).get PKG_STATUS.PHASE 0 = n) ∧ (done.loader.weave = 0 ∧ done.get DMK_STATUS.WEAVE_STATE 0 ≠ 0)
      ∧ ((phase 2).loader.weave = 0 ∧ (phase 2).get DMK_STATUS.WEAVE_STATE 0 = 0) ∧ (phase 1).weaveChoice.1 = none ∧ (phase 4).linksOn = true ∧ apart.linksOn = false ∧ (phase 5).treesStarting = false
      ∧ ((phase 5).put DMK_TREE_STATE.STATE 0 1).treesStarting = true ∧ weaving.loader.weave ≠ 0 ∧ ((phase 7).loader.weave = 0 ∧ (phase 7).loader.woven = 0)
      ∧ s.lowestSentinel 0 < 1500 ∧ 1500 ≤ quick.lowestSentinel 0 ∧ quick.flag SEG_GOV_CTRL.FIXED 0 = false
      ∧ (quick.put SEG_GOV_CTRL.FIXED 0 1).flag SEG_GOV_CTRL.FIXED 0 = true ∧ min 100 ((quick.powerOf 0).missed + 1) < 100 ∧ 100 ≤ min 100 ((late.powerOf 0).missed + 1) := by decide +kernel

theorem witness_ResetsStartUpAndPower_heat :
    let s := wovenDie
    let off : State := { State.reset with power := [(⟨0, 0⟩, { tripHolds := true })] }
    let shuts := s.put PKG_DIE_CTRL.STATE 0 3
    let starts := s.put PKG_DIE_CTRL.STATE 0 1
    (∀ r ∈ ([359, -400] : List Int), r ≤ 359) ∧ s.powered 0 = true ∧ State.reset.powered 0 = false ∧ (State.reset.powerOf 0).tripHolds = false ∧ (off.powerOf 0).tripHolds = true
      ∧ off.powered 0 = false ∧ off.loader.weave = 0 ∧ 0 < off.dies ∧ s.flag SEG_GOV_STATUS.HOT 0 = false ∧ (s.put SEG_GOV_STATUS.HOT 0 1).flag SEG_GOV_STATUS.HOT 0 = true
      ∧ ((off.puts [(PKG_DIE_CTRL.ENABLE, 0, 1), (PKG_DIE_CTRL.AUTO_RESTART, 0, 1)]).flag PKG_DIE_CTRL.ENABLE 0
          && (off.puts [(PKG_DIE_CTRL.ENABLE, 0, 1), (PKG_DIE_CTRL.AUTO_RESTART, 0, 1)]).flag PKG_DIE_CTRL.AUTO_RESTART 0) = true
      ∧ s.unitState (.die 0) = 2 ∧ State.reset.unitState (.die 0) = 0 ∧ shuts.unitState (.die 0) = 3 ∧ shuts.unitsOf 0 = [] ∧ (treeIn 2).unitsOf 0 ≠ []
      ∧ s.loader.weave ≠ 1 ∧ s.loader.reweave = none ∧ s.latchOf (.die 0) = 0 ∧ starts.unitState (.die 0) = 1 ∧ starts.loader.woven ≠ 0 ∧ starts.loader.weave = 0 := by
  decide +kernel

end Sys2Proof.Machine
end

section
/-!
PROOFS. Accesses to BAR0 that reach no register (R9, R10), and what a read of a register may change (R13).
-/

namespace Sys2Proof.Machine

/-! ### Where an access reaches -/

section Reach

variable {s : State} {off size : Nat}

theorem reach_of_bad_size (h4 : size ≠ 4) (h8 : size ≠ 8) : s.reach off size = .unmapped := by
  simp [State.reach, h4, h8]

theorem reach_of_misaligned (h : off % size ≠ 0) : s.reach off size = .unmapped := by
  simp [State.reach, h]

theorem reach_of_absent_die (hw : 0x1000000 ≤ off) (hd : s.dies ≤ off / 0x1000000 - 1) : s.reach off size = .unmapped := by
  simp [State.reach, hw, hd]

/-- An access below the windows of the dies, or to the window of a die that is woven, is not held back by R383. -/
theorem awake_of_common_or_woven (hw : off < 0x1000000 ∨ s.isWoven (off / 0x1000000 - 1) = true) :
    (decide (0x1000000 ≤ off) && !s.isWoven (off / 0x1000000 - 1)) = false := by
  rcases hw with hw | hw
  · rw [decide_eq_false (Nat.not_le.2 hw), Bool.false_and]
  · rw [hw, Bool.not_true, Bool.and_false]

theorem reach_of_undecoded (hr : decodeReg (off / 8 * 8) = none) (hw : off < 0x1000000 ∨ s.isWoven (off / 0x1000000 - 1) = true) :
    s.reach off size = .unmapped := by
  simp [State.reach, hr, awake_of_common_or_woven hw]

theorem reach_of_absent_die_ctrl {k : Nat} (hr : decodeReg (off / 8 * 8) = some (PKG_DIE_CTRL.desc, k)) (hw : off < 0x1000000)
    (hk : s.dies ≤ k) : s.reach off size = .unmapped := by
  simp [State.reach, hr, awake_of_common_or_woven (.inl hw), hk]

end Reach

/-! ### What a register access selects -/

theorem decodeReg_mem {off k : Nat} {r : RegDesc} (h : decodeReg off = some (r, k)) : r ∈ allRegs := by
  unfold decodeReg at h
  dsimp only at h
  split at h
  all_goals
    obtain ⟨r', m, e⟩ := List.exists_of_findSome?_eq_some h
    split at e
    · cases e
    · obtain ⟨_, _, e⟩ := Option.map_eq_some_iff.1 e
      cases e
      exact m

/-- An access that selects a register is aligned to its size, and the register is one of the part's. -/
theorem reach_reg {s : State} {off size k : Nat} {r : RegDesc} (h : s.reach off size = .reg r k) : off % size = 0 ∧ r ∈ allRegs := by
  unfold State.reach at h
  split at h
  · cases h
  rename_i hs
  split at h
  · cases h
  split at h
  · cases h
  split at h
  · cases h
  rename_i hd
  split at h
  · cases h
  cases h
  have haligned : off % size = 0 := Decidable.byContradiction fun ha => hs (by
    rw [decide_eq_true ha, Bool.or_true, Bool.true_or])
  exact ⟨haligned, decodeReg_mem hd⟩

/-! ### Unmapped accesses -/

/-- What an unmapped access may change: the record of HOST_UNMAPPED and source 3,872 of every die (R9, Table 15.4). -/
def unmappedKeys (s : State) : List Key :=
  [HOST_UNMAPPED.COUNT.at 0, HOST_UNMAPPED.LAST_OFFSET.at 0, HOST_UNMAPPED.LAST_WRITE.at 0, HOST_UNMAPPED.LAST_BAR.at 0] ++ packageKeys s 3872

theorem noGroup_unmapped (s : State) : noGroup (unmappedKeys s) :=
  noGroup_append (noGroup_cons (by decide) (noGroup_cons (by decide) (noGroup_cons (by decide) (noGroup_cons (by decide) noGroup_nil))))
    (noGroup_package s 3872)

section Unmapped

variable (s : State) (off bar : Nat) (write : Bool)

theorem unmapped_changesOnly : changesOnly s (s.unmapped off bar write) (unmappedKeys s) := by
  have hPut := (changesOnly.refl s (unmappedKeys s)).put HOST_UNMAPPED.LAST_OFFSET 0 (if bar = 1 then off / 16 else off) (by simp [unmappedKeys])
  have hRecord := (hPut.putFlag HOST_UNMAPPED.LAST_WRITE 0 write (by simp [unmappedKeys])).put HOST_UNMAPPED.LAST_BAR 0 bar (by simp [unmappedKeys])
  exact (hRecord.addSat HOST_UNMAPPED.COUNT 0 1 (by simp [unmappedKeys])).raisePkg 3872 (noGroup_unmapped s)
    fun _ m => List.mem_append_right _ m

theorem unmapped_count : (s.unmapped off bar write).get HOST_UNMAPPED.COUNT 0 = satAdd 32 (s.get HOST_UNMAPPED.COUNT 0) 1 := by
  simp (disch := decide) only [State.unmapped, get_raisePkg, get_addSat, get_put_ne, get_putFlag_ne]
  rfl

theorem unmapped_lastOffset (h : off < 2 ^ 28) : (s.unmapped off 0 write).get HOST_UNMAPPED.LAST_OFFSET 0 = off := by
  simp (disch := decide) only [State.unmapped, get_raisePkg, get_addSat_ne, get_put_ne, get_putFlag_ne, get_put]
  exact Nat.mod_eq_of_lt h

theorem unmapped_lastWrite : (s.unmapped off bar write).flag HOST_UNMAPPED.LAST_WRITE 0 = write := by
  simp (disch := decide) only [State.unmapped, State.flag, get_raisePkg, get_addSat_ne, get_put_ne, get_putFlag]
  cases write <;> rfl

theorem unmapped_lastBar : (s.unmapped off bar write).get HOST_UNMAPPED.LAST_BAR 0 = bar % 2 := by
  simp (disch := decide) only [State.unmapped, get_raisePkg, get_addSat_ne, get_put]
  rfl

theorem unmapped_pending : pendingOnAll (s.unmapped off bar write) 3872 := State.raisePkg_pending _ 3872 (by decide)

end Unmapped

/-- All ones of a size fit in that size. -/
theorem noData_mod (size : Nat) : noData size % 256 ^ size = 256 ^ size - 1 :=
  Nat.mod_eq_of_lt (Nat.sub_lt (Nat.pow_pos (by decide)) Nat.one_pos)

/-- The state after an access that reaches no register: the event, and all ones for a read. -/
def State.afterUnmapped (off size : Nat) (write : Bool) (s : State) : State :=
  if write then s.unmapped off 0 write else (s.unmapped off 0 write).emit (.readData size (256 ^ size - 1))

theorem exec_unmappedAccess_of_unmapped {s : State} {who : Requester} {off size : Nat} (write : Bool) (hm : s.mayAsk who = true)
    (hr : s.reach off size = .unmapped) : exec (.unmappedAccess who off size write) s = .next (s.afterUnmapped off size write) := by
  rw [exec_unmappedAccess, execUnmappedAccess, hr]
  cases write <;> simp [hm, State.afterUnmapped, State.answer, noData_mod]

/-- What is sent changes no field: a field reads as it does after the event. -/
theorem afterUnmapped_get (s : State) (off size : Nat) (write : Bool) (f : Field) (i : Nat) :
    (s.afterUnmapped off size write).get f i = (s.unmapped off 0 write).get f i := by
  cases write <;> rfl

theorem afterUnmapped_pending (s : State) (off size : Nat) (write : Bool) : pendingOnAll (s.afterUnmapped off size write) 3872 := by
  cases write
  · exact pendingOnAll_emit (unmapped_pending s off 0 false)
  · exact unmapped_pending s off 0 true

theorem afterUnmapped_changesAndSends (s : State) (off size : Nat) (write : Bool) :
    changesAndSends s (s.afterUnmapped off size write) (unmappedKeys s) (if write then [] else [.readData size (256 ^ size - 1)]) := by
  cases write
  · exact (unmapped_changesOnly s off 0 false).sends _
  · exact (unmapped_changesOnly s off 0 true).sendsNothing

/-- Settles O10: each way to miss is one case of where an access reaches, and the event of a miss is the same for all. -/
theorem unmappedAccessReadsOnesAndIsCounted : Obligations.UnmappedAccessReadsOnesAndIsCounted := by
  intro s who off size write hm hoff hmiss
  have hr : s.reach off size = .unmapped := by
    rcases hmiss with ⟨h4, h8⟩ | hal | ⟨hw, hd⟩ | ⟨hnone, hw⟩ | ⟨hw, k, hk, hd⟩
    · exact reach_of_bad_size h4 h8
    · exact reach_of_misaligned hal
    · exact reach_of_absent_die hw hd
    · exact reach_of_undecoded hnone hw
    · exact reach_of_absent_die_ctrl hk hw hd
  refine ⟨_, exec_unmappedAccess_of_unmapped write hm hr, ?_, ?_, ?_, ?_, afterUnmapped_pending s off size write,
    afterUnmapped_changesAndSends s off size write⟩
  · rw [afterUnmapped_get, unmapped_count]
  · rw [afterUnmapped_get, unmapped_lastOffset s off write hoff]
  · rw [State.flag, afterUnmapped_get, ← State.flag, unmapped_lastWrite]
  · rw [afterUnmapped_get, unmapped_lastBar]

/-! ### The side effects of a read -/

/-- The RC fields among some fields of unit `k` cleared, one after another: the first half of a read's side effects. -/
def State.clearRC (fs : List Field) (k : Nat) (s : State) : State :=
  fs.foldl (fun (s : State) f => if f.acc = .rc then s.put f k 0 else s) s

theorem readEffect_eq (r : RegDesc) (k : Nat) (s : State) :
    s.readEffect r k =
      if r.base = TIME_NOW_LO.desc.base then (s.clearRC r.fields k).put TIME_NOW_HI.SECONDS 0 (s.clearRC r.fields k).netSec
      else s.clearRC r.fields k := rfl

theorem clearRC_cons (f : Field) (fs : List Field) (k : Nat) (s : State) :
    s.clearRC (f :: fs) k = (if f.acc = .rc then s.put f k 0 else s).clearRC fs k := rfl

/-- The keys of the RC fields among some fields of unit `k`. -/
def rcKeys (fs : List Field) (k : Nat) : List Key := (fs.filter fun f => f.acc = .rc).map fun f => f.at k

theorem mem_rcKeys {f : Field} {fs : List Field} (k : Nat) (hf : f ∈ fs) (hrc : f.acc = .rc) : f.at k ∈ rcKeys fs k :=
  List.mem_map_of_mem (List.mem_filter.2 ⟨hf, by simpa using hrc⟩)

theorem rcKeys_subset_cons (f : Field) (fs : List Field) (k : Nat) : ∀ x ∈ rcKeys fs k, x ∈ rcKeys (f :: fs) k :=
  (((List.sublist_cons_self f fs).filter _).map _).subset

theorem clearRC_changesOnly (fs : List Field) (k : Nat) (s : State) : changesOnly s (s.clearRC fs k) (rcKeys fs k) := by
  induction fs generalizing s with
  | nil => exact .refl s _
  | cons f fs ih =>
    rw [clearRC_cons]
    have hRest := (ih (if f.acc = .rc then s.put f k 0 else s)).mono (rcKeys_subset_cons f fs k)
    refine changesOnly.trans ?_ hRest
    split
    next hrc => exact (changesOnly.refl s _).put f k 0 (mem_rcKeys k (List.mem_cons_self ..) hrc)
    next => exact .refl s _

/-- A field that the image does not set and whose reset value is zero: unlisted, it reads as zero. -/
def Field.restsAtZero (f : Field) : Prop := f.perImage = false ∧ f.reset = 0

theorem get_put_zero {s : State} {f g : Field} (k : Nat) (hf : f.restsAtZero) (hg : g.restsAtZero) (h : s.get f k = 0) :
    (s.put g k 0).get f k = 0 := by
  obtain ⟨hfImage, hfReset⟩ := hf
  obtain ⟨hgImage, hgReset⟩ := hg
  by_cases e : f.num = g.num
  · simp [State.get, State.put, Field.unlisted, hfImage, hfReset, hgImage, hgReset, e]
  · rw [get_put_ne s k k 0 e hfImage, h]

section ClearRC

variable {fs : List Field} {f : Field} (k : Nat)

theorem clearRC_keeps_zero (hfs : ∀ g ∈ fs, g.acc = .rc → g.restsAtZero) (hf : f.restsAtZero) {s : State} (h : s.get f k = 0) :
    (s.clearRC fs k).get f k = 0 := by
  induction fs generalizing s with
  | nil => exact h
  | cons g fs ih =>
    rw [clearRC_cons]
    refine ih (fun x m => hfs x (List.mem_cons_of_mem _ m)) ?_
    split
    next hrc => exact get_put_zero k hf (hfs g (List.mem_cons_self ..) hrc) h
    next => exact h

theorem clearRC_get (hfs : ∀ g ∈ fs, g.acc = .rc → g.restsAtZero) (hf : f ∈ fs) (hrc : f.acc = .rc) (s : State) :
    (s.clearRC fs k).get f k = 0 := by
  induction fs generalizing s with
  | nil => cases hf
  | cons g fs ih =>
    have hrest : ∀ x ∈ fs, x.acc = .rc → x.restsAtZero := fun x m => hfs x (List.mem_cons_of_mem _ m)
    rw [clearRC_cons]
    rcases List.mem_cons.1 hf with rfl | hf
    · rw [if_pos hrc]
      exact clearRC_keeps_zero k hrest (hfs f (List.mem_cons_self ..) hrc) (by rw [get_put, Nat.zero_mod])
    · exact ih hrest hf _

end ClearRC

/-- Every RC field of the part rests at zero, and none is the latched seconds, so that clearing and latching do not meet. -/
theorem rc_fields : ∀ r ∈ allRegs, ∀ f ∈ r.fields, f.acc = .rc → f.restsAtZero ∧ f.num ≠ TIME_NOW_HI.SECONDS.num := by
  unfold Field.restsAtZero
  decide +kernel

theorem readEffect_get_rc {r : RegDesc} {f : Field} (hr : r ∈ allRegs) (hf : f ∈ r.fields) (hrc : f.acc = .rc) (k : Nat) (s : State) :
    (s.readEffect r k).get f k = 0 := by
  have hclear := clearRC_get k (fun g m e => (rc_fields r hr g m e).1) hf hrc s
  obtain ⟨⟨hplain, _⟩, hnum⟩ := rc_fields r hr f hf hrc
  rw [readEffect_eq]
  split
  · rw [get_put_ne _ _ _ _ hnum hplain, hclear]
  · exact hclear

theorem readEffect_latches {r : RegDesc} (h : r.base = TIME_NOW_LO.desc.base) (k : Nat) (s : State) :
    (s.readEffect r k).get TIME_NOW_HI.SECONDS 0 = s.netSec % 2 ^ 48 := by
  have hsec : (s.clearRC r.fields k).netSec = s.netSec := by rw [(clearRC_changesOnly r.fields k s).1]
  rw [readEffect_eq, if_pos h, get_put, hsec]
  rfl

theorem readEffect_changesOnly (r : RegDesc) (k : Nat) (s : State) :
    changesOnly s (s.readEffect r k) (rcKeys r.fields k ++ if r.base = TIME_NOW_LO.desc.base then [TIME_NOW_HI.SECONDS.at 0] else []) := by
  have hclear := clearRC_changesOnly r.fields k s
  rw [readEffect_eq]
  split
  · exact (hclear.mono fun _ m => List.mem_append_left _ m).put _ _ _ (by simp)
  · exact hclear.mono fun _ m => List.mem_append_left _ m

/-- A read of a register that is not turned away: the side effects where it is of 8 bytes, then the answer. -/
theorem exec_shadowRead_of_reg {s : State} {who : Requester} {off size k : Nat} {r : RegDesc} (hm : s.mayAsk who = true)
    (ht : s.turnedAway who r off false = none) (hr : s.reach off size = .reg r k) :
    exec (.shadowRead who off size) s =
      .next ((if size = 8 then s.readEffect r k else s).answer size (s.readReg r k / (if off % 8 = 0 then 1 else 2 ^ 32))) := by
  simp [execShadowRead, State.busRead, hm, hr, ht]

/-- Settles O11: an 8-byte read is the side effects and then the answer, a 4-byte read the answer alone. -/
theorem readSideEffectsOnlyOnEightByteReads : Obligations.ReadSideEffectsOnlyOnEightByteReads := by
  intro s who off r k hm ht
  constructor
  · intro hr
    obtain ⟨haligned, hmem⟩ := reach_reg hr
    refine ⟨_, exec_shadowRead_of_reg hm ht hr, ?_⟩
    rw [if_pos rfl, if_pos haligned, Nat.div_one]
    exact ⟨fun f hf hrc => readEffect_get_rc hmem hf hrc k s, fun hb => readEffect_latches hb k s, (readEffect_changesOnly r k s).sends _⟩
  · intro hr
    exact ⟨_, exec_shadowRead_of_reg hm ht hr, rfl⟩

end Sys2Proof.Machine
end
